-- ==== Sys2Proof/Word.lean ====
section
/-! DEFINITION. Words, bytes and the sparse table type that the state of the hub is written with. -/
namespace Sys2Proof

/-- A hub register word (R4). -/
abbrev Word := BitVec 32

/-- One byte of a payload or of an addressed memory. -/
abbrev Byte := BitVec 8

/-- A sparse table: keys strictly rising, at most one entry a key. -/
abbrev Map (α : Type) := List (Nat × α)

end Sys2Proof
end

