-- ==== Sys2Proof/Config.lean ====
section
/-! DEFINITION. What an implementation fixes and what the spec leaves open: constants without a body (nothing can
evaluate them) and the cryptographic functions that the spec takes from published standards. -/
namespace Sys2Proof.Config

/-- A value the spec leaves open, one for each index: the step reads and advances `State.free`. [DESIGN CHOICE 7 safe] -/
opaque freeValue : Nat → BitVec 64

/-- Silicon revision shown by HUB.IDENT: MAJOR in bits 7:4, MINOR in bits 3:0 (R1). -/
opaque revision : BitVec 8

/-- The cell number at which the buffer's allocator starts its search for a free cell (R129, R134: the spec states
the pools and leaves the choice of cell open). [DEDUCED 47 safe] -/
opaque allocStart : Nat → Nat

/-- The severity of an event-log entry (Table 18-4) for a code whose severity the spec does not state. [DESIGN CHOICE 157 safe] -/
opaque eventSeverity : Nat → Nat

/-- The AES-256 block cipher of FIPS 197 under a key (R408, R409): the spec takes it from the standard. [DESIGN CHOICE 8 safe] -/
opaque aes : BitVec 256 → BitVec 128 → BitVec 128

/-- The device root DEV, which differs for every die (R409). [DESIGN CHOICE 8 safe] -/
opaque devRoot : List Byte

/-- SHA-384 of a byte string. [DESIGN CHOICE 8 safe] -/
opaque sha384 : List Byte → List Byte

/-- Whether a signature over a digest verifies under a public key. [DESIGN CHOICE 8 safe] -/
opaque sigOk : List Byte → List Byte → List Byte → Bool

/-- The MAC address with which a host port sends: the spec states none (R90). [DESIGN CHOICE 197 unsafe] -/
opaque portMac : Nat → BitVec 48

/-- The two Jufina public keys in Mirik's ROM (R438): Qx then Qy, 96 bytes each. [DESIGN CHOICE 8 safe] -/
opaque jufinaKey : Nat → List Byte

end Sys2Proof.Config
end

