-- ==== Sys2Proof/Machine/Maps.lean ====
section
/-! DEFINITION. Operations on the sparse tables of the state, byte-order helpers and bit fields of numbers. -/
namespace Sys2Proof

namespace Tbl

/-- The entry of a key. -/
def find? {α : Type} : Map α → Nat → Option α
  | [], _ => none
  | (k, v) :: m, i => if k = i then some v else find? m i

/-- The entry of a key, or a value for an absent one. -/
def getD {α : Type} (m : Map α) (i : Nat) (d : α) : α := (find? m i).getD d

/-- Set the entry of a key, keeping the keys rising. -/
def put {α : Type} : Map α → Nat → α → Map α
  | [], i, v => [(i, v)]
  | (k, w) :: m, i, v =>
    if i < k then (i, v) :: (k, w) :: m else if i = k then (i, v) :: m else (k, w) :: put m i v

/-- Remove a key. -/
def erase {α : Type} (m : Map α) (i : Nat) : Map α := m.filter (fun p => p.1 ≠ i)

/-- Change the entry of a key where there is one. -/
def upd {α : Type} (m : Map α) (i : Nat) (f : α → α) : Map α :=
  m.map (fun p => if p.1 = i then (p.1, f p.2) else p)

/-- Whether a key has an entry. -/
def has {α : Type} (m : Map α) (i : Nat) : Bool := (find? m i).isSome

/-- The keys are strictly rising. -/
def Rising {α : Type} : Map α → Bool
  | [] => true
  | [_] => true
  | (a, _) :: (b, y) :: m => decide (a < b) && Rising ((b, y) :: m)

/-- The first number from `i` on, within `n` tries, that is no key. -/
def firstFree {α : Type} (m : Map α) (i : Nat) : Nat → Option Nat
  | 0 => none
  | n + 1 => if has m i then firstFree m (i + 1) n else some i

end Tbl

/-- A byte memory: addresses strictly rising, no entry zero, an unlisted address reads as zero (R214). -/
abbrev Mem := List Host.Cell

namespace Mem

/-- The byte at an address. [DESIGN CHOICE 11 unsafe] -/
def read (m : Mem) (a : Nat) : Byte := Tbl.getD m a 0

/-- Store a byte. -/
def write (m : Mem) (a : Nat) (v : Byte) : Mem := if v = 0 then Tbl.erase m a else Tbl.put m a v

/-- The n bytes from an address on. -/
def readN (m : Mem) (a n : Nat) : List Byte := (List.range n).map (fun k => read m (a + k))

/-- Store bytes from an address on. -/
def writeN : Mem → Nat → List Byte → Mem
  | m, _, [] => m
  | m, a, b :: l => writeN (write m a b) (a + 1) l

/-- Every byte of a range becomes zero. -/
def clear (m : Mem) (a n : Nat) : Mem := m.filter (fun p => !(decide (a ≤ p.1) && decide (p.1 < a + n)))

/-- The canonical form. -/
def wf (m : Mem) : Bool := Tbl.Rising m && m.all (fun p => decide (p.2 ≠ 0))

end Mem

/-- Bits hi:lo of a number. -/
def bits (n hi lo : Nat) : Nat := n / 2 ^ lo % 2 ^ (hi + 1 - lo)

/-- Bit i of a number, as a Boolean. -/
def bit (n i : Nat) : Bool := n / 2 ^ i % 2 = 1

/-- A Boolean as a number. -/
def b2n (b : Bool) : Nat := if b then 1 else 0

/-- Set or clear bit i of a number. -/
def setBit (n i : Nat) (v : Bool) : Nat := n - b2n (bit n i) * 2 ^ i + b2n v * 2 ^ i

/-- The numbers 0 to n − 1 whose bit is set in a mask. -/
def maskBits (mask n : Nat) : List Nat := (List.range n).filter (bit mask)

/-- A number as k bytes, most significant first (R5). -/
def be : Nat → Nat → List Byte
  | 0, _ => []
  | k + 1, n => BitVec.ofNat 8 (n / 256 ^ k) :: be k n

/-- Bytes, most significant first, as a number (R5). -/
def unbe (l : List Byte) : Nat := l.foldl (fun a b => a * 256 + b.toNat) 0

/-- A number as k bytes, least significant first (R4). -/
def le (k n : Nat) : List Byte := (be k n).reverse

/-- Bytes, least significant first, as a number (R4). -/
def unle (l : List Byte) : Nat := unbe l.reverse

/-- Bytes i to i + k − 1 of a byte string, zeros beyond its end. -/
def slice (l : List Byte) (i k : Nat) : List Byte := (List.range k).map (fun j => l.getD (i + j) 0)

/-- One byte into the CRC of R88. -/
def crcByte (c : Nat) (b : Byte) : Nat :=
  (List.range 8).foldl (fun c _ => if c % 2 = 1 then c / 2 ^^^ 0xEDB88320 else c / 2) (c ^^^ b.toNat)

/-- The CRC of IEEE 802.3 clause 3.2.9 (R88). -/
def crc32 (l : List Byte) : Nat := (l.foldl crcByte 0xFFFFFFFF) ^^^ 0xFFFFFFFF

/-- Big-endian number at byte i, k bytes wide. -/
def beAt (l : List Byte) (i k : Nat) : Nat := unbe (slice l i k)

/-- Write bytes into a byte string from position i on, without growing it. -/
def patch (l : List Byte) (i : Nat) (d : List Byte) : List Byte :=
  (l.take i ++ d ++ l.drop (i + d.length)).take l.length

/-- n zero bytes. -/
def zeros (n : Nat) : List Byte := List.replicate n 0

/-- The quotient rounded up. -/
def cdiv (a b : Nat) : Nat := (a + b - 1) / b

/-- The signed difference a − b of two n-bit counters, as an integer. -/
def sdiff (n a b : Nat) : Int :=
  let d := (a + 2 ^ n - b % 2 ^ n) % 2 ^ n
  if d < 2 ^ (n - 1) then (d : Int) else (d : Int) - 2 ^ n

/-- A number of n bits read in two's complement. -/
def sgn (n v : Nat) : Int := sdiff n v 0

/-- An integer as an n-bit two's complement number. -/
def unsgn (n : Nat) (i : Int) : Nat := (i % (2 ^ n : Int)).toNat

/-- An integer held between two bounds. -/
def clampI (lo hi i : Int) : Int := if i < lo then lo else if hi < i then hi else i

/-- A number held between two bounds. -/
def clampN (lo hi i : Nat) : Nat := max lo (min hi i)

/-- The last k elements of a list. -/
def lastN {α : Type} (k : Nat) (l : List α) : List α := l.drop (l.length - k)

/-- Replace element i of a list. -/
def setAt {α : Type} (l : List α) (i : Nat) (v : α) : List α := l.set i v

/-- Remove the first element equal to a given one. -/
def removeFirst {α : Type} [BEq α] (l : List α) (a : α) : List α := l.erase a

/-- A list without its first n elements that satisfy a test. -/
def dropFirst {α : Type} (p : α → Bool) : Nat → List α → List α
  | _, [] => []
  | 0, l => l
  | n + 1, a :: l => if p a then dropFirst p n l else a :: dropFirst p (n + 1) l

/-- The smallest element of a list of numbers. -/
def minOf : List Nat → Option Nat
  | [] => none
  | a :: l => match minOf l with
    | none => some a
    | some b => some (min a b)

end Sys2Proof
end

