-- ==== Sys2Proof/Machine/RegTable.lean ====
section
/-! DEFINITION. The register tables of the spec's chapters: every register of space 0x1 with its fields' bits, access
types (R7) and Reset column. A register shown through an index register names that register and its field. -/
namespace Sys2Proof.Machine

/-- The access types of Table 00-3. -/
inductive Acc where
  | rw | ro | w1c | w1s | rc | wo | rws | rwi
  deriving DecidableEq, Repr

/-- The three kinds of entry of a Reset column. -/
inductive Src where
  | val | img | live
  deriving DecidableEq, Repr

/-- One field of a register table. -/
structure RField where
  hi : Nat
  lo : Nat
  acc : Acc
  src : Src
  start : Nat
  deriving DecidableEq, Repr

/-- One register, or an array of alike registers: `n1` registers `s1` bytes apart in each of `n2` instances `s2` bytes apart;
`sel` is the index register that selects the entry shown (offset, high and low bit of the index), all zero for none. -/
structure RegRow where
  off : Nat
  n1 : Nat
  s1 : Nat
  n2 : Nat
  s2 : Nat
  sel : Nat × Nat × Nat
  fields : List RField
  deriving DecidableEq, Repr

/-- Registers of block HUB. -/
def regsHUB0 : List RegRow := [
  /- HUB.IDENT -/ ⟨0x0, 1, 0, 1, 0x0, (0, 0, 0), [⟨15, 0, .ro, .val, 0x9640⟩, ⟨19, 16, .ro, .live, 0x0⟩, ⟨23, 20, .ro, .live, 0x0⟩]⟩,
  /- HUB.NODE -/ ⟨0x4, 1, 0, 1, 0x0, (0, 0, 0), [⟨7, 0, .ro, .img, 0x0⟩, ⟨8, 8, .ro, .img, 0x0⟩, ⟨9, 9, .ro, .img, 0x0⟩, ⟨23, 16, .ro, .img, 0x0⟩, ⟨28, 24, .ro, .img, 0x0⟩]⟩,
  /- HUB.SCRATCH -/ ⟨0x8, 1, 0, 1, 0x0, (0, 0, 0), [⟨31, 0, .rws, .val, 0x0⟩]⟩,
  /- HUB.FABID0 -/ ⟨0xC, 1, 0, 1, 0x0, (0, 0, 0), [⟨31, 0, .ro, .img, 0x0⟩]⟩,
  /- HUB.FABID1 -/ ⟨0x10, 1, 0, 1, 0x0, (0, 0, 0), [⟨31, 0, .ro, .img, 0x0⟩]⟩,
  /- HUB.CTMO_IDX -/ ⟨0x14, 1, 0, 1, 0x0, (0, 0, 0), [⟨7, 0, .rw, .val, 0x0⟩]⟩,
  /- HUB.CTMO -/ ⟨0x18, 1, 0, 1, 0x0, (0x14, 7, 0), [⟨16, 0, .rwi, .img, 0x2710⟩]⟩,
  /- HUB.CNT_TAGEXH -/ ⟨0x20, 1, 0, 1, 0x0, (0, 0, 0), [⟨31, 0, .rc, .val, 0x0⟩]⟩,
  /- HUB.CNT_UNEXPCMP -/ ⟨0x24, 1, 0, 1, 0x0, (0, 0, 0), [⟨31, 0, .rc, .val, 0x0⟩]⟩,
  /- HUB.CNT_LATECMP -/ ⟨0x28, 1, 0, 1, 0x0, (0, 0, 0), [⟨31, 0, .rc, .val, 0x0⟩]⟩,
  /- HUB.CNT_NADROP -/ ⟨0x2C, 1, 0, 1, 0x0, (0, 0, 0), [⟨31, 0, .rc, .val, 0x0⟩]⟩]

/-- Registers of block RNG, part 1. -/
def regsRNG0 : List RegRow := [
  /- Lx_LCTL -/ ⟨0x10000, 1, 0, 2, 0x100, (0, 0, 0), [⟨0, 0, .rwi, .img, 0x0⟩, ⟨2, 1, .rw, .val, 0x0⟩, ⟨3, 3, .wo, .val, 0x0⟩, ⟨4, 4, .rw, .val, 0x0⟩]⟩,
  /- Lx_LSTAT -/ ⟨0x10004, 1, 0, 2, 0x100, (0, 0, 0), [⟨2, 0, .ro, .live, 0x0⟩, ⟨3, 3, .ro, .live, 0x0⟩, ⟨4, 4, .ro, .live, 0x0⟩, ⟨5, 5, .ro, .live, 0x0⟩, ⟨15, 8, .ro, .live, 0x0⟩, ⟨23, 16, .ro, .live, 0x0⟩, ⟨27, 24, .ro, .live, 0x0⟩]⟩,
  /- Lx_LQCFG -/ ⟨0x10008, 1, 0, 2, 0x100, (0, 0, 0), [⟨15, 0, .rwi, .img, 0x0⟩, ⟨31, 16, .rwi, .img, 0x0⟩]⟩,
  /- Lx_LQTIM -/ ⟨0x1000C, 1, 0, 2, 0x100, (0, 0, 0), [⟨3, 0, .rwi, .img, 0x3⟩, ⟨15, 4, .rwi, .img, 0x3E8⟩, ⟨19, 16, .rwi, .img, 0x4⟩]⟩,
  /- Lx_LQSCORE -/ ⟨0x10010, 1, 0, 2, 0x100, (0, 0, 0), [⟨15, 0, .ro, .live, 0x0⟩, ⟨31, 16, .rc, .val, 0x0⟩]⟩,
  /- Lx_CRD -/ ⟨0x10014, 1, 0, 2, 0x100, (0, 0, 0), [⟨7, 0, .ro, .live, 0x0⟩, ⟨15, 8, .ro, .live, 0x0⟩, ⟨23, 16, .ro, .live, 0x0⟩, ⟨31, 24, .ro, .live, 0x0⟩]⟩,
  /- Lx_HOPDLY -/ ⟨0x10018, 1, 0, 2, 0x100, (0, 0, 0), [⟨23, 0, .ro, .live, 0x0⟩]⟩,
  /- Lx_CNT_CRC -/ ⟨0x10020, 1, 0, 2, 0x100, (0, 0, 0), [⟨31, 0, .rc, .val, 0x0⟩]⟩,
  /- Lx_CNT_TAG -/ ⟨0x10024, 1, 0, 2, 0x100, (0, 0, 0), [⟨31, 0, .rc, .val, 0x0⟩]⟩,
  /- Lx_CNT_BADRX -/ ⟨0x10028, 1, 0, 2, 0x100, (0, 0, 0), [⟨31, 0, .rc, .val, 0x0⟩]⟩,
  /- Lx_CNT_BADTX -/ ⟨0x1002C, 1, 0, 2, 0x100, (0, 0, 0), [⟨31, 0, .rc, .val, 0x0⟩]⟩,
  /- Lx_CNT_SYNC -/ ⟨0x10030, 1, 0, 2, 0x100, (0, 0, 0), [⟨31, 0, .rc, .val, 0x0⟩]⟩,
  /- Lx_CNT_FAULT -/ ⟨0x10034, 1, 0, 2, 0x100, (0, 0, 0), [⟨31, 0, .rc, .val, 0x0⟩]⟩,
  /- Lx_CNT_STRAY -/ ⟨0x10038, 1, 0, 2, 0x100, (0, 0, 0), [⟨31, 0, .rc, .val, 0x0⟩]⟩,
  /- Lx_CNT_RMDROP -/ ⟨0x1003C, 1, 0, 2, 0x100, (0, 0, 0), [⟨31, 0, .rc, .val, 0x0⟩]⟩,
  /- Lx_CNT_SINGLE -/ ⟨0x10040, 1, 0, 2, 0x100, (0, 0, 0), [⟨31, 0, .rc, .val, 0x0⟩]⟩,
  /- RNG.RSTAT -/ ⟨0x10200, 1, 0, 1, 0x0, (0, 0, 0), [⟨0, 0, .ro, .live, 0x0⟩, ⟨1, 1, .ro, .live, 0x0⟩, ⟨2, 2, .ro, .live, 0x0⟩, ⟨15, 8, .ro, .live, 0x0⟩, ⟨23, 16, .ro, .live, 0x0⟩]⟩,
  /- RNG.INC -/ ⟨0x10204, 1, 0, 1, 0x0, (0, 0, 0), [⟨15, 0, .ro, .live, 0x0⟩]⟩,
  /- RNG.MEMB -/ ⟨0x10208, 1, 0, 1, 0x0, (0, 0, 0), [⟨15, 0, .ro, .live, 0x0⟩, ⟨25, 16, .ro, .live, 0x0⟩]⟩,
  /- RNG.HOLD -/ ⟨0x1020C, 1, 0, 1, 0x0, (0, 0, 0), [⟨15, 0, .rw, .val, 0xC8⟩, ⟨31, 16, .rwi, .img, 0xF⟩]⟩,
  /- RNG.ADMSTAT -/ ⟨0x10210, 1, 0, 1, 0x0, (0, 0, 0), [⟨2, 0, .ro, .val, 0x0⟩, ⟨31, 16, .rc, .val, 0x0⟩]⟩,
  /- RNG.ADM_EXH -/ ⟨0x10214, 1, 0, 1, 0x0, (0, 0, 0), [⟨31, 0, .rc, .val, 0x0⟩]⟩,
  /- RNG.CNT_MISADDR -/ ⟨0x10218, 1, 0, 1, 0x0, (0, 0, 0), [⟨31, 0, .rc, .val, 0x0⟩]⟩,
  /- RNG.CNT_DUP -/ ⟨0x1021C, 1, 0, 1, 0x0, (0, 0, 0), [⟨31, 0, .rc, .val, 0x0⟩]⟩]

/-- Registers of block RNG, part 2. -/
def regsRNG1 : List RegRow := [
  /- RNG.CNT_GAP -/ ⟨0x10220, 1, 0, 1, 0x0, (0, 0, 0), [⟨31, 0, .rc, .val, 0x0⟩]⟩,
  /- RNG.CNT_HOPLIM -/ ⟨0x10224, 1, 0, 1, 0x0, (0, 0, 0), [⟨31, 0, .rc, .val, 0x0⟩]⟩,
  /- RNG.CNT_STREXH -/ ⟨0x10228, 1, 0, 1, 0x0, (0, 0, 0), [⟨31, 0, .rc, .val, 0x0⟩]⟩,
  /- RNG.CNT_RETURNED -/ ⟨0x1022C, 1, 0, 1, 0x0, (0, 0, 0), [⟨31, 0, .rc, .val, 0x0⟩]⟩,
  /- RNG.CNT_RESETDISC -/ ⟨0x10230, 1, 0, 1, 0x0, (0, 0, 0), [⟨31, 0, .rc, .val, 0x0⟩]⟩,
  /- RNG.BYP_CTL -/ ⟨0x10240, 1, 0, 1, 0x0, (0, 0, 0), [⟨0, 0, .rw, .val, 0x0⟩, ⟨1, 1, .ro, .live, 0x0⟩, ⟨2, 2, .w1c, .val, 0x0⟩, ⟨11, 4, .rwi, .img, 0xA⟩]⟩]

/-- Registers of block SWC, part 1. -/
def regsSWC0 : List RegRow := [
  /- SWC.PLAN -/ ⟨0x20000, 1, 0, 1, 0x0, (0, 0, 0), [⟨0, 0, .rwi, .img, 0x0⟩]⟩,
  /- SWC.FREE -/ ⟨0x20004, 1, 0, 1, 0x0, (0, 0, 0), [⟨16, 0, .ro, .live, 0x0⟩, ⟨26, 17, .ro, .live, 0x0⟩]⟩,
  /- SWC.ALPHA0 -/ ⟨0x20008, 1, 0, 1, 0x0, (0, 0, 0), [⟨3, 0, .rwi, .img, 0x6⟩, ⟨7, 4, .rwi, .img, 0x6⟩, ⟨11, 8, .rwi, .img, 0x6⟩, ⟨15, 12, .rwi, .img, 0x6⟩, ⟨19, 16, .rwi, .img, 0x5⟩, ⟨23, 20, .rwi, .img, 0x5⟩, ⟨27, 24, .rwi, .img, 0x5⟩, ⟨31, 28, .rwi, .img, 0x5⟩]⟩,
  /- SWC.ALPHA1 -/ ⟨0x2000C, 1, 0, 1, 0x0, (0, 0, 0), [⟨3, 0, .rwi, .img, 0x4⟩, ⟨7, 4, .rwi, .img, 0x4⟩, ⟨11, 8, .rwi, .img, 0x4⟩, ⟨15, 12, .rwi, .img, 0x4⟩, ⟨19, 16, .rwi, .img, 0x2⟩, ⟨23, 20, .rwi, .img, 0x2⟩, ⟨27, 24, .rwi, .img, 0x2⟩, ⟨31, 28, .rwi, .img, 0x2⟩]⟩,
  /- SWC.QLIM -/ ⟨0x20010, 1, 0, 1, 0x0, (0, 0, 0), [⟨7, 0, .rwi, .img, 0x0⟩, ⟨15, 8, .rwi, .img, 0x0⟩, ⟨23, 16, .rwi, .img, 0x0⟩, ⟨31, 24, .rwi, .img, 0x0⟩]⟩,
  /- SWC.Q_IDX -/ ⟨0x20014, 1, 0, 1, 0x0, (0, 0, 0), [⟨7, 0, .rw, .val, 0x0⟩]⟩,
  /- SWC.Q_STAT -/ ⟨0x20018, 1, 0, 1, 0x0, (0x20014, 7, 0), [⟨16, 0, .ro, .live, 0x0⟩, ⟨27, 17, .ro, .live, 0x0⟩]⟩,
  /- SWC.MCG_IDX -/ ⟨0x2001C, 1, 0, 1, 0x0, (0, 0, 0), [⟨11, 0, .rw, .val, 0x0⟩]⟩,
  /- SWC.MCG_DATA -/ ⟨0x20020, 1, 0, 1, 0x0, (0x2001C, 11, 0), [⟨11, 2, .rwi, .img, 0x0⟩, ⟨12, 12, .rwi, .img, 0x0⟩, ⟨13, 13, .rwi, .img, 0x0⟩]⟩,
  /- SWC.CNT_AONREF -/ ⟨0x20024, 1, 0, 1, 0x0, (0, 0, 0), [⟨31, 0, .rc, .val, 0x0⟩]⟩,
  /- SWC.CNT_CORR -/ ⟨0x20028, 1, 0, 1, 0x0, (0, 0, 0), [⟨31, 0, .rc, .val, 0x0⟩]⟩,
  /- SWC.CNT_UNCORR -/ ⟨0x2002C, 1, 0, 1, 0x0, (0, 0, 0), [⟨31, 0, .rc, .val, 0x0⟩]⟩,
  /- SWC.CNT_ZERO -/ ⟨0x20030, 1, 0, 1, 0x0, (0, 0, 0), [⟨31, 0, .rc, .val, 0x0⟩]⟩,
  /- SWC.CNT_RESETDISC -/ ⟨0x20034, 1, 0, 1, 0x0, (0, 0, 0), [⟨31, 0, .rc, .val, 0x0⟩]⟩,
  /- SWC.ECC_LAST -/ ⟨0x20038, 1, 0, 1, 0x0, (0, 0, 0), [⟨15, 0, .ro, .val, 0x0⟩, ⟨16, 16, .w1c, .val, 0x0⟩]⟩,
  /- SWC.SMP_CFG -/ ⟨0x20040, 1, 0, 1, 0x0, (0, 0, 0), [⟨15, 0, .rw, .val, 0x0⟩]⟩,
  /- SWC.SMP_SEL -/ ⟨0x20044, 1, 0, 1, 0x0, (0, 0, 0), [⟨11, 0, .rw, .val, 0x0⟩, ⟨27, 12, .rw, .val, 0x0⟩]⟩,
  /- SWC.SMP_CNT -/ ⟨0x20048, 1, 0, 1, 0x0, (0, 0, 0), [⟨31, 0, .rc, .val, 0x0⟩]⟩,
  /- SWC.SMP_DROP -/ ⟨0x2004C, 1, 0, 1, 0x0, (0, 0, 0), [⟨31, 0, .rc, .val, 0x0⟩]⟩,
  /- SWC.CAP_CFG -/ ⟨0x20080, 1, 0, 1, 0x0, (0, 0, 0), [⟨0, 0, .rw, .val, 0x0⟩, ⟨1, 1, .rw, .val, 0x0⟩, ⟨2, 2, .rw, .val, 0x0⟩, ⟨14, 3, .rw, .val, 0x0⟩, ⟨15, 15, .wo, .val, 0x0⟩]⟩,
  /- SWC.CAP_FILT -/ ⟨0x20084, 1, 0, 1, 0x0, (0, 0, 0), [⟨11, 0, .rw, .val, 0x0⟩, ⟨13, 12, .rw, .val, 0x0⟩, ⟨20, 14, .rw, .val, 0x0⟩, ⟨27, 21, .rw, .val, 0x0⟩]⟩,
  /- SWC.CAP_MATCH -/ ⟨0x20088, 1, 0, 1, 0x0, (0, 0, 0), [⟨3, 0, .rw, .val, 0x0⟩, ⟨7, 4, .rw, .val, 0x0⟩, ⟨15, 8, .rw, .val, 0x0⟩, ⟨23, 16, .rw, .val, 0x0⟩]⟩,
  /- SWC.CAP_MASK -/ ⟨0x2008C, 1, 0, 1, 0x0, (0, 0, 0), [⟨3, 0, .rw, .val, 0x0⟩, ⟨7, 4, .rw, .val, 0x0⟩, ⟨15, 8, .rw, .val, 0x0⟩, ⟨23, 16, .rw, .val, 0x0⟩]⟩,
  /- SWC.CAP_STAT -/ ⟨0x20090, 1, 0, 1, 0x0, (0, 0, 0), [⟨12, 0, .ro, .live, 0x0⟩, ⟨13, 13, .ro, .live, 0x0⟩, ⟨14, 14, .ro, .live, 0x0⟩, ⟨15, 15, .ro, .live, 0x0⟩, ⟨31, 16, .rc, .val, 0x0⟩]⟩]

/-- Registers of block SWC, part 2. -/
def regsSWC1 : List RegRow := [
  /- SWC.CAP_IDX -/ ⟨0x20094, 1, 0, 1, 0x0, (0, 0, 0), [⟨11, 0, .rw, .val, 0x0⟩]⟩,
  /- SWC.CAP_PTR -/ ⟨0x20098, 1, 0, 1, 0x0, (0, 0, 0), [⟨11, 0, .ro, .live, 0x0⟩, ⟨27, 16, .ro, .live, 0x0⟩]⟩,
  /- SWC.LQ_IDX -/ ⟨0x200A0, 1, 0, 1, 0x0, (0, 0, 0), [⟨5, 0, .rw, .val, 0x0⟩]⟩,
  /- SWC.LQ_CFG -/ ⟨0x200A4, 1, 0, 1, 0x0, (0x200A0, 5, 0), [⟨3, 0, .rwi, .img, 0x0⟩, ⟨5, 4, .rwi, .img, 0x0⟩]⟩,
  /- SWC.CAP_DATA -/ ⟨0x200C0, 16, 4, 1, 0x0, (0, 0, 0), [⟨31, 0, .ro, .live, 0x0⟩]⟩,
  /- SWn_CRD -/ ⟨0x20100, 1, 0, 12, 0x40, (0, 0, 0), [⟨7, 0, .ro, .live, 0x0⟩, ⟨15, 8, .ro, .live, 0x0⟩, ⟨23, 16, .ro, .live, 0x0⟩, ⟨31, 24, .ro, .live, 0x0⟩]⟩,
  /- SWn_CNT_ADMDROP -/ ⟨0x20104, 1, 0, 12, 0x40, (0, 0, 0), [⟨31, 0, .rc, .val, 0x0⟩]⟩,
  /- SWn_CNT_MCREF -/ ⟨0x20108, 1, 0, 12, 0x40, (0, 0, 0), [⟨31, 0, .rc, .val, 0x0⟩]⟩,
  /- SWn_CNT_BADEND -/ ⟨0x2010C, 1, 0, 12, 0x40, (0, 0, 0), [⟨31, 0, .rc, .val, 0x0⟩]⟩,
  /- SWn_CNT_FILL -/ ⟨0x20110, 1, 0, 12, 0x40, (0, 0, 0), [⟨31, 0, .rc, .val, 0x0⟩]⟩,
  /- SWn_CNT_CUT -/ ⟨0x20114, 1, 0, 12, 0x40, (0, 0, 0), [⟨31, 0, .rc, .val, 0x0⟩]⟩,
  /- SWn_CNT_RESETDISC -/ ⟨0x20118, 1, 0, 12, 0x40, (0, 0, 0), [⟨31, 0, .rc, .val, 0x0⟩]⟩,
  /- PKnn_CFG -/ ⟨0x21000, 1, 0, 64, 0x20, (0, 0, 0), [⟨0, 0, .rwi, .img, 0x0⟩, ⟨2, 1, .rwi, .img, 0x0⟩, ⟨6, 3, .rwi, .img, 0x0⟩, ⟨18, 8, .rwi, .img, 0x0⟩, ⟨24, 19, .rwi, .img, 0x0⟩, ⟨25, 25, .wo, .val, 0x0⟩]⟩,
  /- PKnn_DSTHI -/ ⟨0x21004, 1, 0, 64, 0x20, (0, 0, 0), [⟨15, 0, .rwi, .img, 0x0⟩]⟩,
  /- PKnn_DSTLO -/ ⟨0x21008, 1, 0, 64, 0x20, (0, 0, 0), [⟨31, 0, .rwi, .img, 0x0⟩]⟩,
  /- PKnn_PTR -/ ⟨0x2100C, 1, 0, 64, 0x20, (0, 0, 0), [⟨6, 0, .ro, .live, 0x0⟩, ⟨14, 8, .ro, .live, 0x0⟩, ⟨22, 16, .ro, .live, 0x0⟩]⟩,
  /- PKnn_STAT -/ ⟨0x21010, 1, 0, 64, 0x20, (0, 0, 0), [⟨15, 0, .rc, .val, 0x0⟩, ⟨23, 16, .rc, .val, 0x0⟩, ⟨31, 24, .rc, .val, 0x0⟩]⟩]

/-- Registers of block TMQ. -/
def regsTMQ0 : List RegRow := [
  /- TMQ.RANK0 -/ ⟨0x30000, 1, 0, 1, 0x0, (0, 0, 0), [⟨3, 0, .rwi, .img, 0xE⟩, ⟨7, 4, .rwi, .img, 0xD⟩, ⟨11, 8, .rwi, .img, 0xC⟩, ⟨15, 12, .rwi, .img, 0xB⟩, ⟨19, 16, .rwi, .img, 0x9⟩, ⟨23, 20, .rwi, .img, 0x8⟩, ⟨27, 24, .rwi, .img, 0x7⟩, ⟨31, 28, .rwi, .img, 0x6⟩]⟩,
  /- TMQ.RANK1 -/ ⟨0x30004, 1, 0, 1, 0x0, (0, 0, 0), [⟨3, 0, .rwi, .img, 0x5⟩, ⟨7, 4, .rwi, .img, 0x4⟩, ⟨11, 8, .rwi, .img, 0x3⟩, ⟨15, 12, .rwi, .img, 0x3⟩, ⟨19, 16, .rwi, .img, 0x2⟩, ⟨23, 20, .rwi, .img, 0x2⟩, ⟨27, 24, .rwi, .img, 0x1⟩, ⟨31, 28, .rwi, .img, 0x1⟩]⟩,
  /- TMQ.SHP_IDX -/ ⟨0x30010, 1, 0, 1, 0x0, (0, 0, 0), [⟨7, 0, .rw, .val, 0x0⟩]⟩,
  /- TMQ.SHP_CFG -/ ⟨0x30014, 1, 0, 1, 0x0, (0x30010, 7, 0), [⟨19, 0, .rwi, .img, 0x0⟩, ⟨21, 20, .rwi, .img, 0x0⟩]⟩,
  /- TMQ.SHP_GUST -/ ⟨0x30018, 1, 0, 1, 0x0, (0x30010, 7, 0), [⟨15, 0, .rwi, .img, 0x0⟩]⟩,
  /- TMQ.SHP_CRED -/ ⟨0x3001C, 1, 0, 1, 0x0, (0x30010, 7, 0), [⟨31, 0, .ro, .live, 0x0⟩]⟩,
  /- TMQ.POL_IDX -/ ⟨0x30020, 1, 0, 1, 0x0, (0, 0, 0), [⟨9, 0, .rw, .val, 0x0⟩]⟩,
  /- TMQ.POL_CFG -/ ⟨0x30024, 1, 0, 1, 0x0, (0x30020, 9, 0), [⟨19, 0, .rw, .img, 0x0⟩, ⟨20, 20, .rw, .img, 0x0⟩, ⟨21, 21, .ro, .live, 0x0⟩, ⟨22, 22, .ro, .live, 0x0⟩]⟩,
  /- TMQ.POL_BURST -/ ⟨0x30028, 1, 0, 1, 0x0, (0x30020, 9, 0), [⟨19, 0, .rw, .img, 0x0⟩]⟩,
  /- TMQ.POL_CRED -/ ⟨0x3002C, 1, 0, 1, 0x0, (0x30020, 9, 0), [⟨27, 0, .ro, .live, 0x0⟩]⟩,
  /- TMQ.POL_PASS -/ ⟨0x30030, 1, 0, 1, 0x0, (0x30020, 9, 0), [⟨31, 0, .rc, .val, 0x0⟩]⟩,
  /- TMQ.POL_DROP -/ ⟨0x30034, 1, 0, 1, 0x0, (0x30020, 9, 0), [⟨31, 0, .rc, .val, 0x0⟩]⟩,
  /- TMQ.PMAP_IDX -/ ⟨0x30040, 1, 0, 1, 0x0, (0, 0, 0), [⟨9, 0, .rw, .val, 0x0⟩]⟩,
  /- TMQ.PMAP_DATA -/ ⟨0x30044, 1, 0, 1, 0x0, (0x30040, 9, 0), [⟨9, 0, .ro, .img, 0x0⟩, ⟨10, 10, .ro, .img, 0x0⟩]⟩,
  /- TMQ.POL_CMD -/ ⟨0x30048, 1, 0, 1, 0x0, (0, 0, 0), [⟨1, 0, .wo, .val, 0x0⟩, ⟨11, 2, .wo, .val, 0x0⟩]⟩,
  /- TMQ.POL_RES -/ ⟨0x3004C, 1, 0, 1, 0x0, (0, 0, 0), [⟨9, 0, .ro, .val, 0x0⟩, ⟨12, 10, .ro, .val, 0x0⟩]⟩,
  /- TMQ.CNT_EXH -/ ⟨0x30050, 1, 0, 1, 0x0, (0, 0, 0), [⟨31, 0, .rc, .val, 0x0⟩]⟩]

/-- Registers of block EPO, part 1. -/
def regsEPO0 : List RegRow := [
  /- EPO.STAT -/ ⟨0x40000, 1, 0, 1, 0x0, (0, 0, 0), [⟨16, 0, .ro, .img, 0x0⟩, ⟨17, 17, .ro, .live, 0x0⟩]⟩,
  /- EPO.PUBCFG -/ ⟨0x40004, 1, 0, 1, 0x0, (0, 0, 0), [⟨9, 0, .rwi, .img, 0x0⟩]⟩,
  /- EPO.DESC_IDX -/ ⟨0x40008, 1, 0, 1, 0x0, (0, 0, 0), [⟨15, 0, .rw, .val, 0x0⟩]⟩,
  /- EPO.DESC_DATA -/ ⟨0x4000C, 1, 0, 1, 0x0, (0x40008, 15, 0), [⟨2, 0, .ro, .img, 0x0⟩, ⟨3, 3, .ro, .img, 0x0⟩, ⟨4, 4, .ro, .img, 0x0⟩, ⟨8, 5, .ro, .img, 0x0⟩, ⟨9, 9, .ro, .img, 0x0⟩, ⟨31, 20, .ro, .img, 0x0⟩]⟩,
  /- EPO.DESC_SRC -/ ⟨0x40010, 1, 0, 1, 0x0, (0x40008, 15, 0), [⟨23, 0, .ro, .img, 0x0⟩]⟩,
  /- EPO.PRULE_IDX -/ ⟨0x40014, 1, 0, 1, 0x0, (0, 0, 0), [⟨11, 0, .rw, .val, 0x0⟩]⟩,
  /- EPO.PRULE_CFG -/ ⟨0x40018, 1, 0, 1, 0x0, (0x40014, 11, 0), [⟨2, 0, .rwi, .img, 0x0⟩, ⟨31, 16, .rwi, .img, 0x0⟩]⟩,
  /- EPO.PRULE_TIM -/ ⟨0x4001C, 1, 0, 1, 0x0, (0x40014, 11, 0), [⟨15, 0, .rwi, .img, 0x0⟩, ⟨31, 16, .rwi, .img, 0x0⟩]⟩,
  /- EPO.PRULE_DBHI -/ ⟨0x40020, 1, 0, 1, 0x0, (0x40014, 11, 0), [⟨31, 0, .rwi, .img, 0x0⟩]⟩,
  /- EPO.PRULE_DBLO -/ ⟨0x40024, 1, 0, 1, 0x0, (0x40014, 11, 0), [⟨31, 0, .rwi, .img, 0x0⟩]⟩,
  /- EPO.HOLD_IDX -/ ⟨0x40028, 1, 0, 1, 0x0, (0, 0, 0), [⟨11, 0, .rw, .val, 0x0⟩]⟩,
  /- EPO.HOLD_OBJ -/ ⟨0x4002C, 1, 0, 1, 0x0, (0x40028, 11, 0), [⟨15, 0, .ro, .img, 0x0⟩, ⟨16, 16, .ro, .live, 0x0⟩]⟩,
  /- EPO.HOLD_REQHI -/ ⟨0x40030, 1, 0, 1, 0x0, (0x40028, 11, 0), [⟨31, 0, .ro, .live, 0x0⟩]⟩,
  /- EPO.HOLD_REQLO -/ ⟨0x40034, 1, 0, 1, 0x0, (0x40028, 11, 0), [⟨31, 0, .ro, .live, 0x0⟩]⟩,
  /- EPO.CMD_LOCK -/ ⟨0x40040, 1, 0, 1, 0x0, (0, 0, 0), [⟨0, 0, .ro, .live, 0x0⟩, ⟨15, 8, .ro, .live, 0x0⟩, ⟨23, 16, .ro, .live, 0x0⟩]⟩,
  /- EPO.CMD_ARG0 -/ ⟨0x40044, 1, 0, 1, 0x0, (0, 0, 0), [⟨15, 0, .rw, .val, 0x0⟩, ⟨24, 16, .rw, .val, 0x0⟩, ⟨28, 25, .rw, .val, 0x4⟩, ⟨29, 29, .rw, .val, 0x0⟩, ⟨30, 30, .rw, .val, 0x0⟩]⟩,
  /- EPO.CMD_ARG1 -/ ⟨0x40048, 1, 0, 1, 0x0, (0, 0, 0), [⟨11, 0, .rw, .val, 0x0⟩, ⟨19, 12, .rw, .val, 0x0⟩, ⟨20, 20, .rw, .val, 0x0⟩, ⟨23, 21, .rw, .val, 0x0⟩]⟩,
  /- EPO.CMD_ARG2 -/ ⟨0x4004C, 1, 0, 1, 0x0, (0, 0, 0), [⟨31, 0, .rw, .val, 0x0⟩]⟩,
  /- EPO.CMD_ARG3 -/ ⟨0x40050, 1, 0, 1, 0x0, (0, 0, 0), [⟨31, 0, .rw, .val, 0x0⟩]⟩,
  /- EPO.CMD_ARG4 -/ ⟨0x40054, 1, 0, 1, 0x0, (0, 0, 0), [⟨15, 0, .rw, .val, 0x0⟩]⟩,
  /- EPO.CMD -/ ⟨0x40058, 1, 0, 1, 0x0, (0, 0, 0), [⟨2, 0, .wo, .val, 0x0⟩, ⟨16, 3, .wo, .val, 0x0⟩]⟩,
  /- EPO.CMD_RES -/ ⟨0x4005C, 1, 0, 1, 0x0, (0, 0, 0), [⟨13, 0, .ro, .val, 0x0⟩, ⟨18, 16, .ro, .val, 0x0⟩]⟩,
  /- EPO.SUB_USED -/ ⟨0x40060, 1, 0, 1, 0x0, (0, 0, 0), [⟨14, 0, .ro, .live, 0x0⟩, ⟨30, 16, .ro, .img, 0x0⟩]⟩,
  /- EPO.SNAP_STAT -/ ⟨0x40064, 1, 0, 1, 0x0, (0, 0, 0), [⟨3, 0, .ro, .live, 0x0⟩, ⟨7, 4, .ro, .live, 0x0⟩, ⟨11, 8, .ro, .live, 0x0⟩, ⟨15, 12, .ro, .live, 0x0⟩, ⟨19, 16, .ro, .live, 0x0⟩, ⟨23, 20, .ro, .live, 0x0⟩, ⟨27, 24, .ro, .live, 0x0⟩, ⟨31, 28, .ro, .live, 0x0⟩]⟩]

/-- Registers of block EPO, part 2. -/
def regsEPO1 : List RegRow := [
  /- EPO.CNT_SUBEXH -/ ⟨0x40070, 1, 0, 1, 0x0, (0, 0, 0), [⟨31, 0, .rc, .val, 0x0⟩]⟩,
  /- EPO.CNT_SNAPEXH -/ ⟨0x40074, 1, 0, 1, 0x0, (0, 0, 0), [⟨31, 0, .rc, .val, 0x0⟩]⟩,
  /- EPO.CNT_BADDISC -/ ⟨0x40078, 1, 0, 1, 0x0, (0, 0, 0), [⟨31, 0, .rc, .val, 0x0⟩]⟩,
  /- EPO.CNT_MIRSTALE -/ ⟨0x4007C, 1, 0, 1, 0x0, (0, 0, 0), [⟨31, 0, .rc, .val, 0x0⟩]⟩,
  /- EPO.CNT_CORR -/ ⟨0x40080, 1, 0, 1, 0x0, (0, 0, 0), [⟨31, 0, .rc, .val, 0x0⟩]⟩,
  /- EPO.CNT_UNCORR -/ ⟨0x40084, 1, 0, 1, 0x0, (0, 0, 0), [⟨31, 0, .rc, .val, 0x0⟩]⟩,
  /- EPO.CNT_PUBFRM -/ ⟨0x40088, 1, 0, 1, 0x0, (0, 0, 0), [⟨31, 0, .rc, .val, 0x0⟩]⟩,
  /- EPO.ECC_LAST -/ ⟨0x4008C, 1, 0, 1, 0x0, (0, 0, 0), [⟨15, 0, .ro, .val, 0x0⟩, ⟨16, 16, .w1c, .val, 0x0⟩]⟩,
  /- EPO.CRD -/ ⟨0x40090, 1, 0, 1, 0x0, (0, 0, 0), [⟨7, 0, .ro, .live, 0x0⟩, ⟨15, 8, .ro, .live, 0x0⟩]⟩,
  /- EPO.CNT_BCEXH -/ ⟨0x40094, 1, 0, 1, 0x0, (0, 0, 0), [⟨31, 0, .rc, .val, 0x0⟩]⟩,
  /- EPO.BULK -/ ⟨0x40098, 1, 0, 1, 0x0, (0, 0, 0), [⟨6, 0, .ro, .img, 0x0⟩, ⟨21, 7, .ro, .img, 0x0⟩, ⟨24, 22, .ro, .live, 0x0⟩]⟩]

/-- Registers of block FPN, part 1. -/
def regsFPN0 : List RegRow := [
  /- FPN.BANK_CFG -/ ⟨0x50000, 8, 4, 1, 0x0, (0, 0, 0), [⟨0, 0, .rwi, .img, 0x0⟩, ⟨1, 1, .rwi, .img, 0x0⟩, ⟨2, 2, .ro, .live, 0x0⟩, ⟨3, 3, .w1c, .val, 0x0⟩]⟩,
  /- FPN.IN -/ ⟨0x50020, 8, 4, 1, 0x0, (0, 0, 0), [⟨31, 0, .ro, .live, 0x0⟩]⟩,
  /- FPN.RAW -/ ⟨0x50040, 8, 4, 1, 0x0, (0, 0, 0), [⟨31, 0, .ro, .live, 0x0⟩]⟩,
  /- FPN.OUT -/ ⟨0x50060, 8, 4, 1, 0x0, (0, 0, 0), [⟨31, 0, .rw, .val, 0x0⟩]⟩,
  /- FPN.FORCE -/ ⟨0x50080, 8, 4, 1, 0x0, (0, 0, 0), [⟨31, 0, .ro, .live, 0x0⟩]⟩,
  /- FPN.MISM -/ ⟨0x500A0, 8, 4, 1, 0x0, (0, 0, 0), [⟨31, 0, .w1c, .val, 0x0⟩]⟩,
  /- FPN.CONF -/ ⟨0x500C0, 8, 4, 1, 0x0, (0, 0, 0), [⟨31, 0, .w1c, .val, 0x0⟩]⟩,
  /- FPN.HOLDSTAT -/ ⟨0x500E0, 1, 0, 1, 0x0, (0, 0, 0), [⟨0, 0, .ro, .live, 0x0⟩, ⟨31, 16, .rc, .val, 0x0⟩]⟩,
  /- FPN.EPRI -/ ⟨0x50100, 4, 4, 1, 0x0, (0, 0, 0), [⟨1, 0, .rwi, .img, 0x0⟩, ⟨3, 2, .rwi, .img, 0x0⟩, ⟨5, 4, .rwi, .img, 0x0⟩, ⟨7, 6, .rwi, .img, 0x0⟩, ⟨9, 8, .rwi, .img, 0x0⟩, ⟨11, 10, .rwi, .img, 0x0⟩, ⟨13, 12, .rwi, .img, 0x0⟩, ⟨15, 14, .rwi, .img, 0x0⟩, ⟨17, 16, .rwi, .img, 0x0⟩, ⟨19, 18, .rwi, .img, 0x0⟩, ⟨21, 20, .rwi, .img, 0x0⟩, ⟨23, 22, .rwi, .img, 0x0⟩, ⟨25, 24, .rwi, .img, 0x0⟩, ⟨27, 26, .rwi, .img, 0x0⟩, ⟨29, 28, .rwi, .img, 0x0⟩, ⟨31, 30, .rwi, .img, 0x0⟩]⟩,
  /- FPn_CFG -/ ⟨0x51000, 1, 0, 256, 0x4, (0, 0, 0), [⟨2, 0, .rwi, .img, 0x0⟩, ⟨3, 3, .rwi, .img, 0x0⟩, ⟨5, 4, .rwi, .img, 0x0⟩, ⟨6, 6, .rwi, .img, 0x0⟩, ⟨8, 7, .rwi, .img, 0x0⟩, ⟨9, 9, .rwi, .img, 0x0⟩, ⟨10, 10, .rwi, .img, 0x0⟩, ⟨11, 11, .rwi, .img, 0x0⟩, ⟨19, 12, .rwi, .img, 0x0⟩, ⟨21, 20, .rwi, .img, 0x0⟩, ⟨23, 22, .rwi, .img, 0x0⟩, ⟨31, 24, .rwi, .img, 0x0⟩]⟩,
  /- FPn_SEL -/ ⟨0x51400, 1, 0, 256, 0x4, (0, 0, 0), [⟨10, 0, .rwi, .img, 0x0⟩, ⟨27, 12, .rwi, .img, 0x0⟩, ⟨29, 28, .rwi, .img, 0x0⟩]⟩,
  /- FPn_STAT -/ ⟨0x51800, 1, 0, 256, 0x4, (0, 0, 0), [⟨15, 0, .rc, .val, 0x0⟩, ⟨31, 16, .rc, .val, 0x0⟩]⟩,
  /- FPn_EDGES -/ ⟨0x51C00, 1, 0, 256, 0x4, (0, 0, 0), [⟨31, 0, .ro, .val, 0x0⟩]⟩,
  /- FPN.VWO_IDX -/ ⟨0x52000, 1, 0, 1, 0x0, (0, 0, 0), [⟨3, 0, .rw, .val, 0x0⟩, ⟨8, 4, .rw, .val, 0x0⟩]⟩,
  /- FPN.VWO_CFG -/ ⟨0x52004, 1, 0, 1, 0x0, (0x52000, 3, 0), [⟨0, 0, .rwi, .img, 0x0⟩, ⟨1, 1, .rwi, .img, 0x0⟩, ⟨13, 2, .rwi, .img, 0x0⟩, ⟨23, 14, .rwi, .img, 0xA⟩]⟩,
  /- FPN.VWO_MAP -/ ⟨0x52008, 1, 0, 1, 0x0, (0x52000, 8, 0), [⟨1, 0, .rwi, .img, 0x0⟩, ⟨13, 2, .rwi, .img, 0x0⟩]⟩,
  /- FPN.VWO_STATE -/ ⟨0x5200C, 1, 0, 1, 0x0, (0x52000, 3, 0), [⟨31, 0, .ro, .live, 0x0⟩]⟩,
  /- FPN.VWI_IDX -/ ⟨0x52020, 1, 0, 1, 0x0, (0, 0, 0), [⟨5, 0, .rw, .val, 0x0⟩]⟩,
  /- FPN.VWI_CFG -/ ⟨0x52024, 1, 0, 1, 0x0, (0x52020, 5, 0), [⟨0, 0, .rwi, .img, 0x0⟩, ⟨1, 1, .rwi, .img, 0x0⟩, ⟨9, 2, .rwi, .img, 0x0⟩, ⟨13, 10, .rwi, .img, 0x0⟩, ⟨17, 14, .rwi, .img, 0x0⟩, ⟨31, 18, .rwi, .img, 0x0⟩]⟩,
  /- FPN.VWI_SAFE -/ ⟨0x52028, 1, 0, 1, 0x0, (0x52020, 5, 0), [⟨31, 0, .rwi, .img, 0x0⟩]⟩,
  /- FPN.VWI_STATE -/ ⟨0x5202C, 1, 0, 1, 0x0, (0x52020, 5, 0), [⟨31, 0, .ro, .live, 0x0⟩]⟩,
  /- FPN.VWI_STAT -/ ⟨0x52030, 1, 0, 1, 0x0, (0x52020, 5, 0), [⟨0, 0, .ro, .live, 0x0⟩, ⟨1, 1, .w1c, .val, 0x0⟩]⟩,
  /- FPN.CNT_VWMERGE -/ ⟨0x52040, 1, 0, 1, 0x0, (0, 0, 0), [⟨31, 0, .rc, .val, 0x0⟩]⟩,
  /- FPN.CNT_VWUNK -/ ⟨0x52044, 1, 0, 1, 0x0, (0, 0, 0), [⟨31, 0, .rc, .val, 0x0⟩]⟩]

/-- Registers of block FPN, part 2. -/
def regsFPN1 : List RegRow := [
  /- FPN.CNT_VWLATE -/ ⟨0x52048, 1, 0, 1, 0x0, (0, 0, 0), [⟨31, 0, .rc, .val, 0x0⟩]⟩,
  /- FPN.CNT_VWTMO -/ ⟨0x5204C, 1, 0, 1, 0x0, (0, 0, 0), [⟨31, 0, .rc, .val, 0x0⟩]⟩]

/-- Registers of block PIO, part 1. -/
def regsPIO0 : List RegRow := [
  /- PEnn_CTL -/ ⟨0x60000, 1, 0, 64, 0x400, (0, 0, 0), [⟨0, 0, .wo, .val, 0x0⟩, ⟨1, 1, .wo, .val, 0x0⟩, ⟨2, 2, .wo, .val, 0x0⟩, ⟨3, 3, .wo, .val, 0x0⟩, ⟨4, 4, .wo, .val, 0x0⟩, ⟨5, 5, .wo, .val, 0x0⟩, ⟨6, 6, .wo, .val, 0x0⟩, ⟨7, 7, .wo, .val, 0x0⟩, ⟨8, 8, .wo, .val, 0x0⟩, ⟨9, 9, .wo, .val, 0x0⟩, ⟨27, 16, .wo, .val, 0x0⟩]⟩,
  /- PEnn_STATUS -/ ⟨0x60004, 1, 0, 64, 0x400, (0, 0, 0), [⟨0, 0, .ro, .live, 0x0⟩, ⟨1, 1, .ro, .live, 0x0⟩, ⟨3, 2, .ro, .live, 0x0⟩, ⟨6, 4, .ro, .val, 0x0⟩, ⟨7, 7, .ro, .val, 0x0⟩, ⟨8, 8, .w1c, .val, 0x0⟩]⟩,
  /- PEnn_CFG -/ ⟨0x60008, 1, 0, 64, 0x400, (0, 0, 0), [⟨0, 0, .rwi, .img, 0x0⟩, ⟨1, 1, .rwi, .img, 0x0⟩, ⟨13, 2, .rwi, .img, 0x0⟩, ⟨16, 14, .rwi, .img, 0x0⟩]⟩,
  /- PEnn_IWIN -/ ⟨0x6000C, 1, 0, 64, 0x400, (0, 0, 0), [⟨11, 0, .rwi, .img, 0x0⟩, ⟨24, 12, .rwi, .img, 0x0⟩]⟩,
  /- PEnn_PINS -/ ⟨0x60010, 1, 0, 64, 0x400, (0, 0, 0), [⟨7, 0, .rwi, .img, 0x0⟩, ⟨15, 8, .rwi, .img, 0x0⟩, ⟨21, 16, .rwi, .img, 0x0⟩]⟩,
  /- PEnn_SHAPE -/ ⟨0x60014, 1, 0, 64, 0x400, (0, 0, 0), [⟨0, 0, .rwi, .img, 0x0⟩, ⟨1, 1, .rwi, .img, 0x0⟩, ⟨6, 2, .rwi, .img, 0x0⟩, ⟨11, 7, .rwi, .img, 0x0⟩, ⟨16, 12, .rwi, .img, 0x0⟩, ⟨21, 17, .rwi, .img, 0x0⟩]⟩,
  /- PEnn_CLKDIV -/ ⟨0x60018, 1, 0, 64, 0x400, (0, 0, 0), [⟨15, 0, .rwi, .img, 0x0⟩, ⟨23, 16, .rwi, .img, 0x0⟩]⟩,
  /- PEnn_PC -/ ⟨0x6001C, 1, 0, 64, 0x400, (0, 0, 0), [⟨11, 0, .ro, .live, 0x0⟩, ⟨15, 12, .ro, .live, 0x0⟩]⟩,
  /- PEnn_SA -/ ⟨0x60020, 1, 0, 64, 0x400, (0, 0, 0), [⟨31, 0, .rw, .val, 0x0⟩]⟩,
  /- PEnn_SB -/ ⟨0x60024, 1, 0, 64, 0x400, (0, 0, 0), [⟨31, 0, .rw, .val, 0x0⟩]⟩,
  /- PEnn_CAP -/ ⟨0x60028, 1, 0, 64, 0x400, (0, 0, 0), [⟨31, 0, .rw, .val, 0x0⟩]⟩,
  /- PEnn_EMT -/ ⟨0x6002C, 1, 0, 64, 0x400, (0, 0, 0), [⟨31, 0, .rw, .val, 0x0⟩]⟩,
  /- PEnn_CNTS -/ ⟨0x60030, 1, 0, 64, 0x400, (0, 0, 0), [⟨5, 0, .rw, .val, 0x0⟩, ⟨13, 8, .rw, .val, 0x0⟩, ⟨14, 14, .rw, .val, 0x0⟩, ⟨15, 15, .rw, .val, 0x0⟩, ⟨16, 16, .rw, .val, 0x0⟩]⟩,
  /- PEnn_TXQ -/ ⟨0x60034, 1, 0, 64, 0x400, (0, 0, 0), [⟨31, 0, .wo, .val, 0x0⟩]⟩,
  /- PEnn_RXQ -/ ⟨0x60038, 1, 0, 64, 0x400, (0, 0, 0), [⟨31, 0, .ro, .live, 0x0⟩]⟩,
  /- PEnn_QSTAT -/ ⟨0x6003C, 1, 0, 64, 0x400, (0, 0, 0), [⟨3, 0, .ro, .live, 0x0⟩, ⟨7, 4, .ro, .live, 0x0⟩, ⟨8, 8, .ro, .live, 0x0⟩, ⟨9, 9, .w1c, .val, 0x0⟩, ⟨10, 10, .w1c, .val, 0x0⟩, ⟨11, 11, .w1c, .val, 0x0⟩]⟩,
  /- PEnn_PINLAT -/ ⟨0x60040, 1, 0, 64, 0x400, (0, 0, 0), [⟨31, 0, .ro, .live, 0x0⟩]⟩,
  /- PEnn_PINOE -/ ⟨0x60044, 1, 0, 64, 0x400, (0, 0, 0), [⟨31, 0, .ro, .live, 0x0⟩]⟩,
  /- PEnn_TAQ_STAMP -/ ⟨0x60048, 1, 0, 64, 0x400, (0, 0, 0), [⟨31, 0, .rw, .val, 0x0⟩]⟩,
  /- PEnn_TAQ_ACT -/ ⟨0x6004C, 1, 0, 64, 0x400, (0, 0, 0), [⟨3, 0, .wo, .val, 0x0⟩, ⟨6, 4, .wo, .val, 0x0⟩, ⟨7, 7, .wo, .val, 0x0⟩, ⟨12, 8, .wo, .val, 0x0⟩]⟩,
  /- PEnn_TAQSTAT -/ ⟨0x60050, 1, 0, 64, 0x400, (0, 0, 0), [⟨4, 0, .ro, .live, 0x0⟩, ⟨5, 5, .w1c, .val, 0x0⟩, ⟨6, 6, .ro, .live, 0x0⟩]⟩,
  /- PEnn_CNT_OVFL -/ ⟨0x60054, 1, 0, 64, 0x400, (0, 0, 0), [⟨31, 0, .rc, .val, 0x0⟩]⟩,
  /- PEnn_CNT_UNDR -/ ⟨0x60058, 1, 0, 64, 0x400, (0, 0, 0), [⟨31, 0, .rc, .val, 0x0⟩]⟩,
  /- PEnn_CNT_LATE -/ ⟨0x6005C, 1, 0, 64, 0x400, (0, 0, 0), [⟨31, 0, .rc, .val, 0x0⟩]⟩]

/-- Registers of block PIO, part 2. -/
def regsPIO1 : List RegRow := [
  /- PEnn_CNT_MBLOST -/ ⟨0x60060, 1, 0, 64, 0x400, (0, 0, 0), [⟨31, 0, .rc, .val, 0x0⟩]⟩,
  /- PEnn_CNT_IMVIOL -/ ⟨0x60064, 1, 0, 64, 0x400, (0, 0, 0), [⟨31, 0, .rc, .val, 0x0⟩]⟩,
  /- PEnn_CNT_TXFULL -/ ⟨0x60068, 1, 0, 64, 0x400, (0, 0, 0), [⟨31, 0, .rc, .val, 0x0⟩]⟩,
  /- PEnn_IADDR -/ ⟨0x60070, 1, 0, 64, 0x400, (0, 0, 0), [⟨11, 0, .rw, .val, 0x0⟩]⟩,
  /- PEnn_IDATA -/ ⟨0x60074, 1, 0, 64, 0x400, (0, 0, 0), [⟨31, 0, .rw, .img, 0x0⟩]⟩,
  /- PEnn_MB -/ ⟨0x60080, 16, 4, 64, 0x400, (0, 0, 0), [⟨31, 0, .rw, .img, 0x0⟩]⟩,
  /- PEnn_MBFRESH -/ ⟨0x600C0, 1, 0, 64, 0x400, (0, 0, 0), [⟨15, 0, .ro, .val, 0x0⟩]⟩,
  /- PEnn_FEED -/ ⟨0x600C4, 1, 0, 64, 0x400, (0, 0, 0), [⟨0, 0, .rwi, .img, 0x0⟩, ⟨24, 1, .rwi, .img, 0x0⟩, ⟨28, 25, .rwi, .img, 0x0⟩]⟩,
  /- PEnn_FEEDQ -/ ⟨0x600C8, 1, 0, 64, 0x400, (0, 0, 0), [⟨5, 0, .rwi, .img, 0x0⟩]⟩,
  /- PEnn_CELLC -/ ⟨0x600D0, 1, 0, 64, 0x400, (0, 0, 0), [⟨1, 0, .rwi, .img, 0x0⟩, ⟨4, 2, .rwi, .img, 0x0⟩, ⟨9, 5, .rwi, .img, 0x0⟩, ⟨14, 10, .rwi, .img, 0x0⟩, ⟨16, 15, .rwi, .img, 0x0⟩]⟩,
  /- PEnn_CELLF -/ ⟨0x600D4, 1, 0, 64, 0x400, (0, 0, 0), [⟨3, 0, .rwi, .img, 0x0⟩, ⟨7, 4, .rwi, .img, 0x0⟩, ⟨11, 8, .rwi, .img, 0x0⟩, ⟨15, 12, .rwi, .img, 0x0⟩]⟩,
  /- PEnn_CELLT -/ ⟨0x600D8, 1, 0, 64, 0x400, (0, 0, 0), [⟨7, 0, .rwi, .img, 0x0⟩, ⟨15, 8, .rwi, .img, 0x0⟩, ⟨23, 16, .rwi, .img, 0x0⟩, ⟨31, 24, .rwi, .img, 0x0⟩]⟩,
  /- PEnn_SEQ -/ ⟨0x600DC, 1, 0, 64, 0x400, (0, 0, 0), [⟨5, 0, .ro, .live, 0x0⟩, ⟨7, 6, .ro, .live, 0x0⟩, ⟨15, 8, .ro, .live, 0x0⟩, ⟨16, 16, .ro, .live, 0x0⟩]⟩,
  /- PIO.SFSET -/ ⟨0x60304, 1, 0, 1, 0x0, (0, 0, 0), [⟨31, 0, .w1s, .val, 0x0⟩]⟩,
  /- PIO.SFCLR -/ ⟨0x60308, 1, 0, 1, 0x0, (0, 0, 0), [⟨31, 0, .w1c, .val, 0x0⟩]⟩,
  /- PIO.GSTART0 -/ ⟨0x60310, 1, 0, 1, 0x0, (0, 0, 0), [⟨31, 0, .wo, .val, 0x0⟩]⟩,
  /- PIO.GSTART1 -/ ⟨0x60314, 1, 0, 1, 0x0, (0, 0, 0), [⟨31, 0, .wo, .val, 0x0⟩]⟩,
  /- PIO.GHALT0 -/ ⟨0x60318, 1, 0, 1, 0x0, (0, 0, 0), [⟨31, 0, .wo, .val, 0x0⟩]⟩,
  /- PIO.GHALT1 -/ ⟨0x6031C, 1, 0, 1, 0x0, (0, 0, 0), [⟨31, 0, .wo, .val, 0x0⟩]⟩,
  /- PIO.HALTED0 -/ ⟨0x60320, 1, 0, 1, 0x0, (0, 0, 0), [⟨31, 0, .ro, .live, 0x0⟩]⟩,
  /- PIO.HALTED1 -/ ⟨0x60324, 1, 0, 1, 0x0, (0, 0, 0), [⟨31, 0, .ro, .live, 0x0⟩]⟩,
  /- PIO.FAULT0 -/ ⟨0x60328, 1, 0, 1, 0x0, (0, 0, 0), [⟨31, 0, .ro, .live, 0x0⟩]⟩,
  /- PIO.FAULT1 -/ ⟨0x6032C, 1, 0, 1, 0x0, (0, 0, 0), [⟨31, 0, .ro, .live, 0x0⟩]⟩,
  /- PIO.CNT_TAQEXH -/ ⟨0x60330, 1, 0, 1, 0x0, (0, 0, 0), [⟨31, 0, .rc, .val, 0x0⟩]⟩]

/-- Registers of block PIO, part 3. -/
def regsPIO2 : List RegRow := [
  /- PIO.CNT_RESETDISC -/ ⟨0x60334, 1, 0, 1, 0x0, (0, 0, 0), [⟨31, 0, .rc, .val, 0x0⟩]⟩]

/-- Registers of block CAN, part 1. -/
def regsCAN0 : List RegRow := [
  /- CNnn_CTL -/ ⟨0x70000, 1, 0, 16, 0x1000, (0, 0, 0), [⟨2, 0, .rw, .img, 0x0⟩, ⟨3, 3, .wo, .val, 0x0⟩]⟩,
  /- CNnn_STAT -/ ⟨0x70004, 1, 0, 16, 0x1000, (0, 0, 0), [⟨1, 0, .ro, .live, 0x0⟩, ⟨2, 2, .ro, .live, 0x0⟩, ⟨3, 3, .ro, .live, 0x0⟩, ⟨6, 4, .ro, .live, 0x0⟩, ⟨7, 7, .ro, .live, 0x0⟩, ⟨10, 8, .ro, .val, 0x0⟩, ⟨11, 11, .ro, .val, 0x0⟩, ⟨18, 12, .ro, .live, 0x0⟩]⟩,
  /- CNnn_ERRCNT -/ ⟨0x70008, 1, 0, 16, 0x1000, (0, 0, 0), [⟨7, 0, .ro, .val, 0x0⟩, ⟨14, 8, .ro, .val, 0x0⟩, ⟨15, 15, .ro, .val, 0x0⟩, ⟨23, 16, .ro, .val, 0x0⟩]⟩,
  /- CNnn_NBT -/ ⟨0x7000C, 1, 0, 16, 0x1000, (0, 0, 0), [⟨7, 0, .rw, .img, 0x0⟩, ⟨15, 8, .rw, .img, 0x0⟩, ⟨22, 16, .rw, .img, 0x0⟩, ⟨29, 23, .rw, .img, 0x0⟩]⟩,
  /- CNnn_DBT -/ ⟨0x70010, 1, 0, 16, 0x1000, (0, 0, 0), [⟨4, 0, .rw, .img, 0x0⟩, ⟨9, 5, .rw, .img, 0x0⟩, ⟨13, 10, .rw, .img, 0x0⟩, ⟨17, 14, .rw, .img, 0x0⟩, ⟨18, 18, .rw, .img, 0x0⟩, ⟨25, 19, .rw, .img, 0x0⟩]⟩,
  /- CNnn_CFG -/ ⟨0x70014, 1, 0, 16, 0x1000, (0, 0, 0), [⟨0, 0, .rwi, .img, 0x0⟩, ⟨1, 1, .rwi, .img, 0x0⟩, ⟨2, 2, .rwi, .img, 0x0⟩, ⟨5, 3, .rwi, .img, 0x0⟩, ⟨15, 6, .rwi, .img, 0x0⟩]⟩,
  /- CNnn_ABD -/ ⟨0x70018, 1, 0, 16, 0x1000, (0, 0, 0), [⟨2, 0, .ro, .val, 0x0⟩, ⟨6, 4, .ro, .val, 0x0⟩, ⟨9, 8, .ro, .val, 0x0⟩, ⟨10, 10, .ro, .val, 0x0⟩, ⟨19, 16, .ro, .val, 0x0⟩]⟩,
  /- CNnn_OBJLOCK -/ ⟨0x7001C, 1, 0, 16, 0x1000, (0, 0, 0), [⟨12, 0, .ro, .val, 0x0⟩, ⟨29, 16, .ro, .live, 0x0⟩]⟩,
  /- CNnn_SHADOW -/ ⟨0x70020, 1, 0, 16, 0x1000, (0, 0, 0), [⟨12, 0, .ro, .live, 0x0⟩, ⟨13, 13, .ro, .live, 0x0⟩, ⟨14, 14, .ro, .live, 0x0⟩]⟩,
  /- CNnn_CNT_RXOK -/ ⟨0x70040, 1, 0, 16, 0x1000, (0, 0, 0), [⟨31, 0, .rc, .val, 0x0⟩]⟩,
  /- CNnn_CNT_TXOK -/ ⟨0x70044, 1, 0, 16, 0x1000, (0, 0, 0), [⟨31, 0, .rc, .val, 0x0⟩]⟩,
  /- CNnn_CNT_NOMATCH -/ ⟨0x70048, 1, 0, 16, 0x1000, (0, 0, 0), [⟨31, 0, .rc, .val, 0x0⟩]⟩,
  /- CNnn_CNT_OVWR -/ ⟨0x7004C, 1, 0, 16, 0x1000, (0, 0, 0), [⟨31, 0, .rc, .val, 0x0⟩]⟩,
  /- CNnn_CNT_SHREPL -/ ⟨0x70050, 1, 0, 16, 0x1000, (0, 0, 0), [⟨31, 0, .rc, .val, 0x0⟩]⟩,
  /- CNnn_CNT_SHDROP -/ ⟨0x70054, 1, 0, 16, 0x1000, (0, 0, 0), [⟨31, 0, .rc, .val, 0x0⟩]⟩,
  /- CNnn_CNT_ARBLOST -/ ⟨0x70058, 1, 0, 16, 0x1000, (0, 0, 0), [⟨31, 0, .rc, .val, 0x0⟩]⟩,
  /- CNnn_CNT_BUSOFF -/ ⟨0x7005C, 1, 0, 16, 0x1000, (0, 0, 0), [⟨31, 0, .rc, .val, 0x0⟩]⟩,
  /- CNnn_CNT_ERRFRM -/ ⟨0x70060, 1, 0, 16, 0x1000, (0, 0, 0), [⟨31, 0, .rc, .val, 0x0⟩]⟩,
  /- CNnn_CNT_BINDLOST -/ ⟨0x70064, 1, 0, 16, 0x1000, (0, 0, 0), [⟨31, 0, .rc, .val, 0x0⟩]⟩,
  /- CNnn_CNT_LOCKTMO -/ ⟨0x70068, 1, 0, 16, 0x1000, (0, 0, 0), [⟨31, 0, .rc, .val, 0x0⟩]⟩,
  /- CAN.OBJ_USED -/ ⟨0x70F00, 1, 0, 1, 0x0, (0, 0, 0), [⟨13, 0, .ro, .live, 0x0⟩, ⟨29, 16, .ro, .img, 0x0⟩]⟩,
  /- CAN.LOCKTMO -/ ⟨0x70F04, 1, 0, 1, 0x0, (0, 0, 0), [⟨13, 0, .rwi, .img, 0x3E8⟩]⟩,
  /- CAN.OBJ_IDX -/ ⟨0x70F08, 1, 0, 1, 0x0, (0, 0, 0), [⟨12, 0, .rw, .val, 0x0⟩]⟩,
  /- CAN.OBJ_MASK -/ ⟨0x70F0C, 1, 0, 1, 0x0, (0x70F08, 12, 0), [⟨28, 0, .ro, .live, 0x0⟩]⟩]

/-- Registers of block CAN, part 2. -/
def regsCAN1 : List RegRow := [
  /- CAN.CMD_LOCK -/ ⟨0x70F10, 1, 0, 1, 0x0, (0, 0, 0), [⟨0, 0, .ro, .live, 0x0⟩, ⟨15, 8, .ro, .live, 0x0⟩, ⟨23, 16, .ro, .live, 0x0⟩]⟩,
  /- CAN.CMD_ARG0 -/ ⟨0x70F14, 1, 0, 1, 0x0, (0, 0, 0), [⟨3, 0, .rw, .val, 0x0⟩, ⟨4, 4, .rw, .val, 0x0⟩, ⟨5, 5, .rw, .val, 0x0⟩, ⟨6, 6, .rw, .val, 0x0⟩, ⟨7, 7, .rw, .val, 0x0⟩]⟩,
  /- CAN.CMD_ARG1 -/ ⟨0x70F18, 1, 0, 1, 0x0, (0, 0, 0), [⟨28, 0, .rw, .val, 0x0⟩]⟩,
  /- CAN.CMD_ARG2 -/ ⟨0x70F1C, 1, 0, 1, 0x0, (0, 0, 0), [⟨28, 0, .rw, .val, 0x0⟩]⟩,
  /- CAN.CMD -/ ⟨0x70F20, 1, 0, 1, 0x0, (0, 0, 0), [⟨1, 0, .wo, .val, 0x0⟩, ⟨14, 2, .wo, .val, 0x0⟩]⟩,
  /- CAN.CMD_RES -/ ⟨0x70F24, 1, 0, 1, 0x0, (0, 0, 0), [⟨12, 0, .ro, .val, 0x0⟩, ⟨18, 16, .ro, .val, 0x0⟩]⟩,
  /- CAN.CNT_EXH -/ ⟨0x70F28, 1, 0, 1, 0x0, (0, 0, 0), [⟨31, 0, .rc, .val, 0x0⟩]⟩,
  /- CAN.CNT_RESETDISC -/ ⟨0x70F2C, 1, 0, 1, 0x0, (0, 0, 0), [⟨31, 0, .rc, .val, 0x0⟩]⟩,
  /- CAN.CRD -/ ⟨0x70F30, 1, 0, 1, 0x0, (0, 0, 0), [⟨3, 0, .ro, .live, 0x0⟩]⟩,
  /- CAN.ABD_CTL -/ ⟨0x70F40, 1, 0, 1, 0x0, (0, 0, 0), [⟨7, 0, .rwi, .img, 0x0⟩, ⟨11, 8, .rwi, .img, 0x0⟩, ⟨15, 12, .rwi, .img, 0x2⟩, ⟨23, 16, .rwi, .img, 0x0⟩, ⟨27, 24, .rwi, .img, 0x0⟩]⟩,
  /- CAN.ABD_N -/ ⟨0x70F44, 8, 4, 1, 0x0, (0, 0, 0), [⟨7, 0, .rwi, .img, 0x0⟩, ⟨15, 8, .rwi, .img, 0x0⟩, ⟨22, 16, .rwi, .img, 0x0⟩, ⟨29, 23, .rwi, .img, 0x0⟩]⟩,
  /- CAN.ABD_D -/ ⟨0x70F64, 4, 4, 1, 0x0, (0, 0, 0), [⟨4, 0, .rwi, .img, 0x0⟩, ⟨9, 5, .rwi, .img, 0x0⟩, ⟨13, 10, .rwi, .img, 0x0⟩, ⟨17, 14, .rwi, .img, 0x0⟩, ⟨18, 18, .rwi, .img, 0x0⟩, ⟨25, 19, .rwi, .img, 0x0⟩]⟩]

/-- Registers of block SER. -/
def regsSER0 : List RegRow := [
  /- SPnn_CFG -/ ⟨0x80000, 1, 0, 32, 0x100, (0, 0, 0), [⟨0, 0, .rwi, .img, 0x0⟩, ⟨3, 1, .rwi, .img, 0x0⟩, ⟨6, 4, .rwi, .img, 0x0⟩, ⟨7, 7, .rwi, .img, 0x0⟩, ⟨8, 8, .rwi, .img, 0x0⟩, ⟨9, 9, .rwi, .img, 0x0⟩, ⟨17, 10, .rwi, .img, 0x0⟩, ⟨18, 18, .rwi, .img, 0x0⟩, ⟨19, 19, .rwi, .img, 0x0⟩, ⟨20, 20, .rwi, .img, 0x0⟩]⟩,
  /- SPnn_BAUD -/ ⟨0x80004, 1, 0, 32, 0x100, (0, 0, 0), [⟨23, 0, .rwi, .img, 0x0⟩]⟩,
  /- SPnn_DIR -/ ⟨0x80008, 1, 0, 32, 0x100, (0, 0, 0), [⟨3, 0, .rwi, .img, 0x0⟩, ⟨7, 4, .rwi, .img, 0x0⟩]⟩,
  /- SPnn_MBT -/ ⟨0x8000C, 1, 0, 32, 0x100, (0, 0, 0), [⟨15, 0, .ro, .live, 0x0⟩, ⟨31, 16, .ro, .live, 0x0⟩]⟩,
  /- SPnn_STAT -/ ⟨0x80010, 1, 0, 32, 0x100, (0, 0, 0), [⟨8, 0, .ro, .live, 0x0⟩, ⟨15, 9, .ro, .live, 0x0⟩, ⟨16, 16, .ro, .live, 0x0⟩, ⟨17, 17, .ro, .live, 0x0⟩, ⟨18, 18, .w1c, .val, 0x0⟩]⟩,
  /- SPnn_CNT_FRAME -/ ⟨0x80020, 1, 0, 32, 0x100, (0, 0, 0), [⟨31, 0, .rc, .val, 0x0⟩]⟩,
  /- SPnn_CNT_PARITY -/ ⟨0x80024, 1, 0, 32, 0x100, (0, 0, 0), [⟨31, 0, .rc, .val, 0x0⟩]⟩,
  /- SPnn_CNT_OVFL -/ ⟨0x80028, 1, 0, 32, 0x100, (0, 0, 0), [⟨31, 0, .rc, .val, 0x0⟩]⟩,
  /- SPnn_CNT_BREAK -/ ⟨0x8002C, 1, 0, 32, 0x100, (0, 0, 0), [⟨31, 0, .rc, .val, 0x0⟩]⟩,
  /- SPnn_CNT_ECHO -/ ⟨0x80030, 1, 0, 32, 0x100, (0, 0, 0), [⟨31, 0, .rc, .val, 0x0⟩]⟩,
  /- SQn_CFG -/ ⟨0x82000, 1, 0, 8, 0x100, (0, 0, 0), [⟨0, 0, .rwi, .img, 0x0⟩, ⟨2, 1, .rwi, .img, 0x0⟩, ⟨3, 3, .rwi, .img, 0x0⟩, ⟨15, 4, .rwi, .img, 0x0⟩, ⟨23, 16, .rwi, .img, 0x0⟩, ⟨27, 24, .rwi, .img, 0x0⟩]⟩,
  /- SQn_STAT -/ ⟨0x82004, 1, 0, 8, 0x100, (0, 0, 0), [⟨0, 0, .ro, .live, 0x0⟩, ⟨2, 1, .ro, .live, 0x0⟩, ⟨31, 16, .rc, .val, 0x0⟩]⟩,
  /- ICn_CFG -/ ⟨0x82800, 1, 0, 8, 0x100, (0, 0, 0), [⟨0, 0, .rwi, .img, 0x0⟩, ⟨11, 1, .rwi, .img, 0x0⟩, ⟨19, 12, .rwi, .img, 0x0⟩]⟩,
  /- ICn_STAT -/ ⟨0x82804, 1, 0, 8, 0x100, (0, 0, 0), [⟨0, 0, .ro, .live, 0x0⟩, ⟨1, 1, .ro, .live, 0x0⟩, ⟨2, 2, .ro, .live, 0x0⟩, ⟨3, 3, .w1c, .val, 0x0⟩, ⟨15, 8, .rc, .val, 0x0⟩, ⟨23, 16, .rc, .val, 0x0⟩]⟩]

/-- Registers of block BRG, part 1. -/
def regsBRG0 : List RegRow := [
  /- BRG.WIN_IDX -/ ⟨0x90000, 1, 0, 1, 0x0, (0, 0, 0), [⟨7, 0, .rw, .val, 0x0⟩]⟩,
  /- BRG.WIN_CFG -/ ⟨0x90004, 1, 0, 1, 0x0, (0x90000, 7, 0), [⟨0, 0, .rwi, .img, 0x0⟩, ⟨3, 1, .rwi, .img, 0x0⟩, ⟨9, 4, .rwi, .img, 0x0⟩, ⟨10, 10, .rwi, .img, 0x0⟩, ⟨11, 11, .rwi, .img, 0x0⟩, ⟨13, 12, .rwi, .img, 0x0⟩, ⟨24, 14, .rwi, .img, 0x0⟩, ⟨30, 25, .rwi, .img, 0x0⟩]⟩,
  /- BRG.WIN_BASE -/ ⟨0x90008, 1, 0, 1, 0x0, (0x90000, 7, 0), [⟨23, 0, .rwi, .img, 0x0⟩, ⟨31, 24, .rwi, .img, 0x0⟩]⟩,
  /- BRG.WIN_FAR -/ ⟨0x9000C, 1, 0, 1, 0x0, (0x90000, 7, 0), [⟨15, 0, .rwi, .img, 0x0⟩, ⟨23, 16, .rwi, .img, 0x0⟩, ⟨25, 24, .rwi, .img, 0x0⟩]⟩,
  /- BRG.WIN_FAR2 -/ ⟨0x90010, 1, 0, 1, 0x0, (0x90000, 7, 0), [⟨7, 0, .rwi, .img, 0x0⟩, ⟨15, 8, .rwi, .img, 0x0⟩, ⟨19, 16, .rwi, .img, 0x0⟩, ⟨23, 20, .rwi, .img, 0x0⟩]⟩,
  /- BRG.WIN_TMO -/ ⟨0x90014, 1, 0, 1, 0x0, (0x90000, 7, 0), [⟨15, 0, .rwi, .img, 0x0⟩, ⟨24, 16, .rwi, .img, 0x0⟩, ⟨31, 25, .rwi, .img, 0x0⟩]⟩,
  /- BRG.BUS_IDX -/ ⟨0x90020, 1, 0, 1, 0x0, (0, 0, 0), [⟨5, 0, .rw, .val, 0x0⟩]⟩,
  /- BRG.BUS_CFG -/ ⟨0x90024, 1, 0, 1, 0x0, (0x90020, 5, 0), [⟨15, 0, .rwi, .img, 0x0⟩]⟩,
  /- BRG.BUS_STAT -/ ⟨0x90028, 1, 0, 1, 0x0, (0x90020, 5, 0), [⟨1, 0, .ro, .live, 0x0⟩, ⟨2, 2, .ro, .live, 0x0⟩, ⟨3, 3, .ro, .live, 0x0⟩, ⟨4, 4, .ro, .live, 0x0⟩]⟩,
  /- BRG.PL_IDX -/ ⟨0x90040, 1, 0, 1, 0x0, (0, 0, 0), [⟨8, 0, .rw, .val, 0x0⟩]⟩,
  /- BRG.PL_CFG -/ ⟨0x90044, 1, 0, 1, 0x0, (0x90040, 8, 0), [⟨0, 0, .rwi, .img, 0x0⟩, ⟨8, 1, .rwi, .img, 0x0⟩, ⟨15, 9, .rwi, .img, 0x0⟩, ⟨23, 16, .rwi, .img, 0x0⟩, ⟨25, 24, .rwi, .img, 0x0⟩, ⟨29, 26, .rwi, .img, 0x0⟩]⟩,
  /- BRG.PL_OFF -/ ⟨0x90048, 1, 0, 1, 0x0, (0x90040, 8, 0), [⟨23, 0, .rwi, .img, 0x0⟩]⟩,
  /- BRG.PL_INT -/ ⟨0x9004C, 1, 0, 1, 0x0, (0x90040, 8, 0), [⟨15, 0, .rwi, .img, 0x0⟩, ⟨31, 16, .rwi, .img, 0x0⟩]⟩,
  /- BRG.PL_STAT -/ ⟨0x90050, 1, 0, 1, 0x0, (0x90040, 8, 0), [⟨15, 0, .ro, .live, 0x0⟩, ⟨29, 16, .ro, .live, 0x0⟩, ⟨30, 30, .ro, .live, 0x0⟩, ⟨31, 31, .ro, .live, 0x0⟩]⟩,
  /- BRG.PL_FAILS -/ ⟨0x90054, 1, 0, 1, 0x0, (0x90040, 8, 0), [⟨15, 0, .rc, .val, 0x0⟩, ⟨31, 16, .rc, .val, 0x0⟩]⟩,
  /- BRG.SK_IDX -/ ⟨0x90060, 1, 0, 1, 0x0, (0, 0, 0), [⟨9, 0, .rw, .val, 0x0⟩]⟩,
  /- BRG.SK_CFG -/ ⟨0x90064, 1, 0, 1, 0x0, (0x90060, 9, 0), [⟨0, 0, .rwi, .img, 0x0⟩, ⟨8, 1, .rwi, .img, 0x0⟩, ⟨12, 9, .rwi, .img, 0x0⟩]⟩,
  /- BRG.SK_OFF -/ ⟨0x90068, 1, 0, 1, 0x0, (0x90060, 9, 0), [⟨23, 0, .rwi, .img, 0x0⟩]⟩,
  /- BRG.DLOG_STAT -/ ⟨0x90080, 1, 0, 1, 0x0, (0, 0, 0), [⟨6, 0, .ro, .live, 0x0⟩, ⟨7, 7, .w1c, .val, 0x0⟩, ⟨8, 8, .wo, .val, 0x0⟩, ⟨31, 16, .rc, .val, 0x0⟩]⟩,
  /- BRG.DLOG_IDX -/ ⟨0x90084, 1, 0, 1, 0x0, (0, 0, 0), [⟨5, 0, .rw, .val, 0x0⟩]⟩,
  /- BRG.DLOG_DATA -/ ⟨0x900A0, 8, 4, 1, 0x0, (0x90084, 5, 0), [⟨31, 0, .ro, .live, 0x0⟩]⟩,
  /- BRG.CNT_SPLIT -/ ⟨0x900C0, 1, 0, 1, 0x0, (0, 0, 0), [⟨31, 0, .rc, .val, 0x0⟩]⟩,
  /- BRG.CNT_RETRY -/ ⟨0x900C4, 1, 0, 1, 0x0, (0, 0, 0), [⟨31, 0, .rc, .val, 0x0⟩]⟩,
  /- BRG.CNT_PFHIT -/ ⟨0x900C8, 1, 0, 1, 0x0, (0, 0, 0), [⟨31, 0, .rc, .val, 0x0⟩]⟩]

/-- Registers of block BRG, part 2. -/
def regsBRG1 : List RegRow := [
  /- BRG.CNT_PFDISC -/ ⟨0x900CC, 1, 0, 1, 0x0, (0, 0, 0), [⟨31, 0, .rc, .val, 0x0⟩]⟩,
  /- BRG.CNT_POLLOVD -/ ⟨0x900D0, 1, 0, 1, 0x0, (0, 0, 0), [⟨31, 0, .rc, .val, 0x0⟩]⟩,
  /- BRG.CNT_RESETDISC -/ ⟨0x900D4, 1, 0, 1, 0x0, (0, 0, 0), [⟨31, 0, .rc, .val, 0x0⟩]⟩,
  /- BRG.CNT_SKMERGE -/ ⟨0x900D8, 1, 0, 1, 0x0, (0, 0, 0), [⟨31, 0, .rc, .val, 0x0⟩]⟩]

/-- Registers of block TIM, part 1. -/
def regsTIM0 : List RegRow := [
  /- TIM.CTL -/ ⟨0xA0000, 1, 0, 1, 0x0, (0, 0, 0), [⟨0, 0, .rw, .val, 0x0⟩, ⟨1, 1, .wo, .val, 0x0⟩, ⟨2, 2, .wo, .val, 0x0⟩, ⟨3, 3, .wo, .val, 0x0⟩]⟩,
  /- TIM.STAT -/ ⟨0xA0004, 1, 0, 1, 0x0, (0, 0, 0), [⟨2, 0, .ro, .val, 0x0⟩, ⟨3, 3, .ro, .val, 0x0⟩, ⟨4, 4, .ro, .val, 0x0⟩, ⟨5, 5, .ro, .live, 0x0⟩, ⟨6, 6, .ro, .val, 0x0⟩, ⟨7, 7, .ro, .live, 0x0⟩, ⟨15, 8, .ro, .val, 0x0⟩, ⟨23, 16, .ro, .val, 0xFF⟩, ⟨24, 24, .ro, .live, 0x0⟩]⟩,
  /- TIM.CFG -/ ⟨0xA0008, 1, 0, 1, 0x0, (0, 0, 0), [⟨9, 0, .rwi, .img, 0xA⟩, ⟨25, 10, .rwi, .img, 0x32⟩]⟩,
  /- TIM.SERVO -/ ⟨0xA000C, 1, 0, 1, 0x0, (0, 0, 0), [⟨15, 0, .rwi, .img, 0x0⟩, ⟨31, 16, .rwi, .img, 0x0⟩]⟩,
  /- TIM.LIMITS -/ ⟨0xA0010, 1, 0, 1, 0x0, (0, 0, 0), [⟨11, 0, .rwi, .img, 0x14⟩, ⟨23, 12, .rwi, .img, 0x7D0⟩, ⟨31, 24, .rwi, .img, 0xA⟩]⟩,
  /- TIM.INCR_INT -/ ⟨0xA0014, 1, 0, 1, 0x0, (0, 0, 0), [⟨31, 0, .ro, .val, 0x4⟩]⟩,
  /- TIM.INCR_FRAC -/ ⟨0xA0018, 1, 0, 1, 0x0, (0, 0, 0), [⟨31, 0, .ro, .val, 0x0⟩]⟩,
  /- TIM.OFFSET -/ ⟨0xA001C, 1, 0, 1, 0x0, (0, 0, 0), [⟨31, 0, .ro, .val, 0x0⟩]⟩,
  /- TIM.STEPLAST -/ ⟨0xA0020, 1, 0, 1, 0x0, (0, 0, 0), [⟨31, 0, .ro, .val, 0x0⟩]⟩,
  /- TIM.CAP_NSHI -/ ⟨0xA0024, 1, 0, 1, 0x0, (0, 0, 0), [⟨31, 0, .ro, .val, 0x0⟩]⟩,
  /- TIM.CAP_NSLO -/ ⟨0xA0028, 1, 0, 1, 0x0, (0, 0, 0), [⟨31, 0, .ro, .val, 0x0⟩]⟩,
  /- TIM.CAP_SECHI -/ ⟨0xA002C, 1, 0, 1, 0x0, (0, 0, 0), [⟨31, 0, .ro, .val, 0x0⟩]⟩,
  /- TIM.CAP_SECLO -/ ⟨0xA0030, 1, 0, 1, 0x0, (0, 0, 0), [⟨31, 0, .ro, .val, 0x0⟩]⟩,
  /- TIM.CAP_NS -/ ⟨0xA0034, 1, 0, 1, 0x0, (0, 0, 0), [⟨31, 0, .ro, .val, 0x0⟩]⟩,
  /- TIM.SET_SECHI -/ ⟨0xA0038, 1, 0, 1, 0x0, (0, 0, 0), [⟨31, 0, .rw, .val, 0x0⟩]⟩,
  /- TIM.SET_SECLO -/ ⟨0xA003C, 1, 0, 1, 0x0, (0, 0, 0), [⟨31, 0, .rw, .val, 0x0⟩]⟩,
  /- TIM.SET_NS -/ ⟨0xA0040, 1, 0, 1, 0x0, (0, 0, 0), [⟨31, 0, .rw, .val, 0x0⟩]⟩,
  /- TIM.UTCOFF -/ ⟨0xA0044, 1, 0, 1, 0x0, (0, 0, 0), [⟨15, 0, .ro, .img, 0x0⟩]⟩,
  /- TIM.TIN -/ ⟨0xA0048, 1, 0, 1, 0x0, (0, 0, 0), [⟨7, 0, .rwi, .img, 0x0⟩, ⟨8, 8, .rwi, .img, 0x0⟩, ⟨9, 9, .rwi, .img, 0x0⟩, ⟨23, 16, .rwi, .img, 0x0⟩, ⟨24, 24, .rwi, .img, 0x0⟩, ⟨25, 25, .rwi, .img, 0x0⟩]⟩,
  /- TIM.GMSTAT -/ ⟨0xA004C, 1, 0, 1, 0x0, (0, 0, 0), [⟨7, 0, .ro, .val, 0xF8⟩, ⟨15, 8, .ro, .val, 0x0⟩, ⟨16, 16, .ro, .val, 0x0⟩, ⟨17, 17, .ro, .val, 0x0⟩]⟩,
  /- TIM.PTP_H0 -/ ⟨0xA0050, 1, 0, 1, 0x0, (0, 0, 0), [⟨1, 0, .rwi, .img, 0x0⟩, ⟨2, 2, .rwi, .img, 0x0⟩, ⟨9, 3, .rwi, .img, 0x0⟩, ⟨13, 10, .rwi, .img, 0x0⟩, ⟨16, 14, .rwi, .img, 0x0⟩]⟩,
  /- TIM.PTP_H1 -/ ⟨0xA0054, 1, 0, 1, 0x0, (0, 0, 0), [⟨1, 0, .rwi, .img, 0x0⟩, ⟨2, 2, .rwi, .img, 0x0⟩, ⟨9, 3, .rwi, .img, 0x0⟩, ⟨13, 10, .rwi, .img, 0x0⟩, ⟨16, 14, .rwi, .img, 0x0⟩]⟩,
  /- TIM.PTP_ASYM -/ ⟨0xA0058, 1, 0, 1, 0x0, (0, 0, 0), [⟨15, 0, .rwi, .img, 0x0⟩, ⟨31, 16, .rwi, .img, 0x0⟩]⟩,
  /- TIM.CNT_SYNCRX -/ ⟨0xA0060, 1, 0, 1, 0x0, (0, 0, 0), [⟨31, 0, .rc, .val, 0x0⟩]⟩]

/-- Registers of block TIM, part 2. -/
def regsTIM1 : List RegRow := [
  /- TIM.CNT_SYNCBAD -/ ⟨0xA0064, 1, 0, 1, 0x0, (0, 0, 0), [⟨31, 0, .rc, .val, 0x0⟩]⟩,
  /- TIM.CNT_SYNCMISS -/ ⟨0xA0068, 1, 0, 1, 0x0, (0, 0, 0), [⟨31, 0, .rc, .val, 0x0⟩]⟩,
  /- TIM.CNT_STEP -/ ⟨0xA006C, 1, 0, 1, 0x0, (0, 0, 0), [⟨31, 0, .rc, .val, 0x0⟩]⟩,
  /- TIM.CNT_SLEW -/ ⟨0xA0070, 1, 0, 1, 0x0, (0, 0, 0), [⟨31, 0, .rc, .val, 0x0⟩]⟩,
  /- TIM.CNT_PTPDISC -/ ⟨0xA0074, 1, 0, 1, 0x0, (0, 0, 0), [⟨31, 0, .rc, .val, 0x0⟩]⟩]

/-- Registers of block PHS. -/
def regsPHS0 : List RegRow := [
  /- PHn_CFG -/ ⟨0xB0000, 1, 0, 8, 0x40, (0, 0, 0), [⟨0, 0, .rwi, .img, 0x0⟩, ⟨3, 1, .rwi, .img, 0x0⟩, ⟨6, 4, .rwi, .img, 0x0⟩, ⟨9, 7, .rwi, .img, 0x0⟩, ⟨13, 10, .rwi, .img, 0x3⟩, ⟨21, 14, .rwi, .img, 0x0⟩, ⟨22, 22, .rwi, .img, 0x0⟩]⟩,
  /- PHn_SRC -/ ⟨0xB0004, 1, 0, 8, 0x40, (0, 0, 0), [⟨7, 0, .rwi, .img, 0x0⟩, ⟨15, 8, .rwi, .img, 0x0⟩, ⟨23, 16, .rwi, .img, 0x0⟩, ⟨24, 24, .rwi, .img, 0x0⟩]⟩,
  /- PHn_PARAM -/ ⟨0xB0008, 1, 0, 8, 0x40, (0, 0, 0), [⟨31, 0, .rwi, .img, 0x0⟩]⟩,
  /- PHn_VAL -/ ⟨0xB000C, 1, 0, 8, 0x40, (0, 0, 0), [⟨31, 0, .ro, .live, 0x0⟩]⟩,
  /- PHn_STAT -/ ⟨0xB0010, 1, 0, 8, 0x40, (0, 0, 0), [⟨0, 0, .ro, .val, 0x0⟩, ⟨1, 1, .ro, .val, 0x0⟩, ⟨2, 2, .ro, .val, 0x0⟩, ⟨3, 3, .w1c, .val, 0x0⟩, ⟨4, 4, .w1c, .val, 0x0⟩, ⟨5, 5, .ro, .live, 0x0⟩, ⟨15, 8, .ro, .val, 0x0⟩]⟩,
  /- PHn_PERIOD -/ ⟨0xB0014, 1, 0, 8, 0x40, (0, 0, 0), [⟨31, 0, .ro, .val, 0x0⟩]⟩,
  /- PHn_EVPH -/ ⟨0xB0018, 1, 0, 8, 0x40, (0, 0, 0), [⟨31, 0, .ro, .val, 0x0⟩]⟩,
  /- PHn_EVNS -/ ⟨0xB001C, 1, 0, 8, 0x40, (0, 0, 0), [⟨31, 0, .ro, .val, 0x0⟩]⟩,
  /- PHn_EVSEC -/ ⟨0xB0020, 1, 0, 8, 0x40, (0, 0, 0), [⟨31, 0, .ro, .val, 0x0⟩]⟩,
  /- PHn_CNT_EV -/ ⟨0xB0024, 1, 0, 8, 0x40, (0, 0, 0), [⟨31, 0, .rc, .val, 0x0⟩]⟩,
  /- PHn_CNT_JUMP -/ ⟨0xB0028, 1, 0, 8, 0x40, (0, 0, 0), [⟨31, 0, .rc, .val, 0x0⟩]⟩,
  /- PHn_CNT_STALL -/ ⟨0xB002C, 1, 0, 8, 0x40, (0, 0, 0), [⟨31, 0, .rc, .val, 0x0⟩]⟩,
  /- PHn_CNT_REV -/ ⟨0xB0030, 1, 0, 8, 0x40, (0, 0, 0), [⟨31, 0, .rc, .val, 0x0⟩]⟩,
  /- PHS.CFG -/ ⟨0xB0200, 1, 0, 1, 0x0, (0, 0, 0), [⟨13, 0, .rwi, .img, 0x64⟩]⟩,
  /- PHS.CNT_RESETDISC -/ ⟨0xB0204, 1, 0, 1, 0x0, (0, 0, 0), [⟨31, 0, .rc, .val, 0x0⟩]⟩]

/-- Registers of block RFX. -/
def regsRFX0 : List RegRow := [
  /- RFX.STAT -/ ⟨0xC0000, 1, 0, 1, 0x0, (0, 0, 0), [⟨12, 0, .ro, .img, 0x0⟩, ⟨13, 13, .ro, .live, 0x0⟩, ⟨14, 14, .ro, .live, 0x0⟩]⟩,
  /- RFX.SWCFG -/ ⟨0xC0004, 1, 0, 1, 0x0, (0, 0, 0), [⟨13, 0, .rwi, .img, 0x64⟩, ⟨14, 14, .rwi, .img, 0x0⟩, ⟨29, 16, .rwi, .img, 0x0⟩]⟩,
  /- RFX.XSWEEP -/ ⟨0xC0008, 1, 0, 1, 0x0, (0, 0, 0), [⟨0, 0, .rwi, .img, 0x0⟩, ⟨3, 1, .rwi, .img, 0x0⟩, ⟨31, 16, .rwi, .img, 0x0⟩]⟩,
  /- RFX.GRPEN0 -/ ⟨0xC0010, 1, 0, 1, 0x0, (0, 0, 0), [⟨31, 0, .rwi, .img, 0x0⟩]⟩,
  /- RFX.GRPEN1 -/ ⟨0xC0014, 1, 0, 1, 0x0, (0, 0, 0), [⟨31, 0, .rwi, .img, 0x0⟩]⟩,
  /- RFX.SWTIME -/ ⟨0xC0018, 1, 0, 1, 0x0, (0, 0, 0), [⟨12, 0, .ro, .live, 0x0⟩, ⟨28, 16, .rc, .val, 0x0⟩]⟩,
  /- RFX.LCLR -/ ⟨0xC0020, 1, 0, 1, 0x0, (0, 0, 0), [⟨11, 0, .wo, .val, 0x0⟩, ⟨12, 12, .wo, .val, 0x0⟩]⟩,
  /- RFX.RULE_IDX -/ ⟨0xC0024, 1, 0, 1, 0x0, (0, 0, 0), [⟨11, 0, .rw, .val, 0x0⟩]⟩,
  /- RFX.RULE_STAT -/ ⟨0xC0028, 1, 0, 1, 0x0, (0xC0024, 11, 0), [⟨0, 0, .ro, .live, 0x0⟩, ⟨1, 1, .ro, .live, 0x0⟩, ⟨2, 2, .ro, .live, 0x0⟩, ⟨3, 3, .ro, .live, 0x0⟩, ⟨7, 4, .ro, .live, 0x0⟩, ⟨15, 8, .ro, .live, 0x0⟩]⟩,
  /- RFX.RULE_W -/ ⟨0xC0040, 16, 4, 1, 0x0, (0xC0024, 11, 0), [⟨31, 0, .rwi, .img, 0x0⟩]⟩,
  /- RFX.ALM_STAT -/ ⟨0xC0080, 1, 0, 1, 0x0, (0, 0, 0), [⟨8, 0, .ro, .live, 0x0⟩, ⟨9, 9, .w1c, .val, 0x0⟩, ⟨31, 16, .rc, .val, 0x0⟩]⟩,
  /- RFX.ALM_POP -/ ⟨0xC0084, 1, 0, 1, 0x0, (0, 0, 0), [⟨0, 0, .wo, .val, 0x0⟩]⟩,
  /- RFX.ALM_DATA -/ ⟨0xC0088, 4, 4, 1, 0x0, (0, 0, 0), [⟨31, 0, .ro, .live, 0x0⟩]⟩,
  /- RFX.CNT_SWEEP -/ ⟨0xC00A0, 1, 0, 1, 0x0, (0, 0, 0), [⟨31, 0, .rc, .val, 0x0⟩]⟩,
  /- RFX.CNT_OUTCONF -/ ⟨0xC00A4, 1, 0, 1, 0x0, (0, 0, 0), [⟨31, 0, .rc, .val, 0x0⟩]⟩,
  /- RFX.CNT_LCLR -/ ⟨0xC00A8, 1, 0, 1, 0x0, (0, 0, 0), [⟨31, 0, .rc, .val, 0x0⟩]⟩,
  /- RFX.CNT_REALIGN -/ ⟨0xC00AC, 1, 0, 1, 0x0, (0, 0, 0), [⟨31, 0, .rc, .val, 0x0⟩]⟩,
  /- RFX.CNT_DEFER -/ ⟨0xC00B0, 1, 0, 1, 0x0, (0, 0, 0), [⟨31, 0, .rc, .val, 0x0⟩]⟩,
  /- RFX.CNT_RESETDISC -/ ⟨0xC00B4, 1, 0, 1, 0x0, (0, 0, 0), [⟨31, 0, .rc, .val, 0x0⟩]⟩,
  /- RFX.CRD -/ ⟨0xC00C0, 1, 0, 1, 0x0, (0, 0, 0), [⟨7, 0, .ro, .live, 0x0⟩]⟩,
  /- RFX.STATE -/ ⟨0xC0100, 128, 4, 1, 0x0, (0, 0, 0), [⟨31, 0, .ro, .live, 0x0⟩]⟩]

/-- Registers of block IMG. -/
def regsIMG0 : List RegRow := [
  /- IMG.STAT -/ ⟨0xD0000, 1, 0, 1, 0x0, (0, 0, 0), [⟨2, 0, .ro, .live, 0x0⟩, ⟨3, 3, .ro, .live, 0x0⟩, ⟨4, 4, .ro, .live, 0x0⟩, ⟨11, 8, .ro, .live, 0x0⟩]⟩,
  /- IMG.SERIAL -/ ⟨0xD0004, 1, 0, 1, 0x0, (0, 0, 0), [⟨31, 0, .ro, .img, 0x0⟩]⟩,
  /- IMG.MODE -/ ⟨0xD0008, 1, 0, 1, 0x0, (0, 0, 0), [⟨4, 0, .ro, .live, 0x0⟩, ⟨9, 5, .ro, .live, 0x0⟩, ⟨31, 16, .ro, .live, 0x0⟩]⟩,
  /- IMG.OVSTAT -/ ⟨0xD000C, 1, 0, 1, 0x0, (0, 0, 0), [⟨15, 0, .ro, .live, 0x0⟩, ⟨31, 16, .ro, .live, 0x0⟩]⟩,
  /- IMG.MC_CFG -/ ⟨0xD0010, 1, 0, 1, 0x0, (0, 0, 0), [⟨11, 0, .rwi, .img, 0x64⟩, ⟨19, 12, .rwi, .img, 0xA⟩, ⟨31, 20, .rwi, .img, 0x32⟩]⟩,
  /- IMG.MC_ARG0 -/ ⟨0xD0014, 1, 0, 1, 0x0, (0, 0, 0), [⟨31, 0, .rw, .val, 0x0⟩]⟩,
  /- IMG.MC_ARG1 -/ ⟨0xD0018, 1, 0, 1, 0x0, (0, 0, 0), [⟨31, 0, .rw, .val, 0x0⟩]⟩,
  /- IMG.MC_CTL -/ ⟨0xD001C, 1, 0, 1, 0x0, (0, 0, 0), [⟨4, 0, .rw, .val, 0x0⟩, ⟨5, 5, .rw, .val, 0x0⟩, ⟨13, 6, .rw, .val, 0x0⟩, ⟨16, 14, .rw, .val, 0x0⟩, ⟨31, 31, .wo, .val, 0x0⟩]⟩,
  /- IMG.MC_STAT -/ ⟨0xD0020, 1, 0, 1, 0x0, (0, 0, 0), [⟨0, 0, .ro, .val, 0x0⟩, ⟨3, 1, .ro, .val, 0x0⟩, ⟨7, 4, .ro, .val, 0x0⟩, ⟨15, 8, .ro, .val, 0x0⟩]⟩,
  /- IMG.MC_ARM -/ ⟨0xD0024, 1, 0, 1, 0x0, (0, 0, 0), [⟨0, 0, .ro, .live, 0x0⟩, ⟨1, 1, .ro, .live, 0x0⟩, ⟨6, 2, .ro, .live, 0x0⟩, ⟨31, 16, .ro, .live, 0x0⟩]⟩,
  /- IMG.STG_CTL -/ ⟨0xD0030, 1, 0, 1, 0x0, (0, 0, 0), [⟨2, 0, .wo, .val, 0x0⟩, ⟨6, 3, .wo, .val, 0x0⟩]⟩,
  /- IMG.STG_STAT -/ ⟨0xD0034, 1, 0, 1, 0x0, (0, 0, 0), [⟨0, 0, .ro, .val, 0x0⟩, ⟨1, 1, .ro, .live, 0x0⟩, ⟨4, 2, .ro, .val, 0x0⟩, ⟨11, 8, .ro, .val, 0x0⟩]⟩,
  /- IMG.SET_CTL -/ ⟨0xD0040, 1, 0, 1, 0x0, (0, 0, 0), [⟨0, 0, .wo, .val, 0x0⟩, ⟨1, 1, .wo, .val, 0x0⟩]⟩,
  /- IMG.SET_STAT -/ ⟨0xD0044, 1, 0, 1, 0x0, (0, 0, 0), [⟨0, 0, .ro, .live, 0x0⟩, ⟨1, 1, .ro, .live, 0x0⟩, ⟨2, 2, .ro, .live, 0x0⟩, ⟨23, 16, .ro, .val, 0x0⟩]⟩,
  /- IMG.CNT_MODECHG -/ ⟨0xD0050, 1, 0, 1, 0x0, (0, 0, 0), [⟨31, 0, .rc, .val, 0x0⟩]⟩,
  /- IMG.CNT_VETO -/ ⟨0xD0054, 1, 0, 1, 0x0, (0, 0, 0), [⟨31, 0, .rc, .val, 0x0⟩]⟩,
  /- IMG.CNT_LATEAPPLY -/ ⟨0xD0058, 1, 0, 1, 0x0, (0, 0, 0), [⟨31, 0, .rc, .val, 0x0⟩]⟩,
  /- IMG.CNT_REJECT -/ ⟨0xD005C, 1, 0, 1, 0x0, (0, 0, 0), [⟨31, 0, .rc, .val, 0x0⟩]⟩,
  /- IMG.HASH -/ ⟨0xD0080, 12, 4, 1, 0x0, (0, 0, 0), [⟨31, 0, .ro, .img, 0x0⟩]⟩]

/-- Registers of block CRY, part 1. -/
def regsCRY0 : List RegRow := [
  /- CRY.STAT -/ ⟨0xE0000, 1, 0, 1, 0x0, (0, 0, 0), [⟨0, 0, .ro, .live, 0x0⟩, ⟨1, 1, .ro, .live, 0x0⟩, ⟨2, 2, .ro, .live, 0x0⟩, ⟨8, 3, .ro, .live, 0x0⟩, ⟨24, 16, .ro, .live, 0x0⟩]⟩,
  /- CRY.SQ_CFG -/ ⟨0xE0004, 1, 0, 1, 0x0, (0, 0, 0), [⟨3, 0, .rwi, .img, 0x0⟩, ⟨7, 4, .rwi, .img, 0x0⟩, ⟨8, 8, .rwi, .img, 0x0⟩, ⟨9, 9, .rwi, .img, 0x0⟩, ⟨10, 10, .rwi, .img, 0x0⟩]⟩,
  /- CRY.SQ_FILT -/ ⟨0xE0008, 1, 0, 1, 0x0, (0, 0, 0), [⟨7, 0, .rwi, .img, 0x0⟩, ⟨15, 8, .rwi, .img, 0x0⟩, ⟨23, 16, .rwi, .img, 0x0⟩, ⟨31, 24, .rwi, .img, 0x0⟩]⟩,
  /- CRY.SQ_STAT -/ ⟨0xE000C, 1, 0, 1, 0x0, (0, 0, 0), [⟨3, 0, .w1c, .live, 0x0⟩, ⟨4, 4, .w1c, .live, 0x0⟩, ⟨5, 5, .w1c, .live, 0x0⟩, ⟨6, 6, .w1c, .live, 0x0⟩, ⟨7, 7, .w1c, .live, 0x0⟩]⟩,
  /- CRY.FUSE_STAT -/ ⟨0xE0010, 1, 0, 1, 0x0, (0, 0, 0), [⟨0, 0, .ro, .live, 0x0⟩, ⟨4, 1, .ro, .live, 0x0⟩, ⟨8, 5, .ro, .live, 0x0⟩, ⟨9, 9, .ro, .live, 0x0⟩, ⟨10, 10, .ro, .live, 0x0⟩, ⟨13, 11, .ro, .val, 0x0⟩]⟩,
  /- CRY.FUSE_CMD -/ ⟨0xE0014, 1, 0, 1, 0x0, (0, 0, 0), [⟨2, 0, .wo, .val, 0x0⟩, ⟨4, 3, .wo, .val, 0x0⟩]⟩,
  /- CRY.FUSE_KCV -/ ⟨0xE0018, 1, 0, 1, 0x0, (0, 0, 0), [⟨23, 0, .ro, .live, 0x0⟩, ⟨24, 24, .rw, .val, 0x0⟩]⟩,
  /- CRY.FUSE_DATA -/ ⟨0xE0020, 12, 4, 1, 0x0, (0, 0, 0), [⟨31, 0, .rw, .val, 0x0⟩]⟩,
  /- CRY.LK_CFG -/ ⟨0xE0060, 1, 0, 1, 0x0, (0, 0, 0), [⟨9, 0, .rwi, .img, 0x18⟩]⟩,
  /- CRY.LK_CTL -/ ⟨0xE0064, 1, 0, 1, 0x0, (0, 0, 0), [⟨0, 0, .wo, .val, 0x0⟩, ⟨1, 1, .wo, .val, 0x0⟩]⟩,
  /- CRY.LK_STAT -/ ⟨0xE0068, 1, 0, 1, 0x0, (0, 0, 0), [⟨0, 0, .w1c, .val, 0x0⟩, ⟨1, 1, .w1c, .val, 0x0⟩, ⟨13, 8, .ro, .live, 0x0⟩, ⟨21, 16, .ro, .live, 0x0⟩]⟩,
  /- CRY.LKEP -/ ⟨0xE0070, 2, 4, 1, 0x0, (0, 0, 0), [⟨15, 0, .ro, .live, 0x0⟩, ⟨31, 16, .ro, .live, 0x0⟩]⟩,
  /- CRY.KS_IDX -/ ⟨0xE0080, 1, 0, 1, 0x0, (0, 0, 0), [⟨7, 0, .rw, .val, 0x0⟩]⟩,
  /- CRY.KS_STAT -/ ⟨0xE0084, 1, 0, 1, 0x0, (0xE0080, 7, 0), [⟨1, 0, .ro, .live, 0x0⟩, ⟨2, 2, .ro, .live, 0x0⟩, ⟨8, 3, .ro, .img, 0x0⟩, ⟨9, 9, .ro, .img, 0x0⟩, ⟨31, 16, .ro, .live, 0x0⟩]⟩,
  /- CRY.CMD_LOCK -/ ⟨0xE0090, 1, 0, 1, 0x0, (0, 0, 0), [⟨0, 0, .ro, .live, 0x0⟩, ⟨15, 8, .ro, .live, 0x0⟩, ⟨23, 16, .ro, .live, 0x0⟩]⟩,
  /- CRY.CMD -/ ⟨0xE0094, 1, 0, 1, 0x0, (0, 0, 0), [⟨1, 0, .wo, .val, 0x0⟩, ⟨7, 2, .wo, .val, 0x0⟩]⟩,
  /- CRY.CMD_RES -/ ⟨0xE0098, 1, 0, 1, 0x0, (0, 0, 0), [⟨5, 0, .ro, .val, 0x0⟩, ⟨18, 16, .ro, .val, 0x0⟩]⟩,
  /- CRY.CNT_EXH -/ ⟨0xE00A0, 1, 0, 1, 0x0, (0, 0, 0), [⟨31, 0, .rc, .val, 0x0⟩]⟩,
  /- CRY.CNT_QFULL -/ ⟨0xE00A4, 1, 0, 1, 0x0, (0, 0, 0), [⟨31, 0, .rc, .val, 0x0⟩]⟩,
  /- CRY.CNT_AUTHFAIL -/ ⟨0xE00A8, 1, 0, 1, 0x0, (0, 0, 0), [⟨31, 0, .rc, .val, 0x0⟩]⟩,
  /- CRY.CNT_STALE -/ ⟨0xE00AC, 1, 0, 1, 0x0, (0, 0, 0), [⟨31, 0, .rc, .val, 0x0⟩]⟩,
  /- CRY.CNT_KEYLOST -/ ⟨0xE00B0, 1, 0, 1, 0x0, (0, 0, 0), [⟨31, 0, .rc, .val, 0x0⟩]⟩,
  /- CRY.CNT_LKEXH -/ ⟨0xE00B4, 1, 0, 1, 0x0, (0, 0, 0), [⟨31, 0, .rc, .val, 0x0⟩]⟩,
  /- CRY.CNT_RESETDISC -/ ⟨0xE00B8, 1, 0, 1, 0x0, (0, 0, 0), [⟨31, 0, .rc, .val, 0x0⟩]⟩]

/-- Registers of block CRY, part 2. -/
def regsCRY1 : List RegRow := [
  /- UPnn_CFG -/ ⟨0xE1000, 1, 0, 64, 0x100, (0, 0, 0), [⟨0, 0, .ro, .live, 0x0⟩, ⟨1, 1, .ro, .live, 0x0⟩, ⟨9, 2, .rwi, .img, 0x0⟩, ⟨17, 10, .rwi, .img, 0x0⟩, ⟨22, 18, .rwi, .img, 0x0⟩]⟩,
  /- UPnn_OWNER -/ ⟨0xE1004, 1, 0, 64, 0x100, (0, 0, 0), [⟨7, 0, .ro, .img, 0x0⟩, ⟨15, 8, .ro, .img, 0x0⟩, ⟨31, 16, .ro, .live, 0x0⟩]⟩,
  /- UPnn_KD -/ ⟨0xE1008, 1, 0, 64, 0x100, (0, 0, 0), [⟨1, 0, .wo, .val, 0x0⟩, ⟨2, 2, .wo, .val, 0x0⟩, ⟨7, 3, .wo, .val, 0x0⟩, ⟨15, 8, .wo, .val, 0x0⟩]⟩,
  /- UPnn_KDCTX -/ ⟨0xE1010, 8, 4, 64, 0x100, (0, 0, 0), [⟨31, 0, .rw, .val, 0x0⟩]⟩,
  /- UPnn_MODE -/ ⟨0xE1030, 1, 0, 64, 0x100, (0, 0, 0), [⟨2, 0, .rw, .val, 0x0⟩, ⟨3, 3, .rw, .val, 0x1⟩, ⟨4, 4, .rw, .val, 0x1⟩, ⟨9, 5, .rw, .val, 0x10⟩, ⟨23, 16, .rw, .val, 0x0⟩]⟩,
  /- UPnn_SRC -/ ⟨0xE1034, 1, 0, 64, 0x100, (0, 0, 0), [⟨31, 0, .rw, .val, 0x0⟩]⟩,
  /- UPnn_DST -/ ⟨0xE1038, 1, 0, 64, 0x100, (0, 0, 0), [⟨31, 0, .rw, .val, 0x0⟩]⟩,
  /- UPnn_AADA -/ ⟨0xE103C, 1, 0, 64, 0x100, (0, 0, 0), [⟨31, 0, .rw, .val, 0x0⟩]⟩,
  /- UPnn_TAGA -/ ⟨0xE1040, 1, 0, 64, 0x100, (0, 0, 0), [⟨31, 0, .rw, .val, 0x0⟩]⟩,
  /- UPnn_LEN -/ ⟨0xE1044, 1, 0, 64, 0x100, (0, 0, 0), [⟨23, 0, .rw, .val, 0x0⟩]⟩,
  /- UPnn_AADLEN -/ ⟨0xE1048, 1, 0, 64, 0x100, (0, 0, 0), [⟨23, 0, .rw, .val, 0x0⟩]⟩,
  /- UPnn_IV -/ ⟨0xE104C, 3, 4, 64, 0x100, (0, 0, 0), [⟨31, 0, .rw, .val, 0x0⟩]⟩,
  /- UPnn_GO -/ ⟨0xE1058, 1, 0, 64, 0x100, (0, 0, 0), [⟨0, 0, .wo, .val, 0x0⟩]⟩,
  /- UPnn_JSTAT -/ ⟨0xE105C, 1, 0, 64, 0x100, (0, 0, 0), [⟨2, 0, .ro, .val, 0x0⟩, ⟨5, 3, .ro, .live, 0x0⟩, ⟨6, 6, .ro, .live, 0x0⟩, ⟨31, 8, .ro, .val, 0x0⟩]⟩,
  /- UPnn_CTXCTL -/ ⟨0xE1060, 1, 0, 64, 0x100, (0, 0, 0), [⟨1, 0, .wo, .val, 0x0⟩, ⟨2, 2, .wo, .val, 0x0⟩, ⟨6, 4, .ro, .val, 0x0⟩]⟩,
  /- UPnn_CTX -/ ⟨0xE1080, 21, 4, 64, 0x100, (0, 0, 0), [⟨31, 0, .rw, .val, 0x0⟩]⟩]

/-- Registers of block TWN. -/
def regsTWN0 : List RegRow := [
  /- TWN.CFG -/ ⟨0xF0000, 1, 0, 1, 0x0, (0, 0, 0), [⟨0, 0, .rwi, .img, 0x0⟩, ⟨1, 1, .rwi, .img, 0x0⟩, ⟨17, 2, .rwi, .img, 0x258⟩, ⟨27, 18, .rwi, .img, 0x32⟩]⟩,
  /- TWN.STAT -/ ⟨0xF0004, 1, 0, 1, 0x0, (0, 0, 0), [⟨1, 0, .ro, .live, 0x0⟩, ⟨3, 2, .ro, .live, 0x0⟩, ⟨4, 4, .ro, .live, 0x0⟩, ⟨5, 5, .ro, .live, 0x0⟩, ⟨6, 6, .ro, .live, 0x0⟩, ⟨7, 7, .ro, .live, 0x0⟩, ⟨8, 8, .ro, .live, 0x0⟩, ⟨31, 16, .ro, .live, 0x0⟩]⟩,
  /- TWN.CTL -/ ⟨0xF0008, 1, 0, 1, 0x0, (0, 0, 0), [⟨0, 0, .wo, .val, 0x0⟩, ⟨1, 1, .wo, .val, 0x0⟩, ⟨2, 2, .rw, .val, 0x0⟩]⟩,
  /- TWN.VSTAT -/ ⟨0xF000C, 1, 0, 1, 0x0, (0, 0, 0), [⟨0, 0, .ro, .val, 0x0⟩, ⟨3, 1, .ro, .val, 0x0⟩]⟩,
  /- TWN.LAST -/ ⟨0xF0010, 1, 0, 1, 0x0, (0, 0, 0), [⟨3, 0, .ro, .val, 0x0⟩, ⟨4, 4, .ro, .val, 0x0⟩, ⟨15, 8, .ro, .val, 0x0⟩]⟩,
  /- TWN.LAST_NS -/ ⟨0xF0014, 1, 0, 1, 0x0, (0, 0, 0), [⟨31, 0, .ro, .val, 0x0⟩]⟩,
  /- TWN.LAST_SEC -/ ⟨0xF0018, 1, 0, 1, 0x0, (0, 0, 0), [⟨31, 0, .ro, .val, 0x0⟩]⟩,
  /- TWN.PIO_RST0 -/ ⟨0xF0020, 1, 0, 1, 0x0, (0, 0, 0), [⟨31, 0, .rwi, .img, 0x0⟩]⟩,
  /- TWN.PIO_RST1 -/ ⟨0xF0024, 1, 0, 1, 0x0, (0, 0, 0), [⟨31, 0, .rwi, .img, 0x0⟩]⟩,
  /- TWN.CRD -/ ⟨0xF0028, 1, 0, 1, 0x0, (0, 0, 0), [⟨31, 0, .ro, .live, 0x0⟩]⟩,
  /- TWN.REVT -/ ⟨0xF002C, 1, 0, 1, 0x0, (0, 0, 0), [⟨15, 0, .ro, .live, 0x0⟩]⟩,
  /- TWN.CNT_TKO -/ ⟨0xF0040, 1, 0, 1, 0x0, (0, 0, 0), [⟨31, 0, .rc, .val, 0x0⟩]⟩,
  /- TWN.CNT_VEER -/ ⟨0xF0044, 1, 0, 1, 0x0, (0, 0, 0), [⟨31, 0, .rc, .val, 0x0⟩]⟩,
  /- TWN.CNT_MISM -/ ⟨0xF0048, 1, 0, 1, 0x0, (0, 0, 0), [⟨31, 0, .rc, .val, 0x0⟩]⟩,
  /- TWN.CNT_DIVERGE -/ ⟨0xF004C, 1, 0, 1, 0x0, (0, 0, 0), [⟨31, 0, .rc, .val, 0x0⟩]⟩,
  /- TWN.CNT_TBAD -/ ⟨0xF0050, 1, 0, 1, 0x0, (0, 0, 0), [⟨31, 0, .rc, .val, 0x0⟩]⟩,
  /- TWN.CNT_REDO -/ ⟨0xF0054, 1, 0, 1, 0x0, (0, 0, 0), [⟨31, 0, .rc, .val, 0x0⟩]⟩]

/-- Registers of block CKR. -/
def regsCKR0 : List RegRow := [
  /- CKR.REF_CTL -/ ⟨0x100000, 1, 0, 1, 0x0, (0, 0, 0), [⟨7, 0, .rwi, .img, 0xE4⟩, ⟨11, 8, .rwi, .img, 0x0⟩, ⟨14, 12, .rw, .val, 0x0⟩]⟩,
  /- CKR.REF_STAT -/ ⟨0x100004, 1, 0, 1, 0x0, (0, 0, 0), [⟨1, 0, .ro, .live, 0x0⟩, ⟨5, 2, .ro, .live, 0x0⟩, ⟨6, 6, .ro, .live, 0x0⟩, ⟨7, 7, .ro, .live, 0x0⟩]⟩,
  /- CKR.PLL_STAT -/ ⟨0x100008, 1, 0, 1, 0x0, (0, 0, 0), [⟨0, 0, .ro, .live, 0x0⟩, ⟨1, 1, .ro, .live, 0x0⟩, ⟨2, 2, .ro, .live, 0x0⟩, ⟨3, 3, .ro, .live, 0x0⟩, ⟨6, 4, .ro, .live, 0x0⟩, ⟨10, 7, .ro, .live, 0x0⟩]⟩,
  /- CKR.DOM_SRC -/ ⟨0x10000C, 1, 0, 1, 0x0, (0, 0, 0), [⟨1, 0, .ro, .live, 0x0⟩, ⟨3, 2, .ro, .live, 0x0⟩, ⟨5, 4, .ro, .live, 0x0⟩, ⟨7, 6, .ro, .live, 0x0⟩, ⟨9, 8, .ro, .live, 0x0⟩, ⟨11, 10, .ro, .live, 0x0⟩, ⟨13, 12, .ro, .live, 0x0⟩, ⟨15, 14, .ro, .live, 0x0⟩, ⟨17, 16, .ro, .live, 0x0⟩, ⟨19, 18, .ro, .live, 0x0⟩, ⟨21, 20, .ro, .live, 0x0⟩, ⟨23, 22, .ro, .live, 0x0⟩, ⟨25, 24, .ro, .live, 0x0⟩, ⟨27, 26, .ro, .live, 0x0⟩, ⟨29, 28, .ro, .live, 0x0⟩, ⟨31, 30, .ro, .live, 0x0⟩]⟩,
  /- CKR.MON_STAT -/ ⟨0x100010, 1, 0, 1, 0x0, (0, 0, 0), [⟨6, 0, .w1c, .val, 0x0⟩, ⟨14, 8, .w1c, .val, 0x0⟩, ⟨22, 16, .w1c, .val, 0x0⟩]⟩,
  /- CKR.GATE -/ ⟨0x100014, 1, 0, 1, 0x0, (0, 0, 0), [⟨20, 0, .rw, .val, 0x0⟩]⟩,
  /- CKR.GACK -/ ⟨0x100018, 1, 0, 1, 0x0, (0, 0, 0), [⟨20, 0, .ro, .live, 0x0⟩]⟩,
  /- CKR.GFAIL -/ ⟨0x10001C, 1, 0, 1, 0x0, (0, 0, 0), [⟨20, 0, .w1c, .val, 0x0⟩]⟩,
  /- CKR.RST_CTL -/ ⟨0x100020, 1, 0, 1, 0x0, (0, 0, 0), [⟨1, 0, .wo, .val, 0x0⟩]⟩,
  /- CKR.BLKRST -/ ⟨0x100024, 1, 0, 1, 0x0, (0, 0, 0), [⟨20, 0, .w1s, .val, 0x0⟩]⟩,
  /- CKR.RSTCAUSE -/ ⟨0x100028, 1, 0, 1, 0x0, (0, 0, 0), [⟨1, 0, .ro, .live, 0x0⟩, ⟨7, 4, .ro, .live, 0x0⟩, ⟨15, 8, .ro, .live, 0x0⟩]⟩,
  /- CKR.CNT_REFSW -/ ⟨0x100040, 1, 0, 1, 0x0, (0, 0, 0), [⟨31, 0, .rc, .val, 0x0⟩]⟩,
  /- CKR.CNT_RAMP -/ ⟨0x100044, 1, 0, 1, 0x0, (0, 0, 0), [⟨31, 0, .rc, .val, 0x0⟩]⟩,
  /- CKR.CNT_FORCED -/ ⟨0x100048, 1, 0, 1, 0x0, (0, 0, 0), [⟨31, 0, .rc, .val, 0x0⟩]⟩,
  /- CKR.CNT_GATETMO -/ ⟨0x10004C, 1, 0, 1, 0x0, (0, 0, 0), [⟨31, 0, .rc, .val, 0x0⟩]⟩,
  /- CKR.CNT_MISSING -/ ⟨0x100050, 1, 0, 1, 0x0, (0, 0, 0), [⟨31, 0, .rc, .val, 0x0⟩]⟩]

/-- Registers of block PWR. -/
def regsPWR0 : List RegRow := [
  /- PWR.CFG_IN -/ ⟨0x110000, 1, 0, 1, 0x0, (0, 0, 0), [⟨7, 0, .rwi, .val, 0x22⟩, ⟨15, 8, .rwi, .val, 0x20⟩, ⟨23, 16, .rwi, .val, 0xAC⟩, ⟨31, 24, .rwi, .val, 0xA8⟩]⟩,
  /- PWR.CFG_LIM -/ ⟨0x110004, 1, 0, 1, 0x0, (0, 0, 0), [⟨1, 0, .rwi, .val, 0x1⟩, ⟨11, 4, .rwi, .val, 0x14⟩, ⟨19, 12, .rwi, .val, 0x14⟩, ⟨23, 20, .rwi, .val, 0x4⟩]⟩,
  /- PWR.CFG_RTY -/ ⟨0x110008, 1, 0, 1, 0x0, (0, 0, 0), [⟨3, 0, .rwi, .val, 0x3⟩, ⟨13, 4, .rwi, .val, 0x14⟩, ⟨23, 14, .rwi, .val, 0x32⟩]⟩,
  /- PWR.STAT -/ ⟨0x11000C, 1, 0, 1, 0x0, (0, 0, 0), [⟨2, 0, .ro, .live, 0x0⟩, ⟨3, 3, .ro, .live, 0x0⟩, ⟨4, 4, .ro, .live, 0x0⟩, ⟨5, 5, .ro, .live, 0x0⟩, ⟨6, 6, .ro, .live, 0x0⟩, ⟨12, 8, .ro, .live, 0x0⟩, ⟨14, 13, .ro, .live, 0x0⟩]⟩,
  /- PWR.FLAGS -/ ⟨0x110010, 1, 0, 1, 0x0, (0, 0, 0), [⟨0, 0, .w1c, .val, 0x0⟩, ⟨1, 1, .w1c, .val, 0x0⟩, ⟨2, 2, .w1c, .val, 0x0⟩, ⟨3, 3, .w1c, .val, 0x0⟩, ⟨4, 4, .w1c, .val, 0x0⟩]⟩,
  /- PWR.MEAS0 -/ ⟨0x110014, 1, 0, 1, 0x0, (0, 0, 0), [⟨15, 0, .ro, .live, 0x0⟩, ⟨31, 16, .ro, .live, 0x0⟩]⟩,
  /- PWR.MEAS1 -/ ⟨0x110018, 1, 0, 1, 0x0, (0, 0, 0), [⟨15, 0, .ro, .live, 0x0⟩, ⟨31, 16, .ro, .live, 0x0⟩]⟩,
  /- PWR.CNT_TRIP -/ ⟨0x110020, 1, 0, 1, 0x0, (0, 0, 0), [⟨31, 0, .rc, .val, 0x0⟩]⟩]

/-- Registers of block MGT, part 1. -/
def regsMGT0 : List RegRow := [
  /- MGT.STAT -/ ⟨0x120000, 1, 0, 1, 0x0, (0, 0, 0), [⟨0, 0, .ro, .live, 0x0⟩, ⟨1, 1, .ro, .live, 0x0⟩, ⟨2, 2, .ro, .live, 0x0⟩, ⟨3, 3, .ro, .live, 0x0⟩, ⟨5, 4, .ro, .live, 0x0⟩, ⟨6, 6, .ro, .live, 0x0⟩]⟩,
  /- MGT.FWINFO -/ ⟨0x120004, 1, 0, 1, 0x0, (0, 0, 0), [⟨31, 0, .ro, .live, 0x0⟩]⟩,
  /- MGT.UPD_CFG -/ ⟨0x120008, 1, 0, 1, 0x0, (0, 0, 0), [⟨15, 0, .rwi, .img, 0x708⟩, ⟨16, 16, .rwi, .img, 0x0⟩]⟩,
  /- MGT.UPD_STAT -/ ⟨0x12000C, 1, 0, 1, 0x0, (0, 0, 0), [⟨0, 0, .ro, .live, 0x0⟩, ⟨1, 1, .ro, .live, 0x0⟩, ⟨3, 2, .ro, .live, 0x0⟩, ⟨4, 4, .ro, .live, 0x0⟩, ⟨5, 5, .w1c, .val, 0x0⟩, ⟨31, 16, .ro, .live, 0x0⟩]⟩,
  /- MGT.MBX_LOCK -/ ⟨0x120010, 1, 0, 1, 0x0, (0, 0, 0), [⟨0, 0, .ro, .live, 0x0⟩, ⟨15, 8, .ro, .live, 0x0⟩, ⟨23, 16, .ro, .live, 0x0⟩]⟩,
  /- MGT.MBX_CMD -/ ⟨0x120014, 1, 0, 1, 0x0, (0, 0, 0), [⟨7, 0, .wo, .val, 0x0⟩, ⟨13, 8, .wo, .val, 0x0⟩]⟩,
  /- MGT.MBX_RES -/ ⟨0x120018, 1, 0, 1, 0x0, (0, 0, 0), [⟨0, 0, .ro, .live, 0x0⟩, ⟨3, 1, .ro, .val, 0x0⟩, ⟨9, 4, .ro, .val, 0x0⟩, ⟨13, 10, .ro, .val, 0x0⟩]⟩,
  /- MGT.MBX_ARG -/ ⟨0x120020, 8, 4, 1, 0x0, (0, 0, 0), [⟨31, 0, .rw, .val, 0x0⟩]⟩,
  /- MGT.MBX_DATA -/ ⟨0x120040, 8, 4, 1, 0x0, (0, 0, 0), [⟨31, 0, .ro, .val, 0x0⟩]⟩,
  /- MGT.SNS_IDX -/ ⟨0x120060, 1, 0, 1, 0x0, (0, 0, 0), [⟨7, 0, .rw, .val, 0x0⟩]⟩,
  /- MGT.SNS_VAL -/ ⟨0x120064, 1, 0, 1, 0x0, (0x120060, 7, 0), [⟨15, 0, .ro, .live, 0x0⟩, ⟨18, 16, .ro, .live, 0x0⟩, ⟨19, 19, .ro, .live, 0x0⟩]⟩,
  /- MGT.SNS_THRLO -/ ⟨0x120068, 1, 0, 1, 0x0, (0x120060, 7, 0), [⟨15, 0, .rwi, .img, 0x0⟩, ⟨31, 16, .rwi, .img, 0x0⟩]⟩,
  /- MGT.SNS_THRHI -/ ⟨0x12006C, 1, 0, 1, 0x0, (0x120060, 7, 0), [⟨15, 0, .rwi, .img, 0x0⟩, ⟨31, 16, .rwi, .img, 0x0⟩]⟩,
  /- MGT.EVL_STAT -/ ⟨0x120080, 1, 0, 1, 0x0, (0, 0, 0), [⟨12, 0, .ro, .live, 0x0⟩, ⟨13, 13, .wo, .val, 0x0⟩, ⟨23, 16, .rc, .val, 0x0⟩, ⟨31, 24, .rc, .val, 0x0⟩]⟩,
  /- MGT.EVL_IDX -/ ⟨0x120084, 1, 0, 1, 0x0, (0, 0, 0), [⟨11, 0, .rw, .val, 0x0⟩]⟩,
  /- MGT.EVL_DATA -/ ⟨0x1200A0, 8, 4, 1, 0x0, (0x120084, 11, 0), [⟨31, 0, .ro, .live, 0x0⟩]⟩,
  /- MGT.VLOG_STAT -/ ⟨0x1200C0, 1, 0, 1, 0x0, (0, 0, 0), [⟨6, 0, .ro, .live, 0x0⟩, ⟨7, 7, .w1c, .val, 0x0⟩, ⟨8, 8, .wo, .val, 0x0⟩, ⟨31, 16, .rc, .val, 0x0⟩]⟩,
  /- MGT.VLOG_IDX -/ ⟨0x1200C4, 1, 0, 1, 0x0, (0, 0, 0), [⟨11, 0, .rw, .val, 0x0⟩]⟩,
  /- MGT.VLOG_DATA -/ ⟨0x1200E0, 8, 4, 1, 0x0, (0x1200C4, 5, 0), [⟨31, 0, .ro, .live, 0x0⟩]⟩,
  /- MGT.PLOG_STAT -/ ⟨0x120100, 1, 0, 1, 0x0, (0, 0, 0), [⟨6, 0, .ro, .live, 0x0⟩, ⟨7, 7, .w1c, .val, 0x0⟩, ⟨8, 8, .wo, .val, 0x0⟩, ⟨31, 16, .rc, .val, 0x0⟩]⟩,
  /- MGT.PLOG_IDX -/ ⟨0x120104, 1, 0, 1, 0x0, (0, 0, 0), [⟨11, 0, .rw, .val, 0x0⟩]⟩,
  /- MGT.PLOG_DATA -/ ⟨0x120120, 8, 4, 1, 0x0, (0x120104, 5, 0), [⟨31, 0, .ro, .live, 0x0⟩]⟩,
  /- MGT.ST_CTL -/ ⟨0x120140, 1, 0, 1, 0x0, (0, 0, 0), [⟨3, 0, .rw, .val, 0x0⟩, ⟨11, 4, .rw, .val, 0x0⟩, ⟨12, 12, .rw, .val, 0x0⟩, ⟨13, 13, .rw, .val, 0x0⟩, ⟨14, 14, .wo, .val, 0x0⟩]⟩,
  /- MGT.ST_STAT -/ ⟨0x120144, 1, 0, 1, 0x0, (0, 0, 0), [⟨0, 0, .ro, .live, 0x0⟩, ⟨3, 1, .ro, .val, 0x0⟩, ⟨7, 4, .ro, .val, 0x0⟩, ⟨10, 8, .ro, .live, 0x0⟩, ⟨31, 16, .ro, .val, 0x0⟩]⟩]

/-- Registers of block MGT, part 2. -/
def regsMGT1 : List RegRow := [
  /- MGT.CNT_NOTSUP -/ ⟨0x120150, 1, 0, 1, 0x0, (0, 0, 0), [⟨31, 0, .rc, .val, 0x0⟩]⟩,
  /- MGT.CNT_MBXBUSY -/ ⟨0x120154, 1, 0, 1, 0x0, (0, 0, 0), [⟨31, 0, .rc, .val, 0x0⟩]⟩]

/-- Registers of block HST, part 1. -/
def regsHST0 : List RegRow := [
  /- HST.CFG -/ ⟨0x130000, 1, 0, 1, 0x0, (0, 0, 0), [⟨0, 0, .rwi, .img, 0x0⟩, ⟨2, 1, .rwi, .img, 0x0⟩, ⟨4, 3, .rwi, .img, 0x0⟩, ⟨5, 5, .rwi, .img, 0x0⟩, ⟨6, 6, .rwi, .img, 0x0⟩, ⟨29, 16, .rwi, .img, 0x3E8⟩]⟩,
  /- HST.GEOM -/ ⟨0x130004, 1, 0, 1, 0x0, (0, 0, 0), [⟨1, 0, .rwi, .img, 0x0⟩, ⟨15, 2, .rwi, .img, 0x0⟩, ⟨26, 16, .rwi, .img, 0x0⟩]⟩,
  /- HST.NAND -/ ⟨0x130008, 1, 0, 1, 0x0, (0, 0, 0), [⟨19, 0, .rwi, .img, 0x0⟩, ⟨22, 20, .rwi, .img, 0x0⟩, ⟨23, 23, .rwi, .img, 0x0⟩, ⟨31, 24, .rwi, .img, 0x0⟩]⟩,
  /- HST.PSLCV -/ ⟨0x13000C, 1, 0, 1, 0x0, (0, 0, 0), [⟨31, 0, .rwi, .img, 0x0⟩]⟩,
  /- HST.SCRUB -/ ⟨0x130010, 1, 0, 1, 0x0, (0, 0, 0), [⟨15, 0, .rwi, .img, 0x32⟩, ⟨22, 16, .rwi, .img, 0x28⟩, ⟨31, 23, .rwi, .img, 0x1E⟩]⟩,
  /- HST.ENDUR -/ ⟨0x130014, 1, 0, 1, 0x0, (0, 0, 0), [⟨23, 0, .rwi, .img, 0x0⟩]⟩,
  /- HST.SIGN -/ ⟨0x130018, 1, 0, 1, 0x0, (0, 0, 0), [⟨0, 0, .rwi, .img, 0x0⟩, ⟨6, 1, .rwi, .img, 0x0⟩, ⟨14, 7, .rwi, .img, 0x0⟩]⟩,
  /- HST.REPL -/ ⟨0x13001C, 1, 0, 1, 0x0, (0, 0, 0), [⟨0, 0, .rwi, .img, 0x0⟩, ⟨1, 1, .rwi, .img, 0x0⟩, ⟨9, 2, .rwi, .img, 0x0⟩, ⟨17, 10, .rwi, .img, 0x0⟩, ⟨27, 18, .rwi, .img, 0x0⟩]⟩,
  /- HST.INBOX -/ ⟨0x130020, 1, 0, 1, 0x0, (0, 0, 0), [⟨0, 0, .rwi, .img, 0x0⟩, ⟨24, 1, .rwi, .img, 0x0⟩]⟩,
  /- HST.STAT -/ ⟨0x130040, 1, 0, 1, 0x0, (0, 0, 0), [⟨2, 0, .ro, .live, 0x0⟩, ⟨3, 3, .ro, .live, 0x0⟩, ⟨4, 4, .w1c, .val, 0x0⟩, ⟨5, 5, .w1c, .val, 0x0⟩]⟩,
  /- HST.STAGE -/ ⟨0x130044, 1, 0, 1, 0x0, (0, 0, 0), [⟨11, 0, .ro, .live, 0x0⟩, ⟨27, 16, .rc, .val, 0x0⟩]⟩,
  /- HST.NEWHI -/ ⟨0x130048, 1, 0, 1, 0x0, (0, 0, 0), [⟨31, 0, .ro, .live, 0x0⟩]⟩,
  /- HST.NEWLO -/ ⟨0x13004C, 1, 0, 1, 0x0, (0, 0, 0), [⟨31, 0, .ro, .live, 0x0⟩]⟩,
  /- HST.OLDHI -/ ⟨0x130050, 1, 0, 1, 0x0, (0, 0, 0), [⟨31, 0, .ro, .live, 0x0⟩]⟩,
  /- HST.OLDLO -/ ⟨0x130054, 1, 0, 1, 0x0, (0, 0, 0), [⟨31, 0, .ro, .live, 0x0⟩]⟩,
  /- HST.OLDSEC -/ ⟨0x130058, 1, 0, 1, 0x0, (0, 0, 0), [⟨31, 0, .ro, .live, 0x0⟩]⟩,
  /- HST.BAD -/ ⟨0x13005C, 1, 0, 1, 0x0, (0, 0, 0), [⟨15, 0, .ro, .live, 0x0⟩, ⟨31, 16, .ro, .live, 0x0⟩]⟩,
  /- HST.WEAR -/ ⟨0x130060, 1, 0, 1, 0x0, (0, 0, 0), [⟨15, 0, .ro, .live, 0x0⟩, ⟨31, 16, .ro, .live, 0x0⟩]⟩,
  /- HST.CTL -/ ⟨0x130064, 1, 0, 1, 0x0, (0, 0, 0), [⟨0, 0, .wo, .val, 0x0⟩, ⟨1, 1, .wo, .val, 0x0⟩, ⟨2, 2, .wo, .val, 0x0⟩, ⟨3, 3, .wo, .val, 0x0⟩]⟩,
  /- HST.CRD -/ ⟨0x130068, 1, 0, 1, 0x0, (0, 0, 0), [⟨3, 0, .ro, .live, 0x0⟩, ⟨7, 4, .ro, .live, 0x0⟩, ⟨11, 8, .ro, .live, 0x0⟩, ⟨15, 12, .ro, .live, 0x0⟩]⟩,
  /- HST.CNT_REC -/ ⟨0x130080, 1, 0, 1, 0x0, (0, 0, 0), [⟨31, 0, .rc, .val, 0x0⟩]⟩,
  /- HST.CNT_DROP -/ ⟨0x130084, 1, 0, 1, 0x0, (0, 0, 0), [⟨31, 0, .rc, .val, 0x0⟩]⟩,
  /- HST.CNT_CORR -/ ⟨0x130088, 1, 0, 1, 0x0, (0, 0, 0), [⟨31, 0, .rc, .val, 0x0⟩]⟩,
  /- HST.CNT_UNCORR -/ ⟨0x13008C, 1, 0, 1, 0x0, (0, 0, 0), [⟨31, 0, .rc, .val, 0x0⟩]⟩]

/-- Registers of block HST, part 2. -/
def regsHST1 : List RegRow := [
  /- HST.CNT_PGMFAIL -/ ⟨0x130090, 1, 0, 1, 0x0, (0, 0, 0), [⟨31, 0, .rc, .val, 0x0⟩]⟩,
  /- HST.CNT_ERSFAIL -/ ⟨0x130094, 1, 0, 1, 0x0, (0, 0, 0), [⟨31, 0, .rc, .val, 0x0⟩]⟩,
  /- HST.CNT_RELOC -/ ⟨0x130098, 1, 0, 1, 0x0, (0, 0, 0), [⟨31, 0, .rc, .val, 0x0⟩]⟩,
  /- HST.CNT_TORN -/ ⟨0x13009C, 1, 0, 1, 0x0, (0, 0, 0), [⟨31, 0, .rc, .val, 0x0⟩]⟩,
  /- HST.CNT_REPLTX -/ ⟨0x1300A0, 1, 0, 1, 0x0, (0, 0, 0), [⟨31, 0, .rc, .val, 0x0⟩]⟩,
  /- HST.CNT_REPLGAP -/ ⟨0x1300A4, 1, 0, 1, 0x0, (0, 0, 0), [⟨31, 0, .rc, .val, 0x0⟩]⟩,
  /- HST.CNT_RESETDISC -/ ⟨0x1300A8, 1, 0, 1, 0x0, (0, 0, 0), [⟨31, 0, .rc, .val, 0x0⟩]⟩]

/-- Registers of block HPT. -/
def regsHPT0 : List RegRow := [
  /- Hx_CTL -/ ⟨0x140000, 1, 0, 2, 0x100, (0, 0, 0), [⟨0, 0, .rwi, .img, 0x0⟩, ⟨2, 1, .rwi, .img, 0x0⟩, ⟨15, 4, .rwi, .img, 0x5EE⟩, ⟨31, 16, .rwi, .img, 0x88B5⟩]⟩,
  /- Hx_STAT -/ ⟨0x140004, 1, 0, 2, 0x100, (0, 0, 0), [⟨0, 0, .ro, .live, 0x0⟩, ⟨2, 1, .ro, .live, 0x0⟩]⟩,
  /- Hx_CNT_UNKSRC -/ ⟨0x140020, 1, 0, 2, 0x100, (0, 0, 0), [⟨31, 0, .rc, .val, 0x0⟩]⟩,
  /- Hx_CNT_BADTYPE -/ ⟨0x140024, 1, 0, 2, 0x100, (0, 0, 0), [⟨31, 0, .rc, .val, 0x0⟩]⟩,
  /- Hx_CNT_FCS -/ ⟨0x140028, 1, 0, 2, 0x100, (0, 0, 0), [⟨31, 0, .rc, .val, 0x0⟩]⟩,
  /- Hx_CNT_FCSINV -/ ⟨0x14002C, 1, 0, 2, 0x100, (0, 0, 0), [⟨31, 0, .rc, .val, 0x0⟩]⟩,
  /- Hx_CNT_NOBUF -/ ⟨0x140030, 1, 0, 2, 0x100, (0, 0, 0), [⟨31, 0, .rc, .val, 0x0⟩]⟩,
  /- Hx_CNT_OVERSIZE -/ ⟨0x140034, 1, 0, 2, 0x100, (0, 0, 0), [⟨31, 0, .rc, .val, 0x0⟩]⟩]

/-- The registers of a block, by its number (the window of 64 KiB, Table 02-2). -/
def blockRegs (b : Nat) : List RegRow :=
  match b with
  | 0 => regsHUB0
  | 1 => regsRNG0 ++ regsRNG1
  | 2 => regsSWC0 ++ regsSWC1
  | 3 => regsTMQ0
  | 4 => regsEPO0 ++ regsEPO1
  | 5 => regsFPN0 ++ regsFPN1
  | 6 => regsPIO0 ++ regsPIO1 ++ regsPIO2
  | 7 => regsCAN0 ++ regsCAN1
  | 8 => regsSER0
  | 9 => regsBRG0 ++ regsBRG1
  | 10 => regsTIM0 ++ regsTIM1
  | 11 => regsPHS0
  | 12 => regsRFX0
  | 13 => regsIMG0
  | 14 => regsCRY0 ++ regsCRY1
  | 15 => regsTWN0
  | 16 => regsCKR0
  | 17 => regsPWR0
  | 18 => regsMGT0 ++ regsMGT1
  | 19 => regsHST0 ++ regsHST1
  | 20 => regsHPT0
  | _ => []

end Sys2Proof.Machine
end

