-- ==== Sys2Proof/Machine/Types.lean ====
section
/-! DEFINITION. The data that commands carry and that the state holds: frames, log entries and the vocabulary of the
blocks. Numbers that the spec counts with are `Nat`; payloads are bytes. -/
namespace Sys2Proof.Machine

/-- One field of a register: the register's offset, the distance between instances, the bit range and the word the
register holds before an image sets it (R562). -/
structure Fld where
  off : Nat
  mult : Nat
  hi : Nat
  lo : Nat
  start : Word
  deriving DecidableEq, Repr

/-- The two ring lanes and the twin lane T (Table 01-2). -/
inductive Lane where
  | e | w | t
  deriving DecidableEq, Repr

/-- The switch port of a lane; a ring lane's is also its register instance. -/
def Lane.ix : Lane → Nat
  | .e => 0
  | .w => 1
  | .t => 4

/-- The other ring lane. -/
def Lane.other : Lane → Lane
  | .e => .w
  | .w => .e
  | .t => .t

/-- The two host ports. -/
inductive HPort where
  | h0 | h1
  deriving DecidableEq, Repr

/-- The register instance of a host port. -/
def HPort.ix : HPort → Nat
  | .h0 => 0
  | .h1 => 1

/-- The source of a doldrums session (R520): a host port and MAC address, or a ring lane. -/
inductive DldSrc where
  | host (p : HPort) (mac : Nat)
  | lane (l : Lane)
  deriving DecidableEq, Repr

/-- Frame types (Table 03-4); `other` is a reserved code. -/
inductive TType where
  | rd | wr | wrn | rmw | pub | vw | mgt | cmp | rctl
  | other (code : Nat)
  deriving DecidableEq, Repr

/-- The code of a frame type. -/
def TType.code : TType → Nat
  | .rd => 0 | .wr => 1 | .wrn => 2 | .rmw => 3 | .pub => 4 | .vw => 5 | .mgt => 6 | .cmp => 7 | .rctl => 8
  | .other c => c

/-- A Berba frame: the header of Table 03-4 and the payload in plain text. The tag and the CRC are not held: their
checks are facts that the frame's verdict step carries. -/
structure Frame where
  ver : Nat := 1
  tt : TType
  tc : Nat
  pst : Bool := false
  ring : Bool := false
  epp : Bool := false
  dst : Nat
  src : Nat := 0
  seq : Nat := 0
  init : Nat := 0
  tag : Nat := 0
  opc : Nat := 0
  fLocal : Bool := false
  fOvrd : Bool := false
  fPart : Bool := false
  addr : Nat
  len : Nat := 0
  hoplim : Nat := 0
  inc : Nat := 0
  hopiv : Nat := 0
  pay : List Byte := []
  deriving DecidableEq, Repr

/-- The length of a frame in its ring form (R85, R174). -/
def Frame.length (f : Frame) : Nat := f.pay.length + 52

/-- The cells a frame occupies (R89). -/
def Frame.cells (f : Frame) : Nat := cdiv f.length 64

/-- The hub number of a frame's address. -/
def Frame.hub (f : Frame) : Nat := f.addr / 2 ^ 40 % 256

/-- The space of a frame's address. -/
def Frame.space (f : Frame) : Nat := f.addr / 2 ^ 36 % 16

/-- The offset of a frame's address: to 0xFE, bits 35:24 hold the group and the offset is bits 23:0 (R154). -/
def Frame.offset (f : Frame) : Nat := if f.dst = 0xFE then f.addr % 2 ^ 24 else f.addr % 2 ^ 36

/-- The group that a frame to 0xFE names (R154). -/
def Frame.group (f : Frame) : Nat := f.addr / 2 ^ 24 % 4096

/-- The 32 header bytes of Table 03-4. -/
def Frame.header (f : Frame) : List Byte :=
  be 1 (f.ver % 16 * 16 + f.tt.code % 16)
  ++ be 1 (f.tc % 16 * 16 + b2n f.pst * 8 + b2n f.ring * 4 + b2n f.epp * 2)
  ++ be 1 f.dst ++ be 1 f.src ++ be 4 f.seq ++ be 1 f.init ++ be 2 (f.tag % 1024)
  ++ be 1 (f.opc % 16 * 16 + b2n f.fLocal * 8 + b2n f.fOvrd * 4 + b2n f.fPart * 2)
  ++ be 6 f.addr ++ be 2 (f.len % 2048) ++ be 2 (f.hoplim % 1024) ++ be 2 f.inc ++ be 8 f.hopiv

/-- Completion status codes (Table 02-6). -/
inductive Status where
  | ok | ur | viol | tmo | ferr | nores | busy | poison | abortLate | stale
  deriving DecidableEq, Repr

/-- The code of a status. -/
def Status.code : Status → Nat
  | .ok => 0 | .ur => 1 | .viol => 2 | .tmo => 3 | .ferr => 4 | .nores => 5 | .busy => 6 | .poison => 7
  | .abortLate => 8 | .stale => 9

/-- Initiator classes, coded as in word 4 of Table 02-7. -/
inductive InitClass where
  | host | hub | mirik | reflex | binder
  deriving DecidableEq, Repr

/-- The code of a class. -/
def InitClass.code : InitClass → Nat
  | .host => 0 | .hub => 1 | .mirik => 2 | .reflex => 3 | .binder => 4

/-- The RMW operations of Table 02-4. -/
inductive RmwOp where
  | swap | cas | fadd | fand | for | fxor
  deriving DecidableEq, Repr

/-- The code of an RMW operation. -/
def RmwOp.code : RmwOp → Nat
  | .swap => 0 | .cas => 1 | .fadd => 2 | .fand => 3 | .for => 4 | .fxor => 5

/-- The outcome of performing a request at its target: status, completion data and the flag OVRD. -/
structure Answer where
  st : Status
  data : List Byte := []
  ovrd : Bool := false
  deriving DecidableEq, Repr

/-- What an IEEE 1588 message carries (R351, R354): domain, sequence, the two-step flag, its timestamp and correction in
2^-16 ns, and of an Announce clockClass, stepsRemoved, currentUtcOffset and grandmasterIdentity. -/
structure Ptp where
  domain : Nat
  seq : Nat := 0
  twoStep : Bool := false
  ts : Nat := 0
  corr : Int := 0
  cls : Nat := 0
  steps : Nat := 0
  utc : Nat := 0
  ident : Nat := 0
  deriving DecidableEq, Repr

/-- The four command locks: EPO.CMD_LOCK, CAN.CMD_LOCK, CRY.CMD_LOCK and MGT.MBX_LOCK (R216, R305, R430, R501). -/
inductive LockId where
  | epo | can | cry | mbx
  deriving DecidableEq, Repr

/-- The number of a lock. -/
def LockId.ix : LockId → Nat
  | .epo => 0 | .can => 1 | .cry => 2 | .mbx => 3

/-- A CAN frame: format bits, identifier, data length code and data (Table 09-4). -/
structure CanFrame where
  ide : Bool
  rtr : Bool := false
  fdf : Bool := false
  brs : Bool := false
  esi : Bool := false
  id : Nat
  dlc : Nat
  data : List Byte := []
  deriving DecidableEq, Repr

/-- Completed work that a DONE note reports (Table 15-1): a far-side access by bus and queue number, or a poll by its entry,
with its status and a poll's response; a CAN transmit completion; a completion that was sent. [DESIGN CHOICE 136 unsafe] -/
inductive DoneItem where
  | far (bus qseq : Nat) (poll : Option Nat) (status : Nat) (resp : List Byte)
  | canTx (obj txst : Nat)
  | cmp (src init tag : Nat)
  deriving DecidableEq, Repr

/-- A context of a link history (R417): epoch and, on the transmit side, HOPIV; when its epoch began, and HOPIV divided by 2^40
then (R418). -/
structure LinkCtx where
  ctx : List Byte
  epoch : Nat := 0
  hopiv : Nat := 0
  since : Nat := 0
  mark : Nat := 0
  deriving DecidableEq, Repr

/-- A log entry of Table 02-7: eight words. -/
abbrev LogEntry := List Word

end Sys2Proof.Machine
end

