-- ==== Sys2Proof/Syntax.lean ====
section
/-! DEFINITION. The commands: one constructor for each row of the opcode table. A command is an event at the block: a
frame or word that arrives, a register access, a pin or bus event, or a time limit that is reached. -/
namespace Sys2Proof
open Sys2Proof.Machine

/-- The commands of the hub, in the order of the opcode table; each docstring gives the rule that the row names. -/
inductive Instr where
  /-- REGISTER_WRITE (R7): A write to a hub register that has no row of its own acts on each field according to its access type. -/
  | registerWrite (f : Frame)
  /-- READ_CLEAR (R7): A read of an RC field returns its value and then clears it, a same-cycle hardware set winning under R10. -/
  | readClear (f : Frame)
  /-- RD (R41): A read transaction arrives at its target, is checked in the order of R50 and completes with the data or a status. `ecc`
  names the objects, or the cells of a bulk buffer, in which the read meets an ECC error, and whether it is a double-bit error (R196, R214). -/
  | rd (f : Frame) (ecc : List (Nat × Bool))
  /-- WR (R41): A posted write arrives at its target and is checked and performed, with any later failure going to the posted error log. -/
  | wr (f : Frame)
  /-- WRN (R66): A non-posted write arrives at its target and completes OK only once it is performed. -/
  | wrn (f : Frame)
  /-- SWAP (R44): An RMW SWAP atomically replaces the target with the operand and returns the old value. -/
  | swapOp (f : Frame)
  /-- CAS (R44): An RMW CAS atomically stores the second operand if the old value equals the first and returns the old value. -/
  | casOp (f : Frame)
  /-- FADD (R44): An RMW FADD atomically adds the operand modulo the size and returns the old value. -/
  | faddOp (f : Frame)
  /-- FAND (R44): An RMW FAND atomically ANDs the operand into the target and returns the old value. -/
  | fandOp (f : Frame)
  /-- FOR (R44): An RMW FOR atomically ORs the operand into the target and returns the old value. -/
  | forOp (f : Frame)
  /-- FXOR (R44): An RMW FXOR atomically XORs the operand into the target and returns the old value. -/
  | fxorOp (f : Frame)
  /-- CMP (R48): A completion arrives at the originating hub and is matched to an open tag or discarded and counted. -/
  | cmp (f : Frame)
  /-- COMPLETION_TIMEOUT (R51): An initiator's completion timer expires and its hub completes the transaction with TMO and LOCAL, reserving the tag. -/
  | completionTimeout (init : Nat) (tag : Nat)
  /-- TAG_RESERVE_EXPIRY (R51): A tag reserved after a timeout becomes free again after one further timer period. -/
  | tagReserveExpiry (init : Nat) (tag : Nat)
  /-- TAG_WAIT_SEND (R47): A local initiator that waited for a free non-posted tag obtains one and sends its transaction. -/
  | tagWaitSend (f : Frame)
  /-- ERRN (R62): An error notice arrives and is delivered to its sink or sent on as a new ERRN to the sink's hub. -/
  | errn (f : Frame)
  /-- ABORT (R74): An ABORT names an open transaction, which stops at its stopping point or completes, and the ABORT completes OK with PART or ABORT_LATE. -/
  | abortOp (f : Frame)
  /-- CRD (R111): A CRD link word arrives and updates the sender's view of CLIMIT for its class. -/
  | crd (l : Lane) (tc4 : Nat) (climit : Nat)
  /-- CRD_SEND (R81): A lane sends CRD for a lossless class every 1 µs or when CLIMIT has advanced by 8. -/
  | crdSend (l : Lane) (tc4 : Nat)
  /-- LID (R115): A LID link word arrives giving the neighbour's hub number and lane state, which may move this lane to OUT or UP. -/
  | lid (l : Lane) (hub : Nat) (st : Nat)
  /-- LINC (R416): A LINC link word arrives giving the neighbour's incarnation, allowing link key derivation in TRAIN. -/
  | linc (l : Lane) (inc : Nat)
  /-- LID_LINC_SEND (R81): A lane sends LID and LINC every 10 µs. -/
  | lidLincSend (l : Lane)
  /-- SUSP (R83): A SUSP link word parks the frame in progress so a TC0 frame can be received. -/
  | susp (l : Lane)
  /-- RESM (R83): A RESM link word resumes the parked frame, or makes frames bad if nothing is parked. -/
  | resm (l : Lane)
  /-- TC0_PREEMPT (R82): A TC0 frame ready during another frame is sent between SUSP and RESM after the current data block. -/
  | tc0Preempt (l : Lane)
  /-- RING_FRAME_HEAD (R94): The head of a frame arrives on lane E or W and is forwarded, delivered or stripped by Table 03-7. -/
  | ringFrameHead (l : Lane) (f : Frame)
  /-- FRAME_VERDICT (R145): RNG completes the CRC and tag check of a ring frame and marks it GOOD or BAD. -/
  | frameVerdict (h : Nat) (crcOk : Bool) (tagOk : Bool) (errEnd : Bool)
  /-- HOLD_TIMER_EXPIRY (R104): A stream's hold timer expires, the gap is counted and held frames are delivered in order. -/
  | holdTimerExpiry (stream : Nat)
  /-- HOST_FRAME_RX (R92): A gateway receives an Ethernet frame from a host port and checks, discards, or maps and forwards it. -/
  | hostFrameRx (p : HPort) (fcsOk : Bool) (eth : List Byte)
  /-- BLOCK_LOCK_LOSS (R116): A lane loses block lock and goes to DOWN. -/
  | blockLockLoss (l : Lane)
  /-- BLOCK_LOCK_GAIN (R117): A lane gains block lock and enters TRAIN, or PROBE from OUT when the neighbour reports OUT or PROBE. -/
  | blockLockGain (l : Lane)
  /-- HI_BER (R116): The clause 49 BER monitor asserts hi_ber and the lane leaves UP. -/
  | hiBer (l : Lane)
  /-- QUALITY_WINDOW (R116): A 1 ms quality window ends and its score is judged for removal or probation. -/
  | qualityWindow (l : Lane) (sync : Nat) (ctl : Nat) (hiBer : Bool)
  /-- PROBATION_PASS (R117): A lane's probation time passes with every window good and it reports UP in LID. -/
  | probationPass (l : Lane)
  /-- REENABLE (R118): A write of Lx_LCTL.REENABLE moves a locked-out lane to DOWN. -/
  | reenable (f : Frame)
  /-- HOPM_SEND (R117): A lane sends a HOPM frame to its neighbour on its interval. -/
  | hopmSend (l : Lane)
  /-- HOPM (R341): A HOPM frame arrives and gives a link delay sample that updates the filtered delay. -/
  | hopm (l : Lane) (f : Frame)
  /-- FILL_TIMEOUT (R148): A cut-through egress waits 2 µs without the next cell or verdict and ends the copy bad. -/
  | fillTimeout (l : Lane)
  /-- ADMREQ (R124): The master receives an admission request and decides it by the checks of Table 03-15. -/
  | admreq (f : Frame) (twinJoined : Bool)
  /-- ADMREQ_SEND (R119): A hub not admitted sends ADMREQ every 10 ms, or every 1 s after REFUSE. -/
  | admreqSend
  /-- ADMIT_SEND (R108): The master sends ADMIT once twice the hold time has passed since the first ADMREQ. -/
  | admitSend
  /-- ADMIT (R564): A requesting hub takes an ADMIT that matches its identity and becomes admitted. -/
  | admitOp (f : Frame)
  /-- REFUSE (R125): A requesting hub takes a REFUSE, records the reason and stays in transit mode. -/
  | refuse (f : Frame)
  /-- MASTER (R120): A MASTER beacon arrives, or returns to the master to give the ring hop count. -/
  | master (f : Frame)
  /-- MASTER_BEACON_SEND (R120): The master sends a MASTER beacon every 1 ms. -/
  | masterBeaconSend
  /-- BEACON_LOSS (R121): No MASTER beacon for 5 ms starts an election and the hub sends CAND. -/
  | beaconLoss
  /-- CAND (R121): A CAND arrives and a worse candidate stops sending its own. -/
  | cand (f : Frame)
  /-- CAND_SEND (R121): A candidate sends CAND every 1 ms, resuming after 5 ms without a better one. -/
  | candSend
  /-- ELECTION_WIN (R121): A candidate hears no better CAND or MASTER for 10 ms and becomes master. -/
  | electionWin
  /-- NO_ADMITTED_HUB (R121): A hub not admitted hears no ring control for 30 ms and treats its ADMREQ as candidacy. -/
  | noAdmittedHub
  /-- MEMB (R126): A membership map arrives; a hub absent from it returns to transit mode. -/
  | memb (f : Frame)
  /-- MEMB_SEND (R119): The master sends MEMB on change and every 100 ms. -/
  | membSend
  /-- PRES (R126): The master receives a presence frame from an admitted hub. -/
  | pres (f : Frame)
  /-- PRES_SEND (R119): An admitted hub sends PRES every 10 ms. -/
  | presSend
  /-- POSITION_REMOVAL (R126): The master removes a position not heard from for 50 ms. -/
  | positionRemoval (hub : Nat)
  /-- LEAVE (R126): The master receives LEAVE and removes the position. -/
  | leave (f : Frame)
  /-- DLD (R520): A link-local DLD frame carrying a doldrums message arrives on a ring lane. -/
  | dld (l : Lane) (f : Frame)
  /-- BYP_INSERT_WRITE (R127): A write of RNG.BYP_CTL.INSERT requests insertion, or on clearing sends LEAVE on both rings. -/
  | bypInsertWrite (f : Frame)
  /-- INSERT_RELEASE (R127): 100 µs after INSERT becomes 0, RNG ends its insertion request and the bypass closes. -/
  | insertRelease
  /-- HEARTBEAT_SEND (R127): RNG sends its ring heartbeat to the power die every 100 µs. -/
  | heartbeatSend
  /-- HEARTBEAT_LOST (R127): The power die sees no heartbeat for 1 ms and releases the bypass output. -/
  | heartbeatLost
  /-- SWITCH_INGRESS_HEAD (R135): A frame head reaches the switch core at an ingress port and is policed and admitted or refused. -/
  | switchIngressHead (port : Nat)
  /-- CELL_SLOT (R149): In each cell slot the scheduler matches outputs to inputs in up to three iterations and moves cells. -/
  | cellSlot (errs : List (Nat × Bool))
  /-- BUFFER_SCRUB (R131): The switch core scrubs one cell every 1 µs. -/
  | bufferScrub (err : Nat)
  /-- BUFFER_FILL_DONE (R132): The zero fill of the cell buffer after reset ends and admission begins. -/
  | bufferFillDone
  /-- LOCAL_QUEUE_ROOM (R143): A lossless frame waiting for a full local queue is linked when room appears. -/
  | localQueueRoom (q : Nat)
  /-- AON_LINK (R157): A waiting lossless AON frame links all its local copies once every destination has room. -/
  | aonLink (h : Nat)
  /-- PACKER_UNIT_WRITE (R159): A packer accepts a unit from its engine's receive queue into the current word. -/
  | packerUnitWrite (pe : Nat)
  /-- PACKER_STALL_RELEASE (R164): A write withheld for a full packer completes once a word has been read. -/
  | packerStallRelease (pe : Nat)
  /-- PACKER_CT_TIMEOUT (R161): A cut-through packet without its next word for 100 µs is closed with zero padding. -/
  | packerCtTimeout (pe : Nat)
  /-- PACKER_FLUSH (R165): PKnn_CFG.FLUSH while EN is 0 empties the packer and zeroes its pointers. -/
  | packerFlush (f : Frame)
  /-- SAMPLE_SEND (R166): Once a sampled frame's verdict is known, SW9 sends a two-cell sample to SW7. -/
  | sampleSend
  /-- CAPTURE_RESTART (R168): SWC.CAP_CFG.RESTART empties the capture ring and clears TRIGGERED and STOPPED. -/
  | captureRestart (f : Frame)
  /-- SHAPER_TICK (R175): Every 1 µs each shaper's credit rises by RATE/256 under its cap. -/
  | shaperTick
  /-- POLICER_TICK (R179): Every 1 µs each policer's credit rises by RATE/256 up to BURST. -/
  | policerTick
  /-- POLICER_ALLOC (R181): TMQ.POL_CMD ALLOC maps a key to the lowest free run-time policer or fails. -/
  | policerAlloc (f : Frame)
  /-- POLICER_FREE (R181): TMQ.POL_CMD FREE unmaps a run-time policer and returns its index. -/
  | policerFree (f : Frame)
  /-- SOURCE_UPDATE (R186): An update from a bound source reaches EPO and is performed on its object. -/
  | sourceUpdate
  /-- PERIOD_TIMER (R199): An object's period timer expires and triggers publication. -/
  | periodTimer (obj : Nat)
  /-- DEFERRED_EVALUATION (R199): At publication time plus MININT a deferred object is evaluated again as a change. -/
  | deferredEvaluation (obj : Nat)
  /-- STALE_TIMEOUT (R185): An input-bound object without a source update for its STALE time gets STALE set. -/
  | staleTimeout (obj : Nat)
  /-- BATCH_TIMER (R202): A subscription's batch timer ends and its PUB frame is built. -/
  | batchTimer (sub : Nat)
  /-- PUB_FRAME_BUILD (R202): EPO builds a PUB frame of up to 82 pending entries once SW5 credit allows. -/
  | pubFrameBuild
  /-- PUB (R206): A PUB frame arrives and is delivered to local ports, a host, or applied to REMOTE mirrors. -/
  | pub (f : Frame)
  /-- OBJECT_SCRUB (R196): EPO scrubs one object every 1 µs. -/
  | objectScrub (err : Nat)
  /-- HOLD_CHANGE (R195): A hold change from RFX reaches EPO and holds or releases an object. -/
  | holdChange
  /-- CMD_LOCK_READ (R216): A read of a command lock register grants a free lock to the reader or shows the holder. -/
  | cmdLockRead (lock : LockId) (f : Frame)
  /-- CMD_LOCK_TIMEOUT (R216): A command lock is released 10 ms after its grant. -/
  | cmdLockTimeout (lock : LockId)
  /-- RELEASE_LOCK (R216): A command write of OP 0 only releases the command lock. -/
  | releaseLock (lock : LockId) (f : Frame)
  /-- SUB_ALLOC (R208): EPO.CMD SUB_ALLOC checks arguments and takes the lowest free subscription index. -/
  | subAlloc (f : Frame)
  /-- SUB_FREE (R207): EPO.CMD SUB_FREE frees a run-time subscription and its pending bits. -/
  | subFree (f : Frame)
  /-- SNAP_ARM (R209): EPO.CMD SNAP_ARM arms a snapshot slot for a time or phase instant. -/
  | snapArm (f : Frame)
  /-- SNAP_CANCEL (R212): EPO.CMD SNAP_CANCEL frees an armed slot, or gives LATE once copying has begun. -/
  | snapCancel (f : Frame)
  /-- SNAPSHOT_INSTANT (R210): A snapshot instant is reached and EPO copies the set and sends its frames. -/
  | snapshotInstant (sslot : Nat)
  /-- BCOPY (R215): A bulk copy request is checked and queued at the hub that holds the buffer. -/
  | bcopy (f : Frame)
  /-- BCOPY_FRAME_SEND (R215): EPO sends the next WR frame of a bulk copy as SW5 credit allows, completing after the last. -/
  | bcopyFrameSend
  /-- SNAPREQ (R505): The master receives a ring-wide snapshot request and resends it as SNAPARM. -/
  | snapreq (f : Frame)
  /-- SNAPARM (R505): A named hub receives SNAPARM and arms an EPO slot. -/
  | snaparm (f : Frame)
  /-- SNAPNACK (R505): The master receives a hub's NORES or NOREF answer to a snapshot. -/
  | snapnack (f : Frame)
  /-- SNAPREQ_TIMEOUT (R505): ARMTMO after SNAPARM the master completes SNAPREQ with the collected answers. -/
  | snapreqTimeout
  /-- PIN_FILTERED_EDGE (R220): A pin's glitch filter accepts a new level, feeding counters, bindings, wires and readback. -/
  | pinFilteredEdge (pin : Nat) (level : Bool)
  /-- PIN_OUTPUT_CHANGE (R226): A GPO source changes and FPN drives the pad under the owner decision of R229. -/
  | pinOutputChange (pin : Nat) (ctrl : Option Bool)
  /-- READBACK_MISMATCH (R228): A driving pin's readback differs for two cycles and FAULT is set on its object. -/
  | readbackMismatch (pin : Nat)
  /-- PULSE_END (R227): A GPO pulse's width of PW µs ends and the pin returns to 0. -/
  | pulseEnd (pin : Nat)
  /-- VW_FRAME_SEND (R234): A waiting VW frame leaves once TC0 and shaper credit allow. -/
  | vwFrameSend (block : Nat)
  /-- VW_REFRESH (R236): A block with no change for REFRESH ms is sent again as a refresh. -/
  | vwRefresh (block : Nat)
  /-- VW (R237): A VW frame arrives and is matched to a slot, to be applied at its fixed instant. -/
  | vw (f : Frame)
  /-- VW_APPLY (R237): At instant A the received wire state is applied to the slot. -/
  | vwApply (slot : Nat)
  /-- VW_SLOT_TIMEOUT (R239): A slot without a frame for TMO refresh periods goes to its safe state. -/
  | vwSlotTimeout (slot : Nat)
  /-- BANK_SUPPLY_LOSS (R545): A bank's VDDIO leaves its VOK window and its outputs go to high impedance. -/
  | bankSupplyLoss (bank : Nat)
  /-- BANK_SUPPLY_RESTORE (R545): After VOK has been 1 for 1 ms the bank's pins follow R229 again. -/
  | bankSupplyRestore (bank : Nat)
  /-- NOP (R249): The engine executes NOP. -/
  | nopOp (pe : Nat)
  /-- GOTO (R249): The engine jumps to TGT. -/
  | gotoOp (pe : Nat)
  /-- LOOP (R249): The engine decrements SA or SB, sets Z and N, and jumps if not zero. -/
  | loopOp (pe : Nat)
  /-- CASE (R249): The engine jumps to TGT plus SA[3:0]. -/
  | caseOp (pe : Nat)
  /-- UNTIL (R250): The engine waits for a pin, flag, wake event or mailbox to reach POL. -/
  | untilOp (pe : Nat)
  /-- EMIT (R252): The engine emits CNT cells from EMT through the cell sequencer. -/
  | emitOp (pe : Nat) (steps : Nat)
  /-- CAPTURE (R252): The engine captures CNT cells into CAP. -/
  | captureOp (pe : Nat) (steps : Nat)
  /-- XCHG (R252): The engine emits and captures in the same CNT cells. -/
  | xchgOp (pe : Nat) (steps : Nat)
  /-- SAMPLE (R252): The engine shifts N input pins into CAP at once. -/
  | sampleOp (pe : Nat)
  /-- DRIVE (R254): The engine sets, clears, toggles or enables latch positions 0 to 15. -/
  | driveOp (pe : Nat)
  /-- POST (R257): The engine posts CAP to the receive queue and clears it. -/
  | postOp (pe : Nat)
  /-- FETCH (R259): The engine loads EMT from the transmit queue. -/
  | fetchOp (pe : Nat)
  /-- COPY (R253): The engine copies a source register to a destination through a transform. -/
  | copyOp (pe : Nat)
  /-- SETK (R254): The engine loads a 16-bit immediate into SA or SB. -/
  | setkOp (pe : Nat)
  /-- CALC (R254): The engine applies an arithmetic or logic function and sets Z and N. -/
  | calcOp (pe : Nat)
  /-- FLAG (R255): The engine sets or clears a sync flag or raises an event. -/
  | flagOp (pe : Nat)
  /-- AT (R263): The engine adds a timed action to its queue. -/
  | atOp (pe : Nat)
  /-- STOP (R270): The engine halts itself with PC at the next address and sets SELF. -/
  | stopOp (pe : Nat)
  /-- STALL_RELEASE (R249): A stalled instruction's check passes and it completes. -/
  | stallRelease (pe : Nat) (steps : Nat)
  /-- TIMED_ACTION (R264): A due timed action executes on the pin latch, and may set the wake event. -/
  | timedAction (pe : Nat)
  /-- ENGINE_HALT (R269): PEnn_CTL.HALT halts the engine within 2 cycles, keeping any partial shift. -/
  | engineHalt (f : Frame)
  /-- ENGINE_START (R271): PEnn_CTL.START starts a halted engine at ADDR, with optional clears and resume. -/
  | engineStart (f : Frame)
  /-- ENGINE_STEP (R271): PEnn_CTL.STEP runs one instruction on a halted engine and halts again; a cell instruction runs `steps` steps
  at once. -/
  | engineStep (f : Frame) (steps : Nat)
  /-- FLUSHRX (R271): PEnn_CTL.FLUSHRX empties the receive queue of a halted engine. -/
  | flushrx (f : Frame)
  /-- FLUSHTX (R271): PEnn_CTL.FLUSHTX empties the transmit queue of a halted engine. -/
  | flushtx (f : Frame)
  /-- FLUSHTAQ (R267): PEnn_CTL.FLUSHTAQ empties the timed action queue. -/
  | flushtaq (f : Frame)
  /-- RELEASE (R270): PEnn_CTL.RELEASE clears every latch enable of a halted engine. -/
  | releaseOp (f : Frame)
  /-- GSTART (R268): PIO.GSTART starts every named halted engine in one cycle with dividers in phase. -/
  | gstart (f : Frame)
  /-- GHALT (R268): PIO.GHALT requests a halt of every named engine in one cycle. -/
  | ghalt (f : Frame)
  /-- SFSET (R255): PIO.SFSET sets the named sync flags. -/
  | sfset (f : Frame)
  /-- SFCLR (R255): PIO.SFCLR clears the named sync flags. -/
  | sfclr (f : Frame)
  /-- TXQ_WRITE (R260): A write to PEnn_TXQ appends a word or is refused NORES when full. -/
  | txqWrite (f : Frame)
  /-- RXQ_READ (R258): A read of PEnn_RXQ removes the head word, or is refused BUSY while the packer is enabled. -/
  | rxqRead (f : Frame)
  /-- IDATA_WRITE (R247): A write to PEnn_IDATA stores an instruction word while all sharing engines are halted and advances IADDR. -/
  | idataWrite (f : Frame)
  /-- IDATA_READ (R247): A read of PEnn_IDATA returns the word at IADDR and advances IADDR. -/
  | idataRead (f : Frame)
  /-- MAILBOX_WRITE (R261): An outside write to PEnn_MBk stores the value and sets its fresh flag; without a request the binder's
  write of the mailbox (R191). -/
  | mailboxWrite (pe : Nat) (k : Nat) (f : Option Frame)
  /-- TAQ_ACT_WRITE (R263): A write to PEnn_TAQ_ACT appends a timed action with the stamp in TAQ_STAMP. -/
  | taqActWrite (f : Frame)
  /-- FEED_WINDOW_DRAIN (R260): A feed window frame's words enter the transmit queue as room appears, completing after the last. -/
  | feedWindowDrain (pe : Nat)
  /-- CAN_FRAME_RX (R287): A received CAN frame becomes valid and is stored in its matching RX object. -/
  | canFrameRx (ch : Nat) (fr : CanFrame) (age : Nat)
  /-- CAN_LOCK_TIMEOUT (R293): A CAN object lock is released LOCKTMO µs after it was taken. -/
  | canLockTimeout (obj : Nat)
  /-- TXREQ (R297): A write setting TXREQ in a TX object requests transmission. -/
  | txreq (f : Frame)
  /-- TXABORT (R300): A write of TXABORT aborts a pending request or stops retries. -/
  | txabort (f : Frame)
  /-- CAN_ARBITRATION (R298): At each start of arbitration the controller offers its winning pending TX object. -/
  | canArbitration (ch : Nat)
  /-- CAN_TX_COMPLETE (R299): A transmission attempt ends and TXST, the timestamp and counters are set. -/
  | canTxComplete (ch : Nat) (outcome : Nat)
  /-- CAN_BUS_ERROR (R302): An error on the bus updates the error counters, LEC and error state. -/
  | canBusError (ch : Nat) (lec : Nat) (add : Nat) (data : Bool) (tx : Bool) (frame : Bool)
  /-- BUS_OFF (R303): A channel goes bus-off, stops transmitting and sets FAULT on bound objects. -/
  | busOff (ch : Nat)
  /-- RECOVER (R304): CNnn_CTL.RECOVER starts bus-off recovery. -/
  | recover (f : Frame)
  /-- RECOVERY_COMPLETE (R304): 128 recessive sequences clear the error counters and return the channel to error-active. -/
  | recoveryComplete (ch : Nat)
  /-- CAN_MODE_WRITE (R277): A write of CNnn_CTL.MODE requests a mode, starting detection for mode 4. -/
  | canModeWrite (f : Frame)
  /-- CAN_MODE_EFFECT (R277): A requested mode takes effect at the end of the frame on the bus. -/
  | canModeEffect (ch : Nat)
  /-- BUS_INTEGRATION (R278): After 11 recessive bits the controller has integrated to the bus. -/
  | busIntegration (ch : Nat)
  /-- ABD_DWELL_EXPIRY (R283): A detection candidate's dwell passes without a frame and the next candidate or result follows. -/
  | abdDwellExpiry (ch : Nat) (edge : Bool)
  /-- CANTX_REQUEST (R301): A transmit request from EPO writes data and sets TXREQ. -/
  | cantxRequest
  /-- CAN_OBJ_ALLOC (R305): CAN.CMD ALLOC checks arguments and takes the lowest free object index. -/
  | canObjAlloc (f : Frame)
  /-- CAN_OBJ_FREE (R305): CAN.CMD FREE frees a run-time object. -/
  | canObjFree (f : Frame)
  /-- UART_CHAR_RX (R308): A UART receives a character into its FIFO or drops it on overflow. -/
  | uartCharRx (sp : Nat) (char : Nat) (framing : Bool) (parity : Bool) (brk : Bool)
  /-- BUS_IDLE_DISPATCH (R329): When a far-side bus falls idle the bridge starts the first available poll, request or prefetch. -/
  | busIdleDispatch (bus : Nat)
  /-- FAR_SIDE_COMPLETE (R318): A far-side transaction ends and the access continues its next chunk or completes. -/
  | farSideComplete (bus : Nat) (detail : Nat) (data : List Byte)
  /-- FAR_SIDE_TIMEOUT (R320): A far-side response does not begin within RSPTMO. -/
  | farSideTimeout (bus : Nat)
  /-- PREFETCH_AGE (R325): A prefetch buffer unused for PFAGE ms is discarded. -/
  | prefetchAge (k : Nat)
  /-- POLL_DUE (R328): A poll entry's due time arrives. -/
  | pollDue (entry : Nat)
  /-- BRIDGE_SINK_WRITE (R333): A sink value from the binder enters the bus queue, replacing a waiting write. -/
  | bridgeSinkWrite
  /-- DLOG_CLEAR (R326): BRG.DLOG_STAT.CLEAR empties the discard log. -/
  | dlogClear (f : Frame)
  /-- TSYNC_SEND (R343): The ring master sends TSYNC every SYNCINT ms. -/
  | tsyncSend
  /-- TSYNC (R346): A TSYNC copy reaches TIM and gives an offset that drives lock and trim. -/
  | tsync (f : Frame) (stamp : Nat)
  /-- SYNC_LOSS_HOLDOVER (R347): No usable TSYNC for 4 × SYNCINT moves LOCKED to HOLDOVER. -/
  | syncLossHoldover
  /-- TIME_RING_SWITCH (R346): No usable copy for 3 × SYNCINT switches time to the other ring. -/
  | timeRingSwitch
  /-- TGMR_SEND (R351): A gateway with a SLAVE port sends TGMR to the master at most once per SYNCINT. -/
  | tgmrSend (p : HPort)
  /-- TGMR (R352): The master receives ogm and steps, trims or slews against the grandmaster. -/
  | tgmr (f : Frame)
  /-- PTP_SYNC (R351): A SLAVE port receives Sync and measures ogm. -/
  | ptpSync (p : HPort) (m : Ptp) (t2 : Nat)
  /-- PTP_FOLLOW_UP (R351): A SLAVE port receives Follow_Up of a two-step Sync. -/
  | ptpFollowUp (p : HPort) (m : Ptp)
  /-- PTP_DELAY_REQ (R354): A MASTER port receives Delay_Req and answers Delay_Resp. -/
  | ptpDelayReq (p : HPort) (m : Ptp) (t4 : Nat)
  /-- PTP_DELAY_RESP (R351): A SLAVE port receives Delay_Resp for its path delay. -/
  | ptpDelayResp (p : HPort) (m : Ptp) (t3 : Nat)
  /-- PTP_PDELAY_REQ (R354): A port receives Pdelay_Req and answers. -/
  | ptpPdelayReq (p : HPort) (m : Ptp) (t2 : Nat)
  /-- PTP_PDELAY_RESP (R351): A port receives Pdelay_Resp for its peer delay. -/
  | ptpPdelayResp (p : HPort) (m : Ptp) (t1 : Nat) (t4 : Nat)
  /-- PTP_PDELAY_RESP_FOLLOW_UP (R351): A port receives Pdelay_Resp_Follow_Up. -/
  | ptpPdelayRespFollowUp (p : HPort) (m : Ptp)
  /-- PTP_ANNOUNCE (R350): A SLAVE port receives Announce, keeping its input valid. -/
  | ptpAnnounce (p : HPort) (m : Ptp)
  /-- PTP_DISCARD (R354): Signaling and Management messages are discarded and counted. -/
  | ptpDiscard
  /-- PTP_SYNC_SEND (R354): A MASTER port sends one-step Sync and Announce on its intervals. -/
  | ptpSyncSend (p : HPort)
  /-- ANNOUNCE_TIMEOUT (R350): A time input gets no Announce within the receipt timeout and becomes invalid. -/
  | announceTimeout (p : HPort)
  /-- RELOCK (R347): TIM.CTL.RELOCK enters ACQ and permits one new step. -/
  | relock (f : Frame)
  /-- LATCH (R336): TIM.CTL.LATCH captures N and fabric time into the CAP registers. -/
  | latchOp (f : Frame)
  /-- SETTIME (R353): TIM.CTL.SETTIME steps a master with GM 0 to the SET registers. -/
  | settime (f : Frame)
  /-- PHASE_LOCAL_EVENT (R359): An owned reference sees a local event and takes its value and a period sample. -/
  | phaseLocalEvent (ph : Nat)
  /-- PHEV_SEND (R361): An owner sends PHEV for a published event once MININT has passed. -/
  | phevSend (ph : Nat)
  /-- PHEV (R362): A REMOTE reference accepts a PHEV and re-anchors its prediction. -/
  | phev (f : Frame)
  /-- PHASE_STALL (R364): No event for STALLN intervals stalls the reference. -/
  | phaseStall (ph : Nat)
  /-- SWEEP (R374): A reflex sweep evaluates every rule and commits changed outputs. -/
  | sweep
  /-- EXTRA_SWEEP (R376): The named phase reference passes XFRAC and an extra sweep runs. -/
  | extraSweep
  /-- DEFERRED_SWEEP (R376): A sweep that fell due during another starts when that one ends. -/
  | deferredSweep
  /-- LATCH_CLEAR (R373): RFX.LCLR requests a latch clear that acts in the next sweep. -/
  | latchClear (f : Frame)
  /-- ALM_POP (R378): RFX.ALM_POP removes the head alarm entry. -/
  | almPop (f : Frame)
  /-- IMAGE_LOAD (R394): The hub validates and applies its active image set and the pins take their functions. -/
  | imageLoad (vio : List Nat)
  /-- STAGING_OPEN (R397): IMG.STG_CTL OPEN erases the inactive slot and opens staging. -/
  | stagingOpen (f : Frame)
  /-- STAGING_CLOSE (R385): IMG.STG_CTL CLOSE closes staging to writes. -/
  | stagingClose (f : Frame)
  /-- VERIFY (R397): IMG.STG_CTL VERIFY checks the staged set without loading it. -/
  | verifyOp (f : Frame)
  /-- ACTIVATE (R397): IMG.STG_CTL ACTIVATE veers or leaves the ring, makes the staged slot active and loads it. -/
  | activate (f : Frame)
  /-- OVCOPY (R398): IMG.STG_CTL OVCOPY copies a staged overlay into the active slot. -/
  | ovcopy (f : Frame)
  /-- MODE_REQUEST (R400): IMG.MC_CTL.REQ sends MODEREQ to the master. -/
  | modeRequest (f : Frame)
  /-- MODEREQ (R400): The master receives a mode request and refuses it or sends MODEARM. -/
  | modereq (f : Frame)
  /-- MODEARM (R401): A hub receives MODEARM, checks it, arms its shadow registers and answers. -/
  | modearm (f : Frame)
  /-- MODEACK (R401): The master receives a hub's ARMED or veto answer. -/
  | modeack (f : Frame)
  /-- MODE_DEADLINE (R401): At deadline D the master sends MODEGO or MODEABT and MODERES. -/
  | modeDeadline
  /-- MODEGO (R402): An armed hub receives MODEGO and will switch at the overlay instant. -/
  | modego (f : Frame)
  /-- MODEABT (R404): A hub receives MODEABT and discards its arm. -/
  | modeabt (f : Frame)
  /-- MODERES (R400): The requesting hub receives the outcome of its mode request. -/
  | moderes (f : Frame)
  /-- MODEQRY (R404): The master receives a query and answers that hub alone with MODEGO or MODEABT. -/
  | modeqry (f : Frame)
  /-- MODESTAT (R404): A hub receives MODESTAT and switches at once if its mode or epoch differs. -/
  | modestat (f : Frame)
  /-- MODESTAT_SEND (R399): The master sends MODESTAT every 100 ms and on each change. -/
  | modestatSend
  /-- OVERLAY_INSTANT (R402): A hub holding MODEGO reaches the instant and every block takes its shadow values. -/
  | overlayInstant
  /-- MODE_LATE_APPLY (R403): A phase instant not reached by tp plus half of Test is applied late. -/
  | modeLateApply
  /-- MODE_INSTANT_NO_GO (R404): An armed hub reaches the instant without MODEGO or MODEABT and sends MODEQRY. -/
  | modeInstantNoGo
  /-- SETTINGS_STORE (R406): IMG.SET_CTL.STORE starts writing a settings record to the other area. -/
  | settingsStore (f : Frame)
  /-- STORE_DONE (R406): A settings store completes within 2 ms. -/
  | storeDone
  /-- SETTINGS_ERASE (R407): IMG.SET_CTL.ERASE invalidates both settings areas. -/
  | settingsErase (f : Frame)
  /-- SCHEDULE_DUE (R391): A schedule entry falls due and its user acts: lull, veer, mark or snapshot. -/
  | scheduleDue (entry : Nat)
  /-- KEY_DERIVE (R412): UPnn_KD DERIVE starts a derivation into a page slot and increments its generation. -/
  | keyDerive (f : Frame)
  /-- KEY_ERASE (R412): UPnn_KD ERASE empties a page slot and increments its generation. -/
  | keyErase (f : Frame)
  /-- DERIVATION_DONE (R412): A derivation ends and the slot becomes READY. -/
  | derivationDone (slot : Nat)
  /-- LA_GO (R422): UPnn_GO checks and queues a look-aside job. -/
  | laGo (f : Frame)
  /-- LA_JOB_START (R413): The engine starts a job, checking its slot's generation. -/
  | laJobStart
  /-- LA_JOB_END (R425): A look-aside job ends with its result and its GO completes. -/
  | laJobEnd (fault : Bool) (blocks : Nat)
  /-- CTX_SAVE (R429): UPnn_CTXCTL SAVE copies the chaining state clear or wrapped into CTX registers. -/
  | ctxSave (f : Frame)
  /-- CTX_RESTORE (R429): UPnn_CTXCTL RESTORE loads the chaining state from CTX registers. -/
  | ctxRestore (f : Frame)
  /-- PAGE_ALLOC (R430): CRY.CMD ALLOC takes the lowest free user page for the initiator. -/
  | pageAlloc (f : Frame)
  /-- PAGE_FREE (R430): CRY.CMD FREE frees a run-time user page. -/
  | pageFree (f : Frame)
  /-- EPOCH_ROTATE (R418): CRY.LK_CTL ROTATE requests an epoch move on a lane's transmit side. -/
  | epochRotate (f : Frame)
  /-- EPOCH_PERIOD (R418): PERIOD hours pass or HOPIV passes 2^40 and the transmitter moves epoch. -/
  | epochPeriod (l : Lane)
  /-- SQUALL (R434): A squall source is detected and CRY erases all key material and the node drops out. -/
  | squall (source : Nat)
  /-- TAMPER_SAMPLE (R435): While the hub die is unpowered the tamper inputs are sampled and a tamper latched. -/
  | tamperSample (mask : Nat)
  /-- PGM_FLEET (R436): CRY.FUSE_CMD PGM_FLEET programs the fleet root. -/
  | pgmFleet (f : Frame)
  /-- PGM_IMGKEY (R436): CRY.FUSE_CMD PGM_IMGKEY programs an image key digest. -/
  | pgmImgkey (f : Frame)
  /-- REVOKE_IMGKEY (R437): CRY.FUSE_CMD REVOKE_IMGKEY revokes an image key digest. -/
  | revokeImgkey (f : Frame)
  /-- REVOKE_JK0 (R438): CRY.FUSE_CMD REVOKE_JK0 sets JKREV. -/
  | revokeJk0 (f : Frame)
  /-- READ_IMGKEY (R436): CRY.FUSE_CMD READ_IMGKEY returns an image key digest in FUSE_DATA. -/
  | readImgkey (f : Frame)
  /-- FUSE_DONE (R436): A fuse command completes and FUSE_DATA is zeroed. -/
  | fuseDone (fault : Nat)
  /-- TWS (R445): A TWS link word on lane T gives the partner's role, SYNC and serial. -/
  | tws (content : Nat)
  /-- TWS_SEND (R445): Each twin sends TWS every 1 µs. -/
  | twsSend
  /-- ORIGN (R446): The standby receives the SEQ of frames the active originated. -/
  | orign (f : Frame)
  /-- DONE (R446): The standby receives completed work and applies it to its queues and objects. -/
  | done (seq : Nat) (items : List DoneItem) (empty : List Nat)
  /-- LHIST (R442): The standby receives the mirror of both twins' link histories. -/
  | lhist (seq : Nat) (theirs : List (Nat × List LinkCtx)) (mine : List (Nat × List LinkCtx))
  /-- HOSTF (R447): The active receives a relayed host frame fragment and takes the frame once complete. -/
  | hostf (f : Frame)
  /-- SYNC_RESTORE (R448): After 1 s without a gap and with far-side queues reported empty, SYNC is set again. -/
  | syncRestore
  /-- SEQUENCER_MISMATCH (R452): The two output sequencer copies disagree and hold asserts. -/
  | sequencerMismatch
  /-- TWN_FAIL (R453): TWN.CTL.FAIL declares the active failed with cause 7. -/
  | twnFail (f : Frame)
  /-- PARTNER_FAIL (R454): The standby sees TWN_FAILI fall, latches pad levels and becomes active. -/
  | partnerFail (gap : Nat) (cut : List (Nat × Option Nat)) (can : List Nat)
  /-- PARTNER_ACTIVE (R454): The old active sees TWN_ACTI and releases every pad. -/
  | partnerActive
  /-- ROLE_DECIDE (R450): A twin that is LOADED and admitted becomes active or standby. -/
  | roleDecide (failI : Bool) (actI : Bool)
  /-- DOUBLE_ACTIVE (R450): Both twins active for 2 µs and the non-preferred becomes standby. -/
  | doubleActive
  /-- VEER (R457): TWN.CTL.VEER requests a planned role swap. -/
  | veer (f : Frame)
  /-- VEERREQ (R457): The master receives a veer request and grants or refuses it. -/
  | veerreq (f : Frame)
  /-- VEERGO (R458): The active receives VEERGO and waits for its buses to go idle. -/
  | veergo (f : Frame)
  /-- VEERNO (R457): The active receives a veer refusal. -/
  | veerno (f : Frame)
  /-- VEER_BUS_IDLE (R458): All buses idle or VEERWAIT passes and the roles are swapped. -/
  | veerBusIdle (gap : Nat) (cut : List (Nat × Option Nat)) (can : List Nat)
  /-- VEERDONE (R458): The master receives the end of a veer. -/
  | veerdone (f : Frame)
  /-- REVERT_TIMER (R460): A preferred standby healthy for HOLDOFF seconds requests a veer. -/
  | revertTimer
  /-- CUT_TRANSACTION_REDO (R456): After the bus recovers the new active performs a cut transaction again. -/
  | cutTransactionRedo (bus : Nat)
  /-- REF_CHANGE (R465): The reference in use loses qualification or a better one has held for 1 s. -/
  | refChange (qual : Nat)
  /-- REF_MEASURE_DONE (R466): After 10 ms of measurement the conditioner switches hitless or takes the ramp path. -/
  | refMeasureDone (within : Bool)
  /-- SPARE_PLL_LOCK (R466): The spare PLL locks to the new reference and domains move to it. -/
  | sparePllLock (pll : Nat)
  /-- DOMAIN_MOVE (R467): A ramped domain ramps down, switches source and ramps up. -/
  | domainMove (forced : Bool)
  /-- MISSING_EDGE (R473): A monitor finds a source stopped and the hub acts by Table 16-3. -/
  | missingEdge (source : Nat) (still : Bool)
  /-- SOURCE_RUNNING (R473): A stopped source shows edges for 10 windows and counts as running. -/
  | sourceRunning (source : Nat)
  /-- GATE_REQUEST (R475): Setting a CKR.GATE bit raises a gate request to the block. -/
  | gateRequest (f : Frame)
  /-- GATE_ACK (R475): The block reaches bus idle and its clock is stopped. -/
  | gateAck (blk : Nat)
  /-- GATE_TIMEOUT (R476): No bus idle within 1,024 cycles and the gate is not applied. -/
  | gateTimeout (blk : Nat)
  /-- GATE_CLEAR (R475): Clearing a GATE bit restarts the clock or withdraws the request. -/
  | gateClear (f : Frame)
  /-- WARM_RESET (R478): A level 2 reset from CKR.RST_CTL, watchdog, lockstep or clock loss. -/
  | warmReset (cause : Nat)
  /-- COLD_RESET (R478): A level 1 reset from CKR.RST_CTL COLD or loss of hub-die power-good. -/
  | coldReset (cause : Nat)
  /-- HRST (R478): HRST_N low for at least 1 µs raises a level 1 reset. -/
  | hrst
  /-- RESET_PRELUDE_END (R479): The 2 µs reset prelude ends and the reset asserts. -/
  | resetPreludeEnd (active : Bool)
  /-- BLOCK_RESET (R480): CKR.BLKRST holds named blocks in reset for 64 cycles. -/
  | blockReset (f : Frame)
  /-- BLOCK_RESET_DONE (R480): IMG reapplies the block's records, settings and overlay and the block leaves reset. -/
  | blockResetDone (blk : Nat)
  /-- HUB_DIE_POWER_GOOD (R483): Hub-die power-good asserts and the cold start sequence runs. -/
  | hubDiePowerGood (active : Bool)
  /-- VIN_ENTER_WINDOW (R493): VIN enters the input window and the insertion delay starts. -/
  | vinEnterWindow
  /-- VIN_LEAVE_WINDOW (R493): VIN leaves the window and the controller turns off to OFF. -/
  | vinLeaveWindow (high : Bool)
  /-- INSERTION_DELAY_END (R487): The insertion delay passes and PRECHARGE starts. -/
  | insertionDelayEnd
  /-- PRECHARGE_END (R487): VIN − VOUT falls to PCDV and RAMP starts. -/
  | prechargeEnd
  /-- PRECHARGE_TIMEOUT (R487): Pre-charge exceeds PCTMO and trips with cause PRECHARGE. -/
  | prechargeTimeout
  /-- GATE_FULLY_ON (R487): The gate reaches fully on and qualification starts. -/
  | gateFullyOn
  /-- PG_QUALIFIED (R490): A full qualifying window passes and PG asserts. -/
  | pgQualified
  /-- OVERCURRENT (R488): The sense voltage reaches VCB, the limiter acts and the fault timer starts. -/
  | overcurrent
  /-- FAULT_TIMER_IDLE (R489): The sense voltage stays below 90 % of VCB for 100 µs and the timer is idle. -/
  | faultTimerIdle (full : Bool)
  /-- FAULT_TIMER_EXPIRY (R489): The fault timer reaches FLTTMO and a trip with cause CURRENT occurs. -/
  | faultTimerExpiry
  /-- RETRY_TIMER_EXPIRY (R494): The retry timer expires with VIN in the window and PRECHARGE starts. -/
  | retryTimerExpiry
  /-- RCNT_CLEAR (R494): PG asserted for 60 s without interruption returns RCNT to 0. -/
  | rcntClear
  /-- VAUX_LOSS (R495): VAUX falls below lockout and the hold-up domain runs from HOLD. -/
  | vauxLoss
  /-- VAUX_RETURN (R496): VAUX returns and the controller resumes by its hold-up contents. -/
  | vauxReturn
  /-- HOLD_COLLAPSE (R495): HOLD falls below 1.2 V and the hold-up contents are cleared. -/
  | holdCollapse
  /-- RAIL_OUT_OF_LIMITS (R493): A hub-die rail leaves its limits and hub-die power-good deasserts. -/
  | railOutOfLimits
  /-- HDPG_ASSERT (R493): With PG asserted and rails good for 2 ms, hub-die power-good asserts. -/
  | hdpgAssert
  /-- SNS_READ (R502): Mailbox command SNS_READ returns a sensor value. -/
  | snsRead
  /-- FW_OPEN (R515): Mailbox command FW_OPEN erases the inactive firmware slot. -/
  | fwOpen
  /-- FW_WRITE (R515): Mailbox command FW_WRITE writes data into the inactive firmware slot. -/
  | fwWrite
  /-- FW_VERIFY (R515): Mailbox command FW_VERIFY checks header, signature and serial floor. -/
  | fwVerify
  /-- FW_ACTIVATE (R515): Mailbox command FW_ACTIVATE makes the new slot active and causes a warm reset. -/
  | fwActivate
  /-- CONFIRM (R516): Mailbox command CONFIRM confirms the pending update and raises the floors. -/
  | confirm
  /-- MBX_FUSE (R502): Mailbox command FUSE performs a fuse command for the initiator. -/
  | mbxFuse (fault : Nat)
  /-- DLD_RELAY (R520): Mailbox command DLD_RELAY sends a doldrums message on a ring lane and returns the reply. -/
  | dldRelay
  /-- MBOX (R501): An MBOX transaction queues a mailbox command, or completes BUSY when 8 wait. -/
  | mbox (f : Frame)
  /-- WATCHDOG_EXPIRY (R500): Mirik's watchdog expires after 1 s and causes a warm reset. -/
  | watchdogExpiry
  /-- LOCKSTEP_ERROR (R499): Mirik's cores disagree and a warm reset or twin failure follows. -/
  | lockstepError
  /-- ALARM_DRAIN (R504): Mirik empties the alarm FIFO into the event log and sends ALMN notices. -/
  | alarmDrain
  /-- ALMN (R504): An alarm notice arrives at its sink. -/
  | almn (f : Frame)
  /-- EVTN (R504): An event notice arrives at its sink. -/
  | evtn (f : Frame)
  /-- SENSOR_UPDATE (R506): Mirik reads a sensor on its update interval. -/
  | sensorUpdate (idx : Nat) (value : Nat) (raw : Nat) (valid : Bool)
  /-- EVENT_LOG_WRITE (R509): A staged event-log entry is written to NVM. -/
  | eventLogWrite
  /-- EVL_CLEAR (R509): MGT.EVL_STAT.CLEAR empties the event log. -/
  | evlClear (f : Frame)
  /-- VLOG_CLEAR (R57): MGT.VLOG_STAT.CLEAR empties the violation log. -/
  | vlogClear (f : Frame)
  /-- PLOG_CLEAR (R57): MGT.PLOG_STAT.CLEAR empties the posted error log. -/
  | plogClear (f : Frame)
  /-- ST_SCRUB (R510): Self-test SCRUB runs a full scrub pass. -/
  | stScrub (f : Frame)
  /-- ST_EYE (R510): Self-test EYE runs the SerDes eye monitor on a lane. -/
  | stEye (f : Frame)
  /-- ST_CLKMON (R510): Self-test CLKMON injects a stop into each monitor's shadow input. -/
  | stClkmon (f : Frame)
  /-- ST_KAT (R510): Self-test KAT runs known-answer tests on the look-aside engine. -/
  | stKat (f : Frame)
  /-- ST_PADRB (R511): Intrusive self-test PADRB loops back each pad, run now, queued or refused. -/
  | stPadrb (f : Frame)
  /-- ST_MBIST (R511): Intrusive self-test MBIST march-tests a memory and resets its block. -/
  | stMbist (f : Frame)
  /-- TEST_COMPLETE (R512): A self-test ends and its result enters the event log. -/
  | testComplete (pass : Bool) (detail : Nat)
  /-- LULL_END (R512): A lull ends and a running test is aborted. -/
  | lullEnd
  /-- AUTOCONF (R516): 600 s LOADED and admitted without reset confirms a pending update. -/
  | autoconf
  /-- CONF_TIMEOUT (R517): CONFTMO passes without confirmation and Mirik falls back. -/
  | confTimeout
  /-- HELLO_SEND (R519): In doldrums mode the hub sends HELLO every 1 s. -/
  | helloSend
  /-- HELLO (R520): A HELLO from a doldrums hub arrives. -/
  | hello (l : Lane) (f : Frame)
  /-- DLD_OPEN (R520): An OPEN starts a doldrums session or receives BUSY. -/
  | dldOpen (src : DldSrc) (pay : List Byte)
  /-- DLD_DATA (R520): A DATA message writes content into the session's target slot. -/
  | dldData (src : DldSrc) (pay : List Byte)
  /-- DLD_END (R521): An END verifies the content and activates it with a warm reset if it passes. -/
  | dldEnd (src : DldSrc)
  /-- DLD_STATUS (R520): A STATUS answer arrives from a doldrums hub. -/
  | dldStatus (src : DldSrc) (pay : List Byte)
  /-- DLD_SESSION_TIMEOUT (R520): A doldrums session closes after 10 s without a message. -/
  | dldSessionTimeout
  /-- HIST_RECORD (R524): HST accepts a record from a producer and gives it the next local number. -/
  | histRecord
  /-- PAGE_FLUSH_TIMEOUT (R528): A partial page is closed FLUSH ms after its first record. -/
  | pageFlushTimeout
  /-- PAGE_PROGRAM_DONE (R533): A NAND program ends, retiring the block and reprogramming on FAIL. -/
  | pageProgramDone (fail : Bool)
  /-- BLOCK_ERASE_DONE (R533): A NAND erase ends, retiring the block on FAIL. -/
  | blockEraseDone (fail : Bool)
  /-- HST_MOUNT (R537): HST mounts the medium, finds the write head and recovers torn pages and losses. -/
  | hstMount (dev : Bool) (same : Bool) (torn : Bool) (partly : Bool) (factory : List Nat)
  /-- HST_FLUSH (R528): HST.CTL.FLUSH closes the current page. -/
  | hstFlush (f : Frame)
  /-- HST_MARK (R524): HST.CTL.MARK makes a MARK record followed by a flush. -/
  | hstMark (f : Frame)
  /-- HST_FORMAT (R532): HST.CTL.FORMAT formats the medium when FMTOK is 1. -/
  | hstFormat (f : Frame)
  /-- HST_RESUME (R534): HST.CTL.RESUME leaves STOPPED. -/
  | hstResume (f : Frame)
  /-- BLOCK_SCRUB (R535): A block reaching RDLIM reads is read whole and relocated if needed. -/
  | blockScrub (hblk : Nat) (needs : Bool) (corr : Nat) (uncorr : Nat) (lost : List Nat)
  /-- PATROL_SCRUB (R535): Each block of history is read once every PATROL days. -/
  | patrolScrub (hblk : Nat) (needs : Bool) (corr : Nat) (uncorr : Nat) (lost : List Nat)
  /-- REPL_SEND (R539): HST sends a replication frame when 32 records are ready or BATCH ms pass. -/
  | replSend (second : Bool)
  /-- RESERVED_OPCODE_FETCH (R248): An engine fetches a word whose opcode is reserved, or whose unnamed operand bits are set, and halts with FAULT = ILLOP. -/
  | reservedOpcodeFetch (pe : Nat) (ecc : Bool)
  /-- TGMR_TIMEOUT (R350): No TGMR reaches the ring master from a time input for one second, so that input becomes invalid and the master may switch inputs or clear GM. -/
  | tgmrTimeout (input : Nat)
  /-- BYPASS_SETTLE_END (R127): BYP_CTL.SETTLE ms after insertion is requested, lanes E and W leave DISABLED and start searching for block lock. -/
  | bypassSettleEnd
  /-- NAND_PAGE_READ_DONE (R538): A NAND page read for a historian window RD ends, so its data or POISON completes the read, or an abort that was waiting takes effect. -/
  | nandPageReadDone (uncorr : Bool) (corr : Nat)
  /-- STAGING_COMMAND_DONE (R397): A staging VERIFY or OPEN erase that was running ends, and IMG.STG_STAT RUNNING clears with RESULT and REASON. -/
  | stagingCommandDone
  /-- SEQUENCE_ORDERED_SET (R78): A clause 46 local or remote fault ordered set arrives on a ring lane and is counted in Lx_CNT_FAULT. -/
  | sequenceOrderedSet (l : Lane)
  /-- STRAY_BLOCK (R79): A block of an unknown type arrives between frames on a ring lane and is counted in Lx_CNT_STRAY and ignored. -/
  | strayBlock (l : Lane)
  deriving DecidableEq, Repr

end Sys2Proof
end

