-- ==== Sys2Proof/WellFormed.lean ====
section
/-! DEFINITION. Which commands are well formed: every number that names a unit, a pin, a lane or a field is within the
range the spec gives it, and every frame's header fields fit their bits (Table 03-4). -/
namespace Sys2Proof
open Sys2Proof.Machine

/-- Every header field of a frame fits its bits, and its payload has at most 1,996 bytes (R85). -/
def Machine.Frame.wf (f : Frame) : Bool :=
  decide (f.ver < 16) && decide (f.tt.code < 16) && decide (f.tc < 16) && decide (f.dst < 256) && decide (f.src < 256)
    && decide (f.seq < 2 ^ 32) && decide (f.init < 256) && decide (f.tag < 1024) && decide (f.opc < 16)
    && decide (f.addr < 2 ^ 48) && decide (f.len < 2048) && decide (f.hoplim < 1024) && decide (f.inc < 2 ^ 16)
    && decide (f.hopiv < 2 ^ 64) && decide (f.pay.length ≤ 1996)

/-- The well-formed commands. -/
def Instr.wf : Instr → Bool
  | .registerWrite f => f.wf
  | .readClear f => f.wf
  | .rd f ecc => f.wf && ecc.all (fun k => decide (k.1 < 65536))
  | .wr f => f.wf
  | .wrn f => f.wf
  | .swapOp f => f.wf
  | .casOp f => f.wf
  | .faddOp f => f.wf
  | .fandOp f => f.wf
  | .forOp f => f.wf
  | .fxorOp f => f.wf
  | .cmp f => f.wf
  | .completionTimeout init tag => decide (init < 256) && decide (tag < 1024)
  | .tagReserveExpiry init tag => decide (init < 256) && decide (tag < 1024)
  | .tagWaitSend f => f.wf
  | .errn f => f.wf
  | .abortOp f => f.wf
  | .crd _ tc4 _ => decide (tc4 < 4)
  | .crdSend _ tc4 => decide (tc4 < 4)
  | .lid _ _ _ => true
  | .linc _ _ => true
  | .lidLincSend _ => true
  | .susp _ => true
  | .resm _ => true
  | .tc0Preempt _ => true
  | .ringFrameHead _ f => f.wf
  | .frameVerdict _ _ _ _ => true
  | .holdTimerExpiry _ => true
  | .hostFrameRx _ _ _ => true
  | .blockLockLoss _ => true
  | .blockLockGain _ => true
  | .hiBer _ => true
  | .qualityWindow _ _ _ _ => true
  | .probationPass _ => true
  | .reenable f => f.wf
  | .hopmSend _ => true
  | .hopm _ f => f.wf
  | .fillTimeout _ => true
  | .admreq f _ => f.wf
  | .admreqSend => true
  | .admitSend => true
  | .admitOp f => f.wf
  | .refuse f => f.wf
  | .master f => f.wf
  | .masterBeaconSend => true
  | .beaconLoss => true
  | .cand f => f.wf
  | .candSend => true
  | .electionWin => true
  | .noAdmittedHub => true
  | .memb f => f.wf
  | .membSend => true
  | .pres f => f.wf
  | .presSend => true
  | .positionRemoval _ => true
  | .leave f => f.wf
  | .dld _ f => f.wf
  | .bypInsertWrite f => f.wf
  | .insertRelease => true
  | .heartbeatSend => true
  | .heartbeatLost => true
  | .switchIngressHead port => decide (port < 12)
  | .cellSlot _ => true
  | .bufferScrub _ => true
  | .bufferFillDone => true
  | .localQueueRoom _ => true
  | .aonLink _ => true
  | .packerUnitWrite pe => decide (pe < 64)
  | .packerStallRelease pe => decide (pe < 64)
  | .packerCtTimeout pe => decide (pe < 64)
  | .packerFlush f => f.wf
  | .sampleSend => true
  | .captureRestart f => f.wf
  | .shaperTick => true
  | .policerTick => true
  | .policerAlloc f => f.wf
  | .policerFree f => f.wf
  | .sourceUpdate => true
  | .periodTimer _ => true
  | .deferredEvaluation _ => true
  | .staleTimeout _ => true
  | .batchTimer _ => true
  | .pubFrameBuild => true
  | .pub f => f.wf
  | .objectScrub _ => true
  | .holdChange => true
  | .cmdLockRead _ f => f.wf
  | .cmdLockTimeout _ => true
  | .releaseLock _ f => f.wf
  | .subAlloc f => f.wf
  | .subFree f => f.wf
  | .snapArm f => f.wf
  | .snapCancel f => f.wf
  | .snapshotInstant sslot => decide (sslot < 8)
  | .bcopy f => f.wf
  | .bcopyFrameSend => true
  | .snapreq f => f.wf
  | .snaparm f => f.wf
  | .snapnack f => f.wf
  | .snapreqTimeout => true
  | .pinFilteredEdge pin _ => decide (pin < 256)
  | .pinOutputChange pin _ => decide (pin < 256)
  | .readbackMismatch pin => decide (pin < 256)
  | .pulseEnd pin => decide (pin < 256)
  | .vwFrameSend _ => true
  | .vwRefresh _ => true
  | .vw f => f.wf
  | .vwApply _ => true
  | .vwSlotTimeout _ => true
  | .bankSupplyLoss _ => true
  | .bankSupplyRestore _ => true
  | .nopOp pe => decide (pe < 64)
  | .gotoOp pe => decide (pe < 64)
  | .loopOp pe => decide (pe < 64)
  | .caseOp pe => decide (pe < 64)
  | .untilOp pe => decide (pe < 64)
  | .emitOp pe _ => decide (pe < 64)
  | .captureOp pe _ => decide (pe < 64)
  | .xchgOp pe _ => decide (pe < 64)
  | .sampleOp pe => decide (pe < 64)
  | .driveOp pe => decide (pe < 64)
  | .postOp pe => decide (pe < 64)
  | .fetchOp pe => decide (pe < 64)
  | .copyOp pe => decide (pe < 64)
  | .setkOp pe => decide (pe < 64)
  | .calcOp pe => decide (pe < 64)
  | .flagOp pe => decide (pe < 64)
  | .atOp pe => decide (pe < 64)
  | .stopOp pe => decide (pe < 64)
  | .stallRelease pe _ => decide (pe < 64)
  | .timedAction pe => decide (pe < 64)
  | .engineHalt f => f.wf
  | .engineStart f => f.wf
  | .engineStep f _ => f.wf
  | .flushrx f => f.wf
  | .flushtx f => f.wf
  | .flushtaq f => f.wf
  | .releaseOp f => f.wf
  | .gstart f => f.wf
  | .ghalt f => f.wf
  | .sfset f => f.wf
  | .sfclr f => f.wf
  | .txqWrite f => f.wf
  | .rxqRead f => f.wf
  | .idataWrite f => f.wf
  | .idataRead f => f.wf
  | .mailboxWrite pe k f => decide (pe < 64) && decide (k < 16) && f.all Frame.wf
  | .taqActWrite f => f.wf
  | .feedWindowDrain pe => decide (pe < 64)
  | .canFrameRx ch _ _ => decide (ch < 16)
  | .canLockTimeout _ => true
  | .txreq f => f.wf
  | .txabort f => f.wf
  | .canArbitration ch => decide (ch < 16)
  | .canTxComplete ch _ => decide (ch < 16)
  | .canBusError ch _ _ _ _ _ => decide (ch < 16)
  | .busOff ch => decide (ch < 16)
  | .recover f => f.wf
  | .recoveryComplete ch => decide (ch < 16)
  | .canModeWrite f => f.wf
  | .canModeEffect ch => decide (ch < 16)
  | .busIntegration ch => decide (ch < 16)
  | .abdDwellExpiry ch _ => decide (ch < 16)
  | .cantxRequest => true
  | .canObjAlloc f => f.wf
  | .canObjFree f => f.wf
  | .uartCharRx _ _ _ _ _ => true
  | .busIdleDispatch bus => decide (bus < 64)
  | .farSideComplete bus _ _ => decide (bus < 64)
  | .farSideTimeout bus => decide (bus < 64)
  | .prefetchAge _ => true
  | .pollDue entry => decide (entry < 64)
  | .bridgeSinkWrite => true
  | .dlogClear f => f.wf
  | .tsyncSend => true
  | .tsync f _ => f.wf
  | .syncLossHoldover => true
  | .timeRingSwitch => true
  | .tgmrSend _ => true
  | .tgmr f => f.wf
  | .ptpSync _ _ _ => true
  | .ptpFollowUp _ _ => true
  | .ptpDelayReq _ _ _ => true
  | .ptpDelayResp _ _ _ => true
  | .ptpPdelayReq _ _ _ => true
  | .ptpPdelayResp _ _ _ _ => true
  | .ptpPdelayRespFollowUp _ _ => true
  | .ptpAnnounce _ _ => true
  | .ptpDiscard => true
  | .ptpSyncSend _ => true
  | .announceTimeout _ => true
  | .relock f => f.wf
  | .latchOp f => f.wf
  | .settime f => f.wf
  | .phaseLocalEvent _ => true
  | .phevSend _ => true
  | .phev f => f.wf
  | .phaseStall _ => true
  | .sweep => true
  | .extraSweep => true
  | .deferredSweep => true
  | .latchClear f => f.wf
  | .almPop f => f.wf
  | .imageLoad _ => true
  | .stagingOpen f => f.wf
  | .stagingClose f => f.wf
  | .verifyOp f => f.wf
  | .activate f => f.wf
  | .ovcopy f => f.wf
  | .modeRequest f => f.wf
  | .modereq f => f.wf
  | .modearm f => f.wf
  | .modeack f => f.wf
  | .modeDeadline => true
  | .modego f => f.wf
  | .modeabt f => f.wf
  | .moderes f => f.wf
  | .modeqry f => f.wf
  | .modestat f => f.wf
  | .modestatSend => true
  | .overlayInstant => true
  | .modeLateApply => true
  | .modeInstantNoGo => true
  | .settingsStore f => f.wf
  | .storeDone => true
  | .settingsErase f => f.wf
  | .scheduleDue entry => decide (entry < 64)
  | .keyDerive f => f.wf
  | .keyErase f => f.wf
  | .derivationDone _ => true
  | .laGo f => f.wf
  | .laJobStart => true
  | .laJobEnd _ _ => true
  | .ctxSave f => f.wf
  | .ctxRestore f => f.wf
  | .pageAlloc f => f.wf
  | .pageFree f => f.wf
  | .epochRotate f => f.wf
  | .epochPeriod _ => true
  | .squall source => decide (source < 16)
  | .tamperSample _ => true
  | .pgmFleet f => f.wf
  | .pgmImgkey f => f.wf
  | .revokeImgkey f => f.wf
  | .revokeJk0 f => f.wf
  | .readImgkey f => f.wf
  | .fuseDone _ => true
  | .tws _ => true
  | .twsSend => true
  | .orign f => f.wf
  | .done _ _ _ => true
  | .lhist _ _ _ => true
  | .hostf f => f.wf
  | .syncRestore => true
  | .sequencerMismatch => true
  | .twnFail f => f.wf
  | .partnerFail _ _ _ => true
  | .partnerActive => true
  | .roleDecide _ _ => true
  | .doubleActive => true
  | .veer f => f.wf
  | .veerreq f => f.wf
  | .veergo f => f.wf
  | .veerno f => f.wf
  | .veerBusIdle _ _ _ => true
  | .veerdone f => f.wf
  | .revertTimer => true
  | .cutTransactionRedo bus => decide (bus < 64)
  | .refChange _ => true
  | .refMeasureDone _ => true
  | .sparePllLock pll => decide (pll < 2)
  | .domainMove _ => true
  | .missingEdge source _ => decide (source < 16)
  | .sourceRunning source => decide (source < 16)
  | .gateRequest f => f.wf
  | .gateAck blk => decide (blk < 21)
  | .gateTimeout blk => decide (blk < 21)
  | .gateClear f => f.wf
  | .warmReset cause => decide (cause < 16)
  | .coldReset cause => decide (cause < 16)
  | .hrst => true
  | .resetPreludeEnd _ => true
  | .blockReset f => f.wf
  | .blockResetDone blk => decide (blk < 21)
  | .hubDiePowerGood _ => true
  | .vinEnterWindow => true
  | .vinLeaveWindow _ => true
  | .insertionDelayEnd => true
  | .prechargeEnd => true
  | .prechargeTimeout => true
  | .gateFullyOn => true
  | .pgQualified => true
  | .overcurrent => true
  | .faultTimerIdle _ => true
  | .faultTimerExpiry => true
  | .retryTimerExpiry => true
  | .rcntClear => true
  | .vauxLoss => true
  | .vauxReturn => true
  | .holdCollapse => true
  | .railOutOfLimits => true
  | .hdpgAssert => true
  | .snsRead => true
  | .fwOpen => true
  | .fwWrite => true
  | .fwVerify => true
  | .fwActivate => true
  | .confirm => true
  | .mbxFuse _ => true
  | .dldRelay => true
  | .mbox f => f.wf
  | .watchdogExpiry => true
  | .lockstepError => true
  | .alarmDrain => true
  | .almn f => f.wf
  | .evtn f => f.wf
  | .sensorUpdate _ _ _ _ => true
  | .eventLogWrite => true
  | .evlClear f => f.wf
  | .vlogClear f => f.wf
  | .plogClear f => f.wf
  | .stScrub f => f.wf
  | .stEye f => f.wf
  | .stClkmon f => f.wf
  | .stKat f => f.wf
  | .stPadrb f => f.wf
  | .stMbist f => f.wf
  | .testComplete _ _ => true
  | .lullEnd => true
  | .autoconf => true
  | .confTimeout => true
  | .helloSend => true
  | .hello _ f => f.wf
  | .dldOpen _ _ => true
  | .dldData _ _ => true
  | .dldEnd _ => true
  | .dldStatus _ _ => true
  | .dldSessionTimeout => true
  | .histRecord => true
  | .pageFlushTimeout => true
  | .pageProgramDone _ => true
  | .blockEraseDone _ => true
  | .hstMount _ _ _ _ _ => true
  | .hstFlush f => f.wf
  | .hstMark f => f.wf
  | .hstFormat f => f.wf
  | .hstResume f => f.wf
  | .blockScrub _ _ _ _ _ => true
  | .patrolScrub _ _ _ _ _ => true
  | .replSend _ => true
  | .reservedOpcodeFetch pe _ => decide (pe < 64)
  | .tgmrTimeout _ => true
  | .bypassSettleEnd => true
  | .nandPageReadDone _ _ => true
  | .stagingCommandDone => true
  | .sequenceOrderedSet _ => true
  | .strayBlock _ => true

end Sys2Proof
end

