-- ==== Sys2Proof/Decode.lean ====
section
/-! DEFINITION. Words of the opcode table. No row of spec/opcode_table.json gives bits: a command of the hub is an event,
not an encoded word, so no word spells one. -/
namespace Sys2Proof

/-- The command that a word spells by the table's bits: none, since no row gives any. [DESIGN CHOICE 3 safe] -/
def decodeTableWord (_nbits _w : Nat) : Option Instr := none

end Sys2Proof
end

