-- ==== Sys2Proof/Machine/Fields.lean ====
section
/-! DEFINITION. The register fields that the meanings read and write, by the names of the spec's register tables:
offset, distance between instances, bit range, and the word the register holds before an image sets it (R562). -/
namespace Sys2Proof.Machine.F

/-- BRG.BUS_CFG.PSTARVE. -/
@[reducible] def BRG_BUS_CFG_PSTARVE : Fld := ⟨0x90024, 0x1000000, 15, 0, 0x0#32⟩
/-- BRG.BUS_IDX.BUS. -/
@[reducible] def BRG_BUS_IDX_BUS : Fld := ⟨0x90020, 0x0, 5, 0, 0x0#32⟩
/-- BRG.BUS_STAT.ACTIVE. -/
@[reducible] def BRG_BUS_STAT_ACTIVE : Fld := ⟨0x90028, 0x1000000, 2, 2, 0x0#32⟩
/-- BRG.BUS_STAT.CRD. -/
@[reducible] def BRG_BUS_STAT_CRD : Fld := ⟨0x90028, 0x1000000, 1, 0, 0x0#32⟩
/-- BRG.BUS_STAT.POLL. -/
@[reducible] def BRG_BUS_STAT_POLL : Fld := ⟨0x90028, 0x1000000, 3, 3, 0x0#32⟩
/-- BRG.BUS_STAT.PREF. -/
@[reducible] def BRG_BUS_STAT_PREF : Fld := ⟨0x90028, 0x1000000, 4, 4, 0x0#32⟩
/-- BRG.CNT_PFDISC.COUNT. -/
@[reducible] def BRG_CNT_PFDISC : Fld := ⟨0x900CC, 0x0, 31, 0, 0x0#32⟩
/-- BRG.CNT_PFHIT.COUNT. -/
@[reducible] def BRG_CNT_PFHIT : Fld := ⟨0x900C8, 0x0, 31, 0, 0x0#32⟩
/-- BRG.CNT_POLLOVD.COUNT. -/
@[reducible] def BRG_CNT_POLLOVD : Fld := ⟨0x900D0, 0x0, 31, 0, 0x0#32⟩
/-- BRG.CNT_RESETDISC.COUNT. -/
@[reducible] def BRG_CNT_RESETDISC : Fld := ⟨0x900D4, 0x0, 31, 0, 0x0#32⟩
/-- BRG.CNT_RETRY.COUNT. -/
@[reducible] def BRG_CNT_RETRY : Fld := ⟨0x900C4, 0x0, 31, 0, 0x0#32⟩
/-- BRG.CNT_SKMERGE.COUNT. -/
@[reducible] def BRG_CNT_SKMERGE : Fld := ⟨0x900D8, 0x0, 31, 0, 0x0#32⟩
/-- BRG.CNT_SPLIT.COUNT. -/
@[reducible] def BRG_CNT_SPLIT : Fld := ⟨0x900C0, 0x0, 31, 0, 0x0#32⟩
/-- BRG.DLOG_DATA.DATA. -/
@[reducible] def BRG_DLOG_DATA_DATA : Fld := ⟨0x900A0, 0x4, 31, 0, 0x0#32⟩
/-- BRG.DLOG_IDX.ENTRY. -/
@[reducible] def BRG_DLOG_IDX_ENTRY : Fld := ⟨0x90084, 0x0, 5, 0, 0x0#32⟩
/-- BRG.DLOG_STAT.CLEAR. -/
@[reducible] def BRG_DLOG_STAT_CLEAR : Fld := ⟨0x90080, 0x0, 8, 8, 0x0#32⟩
/-- BRG.DLOG_STAT.COUNT. -/
@[reducible] def BRG_DLOG_STAT_COUNT : Fld := ⟨0x90080, 0x0, 6, 0, 0x0#32⟩
/-- BRG.DLOG_STAT.OVF. -/
@[reducible] def BRG_DLOG_STAT_OVF : Fld := ⟨0x90080, 0x0, 7, 7, 0x0#32⟩
/-- BRG.DLOG_STAT.OVFCNT. -/
@[reducible] def BRG_DLOG_STAT_OVFCNT : Fld := ⟨0x90080, 0x0, 31, 16, 0x0#32⟩
/-- BRG.PL_CFG.EN. -/
@[reducible] def BRG_PL_CFG_EN : Fld := ⟨0x90044, 0x1000000, 0, 0, 0x0#32⟩
/-- BRG.PL_CFG.LEN. -/
@[reducible] def BRG_PL_CFG_LEN : Fld := ⟨0x90044, 0x1000000, 15, 9, 0x0#32⟩
/-- BRG.PL_CFG.RTMUL. -/
@[reducible] def BRG_PL_CFG_RTMUL : Fld := ⟨0x90044, 0x1000000, 29, 26, 0x0#32⟩
/-- BRG.PL_CFG.TRIGEDGE. -/
@[reducible] def BRG_PL_CFG_TRIGEDGE : Fld := ⟨0x90044, 0x1000000, 25, 24, 0x0#32⟩
/-- BRG.PL_CFG.TRIGPIN. -/
@[reducible] def BRG_PL_CFG_TRIGPIN : Fld := ⟨0x90044, 0x1000000, 23, 16, 0x0#32⟩
/-- BRG.PL_CFG.WIN. -/
@[reducible] def BRG_PL_CFG_WIN : Fld := ⟨0x90044, 0x1000000, 8, 1, 0x0#32⟩
/-- BRG.PL_FAILS.DONE. -/
@[reducible] def BRG_PL_FAILS_DONE : Fld := ⟨0x90054, 0x1000000, 31, 16, 0x0#32⟩
/-- BRG.PL_FAILS.FAILS. -/
@[reducible] def BRG_PL_FAILS_FAILS : Fld := ⟨0x90054, 0x1000000, 15, 0, 0x0#32⟩
/-- BRG.PL_INT.IMAX. -/
@[reducible] def BRG_PL_INT_IMAX : Fld := ⟨0x9004C, 0x1000000, 31, 16, 0x0#32⟩
/-- BRG.PL_INT.IMIN. -/
@[reducible] def BRG_PL_INT_IMIN : Fld := ⟨0x9004C, 0x1000000, 15, 0, 0x0#32⟩
/-- BRG.PL_OFF.OFF. -/
@[reducible] def BRG_PL_OFF_OFF : Fld := ⟨0x90048, 0x1000000, 23, 0, 0x0#32⟩
/-- BRG.PL_STAT.DUE. -/
@[reducible] def BRG_PL_STAT_DUE : Fld := ⟨0x90050, 0x1000000, 31, 31, 0x0#32⟩
/-- BRG.PL_STAT.FAULT. -/
@[reducible] def BRG_PL_STAT_FAULT : Fld := ⟨0x90050, 0x1000000, 30, 30, 0x0#32⟩
/-- BRG.PL_STAT.I. -/
@[reducible] def BRG_PL_STAT_I : Fld := ⟨0x90050, 0x1000000, 15, 0, 0x0#32⟩
/-- BRG.PL_STAT.RT. -/
@[reducible] def BRG_PL_STAT_RT : Fld := ⟨0x90050, 0x1000000, 29, 16, 0x0#32⟩
/-- BRG.SK_CFG.EN. -/
@[reducible] def BRG_SK_CFG_EN : Fld := ⟨0x90064, 0x1000000, 0, 0, 0x0#32⟩
/-- BRG.SK_CFG.LEN. -/
@[reducible] def BRG_SK_CFG_LEN : Fld := ⟨0x90064, 0x1000000, 12, 9, 0x0#32⟩
/-- BRG.SK_CFG.WIN. -/
@[reducible] def BRG_SK_CFG_WIN : Fld := ⟨0x90064, 0x1000000, 8, 1, 0x0#32⟩
/-- BRG.SK_OFF.OFF. -/
@[reducible] def BRG_SK_OFF_OFF : Fld := ⟨0x90068, 0x1000000, 23, 0, 0x0#32⟩
/-- BRG.WIN_BASE.BASE. -/
@[reducible] def BRG_WIN_BASE_BASE : Fld := ⟨0x90008, 0x1000000, 23, 0, 0x0#32⟩
/-- BRG.WIN_BASE.SIZE. -/
@[reducible] def BRG_WIN_BASE_SIZE : Fld := ⟨0x90008, 0x1000000, 31, 24, 0x0#32⟩
/-- BRG.WIN_CFG.BUS. -/
@[reducible] def BRG_WIN_CFG_BUS : Fld := ⟨0x90004, 0x1000000, 9, 4, 0x0#32⟩
/-- BRG.WIN_CFG.EN. -/
@[reducible] def BRG_WIN_CFG_EN : Fld := ⟨0x90004, 0x1000000, 0, 0, 0x0#32⟩
/-- BRG.WIN_CFG.KIND. -/
@[reducible] def BRG_WIN_CFG_KIND : Fld := ⟨0x90004, 0x1000000, 3, 1, 0x0#32⟩
/-- BRG.WIN_CFG.LQ. -/
@[reducible] def BRG_WIN_CFG_LQ : Fld := ⟨0x90004, 0x1000000, 30, 25, 0x0#32⟩
/-- BRG.WIN_CFG.MAXXFER. -/
@[reducible] def BRG_WIN_CFG_MAXXFER : Fld := ⟨0x90004, 0x1000000, 24, 14, 0x0#32⟩
/-- BRG.WIN_CFG.MULTI. -/
@[reducible] def BRG_WIN_CFG_MULTI : Fld := ⟨0x90004, 0x1000000, 11, 11, 0x0#32⟩
/-- BRG.WIN_CFG.RETRY. -/
@[reducible] def BRG_WIN_CFG_RETRY : Fld := ⟨0x90004, 0x1000000, 13, 12, 0x0#32⟩
/-- BRG.WIN_CFG.RETRYW. -/
@[reducible] def BRG_WIN_CFG_RETRYW : Fld := ⟨0x90004, 0x1000000, 10, 10, 0x0#32⟩
/-- BRG.WIN_FAR2.DUMMY. -/
@[reducible] def BRG_WIN_FAR2_DUMMY : Fld := ⟨0x90010, 0x1000000, 19, 16, 0x0#32⟩
/-- BRG.WIN_FAR2.PAGE. -/
@[reducible] def BRG_WIN_FAR2_PAGE : Fld := ⟨0x90010, 0x1000000, 23, 20, 0x0#32⟩
/-- BRG.WIN_FAR2.RDCMD. -/
@[reducible] def BRG_WIN_FAR2_RDCMD : Fld := ⟨0x90010, 0x1000000, 7, 0, 0x0#32⟩
/-- BRG.WIN_FAR2.WRCMD. -/
@[reducible] def BRG_WIN_FAR2_WRCMD : Fld := ⟨0x90010, 0x1000000, 15, 8, 0x0#32⟩
/-- BRG.WIN_FAR.AW. -/
@[reducible] def BRG_WIN_FAR_AW : Fld := ⟨0x9000C, 0x1000000, 25, 24, 0x0#32⟩
/-- BRG.WIN_FAR.FARBASE. -/
@[reducible] def BRG_WIN_FAR_FARBASE : Fld := ⟨0x9000C, 0x1000000, 15, 0, 0x0#32⟩
/-- BRG.WIN_FAR.UNIT. -/
@[reducible] def BRG_WIN_FAR_UNIT : Fld := ⟨0x9000C, 0x1000000, 23, 16, 0x0#32⟩
/-- BRG.WIN_TMO.PFAGE. -/
@[reducible] def BRG_WIN_TMO_PFAGE : Fld := ⟨0x90014, 0x1000000, 31, 25, 0x0#32⟩
/-- BRG.WIN_TMO.PFLEN. -/
@[reducible] def BRG_WIN_TMO_PFLEN : Fld := ⟨0x90014, 0x1000000, 24, 16, 0x0#32⟩
/-- BRG.WIN_TMO.RSPTMO. -/
@[reducible] def BRG_WIN_TMO_RSPTMO : Fld := ⟨0x90014, 0x1000000, 15, 0, 0x0#32⟩
/-- CAN.ABD_CTL.CONFIRM. -/
@[reducible] def CAN_ABD_CTL_CONFIRM : Fld := ⟨0x70F40, 0x0, 15, 12, 0x2000#32⟩
/-- CAN.ABD_CTL.DEN. -/
@[reducible] def CAN_ABD_CTL_DEN : Fld := ⟨0x70F40, 0x0, 27, 24, 0x2000#32⟩
/-- CAN.ABD_CTL.DWELL. -/
@[reducible] def CAN_ABD_CTL_DWELL : Fld := ⟨0x70F40, 0x0, 7, 0, 0x2000#32⟩
/-- CAN.ABD_CTL.NEN. -/
@[reducible] def CAN_ABD_CTL_NEN : Fld := ⟨0x70F40, 0x0, 23, 16, 0x2000#32⟩
/-- CAN.ABD_CTL.ROUNDS. -/
@[reducible] def CAN_ABD_CTL_ROUNDS : Fld := ⟨0x70F40, 0x0, 11, 8, 0x2000#32⟩
/-- CAN.ABD_D. -/
@[reducible] def CAN_ABD_D_WORD : Fld := ⟨0x70F64, 0x4, 31, 0, 0x0#32⟩
/-- CAN.ABD_N. -/
@[reducible] def CAN_ABD_N_WORD : Fld := ⟨0x70F44, 0x4, 31, 0, 0x0#32⟩
/-- CAN.CMD_ARG0.CHAN. -/
@[reducible] def CAN_CMD_ARG0_CHAN : Fld := ⟨0x70F14, 0x0, 3, 0, 0x0#32⟩
/-- CAN.CMD_ARG0.DIR. -/
@[reducible] def CAN_CMD_ARG0_DIR : Fld := ⟨0x70F14, 0x0, 4, 4, 0x0#32⟩
/-- CAN.CMD_ARG0.FDF. -/
@[reducible] def CAN_CMD_ARG0_FDF : Fld := ⟨0x70F14, 0x0, 7, 7, 0x0#32⟩
/-- CAN.CMD_ARG0.IDE. -/
@[reducible] def CAN_CMD_ARG0_IDE : Fld := ⟨0x70F14, 0x0, 5, 5, 0x0#32⟩
/-- CAN.CMD_ARG0.ONESHOT. -/
@[reducible] def CAN_CMD_ARG0_ONESHOT : Fld := ⟨0x70F14, 0x0, 6, 6, 0x0#32⟩
/-- CAN.CMD_ARG1.ID / MASK. -/
@[reducible] def CAN_CMD_ARG1 : Fld := ⟨0x70F18, 0x0, 28, 0, 0x0#32⟩
/-- CAN.CMD_ARG2.ID / MASK. -/
@[reducible] def CAN_CMD_ARG2 : Fld := ⟨0x70F1C, 0x0, 28, 0, 0x0#32⟩
/-- CAN.CMD.OP. -/
@[reducible] def CAN_CMD_OP : Fld := ⟨0x70F20, 0x0, 1, 0, 0x0#32⟩
/-- CAN.CMD_RES.INDEX. -/
@[reducible] def CAN_CMD_RES_INDEX : Fld := ⟨0x70F24, 0x0, 12, 0, 0x0#32⟩
/-- CAN.CMD_RES.RESULT. -/
@[reducible] def CAN_CMD_RES_RESULT : Fld := ⟨0x70F24, 0x0, 18, 16, 0x0#32⟩
/-- CAN.CNT_EXH.COUNT. -/
@[reducible] def CAN_CNT_EXH : Fld := ⟨0x70F28, 0x0, 31, 0, 0x0#32⟩
/-- CAN.CNT_RESETDISC.COUNT. -/
@[reducible] def CAN_CNT_RESETDISC : Fld := ⟨0x70F2C, 0x0, 31, 0, 0x0#32⟩
/-- CAN.CRD.EPO. -/
@[reducible] def CAN_CRD_EPO : Fld := ⟨0x70F30, 0x0, 3, 0, 0x0#32⟩
/-- CAN.LOCKTMO.TMO. -/
@[reducible] def CAN_LOCKTMO_TMO : Fld := ⟨0x70F04, 0x0, 13, 0, 0x3E8#32⟩
/-- CAN.OBJ_IDX.IDX. -/
@[reducible] def CAN_OBJ_IDX_IDX : Fld := ⟨0x70F08, 0x0, 12, 0, 0x0#32⟩
/-- CAN.OBJ_MASK.MASK. -/
@[reducible] def CAN_OBJ_MASK_MASK : Fld := ⟨0x70F0C, 0x1000000, 28, 0, 0x0#32⟩
/-- CAN.OBJ_USED.DEF. -/
@[reducible] def CAN_OBJ_USED_DEF : Fld := ⟨0x70F00, 0x0, 29, 16, 0x0#32⟩
/-- CAN.OBJ_USED.USED. -/
@[reducible] def CAN_OBJ_USED_USED : Fld := ⟨0x70F00, 0x0, 13, 0, 0x0#32⟩
/-- CKR.BLKRST.BLK. -/
@[reducible] def CKR_BLKRST_BLK : Fld := ⟨0x100024, 0x0, 20, 0, 0x0#32⟩
/-- CKR.CNT_FORCED.COUNT. -/
@[reducible] def CKR_CNT_FORCED : Fld := ⟨0x100048, 0x0, 31, 0, 0x0#32⟩
/-- CKR.CNT_GATETMO.COUNT. -/
@[reducible] def CKR_CNT_GATETMO : Fld := ⟨0x10004C, 0x0, 31, 0, 0x0#32⟩
/-- CKR.CNT_MISSING.COUNT. -/
@[reducible] def CKR_CNT_MISSING : Fld := ⟨0x100050, 0x0, 31, 0, 0x0#32⟩
/-- CKR.CNT_RAMP.COUNT. -/
@[reducible] def CKR_CNT_RAMP : Fld := ⟨0x100044, 0x0, 31, 0, 0x0#32⟩
/-- CKR.CNT_REFSW.COUNT. -/
@[reducible] def CKR_CNT_REFSW : Fld := ⟨0x100040, 0x0, 31, 0, 0x0#32⟩
/-- CKR.GACK.BLK. -/
@[reducible] def CKR_GACK_BLK : Fld := ⟨0x100018, 0x0, 20, 0, 0x0#32⟩
/-- CKR.GATE.BLK. -/
@[reducible] def CKR_GATE_BLK : Fld := ⟨0x100014, 0x0, 20, 0, 0x0#32⟩
/-- CKR.GFAIL.BLK. -/
@[reducible] def CKR_GFAIL_BLK : Fld := ⟨0x10001C, 0x0, 20, 0, 0x0#32⟩
/-- CKR.MON_STAT.DOM. -/
@[reducible] def CKR_MON_STAT_DOM : Fld := ⟨0x100010, 0x0, 14, 8, 0x0#32⟩
/-- CKR.MON_STAT.FORCED. -/
@[reducible] def CKR_MON_STAT_FORCED : Fld := ⟨0x100010, 0x0, 22, 16, 0x0#32⟩
/-- CKR.MON_STAT.SRC. -/
@[reducible] def CKR_MON_STAT_SRC : Fld := ⟨0x100010, 0x0, 6, 0, 0x0#32⟩
/-- CKR.PLL_STAT.INUSE. -/
@[reducible] def CKR_PLL_STAT_INUSE : Fld := ⟨0x100008, 0x0, 2, 2, 0x0#32⟩
/-- CKR.PLL_STAT.RAMPING. -/
@[reducible] def CKR_PLL_STAT_RAMPING : Fld := ⟨0x100008, 0x0, 3, 3, 0x0#32⟩
/-- CKR.PLL_STAT.RDOM. -/
@[reducible] def CKR_PLL_STAT_RDOM : Fld := ⟨0x100008, 0x0, 6, 4, 0x0#32⟩
/-- CKR.PLL_STAT.SPA_LOCK. -/
@[reducible] def CKR_PLL_STAT_SPA_LOCK : Fld := ⟨0x100008, 0x0, 0, 0, 0x0#32⟩
/-- CKR.PLL_STAT.SPB_LOCK. -/
@[reducible] def CKR_PLL_STAT_SPB_LOCK : Fld := ⟨0x100008, 0x0, 1, 1, 0x0#32⟩
/-- CKR.REF_CTL.EN. -/
@[reducible] def CKR_REF_CTL_EN : Fld := ⟨0x100000, 0x0, 11, 8, 0xE4#32⟩
/-- CKR.REF_CTL.FORCE. -/
@[reducible] def CKR_REF_CTL_FORCE : Fld := ⟨0x100000, 0x0, 14, 12, 0xE4#32⟩
/-- CKR.REF_CTL.PRI. -/
@[reducible] def CKR_REF_CTL_PRI : Fld := ⟨0x100000, 0x0, 7, 0, 0xE4#32⟩
/-- CKR.REF_STAT.HOLDOVER. -/
@[reducible] def CKR_REF_STAT_HOLDOVER : Fld := ⟨0x100004, 0x0, 6, 6, 0x0#32⟩
/-- CKR.REF_STAT.PATH. -/
@[reducible] def CKR_REF_STAT_PATH : Fld := ⟨0x100004, 0x0, 7, 7, 0x0#32⟩
/-- CKR.REF_STAT.QUAL. -/
@[reducible] def CKR_REF_STAT_QUAL : Fld := ⟨0x100004, 0x0, 5, 2, 0x0#32⟩
/-- CKR.REF_STAT.SEL. -/
@[reducible] def CKR_REF_STAT_SEL : Fld := ⟨0x100004, 0x0, 1, 0, 0x0#32⟩
/-- CKR.RSTCAUSE.CAUSE. -/
@[reducible] def CKR_RSTCAUSE_CAUSE : Fld := ⟨0x100028, 0x0, 7, 4, 0x0#32⟩
/-- CKR.RSTCAUSE.LEVEL. -/
@[reducible] def CKR_RSTCAUSE_LEVEL : Fld := ⟨0x100028, 0x0, 1, 0, 0x0#32⟩
/-- CKR.RSTCAUSE.WARMS. -/
@[reducible] def CKR_RSTCAUSE_WARMS : Fld := ⟨0x100028, 0x0, 15, 8, 0x0#32⟩
/-- CKR.RST_CTL.LEVEL. -/
@[reducible] def CKR_RST_CTL_LEVEL : Fld := ⟨0x100020, 0x0, 1, 0, 0x0#32⟩
/-- CNnn_ABD.DFOUND. -/
@[reducible] def CNnn_ABD_DFOUND : Fld := ⟨0x70018, 0x1000, 10, 10, 0x0#32⟩
/-- CNnn_ABD.DIDX. -/
@[reducible] def CNnn_ABD_DIDX : Fld := ⟨0x70018, 0x1000, 9, 8, 0x0#32⟩
/-- CNnn_ABD.NIDX. -/
@[reducible] def CNnn_ABD_NIDX : Fld := ⟨0x70018, 0x1000, 6, 4, 0x0#32⟩
/-- CNnn_ABD.ROUND. -/
@[reducible] def CNnn_ABD_ROUND : Fld := ⟨0x70018, 0x1000, 19, 16, 0x0#32⟩
/-- CNnn_ABD.STATE. -/
@[reducible] def CNnn_ABD_STATE : Fld := ⟨0x70018, 0x1000, 2, 0, 0x0#32⟩
/-- CNnn_CFG.ABD_ADOPT. -/
@[reducible] def CNnn_CFG_ABD_ADOPT : Fld := ⟨0x70014, 0x1000, 2, 2, 0x0#32⟩
/-- CNnn_CFG.AUTORECOV. -/
@[reducible] def CNnn_CFG_AUTORECOV : Fld := ⟨0x70014, 0x1000, 1, 1, 0x0#32⟩
/-- CNnn_CFG.FDEN. -/
@[reducible] def CNnn_CFG_FDEN : Fld := ⟨0x70014, 0x1000, 0, 0, 0x0#32⟩
/-- CNnn_CFG.INITMODE. -/
@[reducible] def CNnn_CFG_INITMODE : Fld := ⟨0x70014, 0x1000, 5, 3, 0x0#32⟩
/-- CNnn_CFG.TSADJ. -/
@[reducible] def CNnn_CFG_TSADJ : Fld := ⟨0x70014, 0x1000, 15, 6, 0x0#32⟩
/-- CNnn_CNT_ARBLOST.COUNT. -/
@[reducible] def CNnn_CNT_ARBLOST : Fld := ⟨0x70058, 0x1000, 31, 0, 0x0#32⟩
/-- CNnn_CNT_BINDLOST.COUNT. -/
@[reducible] def CNnn_CNT_BINDLOST : Fld := ⟨0x70064, 0x1000, 31, 0, 0x0#32⟩
/-- CNnn_CNT_BUSOFF.COUNT. -/
@[reducible] def CNnn_CNT_BUSOFF : Fld := ⟨0x7005C, 0x1000, 31, 0, 0x0#32⟩
/-- CNnn_CNT_ERRFRM.COUNT. -/
@[reducible] def CNnn_CNT_ERRFRM : Fld := ⟨0x70060, 0x1000, 31, 0, 0x0#32⟩
/-- CNnn_CNT_LOCKTMO.COUNT. -/
@[reducible] def CNnn_CNT_LOCKTMO : Fld := ⟨0x70068, 0x1000, 31, 0, 0x0#32⟩
/-- CNnn_CNT_NOMATCH.COUNT. -/
@[reducible] def CNnn_CNT_NOMATCH : Fld := ⟨0x70048, 0x1000, 31, 0, 0x0#32⟩
/-- CNnn_CNT_OVWR.COUNT. -/
@[reducible] def CNnn_CNT_OVWR : Fld := ⟨0x7004C, 0x1000, 31, 0, 0x0#32⟩
/-- CNnn_CNT_RXOK.COUNT. -/
@[reducible] def CNnn_CNT_RXOK : Fld := ⟨0x70040, 0x1000, 31, 0, 0x0#32⟩
/-- CNnn_CNT_SHDROP.COUNT. -/
@[reducible] def CNnn_CNT_SHDROP : Fld := ⟨0x70054, 0x1000, 31, 0, 0x0#32⟩
/-- CNnn_CNT_SHREPL.COUNT. -/
@[reducible] def CNnn_CNT_SHREPL : Fld := ⟨0x70050, 0x1000, 31, 0, 0x0#32⟩
/-- CNnn_CNT_TXOK.COUNT. -/
@[reducible] def CNnn_CNT_TXOK : Fld := ⟨0x70044, 0x1000, 31, 0, 0x0#32⟩
/-- CNnn_CTL.MODE. -/
@[reducible] def CNnn_CTL_MODE : Fld := ⟨0x70000, 0x1000, 2, 0, 0x0#32⟩
/-- CNnn_DBT. -/
@[reducible] def CNnn_DBT_WORD : Fld := ⟨0x70010, 0x1000, 31, 0, 0x0#32⟩
/-- CNnn_ERRCNT.REC. -/
@[reducible] def CNnn_ERRCNT_REC : Fld := ⟨0x70008, 0x1000, 14, 8, 0x0#32⟩
/-- CNnn_ERRCNT.RECSEQ. -/
@[reducible] def CNnn_ERRCNT_RECSEQ : Fld := ⟨0x70008, 0x1000, 23, 16, 0x0#32⟩
/-- CNnn_ERRCNT.RP. -/
@[reducible] def CNnn_ERRCNT_RP : Fld := ⟨0x70008, 0x1000, 15, 15, 0x0#32⟩
/-- CNnn_ERRCNT.TEC. -/
@[reducible] def CNnn_ERRCNT_TEC : Fld := ⟨0x70008, 0x1000, 7, 0, 0x0#32⟩
/-- CNnn_NBT. -/
@[reducible] def CNnn_NBT_WORD : Fld := ⟨0x7000C, 0x1000, 31, 0, 0x0#32⟩
/-- CNnn_OBJLOCK.LAST. -/
@[reducible] def CNnn_OBJLOCK_LAST : Fld := ⟨0x7001C, 0x1000, 12, 0, 0x0#32⟩
/-- CNnn_OBJLOCK.LOCKED. -/
@[reducible] def CNnn_OBJLOCK_LOCKED : Fld := ⟨0x7001C, 0x1000, 29, 16, 0x0#32⟩
/-- CNnn_SHADOW.LOST. -/
@[reducible] def CNnn_SHADOW_LOST : Fld := ⟨0x70020, 0x1000, 14, 14, 0x0#32⟩
/-- CNnn_SHADOW.OBJ. -/
@[reducible] def CNnn_SHADOW_OBJ : Fld := ⟨0x70020, 0x1000, 12, 0, 0x0#32⟩
/-- CNnn_SHADOW.VALID. -/
@[reducible] def CNnn_SHADOW_VALID : Fld := ⟨0x70020, 0x1000, 13, 13, 0x0#32⟩
/-- CNnn_STAT.DPE. -/
@[reducible] def CNnn_STAT_DPE : Fld := ⟨0x70004, 0x1000, 11, 11, 0x0#32⟩
/-- CNnn_STAT.ECS. -/
@[reducible] def CNnn_STAT_ECS : Fld := ⟨0x70004, 0x1000, 1, 0, 0x0#32⟩
/-- CNnn_STAT.IDLE. -/
@[reducible] def CNnn_STAT_IDLE : Fld := ⟨0x70004, 0x1000, 7, 7, 0x0#32⟩
/-- CNnn_STAT.LEC. -/
@[reducible] def CNnn_STAT_LEC : Fld := ⟨0x70004, 0x1000, 10, 8, 0x0#32⟩
/-- CNnn_STAT.MODE_ACT. -/
@[reducible] def CNnn_STAT_MODE_ACT : Fld := ⟨0x70004, 0x1000, 6, 4, 0x0#32⟩
/-- CNnn_STAT.RECOVERING. -/
@[reducible] def CNnn_STAT_RECOVERING : Fld := ⟨0x70004, 0x1000, 2, 2, 0x0#32⟩
/-- CNnn_STAT.WARN. -/
@[reducible] def CNnn_STAT_WARN : Fld := ⟨0x70004, 0x1000, 3, 3, 0x0#32⟩
/-- CRY.CMD.OP. -/
@[reducible] def CRY_CMD_OP : Fld := ⟨0xE0094, 0x0, 1, 0, 0x0#32⟩
/-- CRY.CMD_RES.PAGE. -/
@[reducible] def CRY_CMD_RES_PAGE : Fld := ⟨0xE0098, 0x0, 5, 0, 0x0#32⟩
/-- CRY.CMD_RES.RESULT. -/
@[reducible] def CRY_CMD_RES_RESULT : Fld := ⟨0xE0098, 0x0, 18, 16, 0x0#32⟩
/-- CRY.CNT_AUTHFAIL.COUNT. -/
@[reducible] def CRY_CNT_AUTHFAIL : Fld := ⟨0xE00A8, 0x0, 31, 0, 0x0#32⟩
/-- CRY.CNT_EXH.COUNT. -/
@[reducible] def CRY_CNT_EXH : Fld := ⟨0xE00A0, 0x0, 31, 0, 0x0#32⟩
/-- CRY.CNT_KEYLOST.COUNT. -/
@[reducible] def CRY_CNT_KEYLOST : Fld := ⟨0xE00B0, 0x0, 31, 0, 0x0#32⟩
/-- CRY.CNT_LKEXH.COUNT. -/
@[reducible] def CRY_CNT_LKEXH : Fld := ⟨0xE00B4, 0x0, 31, 0, 0x0#32⟩
/-- CRY.CNT_QFULL.COUNT. -/
@[reducible] def CRY_CNT_QFULL : Fld := ⟨0xE00A4, 0x0, 31, 0, 0x0#32⟩
/-- CRY.CNT_RESETDISC.COUNT. -/
@[reducible] def CRY_CNT_RESETDISC : Fld := ⟨0xE00B8, 0x0, 31, 0, 0x0#32⟩
/-- CRY.CNT_STALE.COUNT. -/
@[reducible] def CRY_CNT_STALE : Fld := ⟨0xE00AC, 0x0, 31, 0, 0x0#32⟩
/-- CRY.FUSE_CMD.OP. -/
@[reducible] def CRY_FUSE_CMD_OP : Fld := ⟨0xE0014, 0x0, 2, 0, 0x0#32⟩
/-- CRY.FUSE_DATA.DATA. -/
@[reducible] def CRY_FUSE_DATA : Fld := ⟨0xE0020, 0x4, 31, 0, 0x0#32⟩
/-- CRY.FUSE_KCV.KCV. -/
@[reducible] def CRY_FUSE_KCV_KCV : Fld := ⟨0xE0018, 0x0, 23, 0, 0x0#32⟩
/-- CRY.FUSE_KCV.SEL. -/
@[reducible] def CRY_FUSE_KCV_SEL : Fld := ⟨0xE0018, 0x0, 24, 24, 0x0#32⟩
/-- CRY.FUSE_STAT.BUSY. -/
@[reducible] def CRY_FUSE_STAT_BUSY : Fld := ⟨0xE0010, 0x0, 10, 10, 0x0#32⟩
/-- CRY.FUSE_STAT.FLEETSET. -/
@[reducible] def CRY_FUSE_STAT_FLEETSET : Fld := ⟨0xE0010, 0x0, 0, 0, 0x0#32⟩
/-- CRY.FUSE_STAT.IMGKEY. -/
@[reducible] def CRY_FUSE_STAT_IMGKEY : Fld := ⟨0xE0010, 0x0, 4, 1, 0x0#32⟩
/-- CRY.FUSE_STAT.IMGREV. -/
@[reducible] def CRY_FUSE_STAT_IMGREV : Fld := ⟨0xE0010, 0x0, 8, 5, 0x0#32⟩
/-- CRY.FUSE_STAT.JKREV. -/
@[reducible] def CRY_FUSE_STAT_JKREV : Fld := ⟨0xE0010, 0x0, 9, 9, 0x0#32⟩
/-- CRY.FUSE_STAT.RESULT. -/
@[reducible] def CRY_FUSE_STAT_RESULT : Fld := ⟨0xE0010, 0x0, 13, 11, 0x0#32⟩
/-- CRY.KS_IDX.SLOT. -/
@[reducible] def CRY_KS_IDX_SLOT : Fld := ⟨0xE0080, 0x0, 7, 0, 0x0#32⟩
/-- CRY.KS_STAT.GEN. -/
@[reducible] def CRY_KS_STAT_GEN : Fld := ⟨0xE0084, 0x1000000, 31, 16, 0x0#32⟩
/-- CRY.KS_STAT.NOPAGE. -/
@[reducible] def CRY_KS_STAT_NOPAGE : Fld := ⟨0xE0084, 0x1000000, 9, 9, 0x0#32⟩
/-- CRY.KS_STAT.PAGE. -/
@[reducible] def CRY_KS_STAT_PAGE : Fld := ⟨0xE0084, 0x1000000, 8, 3, 0x0#32⟩
/-- CRY.KS_STAT.ROOT. -/
@[reducible] def CRY_KS_STAT_ROOT : Fld := ⟨0xE0084, 0x1000000, 2, 2, 0x0#32⟩
/-- CRY.KS_STAT.STATE. -/
@[reducible] def CRY_KS_STAT_STATE : Fld := ⟨0xE0084, 0x1000000, 1, 0, 0x0#32⟩
/-- CRY.LKEP.RX. -/
@[reducible] def CRY_LKEP_RX : Fld := ⟨0xE0070, 0x4, 31, 16, 0x0#32⟩
/-- CRY.LKEP.TX. -/
@[reducible] def CRY_LKEP_TX : Fld := ⟨0xE0070, 0x4, 15, 0, 0x0#32⟩
/-- CRY.LK_CFG.PERIOD. -/
@[reducible] def CRY_LK_CFG_PERIOD : Fld := ⟨0xE0060, 0x0, 9, 0, 0x18#32⟩
/-- CRY.LK_CTL.ROTATE_E. -/
@[reducible] def CRY_LK_CTL_ROTATE_E : Fld := ⟨0xE0064, 0x0, 0, 0, 0x0#32⟩
/-- CRY.LK_STAT.EPMAX. -/
@[reducible] def CRY_LK_STAT_EPMAX : Fld := ⟨0xE0068, 0x0, 1, 1, 0x0#32⟩
/-- CRY.LK_STAT.EXH. -/
@[reducible] def CRY_LK_STAT_EXH : Fld := ⟨0xE0068, 0x0, 0, 0, 0x0#32⟩
/-- CRY.LK_STAT.HIST_E. -/
@[reducible] def CRY_LK_STAT_HIST_E : Fld := ⟨0xE0068, 0x0, 13, 8, 0x0#32⟩
/-- CRY.LK_STAT.HIST_W. -/
@[reducible] def CRY_LK_STAT_HIST_W : Fld := ⟨0xE0068, 0x0, 21, 16, 0x0#32⟩
/-- CRY.SQ_CFG.CMON. -/
@[reducible] def CRY_SQ_CFG_CMON : Fld := ⟨0xE0004, 0x0, 10, 10, 0x0#32⟩
/-- CRY.SQ_CFG.TMON. -/
@[reducible] def CRY_SQ_CFG_TMON : Fld := ⟨0xE0004, 0x0, 9, 9, 0x0#32⟩
/-- CRY.SQ_CFG.TMPEN. -/
@[reducible] def CRY_SQ_CFG_TMPEN : Fld := ⟨0xE0004, 0x0, 3, 0, 0x0#32⟩
/-- CRY.SQ_CFG.VMON. -/
@[reducible] def CRY_SQ_CFG_VMON : Fld := ⟨0xE0004, 0x0, 8, 8, 0x0#32⟩
/-- CRY.SQ_STAT.CMON. -/
@[reducible] def CRY_SQ_STAT_CMON : Fld := ⟨0xE000C, 0x0, 6, 6, 0x0#32⟩
/-- CRY.SQ_STAT.TMON. -/
@[reducible] def CRY_SQ_STAT_TMON : Fld := ⟨0xE000C, 0x0, 5, 5, 0x0#32⟩
/-- CRY.SQ_STAT.TMP. -/
@[reducible] def CRY_SQ_STAT_TMP : Fld := ⟨0xE000C, 0x0, 3, 0, 0x0#32⟩
/-- CRY.SQ_STAT.UNPWR. -/
@[reducible] def CRY_SQ_STAT_UNPWR : Fld := ⟨0xE000C, 0x0, 7, 7, 0x0#32⟩
/-- CRY.SQ_STAT.VMON. -/
@[reducible] def CRY_SQ_STAT_VMON : Fld := ⟨0xE000C, 0x0, 4, 4, 0x0#32⟩
/-- CRY.STAT.LABUSY. -/
@[reducible] def CRY_STAT_LABUSY : Fld := ⟨0xE0000, 0x0, 2, 2, 0x0#32⟩
/-- CRY.STAT.LAPAGE. -/
@[reducible] def CRY_STAT_LAPAGE : Fld := ⟨0xE0000, 0x0, 8, 3, 0x0#32⟩
/-- CRY.STAT.NOFLEET. -/
@[reducible] def CRY_STAT_NOFLEET : Fld := ⟨0xE0000, 0x0, 1, 1, 0x0#32⟩
/-- CRY.STAT.QJOBS. -/
@[reducible] def CRY_STAT_QJOBS : Fld := ⟨0xE0000, 0x0, 24, 16, 0x0#32⟩
/-- CRY.STAT.SQUALL. -/
@[reducible] def CRY_STAT_SQUALL : Fld := ⟨0xE0000, 0x0, 0, 0, 0x0#32⟩
/-- EPO.BULK.BCQ. -/
@[reducible] def EPO_BULK_BCQ : Fld := ⟨0x40098, 0x0, 24, 22, 0x0#32⟩
/-- EPO.BULK.BUFS. -/
@[reducible] def EPO_BULK_BUFS : Fld := ⟨0x40098, 0x0, 6, 0, 0x0#32⟩
/-- EPO.BULK.CELLS. -/
@[reducible] def EPO_BULK_CELLS : Fld := ⟨0x40098, 0x0, 21, 7, 0x0#32⟩
/-- EPO.CMD_ARG0.COUNT. -/
@[reducible] def EPO_CMD_ARG0_COUNT : Fld := ⟨0x40044, 0x0, 24, 16, 0x8000000#32⟩
/-- EPO.CMD_ARG0.DSTKIND. -/
@[reducible] def EPO_CMD_ARG0_DSTKIND : Fld := ⟨0x40044, 0x0, 29, 29, 0x8000000#32⟩
/-- EPO.CMD_ARG0.FIRST. -/
@[reducible] def EPO_CMD_ARG0_FIRST : Fld := ⟨0x40044, 0x0, 15, 0, 0x8000000#32⟩
/-- EPO.CMD_ARG0.LIST. -/
@[reducible] def EPO_CMD_ARG0_LIST : Fld := ⟨0x40044, 0x0, 30, 30, 0x8000000#32⟩
/-- EPO.CMD_ARG0.TC. -/
@[reducible] def EPO_CMD_ARG0_TC : Fld := ⟨0x40044, 0x0, 28, 25, 0x8000000#32⟩
/-- EPO.CMD_ARG1.DEST. -/
@[reducible] def EPO_CMD_ARG1_DEST : Fld := ⟨0x40048, 0x0, 11, 0, 0x0#32⟩
/-- EPO.CMD_ARG1.HOSTID. -/
@[reducible] def EPO_CMD_ARG1_HOSTID : Fld := ⟨0x40048, 0x0, 19, 12, 0x0#32⟩
/-- EPO.CMD_ARG1.PH. -/
@[reducible] def EPO_CMD_ARG1_PH : Fld := ⟨0x40048, 0x0, 23, 21, 0x0#32⟩
/-- EPO.CMD_ARG1.WHEN. -/
@[reducible] def EPO_CMD_ARG1_WHEN : Fld := ⟨0x40048, 0x0, 20, 20, 0x0#32⟩
/-- EPO.CMD_ARG2.ARG2. -/
@[reducible] def EPO_CMD_ARG2_ARG2 : Fld := ⟨0x4004C, 0x0, 31, 0, 0x0#32⟩
/-- EPO.CMD_ARG3.ARG3. -/
@[reducible] def EPO_CMD_ARG3_ARG3 : Fld := ⟨0x40050, 0x0, 31, 0, 0x0#32⟩
/-- EPO.CMD_ARG4.ARG4. -/
@[reducible] def EPO_CMD_ARG4_ARG4 : Fld := ⟨0x40054, 0x0, 15, 0, 0x0#32⟩
/-- EPO.CMD_LOCK. -/
@[reducible] def EPO_CMD_LOCK_WORD : Fld := ⟨0x40040, 0x0, 31, 0, 0x0#32⟩
/-- EPO.CMD.OP. -/
@[reducible] def EPO_CMD_OP : Fld := ⟨0x40058, 0x0, 2, 0, 0x0#32⟩
/-- EPO.CMD_RES.INDEX. -/
@[reducible] def EPO_CMD_RES_INDEX : Fld := ⟨0x4005C, 0x0, 13, 0, 0x0#32⟩
/-- EPO.CMD_RES.RESULT. -/
@[reducible] def EPO_CMD_RES_RESULT : Fld := ⟨0x4005C, 0x0, 18, 16, 0x0#32⟩
/-- EPO.CNT_BADDISC.COUNT. -/
@[reducible] def EPO_CNT_BADDISC : Fld := ⟨0x40078, 0x0, 31, 0, 0x0#32⟩
/-- EPO.CNT_BCEXH.COUNT. -/
@[reducible] def EPO_CNT_BCEXH : Fld := ⟨0x40094, 0x0, 31, 0, 0x0#32⟩
/-- EPO.CNT_CORR.COUNT. -/
@[reducible] def EPO_CNT_CORR : Fld := ⟨0x40080, 0x0, 31, 0, 0x0#32⟩
/-- EPO.CNT_MIRSTALE.COUNT. -/
@[reducible] def EPO_CNT_MIRSTALE : Fld := ⟨0x4007C, 0x0, 31, 0, 0x0#32⟩
/-- EPO.CNT_PUBFRM.COUNT. -/
@[reducible] def EPO_CNT_PUBFRM : Fld := ⟨0x40088, 0x0, 31, 0, 0x0#32⟩
/-- EPO.CNT_SNAPEXH.COUNT. -/
@[reducible] def EPO_CNT_SNAPEXH : Fld := ⟨0x40074, 0x0, 31, 0, 0x0#32⟩
/-- EPO.CNT_SUBEXH.COUNT. -/
@[reducible] def EPO_CNT_SUBEXH : Fld := ⟨0x40070, 0x0, 31, 0, 0x0#32⟩
/-- EPO.CNT_UNCORR.COUNT. -/
@[reducible] def EPO_CNT_UNCORR : Fld := ⟨0x40084, 0x0, 31, 0, 0x0#32⟩
/-- EPO.CRD.BINDER. -/
@[reducible] def EPO_CRD_BINDER : Fld := ⟨0x40090, 0x0, 7, 0, 0x0#32⟩
/-- EPO.CRD.RFX. -/
@[reducible] def EPO_CRD_RFX : Fld := ⟨0x40090, 0x0, 15, 8, 0x0#32⟩
/-- EPO.DESC_DATA.DEFINED. -/
@[reducible] def EPO_DESC_DATA_DEFINED : Fld := ⟨0x4000C, 0x1000000, 9, 9, 0x0#32⟩
/-- EPO.DESC_DATA.HIST. -/
@[reducible] def EPO_DESC_DATA_HIST : Fld := ⟨0x4000C, 0x1000000, 4, 4, 0x0#32⟩
/-- EPO.DESC_DATA.KIND. -/
@[reducible] def EPO_DESC_DATA_KIND : Fld := ⟨0x4000C, 0x1000000, 8, 5, 0x0#32⟩
/-- EPO.DESC_DATA.PRULE. -/
@[reducible] def EPO_DESC_DATA_PRULE : Fld := ⟨0x4000C, 0x1000000, 31, 20, 0x0#32⟩
/-- EPO.DESC_DATA.SIGNED. -/
@[reducible] def EPO_DESC_DATA_SIGNED : Fld := ⟨0x4000C, 0x1000000, 3, 3, 0x0#32⟩
/-- EPO.DESC_DATA.TYPE. -/
@[reducible] def EPO_DESC_DATA_TYPE : Fld := ⟨0x4000C, 0x1000000, 2, 0, 0x0#32⟩
/-- EPO.DESC_IDX.IDX. -/
@[reducible] def EPO_DESC_IDX_IDX : Fld := ⟨0x40008, 0x0, 15, 0, 0x0#32⟩
/-- EPO.DESC_SRC.INDEX. -/
@[reducible] def EPO_DESC_SRC_INDEX : Fld := ⟨0x40010, 0x1000000, 23, 0, 0x0#32⟩
/-- EPO.ECC_LAST.OBJ. -/
@[reducible] def EPO_ECC_LAST_OBJ : Fld := ⟨0x4008C, 0x0, 15, 0, 0x0#32⟩
/-- EPO.ECC_LAST.SEEN. -/
@[reducible] def EPO_ECC_LAST_SEEN : Fld := ⟨0x4008C, 0x0, 16, 16, 0x0#32⟩
/-- EPO.HOLD_IDX.IDX. -/
@[reducible] def EPO_HOLD_IDX_IDX : Fld := ⟨0x40028, 0x0, 11, 0, 0x0#32⟩
/-- EPO.HOLD_OBJ.ACTIVE. -/
@[reducible] def EPO_HOLD_OBJ_ACTIVE : Fld := ⟨0x4002C, 0x1000000, 16, 16, 0x0#32⟩
/-- EPO.HOLD_OBJ.OBJ. -/
@[reducible] def EPO_HOLD_OBJ_OBJ : Fld := ⟨0x4002C, 0x1000000, 15, 0, 0x0#32⟩
/-- EPO.HOLD_REQHI.REQ. -/
@[reducible] def EPO_HOLD_REQHI_REQ : Fld := ⟨0x40030, 0x1000000, 31, 0, 0x0#32⟩
/-- EPO.HOLD_REQLO.REQ. -/
@[reducible] def EPO_HOLD_REQLO_REQ : Fld := ⟨0x40034, 0x1000000, 31, 0, 0x0#32⟩
/-- EPO.PRULE_CFG.MODE. -/
@[reducible] def EPO_PRULE_CFG_MODE : Fld := ⟨0x40018, 0x1000000, 2, 0, 0x0#32⟩
/-- EPO.PRULE_CFG.PERIOD. -/
@[reducible] def EPO_PRULE_CFG_PERIOD : Fld := ⟨0x40018, 0x1000000, 31, 16, 0x0#32⟩
/-- EPO.PRULE_DBHI.DB. -/
@[reducible] def EPO_PRULE_DBHI_DB : Fld := ⟨0x40020, 0x1000000, 31, 0, 0x0#32⟩
/-- EPO.PRULE_DBLO.DB. -/
@[reducible] def EPO_PRULE_DBLO_DB : Fld := ⟨0x40024, 0x1000000, 31, 0, 0x0#32⟩
/-- EPO.PRULE_TIM.MININT. -/
@[reducible] def EPO_PRULE_TIM_MININT : Fld := ⟨0x4001C, 0x1000000, 15, 0, 0x0#32⟩
/-- EPO.PRULE_TIM.STALE. -/
@[reducible] def EPO_PRULE_TIM_STALE : Fld := ⟨0x4001C, 0x1000000, 31, 16, 0x0#32⟩
/-- EPO.PUBCFG.BATCH. -/
@[reducible] def EPO_PUBCFG_BATCH : Fld := ⟨0x40004, 0x0, 9, 0, 0x0#32⟩
/-- EPO.SNAP_STAT. -/
@[reducible] def EPO_SNAP_STAT_WORD : Fld := ⟨0x40064, 0x0, 31, 0, 0x0#32⟩
/-- EPO.STAT.OBJECTS. -/
@[reducible] def EPO_STAT_OBJECTS : Fld := ⟨0x40000, 0x0, 16, 0, 0x0#32⟩
/-- EPO.STAT.READY. -/
@[reducible] def EPO_STAT_READY : Fld := ⟨0x40000, 0x0, 17, 17, 0x0#32⟩
/-- EPO.SUB_USED.DEF. -/
@[reducible] def EPO_SUB_USED_DEF : Fld := ⟨0x40060, 0x0, 30, 16, 0x0#32⟩
/-- EPO.SUB_USED.USED. -/
@[reducible] def EPO_SUB_USED_USED : Fld := ⟨0x40060, 0x0, 14, 0, 0x0#32⟩
/-- FPN.BANK_CFG.EN. -/
@[reducible] def FPN_BANK_CFG_EN : Fld := ⟨0x50000, 0x4, 0, 0, 0x0#32⟩
/-- FPN.BANK_CFG.VERR. -/
@[reducible] def FPN_BANK_CFG_VERR : Fld := ⟨0x50000, 0x4, 3, 3, 0x0#32⟩
/-- FPN.BANK_CFG.VOK. -/
@[reducible] def FPN_BANK_CFG_VOK : Fld := ⟨0x50000, 0x4, 2, 2, 0x0#32⟩
/-- FPN.BANK_CFG.VSEL. -/
@[reducible] def FPN_BANK_CFG_VSEL : Fld := ⟨0x50000, 0x4, 1, 1, 0x0#32⟩
/-- FPN.CNT_VWLATE.COUNT. -/
@[reducible] def FPN_CNT_VWLATE : Fld := ⟨0x52048, 0x0, 31, 0, 0x0#32⟩
/-- FPN.CNT_VWMERGE.COUNT. -/
@[reducible] def FPN_CNT_VWMERGE : Fld := ⟨0x52040, 0x0, 31, 0, 0x0#32⟩
/-- FPN.CNT_VWTMO.COUNT. -/
@[reducible] def FPN_CNT_VWTMO : Fld := ⟨0x5204C, 0x0, 31, 0, 0x0#32⟩
/-- FPN.CNT_VWUNK.COUNT. -/
@[reducible] def FPN_CNT_VWUNK : Fld := ⟨0x52044, 0x0, 31, 0, 0x0#32⟩
/-- FPN.CONF.PIN. -/
@[reducible] def FPN_CONF_PIN : Fld := ⟨0x500C0, 0x4, 31, 0, 0x0#32⟩
/-- FPN.EPRI.E0. -/
@[reducible] def FPN_EPRI_E0 : Fld := ⟨0x50100, 0x4, 1, 0, 0x0#32⟩
/-- FPN.FORCE.PIN. -/
@[reducible] def FPN_FORCE_PIN : Fld := ⟨0x50080, 0x4, 31, 0, 0x0#32⟩
/-- FPN.HOLDSTAT.HOLD. -/
@[reducible] def FPN_HOLDSTAT_HOLD : Fld := ⟨0x500E0, 0x0, 0, 0, 0x0#32⟩
/-- FPN.HOLDSTAT.HOLDS. -/
@[reducible] def FPN_HOLDSTAT_HOLDS : Fld := ⟨0x500E0, 0x0, 31, 16, 0x0#32⟩
/-- FPN.IN.PIN. -/
@[reducible] def FPN_IN_PIN : Fld := ⟨0x50020, 0x4, 31, 0, 0x0#32⟩
/-- FPN.MISM.PIN. -/
@[reducible] def FPN_MISM_PIN : Fld := ⟨0x500A0, 0x4, 31, 0, 0x0#32⟩
/-- FPN.OUT.PIN. -/
@[reducible] def FPN_OUT_PIN : Fld := ⟨0x50060, 0x4, 31, 0, 0x0#32⟩
/-- FPN.RAW.PIN. -/
@[reducible] def FPN_RAW_PIN : Fld := ⟨0x50040, 0x4, 31, 0, 0x0#32⟩
/-- FPN.VWI_CFG.BLOCK. -/
@[reducible] def FPN_VWI_CFG_BLOCK : Fld := ⟨0x52024, 0x1000000, 13, 10, 0x0#32⟩
/-- FPN.VWI_CFG.EN. -/
@[reducible] def FPN_VWI_CFG_EN : Fld := ⟨0x52024, 0x1000000, 0, 0, 0x0#32⟩
/-- FPN.VWI_CFG.LAT. -/
@[reducible] def FPN_VWI_CFG_LAT : Fld := ⟨0x52024, 0x1000000, 31, 18, 0x0#32⟩
/-- FPN.VWI_CFG.SAFEMODE. -/
@[reducible] def FPN_VWI_CFG_SAFEMODE : Fld := ⟨0x52024, 0x1000000, 1, 1, 0x0#32⟩
/-- FPN.VWI_CFG.SRC. -/
@[reducible] def FPN_VWI_CFG_SRC : Fld := ⟨0x52024, 0x1000000, 9, 2, 0x0#32⟩
/-- FPN.VWI_CFG.TMO. -/
@[reducible] def FPN_VWI_CFG_TMO : Fld := ⟨0x52024, 0x1000000, 17, 14, 0x0#32⟩
/-- FPN.VWI_SAFE.WIRES. -/
@[reducible] def FPN_VWI_SAFE_WIRES : Fld := ⟨0x52028, 0x1000000, 31, 0, 0x0#32⟩
/-- FPN.VWI_STATE.WIRES. -/
@[reducible] def FPN_VWI_STATE_WIRES : Fld := ⟨0x5202C, 0x1000000, 31, 0, 0x0#32⟩
/-- FPN.VWI_STAT.LATE. -/
@[reducible] def FPN_VWI_STAT_LATE : Fld := ⟨0x52030, 0x1000000, 1, 1, 0x0#32⟩
/-- FPN.VWI_STAT.TIMEDOUT. -/
@[reducible] def FPN_VWI_STAT_TIMEDOUT : Fld := ⟨0x52030, 0x1000000, 0, 0, 0x0#32⟩
/-- FPN.VWO_CFG.DEST. -/
@[reducible] def FPN_VWO_CFG_DEST : Fld := ⟨0x52004, 0x1000000, 13, 2, 0x28000#32⟩
/-- FPN.VWO_CFG.DSTKIND. -/
@[reducible] def FPN_VWO_CFG_DSTKIND : Fld := ⟨0x52004, 0x1000000, 1, 1, 0x28000#32⟩
/-- FPN.VWO_CFG.EN. -/
@[reducible] def FPN_VWO_CFG_EN : Fld := ⟨0x52004, 0x1000000, 0, 0, 0x28000#32⟩
/-- FPN.VWO_CFG.REFRESH. -/
@[reducible] def FPN_VWO_CFG_REFRESH : Fld := ⟨0x52004, 0x1000000, 23, 14, 0x28000#32⟩
/-- FPN.VWO_MAP.INDEX. -/
@[reducible] def FPN_VWO_MAP_INDEX : Fld := ⟨0x52008, 0x1000000, 13, 2, 0x0#32⟩
/-- FPN.VWO_MAP.KIND. -/
@[reducible] def FPN_VWO_MAP_KIND : Fld := ⟨0x52008, 0x1000000, 1, 0, 0x0#32⟩
/-- FPN.VWO_STATE.WIRES. -/
@[reducible] def FPN_VWO_STATE_WIRES : Fld := ⟨0x5200C, 0x1000000, 31, 0, 0x0#32⟩
/-- FPn_CFG.EDGE. -/
@[reducible] def FPn_CFG_EDGE : Fld := ⟨0x51000, 0x4, 23, 22, 0x0#32⟩
/-- FPn_CFG.FILT_ALL. -/
@[reducible] def FPn_CFG_FILT_ALL : Fld := ⟨0x51000, 0x4, 11, 11, 0x0#32⟩
/-- FPn_CFG.FILT_N. -/
@[reducible] def FPn_CFG_FILT_N : Fld := ⟨0x51000, 0x4, 19, 12, 0x0#32⟩
/-- FPn_CFG.FILT_SCALE. -/
@[reducible] def FPn_CFG_FILT_SCALE : Fld := ⟨0x51000, 0x4, 21, 20, 0x0#32⟩
/-- FPn_CFG.FUNC. -/
@[reducible] def FPn_CFG_FUNC : Fld := ⟨0x51000, 0x4, 2, 0, 0x0#32⟩
/-- FPn_CFG.INV. -/
@[reducible] def FPn_CFG_INV : Fld := ⟨0x51000, 0x4, 3, 3, 0x0#32⟩
/-- FPn_CFG.OD. -/
@[reducible] def FPn_CFG_OD : Fld := ⟨0x51000, 0x4, 9, 9, 0x0#32⟩
/-- FPn_CFG.PULL. -/
@[reducible] def FPn_CFG_PULL : Fld := ⟨0x51000, 0x4, 8, 7, 0x0#32⟩
/-- FPn_CFG.RBDLY. -/
@[reducible] def FPn_CFG_RBDLY : Fld := ⟨0x51000, 0x4, 31, 24, 0x0#32⟩
/-- FPn_CFG.SCHMITT. -/
@[reducible] def FPn_CFG_SCHMITT : Fld := ⟨0x51000, 0x4, 10, 10, 0x0#32⟩
/-- FPn_EDGES.COUNT. -/
@[reducible] def FPn_EDGES_COUNT : Fld := ⟨0x51C00, 0x4, 31, 0, 0x0#32⟩
/-- FPn_SEL.ARG. -/
@[reducible] def FPn_SEL_ARG : Fld := ⟨0x51400, 0x4, 10, 0, 0x0#32⟩
/-- FPn_SEL.FPRI. -/
@[reducible] def FPn_SEL_FPRI : Fld := ⟨0x51400, 0x4, 29, 28, 0x0#32⟩
/-- FPn_SEL.PW. -/
@[reducible] def FPn_SEL_PW : Fld := ⟨0x51400, 0x4, 27, 12, 0x0#32⟩
/-- FPn_STAT.CONF. -/
@[reducible] def FPn_STAT_CONF : Fld := ⟨0x51800, 0x4, 15, 0, 0x0#32⟩
/-- FPn_STAT.MISM. -/
@[reducible] def FPn_STAT_MISM : Fld := ⟨0x51800, 0x4, 31, 16, 0x0#32⟩
/-- HST.BAD.FACTORY. -/
@[reducible] def HST_BAD_FACTORY : Fld := ⟨0x13005C, 0x0, 15, 0, 0x0#32⟩
/-- HST.BAD.GROWN. -/
@[reducible] def HST_BAD_GROWN : Fld := ⟨0x13005C, 0x0, 31, 16, 0x0#32⟩
/-- HST.CFG.CECNT. -/
@[reducible] def HST_CFG_CECNT : Fld := ⟨0x130000, 0x0, 2, 1, 0x3E80000#32⟩
/-- HST.CFG.EN. -/
@[reducible] def HST_CFG_EN : Fld := ⟨0x130000, 0x0, 0, 0, 0x3E80000#32⟩
/-- HST.CFG.FLUSH. -/
@[reducible] def HST_CFG_FLUSH : Fld := ⟨0x130000, 0x0, 29, 16, 0x3E80000#32⟩
/-- HST.CFG.FMTOK. -/
@[reducible] def HST_CFG_FMTOK : Fld := ⟨0x130000, 0x0, 6, 6, 0x3E80000#32⟩
/-- HST.CFG.LUNS. -/
@[reducible] def HST_CFG_LUNS : Fld := ⟨0x130000, 0x0, 4, 3, 0x3E80000#32⟩
/-- HST.CFG.STOPFULL. -/
@[reducible] def HST_CFG_STOPFULL : Fld := ⟨0x130000, 0x0, 5, 5, 0x3E80000#32⟩
/-- HST.CNT_CORR.COUNT. -/
@[reducible] def HST_CNT_CORR : Fld := ⟨0x130088, 0x0, 31, 0, 0x0#32⟩
/-- HST.CNT_DROP.COUNT. -/
@[reducible] def HST_CNT_DROP : Fld := ⟨0x130084, 0x0, 31, 0, 0x0#32⟩
/-- HST.CNT_ERSFAIL.COUNT. -/
@[reducible] def HST_CNT_ERSFAIL : Fld := ⟨0x130094, 0x0, 31, 0, 0x0#32⟩
/-- HST.CNT_PGMFAIL.COUNT. -/
@[reducible] def HST_CNT_PGMFAIL : Fld := ⟨0x130090, 0x0, 31, 0, 0x0#32⟩
/-- HST.CNT_REC.COUNT. -/
@[reducible] def HST_CNT_REC : Fld := ⟨0x130080, 0x0, 31, 0, 0x0#32⟩
/-- HST.CNT_RELOC.COUNT. -/
@[reducible] def HST_CNT_RELOC : Fld := ⟨0x130098, 0x0, 31, 0, 0x0#32⟩
/-- HST.CNT_REPLGAP.COUNT. -/
@[reducible] def HST_CNT_REPLGAP : Fld := ⟨0x1300A4, 0x0, 31, 0, 0x0#32⟩
/-- HST.CNT_REPLTX.COUNT. -/
@[reducible] def HST_CNT_REPLTX : Fld := ⟨0x1300A0, 0x0, 31, 0, 0x0#32⟩
/-- HST.CNT_RESETDISC.COUNT. -/
@[reducible] def HST_CNT_RESETDISC : Fld := ⟨0x1300A8, 0x0, 31, 0, 0x0#32⟩
/-- HST.CNT_TORN.COUNT. -/
@[reducible] def HST_CNT_TORN : Fld := ⟨0x13009C, 0x0, 31, 0, 0x0#32⟩
/-- HST.CNT_UNCORR.COUNT. -/
@[reducible] def HST_CNT_UNCORR : Fld := ⟨0x13008C, 0x0, 31, 0, 0x0#32⟩
/-- HST.CRD.EPO. -/
@[reducible] def HST_CRD_EPO : Fld := ⟨0x130068, 0x0, 7, 4, 0x0#32⟩
/-- HST.CRD.IMG. -/
@[reducible] def HST_CRD_IMG : Fld := ⟨0x130068, 0x0, 11, 8, 0x0#32⟩
/-- HST.CRD.MGT. -/
@[reducible] def HST_CRD_MGT : Fld := ⟨0x130068, 0x0, 15, 12, 0x0#32⟩
/-- HST.CRD.RFX. -/
@[reducible] def HST_CRD_RFX : Fld := ⟨0x130068, 0x0, 3, 0, 0x0#32⟩
/-- HST.CTL.FLUSH. -/
@[reducible] def HST_CTL_FLUSH : Fld := ⟨0x130064, 0x0, 0, 0, 0x0#32⟩
/-- HST.ENDUR.CYCLES. -/
@[reducible] def HST_ENDUR_CYCLES : Fld := ⟨0x130014, 0x0, 23, 0, 0x0#32⟩
/-- HST.GEOM.PGSZ. -/
@[reducible] def HST_GEOM_PGSZ : Fld := ⟨0x130004, 0x0, 1, 0, 0x0#32⟩
/-- HST.GEOM.PPB. -/
@[reducible] def HST_GEOM_PPB : Fld := ⟨0x130004, 0x0, 26, 16, 0x0#32⟩
/-- HST.GEOM.SPARE. -/
@[reducible] def HST_GEOM_SPARE : Fld := ⟨0x130004, 0x0, 15, 2, 0x0#32⟩
/-- HST.INBOX.BASE. -/
@[reducible] def HST_INBOX_BASE : Fld := ⟨0x130020, 0x0, 24, 1, 0x0#32⟩
/-- HST.INBOX.EN. -/
@[reducible] def HST_INBOX_EN : Fld := ⟨0x130020, 0x0, 0, 0, 0x0#32⟩
/-- HST.NAND.BLOCKS. -/
@[reducible] def HST_NAND_BLOCKS : Fld := ⟨0x130008, 0x0, 19, 0, 0x0#32⟩
/-- HST.NEWHI.VAL. -/
@[reducible] def HST_NEWHI_VAL : Fld := ⟨0x130048, 0x0, 31, 0, 0x0#32⟩
/-- HST.NEWLO.VAL. -/
@[reducible] def HST_NEWLO_VAL : Fld := ⟨0x13004C, 0x0, 31, 0, 0x0#32⟩
/-- HST.OLDHI.VAL. -/
@[reducible] def HST_OLDHI_VAL : Fld := ⟨0x130050, 0x0, 31, 0, 0x0#32⟩
/-- HST.OLDLO.VAL. -/
@[reducible] def HST_OLDLO_VAL : Fld := ⟨0x130054, 0x0, 31, 0, 0x0#32⟩
/-- HST.OLDSEC.VAL. -/
@[reducible] def HST_OLDSEC_VAL : Fld := ⟨0x130058, 0x0, 31, 0, 0x0#32⟩
/-- HST.REPL.BATCH. -/
@[reducible] def HST_REPL_BATCH : Fld := ⟨0x13001C, 0x0, 27, 18, 0x0#32⟩
/-- HST.REPL.EN0. -/
@[reducible] def HST_REPL_EN0 : Fld := ⟨0x13001C, 0x0, 0, 0, 0x0#32⟩
/-- HST.REPL.EN1. -/
@[reducible] def HST_REPL_EN1 : Fld := ⟨0x13001C, 0x0, 1, 1, 0x0#32⟩
/-- HST.REPL.TGT0. -/
@[reducible] def HST_REPL_TGT0 : Fld := ⟨0x13001C, 0x0, 9, 2, 0x0#32⟩
/-- HST.REPL.TGT1. -/
@[reducible] def HST_REPL_TGT1 : Fld := ⟨0x13001C, 0x0, 17, 10, 0x0#32⟩
/-- HST.SCRUB.PATROL. -/
@[reducible] def HST_SCRUB_PATROL : Fld := ⟨0x130010, 0x0, 31, 23, 0xF280032#32⟩
/-- HST.SCRUB.RDLIM. -/
@[reducible] def HST_SCRUB_RDLIM : Fld := ⟨0x130010, 0x0, 15, 0, 0xF280032#32⟩
/-- HST.SIGN.EN. -/
@[reducible] def HST_SIGN_EN : Fld := ⟨0x130018, 0x0, 0, 0, 0x0#32⟩
/-- HST.SIGN.PAGE. -/
@[reducible] def HST_SIGN_PAGE : Fld := ⟨0x130018, 0x0, 6, 1, 0x0#32⟩
/-- HST.SIGN.SLOT. -/
@[reducible] def HST_SIGN_SLOT : Fld := ⟨0x130018, 0x0, 14, 7, 0x0#32⟩
/-- HST.STAGE.LEVEL. -/
@[reducible] def HST_STAGE_LEVEL : Fld := ⟨0x130044, 0x0, 11, 0, 0x0#32⟩
/-- HST.STAGE.PEAK. -/
@[reducible] def HST_STAGE_PEAK : Fld := ⟨0x130044, 0x0, 27, 16, 0x0#32⟩
/-- HST.STAT.SIGNLOST. -/
@[reducible] def HST_STAT_SIGNLOST : Fld := ⟨0x130040, 0x0, 4, 4, 0x0#32⟩
/-- HST.STAT.STATE. -/
@[reducible] def HST_STAT_STATE : Fld := ⟨0x130040, 0x0, 2, 0, 0x0#32⟩
/-- HST.STAT.TORN. -/
@[reducible] def HST_STAT_TORN : Fld := ⟨0x130040, 0x0, 5, 5, 0x0#32⟩
/-- HST.STAT.WORN. -/
@[reducible] def HST_STAT_WORN : Fld := ⟨0x130040, 0x0, 3, 3, 0x0#32⟩
/-- HST.WEAR.MAX. -/
@[reducible] def HST_WEAR_MAX : Fld := ⟨0x130060, 0x0, 31, 16, 0x0#32⟩
/-- HST.WEAR.MEAN. -/
@[reducible] def HST_WEAR_MEAN : Fld := ⟨0x130060, 0x0, 15, 0, 0x0#32⟩
/-- HUB.CNT_LATECMP.COUNT. -/
@[reducible] def HUB_CNT_LATECMP : Fld := ⟨0x28, 0x0, 31, 0, 0x0#32⟩
/-- HUB.CNT_NADROP.COUNT. -/
@[reducible] def HUB_CNT_NADROP : Fld := ⟨0x2C, 0x0, 31, 0, 0x0#32⟩
/-- HUB.CNT_TAGEXH.COUNT. -/
@[reducible] def HUB_CNT_TAGEXH : Fld := ⟨0x20, 0x0, 31, 0, 0x0#32⟩
/-- HUB.CNT_UNEXPCMP.COUNT. -/
@[reducible] def HUB_CNT_UNEXPCMP : Fld := ⟨0x24, 0x0, 31, 0, 0x0#32⟩
/-- HUB.CTMO.TMO. -/
@[reducible] def HUB_CTMO_TMO : Fld := ⟨0x18, 0x1000000, 16, 0, 0x2710#32⟩
/-- HUB.FABID0.ID. -/
@[reducible] def HUB_FABID0 : Fld := ⟨0xC, 0x0, 31, 0, 0x0#32⟩
/-- HUB.FABID0.ID. -/
@[reducible] def HUB_FABID0_ID : Fld := ⟨0xC, 0x0, 31, 0, 0x0#32⟩
/-- HUB.FABID1.ID. -/
@[reducible] def HUB_FABID1 : Fld := ⟨0x10, 0x0, 31, 0, 0x0#32⟩
/-- HUB.FABID1.ID. -/
@[reducible] def HUB_FABID1_ID : Fld := ⟨0x10, 0x0, 31, 0, 0x0#32⟩
/-- HUB.IDENT.MAJOR. -/
@[reducible] def HUB_IDENT_MAJOR : Fld := ⟨0x0, 0x0, 23, 20, 0x9640#32⟩
/-- HUB.IDENT.MINOR. -/
@[reducible] def HUB_IDENT_MINOR : Fld := ⟨0x0, 0x0, 19, 16, 0x9640#32⟩
/-- HUB.NODE.DEFMODE. -/
@[reducible] def HUB_NODE_DEFMODE : Fld := ⟨0x4, 0x0, 28, 24, 0x0#32⟩
/-- HUB.NODE.HUBNUM. -/
@[reducible] def HUB_NODE_HUBNUM : Fld := ⟨0x4, 0x0, 7, 0, 0x0#32⟩
/-- HUB.NODE.MPRIO. -/
@[reducible] def HUB_NODE_MPRIO : Fld := ⟨0x4, 0x0, 23, 16, 0x0#32⟩
/-- HUB.NODE.PREF. -/
@[reducible] def HUB_NODE_PREF : Fld := ⟨0x4, 0x0, 9, 9, 0x0#32⟩
/-- HUB.NODE.TWIN. -/
@[reducible] def HUB_NODE_TWIN : Fld := ⟨0x4, 0x0, 8, 8, 0x0#32⟩
/-- Hx_CNT_BADTYPE.COUNT. -/
@[reducible] def Hx_CNT_BADTYPE : Fld := ⟨0x140024, 0x100, 31, 0, 0x0#32⟩
/-- Hx_CNT_FCS.COUNT. -/
@[reducible] def Hx_CNT_FCS : Fld := ⟨0x140028, 0x100, 31, 0, 0x0#32⟩
/-- Hx_CNT_FCSINV.COUNT. -/
@[reducible] def Hx_CNT_FCSINV : Fld := ⟨0x14002C, 0x100, 31, 0, 0x0#32⟩
/-- Hx_CNT_NOBUF.COUNT. -/
@[reducible] def Hx_CNT_NOBUF : Fld := ⟨0x140030, 0x100, 31, 0, 0x0#32⟩
/-- Hx_CNT_OVERSIZE.COUNT. -/
@[reducible] def Hx_CNT_OVERSIZE : Fld := ⟨0x140034, 0x100, 31, 0, 0x0#32⟩
/-- Hx_CNT_UNKSRC.COUNT. -/
@[reducible] def Hx_CNT_UNKSRC : Fld := ⟨0x140020, 0x100, 31, 0, 0x0#32⟩
/-- Hx_CTL.EN. -/
@[reducible] def Hx_CTL_EN : Fld := ⟨0x140000, 0x100, 0, 0, 0x88B55EE0#32⟩
/-- Hx_CTL.ETYPE. -/
@[reducible] def Hx_CTL_ETYPE : Fld := ⟨0x140000, 0x100, 31, 16, 0x88B55EE0#32⟩
/-- Hx_CTL.MAXLEN. -/
@[reducible] def Hx_CTL_MAXLEN : Fld := ⟨0x140000, 0x100, 15, 4, 0x88B55EE0#32⟩
/-- Hx_CTL.PHY. -/
@[reducible] def Hx_CTL_PHY : Fld := ⟨0x140000, 0x100, 2, 1, 0x88B55EE0#32⟩
/-- Hx_STAT.LINK. -/
@[reducible] def Hx_STAT_LINK : Fld := ⟨0x140004, 0x100, 0, 0, 0x0#32⟩
/-- ICn_CFG.EN. -/
@[reducible] def ICn_CFG_EN : Fld := ⟨0x82800, 0x100, 0, 0, 0x0#32⟩
/-- ICn_CFG.STRTMO. -/
@[reducible] def ICn_CFG_STRTMO : Fld := ⟨0x82800, 0x100, 19, 12, 0x0#32⟩
/-- ICn_STAT.ARBLOST. -/
@[reducible] def ICn_STAT_ARBLOST : Fld := ⟨0x82804, 0x100, 23, 16, 0x0#32⟩
/-- ICn_STAT.BUSY. -/
@[reducible] def ICn_STAT_BUSY : Fld := ⟨0x82804, 0x100, 0, 0, 0x0#32⟩
/-- ICn_STAT.NACKS. -/
@[reducible] def ICn_STAT_NACKS : Fld := ⟨0x82804, 0x100, 15, 8, 0x0#32⟩
/-- ICn_STAT.STUCK. -/
@[reducible] def ICn_STAT_STUCK : Fld := ⟨0x82804, 0x100, 3, 3, 0x0#32⟩
/-- IMG.CNT_LATEAPPLY.COUNT. -/
@[reducible] def IMG_CNT_LATEAPPLY : Fld := ⟨0xD0058, 0x0, 31, 0, 0x0#32⟩
/-- IMG.CNT_MODECHG.COUNT. -/
@[reducible] def IMG_CNT_MODECHG : Fld := ⟨0xD0050, 0x0, 31, 0, 0x0#32⟩
/-- IMG.CNT_REJECT.COUNT. -/
@[reducible] def IMG_CNT_REJECT : Fld := ⟨0xD005C, 0x0, 31, 0, 0x0#32⟩
/-- IMG.CNT_VETO.COUNT. -/
@[reducible] def IMG_CNT_VETO : Fld := ⟨0xD0054, 0x0, 31, 0, 0x0#32⟩
/-- IMG.HASH.H. -/
@[reducible] def IMG_HASH_H : Fld := ⟨0xD0080, 0x4, 31, 0, 0x0#32⟩
/-- IMG.MC_ARG0.ARG0. -/
@[reducible] def IMG_MC_ARG0_ARG0 : Fld := ⟨0xD0014, 0x0, 31, 0, 0x0#32⟩
/-- IMG.MC_ARG1.ARG1. -/
@[reducible] def IMG_MC_ARG1_ARG1 : Fld := ⟨0xD0018, 0x0, 31, 0, 0x0#32⟩
/-- IMG.MC_ARM.ARMED. -/
@[reducible] def IMG_MC_ARM_ARMED : Fld := ⟨0xD0024, 0x0, 0, 0, 0x0#32⟩
/-- IMG.MC_ARM.GO. -/
@[reducible] def IMG_MC_ARM_GO : Fld := ⟨0xD0024, 0x0, 1, 1, 0x0#32⟩
/-- IMG.MC_ARM.MODE. -/
@[reducible] def IMG_MC_ARM_MODE : Fld := ⟨0xD0024, 0x0, 6, 2, 0x0#32⟩
/-- IMG.MC_ARM.OPID. -/
@[reducible] def IMG_MC_ARM_OPID : Fld := ⟨0xD0024, 0x0, 31, 16, 0x0#32⟩
/-- IMG.MC_CFG.ARMMIN. -/
@[reducible] def IMG_MC_CFG_ARMMIN : Fld := ⟨0xD0010, 0x0, 11, 0, 0x320A064#32⟩
/-- IMG.MC_CFG.ARMTMO. -/
@[reducible] def IMG_MC_CFG_ARMTMO : Fld := ⟨0xD0010, 0x0, 31, 20, 0x320A064#32⟩
/-- IMG.MC_CFG.GUARD. -/
@[reducible] def IMG_MC_CFG_GUARD : Fld := ⟨0xD0010, 0x0, 19, 12, 0x320A064#32⟩
/-- IMG.MC_CTL.REQ. -/
@[reducible] def IMG_MC_CTL_REQ : Fld := ⟨0xD001C, 0x0, 31, 31, 0x0#32⟩
/-- IMG.MC_STAT.OUTCOME. -/
@[reducible] def IMG_MC_STAT_OUTCOME : Fld := ⟨0xD0020, 0x0, 3, 1, 0x0#32⟩
/-- IMG.MC_STAT.PEND. -/
@[reducible] def IMG_MC_STAT_PEND : Fld := ⟨0xD0020, 0x0, 0, 0, 0x0#32⟩
/-- IMG.MC_STAT.REASON. -/
@[reducible] def IMG_MC_STAT_REASON : Fld := ⟨0xD0020, 0x0, 7, 4, 0x0#32⟩
/-- IMG.MC_STAT.VHUB. -/
@[reducible] def IMG_MC_STAT_VHUB : Fld := ⟨0xD0020, 0x0, 15, 8, 0x0#32⟩
/-- IMG.MODE.EPOCH. -/
@[reducible] def IMG_MODE_EPOCH : Fld := ⟨0xD0008, 0x0, 31, 16, 0x0#32⟩
/-- IMG.MODE.MODE. -/
@[reducible] def IMG_MODE_MODE : Fld := ⟨0xD0008, 0x0, 4, 0, 0x0#32⟩
/-- IMG.MODE.OVL. -/
@[reducible] def IMG_MODE_OVL : Fld := ⟨0xD0008, 0x0, 9, 5, 0x0#32⟩
/-- IMG.OVSTAT.PRESENT. -/
@[reducible] def IMG_OVSTAT_PRESENT : Fld := ⟨0xD000C, 0x0, 15, 0, 0x0#32⟩
/-- IMG.OVSTAT.USED. -/
@[reducible] def IMG_OVSTAT_USED : Fld := ⟨0xD000C, 0x0, 31, 16, 0x0#32⟩
/-- IMG.SERIAL.SERIAL. -/
@[reducible] def IMG_SERIAL_SERIAL : Fld := ⟨0xD0004, 0x0, 31, 0, 0x0#32⟩
/-- IMG.SET_CTL.STORE. -/
@[reducible] def IMG_SET_CTL_STORE : Fld := ⟨0xD0040, 0x0, 0, 0, 0x0#32⟩
/-- IMG.SET_STAT.AREA. -/
@[reducible] def IMG_SET_STAT_AREA : Fld := ⟨0xD0044, 0x0, 1, 1, 0x0#32⟩
/-- IMG.SET_STAT.BUSY. -/
@[reducible] def IMG_SET_STAT_BUSY : Fld := ⟨0xD0044, 0x0, 0, 0, 0x0#32⟩
/-- IMG.SET_STAT.SKIPPED. -/
@[reducible] def IMG_SET_STAT_SKIPPED : Fld := ⟨0xD0044, 0x0, 23, 16, 0x0#32⟩
/-- IMG.SET_STAT.VALID. -/
@[reducible] def IMG_SET_STAT_VALID : Fld := ⟨0xD0044, 0x0, 2, 2, 0x0#32⟩
/-- IMG.STAT.OPENKEY. -/
@[reducible] def IMG_STAT_OPENKEY : Fld := ⟨0xD0000, 0x0, 4, 4, 0x0#32⟩
/-- IMG.STAT.REASON. -/
@[reducible] def IMG_STAT_REASON : Fld := ⟨0xD0000, 0x0, 11, 8, 0x0#32⟩
/-- IMG.STAT.SLOT. -/
@[reducible] def IMG_STAT_SLOT : Fld := ⟨0xD0000, 0x0, 3, 3, 0x0#32⟩
/-- IMG.STAT.STATE. -/
@[reducible] def IMG_STAT_STATE : Fld := ⟨0xD0000, 0x0, 2, 0, 0x0#32⟩
/-- IMG.STG_CTL.OP. -/
@[reducible] def IMG_STG_CTL_OP : Fld := ⟨0xD0030, 0x0, 2, 0, 0x0#32⟩
/-- IMG.STG_STAT.OPEN. -/
@[reducible] def IMG_STG_STAT_OPEN : Fld := ⟨0xD0034, 0x0, 0, 0, 0x0#32⟩
/-- IMG.STG_STAT.REASON. -/
@[reducible] def IMG_STG_STAT_REASON : Fld := ⟨0xD0034, 0x0, 11, 8, 0x0#32⟩
/-- IMG.STG_STAT.RESULT. -/
@[reducible] def IMG_STG_STAT_RESULT : Fld := ⟨0xD0034, 0x0, 4, 2, 0x0#32⟩
/-- IMG.STG_STAT.RUNNING. -/
@[reducible] def IMG_STG_STAT_RUNNING : Fld := ⟨0xD0034, 0x0, 1, 1, 0x0#32⟩
/-- Lx_CNT_BADRX.COUNT. -/
@[reducible] def Lx_CNT_BADRX : Fld := ⟨0x10028, 0x100, 31, 0, 0x0#32⟩
/-- Lx_CNT_BADTX.COUNT. -/
@[reducible] def Lx_CNT_BADTX : Fld := ⟨0x1002C, 0x100, 31, 0, 0x0#32⟩
/-- Lx_CNT_CRC.COUNT. -/
@[reducible] def Lx_CNT_CRC : Fld := ⟨0x10020, 0x100, 31, 0, 0x0#32⟩
/-- Lx_CNT_FAULT.COUNT. -/
@[reducible] def Lx_CNT_FAULT : Fld := ⟨0x10034, 0x100, 31, 0, 0x0#32⟩
/-- Lx_CNT_RMDROP.COUNT. -/
@[reducible] def Lx_CNT_RMDROP : Fld := ⟨0x1003C, 0x100, 31, 0, 0x0#32⟩
/-- Lx_CNT_SINGLE.COUNT. -/
@[reducible] def Lx_CNT_SINGLE : Fld := ⟨0x10040, 0x100, 31, 0, 0x0#32⟩
/-- Lx_CNT_STRAY.COUNT. -/
@[reducible] def Lx_CNT_STRAY : Fld := ⟨0x10038, 0x100, 31, 0, 0x0#32⟩
/-- Lx_CNT_SYNC.COUNT. -/
@[reducible] def Lx_CNT_SYNC : Fld := ⟨0x10030, 0x100, 31, 0, 0x0#32⟩
/-- Lx_CNT_TAG.COUNT. -/
@[reducible] def Lx_CNT_TAG : Fld := ⟨0x10024, 0x100, 31, 0, 0x0#32⟩
/-- Lx_CRD. -/
@[reducible] def Lx_CRD_WORD : Fld := ⟨0x10014, 0x100, 31, 0, 0x0#32⟩
/-- Lx_HOPDLY.DELAY. -/
@[reducible] def Lx_HOPDLY_DELAY : Fld := ⟨0x10018, 0x100, 23, 0, 0x0#32⟩
/-- Lx_LCTL.EDDY. -/
@[reducible] def Lx_LCTL_EDDY : Fld := ⟨0x10000, 0x100, 4, 4, 0x0#32⟩
/-- Lx_LCTL.EN. -/
@[reducible] def Lx_LCTL_EN : Fld := ⟨0x10000, 0x100, 0, 0, 0x0#32⟩
/-- Lx_LCTL.MODE. -/
@[reducible] def Lx_LCTL_MODE : Fld := ⟨0x10000, 0x100, 2, 1, 0x0#32⟩
/-- Lx_LQCFG.THR_IN. -/
@[reducible] def Lx_LQCFG_THR_IN : Fld := ⟨0x10008, 0x100, 31, 16, 0x0#32⟩
/-- Lx_LQCFG.THR_OUT. -/
@[reducible] def Lx_LQCFG_THR_OUT : Fld := ⟨0x10008, 0x100, 15, 0, 0x0#32⟩
/-- Lx_LQSCORE.PEAK. -/
@[reducible] def Lx_LQSCORE_PEAK : Fld := ⟨0x10010, 0x100, 31, 16, 0x0#32⟩
/-- Lx_LQSCORE.SCORE. -/
@[reducible] def Lx_LQSCORE_SCORE : Fld := ⟨0x10010, 0x100, 15, 0, 0x0#32⟩
/-- Lx_LQTIM.FLAP_MAX. -/
@[reducible] def Lx_LQTIM_FLAP_MAX : Fld := ⟨0x1000C, 0x100, 19, 16, 0x43E83#32⟩
/-- Lx_LQTIM.OUT_WIN. -/
@[reducible] def Lx_LQTIM_OUT_WIN : Fld := ⟨0x1000C, 0x100, 3, 0, 0x43E83#32⟩
/-- Lx_LQTIM.PROBATION. -/
@[reducible] def Lx_LQTIM_PROBATION : Fld := ⟨0x1000C, 0x100, 15, 4, 0x43E83#32⟩
/-- Lx_LSTAT.BLOCK_LOCK. -/
@[reducible] def Lx_LSTAT_BLOCK_LOCK : Fld := ⟨0x10004, 0x100, 3, 3, 0x0#32⟩
/-- Lx_LSTAT.FACES_TWIN. -/
@[reducible] def Lx_LSTAT_FACES_TWIN : Fld := ⟨0x10004, 0x100, 5, 5, 0x0#32⟩
/-- Lx_LSTAT.HI_BER. -/
@[reducible] def Lx_LSTAT_HI_BER : Fld := ⟨0x10004, 0x100, 4, 4, 0x0#32⟩
/-- Lx_LSTAT.NBR. -/
@[reducible] def Lx_LSTAT_NBR : Fld := ⟨0x10004, 0x100, 15, 8, 0x0#32⟩
/-- Lx_LSTAT.NBR_INC_LO. -/
@[reducible] def Lx_LSTAT_NBR_INC_LO : Fld := ⟨0x10004, 0x100, 23, 16, 0x0#32⟩
/-- Lx_LSTAT.OUTS. -/
@[reducible] def Lx_LSTAT_OUTS : Fld := ⟨0x10004, 0x100, 27, 24, 0x0#32⟩
/-- Lx_LSTAT.STATE. -/
@[reducible] def Lx_LSTAT_STATE : Fld := ⟨0x10004, 0x100, 2, 0, 0x0#32⟩
/-- MGT.CNT_MBXBUSY.COUNT. -/
@[reducible] def MGT_CNT_MBXBUSY : Fld := ⟨0x120154, 0x0, 31, 0, 0x0#32⟩
/-- MGT.CNT_NOTSUP.COUNT. -/
@[reducible] def MGT_CNT_NOTSUP : Fld := ⟨0x120150, 0x0, 31, 0, 0x0#32⟩
/-- MGT.EVL_DATA.DATA. -/
@[reducible] def MGT_EVL_DATA_DATA : Fld := ⟨0x1200A0, 0x4, 31, 0, 0x0#32⟩
/-- MGT.EVL_IDX.ENTRY. -/
@[reducible] def MGT_EVL_IDX_ENTRY : Fld := ⟨0x120084, 0x0, 11, 0, 0x0#32⟩
/-- MGT.EVL_STAT.CLEAR. -/
@[reducible] def MGT_EVL_STAT_CLEAR : Fld := ⟨0x120080, 0x0, 13, 13, 0x0#32⟩
/-- MGT.EVL_STAT.COUNT. -/
@[reducible] def MGT_EVL_STAT_COUNT : Fld := ⟨0x120080, 0x0, 12, 0, 0x0#32⟩
/-- MGT.EVL_STAT.DROPS. -/
@[reducible] def MGT_EVL_STAT_DROPS : Fld := ⟨0x120080, 0x0, 23, 16, 0x0#32⟩
/-- MGT.EVL_STAT.WRAPS. -/
@[reducible] def MGT_EVL_STAT_WRAPS : Fld := ⟨0x120080, 0x0, 31, 24, 0x0#32⟩
/-- MGT.FWINFO.SERIAL. -/
@[reducible] def MGT_FWINFO_SERIAL : Fld := ⟨0x120004, 0x0, 31, 0, 0x0#32⟩
/-- MGT.MBX_ARG.DATA. -/
@[reducible] def MGT_MBX_ARG_DATA : Fld := ⟨0x120020, 0x4, 31, 0, 0x0#32⟩
/-- MGT.MBX_CMD.CODE. -/
@[reducible] def MGT_MBX_CMD_CODE : Fld := ⟨0x120014, 0x0, 7, 0, 0x0#32⟩
/-- MGT.MBX_DATA.DATA. -/
@[reducible] def MGT_MBX_DATA_DATA : Fld := ⟨0x120040, 0x4, 31, 0, 0x0#32⟩
/-- MGT.MBX_RES.BUSY. -/
@[reducible] def MGT_MBX_RES_BUSY : Fld := ⟨0x120018, 0x0, 0, 0, 0x0#32⟩
/-- MGT.MBX_RES.DLEN. -/
@[reducible] def MGT_MBX_RES_DLEN : Fld := ⟨0x120018, 0x0, 9, 4, 0x0#32⟩
/-- MGT.MBX_RES.REASON. -/
@[reducible] def MGT_MBX_RES_REASON : Fld := ⟨0x120018, 0x0, 13, 10, 0x0#32⟩
/-- MGT.MBX_RES.RESULT. -/
@[reducible] def MGT_MBX_RES_RESULT : Fld := ⟨0x120018, 0x0, 3, 1, 0x0#32⟩
/-- MGT.PLOG_DATA.DATA. -/
@[reducible] def MGT_PLOG_DATA_DATA : Fld := ⟨0x120120, 0x4, 31, 0, 0x0#32⟩
/-- MGT.PLOG_IDX.ENTRY. -/
@[reducible] def MGT_PLOG_IDX_ENTRY : Fld := ⟨0x120104, 0x0, 11, 0, 0x0#32⟩
/-- MGT.PLOG_STAT.CLEAR. -/
@[reducible] def MGT_PLOG_STAT_CLEAR : Fld := ⟨0x120100, 0x0, 8, 8, 0x0#32⟩
/-- MGT.PLOG_STAT.COUNT. -/
@[reducible] def MGT_PLOG_STAT_COUNT : Fld := ⟨0x120100, 0x0, 6, 0, 0x0#32⟩
/-- MGT.PLOG_STAT.OVF. -/
@[reducible] def MGT_PLOG_STAT_OVF : Fld := ⟨0x120100, 0x0, 7, 7, 0x0#32⟩
/-- MGT.PLOG_STAT.OVFCNT. -/
@[reducible] def MGT_PLOG_STAT_OVFCNT : Fld := ⟨0x120100, 0x0, 31, 16, 0x0#32⟩
/-- MGT.SNS_THRHI.T0. -/
@[reducible] def MGT_SNS_THRHI_T0 : Fld := ⟨0x12006C, 0x1000000, 15, 0, 0x0#32⟩
/-- MGT.SNS_THRHI.T1. -/
@[reducible] def MGT_SNS_THRHI_T1 : Fld := ⟨0x12006C, 0x1000000, 31, 16, 0x0#32⟩
/-- MGT.SNS_THRLO.T0. -/
@[reducible] def MGT_SNS_THRLO_T0 : Fld := ⟨0x120068, 0x1000000, 15, 0, 0x0#32⟩
/-- MGT.SNS_THRLO.T1. -/
@[reducible] def MGT_SNS_THRLO_T1 : Fld := ⟨0x120068, 0x1000000, 31, 16, 0x0#32⟩
/-- MGT.SNS_VAL.LEVEL. -/
@[reducible] def MGT_SNS_VAL_LEVEL : Fld := ⟨0x120064, 0x1000000, 18, 16, 0x0#32⟩
/-- MGT.SNS_VAL.VALID. -/
@[reducible] def MGT_SNS_VAL_VALID : Fld := ⟨0x120064, 0x1000000, 19, 19, 0x0#32⟩
/-- MGT.SNS_VAL.VALUE. -/
@[reducible] def MGT_SNS_VAL_VALUE : Fld := ⟨0x120064, 0x1000000, 15, 0, 0x0#32⟩
/-- MGT.STAT.DLDSESS. -/
@[reducible] def MGT_STAT_DLDSESS : Fld := ⟨0x120000, 0x0, 6, 6, 0x0#32⟩
/-- MGT.STAT.DOLD. -/
@[reducible] def MGT_STAT_DOLD : Fld := ⟨0x120000, 0x0, 3, 3, 0x0#32⟩
/-- MGT.STAT.DSRC. -/
@[reducible] def MGT_STAT_DSRC : Fld := ⟨0x120000, 0x0, 5, 4, 0x0#32⟩
/-- MGT.STAT.LULL. -/
@[reducible] def MGT_STAT_LULL : Fld := ⟨0x120000, 0x0, 1, 1, 0x0#32⟩
/-- MGT.STAT.MAINT. -/
@[reducible] def MGT_STAT_MAINT : Fld := ⟨0x120000, 0x0, 2, 2, 0x0#32⟩
/-- MGT.STAT.READY. -/
@[reducible] def MGT_STAT_READY : Fld := ⟨0x120000, 0x0, 0, 0, 0x0#32⟩
/-- MGT.ST_CTL.GO. -/
@[reducible] def MGT_ST_CTL_GO : Fld := ⟨0x120140, 0x0, 14, 14, 0x0#32⟩
/-- MGT.ST_STAT.DETAIL. -/
@[reducible] def MGT_ST_STAT_DETAIL : Fld := ⟨0x120144, 0x0, 31, 16, 0x0#32⟩
/-- MGT.ST_STAT.QLEN. -/
@[reducible] def MGT_ST_STAT_QLEN : Fld := ⟨0x120144, 0x0, 10, 8, 0x0#32⟩
/-- MGT.ST_STAT.RESULT. -/
@[reducible] def MGT_ST_STAT_RESULT : Fld := ⟨0x120144, 0x0, 3, 1, 0x0#32⟩
/-- MGT.ST_STAT.RUNNING. -/
@[reducible] def MGT_ST_STAT_RUNNING : Fld := ⟨0x120144, 0x0, 0, 0, 0x0#32⟩
/-- MGT.ST_STAT.TEST. -/
@[reducible] def MGT_ST_STAT_TEST : Fld := ⟨0x120144, 0x0, 7, 4, 0x0#32⟩
/-- MGT.UPD_CFG.AUTOCONF. -/
@[reducible] def MGT_UPD_CFG_AUTOCONF : Fld := ⟨0x120008, 0x0, 16, 16, 0x708#32⟩
/-- MGT.UPD_CFG.CONFTMO. -/
@[reducible] def MGT_UPD_CFG_CONFTMO : Fld := ⟨0x120008, 0x0, 15, 0, 0x708#32⟩
/-- MGT.UPD_STAT.ATT. -/
@[reducible] def MGT_UPD_STAT_ATT : Fld := ⟨0x12000C, 0x0, 3, 2, 0x0#32⟩
/-- MGT.UPD_STAT.CONFLEFT. -/
@[reducible] def MGT_UPD_STAT_CONFLEFT : Fld := ⟨0x12000C, 0x0, 31, 16, 0x0#32⟩
/-- MGT.UPD_STAT.FALLBACK. -/
@[reducible] def MGT_UPD_STAT_FALLBACK : Fld := ⟨0x12000C, 0x0, 5, 5, 0x0#32⟩
/-- MGT.UPD_STAT.FWPEND. -/
@[reducible] def MGT_UPD_STAT_FWPEND : Fld := ⟨0x12000C, 0x0, 0, 0, 0x0#32⟩
/-- MGT.UPD_STAT.FWSLOT. -/
@[reducible] def MGT_UPD_STAT_FWSLOT : Fld := ⟨0x12000C, 0x0, 4, 4, 0x0#32⟩
/-- MGT.UPD_STAT.IMGPEND. -/
@[reducible] def MGT_UPD_STAT_IMGPEND : Fld := ⟨0x12000C, 0x0, 1, 1, 0x0#32⟩
/-- MGT.VLOG_DATA.DATA. -/
@[reducible] def MGT_VLOG_DATA_DATA : Fld := ⟨0x1200E0, 0x4, 31, 0, 0x0#32⟩
/-- MGT.VLOG_IDX.ENTRY. -/
@[reducible] def MGT_VLOG_IDX_ENTRY : Fld := ⟨0x1200C4, 0x0, 11, 0, 0x0#32⟩
/-- MGT.VLOG_STAT.CLEAR. -/
@[reducible] def MGT_VLOG_STAT_CLEAR : Fld := ⟨0x1200C0, 0x0, 8, 8, 0x0#32⟩
/-- MGT.VLOG_STAT.COUNT. -/
@[reducible] def MGT_VLOG_STAT_COUNT : Fld := ⟨0x1200C0, 0x0, 6, 0, 0x0#32⟩
/-- MGT.VLOG_STAT.OVF. -/
@[reducible] def MGT_VLOG_STAT_OVF : Fld := ⟨0x1200C0, 0x0, 7, 7, 0x0#32⟩
/-- MGT.VLOG_STAT.OVFCNT. -/
@[reducible] def MGT_VLOG_STAT_OVFCNT : Fld := ⟨0x1200C0, 0x0, 31, 16, 0x0#32⟩
/-- PEnn_CAP.DATA. -/
@[reducible] def PEnn_CAP_DATA : Fld := ⟨0x60028, 0x400, 31, 0, 0x0#32⟩
/-- PEnn_CELLC.DPOS. -/
@[reducible] def PEnn_CELLC_DPOS : Fld := ⟨0x600D0, 0x400, 9, 5, 0x0#32⟩
/-- PEnn_CELLC.DW. -/
@[reducible] def PEnn_CELLC_DW : Fld := ⟨0x600D0, 0x400, 4, 2, 0x0#32⟩
/-- PEnn_CELLC.NPH. -/
@[reducible] def PEnn_CELLC_NPH : Fld := ⟨0x600D0, 0x400, 1, 0, 0x0#32⟩
/-- PEnn_CELLC.NSTB. -/
@[reducible] def PEnn_CELLC_NSTB : Fld := ⟨0x600D0, 0x400, 16, 15, 0x0#32⟩
/-- PEnn_CELLC.SPOS. -/
@[reducible] def PEnn_CELLC_SPOS : Fld := ⟨0x600D0, 0x400, 14, 10, 0x0#32⟩
/-- PEnn_CELLF.PH0. -/
@[reducible] def PEnn_CELLF_PH0 : Fld := ⟨0x600D4, 0x400, 3, 0, 0x0#32⟩
/-- PEnn_CELLT.LEN0. -/
@[reducible] def PEnn_CELLT_LEN0 : Fld := ⟨0x600D8, 0x400, 7, 0, 0x0#32⟩
/-- PEnn_CFG.AUTOSTART. -/
@[reducible] def PEnn_CFG_AUTOSTART : Fld := ⟨0x60008, 0x400, 1, 1, 0x0#32⟩
/-- PEnn_CFG.EN. -/
@[reducible] def PEnn_CFG_EN : Fld := ⟨0x60008, 0x400, 0, 0, 0x0#32⟩
/-- PEnn_CFG.ENTRY. -/
@[reducible] def PEnn_CFG_ENTRY : Fld := ⟨0x60008, 0x400, 13, 2, 0x0#32⟩
/-- PEnn_CFG.PHSEL. -/
@[reducible] def PEnn_CFG_PHSEL : Fld := ⟨0x60008, 0x400, 16, 14, 0x0#32⟩
/-- PEnn_CLKDIV.INT. -/
@[reducible] def PEnn_CLKDIV_INT : Fld := ⟨0x60018, 0x400, 15, 0, 0x0#32⟩
/-- PEnn_CNTS.CAPN. -/
@[reducible] def PEnn_CNTS_CAPN : Fld := ⟨0x60030, 0x400, 5, 0, 0x0#32⟩
/-- PEnn_CNTS.EMTN. -/
@[reducible] def PEnn_CNTS_EMTN : Fld := ⟨0x60030, 0x400, 13, 8, 0x0#32⟩
/-- PEnn_CNTS.N. -/
@[reducible] def PEnn_CNTS_N : Fld := ⟨0x60030, 0x400, 15, 15, 0x0#32⟩
/-- PEnn_CNTS.QE. -/
@[reducible] def PEnn_CNTS_QE : Fld := ⟨0x60030, 0x400, 16, 16, 0x0#32⟩
/-- PEnn_CNTS.Z. -/
@[reducible] def PEnn_CNTS_Z : Fld := ⟨0x60030, 0x400, 14, 14, 0x0#32⟩
/-- PEnn_CNT_IMVIOL.COUNT. -/
@[reducible] def PEnn_CNT_IMVIOL : Fld := ⟨0x60064, 0x400, 31, 0, 0x0#32⟩
/-- PEnn_CNT_LATE.COUNT. -/
@[reducible] def PEnn_CNT_LATE : Fld := ⟨0x6005C, 0x400, 31, 0, 0x0#32⟩
/-- PEnn_CNT_MBLOST.COUNT. -/
@[reducible] def PEnn_CNT_MBLOST : Fld := ⟨0x60060, 0x400, 31, 0, 0x0#32⟩
/-- PEnn_CNT_OVFL.COUNT. -/
@[reducible] def PEnn_CNT_OVFL : Fld := ⟨0x60054, 0x400, 31, 0, 0x0#32⟩
/-- PEnn_CNT_TXFULL.COUNT. -/
@[reducible] def PEnn_CNT_TXFULL : Fld := ⟨0x60068, 0x400, 31, 0, 0x0#32⟩
/-- PEnn_CNT_UNDR.COUNT. -/
@[reducible] def PEnn_CNT_UNDR : Fld := ⟨0x60058, 0x400, 31, 0, 0x0#32⟩
/-- PEnn_CTL.HALT. -/
@[reducible] def PEnn_CTL_HALT : Fld := ⟨0x60000, 0x400, 0, 0, 0x0#32⟩
/-- PEnn_EMT.DATA. -/
@[reducible] def PEnn_EMT_DATA : Fld := ⟨0x6002C, 0x400, 31, 0, 0x0#32⟩
/-- PEnn_FEEDQ.LQ. -/
@[reducible] def PEnn_FEEDQ_LQ : Fld := ⟨0x600C8, 0x400, 5, 0, 0x0#32⟩
/-- PEnn_FEED.BASE. -/
@[reducible] def PEnn_FEED_BASE : Fld := ⟨0x600C4, 0x400, 24, 1, 0x0#32⟩
/-- PEnn_FEED.EN. -/
@[reducible] def PEnn_FEED_EN : Fld := ⟨0x600C4, 0x400, 0, 0, 0x0#32⟩
/-- PEnn_FEED.SIZE. -/
@[reducible] def PEnn_FEED_SIZE : Fld := ⟨0x600C4, 0x400, 28, 25, 0x0#32⟩
/-- PEnn_IADDR.ADDR. -/
@[reducible] def PEnn_IADDR_ADDR : Fld := ⟨0x60070, 0x400, 11, 0, 0x0#32⟩
/-- PEnn_IDATA.WORD. -/
@[reducible] def PEnn_IDATA_WORD : Fld := ⟨0x60074, 0x400, 31, 0, 0x0#32⟩
/-- PEnn_IWIN.BASE. -/
@[reducible] def PEnn_IWIN_BASE : Fld := ⟨0x6000C, 0x400, 11, 0, 0x0#32⟩
/-- PEnn_IWIN.SIZE. -/
@[reducible] def PEnn_IWIN_SIZE : Fld := ⟨0x6000C, 0x400, 24, 12, 0x0#32⟩
/-- PEnn_MBFRESH.FRESH. -/
@[reducible] def PEnn_MBFRESH_FRESH : Fld := ⟨0x600C0, 0x400, 15, 0, 0x0#32⟩
/-- PEnn_MB.DATA. -/
@[reducible] def PEnn_MB_DATA : Fld := ⟨0x60080, 0x4, 31, 0, 0x0#32⟩
/-- PEnn_PC.PAUSELEFT. -/
@[reducible] def PEnn_PC_PAUSELEFT : Fld := ⟨0x6001C, 0x400, 15, 12, 0x0#32⟩
/-- PEnn_PC.PC. -/
@[reducible] def PEnn_PC_PC : Fld := ⟨0x6001C, 0x400, 11, 0, 0x0#32⟩
/-- PEnn_PINLAT.POS. -/
@[reducible] def PEnn_PINLAT_POS : Fld := ⟨0x60040, 0x400, 31, 0, 0x0#32⟩
/-- PEnn_PINOE.POS. -/
@[reducible] def PEnn_PINOE_POS : Fld := ⟨0x60044, 0x400, 31, 0, 0x0#32⟩
/-- PEnn_PINS.IN_BASE. -/
@[reducible] def PEnn_PINS_IN_BASE : Fld := ⟨0x60010, 0x400, 7, 0, 0x0#32⟩
/-- PEnn_PINS.OUT_BASE. -/
@[reducible] def PEnn_PINS_OUT_BASE : Fld := ⟨0x60010, 0x400, 15, 8, 0x0#32⟩
/-- PEnn_PINS.OUT_CNT. -/
@[reducible] def PEnn_PINS_OUT_CNT : Fld := ⟨0x60010, 0x400, 21, 16, 0x0#32⟩
/-- PEnn_QSTAT.OVFL. -/
@[reducible] def PEnn_QSTAT_OVFL : Fld := ⟨0x6003C, 0x400, 9, 9, 0x0#32⟩
/-- PEnn_QSTAT.RXEMPTYRD. -/
@[reducible] def PEnn_QSTAT_RXEMPTYRD : Fld := ⟨0x6003C, 0x400, 11, 11, 0x0#32⟩
/-- PEnn_QSTAT.RXEND. -/
@[reducible] def PEnn_QSTAT_RXEND : Fld := ⟨0x6003C, 0x400, 8, 8, 0x0#32⟩
/-- PEnn_QSTAT.RXLVL. -/
@[reducible] def PEnn_QSTAT_RXLVL : Fld := ⟨0x6003C, 0x400, 3, 0, 0x0#32⟩
/-- PEnn_QSTAT.TXLVL. -/
@[reducible] def PEnn_QSTAT_TXLVL : Fld := ⟨0x6003C, 0x400, 7, 4, 0x0#32⟩
/-- PEnn_QSTAT.UNDR. -/
@[reducible] def PEnn_QSTAT_UNDR : Fld := ⟨0x6003C, 0x400, 10, 10, 0x0#32⟩
/-- PEnn_RXQ.DATA. -/
@[reducible] def PEnn_RXQ_DATA : Fld := ⟨0x60038, 0x400, 31, 0, 0x0#32⟩
/-- PEnn_SA.DATA. -/
@[reducible] def PEnn_SA_DATA : Fld := ⟨0x60020, 0x400, 31, 0, 0x0#32⟩
/-- PEnn_SB.DATA. -/
@[reducible] def PEnn_SB_DATA : Fld := ⟨0x60024, 0x400, 31, 0, 0x0#32⟩
/-- PEnn_SEQ.LEFT. -/
@[reducible] def PEnn_SEQ_LEFT : Fld := ⟨0x600DC, 0x400, 5, 0, 0x0#32⟩
/-- PEnn_SEQ.PHASE. -/
@[reducible] def PEnn_SEQ_PHASE : Fld := ⟨0x600DC, 0x400, 7, 6, 0x0#32⟩
/-- PEnn_SEQ.STEPS. -/
@[reducible] def PEnn_SEQ_STEPS : Fld := ⟨0x600DC, 0x400, 15, 8, 0x0#32⟩
/-- PEnn_SEQ.VALID. -/
@[reducible] def PEnn_SEQ_VALID : Fld := ⟨0x600DC, 0x400, 16, 16, 0x0#32⟩
/-- PEnn_SHAPE.FBITS. -/
@[reducible] def PEnn_SHAPE_FBITS : Fld := ⟨0x60014, 0x400, 11, 7, 0x0#32⟩
/-- PEnn_SHAPE.IORD. -/
@[reducible] def PEnn_SHAPE_IORD : Fld := ⟨0x60014, 0x400, 1, 1, 0x0#32⟩
/-- PEnn_SHAPE.OORD. -/
@[reducible] def PEnn_SHAPE_OORD : Fld := ⟨0x60014, 0x400, 0, 0, 0x0#32⟩
/-- PEnn_SHAPE.PW. -/
@[reducible] def PEnn_SHAPE_PW : Fld := ⟨0x60014, 0x400, 6, 2, 0x0#32⟩
/-- PEnn_SHAPE.TFLAG. -/
@[reducible] def PEnn_SHAPE_TFLAG : Fld := ⟨0x60014, 0x400, 21, 17, 0x0#32⟩
/-- PEnn_SHAPE.TPIN. -/
@[reducible] def PEnn_SHAPE_TPIN : Fld := ⟨0x60014, 0x400, 16, 12, 0x0#32⟩
/-- PEnn_STATUS.EVT. -/
@[reducible] def PEnn_STATUS_EVT : Fld := ⟨0x60004, 0x400, 8, 8, 0x0#32⟩
/-- PEnn_STATUS.FAULT. -/
@[reducible] def PEnn_STATUS_FAULT : Fld := ⟨0x60004, 0x400, 6, 4, 0x0#32⟩
/-- PEnn_STATUS.HALTED. -/
@[reducible] def PEnn_STATUS_HALTED : Fld := ⟨0x60004, 0x400, 0, 0, 0x0#32⟩
/-- PEnn_STATUS.SELF. -/
@[reducible] def PEnn_STATUS_SELF : Fld := ⟨0x60004, 0x400, 7, 7, 0x0#32⟩
/-- PEnn_STATUS.STALLED. -/
@[reducible] def PEnn_STATUS_STALLED : Fld := ⟨0x60004, 0x400, 1, 1, 0x0#32⟩
/-- PEnn_STATUS.WHY. -/
@[reducible] def PEnn_STATUS_WHY : Fld := ⟨0x60004, 0x400, 3, 2, 0x0#32⟩
/-- PEnn_TAQSTAT.LATEF. -/
@[reducible] def PEnn_TAQSTAT_LATEF : Fld := ⟨0x60050, 0x400, 5, 5, 0x0#32⟩
/-- PEnn_TAQSTAT.LEVEL. -/
@[reducible] def PEnn_TAQSTAT_LEVEL : Fld := ⟨0x60050, 0x400, 4, 0, 0x0#32⟩
/-- PEnn_TAQSTAT.NOREF. -/
@[reducible] def PEnn_TAQSTAT_NOREF : Fld := ⟨0x60050, 0x400, 6, 6, 0x0#32⟩
/-- PEnn_TAQ_ACT.TB. -/
@[reducible] def PEnn_TAQ_ACT_TB : Fld := ⟨0x6004C, 0x400, 3, 0, 0x0#32⟩
/-- PEnn_TAQ_STAMP.STAMP. -/
@[reducible] def PEnn_TAQ_STAMP_STAMP : Fld := ⟨0x60048, 0x400, 31, 0, 0x0#32⟩
/-- PEnn_TXQ.DATA. -/
@[reducible] def PEnn_TXQ_DATA : Fld := ⟨0x60034, 0x400, 31, 0, 0x0#32⟩
/-- PHS.CFG.MININT. -/
@[reducible] def PHS_CFG_MININT : Fld := ⟨0xB0200, 0x0, 13, 0, 0x64#32⟩
/-- PHS.CNT_RESETDISC.COUNT. -/
@[reducible] def PHS_CNT_RESETDISC : Fld := ⟨0xB0204, 0x0, 31, 0, 0x0#32⟩
/-- PHn_CFG.DCODE. -/
@[reducible] def PHn_CFG_DCODE : Fld := ⟨0xB0000, 0x40, 6, 4, 0xC00#32⟩
/-- PHn_CFG.EN. -/
@[reducible] def PHn_CFG_EN : Fld := ⟨0xB0000, 0x40, 0, 0, 0xC00#32⟩
/-- PHn_CFG.FILT. -/
@[reducible] def PHn_CFG_FILT : Fld := ⟨0xB0000, 0x40, 9, 7, 0xC00#32⟩
/-- PHn_CFG.JTHR. -/
@[reducible] def PHn_CFG_JTHR : Fld := ⟨0xB0000, 0x40, 21, 14, 0xC00#32⟩
/-- PHn_CFG.PUB. -/
@[reducible] def PHn_CFG_PUB : Fld := ⟨0xB0000, 0x40, 22, 22, 0xC00#32⟩
/-- PHn_CFG.SRC. -/
@[reducible] def PHn_CFG_SRC : Fld := ⟨0xB0000, 0x40, 3, 1, 0xC00#32⟩
/-- PHn_CFG.STALLN. -/
@[reducible] def PHn_CFG_STALLN : Fld := ⟨0xB0000, 0x40, 13, 10, 0xC00#32⟩
/-- PHn_CNT_EV.COUNT. -/
@[reducible] def PHn_CNT_EV : Fld := ⟨0xB0024, 0x40, 31, 0, 0x0#32⟩
/-- PHn_CNT_JUMP.COUNT. -/
@[reducible] def PHn_CNT_JUMP : Fld := ⟨0xB0028, 0x40, 31, 0, 0x0#32⟩
/-- PHn_CNT_REV.COUNT. -/
@[reducible] def PHn_CNT_REV : Fld := ⟨0xB0030, 0x40, 31, 0, 0x0#32⟩
/-- PHn_CNT_STALL.COUNT. -/
@[reducible] def PHn_CNT_STALL : Fld := ⟨0xB002C, 0x40, 31, 0, 0x0#32⟩
/-- PHn_EVNS.VAL. -/
@[reducible] def PHn_EVNS_VAL : Fld := ⟨0xB001C, 0x40, 31, 0, 0x0#32⟩
/-- PHn_EVPH.VAL. -/
@[reducible] def PHn_EVPH_VAL : Fld := ⟨0xB0018, 0x40, 31, 0, 0x0#32⟩
/-- PHn_EVSEC.VAL. -/
@[reducible] def PHn_EVSEC_VAL : Fld := ⟨0xB0020, 0x40, 31, 0, 0x0#32⟩
/-- PHn_PARAM.PARAM. -/
@[reducible] def PHn_PARAM_PARAM : Fld := ⟨0xB0008, 0x40, 31, 0, 0x0#32⟩
/-- PHn_PERIOD.TEST. -/
@[reducible] def PHn_PERIOD_TEST : Fld := ⟨0xB0014, 0x40, 31, 0, 0x0#32⟩
/-- PHn_SRC.A. -/
@[reducible] def PHn_SRC_A : Fld := ⟨0xB0004, 0x40, 7, 0, 0x0#32⟩
/-- PHn_SRC.B. -/
@[reducible] def PHn_SRC_B : Fld := ⟨0xB0004, 0x40, 15, 8, 0x0#32⟩
/-- PHn_SRC.IDX. -/
@[reducible] def PHn_SRC_IDX : Fld := ⟨0xB0004, 0x40, 23, 16, 0x0#32⟩
/-- PHn_SRC.IDXEN. -/
@[reducible] def PHn_SRC_IDXEN : Fld := ⟨0xB0004, 0x40, 24, 24, 0x0#32⟩
/-- PHn_STAT.DIR. -/
@[reducible] def PHn_STAT_DIR : Fld := ⟨0xB0010, 0x40, 2, 2, 0x0#32⟩
/-- PHn_STAT.HELD. -/
@[reducible] def PHn_STAT_HELD : Fld := ⟨0xB0010, 0x40, 5, 5, 0x0#32⟩
/-- PHn_STAT.JUMPF. -/
@[reducible] def PHn_STAT_JUMPF : Fld := ⟨0xB0010, 0x40, 3, 3, 0x0#32⟩
/-- PHn_STAT.LOCK. -/
@[reducible] def PHn_STAT_LOCK : Fld := ⟨0xB0010, 0x40, 0, 0, 0x0#32⟩
/-- PHn_STAT.REVF. -/
@[reducible] def PHn_STAT_REVF : Fld := ⟨0xB0010, 0x40, 4, 4, 0x0#32⟩
/-- PHn_STAT.SEQ. -/
@[reducible] def PHn_STAT_SEQ : Fld := ⟨0xB0010, 0x40, 15, 8, 0x0#32⟩
/-- PHn_STAT.STALL. -/
@[reducible] def PHn_STAT_STALL : Fld := ⟨0xB0010, 0x40, 1, 1, 0x0#32⟩
/-- PHn_VAL.PHASE. -/
@[reducible] def PHn_VAL_PHASE : Fld := ⟨0xB000C, 0x40, 31, 0, 0x0#32⟩
/-- PIO.CNT_RESETDISC.COUNT. -/
@[reducible] def PIO_CNT_RESETDISC : Fld := ⟨0x60334, 0x0, 31, 0, 0x0#32⟩
/-- PIO.CNT_TAQEXH.COUNT. -/
@[reducible] def PIO_CNT_TAQEXH : Fld := ⟨0x60330, 0x0, 31, 0, 0x0#32⟩
/-- PIO.FAULT0.ENG. -/
@[reducible] def PIO_FAULT0_ENG : Fld := ⟨0x60328, 0x0, 31, 0, 0x0#32⟩
/-- PIO.FAULT1.ENG. -/
@[reducible] def PIO_FAULT1_ENG : Fld := ⟨0x6032C, 0x0, 31, 0, 0x0#32⟩
/-- PIO.GHALT0.ENG. -/
@[reducible] def PIO_GHALT0_ENG : Fld := ⟨0x60318, 0x0, 31, 0, 0x0#32⟩
/-- PIO.GHALT1.ENG. -/
@[reducible] def PIO_GHALT1_ENG : Fld := ⟨0x6031C, 0x0, 31, 0, 0x0#32⟩
/-- PIO.GSTART0.ENG. -/
@[reducible] def PIO_GSTART0_ENG : Fld := ⟨0x60310, 0x0, 31, 0, 0x0#32⟩
/-- PIO.GSTART1.ENG. -/
@[reducible] def PIO_GSTART1_ENG : Fld := ⟨0x60314, 0x0, 31, 0, 0x0#32⟩
/-- PIO.HALTED0.ENG. -/
@[reducible] def PIO_HALTED0_ENG : Fld := ⟨0x60320, 0x0, 31, 0, 0x0#32⟩
/-- PIO.HALTED1.ENG. -/
@[reducible] def PIO_HALTED1_ENG : Fld := ⟨0x60324, 0x0, 31, 0, 0x0#32⟩
/-- PIO.SFCLR.FLAGS. -/
@[reducible] def PIO_SFCLR_FLAGS : Fld := ⟨0x60308, 0x0, 31, 0, 0x0#32⟩
/-- PIO.SFSET.FLAGS. -/
@[reducible] def PIO_SFSET_FLAGS : Fld := ⟨0x60304, 0x0, 31, 0, 0x0#32⟩
/-- PKnn_CFG.CT_THR. -/
@[reducible] def PKnn_CFG_CT_THR : Fld := ⟨0x21000, 0x20, 24, 19, 0x0#32⟩
/-- PKnn_CFG.EN. -/
@[reducible] def PKnn_CFG_EN : Fld := ⟨0x21000, 0x20, 0, 0, 0x0#32⟩
/-- PKnn_CFG.FIXLEN. -/
@[reducible] def PKnn_CFG_FIXLEN : Fld := ⟨0x21000, 0x20, 18, 8, 0x0#32⟩
/-- PKnn_CFG.TC. -/
@[reducible] def PKnn_CFG_TC : Fld := ⟨0x21000, 0x20, 6, 3, 0x0#32⟩
/-- PKnn_CFG.WIDTH. -/
@[reducible] def PKnn_CFG_WIDTH : Fld := ⟨0x21000, 0x20, 2, 1, 0x0#32⟩
/-- PKnn_DSTHI.ADDR_HI. -/
@[reducible] def PKnn_DSTHI_ADDR_HI : Fld := ⟨0x21004, 0x20, 15, 0, 0x0#32⟩
/-- PKnn_DSTLO.ADDR_LO. -/
@[reducible] def PKnn_DSTLO_ADDR_LO : Fld := ⟨0x21008, 0x20, 31, 0, 0x0#32⟩
/-- PKnn_PTR.LEVEL. -/
@[reducible] def PKnn_PTR_LEVEL : Fld := ⟨0x2100C, 0x20, 22, 16, 0x0#32⟩
/-- PKnn_PTR.RPTR. -/
@[reducible] def PKnn_PTR_RPTR : Fld := ⟨0x2100C, 0x20, 14, 8, 0x0#32⟩
/-- PKnn_PTR.WPTR. -/
@[reducible] def PKnn_PTR_WPTR : Fld := ⟨0x2100C, 0x20, 6, 0, 0x0#32⟩
/-- PKnn_STAT.SHORT. -/
@[reducible] def PKnn_STAT_SHORT : Fld := ⟨0x21010, 0x20, 31, 24, 0x0#32⟩
/-- PKnn_STAT.SPLITS. -/
@[reducible] def PKnn_STAT_SPLITS : Fld := ⟨0x21010, 0x20, 23, 16, 0x0#32⟩
/-- PKnn_STAT.STALLS. -/
@[reducible] def PKnn_STAT_STALLS : Fld := ⟨0x21010, 0x20, 15, 0, 0x0#32⟩
/-- PWR.CFG_LIM.FLTTMO. -/
@[reducible] def PWR_CFG_LIM_FLTTMO : Fld := ⟨0x110004, 0x0, 11, 4, 0x414141#32⟩
/-- PWR.CFG_LIM.PCTMO. -/
@[reducible] def PWR_CFG_LIM_PCTMO : Fld := ⟨0x110004, 0x0, 19, 12, 0x414141#32⟩
/-- PWR.CFG_RTY.INSDLY. -/
@[reducible] def PWR_CFG_RTY_INSDLY : Fld := ⟨0x110008, 0x0, 23, 14, 0xC8143#32⟩
/-- PWR.CFG_RTY.RETRIES. -/
@[reducible] def PWR_CFG_RTY_RETRIES : Fld := ⟨0x110008, 0x0, 3, 0, 0xC8143#32⟩
/-- PWR.CFG_RTY.RETRYDLY. -/
@[reducible] def PWR_CFG_RTY_RETRYDLY : Fld := ⟨0x110008, 0x0, 13, 4, 0xC8143#32⟩
/-- PWR.CNT_TRIP.COUNT. -/
@[reducible] def PWR_CNT_TRIP : Fld := ⟨0x110020, 0x0, 31, 0, 0x0#32⟩
/-- PWR.FLAGS.HUCOLL. -/
@[reducible] def PWR_FLAGS_HUCOLL : Fld := ⟨0x110010, 0x0, 4, 4, 0x0#32⟩
/-- PWR.FLAGS.OV. -/
@[reducible] def PWR_FLAGS_OV : Fld := ⟨0x110010, 0x0, 1, 1, 0x0#32⟩
/-- PWR.FLAGS.RESUMED. -/
@[reducible] def PWR_FLAGS_RESUMED : Fld := ⟨0x110010, 0x0, 3, 3, 0x0#32⟩
/-- PWR.FLAGS.TRIP. -/
@[reducible] def PWR_FLAGS_TRIP : Fld := ⟨0x110010, 0x0, 2, 2, 0x0#32⟩
/-- PWR.FLAGS.UV. -/
@[reducible] def PWR_FLAGS_UV : Fld := ⟨0x110010, 0x0, 0, 0, 0x0#32⟩
/-- PWR.MEAS0.VIN / VOUT. -/
@[reducible] def PWR_MEAS0_VIN : Fld := ⟨0x110014, 0x0, 15, 0, 0x0#32⟩
/-- PWR.MEAS0.VSNS / VHOLD. -/
@[reducible] def PWR_MEAS0_VSNS : Fld := ⟨0x110014, 0x0, 31, 16, 0x0#32⟩
/-- PWR.MEAS1.VSNS / VHOLD. -/
@[reducible] def PWR_MEAS1_VHOLD : Fld := ⟨0x110018, 0x0, 31, 16, 0x0#32⟩
/-- PWR.MEAS1.VIN / VOUT. -/
@[reducible] def PWR_MEAS1_VOUT : Fld := ⟨0x110018, 0x0, 15, 0, 0x0#32⟩
/-- PWR.STAT.FTACT. -/
@[reducible] def PWR_STAT_FTACT : Fld := ⟨0x11000C, 0x0, 6, 6, 0x0#32⟩
/-- PWR.STAT.HDPG. -/
@[reducible] def PWR_STAT_HDPG : Fld := ⟨0x11000C, 0x0, 4, 4, 0x0#32⟩
/-- PWR.STAT.LASTTRIP. -/
@[reducible] def PWR_STAT_LASTTRIP : Fld := ⟨0x11000C, 0x0, 14, 13, 0x0#32⟩
/-- PWR.STAT.LIMITING. -/
@[reducible] def PWR_STAT_LIMITING : Fld := ⟨0x11000C, 0x0, 5, 5, 0x0#32⟩
/-- PWR.STAT.PG. -/
@[reducible] def PWR_STAT_PG : Fld := ⟨0x11000C, 0x0, 3, 3, 0x0#32⟩
/-- PWR.STAT.RCNT. -/
@[reducible] def PWR_STAT_RCNT : Fld := ⟨0x11000C, 0x0, 12, 8, 0x0#32⟩
/-- PWR.STAT.STATE. -/
@[reducible] def PWR_STAT_STATE : Fld := ⟨0x11000C, 0x0, 2, 0, 0x0#32⟩
/-- RFX.ALM_DATA.DATA. -/
@[reducible] def RFX_ALM_DATA_DATA : Fld := ⟨0xC0088, 0x4, 31, 0, 0x0#32⟩
/-- RFX.ALM_POP.POP. -/
@[reducible] def RFX_ALM_POP_POP : Fld := ⟨0xC0084, 0x0, 0, 0, 0x0#32⟩
/-- RFX.ALM_STAT.COUNT. -/
@[reducible] def RFX_ALM_STAT_COUNT : Fld := ⟨0xC0080, 0x0, 8, 0, 0x0#32⟩
/-- RFX.ALM_STAT.OVF. -/
@[reducible] def RFX_ALM_STAT_OVF : Fld := ⟨0xC0080, 0x0, 9, 9, 0x0#32⟩
/-- RFX.ALM_STAT.OVFCNT. -/
@[reducible] def RFX_ALM_STAT_OVFCNT : Fld := ⟨0xC0080, 0x0, 31, 16, 0x0#32⟩
/-- RFX.CNT_DEFER.COUNT. -/
@[reducible] def RFX_CNT_DEFER : Fld := ⟨0xC00B0, 0x0, 31, 0, 0x0#32⟩
/-- RFX.CNT_LCLR.COUNT. -/
@[reducible] def RFX_CNT_LCLR : Fld := ⟨0xC00A8, 0x0, 31, 0, 0x0#32⟩
/-- RFX.CNT_OUTCONF.COUNT. -/
@[reducible] def RFX_CNT_OUTCONF : Fld := ⟨0xC00A4, 0x0, 31, 0, 0x0#32⟩
/-- RFX.CNT_REALIGN.COUNT. -/
@[reducible] def RFX_CNT_REALIGN : Fld := ⟨0xC00AC, 0x0, 31, 0, 0x0#32⟩
/-- RFX.CNT_RESETDISC.COUNT. -/
@[reducible] def RFX_CNT_RESETDISC : Fld := ⟨0xC00B4, 0x0, 31, 0, 0x0#32⟩
/-- RFX.CNT_SWEEP.COUNT. -/
@[reducible] def RFX_CNT_SWEEP : Fld := ⟨0xC00A0, 0x0, 31, 0, 0x0#32⟩
/-- RFX.CRD.EPO. -/
@[reducible] def RFX_CRD_EPO : Fld := ⟨0xC00C0, 0x0, 7, 0, 0x0#32⟩
/-- RFX.GRPEN0.GRP. -/
@[reducible] def RFX_GRPEN0_GRP : Fld := ⟨0xC0010, 0x0, 31, 0, 0x0#32⟩
/-- RFX.GRPEN1.GRP. -/
@[reducible] def RFX_GRPEN1_GRP : Fld := ⟨0xC0014, 0x0, 31, 0, 0x0#32⟩
/-- RFX.LCLR.RULE. -/
@[reducible] def RFX_LCLR_RULE : Fld := ⟨0xC0020, 0x0, 11, 0, 0x0#32⟩
/-- RFX.RULE_IDX.RULE. -/
@[reducible] def RFX_RULE_IDX_RULE : Fld := ⟨0xC0024, 0x0, 11, 0, 0x0#32⟩
/-- RFX.RULE_STAT.COND. -/
@[reducible] def RFX_RULE_STAT_COND : Fld := ⟨0xC0028, 0x1000000, 2, 2, 0x0#32⟩
/-- RFX.RULE_STAT.ENABLED. -/
@[reducible] def RFX_RULE_STAT_ENABLED : Fld := ⟨0xC0028, 0x1000000, 3, 3, 0x0#32⟩
/-- RFX.RULE_STAT.LATCHED. -/
@[reducible] def RFX_RULE_STAT_LATCHED : Fld := ⟨0xC0028, 0x1000000, 1, 1, 0x0#32⟩
/-- RFX.RULE_STAT.ONCNT. -/
@[reducible] def RFX_RULE_STAT_ONCNT : Fld := ⟨0xC0028, 0x1000000, 15, 8, 0x0#32⟩
/-- RFX.RULE_STAT.STATE. -/
@[reducible] def RFX_RULE_STAT_STATE : Fld := ⟨0xC0028, 0x1000000, 0, 0, 0x0#32⟩
/-- RFX.RULE_STAT.TERMS. -/
@[reducible] def RFX_RULE_STAT_TERMS : Fld := ⟨0xC0028, 0x1000000, 7, 4, 0x0#32⟩
/-- RFX.RULE_W.WORD. -/
@[reducible] def RFX_RULE_W_WORD : Fld := ⟨0xC0040, 0x4, 31, 0, 0x0#32⟩
/-- RFX.STATE.RULE. -/
@[reducible] def RFX_STATE_RULE : Fld := ⟨0xC0100, 0x4, 31, 0, 0x0#32⟩
/-- RFX.STAT.ALIGNED. -/
@[reducible] def RFX_STAT_ALIGNED : Fld := ⟨0xC0000, 0x0, 13, 13, 0x0#32⟩
/-- RFX.STAT.RULES. -/
@[reducible] def RFX_STAT_RULES : Fld := ⟨0xC0000, 0x0, 12, 0, 0x0#32⟩
/-- RFX.SWCFG.ALIGN. -/
@[reducible] def RFX_SWCFG_ALIGN : Fld := ⟨0xC0004, 0x0, 14, 14, 0x64#32⟩
/-- RFX.SWCFG.OFS. -/
@[reducible] def RFX_SWCFG_OFS : Fld := ⟨0xC0004, 0x0, 29, 16, 0x64#32⟩
/-- RFX.SWCFG.PERIOD. -/
@[reducible] def RFX_SWCFG_PERIOD : Fld := ⟨0xC0004, 0x0, 13, 0, 0x64#32⟩
/-- RFX.SWTIME.LAST. -/
@[reducible] def RFX_SWTIME_LAST : Fld := ⟨0xC0018, 0x0, 12, 0, 0x0#32⟩
/-- RFX.SWTIME.PEAK. -/
@[reducible] def RFX_SWTIME_PEAK : Fld := ⟨0xC0018, 0x0, 28, 16, 0x0#32⟩
/-- RFX.XSWEEP.EN. -/
@[reducible] def RFX_XSWEEP_EN : Fld := ⟨0xC0008, 0x0, 0, 0, 0x0#32⟩
/-- RFX.XSWEEP.PH. -/
@[reducible] def RFX_XSWEEP_PH : Fld := ⟨0xC0008, 0x0, 3, 1, 0x0#32⟩
/-- RFX.XSWEEP.XFRAC. -/
@[reducible] def RFX_XSWEEP_XFRAC : Fld := ⟨0xC0008, 0x0, 31, 16, 0x0#32⟩
/-- RNG.ADMSTAT.LAST_REFUSE. -/
@[reducible] def RNG_ADMSTAT_LAST_REFUSE : Fld := ⟨0x10210, 0x0, 2, 0, 0x0#32⟩
/-- RNG.ADMSTAT.REFUSALS. -/
@[reducible] def RNG_ADMSTAT_REFUSALS : Fld := ⟨0x10210, 0x0, 31, 16, 0x0#32⟩
/-- RNG.ADM_EXH.COUNT. -/
@[reducible] def RNG_ADM_EXH : Fld := ⟨0x10214, 0x0, 31, 0, 0x0#32⟩
/-- RNG.BYP_CTL.DRIVEN. -/
@[reducible] def RNG_BYP_CTL_DRIVEN : Fld := ⟨0x10240, 0x0, 1, 1, 0xA0#32⟩
/-- RNG.BYP_CTL.HEARTBEAT_LOST. -/
@[reducible] def RNG_BYP_CTL_HEARTBEAT_LOST : Fld := ⟨0x10240, 0x0, 2, 2, 0xA0#32⟩
/-- RNG.BYP_CTL.INSERT. -/
@[reducible] def RNG_BYP_CTL_INSERT : Fld := ⟨0x10240, 0x0, 0, 0, 0xA0#32⟩
/-- RNG.CNT_DUP.COUNT. -/
@[reducible] def RNG_CNT_DUP : Fld := ⟨0x1021C, 0x0, 31, 0, 0x0#32⟩
/-- RNG.CNT_GAP.COUNT. -/
@[reducible] def RNG_CNT_GAP : Fld := ⟨0x10220, 0x0, 31, 0, 0x0#32⟩
/-- RNG.CNT_HOPLIM.COUNT. -/
@[reducible] def RNG_CNT_HOPLIM : Fld := ⟨0x10224, 0x0, 31, 0, 0x0#32⟩
/-- RNG.CNT_MISADDR.COUNT. -/
@[reducible] def RNG_CNT_MISADDR : Fld := ⟨0x10218, 0x0, 31, 0, 0x0#32⟩
/-- RNG.CNT_RESETDISC.COUNT. -/
@[reducible] def RNG_CNT_RESETDISC : Fld := ⟨0x10230, 0x0, 31, 0, 0x0#32⟩
/-- RNG.CNT_RETURNED.COUNT. -/
@[reducible] def RNG_CNT_RETURNED : Fld := ⟨0x1022C, 0x0, 31, 0, 0x0#32⟩
/-- RNG.CNT_STREXH.COUNT. -/
@[reducible] def RNG_CNT_STREXH : Fld := ⟨0x10228, 0x0, 31, 0, 0x0#32⟩
/-- RNG.HOLD.HOLD. -/
@[reducible] def RNG_HOLD_HOLD : Fld := ⟨0x1020C, 0x0, 15, 0, 0xF00C8#32⟩
/-- RNG.HOLD.HOLD_EN. -/
@[reducible] def RNG_HOLD_HOLD_EN : Fld := ⟨0x1020C, 0x0, 31, 16, 0xF00C8#32⟩
/-- RNG.INC.INC. -/
@[reducible] def RNG_INC : Fld := ⟨0x10204, 0x0, 15, 0, 0x0#32⟩
/-- RNG.MEMB.HOPS. -/
@[reducible] def RNG_MEMB_HOPS : Fld := ⟨0x10208, 0x0, 25, 16, 0x0#32⟩
/-- RNG.MEMB.VERSION. -/
@[reducible] def RNG_MEMB_VERSION : Fld := ⟨0x10208, 0x0, 15, 0, 0x0#32⟩
/-- RNG.RSTAT.ADMITTED. -/
@[reducible] def RNG_RSTAT_ADMITTED : Fld := ⟨0x10200, 0x0, 0, 0, 0x0#32⟩
/-- RNG.RSTAT.ELECTING. -/
@[reducible] def RNG_RSTAT_ELECTING : Fld := ⟨0x10200, 0x0, 2, 2, 0x0#32⟩
/-- RNG.RSTAT.MASTER. -/
@[reducible] def RNG_RSTAT_MASTER : Fld := ⟨0x10200, 0x0, 1, 1, 0x0#32⟩
/-- RNG.RSTAT.MASTER_HUB. -/
@[reducible] def RNG_RSTAT_MASTER_HUB : Fld := ⟨0x10200, 0x0, 15, 8, 0x0#32⟩
/-- RNG.RSTAT.MASTER_PRIO. -/
@[reducible] def RNG_RSTAT_MASTER_PRIO : Fld := ⟨0x10200, 0x0, 23, 16, 0x0#32⟩
/-- SPnn_BAUD.DIV. -/
@[reducible] def SPnn_BAUD_DIV : Fld := ⟨0x80004, 0x100, 23, 0, 0x0#32⟩
/-- SPnn_CFG.ADDR9. -/
@[reducible] def SPnn_CFG_ADDR9 : Fld := ⟨0x80000, 0x100, 17, 10, 0x0#32⟩
/-- SPnn_CFG.ADRFILT. -/
@[reducible] def SPnn_CFG_ADRFILT : Fld := ⟨0x80000, 0x100, 9, 9, 0x0#32⟩
/-- SPnn_CFG.DBITS. -/
@[reducible] def SPnn_CFG_DBITS : Fld := ⟨0x80000, 0x100, 3, 1, 0x0#32⟩
/-- SPnn_CFG.DUPLEX. -/
@[reducible] def SPnn_CFG_DUPLEX : Fld := ⟨0x80000, 0x100, 19, 19, 0x0#32⟩
/-- SPnn_CFG.ECHO. -/
@[reducible] def SPnn_CFG_ECHO : Fld := ⟨0x80000, 0x100, 20, 20, 0x0#32⟩
/-- SPnn_CFG.EN. -/
@[reducible] def SPnn_CFG_EN : Fld := ⟨0x80000, 0x100, 0, 0, 0x0#32⟩
/-- SPnn_CFG.MBRTU. -/
@[reducible] def SPnn_CFG_MBRTU : Fld := ⟨0x80000, 0x100, 18, 18, 0x0#32⟩
/-- SPnn_CFG.MODE9. -/
@[reducible] def SPnn_CFG_MODE9 : Fld := ⟨0x80000, 0x100, 8, 8, 0x0#32⟩
/-- SPnn_CFG.PARITY. -/
@[reducible] def SPnn_CFG_PARITY : Fld := ⟨0x80000, 0x100, 6, 4, 0x0#32⟩
/-- SPnn_CFG.STOP2. -/
@[reducible] def SPnn_CFG_STOP2 : Fld := ⟨0x80000, 0x100, 7, 7, 0x0#32⟩
/-- SPnn_CNT_BREAK.COUNT. -/
@[reducible] def SPnn_CNT_BREAK : Fld := ⟨0x8002C, 0x100, 31, 0, 0x0#32⟩
/-- SPnn_CNT_ECHO.COUNT. -/
@[reducible] def SPnn_CNT_ECHO : Fld := ⟨0x80030, 0x100, 31, 0, 0x0#32⟩
/-- SPnn_CNT_FRAME.COUNT. -/
@[reducible] def SPnn_CNT_FRAME : Fld := ⟨0x80020, 0x100, 31, 0, 0x0#32⟩
/-- SPnn_CNT_OVFL.COUNT. -/
@[reducible] def SPnn_CNT_OVFL : Fld := ⟨0x80028, 0x100, 31, 0, 0x0#32⟩
/-- SPnn_CNT_PARITY.COUNT. -/
@[reducible] def SPnn_CNT_PARITY : Fld := ⟨0x80024, 0x100, 31, 0, 0x0#32⟩
/-- SPnn_MBT.T15. -/
@[reducible] def SPnn_MBT_T15 : Fld := ⟨0x8000C, 0x100, 15, 0, 0x0#32⟩
/-- SPnn_MBT.T35. -/
@[reducible] def SPnn_MBT_T35 : Fld := ⟨0x8000C, 0x100, 31, 16, 0x0#32⟩
/-- SPnn_STAT.DE. -/
@[reducible] def SPnn_STAT_DE : Fld := ⟨0x80010, 0x100, 17, 17, 0x0#32⟩
/-- SPnn_STAT.OVFL. -/
@[reducible] def SPnn_STAT_OVFL : Fld := ⟨0x80010, 0x100, 18, 18, 0x0#32⟩
/-- SPnn_STAT.RXLVL. -/
@[reducible] def SPnn_STAT_RXLVL : Fld := ⟨0x80010, 0x100, 8, 0, 0x0#32⟩
/-- SQn_CFG.CSGAP. -/
@[reducible] def SQn_CFG_CSGAP : Fld := ⟨0x82000, 0x100, 23, 16, 0x0#32⟩
/-- SQn_CFG.CSPOL. -/
@[reducible] def SQn_CFG_CSPOL : Fld := ⟨0x82000, 0x100, 27, 24, 0x0#32⟩
/-- SQn_CFG.DIV. -/
@[reducible] def SQn_CFG_DIV : Fld := ⟨0x82000, 0x100, 15, 4, 0x0#32⟩
/-- SQn_CFG.EN. -/
@[reducible] def SQn_CFG_EN : Fld := ⟨0x82000, 0x100, 0, 0, 0x0#32⟩
/-- SQn_CFG.MODE. -/
@[reducible] def SQn_CFG_MODE : Fld := ⟨0x82000, 0x100, 2, 1, 0x0#32⟩
/-- SQn_STAT.BUSY. -/
@[reducible] def SQn_STAT_BUSY : Fld := ⟨0x82004, 0x100, 0, 0, 0x0#32⟩
/-- SQn_STAT.CS. -/
@[reducible] def SQn_STAT_CS : Fld := ⟨0x82004, 0x100, 2, 1, 0x0#32⟩
/-- SQn_STAT.XFERS. -/
@[reducible] def SQn_STAT_XFERS : Fld := ⟨0x82004, 0x100, 31, 16, 0x0#32⟩
/-- SWC.CAP_CFG.EN. -/
@[reducible] def SWC_CAP_CFG_EN : Fld := ⟨0x20080, 0x0, 0, 0, 0x0#32⟩
/-- SWC.CAP_CFG.MODE. -/
@[reducible] def SWC_CAP_CFG_MODE : Fld := ⟨0x20080, 0x0, 1, 1, 0x0#32⟩
/-- SWC.CAP_CFG.POST. -/
@[reducible] def SWC_CAP_CFG_POST : Fld := ⟨0x20080, 0x0, 14, 3, 0x0#32⟩
/-- SWC.CAP_CFG.TRIG_EN. -/
@[reducible] def SWC_CAP_CFG_TRIG_EN : Fld := ⟨0x20080, 0x0, 2, 2, 0x0#32⟩
/-- SWC.CAP_DATA.DATA. -/
@[reducible] def SWC_CAP_DATA_DATA : Fld := ⟨0x200C0, 0x4, 31, 0, 0x0#32⟩
/-- SWC.CAP_FILT.DIR. -/
@[reducible] def SWC_CAP_FILT_DIR : Fld := ⟨0x20084, 0x0, 13, 12, 0x0#32⟩
/-- SWC.CAP_FILT.OUTCOMES. -/
@[reducible] def SWC_CAP_FILT_OUTCOMES : Fld := ⟨0x20084, 0x0, 20, 14, 0x0#32⟩
/-- SWC.CAP_FILT.PORTS. -/
@[reducible] def SWC_CAP_FILT_PORTS : Fld := ⟨0x20084, 0x0, 11, 0, 0x0#32⟩
/-- SWC.CAP_FILT.TRIGOUT. -/
@[reducible] def SWC_CAP_FILT_TRIGOUT : Fld := ⟨0x20084, 0x0, 27, 21, 0x0#32⟩
/-- SWC.CAP_IDX.SLOT. -/
@[reducible] def SWC_CAP_IDX_SLOT : Fld := ⟨0x20094, 0x0, 11, 0, 0x0#32⟩
/-- SWC.CAP_MASK.DST. -/
@[reducible] def SWC_CAP_MASK_DST : Fld := ⟨0x2008C, 0x0, 23, 16, 0x0#32⟩
/-- SWC.CAP_MASK.SRC. -/
@[reducible] def SWC_CAP_MASK_SRC : Fld := ⟨0x2008C, 0x0, 15, 8, 0x0#32⟩
/-- SWC.CAP_MASK.TC. -/
@[reducible] def SWC_CAP_MASK_TC : Fld := ⟨0x2008C, 0x0, 7, 4, 0x0#32⟩
/-- SWC.CAP_MASK.TTYPE. -/
@[reducible] def SWC_CAP_MASK_TTYPE : Fld := ⟨0x2008C, 0x0, 3, 0, 0x0#32⟩
/-- SWC.CAP_MATCH.DST. -/
@[reducible] def SWC_CAP_MATCH_DST : Fld := ⟨0x20088, 0x0, 23, 16, 0x0#32⟩
/-- SWC.CAP_MATCH.SRC. -/
@[reducible] def SWC_CAP_MATCH_SRC : Fld := ⟨0x20088, 0x0, 15, 8, 0x0#32⟩
/-- SWC.CAP_MATCH.TC. -/
@[reducible] def SWC_CAP_MATCH_TC : Fld := ⟨0x20088, 0x0, 7, 4, 0x0#32⟩
/-- SWC.CAP_MATCH.TTYPE. -/
@[reducible] def SWC_CAP_MATCH_TTYPE : Fld := ⟨0x20088, 0x0, 3, 0, 0x0#32⟩
/-- SWC.CAP_PTR.NEXT. -/
@[reducible] def SWC_CAP_PTR_NEXT : Fld := ⟨0x20098, 0x0, 27, 16, 0x0#32⟩
/-- SWC.CAP_PTR.OLDEST. -/
@[reducible] def SWC_CAP_PTR_OLDEST : Fld := ⟨0x20098, 0x0, 11, 0, 0x0#32⟩
/-- SWC.CAP_STAT.COUNT. -/
@[reducible] def SWC_CAP_STAT_COUNT : Fld := ⟨0x20090, 0x0, 12, 0, 0x0#32⟩
/-- SWC.CAP_STAT.FULL. -/
@[reducible] def SWC_CAP_STAT_FULL : Fld := ⟨0x20090, 0x0, 13, 13, 0x0#32⟩
/-- SWC.CAP_STAT.LOST. -/
@[reducible] def SWC_CAP_STAT_LOST : Fld := ⟨0x20090, 0x0, 31, 16, 0x0#32⟩
/-- SWC.CAP_STAT.STOPPED. -/
@[reducible] def SWC_CAP_STAT_STOPPED : Fld := ⟨0x20090, 0x0, 15, 15, 0x0#32⟩
/-- SWC.CAP_STAT.TRIGGERED. -/
@[reducible] def SWC_CAP_STAT_TRIGGERED : Fld := ⟨0x20090, 0x0, 14, 14, 0x0#32⟩
/-- SWC.CNT_AONREF.COUNT. -/
@[reducible] def SWC_CNT_AONREF : Fld := ⟨0x20024, 0x0, 31, 0, 0x0#32⟩
/-- SWC.CNT_CORR.COUNT. -/
@[reducible] def SWC_CNT_CORR : Fld := ⟨0x20028, 0x0, 31, 0, 0x0#32⟩
/-- SWC.CNT_RESETDISC.COUNT. -/
@[reducible] def SWC_CNT_RESETDISC : Fld := ⟨0x20034, 0x0, 31, 0, 0x0#32⟩
/-- SWC.CNT_UNCORR.COUNT. -/
@[reducible] def SWC_CNT_UNCORR : Fld := ⟨0x2002C, 0x0, 31, 0, 0x0#32⟩
/-- SWC.CNT_ZERO.COUNT. -/
@[reducible] def SWC_CNT_ZERO : Fld := ⟨0x20030, 0x0, 31, 0, 0x0#32⟩
/-- SWC.ECC_LAST.CELL. -/
@[reducible] def SWC_ECC_LAST_CELL : Fld := ⟨0x20038, 0x0, 15, 0, 0x0#32⟩
/-- SWC.ECC_LAST.SEEN. -/
@[reducible] def SWC_ECC_LAST_SEEN : Fld := ⟨0x20038, 0x0, 16, 16, 0x0#32⟩
/-- SWC.FREE.FREE. -/
@[reducible] def SWC_FREE_FREE : Fld := ⟨0x20004, 0x0, 16, 0, 0x0#32⟩
/-- SWC.FREE.RESV. -/
@[reducible] def SWC_FREE_RESV : Fld := ⟨0x20004, 0x0, 26, 17, 0x0#32⟩
/-- SWC.LQ_CFG.KIND. -/
@[reducible] def SWC_LQ_CFG_KIND : Fld := ⟨0x200A4, 0x1000000, 5, 4, 0x0#32⟩
/-- SWC.LQ_CFG.TC. -/
@[reducible] def SWC_LQ_CFG_TC : Fld := ⟨0x200A4, 0x1000000, 3, 0, 0x0#32⟩
/-- SWC.MCG_DATA.AON. -/
@[reducible] def SWC_MCG_DATA_AON : Fld := ⟨0x20020, 0x1000000, 13, 13, 0x0#32⟩
/-- SWC.MCG_DATA.MEMBER. -/
@[reducible] def SWC_MCG_DATA_MEMBER : Fld := ⟨0x20020, 0x1000000, 12, 12, 0x0#32⟩
/-- SWC.MCG_DATA.PORTS. -/
@[reducible] def SWC_MCG_DATA_PORTS : Fld := ⟨0x20020, 0x1000000, 11, 2, 0x0#32⟩
/-- SWC.PLAN.PLAN. -/
@[reducible] def SWC_PLAN_PLAN : Fld := ⟨0x20000, 0x0, 0, 0, 0x0#32⟩
/-- SWC.QLIM.TC0. -/
@[reducible] def SWC_QLIM_TC0 : Fld := ⟨0x20010, 0x0, 7, 0, 0x0#32⟩
/-- SWC.QLIM.TC1. -/
@[reducible] def SWC_QLIM_TC1 : Fld := ⟨0x20010, 0x0, 15, 8, 0x0#32⟩
/-- SWC.QLIM.TC2. -/
@[reducible] def SWC_QLIM_TC2 : Fld := ⟨0x20010, 0x0, 23, 16, 0x0#32⟩
/-- SWC.QLIM.TC3. -/
@[reducible] def SWC_QLIM_TC3 : Fld := ⟨0x20010, 0x0, 31, 24, 0x0#32⟩
/-- SWC.Q_IDX.Q. -/
@[reducible] def SWC_Q_IDX_Q : Fld := ⟨0x20014, 0x0, 7, 0, 0x0#32⟩
/-- SWC.Q_STAT.FRAMES. -/
@[reducible] def SWC_Q_STAT_FRAMES : Fld := ⟨0x20018, 0x1000000, 27, 17, 0x0#32⟩
/-- SWC.Q_STAT.OCC. -/
@[reducible] def SWC_Q_STAT_OCC : Fld := ⟨0x20018, 0x1000000, 16, 0, 0x0#32⟩
/-- SWC.SMP_CFG.N. -/
@[reducible] def SWC_SMP_CFG_N : Fld := ⟨0x20040, 0x0, 15, 0, 0x0#32⟩
/-- SWC.SMP_CNT.COUNT. -/
@[reducible] def SWC_SMP_CNT : Fld := ⟨0x20048, 0x0, 31, 0, 0x0#32⟩
/-- SWC.SMP_DROP.COUNT. -/
@[reducible] def SWC_SMP_DROP : Fld := ⟨0x2004C, 0x0, 31, 0, 0x0#32⟩
/-- SWC.SMP_SEL.PORTS. -/
@[reducible] def SWC_SMP_SEL_PORTS : Fld := ⟨0x20044, 0x0, 11, 0, 0x0#32⟩
/-- SWC.SMP_SEL.TCS. -/
@[reducible] def SWC_SMP_SEL_TCS : Fld := ⟨0x20044, 0x0, 27, 12, 0x0#32⟩
/-- SWn_CNT_ADMDROP.COUNT. -/
@[reducible] def SWn_CNT_ADMDROP : Fld := ⟨0x20104, 0x40, 31, 0, 0x0#32⟩
/-- SWn_CNT_BADEND.COUNT. -/
@[reducible] def SWn_CNT_BADEND : Fld := ⟨0x2010C, 0x40, 31, 0, 0x0#32⟩
/-- SWn_CNT_CUT.COUNT. -/
@[reducible] def SWn_CNT_CUT : Fld := ⟨0x20114, 0x40, 31, 0, 0x0#32⟩
/-- SWn_CNT_FILL.COUNT. -/
@[reducible] def SWn_CNT_FILL : Fld := ⟨0x20110, 0x40, 31, 0, 0x0#32⟩
/-- SWn_CNT_MCREF.COUNT. -/
@[reducible] def SWn_CNT_MCREF : Fld := ⟨0x20108, 0x40, 31, 0, 0x0#32⟩
/-- SWn_CNT_RESETDISC.COUNT. -/
@[reducible] def SWn_CNT_RESETDISC_COUNT : Fld := ⟨0x20118, 0x40, 31, 0, 0x0#32⟩
/-- SWn_CRD.IN_LL. -/
@[reducible] def SWn_CRD_IN_LL : Fld := ⟨0x20100, 0x40, 7, 0, 0x0#32⟩
/-- SWn_CRD.IN_LY. -/
@[reducible] def SWn_CRD_IN_LY : Fld := ⟨0x20100, 0x40, 15, 8, 0x0#32⟩
/-- SWn_CRD.OUT. -/
@[reducible] def SWn_CRD_OUT : Fld := ⟨0x20100, 0x40, 23, 16, 0x0#32⟩
/-- SWn_CRD.OUT_TC0. -/
@[reducible] def SWn_CRD_OUT_TC0 : Fld := ⟨0x20100, 0x40, 31, 24, 0x0#32⟩
/-- TIM.CAP_NSHI.VAL. -/
@[reducible] def TIM_CAP_NSHI_VAL : Fld := ⟨0xA0024, 0x0, 31, 0, 0x0#32⟩
/-- TIM.CAP_NSLO.VAL. -/
@[reducible] def TIM_CAP_NSLO_VAL : Fld := ⟨0xA0028, 0x0, 31, 0, 0x0#32⟩
/-- TIM.CAP_NS.VAL. -/
@[reducible] def TIM_CAP_NS_VAL : Fld := ⟨0xA0034, 0x0, 31, 0, 0x0#32⟩
/-- TIM.CAP_SECHI.VAL. -/
@[reducible] def TIM_CAP_SECHI_VAL : Fld := ⟨0xA002C, 0x0, 31, 0, 0x0#32⟩
/-- TIM.CAP_SECLO.VAL. -/
@[reducible] def TIM_CAP_SECLO_VAL : Fld := ⟨0xA0030, 0x0, 31, 0, 0x0#32⟩
/-- TIM.CFG.LOCKTHR. -/
@[reducible] def TIM_CFG_LOCKTHR : Fld := ⟨0xA0008, 0x0, 25, 10, 0xC80A#32⟩
/-- TIM.CFG.SYNCINT. -/
@[reducible] def TIM_CFG_SYNCINT : Fld := ⟨0xA0008, 0x0, 9, 0, 0xC80A#32⟩
/-- TIM.CNT_PTPDISC.COUNT. -/
@[reducible] def TIM_CNT_PTPDISC : Fld := ⟨0xA0074, 0x0, 31, 0, 0x0#32⟩
/-- TIM.CNT_SLEW.COUNT. -/
@[reducible] def TIM_CNT_SLEW : Fld := ⟨0xA0070, 0x0, 31, 0, 0x0#32⟩
/-- TIM.CNT_STEP.COUNT. -/
@[reducible] def TIM_CNT_STEP : Fld := ⟨0xA006C, 0x0, 31, 0, 0x0#32⟩
/-- TIM.CNT_SYNCBAD.COUNT. -/
@[reducible] def TIM_CNT_SYNCBAD : Fld := ⟨0xA0064, 0x0, 31, 0, 0x0#32⟩
/-- TIM.CNT_SYNCMISS.COUNT. -/
@[reducible] def TIM_CNT_SYNCMISS : Fld := ⟨0xA0068, 0x0, 31, 0, 0x0#32⟩
/-- TIM.CNT_SYNCRX.COUNT. -/
@[reducible] def TIM_CNT_SYNCRX : Fld := ⟨0xA0060, 0x0, 31, 0, 0x0#32⟩
/-- TIM.CTL.TCFORCE. -/
@[reducible] def TIM_CTL_TCFORCE : Fld := ⟨0xA0000, 0x0, 0, 0, 0x0#32⟩
/-- TIM.GMSTAT.CLASS. -/
@[reducible] def TIM_GMSTAT_CLASS : Fld := ⟨0xA004C, 0x0, 7, 0, 0xF8#32⟩
/-- TIM.GMSTAT.INPUT. -/
@[reducible] def TIM_GMSTAT_INPUT : Fld := ⟨0xA004C, 0x0, 16, 16, 0xF8#32⟩
/-- TIM.GMSTAT.STEPS. -/
@[reducible] def TIM_GMSTAT_STEPS : Fld := ⟨0xA004C, 0x0, 15, 8, 0xF8#32⟩
/-- TIM.GMSTAT.VALID. -/
@[reducible] def TIM_GMSTAT_VALID : Fld := ⟨0xA004C, 0x0, 17, 17, 0xF8#32⟩
/-- TIM.INCR_FRAC.I. -/
@[reducible] def TIM_INCR_FRAC : Fld := ⟨0xA0018, 0x0, 31, 0, 0x0#32⟩
/-- TIM.INCR_FRAC.I. -/
@[reducible] def TIM_INCR_FRAC_I : Fld := ⟨0xA0018, 0x0, 31, 0, 0x0#32⟩
/-- TIM.INCR_INT.I. -/
@[reducible] def TIM_INCR_INT : Fld := ⟨0xA0014, 0x0, 31, 0, 0x4#32⟩
/-- TIM.INCR_INT.I. -/
@[reducible] def TIM_INCR_INT_I : Fld := ⟨0xA0014, 0x0, 31, 0, 0x4#32⟩
/-- TIM.LIMITS.TRIMGM. -/
@[reducible] def TIM_LIMITS_TRIMGM : Fld := ⟨0xA0010, 0x0, 23, 12, 0xA7D0014#32⟩
/-- TIM.LIMITS.TRIMLIM. -/
@[reducible] def TIM_LIMITS_TRIMLIM : Fld := ⟨0xA0010, 0x0, 11, 0, 0xA7D0014#32⟩
/-- TIM.LIMITS.UNLOCKTHR. -/
@[reducible] def TIM_LIMITS_UNLOCKTHR : Fld := ⟨0xA0010, 0x0, 31, 24, 0xA7D0014#32⟩
/-- TIM.OFFSET.NS. -/
@[reducible] def TIM_OFFSET_NS : Fld := ⟨0xA001C, 0x0, 31, 0, 0x0#32⟩
/-- TIM.PTP_ASYM.H0. -/
@[reducible] def TIM_PTP_ASYM_H0 : Fld := ⟨0xA0058, 0x0, 15, 0, 0x0#32⟩
/-- TIM.PTP_ASYM.H1. -/
@[reducible] def TIM_PTP_ASYM_H1 : Fld := ⟨0xA0058, 0x0, 31, 16, 0x0#32⟩
/-- TIM.PTP_H0.DELAY. -/
@[reducible] def TIM_PTP_H0_DELAY : Fld := ⟨0xA0050, 0x0, 2, 2, 0x0#32⟩
/-- TIM.PTP_H0.DOMAIN. -/
@[reducible] def TIM_PTP_H0_DOMAIN : Fld := ⟨0xA0050, 0x0, 9, 3, 0x0#32⟩
/-- TIM.PTP_H0.LOGANN. -/
@[reducible] def TIM_PTP_H0_LOGANN : Fld := ⟨0xA0050, 0x0, 16, 14, 0x0#32⟩
/-- TIM.PTP_H0.LOGSYNC. -/
@[reducible] def TIM_PTP_H0_LOGSYNC : Fld := ⟨0xA0050, 0x0, 13, 10, 0x0#32⟩
/-- TIM.PTP_H0.ROLE. -/
@[reducible] def TIM_PTP_H0_ROLE : Fld := ⟨0xA0050, 0x0, 1, 0, 0x0#32⟩
/-- TIM.PTP_H1.DELAY. -/
@[reducible] def TIM_PTP_H1_DELAY : Fld := ⟨0xA0054, 0x0, 2, 2, 0x0#32⟩
/-- TIM.PTP_H1.DOMAIN. -/
@[reducible] def TIM_PTP_H1_DOMAIN : Fld := ⟨0xA0054, 0x0, 9, 3, 0x0#32⟩
/-- TIM.PTP_H1.LOGANN. -/
@[reducible] def TIM_PTP_H1_LOGANN : Fld := ⟨0xA0054, 0x0, 16, 14, 0x0#32⟩
/-- TIM.PTP_H1.LOGSYNC. -/
@[reducible] def TIM_PTP_H1_LOGSYNC : Fld := ⟨0xA0054, 0x0, 13, 10, 0x0#32⟩
/-- TIM.PTP_H1.ROLE. -/
@[reducible] def TIM_PTP_H1_ROLE : Fld := ⟨0xA0054, 0x0, 1, 0, 0x0#32⟩
/-- TIM.SERVO.KI. -/
@[reducible] def TIM_SERVO_KI : Fld := ⟨0xA000C, 0x0, 31, 16, 0x0#32⟩
/-- TIM.SERVO.KP. -/
@[reducible] def TIM_SERVO_KP : Fld := ⟨0xA000C, 0x0, 15, 0, 0x0#32⟩
/-- TIM.SET_NS.VAL. -/
@[reducible] def TIM_SET_NS_VAL : Fld := ⟨0xA0040, 0x0, 31, 0, 0x0#32⟩
/-- TIM.SET_SECHI.VAL. -/
@[reducible] def TIM_SET_SECHI_VAL : Fld := ⟨0xA0038, 0x0, 31, 0, 0x0#32⟩
/-- TIM.SET_SECLO.VAL. -/
@[reducible] def TIM_SET_SECLO_VAL : Fld := ⟨0xA003C, 0x0, 31, 0, 0x0#32⟩
/-- TIM.STAT.GM. -/
@[reducible] def TIM_STAT_GM : Fld := ⟨0xA0004, 0x0, 4, 4, 0xFF0000#32⟩
/-- TIM.STAT.HOPS. -/
@[reducible] def TIM_STAT_HOPS : Fld := ⟨0xA0004, 0x0, 23, 16, 0xFF0000#32⟩
/-- TIM.STAT.MASTER. -/
@[reducible] def TIM_STAT_MASTER : Fld := ⟨0xA0004, 0x0, 5, 5, 0xFF0000#32⟩
/-- TIM.STAT.RING. -/
@[reducible] def TIM_STAT_RING : Fld := ⟨0xA0004, 0x0, 6, 6, 0xFF0000#32⟩
/-- TIM.STAT.STATE. -/
@[reducible] def TIM_STAT_STATE : Fld := ⟨0xA0004, 0x0, 2, 0, 0xFF0000#32⟩
/-- TIM.STAT.SYNT. -/
@[reducible] def TIM_STAT_SYNT : Fld := ⟨0xA0004, 0x0, 24, 24, 0xFF0000#32⟩
/-- TIM.STAT.TCMODE. -/
@[reducible] def TIM_STAT_TCMODE : Fld := ⟨0xA0004, 0x0, 7, 7, 0xFF0000#32⟩
/-- TIM.STAT.TLOCK. -/
@[reducible] def TIM_STAT_TLOCK : Fld := ⟨0xA0004, 0x0, 3, 3, 0xFF0000#32⟩
/-- TIM.STAT.TSE. -/
@[reducible] def TIM_STAT_TSE : Fld := ⟨0xA0004, 0x0, 15, 8, 0xFF0000#32⟩
/-- TIM.STEPLAST.NS. -/
@[reducible] def TIM_STEPLAST_NS : Fld := ⟨0xA0020, 0x0, 31, 0, 0x0#32⟩
/-- TIM.TIN.ENA. -/
@[reducible] def TIM_TIN_ENA : Fld := ⟨0xA0048, 0x0, 9, 9, 0x0#32⟩
/-- TIM.TIN.ENB. -/
@[reducible] def TIM_TIN_ENB : Fld := ⟨0xA0048, 0x0, 25, 25, 0x0#32⟩
/-- TIM.TIN.HUBA. -/
@[reducible] def TIM_TIN_HUBA : Fld := ⟨0xA0048, 0x0, 7, 0, 0x0#32⟩
/-- TIM.TIN.HUBB. -/
@[reducible] def TIM_TIN_HUBB : Fld := ⟨0xA0048, 0x0, 23, 16, 0x0#32⟩
/-- TIM.TIN.PORTA. -/
@[reducible] def TIM_TIN_PORTA : Fld := ⟨0xA0048, 0x0, 8, 8, 0x0#32⟩
/-- TIM.TIN.PORTB. -/
@[reducible] def TIM_TIN_PORTB : Fld := ⟨0xA0048, 0x0, 24, 24, 0x0#32⟩
/-- TIM.UTCOFF.OFF. -/
@[reducible] def TIM_UTCOFF_OFF : Fld := ⟨0xA0044, 0x0, 15, 0, 0x0#32⟩
/-- TMQ.CNT_EXH.COUNT. -/
@[reducible] def TMQ_CNT_EXH : Fld := ⟨0x30050, 0x0, 31, 0, 0x0#32⟩
/-- TMQ.PMAP_DATA.POLICER. -/
@[reducible] def TMQ_PMAP_DATA_POLICER : Fld := ⟨0x30044, 0x1000000, 9, 0, 0x0#32⟩
/-- TMQ.PMAP_DATA.VALID. -/
@[reducible] def TMQ_PMAP_DATA_VALID : Fld := ⟨0x30044, 0x1000000, 10, 10, 0x0#32⟩
/-- TMQ.POL_BURST.BURST. -/
@[reducible] def TMQ_POL_BURST_BURST : Fld := ⟨0x30028, 0x1000000, 19, 0, 0x0#32⟩
/-- TMQ.POL_CFG.EN. -/
@[reducible] def TMQ_POL_CFG_EN : Fld := ⟨0x30024, 0x1000000, 20, 20, 0x0#32⟩
/-- TMQ.POL_CFG.RATE. -/
@[reducible] def TMQ_POL_CFG_RATE : Fld := ⟨0x30024, 0x1000000, 19, 0, 0x0#32⟩
/-- TMQ.POL_CFG.RUNTIME. -/
@[reducible] def TMQ_POL_CFG_RUNTIME : Fld := ⟨0x30024, 0x1000000, 21, 21, 0x0#32⟩
/-- TMQ.POL_CFG.USED. -/
@[reducible] def TMQ_POL_CFG_USED : Fld := ⟨0x30024, 0x1000000, 22, 22, 0x0#32⟩
/-- TMQ.POL_CMD.OP. -/
@[reducible] def TMQ_POL_CMD_OP : Fld := ⟨0x30048, 0x0, 1, 0, 0x0#32⟩
/-- TMQ.POL_CRED.P. -/
@[reducible] def TMQ_POL_CRED_P : Fld := ⟨0x3002C, 0x1000000, 27, 0, 0x0#32⟩
/-- TMQ.POL_DROP.COUNT. -/
@[reducible] def TMQ_POL_DROP : Fld := ⟨0x30034, 0x1000000, 31, 0, 0x0#32⟩
/-- TMQ.POL_IDX.P. -/
@[reducible] def TMQ_POL_IDX_P : Fld := ⟨0x30020, 0x0, 9, 0, 0x0#32⟩
/-- TMQ.POL_PASS.COUNT. -/
@[reducible] def TMQ_POL_PASS : Fld := ⟨0x30030, 0x1000000, 31, 0, 0x0#32⟩
/-- TMQ.POL_RES.INDEX. -/
@[reducible] def TMQ_POL_RES_INDEX : Fld := ⟨0x3004C, 0x0, 9, 0, 0x0#32⟩
/-- TMQ.POL_RES.RESULT. -/
@[reducible] def TMQ_POL_RES_RESULT : Fld := ⟨0x3004C, 0x0, 12, 10, 0x0#32⟩
/-- TMQ.SHP_CFG.MODE. -/
@[reducible] def TMQ_SHP_CFG_MODE : Fld := ⟨0x30014, 0x1000000, 21, 20, 0x0#32⟩
/-- TMQ.SHP_CFG.RATE. -/
@[reducible] def TMQ_SHP_CFG_RATE : Fld := ⟨0x30014, 0x1000000, 19, 0, 0x0#32⟩
/-- TMQ.SHP_CRED.C. -/
@[reducible] def TMQ_SHP_CRED_C : Fld := ⟨0x3001C, 0x1000000, 31, 0, 0x0#32⟩
/-- TMQ.SHP_GUST.GUST. -/
@[reducible] def TMQ_SHP_GUST_GUST : Fld := ⟨0x30018, 0x1000000, 15, 0, 0x0#32⟩
/-- TMQ.SHP_IDX.Q. -/
@[reducible] def TMQ_SHP_IDX_Q : Fld := ⟨0x30010, 0x0, 7, 0, 0x0#32⟩
/-- TWN.CFG.HOLDOFF. -/
@[reducible] def TWN_CFG_HOLDOFF : Fld := ⟨0xF0000, 0x0, 17, 2, 0xC80960#32⟩
/-- TWN.CFG.PREF. -/
@[reducible] def TWN_CFG_PREF : Fld := ⟨0xF0000, 0x0, 1, 1, 0xC80960#32⟩
/-- TWN.CFG.TWIN. -/
@[reducible] def TWN_CFG_TWIN : Fld := ⟨0xF0000, 0x0, 0, 0, 0xC80960#32⟩
/-- TWN.CFG.VEERWAIT. -/
@[reducible] def TWN_CFG_VEERWAIT : Fld := ⟨0xF0000, 0x0, 27, 18, 0xC80960#32⟩
/-- TWN.CNT_DIVERGE.COUNT. -/
@[reducible] def TWN_CNT_DIVERGE : Fld := ⟨0xF004C, 0x0, 31, 0, 0x0#32⟩
/-- TWN.CNT_MISM.COUNT. -/
@[reducible] def TWN_CNT_MISM : Fld := ⟨0xF0048, 0x0, 31, 0, 0x0#32⟩
/-- TWN.CNT_REDO.COUNT. -/
@[reducible] def TWN_CNT_REDO : Fld := ⟨0xF0054, 0x0, 31, 0, 0x0#32⟩
/-- TWN.CNT_TBAD.COUNT. -/
@[reducible] def TWN_CNT_TBAD : Fld := ⟨0xF0050, 0x0, 31, 0, 0x0#32⟩
/-- TWN.CNT_TKO.COUNT. -/
@[reducible] def TWN_CNT_TKO : Fld := ⟨0xF0040, 0x0, 31, 0, 0x0#32⟩
/-- TWN.CNT_VEER.COUNT. -/
@[reducible] def TWN_CNT_VEER : Fld := ⟨0xF0044, 0x0, 31, 0, 0x0#32⟩
/-- TWN.CRD.TC. -/
@[reducible] def TWN_CRD_TC : Fld := ⟨0xF0028, 0x0, 31, 0, 0x0#32⟩
/-- TWN.CTL.NOREVERT. -/
@[reducible] def TWN_CTL_NOREVERT : Fld := ⟨0xF0008, 0x0, 2, 2, 0x0#32⟩
/-- TWN.CTL.VEER. -/
@[reducible] def TWN_CTL_VEER : Fld := ⟨0xF0008, 0x0, 0, 0, 0x0#32⟩
/-- TWN.LAST.CAUSE. -/
@[reducible] def TWN_LAST_CAUSE : Fld := ⟨0xF0010, 0x0, 3, 0, 0x0#32⟩
/-- TWN.LAST.GAP. -/
@[reducible] def TWN_LAST_GAP : Fld := ⟨0xF0010, 0x0, 15, 8, 0x0#32⟩
/-- TWN.LAST_NS.VAL. -/
@[reducible] def TWN_LAST_NS_VAL : Fld := ⟨0xF0014, 0x0, 31, 0, 0x0#32⟩
/-- TWN.LAST_SEC.VAL. -/
@[reducible] def TWN_LAST_SEC_VAL : Fld := ⟨0xF0018, 0x0, 31, 0, 0x0#32⟩
/-- TWN.LAST.UNSYNC. -/
@[reducible] def TWN_LAST_UNSYNC : Fld := ⟨0xF0010, 0x0, 4, 4, 0x0#32⟩
/-- TWN.PIO_RST0.ENG. -/
@[reducible] def TWN_PIO_RST0_ENG : Fld := ⟨0xF0020, 0x0, 31, 0, 0x0#32⟩
/-- TWN.PIO_RST1.ENG. -/
@[reducible] def TWN_PIO_RST1_ENG : Fld := ⟨0xF0024, 0x0, 31, 0, 0x0#32⟩
/-- TWN.REVT.LEFT. -/
@[reducible] def TWN_REVT_LEFT : Fld := ⟨0xF002C, 0x0, 15, 0, 0x0#32⟩
/-- TWN.STAT.ACTI. -/
@[reducible] def TWN_STAT_ACTI : Fld := ⟨0xF0004, 0x0, 8, 8, 0x0#32⟩
/-- TWN.STAT.FAILI. -/
@[reducible] def TWN_STAT_FAILI : Fld := ⟨0xF0004, 0x0, 7, 7, 0x0#32⟩
/-- TWN.STAT.HEALTHY. -/
@[reducible] def TWN_STAT_HEALTHY : Fld := ⟨0xF0004, 0x0, 5, 5, 0x0#32⟩
/-- TWN.STAT.PAIRINC. -/
@[reducible] def TWN_STAT_PAIRINC : Fld := ⟨0xF0004, 0x0, 31, 16, 0x0#32⟩
/-- TWN.STAT.PROLE. -/
@[reducible] def TWN_STAT_PROLE : Fld := ⟨0xF0004, 0x0, 3, 2, 0x0#32⟩
/-- TWN.STAT.ROLE. -/
@[reducible] def TWN_STAT_ROLE : Fld := ⟨0xF0004, 0x0, 1, 0, 0x0#32⟩
/-- TWN.STAT.SYNC. -/
@[reducible] def TWN_STAT_SYNC : Fld := ⟨0xF0004, 0x0, 4, 4, 0x0#32⟩
/-- TWN.STAT.TUP. -/
@[reducible] def TWN_STAT_TUP : Fld := ⟨0xF0004, 0x0, 6, 6, 0x0#32⟩
/-- TWN.VSTAT.PEND. -/
@[reducible] def TWN_VSTAT_PEND : Fld := ⟨0xF000C, 0x0, 0, 0, 0x0#32⟩
/-- TWN.VSTAT.RESULT. -/
@[reducible] def TWN_VSTAT_RESULT : Fld := ⟨0xF000C, 0x0, 3, 1, 0x0#32⟩
/-- UPnn_AADA.OFF. -/
@[reducible] def UPnn_AADA : Fld := ⟨0xE103C, 0x100, 31, 0, 0x0#32⟩
/-- UPnn_AADLEN.BYTES. -/
@[reducible] def UPnn_AADLEN_BYTES : Fld := ⟨0xE1048, 0x100, 23, 0, 0x0#32⟩
/-- UPnn_CFG.DOMAIN. -/
@[reducible] def UPnn_CFG_DOMAIN : Fld := ⟨0xE1000, 0x100, 9, 2, 0x0#32⟩
/-- UPnn_CFG.RUNTIME. -/
@[reducible] def UPnn_CFG_RUNTIME : Fld := ⟨0xE1000, 0x100, 1, 1, 0x0#32⟩
/-- UPnn_CFG.SLOTBASE. -/
@[reducible] def UPnn_CFG_SLOTBASE : Fld := ⟨0xE1000, 0x100, 17, 10, 0x0#32⟩
/-- UPnn_CFG.SLOTCNT. -/
@[reducible] def UPnn_CFG_SLOTCNT : Fld := ⟨0xE1000, 0x100, 22, 18, 0x0#32⟩
/-- UPnn_CFG.VALID. -/
@[reducible] def UPnn_CFG_VALID : Fld := ⟨0xE1000, 0x100, 0, 0, 0x0#32⟩
/-- UPnn_CTX.DATA. -/
@[reducible] def UPnn_CTX : Fld := ⟨0xE1080, 0x4, 31, 0, 0x0#32⟩
/-- UPnn_CTXCTL.OP. -/
@[reducible] def UPnn_CTXCTL_OP : Fld := ⟨0xE1060, 0x100, 1, 0, 0x0#32⟩
/-- UPnn_CTXCTL.RESULT. -/
@[reducible] def UPnn_CTXCTL_RESULT : Fld := ⟨0xE1060, 0x100, 6, 4, 0x0#32⟩
/-- UPnn_DST.OFF. -/
@[reducible] def UPnn_DST : Fld := ⟨0xE1038, 0x100, 31, 0, 0x0#32⟩
/-- UPnn_GO.GO. -/
@[reducible] def UPnn_GO_GO : Fld := ⟨0xE1058, 0x100, 0, 0, 0x0#32⟩
/-- UPnn_IV.IV. -/
@[reducible] def UPnn_IV : Fld := ⟨0xE104C, 0x4, 31, 0, 0x0#32⟩
/-- UPnn_JSTAT.CHAIN. -/
@[reducible] def UPnn_JSTAT_CHAIN : Fld := ⟨0xE105C, 0x100, 6, 6, 0x0#32⟩
/-- UPnn_JSTAT.DONE. -/
@[reducible] def UPnn_JSTAT_DONE : Fld := ⟨0xE105C, 0x100, 31, 8, 0x0#32⟩
/-- UPnn_JSTAT.QLVL. -/
@[reducible] def UPnn_JSTAT_QLVL : Fld := ⟨0xE105C, 0x100, 5, 3, 0x0#32⟩
/-- UPnn_JSTAT.RESULT. -/
@[reducible] def UPnn_JSTAT_RESULT : Fld := ⟨0xE105C, 0x100, 2, 0, 0x0#32⟩
/-- UPnn_KDCTX.CTX. -/
@[reducible] def UPnn_KDCTX : Fld := ⟨0xE1010, 0x4, 31, 0, 0x0#32⟩
/-- UPnn_KD.OP. -/
@[reducible] def UPnn_KD_OP : Fld := ⟨0xE1008, 0x100, 1, 0, 0x0#32⟩
/-- UPnn_LEN.BYTES. -/
@[reducible] def UPnn_LEN_BYTES : Fld := ⟨0xE1044, 0x100, 23, 0, 0x0#32⟩
/-- UPnn_MODE.FINAL. -/
@[reducible] def UPnn_MODE_FINAL : Fld := ⟨0xE1030, 0x100, 4, 4, 0x218#32⟩
/-- UPnn_MODE.INIT. -/
@[reducible] def UPnn_MODE_INIT : Fld := ⟨0xE1030, 0x100, 3, 3, 0x218#32⟩
/-- UPnn_MODE.MODE. -/
@[reducible] def UPnn_MODE_MODE : Fld := ⟨0xE1030, 0x100, 2, 0, 0x218#32⟩
/-- UPnn_MODE.SLOT. -/
@[reducible] def UPnn_MODE_SLOT : Fld := ⟨0xE1030, 0x100, 23, 16, 0x218#32⟩
/-- UPnn_MODE.TLEN. -/
@[reducible] def UPnn_MODE_TLEN : Fld := ⟨0xE1030, 0x100, 9, 5, 0x218#32⟩
/-- UPnn_OWNER.ALLOCS. -/
@[reducible] def UPnn_OWNER_ALLOCS : Fld := ⟨0xE1004, 0x100, 31, 16, 0x0#32⟩
/-- UPnn_OWNER.HUB. -/
@[reducible] def UPnn_OWNER_HUB : Fld := ⟨0xE1004, 0x100, 7, 0, 0x0#32⟩
/-- UPnn_OWNER.INIT. -/
@[reducible] def UPnn_OWNER_INIT : Fld := ⟨0xE1004, 0x100, 15, 8, 0x0#32⟩
/-- UPnn_SRC.OFF. -/
@[reducible] def UPnn_SRC : Fld := ⟨0xE1034, 0x100, 31, 0, 0x0#32⟩
/-- UPnn_TAGA.OFF. -/
@[reducible] def UPnn_TAGA : Fld := ⟨0xE1040, 0x100, 31, 0, 0x0#32⟩

end Sys2Proof.Machine.F
end

