-- ==== Sys2Proof/Machine/StateA.lean ====
section
/-! DEFINITION. The state of the transaction layer, the ring lanes, the switch core and the traffic manager. What a
register shows is held in the register file (`State.regs`); the structures hold what no register shows. -/
namespace Sys2Proof.Machine

/-- An open non-posted transaction of this hub's initiators (R46), or of a host behind this gateway (R47). -/
structure OpenTx where
  req : Frame
  hostTag : Option Nat := none
  since : Nat := 0
  deriving DecidableEq, Repr

/-- The transaction layer: identifiers, logs and notices (chapter 02). Keys of `opened` and `reserved` (with the
time of the timeout) are initiator × 1024 + tag. -/
structure HubSt where
  opened : Map OpenTx := []
  reserved : Map Nat := []
  posted : Map Nat := []
  waiting : List Frame := []
  vlog : List LogEntry := []
  plog : List LogEntry := []
  vseq : Nat := 0
  pseq : Nat := 0
  notices : List Nat := []
  unkSrcSecond : Option Nat := none
  deriving DecidableEq, Repr

/-- One ring lane (R81 to R83, R110 to R118). Lists of four are indexed by the lossless class. -/
structure LaneSt where
  /-- A TC0 frame is being sent between SUSP and RESM (R82). -/
  txSusp : Bool := false
  /-- Ring control frames of this hub that have not gone out on the lane yet, oldest first (R96, R119). -/
  ctlq : List Frame := []
  rxCur : Option Nat := none
  rxParked : Option Nat := none
  climit : List Nat := [0, 0, 0, 0]
  used : List Nat := [0, 0, 0, 0]
  grant : List Nat := [0, 0, 0, 0]
  lastCrd : List Nat := [0, 0, 0, 0]
  crdSent : List Bool := [false, false, false, false]
  crdRcvd : List Bool := [false, false, false, false]
  nbrState : Nat := 0
  lid : Option Nat := none
  linc : Option Nat := none
  keyed : Bool := false
  /-- The lane is to serve the full probation (R117). -/
  fullProbe : Bool := false
  probeWindows : Nat := 0
  probePassed : Bool := false
  badRun : Nat := 0
  wCrc : Nat := 0
  wTag : Nat := 0
  wHopm : Nat := 0
  outTimes : List Nat := []
  /-- Departures of the latest HOPM frames (R341): the stamp and the time base. -/
  hopmSent : List (Nat × Nat) := []
  /-- Departure stamp of the latest HOPM received, and its arrival stamp. -/
  hopmPeer : Option (Nat × Nat) := none
  /-- The filtered delay has been seeded since TRAIN (R342); samples in a row that differed by more than 1 µs. -/
  dfSeeded : Bool := false
  dfOut : Nat := 0
  /-- The class of the next fill word, and since when the egress has filled (R148). -/
  fillNext : Nat := 0
  fillSince : Option Nat := none
  deriving DecidableEq, Repr

/-- A frame in reception on a ring lane, or waiting for its verdict (R94, R145). -/
structure RxFrame where
  lane : Lane
  fr : Frame
  deliver : Bool
  forward : Bool
  /-- A returning MASTER beacon that RNG takes as it strips it (R120). -/
  returning : Bool := false
  blockBad : Bool := false
  /-- The frame was offered to the switch core at its head. -/
  offered : Bool := false
  /-- Capture was enabled at the head, and the fabric time of the head in ns (R167). -/
  capOn : Bool := false
  headNs : Nat := 0
  deriving DecidableEq, Repr

/-- Receive state of a stream (R103). `held` maps a sequence number to the frame handle. -/
structure Stream where
  inc : Nat
  next : Nat
  held : Map Nat := []
  timer : Bool := false
  deriving DecidableEq, Repr

/-- An admitted hub (Table 03-19, MEMB). -/
structure Member where
  hub : Nat
  twin : Bool
  inc : Nat
  dcv : Nat
  deriving DecidableEq, Repr

/-- The ring block (chapter 03). -/
structure RngSt where
  laneE : LaneSt := {}
  laneW : LaneSt := {}
  /-- Lane T (R444), which has no cipher; the words of its state stand at instance 4 of the lanes' layout, where no
  register is. -/
  laneT : LaneSt := { keyed := true }
  rx : Map RxFrame := []
  nextHandle : Nat := 1
  streams : Map Stream := []
  /-- Next sequence number of each stream this hub originates. -/
  origin : Map Nat := []
  members : List Member := []
  /-- When each requesting identity was first heard (R108): the ADMREQ payload and the time. -/
  requests : List (List Byte × Nat) := []
  /-- Requests that passed the checks and wait for ADMIT_SEND. -/
  admitting : List (List Byte) := []
  heard : Map Nat := []
  candidate : Bool := false
  lastBetter : Nat := 0
  noHub : Bool := true
  refusedLogged : List Nat := []
  insertReq : Bool := false
  leaving : Bool := false
  settling : Bool := false
  heartbeat : Bool := false
  beaconSeen : Option Nat := none
  /-- At a master: a worse master whose beacon it has heard (R123). -/
  rival : Option Nat := none
  /-- When this hub was admitted (R516). -/
  admAt : Nat := 0
  deriving DecidableEq, Repr

/-- The three verdict marks (R145). -/
inductive Verdict where
  | pending | good | bad
  deriving DecidableEq, Repr

/-- The pool that a frame's cells are charged to (R134). -/
inductive Pool where
  | lossless (port tc : Nat)
  | shared
  deriving DecidableEq, Repr

/-- A frame in the cell buffer (R134, R141, R145). `cells` lists the cell numbers written so far. -/
structure Buf where
  port : Nat
  fr : Frame
  pool : Pool
  verdict : Verdict
  cells : List Nat := []
  resv : Nat := 0
  /-- Queues that still have to deliver the frame. -/
  links : List Nat := []
  /-- A ring frame for this hub whose delivery RNG has not decided yet (R141). -/
  undecided : Bool := false
  /-- Lossless local queues that wait for room (R143), all or nothing (R157). -/
  waitLinks : List Nat := []
  aonWait : Bool := false
  transit : Bool := false
  poisoned : Bool := false
  headTime : Nat := 0
  /-- Queues of copies that were refused at the head (R135, R136), and whether capture was enabled then (R167). -/
  denied : List Nat := []
  capOn : Bool := false
  deriving DecidableEq, Repr

/-- A hardware queue (R140, R173): transit frames and local frames, oldest first, by handle. -/
structure QSt where
  transit : List Nat := []
  loc : List Nat := []
  deriving DecidableEq, Repr

/-- A copy that an output is sending: its frame, queue and next cell (R152). -/
structure Sending where
  handle : Nat
  queue : Nat
  next : Nat
  cut : Bool := false
  deriving DecidableEq, Repr

/-- A queue head that an output may take a cell from: its queue, frame, rank, input, FIFO path and cell. -/
structure Cand where
  q : Nat
  h : Nat
  rank : Nat
  inp : Nat
  path : Nat
  idx : Nat
  deriving DecidableEq, Repr

/-- A word of a packer's store (R160): its bytes, and whether it ends a packet. -/
structure PkWord where
  data : List Byte
  last : Bool
  deriving DecidableEq, Repr

/-- A packer (R158 to R165). `cur` is the word being filled, `count` the bytes of the packet so far and `pad` the zero
bytes that still close it. `offered` says that SW6 holds an offer of a packet that has not reached its head; `cut` is
the handle of a frame that entered cut-through and is incomplete, and the payload bytes that it has received. -/
structure Packer where
  store : List PkWord := []
  cur : List Byte := []
  count : Nat := 0
  pad : Nat := 0
  wptr : Nat := 0
  rptr : Nat := 0
  offered : Bool := false
  cut : Option (Nat × Nat) := none
  deriving DecidableEq, Repr

/-- A frame offered to the switch core at an ingress port, with its handle on a ring lane. -/
structure Offer where
  port : Nat
  handle : Nat := 0
  fr : Frame
  deliver : Bool := true
  forward : Bool := false
  /-- The packer whose packet the frame carries. -/
  packer : Option Nat := none
  deriving DecidableEq, Repr

/-- A sampled frame that waits for its verdict (R166): port, handle, frame, head time. -/
structure Sample where
  port : Nat
  handle : Nat
  fr : Frame
  time : Nat
  verdict : Verdict
  deriving DecidableEq, Repr

/-- The switch core (chapter 04). Lists of twelve are indexed by port; an output's TC0 FIFO is number 12 + port. [DESIGN CHOICE 10 unsafe] -/
structure SwcSt where
  ready : Bool := false
  offers : List Offer := []
  bufs : Map Buf := []
  queues : Map QSt := []
  cellOwner : Map Nat := []
  slot : Nat := 0
  grantPtr : List Nat := List.replicate 12 0
  acceptPtr : List Nat := List.replicate 12 0
  reqPtr : List Nat := List.replicate 12 0
  sending : Map Sending := []
  fifo : Map (List (Nat × Nat)) := []
  nextIn : List Nat := List.replicate 12 0
  nextOut : List Nat := List.replicate 12 0
  /-- Inputs and outputs (12 + port) that wait in the next slot for a bank, and the matches, by output, whose cells are read then
  (R153). -/
  deferred : List Nat := []
  late : List (Nat × Cand) := []
  /-- The slot at which the next cell leaves for an output's interface (R128). -/
  nextDrain : List Nat := List.replicate 12 0
  /-- Frames that wait for room in a local queue, in the order of their decisions (R141, R143). -/
  waiters : List Nat := []
  scrubAt : Nat := 0
  smpCount : Nat := 0
  samples : List Sample := []
  cap : Map (List Word) := []
  capNext : Nat := 0
  capOldest : Nat := 0
  capCount : Nat := 0
  capSeq : Nat := 0
  capPost : Option Nat := none
  packers : Map Packer := []
  /-- Cells that the lossless classes of an internal port have in use, by port × 4 + class (R134). -/
  llUsed : Map Nat := []
  deriving DecidableEq, Repr

/-- The traffic manager (chapter 05): credits in 1/256 byte; a queue or policer without an entry holds its full GUST
or BURST. -/
structure TmqSt where
  shp : Map Int := []
  pol : Map Nat := []
  runtime : Map Unit := []
  /-- Words of shapers and policers as they were before a change that no tick has put in force yet (R182). -/
  held : Map Word := []
  /-- What the latest cell slot charged, by queue, and when (R176). -/
  charged : Map Nat := []
  chargedAt : Nat := 0
  /-- The number P of policers that the base image defines (R181). -/
  imagePolicers : Nat := 0
  deriving DecidableEq, Repr

/-- A host port's IEEE 1588 measurement (R351, R354). Times and delays are in 2^-16 ns. -/
structure PtpPort where
  /-- Announce messages arrive within the receipt timeout (R350), and when the latest one came. -/
  annOk : Bool := false
  annAt : Nat := 0
  /-- When the port last sent a TGMR, a Sync and an Announce (R351, R354). -/
  tgmrSent : Option Nat := none
  syncSent : Option Nat := none
  annSent : Option Nat := none
  delay : Int := 0
  /-- t2 − t1 of the latest complete Sync, less its correction. -/
  fwd : Option Int := none
  /-- A two-step Sync that waits for its Follow_Up: sequence, t2 and correction. -/
  wait : Option (Nat × Nat × Int) := none
  /-- A two-step Pdelay_Resp that waits for its Follow_Up: sequence, t4 − t1 and t2. -/
  pwait : Option (Nat × Int × Nat) := none
  /-- ogm measured and not sent yet. -/
  ogm : Option Int := none
  cls : Nat := 0xF8
  steps : Nat := 0
  utc : Nat := 0
  ident : Nat := 0
  deriving DecidableEq, Repr

/-- Fabric time and its servo (chapter 11). `n` is the counter N in units of 2^-32 ns (R336). [DESIGN CHOICE 10 unsafe] -/
structure TimSt where
  n : Nat := 0
  /-- Filtered link delays in 2^-16 ns, by switch port (R342). -/
  df : List Int := [0, 0, 0, 0, 0]
  /-- When N was last stepped (R348), on the model's time base. -/
  steppedAt : Option Nat := none
  /-- Trim in 2^-32 ns per tick and its accumulator in ns (R349). -/
  trim : Int := 0
  acc : Int := 0
  /-- Consecutive offsets in ACQ, and the TSE they carried (R347). -/
  win : List Int := []
  winTse : Nat := 0
  /-- Consecutive syncs within LOCKTHR, and beyond UNLOCKTHR. -/
  good : Nat := 0
  bad : Nat := 0
  /-- HOPS of the latest usable copy on rings A and B (R346). -/
  seen : List (Option Nat) := [none, none]
  /-- When the latest usable copy on rings A and B came, and when this master last sent a TSYNC (R343). -/
  copyAt : List (Option Nat) := [none, none]
  syncAt : Option Nat := none
  /-- Sync intervals already counted as missed since the latest usable copy. -/
  missed : Nat := 0
  /-- Consecutive ogm values at the master, and whether it may still step to a grandmaster (R352). -/
  gmWin : List Int := []
  gmStepOk : Bool := true
  /-- TGMR frames of inputs A and B reach this master at least once per second (R350), when the latest ones came, and the
  grandmasterIdentity of the valid input. -/
  tgmrOk : List Bool := [false, false]
  tgmrAt : List Nat := [0, 0]
  gmIdent : Nat := 0
  /-- When a TSYNC of another master with GM 1 last arrived (R347). -/
  otherGm : Option Nat := none
  /-- A step or a lock change since the latest sweep of the reflex engine (R375). -/
  realign : Bool := false
  ptp0 : PtpPort := {}
  ptp1 : PtpPort := {}
  deriving DecidableEq, Repr

/-- The states of a key slot (R411). -/
inductive KState where
  | empty | deriving_ | ready
  deriving DecidableEq, Repr

/-- A key slot (R411, R412): `dev` says that its key comes from the root DEV. -/
structure KeySlot where
  st : KState := .empty
  gen : Nat := 0
  dev : Bool := false
  key : List Byte := []
  deriving DecidableEq, Repr

/-- A look-aside job (R421): the job registers as they stood at GO, the generation captured, the GO, and an ABORT that has
won. Ranges are byte offsets of space 0x4. -/
structure Job where
  page : Nat
  mode : Nat
  init : Bool
  final : Bool
  tlen : Nat
  slot : Nat
  src : Nat
  dst : Nat
  aada : Nat
  taga : Nat
  len : Nat
  aadlen : Nat
  iv : List Byte
  gen : Nat
  req : Frame
  abort : Option Frame := none
  deriving DecidableEq, Repr

/-- The chaining state of a page (R429). -/
structure Chain where
  mode : Nat
  slot : Nat
  gen : Nat
  acc : BitVec 128
  ctr : BitVec 128
  aadBits : Nat
  textBits : Nat
  deriving DecidableEq, Repr

/-- A user page that is defined or allocated (R430): owner, page key and wrap counter, chaining state and job queue. -/
structure Page where
  hub : Nat
  init : Nat
  runtime : Bool := false
  key : List Byte := []
  wraps : Nat := 0
  chain : Option Chain := none
  queue : List Job := []
  deriving DecidableEq, Repr

/-- The one-time-programmable fuses (Table 14-8). Lists of four are indexed by the image key. [DESIGN CHOICE 11 unsafe] -/
structure Fuses where
  fleet : Option (List Byte) := none
  imgkey : List (Option (List Byte)) := [none, none, none, none]
  imgrev : List Bool := [false, false, false, false]
  jkrev : Bool := false
  deriving DecidableEq, Repr

/-- Link keys, key slots and the look-aside engine (chapter 14). Link histories are numbered lane × 2, plus 1 on the
transmit side; `linkCur` is the position of the current context in its history, `lastMove` the time of a lane's latest
epoch move, and `rotate` lists the lanes for which a move is requested. -/
structure CrySt where
  hist : Map (List LinkCtx) := []
  linkCur : Map Nat := []
  slots : Map KeySlot := []
  /-- The fleet root in fuses, as loaded at the last reset that reloads them (R410). -/
  fleet : Option (List Byte) := none
  lastMove : Map Nat := []
  rotate : List Nat := []
  pages : Map Page := []
  /-- Allocations of each page so far (R432). -/
  allocs : Map Nat := []
  /-- The running job and the key that it copied; the page that ran last. -/
  running : Option (Job × List Byte) := none
  rotor : Nat := 0
  squall : Bool := false
  fuse : Fuses := {}
  /-- The fuse command in progress: OP and K. -/
  fuseCmd : Option (Nat × Nat) := none
  deriving DecidableEq, Repr

/-- A region of the permission table (R52): bits of `r`, `w` and `a` by class code. -/
structure Region where
  space : Nat
  base : Nat
  size : Nat
  r : Nat
  w : Nat
  a : Nat
  pf : Bool
  se : Bool
  deriving DecidableEq, Repr

/-- An entry of the host table (R45): port 0 or 1, MAC address and initiator ID. -/
structure HostEntry where
  port : Nat
  mac : Nat
  init : Nat
  deriving DecidableEq, Repr

/-- An entry of the host access table (R54): rights R, W, A in bits 0 to 2, first and last address. -/
structure AccessEntry where
  init : Nat
  rights : Nat
  first : Nat
  last : Nat
  deriving DecidableEq, Repr

/-- An error sink (R62): kind 0 default, 1 Mirik of a hub, 2 host of a gateway. -/
structure SinkEntry where
  init : Nat
  kind : Nat
  hub : Nat
  host : Nat
  deriving DecidableEq, Repr

/-- A bulk buffer (R214): number, base and size in bytes of space 0x4. -/
structure BulkBuf where
  buf : Nat
  base : Nat
  size : Nat
  deriving DecidableEq, Repr

/-- A mode (R396): number, overlay slot (0xFF for base values only), whether it may be a startup mode, and whether it is a
maintenance mode (R511). -/
structure ModeEntry where
  num : Nat
  ovl : Nat
  startup : Bool
  maint : Bool
  deriving DecidableEq, Repr

/-- A schedule entry (R391): kind, argument, period and offset in s. -/
structure SchedEntry where
  kind : Nat
  arg : Nat
  period : Nat
  offset : Nat
  deriving DecidableEq, Repr

/-- The instant of a mode change (Table 13-9): fabric time in ns, or an owner hub, its reference and a phase value. -/
inductive When where
  | time (ns : Nat)
  | phase (hub ref x : Nat)
  deriving DecidableEq, Repr

/-- A mode change armed at this hub (R401): `ph` is the local reference of a phase instant, `est` the recorded estimate of its
time and half of Test (R403), `asked` is the master that MODEQRY went to (R404). -/
structure Arm where
  opid : Nat
  mode : Nat
  at_ : When
  ph : Nat := 0
  go : Bool := false
  est : Option Nat := none
  asked : Option Nat := none
  deriving DecidableEq, Repr

/-- A mode change that the master runs (R400, R401): the answers are hub, standby and reason (0 for ARMED). -/
structure ModeChange where
  opid : Nat
  mode : Nat
  at_ : When
  reqHub : Nat
  deadline : Nat
  acks : List (Nat × Bool × Nat) := []
  deriving DecidableEq, Repr

/-- The tables of the loaded image that no register shows, and the machinery of loads, modes and settings (chapter 13). -/
structure ImgSt where
  loaded : Bool := false
  /-- Register words of the base image alone (R395). -/
  baseRegs : Map Word := []
  modes : List ModeEntry := []
  schedBase : Map SchedEntry := []
  sched : Map SchedEntry := []
  setlist : List (Nat × Nat) := []
  arm : Option Arm := none
  change : Option ModeChange := none
  opCount : Nat := 0
  /-- At the master: the latest resolved change and whether it was MODEGO (R404). -/
  resolved : Option (Nat × Bool) := none
  /-- When this hub sent its latest MODESTAT (R399). -/
  statAt : Option Nat := none
  /-- When the image was loaded (R516), and the second in which each schedule entry last acted (R391). -/
  loadedAt : Nat := 0
  schedDone : Map Nat := []
  /-- The staged set passed VERIFY since the last write into space 0x7 (R397). -/
  verified : Bool := false
  /-- The staging command in progress: OP and OVK. -/
  running : Option (Nat × Nat) := none
  /-- The settings store in progress: the area and the record (R406). -/
  storing : Option (Nat × List Byte) := none
  /-- SHA-384 of the loaded base image. -/
  hash : List Byte := []
  fabid : Nat := 0
  regions : List Region := []
  hosts : List HostEntry := []
  access : List AccessEntry := []
  sinks : List SinkEntry := []
  bulk : List BulkBuf := []
  /-- Owners of the image's user pages (R430): hub and initiator, from page 0 on. -/
  pages : List (Nat × Nat) := []
  /-- Key labels (R414): slot, root (true for DEV) and context. -/
  keylbl : List (Nat × Bool × List Byte) := []
  deriving DecidableEq, Repr

end Sys2Proof.Machine
end

