-- ==== Sys2Proof/Machine/StateB.lean ====
section
/-! DEFINITION. The state of the endpoint objects and of the records on their way to the historian (chapters 06, 19). -/
namespace Sys2Proof.Machine

/-- A historian record without its sequence number (Tables 19-2, 19-3). `data` is the 8-byte DATA field. -/
structure HistRec where
  kind : Nat
  flags : Nat := 0
  src : Nat := 0
  aux : Nat := 0
  sec : Nat := 0
  ns : Nat := 0
  rseq : Nat := 0
  index : Nat := 0
  seq2 : Nat := 0
  aux2 : Nat := 0
  data : Nat := 0
  deriving DecidableEq, Repr

/-- An endpoint object (R183) with its descriptor (R190). `value` is the effective value; `req` is the requested value
while a reflex output holds the object (R195); `pub` is the published value, QUAL and time (R199). -/
structure Obj where
  type : Nat
  signed : Bool := false
  hist : Bool := false
  kind : Nat := 0
  index : Nat := 0
  prule : Nat := 0
  init : Nat := 0
  value : Nat := 0
  sec : Nat := 0
  ns : Nat := 0
  qual : Nat := 1
  cseq : Nat := 0
  req : Option Nat := none
  pub : Option (Nat × Nat × Nat) := none
  deferred : Bool := false
  /-- When its latest source update came, or the image was loaded, and when its period timer started (R185, R199), on the model's time
  base. -/
  upAt : Nat := 0
  perAt : Nat := 0
  deriving DecidableEq, Repr

/-- What a source or a sink reports of its object (R185). -/
inductive Report where
  | value (v : Nat) (lost : Bool)
  | fail
  | sinkOk
  deriving DecidableEq, Repr

/-- An update on its way to EPO (R192): the object, the report and the sample time (R186). -/
structure Update where
  obj : Nat
  rep : Report
  sec : Nat
  ns : Nat
  deriving DecidableEq, Repr

/-- What RFX sends EPO (Table 06-5): an update of a bound object, or a hold change with the held value. -/
inductive RfxItem where
  | update (u : Update)
  | hold (obj : Nat) (v : Option Nat)
  deriving DecidableEq, Repr

/-- A change handed to a sink (R191): the object, its binding and its effective value. -/
structure Handed where
  obj : Nat
  kind : Nat
  index : Nat
  value : Nat
  deriving DecidableEq, Repr

/-- A subscription (R206): `pending` has an entry for each pending bit (R201). -/
structure Sub where
  first : Nat
  count : Nat
  tc : Nat
  toHost : Bool
  dest : Nat
  hostId : Nat := 0
  pending : Map Unit := []
  /-- When its first pending bit was set, and whether its batch timer has ended (R202). -/
  since : Nat := 0
  timerDone : Bool := false
  deriving DecidableEq, Repr

/-- The instant of a snapshot (R209): fabric time in ns, or a phase reference and value. -/
inductive Instant where
  | time (ns : Nat)
  | phase (ph x : Nat)
  deriving DecidableEq, Repr

/-- A snapshot slot in use (R209): its set, destination and instant; `copied` says that the set was copied and its frames are on their way
into SW5. -/
structure Snap where
  objs : List Nat
  tc : Nat
  toHost : Bool
  dest : Nat
  hostId : Nat
  instant : Instant
  id : Nat
  copied : Bool := false
  deriving DecidableEq, Repr

/-- A bulk copy that EPO holds (R215). -/
structure Copy where
  req : Frame
  src : Nat
  len : Nat
  dst : Nat
  tc : Nat
  sent : Nat := 0
  deriving DecidableEq, Repr

/-- A ring-wide snapshot that the master has not resolved (R505): the SNAPREQ, the time of SNAPARM and the answers. -/
structure RingSnap where
  req : Frame
  id : Nat
  since : Nat := 0
  answers : List (Nat × Nat) := []
  deriving DecidableEq, Repr

/-- The object engine (chapter 06). -/
structure EpoSt where
  objs : Map Obj := []
  /-- Updates from the binder aggregate and items from RFX that EPO has not performed. The first 64 and the first 32 are on the credit links
  of Table 06-5; the others wait at their senders for credit (R26, R192). -/
  binder : List Update := []
  rfx : List RfxItem := []
  /-- Changes handed to sinks that have not acted yet (R191); of those for CAN the first 8 are on its credit link (R301). -/
  handed : List Handed := []
  subs : Map Sub := []
  /-- The subscription visited last (R202). -/
  rotor : Nat := 0
  snaps : Map Snap := []
  copies : List Copy := []
  scrubAt : Nat := 0
  /-- Snapshot lists of the image (R209). -/
  lists : Map (List Nat) := []
  ringSnap : Option RingSnap := none
  deriving DecidableEq, Repr

/-- A command lock that is held (R216): holder and time of the grant. -/
structure LockSt where
  hub : Nat
  init : Nat
  since : Nat
  deriving DecidableEq, Repr

end Sys2Proof.Machine
end

