-- ==== Sys2Proof/Machine/StateC.lean ====
section
/-! DEFINITION. The state of the phase references, the programmable I/O engines, the field pins and the reflex engine
(chapters 07, 08, 11 and 12). -/
namespace Sys2Proof.Machine

/-- A PHEV that waits to be sent (R361): flags, phase value and event time in ns. -/
structure PhEvent where
  rev : Bool := false
  stall : Bool := false
  jump : Bool := false
  phase : Nat
  time : Nat
  deriving DecidableEq, Repr

/-- A phase reference (R358 to R364). `phase` and `time` (ns) are the latest event or anchor; `lim` is the value that the
phase does not go beyond; `held` is the value that it does not fall behind. -/
structure PhRef where
  phase : Nat := 0
  time : Nat := 0
  test : Nat := 0
  lim : Nat := 0
  held : Option Nat := none
  stalled : Bool := false
  back : Bool := false
  /-- Events since enable, a stall or a jump. -/
  events : Nat := 0
  /-- The next period sample seeds the estimate (R360); published events in a cycle of the owner (R362); when the latest PHEV left. -/
  seed : Bool := true
  d : Nat := 1
  sentAt : Option Nat := none
  /-- Time of the latest event that the next period sample starts from. -/
  last : Option Nat := none
  /-- Cycle count, and the count within the cycle of an encoder. -/
  cycle : Nat := 0
  count : Nat := 0
  /-- Levels of pins A, B and index when the source was last seen. -/
  a : Bool := false
  b : Bool := false
  z : Bool := false
  /-- The latest sample of an object source (value and time in ns), and whether a crossing is armed. -/
  sample : Option (Int × Nat) := none
  armUp : Bool := false
  armDown : Bool := false
  seq : Option Nat := none
  pend : Option PhEvent := none
  deriving DecidableEq, Repr

/-- A timed action (R263). -/
structure Action where
  stamp : Nat
  tb : Nat
  actn : Nat
  wake : Bool
  pin : Nat
  late : Bool := false
  deriving DecidableEq, Repr

/-- The position of a cell instruction (R251, R269): cells left counting the one in progress, phase, steps left in it less
one, the cell's output bits, and whether the cell has started. -/
structure SeqPos where
  left : Nat
  phase : Nat := 0
  steps : Nat
  grp : Nat := 0
  started : Bool := false
  deriving DecidableEq, Repr

/-- A programmable I/O engine (Table 08-1): what its registers do not hold. -/
structure Engine where
  running : Bool := false
  /-- The cause of a stall: 0 UNTIL, 1 FETCH or FEED, 2 AT. -/
  stalled : Option Nat := none
  rx : List (Word × Bool) := []
  tx : List Word := []
  taq : List Action := []
  wake : Bool := false
  seq : Option SeqPos := none
  /-- The engine runs one instruction for PEnn_CTL.STEP and halts again. -/
  single : Bool := false
  deriving DecidableEq, Repr

/-- The engines (chapter 08): engines by number, the instruction memory, feed window frames that wait at the head of their queue, with
the words that have not entered the transmit queue (R260), and the sync flags that were set and cleared in the latest cycle in
which any changed, by the engine or, as 64, a register write (R255). -/
structure PioSt where
  eng : Map Engine := []
  imem : Map Word := []
  feeds : List (Nat × Frame × List Word) := []
  flagsAt : Nat := 0
  flagsSet : List (Nat × Nat) := []
  flagsClr : List (Nat × Nat) := []
  deriving DecidableEq, Repr

/-- A field pin (R220 to R233): the GPO source's value, a pulse in progress and when it started, the decision of R229 and when it
last changed, the hold latch, the reflex force, a conflict run, the level that its hardware controller puts out (none: its
idle level), when the synchronised level last changed, the fabric time in ns of the latest filtered edge, and a readback
mismatch that lasts. -/
structure Pin where
  src : Bool := false
  pulse : Bool := false
  pulseAt : Nat := 0
  drive : Option Bool := none
  driveAt : Nat := 0
  latch : Option Bool := none
  force : Option Bool := none
  conflict : Bool := false
  ctrl : Option Bool := none
  rawAt : Nat := 0
  edgeNs : Nat := 0
  mism : Bool := false
  deriving DecidableEq, Repr

/-- A VW frame that waits to be sent (R234): the stamp in ns of the first change, whether time counted as locked, and the
wires that have changed. -/
structure VwWait where
  stamp : Nat
  locked : Bool
  changed : Nat
  deriving DecidableEq, Repr

/-- The field pins and virtual wires (chapter 07). -/
structure FpnSt where
  /-- The pins have taken their functions (R219). -/
  on : Bool := false
  /-- Banks whose pins follow R229: admitted at load (R217) and with a good supply (R545). -/
  banks : List Bool := List.replicate 8 false
  /-- Banks that the check at load admitted (R217). -/
  admitted : List Bool := List.replicate 8 false
  pins : Map Pin := []
  /-- Waiting frames by block, and states to apply by slot with their instants in ns (R237). -/
  vwo : Map VwWait := []
  vwi : Map (List (Nat × Nat)) := []
  /-- When the pins took their functions, when each block last sent a frame (R236) and when each slot last received one (R239). -/
  onAt : Nat := 0
  vwoAt : Map Nat := []
  vwiAt : Map Nat := []
  deriving DecidableEq, Repr

/-- A host frame that is relayed in fragments (R447): how many, the port, and the fragments that have come. -/
structure Frag where
  count : Nat
  port : Nat
  parts : Map (List Byte) := []
  deriving DecidableEq, Repr

/-- The twin logic (chapter 15). [DESIGN CHOICE 10 unsafe] -/
structure TwnSt where
  /-- Completions that this standby performed and did not send (R455). -/
  unsent : List Frame := []
  /-- Work that the active has completed and has not reported to the standby (Table 15-1), and the stream numbers that it
  has used: destination or group, class and SEQ. -/
  done : List DoneItem := []
  orign : List (Nat × Nat × Nat) := []
  /-- Next note sequence to send, and the next one expected (R448). -/
  noteTx : Nat := 0
  noteRx : Nat := 0
  /-- When the latest gap was found, and the far-side buses that a DONE note has reported empty since. -/
  gapAt : Nat := 0
  empties : List Nat := []
  /-- SYNC and SERIAL of the partner's latest TWS (R445), when LHIST was last sent and what it held (R442). -/
  psync : Bool := false
  pserial : Nat := 0
  lhistAt : Nat := 0
  lhistSent : Map (List LinkCtx) := []
  /-- Fragments of relayed host frames by frame number: count, port and fragments; and the next frame number (R447). -/
  frags : Map Frag := []
  nextFrag : Nat := 0
  /-- Host initiators whose latest frame arrived at the partner (R449). -/
  hostAt : List Nat := []
  /-- The mirror of this twin's link histories that the partner holds (R442). -/
  mirror : Map (List LinkCtx) := []
  /-- A VEERGO has come and the buses are to go idle (R458), and when; buses that recover from a cut access, with the
  entry of a poll (R456). -/
  veering : Bool := false
  veerAt : Nat := 0
  cut : List (Nat × Option Nat) := []
  /-- At the master: the position whose veer is granted (R457). -/
  granted : Option Nat := none
  /-- When this preferred standby became healthy, for the revertive return (R460). -/
  healthySince : Option Nat := none
  /-- When the latest TWS was sent (R445), since when TWN_ACTI has been high, and since when this twin, admitted, has waited for a role
  with TWN_ACTI low (R450). -/
  twsAt : Option Nat := none
  actiAt : Option Nat := none
  waitAt : Option Nat := none
  deriving DecidableEq, Repr

end Sys2Proof.Machine
end

