-- ==== Sys2Proof/Machine/StateD.lean ====
section
/-! DEFINITION. The state of the CAN controllers and of the serial ports and bridge (chapters 09 and 10). -/
namespace Sys2Proof.Machine

/-- A CAN message object (Table 09-4) with its acceptance mask (R286). `fr` holds the identifier, the format bits, the
length code and 64 data bytes; `again` says that TXREQ was written during a transmission of the object (R298), and
`abort` that the attempt on the bus is the last (R300); `lockAt` is the time at which its lock was taken. -/
structure CanObj where
  tx : Bool
  ch : Nat
  mask : Nat := 0
  oneshot : Bool := false
  fr : CanFrame
  isNew : Bool := false
  lost : Bool := false
  lock : Option (Nat × Nat) := none
  lockAt : Nat := 0
  txreq : Bool := false
  txst : Nat := 0
  again : Bool := false
  abort : Bool := false
  sec : Nat := 0
  ns : Nat := 0
  fcnt : Nat := 0
  deriving DecidableEq, Repr

/-- A frame that waits in a channel's shadow (R294): its object, its start-of-frame time in ns, and its LOST mark. -/
structure CanShadow where
  obj : Nat
  fr : CanFrame
  sof : Nat
  lost : Bool := false
  deriving DecidableEq, Repr

/-- A CAN controller: what its registers do not hold. -/
structure CanCh where
  tec : Nat := 0
  recv : Nat := 0
  /-- A mode that was requested and is not in force yet (R277). -/
  request : Option Nat := none
  integrated : Bool := false
  /-- Recovery that a mode change stopped (R304). -/
  resume : Bool := false
  /-- The transmission on the bus: its object, its frame, and its start-of-frame time in ns. -/
  sending : Option (Nat × CanFrame × Nat) := none
  shadow : Option CanShadow := none
  /-- Detection (R283): good frames, whether the data candidate was seen, whether the round saw an edge, and the time at which the dwell of
  the candidate started. -/
  good : Nat := 0
  seen : Bool := false
  edge : Bool := false
  dwellAt : Nat := 0
  deriving DecidableEq, Repr

/-- The CAN block (chapter 09). -/
structure CanSt where
  objs : Map CanObj := []
  chans : Map CanCh := []
  deriving DecidableEq, Repr

/-- What an access of the bridge serves (R318, R324, R327, R333). -/
inductive BrgSrc where
  | fabric (f : Frame)
  | sink (entry obj : Nat) (f : Frame)
  | poll (e : Nat)
  | prefetch (k : Nat)
  deriving DecidableEq, Repr

/-- An access of the bridge (R318): window, offset and length, the data of a write, the bytes done and read so far, the
far-side transaction in progress and when it started, its repetitions, an ABORT that has won, and when its first request started.
`qseq` is its number in the bus's queue, `fcnt` the frame count of a CANRR window's answering object when the request was made. -/
structure BrgAcc where
  src : BrgSrc
  win : Nat
  off : Nat
  len : Nat
  write : Bool
  data : List Byte := []
  qseq : Nat := 0
  done : Nat := 0
  got : List Byte := []
  chunk : Nat := 0
  tries : Nat := 0
  abort : Option Frame := none
  start : Nat := 0
  at_ : Nat := 0
  fcnt : Nat := 0
  deriving DecidableEq, Repr

/-- A far-side bus: the requests that wait, the access on the bus, and the next queue number. -/
structure BrgBus where
  queue : List BrgAcc := []
  cur : Option BrgAcc := none
  nextSeq : Nat := 0
  deriving DecidableEq, Repr

/-- A prefetch buffer in use (R324): its range, the RD that caused it, its data once filled and the time of that, and the reason of a
discard that arose while its read was on the bus. -/
structure PfBuf where
  win : Nat
  off : Nat
  len : Nat
  req : Frame
  data : Option (List Byte) := none
  filled : Nat := 0
  doomed : Option Nat := none
  deriving DecidableEq, Repr

/-- A poll entry (R328): smoothed response time in 100 µs, previous response, due time and last start in ns. -/
structure PollSt where
  rt : Nat := 0
  prev : Option (List Byte) := none
  due : Nat := 0
  busy : Bool := false
  start : Nat := 0
  deriving DecidableEq, Repr

/-- The serial ports and the bridge (chapter 10). `rx` holds the receive FIFOs by port; `skip` lists the ports whose
receiver discards characters (R310); `lost` holds the headers of posted writes that a reset lost (R323); `quiet` holds the time of
the latest activity on the line of a port (R312, R313). -/
structure BrgSt where
  buses : Map BrgBus := []
  pf : Map PfBuf := []
  polls : Map PollSt := []
  dlog : List LogEntry := []
  dseq : Nat := 0
  rx : Map (List Nat) := []
  skip : List Nat := []
  lost : List Frame := []
  quiet : Map Nat := []
  deriving DecidableEq, Repr

end Sys2Proof.Machine
end

