-- ==== Sys2Proof/Machine/StateE.lean ====
section
/-! DEFINITION. The state of the reflex engine (chapter 12). -/
namespace Sys2Proof.Machine

/-- What a rule keeps between sweeps (R371): its state, the count of sweeps with a true condition (up to 256), the latest
condition, and the terms that were true. -/
structure RuleSt where
  state : Bool := false
  cnt : Nat := 0
  cond : Bool := false
  terms : Nat := 0
  deriving DecidableEq, Repr

/-- The reflex engine (chapter 12). `holds` maps each held object to the value and the rule of the latest commit; `fresh`
says that the next commit replaces every force and hold (R382). -/
structure RfxSt where
  rules : Map RuleSt := []
  clears : List Nat := []
  clearAll : Bool := false
  holds : Map (Nat × Nat) := []
  fresh : Bool := true
  alarms : List (List Word) := []
  /-- When the latest sweep and the latest periodic sweep started, the latter with N in ns (R374, R375), and the phase instant of the
  latest extra sweep (R376). -/
  startAt : Option Nat := none
  periodAt : Option (Nat × Nat) := none
  xDone : Option Nat := none
  deriving DecidableEq, Repr

end Sys2Proof.Machine
end

