-- ==== Sys2Proof/Machine/StateF.lean ====
section
/-! DEFINITION. The state of Mirik, of the clocks and resets, of the power die and of the historian (chapters 16 to 19). -/
namespace Sys2Proof.Machine

/-- A mailbox command that Mirik has accepted (R501): its code and argument bytes, its initiator, and the MBOX request that
carried it; none for one that came through the registers. -/
structure MbxCmd where
  code : Nat
  args : List Byte
  hub : Nat
  init : Nat
  req : Option Frame := none
  deriving DecidableEq, Repr

/-- A doldrums session (R520): its source, the kind (0 firmware, 1 image set), the target slot and the total length. -/
structure DldSess where
  src : DldSrc
  kind : Nat
  slot : Nat
  total : Nat
  /-- When the latest message of the session came. -/
  last : Nat := 0
  deriving DecidableEq, Repr

/-- What Mirik does once a veer that it requested has ended (R397, R511, R515). -/
inductive AfterVeer where
  | activate
  | fwActivate
  | test (num arg : Nat)
  deriving DecidableEq, Repr

/-- Mirik (chapter 18). -/
structure MgtSt where
  /-- Event-log entries waiting to be written (R509), oldest first. -/
  stage : List LogEntry := []
  /-- Samples that SW9 has sent (R166): port, head time, length, verdict and the bytes of cell 0. -/
  samples : List (Nat × Nat × Nat × Verdict × List Byte) := []
  /-- The position in the NVM area that the next event-log entry takes. -/
  evlNext : Nat := 0
  /-- The entries that the event log holds. -/
  evlCount : Nat := 0
  /-- Commands in arrival order (R501). -/
  mbox : List MbxCmd := []
  fwOpen : Bool := false
  fwVerified : Bool := false
  /-- The running self-test and the queue for the next lull (R510, R511): test and argument. -/
  test : Option (Nat × Nat) := none
  lullTests : List (Nat × Nat) := []
  veer : Option AfterVeer := none
  /-- When the pending update was activated (R517). -/
  updAt : Option Nat := none
  sess : Option DldSess := none
  /-- A DLD_RELAY that waits for the STATUS of the hub behind a lane (R520); no other command waits for it. -/
  relay : Option (MbxCmd × Lane) := none
  /-- When the lull ends (R512), and when HELLO was last sent (R519). -/
  lullEnd : Nat := 0
  helloAt : Option Nat := none
  deriving DecidableEq, Repr

/-- Clocks and resets (chapter 16). Sources are numbered 0 XTAL, 1 REC_A, 2 REC_B, 3 REC_H0, 4 SPA, 5 SPB, 6 CK_REF and
8 + k for the delivered clock of domain k. -/
structure CkrSt where
  /-- A reset that its prelude holds back (R479): level and cause. -/
  prelude : Option (Nat × Nat) := none
  preludeAt : Nat := 0
  /-- Blocks whose gate request is pending (R475), when each request and each block reset began, and when each stop was detected. -/
  gateReq : List Nat := []
  gateAt : Map Nat := []
  rstAt : Map Nat := []
  stopAt : Map Nat := []
  /-- The candidate that the conditioner measures (R466). -/
  measuring : Option Nat := none
  /-- The spare PLL follows a new reference by the ramp path, or relocks after a stop (R466, R474). -/
  relock : Bool := false
  /-- Domains that are still to move, and the source that they move to: 0 SPA, 1 SPB, 2 RCO (R467, R468). -/
  moves : List Nat := []
  target : Nat := 0
  stopped : List Nat := []
  /-- Insertion was cleared because both PLLs stopped (R474): Mirik requests it again. -/
  reinsert : Bool := false
  /-- The power die holds the hub die in reset (R483), and whether a squall was latched when it began. -/
  held : Option Bool := none
  deriving DecidableEq, Repr

/-- The power die (chapter 17): the hold-up contents (R495) with the state class 0 run, 1 retry, 2 latched, and the conditions
that its timers watch. Times are on the model's time base. -/
structure PwrSt where
  cls : Nat := 0
  rcnt : Nat := 0
  retryAt : Option Nat := none
  vaux : Bool := true
  /-- VIN is inside the window (R493), and since when. -/
  vinIn : Bool := true
  vinSince : Nat := 0
  /-- When the gate became fully on with the fault timer idle, while a qualifying window runs (R490). -/
  qualAt : Option Nat := none
  gateOn : Bool := true
  /-- HOLD collapsed while VAUX was absent. -/
  collapsed : Bool := false
  /-- When PG asserted. -/
  pgSince : Nat := 0
  /-- When the controller entered its state (R487); when the fault timer started and when the sense voltage last reached VCB (R489); when
  a rail last left its limits (R493). -/
  stateAt : Nat := 0
  faultAt : Nat := 0
  overAt : Nat := 0
  railAt : Nat := 0
  deriving DecidableEq, Repr

/-- A page on the medium, or on its way to it (R528): its number, the mount count and the number of its first record at
writing, its 32-byte records, its marks and the two tags. [DEDUCED 170 safe] -/
structure HPage where
  num : Nat
  mount : Nat
  first : Nat
  recs : List (List Byte)
  flushed : Bool := false
  unsigned : Bool := false
  prev : List Byte
  tag : List Byte
  deriving DecidableEq, Repr

/-- A log block of the medium (R531): the numbers of its pages, the reads since its last program, the erases since the latest format,
and whether it is bad (1 factory, 2 grown), erased, or retired for the rest of the pass (R535). -/
structure HBlock where
  pages : List Nat := []
  reads : Nat := 0
  erases : Nat := 0
  bad : Nat := 0
  erased : Bool := true
  retired : Bool := false
  /-- When the block was last read whole or programmed, and whether it was read whole since its last program for its count of reads (R535). -/
  patrolAt : Nat := 0
  scrubbed : Bool := false
  deriving DecidableEq, Repr

/-- Records dropped since the queue filled (R525): how many, and the time of the first. -/
structure HDrops where
  count : Nat
  sec : Nat
  ns : Nat
  deriving DecidableEq, Repr

/-- A window read that waits for a NAND page read (R538), with the bytes read so far, and an ABORT that has won. -/
structure HRead where
  req : Frame
  data : List Byte := []
  abort : Option Frame := none
  deriving DecidableEq, Repr

/-- The historian (chapter 19). [DESIGN CHOICE 10 unsafe, DESIGN CHOICE 11 unsafe] -/
structure HstSt where
  /-- Accepted records that no page has taken, oldest first. -/
  stage : List (List Byte) := []
  /-- The next local number, and the next RSEQ (R524). -/
  next : Nat := 0
  rseq : Nat := 0
  drops : Option HDrops := none
  /-- Records accepted and lost since the last mark (Table 19-3). -/
  sinceMark : Nat := 0
  lostMark : Nat := 0
  /-- Page buffers that wait for the medium, oldest first. -/
  prog : List HPage := []
  pages : Map HPage := []
  blocks : Map HBlock := []
  /-- The write head's block, and a block being erased for it. -/
  head : Nat := 0
  erasing : Option Nat := none
  /-- Formats of the medium so far. -/
  formats : Nat := 0
  nextPage : Nat := 0
  lastTag : List Byte := []
  mount : Nat := 0
  /-- The power warning has come: no further program or erase starts (R536). -/
  warned : Bool := false
  /-- Records waiting to be replicated, by target 0 and 1 (R539), and the latest RSEQ from each source. -/
  repl0 : List (List Byte) := []
  repl1 : List (List Byte) := []
  lastRseq : Map Nat := []
  reads : List HRead := []
  /-- When each staged record was accepted (R528), and when each record that waits to be replicated was made (R539). -/
  stageAt : List Nat := []
  repl0At : List Nat := []
  repl1At : List Nat := []
  deriving DecidableEq, Repr

end Sys2Proof.Machine
end

