-- ==== Sys2Proof/Machine/State.lean ====
section
/-! DEFINITION. The state of the hub, its faults and refusals, and its state after reset. -/
namespace Sys2Proof.Machine

/-- Reasons to stop with a fault. -/
inductive Fault where
  /-- Raised by no meaning: the block has no event that stops it. Safe. -/
  | none
  deriving DecidableEq, Repr

/-- Reasons to refuse a command. -/
inductive Refusal where
  /-- Raised by `exec` for a command that has no meaning yet. Safe. -/
  | notModelled (mnemonic : String)
  deriving DecidableEq, Repr

/-- What has left the hub (the model's own record). [DESIGN CHOICE 13 safe, DESIGN CHOICE 136 unsafe, DESIGN CHOICE 173 safe] -/
inductive Emit where
  /-- A copy of a frame that ended on a ring lane or on lane T (R444): with a terminate block, and then its bytes on the lane (R85 to
  R88), or with an error control block (R101). -/
  | lane (l : Lane) (f : Frame) (bad : Bool) (wire : List Byte)
  /-- A link word on a ring lane: kind and content (Table 03-3). -/
  | word (l : Lane) (kind content : Nat)
  /-- A frame that ended on a host port with the host's tag, its FCS inverted if bad (R90, R101), and the bytes of the Ethernet
  frame. -/
  | host (p : Nat) (f : Frame) (hostTag : Nat) (inverted : Bool) (eth : List Byte)
  /-- An IEEE 1588 message on a host port (R354): message type, sequence or interval data, and its timestamp in ns. -/
  | ptp (p : Nat) (kind seq : Nat) (time : Nat)
  /-- A DONE note of the active twin (R446): its sequence, the completed work and the far-side buses that are empty. -/
  | done (seq : Nat) (items : List DoneItem) (empty : List Nat)
  /-- An LHIST note (R442): its sequence, the sender's link histories and its mirror of the partner's. -/
  | lhist (seq : Nat) (mine theirs : List (Nat × List LinkCtx))
  /-- A frame that a CAN controller starts to send, and the acknowledgement of a received one (R276, R298). -/
  | can (ch : Nat) (f : CanFrame)
  | canAck (ch : Nat)
  /-- A request that the bridge puts on a far-side bus (R317). -/
  | far (bus : Nat) (req : List Byte)
  deriving DecidableEq, Repr

/-- The whole state of the hub. [DESIGN CHOICE 1 safe, DESIGN CHOICE 7 safe, DESIGN CHOICE 10 unsafe, DESIGN CHOICE 11 unsafe] -/
structure State where
  /-- Register words that differ from their starting values, by offset + distance × instance. -/
  regs : Map Word := []
  /-- Register words that the loaded image sets (R562). -/
  imgRegs : Map Word := []
  hub : HubSt := {}
  rng : RngSt := {}
  swc : SwcSt := {}
  tmq : TmqSt := {}
  tim : TimSt := {}
  mgt : MgtSt := {}
  img : ImgSt := {}
  cry : CrySt := {}
  epo : EpoSt := {}
  /-- The phase references by number (chapter 11). -/
  phs : Map PhRef := []
  pio : PioSt := {}
  fpn : FpnSt := {}
  twn : TwnSt := {}
  can : CanSt := {}
  brg : BrgSt := {}
  rfx : RfxSt := {}
  ckr : CkrSt := {}
  pwr : PwrSt := {}
  hst : HstSt := {}
  /-- Command locks in force, by number (R216). -/
  locks : Map LockSt := []
  /-- Records offered to HST and not yet accepted, with their producer: 0 RFX, 1 EPO, 2 IMG, 3 MGT, 4 inbox (R522). -/
  recs : List (Nat × HistRec) := []
  /-- The bytes of the bulk buffers, by offset in space 0x4 (R214). -/
  bulk : Mem := []
  /-- The bytes of the non-volatile memory (Table 13-1). -/
  nvm : Mem := []
  /-- Frames delivered to a local unit and not yet acted on: switch ports 5 to 11, RNG 12, TIM 13, PHS 14. -/
  inbox : List (Nat × Frame) := []
  out : List Emit := []
  /-- Nanoseconds since the model's start: the time base of the intervals. -/
  up : Nat := 0
  /-- The counter of free values drawn (the model's own). -/
  free : Nat := 0
  pending : List Instr := []
  deriving DecidableEq, Repr

/-- The result of a meaning. -/
abbrev Out := Host.Outcome State Fault Refusal

/-- Register words that start with a value per entry before an image is loaded: the WARN and ALARM thresholds of sensors TS0 to
TS5, 100 and 110 °C in units of 0.0625 °C (MGT.SNS_THRHI). [DESIGN CHOICE 9 unsafe, DEDUCED 119 unsafe] -/
def imgStart : Map Word := (List.range 6).map (fun i => (0x12006C + 2 ^ 24 * i, 0x06E00640#32))

/-- Register words whose live fields are not zero as the hub die leaves reset: no hub number (R14), no neighbour, no ring
master and no hop count; the crystal in use and qualified, both PLLs locked (Table 16-5); the power die in state ON with its
supply good; the latest reset that of hub-die power-good (CKR.RSTCAUSE). [DESIGN CHOICE 9 unsafe, DESIGN CHOICE 12 unsafe] -/
def bootRegs : Map Word := [
  (0x4, 0xFF#32), (0x10004, 0xFF00#32), (0x10104, 0xFF00#32), (0x10200, 0xFF00#32), (0x10208, 0x3FF0000#32),
  (0x100004, 0x23#32), (0x100008, 0x3#32), (0x100028, 0x11#32), (0x11000C, 0x1D#32)]

/-- The state after reset. [DESIGN CHOICE 1 safe, DESIGN CHOICE 9 unsafe] -/
def State.reset : State := { regs := bootRegs, imgRegs := imgStart }

end Sys2Proof.Machine
end

