-- ==== Sys2Proof/Machine/Ops.lean ====
section
/-! DEFINITION. The named operations that the meanings share: registers, time, logs, frames offered to the switch core
and frames delivered to the hub's units. -/
namespace Sys2Proof.Machine

/-- The key of a field's word, for an instance or selected entry `i`. -/
def Fld.key (f : Fld) (i : Nat) : Nat := f.off + f.mult * i

/-- The greatest value a field holds. -/
def Fld.max (f : Fld) : Nat := 2 ^ (f.hi + 1 - f.lo) - 1

namespace State

/-- The word at a register key: written, else set by the image, else its starting value (R562). -/
def word (s : State) (key : Nat) (start : Word) : Word :=
  match Tbl.find? s.regs key with
  | some w => w
  | none => (Tbl.find? s.imgRegs key).getD start

/-- Change the transaction layer. -/
def onHub (s : State) (g : HubSt → HubSt) : State := { s with hub := g s.hub }

/-- Change the ring block. -/
def onRng (s : State) (g : RngSt → RngSt) : State := { s with rng := g s.rng }

/-- Change the switch core. -/
def onSwc (s : State) (g : SwcSt → SwcSt) : State := { s with swc := g s.swc }

/-- Change the traffic manager. -/
def onTmq (s : State) (g : TmqSt → TmqSt) : State := { s with tmq := g s.tmq }

/-- Change the time unit. -/
def onTim (s : State) (g : TimSt → TimSt) : State := { s with tim := g s.tim }

/-- Change Mirik's state. -/
def onMgt (s : State) (g : MgtSt → MgtSt) : State := { s with mgt := g s.mgt }

/-- Change the image unit. -/
def onImg (s : State) (g : ImgSt → ImgSt) : State := { s with img := g s.img }

/-- Change the cipher block. -/
def onCry (s : State) (g : CrySt → CrySt) : State := { s with cry := g s.cry }

/-- Change the object engine. -/
def onEpo (s : State) (g : EpoSt → EpoSt) : State := { s with epo := g s.epo }

/-- Change the engines. -/
def onPio (s : State) (g : PioSt → PioSt) : State := { s with pio := g s.pio }

/-- Change the field pins. -/
def onFpn (s : State) (g : FpnSt → FpnSt) : State := { s with fpn := g s.fpn }

/-- Change the twin logic. -/
def onTwn (s : State) (g : TwnSt → TwnSt) : State := { s with twn := g s.twn }

/-- Change the reflex engine. -/
def onRfx (s : State) (g : RfxSt → RfxSt) : State := { s with rfx := g s.rfx }

/-- Change the bridge. -/
def onBrg (s : State) (g : BrgSt → BrgSt) : State := { s with brg := g s.brg }

/-- Change the CAN block. -/
def onCan (s : State) (g : CanSt → CanSt) : State := { s with can := g s.can }

/-- The value of a register field. -/
def get (s : State) (f : Fld) (i : Nat := 0) : Nat := bits (s.word (f.key i) f.start).toNat f.hi f.lo

/-- A one-bit register field. -/
def flag (s : State) (f : Fld) (i : Nat := 0) : Bool := s.get f i = 1

/-- Store a word at a register key. -/
def setWord (s : State) (key : Nat) (w : Word) : State := { s with regs := Tbl.put s.regs key w }

/-- Store a value in a register field, modulo its width. -/
def set (s : State) (f : Fld) (i : Nat) (v : Nat) : State :=
  let w := (s.word (f.key i) f.start).toNat
  let old := bits w f.hi f.lo
  s.setWord (f.key i) (BitVec.ofNat 32 (w - old * 2 ^ f.lo + (v % 2 ^ (f.hi + 1 - f.lo)) * 2 ^ f.lo))

/-- Store a Boolean in a one-bit field. -/
def setB (s : State) (f : Fld) (i : Nat) (b : Bool) : State := s.set f i (b2n b)

/-- Bit p of a field that an array of registers holds, 32 bits each. -/
def pinBit (s : State) (f : Fld) (p : Nat) : Bool := bit (s.get f (p / 32)) (p % 32)

/-- Store bit p of a field that an array of registers holds. -/
def setPinBit (s : State) (f : Fld) (p : Nat) (v : Bool) : State := s.set f (p / 32) (setBit (s.get f (p / 32)) (p % 32) v)

/-- Add to a counter field, saturating at all ones (R11). -/
def bumpBy (s : State) (f : Fld) (i n : Nat) : State := s.set f i (min f.max (s.get f i + n))

/-- Count one event in a saturating counter field (R11). -/
def bump (s : State) (f : Fld) (i : Nat := 0) : State := s.bumpBy f i 1

/-- Put every register of a block back to its starting value, keeping those that `keep` names by key. [DEDUCED 178 unsafe] -/
def clearRegs (s : State) (block : Nat) (keep : Nat → Bool := fun _ => false) : State :=
  { s with regs := s.regs.filter (fun p => decide (p.1 % 2 ^ 24 / 2 ^ 16 ≠ block) || keep p.1) }

/-- Draw a value that the spec leaves open. [DESIGN CHOICE 7 safe] -/
def draw (s : State) : BitVec 64 × State := (Config.freeValue s.free, { s with free := s.free + 1 })

/-- Nanoseconds of the counter N (R336). -/
def ns (s : State) : Nat := s.tim.n / 2 ^ 32

/-- Fabric time, seconds (R336). -/
def sec (s : State) : Nat := s.ns / 10 ^ 9

/-- Fabric time, nanoseconds of the second (R336). -/
def nsec (s : State) : Nat := s.ns % 10 ^ 9

/-- The clock of a CK_TIM tick (R336): N rises by the increment in force and wraps at 2^64 ns. [DESIGN CHOICE 2 safe, DESIGN CHOICE 172 safe] -/
def timeTick (s : State) : State :=
  { s with
    tim := { s.tim with
      n := (s.tim.n + s.get F.TIM_INCR_INT * 2 ^ 32 + s.get F.TIM_INCR_FRAC) % 2 ^ 96 },
    up := s.up + 4 }

/-- The time of fabric second and nanosecond, in ns. -/
def timeOf (sec ns : Nat) : Nat := sec * 10 ^ 9 + ns

/-- Time counts as locked (Table 11-4). -/
def timeLocked (s : State) : Bool := s.flag F.TIM_STAT_TLOCK

/-- Offer a record to the historian (R522); NOTIME is set where time does not count as locked (Table 19-2). -/
def record (s : State) (producer : Nat) (r : HistRec) : State :=
  { s with recs := s.recs ++ [(producer, { r with flags := if s.timeLocked then r.flags else r.flags ||| 2 })] }

/-- The hub's own number: that of its image's node record, 0xFF without an image (R14). -/
def hubNum (s : State) : Nat := s.get F.HUB_NODE_HUBNUM

/-- The hub is admitted to the ring (R14). -/
def admitted (s : State) : Bool := s.flag F.RNG_RSTAT_ADMITTED

/-- The hub is the ring master (R21). -/
def master (s : State) : Bool := s.flag F.RNG_RSTAT_MASTER

/-- The hub follows a ring input and is syntonised (R339): TIM.STAT.SYNT. -/
def syntonised (s : State) : Bool := !s.master && decide (s.get F.CKR_REF_STAT_SEL < 2) && !s.flag F.CKR_REF_STAT_HOLDOVER

/-- Transit mode (R15). -/
def transit (s : State) : Bool := !s.admitted

/-- Record what leaves the hub. [DESIGN CHOICE 13 safe, DEDUCED 50 safe, DESIGN CHOICE 173 safe] -/
def emit (s : State) (e : Emit) : State := { s with out := s.out ++ [e] }

/-- Hand a frame to a local unit (R99, R563). [DESIGN CHOICE 13 safe, DESIGN CHOICE 198 unsafe] -/
def deliver (s : State) (unit : Nat) (f : Frame) : State := { s with inbox := s.inbox ++ [(unit, f)] }

/-- Take a frame that a unit has been handed. [DESIGN CHOICE 13 safe] -/
def take (s : State) (f : Frame) : State := { s with inbox := s.inbox.eraseP (fun p => decide (p.2 = f)) }

/-- Offer a frame to the switch core at a port. -/
def offer (s : State) (port : Nat) (f : Frame) : State :=
  { s with swc := { s.swc with offers := s.swc.offers ++ [{ port := port, fr := f }] } }

/-- Change the state of a lane. [DEDUCED 144 unsafe] -/
def onLane (s : State) (l : Lane) (g : LaneSt → LaneSt) : State :=
  match l with
  | .e => { s with rng := { s.rng with laneE := g s.rng.laneE } }
  | .w => { s with rng := { s.rng with laneW := g s.rng.laneW } }
  | .t => { s with rng := { s.rng with laneT := g s.rng.laneT } }

/-- The state of a lane. -/
def lane (s : State) (l : Lane) : LaneSt :=
  match l with
  | .e => s.rng.laneE
  | .w => s.rng.laneW
  | .t => s.rng.laneT

/-- The lane state of Table 03-11. -/
def laneState (s : State) (l : Lane) : Nat := s.get F.Lx_LSTAT_STATE l.ix

/-- An entry of the event log (Table 18-4): staged in a queue of 64, dropped and counted when it is full (R509). [DEDUCED 159 unsafe] -/
def event (s : State) (code block sev : Nat) (detail : List Nat) : State :=
  let w (n : Nat) : Word := BitVec.ofNat 32 n
  let e : LogEntry := [w s.nsec, w s.sec, w (s.sec / 2 ^ 32 % 2 ^ 16), w (code + block * 2 ^ 16 + sev % 16 * 2 ^ 24)]
    ++ (List.range 4).map (fun k => w (detail.getD k 0))
  if s.mgt.stage.length < 64 then { s with mgt := { s.mgt with stage := s.mgt.stage ++ [e] } }
  else s.bump F.MGT_EVL_STAT_DROPS

/-- An event whose severity the spec does not state (a free value). [DESIGN CHOICE 157 safe, DEDUCED 159 unsafe] -/
def note (s : State) (code block : Nat) (detail : List Nat) : State :=
  s.event code block (Config.eventSeverity code) detail

/-- The next posted tag of an initiator (R46). -/
def postedTag (s : State) (init : Nat) : Nat × State :=
  let t := Tbl.getD s.hub.posted init 0
  (t, { s with hub := { s.hub with posted := Tbl.put s.hub.posted init ((t + 1) % 1024) } })

/-- A destination hub number that a frame of this hub can be sent to (R15, R36). [DEDUCED 26 unsafe] -/
def reachable (s : State) (hub : Nat) : Bool :=
  decide (hub = 0xFF) || decide (hub = s.hubNum)
    || (s.admitted && (decide (hub = 0xFE) || s.rng.members.any (fun m => decide (m.hub = hub))))

/-- The hub is the standby twin. -/
def standby (s : State) : Bool := decide (s.get F.TWN_STAT_ROLE = 2)

/-- The hub is a twin that does not act: standby or failed. [DEDUCED 145 unsafe] -/
def passive (s : State) : Bool := decide (2 ≤ s.get F.TWN_STAT_ROLE)

/-- The hub is the active twin. -/
def activeTwin (s : State) : Bool := decide (s.get F.TWN_STAT_ROLE = 1)

/-- The active twin notes completed work for the standby (R446). -/
def noteDone (s : State) (d : DoneItem) : State := if s.activeTwin then s.onTwn fun t => { t with done := t.done ++ [d] } else s

/-- Send a posted frame from a unit of this hub: its tag is the next posted tag of the initiator (R46). One to a
destination that is not admitted is dropped and counted (R36). -/
def sendPosted (s : State) (port : Nat) (f : Frame) : State :=
  if !s.reachable f.dst then s.bump F.HUB_CNT_NADROP else
  let (t, s) := s.postedTag f.init
  s.offer port { f with tag := t, pst := true, src := s.hubNum }

end State

/-- A fabric address. -/
def fabAddr (hub space offset : Nat) : Nat := hub * 2 ^ 40 + space * 2 ^ 36 + offset % 2 ^ 36

/-- The class of an initiator at a hub (Table 02-5); none for a reserved ID. -/
def classOf (own src init : Nat) : Option InitClass :=
  if init = 0 then some (if src = own then .mirik else .hub)
  else if init = 1 then (if src = own then some .reflex else none)
  else if init = 2 then some (if src = own then .binder else .hub)
  else if init ≤ 8 then some .hub
  else if 0x10 ≤ init ∧ init ≤ 0x4F then some .host
  else none

/-- The words of a log entry (Table 02-7). [DEDUCED 32 unsafe] -/
def logWords (s : State) (f : Frame) (len code seq detail : Nat) : LogEntry :=
  let cls := ((classOf s.hubNum f.src f.init).map InitClass.code).getD 0
  [ s.nsec, s.sec % 2 ^ 32, s.sec / 2 ^ 32 % 2 ^ 16 + f.addr / 2 ^ 32 % 2 ^ 16 * 2 ^ 16, f.addr % 2 ^ 32,
    f.tt.code % 16 + f.tc * 2 ^ 4 + cls * 2 ^ 8 + f.src * 2 ^ 16 + f.init * 2 ^ 24,
    f.tag + b2n f.pst * 2 ^ 10 + len * 2 ^ 16 + code * 2 ^ 28, seq % 2 ^ 32, detail % 256 ].map (BitVec.ofNat 32)

/-- The bytes of a log entry. -/
def logBytes (e : LogEntry) : List Byte := e.flatMap (fun w => be 4 w.toNat)

namespace State

/-- The data length that a log entry shows: what a request names, or the payload it carries. -/
def logLen (f : Frame) : Nat :=
  match f.tt with
  | .rd | .rmw => f.len
  | _ => f.pay.length

/-- Where a notice about an initiator of this hub goes (R62): the hub and the SINK byte. -/
def sinkOf (s : State) (init : Nat) : Nat × Nat :=
  let dflt := if 0x10 ≤ init ∧ init ≤ 0x4F then (s.hubNum, init) else (s.hubNum, 0)
  match s.img.sinks.find? (fun e => decide (e.init = init)) with
  | none => dflt
  | some e => if e.kind = 1 then (e.hub, 0) else if e.kind = 2 then (e.hub, e.host) else dflt

/-- Send a notice unless 16 were sent in the last millisecond (R63); a notice not sent is counted. [DEDUCED 27 unsafe] -/
def notice (s : State) (hub : Nat) (pay : List Byte) : State :=
  let recent := s.hub.notices.filter (fun t => decide (s.up < t + 1000000))
  if recent.length < 16 then
    let s := { s with hub := { s.hub with notices := recent ++ [s.up] } }
    s.sendPosted 7 { tt := .mgt, tc := 2, dst := hub, init := 0, addr := fabAddr hub 0xF 0, len := pay.length, pay := pay }
  else s.bump F.MGT_CNT_NOTSUP

/-- The payload of an ERRN (R61). -/
def errnPayload (full : Bool) (kind sink : Nat) (e : LogEntry) : List Byte :=
  be 1 1 ++ be 1 (b2n full) ++ be 1 kind ++ be 1 sink ++ logBytes e

/-- Whether a frame is itself a notice: nothing is sent about its failure (R63). -/
def isNotice (f : Frame) : Bool :=
  decide (f.tt = .mgt) && (decide (beAt f.pay 0 1 = 1) || decide (beAt f.pay 0 1 = 3) || decide (beAt f.pay 0 1 = 4))

/-- Copy of a log entry into the event log (Table 18-4, codes 0x0001 and 0x0002). [DEDUCED 27 unsafe, DEDUCED 32 unsafe, DESIGN CHOICE 157 safe] -/
def copyLog (s : State) (code : Nat) (e : LogEntry) : State :=
  let g (k : Nat) : Nat := (e.getD k 0).toNat
  let w (n : Nat) : Word := BitVec.ofNat 32 n
  let x : LogEntry := [w (g 0), w (g 1), w (g 2), w (code + 0x12 * 2 ^ 16 + Config.eventSeverity code % 16 * 2 ^ 24),
    w (g 3), w (g 4), w (g 5), w (g 7)]
  if s.mgt.stage.length < 64 then { s with mgt := { s.mgt with stage := s.mgt.stage ++ [x] } }
  else s.bump F.MGT_EVL_STAT_DROPS

/-- Enter a refusal in the violation log (R56, R57), copy it into the event log and send the notice (R61). [DEDUCED 27 unsafe] -/
def violation (s : State) (f : Frame) (reason : Nat) : State :=
  let seq := s.hub.vseq + 1
  let e := logWords s f (logLen f) reason seq 0
  let full := decide (64 ≤ s.hub.vlog.length)
  let s := { s with hub := { s.hub with vseq := seq, vlog := if full then s.hub.vlog else s.hub.vlog ++ [e] } }
  let s := if full then (s.bump F.MGT_VLOG_STAT_OVFCNT).set F.MGT_VLOG_STAT_OVF 0 1 else s.copyLog 1 e
  if isNotice f then s else s.notice f.src (errnPayload full 1 0 e)

/-- Enter a posted write's failure in the posted error log (R58, R59) and send the notice (R61). [DEDUCED 27 unsafe] -/
def postedError (s : State) (f : Frame) (st : Status) (detail : Nat) : State :=
  let seq := s.hub.pseq + 1
  let e := logWords s f (logLen f) st.code seq detail
  let full := decide (64 ≤ s.hub.plog.length)
  let s := { s with hub := { s.hub with pseq := seq, plog := if full then s.hub.plog else s.hub.plog ++ [e] } }
  let s := if full then (s.bump F.MGT_PLOG_STAT_OVFCNT).set F.MGT_PLOG_STAT_OVF 0 1 else s.copyLog 2 e
  if isNotice f then s else s.notice f.src (errnPayload full 2 0 e)

/-- Send a posted WR from a unit of this hub; one to a destination that is not admitted is logged UR under its posted tag (R36,
R46). -/
def sendWrite (s : State) (port : Nat) (f : Frame) : State :=
  if s.reachable f.dst then s.sendPosted port f
  else
    let (t, s) := s.postedTag f.init
    s.postedError { f with tag := t, pst := true, src := s.hubNum } .ur 0

/-- The completion of a request (R48, R49): its class, its originating hub, its initiator and tag, and its address. -/
def cmpOf (s : State) (req : Frame) (st : Status) (loc ovrd part : Bool) (data : List Byte) : Frame :=
  { tt := .cmp, tc := req.tc, dst := req.src, src := s.hubNum, init := req.init, tag := req.tag, opc := st.code,
    fLocal := loc, fOvrd := ovrd, fPart := part, addr := req.addr, len := data.length, pay := data }

/-- Send a completion; a standby twin keeps it in case it takes over (R433, R455). [DEDUCED 25 safe] -/
def complete (s : State) (port : Nat) (f : Frame) : State :=
  if s.standby then s.onTwn fun t => { t with unsent := t.unsent ++ [f] }
  else (s.noteDone (.cmp f.dst f.init f.tag)).offer port f

/-- A non-posted request of this hub ends here (R36, R41, R51): a host gets its completion from the gateway, which is not this
operation's; a unit gets it handed, with LOCAL. -/
def endLocal (s : State) (unit : Nat) (req : Frame) (st : Status) : State :=
  s.deliver unit (s.cmpOf { req with src := s.hubNum } st true false false [])

/-- Answer a request from a unit at a port: a completion for a non-posted request (R41); for a posted one that was not
performed, the posted error log (R59). A refusal with VIOL is logged by the check that made it. -/
def answer (s : State) (port : Nat) (req : Frame) (a : Answer) : State :=
  if req.pst then
    if a.st = .ok ∨ a.st = .viol then s else s.postedError req a.st 0
  else s.complete port (s.cmpOf req a.st false a.ovrd false a.data)

/-- The result of a register write's or read's own effect: status, the reason of a VIOL, data and OVRD. -/
structure Res where
  st : Status := .ok
  reason : Nat := 7
  data : List Byte := []
  ovrd : Bool := false
  deriving DecidableEq, Repr

/-- Settle a request with the result of its effect: it is done with, a VIOL is logged (R56), the request is answered (R41, R59). [DEDUCED 21 safe] -/
def settle (s : State) (port : Nat) (f : Frame) (r : Res) : State :=
  let s := s.take f
  (if r.st = .viol then s.violation f r.reason else s).answer port f { st := r.st, data := r.data, ovrd := r.ovrd }

end State

/-- The width in bytes of a value of an object type (Table 06-2). -/
def typeBytes (t : Nat) : Nat := if t = 0 then 1 else if t = 1 then 2 else if t = 2 ∨ t = 4 then 4 else 8

/-- The VALUE bits that a type uses (Table 06-2). -/
def typeMod (t : Nat) : Nat := if t = 0 then 2 else if t = 1 then 2 ^ 16 else if t = 2 ∨ t = 4 then 2 ^ 32 else 2 ^ 64

/-- The register word that a write request carries (R4). -/
def wordOf (f : Frame) : Nat := unle (f.pay.take 4)

/-- The bytes of a register word (R4). -/
def wordBytes (n : Nat) : List Byte := le 4 n

end Sys2Proof.Machine
end

