-- ==== Sys2Proof/Machine/Crypto.lean ====
section
/-! DEFINITION. The modes of AES-256 that the hub uses: CMAC (SP 800-38B), GHASH and counter mode (SP 800-38D), over the
block cipher `Config.aes` (R408, R409, R421). -/
namespace Sys2Proof.Machine

/-- A 16-byte block, most significant byte first. -/
abbrev Block := BitVec 128

/-- The 32-byte key of a byte string. -/
def keyOf (l : List Byte) : BitVec 256 := BitVec.ofNat 256 (unbe (slice l 0 32))

/-- Block i of a byte string, zeros beyond its end. -/
def blockAt (l : List Byte) (i : Nat) : Block := BitVec.ofNat 128 (beAt l (16 * i) 16)

/-- The bytes of a block. -/
def blockBytes (b : Block) : List Byte := be 16 b.toNat

/-- Doubling in GF(2^128) for the CMAC subkeys. -/
def dbl (b : Block) : Block := if bit b.toNat 127 then (b <<< 1) ^^^ 0x87#128 else b <<< 1

/-- The product of two blocks for GHASH. -/
def gmul (x y : Block) : Block :=
  ((List.range 128).foldl (fun (a : Block × Block) i =>
    (if bit x.toNat (127 - i) then a.1 ^^^ a.2 else a.1,
     if bit a.2.toNat 0 then (a.2 >>> 1) ^^^ (0xE1#128 <<< 120) else a.2 >>> 1)) (0#128, y)).1

/-- GHASH over the blocks of bytes, zero-padded to whole blocks, from an accumulator. -/
def ghash (h acc : Block) (l : List Byte) : Block :=
  (List.range (cdiv l.length 16)).foldl (fun a i => gmul (a ^^^ blockAt l i) h) acc

/-- The counter block after another: its low word incremented modulo 2^32. -/
def inc32 (c : Block) : Block := BitVec.ofNat 128 (c.toNat / 2 ^ 32 * 2 ^ 32 + (c.toNat % 2 ^ 32 + 1) % 2 ^ 32)

/-- The counter block n steps after another. -/
def incBy (c : Block) (n : Nat) : Block := BitVec.ofNat 128 (c.toNat / 2 ^ 32 * 2 ^ 32 + (c.toNat % 2 ^ 32 + n) % 2 ^ 32)

/-- The counter block IV ‖ 0x0000_0001. -/
def j0 (iv : List Byte) : Block := BitVec.ofNat 128 (beAt iv 0 12 * 2 ^ 32 + 1)

/-- Bytes combined with the keystream that begins at a counter block; the last block is truncated. -/
def ctrMode (k : BitVec 256) (c : Block) (l : List Byte) : List Byte :=
  ((List.range (cdiv l.length 16)).flatMap (fun i => blockBytes (blockAt l i ^^^ Config.aes k (incBy c i)))).take l.length

/-- CMAC continued: `acc` is the sum of the latest block and the chain before it, which is not enciphered yet; `started`
says that there is one. The blocks of whole 16-byte blocks are taken in. [DEDUCED 128 unsafe] -/
def cmacPart (k : BitVec 256) (acc : Block) (started : Bool) (l : List Byte) : Block :=
  ((List.range (l.length / 16)).foldl (fun (a : Block × Bool) i =>
    ((if a.2 then Config.aes k a.1 else a.1) ^^^ blockAt l i, true)) (acc, started)).1

/-- The end of a CMAC: the last bytes complete the message. [DEDUCED 128 unsafe] -/
def cmacEnd (k : BitVec 256) (acc : Block) (started : Bool) (l : List Byte) : Block :=
  let k1 := dbl (Config.aes k 0)
  let whole := l.length / 16
  let a := cmacPart k acc started l
  let on := started || decide (0 < whole)
  if l.length % 16 = 0 ∧ on then Config.aes k (a ^^^ k1)
  else
    let last := blockAt (l.drop (16 * whole) ++ [0x80]) 0
    Config.aes k ((if on then Config.aes k a else a) ^^^ last ^^^ dbl k1)

/-- CMAC-AES-256 of a message, 16 bytes (R409). [DESIGN CHOICE 8 safe] -/
def cmac (key msg : List Byte) : List Byte := blockBytes (cmacEnd (keyOf key) 0 false msg)

/-- The length block of GCM: the bit lengths of AAD and text. -/
def gcmLens (aadBits textBits : Nat) : Block := BitVec.ofNat 128 (aadBits * 2 ^ 64 + textBits)

/-- The tag of GCM from the accumulator after the text (SP 800-38D). -/
def gcmTag (k : BitVec 256) (j : Block) (acc : Block) (aadBits textBits : Nat) : Block :=
  gmul (acc ^^^ gcmLens aadBits textBits) (Config.aes k 0) ^^^ Config.aes k j

/-- AES-256-GCM encryption: ciphertext and 16-byte tag. [DESIGN CHOICE 8 safe] -/
def gcmSeal (key iv aad pt : List Byte) : List Byte × List Byte :=
  let k := keyOf key
  let ct := ctrMode k (inc32 (j0 iv)) pt
  let a := ghash (Config.aes k 0) (ghash (Config.aes k 0) 0 aad) ct
  (ct, blockBytes (gcmTag k (j0 iv) a (8 * aad.length) (8 * pt.length)))

/-- AES-256-GCM decryption: plaintext, and whether the tag agrees. -/
def gcmOpen (key iv aad ct tag : List Byte) : List Byte × Bool :=
  let k := keyOf key
  let a := ghash (Config.aes k 0) (ghash (Config.aes k 0) 0 aad) ct
  (ctrMode k (inc32 (j0 iv)) ct, decide ((blockBytes (gcmTag k (j0 iv) a (8 * aad.length) (8 * ct.length))).take tag.length = tag))

end Sys2Proof.Machine
end

