-- ==== Sys2Proof/Machine/Keys.lean ====
section
/-! DEFINITION. Key derivation and link key contexts (R409 to R419). -/
namespace Sys2Proof.Machine

/-- K = KDF(root, label, context), the counter-mode KDF of R409. [DESIGN CHOICE 8 safe] -/
def kdf (root label ctx : List Byte) : List Byte :=
  let part (n : Nat) := cmac root (be 4 n ++ label ++ [0] ++ ctx ++ be 4 0x100)
  part 1 ++ part 2

/-- "BRBLINK1" (Table 14-2). -/
def lblLink : List Byte := [0x42, 0x52, 0x42, 0x4C, 0x49, 0x4E, 0x4B, 0x31]

namespace State

/-- The fleet root in force: all zeros while none is programmed (R410). -/
def fleetRoot (s : State) : List Byte := s.cry.fleet.getD (zeros 32)

/-- A key slot. -/
def slot (s : State) (k : Nat) : KeySlot := Tbl.getD s.cry.slots k {}

/-- Rewrite a key slot: its generation increments as the rewrite is accepted (R412). -/
def rewriteSlot (s : State) (k : Nat) (st : KState) (key : List Byte) : State :=
  let o := s.slot k
  { s with cry := { s.cry with
      slots := Tbl.put s.cry.slots k { o with st := st, gen := (o.gen + 1) % 2 ^ 16, key := key } } }

/-- The incarnation that this hub transmits (R107): its own; at a twin, the pair's. [DEDUCED 146 unsafe] -/
def ownInc (s : State) : Nat :=
  if s.flag F.HUB_NODE_TWIN then s.get F.TWN_STAT_PAIRINC else s.get F.RNG_INC

/-- The context of a link key without its epoch (Table 14-2). Lane codes are E 1, W 2; a ring link joins E to W. -/
def linkCtxOf (s : State) (l : Lane) (tx : Bool) : List Byte :=
  let here := be 1 s.hubNum ++ be 2 s.ownInc ++ be 1 (l.ix + 1)
  let there := be 1 ((s.lane l).lid.getD 0xFF) ++ be 2 ((s.lane l).linc.getD 0) ++ be 1 (l.other.ix + 1)
  if tx then here ++ there else there ++ here

/-- The number of a link history. -/
def histIx (l : Lane) (tx : Bool) : Nat := l.ix * 2 + b2n tx

/-- The current context of a lane's direction. -/
def curCtx (s : State) (l : Lane) (tx : Bool) : Option LinkCtx :=
  match Tbl.find? s.cry.linkCur (histIx l tx) with
  | none => none
  | some i => (Tbl.getD s.cry.hist (histIx l tx) [])[i]?

/-- Change the current context of a lane's direction. -/
def updCtx (s : State) (l : Lane) (tx : Bool) (g : LinkCtx → LinkCtx) : State :=
  match Tbl.find? s.cry.linkCur (histIx l tx) with
  | none => s
  | some i =>
    let h := Tbl.getD s.cry.hist (histIx l tx) []
    { s with cry := { s.cry with hist := Tbl.put s.cry.hist (histIx l tx) (h.modify i g) } }

/-- The key slot of a lane's direction and epoch (Table 14-3). -/
def linkSlot (l : Lane) (tx : Bool) (epoch : Nat) : Nat := l.ix * 4 + b2n tx * 2 + epoch % 2

/-- Derive the key of an epoch into its slot. -/
def deriveLink (s : State) (l : Lane) (tx : Bool) (ctx : List Byte) (epoch : Nat) : State :=
  s.rewriteSlot (linkSlot l tx epoch) .ready (kdf s.fleetRoot lblLink (ctx ++ be 2 epoch))

/-- Show the epochs of a lane (E_LKEP, W_LKEP). -/
def showEpoch (s : State) (l : Lane) (tx : Bool) (e : Nat) : State :=
  s.set (if tx then F.CRY_LKEP_TX else F.CRY_LKEP_RX) l.ix e

/-- Start or resume the context of one direction (R417); no result if the history is full. -/
def startCtx (s : State) (l : Lane) (tx : Bool) : Option State :=
  let c := s.linkCtxOf l tx
  let k := histIx l tx
  let h := Tbl.getD s.cry.hist k []
  let go (s : State) (i e : Nat) : State :=
    let s := { s with cry := { s.cry with linkCur := Tbl.put s.cry.linkCur k i } }
    let s := (s.deriveLink l tx c e).showEpoch l tx e
    if tx then s else s.deriveLink l tx c (e + 1)
  match h.findIdx? (fun x => decide (x.ctx = c)) with
  | some i => some (go s i ((h.getD i { ctx := c }).epoch))
  | none =>
    if h.length < 32 then
      some (go { s with cry := { s.cry with hist := Tbl.put s.cry.hist k (h ++ [{ ctx := c, since := s.up }]) } } h.length 0)
    else none

/-- Derive a lane's link keys in TRAIN once LID and LINC have arrived (R416, R417); not while a squall is latched (R435). -/
def tryKeys (s : State) (l : Lane) : State :=
  let q := s.lane l
  if s.laneState l = 2 ∧ !q.keyed ∧ q.lid.isSome ∧ q.linc.isSome ∧ !s.cry.squall then
    match (s.startCtx l false).bind (fun s => s.startCtx l true) with
    | some s => s.onLane l (fun q => { q with keyed := true })
    | none => (s.set F.CRY_LK_STAT_EXH 0 1).bump F.CRY_CNT_LKEXH
  else s

/-- Count a frame sent under the lane's transmit key, giving its HOPIV and EPP (R86, R87). -/
def nextHopiv (s : State) (l : Lane) : Nat × Bool × State :=
  match s.curCtx l true with
  | none => (0, false, s)
  | some c => (c.hopiv, bit c.epoch 0, s.updCtx l true (fun c => { c with hopiv := (c.hopiv + 1) % 2 ^ 64 }))

/-- A frame with the other parity whose tag passed makes the next epoch current (R419). -/
def rxEpoch (s : State) (l : Lane) (epp : Bool) : State :=
  match s.curCtx l false with
  | none => s
  | some c =>
    if epp = bit c.epoch 0 then s
    else
      let s := (s.updCtx l false (fun c => { c with epoch := c.epoch + 1 })).showEpoch l false (c.epoch + 1)
      s.deriveLink l false c.ctx (c.epoch + 2)

/-- The check value shown for a root (R436): the first three bytes of CMAC-AES-256 of a zero block. [DEDUCED 176 unsafe] -/
def rootCheck (root : List Byte) : Nat := beAt (cmac root (zeros 16)) 0 3

end State

end Sys2Proof.Machine
end

