-- ==== Sys2Proof/Machine/Buffer.lean ====
section
/-! DEFINITION. The cell buffer and the queues of the switch core (R128 to R148, R154 to R157): the operations that the
ring, switch and transaction families share. -/
namespace Sys2Proof.Machine

/-- Port interval in cell slots (Table 04-1). -/
def portInterval (p : Nat) : Nat :=
  if p = 6 ∨ p = 7 then 40 else if p = 8 ∨ p = 9 then 80 else if p = 10 then 160 else 10

/-- The lossless pool of a ring lane, by class (Table 03-10). -/
def lanePool (tc : Nat) : Nat := [32, 32, 64, 128].getD tc 0

/-- The bubble of a class (Table 03-10). -/
def laneBubble (tc : Nat) : Nat := [3, 4, 32, 32].getD tc 0

/-- The lane of a switch port 0, 1 or 4. -/
def laneOf (p : Nat) : Lane := if p = 0 then .e else if p = 1 then .w else .t

/-- The switch port of a lane: ring lane or lane T (Table 04-1). -/
def isLane (p : Nat) : Bool := decide (p ≤ 1) || decide (p = 4)

/-- α(c) × F rounded down (R136, Table 04-4). -/
def alphaTimes (code f : Nat) : Nat := if code ≤ 4 then f / 2 ^ (4 - code) else f * 2 ^ (code - 4)

/-- The opcode of a management frame. -/
def mgtOp (f : Frame) : Nat := beAt f.pay 0 1

/-- TSYNC and PHEV, which RNG hands to TIM and PHS at ingress (R344). -/
def isTime (f : Frame) : Bool := decide (f.tt = .mgt) && (decide (mgtOp f = 0x20) || decide (mgtOp f = 0x21))

/-- The posted flag of a management opcode (Table 18-2); none for a reserved opcode. -/
def mgtPosted (op : Nat) : Option Bool :=
  if op = 1 ∨ op = 3 ∨ op = 4 ∨ op = 0x11 ∨ op = 0x12 ∨ (0x20 ≤ op ∧ op ≤ 0x22) ∨ (0x30 ≤ op ∧ op ≤ 0x37) ∨ (0x40 ≤ op ∧ op ≤ 0x43)
      ∨ (0x48 ≤ op ∧ op ≤ 0x4B) ∨ (0x50 ≤ op ∧ op ≤ 0x54) then some true
  else if op = 2 ∨ op = 8 ∨ op = 9 ∨ op = 0x10 then some false
  else none

/-- A management request that its target refuses with UR: an initiator of no class, another space, no payload or more than
1,024 bytes, a reserved opcode or the wrong posted flag (R37, R38, R45, R50, R503). -/
def mgtRefused (own : Nat) (f : Frame) : Bool :=
  decide (classOf own f.src f.init = none) || decide (f.space ≠ 0xF) || f.pay.isEmpty || decide (1024 < f.pay.length)
    || decide (mgtPosted (mgtOp f) ≠ some f.pst)

/-- A management request that a unit has been handed: refused with UR (R503, R59), else taken and acted on. -/
def mgtRequest (f : Frame) (s : State) (g : State → Out) : Out :=
  if mgtRefused s.hubNum f then .next (s.settle 7 f { st := .ur }) else g (s.take f)

/-- A TC0 or TC1 frame longer than a hub originates or takes (R84). -/
def tooLong (f : Frame) : Bool := (decide (f.tc = 0) && decide (192 < f.length)) || (decide (f.tc = 1) && decide (256 < f.length))

/-- RCTL kinds that are link-local (R119). [DEDUCED 37 unsafe] -/
def isLinkLocal (f : Frame) : Bool := decide (f.tt = .rctl) && (decide (f.opc = 9) || decide (f.opc = 10))

/-- The windows of space 0x4 (R214). -/
inductive Win where
  | bulk (b : BulkBuf)
  | bridge (w : Nat)
  | feed (pe : Nat)
  | inbox
  deriving DecidableEq, Repr

namespace State

/-- A frame in the buffer. -/
def buf? (s : State) (h : Nat) : Option Buf := Tbl.find? s.swc.bufs h

/-- Change a frame in the buffer. -/
def updBuf (s : State) (h : Nat) (g : Buf → Buf) : State :=
  { s with swc := { s.swc with bufs := Tbl.upd s.swc.bufs h g } }

/-- A hardware queue. -/
def queue (s : State) (q : Nat) : QSt := Tbl.getD s.swc.queues q {}

/-- Store a hardware queue. -/
def setQueue (s : State) (q : Nat) (v : QSt) : State :=
  { s with swc := { s.swc with queues := Tbl.put s.swc.queues q v } }

/-- The frame handles of a queue, transit frames first (R173). -/
def queueFrames (s : State) (q : Nat) : List Nat := (s.queue q).transit ++ (s.queue q).loc

/-- Cells linked to a queue (R136). -/
def occ (s : State) (q : Nat) : Nat :=
  ((s.queueFrames q).map (fun h => ((s.buf? h).map (fun b => b.cells.length)).getD 0)).sum

/-- Link a frame to a queue, at the end of its transit or local list. -/
def linkQ (s : State) (q h : Nat) (transit : Bool) : State :=
  let v := s.queue q
  let s := s.setQueue q (if transit then { v with transit := v.transit ++ [h] } else { v with loc := v.loc ++ [h] })
  s.updBuf h (fun b => { b with links := b.links ++ [q] })

/-- Remove a frame from a queue. -/
def unlinkQ (s : State) (q h : Nat) : State :=
  let v := s.queue q
  let s := s.setQueue q { transit := v.transit.erase h, loc := v.loc.erase h }
  s.updBuf h (fun b => { b with links := b.links.erase q })

/-- Cells set aside for bulk buffers (R214). -/
def bulkCells (s : State) : Nat := cdiv ((s.img.bulk.map (fun b => b.size)).sum) 64

/-- Cells of the shared pool (Table 04-2). -/
def sharedPool (s : State) : Nat := (if s.flag F.SWC_PLAN_PLAN then 60000 else 64096) - s.bulkCells

/-- Outstanding reservations (R135). -/
def resvOut (s : State) : Nat := (s.swc.bufs.map (fun p => p.2.resv)).sum

/-- F of R136: free shared cells less outstanding reservations. -/
def freeShared (s : State) : Nat :=
  s.sharedPool - ((s.swc.bufs.filter (fun p => decide (p.2.pool = .shared))).map (fun p => p.2.cells.length)).sum - s.resvOut

/-- The α code of a class. -/
def alphaCode (s : State) (tc : Nat) : Nat :=
  bits (s.word (if tc < 8 then 0x20008 else 0x2000C) (if tc < 8 then 0x55556666 else 0x22224444)).toNat (4 * (tc % 8) + 3) (4 * (tc % 8))

/-- The admission test of R136 for one queue. -/
def admits (s : State) (q tc : Nat) : Bool :=
  decide (s.occ q + 32 ≤ alphaTimes (s.alphaCode tc) s.freeShared)

/-- The class of a queue (R140). -/
def queueClass (s : State) (q : Nat) : Nat := if q < 192 then q % 16 else s.get F.SWC_LQ_CFG_TC (q - 192)

/-- Feed window frames of a local queue that have left it for their unit and wait with words that have not entered a transmit queue:
for its sender such a frame still stands at the head of the queue (R260). -/
def feedWaits (s : State) (q : Nat) : Nat :=
  let mine (e : Nat) : Bool := decide (q = 192 + s.get F.PEnn_FEEDQ_LQ e)
  let fed (f : Frame) : Bool := decide (f.space = 4) && (List.range 64).any (fun e => s.flag F.PEnn_FEED_EN e && mine e
    && decide (s.get F.PEnn_FEED_BASE e * 4096 ≤ f.offset) && decide (f.offset < (s.get F.PEnn_FEED_BASE e + s.get F.PEnn_FEED_SIZE e) * 4096))
  (s.pio.feeds.filter (fun x => mine x.1)).length + (s.inbox.filter (fun p => decide (p.1 = 6) && fed p.2)).length

/-- A queue at a local egress has room: one of a lossless class holds QLIM frames (R143). [DEDUCED 180 unsafe] -/
def hasRoom (s : State) (q : Nat) : Bool :=
  let tc := s.queueClass q
  decide (4 ≤ tc) || decide ((s.queueFrames q).length + (if 192 ≤ q then s.feedWaits q else 0) < bits (s.word 0x20010 0).toNat (8 * tc + 7) (8 * tc))

/-- The cells of the lossy credit of an internal port that its offers of TC4 to TC15 use (R134). [DEDUCED 176 unsafe] -/
def lossyUsed (s : State) (port : Nat) : Nat :=
  ((s.swc.offers.filter (fun o => decide (o.port = port) && decide (4 ≤ o.fr.tc))).map (fun o => o.fr.cells)).sum

/-- An internal port holds the lossy credit for `n` more cells, of 32 (R134, R202). -/
def lossyCredit (s : State) (port n : Nat) : Bool := decide (s.lossyUsed port + n ≤ 32)

/-- No other frame waits for the queue (R141). -/
def noneWaits (s : State) (q h : Nat) : Bool := !s.swc.bufs.any (fun p => decide (p.1 ≠ h) && decide (q ∈ p.2.waitLinks))

/-- A local copy of a frame can be linked now (R141, R143); a completion waits for no room (R68). [DEDUCED 180 unsafe] -/
def opens (s : State) (q h : Nat) (f : Frame) : Bool := decide (f.tt = .cmp) || (s.hasRoom q && s.noneWaits q h)

/-- The window of space 0x4 that holds a range of offsets (R214). -/
def winOf (s : State) (off len : Nat) : Option Win :=
  let within (base size : Nat) : Bool := decide (base ≤ off) && decide (off + len ≤ base + size)
  match s.img.bulk.find? (fun b => within b.base b.size) with
  | some b => some (.bulk b)
  | none =>
    match (List.range 256).find? (fun w => s.flag F.BRG_WIN_CFG_EN w &&
        within (s.get F.BRG_WIN_BASE_BASE w * 4096) (s.get F.BRG_WIN_BASE_SIZE w * 4096)) with
    | some w => some (.bridge w)
    | none =>
      match (List.range 64).find? (fun p => s.flag F.PEnn_FEED_EN p &&
          within (s.get F.PEnn_FEED_BASE p * 4096) (s.get F.PEnn_FEED_SIZE p * 4096)) with
      | some p => some (.feed p)
      | none => if s.flag F.HST_INBOX_EN && within (s.get F.HST_INBOX_BASE * 4096) 4096 then some .inbox else none

/-- The switch port behind which an initiator of this hub sits (Table 02-5, Table 01-2). -/
def initPort (init : Nat) : Nat :=
  if init = 0 then 7 else if init = 1 then 10 else if init = 2 then 6 else if init = 6 then 8
  else if init = 7 then 6 else if init = 8 then 4
  else if 0x10 ≤ init ∧ init ≤ 0x2F then 2 else if 0x30 ≤ init ∧ init ≤ 0x4F then 3 else 5

/-- The queue of SW6 for a frame (R140): the local queue of the window that its address falls in, else the class queue. -/
def bridgeQueue (s : State) (f : Frame) : Nat :=
  match (if f.space = 4 then s.winOf f.offset 1 else none) with
  | some (.bridge w) => 192 + s.get F.BRG_WIN_CFG_LQ w
  | some (.feed p) => 192 + s.get F.PEnn_FEEDQ_LQ p
  | _ => 96 + f.tc

/-- The queue that carries a frame to its local unit (R140, R563). [DEDUCED 21 safe] -/
def localQueue (s : State) (f : Frame) : Nat :=
  let cls (p : Nat) := 16 * p + f.tc
  match f.tt with
  | .pub => if 0x10 ≤ beAt f.pay 2 1 ∧ beAt f.pay 2 1 ≤ 0x4F then cls (initPort (beAt f.pay 2 1)) else cls 5
  | .vw => cls 10
  | .mgt => if 0x48 ≤ mgtOp f ∧ mgtOp f ≤ 0x4B then cls 4 else cls 7
  | .cmp => cls (initPort f.init)
  | _ =>
    match f.space with
    | 3 => cls 6
    | 4 =>
      match s.winOf f.offset 1 with
      | some (.bridge _) => s.bridgeQueue f
      | some (.feed _) => s.bridgeQueue f
      | some .inbox => cls 8
      | _ => cls 5
    | 5 => cls 7
    | 6 => cls 8
    | 7 => cls 7
    | 0xF => cls 7
    | _ => cls 5

/-- The switch port of a queue (R140). -/
def portOfQ (q : Nat) : Nat := if q < 192 then q / 16 else 6

/-- Capture is enabled (R167). -/
def capEn (s : State) : Bool := s.flag F.SWC_PLAN_PLAN && s.flag F.SWC_CAP_CFG_EN

/-- Write a capture record (R167, R168) of an event at port `port`; `on` says that capture was enabled at the frame's head, `time` is the
fabric time of the head in ns. -/
def capture (s : State) (on : Bool) (port dir outcome q : Nat) (f : Frame) (time : Nat) : State :=
  let hdr := s.get F.SWC_CAP_MATCH_TTYPE
  let same (v m x : Nat) : Bool := decide ((v ^^^ m) &&& x = 0)
  let pass := on && bit (s.get F.SWC_CAP_FILT_PORTS) port
    && bit (s.get F.SWC_CAP_FILT_DIR) dir && bit (s.get F.SWC_CAP_FILT_OUTCOMES) outcome
    && same f.tt.code hdr (s.get F.SWC_CAP_MASK_TTYPE) && same f.tc (s.get F.SWC_CAP_MATCH_TC) (s.get F.SWC_CAP_MASK_TC)
    && same f.src (s.get F.SWC_CAP_MATCH_SRC) (s.get F.SWC_CAP_MASK_SRC)
    && same f.dst (s.get F.SWC_CAP_MATCH_DST) (s.get F.SWC_CAP_MASK_DST)
  let full := decide (4096 ≤ s.swc.capCount)
  let wrap := s.flag F.SWC_CAP_CFG_MODE
  if !pass then s
  else if full && !wrap then (s.bump F.SWC_CAP_STAT_LOST).setB F.SWC_CAP_STAT_STOPPED 0 true
  else if s.flag F.SWC_CAP_STAT_STOPPED then s
  else
    let w (n : Nat) : Word := BitVec.ofNat 32 n
    let h := f.header
    let sec := time / 10 ^ 9
    let rec_ := (List.range 8).map (fun k => w (beAt h (4 * k) 4))
      ++ [w (time % 10 ^ 9), w sec, w (sec / 2 ^ 32 % 2 ^ 16 + port * 2 ^ 16 + dir * 2 ^ 20 + outcome * 2 ^ 21),
          w (f.length + q * 2 ^ 16), w s.swc.capSeq, 0, 0, 0]
    let s := if full then s.bump F.SWC_CAP_STAT_LOST else s
    let trig := s.flag F.SWC_CAP_CFG_TRIG_EN && !s.flag F.SWC_CAP_STAT_TRIGGERED && bit (s.get F.SWC_CAP_FILT_TRIGOUT) outcome
    let post := match s.swc.capPost with
      | some n => some (n - 1)
      | none => if trig then some (s.get F.SWC_CAP_CFG_POST) else none
    let next := (s.swc.capNext + 1) % 4096
    let cnt := if full then 4096 else s.swc.capCount + 1
    let s := { s with swc := { s.swc with
      cap := Tbl.put s.swc.cap s.swc.capNext rec_, capNext := next, capSeq := (s.swc.capSeq + 1) % 2 ^ 32,
      capCount := cnt, capOldest := if full then next else s.swc.capOldest, capPost := post } }
    let s := if trig then s.setB F.SWC_CAP_STAT_TRIGGERED 0 true else s
    if post = some 0 ∨ (cnt = 4096 ∧ !wrap) then s.setB F.SWC_CAP_STAT_STOPPED 0 true else s

/-- The cells of a lossless frame return to the pool of the lane that brought it (R111, R142). [DEDUCED 38 unsafe] -/
def giveBack (s : State) (l : Lane) (f : Frame) : State :=
  if f.tc < 4 ∧ s.laneState l = 4 then
    s.onLane l (fun q => { q with grant := setAt q.grant f.tc ((q.grant.getD f.tc 0 + f.cells) % 65536) })
  else s

/-- Return the cells of a frame to the pool they were charged to (R142). -/
def freeBuf (s : State) (h : Nat) : State :=
  match s.buf? h with
  | none => s
  | some b =>
    let s := { s with swc := { s.swc with
      bufs := Tbl.erase s.swc.bufs h, cellOwner := s.swc.cellOwner.filter (fun p => decide (p.2 ≠ h)), waiters := s.swc.waiters.erase h } }
    match b.pool with
    | .shared => s
    | .lossless p tc =>
      if isLane p then s.giveBack (laneOf p) b.fr
      else
        { s with swc := { s.swc with
            llUsed := Tbl.put s.swc.llUsed (p * 4 + tc) (Tbl.getD s.swc.llUsed (p * 4 + tc) 0 - b.fr.cells) } }

/-- A frame with no queue, no copy in progress and no decision left leaves the buffer (R142). -/
def release (s : State) (h : Nat) : State :=
  match s.buf? h with
  | none => s
  | some b =>
    let busy := s.swc.sending.any (fun p => decide (p.2.handle = h))
      || s.swc.fifo.any (fun p => p.2.any (fun c => decide (c.1 = h)))
    if b.links.isEmpty && b.waitLinks.isEmpty && !b.undecided && !busy && decide (b.cells.length = b.fr.cells) then
      s.freeBuf h
    else s

/-- The header with which a frame leaves on a ring lane (R86, R87): RING for a frame of this hub, EPP and HOPIV of the
lane's transmit key; a TSYNC is rewritten as it departs (R345). Lane T has no cipher (R444). -/
def outgoing (s : State) (l : Lane) (b : Buf) : Frame × State :=
  if l = .t then (b.fr, s)
  else
  let (iv, epp, s) := s.nextHopiv l
  let f := if b.transit then b.fr else { b.fr with ring := decide (l = .w) }
  let f :=
    if isTime f && decide (mgtOp f = 0x20) && !b.transit then
      { f with pay := patch (patch f.pay 4 (be 6 s.sec)) 10 (be 4 s.nsec) }
    else if isTime f && decide (mgtOp f = 0x20) then
      let st := s.get F.TIM_STAT_STATE
      let hops := min 255 (beAt f.pay 3 1 + 1)
      let p := patch f.pay 3 (be 1 hops)
      if (st = 3 ∨ st = 4) ∧ !s.flag F.TIM_CTL_TCFORCE then
        let p := patch (patch (patch p 4 (be 6 s.sec)) 10 (be 4 s.nsec)) 14 (zeros 8)
        { f with pay := patch p 1 (be 1 (beAt p 1 1 / 4 * 4 + beAt p 1 1 % 2)) }
      else
        let inLane := if b.port = 0 then 0 else 1
        let add : Int := s.tim.df.getD inLane 0 + ((s.tim.n - b.headTime) / 2 ^ 16 : Nat)
        let corr := unsgn 64 (sgn 64 (beAt p 14 8) + add)
        { f with pay := patch (patch p 14 (be 8 corr)) 1 (be 1 (beAt p 1 1 / 4 * 4 + 2 + beAt p 1 1 % 2)) }
    else f
  ({ f with epp := epp, hopiv := iv }, s)

/-- The IV of a frame on a lane (R86): this hub's number, the lane code, RING, zero, and HOPIV. -/
def frameIv (s : State) (l : Lane) (f : Frame) : List Byte :=
  be 1 s.hubNum ++ be 1 (l.ix + 1) ++ be 1 (b2n f.ring) ++ be 1 0 ++ be 8 f.hopiv

/-- The bytes of a frame on a lane (R85 to R88, R444): header, payload, tag and CRC. On a ring lane the payload is encrypted and the tag
computed under the lane's transmit key of the epoch that EPP names; lane T has no cipher and a zero tag. -/
def wire (s : State) (l : Lane) (f : Frame) : List Byte :=
  let h := f.header
  let (text, tag) := if l = .t then (f.pay, zeros 16)
    else gcmSeal (s.slot (linkSlot l true (b2n f.epp))).key (s.frameIv l f) h f.pay
  let body := h ++ text ++ tag
  body ++ be 4 (crc32 body)

/-- The initiator for which a frame leaves a host port. -/
def hostDest (f : Frame) : Nat :=
  if f.dst = 0xFE then 0 else match f.tt with
  | .cmp => f.init
  | .pub => beAt f.pay 2 1
  | _ => f.hopiv % 256

/-- The bytes of a frame on a host port (Table 03-6): the host's MAC address and the port's, the EtherType of the image, the header
with the host's tag and the payload length in bytes 24 to 27, the payload, padding to the minimum, and the FCS. [DESIGN CHOICE 197 unsafe, PRESUMED 199 unsafe] -/
def ethFrame (s : State) (p : Nat) (f : Frame) (inverted : Bool) : List Byte :=
  let mac := ((s.img.hosts.find? (fun e => decide (e.port = p) && decide (e.init = hostDest f))).map (fun e => e.mac)).getD (2 ^ 48 - 1)
  let h := { f with hopiv := f.hopiv / 2 ^ 48 * 2 ^ 48 + f.pay.length % 2 ^ 16 * 2 ^ 32 }.header
  let l := be 6 mac ++ be 6 (Config.portMac p).toNat ++ be 2 (s.get F.Hx_CTL_ETYPE p) ++ h ++ f.pay
  let l := l ++ zeros (60 - l.length)
  l ++ le 4 (if inverted then crc32 l ^^^ 0xFFFFFFFF else crc32 l)

/-- A frame ends on a host port. -/
def hostOut (s : State) (p : Nat) (f : Frame) (inverted : Bool) : State :=
  s.emit (.host p f (f.hopiv / 2 ^ 48) inverted (s.ethFrame p f inverted))

/-- A TC0 frame that was sent between SUSP and RESM has ended (R82). -/
def resume (s : State) (out : Nat) : State :=
  if isLane out && (s.lane (laneOf out)).txSusp then
    (s.emit (.word (laneOf out) 5 0)).onLane (laneOf out) (fun q => { q with txSusp := false }) else s

/-- The frame has a copy or cells on a FIFO path. -/
def onPath (s : State) (path h : Nat) : Bool :=
  ((Tbl.find? s.swc.sending path).map (fun x => decide (x.handle = h))).getD false
    || (Tbl.getD s.swc.fifo path []).any (fun c => decide (c.1 = h))

/-- A copy in progress ends bad at an output (R101): an error control block on a lane, an inverted FCS on a host port; a
local consumer discards what it has staged (R147). -/
def endBad (s : State) (out h : Nat) : State :=
  let tc0 := s.onPath (12 + out) h
  let s := { s with swc := { s.swc with
    sending := s.swc.sending.filter (fun p => !(decide (p.1 % 12 = out) && decide (p.2.handle = h))),
    fifo := s.swc.fifo.map (fun (p : Nat × List (Nat × Nat)) => if p.1 % 12 = out then (p.1, p.2.filter (fun c => decide (c.1 ≠ h))) else p) } }
  match s.buf? h with
  | none => s
  | some b =>
    let s := s.bump F.SWn_CNT_BADEND out
    let (s, f) : State × Frame :=
      if isLane out then
        let (f, s) := s.outgoing (laneOf out) b
        let s := (s.emit (.lane (laneOf out) f true [])).bump F.Lx_CNT_BADTX out
        let s := s.onLane (laneOf out) (fun q => { q with fillSince := none })
        (if tc0 then s.resume out else s, f)
      else if out ≤ 3 then ((s.hostOut (out - 2) b.fr true).bump F.Hx_CNT_FCSINV (out - 2), b.fr)
      else if out = 5 then (s.bump F.EPO_CNT_BADDISC, b.fr)
      else (s, b.fr)
    s.capture b.capOn out 1 (if b.poisoned then 6 else 4) (16 * out + b.fr.tc) f (b.headTime / 2 ^ 32)

/-- Outputs that are sending a frame or hold cells of it. -/
def outputsOf (s : State) (h : Nat) : List Nat :=
  (List.range 12).filter (fun o =>
    s.swc.sending.any (fun p => decide (p.1 % 12 = o) && decide (p.2.handle = h))
      || s.swc.fifo.any (fun p => decide (p.1 % 12 = o) && p.2.any (fun c => decide (c.1 = h))))

/-- The samples of a frame take its verdict (R166). -/
def markSamples (s : State) (h : Nat) (v : Verdict) : State :=
  s.onSwc fun w => { w with samples := w.samples.map (fun (x : Sample) => if x.handle = h then { x with verdict := v } else x) }

/-- A frame whose mark becomes BAD (R147): copies in progress end, queue links go, the cells are zeroed and freed. -/
def zeroFrame (s : State) (h : Nat) : State :=
  let s := s.markSamples h .bad
  match s.buf? h with
  | none => s
  | some b =>
    let s := (s.outputsOf h).foldl (fun s o => s.endBad o h) s
    let s := b.links.foldl (fun s q => s.unlinkQ q h) s
    (s.freeBuf h).bump F.SWC_CNT_ZERO

/-- Mark a frame GOOD (R145). -/
def markGood (s : State) (h : Nat) : State := (s.updBuf h (fun b => { b with verdict := .good })).markSamples h .good

/-- The destination queues of a frame's local copies at this hub: those of its group's port mask less the entry port
(R154), or its one local queue; a frame for a host initiator leaves the port, of either twin, on which the initiator's
latest frame arrived (R449). -/
def localCopies (s : State) (port : Nat) (f : Frame) : List Nat :=
  if f.dst = 0xFE then
    if s.flag F.SWC_MCG_DATA_MEMBER f.group then
      ((maskBits (s.get F.SWC_MCG_DATA_PORTS f.group * 4) 12).filter (fun p => decide (p ≠ port))).map
        (fun p => if p = 6 then s.bridgeQueue f else 16 * p + f.tc)
    else []
  else
    let q := s.localQueue f
    if portOfQ q = 2 ∨ portOfQ q = 3 then
      let init := if f.tt = .cmp then f.init else beAt f.pay 2 1
      if s.standby then (if port = 4 then [q] else [])
      else if s.activeTwin && s.twn.hostAt.contains init then [64 + f.tc]
      else [q]
    else [q]

/-- A block whose reset the prelude still holds back (R479). -/
def inPrelude (s : State) (b : Nat) : Bool :=
  match s.ckr.prelude with
  | some (3, m) => bit m b
  | _ => false

/-- A block is held in reset (R480). -/
def blockReset (s : State) (b : Nat) : Bool := bit (s.get F.CKR_BLKRST_BLK) b && !s.inPrelude b

/-- A block is held in reset or its clock is gated: its registers answer BUSY, and it does nothing (R475, R477, R482). [DEDUCED 16 safe] -/
def blockBusy (s : State) (b : Nat) : Bool := s.blockReset b || bit (s.get F.CKR_GACK_BLK) b

/-- An egress port can take copies: its lane or port is enabled and in service. -/
def portUp (s : State) (p : Nat) : Bool :=
  if isLane p then decide (s.laneState (laneOf p) = 4)
  else if p ≤ 3 then s.flag F.Hx_CTL_EN (p - 2)
  else true

/-- The block behind a local egress port, where one block alone is behind it (Table 04-1). [DEDUCED 181 unsafe] -/
def portBlock (p : Nat) : Option Nat :=
  if p = 5 then some 4 else if p = 6 then some 9 else if p = 8 then some 19 else if p = 10 then some 5 else if p = 11 then some 14 else none

/-- A destination port is neither disabled nor in reset (R157). -/
def portServes (s : State) (p : Nat) : Bool := s.portUp p && !(portBlock p).any (fun b => s.blockReset b)

/-- A group that is all-or-nothing (R157). -/
def isAon (s : State) (f : Frame) : Bool := decide (f.dst = 0xFE) && s.flag F.SWC_MCG_DATA_AON f.group

/-- The local copies that R136 refuses at a frame's head, counted for a group (R156, R157): all of them in a group that is
all-or-nothing. -/
def denyLocal (s : State) (f : Frame) (qs : List Nat) : List Nat × State :=
  let no := qs.filter (fun q => !s.admits q f.tc)
  if f.dst ≠ 0xFE ∨ no.isEmpty then (no, s)
  else if s.isAon f then (qs, s.bump F.SWC_CNT_AONREF)
  else (no, no.foldl (fun s q => s.bump F.SWn_CNT_MCREF (portOfQ q)) s)

/-- A frame waits for room in local queues, behind those that wait already (R141, R143). [DEDUCED 180 unsafe] -/
def waitOn (s : State) (h : Nat) (qs : List Nat) (aon : Bool) : State :=
  (s.updBuf h (fun b => { b with waitLinks := qs, aonWait := aon })).onSwc fun w => { w with waiters := w.waiters ++ [h] }

/-- Link the local copies of an admitted frame, less those that its head's admission refused (R136, R141, R143, R156, R157). [DEDUCED 180 unsafe] -/
def linkLocal (s : State) (h : Nat) : State :=
  match s.buf? h with
  | none => s
  | some b =>
    let f := b.fr
    let qs := (s.localCopies b.port f).filter (fun q => decide (q ∉ b.denied))
    let s := s.updBuf h (fun b => { b with undecided := false })
    if s.isAon f then
      if qs.isEmpty then s.release h
      else if !qs.all (fun q => s.portServes (portOfQ q)) then (s.bump F.SWC_CNT_AONREF).release h
      else if qs.all (fun q => s.opens q h f) then qs.foldl (fun s q => s.linkQ q h false) s
      else s.waitOn h qs true
    else
      let t := (qs.filter (fun q => s.opens q h f)).foldl (fun s q => s.linkQ q h false) s
      let wait := qs.filter (fun q => !s.opens q h f)
      if wait.isEmpty then t.release h else t.waitOn h wait false

end State

end Sys2Proof.Machine
end

