-- ==== Sys2Proof/Machine/Access.lean ====
section
/-! DEFINITION. Region permissions and command locks: the checks that several blocks share (R52 to R55, R216). -/
namespace Sys2Proof.Machine

/-- The kind of an access to a region: R for RD, W for WR and WRN, A for RMW (R52). -/
inductive Perm where
  | r | w | a
  deriving DecidableEq, Repr

/-- Whether a region permits a class an access. -/
def Region.permits (g : Region) (c : InitClass) (k : Perm) : Bool :=
  bit (match k with | .r => g.r | .w => g.w | .a => g.a) c.code

/-- The bytes that a range has in common with a region. -/
def Region.overlap (g : Region) (off len : Nat) : Nat := min (g.base + g.size) (off + len) - max g.base off

/-- The data length of a request: what an RD or RMW names, or the data that a write carries. -/
def dataLen (f : Frame) : Nat := State.logLen f

/-- The range of an RD, WR or WRN: 1 to 1,024 bytes within one block of 1 KiB (R41, R42). -/
def rangeOk (f : Frame) : Bool := decide (1 ≤ dataLen f) && decide (f.offset % 1024 + dataLen f ≤ 1024)

/-- The permission that a request needs (R52). -/
def permOf (f : Frame) : Perm :=
  match f.tt with
  | .rd => .r
  | .rmw => .a
  | _ => .w

namespace State

/-- The reason (Table 02-8) for which a range is refused to a class (R53, R55): 0, a region without the permission; 1,
bytes in no region for a class other than Mirik. None if it is permitted. -/
def refusal (s : State) (c : InitClass) (space off len : Nat) (k : Perm) : Option Nat :=
  let gs := s.img.regions.filter (fun g => decide (g.space = space) && decide (0 < g.overlap off len))
  if gs.any (fun g => !g.permits c k) then some 0
  else if c ≠ .mirik ∧ (gs.map (fun g => g.overlap off len)).sum < len then some 1
  else none

/-- The holder of a lock is this initiator (R216). -/
def holds (s : State) (k : LockId) (hub init : Nat) : Bool :=
  match Tbl.find? s.locks k.ix with
  | some l => decide (l.hub = hub) && decide (l.init = init)
  | none => false

/-- Release a lock. -/
def unlock (s : State) (k : LockId) : State := { s with locks := Tbl.erase s.locks k.ix }

end State

/-- The read of a lock register (R216): the word that it returns, and the state. [DEDUCED 66 unsafe] -/
def lockRead (k : LockId) (hub init : Nat) (s : State) : Word × State :=
  match Tbl.find? s.locks k.ix with
  | some l => (BitVec.ofNat 32 (l.hub * 2 ^ 8 + l.init * 2 ^ 16), s)
  | none =>
    (BitVec.ofNat 32 (1 + hub * 2 ^ 8 + init * 2 ^ 16),
     { s with locks := Tbl.put s.locks k.ix { hub := hub, init := init, since := s.up } })

/-- CMD_LOCK_TIMEOUT (R216): the lock is released 10 ms after the grant. [DEDUCED 66 unsafe] -/
def execCmdLockTimeout (lock : LockId) (s : State) : Out :=
  match Tbl.find? s.locks lock.ix with
  | none => .next s
  | some l => .next (if s.up < l.since + 10000000 then s else s.unlock lock)

/-- A write to a command register under a lock (R216): refused with BUSY unless its initiator holds the lock. -/
def locked (k : LockId) (f : Frame) (s : State) (g : State → State.Res × State) : State.Res × State :=
  if s.holds k f.src f.init then g s else ({ st := .busy }, s)

end Sys2Proof.Machine
end

