-- ==== Sys2Proof/Machine/Publish.lean ====
section
/-! DEFINITION. Endpoint objects and publication (chapter 06): updates, changes, publish rules, subscriptions, mirrors,
accesses in space 0x2 and bulk copies. -/
namespace Sys2Proof.Machine

/-! ### Types and distances (Table 06-2) -/

/-- Infinity, above every binary32 magnitude in units of 2^-149. -/
def f32Inf : Nat := 2 ^ 400

/-- The magnitude of a binary32 word in units of 2^-149; none for a NaN. -/
def f32Mag (w : Nat) : Option Nat :=
  let e := bits w 30 23
  let m := bits w 22 0
  if e = 255 then (if m = 0 then some f32Inf else none)
  else if e = 0 then some m else some ((2 ^ 23 + m) * 2 ^ (e - 1))

/-- The value of a binary32 word as an integer in units of 2^-149; none for a NaN. -/
def f32Int (w : Nat) : Option Int := (f32Mag w).map (fun m => if bit w 31 then -(m : Int) else (m : Int))

/-- A magnitude rounded to binary32, to nearest and ties to even. [PRESUMED 59 unsafe] -/
def f32Round (m : Nat) : Nat :=
  if m < 2 ^ 24 then m
  else
    let k := Nat.log2 m - 23
    let q := m / 2 ^ k
    let r := m % 2 ^ k
    let up := decide (2 ^ k < 2 * r) || (decide (2 ^ k = 2 * r) && decide (q % 2 = 1))
    let v := (q + b2n up) * 2 ^ k
    if 2 ^ 277 ≤ v then f32Inf else v

/-- Whether abs(a − b) exceeds a deadband in binary32 (Table 06-2): infinite if either value is a NaN. [DEDUCED 58 unsafe, PRESUMED 59 unsafe] -/
def f32Exceeds (a b db : Nat) : Bool :=
  match f32Int db with
  | none => false
  | some d =>
    match f32Int a, f32Int b with
    | some x, some y =>
      if x = y then decide (d < 0) && decide (x.natAbs < f32Inf)
      else decide (d < (if x.natAbs = f32Inf ∨ y.natAbs = f32Inf then f32Inf else f32Round (x - y).natAbs : Nat))
    | _, _ => decide (d < (f32Inf : Int))

/-- Whether the distance of two values of a type exceeds a deadband (Table 06-2). [DEDUCED 58 unsafe] -/
def exceeds (type : Nat) (signed : Bool) (a b db : Nat) : Bool :=
  if type = 0 ∨ 6 ≤ type then decide (a ≠ b)
  else if type = 5 then decide (db < (a + 2 ^ 64 - b) % 2 ^ 64)
  else if type = 4 then f32Exceeds a b (db % 2 ^ 32)
  else
    let n := if type = 1 then 16 else if type = 2 then 32 else 64
    let x : Int := if signed then sgn n a else a
    let y : Int := if signed then sgn n b else b
    decide (db < (x - y).natAbs)

/-- An input binding (Table 06-4). -/
def Obj.isInput (o : Obj) : Bool := decide (1 ≤ o.kind) && decide (o.kind ≤ 6)

/-- The requested value of an object (R195). -/
def Obj.requested (o : Obj) : Nat := o.req.getD o.value

/-- The 16 bytes of an object (Table 06-1). -/
def Obj.bytes (o : Obj) : List Byte :=
  be 8 o.value ++ be 1 o.sec ++ be 4 (o.ns % 2 ^ 30) ++ be 1 (o.qual % 64) ++ be 2 o.cseq

/-- The flags of QUAL (Table 06-3). -/
def qINIT : Nat := 1
/-- STALE. -/
def qSTALE : Nat := 2
/-- FAULT. -/
def qFAULT : Nat := 4
/-- OVRD. -/
def qOVRD : Nat := 8
/-- LOST. -/
def qLOST : Nat := 16
/-- SUBST. -/
def qSUBST : Nat := 32

/-- QUAL with flags set and cleared; a flag in both is set. [DEDUCED 56 unsafe] -/
def qualWith (q set clr : Nat) : Nat := (q &&& (63 - clr)) ||| set

namespace State

/-- An object that the image defines. -/
def obj? (s : State) (i : Nat) : Option Obj := Tbl.find? s.epo.objs i

/-- Store an object. -/
def setObj (s : State) (i : Nat) (o : Obj) : State := s.onEpo fun e => { e with objs := Tbl.put e.objs i o }

/-- The objects of an image as a load begins with them: their STALE times and period timers run (R185, R199). -/
def freshObjs (s : State) (m : Map Obj) : Map Obj := m.map (fun (p : Nat × Obj) => (p.1, { p.2 with upAt := s.up, perAt := s.up }))

/-- The deadband of a publish rule. -/
def deadband (s : State) (r : Nat) : Nat := s.get F.EPO_PRULE_DBHI_DB r * 2 ^ 32 + s.get F.EPO_PRULE_DBLO_DB r

/-- Trigger an object (R199): publish it, or mark it deferred within MININT of its last publication. `due` says that
MININT has passed. -/
def trigger (s : State) (i : Nat) (due : Bool) : State :=
  match s.obj? i with
  | none => s
  | some o =>
    let early := match o.pub with
      | none => false
      | some (_, _, t) => decide (s.up < t + s.get F.EPO_PRULE_TIM_MININT o.prule * 1000)
    if early && !due then s.setObj i { o with deferred := true }
    else
      let s := s.setObj i { o with pub := some (o.value, o.qual, s.up), deferred := false, perAt := s.up }
      let s := s.onEpo fun e => { e with subs := e.subs.map (fun p =>
        if p.2.first ≤ i ∧ i < p.2.first + p.2.count then
          (p.1, { p.2 with pending := Tbl.put p.2.pending i (), since := if p.2.pending.isEmpty then s.up else p.2.since })
        else p) }
      if o.hist && !s.standby then
        s.record 1 { kind := 1, aux := o.qual, sec := o.sec, ns := o.ns, index := i, seq2 := o.cseq,
                     aux2 := o.type + 8 * b2n o.signed, data := o.value }
      else s

/-- Evaluate a change against the object's publish rule (R199). -/
def evaluate (s : State) (i : Nat) (due : Bool := false) : State :=
  match s.obj? i with
  | none => s
  | some o =>
    let mode := s.get F.EPO_PRULE_CFG_MODE o.prule
    if mode = 0 then s
    else
      let hit := match o.pub with
        | none => true
        | some (v, q, _) => decide (o.qual ≠ q) || (bit mode 0 && decide (o.value ≠ v))
            || (bit mode 1 && exceeds o.type o.signed o.value v (s.deadband o.prule))
      if hit then s.trigger i due else s

/-- Hand a change in the effective value of an output-bound object to its sink (R191). -/
def handOver (s : State) (i : Nat) (o : Obj) : State :=
  if 8 ≤ o.kind ∧ o.kind ≤ 11 then
    s.onEpo fun e => { e with handed := e.handed ++ [{ obj := i, kind := o.kind, index := o.index, value := o.value }] }
  else s

/-- Complete an update (R187): CSEQ advances if VALUE or QUAL changed, and the change is evaluated. -/
def finish (s : State) (i : Nat) (old new : Obj) : State :=
  if old.value = new.value ∧ old.qual = new.qual then s.setObj i new
  else
    let s := (s.setObj i { new with cseq := (old.cseq + 1) % 65536 }).evaluate i
    if old.value = new.value then s else s.handOver i new

/-- A source's update of its object (R185, R186, R190). While a reflex output holds the object a value goes into the
requested value and is no update (R70). [DEDUCED 56 unsafe, DEDUCED 57 unsafe] -/
def sourceUpdate (s : State) (u : Update) : State :=
  match s.obj? u.obj with
  | none => s
  | some o =>
    let n := { o with sec := u.sec, ns := u.ns }
    match u.rep with
    | .fail => s.finish u.obj o { n with qual := qualWith o.qual qFAULT 0 }
    | .sinkOk => s.finish u.obj o { n with qual := qualWith o.qual 0 qFAULT }
    | .value v lost =>
      let v := v % typeMod o.type
      let n := { n with upAt := s.up }
      if o.req.isSome then s.setObj u.obj { o with req := some v, upAt := s.up }
      else
        s.finish u.obj o { n with value := v,
                                  qual := qualWith o.qual (if lost then qLOST else 0) (qINIT + qSTALE + qFAULT + qLOST + qSUBST) }

/-- A fabric write of an object's VALUE (R190, R194, R70): the flag OVRD, and the state. -/
def fabricWrite (s : State) (i : Nat) (o : Obj) (v : Nat) : Bool × State :=
  let v := v % typeMod o.type
  if o.req.isSome then (true, s.setObj i { o with req := some v })
  else
    (false, s.finish i o { o with value := v, sec := s.sec, ns := s.nsec,
                                  qual := qualWith o.qual (if o.isInput then qSUBST else 0) qINIT })

/-- A reflex output holds an object, or changes the value it holds it at (R70, R72, R195). [DEDUCED 57 unsafe] -/
def holdObj (s : State) (i v : Nat) : State :=
  match s.obj? i with
  | none => s
  | some o =>
    s.finish i o { o with value := v % typeMod o.type, req := some o.requested, sec := s.sec, ns := s.nsec,
                          qual := qualWith o.qual qOVRD 0 }

/-- A reflex output releases an object: the requested value becomes effective (R71, R195). [DEDUCED 57 unsafe] -/
def releaseObj (s : State) (i : Nat) : State :=
  match s.obj? i with
  | none => s
  | some o =>
    match o.req with
    | none => s
    | some v =>
      s.finish i o { o with value := v, req := none, sec := s.sec, ns := s.nsec, qual := qualWith o.qual 0 qOVRD }

/-- EPO performs an item of RFX's link (R195, R206). -/
def performRfx (s : State) (x : RfxItem) : State :=
  match x with
  | .update u => s.sourceUpdate u
  | .hold i (some v) => s.holdObj i v
  | .hold i none => s.releaseObj i

/-- The object that an item of RFX's link concerns. -/
def itemObj (x : RfxItem) : Nat := match x with | .update u => u.obj | .hold i _ => i

/-- The reflex and source updates that have reached EPO go before a fabric write to the same object (R189), each link in its order
(R192). [DEDUCED 61 unsafe] -/
def arrived (s : State) (i : Nat) : State :=
  let r := s.epo.rfx.take 32
  let s := if r.any (fun x => decide (itemObj x = i)) then r.foldl performRfx (s.onEpo fun e => { e with rfx := e.rfx.drop 32 }) else s
  let b := s.epo.binder.take 64
  if b.any (fun u => decide (u.obj = i)) then b.foldl sourceUpdate (s.onEpo fun e => { e with binder := e.binder.drop 64 }) else s

/-- A double-bit error in an object (R196): it is rewritten with its initial value; a hold goes on. The rewrite is a
change. [DEDUCED 60 unsafe] -/
def repairObj (s : State) (i : Nat) : State :=
  match s.obj? i with
  | none => s
  | some o =>
    let held := o.req.isSome
    let n := { o with value := if held then o.value else o.init, req := if held then some o.init else none,
                      sec := s.sec, ns := s.nsec, cseq := 0, qual := qINIT + qFAULT + (if held then qOVRD else 0) }
    let s := ((s.bump F.EPO_CNT_UNCORR).set F.EPO_ECC_LAST_OBJ 0 i).set F.EPO_ECC_LAST_SEEN 0 1
    let s := (s.setObj i n).evaluate i
    if o.value = n.value then s else s.handOver i n

end State

/-! ### Accesses in space 0x2 (R193, R194) -/

/-- RD of a range of space 0x2: the bytes of the objects that it covers. -/
def epoBytes (s : State) (off len : Nat) : List Byte :=
  (List.range len).map (fun k => (((s.obj? ((off + k) / 16)).map Obj.bytes).getD []).getD ((off + k) % 16) 0)

/-- The objects that a range covers. -/
def objsOf (off len : Nat) : List Nat := (List.range ((off + len - 1) / 16 + 1 - off / 16)).map (fun k => off / 16 + k)

/-- WR or WRN of a range of space 0x2 (R194, R189): bytes 0 to 7 of each object, in ascending index order. -/
def epoWrite (off : Nat) (data : List Byte) (s : State) : Bool × State :=
  (objsOf off data.length).foldl (fun (a : Bool × State) i =>
    let at_ (k : Nat) : Option Byte := if off ≤ 16 * i + k then data[16 * i + k - off]? else none
    if (List.range 8).any (fun k => (at_ k).isSome) then
      let t := a.2.arrived i
      match t.obj? i with
      | none => a
      | some o =>
        let old := be 8 o.requested
        let (ov, t) := t.fabricWrite i o (unbe ((List.range 8).map (fun k => (at_ k).getD (old.getD k 0))))
        (a.1 || ov, t)
    else a) (false, s)

/-! ### Commands -/

/-- SOURCE_UPDATE (R186, R189): EPO performs the next update that waits. One of RFX goes first, and one of the binder waits for every
hold change that has reached EPO for its object. [DEDUCED 56 unsafe, DEDUCED 61 unsafe] -/
def execSourceUpdate (s : State) : Out :=
  match s.epo.rfx with
  | .update u :: rest => .next ((s.onEpo fun e => { e with rfx := rest }).sourceUpdate u)
  | r =>
    match s.epo.binder with
    | u :: rest =>
      if (r.take 32).any (fun x => decide (State.itemObj x = u.obj)) then .next s
      else .next ((s.onEpo fun e => { e with binder := rest }).sourceUpdate u)
    | [] => .next s

/-- HOLD_CHANGE (R195): EPO performs the hold change at the front of RFX's link. [DEDUCED 61 unsafe] -/
def execHoldChange (s : State) : Out :=
  match s.epo.rfx with
  | .hold i v :: rest =>
    .next ((s.onEpo fun e => { e with rfx := rest }).performRfx (.hold i v))
  | _ => .next s

/-- PERIOD_TIMER (R199, R200): the period timer of an object whose rule has PER triggers it, PERIOD after its latest publication or after
the load. [DESIGN CHOICE 4 safe] -/
def execPeriodTimer (obj : Nat) (s : State) : Out :=
  match s.obj? obj with
  | none => .next s
  | some o =>
    .next (if bit (s.get F.EPO_PRULE_CFG_MODE o.prule) 2 ∧ !o.deferred ∧ o.perAt + s.get F.EPO_PRULE_CFG_PERIOD o.prule * 1000000 ≤ s.up
      then s.trigger obj false else s)

/-- DEFERRED_EVALUATION (R199): a deferred object is evaluated as a change at its publication time plus MININT. -/
def execDeferredEvaluation (obj : Nat) (s : State) : Out :=
  match s.obj? obj with
  | none => .next s
  | some o =>
    let due := match o.pub with
      | some (_, _, t) => decide (t + s.get F.EPO_PRULE_TIM_MININT o.prule * 1000 ≤ s.up)
      | none => true
    .next (if o.deferred && due then (s.setObj obj { o with deferred := false }).evaluate obj true else s)

/-- STALE_TIMEOUT (R185, R186): no source update came within the STALE time of an input-bound object's rule since the load or the latest
one; the time stamp is that at which the time ran out. [DESIGN CHOICE 4 safe, DEDUCED 56 unsafe] -/
def execStaleTimeout (obj : Nat) (s : State) : Out :=
  match s.obj? obj with
  | none => .next s
  | some o =>
    let n := s.get F.EPO_PRULE_TIM_STALE o.prule
    let due := o.upAt + n * 1000000
    if o.isInput ∧ n ≠ 0 ∧ due ≤ s.up ∧ !bit o.qual 1 then
      let t := s.ns - (s.up - due)
      .next (s.finish obj o { o with qual := qualWith o.qual qSTALE 0, sec := t / 10 ^ 9, ns := t % 10 ^ 9 })
    else .next s

/-- OBJECT_SCRUB (R196): one object is scrubbed; `err` is 0, 1 or 2 for no, a single-bit or a double-bit error. [DEDUCED 60 unsafe] -/
def execObjectScrub (err : Nat) (s : State) : Out :=
  let i := s.epo.scrubAt
  let s := s.onEpo fun e => { e with scrubAt := (i + 1) % 65536 }
  .next (if err = 1 then s.bump F.EPO_CNT_CORR else if err = 2 then s.repairObj i else s)

namespace State

/-- Whether a subscription's PUB frame is to be built (R202). -/
def subReady (s : State) (b : Sub) : Bool :=
  !b.pending.isEmpty && (decide (s.get F.EPO_PUBCFG_BATCH = 0) || b.timerDone || decide (82 ≤ b.pending.length))

/-- A PUB entry (Table 06-7). -/
def pubEntry (i : Nat) (o : Obj) : List Byte :=
  be 2 i ++ be 1 (o.type + 8 * b2n o.signed) ++ be 1 o.qual ++ be 6 o.sec ++ be 4 o.ns ++ be 2 o.cseq ++ be 8 o.value

/-- A PUB payload (Tables 06-6, 06-7). -/
def pubPayload (sink flags id frame sec ns : Nat) (es : List (Nat × Obj)) : List Byte :=
  be 2 es.length ++ be 1 sink ++ be 1 flags ++ be 2 id ++ be 2 frame ++ be 6 sec ++ be 4 ns ++ [0, 0]
    ++ es.flatMap (fun e => pubEntry e.1 e.2)

/-- Send a PUB frame to a group or a host (R204). -/
def sendPub (s : State) (tc : Nat) (toHost : Bool) (dest : Nat) (pay : List Byte) : State :=
  let dst := if toHost then dest % 256 else 0xFE
  let f : Frame := { tt := .pub, tc := tc, dst := dst, init := 3, len := pay.length, pay := pay,
                     addr := fabAddr dst 2 (if toHost then 0 else dest % 4096 * 2 ^ 24) }
  (if s.reachable dst then s.bump F.EPO_CNT_PUBFRM else s).sendPosted 5 f

/-- Build the next PUB frame of a subscription (R201, R202, R204). -/
def buildPub (s : State) (k : Nat) (b : Sub) : State :=
  let es := (b.pending.take 82).filterMap (fun p => (s.obj? p.1).map (fun o => (p.1, o)))
  let rest := b.pending.drop 82
  let s := s.onEpo fun e => { e with rotor := k,
                                     subs := Tbl.put e.subs k { b with pending := rest, timerDone := b.timerDone && !rest.isEmpty } }
  s.sendPub b.tc b.toHost b.dest (pubPayload (if b.toHost then b.hostId else 0) 0 k 0 s.sec s.nsec es)

end State

/-- BATCH_TIMER (R202): the batch timer of a subscription ends, BATCH µs after its first pending bit. -/
def execBatchTimer (sub : Nat) (s : State) : Out :=
  match Tbl.find? s.epo.subs sub with
  | none => .next s
  | some b =>
    if b.pending.isEmpty ∨ s.up < b.since + s.get F.EPO_PUBCFG_BATCH * 1000 then .next s
    else .next (s.onEpo fun e => { e with subs := Tbl.put e.subs sub { b with timerDone := true } })

/-- The cells of the next PUB frame of a subscription (R89, R204). -/
def Sub.cells (b : Sub) : Nat := cdiv (72 + 24 * min 82 b.pending.length) 64

/-- PUB_FRAME_BUILD (R202, R205): EPO visits the subscriptions in rotating order and builds one PUB frame once SW5 credit covers it. A
standby twin originates none. -/
def execPubFrameBuild (s : State) : Out :=
  if s.standby then .next s
  else
    let ready := s.epo.subs.filter (fun p => s.subReady p.2)
    match (ready.filter (fun p => decide (s.epo.rotor < p.1)) ++ ready).head? with
    | none => .next s
    | some (k, b) => .next (if s.lossyCredit 5 b.cells then s.buildPub k b else s)

/-- A PUB entry applied to the REMOTE objects bound to it (R206). -/
def mirror (s : State) (src : Nat) (e : List Byte) : State :=
  let targets := s.epo.objs.filter (fun p => decide (p.2.kind = 6) && decide (p.2.index = src * 65536 + beAt e 0 2))
  targets.foldl (fun s p =>
    match s.obj? p.1 with
    | none => s
    | some o =>
      let cseq := beAt e 14 2
      let qual := beAt e 3 1 % 64
      if !bit qual 0 && decide (sdiff 16 cseq o.cseq ≤ 0) then s.bump F.EPO_CNT_MIRSTALE
      else
        let v := beAt e 16 8 % typeMod o.type
        let q := qualWith qual (if o.req.isSome then qOVRD else 0) 0
        let n := { o with value := if o.req.isSome then o.value else v, req := o.req.map (fun _ => v),
                          qual := q, cseq := cseq, sec := beAt e 4 6, ns := beAt e 10 4 }
        let s := s.setObj p.1 n
        if o.value = n.value ∧ o.qual = n.qual then s else s.evaluate p.1) s

/-- PUB (R206, R197): EPO applies the entries of a PUB frame to its mirrors; one of an initiator of no class or without the posted flag is
refused (R41, R45, R59). -/
def execPub (f : Frame) (s : State) : Out :=
  if classOf s.hubNum f.src f.init = none ∨ !f.pst then .next (s.settle 5 f { st := .ur })
  else .next ((List.range (beAt f.pay 0 2)).foldl (fun s k => mirror s f.src (slice f.pay (20 + 24 * k) 24)) (s.take f))

/-- The result of an EPO command. [DEDUCED 31 unsafe] -/
def epoRes (s : State) (index result : Nat) : State :=
  (s.set F.EPO_CMD_RES_INDEX 0 index).set F.EPO_CMD_RES_RESULT 0 result

/-- A range of defined objects (R206, R209). -/
def definedRange (s : State) (first count : Nat) : Bool :=
  decide (1 ≤ count) && decide (count ≤ 256) && (List.range count).all (fun k => (s.obj? (first + k)).isSome)

/-- SUB_ALLOC with the argument registers (R207, R208). [DEDUCED 68 unsafe] -/
def subAlloc (s : State) : Status × State :=
  let old := s.get F.EPO_CMD_RES_INDEX
  let first := s.get F.EPO_CMD_ARG0_FIRST
  let count := s.get F.EPO_CMD_ARG0_COUNT
  let tc := s.get F.EPO_CMD_ARG0_TC
  if !definedRange s first count || decide (tc < 4) || decide (7 < tc) then (.ok, epoRes s old 2)
  else
    let d := s.get F.EPO_SUB_USED_DEF
    match Tbl.firstFree s.epo.subs d (16384 - d) with
    | none => (.nores, (epoRes s old 1).bump F.EPO_CNT_SUBEXH)
    | some k =>
      let b : Sub := { first := first, count := count, tc := tc, toHost := s.flag F.EPO_CMD_ARG0_DSTKIND,
                       dest := s.get F.EPO_CMD_ARG1_DEST, hostId := s.get F.EPO_CMD_ARG1_HOSTID }
      (.ok, epoRes (s.onEpo fun e => { e with subs := Tbl.put e.subs k b }) k 0)

/-- SUB_FREE of a run-time subscription (R207). -/
def subFree (k : Nat) (s : State) : State :=
  let old := s.get F.EPO_CMD_RES_INDEX
  if s.get F.EPO_SUB_USED_DEF ≤ k ∧ Tbl.has s.epo.subs k then
    epoRes (s.onEpo fun e => { e with subs := Tbl.erase e.subs k }) old 0
  else epoRes s old 4

/-! ### Bulk copies (R215) -/

/-- A 4-byte count of bytes: the data of a BCOPY completion and of an ABORT's. -/
def countData (n : Nat) : List Byte := be 4 n

/-- BCOPY (R215): the request is checked in the order of R50 and held. -/
def execBcopy (f : Frame) (s : State) : Out :=
  let src := beAt f.pay 2 6
  let len := beAt f.pay 8 4
  let dst := beAt f.pay 12 6
  let tc := beAt f.pay 18 1 / 16
  let inBulk := match s.winOf src len with | some (.bulk _) => true | _ => false
  let hub := dst / 2 ^ 40
  let wrong := mgtRefused s.hubNum f || decide (f.pay.length ≠ 20) || !inBulk || decide (2 ^ 36 ≤ src) || decide (len = 0)
    || decide (2 ^ 20 < len) || decide (254 ≤ hub) || !s.reachable hub || decide (tc < 8) || decide (11 < tc) || decide (beAt f.pay 1 1 ≠ 0)
    || decide (beAt f.pay 18 1 % 16 ≠ 0) || decide (beAt f.pay 19 1 ≠ 0)
  if wrong then .next (s.settle 5 f { st := .ur })
  else
    match (classOf s.hubNum f.src f.init).bind (fun c => s.refusal c 4 src len .r) with
    | some r => .next (s.settle 5 f { st := .viol, reason := r })
    | none =>
      if 4 ≤ s.epo.copies.length then .next ((s.bump F.EPO_CNT_BCEXH).settle 5 f { st := .nores })
      else .next ((s.take f).onEpo fun e => { e with copies := e.copies ++ [{ req := f, src := src, len := len, dst := dst, tc := tc }] })

/-- BCOPY_FRAME_SEND (R215): the next WR frame of the oldest copy, once SW5 credit covers it: at most 1,024 bytes, within one 1 KiB-aligned
block of the destination; the request completes with its last frame. [DEDUCED 67 safe] -/
def execBcopyFrameSend (s : State) : Out :=
  match s.epo.copies with
  | [] => .next s
  | c :: rest =>
    let d := c.dst + c.sent
    let n := min (c.len - c.sent) (1024 - d % 1024)
    if !s.lossyCredit 5 (cdiv (n + 52) 64) then .next s else
    let data := Mem.readN s.bulk (c.src + c.sent) n
    let s := s.sendWrite 5 { tt := .wr, tc := c.tc, dst := d / 2 ^ 40 % 256, init := 3, pst := true, addr := d, len := n, pay := data }
    if c.len ≤ c.sent + n then
      .next ((s.onEpo fun e => { e with copies := rest }).answer 5 c.req { st := .ok, data := countData c.len })
    else .next (s.onEpo fun e => { e with copies := { c with sent := c.sent + n } :: rest })

end Sys2Proof.Machine
end

