-- ==== Sys2Proof/Machine/Time.lean ====
section
/-! DEFINITION. Fabric time and phase (chapter 11): TSYNC, lock states and servo, the grandmaster, IEEE 1588 on the host
ports, and the eight phase references. -/
namespace Sys2Proof.Machine

/-! ### Phase references (R358 to R364) -/

/-- The distance from one phase value to another in a direction, modulo 2^32. [DEDUCED 108 unsafe] -/
def phaseDist (back : Bool) (a b : Nat) : Nat := if back then (a + 2 ^ 32 - b) % 2 ^ 32 else (b + 2 ^ 32 - a) % 2 ^ 32

/-- A phase value moved in a direction. -/
def phaseMove (back : Bool) (a d : Nat) : Nat := if back then (a + 2 ^ 32 - d % 2 ^ 32) % 2 ^ 32 else (a + d) % 2 ^ 32

/-- The phase of a reference at N in units of 2^-32 ns (R360, R362): it does not go beyond `lim`, nor fall behind `held`. [DEDUCED 109 unsafe] -/
def PhRef.value (r : PhRef) (n : Nat) : Nat :=
  if r.stalled then r.held.getD r.phase
  else
    let travel := if r.test = 0 then 0 else (n - r.time * 2 ^ 32) * 65536 / (r.test * 2 ^ 32)
    let v := phaseMove r.back r.phase (min travel (phaseDist r.back r.phase r.lim))
    match r.held with
    | none => v
    | some h => if phaseDist r.back h v < 2 ^ 31 then v else h

/-- The value is held against a backward correction (PHn_STAT.HELD). -/
def PhRef.isHeld (r : PhRef) (n : Nat) : Bool :=
  match r.held with
  | none => false
  | some h => !r.stalled && decide (r.value n = h)

namespace State

/-- A phase reference. -/
def ref (s : State) (k : Nat) : PhRef := Tbl.getD s.phs k {}

/-- Store a phase reference. -/
def setRef (s : State) (k : Nat) (r : PhRef) : State := { s with phs := Tbl.put s.phs k r }

/-- A reference that is enabled and has a source (R358). -/
def refOn (s : State) (k : Nat) : Bool :=
  s.flag F.PHn_CFG_EN k && decide (1 ≤ s.get F.PHn_CFG_SRC k) && decide (s.get F.PHn_CFG_SRC k ≤ 4)

/-- The hub's value of PHk; 0 for a disabled reference. [DEDUCED 109 unsafe] -/
def phaseNow (s : State) (k : Nat) : Nat := if s.refOn k then (s.ref k).value s.tim.n else 0

/-- The jump threshold in phase units. [DEDUCED 108 unsafe] -/
def jumpThr (s : State) (k : Nat) : Nat := s.get F.PHn_CFG_JTHR k * 256

/-- Show an event of a reference in its registers. -/
def showEvent (s : State) (k phase time : Nat) : State :=
  (((s.set F.PHn_EVPH_VAL k phase).set F.PHn_EVNS_VAL k (time % 10 ^ 9)).set F.PHn_EVSEC_VAL k (time / 10 ^ 9)).bump F.PHn_CNT_EV k

/-- Store the period estimate of a reference. -/
def showPeriod (s : State) (k test : Nat) : State := s.set F.PHn_PERIOD_TEST k (test / 16)

/-- Test after a period sample (R360): the first one after enable, a stall or a jump seeds it. -/
def filterPeriod (s : State) (k : Nat) (seed : Bool) (test sample : Nat) : Nat :=
  if seed then sample else ((test : Int) + ((sample : Int) - test) / 2 ^ s.get F.PHn_CFG_FILT k).toNat

/-- D, the published events of an owned reference in a cycle. -/
def refD (s : State) (k : Nat) : Nat := 2 ^ s.get F.PHn_CFG_DCODE k

/-- Local events of an owned reference in a cycle (R359). -/
def refEvents (s : State) (k : Nat) : Nat :=
  if s.get F.PHn_CFG_SRC k = 2 then max 1 (s.get F.PHn_PARAM_PARAM k % 65536) else s.refD k

/-- An owned reference takes a local event (R359, R360, R364): `phase` at `time`, counted backward or not. `next` is the
value of the next local event; `jumped` says that an index edge found a disagreement beyond JTHR. [DEDUCED 108 unsafe] -/
def localEvent (s : State) (k : Nat) (r : PhRef) (phase time next : Nat) (back jumped : Bool) : State :=
  let now := r.value (time * 2 ^ 32)
  let turned := decide (back ≠ r.back)
  let off := min (phaseDist false now phase) (phaseDist true now phase)
  let jump := jumped || (!r.stalled && !turned && decide (r.test ≠ 0) && decide (s.jumpThr k < off))
  let reseed := r.stalled || jump
  let sampled := !reseed && !turned && r.last.isSome
  let test := if sampled then s.filterPeriod k r.seed r.test ((time - r.last.getD 0) * s.refEvents k) else r.test
  let events := if reseed then 1 else r.events + 1
  let pub := turned || jump || decide (phase % (65536 / s.refD k) = 0)
  let pend := if pub && s.flag F.PHn_CFG_PUB k then
      some { rev := turned, stall := false, jump := jump, phase := phase, time := time : PhEvent } else r.pend
  let s := s.setRef k { r with phase := phase, time := time, test := test, lim := phaseMove back next (2 ^ 32 - 1),
                               held := none, stalled := false, back := back, events := events, last := some time, pend := pend,
                               seed := reseed || (r.seed && !sampled) }
  let s := ((s.showEvent k phase time).showPeriod k test).set F.PHn_STAT_STALL k 0
  let s := (s.setB F.PHn_STAT_LOCK k (decide (2 ≤ events))).setB F.PHn_STAT_DIR k back
  let s := if turned then (s.set F.PHn_STAT_REVF k 1).bump F.PHn_CNT_REV k else s
  if jump then (s.set F.PHn_STAT_JUMPF k 1).bump F.PHn_CNT_JUMP k else s

/-- The time of the latest filtered edge of a pin (R220). -/
def edgeTime (s : State) (p : Nat) : Nat := (Tbl.getD s.fpn.pins p {}).edgeNs

/-- A reference is locked (R362, R364): a REMOTE one only while this hub's time counts as locked. -/
def phLock (s : State) (k : Nat) : Bool := s.flag F.PHn_STAT_LOCK k && (decide (s.get F.PHn_CFG_SRC k ≠ 4) || s.timeLocked)

/-- A zero crossing on a pin (R359), at its filtered edge time. -/
def zcEvent (s : State) (k : Nat) (r : PhRef) : State :=
  let lv := s.pinBit F.FPN_IN_PIN (s.get F.PHn_SRC_A k)
  let d := s.refD k
  if lv = r.a then s
  else if !lv ∧ d = 1 then s.setRef k { r with a := lv }
  else
    let step := 65536 / d
    let phase := if r.events = 0 ∧ !r.stalled then (if lv then 0 else 32768) else phaseMove false (r.phase / step * step) step
    s.localEvent k { r with a := lv } phase (s.edgeTime (s.get F.PHn_SRC_A k)) (phaseMove false phase step) false false

/-- A count or an index edge of an encoder (R359): up when A leads. [DEDUCED 108 unsafe] -/
def encEvent (s : State) (k : Nat) (r : PhRef) : State :=
  let a := s.pinBit F.FPN_IN_PIN (s.get F.PHn_SRC_A k)
  let b := s.pinBit F.FPN_IN_PIN (s.get F.PHn_SRC_B k)
  let ixen := s.flag F.PHn_SRC_IDXEN k
  let z := ixen && s.pinBit F.FPN_IN_PIN (s.get F.PHn_SRC_IDX k)
  let cpr := s.refEvents k
  let q := { r with a := a, b := b, z := z }
  let frac (c : Nat) : Nat := min 65535 (c * 65536 / cpr)
  let value (cyc c : Nat) : Nat := (cyc * 65536 + frac c) % 2 ^ 32
  if a ≠ r.a ∨ b ≠ r.b then
    let up := decide (a ≠ r.b)
    let c := if up then r.count + 1 else if r.count = 0 then (if ixen then 0 else cpr - 1) else r.count - 1
    let (cyc, c) := if up then (if c < cpr ∨ ixen then (r.cycle, min c cpr) else ((r.cycle + 1) % 65536, 0))
      else if r.count = 0 ∧ !ixen then ((r.cycle + 65535) % 65536, c) else (r.cycle, c)
    let next := if up then (if c + 1 < cpr then value cyc (c + 1) else (cyc + 1) % 65536 * 65536)
      else if 0 < c then value cyc (c - 1) else value ((cyc + 65535) % 65536) (cpr - 1)
    let time := s.edgeTime (if a ≠ r.a then s.get F.PHn_SRC_A k else s.get F.PHn_SRC_B k)
    s.localEvent k { q with cycle := cyc, count := c } (value cyc c) time next (!up) false
  else if z && !r.z then
    let f := frac r.count
    let cyc := if r.back then r.cycle else (r.cycle + 1) % 65536
    let gap := min f (65536 - f)
    let next := if r.back then value ((cyc + 65535) % 65536) (cpr - 1) else value cyc 1
    s.localEvent k { q with cycle := cyc, count := 0 } (cyc * 65536) (s.edgeTime (s.get F.PHn_SRC_IDX k)) next r.back (decide (s.jumpThr k < gap))
  else s.setRef k q

/-- A sample of an object source (R359): a crossing is armed at −HYST (or +HYST for D = 2) and its time is interpolated. -/
def objEvent (s : State) (k : Nat) (r : PhRef) : State :=
  let i := s.get F.PHn_SRC_A k + s.get F.PHn_SRC_B k * 256
  match Tbl.find? s.epo.objs i with
  | none => s
  | some o =>
    let num (w : Nat) : Int :=
      if o.type = 4 then
        let e := bits w 30 23
        let m := if e = 0 then bits w 22 0 else (2 ^ 23 + bits w 22 0) * 2 ^ (e - 1)
        if bit w 31 then -(m : Int) else m
      else sgn (if o.type = 1 then 16 else 32) w
    let v := num o.value
    let t := o.sec * 10 ^ 9 + o.ns
    let hyst := num (s.get F.PHn_PARAM_PARAM k)
    let d := s.refD k
    let upNow := r.armUp && decide (0 ≤ v)
    let downNow := decide (d = 2) && r.armDown && decide (v < 0)
    let q := { r with sample := some (v, t), armUp := decide (v ≤ -hyst) || (r.armUp && !upNow),
                      armDown := decide (hyst ≤ v) || (r.armDown && !downNow) }
    if upNow || downNow then
      let at_ := match r.sample with
        | none => t
        | some (v0, t0) => if v = v0 then t else t0 + ((t - t0) * v0.natAbs) / (v - v0).natAbs
      let cyc := if upNow then (if r.events = 0 ∧ !r.stalled then r.cycle else (r.cycle + 1) % 65536) else r.cycle
      let phase := cyc * 65536 + (if upNow then 0 else 32768)
      s.localEvent k { q with cycle := cyc } phase at_ (phaseMove false phase (65536 / d)) false false
    else s.setRef k q

/-- A REMOTE reference whose owner stalls holds its current value (R362, Table 11-10). -/
def remoteStall (s : State) (k : Nat) (r : PhRef) : State :=
  let s := s.setRef k { r with held := some (r.value s.tim.n), stalled := true, events := 0, last := none, seed := true }
  ((s.set F.PHn_STAT_STALL k 1).set F.PHn_STAT_LOCK k 0).bump F.PHn_CNT_STALL k

/-- A REMOTE reference accepts a PHEV (R362). [DEDUCED 108 unsafe] -/
def remoteEvent (s : State) (k : Nat) (r : PhRef) (p : List Byte) : State :=
  let fl := beAt p 1 1
  let d := max 1 (beAt p 2 1)
  let phase := beAt p 4 4
  let time := beAt p 8 6 * 10 ^ 9 + beAt p 14 4
  let dir := bit fl 3
  let r := { r with seq := some (beAt p 3 1), d := d }
  let s := ((s.showEvent k phase time).set F.PHn_STAT_SEQ k (beAt p 3 1))
  if bit fl 5 then s.remoteStall k r
  else
    let rev := bit fl 4
    let own := r.value (time * 2 ^ 32)
    let ahead := phaseDist dir own phase
    let behind := phaseDist dir phase own
    let fresh := r.stalled || decide (r.events = 0)
    let jump := !fresh && !rev && decide (s.jumpThr k < min ahead behind)
    let gap := phaseDist dir r.phase phase
    let sampled := !r.stalled && !rev && !bit fl 7 && r.last.isSome && decide (gap ≠ 0)
    let test := if sampled then s.filterPeriod k r.seed r.test ((time - r.last.getD 0) * 65536 / gap) else r.test
    let events := if jump || r.stalled then 1 else r.events + 1
    let hold := !fresh && !rev && !jump && decide (ahead ≠ 0) && decide (behind < ahead)
    let lim := phaseMove dir phase (2 * (65536 / d) - 1)
    let held := if hold then some (r.value s.tim.n) else none
    let seed := jump || r.stalled || (r.seed && !sampled)
    let s := s.setRef k { r with phase := phase, time := time, test := test, lim := lim, back := dir, stalled := false,
                                 held := held, events := events, last := some time, seed := seed }
    let s := (s.showPeriod k test).set F.PHn_STAT_STALL k 0
    let s := (s.setB F.PHn_STAT_DIR k dir).setB F.PHn_STAT_LOCK k (decide (2 ≤ events) && bit fl 6)
    let s := if rev then (s.set F.PHn_STAT_REVF k 1).bump F.PHn_CNT_REV k else s
    if jump then (s.set F.PHn_STAT_JUMPF k 1).bump F.PHn_CNT_JUMP k else s

end State

/-- PHASE_LOCAL_EVENT (R359): an owned reference looks at its source and takes the event that it finds. -/
def execPhaseLocalEvent (ph : Nat) (s : State) : Out :=
  if !s.refOn ph || s.blockBusy 11 then .next s
  else
    let r := s.ref ph
    let src := s.get F.PHn_CFG_SRC ph
    .next (if src = 1 then s.zcEvent ph r else if src = 2 then s.encEvent ph r
      else if src = 3 then s.objEvent ph r else s)

/-- PHEV_SEND (R361): the event that waits is sent to group 0xFFF, MININT after the one before it. A standby twin sends none. -/
def execPhevSend (ph : Nat) (s : State) : Out :=
  let r := s.ref ph
  match r.pend with
  | none => .next s
  | some e =>
    if s.standby then .next (s.setRef ph { r with pend := none })
    else if r.sentAt.any (fun t => decide (s.up < t + s.get F.PHS_CFG_MININT * 1000)) || s.blockBusy 11 then .next s
    else
      let seq := (r.seq.getD 255 + 1) % 256
      let fl := ph % 8 + b2n r.back * 8 + b2n e.rev * 16 + b2n e.stall * 32 + b2n (s.phLock ph) * 64 + b2n e.jump * 128
      let pay := be 1 0x21 ++ be 1 fl ++ be 1 (s.refD ph) ++ be 1 seq ++ be 4 e.phase ++ be 6 (e.time / 10 ^ 9)
        ++ be 4 (e.time % 10 ^ 9) ++ be 5 r.test ++ zeros 9
      let s := (s.setRef ph { r with pend := none, seq := some seq, sentAt := some s.up }).set F.PHn_STAT_SEQ ph seq
      .next (s.sendPosted 5 { tt := .mgt, tc := 0, dst := 0xFE, init := 4, len := 32, pay := pay,
                              addr := fabAddr 0xFE 0xF (0xFFF * 2 ^ 24) })

/-- PHEV (R362): every REMOTE reference on the sender's reference takes the first copy whose SEQ is newer. A standby twin
notes the SEQ of its partner's references (Table 15-5). -/
def execPhev (f : Frame) (s : State) : Out :=
  let k0 := beAt f.pay 1 1 % 8
  let s := if s.standby && decide (f.src = s.hubNum) && s.refOn k0 && decide (s.get F.PHn_CFG_SRC k0 ≠ 4) then
      s.setRef k0 { s.ref k0 with seq := some (beAt f.pay 3 1) } else s
  .next ((List.range 8).foldl (fun s k =>
    let r := s.ref k
    let newer := match r.seq with
      | none => true
      | some q => decide (0 < sdiff 8 (beAt f.pay 3 1) q)
    if s.refOn k && decide (s.get F.PHn_CFG_SRC k = 4) && decide (s.get F.PHn_SRC_A k = f.src)
        && decide (s.get F.PHn_SRC_B k % 8 = beAt f.pay 1 1 % 8) && newer then s.remoteEvent k r f.pay
    else s) (s.take f))

/-- PHASE_STALL (R364): no event for STALLN intervals. An owner holds 1 LSB short of the next event and tells the others;
another hub holds its value. -/
def execPhaseStall (ph : Nat) (s : State) : Out :=
  let r := s.ref ph
  let owner := decide (s.get F.PHn_CFG_SRC ph ≠ 4)
  let per := if owner then s.refEvents ph else r.d
  if !s.refOn ph || r.stalled || decide (r.test = 0) || s.blockBusy 11
      || decide (s.ns * per < r.time * per + s.get F.PHn_CFG_STALLN ph * r.test) then .next s
  else
    let h := if owner then r.lim else r.value s.tim.n
    let pend := if owner && s.flag F.PHn_CFG_PUB ph then
        some { rev := false, stall := true, jump := false, phase := h, time := s.ns : PhEvent } else r.pend
    let s := s.setRef ph { r with held := some h, stalled := true, events := 0, last := none, pend := pend, seed := true }
    .next (((s.set F.PHn_STAT_STALL ph 1).set F.PHn_STAT_LOCK ph 0).bump F.PHn_CNT_STALL ph)

/-! ### Time states and the servo (R346 to R349) -/

/-- A number held in 32 bits, signed and saturating. -/
def sat32 (i : Int) : Nat := unsgn 32 (clampI (-0x80000000) 0x7FFFFFFF i)

namespace State

/-- Enter a time state (Table 11-4). [DEDUCED 106 unsafe] -/
def timeState (s : State) (st : Nat) : State :=
  let was := s.timeLocked
  let now := decide (st = 3) || decide (st = 4)
  let s := (s.set F.TIM_STAT_STATE 0 st).setB F.TIM_STAT_TLOCK 0 now
  if was = now then s else s.onTim fun t => { t with realign := true }

/-- N is stepped by Δ, in units of 2^-32 ns (R348, Table 11-5): timed actions on the nanosecond counter and stored event
times move with it. -/
def timeStep (s : State) (d : Int) : State :=
  let ns : Int := d / 0x100000000
  let s := s.onTim fun t => { t with n := unsgn 96 ((t.n : Int) + d), steppedAt := some s.up, realign := true }
  let s := s.onPio fun p => { p with eng := p.eng.map (fun (e : Nat × Engine) => (e.1, { e.2 with taq := e.2.taq.map (fun (a : Action) =>
                                                                                                  if a.tb = 0 then { a with stamp := unsgn 32 ((a.stamp : Int) + ns) } else a) })) }
  let s := { s with phs := s.phs.map (fun (p : Nat × PhRef) => (p.1, { p.2 with time := ((p.2.time : Int) + ns).toNat,
                                                                                last := p.2.last.map (fun t => ((t : Int) + ns).toNat),
                                                                                pend := p.2.pend.map (fun (e : PhEvent) => { e with time := ((e.time : Int) + ns).toNat }) })) }
  (s.set F.TIM_STEPLAST_NS 0 (sat32 ns)).bump F.TIM_CNT_STEP

/-- Set the increment I: a base in 2^-32 ns per tick plus the trim. [DEDUCED 106 unsafe] -/
def setIncr (s : State) (base trim : Int) : State :=
  let i := unsgn 64 (base + trim)
  ((s.set F.TIM_INCR_INT_I 0 (i / 2 ^ 32)).set F.TIM_INCR_FRAC_I 0 (i % 2 ^ 32)).onTim fun t => { t with trim := trim }

/-- 4.0 ns in units of 2^-32 ns. -/
def fourNs : Int := 0x400000000

/-- The trim that an offset in ns gives (R349), within a limit in 0.1 ppm, and the accumulator. [DEDUCED 103 unsafe, DEDUCED 106 unsafe] -/
def servo (s : State) (o : Int) (lim : Nat) (slew : Bool) : Int × Int :=
  let l : Int := lim * 1718
  if slew then ((if o < 0 then l else if 0 < o then -l else 0), s.tim.acc)
  else
    let acc := s.tim.acc + o
    (clampI (-l) l (-((s.get F.TIM_SERVO_KP : Int) * o + (s.get F.TIM_SERVO_KI : Int) * acc)), acc)

/-- A usable offset on a hub that follows the master (Table 11-4, R349). `inc` is the master's increment. [DEDUCED 103 unsafe] -/
def timeOffset (s : State) (o inc : Int) (tse : Nat) : State :=
  let lock : Int := s.get F.TIM_CFG_LOCKTHR
  let unl : Int := s.get F.TIM_LIMITS_UNLOCKTHR * 100
  let a : Int := o.natAbs
  let st := s.get F.TIM_STAT_STATE
  let s := if st = 0 ∨ (st ≠ 1 ∧ tse ≠ s.get F.TIM_STAT_TSE) then
      (s.timeState 1).onTim fun t => { t with win := [] } else s
  let st := s.get F.TIM_STAT_STATE
  if st = 1 then
    let win := lastN 4 ((if s.tim.winTse = tse then s.tim.win else []) ++ [o])
    let s := (s.onTim fun t => { t with win := win, winTse := tse }).setIncr inc s.tim.trim
    let close := win.all (fun x => win.all (fun y => decide (x - y ≤ 100)))
    if win.length = 4 ∧ close then
      let s := (s.timeStep (-(win.sum * 0x40000000))).timeState 2
      (s.set F.TIM_STAT_TSE 0 tse).onTim fun t => { t with acc := 0, good := 0, bad := 0, win := [] }
    else s
  else
    let good := if a ≤ lock then s.tim.good + 1 else 0
    let bad := if unl < a then s.tim.bad + 1 else 0
    let s := s.onTim fun t => { t with good := good, bad := bad }
    let since := s.up - (s.tim.steppedAt.getD 0)
    let s :=
      if st = 2 then
        if 4 ≤ good ∧ 2 * s.get F.RNG_HOLD_HOLD * 1000 ≤ since then (s.timeState 3).onTim fun t => { t with bad := 0 } else s
      else if st = 5 then (if a ≤ lock then (s.timeState 3).onTim fun t => { t with bad := 0 } else s)
      else if 4 ≤ bad then (s.timeState 5).bump F.TIM_CNT_SLEW
      else if st = 4 ∧ a ≤ unl then s.timeState 3
      else s
    let st := s.get F.TIM_STAT_STATE
    if st = 2 then s.setIncr inc s.tim.trim
    else
      let lim := if s.syntonised then s.get F.TIM_LIMITS_TRIMLIM else s.get F.TIM_LIMITS_TRIMGM
      let (trim, acc) := s.servo o lim (decide (st = 5))
      (s.setIncr inc trim).onTim fun t => { t with acc := acc }

/-- The master trims, or slews, its increment against an offset from its grandmaster (R352). -/
def gmTrim (s : State) (o : Int) (slew : Bool) : State :=
  let x := s.servo o (s.get F.TIM_LIMITS_TRIMGM) slew
  (s.setIncr fourNs x.1).onTim fun t => { t with acc := x.2 }

/-- Elected master (R347, R343): LOCKED from the election on, with its own crystal. [DEDUCED 107 unsafe] -/
def timeMaster (s : State) : State :=
  let s := if s.timeLocked then s else s.set F.TIM_STAT_TSE 0 ((s.get F.TIM_STAT_TSE + 1) % 256)
  let s := (((s.timeState 3).setIncr fourNs 0).set F.TIM_STAT_GM 0 0).set F.TIM_STAT_HOPS 0 0
  s.onTim fun t => { t with acc := 0, gmWin := [], gmStepOk := true, tgmrOk := [false, false], otherGm := none }

/-- The master that remains after a merge (R123) changes the epoch, unless the TSYNC of both carried GM 1 in the second
before (R347). -/
def timeMerge (s : State) : State :=
  let both := s.flag F.TIM_STAT_GM && (match s.tim.otherGm with | none => false | some t => decide (s.up ≤ t + 10 ^ 9))
  if both then s else s.set F.TIM_STAT_TSE 0 ((s.get F.TIM_STAT_TSE + 1) % 256)

end State

/-- SYNCINT in ns. -/
def State.syncTime (s : State) : Nat := s.get F.TIM_CFG_SYNCINT * 1000000

/-- TSYNC_SEND (R343): the master originates a TSYNC on both rings, SYNCINT after the one before it. -/
def execTsyncSend (s : State) : Out :=
  if s.master && !s.tim.syncAt.any (fun t => decide (s.up < t + s.syncTime)) && !s.blockBusy 10 then
    let pay := be 1 0x20 ++ be 1 (s.get F.TIM_STAT_GM) ++ be 1 (s.get F.TIM_STAT_TSE) ++ [0] ++ be 6 s.sec ++ be 4 s.nsec ++ zeros 8
      ++ be 4 (s.get F.TIM_INCR_INT_I) ++ be 4 (s.get F.TIM_INCR_FRAC_I) ++ be 2 (s.get F.TIM_UTCOFF_OFF)
    .next ((s.onTim fun t => { t with syncAt := some s.up }).sendPosted 5
      { tt := .mgt, tc := 1, dst := 0xFE, init := 4, len := 32, pay := pay, addr := fabAddr 0xFE 0xF (0xFFF * 2 ^ 24) })
  else .next s

/-- The sync intervals, to the nearest, that have passed since the latest usable copy on a ring. [DEDUCED 105 unsafe] -/
def State.copyAge (s : State) (ring : Nat) : Nat :=
  match s.tim.copyAt.getD ring none with
  | none => 0
  | some t => (s.up - t + s.syncTime / 2) / max 1 s.syncTime

/-- Count the sync intervals without a usable copy on the ring in use, `n` since the latest one (TIM.CNT_SYNCMISS). [DEDUCED 105 unsafe] -/
def State.countMissed (s : State) (n : Nat) : State :=
  (s.bumpBy F.TIM_CNT_SYNCMISS 0 (n - s.tim.missed)).onTim fun t => { t with missed := max n t.missed }

/-- TSYNC (R346, R347): a copy with verdict GOOD reaches TIM with its ingress stamp, N in units of 2^-16 ns. The UTC offset that it
carries comes from the master's valid input. [DEDUCED 195 unsafe] -/
def execTsync (f : Frame) (stamp : Nat) (s : State) : Out :=
  let s := s.take f
  if s.master then
    .next (if bit (beAt f.pay 1 1) 0 ∧ f.src ≠ s.hubNum then s.onTim fun t => { t with otherGm := some s.up } else s)
  else
    let ring := b2n f.ring
    let hops := beAt f.pay 3 1
    let s := if ring = s.get F.TIM_STAT_RING then (s.countMissed (s.copyAge ring - 1)).onTim fun t => { t with missed := 0 } else s
    let s := (s.bump F.TIM_CNT_SYNCRX).onTim fun t => { t with seen := setAt t.seen ring (some hops), copyAt := setAt t.copyAt ring (some s.up) }
    let better := match s.tim.seen.getD (1 - ring) none with
      | none => true
      | some h => decide (hops < h) || (decide (hops = h) && decide (ring = 0))
    if !better then .next s
    else
      let s := ((s.set F.TIM_STAT_RING 0 ring).set F.TIM_STAT_HOPS 0 hops).setB F.TIM_STAT_GM 0 (bit (beAt f.pay 1 1) 0)
      let s := (s.set F.TIM_UTCOFF_OFF 0 (beAt f.pay 30 2)).onTim fun t => { t with missed := 0 }
      let sent : Nat := (beAt f.pay 4 6 * 10 ^ 9 + beAt f.pay 10 4) * 65536
      let di := s.tim.df.getD (1 - ring) 0
      let o := ((stamp : Int) - (sent + sgn 64 (beAt f.pay 14 8) + di)) / 65536
      let inc : Nat := beAt f.pay 22 4 * 2 ^ 32 + beAt f.pay 26 4
      .next ((s.set F.TIM_OFFSET_NS 0 (sat32 o)).timeOffset o inc (beAt f.pay 2 1))

/-- No usable copy has come on a ring for `n` sync intervals. -/
def State.noCopy (s : State) (ring n : Nat) : Bool :=
  match s.tim.copyAt.getD ring none with
  | none => true
  | some t => decide (t + n * s.syncTime ≤ s.up)

/-- SYNC_LOSS_HOLDOVER (R347): no usable TSYNC for 4 × SYNCINT in LOCKED; the hub keeps I. [DEDUCED 105 unsafe] -/
def execSyncLossHoldover (s : State) : Out :=
  if s.get F.TIM_STAT_STATE = 3 ∧ !s.master ∧ s.noCopy 0 4 ∧ s.noCopy 1 4 then
    .next (((s.timeState 4).countMissed 4).onTim fun t => { t with good := 0 })
  else .next s

/-- TIME_RING_SWITCH (R346): the ring in use has given no usable copy for 3 × SYNCINT, or its ingress lane, W for ring A and E for ring B,
has left UP. [DEDUCED 105 unsafe] -/
def execTimeRingSwitch (s : State) : Out :=
  let r := s.get F.TIM_STAT_RING
  let lost := decide (s.laneState (if r = 0 then .w else .e) ≠ 4)
  let late := s.noCopy r 3
  if !lost && !late then .next s
  else
    let s := if late then s.countMissed 3 else s
    .next ((s.set F.TIM_STAT_RING 0 (1 - r)).onTim fun t => { t with seen := setAt t.seen r none, missed := 0 })

/-! ### The grandmaster (R350 to R353) -/

namespace State

/-- The measurement of a host port. -/
def ptp (s : State) (p : HPort) : PtpPort := match p with | .h0 => s.tim.ptp0 | .h1 => s.tim.ptp1

/-- Store the measurement of a host port. -/
def setPtp (s : State) (p : HPort) (v : PtpPort) : State :=
  match p with
  | .h0 => s.onTim fun t => { t with ptp0 := v }
  | .h1 => s.onTim fun t => { t with ptp1 := v }

/-- Whether time input x (0 A, 1 B) is valid at the master (R350). -/
def inputValid (s : State) (x : Nat) : Bool :=
  let en := if x = 0 then s.flag F.TIM_TIN_ENA else s.flag F.TIM_TIN_ENB
  let hub := if x = 0 then s.get F.TIM_TIN_HUBA else s.get F.TIM_TIN_HUBB
  let port := if x = 0 then s.get F.TIM_TIN_PORTA else s.get F.TIM_TIN_PORTB
  en && s.tim.tgmrOk.getD x false && (decide (hub ≠ s.hubNum) || (if port = 0 then s.tim.ptp0.annOk else s.tim.ptp1.annOk))

/-- Show the input in use; without a valid one the master sets GM to 0 and keeps its increment (R350, R352). -/
def showInputs (s : State) : State :=
  let a := s.inputValid 0
  let b := s.inputValid 1
  let s := if s.flag F.TIM_GMSTAT_INPUT 0 = (!a && b) then s else s.onTim fun t => { t with gmWin := [] }
  let s := (s.setB F.TIM_GMSTAT_VALID 0 (a || b)).setB F.TIM_GMSTAT_INPUT 0 (!a && b)
  if a || b then s else if s.master then (s.set F.TIM_STAT_GM 0 0).onTim fun t => { t with gmWin := [] } else s

/-- The PTP role of a host port; none while the port is disabled or its block or TIM does nothing. -/
def ptpRole (s : State) (p : HPort) : Nat :=
  if !s.flag F.Hx_CTL_EN p.ix || s.blockBusy 20 || s.blockBusy 10 then 0
  else s.get (match p with | .h0 => F.TIM_PTP_H0_ROLE | .h1 => F.TIM_PTP_H1_ROLE)

/-- The port uses peer delay. [PRESUMED 104 unsafe] -/
def ptpPeer (s : State) (p : HPort) : Bool := s.flag (match p with | .h0 => F.TIM_PTP_H0_DELAY | .h1 => F.TIM_PTP_H1_DELAY)

/-- The message is of the port's domain. [PRESUMED 104 unsafe] -/
def ptpMine (s : State) (p : HPort) (m : Ptp) : Bool :=
  decide (m.domain = s.get (match p with | .h0 => F.TIM_PTP_H0_DOMAIN | .h1 => F.TIM_PTP_H1_DOMAIN))

/-- delayAsymmetry of a port in 2^-16 ns. [PRESUMED 104 unsafe] -/
def ptpAsym (s : State) (p : HPort) : Int :=
  sgn 16 (s.get (match p with | .h0 => F.TIM_PTP_ASYM_H0 | .h1 => F.TIM_PTP_ASYM_H1)) * 65536 / 10

/-- A complete Sync gives ogm (R351). [DEDUCED 103 unsafe, PRESUMED 104 unsafe] -/
def syncDone (s : State) (p : HPort) (q : PtpPort) (fwd : Int) : State :=
  s.setPtp p { q with fwd := some fwd, wait := none, ogm := some (fwd - q.delay - s.ptpAsym p) }

end State

/-- TGMR_SEND (R351): a gateway with a SLAVE port sends its ogm to the master, at most once in SYNCINT. -/
def execTgmrSend (p : HPort) (s : State) : Out :=
  let q := s.ptp p
  match q.ogm with
  | none => .next s
  | some o =>
    if s.ptpRole p ≠ 1 ∨ !q.annOk ∨ q.tgmrSent.any (fun t => decide (s.up < t + s.syncTime)) then .next s
    else
      let isB := s.flag F.TIM_TIN_ENB && decide (s.get F.TIM_TIN_HUBB = s.hubNum) && decide (s.get F.TIM_TIN_PORTB = p.ix)
        && !(s.flag F.TIM_TIN_ENA && decide (s.get F.TIM_TIN_HUBA = s.hubNum) && decide (s.get F.TIM_TIN_PORTA = p.ix))
      let pay := be 1 0x22 ++ be 1 (b2n isB) ++ be 1 q.cls ++ be 1 q.steps ++ be 8 (unsgn 64 o) ++ be 2 q.utc ++ be 8 q.ident ++ [0, 0]
      let m := s.get F.RNG_RSTAT_MASTER_HUB
      .next ((s.setPtp p { q with ogm := none, tgmrSent := some s.up }).sendPosted 5
        { tt := .mgt, tc := 1, dst := m, init := 4, len := 24, pay := pay, addr := fabAddr m 0xF 0 })

/-- TGMR (R350, R352): the master receives ogm from the gateway of an input and steps, trims or slews against the grandmaster. [DEDUCED 107 unsafe] -/
def execTgmr (f : Frame) (s : State) : Out :=
  mgtRequest f s fun s =>
  let x := beAt f.pay 1 1 % 2
  if !s.master || decide (s.get (if x = 0 then F.TIM_TIN_HUBA else F.TIM_TIN_HUBB) ≠ f.src) then .next s
  else
    let s := (s.onTim fun t => { t with tgmrOk := setAt t.tgmrOk x true, tgmrAt := setAt t.tgmrAt x s.up }).showInputs
    if !s.flag F.TIM_GMSTAT_VALID || decide (s.get F.TIM_GMSTAT_INPUT ≠ x) then .next s
    else
      let o := sgn 64 (beAt f.pay 4 8) / 65536
      let s := ((s.set F.TIM_GMSTAT_CLASS 0 (beAt f.pay 2 1)).set F.TIM_GMSTAT_STEPS 0 (beAt f.pay 3 1)).set F.TIM_UTCOFF_OFF 0 (beAt f.pay 12 2)
      let s := s.onTim fun t => { t with gmIdent := beAt f.pay 14 8 }
      let far := decide (s.get F.TIM_LIMITS_UNLOCKTHR * 100 < o.natAbs)
      if s.flag F.TIM_STAT_GM then .next (s.gmTrim o far)
      else if s.tim.gmStepOk then
        let win := lastN 4 (s.tim.gmWin ++ [o])
        if win.length = 4 ∧ win.all (fun a => win.all (fun b => decide (a - b ≤ 100))) then
          let s := s.timeStep (-(win.sum * 0x40000000))
          let s := (s.set F.TIM_STAT_TSE 0 ((s.get F.TIM_STAT_TSE + 1) % 256)).set F.TIM_STAT_GM 0 1
          .next (s.onTim fun t => { t with gmWin := [], gmStepOk := false, acc := 0 })
        else .next (s.onTim fun t => { t with gmWin := win })
      else if far then .next (s.gmTrim o true)
      else .next ((s.set F.TIM_STAT_GM 0 1).gmTrim o false)

/-- TGMR_TIMEOUT (R350): no TGMR of an input for one second. -/
def execTgmrTimeout (input : Nat) (s : State) : Out :=
  .next (if s.up < s.tim.tgmrAt.getD input 0 + 10 ^ 9 then s else (s.onTim fun t => { t with tgmrOk := setAt t.tgmrOk input false }).showInputs)

/-- PTP_SYNC (R351): a SLAVE port receives Sync; `t2` is its arrival on N in 2^-16 ns. -/
def execPtpSync (p : HPort) (m : Ptp) (t2 : Nat) (s : State) : Out :=
  let q := s.ptp p
  if s.ptpRole p ≠ 1 ∨ !s.ptpMine p m then .next s
  else if m.twoStep then .next (s.setPtp p { q with wait := some (m.seq, t2, m.corr) })
  else .next (s.syncDone p q ((t2 : Int) - m.ts - m.corr))

/-- PTP_FOLLOW_UP (R351): the timestamp of a two-step Sync. -/
def execPtpFollowUp (p : HPort) (m : Ptp) (s : State) : Out :=
  let q := s.ptp p
  if s.ptpRole p ≠ 1 ∨ !s.ptpMine p m then .next s
  else
    match q.wait with
    | none => .next s
    | some (seq, t2, c) => if seq = m.seq then .next (s.syncDone p q ((t2 : Int) - m.ts - c - m.corr)) else .next s

/-- PTP_DELAY_REQ (R354): a MASTER port answers with its arrival time (Delay_Resp, message type 9). -/
def execPtpDelayReq (p : HPort) (m : Ptp) (t4 : Nat) (s : State) : Out :=
  if s.ptpRole p = 2 ∧ !s.ptpPeer p ∧ s.ptpMine p m ∧ s.timeLocked then .next (s.emit (.ptp p.ix 9 m.seq t4)) else .next s

/-- PTP_DELAY_RESP (R351): the mean path delay from the latest Sync and this exchange; the request left at `t3`. [PRESUMED 104 unsafe] -/
def execPtpDelayResp (p : HPort) (m : Ptp) (t3 : Nat) (s : State) : Out :=
  let q := s.ptp p
  match q.fwd with
  | none => .next s
  | some fwd =>
    if s.ptpRole p = 1 ∧ !s.ptpPeer p ∧ s.ptpMine p m then
      .next (s.setPtp p { q with delay := (fwd + ((m.ts : Int) - t3 - m.corr)) / 2 })
    else .next s

/-- PTP_PDELAY_REQ (R354): a port answers Pdelay_Resp (3) with the arrival time and Pdelay_Resp_Follow_Up (10). -/
def execPtpPdelayReq (p : HPort) (m : Ptp) (t2 : Nat) (s : State) : Out :=
  if (s.ptpRole p = 1 ∨ (s.ptpRole p = 2 ∧ s.timeLocked)) ∧ s.ptpPeer p ∧ s.ptpMine p m then
    .next ((s.emit (.ptp p.ix 3 m.seq t2)).emit (.ptp p.ix 10 m.seq (s.tim.n / 2 ^ 16)))
  else .next s

/-- PTP_PDELAY_RESP (R351): the answer to a request sent at `t1` arrives at `t4`. [PRESUMED 104 unsafe] -/
def execPtpPdelayResp (p : HPort) (m : Ptp) (t1 t4 : Nat) (s : State) : Out :=
  let q := s.ptp p
  if s.ptpRole p = 0 ∨ !s.ptpPeer p ∨ !s.ptpMine p m then .next s
  else if m.twoStep then .next (s.setPtp p { q with pwait := some (m.seq, (t4 : Int) - t1 - m.corr, m.ts) })
  else .next (s.setPtp p { q with delay := ((t4 : Int) - t1 - m.corr) / 2 })

/-- PTP_PDELAY_RESP_FOLLOW_UP (R351): the peer's departure time completes the exchange. -/
def execPtpPdelayRespFollowUp (p : HPort) (m : Ptp) (s : State) : Out :=
  let q := s.ptp p
  if s.ptpRole p = 0 ∨ !s.ptpPeer p ∨ !s.ptpMine p m then .next s
  else
    match q.pwait with
    | none => .next s
    | some (seq, rt, t2) =>
      if seq = m.seq then .next (s.setPtp p { q with pwait := none, delay := (rt - ((m.ts : Int) - t2) - m.corr) / 2 })
      else .next s

/-- PTP_ANNOUNCE (R350): a SLAVE port receives Announce, which keeps its input valid. -/
def execPtpAnnounce (p : HPort) (m : Ptp) (s : State) : Out :=
  if s.ptpRole p = 1 ∧ s.ptpMine p m then
    .next (s.setPtp p { s.ptp p with annOk := true, annAt := s.up, cls := m.cls, steps := m.steps, utc := m.utc, ident := m.ident }).showInputs
  else .next s

/-- A port's interval between Announce messages, and between Syncs, in ns (Table 11-6). [PRESUMED 104 unsafe] -/
def State.annTime (s : State) (p : HPort) : Nat := 10 ^ 9 * 2 ^ s.get (match p with | .h0 => F.TIM_PTP_H0_LOGANN | .h1 => F.TIM_PTP_H1_LOGANN)

/-- The interval between Syncs of a port in ns (Table 11-6). [PRESUMED 104 unsafe] -/
def State.ptpSyncTime (s : State) (p : HPort) : Nat :=
  let l := s.get (match p with | .h0 => F.TIM_PTP_H0_LOGSYNC | .h1 => F.TIM_PTP_H1_LOGSYNC)
  if l < 8 then 10 ^ 9 * 2 ^ l else 10 ^ 9 / 2 ^ (16 - l)

/-- ANNOUNCE_TIMEOUT (R350): no Announce within the receipt timeout of three announce intervals. -/
def execAnnounceTimeout (p : HPort) (s : State) : Out :=
  .next (if (s.ptp p).annOk && decide (s.up < (s.ptp p).annAt + 3 * s.annTime p) then s
    else (s.setPtp p { s.ptp p with annOk := false, ogm := none }).showInputs)

/-- PTP_DISCARD (R354): a Signaling or Management message is discarded and counted. -/
def execPtpDiscard (s : State) : Out := .next (s.bump F.TIM_CNT_PTPDISC)

/-- PTP_SYNC_SEND (R354): a MASTER port sends one-step Sync (0) and Announce (11), each when its interval has passed. The data of an
Announce are grandmasterIdentity, clockClass, stepsRemoved and timeSource. Nothing leaves while time does not count as locked. -/
def execPtpSyncSend (p : HPort) (s : State) : Out :=
  let q := s.ptp p
  if s.ptpRole p = 2 ∧ s.timeLocked then
    let gm := s.flag F.TIM_STAT_GM
    let data := if gm then s.tim.gmIdent * 2 ^ 24 + s.get F.TIM_GMSTAT_CLASS * 2 ^ 16 + (s.get F.TIM_GMSTAT_STEPS + 1) * 2 ^ 8 + 0x40
      else 248 * 2 ^ 16 + 0xA0
    let sync := !q.syncSent.any (fun t => decide (s.up < t + s.ptpSyncTime p))
    let ann := !q.annSent.any (fun t => decide (s.up < t + s.annTime p))
    let s := s.setPtp p { q with syncSent := if sync then some s.up else q.syncSent, annSent := if ann then some s.up else q.annSent }
    let s := if sync then s.emit (.ptp p.ix 0 0 s.ns) else s
    .next (if ann then s.emit (.ptp p.ix 11 data s.ns) else s)
  else .next s

/-- RELOCK (Table 11-4, R352): a follower enters ACQ; a master may step once more to its grandmaster. [DEDUCED 107 unsafe] -/
def relock (s : State) : State :=
  if s.master then s.onTim fun t => { t with gmStepOk := true, gmWin := [] }
  else (s.timeState 1).onTim fun t => { t with win := [], good := 0, bad := 0 }

/-- LATCH (R336): N and fabric time are captured in one tick. -/
def latch (s : State) : State :=
  let s := (s.set F.TIM_CAP_NSHI_VAL 0 (s.ns / 2 ^ 32)).set F.TIM_CAP_NSLO_VAL 0 (s.ns % 2 ^ 32)
  ((s.set F.TIM_CAP_SECHI_VAL 0 (s.sec / 2 ^ 32 % 2 ^ 16)).set F.TIM_CAP_SECLO_VAL 0 (s.sec % 2 ^ 32)).set F.TIM_CAP_NS_VAL 0 s.nsec

/-- SETTIME (R353): the status of the write, and the state. -/
def setTime (s : State) : Status × State :=
  let ns := s.get F.TIM_SET_NS_VAL
  if 10 ^ 9 ≤ ns then (.ur, s)
  else if !s.master || s.flag F.TIM_STAT_GM then (.busy, s)
  else
    let t : Nat := ((s.get F.TIM_SET_SECHI_VAL % 2 ^ 16 * 2 ^ 32 + s.get F.TIM_SET_SECLO_VAL) * 10 ^ 9 + ns) * 2 ^ 32
    (.ok, (s.timeStep ((t : Int) - s.tim.n)).set F.TIM_STAT_TSE 0 ((s.get F.TIM_STAT_TSE + 1) % 256))

end Sys2Proof.Machine
end

