-- ==== Sys2Proof/Machine/Pins.lean ====
section
/-! DEFINITION. Field pins and virtual wires (chapter 07): the owner decision, edges, readback, pulses, banks and the VW
frames. -/
namespace Sys2Proof.Machine

/-- Whether a value of a type counts as 1 on a pin (R226). -/
def truth (type v : Nat) : Bool := if type = 4 then decide (v % 2 ^ 31 ≠ 0) else decide (v ≠ 0)

namespace State

/-- A field pin. -/
def pin (s : State) (p : Nat) : Pin := Tbl.getD s.fpn.pins p {}

/-- Store a field pin. -/
def setPin (s : State) (p : Nat) (v : Pin) : State := s.onFpn fun f => { f with pins := Tbl.put f.pins p v }

/-- The object bound to a pin as PINOUT (Table 06-4). -/
def pinObj (s : State) (p : Nat) : Option (Nat × Obj) := s.epo.objs.find? (fun e => decide (e.2.kind = 8) && decide (e.2.index = p))

/-- The pin is a GPO pin without an object (R226). -/
def unboundGpo (s : State) (p : Nat) : Bool := decide (s.get F.FPn_CFG_FUNC p = 2) && (s.pinObj p).isNone

/-- The level that engines and controllers read (R221, R223): filtered with FILT_ALL, else synchronised. [DEDUCED 70 unsafe] -/
def pinLevel (s : State) (p : Nat) : Bool :=
  if 256 ≤ p then false
  else if s.flag F.FPn_CFG_FILT_ALL p then s.pinBit F.FPN_IN_PIN p else s.pinBit F.FPN_RAW_PIN p

/-- A pad is in the reset state of R218: before a load, in a bank that is off (R217), or with the function OFF (Table 07-1). -/
def padReset (s : State) (p : Nat) : Bool :=
  !s.fpn.on || !s.fpn.banks.getD (p / 32) false || decide (s.get F.FPn_CFG_FUNC p = 0)

/-- The pull of a pad as FPn_CFG.PULL codes it: a weak pull-down in the reset state (R218), also while a twin is standby (R232). -/
def padPull (s : State) (p : Nat) : Nat := if s.padReset p then 2 else s.get F.FPn_CFG_PULL p

/-- The Schmitt input of a pad: on in the reset state (R218). -/
def padSchmitt (s : State) (p : Nat) : Bool := s.padReset p || s.flag F.FPn_CFG_SCHMITT p

/-- What the controller signal of a code of Table 07-2 drives while its controller puts out `lv` (none: the idle level of R456): an
input drives nothing, nor does a controller that is disabled or in reset (R279, R309). [DEDUCED 190 unsafe] -/
def signalDrive (s : State) (code : Nat) (lv : Option Bool) : Option Bool :=
  if code < 0x80 then
    let n := code / 4
    let full := s.flag F.SPnn_CFG_DUPLEX n
    if s.blockReset 8 || !s.flag F.SPnn_CFG_EN n then none
    else match code % 4 with
      | 0 => some (lv.getD true)
      | 2 => some (full || lv.getD false)
      | 3 => some (!full && !s.flag F.SPnn_CFG_ECHO n && lv.getD false)
      | _ => none
  else if code < 0xA0 then
    let c := (code - 0x80) / 2
    let m := s.get F.CNnn_STAT_MODE_ACT c
    if s.blockReset 7 || decide (code % 2 = 1) || decide (m ≤ 1) then none
    else some (decide (m ≠ 2) || lv.getD true)
  else if code < 0xD8 then
    let n := (code - 0xA0) / 7
    if s.blockReset 8 || !s.flag F.SQn_CFG_EN n then none
    else match (code - 0xA0) % 7 with
      | 0 => some (lv.getD (bit (s.get F.SQn_CFG_MODE n) 1))
      | 1 => lv
      | 2 => none
      | k => some (lv.getD (!bit (s.get F.SQn_CFG_CSPOL n) (k - 3)))
  else if code < 0xE8 then
    if s.blockReset 8 || !s.flag F.ICn_CFG_EN ((code - 0xD8) / 2) then none else some (lv.getD true)
  else none

/-- What the primary owner of a pin drives (Table 07-1). -/
def primary (s : State) (p : Nat) : Option Bool :=
  let fn := s.get F.FPn_CFG_FUNC p
  let arg := s.get F.FPn_SEL_ARG p
  if fn = 2 then some (if arg = 1 then (s.pin p).pulse else (s.pin p).src)
  else if fn = 3 then s.signalDrive arg (s.pin p).ctrl
  else if fn = 5 then some (bit (s.get F.FPN_VWI_STATE_WIRES (arg / 32)) (arg % 32))
  else none

/-- What an engine drives on a pin through its output window. -/
def engineDrive (s : State) (e p : Nat) : Option Bool :=
  let base := s.get F.PEnn_PINS_OUT_BASE e
  if base ≤ p ∧ p < base + s.get F.PEnn_PINS_OUT_CNT e ∧ bit (s.get F.PEnn_PINOE_POS e) (p - base) then
    some (bit (s.get F.PEnn_PINLAT_POS e) (p - base))
  else none

/-- The priority level of an engine (R229). -/
def enginePri (s : State) (e : Nat) : Nat := bits (s.word (F.FPN_EPRI_E0.key (e / 16)) F.FPN_EPRI_E0.start).toNat (2 * (e % 16) + 1) (2 * (e % 16))

/-- The claimants of a pin in the order in which equal levels win: primary owner, then engines: level and value. -/
def claimants (s : State) (p : Nat) : List (Nat × Bool) :=
  (match s.primary p with | some v => [(s.get F.FPn_SEL_FPRI p, v)] | none => [])
    ++ (List.range 64).filterMap (fun e => if s.flag F.PEnn_CFG_EN e then (s.engineDrive e p).map (fun v => (s.enginePri e, v)) else none)

/-- The winner among claimants: the highest level, the earlier of equals. -/
def winner : List (Nat × Bool) → Option (Nat × Bool)
  | [] => none
  | c :: l => match winner l with
    | none => some c
    | some d => if c.1 < d.1 then some d else some c

/-- The decision of R229 for a pin, apart from twin logic: what the pad drives, and whether the cycle is in conflict. [DEDUCED 70 unsafe, DEDUCED 71 unsafe] -/
def decidePin (s : State) (p : Nat) : Option Bool × Bool :=
  let fn := s.get F.FPn_CFG_FUNC p
  let arg := s.get F.FPn_SEL_ARG p
  let inv := s.flag F.FPn_CFG_INV p
  let od := s.flag F.FPn_CFG_OD p || (decide (fn = 3) && decide (0xD8 ≤ arg) && decide (arg ≤ 0xE7))
  let pad (v : Bool) : Option Bool := if od && v then none else some v
  if s.padReset p then (none, false)
  else
    match (s.pin p).force with
    | some v => (pad (v != inv), false)
    | none =>
      let cs := s.claimants p
      match winner cs with
      | none => (none, false)
      | some w =>
        let ctrl := decide (fn = 3) && decide ((s.primary p).isSome) && decide (cs.head? = some w)
        (pad (w.2 != (inv && !ctrl)), cs.any (fun c => decide (c.2 ≠ w.2)))

/-- Decide a pin again (R229, R230): no conflict counts while hold latches drive. [DEDUCED 71 unsafe] -/
def redrive (s : State) (p : Nat) : State :=
  let d := s.decidePin p
  let c := d.2 && !s.flag F.FPN_HOLDSTAT_HOLD
  let q := s.pin p
  let s := s.setPin p { q with drive := d.1, conflict := c, driveAt := if d.1 = q.drive then q.driveAt else s.up,
                               mism := q.mism && decide (d.1 = q.drive) }
  if c && !q.conflict then (s.bump F.FPn_STAT_CONF p).setPinBit F.FPN_CONF_PIN p true else s

/-- Decide a range of pins again. [DEDUCED 74 unsafe] -/
def redriveRange (s : State) (base n : Nat) : State := (List.range n).foldl (fun s k => if base + k < 256 then s.redrive (base + k) else s) s

/-- Decide every pin again that has been decided since the load. -/
def redriveAll (s : State) : State := s.fpn.pins.foldl (fun s e => s.redrive e.1) s

/-- The signals of the controllers whose codes satisfy `p` go to their idle levels (R456). -/
def restSignals (s : State) (p : Nat → Bool) : State :=
  s.fpn.pins.foldl (fun s e =>
    if s.get F.FPn_CFG_FUNC e.1 = 3 ∧ p (s.get F.FPn_SEL_ARG e.1) then (s.setPin e.1 { s.pin e.1 with ctrl := none }).redrive e.1 else s) s

/-- What a pad drives (R229, R232, R233): the hold latch while hold is asserted; nothing at a twin that is standby or failed. [DEDUCED 70 unsafe] -/
def padDrive (s : State) (p : Nat) : Option Bool :=
  if s.flag F.FPN_HOLDSTAT_HOLD then (s.pin p).latch else if s.passive then none else (s.pin p).drive

/-- Assert hold: the latches keep what the pads drive (R233). -/
def assertHold (s : State) : State :=
  if s.flag F.FPN_HOLDSTAT_HOLD then s
  else
    let s := (List.range 256).foldl (fun t p => t.setPin p { t.pin p with latch := s.padDrive p }) s
    (s.set F.FPN_HOLDSTAT_HOLD 0 1).bump F.FPN_HOLDSTAT_HOLDS

/-- Release hold: the decision of R229 drives the pads again. -/
def releaseHold (s : State) : State := (s.set F.FPN_HOLDSTAT_HOLD 0 0).redriveAll

/-- The GPO source of a pin takes a value (R226, R227): in pulse mode a rise starts the width, or restarts it. -/
def gpoSource (s : State) (p : Nat) (v : Bool) : State :=
  let q := s.pin p
  let rise := v && !q.src && decide (s.get F.FPn_SEL_ARG p = 1)
  (s.setPin p { q with src := v, pulse := q.pulse || rise, pulseAt := if rise then s.up else q.pulseAt }).redrive p

/-- Hand an update to EPO over the binder link (R192). [DEDUCED 61 unsafe] -/
def pushUpdate (s : State) (u : Update) : State := s.onEpo fun e => { e with binder := e.binder ++ [u] }

/-- Report success of a sink write, which clears FAULT (R185), also one whose report still waits in the binder. -/
def sinkOk (s : State) (obj : Nat) : State :=
  match s.obj? obj with
  | some o => if bit o.qual 2 ∨ s.epo.binder.any (fun u => decide (u.obj = obj) && decide (u.rep = .fail)) then s.pushUpdate { obj := obj, rep := .sinkOk, sec := s.sec, ns := s.nsec } else s
  | none => s

/-- Update the objects bound to a pin as PIN (R222). -/
def pinUpdates (s : State) (p : Nat) (level counted : Bool) : State :=
  (s.epo.objs.filter (fun e => decide (e.2.kind = 1) && decide (e.2.index = p))).foldl (fun s e =>
    let v := if e.2.type = 5 then s.get F.FPn_EDGES_COUNT p else b2n level
    if e.2.type ≠ 5 ∨ counted then s.pushUpdate { obj := e.1, rep := .value v false, sec := s.sec, ns := s.nsec } else s) s

/-- A wire of an outgoing block takes a value (R234): an enabled block builds or merges its frame. -/
def wireChange (s : State) (b w : Nat) (v : Bool) : State :=
  let old := s.get F.FPN_VWO_STATE_WIRES b
  if bit old w = v then s
  else
    let s := s.set F.FPN_VWO_STATE_WIRES b (setBit old w v)
    if !s.flag F.FPN_VWO_CFG_EN b then s else
    match Tbl.find? s.fpn.vwo b with
    | none => s.onFpn fun f => { f with vwo := Tbl.put f.vwo b { stamp := s.nsec, locked := s.timeLocked, changed := 2 ^ w } }
    | some q =>
      let s := if bit q.changed w then s.bump F.FPN_CNT_VWMERGE else s
      s.onFpn fun f => { f with vwo := Tbl.put f.vwo b { q with changed := setBit q.changed w true } }

/-- A source of virtual wires (1 pin, 2 reflex rule) takes a value: every wire that the image maps to it follows. -/
def wireSource (s : State) (kind idx : Nat) (v : Bool) : State :=
  (List.range 16).foldl (fun s b =>
    (List.range 32).foldl (fun s w =>
      if s.get F.FPN_VWO_MAP_KIND (b + 16 * w) = kind ∧ s.get F.FPN_VWO_MAP_INDEX (b + 16 * w) = idx then s.wireChange b w v else s) s) s

/-- The wires of every outgoing block take the levels of their sources as the pins take their functions (R219, R234); no frame
is built, since the first refresh carries them (R240). -/
def startWires (s : State) : State :=
  (List.range 16).foldl (fun s b =>
    s.set F.FPN_VWO_STATE_WIRES b (((List.range 32).map (fun w =>
      let i := s.get F.FPN_VWO_MAP_INDEX (b + 16 * w)
      match s.get F.FPN_VWO_MAP_KIND (b + 16 * w) with
      | 1 => b2n (s.pinBit F.FPN_IN_PIN i) * 2 ^ w
      | 2 => b2n (Tbl.getD s.rfx.rules i {}).state * 2 ^ w
      | _ => 0)).sum)) s

/-- The time in ns for which a level must be sampled unchanged before the filter of a pin accepts it (R220). [DEDUCED 191 unsafe] -/
def filterTime (s : State) (p : Nat) : Nat := s.get F.FPn_CFG_FILT_N p * 16 ^ s.get F.FPn_CFG_FILT_SCALE p * 5

/-- A pin's input is sampled at the pad level `pad` (R220 to R223): the synchronised level follows, and the filter accepts it once it
has been unchanged for the filter time: counters, bindings and wires follow. The result says whether the filtered level has
an edge. [DEDUCED 191 unsafe] -/
def pinEdge (s : State) (p : Nat) (pad : Bool) : Bool × State :=
  let lv := pad != s.flag F.FPn_CFG_INV p
  let q := s.pin p
  let s := if s.pinBit F.FPN_RAW_PIN p = lv then s
    else (s.setPinBit F.FPN_RAW_PIN p lv).setPin p { q with rawAt := s.up, mism := false }
  if s.pinBit F.FPN_IN_PIN p = lv ∨ s.up < (s.pin p).rawAt + s.filterTime p then (false, s)
  else
    let s := (s.setPinBit F.FPN_IN_PIN p lv).setPin p { s.pin p with edgeNs := s.ns }
    let e := s.get F.FPn_CFG_EDGE p
    let counted := bit e (if lv then 0 else 1)
    let s := if counted then s.set F.FPn_EDGES_COUNT p (s.get F.FPn_EDGES_COUNT p + 1) else s
    (true, (s.pinUpdates p lv counted).wireSource 1 p lv)

/-- Set FAULT on the objects bound to a pin (R228). -/
def pinFault (s : State) (p : Nat) : State :=
  match s.pinObj p with
  | some (i, _) => s.pushUpdate { obj := i, rep := .fail, sec := s.sec, ns := s.nsec }
  | none => s

/-- Build and send the VW frame of a block (R234, R235, R236). [DEDUCED 73 safe] -/
def sendVw (s : State) (b stamp : Nat) (locked refresh : Bool) : State :=
  let dest := s.get F.FPN_VWO_CFG_DEST b
  let grp := s.flag F.FPN_VWO_CFG_DSTKIND b
  let dst := if grp then 0xFE else dest % 256
  let pay := be 4 (s.get F.FPN_VWO_STATE_WIRES b) ++ be 4 (b2n refresh * 2 ^ 31 + b2n (!locked) * 2 ^ 30 + stamp % 2 ^ 30)
  (s.onFpn fun f => { f with vwoAt := Tbl.put f.vwoAt b s.up }).sendPosted 10
    { tt := .vw, tc := 0, dst := dst, init := 1, len := 8, pay := pay,
      addr := dst * 2 ^ 40 + (if grp then dest % 4096 * 2 ^ 24 else 0) + b }

/-- Apply the state of a wire slot: the VWOUT pins follow. -/
def applyWires (s : State) (slot w : Nat) : State :=
  let old := s.get F.FPN_VWI_STATE_WIRES slot
  let s := s.set F.FPN_VWI_STATE_WIRES slot w
  if old = w % 2 ^ 32 then s
  else (List.range 256).foldl (fun s p =>
    if s.get F.FPn_CFG_FUNC p = 5 ∧ s.get F.FPn_SEL_ARG p / 32 = slot then s.redrive p else s) s

/-- A VW frame for a slot (R237): applied at A, or at once when A has passed or time is not locked; the earlier states of the slot,
which SEQ puts before it, are then applied first (R240). -/
def slotFrame (s : State) (slot : Nat) (pay : List Byte) : State :=
  let w := beAt pay 0 4
  let x := beAt pay 4 4
  let stamp := x % 2 ^ 30
  let sec := if stamp ≤ s.nsec then s.sec else s.sec - 1
  let a := sec * 10 ^ 9 + stamp + s.get F.FPN_VWI_CFG_LAT slot * 100
  let s := (s.set F.FPN_VWI_STAT_TIMEDOUT slot 0).onFpn fun f => { f with vwiAt := Tbl.put f.vwiAt slot s.up }
  if a < s.ns ∨ bit x 30 ∨ !s.timeLocked then
    let s := (Tbl.getD s.fpn.vwi slot []).foldl (fun s e => s.applyWires slot e.2) s
    (((s.onFpn fun f => { f with vwi := Tbl.erase f.vwi slot }).applyWires slot w).bump F.FPN_CNT_VWLATE).set F.FPN_VWI_STAT_LATE slot 1
  else s.onFpn fun f => { f with vwi := Tbl.put f.vwi slot (Tbl.getD f.vwi slot [] ++ [(a, w)]) }

end State

/-- PIN_OUTPUT_CHANGE (R226): the change that EPO handed to a pin, or the pin's bit of OUTn, becomes the value of its GPO
source; `ctrl` is the level that the controller signal of a CTRL pin puts out, none for its idle level. The owner decision follows. -/
def execPinOutputChange (pin : Nat) (ctrl : Option Bool) (s : State) : Out :=
  let mine (h : Handed) : Bool := decide (h.kind = 8) && decide (h.index = pin)
  if s.get F.FPn_CFG_FUNC pin = 3 then .next ((s.setPin pin { s.pin pin with ctrl := ctrl }).redrive pin)
  else
    match s.epo.handed.find? mine with
    | some h =>
      let s := s.onEpo fun e => { e with handed := e.handed.eraseP mine }
      let type := ((s.obj? h.obj).map (fun o => o.type)).getD 0
      .next ((s.gpoSource pin (truth type h.value)).sinkOk h.obj)
    | none => .next (if s.unboundGpo pin then s.gpoSource pin (s.pinBit F.FPN_OUT_PIN pin) else s.redrive pin)

/-- READBACK_MISMATCH (R228): the synchronised input of a driving pin differs from what it drives for two cycles, after the readback
delay; each mismatch counts once. -/
def execReadbackMismatch (pin : Nat) (s : State) : Out :=
  let q := s.pin pin
  let dly := s.get F.FPn_CFG_RBDLY pin
  let input := s.pinBit F.FPN_RAW_PIN pin != s.flag F.FPn_CFG_INV pin
  .next (if decide (dly = 0) || (s.padDrive pin).isNone || decide (s.padDrive pin = some input) || q.mism
      || decide (s.up < max (q.driveAt + dly * 5) q.rawAt + 5) then s
    else (((s.setPin pin { q with mism := true }).setPinBit F.FPN_MISM_PIN pin true).bump F.FPn_STAT_MISM pin).pinFault pin)

/-- PULSE_END (R227): after PW µs the pin returns to 0. -/
def execPulseEnd (pin : Nat) (s : State) : Out :=
  let q := s.pin pin
  .next (if q.pulse && decide (q.pulseAt + s.get F.FPn_SEL_PW pin * 1000 ≤ s.up) then (s.setPin pin { q with pulse := false }).redrive pin
    else s)

/-- VW_FRAME_SEND (R234): the waiting frame of a block leaves with the stamp of its first change. [DEDUCED 73 safe] -/
def execVwFrameSend (block : Nat) (s : State) : Out :=
  match Tbl.find? s.fpn.vwo block with
  | none => .next s
  | some q => .next ((s.onFpn fun f => { f with vwo := Tbl.erase f.vwo block }).sendVw block q.stamp q.locked false)

/-- VW_REFRESH (R236): an enabled block with no change for REFRESH ms is sent again. [DEDUCED 73 safe] -/
def execVwRefresh (block : Nat) (s : State) : Out :=
  if s.flag F.FPN_VWO_CFG_EN block ∧ !Tbl.has s.fpn.vwo block ∧
      Tbl.getD s.fpn.vwoAt block s.fpn.onAt + s.get F.FPN_VWO_CFG_REFRESH block * 1000000 ≤ s.up then
    .next (s.sendVw block s.nsec s.timeLocked true)
  else .next s

/-- VW (R237): the frame is matched to the enabled slots of its source and block; one of an initiator of no class or without the
posted flag is refused (R41, R45, R59). [DEDUCED 72 unsafe] -/
def execVw (f : Frame) (s : State) : Out :=
  let slots := (List.range 64).filter (fun k => s.flag F.FPN_VWI_CFG_EN k && decide (s.get F.FPN_VWI_CFG_SRC k = f.src)
    && decide (s.get F.FPN_VWI_CFG_BLOCK k = f.addr % 16))
  if classOf s.hubNum f.src f.init = none ∨ !f.pst then .next (s.settle 10 f { st := .ur })
  else
    let s := s.take f
    .next (if slots.isEmpty then s.bump F.FPN_CNT_VWUNK else slots.foldl (fun s k => s.slotFrame k f.pay) s)

/-- VW_APPLY (R237): from instant A on the oldest received state of a slot is applied. [DEDUCED 72 unsafe] -/
def execVwApply (slot : Nat) (s : State) : Out :=
  match Tbl.getD s.fpn.vwi slot [] with
  | [] => .next s
  | (a, w) :: rest => .next (if s.ns < a then s else (s.onFpn fun f => { f with vwi := Tbl.put f.vwi slot rest }).applyWires slot w)

/-- The least time in ns after which a slot can time out (R239): TMO refresh periods of its source block. The REFRESH of another hub
stands in that hub's image alone, so 1 ms, the least of its range, bounds it. [DEDUCED 192 unsafe] -/
def State.slotTimeout (s : State) (slot : Nat) : Nat :=
  s.get F.FPN_VWI_CFG_TMO slot * 1000000 *
    (if s.get F.FPN_VWI_CFG_SRC slot = s.hubNum then s.get F.FPN_VWO_CFG_REFRESH (s.get F.FPN_VWI_CFG_BLOCK slot) else 1)

/-- VW_SLOT_TIMEOUT (R239): a slot that has received no frame for TMO refresh periods goes to its safe state. [DEDUCED 192 unsafe] -/
def execVwSlotTimeout (slot : Nat) (s : State) : Out :=
  if !s.flag F.FPN_VWI_CFG_EN slot ∨ s.flag F.FPN_VWI_STAT_TIMEDOUT slot ∨
      s.up < Tbl.getD s.fpn.vwiAt slot s.fpn.onAt + s.slotTimeout slot then .next s
  else
    let s := (s.bump F.FPN_CNT_VWTMO).set F.FPN_VWI_STAT_TIMEDOUT slot 1
    .next (if s.flag F.FPN_VWI_CFG_SAFEMODE slot then s.applyWires slot (s.get F.FPN_VWI_SAFE_WIRES slot) else s)

/-- BANK_SUPPLY_LOSS (R545): VOK falls, the event is logged and the bank's outputs go to high impedance. -/
def execBankSupplyLoss (bank : Nat) (s : State) : Out :=
  let s := s.set F.FPN_BANK_CFG_VOK bank 0
  if s.fpn.on then
    .next (((s.onFpn fun f => { f with banks := setAt f.banks bank false }).note 0x39 5 [bank]).redriveRange (32 * bank) 32)
  else .next s

/-- BANK_SUPPLY_RESTORE (R545): VOK has been 1 for 1 ms; the bank's pins follow R229 again, unless the check at load kept
the bank off (R217). -/
def execBankSupplyRestore (bank : Nat) (s : State) : Out :=
  let s := s.set F.FPN_BANK_CFG_VOK bank 1
  if s.fpn.on ∧ s.fpn.admitted.getD bank false then
    .next ((s.onFpn fun f => { f with banks := setAt f.banks bank true }).redriveRange (32 * bank) 32)
  else .next s

end Sys2Proof.Machine
end

