-- ==== Sys2Proof/Machine/Can.lean ====
section
/-! DEFINITION. The CAN FD controllers and the object store (chapter 09). -/
namespace Sys2Proof.Machine

/-- The length of a frame from its DLC (Table 09-5); a remote frame has none. -/
def CanFrame.len (f : CanFrame) : Nat :=
  if f.rtr then 0
  else if f.dlc ≤ 8 then f.dlc
  else if f.fdf then [12, 16, 20, 24, 32, 48, 64].getD (f.dlc - 9) 64 else 8

/-- The rank of a frame in arbitration: the lower one wins (ISO 11898-1: base identifier, RTR or SRR, IDE, the rest of the
identifier, RTR). -/
def CanFrame.rank (f : CanFrame) : Nat :=
  if f.ide then f.id / 2 ^ 18 * 2 ^ 21 + 2 ^ 20 + 2 ^ 19 + f.id % 2 ^ 18 * 2 + b2n f.rtr else f.id * 2 ^ 21 + b2n f.rtr * 2 ^ 20

/-- The release word of an RX object (R290). -/
def CanObj.releaseWord (o : CanObj) : Nat := (15 + o.fr.len) / 4

/-- TXST as it reads: 1 while a request is pending (R299). -/
def CanObj.shownTxst (o : CanObj) : Nat := if o.txreq then 1 else o.txst

namespace State

/-- A message object. -/
def canObj? (s : State) (k : Nat) : Option CanObj := Tbl.find? s.can.objs k

/-- Store a message object. -/
def setCanObj (s : State) (k : Nat) (o : CanObj) : State := s.onCan fun c => { c with objs := Tbl.put c.objs k o }

/-- A controller. -/
def canCh (s : State) (c : Nat) : CanCh := Tbl.getD s.can.chans c {}

/-- Store a controller. -/
def setCanCh (s : State) (c : Nat) (v : CanCh) : State := s.onCan fun k => { k with chans := Tbl.put k.chans c v }

/-- The mode in which a controller works: OFF in reset and while its clock stands (R279, R475), LISTEN at a standby twin (R280), and at a
failed one (R453). [DEDUCED 145 unsafe] -/
def canMode (s : State) (c : Nat) : Nat := if s.blockBusy 7 then 0 else if s.passive then 3 else s.get F.CNnn_STAT_MODE_ACT c

/-- Show a controller's error counters, state and warning (R302). -/
def showErrors (s : State) (c : Nat) : State :=
  let q := s.canCh c
  let s := ((s.set F.CNnn_ERRCNT_TEC c (min 255 q.tec)).set F.CNnn_ERRCNT_REC c (min 127 q.recv)).setB F.CNnn_ERRCNT_RP c (decide (127 < q.recv))
  let s := s.setB F.CNnn_STAT_WARN c (decide (96 ≤ q.tec) || decide (96 ≤ q.recv))
  if s.get F.CNnn_STAT_ECS c = 2 then s else s.setB F.CNnn_STAT_ECS c (decide (127 < q.tec) || decide (127 < q.recv))

/-! ### The store -/

/-- The object of a channel that a received frame matches (R286). -/
def canMatch (s : State) (c : Nat) (f : CanFrame) : Option (Nat × CanObj) :=
  s.can.objs.find? (fun p => !p.2.tx && decide (p.2.ch = c) && decide (p.2.fr.ide = f.ide)
    && decide ((f.id ^^^ p.2.fr.id) &&& p.2.mask = 0))

/-- The binder update of a stored frame (R289): it replaces one that still waits for binder credit. -/
def canUpdate (s : State) (k c : Nat) (o : CanObj) : State :=
  (s.epo.objs.filter (fun e => decide (e.2.kind = 3) && decide (e.2.index = k))).foldl (fun s e =>
    let v := beAt o.fr.data 0 (typeBytes e.2.type)
    let waits (u : Update) : Bool := decide (u.obj = e.1) && (match u.rep with | .value _ _ => true | _ => false)
    let sent := s.epo.binder.take 64
    let held := s.epo.binder.drop 64
    if held.any waits then
      let u : Update := { obj := e.1, rep := .value v true, sec := o.sec, ns := o.ns }
      (s.onEpo fun p => { p with binder := sent ++ held.map (fun x => if waits x then u else x) }).bump F.CNnn_CNT_BINDLOST c
    else s.pushUpdate { obj := e.1, rep := .value v o.lost, sec := o.sec, ns := o.ns }) s

/-- Store a frame in an RX object (R287); `counted` says that FCNT advanced earlier, `lost` that the frame is marked. -/
def canStore (s : State) (k : Nat) (o : CanObj) (f : CanFrame) (sof : Nat) (counted lost : Bool) : State :=
  let data := f.data.take f.len ++ o.fr.data.drop f.len
  let n := { o with fr := { f with id := o.fr.id, data := data }, sec := sof / 10 ^ 9, ns := sof % 10 ^ 9,
                    fcnt := if counted then o.fcnt else (o.fcnt + 1) % 65536, isNew := true, lost := o.lost || o.isNew || lost }
  ((if o.isNew then s.bump F.CNnn_CNT_OVWR o.ch else s).setCanObj k n).canUpdate k o.ch n

/-- A frame of a channel reaches the store (R286, R287, R294). -/
def canReceive (s : State) (c : Nat) (f : CanFrame) (sof : Nat) : State :=
  match s.canMatch c f with
  | none => s.bump F.CNnn_CNT_NOMATCH c
  | some (k, o) =>
    if o.lock.isNone then s.canStore k o f sof false false
    else
      let n := { o with fcnt := (o.fcnt + 1) % 65536 }
      let q := s.canCh c
      match q.shadow with
      | none => (s.setCanObj k n).setCanCh c { q with shadow := some { obj := k, fr := f, sof := sof } }
      | some h =>
        if h.obj = k then
          ((s.setCanObj k n).setCanCh c { q with shadow := some { obj := k, fr := f, sof := sof, lost := true } }).bump F.CNnn_CNT_SHREPL c
        else (s.setCanObj k { n with lost := true }).bump F.CNnn_CNT_SHDROP c

/-- Release the lock of an object (R291, R293, R295): NEW and LOST are cleared if the release clears them, and then the
shadowed frame is stored. -/
def canRelease (s : State) (k : Nat) (clears : Bool) : State :=
  match s.canObj? k with
  | none => s
  | some o =>
    let o := { o with lock := none, isNew := o.isNew && !clears, lost := o.lost && !clears }
    let s := s.setCanObj k o
    let q := s.canCh o.ch
    match q.shadow with
    | some h => if h.obj = k then (s.setCanCh o.ch { q with shadow := none }).canStore k o h.fr h.sof true h.lost else s
    | none => s

end State

/-- Bytes 0 to 15 of a message object (Table 09-4), then its data. -/
def canBytes (s : State) (k : Nat) (o : CanObj) : List Byte :=
  let shadowed := match (s.canCh o.ch).shadow with | some h => decide (h.obj = k) | none => false
  be 4 (2 ^ 31 + b2n o.tx * 2 ^ 30 + b2n o.isNew * 2 ^ 29 + b2n o.lost * 2 ^ 28 + b2n o.lock.isSome * 2 ^ 27 + b2n shadowed * 2 ^ 26
      + b2n o.txreq * 2 ^ 25 + o.shownTxst * 2 ^ 21 + b2n o.oneshot * 2 ^ 20 + o.ch * 2 ^ 12)
    ++ be 4 (b2n o.fr.ide * 2 ^ 31 + b2n o.fr.rtr * 2 ^ 30 + b2n o.fr.fdf * 2 ^ 29 + o.fr.id % 2 ^ 29)
    ++ be 1 (b2n o.fr.brs * 2 ^ 7 + b2n o.fr.esi * 2 ^ 6 + o.fr.dlc) ++ be 1 o.sec ++ be 4 o.ns ++ be 2 o.fcnt ++ slice o.fr.data 0 64

/-- The objects that a range of space 0x3 names. -/
def canRange (off len : Nat) : List Nat := (List.range ((off + len - 1) / 128 + 1 - off / 128)).map (fun k => off / 128 + k)

/-- The read of a range (R285): the bytes. -/
def canData (s : State) (off len : Nat) : List Byte :=
  (List.range len).map (fun j => (((s.canObj? ((off + j) / 128)).map (canBytes s ((off + j) / 128))).getD []).getD ((off + j) % 128) 0)

/-- What an RD does to the lock of one object (R291, R292): `lo` and `hi` are the first and last byte it covers. -/
def canTouch (hub init k lo hi : Nat) (s : State) : State :=
  match s.canObj? k with
  | none => s
  | some o =>
    let w0 := decide (lo < 4)
    let rel := decide (o.releaseWord ≤ hi / 4)
    let covers := w0 && rel
    if o.tx then s
    else
      match o.lock with
      | none =>
        if covers then s.canRelease k true
        else if w0 then
          (s.setCanObj k { o with lock := some (hub, init), lockAt := s.up }).set F.CNnn_OBJLOCK_LAST o.ch k
        else s
      | some own =>
        if own ≠ (hub, init) then s
        else if rel then s.canRelease k true else s

/-- RD of a range of space 0x3 (R285, R291): UR if it names an object that is not allocated. -/
def canRead (off len hub init : Nat) (s : State) : State.Res × State :=
  let ks := canRange off len
  if ks.any (fun k => (s.canObj? k).isNone) then ({ st := .ur }, s)
  else
    ({ data := canData s off len },
     ks.foldl (fun s k => canTouch hub init k (off - 128 * k) (min 127 (off + len - 1 - 128 * k)) s) s)

/-- The object that a write leaves, before TXREQ and TXABORT act (R297); `at_` gives the written byte at a place. [DEDUCED 84 unsafe] -/
def canFields (o : CanObj) (at_ : Nat → Option Byte) : CanObj :=
  let b (k : Nat) (d : Byte) : Nat := ((at_ k).getD d).toNat
  let one := match at_ 1 with | some x => bit x.toNat 4 | none => o.oneshot
  let fmt := match at_ 4 with | some x => some x.toNat | none => none
  let r8 := match at_ 8 with | some x => some x.toNat | none => none
  let fr := { o.fr with
    rtr := (fmt.map (fun x => bit x 6)).getD o.fr.rtr, fdf := (fmt.map (fun x => bit x 5)).getD o.fr.fdf,
    brs := (r8.map (fun x => bit x 7)).getD o.fr.brs, dlc := (r8.map (fun x => x % 16)).getD o.fr.dlc,
    data := (List.range 64).map (fun k => BitVec.ofNat 8 (b (16 + k) (o.fr.data.getD k 0))) }
  { o with oneshot := one, fr := fr }

/-- A request for transmission (R298, R299). [DEDUCED 84 unsafe] -/
def canRequest (s : State) (k : Nat) (o : CanObj) : CanObj :=
  let onBus := match (s.canCh o.ch).sending with | some (j, _, _) => decide (j = k) | none => false
  { o with txreq := true, again := o.again || onBus, abort := o.abort && onBus }

/-- TXABORT (R300). [DEDUCED 84 unsafe, DEDUCED 85 unsafe] -/
def canAbort (s : State) (k : Nat) (o : CanObj) : CanObj :=
  if !o.txreq then o
  else
    match (s.canCh o.ch).sending with
    | some (j, _, _) => if j = k then { o with abort := true, again := false } else { o with txreq := false, txst := 6 }
    | none => { o with txreq := false, txst := 6 }

/-- WR or WRN of a range of space 0x3 (R285, R297). [DEDUCED 91 unsafe] -/
def canWrite (off : Nat) (data : List Byte) (s : State) : State.Res × State :=
  let ks := canRange off data.length
  let at_ (k j : Nat) : Option Byte := if off ≤ 128 * k + j then data[128 * k + j - off]? else none
  let bad (k : Nat) : Bool := match s.canObj? k with
    | none => true
    | some o =>
      let n := canFields o (at_ k)
      !o.tx || (n.fr.fdf && (n.fr.rtr || !s.flag F.CNnn_CFG_FDEN o.ch))
  if ks.any bad then ({ st := .ur }, s)
  else
    ({}, ks.foldl (fun s k =>
      match s.canObj? k with
      | none => s
      | some o =>
        let n := canFields o (at_ k)
        let w := ((at_ k 0).getD 0).toNat
        let n := if bit w 1 then canRequest s k n else n
        s.setCanObj k (if bit w 0 then canAbort s k n else n)) s)

/-- The object that a request to space 0x3 names first, written by the request's payload. -/
def canWriteFrame (f : Frame) (s : State) : State.Res × State := canWrite f.offset f.pay s

/-- CANTX_REQUEST (R301): the oldest change that EPO handed to CAN writes data bytes 0 to w − 1 with TXREQ. -/
def execCantxRequest (s : State) : Out :=
  let mine (h : Handed) : Bool := decide (h.kind = 10)
  match s.epo.handed.find? mine with
  | none => .next s
  | some h =>
    let s := s.onEpo fun e => { e with handed := e.handed.eraseP mine }
    let w := typeBytes (((s.obj? h.obj).map (fun o => o.type)).getD 0)
    match s.canObj? h.index with
    | none => .next s
    | some o =>
      if !o.tx then .next s
      else
        let n := { o with fr := { o.fr with data := patch (slice o.fr.data 0 64) 0 (be w h.value) } }
        .next ((s.setCanObj h.index (canRequest s h.index n)).sinkOk h.obj)

/-- CAN_LOCK_TIMEOUT (R293): a lock is released LOCKTMO µs after it was taken; NEW and LOST stay. -/
def execCanLockTimeout (obj : Nat) (s : State) : Out :=
  match s.canObj? obj with
  | none => .next s
  | some o =>
    .next (if o.lock.isSome && decide (o.lockAt + s.get F.CAN_LOCKTMO_TMO * 1000 ≤ s.up) then
      (s.canRelease obj false).bump F.CNnn_CNT_LOCKTMO o.ch else s)

/-! ### Detection (R283, R284) -/

/-- The first enabled candidate at or above a number. -/
def nextCand (mask n width : Nat) : Option Nat := (maskBits mask width).find? (fun k => decide (n ≤ k))

namespace State

/-- Apply nominal candidate k: no good frame yet, the first data candidate (R283). -/
def abdApply (s : State) (c k : Nat) : State :=
  let d := (nextCand (s.get F.CAN_ABD_CTL_DEN) 0 4).getD 0
  (((s.set F.CNnn_ABD_NIDX c k).set F.CNnn_ABD_DIDX c d)).setCanCh c { s.canCh c with good := 0, seen := false, dwellAt := s.up }

/-- Detection ends without a result, or FOUND without ADOPT: the controller enters CONFIG (R284). [DEDUCED 89 unsafe] -/
def abdEnd (s : State) (c state : Nat) : State := (s.set F.CNnn_ABD_STATE c state).set F.CNnn_STAT_MODE_ACT c 1

/-- The round ends: silent, the next round, or failed. [DEDUCED 89 unsafe] -/
def abdRound (s : State) (c : Nat) : State :=
  let q := s.canCh c
  let r := s.get F.CNnn_ABD_ROUND c
  if !q.edge then s.abdEnd c 4
  else if r < s.get F.CAN_ABD_CTL_ROUNDS then
    ((s.set F.CNnn_ABD_ROUND c (r + 1)).setCanCh c { q with edge := false }).abdApply c ((nextCand (s.get F.CAN_ABD_CTL_NEN) 0 8).getD 0)
  else s.abdEnd c 3

/-- The next nominal candidate, or the end of the round. [DEDUCED 89 unsafe] -/
def abdNext (s : State) (c : Nat) : State :=
  match nextCand (s.get F.CAN_ABD_CTL_NEN) (s.get F.CNnn_ABD_NIDX c + 1) 8 with
  | some k => s.abdApply c k
  | none => s.abdRound c

/-- Detection starts (R283). -/
def abdStart (s : State) (c : Nat) : State :=
  let s := (s.set F.CNnn_ABD_STATE c 1).set F.CNnn_ABD_ROUND c 1
  let s := (s.set F.CNnn_ABD_DFOUND c 0).setCanCh c { s.canCh c with edge := false }
  match nextCand (s.get F.CAN_ABD_CTL_NEN) 0 8 with
  | some k => s.abdApply c k
  | none => s.abdRound c

/-- Detection runs on a channel. -/
def abdOn (s : State) (c : Nat) : Bool := decide (s.get F.CNnn_ABD_STATE c = 1) && decide (s.get F.CNnn_STAT_MODE_ACT c = 4)

/-- A frame was received without error during detection (R283, R284). -/
def abdGood (s : State) (c : Nat) (brs : Bool) : State :=
  let q := s.canCh c
  let n := q.good + 1
  let seen := q.seen || brs
  let s := s.setCanCh c { q with good := n, seen := seen, edge := true, dwellAt := s.up }
  if n < s.get F.CAN_ABD_CTL_CONFIRM then s
  else
    let s := (s.set F.CNnn_ABD_STATE c 2).setB F.CNnn_ABD_DFOUND c seen
    if s.flag F.CNnn_CFG_ABD_ADOPT c then
      let s := s.set F.CNnn_NBT_WORD c (s.get F.CAN_ABD_N_WORD (s.get F.CNnn_ABD_NIDX c))
      let s := if seen then s.set F.CNnn_DBT_WORD c (s.get F.CAN_ABD_D_WORD (s.get F.CNnn_ABD_DIDX c)) else s
      s.set F.CNnn_STAT_MODE_ACT c 3
    else s.set F.CNnn_STAT_MODE_ACT c 1

/-- An error during detection (R283); `data` says that it lies in the data phase of a frame with BRS. -/
def abdError (s : State) (c : Nat) (data : Bool) : State :=
  let s := s.setCanCh c { s.canCh c with edge := true }
  if data then
    match nextCand (s.get F.CAN_ABD_CTL_DEN) (s.get F.CNnn_ABD_DIDX c + 1) 4 with
    | some d => (s.set F.CNnn_ABD_DIDX c d).setCanCh c { s.canCh c with good := 0, seen := false }
    | none => s.abdNext c
  else s.abdNext c

/-! ### Modes -/

/-- A mode takes effect (R277, R278, R283, R304). -/
def canEnter (s : State) (c m : Nat) : State :=
  let old := s.get F.CNnn_STAT_MODE_ACT c
  let q := s.canCh c
  let rcv := s.flag F.CNnn_STAT_RECOVERING c
  let stops := decide (m ≤ 1) && rcv
  let again := decide (m = 2) && q.resume && decide (s.get F.CNnn_STAT_ECS c = 2)
  let s := s.setCanCh c { q with request := none, integrated := false, sending := none,
                                 resume := (q.resume || stops) && !again }
  let s := (s.set F.CNnn_STAT_MODE_ACT c m).set F.CNnn_STAT_IDLE c 0
  let s := if stops then (s.set F.CNnn_STAT_RECOVERING c 0).set F.CNnn_ERRCNT_RECSEQ c 0 else s
  let s := (if again then s.set F.CNnn_STAT_RECOVERING c 1 else s).restSignals (fun code => decide (code = 0x80 + 2 * c))
  if m = 4 ∧ old ≤ 1 then s.abdStart c else s

/-- A channel starts bus-off recovery (R304). [DEDUCED 90 unsafe] -/
def canRecover (s : State) (c : Nat) : State := (s.set F.CNnn_STAT_RECOVERING c 1).set F.CNnn_ERRCNT_RECSEQ c 0

/-- A pending request of an object ends with a TXST (R299, R303); the start of frame is that of an attempt on the bus. -/
def canEnd (s : State) (k : Nat) (o : CanObj) (st : Nat) (sof : Option Nat) : State :=
  let o : CanObj := match sof with
    | some t => { o with sec := t / 10 ^ 9, ns := t % 10 ^ 9 }
    | none => o
  (s.noteDone (.canTx k st)).setCanObj k { o with txreq := false, txst := st, again := false, abort := false }

/-- A channel goes bus-off (R303): its pending one-shot objects end BUSOFF, one whose last attempt was under way ABORTED (R300). [DEDUCED 85 unsafe] -/
def goBusOff (s : State) (c : Nat) : State :=
  let q := s.canCh c
  let s := ((s.set F.CNnn_STAT_ECS c 2).bump F.CNnn_CNT_BUSOFF c).setCanCh c { q with sending := none }
  let s := (s.can.objs.filter (fun p => decide (p.2.ch = c) && p.2.txreq)).foldl (fun s p =>
    let sof := match q.sending with
      | some (k, _, t) => if k = p.1 then some t else none
      | none => none
    if p.2.abort then s.canEnd p.1 p.2 6 sof else if p.2.oneshot then s.canEnd p.1 p.2 5 sof else s) s
  let s := (s.epo.objs.filter (fun e => (decide (e.2.kind = 3) || decide (e.2.kind = 10))
      && decide (((s.canObj? e.2.index).map (fun o => o.ch)) = some c))).foldl
    (fun s e => s.pushUpdate { obj := e.1, rep := .fail, sec := s.sec, ns := s.nsec }) s
  if s.flag F.CNnn_CFG_AUTORECOV c then s.canRecover c else s

end State

/-- A write of CNnn_CTL (R277, R283, R304): the mode that it requests, and RECOVER. -/
def canCtl (c w : Nat) (s : State) : State.Res × State :=
  let m := w % 8
  let act := s.get F.CNnn_STAT_MODE_ACT c
  if 6 ≤ m then ({ st := .ur }, s)
  else if m = 4 ∧ (act = 2 ∨ act = 3 ∨ act = 5) then ({ st := .busy }, s)
  else
    let s := if s.abdOn c then s.set F.CNnn_ABD_STATE c 0 else s
    let s := (s.set F.CNnn_CTL_MODE c m).setCanCh c { s.canCh c with request := some m }
    ({}, if bit w 3 && decide (s.get F.CNnn_STAT_ECS c = 2) && !s.flag F.CNnn_STAT_RECOVERING c then s.canRecover c else s)

/-- The channel that a CAN register offset names. -/
def canOf (f : Frame) : Nat := f.offset % 0x10000 / 0x1000

/-- CAN_MODE_EFFECT (R277): the requested mode is in force, once no frame of this controller is on the bus. [DEDUCED 92 unsafe] -/
def execCanModeEffect (ch : Nat) (s : State) : Out :=
  match (s.canCh ch).request with
  | none => .next s
  | some m => .next (if (s.canCh ch).sending.isSome || s.blockBusy 7 then s else s.canEnter ch m)

/-- BUS_INTEGRATION (R278, R304): 11 consecutive recessive bits: the controller has integrated; in recovery they count
one sequence. [DEDUCED 90 unsafe] -/
def execBusIntegration (ch : Nat) (s : State) : Out :=
  let m := s.canMode ch
  if m < 2 then .next s
  else
    let s := (s.setCanCh ch { s.canCh ch with integrated := true }).set F.CNnn_STAT_IDLE ch 1
    .next (if s.flag F.CNnn_STAT_RECOVERING ch then s.set F.CNnn_ERRCNT_RECSEQ ch (min 127 (s.get F.CNnn_ERRCNT_RECSEQ ch + 1)) else s)

/-- RECOVERY_COMPLETE (R304): the 128th sequence. [DEDUCED 90 unsafe] -/
def execRecoveryComplete (ch : Nat) (s : State) : Out :=
  if !s.flag F.CNnn_STAT_RECOVERING ch || decide (s.get F.CNnn_ERRCNT_RECSEQ ch < 127) then .next s
  else
    let s := (s.setCanCh ch { s.canCh ch with tec := 0, recv := 0 }).set F.CNnn_ERRCNT_RECSEQ ch 128
    .next (((s.set F.CNnn_STAT_RECOVERING ch 0).set F.CNnn_STAT_ECS ch 0).showErrors ch)

/-- ABD_DWELL_EXPIRY (R283): the dwell passed without a frame; `edge` says that RX showed an edge in it. -/
def execAbdDwellExpiry (ch : Nat) (edge : Bool) (s : State) : Out :=
  if s.abdOn ch && decide ((s.canCh ch).dwellAt + s.get F.CAN_ABD_CTL_DWELL * 1000000 ≤ s.up) then
    let q := s.canCh ch
    .next ((s.setCanCh ch { q with edge := q.edge || edge }).abdNext ch)
  else .next s

/-! ### Frames and errors -/

namespace State

/-- A frame was received without error: the acknowledgement, counters, detection and the store (R275, R276, R283, R286): only a
controller in NORMAL acknowledges on the bus (Table 09-2, R280). [PRESUMED 87 safe, PRESUMED 88 unsafe] -/
def canGood (s : State) (c : Nat) (fr : CanFrame) (sof : Nat) : State :=
  let m := s.canMode c
  let s := if m = 2 then s.emit (.canAck c) else s
  let s := s.bump F.CNnn_CNT_RXOK c
  let s := if m = 2 ∨ m = 5 then
      let q := s.canCh c
      let v := s.draw
      if 127 < q.recv then (v.2.setCanCh c { q with recv := 119 + v.1.toNat % 9 }).showErrors c
      else (s.setCanCh c { q with recv := q.recv - 1 }).showErrors c
    else s
  let s := if s.abdOn c then s.abdGood c fr.brs else s
  s.canReceive c fr sof

/-- The start-of-frame time of an edge `age` ns ago (R288). -/
def sofTime (s : State) (c age : Nat) : Nat := s.ns - age - s.get F.CNnn_CFG_TSADJ c

end State

/-- CAN_FRAME_RX (R287): a frame is valid whose SOF edge was `age` ns ago. An FD frame is valid only where FD frames are enabled
(Table 09-1), and nothing is received in bus-off. -/
def execCanFrameRx (ch : Nat) (fr : CanFrame) (age : Nat) (s : State) : Out :=
  let m := s.canMode ch
  if fr.fdf ∧ (fr.rtr ∨ !s.flag F.CNnn_CFG_FDEN ch) then .next s
  else if m = 4 ∨ ((m = 2 ∨ m = 3) ∧ (s.canCh ch).integrated ∧ s.get F.CNnn_STAT_ECS ch ≠ 2) then .next (s.canGood ch fr (s.sofTime ch age)) else .next s

/-- CAN_ARBITRATION (R298): the pending TX object that would win is offered; its frame is captured. -/
def execCanArbitration (ch : Nat) (s : State) : Out :=
  let m := s.canMode ch
  let q := s.canCh ch
  if (m ≠ 2 ∧ m ≠ 5) ∨ s.twn.veering ∨ !q.integrated ∨ q.sending.isSome ∨ s.get F.CNnn_STAT_ECS ch = 2 then .next s
  else
    let ready := s.can.objs.filter (fun p => p.2.tx && p.2.txreq && decide (p.2.ch = ch))
    match ready.find? (fun p => ready.all (fun x => decide (p.2.fr.rank ≤ x.2.fr.rank))) with
    | none => .next s
    | some (k, o) =>
      let f := { o.fr with brs := o.fr.brs && o.fr.fdf, esi := decide (s.get F.CNnn_STAT_ECS ch = 1), data := o.fr.data.take o.fr.len }
      let s := (s.setCanCh ch { q with sending := some (k, f, s.sofTime ch 0) }).set F.CNnn_STAT_IDLE ch 0
      .next (if m = 2 then s.emit (.can ch f) else s)

/-- CAN_TX_COMPLETE (R299, R300): the attempt on the bus ends: `outcome` 0 OK, 1 arbitration lost, 2 error. [DEDUCED 85 unsafe] -/
def execCanTxComplete (ch outcome : Nat) (s : State) : Out :=
  let q := s.canCh ch
  match q.sending with
  | none => .next s
  | some (k, f, sof) =>
    let s := (s.setCanCh ch { q with sending := none }).set F.CNnn_STAT_IDLE ch 1
    let s := if outcome = 0 then
        ((s.bump F.CNnn_CNT_TXOK ch).setCanCh ch { s.canCh ch with tec := (s.canCh ch).tec - 1 }).showErrors ch
      else if outcome = 1 then s.bump F.CNnn_CNT_ARBLOST ch else s
    let s := match s.canObj? k with
      | none => s
      | some o =>
        let ends := decide (outcome = 0) || o.oneshot || o.abort
        let st := if outcome = 0 then 2 else if o.abort then 6 else if outcome = 1 then 3 else 4
        if ends then
          let t := s.canEnd k o st (some sof)
          if o.again then t.setCanObj k { (t.canObj? k).getD o with txreq := true } else t
        else s
    .next (if outcome = 0 ∧ s.canMode ch = 5 then s.canGood ch f sof else s)

/-- CAN_BUS_ERROR (R302): an error of code `lec`, in the data phase or not; ISO 11898-1 adds `add` to the transmit or to
the receive error counter; `frame` says that an error frame was sent or received. [PRESUMED 86 unsafe, PRESUMED 88 unsafe] -/
def execCanBusError (ch lec add : Nat) (data tx frame : Bool) (s : State) : Out :=
  let m := s.canMode ch
  if m < 2 then .next s
  else
    let s := ((s.set F.CNnn_STAT_LEC ch lec).setB F.CNnn_STAT_DPE ch data)
    let s := if frame then s.bump F.CNnn_CNT_ERRFRM ch else s
    let s := if s.abdOn ch then s.abdError ch data else s
    if (m = 2 ∨ m = 5) ∧ s.get F.CNnn_STAT_ECS ch ≠ 2 then
      let q := s.canCh ch
      .next ((s.setCanCh ch (if tx then { q with tec := q.tec + add } else { q with recv := min 255 (q.recv + add) })).showErrors ch)
    else .next s

/-- BUS_OFF (R302, R303): a channel whose transmit error counter has passed 255 goes bus-off. [PRESUMED 86 unsafe] -/
def execBusOff (ch : Nat) (s : State) : Out :=
  .next (if s.get F.CNnn_STAT_ECS ch = 2 ∨ (s.canCh ch).tec ≤ 255 then s else s.goBusOff ch)

/-! ### Allocation (R305) -/

/-- The result of a CAN command. -/
def canRes (s : State) (index result : Nat) : State := (s.set F.CAN_CMD_RES_INDEX 0 index).set F.CAN_CMD_RES_RESULT 0 result

/-- Whether a new object's identifier is in use on its channel (R286). -/
def canUsed (s : State) (n : CanObj) : Bool :=
  s.can.objs.any (fun p => decide (p.2.ch = n.ch) && decide (p.2.tx = n.tx) && decide (p.2.fr.ide = n.fr.ide)
    && (if n.tx then decide (p.2.fr.id = n.fr.id) else decide ((p.2.fr.id ^^^ n.fr.id) &&& p.2.mask &&& n.mask = 0)))

/-- ALLOC with the argument registers. [DEDUCED 68 unsafe, DEDUCED 91 unsafe] -/
def canAlloc (s : State) : State.Res × State :=
  let old := s.get F.CAN_CMD_RES_INDEX
  let tx := s.flag F.CAN_CMD_ARG0_DIR
  let ide := s.flag F.CAN_CMD_ARG0_IDE
  let fdf := tx && s.flag F.CAN_CMD_ARG0_FDF
  let ch := s.get F.CAN_CMD_ARG0_CHAN
  let id := s.get F.CAN_CMD_ARG1
  let n : CanObj := { tx := tx, ch := ch, mask := if tx then 0 else s.get F.CAN_CMD_ARG2, oneshot := tx && s.flag F.CAN_CMD_ARG0_ONESHOT,
                      fr := { ide := ide, fdf := fdf, id := id, dlc := 0, data := zeros 64 } }
  if (!ide && decide (2 ^ 11 ≤ id)) || (fdf && !s.flag F.CNnn_CFG_FDEN ch) then ({}, canRes s old 2)
  else if canUsed s n then ({}, canRes s old 3)
  else
    let d := s.get F.CAN_OBJ_USED_DEF
    match Tbl.firstFree s.can.objs d (8192 - d) with
    | none => ({ st := .nores }, (canRes s old 1).bump F.CAN_CNT_EXH)
    | some k => ({}, canRes (s.setCanObj k n) k 0)

/-- FREE of a run-time object. -/
def canFree (k : Nat) (s : State) : State :=
  let old := s.get F.CAN_CMD_RES_INDEX
  match s.canObj? k with
  | none => canRes s old 4
  | some o =>
    let onBus := match (s.canCh o.ch).sending with | some (j, _, _) => decide (j = k) | none => false
    if k < s.get F.CAN_OBJ_USED_DEF then canRes s old 4
    else if o.lock.isSome || onBus then canRes s old 5
    else canRes (s.onCan fun c => { c with objs := Tbl.erase c.objs k }) old 0

end Sys2Proof.Machine
end

