-- ==== Sys2Proof/Machine/Bridge.lean ====
section
/-! DEFINITION. Serial ports, the bridge to far-side buses, prefetch and pollers (chapter 10). -/
namespace Sys2Proof.Machine

/-- The unit u of a window kind (Table 10-1). [DEDUCED 96 unsafe] -/
def kindUnit (k : Nat) : Nat := if k = 2 ∨ k = 3 then 2 else 1

/-- The status of a far-side detail code (Table 10-3). [DEDUCED 96 unsafe] -/
def farStatus (d : Nat) : Status := if d = 0x80 ∨ d = 0x93 ∨ d = 0xA0 ∨ d = 0xFE then .tmo else .ferr

/-- One bit of the reflected CRC-16 (R311). [DEDUCED 101 unsafe] -/
def crcBit (c : Nat) : Nat := if c % 2 = 1 then c / 2 ^^^ 0xA001 else c / 2

/-- The Modbus CRC-16 of bytes (R311). [DEDUCED 101 unsafe] -/
def crc16 (l : List Byte) : Nat := l.foldl (fun c b => (List.range 8).foldl (fun c _ => crcBit c) (c ^^^ b.toNat)) 0xFFFF

/-- A Modbus RTU frame: its bytes and the CRC, low byte first (R311). [DEDUCED 101 unsafe] -/
def rtu (l : List Byte) : List Byte := l ++ le 2 (crc16 l)

/-- Coil bytes packed eight to a byte, the first in bit 0. [DEDUCED 97 unsafe] -/
def packCoils (l : List Byte) : List Byte :=
  (List.range (cdiv l.length 8)).map (fun i =>
    BitVec.ofNat 8 (((List.range 8).map (fun j => b2n (decide (l.getD (8 * i + j) 0 ≠ 0)) * 2 ^ j)).sum))

namespace State

/-- A far-side bus. -/
def bus (s : State) (b : Nat) : BrgBus := Tbl.getD s.brg.buses b {}

/-- Store a far-side bus. -/
def setBus (s : State) (b : Nat) (v : BrgBus) : State := s.onBrg fun g => { g with buses := Tbl.put g.buses b v }

/-- The bus of a window. -/
def winBus (s : State) (w : Nat) : Nat := s.get F.BRG_WIN_CFG_BUS w

/-- The kind of a window. -/
def winKind (s : State) (w : Nat) : Nat := s.get F.BRG_WIN_CFG_KIND w

/-! ### Far-side transactions -/

/-- The bytes of the next far-side transaction of an access (R318). [DEDUCED 96 unsafe] -/
def chunkOf (s : State) (a : BrgAcc) : Nat :=
  let k := s.winKind a.win
  let u := kindUnit k
  let x := max 1 (s.get F.BRG_WIN_CFG_MAXXFER a.win)
  let x := if a.write && decide (k = 0) then min x 1968 else if a.write && decide (k = 2) then min x 123 else x
  let n := min (x * u) (a.len - a.done)
  let p := s.get F.BRG_WIN_FAR2_PAGE a.win
  if (k = 5 ∨ k = 6) ∧ p ≠ 0 then min n (2 ^ p - (a.off + a.done) % 2 ^ p) else n

/-- The request that the bridge puts on the bus for the transaction in progress (R317). [DEDUCED 96 unsafe, DEDUCED 97 unsafe] -/
def farRequest (s : State) (a : BrgAcc) : List Byte :=
  let w := a.win
  let o := a.off + a.done
  let far := s.get F.BRG_WIN_FAR_FARBASE w
  let unit := be 1 (s.get F.BRG_WIN_FAR_UNIT w)
  let d := slice a.data a.done a.chunk
  let reg := be (s.get F.BRG_WIN_FAR_AW w) (far + o)
  let multi := s.flag F.BRG_WIN_CFG_MULTI w
  match s.winKind w with
  | 0 =>
    if !a.write then rtu (unit ++ be 1 1 ++ be 2 (far + o) ++ be 2 a.chunk)
    else if a.chunk = 1 ∧ !multi then rtu (unit ++ be 1 5 ++ be 2 (far + o) ++ be 2 (if d.headD 0 ≠ 0 then 0xFF00 else 0))
    else
      let p := packCoils d
      rtu (unit ++ be 1 0x0F ++ be 2 (far + o) ++ be 2 a.chunk ++ be 1 p.length ++ p)
  | 1 => rtu (unit ++ be 1 2 ++ be 2 (far + o) ++ be 2 a.chunk)
  | 2 =>
    if !a.write then rtu (unit ++ be 1 3 ++ be 2 (far + o / 2) ++ be 2 (a.chunk / 2))
    else if a.chunk = 2 ∧ !multi then rtu (unit ++ be 1 6 ++ be 2 (far + o / 2) ++ d)
    else rtu (unit ++ be 1 0x10 ++ be 2 (far + o / 2) ++ be 2 (a.chunk / 2) ++ be 1 d.length ++ d)
  | 3 => rtu (unit ++ be 1 4 ++ be 2 (far + o / 2) ++ be 2 (a.chunk / 2))
  | 4 => if a.write then d else []
  | 5 =>
    if a.write then be 1 (s.get F.BRG_WIN_FAR2_WRCMD w) ++ reg ++ d
    else be 1 (s.get F.BRG_WIN_FAR2_RDCMD w) ++ reg ++ zeros (s.get F.BRG_WIN_FAR2_DUMMY w)
  | 6 =>
    let dev := 2 * s.get F.BRG_WIN_FAR_UNIT w
    if a.write then be 1 dev ++ reg ++ d else be 1 dev ++ reg ++ be 1 (dev + 1)
  | _ => if a.write then d else []

/-- The bits of a character at a port, its start, parity and stop bits among them (R307). -/
def charBits (s : State) (n : Nat) : Nat :=
  s.get F.SPnn_CFG_DBITS n + 7 + b2n (s.flag F.SPnn_CFG_MODE9 n) + b2n (decide (s.get F.SPnn_CFG_PARITY n ≠ 0)) + b2n (s.flag F.SPnn_CFG_STOP2 n)

/-- t1.5 (15) or t3.5 (35) of a port in ns, rounded up (R312). -/
def mbTime (s : State) (n tenths : Nat) : Nat :=
  let div := s.get F.SPnn_BAUD_DIV n
  if 3200000000 ≤ 19200 * div then cdiv (tenths * s.charBits n * div) 32 else tenths * 50000

/-- How long the line of a bus is quiet between two requests, in ns: t3.5 at a Modbus port (R312), CSGAP periods of SCK at an SPI
controller (R313). -/
def quietTime (s : State) (b : Nat) : Nat :=
  if b < 32 then (if s.flag F.SPnn_CFG_MBRTU b then s.mbTime b 35 else 0)
  else if b < 40 then s.get F.SQn_CFG_CSGAP (b - 32) * (s.get F.SQn_CFG_DIV (b - 32) + 1) * 10
  else 0

/-- How long a bus recovers from a cut access, in ns (R456): 11 bit times at a UART that is no Modbus port; a bus clear on I2C ends when
the command comes. -/
def recoverTime (s : State) (b : Nat) : Nat :=
  if b < 32 ∧ !s.flag F.SPnn_CFG_MBRTU b then cdiv (55 * s.get F.SPnn_BAUD_DIV b) 16 else s.quietTime b

/-- Something happens on the line of a bus. -/
def touchLine (s : State) (b : Nat) : State := s.onBrg fun g => { g with quiet := Tbl.put g.quiet b s.up }

/-- The line of a bus has been quiet for `t` ns. -/
def quietFor (s : State) (b t : Nat) : Bool := match Tbl.find? s.brg.quiet b with
  | none => true
  | some u => decide (u + t ≤ s.up)

/-- The RX object that answers a CANRR window. -/
def answerObj (s : State) (w : Nat) : Nat := s.get F.BRG_WIN_FAR2_RDCMD w + s.get F.BRG_WIN_FAR2_WRCMD w % 32 * 256

/-- Frames that a CAN object has accepted. -/
def canCount (s : State) (k : Nat) : Nat := ((s.canObj? k).map (fun o => o.fcnt)).getD 0

/-- Put the next far-side transaction of an access on its bus (R317, R318). -/
def startChunk (s : State) (b : Nat) (a : BrgAcc) : State :=
  let a := { a with chunk := s.chunkOf a, at_ := s.up, fcnt := s.canCount (s.answerObj a.win) }
  let s := s.setBus b { s.bus b with cur := some a }
  if s.winKind a.win = 7 then
    let k := s.get F.BRG_WIN_FAR_FARBASE a.win
    match s.canObj? k with
    | none => s
    | some o =>
      let data := if a.write then patch (slice o.fr.data 0 64) 0 (slice a.data a.done a.chunk) else o.fr.data
      s.setCanObj k (canRequest s k { o with fr := { o.fr with data := data } })
  else s.emit (.far b (s.farRequest a))

/-- An access starts on its bus (R318). -/
def startAccess (s : State) (b : Nat) (a : BrgAcc) : State :=
  let a := { a with start := s.up }
  (if s.chunkOf a < a.len then s.bump F.BRG_CNT_SPLIT else s).startChunk b a

/-! ### Prefetch (R324 to R326) -/

/-- The bytes of a window covered by regions of space 0x4 that satisfy a test. -/
def winCover (s : State) (w : Nat) (p : Region → Bool) : Nat :=
  let base := s.get F.BRG_WIN_BASE_BASE w * 4096
  let size := s.get F.BRG_WIN_BASE_SIZE w * 4096
  ((s.img.regions.filter (fun g => decide (g.space = 4) && p g)).map (fun g => g.overlap base size)).sum

/-- Discard a prefetch buffer unused (R325, R326). [DEDUCED 94 unsafe] -/
def pfDiscard (s : State) (k reason : Nat) : State :=
  match Tbl.find? s.brg.pf k with
  | none => s
  | some p =>
    let s := s.onBrg fun g => { g with pf := Tbl.erase g.pf k }
    if p.data.isNone && p.doomed.isNone then s
    else
      let s := s.bump F.BRG_CNT_PFDISC
      if s.winCover p.win (fun g => g.se) = 0 then s
      else if 64 ≤ s.brg.dlog.length then (s.bump F.BRG_DLOG_STAT_OVFCNT).set F.BRG_DLOG_STAT_OVF 0 1
      else
        let at_ := s.get F.BRG_WIN_BASE_BASE p.win * 4096 + p.off
        let f := { p.req with tt := .rd, addr := fabAddr s.hubNum 4 at_ }
        let e := logWords s f p.len reason (s.brg.dseq + 1) 0
        s.onBrg fun g => { g with dlog := g.dlog ++ [e], dseq := g.dseq + 1 }

/-- A condition to discard a buffer: one whose read is on the bus is discarded when that read ends (R325). [DEDUCED 94 unsafe] -/
def pfCondemn (s : State) (k reason : Nat) : State :=
  match Tbl.find? s.brg.pf k with
  | none => s
  | some p =>
    let onBus : Bool := match (s.bus (s.winBus p.win)).cur with | some a => decide (a.src = .prefetch k) | none => false
    if onBus then s.onBrg fun g => { g with pf := Tbl.put g.pf k { p with doomed := some (p.doomed.getD reason) } }
    else s.pfDiscard k reason

/-- Discard the buffers of a window (R325): a write discards them all, with reason 1; a read of n bytes at `off` those that it does not
lie wholly within, with reason 2. [DEDUCED 94 unsafe] -/
def pfDrop (s : State) (w : Nat) (write : Bool) (off n : Nat) : State :=
  (s.brg.pf.filter (fun p => decide (p.2.win = w) && (write || !(decide (p.2.off ≤ off) && decide (off + n ≤ p.2.off + p.2.len))))).foldl
    (fun s p => s.pfCondemn p.1 (if write then 1 else 2)) s

/-- After an RD of [o, o + n) completes OK the bridge takes a free buffer for the bytes that follow (R324). -/
def pfStart (s : State) (f : Frame) (w o n : Nat) : State :=
  let size := s.get F.BRG_WIN_BASE_SIZE w * 4096
  let len := min (s.get F.BRG_WIN_TMO_PFLEN w) (size - (o + n))
  let k := s.winKind w
  if len = 0 ∨ k = 4 ∨ k = 7 ∨ s.winCover w (fun g => g.pf) < size then s
  else
    match Tbl.firstFree s.brg.pf 0 16 with
    | none => s
    | some j => s.onBrg fun g => { g with pf := Tbl.put g.pf j { win := w, off := o + n, len := len, req := f } }

/-! ### Pollers (R327 to R331) -/

/-- A poll entry. -/
def pollOf (s : State) (e : Nat) : PollSt := Tbl.getD s.brg.polls e {}

/-- Store a poll entry. -/
def setPoll (s : State) (e : Nat) (p : PollSt) : State := s.onBrg fun g => { g with polls := Tbl.put g.polls e p }

/-- The objects bound to a poll entry, with the place of their bytes. [DEDUCED 97 unsafe] -/
def pollObjs (s : State) (e : Nat) : List (Nat × Obj) :=
  s.epo.objs.filter (fun o => decide (o.2.kind = 4) && decide (o.2.index / 64 = e))

/-- The end of a poll: the interval, and the time at which the entry is due again (R328). [DEDUCED 95 unsafe] -/
def pollNext (s : State) (e i : Nat) (p : PollSt) : State :=
  (s.set F.BRG_PL_STAT_I e i).setPoll e { p with busy := false, due := p.start + i * 1000000 }

/-- A poll that ends OK (R328, R331). [DEDUCED 95 unsafe] -/
def pollGood (s : State) (e : Nat) (resp : List Byte) : State :=
  let p := s.pollOf e
  let r := (s.up - p.start) / 100000
  let rt := if p.rt ≤ r then p.rt + (r - p.rt) / 8 else p.rt - cdiv (p.rt - r) 8
  let imin := s.get F.BRG_PL_INT_IMIN e
  let imax := s.get F.BRG_PL_INT_IMAX e
  let i := s.get F.BRG_PL_STAT_I e
  let changed := match p.prev with
    | none => true
    | some q => (s.pollObjs e).any (fun o =>
        decide (slice q (o.2.index % 64) (typeBytes o.2.type) ≠ slice resp (o.2.index % 64) (typeBytes o.2.type)))
  let i := if changed then max imin (i / 2) else min imax (i + i / 4)
  let i := min imax (max i (s.get F.BRG_PL_CFG_RTMUL e * rt / 10))
  let s := ((s.set F.BRG_PL_STAT_RT e (min 16383 rt)).set F.BRG_PL_STAT_FAULT e 0).bump F.BRG_PL_FAILS_DONE e
  let s := s.pollNext e i { p with rt := rt, prev := some resp }
  (s.pollObjs e).foldl (fun s o =>
    s.pushUpdate { obj := o.1, rep := .value (beAt resp (o.2.index % 64) (typeBytes o.2.type)) false, sec := s.sec, ns := s.nsec }) s

/-- A poll that fails (R328, R331). -/
def pollBad (s : State) (e : Nat) : State :=
  let s := (s.set F.BRG_PL_STAT_FAULT e 1).bump F.BRG_PL_FAILS_FAILS e
  let s := s.pollNext e (min (s.get F.BRG_PL_INT_IMAX e) (2 * s.get F.BRG_PL_STAT_I e)) (s.pollOf e)
  (s.pollObjs e).foldl (fun s o => s.pushUpdate { obj := o.1, rep := .fail, sec := s.sec, ns := s.nsec }) s

/-- An entry is due (R328, R330): its due time is `t`. -/
def pollDue (s : State) (e t : Nat) : State :=
  let p := s.pollOf e
  if !s.flag F.BRG_PL_CFG_EN e || p.busy || s.flag F.BRG_PL_STAT_DUE e then s
  else (s.set F.BRG_PL_STAT_DUE e 1).setPoll e { p with due := t }

/-! ### The end of an access -/

/-- The bus falls free of the access that was on it, which the standby is told of (R446). [DEDUCED 94 unsafe, DEDUCED 98 unsafe] -/
def farDone (s : State) (b : Nat) (a : BrgAcc) (status : Nat) (resp : List Byte) : State :=
  let s := s.setBus b { s.bus b with cur := none }
  match a.src with
  | .poll e => s.noteDone (.far b a.qseq (some e) status resp)
  | .prefetch _ => s
  | _ => s.noteDone (.far b a.qseq none status [])

/-- The ABORT of an access completes with the count of bytes performed (R76, R322). [DEDUCED 93 unsafe] -/
def abortDone (s : State) (q : Frame) (n : Nat) : State := s.complete 6 (s.cmpOf q .ok false false true (countData n))

/-- An access completes OK (R318). [DEDUCED 93 unsafe, DEDUCED 97 unsafe] -/
def accessGood (s : State) (b : Nat) (a : BrgAcc) : State :=
  let s := s.farDone b a 0 a.got
  match a.src with
  | .fabric f => if a.write then s.answer 6 f { st := .ok } else (s.answer 6 f { st := .ok, data := a.got }).pfStart f a.win a.off a.len
  | .sink _ obj _ => s.sinkOk obj
  | .poll e => s.pollGood e a.got
  | .prefetch k =>
    match Tbl.find? s.brg.pf k with
    | none => s
    | some p =>
      match p.doomed with
      | some r => s.pfDiscard k r
      | none => s.onBrg fun g => { g with pf := Tbl.put g.pf k { p with data := some a.got, filled := s.up } }

/-- An access fails with a far-side detail (R321, R331, R333). -/
def accessBad (s : State) (b : Nat) (a : BrgAcc) (detail : Nat) : State :=
  let st := farStatus detail
  let s := s.farDone b a st.code []
  match a.src with
  | .fabric f =>
    if f.pst then s.postedError f st detail
    else s.answer 6 f { st := st, data := be 2 a.done ++ be 1 detail ++ [0] }
  | .sink _ obj f => (s.postedError f st detail).pushUpdate { obj := obj, rep := .fail, sec := s.sec, ns := s.nsec }
  | .poll e => s.pollBad e
  | .prefetch k => s.onBrg fun g => { g with pf := Tbl.erase g.pf k }

/-- What a far-side failure counts at its controller. -/
def farCount (s : State) (b detail : Nat) : State :=
  if detail = 0x85 then s.bump F.SPnn_CNT_ECHO b
  else if detail = 0x90 ∨ detail = 0x91 then s.bump F.ICn_STAT_NACKS (b - 40)
  else if detail = 0x92 then s.bump F.ICn_STAT_ARBLOST (b - 40)
  else if detail = 0x94 then s.set F.ICn_STAT_STUCK (b - 40) 1
  else s

/-- The far-side transaction on a bus ends with a failure (R320, R321). -/
def farFail (s : State) (b : Nat) (a : BrgAcc) (detail : Nat) : State :=
  let s := s.farCount b detail
  let again := decide (0x80 ≤ detail) && decide (detail ≤ 0x84) && decide (a.tries < s.get F.BRG_WIN_CFG_RETRY a.win)
    && (!a.write || s.flag F.BRG_WIN_CFG_RETRYW a.win)
  if again then (s.bump F.BRG_CNT_RETRY).startChunk b { a with tries := a.tries + 1 }
  else
    match a.abort with
    | some q => (s.farDone b a 0 []).abortDone q a.done
    | none => s.accessBad b a detail

/-- The data bytes of a Modbus response (R317): coils and inputs a byte each, registers as they come, of a write none. [DEDUCED 97 unsafe] -/
def rtuData (kind n : Nat) (write : Bool) (r : List Byte) : List Byte :=
  if write then []
  else if kind ≤ 1 then (List.range n).map (fun i => BitVec.ofNat 8 (b2n (bit (beAt r (3 + i / 8) 1) (i % 8))))
  else slice r 3 n

/-- The length that a Modbus response requires for its function (R312). [DEDUCED 97 unsafe] -/
def rtuLength (kind n : Nat) (write : Bool) : Nat := if write then 8 else if kind ≤ 1 then 5 + cdiv n 8 else 5 + n

/-- The far-side detail of the response that a Modbus port has received, 0 for success (R311, R312, Table 10-3): `line` is what the line
showed, 0x85 or 0x82 or none of the two. An exception code outside 0x01 to 0x7F, for which the table has no detail, leaves a free
one of that range. [DEDUCED 98 unsafe] -/
def rtuCheck (s : State) (b : Nat) (a : BrgAcc) (line : Nat) : Nat × State :=
  let chars := Tbl.getD s.brg.rx b []
  let r : List Byte := chars.map (BitVec.ofNat 8)
  let req := s.farRequest a
  let fn := beAt r 1 1
  if line = 0x85 then (0x85, s)
  else if line = 0x82 ∨ chars.any (fun c => bit c 9 || bit c 10) then (0x82, s)
  else if r.length < 4 ∨ crc16 r ≠ 0 then (0x81, s)
  else if beAt r 0 1 ≠ beAt req 0 1 ∨ fn % 128 ≠ beAt req 1 1 then (0x83, s)
  else if 128 ≤ fn then
    let code := beAt r 2 1
    if 1 ≤ code ∧ code ≤ 0x7F then (code, s)
    else
      let (v, s) := s.draw
      (v.toNat % 127 + 1, s)
  else if r.length ≠ rtuLength (s.winKind a.win) a.chunk a.write ∨ (!a.write ∧ beAt r 2 1 + 5 ≠ r.length) then (0x84, s)
  else (0, s)

/-- The detail with which the far-side transaction on a bus ends, where a far-side device or the line decides it (`line`) as far as no
received character does (Table 10-3): a Modbus port checks its response; an SPI transfer never fails (R313); of CANRR the request
failed only if its object says so, and the answer has come only if its object took a frame (R317); none while it has not ended. -/
def farDetail (s : State) (b : Nat) (a : BrgAcc) (line : Nat) : Option (Nat × State) :=
  let k := s.winKind a.win
  let line := if line = 0x85 ∧ (!s.flag F.SPnn_CFG_ECHO b ∨ s.flag F.SPnn_CFG_DUPLEX b) then 0 else line
  if k ≤ 3 then
    if line ≠ 0x85 ∧ (Tbl.getD s.brg.rx b []).isEmpty then none else some (s.rtuCheck b a line)
  else if k = 4 then some (if line = 0x85 then 0x85 else 0, s)
  else if k = 5 then some (0, s)
  else if k = 6 then some (if 0x90 ≤ line ∧ line ≤ 0x94 ∧ line ≠ 0x93 then line else 0, s)
  else
    let st : Nat := ((s.canObj? (s.get F.BRG_WIN_FAR_FARBASE a.win)).map CanObj.shownTxst).getD 5
    if st = 4 ∨ st = 5 then some (0xA1, s)
    else if s.canCount (s.answerObj a.win) = a.fcnt then none else some (0, s)

/-- The bytes that the far-side transaction on a bus has brought, and the state: none while a STREAM read has none. -/
def farData (s : State) (b : Nat) (a : BrgAcc) (data : List Byte) : Option (List Byte × State) :=
  let k := s.winKind a.win
  if k ≤ 3 then some (rtuData k a.chunk a.write ((Tbl.getD s.brg.rx b []).map (BitVec.ofNat 8)), s)
  else if k = 7 then
    let j := s.answerObj a.win
    some (slice (((s.canObj? j).map (fun o => o.fr.data)).getD []) 0 a.chunk, canTouch s.hubNum 2 j 0 79 s)
  else if a.write then some ([], s)
  else if k = 4 then
    match Tbl.getD s.brg.rx b [] with
    | [] => none
    | l => some ((l.take a.chunk).map (BitVec.ofNat 8),
        (s.onBrg fun g => { g with rx := Tbl.put g.rx b (l.drop a.chunk) }).set F.SPnn_STAT_RXLVL b (l.drop a.chunk).length)
  else some (slice data 0 a.chunk, s)

/-- The far-side transaction on a bus ends OK with the bytes of a read (R318). -/
def farGood (s : State) (b : Nat) (a : BrgAcc) (d : List Byte) : State :=
  let s := if 32 ≤ b ∧ b < 40 then (s.bump F.SQn_STAT_XFERS (b - 32)).touchLine b else s
  let a := { a with done := a.done + a.chunk, got := a.got ++ d, tries := 0 }
  let short := decide (s.winKind a.win = 4) && !a.write
  match a.abort with
  | some q => (s.farDone b a 0 []).abortDone q a.done
  | none => if a.len ≤ a.done ∨ short then s.accessGood b a else s.startChunk b a

end State

/-- The response of a Modbus port is done with: its characters leave the receive FIFO. [DEDUCED 98 unsafe] -/
def rxClear (bus : Nat) (s : State) : State :=
  if bus < 32 ∧ s.flag F.SPnn_CFG_MBRTU bus then
    (s.onBrg fun g => { g with rx := Tbl.put g.rx bus [] }).set F.SPnn_STAT_RXLVL bus 0 else s

/-- FAR_SIDE_COMPLETE (R318, R320): the far-side transaction on a bus ends: `line` is the detail that the line or the device shows, 0
for none, and `data` what an SPI or I2C device returns. [DESIGN CHOICE 6 safe, DEDUCED 98 unsafe] -/
def execFarSideComplete (bus line : Nat) (data : List Byte) (s : State) : Out :=
  match (s.bus bus).cur with
  | none => .next (rxClear bus s)
  | some a =>
    match s.farDetail bus a line with
    | none => .next s
    | some (detail, s) =>
      if detail ≠ 0 then .next ((rxClear bus s).farFail bus a detail)
      else match s.farData bus a data with
        | none => .next s
        | some (d, s) => .next ((rxClear bus s).farGood bus a d)

/-- FAR_SIDE_TIMEOUT (R320, Table 10-3): no response begins within RSPTMO, or SCL stays low beyond STRTMO; an SPI transfer has
no failure of its own (R313), and a response whose characters have come is no timeout. -/
def execFarSideTimeout (bus : Nat) (s : State) : Out :=
  match (s.bus bus).cur with
  | none => .next s
  | some a =>
    let limit := if 40 ≤ bus ∧ bus < 48 then s.get F.ICn_CFG_STRTMO (bus - 40) * 10000 else s.get F.BRG_WIN_TMO_RSPTMO a.win * 100000
    if s.up < a.at_ + limit ∨ (32 ≤ bus ∧ bus < 40) ∨ (bus < 32 ∧ !(Tbl.getD s.brg.rx bus []).isEmpty) then .next s
    else .next (s.farFail bus a (if bus < 32 then 0x80 else if bus < 48 then 0x93 else 0xA0))

/-! ### Requests -/

/-- Append an access to its bus's queue. -/
def enqueue (a : BrgAcc) (s : State) : State :=
  let b := s.winBus a.win
  let q := s.bus b
  s.setBus b { q with queue := q.queue ++ [{ a with qseq := q.nextSeq }], nextSeq := q.nextSeq + 1 }

/-- An RD, WR or WRN that has passed the checks of R50 reaches a bridge window (R317, R318, R325). -/
def bridgeRequest (f : Frame) (w : Nat) (s : State) : State :=
  let k := s.winKind w
  let off := f.offset - s.get F.BRG_WIN_BASE_BASE w * 4096
  let write := decide (f.tt ≠ .rd)
  let n := if write then f.pay.length else f.len
  let u := kindUnit k
  if (write && (decide (k = 1) || decide (k = 3))) || decide (off % u ≠ 0) || decide (n % u ≠ 0) then s.answer 6 f { st := .ur }
  else
    let hit := s.brg.pf.find? (fun p => decide (p.2.win = w) && p.2.data.isSome && decide (p.2.off ≤ off) && decide (off + n ≤ p.2.off + p.2.len))
    match (if write then none else hit) with
    | some (j, p) =>
      let s := ((s.bump F.BRG_CNT_PFHIT).onBrg fun g => { g with pf := Tbl.erase g.pf j }).pfDrop w false off n
      (s.answer 6 f { st := .ok, data := slice (p.data.getD []) (off - p.off) n }).pfStart f w off n
    | none => enqueue { src := .fabric f, win := w, off := off, len := n, write := write, data := f.pay } (s.pfDrop w write off n)

/-- BRIDGE_SINK_WRITE (R333): the oldest change that EPO handed to a sink entry enters the bus queue, or replaces the write
of the entry that waits there. [DEDUCED 100 safe] -/
def execBridgeSinkWrite (s : State) : Out :=
  let mine (h : Handed) : Bool := decide (h.kind = 11)
  match s.epo.handed.find? mine with
  | none => .next s
  | some h =>
    let s := s.onEpo fun e => { e with handed := e.handed.eraseP mine }
    let k := h.index
    let w := s.get F.BRG_SK_CFG_WIN k
    let n := s.get F.BRG_SK_CFG_LEN k
    let off := s.get F.BRG_SK_OFF_OFF k
    if !s.flag F.BRG_SK_CFG_EN k then .next s
    else
      let data := be n h.value
      let b := s.winBus w
      let q := s.bus b
      let mineAcc (a : BrgAcc) : Bool := match a.src with | .sink e _ _ => decide (e = k) | _ => false
      let (t, s) := s.postedTag 2
      let (v, s) := s.draw
      let f : Frame := { tt := .wr, tc := v.toNat % 16, pst := true, dst := s.hubNum, src := s.hubNum, init := 2, tag := t, pay := data, len := n,
                         addr := fabAddr s.hubNum 4 (s.get F.BRG_WIN_BASE_BASE w * 4096 + off) }
      if q.queue.any mineAcc then
        .next ((s.setBus b { q with queue := q.queue.map (fun a =>
                                    if mineAcc a then { a with data := data, src := .sink k h.obj f } else a) }).bump F.BRG_CNT_SKMERGE)
      else .next (enqueue { src := .sink k h.obj f, win := w, off := off, len := n, write := true, data := data } (s.pfDrop w true off n))

/-! ### Dispatch (R329) -/

namespace State

/-- The enabled entries of a bus that are due. -/
@[irreducible] def dueEntries (s : State) (b : Nat) : List Nat :=
  (List.range 512).filter (fun e => s.flag F.BRG_PL_STAT_DUE e && s.flag F.BRG_PL_CFG_EN e
    && decide (s.winBus (s.get F.BRG_PL_CFG_WIN e) = b))

/-- The due poll of a bus with the earliest due time, the lowest entry among equals. -/
def duePoll (s : State) (b : Nat) : Option Nat :=
  (s.dueEntries b).find? (fun e => (s.dueEntries b).all (fun d => decide ((s.pollOf e).due ≤ (s.pollOf d).due)))

/-- Start a poll. -/
def startPoll (s : State) (b e : Nat) : State :=
  let p := s.pollOf e
  let s := (s.set F.BRG_PL_STAT_DUE e 0).setPoll e { p with busy := true, start := s.up }
  s.startAccess b { src := .poll e, win := s.get F.BRG_PL_CFG_WIN e, off := s.get F.BRG_PL_OFF_OFF e,
                    len := s.get F.BRG_PL_CFG_LEN e, write := false }

/-- The due poll of a bus that has waited longer than PSTARVE (R329). -/
def starvedPoll (s : State) (b : Nat) : Option Nat :=
  match s.duePoll b with
  | some e => if (s.pollOf e).due + s.get F.BRG_BUS_CFG_PSTARVE b * 1000000 < s.up then some e else none
  | none => none

/-- Start what follows the queue of an idle bus (R329): the due poll, or else a prefetch. [DEDUCED 145 unsafe] -/
def dispatchIdle (s : State) (b : Nat) : State :=
  match s.duePoll b with
  | some e => s.startPoll b e
  | none =>
    match s.brg.pf.find? (fun p => p.2.data.isNone && decide (s.winBus p.2.win = b)) with
    | some (k, p) => s.startAccess b { src := .prefetch k, win := p.win, off := p.off, len := p.len, write := false }
    | none => s

/-- Start the first available item of R329 on an idle bus. -/
def dispatch (s : State) (b : Nat) : State :=
  match s.starvedPoll b with
  | some e => (s.bump F.BRG_CNT_POLLOVD).startPoll b e
  | none =>
    match (s.bus b).queue with
    | a :: rest => (s.setBus b { s.bus b with queue := rest }).startAccess b a
    | [] => s.dispatchIdle b

end State

/-- The bridge starts nothing on a bus (R323, R449, R453, R456, R458): an access is on it, its block is in reset, the hub is a standby or
failed twin or waits to veer, or the bus recovers from a cut access. -/
def State.busHeld (s : State) (b : Nat) : Bool :=
  (s.bus b).cur.isSome || s.blockBusy 8 || s.blockBusy 9 || s.passive || s.twn.cut.any (fun x => decide (x.1 = b)) || s.twn.veering

/-- BUS_IDLE_DISPATCH (R312, R313, R329): a bus that is free and whose line has been quiet long enough takes its next item. -/
def execBusIdleDispatch (bus : Nat) (s : State) : Out :=
  .next (if s.busHeld bus || !s.quietFor bus (s.quietTime bus) then s else s.dispatch bus)

/-- POLL_DUE (R328): an entry's due time arrives. -/
def execPollDue (entry : Nat) (s : State) : Out :=
  .next (if (s.pollOf entry).due ≤ s.up then s.pollDue entry (s.pollOf entry).due else s)

/-- PREFETCH_AGE (R325): PFAGE ms after it was filled a buffer is discarded. -/
def execPrefetchAge (k : Nat) (s : State) : Out :=
  match Tbl.find? s.brg.pf k with
  | none => .next s
  | some p => .next (if p.data.isSome ∧ p.filled + s.get F.BRG_WIN_TMO_PFAGE p.win * 1000000 ≤ s.up then s.pfDiscard k 0 else s)

/-- The discard log is emptied and its entry sequence restarts (R326). -/
def dlogClear (s : State) : State := s.onBrg fun g => { g with dlog := [], dseq := 0 }

/-- UART_CHAR_RX (R308, R310): a port receives a character of up to nine bits with its marks. [DEDUCED 101 unsafe] -/
def execUartCharRx (sp char : Nat) (framing parity brk : Bool) (s : State) : Out :=
  if !s.flag F.SPnn_CFG_EN sp then .next s
  else
    let s := s.touchLine sp
    let mark := s.flag F.SPnn_CFG_MODE9 sp && bit char 8
    let filt := s.flag F.SPnn_CFG_MODE9 sp && s.flag F.SPnn_CFG_ADRFILT sp
    let skips := s.brg.skip.contains sp
    let s := if filt && mark then
        let others := s.brg.skip.filter (fun p => decide (p ≠ sp))
        s.onBrg fun g => { g with skip := if char % 256 = s.get F.SPnn_CFG_ADDR9 sp then others else others ++ [sp] }
      else s
    if filt && !mark && skips then .next s
    else
      let s := if framing then s.bump F.SPnn_CNT_FRAME sp else s
      let s := if parity then s.bump F.SPnn_CNT_PARITY sp else s
      let s := if brk then s.bump F.SPnn_CNT_BREAK sp else s
      let l := Tbl.getD s.brg.rx sp []
      if 256 ≤ l.length then .next ((s.bump F.SPnn_CNT_OVFL sp).set F.SPnn_STAT_OVFL sp 1)
      else
        let c := char % 512 + b2n framing * 2 ^ 9 + b2n parity * 2 ^ 10 + b2n brk * 2 ^ 11
        .next ((s.onBrg fun g => { g with rx := Tbl.put g.rx sp (l ++ [c]) }).set F.SPnn_STAT_RXLVL sp (l.length + 1))

/-- PIN_FILTERED_EDGE (R220 to R223, R330): a pin's input is sampled at a pad level; once its filter accepts the level, counters,
bindings and wires follow, and the entries that the edge triggers are due. [DESIGN CHOICE 6 safe, DEDUCED 191 unsafe] -/
def execPinFilteredEdge (pin : Nat) (level : Bool) (s : State) : Out :=
  let (edge, s) := s.pinEdge pin level
  if !edge then .next s
  else
    let up := s.pinBit F.FPN_IN_PIN pin
    let hit (e : Nat) : Bool := decide (s.get F.BRG_PL_CFG_TRIGPIN e = pin) && bit (s.get F.BRG_PL_CFG_TRIGEDGE e) (if up then 0 else 1)
    .next (((List.range 512).filter hit).foldl (fun s e => s.pollDue e s.up) s)

/-! ### Reset (R323) and image load (R332) -/

/-- At a base image load every entry takes IMIN and is due at once (R332). -/
def pollInit (s : State) : State :=
  let s := s.onBrg fun g => { g with polls := [] }
  (List.range 512).foldl (fun s e =>
    if s.flag F.BRG_PL_CFG_EN e then (s.set F.BRG_PL_STAT_I e (s.get F.BRG_PL_INT_IMIN e)).pollDue e s.up else s) s

/-- A reset of BRG or SER (R323): every access is lost and counted, buffers are discarded, FIFOs cleared; the headers of
posted writes are kept. [DEDUCED 102 unsafe] -/
def bridgeReset (s : State) : State :=
  let accs := s.brg.buses.flatMap (fun p => p.2.queue ++ p.2.cur.toList)
  let posted := accs.filterMap (fun a => match a.src with
    | .fabric f => if f.pst then some f else none
    | .sink _ _ f => some f
    | _ => none)
  let n := (accs.filter (fun a => match a.src with | .fabric _ => true | .sink _ _ _ => true | _ => false)).length
  let s := (List.range 16).foldl (fun s k => s.pfDiscard k 3) s
  let s := s.bumpBy F.BRG_CNT_RESETDISC 0 n
  s.onBrg fun g => { g with buses := [], pf := [], polls := [], rx := [], skip := [], lost := g.lost ++ posted }

/-- On leaving reset each lost posted write enters the posted error log with TMO and detail 0xFE (R323). [DEDUCED 102 unsafe] -/
def bridgeRestart (s : State) : State :=
  let l := s.brg.lost
  l.foldl (fun s f => s.postedError f .tmo 0xFE) (s.onBrg fun g => { g with lost := [] })

end Sys2Proof.Machine
end

