-- ==== Sys2Proof/Machine/Reflex.lean ====
section
/-! DEFINITION. The reflex engine (chapter 12): rules, sweeps, commits and the alarm FIFO. -/
namespace Sys2Proof.Machine

/-- A term of a rule (Table 12-2). -/
structure Term where
  kind : Nat
  op : Nat
  qbad : Bool
  fq : Bool
  index : Nat
  k : Nat
  deriving DecidableEq, Repr

/-- A rule record (Table 12-1). -/
structure Rule where
  num : Nat
  latch : Bool
  comb : Nat
  ten : Nat
  ondly : Nat
  outkind : Nat
  alarm : Bool
  hist : Bool
  alclass : Nat
  group : Nat
  target : Nat
  hval : Nat
  terms : List Term
  deriving DecidableEq, Repr

namespace State

/-- Word k of a rule's record. -/
def ruleWord (s : State) (r k : Nat) : Nat := s.get F.RFX_RULE_W_WORD (k + r * 2 ^ 22)

/-- A valid rule. -/
def ruleOf (s : State) (r : Nat) : Rule :=
  let w := s.ruleWord r 0
  let t (i : Nat) : Term :=
    let d := s.ruleWord r (4 + 3 * i)
    { kind := bits d 31 30, op := bits d 29 26, qbad := bit d 25, fq := bit d 24, index := bits d 15 0,
      k := s.ruleWord r (5 + 3 * i) * 2 ^ 32 + s.ruleWord r (6 + 3 * i) }
  { num := r, latch := bit w 30, comb := bits w 29 28, ten := bits w 27 24, ondly := bits w 23 16, outkind := bits w 15 14,
    alarm := bit w 13, hist := bit w 12, alclass := bits w 11 8, group := bits w 5 0, target := bits (s.ruleWord r 1) 15 0,
    hval := s.ruleWord r 2 * 2 ^ 32 + s.ruleWord r 3, terms := (List.range 4).map t }

/-- The valid rules in ascending order: those whose word 0 the image sets with VALID. -/
def rules (s : State) : List Rule :=
  (s.imgRegs.filter (fun p => decide (p.1 % 2 ^ 24 = F.RFX_RULE_W_WORD.off) && bit p.2.toNat 31)).map (fun p => s.ruleOf (p.1 / 2 ^ 24))

/-- What a rule keeps. -/
def ruleSt (s : State) (r : Nat) : RuleSt := Tbl.getD s.rfx.rules r {}

/-- A group is enabled (R372). -/
def groupOn (s : State) (g : Nat) : Bool := if g < 32 then bit (s.get F.RFX_GRPEN0_GRP) g else bit (s.get F.RFX_GRPEN1_GRP) (g - 32)

end State

/-- A comparison of Table 12-3 between integers. [DEDUCED 113 unsafe] -/
def cmpOp (op : Nat) (v k : Int) : Bool :=
  match op with
  | 0 => decide (v = k) | 1 => decide (v ≠ k) | 2 => decide (v < k) | 3 => decide (v ≤ k) | 4 => decide (k < v) | _ => decide (k ≤ v)

/-- A comparison in an object's type (R370). [DEDUCED 113 unsafe] -/
def cmpObj (o : Obj) (op k : Nat) : Bool :=
  let n := if o.type = 0 then 1 else if o.type = 1 then 16 else if o.type = 2 ∨ o.type = 4 then 32 else 64
  let v := o.value % 2 ^ n
  let k := k % 2 ^ n
  if op = 6 then decide (v &&& k ≠ 0)
  else if op = 7 then decide (v &&& k = 0)
  else if o.type = 4 then
    match f32Int v, f32Int k with
    | some a, some b => cmpOp op a b
    | _, _ => decide (op = 1)
  else if o.signed && decide (1 ≤ o.type) && decide (o.type ≤ 3) then cmpOp op (sgn n v) (sgn n k)
  else cmpOp op v k

/-- The value of a term (R369, R370): `cur` holds the states of the rules that this sweep has evaluated. [DEDUCED 113 unsafe] -/
def termValue (s : State) (r : Nat) (cur : Map RuleSt) (t : Term) : Bool :=
  let on (b : Bool) : Bool := if t.op = 8 then b else !b
  match t.kind with
  | 0 =>
    match s.obj? t.index with
    | none => t.qbad
    | some o =>
      if t.fq then (if t.op = 6 then decide (o.qual &&& t.k % 256 ≠ 0) else decide (o.qual &&& t.k % 256 = 0))
      else if o.qual &&& (qINIT + qSTALE + qFAULT) ≠ 0 ∨ (o.type = 4 ∧ (f32Int (o.value % 2 ^ 32)).isNone) then t.qbad
      else cmpObj o t.op t.k
  | 1 => on (s.pinBit F.FPN_IN_PIN t.index)
  | 2 =>
    if s.flag F.FPN_VWI_STAT_TIMEDOUT (t.index / 32) then t.qbad
    else on (bit (s.get F.FPN_VWI_STATE_WIRES (t.index / 32)) (t.index % 32))
  | _ => on (if t.index < r then (Tbl.getD cur t.index {}).state else (s.ruleSt t.index).state)

/-- One rule in a sweep (R371 to R373). -/
def evalRule (s : State) (cur : Map RuleSt) (r : Rule) : RuleSt :=
  let was := (s.ruleSt r.num).state
  let keep := r.latch && was && !(s.rfx.clearAll || s.rfx.clears.contains r.num)
  if !s.groupOn r.group then { state := keep }
  else
    let en := (List.range 4).filter (bit r.ten)
    let true_ := en.filter (fun t => match r.terms[t]? with | some x => termValue s r.num cur x | none => false)
    let cond := if r.comb = 0 then decide (true_.length = en.length) else decide (r.comb ≤ true_.length)
    let cnt := if cond then min 256 ((s.ruleSt r.num).cnt + 1) else 0
    { state := decide (r.ondly < cnt) || keep, cnt := cnt, cond := cond, terms := (true_.map (fun t => 2 ^ t)).sum }

/-- The lowest-numbered rule in state 1 with an output on each target: target, value and rule (R377). -/
def outputs (rules : List Rule) (cur : Map RuleSt) (kind : Nat) (target value : Rule → Nat) : Map (Nat × Nat) :=
  (rules.filter (fun r => decide (r.outkind = kind) && (Tbl.getD cur r.num {}).state)).foldl
    (fun m r => if Tbl.has m (target r) then m else Tbl.put m (target r) (value r, r.num)) []

/-- Two rules in state 1 disagree on a target (R377). -/
def outConf (rules : List Rule) (cur : Map RuleSt) : Bool :=
  let on := rules.filter (fun r => (Tbl.getD cur r.num {}).state)
  on.any (fun a => on.any (fun b => decide (a.outkind = b.outkind) &&
    ((decide (a.outkind = 1) && decide (a.target = b.target) && decide (a.hval ≠ b.hval))
      || (decide (a.outkind = 2) && decide (a.target % 256 = b.target % 256) && decide (a.target / 256 % 2 ≠ b.target / 256 % 2)))))

namespace State

/-- Hand FPN the forces of a commit (R229, R377); in reset it has none (R218, R382). -/
def commitForces (s : State) (m : Map (Nat × Nat)) : State :=
  if s.blockReset 5 then s else
  (List.range 256).foldl (fun s p =>
    let v : Option Bool := (Tbl.find? m p).map (fun x => decide (x.1 = 1))
    let q := s.pin p
    if q.force = v then s else ((s.setPin p { q with force := v }).setPinBit F.FPN_FORCE_PIN p v.isSome).redrive p) s

/-- Send EPO the changed holds of a commit in ascending rule order (R374, R377). -/
def commitHolds (s : State) (rules : List Rule) (m : Map (Nat × Nat)) : State :=
  let old := s.rfx.holds
  let mine (r : Nat) : List RfxItem :=
    (m.filter (fun p => decide (p.2.2 = r) && (s.rfx.fresh || decide ((Tbl.find? old p.1).map (fun x => x.1) ≠ some p.2.1)))).map
        (fun p => RfxItem.hold p.1 (some p.2.1))
      ++ (old.filter (fun p => decide (p.2.2 = r) && !Tbl.has m p.1)).map (fun p => RfxItem.hold p.1 none)
  let items := rules.flatMap (fun r => mine r.num)
  (s.onEpo fun e => { e with rfx := e.rfx ++ items }).onRfx fun x => { x with holds := m }

/-- A rule's state reaches wires and bound objects (Table 12-4). [DEDUCED 114 unsafe] -/
def commitState (s : State) (r : Nat) (v : Bool) : State :=
  let s := s.wireSource 2 r v
  let objs := s.epo.objs.filter (fun e => decide (e.2.kind = 5) && decide (e.2.index = r) && decide (e.2.requested ≠ b2n v))
  s.onEpo fun e => { e with rfx := e.rfx ++ objs.map (fun o =>
                            RfxItem.update { obj := o.1, rep := .value (b2n v) false, sec := s.sec, ns := s.nsec }) }

/-- A change of a rule's state enters the alarm FIFO and the historian (R378, R381). -/
def commitAlarm (s : State) (r : Rule) (v : Bool) : State :=
  if s.passive then s
  else
    let w (n : Nat) : Word := BitVec.ofNat 32 n
    let s := if !r.alarm then s
      else if 256 ≤ s.rfx.alarms.length then (s.bump F.RFX_ALM_STAT_OVFCNT).set F.RFX_ALM_STAT_OVF 0 1
      else s.onRfx fun x => { x with alarms := x.alarms ++
                                     [[w (r.num + r.alclass * 2 ^ 12 + b2n v * 2 ^ 16 + 2 ^ 17), w s.nsec, w s.sec, w (s.sec / 2 ^ 32)]] }
    if r.hist then
      s.record 0 { kind := 2, aux := b2n v + 2 * b2n (v && r.latch), sec := s.sec, ns := s.nsec, index := r.num, aux2 := r.alclass }
    else s

/-- A sweep: evaluation of every valid rule in ascending order, then the commit (R374). [DEDUCED 110 unsafe, DESIGN CHOICE 111 safe] -/
def sweep (s : State) : State :=
  let rules := s.rules
  let cur := rules.foldl (fun (m : Map RuleSt) r => Tbl.put m r.num (evalRule s m r)) []
  let changed := rules.filter (fun r => decide ((Tbl.getD cur r.num {}).state ≠ (s.ruleSt r.num).state))
  let fresh := s.rfx.fresh
  let shown := if fresh then rules else changed
  let s := s.onRfx fun x => { x with rules := cur, clears := [], clearAll := false }
  let s := s.commitForces (outputs rules cur 2 (fun r => r.target % 256) (fun r => r.target / 256 % 2))
  let s := s.commitHolds rules (outputs rules cur 1 (fun r => r.target) (fun r => r.hval))
  let s := shown.foldl (fun s r => s.commitState r.num (Tbl.getD cur r.num {}).state) s
  let s := changed.foldl (fun s r => s.commitAlarm r (Tbl.getD cur r.num {}).state) s
  let s := if outConf rules cur then s.bump F.RFX_CNT_OUTCONF else s
  let s := s.onRfx fun x => { x with fresh := false, startAt := some s.up }
  let (v, s) := s.draw
  let t := v.toNat % 3201
  ((s.bump F.RFX_CNT_SWEEP).set F.RFX_SWTIME_LAST 0 t).set F.RFX_SWTIME_PEAK 0 (max t (s.get F.RFX_SWTIME_PEAK))

/-- Aligned instants of the sweeps up to a value of N in ns (R375). -/
def alignCount (s : State) (n : Nat) : Nat :=
  let p := s.get F.RFX_SWCFG_PERIOD * 1000
  (n + p - s.get F.RFX_SWCFG_OFS * 1000) / p

/-- RFX evaluates: a base image is loaded and the block is neither in reset nor gated (R382). -/
def sweeps (s : State) : Bool := s.img.loaded && !s.blockBusy 12

/-- A periodic sweep is due (R374, R375): the first one after a load at once; an aligned one at the first aligned instant since the one
before it, which after a step or a change of the lock is 10 µs after it at least; a free one after P. [DEDUCED 112 unsafe] -/
def sweepDue (s : State) : Bool :=
  match s.rfx.periodAt with
  | none => true
  | some (t, n) =>
    if s.flag F.RFX_SWCFG_ALIGN && s.timeLocked then
      if s.tim.realign then decide (t + 10000 ≤ s.up) && decide (s.alignCount (s.ns - (s.up - (t + 10000)) - 1) < s.alignCount s.ns)
      else decide (s.alignCount n < s.alignCount s.ns)
    else decide (t + s.get F.RFX_SWCFG_PERIOD * 1000 ≤ s.up)

/-- The latest phase instant of the extra sweeps that a phase value has reached (R376): the fraction XFRAC in its cycle or the one before. -/
def extraInstant (s : State) (v : Nat) : Nat :=
  let x := s.get F.RFX_XSWEEP_XFRAC
  (v + 2 ^ 32 - (v + 65536 - x) % 65536) % 2 ^ 32

/-- An extra sweep is due (R376): the reference runs and has passed XFRAC since the latest one. [DEDUCED 110 unsafe] -/
def extraDue (s : State) : Bool :=
  let k := s.get F.RFX_XSWEEP_PH
  s.flag F.RFX_XSWEEP_EN && s.refOn k && !(s.ref k).stalled &&
    (match s.rfx.xDone with
     | none => true
     | some x => decide (0 < sdiff 32 (s.extraInstant (s.phaseNow k)) x))

/-- A periodic sweep starts now. -/
def startPeriod (s : State) : State := s.onRfx fun x => { x with periodAt := some (s.up, s.ns) }

/-- An extra sweep starts now. -/
def startExtra (s : State) : State := s.onRfx fun x => { x with xDone := some (s.extraInstant (s.phaseNow (s.get F.RFX_XSWEEP_PH))) }

/-- A sweep that is the first after a step or a lock change is realigned (R375). [DEDUCED 112 unsafe] -/
def realign (s : State) : State :=
  if s.tim.realign then
    let s := s.onTim fun t => { t with realign := false }
    if s.flag F.RFX_SWCFG_ALIGN then s.bump F.RFX_CNT_REALIGN else s
  else s

end State

/-- SWEEP (R374): a periodic sweep that is due starts. [DEDUCED 110 unsafe, DEDUCED 112 unsafe] -/
def execSweep (s : State) : Out := .next (if s.sweeps && s.sweepDue then s.startPeriod.realign.sweep else s)

/-- EXTRA_SWEEP (R376): the reference named in XSWEEP passes XFRAC. -/
def execExtraSweep (s : State) : Out := .next (if s.sweeps && s.extraDue then s.startExtra.sweep else s)

/-- DEFERRED_SWEEP (R374, R376): a sweep that fell due during another, which lasts 8 µs at most, starts as that one ends. [DEDUCED 110 unsafe] -/
def execDeferredSweep (s : State) : Out :=
  if !s.sweeps || !s.rfx.startAt.any (fun t => decide (s.up ≤ t + 8000)) then .next s
  else if s.sweepDue then .next (s.startPeriod.realign.bump F.RFX_CNT_DEFER).sweep
  else if s.extraDue then .next (s.startExtra.bump F.RFX_CNT_DEFER).sweep
  else .next s

/-- A latch clear is requested (R373): it acts in the next sweep. -/
def latchClear (rule : Nat) (all : Bool) (s : State) : State :=
  (s.bump F.RFX_CNT_LCLR).onRfx fun x =>
    if all then { x with clearAll := true } else { x with clears := if x.clears.contains rule then x.clears else x.clears ++ [rule] }

/-- The head of the alarm FIFO is removed (R378). -/
def alarmPop (s : State) : State := s.onRfx fun x => { x with alarms := x.alarms.tail }

/-- A reset of RFX (R382): states of latched rules are kept; hold changes in flight are lost and counted. The first commit
that follows replaces every force and hold. -/
def rfxReset (s : State) : State :=
  let lost := ((s.epo.rfx.take 32).filter (fun i => match i with | .hold _ _ => true | _ => false)).length
  let latched := s.rules.filter (fun r => r.latch && (s.ruleSt r.num).state)
  let s := s.onEpo fun e => { e with rfx := [] }
  let held := s.epo.objs.filterMap (fun p => if p.2.req.isSome then
      some (p.1, (p.2.value, ((Tbl.find? s.rfx.holds p.1).map (fun x => x.2)).getD 0)) else none)
  (s.onRfx fun _ => { rules := latched.map (fun r => (r.num, { state := true })), holds := held }).bumpBy F.RFX_CNT_RESETDISC 0 lost

/-- A load that clears every state, counter and latch and the alarm FIFO, and releases every output (R382). -/
def rfxClear (s : State) : State := s.onRfx fun x =>
  { x with rules := [], clears := [], clearAll := false, alarms := [], fresh := true, startAt := none, periodAt := none, xDone := none }

end Sys2Proof.Machine
end

