-- ==== Sys2Proof/Machine/Ring.lean ====
section
/-! DEFINITION. The ring commands: link words, frame heads and verdicts, duplicate discard, lane states, quality and
probation, HOPM, admission, membership and the bypass (chapter 03). -/
namespace Sys2Proof.Machine

/-- The key of a stream (R102): source, destination hub or group, class. [DEDUCED 36 unsafe] -/
def streamKey (f : Frame) : Nat :=
  let m := decide (f.dst = 0xFE)
  ((b2n m * 256 + f.src) * 4096 + (if m then f.group else f.dst)) * 16 + f.tc

/-- Master rank (R21): the higher priority, then the lower hub number, is better. -/
def betterMaster (prio hub prio' hub' : Nat) : Bool :=
  decide (prio' < prio) || (decide (prio = prio') && decide (hub < hub'))

namespace State

/-- The next sequence number of a stream this hub originates (R102), which an active twin notes (R446). -/
def nextSeq (s : State) (f : Frame) : Nat × State :=
  let k := streamKey f
  let n := Tbl.getD s.rng.origin k 0
  let s := if s.activeTwin then
      s.onTwn fun t => { t with orign := t.orign ++ [(if f.dst = 0xFE then 0x8000 + f.group else f.dst, f.tc, n)] } else s
  (n, { s with rng := { s.rng with origin := Tbl.put s.rng.origin k ((n + 1) % 2 ^ 32) } })

/-- HOPLIM of an originated frame (R95). -/
def originHoplim (s : State) : Nat :=
  let h := s.get F.RNG_MEMB_HOPS
  if h = 0x3FF then 1023 else h + 2

/-- Credits available on a lane for a class (R111). -/
def creditAvail (s : State) (l : Lane) (tc : Nat) : Nat :=
  ((s.lane l).climit.getD tc 0 + 65536 - (s.lane l).used.getD tc 0) % 65536

/-- A frame may start on a lane: the lane is UP and, in a lossless class, its credit covers it; a local frame leaves
the bubble (R111, R112). [DEDUCED 37 unsafe] -/
def mayStart (s : State) (l : Lane) (f : Frame) (transit : Bool) : Bool :=
  decide (s.laneState l = 4) &&
    (decide (4 ≤ f.tc) || decide (f.cells + (if transit then 0 else laneBubble f.tc) ≤ s.creditAvail l f.tc))

/-- Spend the credits of a frame on a lane (R111). [DEDUCED 37 unsafe] -/
def spend (s : State) (l : Lane) (f : Frame) : State :=
  if f.tc < 4 then
    s.onLane l (fun q => { q with used := setAt q.used f.tc ((q.used.getD f.tc 0 + f.cells) % 65536) })
  else s

/-- A frame of this hub as it leaves on one lane. [DEDUCED 50 safe, DESIGN CHOICE 173 safe] -/
def laneOut (s : State) (l : Lane) (f : Frame) : State :=
  let (g, s) := s.outgoing l { port := 5, fr := f, pool := .shared, verdict := .good }
  s.emit (.lane l g false (s.wire l g))

/-- The lane sends normal data (Lx_LCTL.MODE): a test pattern takes the place of everything else (R78). -/
def sendsData (s : State) (l : Lane) : Bool := decide (s.get F.Lx_LCTL_MODE l.ix = 0)

/-- The lane's transmitter is looped into its own receiver (Lx_LCTL.EDDY). -/
def eddies (s : State) (l : Lane) : Bool := s.flag F.Lx_LCTL_EDDY l.ix

/-- Send an RCTL frame on both rings (R119): it waits on each lane that is UP for its turn and its credit (R96, R112); a lane that is
not UP is left out and counted (R113). [DESIGN CHOICE 183 unsafe] -/
def sendRctl (s : State) (kind dst : Nat) (pay : List Byte) (hoplim : Nat) : State :=
  let f : Frame := { tt := .rctl, tc := 2, pst := true, dst := dst, src := s.hubNum, opc := kind, addr := fabAddr dst 0 0,
                     len := pay.length, hoplim := hoplim, inc := s.ownInc, pay := pay }
  let (n, s) := s.nextSeq f
  let f := { f with seq := n }
  [Lane.e, Lane.w].foldl (fun s l =>
    if s.laneState l = 4 then s.onLane l (fun q => { q with ctlq := q.ctlq ++ [f] }) else s.bump F.Lx_CNT_SINGLE l.ix) s

/-- This hub's device check value (R564). -/
def deviceCheck (_s : State) : Nat := rootCheck Config.devRoot

/-- The ADMREQ payload of this hub (Table 03-19). -/
def admreqPay (s : State) : List Byte :=
  be 1 s.hubNum ++ be 1 (b2n (s.flag F.HUB_NODE_TWIN) + 2 * b2n (s.flag F.HUB_NODE_PREF)) ++ be 1 (s.get F.HUB_NODE_MPRIO)
    ++ be 1 0 ++ be 4 (s.get F.HUB_FABID0) ++ be 4 (s.get F.HUB_FABID1) ++ be 3 s.deviceCheck ++ be 1 0
    ++ be 2 (s.get F.RNG_INC) ++ be 2 0

/-- The MEMB payload (Table 03-19). -/
def membPay (s : State) : List Byte :=
  be 2 (s.get F.RNG_MEMB_VERSION) ++ be 2 (s.get F.RNG_MEMB_HOPS) ++ be 2 s.rng.members.length
    ++ s.rng.members.flatMap (fun m => be 1 m.hub ++ be 1 (b2n m.twin) ++ be 2 m.inc ++ be 3 m.dcv ++ be 1 0)

end State

/-- The membership map of a MEMB payload. -/
def parseMemb (p : List Byte) : List Member :=
  (List.range (beAt p 4 2)).map (fun i =>
    let b := 6 + 8 * i
    { hub := beAt p b 1, twin := bit (beAt p (b + 1) 1) 0, inc := beAt p (b + 2) 2, dcv := beAt p (b + 4) 3 })

namespace State

/-- Cells of a lane's lossless pool in use. -/
def poolUsed (s : State) (p tc : Nat) : Nat :=
  ((s.swc.bufs.filter (fun x => decide (x.2.pool = .lossless p tc))).map (fun x => x.2.fr.cells)).sum

/-- Zero the credit counts of a lane before a link comes back (R114). [DEDUCED 38 unsafe] -/
def zeroCredits (s : State) (l : Lane) : State :=
  s.onLane l (fun q => { q with climit := [0, 0, 0, 0], used := [0, 0, 0, 0], grant := [0, 0, 0, 0],
                                lastCrd := [0, 0, 0, 0], crdSent := [false, false, false, false], crdRcvd := [false, false, false, false] })

/-- Enter TRAIN (R114, R117, R416). -/
def enterTrain (s : State) (l : Lane) : State :=
  let s := (s.zeroCredits l).set F.Lx_LSTAT_STATE l.ix 2
  s.onLane l (fun q => { q with lid := none, linc := none, keyed := decide (l = .t), nbrState := 0, dfSeeded := false, dfOut := 0 })

/-- Enter PROBE and start a probation (R117). -/
def enterProbe (s : State) (l : Lane) (full : Bool) : State :=
  let s := if full then s.zeroCredits l else s
  (s.set F.Lx_LSTAT_STATE l.ix 3).onLane l (fun q =>
    { q with fullProbe := full, probeWindows := 0, probePassed := false, badRun := 0, wHopm := 0 })

/-- TRAIN is done once keys are derived and first CRDs are exchanged (R114, Table 03-16). -/
def trainDone (s : State) (l : Lane) : State :=
  let q := s.lane l
  if s.laneState l = 2 ∧ q.keyed ∧ q.crdSent.all id ∧ q.crdRcvd.all id then s.enterProbe l false else s

/-- A lane whose probation has passed enters UP once the neighbour's LID reports UP and first CRDs are exchanged. [DEDUCED 40 unsafe] -/
def tryUp (s : State) (l : Lane) : State :=
  let q := s.lane l
  if s.laneState l = 3 ∧ q.probePassed ∧ q.nbrState = 4 ∧ q.crdSent.all id ∧ q.crdRcvd.all id then
    (s.set F.Lx_LSTAT_STATE l.ix 4).onLane l (fun q => { q with badRun := 0 })
  else s

/-- What follows at once when a lane leaves UP (R113): the frame in progress ends bad; frames queued for the lane only
are discarded as failed frames; this hub's own frames go out on the other lane only. [DEDUCED 40 unsafe] -/
def leaveUp (s : State) (l : Lane) : State :=
  let p := l.ix
  let inProgress := (s.swc.sending.filter (fun x => decide (x.1 % 12 = p))).map (fun x => x.2.handle)
    ++ (s.swc.fifo.filter (fun x => decide (x.1 % 12 = p))).flatMap (fun x => x.2.map (fun c => c.1))
  let s := s.bumpBy F.Lx_CNT_SINGLE p (s.lane l).ctlq.length
  let s := s.onLane l (fun q => { q with ctlq := [], txSusp := false })
  let s := inProgress.eraseDups.foldl (fun s h => s.endBad p h) s
  let drop (s : State) (q h : Nat) (own : Bool) : State :=
    let s := s.unlinkQ q h
    match s.buf? h with
    | none => s
    | some b =>
      if own && !b.links.isEmpty then s.bump F.Lx_CNT_SINGLE p
      else
        let s := s.bump F.Lx_CNT_RMDROP p
        if b.links.isEmpty && b.waitLinks.isEmpty && !b.undecided then s.zeroFrame h else s
  (List.range 16).foldl (fun s c =>
    let q := 16 * p + c
    let v := s.queue q
    let s := v.transit.foldl (fun s h => drop s q h false) s
    v.loc.foldl (fun s h => drop s q h true) s) s

/-- Remove a lane for quality (R115, R116, R118): to LOCKOUT after FLAP_MAX entries to OUT in 60 minutes, else to OUT. [DEDUCED 40 unsafe, DEDUCED 46 unsafe] -/
def removeLane (s : State) (l : Lane) : State :=
  let up := decide (s.laneState l = 4)
  let recent := (s.lane l).outTimes.filter (fun t => decide (s.up < t + 3600000000000))
  let s := if s.get F.Lx_LQTIM_FLAP_MAX l.ix ≤ recent.length then
      (s.set F.Lx_LSTAT_STATE l.ix 6).note 0x34 1 [l.ix, 6]
    else
      let s := s.onLane l (fun q => { q with outTimes := recent ++ [s.up] })
      (s.set F.Lx_LSTAT_STATE l.ix 5).set F.Lx_LSTAT_OUTS l.ix (min 15 (recent.length + 1))
  if up then s.leaveUp l else s

/-- Hand a frame whose delivery RNG has decided to its local unit (R104, R108, R141). -/
def deliverRx (s : State) (h : Nat) : State :=
  match Tbl.find? s.rng.rx h with
  | none => s
  | some r =>
    let s := { s with rng := { s.rng with rx := Tbl.erase s.rng.rx h } }
    if r.fr.tt = .rctl then s.deliver 12 r.fr
    else if s.transit then (s.updBuf h (fun b => { b with undecided := false })).release h
    else if r.fr.tt = .cmp ∧ (initPort r.fr.init = 2 ∨ initPort r.fr.init = 3) then s.deliver (initPort r.fr.init) r.fr
    else s.linkLocal h

/-- Discard a frame that the duplicate decision rejects. -/
def dropRx (s : State) (h : Nat) : State :=
  match Tbl.find? s.rng.rx h with
  | none => s
  | some r =>
    let s := s.capture r.capOn r.lane.ix 0 3 0 r.fr r.headNs
    let s := { s with rng := { s.rng with rx := Tbl.erase s.rng.rx h } }
    (s.updBuf h (fun b => { b with undecided := false })).release h

/-- Store a stream. -/
def setStream (s : State) (k : Nat) (v : Stream) : State :=
  { s with rng := { s.rng with streams := Tbl.put s.rng.streams k v } }

/-- Deliver held frames that follow in order (R104); `n` bounds the run. -/
def drainHeld : Nat → State → Stream → State × Stream
  | 0, s, st => (s, st)
  | n + 1, s, st =>
    match Tbl.find? st.held st.next with
    | none => (s, st)
    | some h => drainHeld n (s.deliverRx h) { st with held := Tbl.erase st.held st.next, next := (st.next + 1) % 2 ^ 32 }

/-- The lowest held sequence number, counted from the next expected one. -/
def lowestHeld (st : Stream) : Option Nat :=
  (minOf (st.held.map (fun p => (p.1 + 2 ^ 32 - st.next) % 2 ^ 32))).map (fun d => (st.next + d) % 2 ^ 32)

/-- Deliver every held frame in order (R104). -/
def flushHeld : Nat → State → Stream → State × Stream
  | 0, s, st => (s, st)
  | n + 1, s, st =>
    match lowestHeld st with
    | none => (s, st)
    | some q =>
      match Tbl.find? st.held q with
      | none => (s, st)
      | some h => flushHeld n (s.deliverRx h) { st with held := Tbl.erase st.held q, next := (q + 1) % 2 ^ 32 }

/-- The ingress record of a good frame (R167): outcome 5 if some of its copies were refused; a frame that admission refused has its record. -/
def goodRecord (s : State) (h : Nat) (r : RxFrame) : State :=
  match s.buf? h with
  | some b => s.capture r.capOn r.lane.ix 0 (if b.denied.isEmpty then 0 else 5) (b.links.headD 0) r.fr r.headNs
  | none => if r.offered then s else s.capture r.capOn r.lane.ix 0 0 0 r.fr r.headNs

/-- The counter of a good frame that the duplicate decision rejects (R103 to R105). [DEDUCED 36 unsafe, DEDUCED 45 unsafe] -/
def rejects (s : State) (f : Frame) : Option Fld :=
  match Tbl.find? s.rng.streams (streamKey f) with
  | none =>
    if f.dst = 0xFE ∧ 4128 ≤ (s.rng.streams.filter (fun p => decide (2 ^ 24 ≤ p.1))).length then some F.RNG_CNT_STREXH else none
  | some st =>
    if 0 < sdiff 16 f.inc st.inc then none
    else if sdiff 16 f.inc st.inc < 0 ∨ sdiff 32 f.seq st.next < 0 then some F.RNG_CNT_DUP
    else if sdiff 32 f.seq st.next < 256 ∧ bit (s.get F.RNG_HOLD_HOLD_EN) f.tc ∧ Tbl.has st.held f.seq then some F.RNG_CNT_DUP
    else none

/-- The duplicate decision on a good frame (R104, R105, R103): reject it, or deliver it now or once the gap before it is filled. [DEDUCED 36 unsafe, DEDUCED 45 unsafe] -/
def duplicateDecision (s : State) (h : Nat) (r : RxFrame) : State :=
  let f := r.fr
  let k := streamKey f
  match s.rejects f with
  | some c => (s.bump c).dropRx h
  | none =>
    let s := s.goodRecord h r
    let (s, st) : State × Stream := match Tbl.find? s.rng.streams k with
      | none => (s, { inc := f.inc, next := f.seq })
      | some st =>
        if 0 < sdiff 16 f.inc st.inc then ((flushHeld st.held.length s st).1, { inc := f.inc, next := f.seq }) else (s, st)
    let d := sdiff 32 f.seq st.next
    if d = 0 then
      let (s, st) := drainHeld 256 (s.deliverRx h) { st with next := (st.next + 1) % 2 ^ 32 }
      s.setStream k { st with timer := st.timer && !st.held.isEmpty }
    else if d < 256 ∧ bit (s.get F.RNG_HOLD_HOLD_EN) f.tc then
      s.setStream k { st with held := Tbl.put st.held f.seq h, timer := true }
    else
      let (s, st) := flushHeld st.held.length s st
      let s := s.bumpBy F.RNG_CNT_GAP 0 d.toNat
      (s.deliverRx h).setStream k { st with next := (f.seq + 1) % 2 ^ 32, held := [], timer := false }

/-- The action of Table 03-7 on a frame head: deliver, forward, and the counter of a discard. [DEDUCED 38 unsafe] -/
def headAction (s : State) (l : Lane) (f : Frame) : Bool × Bool × Option Fld :=
  let own := s.hubNum
  let twin := s.flag F.HUB_NODE_TWIN
  let faces := s.flag F.Lx_LSTAT_FACES_TWIN l.ix
  if isLinkLocal f then (true, false, none)
  else if f.dst = 0xFF then (false, false, some F.RNG_CNT_MISADDR)
  else if f.hoplim = 0 then (false, false, some F.RNG_CNT_HOPLIM)
  else if f.tt = .rctl ∧ f.dst = 0xFE then
    if f.src = own then (if twin ∧ faces then (s.standby, true, none) else (decide (f.opc = 4) && (s.master || s.standby), false, none))
    else (true, true, none)
  else if s.transit ∧ f.tt ≠ .rctl then (isTime f, true, none)
  else if f.dst = own then
    if twin ∧ !faces then (true, true, none)
    else (true, false, none)
  else if f.src = own then
    if twin ∧ faces then (isTime f && s.standby, true, none)
    else (isTime f && s.standby, false, if f.dst ≠ 0xFE then some F.RNG_CNT_RETURNED else none)
  else if f.dst = 0xFE ∧ (s.flag F.SWC_MCG_DATA_MEMBER f.group || isTime f) then (true, true, none)
  else (false, true, none)

end State

/-- CRD (R111): the neighbour's CLIMIT for a class; counters of a lane out of service are frozen (R113). -/
def execCrd (l : Lane) (tc4 climit : Nat) (s : State) : Out :=
  if 2 ≤ s.laneState l ∧ s.laneState l ≤ 4 then
    let s := s.onLane l (fun q => { q with climit := setAt q.climit tc4 (climit % 65536), crdRcvd := setAt q.crdRcvd tc4 true })
    .next ((s.trainDone l).tryUp l)
  else .next s

/-- CRD_SEND (R81, R114): the first CRD of a class goes out only while its pool is empty, granting the whole pool. [DEDUCED 38 unsafe] -/
def execCrdSend (l : Lane) (tc4 : Nat) (s : State) : Out :=
  let q := s.lane l
  let first := !q.crdSent.getD tc4 true
  if (2 ≤ s.laneState l ∧ s.laneState l ≤ 4) ∧ (!first ∨ s.poolUsed l.ix tc4 = 0) ∧ s.sendsData l then
    let g := if first then lanePool tc4 else q.grant.getD tc4 0
    let s := s.onLane l (fun q => { q with grant := setAt q.grant tc4 g, lastCrd := setAt q.lastCrd tc4 g,
                                           crdSent := setAt q.crdSent tc4 true })
    if s.eddies l then execCrd l tc4 g s
    else .next (((s.emit (.word l 1 (tc4 * 2 ^ 18 + g))).trainDone l).tryUp l)
  else .next s

/-- LID (R115, R94, R416, R117): the neighbour's number and state. [DEDUCED 40 unsafe] -/
def execLid (l : Lane) (hub st : Nat) (s : State) : Out :=
  let own := s.laneState l
  if own = 0 then .next s
  else
    let s := s.onLane l (fun q => { q with lid := some (hub % 256), nbrState := st % 16 })
    let s := (s.set F.Lx_LSTAT_NBR l.ix hub).setB F.Lx_LSTAT_FACES_TWIN l.ix
      (s.flag F.HUB_NODE_TWIN && decide (hub % 256 = s.hubNum))
    let out := decide (st = 5) || decide (st = 6)
    if out && (decide (own = 4) || decide (own = 2) || (decide (own = 3) && (!(s.lane l).fullProbe || decide (st = 6)))) then
      .next (s.removeLane l)
    else if own = 5 ∧ s.flag F.Lx_LSTAT_BLOCK_LOCK l.ix ∧ (st = 5 ∨ st = 3) then .next (s.enterProbe l true)
    else .next (((s.tryKeys l).trainDone l).tryUp l)

/-- LINC (R416): the neighbour's incarnation. [DEDUCED 146 unsafe] -/
def execLinc (l : Lane) (inc : Nat) (s : State) : Out :=
  if s.laneState l = 0 then .next s
  else
    let s := (s.onLane l (fun q => { q with linc := some (inc % 65536) })).set F.Lx_LSTAT_NBR_INC_LO l.ix inc
    .next ((s.tryKeys l).trainDone l)

/-- LID_LINC_SEND (R81, R117, R78): a lane whose probation has passed reports UP; under EDDY the lane itself receives the words. -/
def execLidLincSend (l : Lane) (s : State) : Out :=
  if s.laneState l = 0 ∨ !s.sendsData l then .next s
  else
    let st := if s.laneState l = 3 ∧ (s.lane l).probePassed then 4 else s.laneState l
    if s.eddies l then (match execLid l s.hubNum st s with
      | .next t => execLinc l s.ownInc t
      | o => o)
    else .next ((s.emit (.word l 2 (s.hubNum * 2 ^ 12 + st * 2 ^ 8))).emit (.word l 3 s.ownInc))

/-- SUSP (R83): parks the frame in progress; inside a TC0 frame or before RESM it makes the frames bad. -/
def execSusp (l : Lane) (s : State) : Out :=
  let q := s.lane l
  let bad (s : State) (h : Option Nat) : State :=
    match h with
    | none => s
    | some h => { s with rng := { s.rng with rx := Tbl.upd s.rng.rx h (fun r => { r with blockBad := true }) } }
  let tc0 := match q.rxCur.bind (Tbl.find? s.rng.rx) with
    | some r => decide (r.fr.tc = 0)
    | none => false
  if tc0 || q.rxParked.isSome then .next (bad (bad s q.rxCur) q.rxParked)
  else .next (s.onLane l (fun q => { q with rxParked := q.rxCur, rxCur := none }))

/-- RESM (R83): resumes the parked frame; with none parked the frame in progress is bad. -/
def execResm (l : Lane) (s : State) : Out :=
  let q := s.lane l
  match q.rxParked with
  | some h => .next (s.onLane l (fun q => { q with rxCur := some h, rxParked := none }))
  | none =>
    match q.rxCur with
    | none => .next s
    | some h => .next { s with rng := { s.rng with rx := Tbl.upd s.rng.rx h (fun r => { r with blockBad := true }) } }

/-- A frame is on the line of a path: some of its cells have left the FIFO and its end has not. -/
def State.midLine (s : State) (path : Nat) : Bool :=
  match Tbl.getD s.swc.fifo path [] with
  | (_, i) :: _ => decide (i ≠ 0)
  | [] => Tbl.has s.swc.sending path

/-- TC0_PREEMPT (R82): a TC0 frame whose cells wait in the lane's TC0 FIFO goes out whole between SUSP and RESM while a frame of
another class is being sent. One whose end or verdict is still to come starts after SUSP, and RESM follows its end. -/
def execTc0Preempt (l : Lane) (s : State) : Out :=
  let p := l.ix
  match Tbl.getD s.swc.fifo (12 + p) [] with
  | [] => .next s
  | (h, _) :: _ =>
    match s.buf? h with
    | none => .next s
    | some b =>
      if !s.midLine p || (s.lane l).txSusp then .next s
      else
        let s := s.emit (.word l 4 0)
        if Tbl.has s.swc.sending (12 + p) || decide (b.verdict ≠ .good) then .next (s.onLane l fun q => { q with txSusp := true })
        else
          let (f, s) := s.outgoing l b
          let s := (s.emit (.lane l f false (s.wire l f))).emit (.word l 5 0)
          let left := (Tbl.getD s.swc.fifo (12 + p) []).filter (fun c => decide (c.1 ≠ h))
          let s := { s with swc := { s.swc with fifo := Tbl.put s.swc.fifo (12 + p) left } }
          .next ((s.capture b.capOn p 1 0 (16 * p) f (b.headTime / 2 ^ 32)).release h)

/-- A note of Table 15-1. [DEDUCED 144 unsafe] -/
def isNote (f : Frame) : Bool := decide (f.tt = .mgt) && decide (0x48 ≤ mgtOp f) && decide (mgtOp f ≤ 0x4B)

namespace State

/-- The head of a frame on lane T (R444): the twin logic takes notes; other frames enter at SW4, PENDING. [DEDUCED 144 unsafe] -/
def laneTHead (s : State) (h : Nat) (f : Frame) : State :=
  let r : RxFrame := { lane := .t, fr := f, deliver := true, forward := false, offered := !isNote f, capOn := s.capEn, headNs := s.ns }
  let s := { s with rng := { s.rng with rx := Tbl.put s.rng.rx h r, nextHandle := h + 1 } }
  let s := s.onLane .t (fun q => { q with rxCur := some h })
  if isNote f then s
  else { s with swc := { s.swc with offers := s.swc.offers ++ [{ port := 4, handle := h, fr := f }] } }

/-- The CRC check of a frame on lane T (R444, R448): a BAD frame clears the standby's SYNC. [DEDUCED 144 unsafe] -/
def laneTVerdict (s : State) (h : Nat) (r : RxFrame) (bad : Bool) : State :=
  let note := isNote r.fr
  let bad := bad || r.blockBad
  let s := { s with rng := { s.rng with rx := Tbl.erase s.rng.rx h } }
  let s := if note then s.giveBack .t r.fr else s
  let s := if !bad then s.goodRecord h r
    else if r.offered && (s.buf? h).isNone then s else s.capture r.capOn 4 0 1 0 r.fr r.headNs
  if bad then
    let s := (s.bump F.TWN_CNT_TBAD).zeroFrame h
    if s.standby then ((s.set F.TWN_STAT_SYNC 0 0).bump F.TWN_CNT_DIVERGE).onTwn fun t => { t with gapAt := s.up, empties := [] }
    else s
  else if note then s.deliver 4 r.fr
  else if isLinkLocal r.fr then s.deliver 12 r.fr
  else s.markGood h

end State

/-- RING_FRAME_HEAD (R94, R113, R115, R444): the action of Table 03-7, taken at the head. -/
def execRingFrameHead (l : Lane) (f : Frame) (s : State) : Out :=
  let st := s.laneState l
  if st = 4 ∨ ((st = 2 ∨ st = 3 ∨ st = 5) ∧ f.tt = .rctl ∧ f.opc = 9) then
    let h := s.rng.nextHandle
    if l = .t then .next (s.laneTHead h f) else
    let (del, fwd, cnt) := s.headAction l f
    let s := match cnt with
      | some c => s.bump c
      | none => s
    let out := l.other
    let lost := fwd && decide (s.laneState out ≠ 4)
    let s := if lost then s.bump F.Lx_CNT_RMDROP out.ix else s
    let fwd := fwd && !lost
    let swDel := del && decide (f.tt ≠ .rctl) && !isTime f
    let r : RxFrame := { lane := l, fr := f, deliver := del, forward := fwd, offered := swDel || fwd, capOn := s.capEn, headNs := s.ns,
                         returning := decide (f.tt = .rctl) && decide (f.src = s.hubNum) && decide (f.opc = 4) }
    let s := { s with rng := { s.rng with rx := Tbl.put s.rng.rx h r, nextHandle := h + 1 } }
    let s := s.onLane l (fun q => { q with rxCur := some h })
    if swDel || fwd then
      let o : Offer := { port := l.ix, handle := h, deliver := swDel, forward := fwd,
                         fr := if fwd then { f with hoplim := f.hoplim - 1 } else f }
      .next { s with swc := { s.swc with offers := s.swc.offers ++ [o] } }
    else .next s
  else .next s

/-- FRAME_VERDICT (R145, R100, R101, R104, R419): the CRC and tag check of frame `h` is complete. `errEnd` says that it
ended with an error control block or held a block that R79 forbids. A verdict follows the head's
admission. A frame bad in its form counts in BADRX, else one with a CRC error in
CRC, else in TAG. A lossless frame that RNG took at its head frees its cells here (R111). [DESIGN CHOICE 5 safe, DESIGN CHOICE 6 safe, DEDUCED 39 unsafe] -/
def execFrameVerdict (h : Nat) (crcOk tagOk errEnd : Bool) (s : State) : Out :=
  match (if s.swc.offers.any (fun o => decide (o.handle = h)) then none else Tbl.find? s.rng.rx h) with
  | none => .next s
  | some r =>
    let l := r.lane
    let f := r.fr
    let s := s.onLane l (fun q => { q with rxCur := if q.rxCur = some h then none else q.rxCur })
    if l = .t then .next (s.laneTVerdict h r (errEnd || !crcOk)) else
    let s := if r.offered || isLinkLocal f then s else s.giveBack l f
    let form := errEnd || r.blockBad || decide (2048 < f.length) || tooLong f || decide (f.ver ≠ 1) || decide (8 < f.tt.code)
    if form || !crcOk || !tagOk then
      let s :=
        if form then s.bump F.Lx_CNT_BADRX l.ix
        else if !crcOk then (s.bump F.Lx_CNT_CRC l.ix).onLane l (fun q => { q with wCrc := q.wCrc + 1 })
        else (s.bump F.Lx_CNT_TAG l.ix).onLane l (fun q => { q with wTag := q.wTag + 1 })
      let s := if isTime f && decide (mgtOp f = 0x20) then s.bump F.TIM_CNT_SYNCBAD else s
      let s := if r.offered && (s.buf? h).isNone then s else s.capture r.capOn l.ix 0 1 0 f r.headNs
      .next ({ s with rng := { s.rng with rx := Tbl.erase s.rng.rx h } }.zeroFrame h)
    else
      let s := (s.rxEpoch l f.epp).markGood h
      let gone : State := { s with rng := { s.rng with rx := Tbl.erase s.rng.rx h } }
      let noted := gone.goodRecord h r
      if isLinkLocal f then
        let s := if f.opc = 9 then noted.onLane l (fun q => { q with wHopm := q.wHopm + 1 }) else noted
        .next (s.deliver 12 { f with ring := decide (l = .w) })
      else if isTime f then
        .next ((if r.deliver then noted.deliver (if mgtOp f = 0x20 then 13 else 14) { f with ring := decide (l = .e) } else noted).release h)
      else if r.returning then .next (if r.deliver then noted.deliver 12 f else noted)
      else if r.deliver then
        if s.transit ∧ f.tt ≠ .rctl then .next ((noted.updBuf h (fun b => { b with undecided := false })).release h)
        else if f.tt = .rctl ∨ (s.buf? h).isSome then .next (s.duplicateDecision h r)
        else .next noted
      else .next (noted.release h)

/-- HOLD_TIMER_EXPIRY (R104): the gap is counted and held frames are delivered up to the next gap. -/
def execHoldTimerExpiry (stream : Nat) (s : State) : Out :=
  match Tbl.find? s.rng.streams stream with
  | none => .next s
  | some st =>
    match State.lowestHeld st with
    | none => .next (s.setStream stream { st with timer := false })
    | some q =>
      let s := s.bumpBy F.RNG_CNT_GAP 0 ((q + 2 ^ 32 - st.next) % 2 ^ 32)
      let (s, st) := State.drainHeld 256 s { st with next := q }
      .next (s.setStream stream { st with timer := !st.held.isEmpty })

/-- BLOCK_LOCK_LOSS (R116): the lane goes to DOWN. -/
def execBlockLockLoss (l : Lane) (s : State) : Out :=
  let st := s.laneState l
  let s := (s.set F.Lx_LSTAT_BLOCK_LOCK l.ix 0).set F.Lx_LSTAT_NBR l.ix 0xFF
  if st = 0 ∨ st = 6 then .next s
  else
    let s := s.set F.Lx_LSTAT_STATE l.ix 1
    .next (if st = 4 then s.leaveUp l else s)

/-- BLOCK_LOCK_GAIN (R117): DOWN enters TRAIN; OUT enters PROBE when the neighbour reports OUT or PROBE. [DEDUCED 40 unsafe] -/
def execBlockLockGain (l : Lane) (s : State) : Out :=
  let st := s.laneState l
  let s := s.set F.Lx_LSTAT_BLOCK_LOCK l.ix 1
  if st = 1 then .next (s.enterTrain l)
  else if st = 5 ∧ ((s.lane l).nbrState = 5 ∨ (s.lane l).nbrState = 3) then .next (s.enterProbe l true)
  else .next s

/-- HI_BER (R116): the BER monitor asserts and the lane leaves UP. -/
def execHiBer (l : Lane) (s : State) : Out :=
  let st := s.laneState l
  let s := s.set F.Lx_LSTAT_HI_BER l.ix 1
  .next (if st = 4 then s.removeLane l else s)

/-- QUALITY_WINDOW (R116, R117): a 1 ms window ends with `sync` invalid sync headers and `ctl` bad control blocks;
`hiBer` is the monitor's level. -/
def execQualityWindow (l : Lane) (sync ctl : Nat) (hiBer : Bool) (s : State) : Out :=
  let q := s.lane l
  let score := 64 * (sync + q.wCrc + q.wTag + ctl)
  let st := s.laneState l
  let hopm := q.wHopm
  let s := (s.set F.Lx_LQSCORE_SCORE l.ix (min 65535 score)).set F.Lx_LQSCORE_PEAK l.ix
    (max (s.get F.Lx_LQSCORE_PEAK l.ix) (min 65535 score))
  let s := (s.bumpBy F.Lx_CNT_SYNC l.ix sync).setB F.Lx_LSTAT_HI_BER l.ix hiBer
  let recent := q.outTimes.filter (fun t => decide (s.up < t + 3600000000000))
  let s := s.set F.Lx_LSTAT_OUTS l.ix (min 15 recent.length)
  let s := s.onLane l (fun q => { q with wCrc := 0, wTag := 0, wHopm := 0, outTimes := recent })
  if st = 4 then
    if s.get F.Lx_LQCFG_THR_OUT l.ix < score then
      let n := q.badRun + 1
      if s.get F.Lx_LQTIM_OUT_WIN l.ix ≤ n then .next ((s.onLane l (fun q => { q with badRun := 0 })).removeLane l)
      else .next (s.onLane l (fun q => { q with badRun := n }))
    else .next (s.onLane l (fun q => { q with badRun := 0 }))
  else if st = 3 then
    if score ≤ s.get F.Lx_LQCFG_THR_IN l.ix ∧ 5 ≤ hopm then
      .next (s.onLane l (fun q => { q with probeWindows := q.probeWindows + 1 }))
    else .next (s.onLane l (fun q => { q with probeWindows := 0, probePassed := false }))
  else .next s

/-- PROBATION_PASS (R117): every window of the probation was good; the lane reports UP in its LID. -/
def execProbationPass (l : Lane) (s : State) : Out :=
  let q := s.lane l
  let need := if q.fullProbe then 10 * s.get F.Lx_LQTIM_PROBATION l.ix else 100
  if s.laneState l = 3 ∧ need ≤ q.probeWindows then
    .next ((s.onLane l (fun q => { q with probePassed := true })).tryUp l)
  else .next s

/-- A lane in LOCKOUT goes to DOWN (R118). [DEDUCED 40 unsafe] -/
def State.reenable (l : Lane) (s : State) : State := if s.laneState l = 6 then s.set F.Lx_LSTAT_STATE l.ix 1 else s

/-- HOPM_SEND (R117, R341, R78): the four stamps of the exchange; under EDDY the lane itself receives the frame. [DEDUCED 41 safe] -/
def execHopmSend (l : Lane) (s : State) : Out :=
  let st := s.laneState l
  if 2 ≤ st ∧ st ≤ 5 ∧ s.sendsData l then
    let q := s.lane l
    let now := s.ns
    let (s1, s2) := q.hopmPeer.getD (0, 0)
    let s3 := if q.dfSeeded then unsgn 64 (s.tim.df.getD l.ix 0) else 0
    let pay := be 8 now ++ be 8 s1 ++ be 8 s2 ++ be 8 s3
    let s := s.onLane l (fun q => { q with hopmSent := lastN 8 (q.hopmSent ++ [(now, s.up)]) })
    let f : Frame := { tt := .rctl, tc := 2, pst := true, dst := 0xFE, src := s.hubNum, opc := 9, addr := fabAddr 0xFE 0 0,
                       len := 32, hoplim := 1, inc := s.ownInc, pay := pay }
    if s.eddies l then .next ((s.onLane l (fun q => { q with wHopm := q.wHopm + 1 })).deliver 12 { f with ring := decide (l = .w) })
    else .next (s.laneOut l f)
  else .next s

/-- HOPM (R341, R342): a link delay sample. [DEDUCED 41 safe] -/
def execHopm (l : Lane) (f : Frame) (s : State) : Out :=
  let s := s.take { f with ring := decide (l = .w) }
  let t4 := s.ns
  let p := f.pay
  let s0 := beAt p 0 8
  let s1 := beAt p 8 8
  let s2 := beAt p 16 8
  let q := s.lane l
  let s := s.onLane l (fun q => { q with hopmPeer := some (s0, t4) })
  if s1 = 0 then .next s
  else
    let sentAt := (q.hopmSent.find? (fun x => decide (x.1 = s1))).map (fun x => x.2)
    let stepped := match sentAt, s.tim.steppedAt with
      | some a, some b => decide (a ≤ b)
      | none, some _ => true
      | _, none => false
    let d : Int := (((t4 : Int) - s1) - ((s0 : Int) - s2)) * 2 ^ 15
    let df := s.tim.df.getD l.ix 0
    let put (s : State) (v : Int) (n : Nat) : State :=
      let s := { s with tim := { s.tim with df := setAt s.tim.df l.ix v } }
      let s := s.onLane l (fun q => { q with dfSeeded := true, dfOut := n })
      s.set F.Lx_HOPDLY_DELAY l.ix (unsgn 24 ((v + 2 ^ 15) / 2 ^ 16))
    if stepped then .next s
    else if !q.dfSeeded then .next (put s d 0)
    else if 1000 * 2 ^ 16 < (d - df).natAbs then
      if 3 ≤ q.dfOut then .next (put s d 0)
      else .next (s.onLane l (fun q => { q with dfOut := q.dfOut + 1 }))
    else .next (put s (df + (d - df) / 8) 0)

/-- FILL_TIMEOUT (R148): 2 µs without the next cell or the verdict end the frame that the ring egress is sending bad, for that copy
alone. [DEDUCED 54 safe] -/
def execFillTimeout (l : Lane) (s : State) : Out :=
  let p := l.ix
  let path := if (s.lane l).txSusp || s.midLine (12 + p) then 12 + p else p
  let h? : Option Nat := match Tbl.getD s.swc.fifo path [] with
    | (h, _) :: _ => some h
    | [] => (Tbl.find? s.swc.sending path).map (fun x => x.handle)
  match h?.bind (fun h => (s.buf? h).map (fun b => (h, b))), (s.lane l).fillSince with
  | some (h, b), some t =>
    if t + 2000 ≤ s.up ∧ (b.verdict = .pending ∨ b.cells.length < b.fr.cells) then
      let q := 16 * p + b.fr.tc
      let s := s.endBad p h
      .next ((if q ∈ b.links then s.unlinkQ q h else s).release h)
    else .next s
  | _, _ => .next s

/-- ADMREQ (R124, R108, R121, R125): the master decides a request by the checks of Table 03-15; `twinJoined` says that a
declared twin's partner is joined by lane T. On a ring with no admitted hub a request is a candidacy. [DEDUCED 35 unsafe] -/
def execAdmreq (f : Frame) (twinJoined : Bool) (s : State) : Out :=
  let s := s.take f
  let p := f.pay
  let hub := beAt p 0 1
  let twin := bit (beAt p 1 1) 0
  let ident (m : Member) : Bool := decide (m.hub = hub) && decide (m.dcv = beAt p 12 3) && decide (m.inc = beAt p 16 2)
  if s.master then
    let places := s.rng.members.filter (fun m => decide (m.hub = hub))
    let refuse (s : State) (reason st : Nat) : State :=
      s.sendRctl 3 hub (slice p 0 20 ++ be 1 reason ++ be 1 st ++ be 2 0) s.originHoplim
    if s.rng.members.any ident then .next (s.sendRctl 2 hub (slice p 0 20 ++ s.membPay) s.originHoplim)
    else if beAt p 4 4 ≠ s.get F.HUB_FABID0 ∨ beAt p 8 4 ≠ s.get F.HUB_FABID1 then .next (refuse s 3 2)
    else if twin ∧ !twinJoined then .next (refuse s 4 2)
    else if !(places.isEmpty || (twin && decide (places.length = 1) && places.all (fun m => m.twin))) then .next (refuse s 2 2)
    else if places.isEmpty ∧ 254 ≤ ((s.rng.members.map (fun (m : Member) => m.hub)).eraseDups).length then
      .next (refuse (s.bump F.RNG_ADM_EXH) 1 5)
    else
      let known := s.rng.requests.any (fun r => decide (r.1 = p))
      let s := if known then s else { s with rng := { s.rng with requests := s.rng.requests ++ [(p, s.up)] } }
      .next (if p ∈ s.rng.admitting then s else { s with rng := { s.rng with admitting := s.rng.admitting ++ [p] } })
  else if s.transit ∧ s.rng.noHub ∧ betterMaster (beAt p 2 1) hub (s.get F.HUB_NODE_MPRIO) s.hubNum then
    .next { s with rng := { s.rng with candidate := false, lastBetter := s.up } }
  else .next s

/-- ADMREQ_SEND (R119): a hub that is not admitted asks, while a ring lane is UP. -/
def execAdmreqSend (s : State) : Out :=
  if s.transit ∧ s.img.loaded ∧ (s.laneState .e = 4 ∨ s.laneState .w = 4) then
    .next (s.sendRctl 1 0xFE s.admreqPay s.originHoplim)
  else .next s

/-- Mirik recomputes the hold time on a change of the membership (R106): the sum needs the delays of links that no rule tells the hub, so
the value is free within its bounds. [DESIGN CHOICE 34 safe] -/
def State.newHold (s : State) : State :=
  let (v, s) := s.draw
  s.set F.RNG_HOLD_HOLD 0 (clampN 200 50000 v.toNat)

/-- The reason that the place a request asks for is no longer free (checks 3 and 4 of Table 03-15). -/
def State.placeTaken (s : State) (p : List Byte) : Option Nat :=
  let places := s.rng.members.filter (fun m => decide (m.hub = beAt p 0 1))
  if !(places.isEmpty || (bit (beAt p 1 1) 0 && decide (places.length = 1) && places.all (fun m => m.twin))) then some 2
  else if places.isEmpty ∧ 254 ≤ ((s.rng.members.map (fun (m : Member) => m.hub)).eraseDups).length then some 1
  else none

/-- A request leaves the master's queue. -/
def State.unask (s : State) (p : List Byte) : State :=
  { s with rng := { s.rng with admitting := s.rng.admitting.erase p, requests := s.rng.requests.filter (fun r => decide (r.1 ≠ p)) } }

/-- ADMIT_SEND (R108): the first request whose wait of twice the hold time is over is admitted; none while a mode change is
not resolved (R401). A request whose place another hub took while it waited is refused, and one whose hub is a member by
then is answered. [DEDUCED 35 unsafe] -/
def execAdmitSend (s : State) : Out :=
  let wait := 20 * s.get F.RNG_HOLD_HOLD
  let due (p : List Byte) : Bool := s.rng.requests.any (fun r => decide (r.1 = p) && decide (r.2 + wait ≤ s.up))
  match (if s.img.change.isSome then none else s.rng.admitting.find? due) with
  | none => .next s
  | some p =>
    if s.master then
      let m : Member := { hub := beAt p 0 1, twin := bit (beAt p 1 1) 0, inc := beAt p 16 2, dcv := beAt p 12 3 }
      let t := s.unask p
      if s.rng.members.any (fun o => decide (o.hub = m.hub) && decide (o.dcv = m.dcv) && decide (o.inc = m.inc)) then
        .next (t.sendRctl 2 m.hub (slice p 0 20 ++ t.membPay) t.originHoplim)
      else match s.placeTaken p with
      | some reason =>
        let t := if reason = 1 then t.bump F.RNG_ADM_EXH else t
        .next (t.sendRctl 3 m.hub (slice p 0 20 ++ be 1 reason ++ be 1 (if reason = 1 then 5 else 2) ++ be 2 0) t.originHoplim)
      | none =>
        let t := { t with rng := { t.rng with members := t.rng.members ++ [m], heard := Tbl.put t.rng.heard m.hub s.up } }
        let t := (t.set F.RNG_MEMB_VERSION 0 (t.get F.RNG_MEMB_VERSION + 1)).newHold
        .next (t.sendRctl 2 m.hub (slice p 0 20 ++ t.membPay) t.originHoplim)
    else .next s

/-- The hub returns to transit mode: it takes no further part in an election (R121, R126). -/
def State.toTransit (s : State) : State :=
  ((s.set F.RNG_RSTAT_ADMITTED 0 0).set F.RNG_RSTAT_ELECTING 0 0).onRng fun r => { r with candidate := false }

/-- REFUSE (R125, R564, R123): a refusal that names this hub's identity is recorded and logged once for each reason; a
hub that was admitted returns to transit mode. -/
def execRefuse (f : Frame) (s : State) : Out :=
  let s := s.take f
  let p := f.pay
  if beAt p 0 1 = s.hubNum ∧ beAt p 12 3 = s.deviceCheck ∧ beAt p 16 2 = s.get F.RNG_INC then
    let reason := beAt p 20 1
    let s := (s.set F.RNG_ADMSTAT_LAST_REFUSE 0 reason).bump F.RNG_ADMSTAT_REFUSALS
    let s := s.toTransit
    if reason ∈ s.rng.refusedLogged then .next s
    else .next ({ s with rng := { s.rng with refusedLogged := s.rng.refusedLogged ++ [reason] } }.note 0x34 1 [reason])
  else .next s

/-- MASTER_BEACON_SEND (R120): HOPLIM is 1,023. -/
def execMasterBeaconSend (s : State) : Out :=
  if s.master then
    .next (s.sendRctl 4 0xFE (be 1 s.hubNum ++ be 1 (s.get F.HUB_NODE_MPRIO) ++ be 2 (s.get F.RNG_MEMB_VERSION)) 1023)
  else .next s

/-- This hub may be a candidate (R21, R23): its priority is not 0 and a standby twin takes no part. -/
def State.mayLead (s : State) : Bool :=
  decide (s.get F.HUB_NODE_MPRIO ≠ 0) && !(s.flag F.HUB_NODE_TWIN && decide (s.get F.TWN_STAT_ROLE ≠ 1))

/-- Send this hub's CAND (Table 03-19). -/
def State.sendCand (s : State) : State :=
  s.sendRctl 5 0xFE (be 1 s.hubNum ++ be 1 (s.get F.HUB_NODE_MPRIO) ++ be 2 0) s.originHoplim

/-- BEACON_LOSS (R121, R457): no beacon for 5 ms starts an election, and abandons a veer that waits for the master. [DESIGN CHOICE 4 safe] -/
def execBeaconLoss (s : State) : Out :=
  if s.admitted ∧ !s.master then
    let s := ((s.set F.RNG_RSTAT_ELECTING 0 1).set F.RNG_RSTAT_MASTER_HUB 0 0xFF).set F.RNG_RSTAT_MASTER_PRIO 0 0
    let s := if s.flag F.TWN_VSTAT_PEND && !s.twn.veering then (s.set F.TWN_VSTAT_PEND 0 0).set F.TWN_VSTAT_RESULT 0 4 else s
    let lead := s.mayLead
    let s := { s with rng := { s.rng with candidate := lead, lastBetter := s.up } }
    .next (if lead then s.sendCand else s)
  else .next s

/-- CAND (R121): a better candidate silences this hub's own. -/
def execCand (f : Frame) (s : State) : Out :=
  let s := s.take f
  let s := { s with rng := { s.rng with noHub := false } }
  if betterMaster (beAt f.pay 1 1) (beAt f.pay 0 1) (s.get F.HUB_NODE_MPRIO) s.hubNum then
    .next { s with rng := { s.rng with candidate := false, lastBetter := s.up } }
  else .next s

/-- CAND_SEND (R121, Table 03-14): an admitted candidate repeats its CAND; one that fell silent resumes after 5 ms without a better one. -/
def execCandSend (s : State) : Out :=
  if s.admitted ∧ s.flag F.RNG_RSTAT_ELECTING ∧ s.mayLead ∧ (s.rng.candidate ∨ s.rng.lastBetter + 5000000 ≤ s.up) then
    .next { s with rng := { s.rng with candidate := true } }.sendCand
  else .next s

/-- NO_ADMITTED_HUB (R121): 30 ms without ring control; the hub's ADMREQ serves as its candidacy. -/
def execNoAdmittedHub (s : State) : Out :=
  if s.transit then .next { s with rng := { s.rng with noHub := true, candidate := s.mayLead, lastBetter := s.up } }
  else .next s

/-- MEMB_SEND (R119). -/
def execMembSend (s : State) : Out :=
  if s.master then .next (s.sendRctl 6 0xFE s.membPay s.originHoplim) else .next s

/-- PRES (R126): the master notes that the hub is present. -/
def execPres (f : Frame) (s : State) : Out :=
  let s := s.take f
  let s := { s with rng := { s.rng with noHub := false } }
  if s.master then .next { s with rng := { s.rng with heard := Tbl.put s.rng.heard (beAt f.pay 0 1) s.up } } else .next s

/-- PRES_SEND (R119). -/
def execPresSend (s : State) : Out :=
  if s.admitted then .next (s.sendRctl 7 0xFE (be 1 s.hubNum ++ be 1 0 ++ be 2 (s.get F.RNG_INC)) s.originHoplim) else .next s

/-- Remove a position from the membership (R126). [DESIGN CHOICE 43 unsafe] -/
def State.removeMember (s : State) (hub : Nat) : State :=
  let s := { s with rng := { s.rng with members := s.rng.members.filter (fun m => decide (m.hub ≠ hub)),
                                        heard := Tbl.erase s.rng.heard hub } }
  (s.set F.RNG_MEMB_VERSION 0 (s.get F.RNG_MEMB_VERSION + 1)).newHold

/-- POSITION_REMOVAL (R126): the master removes a position that it has not heard for 50 ms. -/
def execPositionRemoval (hub : Nat) (s : State) : Out :=
  if s.master ∧ hub ≠ s.hubNum ∧ s.rng.members.any (fun m => decide (m.hub = hub))
      ∧ Tbl.getD s.rng.heard hub 0 + 50000000 ≤ s.up then .next (s.removeMember hub)
  else .next s

/-- LEAVE (R126): the master removes the position. -/
def execLeave (f : Frame) (s : State) : Out :=
  let s := s.take f
  let hub := beAt f.pay 0 1
  if s.master ∧ s.rng.members.any (fun m => decide (m.hub = hub)) then .next (s.removeMember hub) else .next s

/-- The power die drives the bypass output while the supply is good, the hub die is out of reset, RNG holds its request
and the heartbeat runs (R127). -/
def State.bypassDrive (s : State) : State :=
  s.setB F.RNG_BYP_CTL_DRIVEN 0
    (s.flag F.PWR_STAT_PG && s.flag F.PWR_STAT_HDPG && s.rng.insertReq && s.rng.heartbeat)

/-- A write of RNG.BYP_CTL.INSERT (R127, R410): 1 requests insertion; becoming 0 an admitted hub sends LEAVE on both rings (R15). -/
def State.insertWrite (v : Bool) (s : State) : State :=
  let was := s.flag F.RNG_BYP_CTL_INSERT
  let s := s.setB F.RNG_BYP_CTL_INSERT 0 v
  if v then
    let s := { s with rng := { s.rng with insertReq := true, leaving := false, settling := !was || s.rng.settling } }
    let s := if !was ∧ s.cry.fleet.isNone then s.note 0x36 14 [1] else s
    s.bypassDrive
  else if was then
    let s := { s with rng := { s.rng with leaving := true } }
    if s.transit then s else s.sendRctl 8 0xFE (be 1 s.hubNum ++ be 1 0 ++ be 2 (s.get F.RNG_INC)) s.originHoplim
  else s

/-- INSERT_RELEASE (R127): the request ends 100 µs after INSERT became 0, and the bypass closes. [DEDUCED 44 unsafe] -/
def execInsertRelease (s : State) : Out :=
  if s.rng.leaving then .next { s with rng := { s.rng with leaving := false, insertReq := false, settling := false } }.bypassDrive
  else .next s

/-- HEARTBEAT_SEND (R127). -/
def execHeartbeatSend (s : State) : Out := .next { s with rng := { s.rng with heartbeat := true } }.bypassDrive

/-- HEARTBEAT_LOST (R127): no beat for 1 ms; the power die releases the bypass output. [DESIGN CHOICE 4 safe] -/
def execHeartbeatLost (s : State) : Out :=
  let was := s.flag F.RNG_BYP_CTL_DRIVEN
  let s := { s with rng := { s.rng with heartbeat := false } }.bypassDrive
  .next (if was then s.set F.RNG_BYP_CTL_HEARTBEAT_LOST 0 1 else s)

/-- BYPASS_SETTLE_END (R127, Table 03-16): SETTLE has passed; the enabled lanes start searching for block lock. [DEDUCED 44 unsafe] -/
def execBypassSettleEnd (s : State) : Out :=
  if s.rng.settling ∧ s.rng.insertReq then
    let s := { s with rng := { s.rng with settling := false } }
    .next ([Lane.e, Lane.w].foldl (fun s l =>
      if s.flag F.Lx_LCTL_EN l.ix ∧ s.laneState l = 0 then s.set F.Lx_LSTAT_STATE l.ix 1 else s) s)
  else .next s

/-- SEQUENCE_ORDERED_SET (R78): a clause 46 fault ordered set is counted and has no other effect. -/
def execSequenceOrderedSet (l : Lane) (s : State) : Out := .next (s.bump F.Lx_CNT_FAULT l.ix)

/-- STRAY_BLOCK (R79): an unknown block type between frames is counted and ignored. -/
def execStrayBlock (l : Lane) (s : State) : Out := .next (s.bump F.Lx_CNT_STRAY l.ix)

end Sys2Proof.Machine
end

