-- ==== Sys2Proof/Machine/Control.lean ====
section
/-! DEFINITION. The ring master and admission (R120 to R126, R564), as far as time is concerned in them (R347). -/
namespace Sys2Proof.Machine

namespace State

/-- A membership map takes effect: the hold time follows it (R106). [DESIGN CHOICE 34 safe] -/
def takeMemb (s : State) (p : List Byte) : State :=
  let s := s.onRng fun r => { r with members := parseMemb p }
  ((s.set F.RNG_MEMB_VERSION 0 (beAt p 0 2)).set F.RNG_MEMB_HOPS 0 (beAt p 2 2)).newHold

/-- Show the current master. -/
def showMaster (s : State) (hub prio : Nat) : State := (s.set F.RNG_RSTAT_MASTER_HUB 0 hub).set F.RNG_RSTAT_MASTER_PRIO 0 prio

/-- The membership entry of this hub. -/
def selfMember (s : State) : Member :=
  { hub := s.hubNum, twin := s.flag F.HUB_NODE_TWIN, inc := s.get F.RNG_INC, dcv := s.deviceCheck }

/-- Become master (R121, R122, R347, R404); on a ring with no admitted hub the winner admits itself. [DESIGN CHOICE 43 unsafe] -/
def becomeMaster (s : State) : State :=
  let s := if s.transit then (s.onRng fun r => { r with members := [s.selfMember], admAt := s.up }).set F.RNG_RSTAT_ADMITTED 0 1 else s
  let s := s.onRng fun r => { r with candidate := false, noHub := false, beaconSeen := none, rival := none, requests := [], admitting := [],
                                     heard := r.members.foldl (fun (t : Map Nat) (m : Member) => Tbl.put t m.hub s.up) [] }
  let s := ((s.set F.RNG_RSTAT_MASTER 0 1).set F.RNG_RSTAT_ELECTING 0 0).showMaster s.hubNum (s.get F.HUB_NODE_MPRIO)
  let s := (s.set F.RNG_MEMB_VERSION 0 (s.get F.RNG_MEMB_VERSION + 1)).newHold
  ((s.onTwn fun t => { t with granted := none }).onImg fun g => { g with change := none, resolved := none }).timeMaster

end State

/-- MASTER (R120, R121, R123): a returning beacon gives the ring hop count; the worse of two masters sends its MEMB and
yields; others note the master. [DEDUCED 42 unsafe] -/
def execMaster (f : Frame) (s : State) : Out :=
  let s := (s.take f).onRng fun r => { r with noHub := false }
  let hub := beAt f.pay 0 1
  let prio := beAt f.pay 1 1
  if s.master ∧ f.src = s.hubNum then
    if s.rng.beaconSeen = some f.seq then .next s
    else .next ((s.onRng fun r => { r with beaconSeen := some f.seq }).set F.RNG_MEMB_HOPS 0 (1023 - f.hoplim))
  else if s.master then
    if betterMaster prio hub (s.get F.HUB_NODE_MPRIO) s.hubNum then
      let s := s.sendRctl 6 0xFE s.membPay s.originHoplim
      .next (((s.set F.RNG_RSTAT_MASTER 0 0).showMaster hub prio).onRng fun r => { r with rival := none })
    else .next (s.onRng fun r => { r with rival := some f.src })
  else
    let s := s.onRng fun r => { r with candidate := false, lastBetter := s.up }
    .next ((s.set F.RNG_RSTAT_ELECTING 0 0).showMaster hub prio)

/-- ELECTION_WIN (R121): a candidate has received no better CAND and no MASTER for 10 ms. -/
def execElectionWin (s : State) : Out :=
  if s.mayLead ∧ !s.master ∧ ((s.admitted ∧ s.flag F.RNG_RSTAT_ELECTING) ∨ (s.transit ∧ s.rng.noHub ∧ s.img.loaded))
      ∧ s.rng.lastBetter + 10000000 ≤ s.up then .next s.becomeMaster
  else .next s

/-- ADMIT (R564, R106): an ADMIT that names this hub's identity admits it, with the membership map that it carries. -/
def execAdmit (f : Frame) (s : State) : Out :=
  let s := s.take f
  let p := f.pay
  if beAt p 0 1 = s.hubNum ∧ beAt p 12 3 = s.deviceCheck ∧ beAt p 16 2 = s.get F.RNG_INC then
    let s := (s.takeMemb (p.drop 20)).onRng fun r =>
      { r with candidate := false, noHub := false, admAt := if s.admitted then r.admAt else s.up }
    .next ((s.set F.RNG_RSTAT_ADMITTED 0 1).set F.RNG_RSTAT_ELECTING 0 0)
  else .next s

/-- A member's REFUSE under R123, from its membership entry. -/
def State.refuseMember (s : State) (m : Member) : State :=
  s.sendRctl 3 m.hub (be 1 m.hub ++ be 1 (b2n m.twin) ++ zeros 10 ++ be 3 m.dcv ++ be 1 0 ++ be 2 m.inc ++ be 2 0
    ++ be 1 2 ++ be 1 2 ++ be 2 0) s.originHoplim

/-- MEMB (R106, R123, R126, R347): members take the master's map; the remaining master of a rejoined ring merges the map of
the worse one, whose beacon it has heard. [DESIGN CHOICE 43 unsafe] -/
def execMemb (f : Frame) (s : State) : Out :=
  let s := (s.take f).onRng fun r => { r with noHub := false }
  let ms := parseMemb f.pay
  if s.master ∧ f.src ≠ s.hubNum ∧ s.rng.rival ≠ some f.src then .next s
  else if s.master ∧ f.src ≠ s.hubNum then
    let same (a b : Member) : Bool := decide (a.hub = b.hub) && decide (a.inc = b.inc) && decide (a.dcv = b.dcv)
    let mine := s.rng.members
    let fresh := ms.filter (fun m => !mine.any (fun o => decide (o.hub = m.hub)))
    let clash := ms.filter (fun m => mine.any (fun o => decide (o.hub = m.hub)) && !mine.any (same m))
    let heard := fresh.foldl (fun (t : Map Nat) (m : Member) => Tbl.put t m.hub s.up) s.rng.heard
    let s := s.onRng fun r => { r with members := mine ++ fresh, heard := heard }
    let s := (s.set F.RNG_MEMB_VERSION 0 (s.get F.RNG_MEMB_VERSION + 1)).newHold
    .next (clash.foldl (fun s m => s.refuseMember m) s).timeMerge
  else if s.admitted ∧ !s.master then
    let s := s.takeMemb f.pay
    let present := ms.any (fun m => decide (m.hub = s.hubNum) && decide (m.dcv = s.deviceCheck) && decide (m.inc = s.get F.RNG_INC))
    .next (if present then s else s.toTransit)
  else .next s

end Sys2Proof.Machine
end

