-- ==== Sys2Proof/Machine/Gateway.lean ====
section
/-! DEFINITION. The gateway and the originating hub: host frames, tags, completion timers and completions (R41 to R51, R90 to
R92), and the notes that a twin sends (R446, R447). -/
namespace Sys2Proof.Machine

/-- The frame type of a code (Table 03-4). -/
def ttOf (c : Nat) : TType :=
  match c with
  | 0 => .rd | 1 => .wr | 2 => .wrn | 3 => .rmw | 4 => .pub | 5 => .vw | 6 => .mgt | 7 => .cmp | 8 => .rctl
  | n => .other n

/-- What a host sets in a header (R91), with the payload. [DEDUCED 24 safe] -/
def hostHeader (h pay : List Byte) : Frame :=
  { ver := beAt h 0 1 / 16, tt := ttOf (beAt h 0 1 % 16), tc := beAt h 1 1 / 16, pst := bit (beAt h 1 1) 3, dst := beAt h 2 1,
    opc := beAt h 11 1 / 16, addr := beAt h 12 6, len := beAt h 18 2 % 2048, pay := pay }

/-- The first address from `pos` on that no range of the list covers; each range may serve once. -/
def coveredTo (rs : List (Nat × Nat)) : Nat → Nat → Nat
  | 0, pos => pos
  | n + 1, pos =>
    match rs.find? (fun r => decide (r.1 ≤ pos) && decide (pos ≤ r.2)) with
    | none => pos
    | some r => coveredTo rs n (r.2 + 1)

/-- The right that a request needs of the host access table (R54). -/
def rightOf (f : Frame) : Nat := if f.tt = .rd then 0 else if f.tt = .rmw then 2 else 1

/-- The bytes that the access table is checked for (R54). -/
def accessSpan (f : Frame) : Nat :=
  match f.tt with
  | .rd | .rmw => max 1 f.len
  | .wr | .wrn => max 1 f.pay.length
  | _ => 1

namespace State

/-- The host access table permits a request (R54). -/
def hostMay (s : State) (f : Frame) : Bool :=
  let a := if f.hub = 0xFF then f.addr % 2 ^ 40 + s.hubNum * 2 ^ 40 else f.addr
  let es := s.img.access.filter (fun e => decide (e.init = f.init) && bit e.rights (rightOf f))
  decide (a + accessSpan f ≤ coveredTo (es.map (fun e => (e.first, e.last))) (es.length + 1) a)

/-- Send a frame of the gateway to a host: it leaves the port, of either twin, on which the host's latest frame arrived
(R449). `tag` is the host's own tag (R47). [DEDUCED 25 safe] -/
def toHost (s : State) (init tag : Nat) (f : Frame) : State :=
  let h := s.rng.nextHandle
  let s := s.onRng fun r => { r with nextHandle := h + 1 }
  let b : Buf := { port := 5, fr := { f with hopiv := tag * 2 ^ 48 + init }, pool := .shared, verdict := .good, resv := 32, headTime := s.tim.n }
  let s := s.onSwc fun w => { w with bufs := Tbl.put w.bufs h b }
  let p := if s.activeTwin && s.twn.hostAt.contains init then 4 else initPort init
  if s.standby then s.freeBuf h else s.linkQ (16 * p + f.tc) h false

/-- Complete a host's request at the gateway, with LOCAL (R49). -/
def hostLocal (s : State) (f : Frame) (tag : Nat) (st : Status) : State :=
  if f.pst then s else s.toHost f.init tag (s.cmpOf f st true false false [])

/-- The first free non-posted tag of an initiator (R46, R51). [DESIGN CHOICE 22 unsafe] -/
def freeTag (s : State) (init : Nat) : Option Nat :=
  (List.range 1024).find? (fun t => !Tbl.has s.hub.opened (init * 1024 + t) && !Tbl.has s.hub.reserved (init * 1024 + t))

/-- Open a tag (R46). [DESIGN CHOICE 22 unsafe] -/
def openTag (s : State) (f : Frame) (host : Option Nat) : State :=
  s.onHub fun h => { h with opened := Tbl.put h.opened (f.init * 1024 + f.tag) { req := f, hostTag := host, since := s.up } }

/-- Close a tag. -/
def closeTag (s : State) (key : Nat) : State := s.onHub fun h => { h with opened := Tbl.erase h.opened key }

/-- The fabric tag under which an initiator's request with a host tag is open (R74). -/
def tagOfHost (s : State) (init tag : Nat) : Option Nat :=
  (s.hub.opened.find? (fun p => decide (p.1 / 1024 = init) && decide (p.2.hostTag = some tag))).map (fun p => p.1 % 1024)

/-- A request of a host that passed the receive checks (R36, R41, R47, R54, R74, R91). [DEDUCED 23 unsafe, DESIGN CHOICE 179 unsafe] -/
def hostRequest (s : State) (p init tag : Nat) (f : Frame) : State :=
  let f := { f with src := s.hubNum, init := init }
  let (f, s) := if f.pst then (let (t, s) := s.postedTag init; ({ f with tag := t }, s)) else (f, s)
  if f.dst = 0xFE ∧ !f.pst then s.hostLocal f tag .ur
  else if !s.reachable f.dst then
    if !f.pst then s.hostLocal f tag .ur
    else if f.tt = .wr then s.postedError f .ur 0
    else s.bump F.HUB_CNT_NADROP
  else if !s.hostMay f then (s.violation f 2).hostLocal f tag .viol
  else if tooLong f then
    if !f.pst then s.hostLocal f tag .ur else if f.tt = .wr then s.postedError f .ur 0 else s.bump F.HUB_CNT_NADROP
  else if f.pst then s.offer (2 + p) f
  else
    let abort := decide (f.tt = .mgt) && decide (mgtOp f = 2) && !bit (beAt f.pay 1 1) 0 && decide (8 ≤ f.pay.length)
    let named := if abort then s.tagOfHost init (beAt f.pay 4 2) else none
    if abort && named.isNone then s.hostLocal f tag .abortLate
    else
      let f := if decide (f.tt = .mgt) && decide (mgtOp f = 2) then
          { f with pay := patch f.pay 2 (be 1 s.hubNum ++ be 1 init ++ (match named with | some t => be 2 t | none => [])) } else f
      match s.freeTag init with
      | none => (s.bump F.HUB_CNT_TAGEXH).hostLocal f tag .nores
      | some t => (s.openTag { f with tag := t } (some tag)).offer (2 + p) { f with tag := t }

/-- A host frame that a port, or the partner's port, has received whole (R92). [DEDUCED 23 unsafe, DEDUCED 24 safe] -/
def hostFrame (s : State) (p : Nat) (eth : List Byte) : State :=
  let b := if beAt eth 12 2 = 0x8100 then 16 else 12
  let h := slice eth (b + 2) 32
  let code := beAt h 0 1 % 16
  if beAt eth b 2 ≠ s.get F.Hx_CTL_ETYPE p ∨ 7 ≤ code then s.bump F.Hx_CNT_BADTYPE p
  else
    match s.img.hosts.find? (fun e => decide (e.port = p) && decide (e.mac = beAt eth 6 6)) with
    | none =>
      let s := s.bump F.Hx_CNT_UNKSRC p
      if s.hub.unkSrcSecond = some s.sec then s
      else (s.onHub fun h => { h with unkSrcSecond := some s.sec }).note 0x35 20 [p, beAt eth 6 2, beAt eth 8 4]
    | some e => s.hostRequest p e.init (beAt h 24 2) (hostHeader h (slice eth (b + 34) (beAt h 26 2)))

/-- Send a note of the twin logic to the partner (R446, R447). -/
def sendNote (s : State) (op : Nat) (body : List Byte) : State :=
  let n := s.twn.noteTx
  let s := s.onTwn fun t => { t with noteTx := (n + 1) % 65536 }
  let pay := be 1 op ++ [0] ++ be 2 n ++ body
  let (t, s) := s.postedTag 8
  s.offer 4 { tt := .mgt, tc := 2, pst := true, dst := s.hubNum, src := s.hubNum, init := 8, tag := t,
              addr := fabAddr s.hubNum 0xF 0, len := pay.length, pay := pay }

/-- Relay a host frame to the active twin (R447). [DEDUCED 144 unsafe] -/
def relayHost (s : State) (p : Nat) (eth : List Byte) : State :=
  let n := cdiv eth.length 1012
  let k := s.twn.nextFrag
  let s := s.onTwn fun t => { t with nextFrag := (k + 1) % 65536 }
  (List.range n).foldl (fun s i =>
    s.sendNote 0x4B (be 2 k ++ be 1 i ++ be 1 n ++ be 1 p ++ zeros 3 ++ (eth.drop (1012 * i)).take 1012)) s

end State

/-- HOST_FRAME_RX (R92, R449): an Ethernet frame without its FCS. A standby twin relays it; IEEE 1588 frames go to the time
unit, whose own commands hold them. -/
def execHostFrameRx (p : HPort) (fcsOk : Bool) (eth : List Byte) (s : State) : Out :=
  let k := p.ix
  if !s.flag F.Hx_CTL_EN k then .next s
  else if !fcsOk then .next (s.bump F.Hx_CNT_FCS k)
  else if s.get F.Hx_CTL_MAXLEN k < eth.length + 4 then .next (s.bump F.Hx_CNT_OVERSIZE k)
  else if beAt eth (if beAt eth 12 2 = 0x8100 then 16 else 12) 2 = 0x88F7 then .next s
  else if s.standby then .next (s.relayHost k eth)
  else
    let init := (s.img.hosts.find? (fun e => decide (e.port = k) && decide (e.mac = beAt eth 6 6))).map (fun e => e.init)
    .next ((s.onTwn fun t => { t with hostAt := t.hostAt.filter (fun i => decide (some i ≠ init)) }).hostFrame k eth)

/-- The frame in the buffer that a completion for a host waits in. -/
def State.cmpBuf (s : State) (f : Frame) : Option Nat :=
  (s.swc.bufs.find? (fun p => p.2.undecided && decide (p.2.fr.tt = .cmp) && decide (p.2.fr.src = f.src) && decide (p.2.fr.init = f.init)
    && decide (p.2.fr.tag = f.tag))).map (fun p => p.1)

/-- CMP (R47, R48, R51, R77, R92): a completion is matched to its open tag; a host's goes out with the host's own tag; an ABORT's
OK also closes the tag that the ABORT named. A completion that this hub itself made with LOCAL for a unit ended its transaction
already. -/
def execCmp (f : Frame) (s : State) : Out :=
  let s := s.take f
  let h? := s.cmpBuf f
  let drop (s : State) : State := match h? with
    | some h => (s.updBuf h (fun b => { b with undecided := false })).release h
    | none => s
  let key := f.init * 1024 + f.tag
  if f.fLocal ∧ f.src = s.hubNum then .next (drop s)
  else match Tbl.find? s.hub.opened key with
  | none => .next (drop (if Tbl.has s.hub.reserved key then s.bump F.HUB_CNT_LATECMP else s.bump F.HUB_CNT_UNEXPCMP))
  | some o =>
    let host := o.hostTag.isSome
    let p := State.initPort f.init
    if host && decide (s.get F.Hx_CTL_MAXLEN (p - 2) < max 64 (f.pay.length + 50)) then .next (drop (s.bump F.Hx_CNT_OVERSIZE (p - 2)))
    else
      let s := s.closeTag key
      let s := if decide (o.req.tt = .mgt) && decide (mgtOp o.req = 2) && decide (f.opc = 0) then
          s.closeTag (beAt o.req.pay 3 1 * 1024 + beAt o.req.pay 4 2 % 1024) else s
      match h?, o.hostTag with
      | some h, some t => .next ((s.updBuf h (fun b => { b with fr := { b.fr with hopiv := t * 2 ^ 48 } })).linkLocal h)
      | _, _ => .next (drop s)

/-- The completion timer of an initiator in ns (R51). -/
def State.timerOf (s : State) (init : Nat) : Nat := s.get F.HUB_CTMO_TMO init * 100000

/-- COMPLETION_TIMEOUT (R51): the completion timer of an open tag expires: the host or the unit gets TMO with LOCAL; the tag
stays reserved. [DESIGN CHOICE 4 safe] -/
def execCompletionTimeout (init tag : Nat) (s : State) : Out :=
  let key := init * 1024 + tag
  match Tbl.find? s.hub.opened key with
  | none => .next s
  | some o =>
    if s.up < o.since + s.timerOf init then .next s else
    let s := (s.closeTag key).onHub fun h => { h with reserved := Tbl.put h.reserved key s.up }
    .next (match o.hostTag with
      | some t => s.hostLocal o.req t .tmo
      | none => s.endLocal (State.initPort init) o.req .tmo)

/-- TAG_RESERVE_EXPIRY (R51): a reserved tag becomes free. -/
def execTagReserveExpiry (init tag : Nat) (s : State) : Out :=
  match Tbl.find? s.hub.reserved (init * 1024 + tag) with
  | none => .next s
  | some t => .next (if s.up < t + s.timerOf init then s else s.onHub fun h => { h with reserved := Tbl.erase h.reserved (init * 1024 + tag) })

/-- TAG_WAIT_SEND (R36, R41, R47): a unit of this hub has a non-posted request to send. Without a free tag it waits; to a
position that is not admitted, or to 0xFE, it is completed UR with LOCAL and not sent. [DESIGN CHOICE 22 unsafe] -/
def execTagWaitSend (f : Frame) (s : State) : Out :=
  let f := { f with src := s.hubNum, pst := false }
  let s' := s.onHub fun h => { h with waiting := h.waiting.erase f }
  if f.dst = 0xFE ∨ !s.reachable f.dst then .next (s'.endLocal (State.initPort f.init) f .ur)
  else
    match s.freeTag f.init with
    | none => .next (if s.hub.waiting.contains f then s else s.onHub fun h => { h with waiting := h.waiting ++ [f] })
    | some t => .next ((s'.openTag { f with tag := t } none).offer (State.initPort f.init) { f with tag := t })

end Sys2Proof.Machine
end

