-- ==== Sys2Proof/Machine/Pio.lean ====
section
/-! DEFINITION. The programmable I/O engines (chapter 08): instructions, the cell sequencer, queues, timed actions, halts
and starts. -/
namespace Sys2Proof.Machine

namespace State

/-- An engine. -/
def eng (s : State) (e : Nat) : Engine := Tbl.getD s.pio.eng e {}

/-- Store an engine. -/
def setEng (s : State) (e : Nat) (v : Engine) : State := s.onPio fun p => { p with eng := Tbl.put p.eng e v }

/-- The instruction word at a window address (R245, R246). [DEDUCED 81 safe] -/
def iword (s : State) (e a : Nat) : Nat := (Tbl.getD s.pio.imem (s.get F.PEnn_IWIN_BASE e + a) 0).toNat

/-- Halt an engine (R269): PAUSE steps are abandoned; an interrupted cell instruction keeps its position. -/
def haltEngine (s : State) (e : Nat) : State :=
  let q := s.eng e
  if !q.running then s
  else
    let s := (s.setEng e { q with running := false, stalled := none, single := false }).set F.PEnn_PC_PAUSELEFT e 0
    match q.seq with
    | none => s
    | some x =>
      (((s.set F.PEnn_SEQ_LEFT e x.left).set F.PEnn_SEQ_PHASE e x.phase).set F.PEnn_SEQ_STEPS e x.steps).set F.PEnn_SEQ_VALID e 1

/-- An engine fault (R270): the engine halts at the faulting instruction; Mirik logs the code. [DEDUCED 77 unsafe, DEDUCED 196 unsafe] -/
def engineFault (s : State) (e code : Nat) : State :=
  let s := s.setEng e { s.eng e with seq := none }
  ((s.haltEngine e).set F.PEnn_STATUS_FAULT e code).note 0x30 6 [e, code]

/-- An instruction completes with the PC at `pc` (R249): PAUSE idle steps follow. -/
def completeAt (s : State) (e pc pause : Nat) : State :=
  let q := s.eng e
  let s := s.setEng e { q with running := q.running && !q.single, stalled := none, seq := none, single := false }
  (s.set F.PEnn_PC_PC e (pc % 4096)).set F.PEnn_PC_PAUSELEFT e (if q.single then 0 else pause)

/-- An instruction stalls (R249); `undr` sets UNDR and counts once a stall (R259). -/
def stall (s : State) (e why : Nat) (undr : Bool) : State :=
  let q := s.eng e
  let s := if undr && q.stalled.isNone then (s.set F.PEnn_QSTAT_UNDR e 1).bump F.PEnn_CNT_UNDR e else s
  s.setEng e { q with stalled := some why }

/-- Store the latch values of an engine and decide the pins of its window again. -/
def setLatch (s : State) (e v : Nat) : State :=
  let old := s.get F.PEnn_PINLAT_POS e
  if old = v % 2 ^ 32 then s
  else (s.set F.PEnn_PINLAT_POS e v).redriveRange (s.get F.PEnn_PINS_OUT_BASE e) (s.get F.PEnn_PINS_OUT_CNT e)

/-- Store the latch enables of an engine and decide the pins of its window again. -/
def setEnables (s : State) (e v : Nat) : State :=
  let old := s.get F.PEnn_PINOE_POS e
  if old = v % 2 ^ 32 then s
  else (s.set F.PEnn_PINOE_POS e v).redriveRange (s.get F.PEnn_PINS_OUT_BASE e) (s.get F.PEnn_PINS_OUT_CNT e)

/-- Input window positions 0 to n − 1 of an engine, position i in bit i. -/
def inputs (s : State) (e n : Nat) : Nat :=
  ((List.range n).map (fun k => b2n (s.pinLevel (s.get F.PEnn_PINS_IN_BASE e + k)) * 2 ^ k)).sum

/-- Shift a group of n bits into CAP (R252). -/
def shiftIn (s : State) (e g n : Nat) : State :=
  let cap := s.get F.PEnn_CAP_DATA e
  let v := if s.flag F.PEnn_SHAPE_IORD e then cap / 2 ^ n + g * 2 ^ (32 - n) else cap * 2 ^ n + g
  (s.set F.PEnn_CAP_DATA e v).set F.PEnn_CNTS_CAPN e (min 32 (s.get F.PEnn_CNTS_CAPN e + n))

/-- Post CAP to the receive queue (R257). -/
def post (s : State) (e : Nat) (end_ align : Bool) : State :=
  let cap := s.get F.PEnn_CAP_DATA e
  let n := s.get F.PEnn_CNTS_CAPN e
  let w := if !align then cap else if n = 0 then 0 else if s.flag F.PEnn_SHAPE_IORD e then cap / 2 ^ (32 - n) else cap
  let q := s.eng e
  let s := if 8 ≤ q.rx.length then (s.set F.PEnn_QSTAT_OVFL e 1).bump F.PEnn_CNT_OVFL e
    else s.setEng e { q with rx := q.rx ++ [(BitVec.ofNat 32 w, end_)] }
  (s.set F.PEnn_CAP_DATA e 0).set F.PEnn_CNTS_CAPN e 0

/-- The records of R255 for the present cycle: what was set and cleared earlier in it. -/
def flagCycle (s : State) : State :=
  if s.pio.flagsAt = s.up then s else s.onPio fun p => { p with flagsAt := s.up, flagsSet := [], flagsClr := [] }

/-- The flags of a record that others than `src` changed. -/
def flagsBy (l : List (Nat × Nat)) (src : Nat) : Nat := l.foldl (fun a x => if x.1 = src then a else a ||| x.2) 0

/-- Engine `src`, or 64 for a register write, sets sync flags (R255). [DESIGN CHOICE 193 unsafe] -/
def setFlags (src mask : Nat) (s : State) : State :=
  let s := s.flagCycle.onPio fun p => { p with flagsSet := p.flagsSet ++ [(src, mask)] }
  s.set F.PIO_SFSET_FLAGS 0 (s.get F.PIO_SFSET_FLAGS ||| mask)

/-- Engine `src`, or 64 for a register write, clears sync flags (R255): one that another has set in the same cycle ends up set. [DESIGN CHOICE 193 unsafe] -/
def clearFlags (src mask : Nat) (s : State) : State :=
  let s := s.flagCycle.onPio fun p => { p with flagsClr := p.flagsClr ++ [(src, mask)] }
  let f := s.get F.PIO_SFSET_FLAGS
  let m := mask - (mask &&& flagsBy s.pio.flagsSet src)
  s.set F.PIO_SFSET_FLAGS 0 (f - (f &&& m))

/-- The UNTIL of an engine on a sync flag is satisfied (R255): one that another engine cleared in the same cycle still counts as set. [DESIGN CHOICE 193 unsafe] -/
def flagMet (s : State) (e ix : Nat) (pol : Bool) : Bool :=
  decide (bit (s.get F.PIO_SFSET_FLAGS) ix = pol)
    || (pol && decide (s.pio.flagsAt = s.up) && bit (flagsBy s.pio.flagsClr e) ix)

/-- The condition CC of an instruction (Table 08-4). -/
def cond (s : State) (e cc : Nat) : Bool :=
  let z := s.flag F.PEnn_CNTS_Z e
  let n := s.flag F.PEnn_CNTS_N e
  let pin := s.pinLevel (s.get F.PEnn_PINS_IN_BASE e + s.get F.PEnn_SHAPE_TPIN e)
  let flg := bit (s.get F.PIO_SFSET_FLAGS) (s.get F.PEnn_SHAPE_TFLAG e)
  let eq := decide (s.get F.PEnn_SA_DATA e = s.get F.PEnn_SB_DATA e)
  match cc with
  | 0 => true | 1 => z | 2 => !z | 3 => n | 4 => !n | 5 => pin | 6 => !pin
  | 7 => (s.eng e).tx.isEmpty | 8 => !(s.eng e).tx.isEmpty | 9 => decide (8 ≤ (s.eng e).rx.length)
  | 10 => decide (s.get F.PEnn_CNTS_EMTN e = 0) | 11 => flg | 12 => !flg | 13 => s.flag F.PEnn_CNTS_QE e
  | 14 => eq | _ => !eq

/-- Whether a copy source code is allowed (Table 08-6). -/
def srcOk (c : Nat) : Bool := decide (c ≤ 5) || (decide (7 ≤ c) && decide (c ≤ 11)) || decide (16 ≤ c)

/-- Whether a copy destination code is allowed (Table 08-6). -/
def dstOk (c : Nat) : Bool := decide (c ≤ 7) || decide (c = 11) || decide (16 ≤ c)

/-- Whether a word is one that this chapter allows (R248): reserved opcodes, unnamed bits and values of named fields. -/
def wordLegal (s : State) (e w : Nat) : Bool :=
  let x := w % 2 ^ 18
  let zero (hi lo : Nat) : Bool := decide (bits x hi lo = 0)
  match w / 2 ^ 26 with
  | 0 => zero 17 0
  | 1 => zero 17 12
  | 2 => zero 16 12
  | 3 => zero 17 12
  | 4 =>
    let pol := bit x 17
    let clr := bit x 13
    let ix := bits x 7 0
    zero 12 8 && (match bits x 16 14 with
      | 0 => !clr && decide (ix < 32)
      | 1 => !clr
      | 2 => decide (ix < 32)
      | 3 => pol && !clr
      | 4 => pol && !clr && decide (ix < 16)
      | _ => false)
  | 5 => zero 16 6 && !zero 5 0
  | 6 => zero 17 17 && zero 15 6 && !zero 5 0
  | 7 => zero 15 6 && !zero 5 0
  | 8 => zero 17 5
  | 9 => true
  | 10 => zero 15 0
  | 11 => zero 15 6 && decide (1 ≤ bits x 5 0) && decide (bits x 5 0 ≤ 32)
  | 12 => zero 5 0 && srcOk (bits x 12 8) && dstOk (bits x 17 13)
  | 13 => true
  | 14 => zero 12 12
  | 15 => zero 15 5 && decide (bits x 17 16 ≠ 3)
  | 16 => zero 8 5 && decide (bits x 12 10 ≤ 5) && decide (bits x 16 13 ≤ 8) && decide (bits x 4 0 < s.get F.PEnn_PINS_OUT_CNT e)
  | 17 => zero 17 1
  | _ => false

/-- One step of an engine, in which it executes the instruction at its PC if the opcode is `op` (R246, R248, R249): idle steps
of PAUSE pass first, a fetch beyond the window and an illegal word fault, a false condition takes one step without effect; `act` is
the action of Table 08-3 with the word, its PAUSE and the next PC. The clock of a gated block stands (R475). [DEDUCED 76 unsafe] -/
def instr (s : State) (e op : Nat) (act : State → Nat → Nat → Nat → State) : State :=
  let q := s.eng e
  let pc := s.get F.PEnn_PC_PC e
  let w := s.iword e pc
  let idle := s.get F.PEnn_PC_PAUSELEFT e
  if !q.running || s.blockBusy 6 then s
  else if idle ≠ 0 then s.set F.PEnn_PC_PAUSELEFT e (idle - 1)
  else if q.stalled.isNone ∧ q.seq.isNone ∧ s.get F.PEnn_IWIN_SIZE e ≤ pc then s.engineFault e 1
  else if w / 2 ^ 26 ≠ op then s
  else if !s.wordLegal e w then s.engineFault e 2
  else if q.stalled.isNone && q.seq.isNone && !s.cond e (bits w 25 22) then s.completeAt e (pc + 1) 0
  else act s w (bits w 21 18) (pc + 1)

/-- Set Z and N from a 32-bit result (R250). -/
def setZN (s : State) (e r : Nat) : State := (s.setB F.PEnn_CNTS_Z e (decide (r = 0))).setB F.PEnn_CNTS_N e (decide (2 ^ 31 ≤ r))

/-- A scratch register: SA or SB. -/
def scratch (b : Bool) : Fld := if b then F.PEnn_SB_DATA else F.PEnn_SA_DATA

/-- LOOP (Table 08-3). [DEDUCED 77 unsafe] -/
def loopAct (e : Nat) (s : State) (w pause next : Nat) : State :=
  let f := scratch (bit w 17)
  let r := (s.get f e + 2 ^ 32 - 1) % 2 ^ 32
  if r ≠ 0 ∧ s.get F.PEnn_IWIN_SIZE e ≤ bits w 11 0 then s.engineFault e 1
  else ((s.set f e r).setZN e r).completeAt e (if r ≠ 0 then bits w 11 0 else next) pause

/-- CASE (Table 08-3). [DEDUCED 77 unsafe] -/
def caseAct (e : Nat) (s : State) (w pause _next : Nat) : State :=
  let t := bits w 11 0 + s.get F.PEnn_SA_DATA e % 16
  if s.get F.PEnn_IWIN_SIZE e ≤ t then s.engineFault e 1 else s.completeAt e t pause

/-- UNTIL (Table 08-5). -/
def untilAct (e : Nat) (s : State) (w pause next : Nat) : State :=
  let pol := bit w 17
  let ix := bits w 7 0
  let q := s.eng e
  let done (s : State) : State := s.completeAt e next pause
  let wait (s : State) : State := s.stall e 0 false
  match bits w 16 14 with
  | 0 => if s.pinLevel (s.get F.PEnn_PINS_IN_BASE e + ix) = pol then done s else wait s
  | 1 => if s.pinLevel ix = pol then done s else wait s
  | 2 => if s.flagMet e ix pol then done (if pol && bit w 13 then clearFlags e (2 ^ ix) s else s) else wait s
  | 3 => if q.wake then done (s.setEng e { q with wake := false }) else wait s
  | _ =>
    let fr := s.get F.PEnn_MBFRESH_FRESH e
    if bit fr ix then done (s.set F.PEnn_MBFRESH_FRESH e (setBit fr ix false)) else wait s

/-- Length of a phase less one, in steps. -/
def phaseLen (s : State) (e p : Nat) : Nat := bits (s.word (F.PEnn_CELLT_LEN0.key e) 0).toNat (8 * p + 7) (8 * p)

/-- The strobe levels and marks of a phase (PEnn_CELLF). -/
def phaseBits (s : State) (e p : Nat) : Nat := bits (s.word (F.PEnn_CELLF_PH0.key e) 0).toNat (4 * p + 3) (4 * p)

/-- The first phase with a mark, or a default. -/
def markedPhase (s : State) (e mark dflt : Nat) : Nat :=
  ((List.range (s.get F.PEnn_CELLC_NPH e + 1)).find? (fun p => bit (s.phaseBits e p) mark)).getD dflt

/-- Take the output bits of a cell from EMT (R252). -/
def takeOut (s : State) (e : Nat) : Nat × State :=
  let dw := s.get F.PEnn_CELLC_DW e + 1
  let n := s.get F.PEnn_CNTS_EMTN e
  let emt := s.get F.PEnn_EMT_DATA e
  let s := s.set F.PEnn_CNTS_EMTN e (n - dw)
  if s.flag F.PEnn_SHAPE_OORD e then
    ((if dw ≤ n then emt / 2 ^ (n - dw) % 2 ^ dw else emt % 2 ^ n * 2 ^ (dw - n)), s)
  else (emt % 2 ^ min dw n, s.set F.PEnn_EMT_DATA e (emt / 2 ^ dw))

/-- Put bits into latch positions from `pos` on. -/
def putBits (v pos n g : Nat) : Nat := v - bits v (pos + n - 1) pos * 2 ^ pos + g % 2 ^ n * 2 ^ pos

/-- What a step of the cell sequencer comes to. -/
inductive CellStep where
  | run | stall | done
  deriving DecidableEq, Repr

/-- One step of a cell instruction (R251, R252). -/
def cellStep (s : State) (e w : Nat) : CellStep × State :=
  let op := w / 2 ^ 26
  let emits := decide (op ≠ 6)
  let captures := decide (op ≠ 5)
  let q := s.eng e
  let x : SeqPos := q.seq.getD { left := bits w 5 0, steps := s.phaseLen e 0 }
  let dw := s.get F.PEnn_CELLC_DW e + 1
  let short := emits && !x.started && bit w 17 && decide (s.get F.PEnn_CNTS_EMTN e < dw)
  if short && q.tx.isEmpty then (.stall, (s.setEng e { q with seq := some x }).stall e 1 true)
  else
    let s := if short then
        let fb := s.get F.PEnn_SHAPE_FBITS e
        ((s.setEng e { q with tx := q.tx.tail }).set F.PEnn_EMT_DATA e ((q.tx.headD 0).toNat)).set F.PEnn_CNTS_EMTN e (if fb = 0 then 32 else fb)
      else s
    let (g, s) := if emits && !x.started then s.takeOut e else (x.grp, s)
    let fresh := decide (x.steps = s.phaseLen e x.phase)
    let s := if fresh then
        let nst := s.get F.PEnn_CELLC_NSTB e
        let lat := s.get F.PEnn_PINLAT_POS e
        let lat := if nst = 0 then lat else putBits lat (s.get F.PEnn_CELLC_SPOS e) (min 2 nst) (s.phaseBits e x.phase)
        let lat := if emits && decide (x.phase = s.markedPhase e 2 0) then putBits lat (s.get F.PEnn_CELLC_DPOS e) dw g else lat
        s.setLatch e lat
      else s
    let put (s : State) (y : Option SeqPos) : State := s.setEng e { s.eng e with seq := y, stalled := none }
    if 0 < x.steps then (.run, put s (some { x with steps := x.steps - 1, grp := g, started := true }))
    else
      let last := s.get F.PEnn_CELLC_NPH e
      let s := if captures && decide (x.phase = s.markedPhase e 3 last) then s.shiftIn e (s.inputs e dw) dw else s
      if x.phase < last then
        (.run, put s (some { x with phase := x.phase + 1, steps := s.phaseLen e (x.phase + 1), grp := g, started := true }))
      else
        let pw := s.get F.PEnn_SHAPE_PW e
        let s := if captures && bit w 16 && decide ((if pw = 0 then 32 else pw) ≤ s.get F.PEnn_CNTS_CAPN e) then s.post e false false else s
        if x.left ≤ 1 then (.done, put s none)
        else (.run, put s (some { left := x.left - 1, steps := s.phaseLen e 0 }))

/-- Up to n steps of a cell instruction; it completes at the end of its last cell (R249). [DEDUCED 76 unsafe] -/
def runCells : Nat → State → Nat → Nat → Nat → Nat → State
  | 0, s, _, _, _, _ => s
  | n + 1, s, e, w, pause, next =>
    match s.cellStep e w with
    | (.stall, s) => s
    | (.done, s) => s.completeAt e next pause
    | (.run, s) => runCells n s e w pause next

/-- EMIT, CAPTURE and XCHG (R252) for up to a number of engine steps. -/
def cellAct (e steps : Nat) (s : State) (w pause next : Nat) : State := runCells steps s e w pause next

/-- SAMPLE (R252). -/
def sampleAct (e : Nat) (s : State) (w pause next : Nat) : State :=
  let n := if bits w 4 0 = 0 then 32 else bits w 4 0
  (s.shiftIn e (s.inputs e n) n).completeAt e next pause

/-- Latch positions at or above OUT_CNT ignore DRIVE (R254). -/
def driveAct (e : Nat) (s : State) (w pause next : Nat) : State :=
  let m := bits w 15 0 % 2 ^ s.get F.PEnn_PINS_OUT_CNT e
  let lat := s.get F.PEnn_PINLAT_POS e
  let oe := s.get F.PEnn_PINOE_POS e
  let cnt := min 16 (s.get F.PEnn_PINS_OUT_CNT e)
  let s := match bits w 17 16 with
    | 0 => s.setLatch e (lat ||| m)
    | 1 => s.setLatch e (lat - (lat &&& m))
    | 2 => s.setLatch e (lat ^^^ m)
    | _ => s.setEnables e (oe - oe % 2 ^ cnt + m)
  s.completeAt e next pause

/-- POST (R257). -/
def postAct (e : Nat) (s : State) (w pause next : Nat) : State := (s.post e (bit w 17) (bit w 16)).completeAt e next pause

/-- FETCH (R259). [DEDUCED 77 unsafe] -/
def fetchAct (e : Nat) (s : State) (w pause next : Nat) : State :=
  let q := s.eng e
  match q.tx with
  | x :: rest =>
    let s := (s.setEng e { q with tx := rest }).set F.PEnn_EMT_DATA e x.toNat
    ((s.set F.PEnn_CNTS_EMTN e (bits w 5 0)).set F.PEnn_CNTS_QE e 0).completeAt e next pause
  | [] => if bit w 16 then (s.set F.PEnn_CNTS_QE e 1).completeAt e next pause else s.stall e 1 (!bit w 17)

/-- The source of a COPY (Table 08-6). -/
def copySrc (s : State) (e c : Nat) : Nat :=
  let q := s.eng e
  if 16 ≤ c then s.get F.PEnn_MB_DATA (e * 256 + (c - 16))
  else
    match c with
    | 0 => s.get F.PEnn_SA_DATA e | 1 => s.get F.PEnn_SB_DATA e | 2 => s.get F.PEnn_CAP_DATA e | 3 => s.get F.PEnn_EMT_DATA e
    | 4 => s.inputs e 32 | 5 => s.get F.PEnn_PINOE_POS e | 8 => s.ns % 2 ^ 32
    | 9 => s.phaseNow (s.get F.PEnn_CFG_PHSEL e)
    | 10 => q.rx.length + q.tx.length * 16 + q.taq.length * 256 + s.get F.PEnn_QSTAT_OVFL e * 2 ^ 13 + s.get F.PEnn_QSTAT_UNDR e * 2 ^ 14
        + s.get F.PEnn_CNTS_Z e * 2 ^ 15 + s.get F.PEnn_CNTS_N e * 2 ^ 16 + s.get F.PEnn_CNTS_QE e * 2 ^ 17
    | 11 => s.get F.PEnn_CNTS_CAPN e + s.get F.PEnn_CNTS_EMTN e * 256
    | _ => 0

/-- The transform of a COPY (R253). -/
def xform (x v : Nat) : Nat :=
  if x = 0 then v else if x = 1 then 2 ^ 32 - 1 - v else if x = 2 then unle (be 4 v) else v / 2 ^ 16 + v % 2 ^ 16 * 2 ^ 16

/-- An engine's write to a mailbox (R261); one bound as PIO becomes an update, which replaces one that still waits for
binder credit (R262). -/
def mailboxOut (s : State) (e k v : Nat) : State :=
  let s := s.set F.PEnn_MB_DATA (e * 256 + k) v
  (s.epo.objs.filter (fun o => decide (o.2.kind = 2) && decide (o.2.index = e * 16 + k))).foldl (fun s o =>
    let waits (u : Update) : Bool := decide (u.obj = o.1)
    let sent := s.epo.binder.take 64
    let held := s.epo.binder.drop 64
    if held.any waits then
      let u : Update := { obj := o.1, rep := .value v true, sec := s.sec, ns := s.nsec }
      (s.onEpo fun p => { p with binder := sent ++ held.map (fun x => if waits x then u else x) }).bump F.PEnn_CNT_MBLOST e
    else s.pushUpdate { obj := o.1, rep := .value v false, sec := s.sec, ns := s.nsec }) s

/-- COPY (R253). -/
def copyAct (e : Nat) (s : State) (w pause next : Nat) : State :=
  let v := xform (bits w 7 6) (s.copySrc e (bits w 12 8))
  let d := bits w 17 13
  let done (s : State) : State := s.completeAt e next pause
  if 16 ≤ d then done (s.mailboxOut e (d - 16) v)
  else
    match d with
    | 0 => done (s.set F.PEnn_SA_DATA e v)
    | 1 => done (s.set F.PEnn_SB_DATA e v)
    | 2 => done ((s.set F.PEnn_CAP_DATA e v).set F.PEnn_CNTS_CAPN e 32)
    | 3 => done ((s.set F.PEnn_EMT_DATA e v).set F.PEnn_CNTS_EMTN e 32)
    | 4 => done (s.setLatch e v)
    | 5 => done (s.setEnables e v)
    | 6 => s.completeAt e (v % 4096) pause
    | 11 => if 32 < bits v 5 0 ∨ 32 < bits v 13 8 then s.engineFault e 2
        else done ((s.set F.PEnn_CNTS_CAPN e (bits v 5 0)).set F.PEnn_CNTS_EMTN e (bits v 13 8))
    | _ => done s

/-- SETK (R254). -/
def setkAct (e : Nat) (s : State) (w pause next : Nat) : State :=
  let f := scratch (bit w 16)
  let k := bits w 15 0
  (s.set f e (if bit w 17 then s.get f e % 2 ^ 16 + k * 2 ^ 16 else k)).completeAt e next pause

/-- The function of a CALC on 32-bit numbers (R254). -/
def calcFn (fn a b : Nat) : Nat :=
  if fn = 0 then (a + b) % 2 ^ 32
  else if fn = 1 then (a + 2 ^ 32 - b) % 2 ^ 32
  else if fn = 2 then a &&& b
  else if fn = 3 then a ||| b
  else if fn = 4 then a ^^^ b
  else if fn = 5 then a * 2 ^ (b % 32) % 2 ^ 32
  else if fn = 6 then a / 2 ^ (b % 32)
  else unsgn 32 (sgn 32 a / 2 ^ (b % 32))

/-- CALC (R254). -/
def calcAct (e : Nat) (s : State) (w pause next : Nat) : State :=
  let f := scratch (bit w 17)
  let fn := bits w 16 14
  let imm := bits w 11 0
  let b := if bit w 13 then s.get (scratch (!bit w 17)) e else if fn ≤ 1 then unsgn 32 (sgn 12 imm) else imm
  let r := calcFn fn (s.get f e) b
  ((s.set f e r).setZN e r).completeAt e next pause

/-- FLAG (R255). [DEDUCED 196 unsafe] -/
def flagAct (e : Nat) (s : State) (w pause next : Nat) : State :=
  let ix := bits w 4 0
  let s := match bits w 17 16 with
    | 0 => setFlags e (2 ^ ix) s
    | 1 => clearFlags e (2 ^ ix) s
    | _ => s.set F.PEnn_STATUS_EVT e 1
  s.completeAt e next pause

/-! ### Timed actions (R263 to R267) -/

/-- The running value of a time base: 0 the nanosecond counter, 1 to 8 the phase references. -/
def baseValue (s : State) (tb : Nat) : Nat := if tb = 0 then s.ns % 2 ^ 32 else s.phaseNow (tb - 1)

/-- Whether a timed action is due (R264); one on a disabled reference waits (R266). [DEDUCED 83 unsafe] -/
def due (s : State) (a : Action) : Bool :=
  (decide (a.tb = 0) || s.refOn (a.tb - 1)) && decide (0 ≤ sdiff 32 (s.baseValue a.tb) a.stamp)

/-- Append a timed action; one that is already due is late (R265). [DEDUCED 83 unsafe] -/
def addAction (s : State) (e : Nat) (a : Action) : State :=
  let q := s.eng e
  s.setEng e { q with taq := q.taq ++ [{ a with late := s.due a }] }

/-- AT (R263). -/
def atAct (e : Nat) (s : State) (w pause next : Nat) : State :=
  if 16 ≤ (s.eng e).taq.length then s.stall e 2 false
  else (s.addAction e { stamp := s.get (scratch (bit w 17)) e, tb := bits w 16 13, actn := bits w 12 10, wake := bit w 9,
                        pin := bits w 4 0 }).completeAt e next pause

/-- STOP (R270): the engine halts with PC at the next address. [DEDUCED 196 unsafe] -/
def stopAct (e : Nat) (s : State) (w _pause next : Nat) : State :=
  let s := (s.completeAt e next 0).haltEngine e
  let s := s.set F.PEnn_STATUS_SELF e 1
  if bit w 0 then s.set F.PEnn_STATUS_EVT e 1 else s

/-- The pin action of a timed action (R263, R265). -/
def runAction (s : State) (e : Nat) (a : Action) : State :=
  let lat := s.get F.PEnn_PINLAT_POS e
  let oe := s.get F.PEnn_PINOE_POS e
  let s := match a.actn with
    | 0 => s.setLatch e (setBit lat a.pin false)
    | 1 => s.setLatch e (setBit lat a.pin true)
    | 2 => s.setLatch e (setBit lat a.pin (!bit lat a.pin))
    | 3 => s.setEnables e (setBit oe a.pin true)
    | 4 => s.setEnables e (setBit oe a.pin false)
    | _ => s
  let s := if a.wake then s.setEng e { s.eng e with wake := true } else s
  if a.late then (s.bump F.PEnn_CNT_LATE e).set F.PEnn_TAQSTAT_LATEF e 1 else s

/-- The compare of a cycle (R264, R265): an entry that is found due behind one that is not yet due (`behind`) is late. -/
def markLate (s : State) : Bool → List Action → List Action
  | _, [] => []
  | behind, a :: l => { a with late := a.late || (behind && s.due a) } :: markLate s (behind || !s.due a) l

/-- A tick of CK_TIM: the clock advances (R336), and every entry of every timed action queue is compared (R264, R265). [DESIGN CHOICE 2 safe, DESIGN CHOICE 172 safe] -/
def tick (s : State) : State :=
  let s := s.timeTick
  if s.blockBusy 6 then s
  else s.onPio fun p => { p with eng := p.eng.map (fun x => (x.1, { x.2 with taq := s.markLate false x.2.taq })) }

/-- One cycle of the timed action queue (R264, R265): the due entries at its head execute in order; a due entry behind one
that is not yet due is late. [DEDUCED 83 unsafe] -/
def taqCycle : Nat → State → Nat → State
  | 0, s, _ => s
  | n + 1, s, e =>
    let q := s.eng e
    match q.taq with
    | [] => s
    | a :: rest =>
      if s.due a then taqCycle n ((s.setEng e { q with taq := rest }).runAction e a) e
      else s.setEng e { q with taq := s.markLate false (a :: rest) }

/-- The instruction at the PC, whatever its opcode, for up to a number of engine steps (R249). [DEDUCED 76 unsafe] -/
def stepInstr (s : State) (e steps : Nat) : State :=
  let jump (s : State) (w pause _next : Nat) : State := s.completeAt e (bits w 11 0) pause
  let op := s.iword e (s.get F.PEnn_PC_PC e) / 2 ^ 26
  s.instr e op (match op with
    | 0 => fun s _ pause next => s.completeAt e next pause
    | 1 => jump
    | 2 => loopAct e
    | 3 => caseAct e
    | 4 => untilAct e
    | 5 => cellAct e steps
    | 6 => cellAct e steps
    | 7 => cellAct e steps
    | 8 => sampleAct e
    | 9 => driveAct e
    | 10 => postAct e
    | 11 => fetchAct e
    | 12 => copyAct e
    | 13 => setkAct e
    | 14 => calcAct e
    | 15 => flagAct e
    | 16 => atAct e
    | _ => stopAct e)

end State

/-! ### Instructions: engine `pe` executes the instruction at its PC -/

/-- NOP (R249). -/
def execNop (pe : Nat) (s : State) : Out := .next (s.instr pe 0 (fun s _ pause next => s.completeAt pe next pause))

/-- GOTO (R249). -/
def execGoto (pe : Nat) (s : State) : Out := .next (s.instr pe 1 (fun s w pause _ => s.completeAt pe (bits w 11 0) pause))

/-- LOOP (R249). -/
def execLoop (pe : Nat) (s : State) : Out := .next (s.instr pe 2 (State.loopAct pe))

/-- CASE (R249, R250). -/
def execCase (pe : Nat) (s : State) : Out := .next (s.instr pe 3 (State.caseAct pe))

/-- UNTIL (R250). -/
def execUntil (pe : Nat) (s : State) : Out := .next (s.instr pe 4 (State.untilAct pe))

/-- EMIT (R252), for up to `steps` engine steps: the instruction goes on in a later command if more are needed. [DEDUCED 76 unsafe] -/
def execEmit (pe steps : Nat) (s : State) : Out := .next (s.instr pe 5 (State.cellAct pe steps))

/-- CAPTURE (R252), for up to `steps` engine steps. -/
def execCapture (pe steps : Nat) (s : State) : Out := .next (s.instr pe 6 (State.cellAct pe steps))

/-- XCHG (R252), for up to `steps` engine steps. -/
def execXchg (pe steps : Nat) (s : State) : Out := .next (s.instr pe 7 (State.cellAct pe steps))

/-- SAMPLE (R252). -/
def execSample (pe : Nat) (s : State) : Out := .next (s.instr pe 8 (State.sampleAct pe))

/-- DRIVE (R254). -/
def execDrive (pe : Nat) (s : State) : Out := .next (s.instr pe 9 (State.driveAct pe))

/-- POST (R257). -/
def execPost (pe : Nat) (s : State) : Out := .next (s.instr pe 10 (State.postAct pe))

/-- FETCH (R259). -/
def execFetch (pe : Nat) (s : State) : Out := .next (s.instr pe 11 (State.fetchAct pe))

/-- COPY (R253). -/
def execCopy (pe : Nat) (s : State) : Out := .next (s.instr pe 12 (State.copyAct pe))

/-- SETK (R254). -/
def execSetk (pe : Nat) (s : State) : Out := .next (s.instr pe 13 (State.setkAct pe))

/-- CALC (R254). -/
def execCalc (pe : Nat) (s : State) : Out := .next (s.instr pe 14 (State.calcAct pe))

/-- FLAG (R255). -/
def execFlag (pe : Nat) (s : State) : Out := .next (s.instr pe 15 (State.flagAct pe))

/-- AT (R263). -/
def execAt (pe : Nat) (s : State) : Out := .next (s.instr pe 16 (State.atAct pe))

/-- STOP (R270). -/
def execStop (pe : Nat) (s : State) : Out := .next (s.instr pe 17 (State.stopAct pe))

/-- RESERVED_OPCODE_FETCH (R248, R246): an engine that is at a fetch reads an address beyond its window or a word that is not allowed,
or `ecc` says that the word has a double-bit error. [DEDUCED 81 safe] -/
def execReservedOpcodeFetch (pe : Nat) (ecc : Bool) (s : State) : Out :=
  let q := s.eng pe
  if !q.running || s.blockBusy 6 || decide (s.get F.PEnn_PC_PAUSELEFT pe ≠ 0) || q.stalled.isSome || q.seq.isSome then .next s
  else if s.get F.PEnn_IWIN_SIZE pe ≤ s.get F.PEnn_PC_PC pe then .next (s.engineFault pe 1)
  else if ecc then .next (s.engineFault pe 3)
  else if s.wordLegal pe (s.iword pe (s.get F.PEnn_PC_PC pe)) then .next s
  else .next (s.engineFault pe 2)

/-- STALL_RELEASE (R249): a stalled instruction repeats its check and goes on in the step in which it passes. -/
def execStallRelease (pe steps : Nat) (s : State) : Out :=
  .next (if (s.eng pe).running ∧ (s.eng pe).stalled.isSome then s.stepInstr pe steps else s)

/-- TIMED_ACTION (R264): one cycle of an engine's queue. -/
def execTimedAction (pe : Nat) (s : State) : Out := .next (if s.blockBusy 6 then s else s.taqCycle 16 pe)

/-! ### Control (R268 to R271) -/

/-- START (R271): the result of the write, and the state. -/
def engineStart (e addr : Nat) (clrShift clrScr resume : Bool) (s : State) : State.Res × State :=
  let q := s.eng e
  if s.get F.PEnn_IWIN_SIZE e ≤ addr then ({ st := .ur }, s)
  else if q.running then ({ st := .busy }, s)
  else
    let op := s.iword e addr / 2 ^ 26
    let keep := resume && decide (addr = s.get F.PEnn_PC_PC e) && s.flag F.PEnn_SEQ_VALID e && decide (5 ≤ op) && decide (op ≤ 7)
    let s := s.setEng e { q with running := true, single := false, stalled := none, seq := if keep then q.seq else none }
    let s := ((s.set F.PEnn_SEQ_VALID e 0).set F.PEnn_STATUS_FAULT e 0).set F.PEnn_STATUS_SELF e 0
    let s := s.set F.PEnn_PC_PC e addr
    let s := if clrShift then
        (((s.set F.PEnn_CAP_DATA e 0).set F.PEnn_EMT_DATA e 0).set F.PEnn_CNTS_CAPN e 0).set F.PEnn_CNTS_EMTN e 0 else s
    let s := if clrScr then
        ((((s.set F.PEnn_SA_DATA e 0).set F.PEnn_SB_DATA e 0).set F.PEnn_CNTS_Z e 0).set F.PEnn_CNTS_N e 0).set F.PEnn_CNTS_QE e 0 else s
    ({}, s)

/-- The engine that a PIO register offset names (R40). -/
def peOf (f : Frame) : Nat := f.offset % 0x10000 / 0x400

/-- STEP (R271, PEnn_CTL): a halted engine runs one instruction and halts again; a kept sequencer position is discarded, for RESUME
alone continues one. [DEDUCED 80 unsafe] -/
def engineStep (e steps : Nat) (s : State) : State :=
  let q := s.eng e
  if q.running then s else ((s.setEng e { q with running := true, single := true, seq := none }).set F.PEnn_SEQ_VALID e 0).stepInstr e steps

/-- FLUSHRX (R271): BUSY while the engine runs. -/
def flushRx (e : Nat) (s : State) : State.Res × State :=
  if (s.eng e).running then ({ st := .busy }, s) else ({}, s.setEng e { s.eng e with rx := [] })

/-- FLUSHTX (R271): BUSY while the engine runs. -/
def flushTx (e : Nat) (s : State) : State.Res × State :=
  if (s.eng e).running then ({ st := .busy }, s) else ({}, s.setEng e { s.eng e with tx := [] })

/-- RELEASE (R270): BUSY while the engine runs. -/
def releaseEngine (e : Nat) (s : State) : State.Res × State :=
  if (s.eng e).running then ({ st := .busy }, s) else ({}, s.setEnables e 0)

/-- FLUSHTAQ (R267): an entry that falls due in the cycle of the flush is executed. -/
def flushTaq (e : Nat) (s : State) : State :=
  let s := s.taqCycle 16 e
  s.setEng e { s.eng e with taq := [] }

/-- The engines that a mask names (R268): bit k of register 0 or 1. -/
def named (reg mask : Nat) : List Nat := (maskBits mask 32).map (fun k => 32 * reg + k)

/-- GSTART (R268): every named engine that is halted without a fault resumes at its PC. [DEDUCED 78 unsafe] -/
def gstart (reg mask : Nat) (s : State) : State :=
  (named reg mask).foldl (fun s e =>
    let q := s.eng e
    if q.running || decide (s.get F.PEnn_STATUS_FAULT e ≠ 0) || !s.flag F.PEnn_CFG_EN e then s
    else (s.setEng e { q with running := true, seq := none, stalled := none }).set F.PEnn_SEQ_VALID e 0) s

/-- GHALT (R268). -/
def ghalt (reg mask : Nat) (s : State) : State := (named reg mask).foldl (fun s e => s.haltEngine e) s

/-! ### Queues, the instruction window and mailboxes -/

/-- Words of the oldest feed window frame of an engine enter its transmit queue while it has room; a WRN completes with its last word
(R260). -/
def feedDrain (e : Nat) (s : State) : State :=
  match s.pio.feeds.find? (fun x => decide (x.1 = e)) with
  | none => s
  | some (_, f, ws) =>
    let q := s.eng e
    let room := 8 - q.tx.length
    let s := s.setEng e { q with tx := q.tx ++ ws.take room }
    if ws.length ≤ room then (s.onPio fun p => { p with feeds := p.feeds.eraseP (fun x => decide (x.1 = e)) }).settle 6 f {}
    else s.onPio fun p => { p with feeds := p.feeds.map (fun x => if x.1 = e ∧ x.2.1 = f ∧ x.2.2 = ws then (e, f, ws.drop room) else x) }

/-- A feed window frame of an engine has entered its transmit queue in part (R260). -/
def State.feedPartial (s : State) (e : Nat) : Bool := s.pio.feeds.any (fun x => decide (x.1 = e) && decide (4 * x.2.2.length < x.2.1.pay.length))

/-- A write to PEnn_TXQ (R260): NORES when the queue is full; it never falls between the words of a feed window frame, which come
first. -/
def txqWrite (e w : Nat) (s : State) : State.Res × State :=
  let s := if s.feedPartial e then feedDrain e s else s
  let q := s.eng e
  if 8 ≤ q.tx.length then ({ st := .nores }, s.bump F.PEnn_CNT_TXFULL e)
  else ({}, s.setEng e { q with tx := q.tx ++ [BitVec.ofNat 32 w] })

/-- A read of PEnn_RXQ (R258): BUSY while the packer is enabled; zero from an empty queue. -/
def rxqRead (e : Nat) (s : State) : State.Res × State :=
  let q := s.eng e
  if s.flag F.PKnn_CFG_EN e then ({ st := .busy }, s)
  else match q.rx with
    | [] => ({ data := wordBytes 0 }, s.set F.PEnn_QSTAT_RXEMPTYRD e 1)
    | x :: rest => ({ data := wordBytes x.1.toNat }, s.setEng e { q with rx := rest })

/-- IADDR advances by one, modulo SIZE (R247). [DEDUCED 82 unsafe] -/
def nextIaddr (s : State) (e : Nat) : State :=
  let n := s.get F.PEnn_IWIN_SIZE e
  let a := s.get F.PEnn_IADDR_ADDR e + 1
  s.set F.PEnn_IADDR_ADDR e (if n ≤ a then 0 else a)

/-- A write to PEnn_IDATA (R247): only while every engine that shares the window is halted, else VIOL, reason 0x4. [DEDUCED 82 unsafe] -/
def idataWrite (e w : Nat) (s : State) : State.Res × State :=
  let base := s.get F.PEnn_IWIN_BASE e
  let shares (k : Nat) : Bool := s.flag F.PEnn_CFG_EN k && decide (s.get F.PEnn_IWIN_BASE k = base)
    && decide (s.get F.PEnn_IWIN_SIZE k = s.get F.PEnn_IWIN_SIZE e)
  if (List.range 64).any (fun k => shares k && (s.eng k).running) then ({ st := .viol, reason := 4 }, s.bump F.PEnn_CNT_IMVIOL e)
  else ({}, nextIaddr (s.onPio fun p => { p with imem := Tbl.put p.imem (base + s.get F.PEnn_IADDR_ADDR e) (BitVec.ofNat 32 w) }) e)

/-- A read of PEnn_IDATA (R247). [DEDUCED 82 unsafe] -/
def idataRead (e : Nat) (s : State) : State.Res × State := ({ data := wordBytes (s.iword e (s.get F.PEnn_IADDR_ADDR e)) }, nextIaddr s e)

/-- An outside write of a mailbox (R261). -/
def mailboxIn (e k v : Nat) (s : State) : State :=
  (s.set F.PEnn_MB_DATA (e * 256 + k) v).set F.PEnn_MBFRESH_FRESH e (setBit (s.get F.PEnn_MBFRESH_FRESH e) k true)

/-- The binder writes the oldest change that EPO handed to a mailbox (PIOOUT, R191). -/
def mailboxBound (e k : Nat) (s : State) : State :=
  let mine (h : Handed) : Bool := decide (h.kind = 9) && decide (h.index = e * 16 + k)
  match s.epo.handed.find? mine with
  | none => s
  | some h => (mailboxIn e k (h.value % 2 ^ 32) (s.onEpo fun x => { x with handed := x.handed.eraseP mine })).sinkOk h.obj

/-- A write to PEnn_TAQ_ACT (R263): UR for a field out of range, NORES for a full queue. -/
def taqActWrite (e w : Nat) (s : State) : State.Res × State :=
  if 8 < bits w 3 0 ∨ 5 < bits w 6 4 ∨ s.get F.PEnn_PINS_OUT_CNT e ≤ bits w 12 8 then ({ st := .ur }, s)
  else if 16 ≤ (s.eng e).taq.length then ({ st := .nores }, s.bump F.PIO_CNT_TAQEXH)
  else ({}, s.addAction e { stamp := s.get F.PEnn_TAQ_STAMP_STAMP e, tb := bits w 3 0, actn := bits w 6 4, wake := bit w 7, pin := bits w 12 8 })

/-- FEED_WINDOW_DRAIN (R260): words of the oldest feed window frame of an engine enter its transmit queue while it has
room; a WRN completes with its last word. -/
def execFeedWindowDrain (pe : Nat) (s : State) : Out := .next (if s.blockBusy 6 then s else feedDrain pe s)

end Sys2Proof.Machine
end

