-- ==== Sys2Proof/Machine/Twin.lean ====
section
/-! DEFINITION. Twin pairs (chapter 15): notes, roles, failure, takeover and veers. -/
namespace Sys2Proof.Machine

namespace State

/-- The hub is a twin (R439). -/
def isTwin (s : State) : Bool := s.flag F.TWN_CFG_TWIN

/-- Lane T is UP. -/
def laneTUp (s : State) : Bool := decide (s.laneState .t = 4)

/-- The low bits of this twin's image SERIAL (R445). [DEDUCED 140 unsafe] -/
def serialLow (s : State) : Nat := s.get F.IMG_SERIAL_SERIAL % 2 ^ 15

/-- The standby is healthy (R451); the active twin sees of its partner what TWS gives. [DEDUCED 140 unsafe] -/
def healthy (s : State) : Bool :=
  let same := s.laneTUp && decide (s.twn.pserial = s.serialLow)
  if s.standby then same && s.admitted && decide (s.get F.TIM_STAT_STATE = 3) && s.flag F.TWN_STAT_SYNC
  else s.activeTwin && same && decide (s.get F.TWN_STAT_PROLE = 2) && s.twn.psync

/-- Show a role. -/
def setRole (s : State) (r : Nat) : State := s.set F.TWN_STAT_ROLE 0 r

/-- SYNC is lost (R448). -/
def loseSync (s : State) : State :=
  ((s.set F.TWN_STAT_SYNC 0 0).bump F.TWN_CNT_DIVERGE).onTwn fun t => { t with gapAt := s.up, empties := [] }

/-- The sequence number of a note that arrives (R448). [DEDUCED 138 unsafe] -/
def noteSeq (s : State) (n : Nat) : State :=
  let s := if n = s.twn.noteRx then s else s.loseSync
  s.onTwn fun t => { t with noteRx := (n + 1) % 65536 }

/-- Show the time of a takeover, a veer or a failure (TWN.LAST). [DESIGN CHOICE 142 safe] -/
def lastAt (s : State) (cause : Nat) (unsync : Bool) (gap : Nat) : State :=
  let s := ((s.set F.TWN_LAST_CAUSE 0 cause).setB F.TWN_LAST_UNSYNC 0 unsync).set F.TWN_LAST_GAP 0 gap
  (s.set F.TWN_LAST_NS_VAL 0 s.nsec).set F.TWN_LAST_SEC_VAL 0 s.sec

/-- The active twin declares itself failed (R453): hold, TWN_FAILO low, its engines, controllers and bridge stop, and the cause is
recorded. -/
def declareFail (s : State) (cause : Nat) : State :=
  if !s.activeTwin then s
  else
    let s := s.assertHold
    let s := (List.range 64).foldl (fun s e => if (Tbl.getD s.pio.eng e {}).running then s.haltEngine e else s) s
    let s := s.onBrg fun g => { g with buses := g.buses.map (fun (p : Nat × BrgBus) => (p.1, { p.2 with cur := none })) }
    let s := s.onCan fun k => { k with chans := k.chans.map (fun (p : Nat × CanCh) => (p.1, { p.2 with sending := none })) }
    (s.lastAt cause false 0).setRole 3

/-- TWN_FAILO (R439, R440). -/
def failO (s : State) : Bool := s.isTwin && s.img.loaded && decide (s.get F.TWN_STAT_ROLE ≠ 3)

/-- TWN_ACTO (R439). -/
def actO (s : State) : Bool := s.activeTwin

end State

/-! ### Notes -/

/-- TWS (R445): the partner's role, SYNC and SERIAL; a reserved role counts as none. [DEDUCED 140 unsafe] -/
def execTws (content : Nat) (s : State) : Out :=
  let r := bits content 19 16
  .next ((s.set F.TWN_STAT_PROLE 0 (if r < 4 then r else 0)).onTwn fun t => { t with psync := bit content 15, pserial := content % 2 ^ 15 })

namespace State

/-- Send the ORIGN notes of the frames originated, up to 64 entries each (Table 15-1). [DESIGN CHOICE 137 unsafe] -/
def sendOrign : Nat → State → State
  | 0, s => s
  | n + 1, s =>
    match s.twn.orign with
    | [] => s
    | l =>
      let s := s.onTwn fun t => { t with orign := l.drop 64 }
      sendOrign n (s.sendNote 0x48 ((l.take 64).flatMap (fun e => be 2 e.1 ++ be 1 e.2.1 ++ [0] ++ be 4 e.2.2)))

/-- Take the next note number. -/
def nextNote (s : State) : Nat × State := (s.twn.noteTx, s.onTwn fun t => { t with noteTx := (t.noteTx + 1) % 65536 })

/-- The far-side buses on which nothing waits or runs. -/
def emptyBuses (s : State) : List Nat := (List.range 64).filter (fun b => (s.bus b).queue.isEmpty && (s.bus b).cur.isNone)

/-- Send a DONE note. [DESIGN CHOICE 136 unsafe] -/
def sendDone (s : State) : State :=
  let (n, s) := s.nextNote
  (s.emit (.done n s.twn.done s.emptyBuses)).onTwn fun t => { t with done := [] }

/-- Send an LHIST note. [DESIGN CHOICE 136 unsafe] -/
def sendLhist (s : State) : State :=
  let (n, s) := s.nextNote
  (s.emit (.lhist n s.cry.hist s.twn.mirror)).onTwn fun t => { t with lhistAt := s.up, lhistSent := s.cry.hist }

/-- What a twin's link history shows of its contexts and epochs. -/
def histShape (h : Map (List LinkCtx)) : List (Nat × List (List Byte × Nat)) :=
  h.map (fun p => (p.1, p.2.map (fun (c : LinkCtx) => (c.ctx, c.epoch))))

end State

/-- TWS_SEND (R442, R445, R446): each twin sends TWS every 1 µs; with it go the notes of the active twin that are due. The
health of a preferred standby is followed for its return (R460). -/
def execTwsSend (s : State) : Out :=
  let early : Bool := match s.twn.twsAt with
    | none => false
    | some t => decide (s.up < t + 1000)
  if !s.isTwin || decide (s.laneState .t = 0) || early then .next s
  else
    let s := s.onTwn fun t => { t with twsAt := some s.up }
    let s := s.emit (.word .t 6 (s.get F.TWN_STAT_ROLE * 2 ^ 16 + s.get F.TWN_STAT_SYNC * 2 ^ 15 + s.serialLow))
    let since := if s.standby && s.healthy then some (s.twn.healthySince.getD s.up) else none
    let s := s.onTwn fun t => { t with healthySince := since }
    if s.activeTwin then
      let s := s.sendOrign s.twn.orign.length
      let s := if s.twn.done.isEmpty then s else s.sendDone
      .next (if s.twn.lhistAt + 1000000 ≤ s.up ∨ State.histShape s.twn.lhistSent ≠ State.histShape s.cry.hist then s.sendLhist else s)
    else .next s

/-- ORIGN (R446): the standby follows the sequence numbers of the active twin's streams. [DESIGN CHOICE 137 unsafe] -/
def execOrign (f : Frame) (s : State) : Out :=
  let s := (s.take f).noteSeq (beAt f.pay 2 2)
  if s.standby then
    .next ((List.range ((f.pay.length - 4) / 8)).foldl (fun s i =>
      let b := 4 + 8 * i
      let d := beAt f.pay b 2
      let m := decide (0x8000 ≤ d)
      let k := ((b2n m * 256 + s.hubNum) * 4096 + d % 0x8000) * 16 + beAt f.pay (b + 2) 1
      s.onRng fun r => { r with origin := Tbl.put r.origin k ((beAt f.pay (b + 4) 4 + 1) % 2 ^ 32) }) s)
  else .next s

namespace State

/-- One item of completed work at the standby (R446, R449). -/
def applyDone (s : State) (d : DoneItem) : State :=
  match d with
  | .cmp src init tag =>
    s.onTwn fun t => { t with unsent := t.unsent.filter (fun f => !(decide (f.dst = src) && decide (f.init = init) && decide (f.tag = tag))) }
  | .canTx k st =>
    match s.canObj? k with
    | none => s
    | some o => s.setCanObj k { o with txreq := false, txst := st, again := false, abort := false }
  | .far b q (some e) st resp =>
    let p := s.pollOf e
    let s := (s.set F.BRG_PL_STAT_DUE e 0).setPoll e { p with start := s.up - p.rt * 100000 }
    let s := s.setBus b { s.bus b with nextSeq := max (s.bus b).nextSeq q }
    if st = 0 then s.pollGood e resp else s.pollBad e
  | .far b q none st _ =>
    let k := s.bus b
    let s := s.setBus b { k with queue := k.queue.filter (fun a => decide (a.qseq ≠ q)) }
    match k.queue.find? (fun a => decide (a.qseq = q)) with
    | none => s
    | some a =>
      match a.src with
      | .sink _ obj _ => if st = 0 then s.sinkOk obj else s.pushUpdate { obj := obj, rep := .fail, sec := s.sec, ns := s.nsec }
      | _ => s

end State

/-- DONE (R446, R448): the standby applies completed work to its queues, objects and polls. [DESIGN CHOICE 136 unsafe] -/
def execDone (seq : Nat) (items : List DoneItem) (empty : List Nat) (s : State) : Out :=
  let s := s.noteSeq seq
  if s.standby then
    .next ((items.foldl (fun s d => s.applyDone d) s).onTwn fun t => { t with empties := t.empties ++ empty.filter (fun b => !t.empties.contains b) })
  else .next s

/-- LHIST (R442): the mirror of both twins' link histories. A twin that has restarted restores its own from it, resuming each
context 2^32 frames further. [DESIGN CHOICE 136 unsafe] -/
def execLhist (seq : Nat) (theirs mine : List (Nat × List LinkCtx)) (s : State) : Out :=
  let s := (s.noteSeq seq).onTwn fun t => { t with mirror := theirs }
  if s.cry.hist.isEmpty then
    .next (s.onCry fun c => { c with hist := mine.foldl (fun (m : Map (List LinkCtx)) p =>
                                     Tbl.put m p.1 (p.2.map (fun (x : LinkCtx) => { x with hopiv := x.hopiv + 2 ^ 32, since := s.up, mark := x.hopiv / 2 ^ 40 }))) [] })
  else .next s

/-- HOSTF (R447): a fragment of a host frame that the partner relays; the frame is taken once complete, and a fragment of
another frame discards one that is not. [DEDUCED 138 unsafe] -/
def execHostf (f : Frame) (s : State) : Out :=
  let s := (s.take f).noteSeq (beAt f.pay 2 2)
  let k := beAt f.pay 4 2
  let g : Frag := Tbl.getD s.twn.frags k { count := beAt f.pay 7 1, port := beAt f.pay 8 1 }
  let g := { g with parts := Tbl.put g.parts (beAt f.pay 6 1) (f.pay.drop 12) }
  if g.count ≤ g.parts.length then
    let eth := g.parts.flatMap (fun p => p.2)
    let init := (s.img.hosts.find? (fun e => decide (e.port = g.port) && decide (e.mac = beAt eth 6 6))).map (fun e => e.init)
    let s := s.onTwn fun t => { t with frags := [], hostAt := match init with
      | some i => if t.hostAt.contains i then t.hostAt else t.hostAt ++ [i]
      | none => t.hostAt }
    .next (if s.activeTwin then s.hostFrame g.port eth else s)
  else .next (s.onTwn fun t => { t with frags := [(k, g)] })

/-- SYNC_RESTORE (R448): 1 s has passed without a gap, and each far-side queue was reported empty in it. -/
def execSyncRestore (s : State) : Out :=
  let used := (List.range 256).filter (fun w => s.flag F.BRG_WIN_CFG_EN w)
  if s.standby ∧ s.twn.gapAt + 10 ^ 9 ≤ s.up ∧ used.all (fun w => s.twn.empties.contains (s.winBus w)) then
    .next (s.set F.TWN_STAT_SYNC 0 1)
  else .next s

/-! ### Failure and takeover -/

/-- SEQUENCER_MISMATCH (R452, R453): hold asserts in the first cycle of a disagreement; an active twin fails with cause 1. -/
def execSequencerMismatch (s : State) : Out :=
  if s.isTwin then .next ((s.bump F.TWN_CNT_MISM).assertHold.declareFail 1) else .next s

namespace State

/-- Restart an engine at takeover (Table 15-5, TWN.PIO_RST). -/
def restartEngine (s : State) (e : Nat) : State := (engineStart e (s.get F.PEnn_CFG_ENTRY e) true true false (s.haltEngine e)).2

/-- A far-side access that was on a bus is cut (R456): a write without RETRYW ends with FERR and detail 0xFD. [DEDUCED 141 unsafe] -/
def cutBus (s : State) (b : Nat) (poll : Option Nat) : State :=
  match poll, (s.bus b).queue with
  | some e, _ => (s.touchLine b).onTwn fun t => { t with cut := t.cut ++ [(b, some e)] }
  | none, [] => s
  | none, a :: rest =>
    let s := s.touchLine b
    if a.write && !s.flag F.BRG_WIN_CFG_RETRYW a.win then (s.setBus b { s.bus b with queue := rest }).accessBad b a 0xFD
    else s.onTwn fun t => { t with cut := t.cut ++ [(b, none)] }

/-- An attempt of a CAN object was cut by the takeover (Table 15-5). [DEDUCED 141 unsafe] -/
def cutCan (s : State) (k : Nat) : State :=
  match s.canObj? k with
  | none => s
  | some o => if o.oneshot && o.txreq then s.setCanObj k { o with txreq := false, txst := 4, again := false, abort := false } else s

/-- The standby becomes active (R454) and continues the active twin's work (R455, R459). `cut` lists the buses, with the entry
of a poll, and `can` the CAN objects, whose access or attempt was cut. [DEDUCED 141 unsafe, DESIGN CHOICE 142 safe, DEDUCED 143 unsafe] -/
def takeOver (s : State) (veer : Bool) (gap : Nat) (cut : List (Nat × Option Nat)) (can : List Nat) : State :=
  let unsync := !veer && !s.flag F.TWN_STAT_SYNC
  let (v, s) := s.draw
  let s := ((s.releaseHold.setRole 1).set F.TWN_STAT_ACTI 0 0).onTwn fun t => { t with actiAt := none }
  let s := s.lastAt (if veer then 0 else 1 + v.toNat % 7) unsync (min gap 48)
  let s := if veer then s else s.bump F.TWN_CNT_TKO
  -- Streams
  let s := if veer then s else s.onRng fun r => { r with origin := r.origin.map (fun (p : Nat × Nat) => (p.1, (p.2 + 1023) % 2 ^ 32)) }
  -- Completions
  let l := s.twn.unsent
  let s := l.foldl (fun s f => s.complete 5 f) (s.onTwn fun t => { t with unsent := [] })
  -- Objects
  let s := s.onEpo fun e => { e with
    objs := e.objs.map (fun (p : Nat × Obj) => (p.1, { p.2 with cseq := (p.2.cseq + 0x100) % 65536 })),
    subs := e.subs.map (fun (p : Nat × Sub) => (p.1, { p.2 with pending :=
                                                                (e.objs.filter (fun o => decide (p.2.first ≤ o.1) && decide (o.1 < p.2.first + p.2.count))).map (fun o => (o.1, ())) })) }
  -- Wires
  let s := (List.range 16).foldl (fun s b =>
    if s.flag F.FPN_VWO_CFG_EN b then (s.onFpn fun f => { f with vwo := Tbl.erase f.vwo b }).sendVw b s.nsec s.timeLocked true else s) s
  -- Ring master
  let s := if s.get F.RNG_RSTAT_MASTER_HUB = s.hubNum then
      (s.set F.RNG_RSTAT_MASTER 0 1).onRng fun r => { r with heard := r.members.foldl (fun (t : Map Nat) (m : Member) => Tbl.put t m.hub s.up) [] }
    else s
  -- CAN
  let s := (List.range 16).foldl (fun s c => s.setCanCh c { s.canCh c with integrated := false }) s
  let s := can.foldl (fun s k => s.cutCan k) (s.restSignals (fun _ => true))
  -- PIO
  let s := (List.range 64).foldl (fun s e =>
    if bit (if e < 32 then s.get F.TWN_PIO_RST0_ENG else s.get F.TWN_PIO_RST1_ENG) (e % 32) then s.restartEngine e else s) s
  -- Bridge
  cut.foldl (fun s x => s.cutBus x.1 x.2) s

end State

/-- PARTNER_FAIL (R454, R455): TWN_FAILI falls; a standby takes over, healthy or not. `gap` is the length of the gap in cycles. [DEDUCED 141 unsafe] -/
def execPartnerFail (gap : Nat) (cut : List (Nat × Option Nat)) (can : List Nat) (s : State) : Out :=
  let s := s.set F.TWN_STAT_FAILI 0 0
  .next (if s.standby then s.takeOver false gap cut can else s)

/-- TWN_ACTI is at a level; it shows since when it has been high. -/
def State.noteActi (v : Bool) (s : State) : State :=
  (s.setB F.TWN_STAT_ACTI 0 v).onTwn fun t =>
    { t with actiAt := if v then (if s.flag F.TWN_STAT_ACTI then some (t.actiAt.getD s.up) else some s.up) else none }

/-- This twin becomes standby while its partner is active: it takes the partner's pair incarnation, and SYNC has to come again
(R441, R448). -/
def State.becomeStandby (s : State) : State :=
  let s := (s.setRole 2).set F.TWN_STAT_PAIRINC 0 ((s.lane .t).linc.getD 0)
  (s.set F.TWN_STAT_SYNC 0 0).onTwn fun t => { t with gapAt := s.up, empties := [] }

/-- PARTNER_ACTIVE (R454): TWN_ACTI rises; the failed twin releases every pad. [DEDUCED 145 unsafe] -/
def execPartnerActive (s : State) : Out :=
  let s := s.noteActi true
  .next (if s.get F.TWN_STAT_ROLE = 3 then s.releaseHold else s)

/-- ROLE_DECIDE (R441, R450): TWN_FAILI and TWN_ACTI are at their levels. A twin that is loaded and admitted takes its role from them
and, if it is not preferred, from TWN_ACTI having stayed low for 1 s after its admission. -/
def execRoleDecide (failI actI : Bool) (s : State) : Out :=
  let s := (s.setB F.TWN_STAT_FAILI 0 failI).noteActi actI
  if !s.isTwin ∨ !s.img.loaded ∨ !s.admitted ∨ s.get F.TWN_STAT_ROLE ≠ 0 then .next (s.onTwn fun t => { t with waitAt := none })
  else if actI then .next (s.becomeStandby.onTwn fun t => { t with waitAt := none })
  else
    let since := s.twn.waitAt.getD s.up
    if s.flag F.TWN_CFG_PREF ∨ !failI ∨ since + 1000000000 ≤ s.up then .next ((s.setRole 1).set F.TWN_STAT_PAIRINC 0 (s.get F.RNG_INC))
    else .next (s.onTwn fun t => { t with waitAt := some since })

/-- DOUBLE_ACTIVE (R450): both twins have seen each other active for 2 µs; the one that is not preferred becomes standby. -/
def execDoubleActive (s : State) : Out :=
  let both := match s.twn.actiAt with
    | none => false
    | some t => decide (t + 2000 ≤ s.up)
  if s.activeTwin && both then
    let s := s.bump F.TWN_CNT_DIVERGE
    .next (if s.flag F.TWN_CFG_PREF then s else s.becomeStandby)
  else .next s

/-! ### Veers -/

namespace State

/-- Send a veer message of the twin logic (R457). [DESIGN CHOICE 139 unsafe] -/
def sendVeer (s : State) (op dst : Nat) (more : List Byte) : State :=
  s.sendPosted 4 { tt := .mgt, tc := 2, dst := dst, init := 8, addr := fabAddr dst 0xF 0, len := 2 + more.length,
                   pay := be 1 op ++ [0] ++ more }

/-- Ask the master for a veer (R457): refused first if the standby is not healthy. [DESIGN CHOICE 139 unsafe] -/
def requestVeer (s : State) : State :=
  if !s.healthy then (s.set F.TWN_VSTAT_PEND 0 0).set F.TWN_VSTAT_RESULT 0 3
  else ((s.set F.TWN_VSTAT_PEND 0 1).set F.TWN_VSTAT_RESULT 0 0).sendVeer 0x40 (s.get F.RNG_RSTAT_MASTER_HUB) []

end State

/-- A write of TWN.CTL (R457, R460): VEER is BUSY on a standby; FAIL is ignored there. -/
def twnCtl (w : Nat) (s : State) : State.Res × State :=
  if bit w 0 && s.standby then ({ st := .busy }, s)
  else
    let s := s.setB F.TWN_CTL_NOREVERT 0 (bit w 2)
    let s := if bit w 1 then s.declareFail 7 else s
    ({}, if bit w 0 && s.activeTwin then s.requestVeer else s)

/-- VEERREQ (R457): the master grants one veer at a time, and none while a mode change is armed. [DESIGN CHOICE 139 unsafe] -/
def execVeerreq (f : Frame) (s : State) : Out :=
  mgtRequest f s fun s =>
  if !s.master then .next s
  else if s.twn.granted.isSome ∨ s.img.change.isSome then .next (s.sendVeer 0x42 f.src [6])
  else .next ((s.onTwn fun t => { t with granted := some f.src }).sendVeer 0x41 f.src [])

/-- VEERGO (R458): the active twin starts no new far-side transaction and waits for its buses. -/
def execVeergo (f : Frame) (s : State) : Out :=
  mgtRequest f s fun s =>
  .next (if s.activeTwin then s.onTwn fun t => { t with veering := true, veerAt := s.up } else s)

/-- VEERNO (R457): the veer that this twin asked for is refused. [DESIGN CHOICE 139 unsafe] -/
def execVeerno (f : Frame) (s : State) : Out :=
  mgtRequest f s fun s =>
  .next (if s.flag F.TWN_VSTAT_PEND then (s.set F.TWN_VSTAT_PEND 0 0).set F.TWN_VSTAT_RESULT 0 2 else s)

/-- The wait before a veer is over (R458): every bus is idle, or VEERWAIT ms have passed. -/
def State.veerReady (s : State) : Bool :=
  (s.brg.buses.all (fun p => p.2.cur.isNone) && s.can.chans.all (fun p => p.2.sending.isNone))
    || decide (s.twn.veerAt + s.get F.TWN_CFG_VEERWAIT * 1000000 ≤ s.up)

/-- VEER_BUS_IDLE (R458, R459): every bus is idle or VEERWAIT has passed, and the roles are swapped: the active twin becomes
standby and tells the master; the standby, which sees TWN_ACTO of its partner fall, becomes active. -/
def execVeerBusIdle (gap : Nat) (cut : List (Nat × Option Nat)) (can : List Nat) (s : State) : Out :=
  let done (s : State) : State :=
    let s := s.bump F.TWN_CNT_VEER
    if s.flag F.TWN_VSTAT_PEND then (s.set F.TWN_VSTAT_PEND 0 0).set F.TWN_VSTAT_RESULT 0 1 else s
  if s.activeTwin ∧ s.twn.veering ∧ s.veerReady then
    let again (a : BrgAcc) : List BrgAcc := match a.src with
      | .poll _ => []
      | .prefetch _ => []
      | _ => [{ a with done := 0, got := [], chunk := 0, tries := 0 }]
    let back (b : BrgBus) : BrgBus := { b with queue := b.cur.toList.flatMap again ++ b.queue, cur := none }
    let s := s.onBrg fun g => { g with buses := g.buses.map (fun (p : Nat × BrgBus) => (p.1, back p.2)) }
    let m := s.get F.RNG_RSTAT_MASTER_HUB
    let s := (s.setRole 2).lastAt 0 false (min gap 48)
    let s := (s.set F.RNG_RSTAT_MASTER 0 0).onTwn fun t => { t with veering := false }
    .next ((done s).sendVeer 0x43 m [])
  else if s.standby then .next (done (s.takeOver true gap cut can))
  else .next s

/-- VEERDONE (R458): the veer that the master granted has ended. -/
def execVeerdone (f : Frame) (s : State) : Out :=
  mgtRequest f s fun s =>
  .next (s.onTwn fun t => { t with granted := if t.granted = some f.src then none else t.granted })

/-- REVERT_TIMER (R460): a preferred standby that has been healthy for HOLDOFF s asks for a veer, unless NOREVERT is 1. -/
def execRevertTimer (s : State) : Out :=
  let due := match s.twn.healthySince with
    | some t => decide (t + s.get F.TWN_CFG_HOLDOFF * 10 ^ 9 ≤ s.up)
    | none => false
  .next (if s.standby && s.flag F.TWN_CFG_PREF && !s.flag F.TWN_CTL_NOREVERT && due && !s.flag F.TWN_VSTAT_PEND then s.requestVeer else s)

/-- CUT_TRANSACTION_REDO (R456): the bus has recovered; the cut transaction is performed again from its start. [DEDUCED 143 unsafe] -/
def execCutTransactionRedo (bus : Nat) (s : State) : Out :=
  match (if s.quietFor bus (s.recoverTime bus) then s.twn.cut.find? (fun x => decide (x.1 = bus)) else none) with
  | none => .next s
  | some (_, p) =>
    let s := (s.onTwn fun t => { t with cut := t.cut.filter (fun x => decide (x.1 ≠ bus)) }).bump F.TWN_CNT_REDO
    match p, (s.bus bus).queue with
    | some e, _ => .next (s.startPoll bus e)
    | none, a :: rest => .next ((s.setBus bus { s.bus bus with queue := rest }).startAccess bus a)
    | none, [] => .next s

end Sys2Proof.Machine
end

