-- ==== Sys2Proof/Machine/Cipher.lean ====
section
/-! DEFINITION. Key slots, user pages, look-aside jobs, epochs, squall and fuses (chapter 14). -/
namespace Sys2Proof.Machine

/-- "BRBIMG01" (Table 14-2). -/
def lblImage : List Byte := [0x42, 0x52, 0x42, 0x49, 0x4D, 0x47, 0x30, 0x31]
/-- "BRBUSR01" (Table 14-2). -/
def lblUser : List Byte := [0x42, 0x52, 0x42, 0x55, 0x53, 0x52, 0x30, 0x31]
/-- "BRBPAGE1" (Table 14-2). -/
def lblPage : List Byte := [0x42, 0x52, 0x42, 0x50, 0x41, 0x47, 0x45, 0x31]

namespace State

/-- A user page. -/
def page? (s : State) (p : Nat) : Option Page := Tbl.find? s.cry.pages p

/-- Store a user page. -/
def setPage (s : State) (p : Nat) (v : Page) : State := s.onCry fun c => { c with pages := Tbl.put c.pages p v }

/-- The root of a derivation. -/
def rootOf (s : State) (dev : Bool) : List Byte := if dev then Config.devRoot else s.fleetRoot

/-- The slot lies in the range of a page (R411). -/
def slotIn (s : State) (p slot : Nat) : Bool :=
  decide (s.get F.UPnn_CFG_SLOTBASE p ≤ slot) && decide (slot < s.get F.UPnn_CFG_SLOTBASE p + s.get F.UPnn_CFG_SLOTCNT p)

/-- Erase a slot (R412). -/
def eraseSlot (s : State) (k : Nat) : State := s.rewriteSlot k .empty []

/-- Erase every slot of a page. -/
def erasePage (s : State) (p : Nat) : State :=
  (List.range (s.get F.UPnn_CFG_SLOTCNT p)).foldl (fun s k => s.eraseSlot (s.get F.UPnn_CFG_SLOTBASE p + k)) s

/-- Derive a key into a slot (R412): the slot is DERIVING with the key to come. While a squall is latched no key can be
derived (R435), and the slot is left empty. -/
def derive (s : State) (k : Nat) (dev : Bool) (label ctx : List Byte) : State :=
  if s.cry.squall then s.eraseSlot k
  else
    let s := s.rewriteSlot k .deriving_ (kdf (s.rootOf dev) label ctx)
    s.onCry fun c => { c with slots := Tbl.put c.slots k { s.slot k with dev := dev } }

/-- The page key (R432). -/
def pageKey (s : State) (p hub init allocs : Nat) : List Byte :=
  if s.cry.squall then []
  else kdf Config.devRoot lblPage (be 1 p ++ be 1 hub ++ be 1 init ++ be 2 (s.get F.RNG_INC) ++ be 4 allocs)

/-- A writer's check against a page (R431): none if it is the owner. [DEDUCED 131 unsafe] -/
def notOwner (p : Page) (f : Frame) : Bool := decide (p.hub ≠ f.src) || decide (p.init ≠ f.init)

/-- The words of an array register of a page, from word `i` on, as bytes. -/
def pageBytes (s : State) (f : Fld) (p i n : Nat) : List Byte := (List.range n).flatMap (fun k => be 4 (s.get f (p * 64 + i + k)))

/-- Store bytes in an array register of a page. -/
def setPageBytes (s : State) (f : Fld) (p : Nat) (l : List Byte) : State :=
  (List.range (cdiv l.length 4)).foldl (fun s k => s.set f (p * 64 + k) (beAt l (4 * k) 4)) s

end State

/-- The page that a register offset names. -/
def pageOf (f : Frame) : Nat := (f.offset % 0x10000 - 0x1000) / 0x100

/-- A command on a page's registers: UR for a page that does not exist, VIOL reason 0x5 for a writer that does not own it
(R431). -/
def onPage (f : Frame) (s : State) (g : Page → State → State.Res × State) : State.Res × State :=
  match s.page? (pageOf f) with
  | none => ({ st := .viol, reason := 5 }, s)
  | some p => if State.notOwner p f then ({ st := .viol, reason := 5 }, s) else g p s

/-- A write of UPnn_KD (R412, R431). [DEDUCED 130 unsafe] -/
def kdWrite (f : Frame) (s : State) : State.Res × State :=
  let w := wordOf f
  let n := pageOf f
  let op := w % 4
  let clen := bits w 7 3
  let k := bits w 15 8
  if (op = 1 ∨ op = 2) ∧ (!s.slotIn n k ∨ (op = 1 ∧ clen = 0)) then ({ st := .ur }, s)
  else onPage f s fun _ s =>
    if op ≠ 1 ∧ op ≠ 2 then ({}, s)
    else if (s.slot k).st = .deriving_ then ({ st := .busy }, s)
    else if op = 2 then ({}, s.eraseSlot k)
    else ({}, s.derive k (bit w 2) lblUser (be 1 (s.get F.UPnn_CFG_DOMAIN n) ++ (s.pageBytes F.UPnn_KDCTX n 0 8).take clen))

/-- DERIVATION_DONE (R412): a slot that is DERIVING becomes READY. [DEDUCED 130 unsafe] -/
def execDerivationDone (slot : Nat) (s : State) : Out :=
  let k := s.slot slot
  if k.st = .deriving_ then .next (s.onCry fun c => { c with slots := Tbl.put c.slots slot { k with st := .ready } }) else .next s

/-! ### Look-aside jobs (R421 to R429) -/

/-- The mode reads text from the source. -/
def Job.text (j : Job) : Bool := decide (j.mode ≠ 2) && decide (j.mode ≠ 3)
/-- The mode writes text to the destination. -/
def Job.writes (j : Job) : Bool := decide (j.mode = 0) || decide (j.mode = 1) || decide (j.mode = 4)
/-- The mode reads AAD. -/
def Job.aad (j : Job) : Bool := decide (j.mode ≤ 3)
/-- The mode reads a tag. -/
def Job.checks (j : Job) : Bool := decide (j.mode = 1) || decide (j.mode = 3) || decide (j.mode = 6)
/-- The job writes a tag. -/
def Job.tags (j : Job) : Bool := (decide (j.mode = 0) || decide (j.mode = 2) || decide (j.mode = 5)) && j.final
/-- The ranges of the job that it reads, and those that it writes: offset and length. -/
def Job.reads (j : Job) : List (Nat × Nat) :=
  ((if j.text then [(j.src, j.len)] else []) ++ (if j.aad then [(j.aada, j.aadlen)] else [])
    ++ (if j.checks then [(j.taga, j.tlen)] else [])).filter (fun r => decide (r.2 ≠ 0))
/-- The ranges that the job writes, which it holds while it runs (R424). -/
def Job.dests (j : Job) : List (Nat × Nat) :=
  ((if j.writes then [(j.dst, j.len)] else []) ++ (if j.tags then [(j.taga, j.tlen)] else [])).filter (fun r => decide (r.2 ≠ 0))

namespace State

/-- The job that the page's registers describe. -/
def jobOf (s : State) (n : Nat) (f : Frame) : Job :=
  let slot := s.get F.UPnn_MODE_SLOT n
  { page := n, mode := s.get F.UPnn_MODE_MODE n, init := s.flag F.UPnn_MODE_INIT n, final := s.flag F.UPnn_MODE_FINAL n,
    tlen := s.get F.UPnn_MODE_TLEN n, slot := slot, src := s.get F.UPnn_SRC n * 16, dst := s.get F.UPnn_DST n * 16,
    aada := s.get F.UPnn_AADA n * 16, taga := s.get F.UPnn_TAGA n * 16, len := s.get F.UPnn_LEN_BYTES n,
    aadlen := s.get F.UPnn_AADLEN_BYTES n, iv := s.pageBytes F.UPnn_IV n 0 3, gen := (s.slot slot).gen, req := f }

/-- A range lies within one bulk buffer (R421). -/
def inBulk (s : State) (off len : Nat) : Bool := match s.winOf off len with | some (.bulk _) => true | _ => false

/-- A multi-part rule is broken (R428). -/
def partBroken (p : Page) (j : Job) : Bool :=
  (!j.final && (decide (j.len % 16 ≠ 0) || decide (j.aadlen % 16 ≠ 0))) || (!j.init && decide (j.aadlen ≠ 0))
    || (j.checks && (!j.init || !j.final))
    || (!j.init && (match p.chain with | some c => decide (c.mode ≠ j.mode) || decide (c.slot ≠ j.slot) | none => true))

/-- The UR checks of a job (R422). [DEDUCED 130 unsafe] -/
def jobWrong (s : State) (p : Page) (j : Job) : Bool :=
  let tag := j.checks || j.tags
  decide (j.mode = 7) || !s.slotIn j.page j.slot || decide ((s.slot j.slot).st = .empty)
    || !((j.reads ++ j.dests).all (fun r => s.inBulk r.1 r.2))
    || (tag && (decide (16 < j.tlen) || decide (j.tlen < if j.mode ≤ 3 then 12 else 8)))
    || (decide (j.mode = 2 ∨ j.mode = 3) && decide (j.len ≠ 0)) || partBroken p j

/-- The reason for which a job's owner lacks a permission (R422, R53). -/
def jobRefused (s : State) (j : Job) : Option Nat :=
  match classOf s.hubNum j.req.src j.req.init with
  | none => some 1
  | some c =>
    match j.reads.findSome? (fun r => s.refusal c 4 r.1 r.2 .r) with
    | some r => some r
    | none => j.dests.findSome? (fun r => s.refusal c 4 r.1 r.2 .w)

end State

/-- A write of UPnn_GO (R422): what completes at once, or none for a job that is queued. -/
def goWrite (f : Frame) (s : State) : Option State.Res × State :=
  let n := pageOf f
  if !bit (wordOf f) 0 then (some {}, s)
  else
    match s.page? n with
    | none => (some { st := .viol, reason := 5 }, s)
    | some p =>
      let j := s.jobOf n f
      if s.jobWrong p j then (some { st := .ur }, s)
      else if State.notOwner p f then (some { st := .viol, reason := 5 }, s)
      else
        match s.jobRefused j with
        | some r => (some { st := .viol, reason := r }, s)
        | none =>
          if 4 ≤ p.queue.length then (some { st := .nores }, s.bump F.CRY_CNT_QFULL)
          else (none, s.setPage n { p with queue := p.queue ++ [j] })

namespace State

/-- Zero a range of bulk memory. -/
def zeroRange (s : State) (off len : Nat) : State := { s with bulk := Mem.writeN s.bulk off (zeros len) }

/-- A job ends (R425): it leaves its page's queue, UPnn_JSTAT shows its result, and its GO is answered unless it was
aborted. -/
def jobDone (s : State) (j : Job) (result count : Nat) (st : Status) (chain : Option Chain) : State :=
  let s := match s.page? j.page with
    | none => s
    | some p => s.setPage j.page { p with queue := p.queue.erase j, chain := chain }
  let s := (s.set F.UPnn_JSTAT_RESULT j.page result).set F.UPnn_JSTAT_DONE j.page count
  match j.abort with
  | some q => s.complete 5 (s.cmpOf q .ok false false true (countData count))
  | none =>
    if j.req.pst then (if st = .ok then s else s.postedError j.req st result)
    else s.complete 5 (s.cmpOf j.req st false false false (be 3 count ++ be 1 result))

/-- The bytes of a range of bulk memory. -/
def bulkBytes (s : State) (off len : Nat) : List Byte := Mem.readN s.bulk off len

/-- What a job computes with a key (Table 14-4): the text, the tag, and the chaining state after it. [DEDUCED 128 unsafe, DEDUCED 135 safe] -/
def compute (s : State) (key : List Byte) (j : Job) (old : Option Chain) : List Byte × List Byte × Chain :=
  let k := keyOf key
  let h := Config.aes k 0
  let src := if j.text then s.bulkBytes j.src j.len else []
  let aad := if j.aad then s.bulkBytes j.aada j.aadlen else []
  let fresh : Chain := { mode := j.mode, slot := j.slot, gen := j.gen, acc := if j.aad then ghash h 0 aad else 0,
                         ctr := if j.mode = 4 then j0 j.iv else inc32 (j0 j.iv), aadBits := 8 * aad.length, textBits := 0 }
  let c := if j.init then fresh else old.getD fresh
  let bits_ := c.textBits + 8 * src.length
  if j.mode = 4 then (ctrMode k c.ctr src, [], { c with ctr := incBy c.ctr (src.length / 16), textBits := bits_ })
  else if j.mode = 5 ∨ j.mode = 6 then
    let on := decide (c.textBits ≠ 0)
    ([], blockBytes (cmacEnd k c.acc on src), { c with acc := cmacPart k c.acc on src, textBits := bits_ })
  else
    let out := ctrMode k c.ctr src
    let acc := ghash h c.acc (if j.mode = 0 then out else src)
    let jj : Block := BitVec.ofNat 128 (c.ctr.toNat / 2 ^ 32 * 2 ^ 32 + 1)
    (out, blockBytes (gcmTag k jj acc c.aadBits bits_), { c with acc := acc, ctr := incBy c.ctr (src.length / 16), textBits := bits_ })

/-- The end of a running job (R425 to R427): `fault` says that its source data has an uncorrectable error; `blocks` counts the
16-byte blocks of text that it processed before a fault or an abort. [DEDUCED 135 safe] -/
def jobEnd (s : State) (j : Job) (key : List Byte) (fault : Bool) (blocks : Nat) : State :=
  let old := (s.page? j.page).bind (fun p => p.chain)
  let (out, tag, c) := s.compute key j old
  let n := min j.len (16 * blocks)
  let clear (s : State) : State := if j.writes then s.zeroRange j.dst j.len else s
  let write (s : State) (l : List Byte) : State := if j.writes then { s with bulk := Mem.writeN s.bulk j.dst l } else s
  if j.abort.isSome then (if j.mode = 1 then clear s else write s (out.take n)).jobDone j 5 n .ok none
  else if fault then (clear s).jobDone j 6 n .poison none
  else if j.checks && decide (s.bulkBytes j.taga j.tlen ≠ tag.take j.tlen) then
    ((clear s).bump F.CRY_CNT_AUTHFAIL).jobDone j 2 j.len .poison none
  else
    let s := write s out
    let s := if j.tags then { s with bulk := Mem.writeN s.bulk j.taga (tag.take j.tlen) } else s
    s.jobDone j 1 j.len .ok (if j.final then none else some c)

/-- The page whose job runs next: the first after the latest in rotating order (R423). -/
def nextPage (s : State) : Option (Nat × Page) :=
  let busy := s.cry.pages.filter (fun p => !p.2.queue.isEmpty)
  (busy.filter (fun p => decide (s.cry.rotor < p.1)) ++ busy).head?

end State

/-- LA_JOB_START (R413, R423): the engine, idle, takes the next job; a job whose slot's generation has changed ends STALE;
one whose slot is DERIVING waits. -/
def execLaJobStart (s : State) : Out :=
  if s.cry.running.isSome || s.cry.squall then .next s
  else
    match s.nextPage with
    | none => .next s
    | some (n, p) =>
      match p.queue with
      | [] => .next s
      | j :: _ =>
        let k := s.slot j.slot
        if k.gen ≠ j.gen then .next (((s.onCry fun c => { c with rotor := n }).bump F.CRY_CNT_STALE).jobDone j 3 0 .stale none)
        else if k.st = .ready then .next (s.onCry fun c => { c with rotor := n, running := some (j, k.key) })
        else .next s

/-- LA_JOB_END (R425). [DEDUCED 135 safe] -/
def execLaJobEnd (fault : Bool) (blocks : Nat) (s : State) : Out :=
  match s.cry.running with
  | none => .next s
  | some (j, k) => .next ((s.onCry fun c => { c with running := none }).jobEnd j k fault blocks)

/-- The 56 bytes of a chaining state (R429). [DESIGN CHOICE 127 unsafe] -/
def Chain.bytes (c : Chain) : List Byte :=
  be 2 c.mode ++ be 2 c.slot ++ be 4 c.gen ++ blockBytes c.acc ++ blockBytes c.ctr ++ be 8 c.aadBits ++ be 8 c.textBits

/-- A chaining state from its 56 bytes. [DESIGN CHOICE 127 unsafe] -/
def chainOf (l : List Byte) : Chain :=
  { mode := beAt l 0 2, slot := beAt l 2 2, gen := beAt l 4 4, acc := BitVec.ofNat 128 (beAt l 8 16),
    ctr := BitVec.ofNat 128 (beAt l 24 16), aadBits := beAt l 40 8, textBits := beAt l 48 8 }

/-- A write of UPnn_CTXCTL (R429). [DEDUCED 129 safe] -/
def ctxWrite (f : Frame) (s : State) : State.Res × State :=
  let w := wordOf f
  let n := pageOf f
  onPage f s fun p s =>
    let res (s : State) (r : Nat) : State := s.set F.UPnn_CTXCTL_RESULT n r
    if w % 4 ≠ 1 ∧ w % 4 ≠ 2 then ({}, s)
    else if !p.queue.isEmpty then ({ st := .busy }, res s 3)
    else if w % 4 = 1 then
      let (bytes, s) := match p.chain with
        | some c => (c.bytes, s)
        | none => (List.range 7).foldl (fun (a : List Byte × State) _ => let (v, t) := a.2.draw; (a.1 ++ be 8 v.toNat, t)) ([], s)
      if bit w 2 then
        let iv := be 1 n ++ zeros 3 ++ be 8 p.wraps
        let (ct, tag) := gcmSeal p.key iv [] bytes
        ({}, res ((s.setPage n { p with wraps := p.wraps + 1 }).setPageBytes F.UPnn_CTX n (iv ++ ct ++ tag)) 0)
      else ({}, res (s.setPageBytes F.UPnn_CTX n bytes) 0)
    else
      let b := s.pageBytes F.UPnn_CTX n 0 21
      let (pt, ok) := if bit w 2 then gcmOpen p.key (b.take 12) [] (slice b 12 56) (slice b 68 16) else (b.take 56, true)
      if !ok then ({}, res s 1)
      else
        let c := chainOf pt
        if c.gen = (s.slot c.slot).gen then ({}, res (s.setPage n { p with chain := some c }) 0)
        else ({}, res (s.setPage n { p with chain := none }) 2)

/-! ### Allocation of pages (R430, R432) -/

namespace State

/-- The result of a CRY command. -/
def cryRes (s : State) (page result : Nat) : State := (s.set F.CRY_CMD_RES_PAGE 0 page).set F.CRY_CMD_RES_RESULT 0 result

/-- A page takes an owner: its slots are erased and its page key derived (R430, R432). -/
def openPage (s : State) (n hub init : Nat) (runtime : Bool) : State :=
  let a := Tbl.getD s.cry.allocs n 0 + 1
  let s := (s.erasePage n).onCry fun c => { c with allocs := Tbl.put c.allocs n a }
  s.setPage n { hub := hub, init := init, runtime := runtime, key := s.pageKey n hub init a }

end State

/-- ALLOC by an initiator. -/
def pageAlloc (hub init : Nat) (s : State) : State.Res × State :=
  let old := s.get F.CRY_CMD_RES_PAGE
  let d := s.img.pages.length
  match Tbl.firstFree s.cry.pages d (64 - d) with
  | none => ({ st := .nores }, (s.cryRes old 1).bump F.CRY_CNT_EXH)
  | some n => ({}, (s.openPage n hub init true).cryRes n 0)

/-- FREE of a page by its owner or Mirik. [DEDUCED 131 unsafe] -/
def pageFree (n : Nat) (f : Frame) (s : State) : State.Res × State :=
  let old := s.get F.CRY_CMD_RES_PAGE
  match s.page? n with
  | none => ({}, s.cryRes old 4)
  | some p =>
    if !p.runtime then ({}, s.cryRes old 4)
    else if State.notOwner p f ∧ classOf s.hubNum f.src f.init ≠ some .mirik then ({ st := .viol, reason := 5 }, s)
    else if !p.queue.isEmpty then ({}, s.cryRes old 2)
    else ({}, ((s.erasePage n).onCry fun c => { c with pages := Tbl.erase c.pages n }).cryRes old 0)

/-! ### Epochs (R418) -/

namespace State

/-- The transmitter of a lane may move its epoch: UP, 1 s since the last move, between two frames and no frame suspended. -/
def mayMove (s : State) (l : Lane) : Bool :=
  decide (s.laneState l = 4) && !(s.lane l).txSusp && !s.midLine l.ix && !s.midLine (12 + l.ix)
    && (match Tbl.find? s.cry.lastMove l.ix with | some t => decide (t + 1000000000 ≤ s.up) | none => true)

/-- A move of a lane's transmitter is due (R418): it is requested, PERIOD hours have passed since the epoch began, or HOPIV has
passed a multiple of 2^40. -/
def moveDue (s : State) (l : Lane) : Bool :=
  s.cry.rotate.contains l.ix || (match s.curCtx l true with
    | none => false
    | some c => decide (c.since + s.get F.CRY_LK_CFG_PERIOD * 3600000000000 ≤ s.up) || decide (c.mark < c.hopiv / 2 ^ 40))

/-- The transmitter of a lane moves to its next epoch, or sets EPMAX at the last one. -/
def moveEpoch (s : State) (l : Lane) : State :=
  match s.curCtx l true with
  | none => s
  | some c =>
    let s := s.onCry fun k => { k with rotate := k.rotate.filter (fun x => decide (x ≠ l.ix)) }
    if 0xFFFF ≤ c.epoch then s.set F.CRY_LK_STAT_EPMAX 0 1
    else
      let s := (s.deriveLink l true c.ctx (c.epoch + 1)).updCtx l true
        (fun c => { c with epoch := c.epoch + 1, since := s.up, mark := c.hopiv / 2 ^ 40 })
      (s.showEpoch l true (c.epoch + 1)).onCry fun k => { k with lastMove := Tbl.put k.lastMove l.ix s.up }

end State

/-- Epoch moves are requested (R418): a lane that may move now moves. -/
def epochRotate (e w : Bool) (s : State) : State :=
  [(Lane.e, e), (Lane.w, w)].foldl (fun (s : State) (x : Lane × Bool) =>
    if !x.2 then s
    else if s.mayMove x.1 then s.moveEpoch x.1
    else s.onCry fun k => { k with rotate := if k.rotate.contains x.1.ix then k.rotate else k.rotate ++ [x.1.ix] }) s

/-- EPOCH_PERIOD (R418): PERIOD hours have passed, HOPIV has passed a multiple of 2^40, or a requested move can be made. -/
def execEpochPeriod (l : Lane) (s : State) : Out := .next (if s.moveDue l && s.mayMove l then s.moveEpoch l else s)

/-! ### Squall (R434, R435) -/

namespace State

/-- Drop out of the ring without LEAVE: both lanes are DISABLED and the power die releases the bypass output (R434). -/
def dropOut (s : State) : State :=
  let s := [Lane.e, Lane.w].foldl (fun (s : State) l =>
    let up := decide (s.laneState l = 4)
    let s := s.set F.Lx_LSTAT_STATE l.ix 0
    if up then s.leaveUp l else s) s
  ({ s with rng := { s.rng with insertReq := false, settling := false } }.set F.RNG_BYP_CTL_INSERT 0 0).bypassDrive

/-- Every job, running or queued, ends KEY_LOST with its destination zero-filled (R434); where an ABORT has won, the ABORT is
answered and the job is not (R76). How much text the running job has processed is a free value. [DEDUCED 135 safe] -/
def loseJobs (s : State) : State :=
  let jobs := s.cry.pages.flatMap (fun p => p.2.queue)
  let run := s.cry.running.map (fun r => r.1)
  let s := s.onCry fun c => { c with running := none }
  jobs.foldl (fun s j =>
    let (v, t) := s.draw
    let (n, s) := if run = some j then (v.toNat % (j.len + 1), t) else (0, s)
    ((if j.writes then s.zeroRange j.dst j.len else s).bump F.CRY_CNT_KEYLOST).jobDone j 4 n .poison none) s

/-- CRY erases its key material (R434). -/
def eraseKeys (s : State) : State :=
  let s := (List.range 256).foldl (fun s k => s.eraseSlot k) s
  s.onCry fun c => { c with pages := c.pages.map (fun p => (p.1, { p.2 with key := [], chain := none, queue := [] })),
                            hist := [], linkCur := [], rotate := [], fleet := none, squall := true }

/-- A squall (R434); an active twin declares itself failed (Table 15-3, code 5). -/
def squall (s : State) : State := ((s.declareFail 5).loseJobs.eraseKeys.dropOut).set F.CRY_STAT_SQUALL 0 1

end State

/-- SQUALL (R434): source 0 to 3 TMP0 to TMP3, 4 VMON, 5 TMON, 6 CMON, if it is enabled. -/
def execSquall (source : Nat) (s : State) : Out :=
  let on := if source < 4 then bit (s.get F.CRY_SQ_CFG_TMPEN) source
    else if source = 4 then s.flag F.CRY_SQ_CFG_VMON else if source = 5 then s.flag F.CRY_SQ_CFG_TMON else s.flag F.CRY_SQ_CFG_CMON
  if !on then .next s
  else
    let s := if source < 4 then s.set F.CRY_SQ_STAT_TMP 0 (setBit (s.get F.CRY_SQ_STAT_TMP) source true)
      else if source = 4 then s.set F.CRY_SQ_STAT_VMON 0 1 else if source = 5 then s.set F.CRY_SQ_STAT_TMON 0 1
      else s.set F.CRY_SQ_STAT_CMON 0 1
    .next (s.squall.note 0x38 14 [source])

/-- TAMPER_SAMPLE (R435): while the hub die is unpowered the tamper inputs in `mask` are at their active level: the tamper
is latched and the hub die starts in squall. [DEDUCED 133 unsafe] -/
def execTamperSample (mask : Nat) (s : State) : Out :=
  let m := mask % 16
  if s.flag F.PWR_STAT_HDPG ∨ m = 0 then .next s
  else
    let s := (s.set F.CRY_SQ_STAT_TMP 0 (s.get F.CRY_SQ_STAT_TMP ||| m)).set F.CRY_SQ_STAT_UNPWR 0 1
    .next (s.eraseKeys.set F.CRY_STAT_SQUALL 0 1)

/-! ### Fuses (R436 to R438) -/

/-- A write of CRY.FUSE_CMD (R436): BUSY while a command runs. -/
def fuseCmd (w : Nat) (s : State) : State.Res × State :=
  let op := w % 8
  if s.flag F.CRY_FUSE_STAT_BUSY then ({ st := .busy }, s)
  else if op = 0 ∨ 6 ≤ op then ({}, s)
  else ({}, (s.onCry fun c => { c with fuseCmd := some (op, bits w 4 3) }).set F.CRY_FUSE_STAT_BUSY 0 1)

namespace State

/-- The data words of a fuse command, most significant first. [DEDUCED 132 unsafe] -/
def fuseData (s : State) (n : Nat) : List Byte := (List.range n).flatMap (fun k => be 4 (s.get F.CRY_FUSE_DATA k))

/-- Store FUSE_DATA. [DEDUCED 132 unsafe] -/
def setFuseData (s : State) (l : List Byte) : State := (List.range 12).foldl (fun s k => s.set F.CRY_FUSE_DATA k (beAt l (4 * k) 4)) s

/-- Change the fuses. -/
def onFuse (s : State) (g : Fuses → Fuses) : State := s.onCry fun c => { c with fuse := g c.fuse }

/-- The effect of a fuse command that ends without a supply or verify fault: RESULT and the state. [DEDUCED 164 unsafe] -/
def burn (s : State) (op k : Nat) : Nat × State :=
  let z := s.cry.fuse
  match op with
  | 1 => if z.fleet.isSome then (1, s) else (0, s.onFuse fun z => { z with fleet := some (s.fuseData 8) })
  | 2 => if (z.imgkey.getD k none).isSome then (1, s)
         else (0, s.onFuse fun z => { z with imgkey := setAt z.imgkey k (some (s.fuseData 12)) })
  | 3 => if z.imgrev.getD k false then (1, s) else (0, s.onFuse fun z => { z with imgrev := setAt z.imgrev k true })
  | 4 => if z.jkrev then (1, s) else (0, s.onFuse fun z => { z with jkrev := true })
  | _ => (0, s)

/-- Show the fuses (CRY.FUSE_STAT). -/
def showFuses (s : State) : State :=
  let z := s.cry.fuse
  let m (l : List Bool) : Nat := (List.range 4).foldl (fun a k => a + b2n (l.getD k false) * 2 ^ k) 0
  let s := (s.setB F.CRY_FUSE_STAT_FLEETSET 0 z.fleet.isSome).set F.CRY_FUSE_STAT_IMGKEY 0 (m (z.imgkey.map Option.isSome))
  (s.set F.CRY_FUSE_STAT_IMGREV 0 (m z.imgrev)).setB F.CRY_FUSE_STAT_JKREV 0 z.jkrev

end State

/-- FUSE_DONE (R436): the fuse command ends: `fault` 2 for a supply fault, 3 for a failed verify, else none. Programming
zeroes FUSE_DATA; READ_IMGKEY leaves the digest there. [DEDUCED 164 unsafe] -/
def execFuseDone (fault : Nat) (s : State) : Out :=
  match s.cry.fuseCmd with
  | none => .next s
  | some (op, k) =>
    let (r, s) := if fault = 2 ∨ fault = 3 then (fault, s) else s.burn op k
    let s := (s.onCry fun c => { c with fuseCmd := none }).set F.CRY_FUSE_STAT_BUSY 0 0
    let data := if op = 5 ∧ r = 0 then (s.cry.fuse.imgkey.getD k none).getD (zeros 48) else zeros 48
    .next (((s.setFuseData data).set F.CRY_FUSE_STAT_RESULT 0 r).showFuses)

/-! ### Load and reset -/

/-- Image pages and key labels at an image load (R414, R430, R432). [DEDUCED 134 unsafe] -/
def cipherLoad (s : State) : State :=
  let s := s.onCry fun c => { c with pages := [], running := none }
  let s := (List.range s.img.pages.length).foldl (fun s n =>
    let o := s.img.pages.getD n (0, 0)
    s.openPage n o.1 o.2 false) s
  s.img.keylbl.foldl (fun s e => (s.derive e.1 e.2.1 lblImage e.2.2).onCry fun c =>
    { c with slots := Tbl.upd c.slots e.1 (fun k => if k.st = .deriving_ then { k with st := .ready } else k) }) s

/-- A reset of CRY (R433): slots are erased, run-time pages freed, jobs lost and counted; the key labels are derived again
as it leaves reset. [DEDUCED 134 unsafe] -/
def cipherReset (s : State) : State :=
  let n := (s.cry.pages.map (fun p => p.2.queue.length)).sum
  let s := (List.range 256).foldl (fun s k => s.eraseSlot k) s
  let s := s.onCry fun c => { c with pages := [], running := none, hist := [], linkCur := [], rotate := [], lastMove := [], fuseCmd := none }
  s.bumpBy F.CRY_CNT_RESETDISC 0 n

/-- A reset that reloads the fuses (R410, R435): the fleet root takes effect and the squall latch clears if no source is
active. -/
def fuseReload (active : Bool) (s : State) : State :=
  let s := (s.onCry fun c => { c with fleet := c.fuse.fleet, squall := c.squall && active }).showFuses
  s.setB F.CRY_STAT_SQUALL 0 s.cry.squall

/-- A job holds a range against every other initiator while it runs (R424). -/
def jobHolds (s : State) (off len hub init : Nat) : Bool :=
  match s.cry.running with
  | some (j, _) =>
    (decide (j.req.src ≠ hub) || decide (j.req.init ≠ init))
      && j.dests.any (fun r => decide (r.1 < off + len) && decide (off < r.1 + r.2))
  | none => false

end Sys2Proof.Machine
end

