-- ==== Sys2Proof/Machine/Nvm.lean ====
section
/-! DEFINITION. The records that Mirik's area of the non-volatile memory holds (Table 13-1, R513, R514), and the CRC that
guards them. -/
namespace Sys2Proof.Machine

/-- A big-endian number in memory (R5). -/
def Mem.num (m : Mem) (a n : Nat) : Nat := unbe (Mem.readN m a n)

/-- Where Mirik's records begin (Table 13-1). -/
def mirikAt : Nat := 0x760000

/-- The boot record (R513). The node record is hub number, NODEFL and FABID of the last confirmed image; `phy` has the PHY mode of H0
in bits 1:0 and of H1 in bits 3:2, 1000BASE-X where none is recorded (R519). -/
structure BootRec where
  seq : Nat := 0
  fwSlot : Nat := 0
  imgSlot : Nat := 0
  fwPend : Bool := false
  imgPend : Bool := false
  att : Nat := 0
  fwFloor : Nat := 0
  imgFloor : Nat := 0
  node : Option (Nat × Nat × Nat) := none
  phy : Nat := 5
  deriving DecidableEq, Repr

/-- The bytes of a boot record copy; the spec states the fields, their order and the CRC, and not their widths. -/
def BootRec.bytes (b : BootRec) : List Byte :=
  let n := b.node.getD (0, 0, 0)
  let l := be 4 0x42524254 ++ be 4 b.seq ++ be 1 b.fwSlot ++ be 1 b.imgSlot ++ be 1 (b2n b.fwPend + 2 * b2n b.imgPend) ++ be 1 b.att
    ++ be 4 b.fwFloor ++ be 4 b.imgFloor ++ be 1 (b2n b.node.isSome) ++ be 1 n.1 ++ be 1 n.2.1 ++ be 8 n.2.2 ++ be 1 b.phy
  l ++ be 4 (crc32 l)

/-- The length of a boot record copy. [DESIGN CHOICE 116 unsafe] -/
def bootLen : Nat := 36

/-- A valid boot record copy. [DESIGN CHOICE 116 unsafe] -/
def bootCopy (m : Mem) (k : Nat) : Option BootRec :=
  let l := Mem.readN m (mirikAt + 0x1000 * k) bootLen
  if beAt l 0 4 ≠ 0x42524254 then none
  else if beAt l 32 4 ≠ crc32 (l.take 32) then none
  else some { seq := beAt l 4 4, fwSlot := beAt l 8 1 % 2, imgSlot := beAt l 9 1 % 2, fwPend := bit (beAt l 10 1) 0,
              imgPend := bit (beAt l 10 1) 1, att := beAt l 11 1, fwFloor := beAt l 12 4, imgFloor := beAt l 16 4,
              node := if beAt l 20 1 = 1 then some (beAt l 21 1, beAt l 22 1, beAt l 23 8) else none, phy := beAt l 31 1 }

/-- The incarnation record (R514): sequence, incarnation, mount count and the historian's last local number. -/
structure IncRec where
  seq : Nat := 0
  inc : Nat := 0
  mount : Nat := 0
  last : Nat := 0
  deriving DecidableEq, Repr

/-- The bytes of an incarnation record copy (R514). -/
def IncRec.bytes (r : IncRec) : List Byte :=
  let l := be 4 0x4252494E ++ be 4 r.seq ++ be 2 r.inc ++ be 4 r.mount ++ be 8 r.last ++ zeros 6
  l ++ be 4 (crc32 l)

/-- A valid incarnation record copy. -/
def incCopy (m : Mem) (k : Nat) : Option IncRec :=
  let l := Mem.readN m (mirikAt + 0x2000 + 0x800 * k) 32
  if beAt l 0 4 ≠ 0x4252494E then none
  else if beAt l 28 4 ≠ crc32 (l.take 28) then none
  else some { seq := beAt l 4 4, inc := beAt l 8 2, mount := beAt l 10 4, last := beAt l 14 8 }

/-- Which copy is in force, given the sequences of the valid ones: the one with the higher sequence. [DEDUCED 45 unsafe] -/
def newer (a b : Option Nat) : Nat :=
  match a, b with
  | some x, some y => if x < y then 1 else 0
  | none, some _ => 1
  | _, none => 0

namespace State

/-- The copy of the boot record in force, and the record. [DESIGN CHOICE 116 unsafe] -/
def bootSel (s : State) : Nat × BootRec :=
  let a := bootCopy s.nvm 0
  let b := bootCopy s.nvm 1
  let k := newer (a.map (fun r => r.seq)) (b.map (fun r => r.seq))
  (k, ((if k = 0 then a else b)).getD {})

/-- The boot record in force. [DESIGN CHOICE 116 unsafe] -/
def boot (s : State) : BootRec := s.bootSel.2

/-- Mirik writes the copy with the lower sequence (R513). [DESIGN CHOICE 116 unsafe] -/
def setBoot (s : State) (g : BootRec → BootRec) : State :=
  let (k, r) := s.bootSel
  let r' := { g r with seq := (r.seq + 1) % 2 ^ 32 }
  { s with nvm := Mem.writeN s.nvm (mirikAt + 0x1000 * (1 - k)) r'.bytes }

/-- The copy of the incarnation record in force, and the record. [DESIGN CHOICE 12 unsafe] -/
def incSel (s : State) : Nat × IncRec :=
  let a := incCopy s.nvm 0
  let b := incCopy s.nvm 1
  let k := newer (a.map (fun r => r.seq)) (b.map (fun r => r.seq))
  (k, ((if k = 0 then a else b)).getD {})

/-- The incarnation record in force. -/
def incRec (s : State) : IncRec := s.incSel.2

/-- A writer of the incarnation record changes its field in the copy with the lower sequence (R514). -/
def setInc (s : State) (g : IncRec → IncRec) : State :=
  let (k, r) := s.incSel
  let r' := { g r with seq := (r.seq + 1) % 2 ^ 32 }
  { s with nvm := Mem.writeN s.nvm (mirikAt + 0x2000 + 0x800 * (1 - k)) r'.bytes }

/-- A start of block RNG increments the incarnation (R107). [DESIGN CHOICE 12 unsafe, DEDUCED 45 unsafe] -/
def nextIncarnation (s : State) : State :=
  let s := s.setInc fun r => { r with inc := (r.inc + 1) % 2 ^ 16 }
  s.set F.RNG_INC 0 s.incRec.inc

/-- The state of the updates shown to software (MGT.UPD_STAT). -/
def showUpdates (s : State) : State :=
  let b := s.boot
  let s := (s.setB F.MGT_UPD_STAT_FWPEND 0 b.fwPend).setB F.MGT_UPD_STAT_IMGPEND 0 b.imgPend
  (s.set F.MGT_UPD_STAT_ATT 0 b.att).set F.MGT_UPD_STAT_FWSLOT 0 b.fwSlot

end State

end Sys2Proof.Machine
end

