-- ==== Sys2Proof/Machine/Loader.lean ====
section
/-! DEFINITION. Structure images as bytes (R386 to R391): headers, records, the checks of Table 13-7, and the tables that a
valid image gives the hub. A loader fills the tables of an otherwise empty state, which a load then copies from. -/
namespace Sys2Proof.Machine

/-- Where an image slot begins (Table 13-1). -/
def slotAt (k : Nat) : Nat := if k = 0 then 0x200000 else 0x480000

/-- Where overlay k of an image slot begins. -/
def ovlAt (slot k : Nat) : Nat := slotAt slot + 0x180000 + 0x10000 * k

/-- The header of a base image or an overlay (Table 13-2). -/
structure ImgHdr where
  magic : Nat
  fmt : Nat
  kind : Nat
  slot : Nat
  len : Nat
  nrec : Nat
  fabid : Nat
  hub : Nat
  nodefl : Nat
  mprio : Nat
  defmode : Nat
  serial : Nat
  baseh : List Byte
  deriving DecidableEq, Repr

/-- The header at an address. -/
def imgHdr (m : Mem) (a : Nat) : ImgHdr :=
  { magic := Mem.num m a 4, fmt := Mem.num m (a + 4) 2, kind := Mem.num m (a + 6) 1, slot := Mem.num m (a + 7) 1, len := Mem.num m (a + 8) 4,
    nrec := Mem.num m (a + 12) 4, fabid := Mem.num m (a + 16) 8, hub := Mem.num m (a + 24) 1, nodefl := Mem.num m (a + 25) 1,
    mprio := Mem.num m (a + 26) 1, defmode := Mem.num m (a + 27) 1, serial := Mem.num m (a + 28) 4, baseh := Mem.readN m (a + 32) 48 }

/-- A record: its type and its body (R387). -/
structure ImgRec where
  type : Nat
  body : List Byte
  deriving DecidableEq, Repr

/-- The next n records from a position on, which must end exactly at `stop` (R387). -/
def imgRecs (m : Mem) (stop : Nat) : Nat → Nat → Option (List ImgRec)
  | pos, 0 => if pos = stop then some [] else none
  | pos, n + 1 =>
    let l := Mem.num m (pos + 4) 4
    if stop < pos + 8 + l ∨ l % 4 ≠ 0 ∨ Mem.num m (pos + 2) 2 ≠ 0 then none
    else (imgRecs m stop (pos + 8 + l) n).map (fun t => { type := Mem.num m pos 2, body := Mem.readN m (pos + 8) l } :: t)

/-- The whole entries of k bytes in a byte string. -/
def entries (k : Nat) (l : List Byte) : List (List Byte) := (List.range (l.length / k)).map (fun i => slice l (k * i) k)

/-! ### Registers as the loader sees them -/

/-- The mask of a field. -/
def RField.mask (f : RField) : Nat := (2 ^ (f.hi + 1 - f.lo) - 1) * 2 ^ f.lo

/-- The bits of a register whose fields satisfy a condition. -/
def RegRow.mask (r : RegRow) (p : RField → Bool) : Nat := ((r.fields.filter p).map RField.mask).sum

/-- The word of a register before an image sets it (R562). [DEDUCED 119 unsafe] -/
def RegRow.start (r : RegRow) : Nat := (r.fields.map (fun f => f.start * 2 ^ f.lo)).sum

/-- Whether a register, or one of an array, stands at an offset. -/
def RegRow.hits (r : RegRow) (off : Nat) : Bool :=
  let d := off - r.off
  let inst := if r.n2 = 1 then 0 else d / r.s2
  let e := d - inst * r.s2
  decide (r.off ≤ off) && decide (inst < r.n2) &&
    (if r.n1 = 1 then decide (e = 0) else decide (e % r.s1 = 0) && decide (e / r.s1 < r.n1))

/-- The register at an offset of space 0x1. -/
def regRow? (off : Nat) : Option RegRow :=
  if off < 0x150000 then (blockRegs (off / 0x10000)).find? (fun r => r.hits off) else none

/-- Whether an offset is that of an index register. -/
def isIndex (off : Nat) : Bool :=
  decide (off ≠ 0) && (blockRegs (off / 0x10000)).any (fun r => decide (r.sel.1 = off))

/-- The key of the register at an offset, given the words of the index registers. -/
def regKey (idx : Nat → Nat) (r : RegRow) (off : Nat) : Nat :=
  if r.sel.1 = 0 then off else off + 2 ^ 24 * bits (idx r.sel.1) r.sel.2.1 r.sel.2.2

/-- Whether a triple may set a field (R388). The policer map and the owners of the user pages are read-only image fields that
only triples can give. -/
def tripleField (r : RegRow) (f : RField) : Bool :=
  decide (f.acc = .rwi) || decide (f.acc = .rw) || decide (f.acc = .rws)
    || (decide (f.acc = .ro) && decide (f.src = .img) && (decide (r.off = 0x30044) || decide (r.off = 0xE1004)))

/-- Replace the bits of a word that a mask selects. -/
def mergeBits (old mask v : Nat) : Nat := old - (old &&& mask) + (v &&& mask)

/-- The bits of a register that an overlay may set (Table 13-6), by offset and selected entry; `p` policers are the image's. -/
def ovlMask (p key : Nat) : Nat :=
  let off := key % 2 ^ 24
  let i := key / 2 ^ 24
  if off = 0x30014 then 0xFFFFF
  else if off = 0x30018 then 0xFFFF
  else if off = 0x30024 then (if i < p then 0x1FFFFF else 0)
  else if off = 0x30028 then (if i < p then 0xFFFFF else 0)
  else if off = 0x20008 ∨ off = 0x2000C ∨ off = 0x10008 ∨ off = 0x10108 then 0xFFFFFFFF
  else if 0x40018 ≤ off ∧ off ≤ 0x40024 then 0xFFFFFFFF
  else if 0x51000 ≤ off ∧ off < 0x51400 then 0x3FF000
  else if off = 0x52004 then 0xFFC001
  else if off = 0x52024 then 1
  else if 0x60000 ≤ off ∧ off < 0x70000 ∧ off % 0x400 = 0x18 then 0xFFFFFF
  else if off = 0x90044 then 0x3FFF0001
  else if off = 0x9004C then 0xFFFFFFFF
  else if 0xB0000 ≤ off ∧ off < 0xB0200 ∧ off % 0x40 = 0 then 0x3FFF80
  else if off = 0xA000C ∨ off = 0xC0010 ∨ off = 0xC0014 then 0xFFFFFFFF
  else if 0xC0050 ≤ off ∧ off < 0xC0080 ∧ (off - 0xC0050) % 12 ≠ 0 then 0xFFFFFFFF
  else 0

/-- A load in progress: the tables so far, the loader's own index registers (R388), and which bits triples have set. -/
structure Loader where
  t : State := {}
  idx : Map Nat := []
  set : Map Nat := []
  deriving DecidableEq, Repr

namespace Loader

/-- Store an image word. [DEDUCED 119 unsafe, DEDUCED 178 unsafe] -/
def word (d : Loader) (r : RegRow) (key mask v : Nat) : Loader :=
  let old := ((Tbl.find? d.t.imgRegs key).map (fun w => w.toNat)).getD r.start
  { d with t := { d.t with imgRegs := Tbl.put d.t.imgRegs key (BitVec.ofNat 32 (mergeBits old mask v)) },
           set := Tbl.put d.set key (Tbl.getD d.set key 0 ||| mask) }

/-- Store a whole register that a record other than REGW gives. -/
def put (d : Loader) (key v : Nat) : Loader :=
  match regRow? (key % 2 ^ 24) with
  | some r => d.word r key 0xFFFFFFFF v
  | none => d

/-- A REGW triple (R388); in an overlay it may set only the fields of Table 13-6. None makes the image invalid. -/
def triple (ovl : Bool) (d : Loader) (e : List Byte) : Option Loader :=
  let off := beAt e 0 4
  let mask := beAt e 4 4
  let v := beAt e 8 4
  match regRow? off with
  | none => none
  | some r =>
    let may := r.mask (tripleField r)
    if mask ||| may ≠ may then none
    else if isIndex off then some { d with idx := Tbl.put d.idx off (mergeBits (Tbl.getD d.idx off 0) mask v) }
    else
      let key := regKey (fun o => Tbl.getD d.idx o 0) r off
      let lim := if 0xC0040 ≤ off ∧ off < 0xC0080 then 0 else ovlMask d.t.tmq.imagePolicers key
      if ovl ∧ mask ||| lim ≠ lim then none else some (d.word r key mask v)

/-- Apply entries one after another. -/
def each {α : Type} (g : Loader → α → Option Loader) : Loader → List α → Option Loader
  | d, [] => some d
  | d, e :: l => match g d e with
    | none => none
    | some d => each g d l

/-- An OBJ descriptor (Table 13-4); the bytes of VALUE that the type does not use stay zero (R184). -/
def objOf (e : List Byte) : Option Obj :=
  let t := beAt e 0 1
  let v := beAt e 8 8 % typeMod (t % 8)
  if bit t 5 then
    some { type := t % 8, signed := bit t 3, hist := bit t 4, kind := beAt e 1 1 % 16, prule := beAt e 2 2 % 4096,
           index := beAt e 4 4 % 2 ^ 24, init := v, value := v }
  else none

/-- The lists of a SNAPL body. -/
def lists (body : List Byte) : Nat → Nat → Map (List Nat) → Option (Map (List Nat))
  | _, 0, m => some m
  | pos, n + 1, m =>
    if body.length = pos then some m
    else if body.length < pos + 4 then none
    else
      let c := beAt body (pos + 2) 2
      let size := 4 + 4 * cdiv (2 * c) 4
      if body.length < pos + size then none
      else lists body (pos + size) n (Tbl.put m (beAt body pos 2) ((List.range c).map (fun i => beAt body (pos + 4 + 2 * i) 2)))

/-- A REGION entry (Table 13-5), with its permission bits by class code. -/
def regionOf (e : List Byte) : Region :=
  let b := beAt e 11 2
  let pick (k : Nat) : Nat := b2n (bit b (12 + k)) + 2 * b2n (bit b (9 + k)) + 4 * b2n (bit b (6 + k)) + 8 * b2n (bit b (3 + k))
    + 16 * b2n (bit b k)
  { space := beAt e 0 1 % 16, base := beAt e 1 5 % 2 ^ 36, size := beAt e 6 5 % 2 ^ 36, r := pick 2, w := pick 1, a := pick 0,
    pf := bit (beAt e 13 1) 0, se := bit (beAt e 13 1) 1 }

/-- The tables of a HOSTS body (R389). -/
def hosts (d : Loader) (body : List Byte) : Option Loader :=
  let a := beAt body 0 4
  let b := beAt body 4 4
  let c := beAt body 8 4
  if body.length ≠ 12 + 8 * a + 16 * b + 8 * c then none
  else
    let hs := (entries 8 (slice body 12 (8 * a))).map (fun e =>
      ({ port := beAt e 6 1, mac := beAt e 0 6, init := beAt e 7 1 } : HostEntry))
    let as := (entries 16 (slice body (12 + 8 * a) (16 * b))).map (fun e =>
      ({ init := beAt e 0 1, rights := beAt e 1 1 % 8, first := beAt e 4 6, last := beAt e 10 6 } : AccessEntry))
    let ss := (entries 8 (slice body (12 + 8 * a + 16 * b) (8 * c))).map (fun e =>
      ({ init := beAt e 0 1, kind := beAt e 1 1, hub := beAt e 2 1, host := beAt e 3 1 } : SinkEntry))
    some { d with t := d.t.onImg fun g => { g with hosts := hs, access := as, sinks := ss } }

/-- A SCHED body (R391). -/
def sched (d : Loader) (ovl : Bool) (body : List Byte) : Loader :=
  let m := (entries 16 body).foldl (fun (m : Map SchedEntry) e =>
    Tbl.put m (beAt e 1 1) { kind := beAt e 0 1, arg := beAt e 2 2, period := beAt e 4 4, offset := beAt e 8 4 })
    (if ovl then d.t.img.sched else d.t.img.schedBase)
  { d with t := d.t.onImg fun g => if ovl then { g with sched := m } else { g with schedBase := m, sched := m } }

/-- An RFXK entry: the constant of a rule's term. -/
def rfxk (d : Loader) (e : List Byte) : Loader :=
  let key := 0xC0040 + 4 * (5 + 3 * (beAt e 2 1 % 4)) + 2 ^ 24 * beAt e 0 2
  (d.put key (beAt e 4 4)).put (key + 4) (beAt e 8 4)

/-- A SETLIST entry selects RW or RWS fields (R406). -/
def setting (d : Loader) (e : List Byte) : Option Loader :=
  match regRow? (beAt e 0 4) with
  | none => none
  | some r =>
    let may := r.mask (fun f => decide (f.acc = .rw) || decide (f.acc = .rws))
    if beAt e 4 4 ||| may ≠ may then none
    else some { d with t := d.t.onImg fun g => { g with setlist := g.setlist ++ [(beAt e 0 4, beAt e 4 4)] } }

/-- A record of a base image, or of an overlay (Table 13-3). None makes the image invalid. -/
def record (ovl : Bool) (d : Loader) (r : ImgRec) : Option Loader :=
  let body := r.body
  let n := body.length
  if r.type = 1 then if n % 12 = 0 then each (triple ovl) d (entries 12 body) else none
  else if r.type = 0xA then if n % 12 = 0 then some ((entries 12 body).foldl rfxk d) else none
  else if r.type = 0xD then if n % 16 = 0 then some (d.sched ovl body) else none
  else if ovl then none
  else if r.type = 2 then
    if n < 4 then none
    else
      let first := beAt body 0 4
      let ws := entries 4 (body.drop 4)
      some { d with t := d.t.onPio fun p => { p with
        imem := (List.range ws.length).foldl (fun (m : Map Word) i => Tbl.put m (first + i) (BitVec.ofNat 32 (unbe (ws.getD i [])))) p.imem } }
  else if r.type = 3 then
    if n < 4 ∨ (n - 4) % 16 ≠ 0 then none
    else
      let first := beAt body 0 4
      let es := entries 16 (body.drop 4)
      some { d with t := d.t.onEpo fun q => { q with
        objs := (List.range es.length).foldl (fun (m : Map Obj) i =>
          match objOf (es.getD i []) with
          | some o => Tbl.put m (first + i) o
          | none => Tbl.erase m (first + i)) q.objs } }
  else if r.type = 4 then
    if n % 8 ≠ 0 then none
    else
      let es := entries 8 body
      some { d with t := d.t.onEpo fun q => { q with
        subs := (List.range es.length).map (fun i =>
          let e := es.getD i []
          (i, { first := beAt e 0 2, count := beAt e 2 1 + 1, tc := beAt e 3 1 / 16, toHost := bit (beAt e 3 1) 0,
                dest := beAt e 4 2, hostId := beAt e 6 1 })) } }
  else if r.type = 5 then (lists body 0 (n + 1) d.t.epo.lists).map (fun m => { d with t := d.t.onEpo fun q => { q with lists := m } })
  else if r.type = 6 then
    if n % 12 ≠ 0 then none
    else
      let es := entries 12 body
      some { d with t := d.t.onCan fun q => { q with
        objs := (List.range es.length).map (fun i =>
          let e := es.getD i []
          let f := beAt e 1 1
          (i, { tx := bit f 0, ch := beAt e 0 1 % 16, mask := if bit f 0 then 0 else beAt e 8 4, oneshot := bit f 0 && bit f 2,
                fr := { ide := bit f 1, fdf := bit f 0 && bit f 3, id := beAt e 4 4 % 2 ^ 29, dlc := 0, data := zeros 64 } })) } }
  else if r.type = 7 then
    if n % 16 = 0 then some { d with t := d.t.onImg fun g => { g with regions := g.regions ++ (entries 16 body).map regionOf } } else none
  else if r.type = 8 then if n < 12 then none else d.hosts body
  else if r.type = 9 then
    if n < 4 ∨ (n - 4) % 64 ≠ 0 then none
    else
      let first := beAt body 0 4
      let ws := entries 4 (body.drop 4)
      some ((List.range ws.length).foldl (fun d i => d.put (0xC0040 + 4 * (i % 16) + 2 ^ 24 * (first + i / 16)) (unbe (ws.getD i []))) d)
  else if r.type = 0xB then
    if n % 56 ≠ 0 then none
    else some { d with t := d.t.onImg fun g => { g with
      keylbl := g.keylbl ++ (entries 56 body).map (fun e => (beAt e 0 2, decide (beAt e 2 1 = 1), slice e 8 (beAt e 3 1))) } }
  else if r.type = 0xC then
    if n % 20 ≠ 0 then none
    else some { d with t := d.t.onImg fun g => { g with
      modes := g.modes ++ (entries 20 body).map (fun e =>
        ({ num := beAt e 0 1, ovl := beAt e 1 1, startup := bit (beAt e 2 1) 0, maint := bit (beAt e 2 1) 1 } : ModeEntry)) } }
  else if r.type = 0xE then if n % 8 = 0 then each setting d (entries 8 body) else none
  else if r.type = 0xF then
    if n % 16 = 0 then some { d with t := d.t.onImg fun g => { g with
      bulk := g.bulk ++ (entries 16 body).map (fun e =>
        ({ buf := beAt e 0 1, base := beAt e 4 4 % 2 ^ 24 * 4096, size := beAt e 2 2 * 4096 } : BulkBuf)) } } else none
  else if r.type = 0x10 then
    if n % 8 ≠ 0 then none
    else
      let es := entries 8 body
      some ((List.range es.length).foldl (fun d i =>
        let e := es.getD i []
        (d.put (0x90064 + 2 ^ 24 * i) (1 + 2 * beAt e 0 1 + 2 ^ 9 * (beAt e 1 1 % 16))).put (0x90068 + 2 ^ 24 * i) (beAt e 4 4 % 2 ^ 24)) d)
  else none

/-- Set an image field that the header gives. -/
def field (d : Loader) (f : Fld) (i v : Nat) : Loader :=
  match regRow? f.off with
  | some r => d.word r (f.key i) ((2 ^ (f.hi + 1 - f.lo) - 1) * 2 ^ f.lo) (v * 2 ^ f.lo)
  | none => d

/-- What follows from the records: the numbers P of policers and D of pages and subscriptions, and the owners of the pages, of
which UP00 is always Mirik's (R181, R207, R305, R430). -/
def close (d : Loader) (hub : Nat) : Loader :=
  let pol := d.set.filterMap (fun p =>
    let off := p.1 % 2 ^ 24
    if off = 0x30024 ∨ off = 0x30028 then some (p.1 / 2 ^ 24 + 1)
    else if off = 0x30044 then some (bits (((Tbl.find? d.t.imgRegs p.1).map (fun w => w.toNat)).getD 0) 9 0 + 1) else none)
  let own := d.set.filterMap (fun p => if 0xE1004 ≤ p.1 ∧ p.1 < 0xE5004 ∧ p.1 % 0x100 = 4 then some ((p.1 - 0xE1004) / 0x100 + 1) else none)
  let t := d.t
  let pages := (List.range (own.foldl max 1)).map (fun n =>
    if n = 0 then (hub, 0) else (t.get F.UPnn_OWNER_HUB n, t.get F.UPnn_OWNER_INIT n))
  let d := { d with t := { t with tmq := { t.tmq with imagePolicers := pol.foldl max 0 }, img := { t.img with pages := pages } } }
  (d.field F.EPO_SUB_USED_DEF 0 t.epo.subs.length).field F.CAN_OBJ_USED_DEF 0 t.can.objs.length

end Loader

/-! ### The checks of Table 13-7 -/

namespace State

/-- The entries of an indexed register that the image sets. -/
def setIdx (t : State) (f : Fld) : List Nat := (t.imgRegs.filter (fun p => decide (p.1 % 2 ^ 24 = f.off))).map (fun p => p.1 / 2 ^ 24)

/-- A term breaks Table 12-2 or Table 12-3. -/
def termBad (t : State) (desc : Nat) : Bool :=
  let kind := bits desc 31 30
  let op := bits desc 29 26
  let ix := bits desc 15 0
  decide (bits desc 23 16 ≠ 0) || (if kind = 0 then
      decide (8 ≤ op) || (bit desc 24 && decide (op < 6))
        || (decide (2 ≤ op) && decide (op < 6) && (match Tbl.find? t.epo.objs ix with
          | some o => decide (o.type = 0)
          | none => false))
    else bit desc 24 || decide (op < 8) || decide (9 < op)
      || decide ((if kind = 1 then 256 else if kind = 2 then 2048 else 4096) ≤ ix))

/-- A valid rule that R367 rejects. -/
def ruleBad (t : State) (r : Rule) : Bool :=
  let w0 := t.ruleWord r.num 0
  let n := ((List.range 4).filter (bit r.ten)).length
  decide (4096 ≤ r.num) || decide (r.outkind = 3) || decide (bits w0 7 6 ≠ 0) || decide (2 ^ 16 ≤ t.ruleWord r.num 1) || decide (n = 0)
    || decide (2 ≤ r.comb ∧ n < r.comb)
    || (List.range 4).any (fun i => bit r.ten i && t.termBad (t.ruleWord r.num (4 + 3 * i)))

/-- Two regions overlap (R52). -/
def regionsOverlap : List Region → Bool
  | [] => false
  | g :: l => l.any (fun h => decide (h.space = g.space) && decide (h.base < g.base + g.size) && decide (g.base < h.base + h.size))
      || regionsOverlap l

/-- The class ranks break R170. -/
def ranksBad (t : State) : Bool :=
  let r (c : Nat) : Nat := bits (t.word (if c < 8 then 0x30000 else 0x30004) (if c < 8 then 0x6789BCDE else 0x11223345)).toNat (4 * (c % 8) + 3) (4 * (c % 8))
  (List.range 16).any (fun c => decide (r c = 0) || decide (r c = 15) || (decide (c ≠ 0) && decide (r 0 ≤ r c)))
    || (List.range 4).any (fun a => (List.range 12).any (fun b => decide (r a ≤ r (b + 4))))

/-- Objects beyond the store, of a reserved type or of a reserved kind. -/
def objsBroken (t : State) : Bool :=
    t.epo.objs.any (fun p => decide (65536 ≤ p.1) || decide (p.2.type = 7) || decide (p.2.kind = 7) || decide (12 ≤ p.2.kind))

/-- Tables of the image unit that are too long or name more than there is. -/
def imgBroken (t : State) : Bool :=
    decide (1024 < t.img.regions.length) || regionsOverlap t.img.regions || decide (32 < t.img.modes.length)
      || t.img.modes.any (fun m => decide (32 ≤ m.num)) || t.img.schedBase.any (fun p => decide (64 ≤ p.1))
      || [0, 1].any (fun p => decide (32 < (t.img.hosts.filter (fun h => decide (h.port = p))).length))
      || t.imgRegs.any (fun p => decide (p.1 % 2 ^ 24 = 0x90064) && decide (1024 ≤ p.1 / 2 ^ 24))
      || decide (256 < t.img.setlist.length) || t.img.bulk.any (fun b => decide (64 ≤ b.buf) || decide (b.size = 0) || decide (2 ^ 20 < b.size))
      || decide (2 ^ 20 < (t.img.bulk.map (fun b => b.size)).sum) || t.pio.imem.any (fun p => decide (4096 ≤ p.1))

/-- The tables of an image break a limit or hold a value that the spec rejects at validation (check 6). [DEDUCED 31 unsafe] -/
def limitsBroken (t : State) : Bool :=
  let any (f : Fld) (p : Nat → Bool) : Bool := (t.setIdx f).any p
  let rules := t.rules
  t.objsBroken || decide (16384 < t.epo.subs.length) || decide (8192 < t.can.objs.length)
    || t.epo.lists.any (fun p => decide (63 < p.1) || decide (256 < p.2.length))
    || t.imgBroken
    || (List.range 8).any (fun k => decide (8 ≤ bits (t.word 0x20008 0x55556666).toNat (4 * k + 3) (4 * k)) || decide (8 ≤ bits (t.word 0x2000C 0x22224444).toNat (4 * k + 3) (4 * k)))
    || any F.SWC_MCG_DATA_MEMBER (fun g => t.flag F.SWC_MCG_DATA_MEMBER g && decide (t.get F.SWC_MCG_DATA_PORTS g = 0))
    || t.flag F.SWC_MCG_DATA_MEMBER 0xFFF || decide (t.get F.SWC_MCG_DATA_PORTS 0xFFF ≠ 0) || t.flag F.SWC_MCG_DATA_AON 0xFFF
    || !t.flag F.SWC_MCG_DATA_MEMBER 0xFFE || decide (t.get F.SWC_MCG_DATA_PORTS 0xFFE ≠ 32) || t.flag F.SWC_MCG_DATA_AON 0xFFE
    || decide (t.get F.SWC_QLIM_TC0 = 0) || decide (t.get F.SWC_QLIM_TC1 = 0) || decide (t.get F.SWC_QLIM_TC2 = 0) || decide (t.get F.SWC_QLIM_TC3 = 0)
    || any F.SWC_LQ_CFG_KIND (fun q => decide (t.get F.SWC_LQ_CFG_KIND q = 3))
    || (List.range 64).any (fun k => decide (t.get F.PKnn_CFG_WIDTH k = 3) || decide (1024 < t.get F.PKnn_CFG_FIXLEN k))
    || t.ranksBad || any F.TMQ_SHP_CFG_MODE (fun q => decide (t.get F.TMQ_SHP_CFG_MODE q = 3))
    || [0, 16].any (fun q => decide (t.get F.TMQ_SHP_CFG_MODE q = 0) || decide (t.get F.TMQ_SHP_CFG_RATE q = 0)
        || decide (32000 < t.get F.TMQ_SHP_CFG_RATE q) || decide (192 < t.get F.TMQ_SHP_GUST_GUST q))
    || any F.EPO_PRULE_CFG_MODE (fun r => bit (t.get F.EPO_PRULE_CFG_MODE r) 2 && decide (t.get F.EPO_PRULE_CFG_PERIOD r = 0))
    || (List.range 256).any (fun p => decide (6 ≤ t.get F.FPn_CFG_FUNC p))
    || any F.FPN_VWO_MAP_KIND (fun w => decide (t.get F.FPN_VWO_MAP_KIND w = 3))
    || (List.range 64).any (fun e => (t.flag F.PEnn_CFG_EN e && decide (t.get F.PEnn_CLKDIV_INT e = 0)) || decide (t.get F.PEnn_CELLC_NSTB e = 3))
    || (List.range 256).any (fun w => t.flag F.BRG_WIN_CFG_EN w && decide (t.get F.BRG_WIN_CFG_KIND w < 4) && decide (t.get F.BRG_WIN_FAR_UNIT w = 0))
    || (List.range 32).any (fun p => decide (5 ≤ t.get F.SPnn_CFG_DBITS p))
    || (List.range 512).any (fun e => t.flag F.BRG_PL_CFG_EN e && decide (t.get F.BRG_PL_CFG_RTMUL e = 0))
    || (List.range 8).any (fun k => decide (5 ≤ t.get F.PHn_CFG_SRC k))
    || decide (t.get F.TIM_PTP_H0_ROLE = 3) || decide (t.get F.TIM_PTP_H1_ROLE = 3)
    || decide (2048 < (rules.filter (fun r => decide (r.outkind = 1))).length) || rules.any t.ruleBad
    || decide (t.get F.HST_GEOM_PGSZ = 3)
    || (t.flag F.HST_CFG_EN && decide (t.get F.HST_GEOM_SPARE < 2 + 126 * 4 * 2 ^ t.get F.HST_GEOM_PGSZ))
    || any F.HUB_CTMO_TMO (fun i => decide (t.get F.HUB_CTMO_TMO i = 0) || decide (100000 < t.get F.HUB_CTMO_TMO i))
/-- The digest of the key in a trailer is one that counts, or none is programmed (R390, R437). -/
def keyCounts (s : State) (key : List Byte) : Bool :=
  let f := s.cry.fuse
  f.imgkey.all (fun k => k.isNone) || (List.range 4).any (fun i =>
    !f.imgrev.getD i false && decide (f.imgkey.getD i none = some (Config.sha384 key)))

/-- Checks 1 to 3 of Table 13-7 at an address, for a kind and the largest length: the reason, 0 if they pass. [DEDUCED 117 unsafe, DEDUCED 118 unsafe] -/
def checkForm (s : State) (a kind lim : Nat) : Nat :=
  let h := imgHdr s.nvm a
  if h.magic ≠ 0x42525349 ∨ h.fmt ≠ 1 ∨ h.kind ≠ kind ∨ h.len < 288 ∨ lim < h.len then 1
  else if !s.keyCounts (Mem.readN s.nvm (a + h.len - 192) 96) then 2
  else if !Config.sigOk (Mem.readN s.nvm (a + h.len - 192) 96) (Config.sha384 (Mem.readN s.nvm a (h.len - 96))) (Mem.readN s.nvm (a + h.len - 96) 96) then 3
  else 0

/-- The records of an image of a slot applied to an empty machine. -/
def applyBase (s : State) (slot : Nat) : Option Loader :=
  let a := slotAt slot
  let h := imgHdr s.nvm a
  match imgRecs s.nvm (a + h.len - 192) (a + 96) h.nrec with
  | none => none
  | some l =>
    let d : Loader := { t := { imgRegs := imgStart } }
    let d := ((d.field F.HUB_NODE_HUBNUM 0 h.hub).field F.HUB_NODE_TWIN 0 (h.nodefl % 2)).field F.HUB_NODE_PREF 0 (h.nodefl / 2 % 2)
    let d := ((d.field F.HUB_NODE_MPRIO 0 h.mprio).field F.HUB_NODE_DEFMODE 0 h.defmode).field F.IMG_SERIAL_SERIAL 0 h.serial
    let d := (d.field F.HUB_FABID0_ID 0 (h.fabid / 2 ^ 32)).field F.HUB_FABID1_ID 0 (h.fabid % 2 ^ 32)
    let hash := Config.sha384 (Mem.readN s.nvm a h.len)
    let d := (List.range 12).foldl (fun d k => d.field F.IMG_HASH_H k (beAt hash (4 * k) 4)) d
    let d := { d with t := d.t.onImg fun g => { g with fabid := h.fabid, hash := hash } }
    (Loader.each (Loader.record false) d l).map (fun d => d.close h.hub)

/-- The checks of the base image of a slot in the order of Table 13-7: the reason and, if it is 0, the tables. `node` asks
for check 7. [DEDUCED 117 unsafe] -/
def checkBase (s : State) (slot : Nat) (node : Bool) : Nat × Option Loader :=
  let h := imgHdr s.nvm (slotAt slot)
  let r := s.checkForm (slotAt slot) 1 1572864
  if r ≠ 0 then (r, none)
  else if h.serial < s.boot.imgFloor then (4, none)
  else match s.applyBase slot with
    | none => (5, none)
    | some d =>
      if d.t.limitsBroken ∨ 0xFD < h.hub ∨ 31 < h.defmode then (6, none)
      else if node && (match s.boot.node with
          | some n => decide (n.1 ≠ h.hub) || decide (n.2.1 % 2 ≠ h.nodefl % 2)
          | none => false) then (7, none)
      else (0, some d)

/-- The values in force with overlay k of a slot on top of a base image (R395); none if its records are not allowed. -/
def applyOvl (s : State) (base : Loader) (slot k : Nat) : Option Loader :=
  let a := ovlAt slot k
  let h := imgHdr s.nvm a
  match imgRecs s.nvm (a + h.len - 192) (a + 96) h.nrec with
  | none => none
  | some l => Loader.each (Loader.record true) { base with idx := [], t := base.t.onImg fun g => { g with sched := g.schedBase } } l

/-- The checks of overlay k of a slot against a base image, apart from check 7: the reason, 0 if they pass. [DEDUCED 117 unsafe, DEDUCED 118 unsafe] -/
def checkOvl (s : State) (base : Loader) (slot k : Nat) : Nat :=
  let a := ovlAt slot k
  let h := imgHdr s.nvm a
  let r := s.checkForm a 2 65536
  if r ≠ 0 then r
  else if h.slot ≠ k then 1
  else if h.serial < s.boot.imgFloor then 4
  else if h.baseh ≠ base.t.img.hash then 5
  else match s.applyOvl base slot k with
    | none => 5
    | some d => if d.t.limitsBroken then 6 else 0

end State

end Sys2Proof.Machine
end

