-- ==== Sys2Proof/Machine/Packer.lean ====
section
/-! DEFINITION. The packers between the engines' receive queues and SW6 (R158 to R165). -/
namespace Sys2Proof.Machine

namespace State

/-- A packer. -/
def pk (s : State) (k : Nat) : Packer := Tbl.getD s.swc.packers k {}

/-- Store a packer. -/
def setPk (s : State) (k : Nat) (v : Packer) : State := s.onSwc fun w => { w with packers := Tbl.put w.packers k v }

/-- The bytes at which a packet ends by itself: FIXLEN, or 1,024 in variable mode (R161, R162). -/
def packetLimit (s : State) (k : Nat) : Nat := if s.get F.PKnn_CFG_FIXLEN k = 0 then 1024 else s.get F.PKnn_CFG_FIXLEN k

/-- The store is full: the pointers differ only in bit 6 (R158). -/
def pkFull (s : State) (k : Nat) : Bool := decide (64 ≤ (s.pk k).store.length)

/-- Store the current word (R160). [DEDUCED 51 unsafe] -/
def storeWord (s : State) (k : Nat) (last : Bool) : State :=
  let p := s.pk k
  s.setPk k { p with store := p.store ++ [{ data := p.cur, last := last }], cur := [], wptr := (p.wptr + 1) % 128,
                     count := if last then 0 else p.count }

/-- Place one byte of the stream (R160 to R162); `last` is the end mark of its unit. [DEDUCED 51 unsafe] -/
def packByte (s : State) (k : Nat) (b : Byte) (last : Bool) : State :=
  let lim := s.packetLimit k
  let fixed := decide (s.get F.PKnn_CFG_FIXLEN k ≠ 0)
  let p := s.pk k
  let n := p.count + 1
  let s := s.setPk k { p with cur := p.cur ++ [b], count := n }
  if last && fixed && decide (n < lim) then
    let s := (s.bump F.PKnn_STAT_SHORT k).setPk k { s.pk k with pad := lim - n }
    if (s.pk k).cur.length = 32 then s.storeWord k false else s
  else if last || decide (lim ≤ n) then
    (if !last && !fixed then s.bump F.PKnn_STAT_SPLITS k else s).storeWord k true
  else if (s.pk k).cur.length = 32 then s.storeWord k false
  else s

/-- The zero padding of a closed packet enters the store while it has room (R161). -/
def packPad : Nat → State → Nat → State
  | 0, s, _ => s
  | n + 1, s, k =>
    let p := s.pk k
    if p.pad = 0 ∨ s.pkFull k then s
    else
      let s := s.setPk k { p with cur := p.cur ++ [0], count := p.count + 1, pad := p.pad - 1 }
      let q := s.pk k
      packPad n (if q.pad = 0 then s.storeWord k true else if q.cur.length = 32 then s.storeWord k false else s) k

/-- The words of the packet at the front of a packer's store. -/
def frontPacket : List PkWord → List PkWord
  | [] => []
  | w :: l => if w.last then [w] else w :: frontPacket l

/-- The bytes of words. [DEDUCED 51 unsafe] -/
def pkBytes (l : List PkWord) : List Byte := l.flatMap (fun w => w.data)

/-- Read words off the store (R164). -/
def readWords (s : State) (k n : Nat) : State :=
  let p := s.pk k
  s.setPk k { p with store := p.store.drop n, rptr := (p.rptr + n) % 128 }

/-- SW6 has taken, or refused, the packet that it was offered: the stored words are read (R164). `h` is the frame's
handle, 0 for a frame that did not enter. A packet that is incomplete stays open (R161). [DEDUCED 51 unsafe] -/
def packetTaken (s : State) (k h : Nat) : State :=
  let ws := frontPacket (s.pk k).store
  let d := pkBytes ws
  let s := s.readWords k ws.length
  let s := s.setPk k { s.pk k with offered := false, cut := if (ws.any fun w => w.last) then none else some (h, d.length) }
  s.updBuf h (fun b => { b with fr := { b.fr with pay := patch b.fr.pay 0 d } })

/-- Words that arrive for an open cut-through frame are read as they are stored (R161). -/
def cutRead (s : State) (k : Nat) : State :=
  match (s.pk k).cut with
  | none => s
  | some (h, n) =>
    let ws := frontPacket (s.pk k).store
    let d := pkBytes ws
    let s := s.readWords k ws.length
    let s := s.setPk k { s.pk k with cut := if (ws.any fun w => w.last) then none else some (h, n + d.length) }
    s.updBuf h (fun b => { b with fr := { b.fr with pay := patch b.fr.pay n d } })

/-- The frame of a packet (R163). -/
def packetFrame (s : State) (k : Nat) (pay : List Byte) : Frame :=
  let hi := s.get F.PKnn_DSTHI_ADDR_HI k
  { tt := .wr, tc := s.get F.PKnn_CFG_TC k, dst := hi / 256 % 256, init := 7, pst := true,
    addr := hi * 2 ^ 32 + s.get F.PKnn_DSTLO_ADDR_LO k, len := pay.length, pay := pay }

/-- Offer the packet at the front of the store to SW6: once complete, or under CT_THR (R161). A packet to a destination
that is not admitted is not sent (R36), and the next one is offered; `n` bounds the run. -/
def offerPacket : Nat → State → Nat → State
  | 0, s, _ => s
  | n + 1, s, k =>
    let p := s.pk k
    let ws := frontPacket p.store
    let whole := ws.any fun w => w.last
    let thr := s.get F.PKnn_CFG_CT_THR k
    let early := decide (s.get F.PKnn_CFG_FIXLEN k ≠ 0) && decide (thr ≠ 0) && decide (thr ≤ ws.length)
    if p.offered || p.cut.isSome || !(whole || early) then s
    else
      let d := pkBytes ws
      let f := s.packetFrame k (d ++ zeros ((if whole then 0 else s.packetLimit k) - d.length))
      let m := s.swc.offers.length
      let s := (s.setPk k { p with offered := true }).sendWrite 6 f
      if s.swc.offers.length = m then offerPacket n (s.packetTaken k 0) k
      else s.onSwc fun w => { w with offers := (w.offers.take m) ++ (w.offers.drop m).map (fun (o : Offer) => { o with packer := some k }) }

/-- What follows a change of a packer's store. -/
def pkSettle (s : State) (k : Nat) : State := offerPacket 64 ((s.packPad 1024 k).cutRead k) k

/-- The next cell of a frame can be written: its bytes have arrived (R161). -/
def cellReady (s : State) (h : Nat) (b : Buf) : Bool :=
  match s.swc.packers.find? (fun p => decide ((p.2.cut.map (fun c => c.1)) = some h)) with
  | some (_, p) => decide (64 * (b.cells.length + 1) ≤ 32 + ((p.cut.map (fun c => c.2)).getD 0))
  | none => true

/-- The bytes of the unit at the head of the engine's receive queue are placed into the stream (R159). -/
def placeUnit (s : State) (k : Nat) : State :=
  let q : Engine := Tbl.getD s.pio.eng k {}
  match q.rx with
  | [] => s
  | (w, end_) :: rest =>
    let s := s.onPio fun p => { p with eng := Tbl.put p.eng k { q with rx := rest } }
    let bs := be (2 ^ s.get F.PKnn_CFG_WIDTH k) w.toNat
    (List.range bs.length).foldl (fun s i => s.packByte k (bs.getD i 0) (end_ && decide (i + 1 = bs.length))) s

/-- Accept one unit from the engine's receive queue (R159, R258). -/
def packUnit (s : State) (k : Nat) : State := (s.placeUnit k).pkSettle k

/-- The packer may take a unit: it is enabled, no padding waits and the store has room for every word that the unit completes (R158,
R159). -/
def pkOpen (s : State) (k : Nat) : Bool :=
  s.flag F.PKnn_CFG_EN k && !s.pkFull k && decide ((s.pk k).pad = 0) && decide (((s.placeUnit k).pk k).store.length ≤ 64)

/-- A frame that a packer has started is not finished: words of it are to come, or a copy is being sent (R165). [DEDUCED 188 unsafe] -/
def packerBusy (s : State) : Bool :=
  s.swc.packers.any (fun p => (p.2.cut.map (fun c => decide (c.1 ≠ 0))).getD false)
    || s.swc.bufs.any (fun b => decide (b.2.port = 6) && decide (b.2.fr.tt = .wr) && decide (b.2.fr.init = 7)
        && (decide (b.2.cells.length < b.2.fr.cells) || !(s.outputsOf b.1).isEmpty))

end State

/-- PACKER_UNIT_WRITE (R159, R258): the head of the engine's receive queue enters the packer; while the store is full the
handshake is withheld and the cycle counted. -/
def execPackerUnitWrite (pe : Nat) (s : State) : Out :=
  let q : Engine := Tbl.getD s.pio.eng pe {}
  if !s.flag F.PKnn_CFG_EN pe || q.rx.isEmpty then .next s
  else if s.pkOpen pe then .next (s.packUnit pe)
  else .next ((s.bump F.PKnn_STAT_STALLS pe).pkSettle pe)

/-- PACKER_STALL_RELEASE (R164): a withheld write completes once a word has been read. -/
def execPackerStallRelease (pe : Nat) (s : State) : Out :=
  let s := s.pkSettle pe
  .next (if s.pkOpen pe then s.packUnit pe else s)

/-- PACKER_CT_TIMEOUT (R161): a packet offered under CT_THR whose next word has not come for 100 µs is closed with zero
padding up to FIXLEN. -/
def execPackerCtTimeout (pe : Nat) (s : State) : Out :=
  let p := s.pk pe
  let whole := (State.frontPacket p.store).any fun w => w.last
  if (p.cut.isSome || (p.offered && !whole)) && decide (p.pad = 0) then
    .next (((s.setPk pe { p with pad := s.packetLimit pe - p.count }).bump F.PKnn_STAT_SHORT pe).pkSettle pe)
  else .next s

/-- FLUSH (R165): empties the store of a packer that is not enabled; else VIOL. [DEDUCED 52 unsafe] -/
def packerFlush (k : Nat) (s : State) : State.Res × State :=
  if s.flag F.PKnn_CFG_EN k then ({ st := .viol }, s) else ({}, s.setPk k {})

end Sys2Proof.Machine
end

