-- ==== Sys2Proof/Machine/Blocks.lean ====
section
/-! DEFINITION. What each block loses at a reset (R30 and the rule of its chapter), what the image gives it back, and how it
starts (R219, R244, R278, R332, R382, R480). -/
namespace Sys2Proof.Machine

namespace State

/-- The words of a block that a reset of the block leaves as they were: the fuses and the squall causes (Table 16-4, R435). -/
def staysAtReset (key : Nat) : Bool :=
  decide (key % 2 ^ 24 = 0xE000C) || decide (key % 2 ^ 24 = 0xE0010)

/-- The registers of a block return to their reset values; live fields show what the hardware shows after a reset. -/
def clearBlock (s : State) (b : Nat) : State :=
  let s := s.clearRegs b staysAtReset
  bootRegs.foldl (fun s p => if p.1 / 2 ^ 16 = b then s.setWord p.1 p.2 else s) s

/-- Frames handed to a local unit that has not acted on them are lost. -/
def loseInbox (s : State) (unit : Nat) : State := { s with inbox := s.inbox.filter (fun p => decide (p.1 ≠ unit)) }

/-- A unit that has a switch port of its own loses its frames, which the port counts (SWn_CNT_RESETDISC). -/
def losePort (s : State) (port : Nat) : State :=
  (s.loseInbox port).bumpBy F.SWn_CNT_RESETDISC_COUNT port ((s.inbox.filter (fun p => decide (p.1 = port))).length)

/-- RNG and CRY (R107, R109, R127, R433): the lanes stop, the insertion request ends, every stream and membership is lost, the
keys are erased, and the incarnation rises. -/
def resetRng (s : State) : State :=
  let s := s.dropOut
  let lost := s.rng.rx.length + (s.rng.streams.map (fun p => p.2.held.length)).sum
  let beat := s.rng.heartbeat
  let s := ((s.loseInbox 12).losePort 11).clearBlock 1
  let s := ({ s with rng := { heartbeat := beat } }.bypassDrive).bumpBy F.RNG_CNT_RESETDISC 0 lost
  let s := (cipherReset (s.clearBlock 14)).showFuses
  (s.setB F.CRY_STAT_SQUALL 0 s.cry.squall).nextIncarnation

/-- SWC (R132): every frame is discarded, every queue emptied and every cell filled with zeros; admission waits for the end of
the fill. -/
def resetSwc (s : State) : State :=
  let lost := s.swc.bufs.length + s.swc.offers.length
  ({ s.clearBlock 2 with swc := { ready := false }, bulk := [] }).bumpBy F.SWC_CNT_RESETDISC 0 lost

/-- TMQ (R181, R182): run-time policers are freed and every credit returns to its start. -/
def resetTmq (s : State) : State := (s.clearBlock 3).onTmq fun t => { imagePolicers := t.imagePolicers }

/-- EPO (R208, R212, R382): run-time subscriptions are freed, armed snapshots and bulk copies lost, and every hold ends. Of its credit
links (Table 06-5, R301) the units in flight to it are lost and those that wait at their senders stay (R30); the frames in flight
are counted at its port. [DEDUCED 189 unsafe] -/
def resetEpo (s : State) : State :=
  let mine (p : Nat × Frame) : Bool := decide (p.1 = 5) && decide (p.2.space ≠ 1)
  let lost := (s.inbox.filter mine).length
  let toCan (h : Handed) : Bool := decide (h.kind = 10)
  let waiting := dropFirst toCan 8 s.epo.handed
  let s := { s with inbox := s.inbox.filter (fun p => !mine p) }
  let s := (s.clearBlock 4).onEpo fun e =>
    { binder := e.binder.drop 64, rfx := e.rfx.drop 32,
      handed := e.handed.take (e.handed.length - waiting.length) ++ waiting.filter (fun h => !toCan h) }
  (s.onRfx fun x => { x with holds := [], fresh := true }).bumpBy F.SWn_CNT_RESETDISC_COUNT 5 lost

/-- FPN (R218): every pad is undriven; what the supply monitors show is kept. [DEDUCED 75 unsafe] -/
def resetFpn (s : State) : State :=
  let vok := (List.range 8).map (fun b => s.get F.FPN_BANK_CFG_VOK b)
  let s := (s.clearBlock 5).onFpn fun f => { admitted := f.admitted }
  (List.range 8).foldl (fun s b => s.set F.FPN_BANK_CFG_VOK b (vok.getD b 0)) s

/-- PIO (R274): engines halt; transmit queue words and feed window words are lost and counted. -/
def resetPio (s : State) : State :=
  let lost := (s.pio.eng.map (fun p => p.2.tx.length)).sum + (s.pio.feeds.map (fun p => p.2.2.length)).sum
  (((s.clearBlock 6).onPio fun p => { imem := p.imem }).bumpBy F.PIO_CNT_RESETDISC 0 lost).redriveAll

/-- CAN (R306): controllers stop; frames in shadows, transmissions and the requests in flight from EPO (R30, R301) are lost and counted;
locks, errors and run-time objects go. -/
def resetCan (s : State) : State :=
  let toCan (h : Handed) : Bool := decide (h.kind = 10)
  let lost := (s.can.chans.map (fun p => b2n p.2.shadow.isSome + b2n p.2.sending.isSome)).sum + min 8 (s.epo.handed.filter toCan).length
  let s := s.onEpo fun e => { e with handed := dropFirst toCan 8 e.handed }
  ((({ s.clearBlock 7 with can := {} }).unlock .can).bumpBy F.CAN_CNT_RESETDISC 0 lost).restSignals (fun c => decide (0x80 ≤ c) && decide (c < 0xA0))

/-- BRG or SER (R323). -/
def resetBridge (s : State) (b : Nat) : State :=
  let n := s.get F.BRG_CNT_RESETDISC
  let s := bridgeReset s
  let lost := s.get F.BRG_CNT_RESETDISC - n
  let s := (s.clearBlock b).restSignals (fun c => decide (b = 8) && (decide (c < 0x80) || decide (0xA0 ≤ c)))
  if b = 9 then s.set F.BRG_CNT_RESETDISC 0 lost else s

/-- TIM (R338): N is 0 and the time state FREE. -/
def resetTim (s : State) : State := { (s.loseInbox 13).clearBlock 10 with tim := {} }

/-- PHS (R366): references return to their state at image load; events in flight are lost and counted. -/
def resetPhs (s : State) : State :=
  let lost := (s.phs.filter (fun p => p.2.pend.isSome)).length + (s.inbox.filter (fun p => decide (p.1 = 14))).length
  ({ (s.loseInbox 14).clearBlock 11 with phs := [] }).bumpBy F.PHS_CNT_RESETDISC 0 lost

/-- RFX (R382): latches are kept, hold changes in flight are lost and counted. -/
def resetRfx (s : State) : State :=
  let n := s.get F.RFX_CNT_RESETDISC
  let s := rfxReset (s.losePort 10)
  let lost := s.get F.RFX_CNT_RESETDISC - n
  (s.clearBlock 12).set F.RFX_CNT_RESETDISC 0 lost

/-- HST: staged records and those in flight on the four-record links of their producers (R30, R522) are lost and counted; the medium
keeps its history. -/
def resetHst (s : State) : State :=
  let h := s.hst
  let inFlight (k : Nat) : Nat := min 4 (s.recs.filter (fun r => decide (r.1 = k))).length
  let lost := h.stage.length + (h.prog.map (fun p => p.recs.length)).sum + ((List.range 5).map inFlight).sum
  let s := { s with recs := (List.range 5).foldl (fun l k => dropFirst (fun r => decide (r.1 = k)) 4 l) s.recs }
  ({ (s.losePort 8).clearBlock 19 with hst := { pages := h.pages, blocks := h.blocks, head := h.head, formats := h.formats, nextPage := h.nextPage, lastTag := h.lastTag } }).bumpBy
    F.HST_CNT_RESETDISC 0 lost

/-- A block enters reset (R480). -/
def resetBlock (s : State) (b : Nat) : State :=
  match b with
  | 1 => s.resetRng
  | 2 => s.resetSwc
  | 3 => s.resetTmq
  | 4 => s.resetEpo
  | 5 => s.resetFpn
  | 6 => s.resetPio
  | 7 => s.resetCan
  | 8 => s.resetBridge 8
  | 9 => s.resetBridge 9
  | 10 => s.resetTim
  | 11 => s.resetPhs
  | 12 => s.resetRfx
  | 19 => s.resetHst
  | 20 => s.clearBlock 20
  | _ => s

/-- Give a block the tables of the image that no register shows. -/
def fillBlock (s : State) (t : State) (b : Nat) : State :=
  match b with
  | 3 => s.onTmq fun q => { q with imagePolicers := t.tmq.imagePolicers }
  | 4 => s.onEpo fun e => { e with objs := s.freshObjs t.epo.objs, subs := t.epo.subs, lists := t.epo.lists, snaps := [] }
  | 6 => s.onPio fun p => { p with imem := t.pio.imem }
  | 7 => s.onCan fun c => { c with objs := t.can.objs }
  | _ => s

/-- The registers of the engines that are zero after a load (R244), as base offsets. [DEDUCED 194 unsafe] -/
def zeroAtLoad : List Nat :=
  [F.PEnn_SA_DATA.off, F.PEnn_SB_DATA.off, F.PEnn_CAP_DATA.off, F.PEnn_EMT_DATA.off, F.PEnn_CNTS_CAPN.off, F.PEnn_PC_PC.off,
   F.PEnn_PINLAT_POS.off, F.PEnn_PINOE_POS.off, F.PEnn_MBFRESH_FRESH.off, F.PEnn_SEQ_VALID.off]

/-- The registers of R244 are zero in every engine. [DEDUCED 194 unsafe] -/
def zeroEngines (s : State) : State :=
  { s with regs := s.regs.filter (fun p => !((regRow? (p.1 % 2 ^ 24)).any (fun r => zeroAtLoad.contains r.off))) }

/-- Every engine takes the state of R244, and the engines with AUTOSTART start. -/
def startEngines (s : State) : State :=
  let s := s.onPio fun p => { p with eng := [], feeds := [] }
  let s := s.zeroEngines.redriveAll
  (List.range 64).foldl (fun s e =>
    let entry := s.get F.PEnn_CFG_ENTRY e
    let s := s.set F.PEnn_PC_PC e entry
    if s.flag F.PEnn_CFG_EN e ∧ s.flag F.PEnn_CFG_AUTOSTART e then (engineStart e entry false false false s).2 else s) s

/-- The pins take their functions (R219): an output starts at the value that its source holds, and so do the wires (R234). [DEDUCED 75 unsafe] -/
def startPins (s : State) : State :=
  let s := s.onFpn fun f => { f with on := true, onAt := s.up, banks := (List.range 8).map (fun b => f.admitted.getD b false && s.flag F.FPN_BANK_CFG_VOK b) }
  let s := s.startWires
  (List.range 256).foldl (fun s p =>
    let v := match s.epo.objs.find? (fun o => decide (o.2.kind = 8) && decide (o.2.index = p)) with
      | some o => truth o.2.type o.2.value
      | none => s.pinBit F.FPN_OUT_PIN p
    (s.setPin p { s.pin p with src := v }).redrive p) s

/-- A block leaves reset, or a load completes: what it starts with. -/
def startBlock (s : State) (b : Nat) : State :=
  match b with
  | 5 => if s.img.loaded then s.startPins else s
  | 6 => if s.img.loaded then s.startEngines else s
  | 7 => if s.img.loaded then
      (List.range 16).foldl (fun s c => (s.set F.CNnn_CTL_MODE c (s.get F.CNnn_CFG_INITMODE c)).canEnter c (s.get F.CNnn_CFG_INITMODE c)) s
    else s
  | 8 => pollInit (bridgeRestart s)
  | 9 => pollInit (bridgeRestart s)
  | 10 => s.onTim fun t => { t with n := 0 }
  | 14 => if s.img.loaded then cipherLoad s else s
  | 19 => if s.img.loaded && s.flag F.HST_CFG_EN then s.set F.HST_STAT_STATE 0 1 else s
  | _ => s

end State

end Sys2Proof.Machine
end

