-- ==== Sys2Proof/Machine/Switch.lean ====
section
/-! DEFINITION. The switch commands: admission and linking at a frame's head, the cell slot with the central scheduler,
scrub and fill, sampling and capture, and the shapers and policers of the traffic manager (chapters 04 and 05). -/
namespace Sys2Proof.Machine

namespace State

/-- The policer key of a frame (R178); none where frames are not policed. -/
def policerKey (port : Nat) (f : Frame) : Option Nat :=
  if f.tc < 4 ∨ port ≤ 1 ∨ port = 4 then none
  else if port ≤ 3 then some ((f.init - 0x10) * 12 + (f.tc - 4))
  else some (0x300 + (port - 5) * 12 + (f.tc - 4))

/-- A shaper's or policer's field as it is in force: a change waits for the next tick (R182). -/
def inForce (s : State) (f : Fld) (i : Nat) : Nat :=
  bits ((Tbl.find? s.tmq.held (f.key i)).getD (s.word (f.key i) f.start)).toNat f.hi f.lo

/-- A policer's credit in 1/256 byte (R179). [DEDUCED 31 unsafe] -/
def polCredit (s : State) (p : Nat) : Nat := Tbl.getD s.tmq.pol p (s.inForce F.TMQ_POL_BURST_BURST p * 256)

/-- The policer's decision at a frame's head (R179): pass or drop. -/
def police (s : State) (port : Nat) (f : Frame) : Bool × State :=
  match policerKey port f with
  | none => (true, s)
  | some k =>
    let p := s.get F.TMQ_PMAP_DATA_POLICER k
    if !s.flag F.TMQ_PMAP_DATA_VALID k || decide (s.inForce F.TMQ_POL_CFG_EN p ≠ 1) then (true, s)
    else
      let c := s.polCredit p
      if f.length * 256 ≤ c then
        (true, (s.onTmq fun t => { t with pol := Tbl.put t.pol p (c - f.length * 256) }).bump F.TMQ_POL_PASS p)
      else (false, s.bump F.TMQ_POL_DROP p)

/-- The sampler counts an arriving frame (R166) and keeps every Nth until its verdict is known. [DEDUCED 53 unsafe] -/
def sampleHead (s : State) (port : Nat) (f : Frame) (h : Nat) (v : Verdict) : State :=
  let n := s.get F.SWC_SMP_CFG_N
  if n = 0 ∨ !bit (s.get F.SWC_SMP_SEL_PORTS) port ∨ !bit (s.get F.SWC_SMP_SEL_TCS) f.tc then s
  else if n ≤ s.swc.smpCount + 1 then
    s.onSwc fun w => { w with smpCount := 0, samples := w.samples ++ [{ port := port, handle := h, fr := f, time := s.ns, verdict := v }] }
  else s.onSwc fun w => { w with smpCount := w.smpCount + 1 }

/-- A frame that this hub originates as its own number stands in it (R17, R35, R91). -/
def addressFrame (s : State) (f : Frame) : Frame :=
  { f with src := s.hubNum, inc := s.ownInc, dst := if f.dst = 0xFF then s.hubNum else f.dst,
           addr := if f.hub = 0xFF then f.addr % 2 ^ 40 + s.hubNum * 2 ^ 40 else f.addr }

/-- What a standby twin originates on a ring (R449): the MODEACK of R401 and the messages of a veer, and notes. -/
def standbySends (_s : State) (f : Frame) : Bool :=
  decide (f.tt = .mgt) && (decide (mgtOp f = 0x32) || (decide (0x40 ≤ mgtOp f) && decide (mgtOp f ≤ 0x43)) || isNote f)

/-- A frame that this hub originates, numbered and addressed at its head (R17, R91, R95, R102). -/
def numberFrame (s : State) (f : Frame) : Frame × State :=
  let f := s.addressFrame f
  if f.dst = s.hubNum then (f, s)
  else
    let (n, s) := s.nextSeq f
    ({ f with seq := n, hoplim := s.originHoplim }, s)

/-- Put an admitted frame into the buffer. -/
def enter (s : State) (h port : Nat) (f : Frame) (pool : Pool) (verdict : Verdict) (undecided transit : Bool) (denied : List Nat) : State :=
  let b : Buf := { port := port, fr := f, pool := pool, verdict := verdict, resv := if pool = .shared then 32 else 0,
                   undecided := undecided, transit := transit, headTime := s.tim.n, denied := denied, capOn := s.capEn }
  let s := s.onSwc fun w => { w with bufs := Tbl.put w.bufs h b }
  match pool with
  | .lossless p tc =>
    if 5 ≤ p then
      s.onSwc fun w => { w with llUsed := Tbl.put w.llUsed (p * 4 + tc) (Tbl.getD w.llUsed (p * 4 + tc) 0 + f.cells) }
    else s
  | .shared => s

/-- Refuse a frame at its head (R138, R93): its cells are discarded, and a ring lane's lossless ones are free at once. [DESIGN CHOICE 179 unsafe] -/
def refuseHead (s : State) (port : Nat) (f : Frame) : State :=
  let s := (s.bump F.SWn_CNT_ADMDROP port).capture s.capEn port 0 2 0 f s.ns
  if isLane port then s.giveBack (laneOf port) f
  else if port = 2 ∨ port = 3 then s.bump F.Hx_CNT_NOBUF (port - 2) else s

/-- Admit or refuse a frame that arrived on a ring lane (R135 to R137, R141). -/
def ringHead (s : State) (o : Offer) : State :=
  let f : Frame := { o.fr with hopiv := 0 }
  let fq := 16 * (1 - o.port) + f.tc
  let locals := if o.deliver then s.localCopies o.port f else []
  if f.tc < 4 then
    let s := s.enter o.handle o.port f (.lossless o.port f.tc) .pending o.deliver o.forward []
    if o.forward then s.linkQ fq o.handle true else s
  else
    let pass := o.forward && s.admits fq f.tc
    let (denied, s) := s.denyLocal f locals
    if pass || decide (denied.length < locals.length) then
      let s := s.enter o.handle o.port f .shared .pending o.deliver o.forward (denied ++ (if o.forward && !pass then [fq] else []))
      if pass then s.linkQ fq o.handle true else s
    else s.refuseHead o.port o.fr

/-- Admit or refuse a frame that this hub originates or that lane T brings for the ring (R15, R17, R113, R136, R137). A TC0 or TC1
frame longer than the hub may originate is refused (R84). [DEDUCED 46 unsafe, DESIGN CHOICE 179 unsafe] -/
def ownHead (s : State) (o : Offer) : State :=
  let laneT := decide (o.port = 4) && decide (o.handle ≠ 0)
  let mute := s.standby && !laneT && !s.standbySends o.fr
  let (f, s) := if laneT then (o.fr, s) else if mute then (s.addressFrame o.fr, s) else s.numberFrame o.fr
  let h := if laneT then o.handle else s.rng.nextHandle
  let s := if laneT then s else s.onRng fun r => { r with nextHandle := h + 1 }
  let ring := decide (f.dst ≠ s.hubNum) && !mute && s.admitted
  let locals := if f.dst = s.hubNum ∨ f.dst = 0xFE then s.localCopies (if laneT then 4 else o.port) f else []
  let locals := if mute then locals.filter (fun q => decide (portOfQ q ≠ 2) && decide (portOfQ q ≠ 3)) else locals
  let lanes := if ring then [0, 1].filter (fun p => decide (s.laneState (laneOf p) = 4)) else []
  let own := !laneT && decide (f.tt = .cmp) && decide (f.dst = s.hubNum) &&
    (decide (initPort f.init = 2) || decide (initPort f.init = 3))
  let finish (s : State) (pool : Pool) (rings denied missed : List Nat) : State :=
    let s := s.enter h o.port f pool (if laneT then .pending else .good) own false (denied ++ missed)
    let s := rings.foldl (fun s p => s.linkQ (16 * p + f.tc) h false) s
    let s := if own then s.deliver (initPort f.init) f
      else if locals.isEmpty then s.release h
      else s.linkLocal h
    let first := (rings.map (fun p => 16 * p + f.tc) ++ locals.filter (fun q => decide (q ∉ denied))).headD 0
    if laneT then s else s.capture s.capEn o.port 0 (if (denied ++ missed).isEmpty then 0 else 5) first f s.ns
  if mute && locals.isEmpty && !own then s
  else if tooLong f && !laneT then s.refuseHead o.port f
  else
    let s := if ring then ([0, 1].filter (fun p => decide (s.laneState (laneOf p) ≠ 4))).foldl (fun s p => s.bump F.Lx_CNT_SINGLE p) s else s
    if f.tc < 4 ∧ 4 ≤ o.port then finish s (.lossless o.port f.tc) lanes [] []
    else
      let rings := lanes.filter (fun p => s.admits (16 * p + f.tc) f.tc)
      let missed := lanes.filter (fun p => !s.admits (16 * p + f.tc) f.tc)
      let (denied, s) := if own then ([], s) else s.denyLocal f locals
      if !rings.isEmpty || own || decide (denied.length < locals.length) then
        let s := missed.foldl (fun s p => s.bump F.Lx_CNT_SINGLE (1 - p)) s
        finish s .shared rings denied (missed.map (fun p => 16 * p + f.tc))
      else s.refuseHead o.port f

/-- Internal senders hold the lossless credit for a frame (R134); one that does not waits, but a frame longer than the pool enters an
empty one. [DESIGN CHOICE 179 unsafe] -/
def hasCredit (s : State) (port : Nat) (f : Frame) : Bool :=
  let used := Tbl.getD s.swc.llUsed (port * 4 + f.tc) 0
  decide (port ≤ 4) || decide (4 ≤ f.tc) || decide (used = 0) || decide (used + f.cells ≤ 16)

/-- The offer that a port's next head is: the oldest whose class has credit, each class in its order (R29). -/
def nextOffer (s : State) (port : Nat) : Option Offer :=
  let mine := s.swc.offers.filter (fun o => decide (o.port = port))
  mine.find? (fun o => s.hasCredit port o.fr && decide (mine.find? (fun x => decide (x.fr.tc = o.fr.tc)) = some o))

end State

/-- SWITCH_INGRESS_HEAD (R135, R179): the port's next head is counted by the sampler, policed, and admitted or refused; before the
fill is done none is admitted (R132). The words of a packer's packet are read as it enters (R161, R164). [DESIGN CHOICE 179 unsafe] -/
def execSwitchIngressHead (port : Nat) (s : State) : Out :=
  match s.nextOffer port with
  | none => .next s
  | some o =>
    let s := s.onSwc fun w => { w with offers := w.offers.erase o }
    let read (s : State) (h : Nat) : State := match o.packer with | some k => (s.packetTaken k h).pkSettle k | none => s
    let h := if port ≤ 1 ∨ (port = 4 ∧ o.handle ≠ 0) then o.handle else s.rng.nextHandle
    let s := s.sampleHead port o.fr h (if port ≤ 1 ∨ (port = 4 ∧ o.handle ≠ 0) then .pending else .good)
    let (pass, s) := s.police port o.fr
    if !pass then .next (read s 0)
    else if !s.swc.ready then .next (read (s.refuseHead port o.fr) 0)
    else .next (if port ≤ 1 then s.ringHead o else read (s.ownHead o) h)

namespace State

/-- The rank of a class (R169). -/
def classRank (s : State) (tc : Nat) : Nat :=
  bits (s.word (if tc < 8 then 0x30000 else 0x30004) (if tc < 8 then 0x6789BCDE else 0x11223345)).toNat (4 * (tc % 8) + 3) (4 * (tc % 8))

/-- A shaper's credit in 1/256 byte (R175). [DEDUCED 49 unsafe] -/
def shpCredit (s : State) (q : Nat) : Int := Tbl.getD s.tmq.shp q (s.inForce F.TMQ_SHP_GUST_GUST q * 256 : Nat)

/-- A queue's shaper acts (R175, R182). -/
def shaped (s : State) (q : Nat) : Bool := decide (s.inForce F.TMQ_SHP_CFG_RATE q ≠ 0) && decide (s.inForce F.TMQ_SHP_CFG_MODE q ≠ 0)

/-- The rank at which TMQ offers a queue's head; none if it is not eligible (R172, R173). -/
def queueRank (s : State) (q : Nat) (transit : Bool) : Option Nat :=
  let r := s.classRank (s.queueClass q)
  if transit || !s.shaped q || decide (0 ≤ s.shpCredit q) then some r
  else if s.inForce F.TMQ_SHP_CFG_MODE q = 2 then some 0 else none

/-- The shaper of a queue is charged for a frame of its gated list (R174, R175). -/
def charge (s : State) (q : Nat) (f : Frame) : State :=
  if s.shaped q then
    s.onTmq fun t => { t with shp := Tbl.put t.shp q (s.shpCredit q - (f.length * 256 : Nat)),
                              charged := Tbl.put t.charged q (f.length * 256) }
  else s

/-- An output may start a frame (R144, R110 to R112, R177). -/
def startable (s : State) (out : Nat) (b : Buf) (transit : Bool) : Bool :=
  let done := decide (b.cells.length = b.fr.cells)
  let cut := decide (portInterval b.port ≤ portInterval out) && decide (1 ≤ b.cells.length) && decide (b.port ≠ 2) && decide (b.port ≠ 3)
  (done || cut) && decide (b.verdict ≠ .bad) &&
    (if isLane out then s.mayStart (laneOf out) b.fr transit &&
        (decide (b.fr.tc ≠ 0) || transit || (Tbl.getD s.swc.fifo (12 + out) []).isEmpty)
     else s.portUp out)

/-- A feed window frame of a local queue is on its way out of SW6 (R260). -/
def feedLeaves (s : State) (q : Nat) : Bool :=
  (Tbl.getD s.swc.fifo 6 []).any (fun x => match s.buf? x.1 with
    | some b => decide (s.bridgeQueue b.fr = q) && (match s.winOf b.fr.offset 1 with
      | some (.feed _) => true
      | _ => false)
    | none => false)

/-- What one FIFO path of an output may take in this slot (R149, R150, R152): the frame behind a feed window frame waits for it (R260). -/
def pathCands (s : State) (out path : Nat) (qs : List Nat) : List Cand :=
  if 4 ≤ (Tbl.getD s.swc.fifo path []).length then []
  else match Tbl.find? s.swc.sending path with
  | some x =>
    match s.buf? x.handle with
    | none => []
    | some b => if x.next < b.cells.length then [{ q := x.queue, h := x.handle, rank := 15, inp := b.port, path := path, idx := x.next }] else []
  | none => (qs.filter (fun q => decide (q < 192) || (decide (s.feedWaits q = 0) && !s.feedLeaves q))).filterMap (fun q =>
      let v := s.queue q
      let transit := !v.transit.isEmpty
      match (v.transit ++ v.loc).head? with
      | none => none
      | some h =>
        match s.buf? h, s.queueRank q transit with
        | some b, some r => if s.startable out b transit then some { q := q, h := h, rank := r, inp := b.port, path := path, idx := 0 } else none
        | _, _ => none)

/-- The candidates of an output in this slot: while SW0 or SW1 takes a TC0 frame, its cells alone (R152). -/
def cands (s : State) (out : Nat) : List Cand :=
  if s.swc.slot < s.swc.nextOut.getD out 0 ∨ 12 + out ∈ s.swc.deferred then []
  else if out ≤ 1 then
    s.pathCands out (12 + out) [16 * out] ++
      (if Tbl.has s.swc.sending (12 + out) then [] else s.pathCands out out ((List.range 15).map (fun c => 16 * out + c + 1)))
  else if out = 6 then s.pathCands 6 6 ((List.range 16).map (fun c => 96 + c) ++ (List.range 64).map (fun k => 192 + k))
  else s.pathCands out out ((List.range 16).map (fun c => 16 * out + c))

end State

/-- The element of a list with the highest score, the first of equals. -/
def bestBy {α : Type} (score : α → Nat) : List α → Option α
  | [] => none
  | a :: l => match bestBy score l with
    | none => some a
    | some b => if score b ≤ score a then some a else some b

/-- One iteration of the match (R149): grants by the inputs, accepts by the outputs. `cs` lists the candidates of the
outputs that are unmatched, from inputs that are unmatched. -/
def matchIter (cs : List (Nat × Cand)) (grantPtr acceptPtr : List Nat) : List (Nat × Nat) :=
  let rank (o i : Nat) : Nat := ((cs.filter (fun c => decide (c.1 = o) && decide (c.2.inp = i))).map (fun c => c.2.rank)).foldl max 0
  let dist (x ptr : Nat) : Nat := (x + 12 - ptr) % 12
  let grants := (List.range 12).filterMap (fun i =>
    let outs := ((cs.filter (fun c => decide (c.2.inp = i))).map (fun c => c.1)).eraseDups
    (bestBy (fun o => rank o i * 16 + (11 - dist o (grantPtr.getD i 0))) outs).map (fun o => (o, i)))
  (List.range 12).filterMap (fun o =>
    bestBy (fun p => rank o p.2 * 16 + (11 - dist p.2 (acceptPtr.getD o 0))) (grants.filter (fun g => decide (g.1 = o))))

namespace State

/-- A matched cell is taken (R150, R152, R175): credits, shaper, FIFO, queue. A frame too long for a host port is not sent (R92). A cell
with a double-bit error poisons its frame, and its copy, as every copy of the frame that starts later, ends bad (R130). [DEDUCED 55 unsafe] -/
def takeCell (s : State) (out : Nat) (c : Cand) (errs : List (Nat × Bool)) : State :=
  match s.buf? c.h with
  | none => s
  | some b =>
    let s := s.onSwc fun w => { w with
      nextOut := setAt w.nextOut out (w.slot + portInterval out), reqPtr := setAt w.reqPtr out ((c.q + 1) % 256) }
    let last := decide (c.idx + 1 = b.fr.cells)
    if c.q ∉ b.links then s
    else if c.idx = 0 ∧ (out = 2 ∨ out = 3) ∧ s.get F.Hx_CTL_MAXLEN (out - 2) < max 64 (b.fr.pay.length + 50) then
      ((s.unlinkQ c.q c.h).bump F.Hx_CNT_OVERSIZE (out - 2)).release c.h
    else
      let transit := decide (c.h ∈ (s.queue c.q).transit)
      let s := if c.idx = 0 then
          let s := if isLane out then s.spend (laneOf out) b.fr else s
          let s := if out ≤ 1 && transit then s else s.charge c.q b.fr
          if b.cells.length < b.fr.cells then s.bump F.SWn_CNT_CUT out else s
        else s
      let s := s.onSwc fun w => { w with
        sending := if last then Tbl.erase w.sending c.path else Tbl.put w.sending c.path { handle := c.h, queue := c.q, next := c.idx + 1 },
        fifo := Tbl.put w.fifo c.path (Tbl.getD w.fifo c.path [] ++ [(c.h, c.idx)]) }
      let s := if last then s.unlinkQ c.q c.h else s
      let s := match errs.find? (fun e => decide (some e.1 = b.cells[c.idx]?)) with
        | none => s
        | some (_, false) => s.bump F.SWC_CNT_CORR
        | some (n, true) =>
          (((s.bump F.SWC_CNT_UNCORR).set F.SWC_ECC_LAST_CELL 0 n).set F.SWC_ECC_LAST_SEEN 0 1).updBuf c.h (fun b => { b with poisoned := true })
      let fresh := errs.any (fun e => decide (some e.1 = b.cells[c.idx]?) && e.2)
      if fresh || (b.poisoned && decide (c.idx = 0)) then
        let s := s.endBad out c.h
        ((if last then s else s.unlinkQ c.q c.h)).release c.h
      else s

/-- The bank that a candidate's cell lies in (R129). [DEDUCED 55 unsafe] -/
def bankOf (s : State) (c : Cand) : Nat := (((s.buf? c.h).bind (fun b => b.cells[c.idx]?)).getD 0) % 16

/-- Mirik takes what SW7 delivers: a sample as SW9 sends it (R166), a management request that no rule gives a meaning is refused (R503), and
every other frame as its unit's. [DESIGN CHOICE 182 unsafe] -/
def deliverMgt (s : State) (f : Frame) : State :=
  if f.tt = .other 15 then
    let v : Verdict := if beAt f.pay 1 1 = 2 then .bad else .good
    s.onMgt fun m => { m with samples := m.samples ++ [(beAt f.pay 0 1, beAt f.pay 4 8, beAt f.pay 2 2, v, slice f.pay 12 64)] }
  else if f.tt = .mgt ∧ mgtPosted (mgtOp f) = none then s.answer 7 f { st := .ur }
  else s.deliver 7 f

/-- A copy's last cell leaves the FIFO (R87, R90, R142): the frame ends on its lane or port, or its unit has it; a local consumer discards a
poisoned frame (R130). [DEDUCED 50 safe, DESIGN CHOICE 198 unsafe] -/
def copyDone (s : State) (out h : Nat) : State :=
  match s.buf? h with
  | none => s
  | some b =>
    let (s, f) : State × Frame :=
      if isLane out then
        let (f, s) := s.outgoing (laneOf out) b
        (s.emit (.lane (laneOf out) f false (s.wire (laneOf out) f)), f)
      else if out ≤ 3 then (s.hostOut (out - 2) b.fr false, b.fr)
      else if b.poisoned then ((if out = 5 then s.bump F.EPO_CNT_BADDISC else s), b.fr)
      else if out = 7 then (s.deliverMgt b.fr, b.fr)
      else (s.deliver out b.fr, b.fr)
    (s.capture b.capOn out 1 (if b.poisoned && decide (5 ≤ out) then 6 else 0) (16 * out + b.fr.tc) f (b.headTime / 2 ^ 32)).release h

/-- The path has the line of its output (R82, R152): a TC0 frame takes it between two frames or after SUSP, and keeps it to its end. -/
def hasLine (s : State) (path : Nat) : Bool :=
  let out := path % 12
  if 1 < out then true
  else if 12 ≤ path then (s.lane (laneOf out)).txSusp || !s.midLine out
  else !(s.lane (laneOf out)).txSusp && !s.midLine (12 + out)

/-- A CRD word between the blocks of a cut-through frame, of the classes in turn (R148, R81). [DESIGN CHOICE 184 unsafe] -/
def fillWord (s : State) (out : Nat) : State :=
  let l := laneOf out
  let tc := (s.lane l).fillNext % 4
  let s := (s.emit (.word l 1 (tc * 2 ^ 18 + (s.lane l).grant.getD tc 0))).bump F.SWn_CNT_FILL out
  s.onLane l fun q => { q with fillNext := (tc + 1) % 4, fillSince := some (q.fillSince.getD s.up) }

/-- The next cell leaves the FIFO of a path, one in each port interval (R128, R146, R148, R150): the last one waits for the verdict, and a
ring egress fills. [DESIGN CHOICE 184 unsafe] -/
def drainPath (s : State) (path : Nat) : State :=
  let out := path % 12
  let fill (s : State) : State := if out ≤ 1 then s.fillWord out else s
  if s.swc.slot < s.swc.nextDrain.getD out 0 ∨ !s.hasLine path then s
  else match Tbl.getD s.swc.fifo path [] with
  | [] =>
    match Tbl.find? s.swc.sending path with
    | some x => if ((s.buf? x.handle).map (fun b => b.cells.length)).getD 0 ≤ x.next then fill s else s
    | none => s
  | (h, i) :: rest =>
    match s.buf? h with
    | none => s.onSwc fun w => { w with fifo := Tbl.put w.fifo path rest }
    | some b =>
      let last := decide (i + 1 = b.fr.cells)
      if last && decide (b.verdict = .pending) then fill s
      else
        let s := s.onSwc fun w => { w with fifo := Tbl.put w.fifo path rest, nextDrain := setAt w.nextDrain out (w.slot + portInterval out) }
        let s := if isLane out then s.onLane (laneOf out) (fun q => { q with fillSince := none }) else s
        if last then
          let s := s.copyDone out h
          if 12 ≤ path then s.resume out else s
        else s

/-- The oldest ring control frame of this hub that waits at a lane goes out in its class's turn (R96, R112, R119, R173). [DESIGN CHOICE 183 unsafe] -/
def sendCtl (s : State) (l : Lane) : State :=
  let out := l.ix
  match (s.lane l).ctlq with
  | [] => s
  | f :: rest =>
    let rival := (s.cands out).any (fun c => decide (s.classRank 2 < c.rank)) || !(s.queue (16 * out + 2)).transit.isEmpty
    if rival || s.midLine out || s.midLine (12 + out) || (s.lane l).txSusp || decide (s.swc.slot < s.swc.nextDrain.getD out 0)
        || !s.mayStart l f false || !s.sendsData l || (s.queueRank (16 * out + 2) false).isNone then s
    else
      let s := ((s.spend l f).charge (16 * out + 2) f).onSwc fun w => { w with nextDrain := setAt w.nextDrain out (w.slot + 10 * f.cells) }
      (s.onLane l fun q => { q with ctlq := rest }).laneOut l f

/-- Cell numbers that frames may have: those above are the bulk buffers' and, under the Full plan, the capture ring's (R133, R214). -/
def frameCells (s : State) : Nat := 65536 - (if s.flag F.SWC_PLAN_PLAN then 4096 else 0) - s.bulkCells

/-- A free cell for a frame, in a bank that no other write of this cycle uses (R129, Table 04-7). [DEDUCED 47 safe] -/
def freeCell (s : State) (h : Nat) (banks : List Nat) : Option Nat :=
  let n := s.frameCells
  let start := Config.allocStart (s.swc.slot + h)
  ((List.range n).map (fun k => (start + k) % n)).find? (fun n =>
    !Tbl.has s.swc.cellOwner n && !(banks.contains (n % 16)))

/-- The write cycle of one input: its oldest frame in reception gets its next cell (R135, R128); one that no copy needs leaves the buffer
with its last cell (R142). -/
def writeCell (s : State) (banks : List Nat) (port : Nat) : State × List Nat :=
  if s.swc.slot < s.swc.nextIn.getD port 0 then (s, banks)
  else
    let parked := if isLane port then (s.lane (laneOf port)).rxParked else none
    match s.swc.bufs.find? (fun p => decide (p.2.port = port) && decide (p.2.cells.length < p.2.fr.cells) && decide (some p.1 ≠ parked)
        && s.cellReady p.1 p.2) with
    | none => (s, banks)
    | some (h, b) =>
      match s.freeCell h banks with
      | none => (s, banks)
      | some n =>
        let done := decide (b.cells.length + 1 = b.fr.cells)
        let s := s.onSwc fun w => { w with cellOwner := Tbl.put w.cellOwner n h, nextIn := setAt w.nextIn port (w.slot + portInterval port) }
        let s := s.updBuf h (fun b => { b with cells := b.cells ++ [n], resv := if done then 0 else b.resv - 1 })
        (if done then s.release h else s, banks ++ [n % 16])

/-- The matches of one slot (R149 to R151): up to three iterations; only the first moves the pointers. -/
def matchSlot (s : State) (all : List (Nat × Cand)) : Nat → List (Nat × Nat) → List (Nat × Nat)
  | 0, m => m
  | n + 1, m =>
    let left := all.filter (fun c => !m.any (fun p => decide (p.1 = c.1) || decide (p.2 = c.2.inp)))
    matchSlot s all n (m ++ matchIter left s.swc.grantPtr s.swc.acceptPtr)

end State

/-- CELL_SLOT (R149): one slot of two core cycles: cells leave the FIFOs, the reads that waited for a bank are done (R153), inputs write
cells, the scheduler matches in up to three iterations and matched cells move. `errs` lists the cells whose read finds a single-bit (false)
or a double-bit (true) error. [DEDUCED 55 unsafe, DESIGN CHOICE 185 unsafe, DESIGN CHOICE 186 unsafe] -/
def execCellSlot (errs : List (Nat × Bool)) (s : State) : Out :=
  let s := s.onTmq fun t => { t with charged := [], chargedAt := s.up }
  let s := [12, 13, 0, 1, 2, 3, 4, 5, 6, 7, 8, 9, 10, 11].foldl (fun s p => s.drainPath p) s
  let s := (s.sendCtl .e).sendCtl .w
  let s := s.swc.late.foldl (fun s x => s.takeCell x.1 x.2 errs) s
  let all := (List.range 12).flatMap (fun o => ((s.cands o).filter (fun c => decide (c.inp ∉ s.swc.deferred))).map (fun c => (o, c)))
  let first := matchIter all s.swc.grantPtr s.swc.acceptPtr
  let pairs := s.matchSlot all 2 first
  let s := s.onSwc fun w => { w with
    grantPtr := first.foldl (fun g p => setAt g p.2 ((p.1 + 1) % 12)) w.grantPtr,
    acceptPtr := first.foldl (fun a p => setAt a p.1 ((p.2 + 1) % 12)) w.acceptPtr }
  let chosen := (List.range 12).filterMap (fun o =>
    (pairs.find? (fun p => decide (p.1 = o))).bind (fun p =>
      bestBy (fun c => c.rank * 1024 + (255 - (c.q + 256 - s.swc.reqPtr.getD o 0) % 256))
        ((all.filter (fun c => decide (c.1 = o) && decide (c.2.inp = p.2))).map (fun c => c.2))
      |>.map (fun c => (o, c))))
  let isLate (x : Nat × Cand) : Bool := chosen.any (fun y => decide (y.1 < x.1) && decide (s.bankOf y.2 = s.bankOf x.2))
  let late := chosen.filter isLate
  let s := (chosen.filter (fun x => !isLate x)).foldl (fun s x => s.takeCell x.1 x.2 errs) s
  let (s, _) := (List.range 12).foldl (fun (a : State × List Nat) p => a.1.writeCell a.2 p) (s, [])
  .next (s.onSwc fun w => { w with slot := w.slot + 1, late := late, deferred := late.flatMap (fun x => [x.2.inp, 12 + x.1]) })

/-- BUFFER_SCRUB (R131): one cell each 1 µs; `err` is 0, 1 or 2 for no, a single-bit or a double-bit error in it. A free
cell with a double-bit error is rewritten; a held one is left for R130. [DESIGN CHOICE 6 safe, DEDUCED 48 unsafe] -/
def execBufferScrub (err : Nat) (s : State) : Out :=
  let s := if err = 1 then s.bump F.SWC_CNT_CORR else s
  .next (s.onSwc fun w => { w with scrubAt := (w.scrubAt + 1) % 65536 })

/-- BUFFER_FILL_DONE (R132): the fill ends and admission begins; the internal credits are whole (R30). -/
def execBufferFillDone (s : State) : Out := .next (s.onSwc fun w => { w with ready := true, llUsed := [] })

/-- The frame that has waited longest for a local queue (R141). -/
def State.firstWaiter (s : State) (q : Nat) : Option Nat :=
  s.swc.waiters.find? (fun h => ((s.buf? h).map (fun b => decide (q ∈ b.waitLinks))).getD false)

/-- LOCAL_QUEUE_ROOM (R143): the frame that has waited longest for a queue is linked once the queue has room; one that is all-or-nothing
needs AON_LINK. -/
def execLocalQueueRoom (q : Nat) (s : State) : Out :=
  match (s.firstWaiter q).bind (fun h => (s.buf? h).map (fun b => (h, b))) with
  | none => .next s
  | some (h, b) =>
    if s.hasRoom q ∧ !b.aonWait then
      let left := b.waitLinks.erase q
      let s := (s.updBuf h (fun b => { b with waitLinks := left })).linkQ q h false
      .next (if left.isEmpty then s.onSwc fun w => { w with waiters := w.waiters.erase h } else s)
    else .next s

/-- AON_LINK (R157): a waiting all-or-nothing frame links all its local copies once every destination has room and no frame waits before
it; it links none once a destination is disabled or in reset. [DEDUCED 180 unsafe] -/
def execAonLink (h : Nat) (s : State) : Out :=
  match s.buf? h with
  | none => .next s
  | some b =>
    let done (s : State) : State :=
      (s.updBuf h (fun b => { b with waitLinks := [], aonWait := false })).onSwc fun w => { w with waiters := w.waiters.erase h }
    if !b.aonWait then .next s
    else if !b.waitLinks.all (fun q => s.portServes (State.portOfQ q)) then .next (((done s).bump F.SWC_CNT_AONREF).release h)
    else if b.waitLinks.all (fun q => s.hasRoom q && decide (s.firstWaiter q = some h)) then
      .next (b.waitLinks.foldl (fun s q => s.linkQ q h false) (done s))
    else .next s

/-- The frame in which a sample goes to SW7 (R166): port, verdict, length and head time, then cell 0. [DESIGN CHOICE 182 unsafe] -/
def sampleFrame (x : Sample) : Frame :=
  let cell := if x.verdict = .bad then zeros 64 else (x.fr.header ++ x.fr.pay ++ zeros 64).take 64
  let pay := be 1 x.port ++ be 1 (if x.verdict = .bad then 2 else 1) ++ be 2 x.fr.length ++ be 8 x.time ++ cell
  { tt := .other 15, tc := 15, pst := true, dst := 0xFF, addr := 0, len := pay.length, pay := pay }

/-- SAMPLE_SEND (R166): the oldest sample whose verdict is known goes to SW7 on TC15, or is refused by the policer of its key (R178) or under
R136. [DEDUCED 53 unsafe, DESIGN CHOICE 182 unsafe] -/
def execSampleSend (s : State) : Out :=
  match s.swc.samples.find? (fun x => decide (x.verdict ≠ .pending)) with
  | none => .next s
  | some x =>
    let f := sampleFrame x
    let h := s.rng.nextHandle
    let s := (s.onSwc fun w => { w with samples := w.samples.erase x }).onRng fun r => { r with nextHandle := h + 1 }
    let (pass, s) := (s.sampleHead 9 f h .good).police 9 f
    if !pass then .next s
    else if s.swc.ready && s.admits 127 15 then
      .next ((((s.enter h 9 f .shared .good false false []).linkQ 127 h false).capture s.capEn 9 0 0 127 f s.ns).bump F.SWC_SMP_CNT)
    else .next ((s.refuseHead 9 f).bump F.SWC_SMP_DROP)

/-- The capture ring is emptied, and TRIGGERED and STOPPED are cleared (R168). -/
def captureRestart (s : State) : State :=
  let s := s.onSwc fun w => { w with cap := [], capNext := 0, capOldest := 0, capCount := 0, capPost := none }
  (s.set F.SWC_CAP_STAT_TRIGGERED 0 0).set F.SWC_CAP_STAT_STOPPED 0 0

/-- A shaper's credit `c` after a tick (R175, R176, R182). [DEDUCED 49 unsafe] -/
def shaperTick (s : State) (q : Nat) (c : Int) : Int :=
  let rate : Int := s.get F.TMQ_SHP_CFG_RATE q
  let gust : Int := s.get F.TMQ_SHP_GUST_GUST q * 256
  let c := min c gust
  if (s.queueFrames q).isEmpty then min (c + rate) gust
  else if rate < c then c else min (c + rate) rate

/-- The changes of the traffic manager's words that a predicate names are in force (R182). -/
def State.inForceNow (s : State) (p : Nat → Bool) : State := s.onTmq fun t => { t with held := t.held.filter (fun e => !p e.1) }

/-- A queue's credit at a tick (R175, R176, R182): one that a slot of the same cycle charged takes the tick first; one whose shaper does not
act is clipped to its GUST. [DESIGN CHOICE 186 unsafe] -/
def tickShaper (s : State) (q : Nat) : State :=
  let late : Int := if s.tmq.chargedAt = s.up then (Tbl.getD s.tmq.charged q 0 : Nat) else 0
  let c := s.shpCredit q
  if s.shaped q then s.onTmq fun m => { m with shp := Tbl.put m.shp q (shaperTick s q (c + late) - late) }
  else if Tbl.has s.tmq.shp q then s.onTmq fun m => { m with shp := Tbl.put m.shp q (min c (s.get F.TMQ_SHP_GUST_GUST q * 256 : Nat)) }
  else s

/-- SHAPER_TICK (R175, R182): changes of shapers are in force, and every shaper that acts gains one tick's credit under its cap. -/
def execShaperTick (s : State) : Out :=
  .next ((List.range 256).foldl tickShaper (s.inForceNow (fun k => decide (k % 2 ^ 24 = 0x30014) || decide (k % 2 ^ 24 = 0x30018))))

/-- POLICER_TICK (R179, R182): changes of policers are in force, every policer below its BURST gains one tick's credit, and none
exceeds it. -/
def execPolicerTick (s : State) : Out :=
  let s := s.inForceNow (fun k => decide (k % 2 ^ 24 = 0x30024) || decide (k % 2 ^ 24 = 0x30028))
  .next (s.onTmq fun t => { t with
    pol := t.pol.map (fun p => (p.1, min (p.2 + s.get F.TMQ_POL_CFG_RATE p.1) (s.get F.TMQ_POL_BURST_BURST p.1 * 256))) })

/-- A word of a shaper or a policer that a tick puts in force (R182), by key. [DEDUCED 187 unsafe] -/
def tickWord (k : Nat) : Bool :=
  decide (k % 2 ^ 24 = 0x30014) || decide (k % 2 ^ 24 = 0x30018) || decide (k % 2 ^ 24 = 0x30024) || decide (k % 2 ^ 24 = 0x30028)

/-- The words of shapers and policers change from those of `s` to those of `t` at the next tick, and the credits are kept (R182). [DEDUCED 187 unsafe] -/
def State.retime (s t : State) : State :=
  ((s.regs ++ s.imgRegs ++ t.regs ++ t.imgRegs).map (fun p => p.1)).foldl (fun t k =>
    let start : Word := if k % 2 ^ 24 = 0x30028 then F.TMQ_POL_BURST_BURST.start else 0
    if tickWord k ∧ s.word k start ≠ t.word k start ∧ !Tbl.has t.tmq.held k then
      let n := k / 2 ^ 24
      t.onTmq fun m => if k % 2 ^ 24 < 0x30020 then { m with held := Tbl.put m.held k (s.word k start), shp := Tbl.put m.shp n (s.shpCredit n) }
        else { m with held := Tbl.put m.held k (s.word k start), pol := Tbl.put m.pol n (s.polCredit n) }
    else t) t

/-- ALLOC of a run-time policer (R181): the status for a non-posted write, and the state. [DEDUCED 68 unsafe] -/
def policerAlloc (key : Nat) (s : State) : Status × State :=
  let res (s : State) (i r : Nat) : State := (s.set F.TMQ_POL_RES_INDEX 0 i).set F.TMQ_POL_RES_RESULT 0 r
  let old := s.get F.TMQ_POL_RES_INDEX
  if 0x354 ≤ key then (.ok, res s old 4)
  else if s.flag F.TMQ_PMAP_DATA_VALID key then (.ok, res s old 2)
  else
    let p := s.tmq.imagePolicers
    match Tbl.firstFree s.tmq.runtime p (1024 - p) with
    | none => (.nores, (res s old 1).bump F.TMQ_CNT_EXH)
    | some i =>
      let s := s.onTmq fun t => { t with runtime := Tbl.put t.runtime i (), pol := Tbl.put t.pol i (2048 * 256) }
      let s := (s.set F.TMQ_PMAP_DATA_POLICER key i).set F.TMQ_PMAP_DATA_VALID key 1
      let s := ((s.set F.TMQ_POL_CFG_RATE i 0).set F.TMQ_POL_CFG_EN i 0).set F.TMQ_POL_BURST_BURST i 2048
      let s := s.inForceNow (fun k => tickWord k && decide (0x30020 < k % 2 ^ 24) && decide (k / 2 ^ 24 = i))
      (.ok, res ((s.set F.TMQ_POL_CFG_RUNTIME i 1).set F.TMQ_POL_CFG_USED i 1) i 0)

/-- Unmap those of the keys that a policer has (R181). -/
def State.unmapKeys (s : State) (i : Nat) (ks : List Nat) : State :=
  ks.foldl (fun s k =>
    if s.flag F.TMQ_PMAP_DATA_VALID k ∧ s.get F.TMQ_PMAP_DATA_POLICER k = i then s.set F.TMQ_PMAP_DATA_VALID k 0 else s) s

/-- FREE of a run-time policer (R181): every key of it is unmapped. -/
def policerFree (i : Nat) (s : State) : State :=
  if Tbl.has s.tmq.runtime i then
    let s := s.onTmq fun t => { t with runtime := Tbl.erase t.runtime i, pol := Tbl.erase t.pol i }
    let s := s.unmapKeys i (List.range 0x354)
    ((s.set F.TMQ_POL_CFG_RUNTIME i 0).set F.TMQ_POL_CFG_USED i 0).set F.TMQ_POL_RES_RESULT 0 0
  else s.set F.TMQ_POL_RES_RESULT 0 3

end Sys2Proof.Machine
end

