-- ==== Sys2Proof/Machine/Image.lean ====
section
/-! DEFINITION. The structure image (chapter 13): loading, staging, ring-wide mode changes and the settings store. -/
namespace Sys2Proof.Machine

namespace State

/-- A record for the historian stamped with fabric time now. -/
def recNow (s : State) (producer : Nat) (r : HistRec) : State :=
  if s.passive then s else s.record producer { r with src := s.hubNum, sec := s.sec, ns := s.nsec }

/-- At the power warning, and as a reset prelude starts, the historian starts no further program or erase and notes the last
local number that it accepted (R536). -/
def hstWarn (s : State) : State :=
  let s := { s with hst := { s.hst with warned := true } }
  if s.flag F.HST_CFG_EN then s.setInc fun r => { r with last := s.hst.next - 1 } else s

/-- Request a reset of level 1 or 2 (R478, R479, R481): its prelude begins, in which an active twin declares failure; one of the
same or a shallower level than a reset in progress is dropped. -/
def requestReset (s : State) (level cause : Nat) : State :=
  let go := match s.ckr.prelude with
    | none => true
    | some (l, _) => decide (level < l)
  if go then ({ s with ckr := { s.ckr with prelude := some (level, cause), preludeAt := s.up } }.hstWarn).declareFail 4 else s

/-- The previous slot of each pending update becomes active again; both flags and ATT clear (R517). -/
def restoreSlots (s : State) (cause : Nat) : State :=
  let s := s.setBoot fun r => { r with fwSlot := if r.fwPend then 1 - r.fwSlot else r.fwSlot,
                                       imgSlot := if r.imgPend then 1 - r.imgSlot else r.imgSlot, fwPend := false, imgPend := false, att := 0 }
  (((s.onMgt fun m => { m with updAt := none }).set F.MGT_UPD_STAT_FALLBACK 0 1).showUpdates).note 0x12 18 [cause]

/-- A load is to begin (R397): staging closes, the pins lose their functions, and a hub that is alone at its position leaves the
ring. -/
def beginLoad (s : State) : State :=
  let s := (s.set F.IMG_STAT_STATE 0 1).set F.IMG_STG_STAT_OPEN 0 0
  let s := s.onImg fun g => { g with loaded := false, hash := [], verified := false }
  let s := s.onFpn fun f => { admitted := f.admitted }
  if s.flag F.TWN_CFG_TWIN && s.standby then s else s.insertWrite false

/-- Mirik falls back (R517): a firmware fall-back restarts the hub; one of the image alone reloads the old slot. -/
def fallBack (s : State) (cause : Nat) : State :=
  let fw := s.boot.fwPend
  let s := s.restoreSlots cause
  if fw then s.requestReset 2 4 else s.beginLoad

/-! ### Registers that an image or an overlay gives -/

/-- The registers take the image's words: every field whose Reset is img, and every field that a triple set (R562, Table 21-2). -/
def patchRegs (s : State) (img : Map Word) (set : Map Nat) : State :=
  let one (p : Nat × Word) : Nat × Word := match regRow? (p.1 % 2 ^ 24) with
    | none => p
    | some r =>
      let m := r.mask (fun f => decide (f.src = .img)) ||| Tbl.getD set p.1 0
      (p.1, BitVec.ofNat 32 (mergeBits p.2.toNat m (((Tbl.find? img p.1).map (fun w => w.toNat)).getD r.start)))
  { s with regs := s.regs.map one, imgRegs := img }

/-- The fields of Table 13-6 take the values of a set of image words (R395); those of shapers and policers from the next tick on (R182). -/
def patchOverlay (s : State) (img : Map Word) : State :=
  let one (p : Nat × Word) : Nat × Word := match regRow? (p.1 % 2 ^ 24) with
    | none => p
    | some r =>
      (p.1, BitVec.ofNat 32 (mergeBits p.2.toNat (ovlMask s.tmq.imagePolicers p.1) (((Tbl.find? img p.1).map (fun w => w.toNat)).getD r.start)))
  s.retime { s with regs := s.regs.map one, imgRegs := img }

/-- The base image in force, as a loader sees it. -/
def baseLoader (s : State) : Loader :=
  { t := { imgRegs := s.img.baseRegs, img := { schedBase := s.img.schedBase, sched := s.img.schedBase, hash := s.img.hash },
           tmq := { imagePolicers := s.tmq.imagePolicers }, epo := { objs := s.epo.objs } } }

/-- The poll entries under new bounds (R332). -/
def clipPolls (s : State) : State :=
  (List.range 512).foldl (fun s e =>
    if s.flag F.BRG_PL_CFG_EN e then
      let i := clampN (s.get F.BRG_PL_INT_IMIN e) (s.get F.BRG_PL_INT_IMAX e) (s.get F.BRG_PL_STAT_I e)
      let p := s.pollOf e
      let due := p.start + i * 1000000
      let s := (s.set F.BRG_PL_STAT_I e i).setPoll e { p with due := due }
      if due ≤ s.up then s.pollDue e due else s.set F.BRG_PL_STAT_DUE e 0
    else s) s

/-- An entry of the mode table. -/
def modeOf (s : State) (m : Nat) : Option ModeEntry := s.img.modes.find? (fun e => decide (e.num = m))

/-- The current mode becomes `m`: base values with its overlay on top (R395, R402); base values alone where the mode has none
or its overlay is absent. -/
def applyMode (s : State) (m : Nat) : State :=
  let ovl := (s.modeOf m).bind (fun e => if e.ovl < 16 ∧ bit (s.get F.IMG_OVSTAT_PRESENT) e.ovl then some e.ovl else none)
  let d := (ovl.bind (fun k => s.applyOvl s.baseLoader (s.get F.IMG_STAT_SLOT) k)).getD s.baseLoader
  let s := (s.patchOverlay d.t.imgRegs).onImg fun g => { g with sched := d.t.img.sched }
  let s := (s.set F.IMG_MODE_MODE 0 m).set F.IMG_MODE_OVL 0 (ovl.getD 31)
  (s.setB F.MGT_STAT_MAINT 0 (match s.modeOf m with
    | some e => e.maint
    | none => false)).clipPolls

/-! ### Settings (R406, R407) -/

/-- Where a settings area begins (Table 13-1). -/
def areaAt (k : Nat) : Nat := if k = 0 then 0x700000 else 0x720000

/-- A valid settings record: sequence, base hash, mode and entries (offset and masked value). -/
structure SetRec where
  seq : Nat
  hash : List Byte
  mode : Nat
  entries : List (Nat × Nat)
  deriving DecidableEq, Repr

/-- The record of a settings area, if its CRC is valid. [DEDUCED 124 unsafe] -/
def settingsOf (s : State) (k : Nat) : Option SetRec :=
  let a := areaAt k
  let n := Mem.num s.nvm (a + 57) 2
  if Mem.num s.nvm a 4 ≠ 0x42535431 ∨ 256 < n then none
  else
    let l := Mem.readN s.nvm a (64 + 8 * n)
    if Mem.num s.nvm (a + 64 + 8 * n) 4 ≠ crc32 l then none
    else some { seq := beAt l 4 4, hash := slice l 8 48, mode := beAt l 56 1,
                entries := (List.range n).map (fun i => (beAt l (64 + 8 * i) 4, beAt l (68 + 8 * i) 4)) }

/-- The bytes of a settings record (R406). -/
def SetRec.bytes (r : SetRec) : List Byte :=
  let l := be 4 0x42535431 ++ be 4 r.seq ++ slice r.hash 0 48 ++ be 1 r.mode ++ be 2 r.entries.length ++ zeros 5
    ++ r.entries.flatMap (fun e => be 4 e.1 ++ be 4 e.2)
  l ++ be 4 (crc32 l)

/-- The highest sequence of a valid settings record; 0 for none. -/
def settingsSeq (s : State) : Nat := max ((s.settingsOf 0).map (fun r => r.seq) |>.getD 0) ((s.settingsOf 1).map (fun r => r.seq) |>.getD 0)

/-- The area to use with a base image: the higher sequence among the valid records of that image. -/
def settingsArea (s : State) (hash : List Byte) : Option (Nat × SetRec) :=
  let pick (k : Nat) : Option SetRec := (s.settingsOf k).bind (fun r => if r.hash = hash then some r else none)
  match pick 0, pick 1 with
  | some a, some b => if a.seq < b.seq then some (1, b) else some (0, a)
  | some a, none => some (0, a)
  | none, some b => some (1, b)
  | none, none => none

/-- The key of a register that a setting names, with the index registers as they stand. [DEDUCED 124 unsafe] -/
def settingKey (s : State) (off : Nat) : Option Nat :=
  (regRow? off).map (fun r => regKey (fun o => (Tbl.getD s.regs o 0).toNat) r off)

/-- Apply the entries of a settings record to the registers of the blocks that `p` admits; entries whose offset the SETLIST does
not name are counted. -/
def applyEntries (s : State) (r : SetRec) (p : Nat → Bool) : State × Nat :=
  r.entries.foldl (fun (a : State × Nat) e =>
    match s.img.setlist.find? (fun x => decide (x.1 = e.1)) with
    | none => (a.1, a.2 + 1)
    | some x =>
      match s.settingKey e.1, regRow? e.1 with
      | some key, some row =>
        if p (e.1 / 2 ^ 16) then
          (a.1.setWord key (BitVec.ofNat 32 (mergeBits (a.1.word key (BitVec.ofNat 32 row.start)).toNat x.2 e.2)), a.2)
        else a
      | _, _ => a) (s, 0)

/-- SETTINGS_APPLY at a load (R407). [DEDUCED 124 unsafe] -/
def applySettings (s : State) : State × Option Nat :=
  match s.settingsArea s.img.hash with
  | none => ((s.set F.IMG_SET_STAT_VALID 0 0).set F.IMG_SET_STAT_SKIPPED 0 0, none)
  | some (k, r) =>
    let (s, n) := s.applyEntries r (fun _ => true)
    (((s.set F.IMG_SET_STAT_VALID 0 1).set F.IMG_SET_STAT_AREA 0 k).set F.IMG_SET_STAT_SKIPPED 0 (min 255 n), some r.mode)

/-! ### Loading (R392 to R396) -/

/-- BANK_CHECK (R217): each bank's declared voltage against its supply, 1 for 1.8 V and 2 for 3.3 V. -/
def bankCheck (s : State) (vio : List Nat) : State :=
  (List.range 8).foldl (fun s b =>
    let ok := decide (vio.getD b 0 = s.get F.FPN_BANK_CFG_VSEL b + 1)
    let en := s.flag F.FPN_BANK_CFG_EN b
    let s := (s.setB F.FPN_BANK_CFG_VOK b ok).onFpn fun f => { f with admitted := setAt f.admitted b (ok && en) }
    if en && !ok then (s.set F.FPN_BANK_CFG_VERR b 1).note 0x39 5 [b] else s) s

/-- The mode that a load enters: the stored one if it may be a startup mode, and DEFMODE otherwise (R396). -/
def startMode (s : State) (stored : Option Nat) : Nat :=
  match stored.bind (fun m => (s.modeOf m).bind (fun e => if e.startup then some m else none)) with
  | some m => m
  | none => s.get F.HUB_NODE_DEFMODE

/-- The overlays of a slot that are present and valid (IMG.OVSTAT). -/
def ovlPresent (s : State) (d : Loader) (slot : Nat) : Nat :=
  (List.range 16).foldl (fun a k => if s.checkOvl d slot k = 0 then a + 2 ^ k else a) 0

/-- Load a base image that passed its checks (R394). A load of a base image other than the one before a warm reset, or one that
no warm reset began, clears the reflex engine (R382). [DEDUCED 125 unsafe] -/
def loadImage (s : State) (slot : Nat) (d : Loader) (vio : List Nat) : State :=
  let t := d.t
  let present := s.ovlPresent d slot
  let used := (List.range 16).foldl (fun a k => if t.img.modes.any (fun m => decide (m.ovl = k)) then a + 2 ^ k else a) 0
  let kept := decide (s.img.hash = t.img.hash)
  let openKey := s.cry.fuse.imgkey.all (fun k => k.isNone)
  let s := s.resetSwc.patchRegs t.imgRegs d.set
  let s := s.onImg fun g => { t.img with loaded := true, loadedAt := s.up, baseRegs := t.imgRegs, opCount := g.opCount, change := g.change, resolved := g.resolved }
  let s := if kept then s else rfxClear s
  let s := { s with epo := { objs := s.freshObjs t.epo.objs, subs := t.epo.subs, lists := t.epo.lists }, can := { objs := t.can.objs },
                    tmq := { imagePolicers := t.tmq.imagePolicers }, phs := [],
                    rfx := { s.rfx with holds := [], fresh := true }, pio := { imem := t.pio.imem },
                    fpn := { admitted := s.fpn.admitted } }
  let s := (s.set F.IMG_OVSTAT_PRESENT 0 present).set F.IMG_OVSTAT_USED 0 used
  let s := (s.set F.IMG_STAT_SLOT 0 slot).setB F.IMG_STAT_OPENKEY 0 openKey
  let (s, stored) := s.applySettings
  let s := s.applyMode (s.startMode stored)
  let s := (s.bankCheck vio).set F.IMG_STAT_STATE 0 3
  let s := [5, 6, 7, 8, 14, 19].foldl (fun s b => s.startBlock b) s
  let s := if s.isTwin ∧ s.laneState .t = 0 then s.set F.Lx_LSTAT_STATE 4 1 else s
  let s := ((s.set F.MGT_STAT_DOLD 0 0).set F.MGT_STAT_DSRC 0 0).note 0x11 13 [slot, 0]
  if openKey then s.note 0x36 13 [0] else s

/-- A base image is rejected (R393). [DEDUCED 125 unsafe] -/
def rejectImage (s : State) (slot reason : Nat) : State :=
  let s := ((s.set F.IMG_STAT_STATE 0 4).set F.IMG_STAT_REASON 0 reason).bump F.IMG_CNT_REJECT
  s.note 0x11 13 [slot, reason]

/-- DOLDRUMS_ENTRY (R519): 1 for the ROM, 2 for the firmware. [DEDUCED 125 unsafe] -/
def enterDoldrums (s : State) (dsrc : Nat) : State :=
  let phy := s.boot.phy
  let s := (s.set F.MGT_STAT_DOLD 0 1).set F.MGT_STAT_DSRC 0 dsrc
  let s := (s.set F.Hx_CTL_PHY 0 (phy % 4)).set F.Hx_CTL_PHY 1 (phy / 4 % 4)
  s.note 0x14 18 [dsrc]

/-! ### Activating a staged set (R397, R515) -/

/-- At ACTIVATE Mirik keeps the settings in two formats (R516): those of the current record that the new SETLIST names go into the
area that does not hold that record. [DEDUCED 125 unsafe] -/
def convertSettings (s : State) (new : Loader) : State :=
  match s.settingsArea s.img.hash with
  | none => s
  | some (k, r) =>
    let es := new.t.img.setlist.filterMap (fun x => (r.entries.find? (fun e => decide (e.1 = x.1))).map (fun e => (x.1, e.2 &&& x.2)))
    let rec' : SetRec := { seq := s.settingsSeq + 1, hash := new.t.img.hash, mode := r.mode, entries := es }
    { s with nvm := Mem.writeN s.nvm (areaAt (1 - k)) rec'.bytes }.set F.IMG_SET_STAT_AREA 0 (1 - k)

/-- The staged slot becomes active and a load begins (R397, R515). [DEDUCED 126 unsafe] -/
def activateNow (s : State) : State :=
  let k := 1 - s.boot.imgSlot
  let s := match s.applyBase k with
    | some d => s.convertSettings d
    | none => s
  let s := (s.setBoot fun r => { r with imgSlot := k, imgPend := true, att := 0 }).showUpdates
  let s := s.onMgt fun m => { m with updAt := some s.up, veer := none }
  s.beginLoad

end State

/-- IMAGE_LOAD (R393, R394, R517 to R519): the base image of the active slot is checked and loaded; one that is rejected makes Mirik fall
back from a pending update, or try the other slot, and with neither the hub enters doldrums mode. An activation that waited for a
veer goes on once the hub is standby (R397), and a frame that a packer has started finishes first (R165). `vio` shows the bank supplies: 0 absent, 1 for 1.8 V, 2 for 3.3 V. -/
def execImageLoad (vio : List Nat) (s : State) : Out :=
  let s := if s.mgt.veer = some .activate ∧ s.standby then s.activateNow else s
  if 3 ≤ s.get F.IMG_STAT_STATE ∨ s.get F.MGT_STAT_DSRC = 1 ∨ s.packerBusy then .next s
  else
    let k := s.boot.imgSlot
    match s.checkBase k true with
    | (_, some d) => .next (s.loadImage k d vio)
    | (r, none) =>
      let s := s.rejectImage k r
      if s.boot.imgPend then .next (s.fallBack 2)
      else match s.checkBase (1 - k) true with
        | (_, some d) =>
          let s := ((s.setBoot fun b => { b with imgSlot := 1 - k }).showUpdates).note 0x10 18 [1 - k]
          .next (s.loadImage (1 - k) d vio)
        | (r, none) => .next ((s.rejectImage (1 - k) r).enterDoldrums 2)

/-! ### Staging (R385, R397, R398) -/

namespace State

/-- A staging command runs (IMG.STG_STAT.RUNNING). -/
def staging (s : State) : Bool := s.img.running.isSome

/-- Show the result of a staging command. -/
def stgResult (s : State) (result reason : Nat) : State := (s.set F.IMG_STG_STAT_RESULT 0 result).set F.IMG_STG_STAT_REASON 0 reason

/-- The inactive image slot. -/
def stagedSlot (s : State) : Nat := 1 - s.boot.imgSlot

end State

/-- OPEN: the inactive slot is erased and staging opens. -/
def stagingOpen (s : State) : State.Res × State :=
  if s.staging then ({ st := .busy }, s)
  else
    let s := { s with nvm := Mem.clear s.nvm (slotAt s.stagedSlot) 0x280000 }
    ({}, (s.set F.IMG_STG_STAT_OPEN 0 1).onImg fun g => { g with verified := false, running := some (1, 0) })

/-- CLOSE. [DEDUCED 120 unsafe] -/
def stagingClose (s : State) : State.Res × State :=
  if s.staging then ({ st := .busy }, s) else ({}, (s.set F.IMG_STG_STAT_OPEN 0 0).stgResult 0 0)

/-- VERIFY begins. [DEDUCED 120 unsafe] -/
def stagingVerify (s : State) : State.Res × State :=
  if s.staging then ({ st := .busy }, s) else ({}, s.onImg fun g => { g with running := some (3, 0) })

/-- ACTIVATE: refused with BUSY while a mode change is armed; it needs a VERIFY of OK. An active twin with a healthy partner
veers first. [DEDUCED 120 unsafe, DEDUCED 126 unsafe] -/
def stagingActivate (s : State) : State.Res × State :=
  if s.staging || s.img.arm.isSome then ({ st := .busy }, s.stgResult 2 0)
  else if !s.img.verified then ({}, s.stgResult 3 0)
  else if s.activeTwin && s.healthy then ({}, (s.stgResult 0 0).requestVeer.onMgt fun m => { m with veer := some .activate })
  else ({}, (s.stgResult 0 0).activateNow)

/-- OVCOPY k (R398). -/
def stagingOvcopy (k : Nat) (s : State) : State.Res × State :=
  let inUse (m : Nat) : Bool := match s.modeOf m with
    | some e => decide (e.ovl = k)
    | none => false
  if s.staging then ({ st := .busy }, s)
  else if decide (s.get F.IMG_MODE_OVL = k) || (match s.img.arm with
      | some a => inUse a.mode
      | none => false) then ({}, s.stgResult 2 0)
  else
    let r := s.checkOvl s.baseLoader s.stagedSlot k
    if r ≠ 0 then ({}, s.stgResult 1 r)
    else
      let a := s.get F.IMG_STAT_SLOT
      let data := Mem.readN s.nvm (ovlAt s.stagedSlot k) (imgHdr s.nvm (ovlAt s.stagedSlot k)).len
      let s := { s with nvm := Mem.writeN s.nvm (ovlAt a k) data }
      ({}, (s.set F.IMG_OVSTAT_PRESENT 0 (setBit (s.get F.IMG_OVSTAT_PRESENT) k true)).stgResult 0 0)

/-- A write of IMG.STG_CTL. -/
def stgCtl (w : Nat) (s : State) : State.Res × State :=
  match w % 8 with
  | 1 => stagingOpen s
  | 2 => stagingClose s
  | 3 => stagingVerify s
  | 4 => stagingActivate s
  | 5 => stagingOvcopy (bits w 6 3) s
  | _ => ({}, s)


/-- STAGING_COMMAND_DONE (R397): the erase of OPEN or a VERIFY ends. -/
def execStagingCommandDone (s : State) : Out :=
  match s.img.running with
  | none => .next s
  | some (op, dirty) =>
    let s := s.onImg fun g => { g with running := none }
    if op = 3 then
      let r := (s.checkBase s.stagedSlot true).1
      let s := s.onImg fun g => { g with verified := decide (r = 0) && decide (dirty = 0) }
      .next (s.stgResult (if r = 0 then 0 else 1) r)
    else .next (s.stgResult 0 0)

/-- A write into space 0x7 (R385): BUSY unless staging is open; it undoes a VERIFY. -/
def stagingWrite (off : Nat) (data : List Byte) (s : State) : State.Res × State :=
  if !s.flag F.IMG_STG_STAT_OPEN then ({ st := .busy }, s)
  else
    let s := { s with nvm := Mem.writeN s.nvm (slotAt s.stagedSlot + off) data }
    ({}, s.onImg fun g => { g with verified := false, running := g.running.map (fun r => (r.1, 1)) })

/-! ### Ring-wide mode changes (R399 to R404) -/

namespace State

/-- Send a message of Table 13-9. [DESIGN CHOICE 122 unsafe] -/
def sendMode (s : State) (op dst : Nat) (body : List Byte) : State :=
  s.sendPosted 5 { tt := .mgt, tc := 2, dst := dst, init := 5, len := 2 + body.length, pay := be 1 op ++ [0] ++ body,
                   addr := if dst = 0xFE then fabAddr 0xFE 0xF (0xFFE * 2 ^ 24) else fabAddr dst 0xF 0 }

/-- Fabric time in ns. -/
def fabNs (s : State) : Nat := s.ns

/-- The fields of an instant: WHEN, owner hub, owner reference, 48-bit seconds, and nanoseconds or X. [DESIGN CHOICE 122 unsafe] -/
def whenBytes (w : When) : List Byte :=
  match w with
  | .time n => [0, 0, 0] ++ be 6 (n / 10 ^ 9) ++ be 4 (n % 10 ^ 9)
  | .phase h r x => [1] ++ be 1 h ++ be 1 r ++ zeros 6 ++ be 4 x

/-- The instant that a message carries from byte i on. [DESIGN CHOICE 122 unsafe] -/
def whenAt (p : List Byte) (i : Nat) : When :=
  if bit (beAt p i 1) 0 then .phase (beAt p (i + 1) 1) (beAt p (i + 2) 1 % 8) (beAt p (i + 9) 4)
  else .time (State.timeOf (beAt p (i + 3) 6) (beAt p (i + 9) 4))

/-- The enabled local reference that an owner reference owns or feeds (Table 13-10, check 4). -/
def localRef (s : State) (hub ref : Nat) : Option Nat :=
  (List.range 8).find? (fun k => s.refOn k &&
    (if s.get F.PHn_CFG_SRC k = 4 then decide (s.get F.PHn_SRC_A k = hub) && decide (s.get F.PHn_SRC_B k % 8 = ref)
     else decide (hub = s.hubNum) && decide (k = ref)))

/-- The estimated fabric time in ns at which a reference reaches a value (R401). [DEDUCED 123 unsafe] -/
def phaseEstimate (s : State) (k x : Nat) : Nat :=
  ((s.ns : Int) + sdiff 32 x (s.phaseNow k) * (s.ref k).test / 65536).toNat

/-- The current mode. -/
def mode (s : State) : Nat := s.get F.IMG_MODE_MODE

/-- The mode epoch. -/
def epoch (s : State) : Nat := s.get F.IMG_MODE_EPOCH

/-- Send MODESTAT (R399). [DESIGN CHOICE 122 unsafe] -/
def sendModestat (s : State) : State :=
  (s.sendMode 0x37 0xFE (be 1 s.mode ++ [0] ++ be 2 s.epoch)).onImg fun g => { g with statAt := some s.up }

/-- The instant of a mode change is reached at this hub (R357, R402). [DEDUCED 109 unsafe, DEDUCED 123 unsafe] -/
def modeReached (s : State) (a : Arm) : Bool :=
  match a.at_ with
  | .time n => decide (n ≤ s.ns)
  | .phase _ _ x => decide (0 ≤ sdiff 32 (s.phaseNow a.ph) x)

/-- Switch to the armed mode (R402): the epoch rises, the change is counted, recorded and logged, and the master tells the ring. -/
def switchMode (s : State) (a : Arm) : State :=
  let prev := s.mode
  let s := (s.applyMode a.mode).onImg fun g => { g with arm := none }
  let s := (s.set F.IMG_MODE_EPOCH 0 (s.epoch + 1)).bump F.IMG_CNT_MODECHG
  let s := s.recNow 2 { kind := 3, aux := prev, index := a.mode, seq2 := s.epoch, data := a.opid * 2 ^ 48 }
  let s := s.note 0x33 13 [prev, a.mode]
  if s.master then s.sendModestat else s

/-- Every member position, and both twins of each pair, have answered ARMED. -/
def allArmed (s : State) (c : ModeChange) : Bool :=
  let ok (h : Nat) (sb : Bool) : Bool := c.acks.any (fun a => decide (a.1 = h) && decide (a.2.1 = sb) && decide (a.2.2 = 0))
  s.rng.members.all (fun m => ok m.hub false && (!m.twin || ok m.hub true))

/-- The first veto, or the first position that has not answered, with its reason. -/
def firstVeto (s : State) (c : ModeChange) : Nat × Nat :=
  match c.acks.find? (fun a => decide (a.2.2 ≠ 0)) with
  | some a => (a.1, a.2.2)
  | none =>
    let has (h : Nat) (sb : Bool) : Bool := c.acks.any (fun a => decide (a.1 = h) && decide (a.2.1 = sb))
    match s.rng.members.find? (fun m => !(has m.hub false && (!m.twin || has m.hub true))) with
    | some m => (m.hub, 6)
    | none => (0, 0)

/-- The master resolves its mode change (R401). [DEDUCED 121 unsafe] -/
def resolveMode (s : State) (c : ModeChange) : State :=
  let go := s.allArmed c
  let s := s.onImg fun g => { g with change := none, resolved := some (c.opid, go) }
  let (h, r) := s.firstVeto c
  if go then (s.sendMode 0x33 0xFE (be 2 c.opid)).sendMode 0x35 c.reqHub [0, 0, 0]
  else (s.sendMode 0x34 0xFE (be 2 c.opid ++ be 1 h ++ be 1 r)).sendMode 0x35 c.reqHub ([1] ++ be 1 h ++ be 1 r)

/-- The first check of Table 13-10 that fails, 0 if none; and the local reference of a phase instant. [DEDUCED 123 unsafe] -/
def armCheck (s : State) (mode : Nat) (w : When) (deadline : Nat) : Nat × Nat :=
  let guard := s.get F.IMG_MC_CFG_GUARD * 1000000
  match s.modeOf mode with
  | none => (1, 0)
  | some e =>
    if e.ovl < 16 ∧ !bit (s.get F.IMG_OVSTAT_PRESENT) e.ovl then (2, 0)
    else if s.img.arm.isSome ∨ s.get F.IMG_STAT_STATE ≠ 3 ∨ s.mgt.veer = some .activate then (3, 0)
    else match w with
      | .time n => if !s.timeLocked then (4, 0) else if n < deadline + guard then (5, 0) else (0, 0)
      | .phase h r x =>
        match s.localRef h r with
        | none => (4, 0)
        | some k =>
          if !s.phLock k then (4, 0)
          else if s.phaseEstimate k x < deadline + guard then (5, 0) else (0, k)

end State

/-- A write of IMG.MC_CTL (R400): REQ sends MODEREQ to the master; BUSY while a request is pending. -/
def mcCtl (w : Nat) (s : State) : State.Res × State :=
  if bit w 31 && s.flag F.IMG_MC_STAT_PEND then ({ st := .busy }, s)
  else
    let s := s.setWord 0xD001C (BitVec.ofNat 32 (w % 2 ^ 17))
    if bit w 31 then
      let inst : When := if bit w 5 then .phase (bits w 13 6) (bits w 16 14) (s.get F.IMG_MC_ARG0_ARG0)
        else .time (State.timeOf (s.sec / 2 ^ 32 % 2 ^ 16 * 2 ^ 32 + s.get F.IMG_MC_ARG1_ARG1) (s.get F.IMG_MC_ARG0_ARG0))
      ({}, (((s.set F.IMG_MC_STAT_PEND 0 1).set F.IMG_MC_STAT_OUTCOME 0 0).set F.IMG_MC_STAT_REASON 0 0).sendMode 0x30
        (s.get F.RNG_RSTAT_MASTER_HUB) (be 1 (w % 32) ++ State.whenBytes inst))
    else ({}, s)

/-- MODEREQ (R400): the master refuses the request, or sends MODEARM with its deadline. -/
def execModereq (f : Frame) (s : State) : Out :=
  mgtRequest f s fun s =>
  let mode := beAt f.pay 2 1
  let w := State.whenAt f.pay 3
  if !s.master then .next s
  else if s.img.change.isSome then .next (s.sendMode 0x35 f.src [2, 0, 0])
  else if (s.modeOf mode).isNone then .next (s.sendMode 0x35 f.src [4, 0, 0])
  else
    let late := match w with
      | .time n => decide (n < s.ns + s.get F.IMG_MC_CFG_ARMMIN * 1000000)
      | .phase _ _ _ => false
    if late then .next (s.sendMode 0x35 f.src [3, 0, 0])
    else
      let soon := s.ns + s.get F.IMG_MC_CFG_ARMTMO * 1000000
      let d := match w with
        | .time n => min (n - s.get F.IMG_MC_CFG_GUARD * 1000000) soon
        | .phase _ _ _ => soon
      let opid := s.hubNum * 256 + s.img.opCount % 256
      let s := s.onImg fun g => { g with opCount := g.opCount + 1, change := some { opid := opid, mode := mode, at_ := w, reqHub := f.src, deadline := d } }
      .next (s.sendMode 0x31 0xFE (be 2 opid ++ be 1 mode ++ State.whenBytes w ++ be 6 (d / 10 ^ 9) ++ be 4 (d % 10 ^ 9)))

/-- MODEARM (R401): the hub checks, arms and answers. -/
def execModearm (f : Frame) (s : State) : Out :=
  mgtRequest f s fun s =>
  let p := f.pay
  let w := State.whenAt p 5
  let d := State.timeOf (beAt p 18 6) (beAt p 24 4)
  let (r, k) := s.armCheck (beAt p 4 1) w d
  let ack (s : State) : State := s.sendMode 0x32 f.src (be 2 (beAt p 2 2) ++ be 1 s.hubNum ++ be 1 (b2n s.standby) ++ be 1 r)
  if r = 0 then .next (ack (s.onImg fun g => { g with arm := some { opid := beAt p 2 2, mode := beAt p 4 1, at_ := w, ph := k } }))
  else .next (ack (s.bump F.IMG_CNT_VETO))

/-- MODEACK (R401): the master notes the answer; once every position has answered ARMED it sends MODEGO at once. -/
def execModeack (f : Frame) (s : State) : Out :=
  mgtRequest f s fun s =>
  match s.img.change with
  | none => .next s
  | some c =>
    if !s.master ∨ c.opid ≠ beAt f.pay 2 2 then .next s
    else
      let c := { c with acks := c.acks ++ [(beAt f.pay 4 1, bit (beAt f.pay 5 1) 0, beAt f.pay 6 1)] }
      let s := s.onImg fun g => { g with change := some c }
      .next (if s.allArmed c then s.resolveMode c else s)

/-- MODE_DEADLINE (R401). [DEDUCED 121 unsafe] -/
def execModeDeadline (s : State) : Out :=
  match s.img.change with
  | none => .next s
  | some c => .next (if s.master ∧ c.deadline ≤ s.ns then s.resolveMode c else s)

/-- MODEGO (R402, R403, R404): an armed hub will switch at the instant; one that has asked switches at once. [DEDUCED 121 unsafe] -/
def execModego (f : Frame) (s : State) : Out :=
  mgtRequest f s fun s =>
  match s.img.arm with
  | none => .next s
  | some a =>
    if a.opid ≠ beAt f.pay 2 2 then .next s
    else if a.asked.isSome then .next ((s.switchMode a).bump F.IMG_CNT_LATEAPPLY)
    else
      let est := match a.at_ with
        | .time _ => none
        | .phase _ _ x => some (s.phaseEstimate a.ph x + (s.ref a.ph).test / 2)
      .next (s.onImg fun g => { g with arm := some { a with go := true, est := est } })

/-- MODEABT (R401, R404): the arm is discarded. [DEDUCED 121 unsafe] -/
def execModeabt (f : Frame) (s : State) : Out :=
  mgtRequest f s fun s =>
  match s.img.arm with
  | none => .next s
  | some a => .next (if a.opid = beAt f.pay 2 2 then s.onImg fun g => { g with arm := none } else s)

/-- MODERES (R400). [DEDUCED 121 unsafe] -/
def execModeres (f : Frame) (s : State) : Out :=
  mgtRequest f s fun s =>
  if s.flag F.IMG_MC_STAT_PEND then
    .next ((((s.set F.IMG_MC_STAT_PEND 0 0).set F.IMG_MC_STAT_OUTCOME 0 (beAt f.pay 2 1)).set F.IMG_MC_STAT_VHUB 0 (beAt f.pay 3 1)).set
      F.IMG_MC_STAT_REASON 0 (beAt f.pay 4 1))
  else .next s

/-- MODEQRY (R404): the master answers that hub alone. -/
def execModeqry (f : Frame) (s : State) : Out :=
  mgtRequest f s fun s =>
  let opid := beAt f.pay 2 2
  if !s.master then .next s
  else if s.img.resolved = some (opid, true) then .next (s.sendMode 0x33 f.src (be 2 opid))
  else .next (s.sendMode 0x34 f.src (be 2 opid ++ [0, 0]))

/-- MODESTAT (R404): a hub whose mode or epoch differs switches at once and takes the epoch. [DEDUCED 121 unsafe] -/
def execModestat (f : Frame) (s : State) : Out :=
  mgtRequest f s fun s =>
  let m := beAt f.pay 2 1 % 32
  let e := beAt f.pay 4 2
  if !s.img.loaded ∨ (m = s.mode ∧ e = s.epoch) then .next s
  else .next (((s.applyMode m).set F.IMG_MODE_EPOCH 0 e).bump F.IMG_CNT_LATEAPPLY)

/-- MODESTAT_SEND (R399): the master sends MODESTAT once 100 ms have passed since the one before. -/
def execModestatSend (s : State) : Out :=
  let due := match s.img.statAt with
    | none => true
    | some t => decide (t + 100000000 ≤ s.up)
  .next (if s.master && due then s.sendModestat else s)

/-- OVERLAY_INSTANT (R402): a hub that holds MODEGO has reached the instant. -/
def execOverlayInstant (s : State) : Out :=
  match s.img.arm with
  | none => .next s
  | some a => .next (if a.go && s.modeReached a then s.switchMode a else s)

/-- MODE_LATE_APPLY (R403): a phase instant has not been reached by its estimate plus half of Test. -/
def execModeLateApply (s : State) : Out :=
  match s.img.arm with
  | none => .next s
  | some a =>
    match a.est with
    | some t => .next (if a.go && decide (t ≤ s.ns) then (s.switchMode a).bump F.IMG_CNT_LATEAPPLY else s)
    | none => .next s

/-- MODE_INSTANT_NO_GO (R404, R122): the instant is reached without MODEGO or MODEABT. The hub asks the master, and a new master anew;
while the ring has no master the change is abandoned. [DEDUCED 123 unsafe] -/
def execModeInstantNoGo (s : State) : Out :=
  match s.img.arm with
  | none => .next s
  | some a =>
    let m := s.get F.RNG_RSTAT_MASTER_HUB
    if a.go || !s.modeReached a || decide (a.asked = some m) then .next s
    else if m = 0xFF then .next (s.onImg fun g => { g with arm := none })
    else .next ((s.onImg fun g => { g with arm := some { a with asked := some m } }).sendMode 0x36 m (be 2 a.opid))

/-! ### The settings store (R406, R407, R516) -/

/-- STORE: each setting is read and a record begins in the area that was not written last; until a pending image update is
confirmed, always in the new-format area. The area being written holds no valid record until the store completes. [DEDUCED 124 unsafe] -/
def settingsStore (s : State) : State.Res × State :=
  if s.img.storing.isSome then ({ st := .busy }, s)
  else
    let last := s.get F.IMG_SET_STAT_AREA
    let k := if s.boot.imgPend then last else 1 - last
    let es := s.img.setlist.map (fun x => (x.1, match s.settingKey x.1, regRow? x.1 with
      | some key, some row => (s.word key (BitVec.ofNat 32 row.start)).toNat &&& x.2
      | _, _ => 0))
    let r : State.SetRec := { seq := s.settingsSeq + 1, hash := s.img.hash, mode := s.mode, entries := es }
    let s := { s with nvm := Mem.writeN s.nvm (State.areaAt k) (zeros 64) }
    ({}, (s.set F.IMG_SET_STAT_BUSY 0 1).onImg fun g => { g with storing := some (k, State.SetRec.bytes r) })

/-- ERASE: both areas become invalid. -/
def settingsErase (s : State) : State.Res × State :=
  ({}, { s with nvm := Mem.writeN (Mem.writeN s.nvm (State.areaAt 0) (zeros 64)) (State.areaAt 1) (zeros 64) })

/-- A write of IMG.SET_CTL. -/
def setCtl (w : Nat) (s : State) : State.Res × State :=
  if bit w 0 then
    let (r, s) := settingsStore s
    if bit w 1 && decide (r.st = .ok) then settingsErase s else (r, s)
  else if bit w 1 then settingsErase s else ({}, s)

/-- STORE_DONE (R406). [DEDUCED 124 unsafe] -/
def execStoreDone (s : State) : Out :=
  match s.img.storing with
  | none => .next s
  | some (k, data) =>
    let s := { s with nvm := Mem.writeN s.nvm (State.areaAt k) data }.onImg fun g => { g with storing := none }
    .next ((s.set F.IMG_SET_STAT_BUSY 0 0).set F.IMG_SET_STAT_AREA 0 k)

end Sys2Proof.Machine
end

