-- ==== Sys2Proof/Machine/Boot.lean ====
section
/-! DEFINITION. Firmware slots, the ROM's choice among them (R515 to R518), and the resets of levels 0 to 2 (R478). -/
namespace Sys2Proof.Machine

/-- Where a firmware slot begins (Table 13-1). -/
def fwAt (slot : Nat) : Nat := 0x100000 * slot

/-- A firmware header (R515); the spec states its fields, their order and its length, and not their widths. [DEDUCED 153 unsafe] -/
structure FwHdr where
  magic : Nat
  fmt : Nat
  key : Nat
  len : Nat
  serial : Nat
  entry : Nat
  deriving DecidableEq, Repr

/-- The header of a firmware slot. [DEDUCED 153 unsafe] -/
def fwHdr (m : Mem) (slot : Nat) : FwHdr :=
  let a := fwAt slot
  { magic := Mem.num m a 4, fmt := Mem.num m (a + 4) 2, key := Mem.num m (a + 6) 2, len := Mem.num m (a + 8) 4,
    serial := Mem.num m (a + 12) 4, entry := Mem.num m (a + 16) 4 }

namespace State

/-- The checks of a firmware slot (R438, R515): 0 if it passes, else the reason as Table 13-7 codes it. [DEDUCED 153 unsafe] -/
def fwCheck (s : State) (slot : Nat) : Nat :=
  let h := fwHdr s.nvm slot
  let a := fwAt slot
  if h.magic ≠ 0x42524657 ∨ h.fmt ≠ 1 ∨ 1 < h.key ∨ h.len < 160 ∨ 1048576 < h.len then 1
  else if h.key = 0 ∧ s.cry.fuse.jkrev then 2
  else if !Config.sigOk (Config.jufinaKey h.key) (Config.sha384 (Mem.readN s.nvm a (h.len - 96))) (Mem.readN s.nvm (a + h.len - 96) 96) then 3
  else if h.serial < s.boot.fwFloor then 4
  else 0

/-- The ROM's part in a pending update at a start (R517): ATT rises, and a start that finds it at 3 falls back. [DEDUCED 153 unsafe] -/
def countAttempt (s : State) : State :=
  let b := s.boot
  if !b.fwPend && !b.imgPend then s
  else if 3 ≤ b.att then s.restoreSlots 0
  else s.setBoot fun r => { r with att := r.att + 1 }

/-- The firmware slot that a start runs (R517, R518): the active one, the previous one of a pending update whose new slot does not
verify, or the other one; none if neither passes. [DEDUCED 153 unsafe] -/
def chooseFirmware (s : State) : Option Nat × State :=
  let k := s.boot.fwSlot
  if s.fwCheck k = 0 then (some k, s)
  else
    let s := if s.boot.fwPend then s.restoreSlots 3 else s
    if s.fwCheck (1 - k) = 0 then (some (1 - k), s.setBoot fun r => { r with fwSlot := 1 - k }) else (none, s)

/-- The ROM runs the firmware slot that it chose, or enters doldrums mode (R499, R518). [DEDUCED 153 unsafe] -/
def romRun (s : State) (cause : Nat) : Option Nat → State
  | some k => ((s.set F.MGT_STAT_READY 0 1).set F.MGT_FWINFO_SERIAL 0 (fwHdr s.nvm k).serial).note 0x10 18 [k, (fwHdr s.nvm k).serial, cause]
  | none => s.enterDoldrums 1

/-- The ROM starts (R499, R517 to R519). -/
def romBoot (s : State) (cause : Nat) : State := s.countAttempt.chooseFirmware.2.showUpdates.romRun cause s.countAttempt.chooseFirmware.1

/-- The registers that a reset of a level keeps (Table 16-4, R498): from level 1 on those of the power die and the always-on domain;
at level 2 also RWS fields, the clock sources and the fuses. [DEDUCED 152 unsafe] -/
def keptAt (level key : Nat) : Bool :=
  let o := key % 2 ^ 24
  (decide (1 ≤ level) && (decide (o / 2 ^ 16 = 17) || decide (o = 0xE000C) || decide (o = 0x100028)))
    || (decide (level = 2) && (decide (o = 8) || staysAtReset o || decide (o = 0x100004) || decide (o = 0x100008) || decide (o = 0x10000C)))

/-- The hub die enters a reset of level 0, 1 or 2 (R478): every block is reset; what is left is the medium and the non-volatile
memory, the power die, and what Table 16-4 keeps. [DEDUCED 151 unsafe] -/
def enterReset (s : State) (level cause : Nat) : State :=
  let warms := if level = 2 then min 255 (s.get F.CKR_RSTCAUSE_WARMS + 1) else 0
  let kept := (s.regs.filter (fun p => keptAt level p.1)).foldl (fun (m : Map Word) p => Tbl.put m p.1 p.2) bootRegs
  let hard := decide (level ≤ 1)
  let m := s.mgt
  let s' : State :=
    { regs := kept, imgRegs := (s.imgRegs.filter (fun p => decide (1 ≤ level) && decide (p.1 / 2 ^ 16 = 17))).foldl (fun (m : Map Word) p => Tbl.put m p.1 p.2) imgStart,
      swc := { ready := false },
      mgt := { evlNext := m.evlNext, evlCount := m.evlCount, updAt := m.updAt },
      img := if hard then {} else { hash := s.img.hash },
      cry := if hard then { fuse := s.cry.fuse, fleet := s.cry.fleet, squall := s.cry.squall } else (cipherReset s).cry,
      rfx := if hard then {} else (rfxReset s).rfx,
      ckr := if hard then {} else { s.ckr with prelude := none, gateReq := [], measuring := none },
      pwr := s.pwr, hst := s.resetHst.hst, nvm := s.nvm, out := s.out, up := s.up, free := s.free, pending := s.pending }
  let s' := ((s'.set F.CKR_RSTCAUSE_LEVEL 0 level).set F.CKR_RSTCAUSE_CAUSE 0 cause).set F.CKR_RSTCAUSE_WARMS 0 warms
  s'.setB F.CRY_STAT_SQUALL 0 s'.cry.squall

/-- The hub die leaves a reset (Table 16-5, steps 5 and 6): the incarnation rises and the ROM starts. [DEDUCED 151 unsafe] -/
def leaveReset (s : State) : State := s.nextIncarnation.showFuses.romBoot (s.get F.CKR_RSTCAUSE_CAUSE)

/-- The power die deasserts hub-die power-good (R478, R479, R493): the hub die is held in a reset of level 1. The reset follows at
once, and an active twin has declared failure with cause 3. [DEDUCED 151 unsafe] -/
def powerOff (s : State) (level cause : Nat) : State :=
  let s := ((s.declareFail 3).set F.PWR_STAT_HDPG 0 0).bypassDrive
  let q := s.cry.squall
  let s := s.enterReset level cause
  { s with ckr := { s.ckr with held := some q } }.onCry fun c => { c with squall := false }

end State

/-- FW_ACTIVATE takes effect (R515): the new slot becomes active and pending, and the hub restarts. -/
def State.fwActivateNow (s : State) : State :=
  let s := if s.flag F.TWN_CFG_TWIN && s.standby then s else s.insertWrite false
  let s := (s.setBoot fun r => { r with fwSlot := 1 - r.fwSlot, fwPend := true, att := 0 }).showUpdates
  (s.onMgt fun m => { m with updAt := some s.up, veer := none }).requestReset 2 4

/-- WARM_RESET (R478): causes 4 to 7 of CKR.RSTCAUSE. After a veer that FW_ACTIVATE asked for, it is the restart of the activation
(R515). -/
def execWarmReset (cause : Nat) (s : State) : Out :=
  if s.mgt.veer = some .fwActivate ∧ s.standby then .next s.fwActivateNow
  else .next (if 4 ≤ cause ∧ cause ≤ 7 then s.requestReset 2 cause else s)

/-- COLD_RESET (R478, R479): the command (cause 3), or the loss of hub-die power-good (cause 1), which does not wait. -/
def execColdReset (cause : Nat) (s : State) : Out :=
  .next (if cause = 3 then s.requestReset 1 3 else if cause = 1 ∧ s.flag F.PWR_STAT_HDPG then s.powerOff 1 1 else s)

/-- HRST (R478). -/
def execHrst (s : State) : Out := .next (s.requestReset 1 2)

/-- RESET_PRELUDE_END (R478, R479): after 2 µs the reset asserts; one of level 1 or 2 runs to the start of the ROM, which `active` tells
whether a squall source is active. [DEDUCED 151 unsafe] -/
def execResetPreludeEnd (active : Bool) (s : State) : Out :=
  match s.ckr.prelude with
  | none => .next s
  | some (level, cause) =>
    if s.up < s.ckr.preludeAt + 2000 then .next s
    else if level = 3 then
      let s := { s with ckr := { s.ckr with prelude := none, rstAt := (List.range 21).foldl (fun m b => if bit cause b then Tbl.put m b s.up else m) s.ckr.rstAt } }
      .next ((List.range 21).foldl (fun s b => if bit cause b then s.resetBlock b else s) s)
    else
      let s := s.enterReset level cause
      .next (if level = 1 then (fuseReload active s).leaveReset else s.leaveReset)

/-- HUB_DIE_POWER_GOOD (R483, R435): the hub die, held in reset by the power die, starts. A tamper that was latched meanwhile
starts it in squall. [DEDUCED 133 unsafe] -/
def execHubDiePowerGood (active : Bool) (s : State) : Out :=
  match s.ckr.held with
  | none => .next s
  | some q =>
    if !s.flag F.PWR_STAT_HDPG then .next s
    else
      let s := { s with ckr := { s.ckr with held := none } }.onCry fun c => { c with fleet := c.fuse.fleet, squall := c.squall || (q && active) }
      .next ((s.setB F.CRY_STAT_SQUALL 0 s.cry.squall).leaveReset)

/-! ### Resets of blocks (R480 to R482) -/

/-- The blocks that CKR.BLKRST accepts: RNG, SWC, TMQ, EPO, FPN, PIO, CAN, SER, BRG, TIM, PHS, RFX, HST and HPT. -/
def resettable : Nat := 0x181FFE

/-- A write of CKR.BLKRST (R479 to R481): dropped while a reset of level 1 or 2 is in progress; with FPN named, the prelude comes
first; RNG takes CRY with it. [DEDUCED 151 unsafe] -/
def blkRst (w : Nat) (s : State) : State.Res × State :=
  let m := w &&& resettable
  let m := if bit m 1 then m ||| 2 ^ 14 else m
  let old := s.get F.CKR_BLKRST_BLK
  let new := m &&& (old ^^^ (2 ^ 21 - 1))
  let busy := match s.ckr.prelude with
    | some (l, _) => decide (l < 3)
    | none => false
  if busy = true ∨ m = 0 then ({}, s)
  else
    let s := s.set F.CKR_BLKRST_BLK 0 (old ||| m)
    let s := { s with ckr := { s.ckr with rstAt := (List.range 21).foldl (fun t b => if bit m b then Tbl.put t b s.up else t) s.ckr.rstAt } }
    if bit new 5 then ({}, { s with ckr := { s.ckr with prelude := some (3, new), preludeAt := s.up } }.declareFail 4)
    else ({}, (List.range 21).foldl (fun s b => if bit new b then s.resetBlock b else s) s)

/-- The time in ns of `n` cycles of a block's clock (Table 01-4). -/
def blockTime (b n : Nat) : Nat :=
  n * (if b = 7 then 125 else if b = 10 ∨ b = 11 then 40 else if (5 ≤ b ∧ b ≤ 9) ∨ b = 19 then 50 else 25) / 10

/-- BLOCK_RESET_DONE (R480): 64 cycles of the block's clock after the reset asserted, the image's records, the stored settings and the current mode's overlay are in force again for the
block, and it leaves reset. CRY follows RNG. -/
def execBlockResetDone (blk : Nat) (s : State) : Out :=
  if !bit (s.get F.CKR_BLKRST_BLK) blk ∨ blk = 14 ∨ s.inPrelude blk ∨ s.up < Tbl.getD s.ckr.rstAt blk 0 + blockTime blk 64 then .next s
  else
    let s := s.set F.CKR_BLKRST_BLK 0 (setBit (s.get F.CKR_BLKRST_BLK) blk false)
    let s := if blk = 1 then s.set F.CKR_BLKRST_BLK 0 (setBit (s.get F.CKR_BLKRST_BLK) 14 false) else s
    let s := match s.img.loaded, s.applyBase (s.get F.IMG_STAT_SLOT) with
      | true, some d => s.fillBlock d.t blk
      | _, _ => s
    let mine (b : Nat) : Bool := decide (b = blk) || (decide (blk = 1) && decide (b = 14))
    let s := match s.img.loaded, s.settingsArea s.img.hash with
      | true, some (_, r) => (s.applyEntries r mine).1
      | _, _ => s
    let s := s.startBlock blk
    .next (if blk = 1 then s.startBlock 14 else s)

end Sys2Proof.Machine
end

