-- ==== Sys2Proof/Machine/Clocks.lean ====
section
/-! DEFINITION. The reference, the system PLLs, the monitors and the clock gates (chapter 16). Candidates are coded as in
CKR.REF_CTL: 0 ring A, 1 ring B, 2 H0, 3 crystal. -/
namespace Sys2Proof.Machine

namespace State

/-- Change the state of CKR. -/
def onCkr (s : State) (g : CkrSt → CkrSt) : State := { s with ckr := g s.ckr }

/-- The monitor of a source sees it running (R471, R473). -/
def running (s : State) (src : Nat) : Bool := !s.ckr.stopped.contains src

/-- The candidate of a monitored source: XTAL, REC_A, REC_B, REC_H0. -/
def candOf (src : Nat) : Nat := if src = 0 then 3 else src - 1

/-- A candidate is qualified (R463), as far as the hub's state tells: its lane is UP and has had a usable TSYNC copy in time, the host link is
up, and its source runs; `qual` is what the intervals of the rule add. [DEDUCED 147 unsafe] -/
def qualified (s : State) (qual c : Nat) : Bool :=
  bit qual c && (match c with
    | 0 => decide (s.laneState .w = 4) && !s.noCopy 0 3 && s.running 1
    | 1 => decide (s.laneState .e = 4) && !s.noCopy 1 3 && s.running 2
    | 2 => bit (s.get F.CKR_REF_CTL_EN) 2 && s.flag F.Hx_STAT_LINK 0 && s.running 3
    | _ => s.running 0)

/-- The mask of qualified candidates. [DEDUCED 147 unsafe] -/
def qualMask (s : State) (qual : Nat) : Nat := (List.range 4).foldl (fun a c => if s.qualified qual c then a + 2 ^ c else a) 0

/-- A candidate may be used (CKR.REF_CTL.EN). [DEDUCED 148 unsafe] -/
def mayUse (s : State) (c : Nat) : Bool := decide (c = 3) || bit (s.get F.CKR_REF_CTL_EN) c

/-- The candidate to follow (R464): the crystal at the master; FORCE while it is qualified; otherwise the first in the order of PRI,
with the two rings ranked against each other by HOPS. [DEDUCED 148 unsafe] -/
def chooseRef (s : State) (m : Nat) : Option Nat :=
  let force := s.get F.CKR_REF_CTL_FORCE
  let order := (List.range 4).map (fun i => bits (s.get F.CKR_REF_CTL_PRI) (2 * i + 1) (2 * i))
  if s.master then (if bit m 3 then some 3 else none)
  else if 1 ≤ force ∧ force ≤ 4 ∧ bit m (force - 1) then some (force - 1)
  else
    let ok (c : Nat) : Bool := bit m c && s.mayUse c
    match order.find? ok with
    | none => none
    | some c =>
      if c ≤ 1 ∧ ok (1 - c) then
        let hops (r : Nat) : Nat := (s.tim.seen.getD r none).getD 1024
        some (if hops (1 - c) < hops c then 1 - c else c)
      else some c

/-- Show the qualified candidates, and HOLDOVER when there is none to follow (R465). -/
def showRef (s : State) (m : Nat) : State :=
  (s.set F.CKR_REF_STAT_QUAL 0 m).setB F.CKR_REF_STAT_HOLDOVER 0 (s.chooseRef m).isNone

/-- The reference changes to a candidate: path 0 hitless, 1 by the ramp (R466). -/
def takeRef (s : State) (c path : Nat) : State :=
  ((s.set F.CKR_REF_STAT_SEL 0 c).set F.CKR_REF_STAT_PATH 0 path).bump F.CKR_CNT_REFSW

/-- The source of a ramped domain: 0 SPA, 1 SPB, 2 RCO. -/
def domSrc (s : State) (k : Nat) : Nat := bits (s.word 0x10000C 0).toNat (2 * k + 1) (2 * k)

/-- Give a domain a source. -/
def setDomSrc (s : State) (k v : Nat) : State :=
  let w := (s.word 0x10000C 0).toNat
  s.setWord 0x10000C (BitVec.ofNat 32 (w - bits w (2 * k + 1) (2 * k) * 4 ^ k + v % 4 * 4 ^ k))

/-- The lock of a system PLL. -/
def pllLock (s : State) (p : Nat) : Bool := if p = 0 then s.flag F.CKR_PLL_STAT_SPA_LOCK else s.flag F.CKR_PLL_STAT_SPB_LOCK

/-- Show the lock of a system PLL. -/
def setLock (s : State) (p : Nat) (v : Bool) : State :=
  if p = 0 then s.setB F.CKR_PLL_STAT_SPA_LOCK 0 v else s.setB F.CKR_PLL_STAT_SPB_LOCK 0 v

/-- The order in which CKR moves the domains (R468). [DEDUCED 149 unsafe] -/
def moveOrder : List Nat := [0, 1, 4, 6, 2, 5, 3]

/-- Show the move that is under way (CKR.PLL_STAT). [DEDUCED 149 unsafe] -/
def showMove (s : State) : State :=
  (s.setB F.CKR_PLL_STAT_RAMPING 0 (!s.ckr.moves.isEmpty)).set F.CKR_PLL_STAT_RDOM 0 (s.ckr.moves.headD 0)

/-- A forced switch of a domain (R472). -/
def forcedSwitch (s : State) (k : Nat) : State :=
  ((s.set F.CKR_MON_STAT_FORCED 0 (setBit (s.get F.CKR_MON_STAT_FORCED) k true)).bump F.CKR_CNT_FORCED).note 0x21 16 [k]

/-- Every domain on a lost PLL moves at once to a source, by force, and a move under way ends (R470, R474). [DEDUCED 149 unsafe] -/
def fallTo (s : State) (p dst : Nat) : State :=
  let s := (s.onCkr fun c => { c with moves := [] }).showMove
  moveOrder.foldl (fun s k =>
    if s.domSrc k = p then ((s.setDomSrc k dst).bump F.CKR_CNT_RAMP).forcedSwitch k else s) s

/-- Every domain that is not on the source `target` is to move to it (R467, R468). [DEDUCED 149 unsafe] -/
def startMoves (s : State) (target : Nat) : State :=
  (s.onCkr fun c => { c with moves := moveOrder.filter (fun k => decide (s.domSrc k ≠ target)), target := target }).showMove

/-- A PLL stops (Table 16-3). [DEDUCED 150 unsafe] -/
def pllStop (s : State) (p : Nat) : State :=
  let s := s.setLock p false
  if s.pllLock (1 - p) && s.running (4 + (1 - p)) then
    if s.get F.CKR_PLL_STAT_INUSE = p then (s.fallTo p (1 - p)).set F.CKR_PLL_STAT_INUSE 0 (1 - p)
    else s.fallTo p (1 - p)
  else
    let s := (s.fallTo p 2).fallTo (1 - p) 2
    let had := s.flag F.RNG_BYP_CTL_INSERT
    (s.onCkr fun c => { c with reinsert := c.reinsert || had, relock := false }).insertWrite false

/-- A reference candidate stops (Table 16-3): if it is in use the conditioner holds its frequency and changes, by the hitless path,
to the next one. [DEDUCED 148 unsafe, DEDUCED 150 unsafe] -/
def refStop (s : State) (c : Nat) : State :=
  let m := setBit (s.get F.CKR_REF_STAT_QUAL) c false
  let s := (s.showRef m).onCkr fun k => { k with measuring := if k.measuring = some c then none else k.measuring }
  if s.get F.CKR_REF_STAT_SEL ≠ c then s
  else match s.chooseRef m with
    | some d => s.takeRef d 0
    | none => s

/-- A squall by CMON, where it is enabled (Table 14-7). [DEDUCED 150 unsafe] -/
def cmon (s : State) : State :=
  if s.flag F.CRY_SQ_CFG_CMON then ((s.set F.CRY_SQ_STAT_CMON 0 1).squall).note 0x38 14 [6] else s

end State

/-- REF_CHANGE (R465): the reference in use loses qualification, a better one has been qualified for 1 s, or the hub becomes
master; the conditioner begins to measure the new one. `qual` has the candidates whose intervals of R463 are met. [DEDUCED 147 unsafe] -/
def execRefChange (qual : Nat) (s : State) : Out :=
  let m := s.qualMask qual
  let s := s.showRef m
  .next (match s.chooseRef m with
    | some c => s.onCkr fun k => { k with measuring := if c = s.get F.CKR_REF_STAT_SEL then none else some c }
    | none => s.onCkr fun k => { k with measuring := none })

/-- REF_MEASURE_DONE (R466): the two differ by at most 20 ppm (`within`) and the conditioner switches, or the change takes the ramp
path, on which the spare PLL first locks to the new candidate. -/
def execRefMeasureDone (within : Bool) (s : State) : Out :=
  match s.ckr.measuring with
  | none => .next s
  | some c =>
    let s := s.onCkr fun k => { k with measuring := none }
    if within then .next (s.takeRef c 0)
    else .next (((s.takeRef c 1).setLock (1 - s.get F.CKR_PLL_STAT_INUSE) false).onCkr fun k => { k with relock := true })

/-- SPARE_PLL_LOCK (R466, R474): PLL `pll` % 2 locks. On the ramp path the domains move to it; after both PLLs had stopped they ramp
back from RCO. -/
def execSparePllLock (pll : Nat) (s : State) : Out :=
  let p := pll % 2
  if s.pllLock p ∨ !s.running (4 + p) then .next s
  else
    let s := s.setLock p true
    if State.moveOrder.any (fun k => decide (s.domSrc k = 2)) ∧ s.ckr.moves.isEmpty then .next (s.startMoves p)
    else if s.ckr.relock ∧ p ≠ s.get F.CKR_PLL_STAT_INUSE then
      .next ((s.onCkr fun k => { k with relock := false }).startMoves p)
    else .next s

/-- DOMAIN_MOVE (R467 to R472): the next domain in the order has moved; `forced` says that its multiplexer switched by force. After
the last one the PLL is in use; the other follows the new reference and becomes the spare. [DEDUCED 149 unsafe] -/
def execDomainMove (forced : Bool) (s : State) : Out :=
  match s.ckr.moves with
  | [] => .next s
  | k :: rest =>
    let t := s.ckr.target
    if !s.running (4 + t) then .next s
    else
      let s := (s.setDomSrc k t).bump F.CKR_CNT_RAMP
      let s := if forced then s.forcedSwitch k else s
      let s := (s.onCkr fun c => { c with moves := rest }).showMove
      if !rest.isEmpty then .next s
      else
        let s := if s.get F.CKR_PLL_STAT_INUSE = t then s else (s.set F.CKR_PLL_STAT_INUSE 0 t).setLock (1 - t) false
        .next (if s.ckr.reinsert then (s.onCkr fun c => { c with reinsert := false }).insertWrite true else s)

/-- MISSING_EDGE (R473, R474): a monitor finds a source stopped: 0 XTAL, 1 REC_A, 2 REC_B, 3 REC_H0, 4 SPA, 5 SPB, 6 CK_REF, 8 + k the
delivered clock of domain k. `still` says that a delivered clock is found still stopped, 100 µs or more after its fallback. [DEDUCED 150 unsafe] -/
def execMissingEdge (source : Nat) (still : Bool) (s : State) : Out :=
  if 7 ≤ source ∧ (source < 8 ∨ 15 ≤ source) then .next s
  else
    let again := s.ckr.stopped.contains source
    let s := if again then s
      else
        let s := (s.onCkr fun c => { c with stopped := c.stopped ++ [source], stopAt := Tbl.put c.stopAt source s.up }).bump F.CKR_CNT_MISSING
        if source < 7 then s.set F.CKR_MON_STAT_SRC 0 (setBit (s.get F.CKR_MON_STAT_SRC) source true)
        else s.set F.CKR_MON_STAT_DOM 0 (setBit (s.get F.CKR_MON_STAT_DOM) (source - 8) true)
    if source ≤ 3 then .next (if again then s else s.refStop (State.candOf source))
    else if source ≤ 5 then .next (if again then s else s.pllStop (source - 4))
    else
      let s := if !again ∧ (source = 8 ∨ source = 10) then s.declareFail 6 else s
      let s := if !again ∧ (source = 6 ∨ source = 12) then s.cmon else s
      .next (if 8 ≤ source ∧ still ∧ Tbl.getD s.ckr.stopAt source 0 + 100000 ≤ s.up then s.requestReset 2 7 else s)

/-- SOURCE_RUNNING (R473). [DESIGN CHOICE 5 safe] -/
def execSourceRunning (source : Nat) (s : State) : Out := .next (s.onCkr fun c => { c with stopped := c.stopped.filter (fun x => decide (x ≠ source)) })

/-! ### Clock gates (R475 to R477) -/

/-- The blocks whose clock can be gated: PIO, CAN, SER, BRG, HST and HPT. -/
def gateable : Nat := 0x1803C0

/-- A write of CKR.GATE (R475 to R477): a bit that sets raises a gate request, which a block in reset acknowledges at once; a bit
that clears restarts the clock or withdraws the request. -/
def gateWrite (w : Nat) (s : State) : State.Res × State :=
  let new := w &&& gateable
  let old := s.get F.CKR_GATE_BLK
  let s := s.set F.CKR_GATE_BLK 0 new
  ({}, (List.range 21).foldl (fun (s : State) b =>
    if bit new b && !bit old b then
      if bit (s.get F.CKR_BLKRST_BLK) b then s.set F.CKR_GACK_BLK 0 (setBit (s.get F.CKR_GACK_BLK) b true)
      else s.onCkr fun c => { c with gateReq := c.gateReq ++ [b], gateAt := Tbl.put c.gateAt b s.up }
    else if !bit new b && bit old b then
      (s.set F.CKR_GACK_BLK 0 (setBit (s.get F.CKR_GACK_BLK) b false)).onCkr fun c => { c with gateReq := c.gateReq.filter (fun x => decide (x ≠ b)) }
    else s) s)

/-- GATE_ACK (R475): the block has reached bus idle and its clock stops. -/
def execGateAck (blk : Nat) (s : State) : Out :=
  if !s.ckr.gateReq.contains blk then .next s
  else .next ((s.onCkr fun c => { c with gateReq := c.gateReq.filter (fun x => decide (x ≠ blk)) }).set
    F.CKR_GACK_BLK 0 (setBit (s.get F.CKR_GACK_BLK) blk true))

/-- GATE_TIMEOUT (R476): no bus idle within 1,024 cycles of the block's clock; the gate is not applied. -/
def execGateTimeout (blk : Nat) (s : State) : Out :=
  if !s.ckr.gateReq.contains blk ∨ s.up < Tbl.getD s.ckr.gateAt blk 0 + blockTime blk 1024 then .next s
  else
    let s := s.onCkr fun c => { c with gateReq := c.gateReq.filter (fun x => decide (x ≠ blk)) }
    .next (((s.set F.CKR_GFAIL_BLK 0 (setBit (s.get F.CKR_GFAIL_BLK) blk true)).bump F.CKR_CNT_GATETMO).note 0x22 16 [blk])

end Sys2Proof.Machine
end

