-- ==== Sys2Proof/Machine/Mirik.lean ====
section
/-! DEFINITION. Mirik (chapter 18): mailbox, notices, sensors, event log, self-tests, updates and doldrums sessions. -/
namespace Sys2Proof.Machine

namespace State

/-! ### Mailbox (R501, R502) -/

/-- The codes of Table 18-1. -/
def mbxCodes : List Nat := [0x01, 0x10, 0x11, 0x12, 0x13, 0x14, 0x20, 0x30]

/-- The payload that answers an MBOX: RESULT, REASON, the length and the returned bytes. [DESIGN CHOICE 155 unsafe] -/
def mbxReply (result reason : Nat) (data : List Byte) : List Byte :=
  [8, 0] ++ be 1 result ++ be 1 reason ++ be 2 data.length ++ [0, 0] ++ data

/-- Answer a mailbox command. [DEDUCED 156 unsafe] -/
def mbxAnswer (s : State) (c : MbxCmd) (result reason : Nat) (data : List Byte) : State :=
  match c.req with
  | some f => s.answer 7 f { st := .ok, data := mbxReply result reason data }
  | none =>
    let s := ((s.set F.MGT_MBX_RES_RESULT 0 result).set F.MGT_MBX_RES_DLEN 0 (min 32 data.length)).set F.MGT_MBX_RES_REASON 0 reason
    (List.range 8).foldl (fun (s : State) k => s.set F.MGT_MBX_DATA_DATA k (unbe (slice data (4 * k) 4))) s

/-- The command at the head of the queue, if it has a code. [DESIGN CHOICE 155 unsafe] -/
def mbxHead (s : State) (code : Nat) : Option MbxCmd := s.mgt.mbox.head?.bind (fun c => if c.code = code then some c else none)

/-- The command at the head of the queue is taken. [DEDUCED 156 unsafe] -/
def mbxPop (s : State) : State := s.onMgt fun m => { m with mbox := m.mbox.tail }

/-- A command came through the registers and is not finished (MGT.MBX_RES.BUSY). [DEDUCED 156 unsafe] -/
def mbxBusy (s : State) : Bool :=
  s.mgt.mbox.any (fun c => c.req.isNone) || (match s.mgt.relay with
    | some (c, _) => c.req.isNone
    | none => false)

/-- Whether a command of an initiator is refused (R502): its reason in the violation log; UR for an initiator of no class. -/
def mbxRefused (s : State) (hub init code : Nat) : Option (Status × Nat) :=
  match classOf s.hubNum hub init with
  | none => some (.ur, 0)
  | some .mirik => none
  | some c => (s.refusal c 0xF code 1 .w).map (fun r => (.viol, r))

end State

/-- MBOX (R501, R502): a command is checked and queued; a ninth that would wait is BUSY. [DESIGN CHOICE 155 unsafe] -/
def execMbox (f : Frame) (s : State) : Out :=
  let code := beAt f.pay 2 1
  let args := slice f.pay 16 (beAt f.pay 4 2)
  if mgtRefused s.hubNum f ∨ beAt f.pay 1 1 ≠ 0 ∨ f.pay.length < 16 + beAt f.pay 4 2 then .next (s.settle 7 f { st := .ur })
  else match s.mbxRefused f.src f.init code with
    | some (st, r) => .next (s.settle 7 f { st := st, reason := r })
    | none =>
      if 8 ≤ (s.mgt.mbox.tail.filter (fun c => c.req.isSome)).length then
        .next ((s.bump F.MGT_CNT_MBXBUSY).settle 7 f { st := .busy })
      else
        let c : MbxCmd := { code := code, args := args, hub := f.src, init := f.init, req := some f }
        let s := s.take f
        if State.mbxCodes.contains code then .next (s.onMgt fun m => { m with mbox := m.mbox ++ [c] })
        else .next (s.mbxAnswer c 5 0 [])

/-- A write of MGT.MBX_CMD (R216, R501, R502): by the holder of MGT.MBX_LOCK, which it releases. [DEDUCED 66 unsafe, DEDUCED 156 unsafe] -/
def mbxWrite (f : Frame) (s : State) : State.Res × State :=
  locked .mbx f s fun s =>
    let w := wordOf f
    let code := w % 256
    let n := bits w 13 8
    let c : MbxCmd := { code := code, hub := f.src, init := f.init,
                        args := ((List.range 8).flatMap (fun k => be 4 (s.get F.MGT_MBX_ARG_DATA k))).take n }
    let s := s.unlock .mbx
    if code = 0 then ({}, s)
    else if s.mbxBusy then ({ st := .busy }, s)
    else match s.mbxRefused f.src f.init code with
      | some (st, r) => ({ st := st, reason := r }, s)
      | none =>
        if 32 < n then ({}, s.mbxAnswer c 1 0 [])
        else if State.mbxCodes.contains code then ({}, s.onMgt fun m => { m with mbox := m.mbox ++ [c] })
        else ({}, s.mbxAnswer c 5 0 [])

/-- Perform the command at the head of the queue if it has a code: its result, reason and returned bytes, and its effect. -/
def State.mbxRun (s : State) (code : Nat) (g : MbxCmd → State → Nat × Nat × List Byte × State) : State :=
  match s.mbxHead code with
  | none => s
  | some c =>
    let (r, why, data, s) := g c s.mbxPop
    s.mbxAnswer c r why data

/-- SNS_READ (Table 18-1). [DEDUCED 158 unsafe] -/
def execSnsRead (s : State) : Out :=
  .next (s.mbxRun 0x01 fun c s =>
    if c.args.length ≠ 2 then (1, 0, [], s)
    else
      let i := unbe c.args
      (0, 0, be 4 (if i < 256 then (s.word (0x120064 + 2 ^ 24 * i) 0).toNat else 0), s))

/-- FW_OPEN (R515): the inactive firmware slot is erased. -/
def execFwOpen (s : State) : Out :=
  .next (s.mbxRun 0x10 fun _ s =>
    (0, 0, [], { s with nvm := Mem.clear s.nvm (fwAt (1 - s.boot.fwSlot)) 0x100000 }.onMgt fun m => { m with fwOpen := true, fwVerified := false }))

/-- FW_WRITE (R515). [DEDUCED 163 unsafe] -/
def execFwWrite (s : State) : Out :=
  .next (s.mbxRun 0x11 fun c s =>
    let off := beAt c.args 0 4
    let data := c.args.drop 4
    if !s.mgt.fwOpen then (4, 0, [], s)
    else if c.args.length < 5 ∨ 0x100000 < off + data.length then (1, 0, [], s)
    else
      let s := { s with nvm := Mem.writeN s.nvm (fwAt (1 - s.boot.fwSlot) + off) data }
      (0, 0, [], s.onMgt fun m => { m with fwVerified := false }))

/-- FW_VERIFY (R515). [DEDUCED 163 unsafe] -/
def execFwVerify (s : State) : Out :=
  .next (s.mbxRun 0x12 fun _ s =>
    let k := 1 - s.boot.fwSlot
    let r := s.fwCheck k
    (if r = 0 then 0 else 3, r, be 4 (fwHdr s.nvm k).serial, s.onMgt fun m => { m with fwVerified := decide (r = 0) }))

/-- FW_ACTIVATE (R515): it completes, and the activation follows, on an active twin with a healthy partner after a veer. -/
def execFwActivate (s : State) : Out :=
  match s.mbxHead 0x13 with
  | none => .next s
  | some c =>
    let s := s.mbxPop
    if !s.mgt.fwVerified then .next (s.mbxAnswer c 4 0 [])
    else
      let s := s.mbxAnswer c 0 0 []
      if s.activeTwin && s.healthy then .next (s.requestVeer.onMgt fun m => { m with veer := some .fwActivate })
      else .next s.fwActivateNow

namespace State

/-- An update is pending. -/
def updPending (s : State) : Bool := s.boot.fwPend || s.boot.imgPend

/-- A pending update is confirmed (R516). -/
def confirmUpdate (s : State) : State :=
  let fw := s.get F.MGT_FWINFO_SERIAL
  let im := s.get F.IMG_SERIAL_SERIAL
  let loaded := s.img.loaded
  let node := (s.hubNum, s.get F.HUB_NODE_TWIN + 2 * s.get F.HUB_NODE_PREF, s.img.fabid)
  let phy := s.get F.Hx_CTL_PHY 0 + 4 * s.get F.Hx_CTL_PHY 1
  let s := s.setBoot fun r => { r with fwPend := false, imgPend := false, att := 0, fwFloor := max r.fwFloor fw,
                                       imgFloor := if loaded then max r.imgFloor im else r.imgFloor,
                                       node := if loaded then some node else r.node, phy := if loaded then phy else r.phy }
  ((s.onMgt fun m => { m with updAt := none }).showUpdates).note 0x13 18 [fw, im]

end State

/-- CONFIRM (R516). -/
def execConfirm (s : State) : Out :=
  .next (s.mbxRun 0x14 fun _ s => if s.updPending then (0, 0, [], s.confirmUpdate) else (4, 0, [], s))

/-- MBX_FUSE (Table 18-1, R436): a fuse command for the initiator; `fault` as in FUSE_DONE. [DEDUCED 164 unsafe] -/
def execMbxFuse (fault : Nat) (s : State) : Out :=
  .next (s.mbxRun 0x20 fun c s =>
    let w := beAt c.args 0 4
    let op := w % 8
    let k := bits w 4 3
    if c.args.length < 4 ∨ 52 < c.args.length ∨ op = 0 ∨ 6 ≤ op then (1, 0, [], s)
    else if s.flag F.CRY_FUSE_STAT_BUSY then (2, 0, [], s)
    else
      let s := s.setFuseData (slice c.args 4 48)
      let (r, s) := if fault = 2 ∨ fault = 3 then (fault, s) else s.burn op k
      let digest := if op = 5 ∧ r = 0 then (s.cry.fuse.imgkey.getD k none).getD (zeros 48) else []
      let s := ((s.setFuseData (zeros 48)).set F.CRY_FUSE_STAT_RESULT 0 r).showFuses
      (0, 0, be 4 (s.word 0xE0010 0).toNat ++ digest, s))

/-! ### Doldrums messages (R519 to R521) -/

namespace State

/-- Send a doldrums message on a ring lane that is UP: link-local, as HOPM is. -/
def dldLane (s : State) (l : Lane) (pay : List Byte) : State :=
  if s.laneState l ≠ 4 then s
  else s.laneOut l { tt := .rctl, tc := 2, pst := true, dst := 0xFE, src := s.hubNum, opc := 0xA, addr := fabAddr 0xFE 0 0, len := pay.length,
                     hoplim := 1, inc := s.ownInc, pay := pay }

/-- Send a doldrums message on a host port. -/
def dldHost (s : State) (p : HPort) (pay : List Byte) : State :=
  s.hostOut p.ix { tt := .mgt, tc := 2, pst := true, dst := s.hubNum, src := s.hubNum, addr := fabAddr s.hubNum 0xF 0, len := pay.length, pay := pay } false

/-- Answer a source with STATUS (Table 18-6). -/
def dldStatus (s : State) (src : DldSrc) (result reason : Nat) : State :=
  let pay : List Byte := [0x54, 0] ++ be 1 result ++ be 1 reason
  match src with
  | .host p _ => s.dldHost p pay
  | .lane l => s.dldLane l pay

/-- Doldrums mode (R519). -/
def doldrums (s : State) : Bool := s.flag F.MGT_STAT_DOLD

/-- Open a session, or close it. -/
def setSess (s : State) (x : Option DldSess) : State :=
  (s.onMgt fun m => { m with sess := x }).setB F.MGT_STAT_DLDSESS 0 x.isSome

/-- OPEN: one session is open at a time (R520). [DESIGN CHOICE 161 unsafe] -/
def dldOpen (s : State) (src : DldSrc) (p : List Byte) : State :=
  let kind := beAt p 2 1
  let slot := beAt p 3 1
  let total := beAt p 4 4
  let other := match s.mgt.sess with
    | some x => decide (x.src ≠ src)
    | none => false
  if other then s.dldStatus src 2 0
  else
    let size := if kind = 0 then 0x100000 else 0x280000
    if 1 < kind ∨ 1 < slot ∨ total = 0 ∨ size < total then s.dldStatus src 1 0
    else
      let s := { s with nvm := Mem.clear s.nvm (if kind = 0 then fwAt slot else slotAt slot) size }
      (s.setSess (some { src := src, kind := kind, slot := slot, total := total, last := s.up })).dldStatus src 0 0

/-- The session, if a source has it open; otherwise the RESULT of the refusal. [DESIGN CHOICE 161 unsafe] -/
def sessOf (s : State) (src : DldSrc) : Nat × Option DldSess :=
  match s.mgt.sess with
  | none => (4, none)
  | some x => if x.src = src then (0, some x) else (2, none)

/-- A message of the session from its source: the time without one counts anew. -/
def sessTouch (s : State) (x : DldSess) : State := s.onMgt fun m => { m with sess := some { x with last := s.up } }

/-- DATA: content goes into the session's target slot (R520). [DESIGN CHOICE 161 unsafe] -/
def dldData (s : State) (src : DldSrc) (p : List Byte) : State :=
  match s.sessOf src with
  | (r, none) => s.dldStatus src r 0
  | (_, some x) =>
    let s := s.sessTouch x
    let off := beAt p 4 4
    let data := p.drop 8
    if data.isEmpty ∨ 1016 < data.length ∨ x.total < off + data.length then s.dldStatus src 1 0
    else
      let a := if x.kind = 0 then fwAt x.slot else slotAt x.slot
      { s with nvm := Mem.writeN s.nvm (a + off) data }.dldStatus src 0 0

/-- END: content that passes becomes the active slot of its kind, pending, and the hub restarts (R521). [DESIGN CHOICE 161 unsafe] -/
def dldEnd (s : State) (src : DldSrc) : State :=
  match s.sessOf src with
  | (r, none) => s.dldStatus src r 0
  | (_, some x) =>
    let s := s.sessTouch x
    let r := if x.kind = 0 then s.fwCheck x.slot else (s.checkBase x.slot false).1
    if r ≠ 0 then s.dldStatus src 3 r
    else
      let s := (s.dldStatus src 0 0).setSess none
      let s := if x.kind = 0 then s.setBoot fun b => { b with fwSlot := x.slot, fwPend := true, att := 0 }
        else s.setBoot fun b => { b with imgSlot := x.slot, imgPend := true, att := 0 }
      ((s.onMgt fun m => { m with updAt := some s.up }).showUpdates).requestReset 2 4

/-- STATUS or another message of a hub in doldrums: it answers the DLD_RELAY that waits on its lane (R520). [DESIGN CHOICE 161 unsafe] -/
def dldReply (s : State) (src : DldSrc) (p : List Byte) : State :=
  match s.mgt.relay with
  | none => s
  | some (c, l) =>
    if src = .lane l ∧ beAt p 0 1 = 0x54 then (s.onMgt fun m => { m with relay := none }).mbxAnswer c 0 0 p else s

/-- A doldrums message arrives (Table 18-6): a hub in doldrums mode takes OPEN, DATA and END, its neighbour's Mirik STATUS. -/
def dldMessage (s : State) (src : DldSrc) (p : List Byte) : State :=
  let op := beAt p 0 1
  if op = 0x54 then s.dldReply src p
  else if !s.doldrums then s
  else if op = 0x51 then s.dldOpen src p
  else if op = 0x52 then s.dldData src p
  else if op = 0x53 then s.dldEnd src
  else s

end State

/-- DLD (R520): a link-local frame with a doldrums message arrives on a ring lane. [DEDUCED 162 unsafe] -/
def execDld (l : Lane) (f : Frame) (s : State) : Out :=
  .next ((s.take { f with ring := decide (l = .w) }).dldMessage (.lane l) f.pay)

/-- DLD_RELAY (Table 18-1): a doldrums message goes out on a ring lane; the STATUS that comes back completes the command. A relay
that has had no answer ends BUSY when another begins. [DEDUCED 162 unsafe] -/
def execDldRelay (s : State) : Out :=
  match s.mbxHead 0x30 with
  | none => .next s
  | some c =>
    let s := s.mbxPop
    let lane := beAt c.args 0 1
    if c.args.length < 2 ∨ 1 < lane then .next (s.mbxAnswer c 1 0 [])
    else
      let s := match s.mgt.relay with
        | some (old, _) => s.mbxAnswer old 2 0 []
        | none => s
      let l : Lane := if lane = 0 then .e else .w
      .next ((s.onMgt fun m => { m with relay := some (c, l) }).dldLane l (c.args.drop 1))

/-- The HELLO of a hub in doldrums mode (Table 18-6). [DESIGN CHOICE 161 unsafe] -/
def State.hello (s : State) : List Byte :=
  let b := s.boot
  [0x50, 0] ++ be 1 (s.get F.MGT_STAT_DSRC) ++ be 1 (b.fwSlot + 2 * b.imgSlot + 4 * b2n s.cry.fleet.isSome)
    ++ be 4 (fwHdr s.nvm 0).serial ++ be 4 (fwHdr s.nvm 1).serial ++ be 4 (imgHdr s.nvm (slotAt 0)).serial
    ++ be 4 (imgHdr s.nvm (slotAt 1)).serial ++ be 1 Config.revision.toNat

/-- HELLO_SEND (R519): once 1 s has passed since the HELLO before. -/
def execHelloSend (s : State) : Out :=
  let early : Bool := match s.mgt.helloAt with
    | none => false
    | some t => decide (s.up < t + 1000000000)
  if !s.doldrums || early then .next s
  else
    let s := s.onMgt fun m => { m with helloAt := some s.up }
    let p := s.hello
    let s := (s.dldHost .h0 p).dldHost .h1 p
    .next ([Lane.e, Lane.w].foldl (fun (s : State) l => s.dldLane l p) s)

/-- HELLO (R520): a neighbour's announcement calls for no answer. -/
def execHello (l : Lane) (f : Frame) (s : State) : Out := .next (s.take { f with ring := decide (l = .w) })

/-- DLD_OPEN (R520). -/
def execDldOpen (src : DldSrc) (pay : List Byte) (s : State) : Out := .next (if s.doldrums then s.dldOpen src pay else s)

/-- DLD_DATA (R520). -/
def execDldData (src : DldSrc) (pay : List Byte) (s : State) : Out := .next (if s.doldrums then s.dldData src pay else s)

/-- DLD_END (R521). -/
def execDldEnd (src : DldSrc) (s : State) : Out := .next (if s.doldrums then s.dldEnd src else s)

/-- DLD_STATUS (R520). -/
def execDldStatus (src : DldSrc) (pay : List Byte) (s : State) : Out := .next (s.dldReply src pay)

/-- DLD_SESSION_TIMEOUT (R520): 10 s have passed without a message. -/
def execDldSessionTimeout (s : State) : Out :=
  match s.mgt.sess with
  | none => .next s
  | some x => .next (if x.last + 10000000000 ≤ s.up then s.setSess none else s)

/-! ### Watchdog and lockstep (R499, R500) -/

/-- WATCHDOG_EXPIRY (R500). -/
def execWatchdogExpiry (s : State) : Out := .next (s.requestReset 2 5)

/-- LOCKSTEP_ERROR (R499). -/
def execLockstepError (s : State) : Out := .next ((s.declareFail 2).requestReset 2 6)

/-! ### Notices (R62, R504) -/

/-- Deliver a notice to SINK at this hub: its Mirik, which needs nothing more, or a host. [DESIGN CHOICE 197 unsafe] -/
def State.toSink (s : State) (sink : Nat) (f : Frame) : State := if sink = 0 then s else s.toHost sink f.tag f

/-- ERRN (R62): the source hub delivers a notice to the sink that its image names for the initiator, or sends it on; a notice that was
sent on goes to the SINK that it names. -/
def execErrn (f : Frame) (s : State) : Out :=
  mgtRequest f s fun s =>
  let p := f.pay
  let sink := beAt p 3 1
  let e := slice p 4 32
  if sink ≠ 0 ∨ beAt e 17 1 ≠ s.hubNum then .next (s.toSink sink f)
  else
    let (hub, k) := s.sinkOf (beAt e 16 1)
    if hub = s.hubNum then .next (s.toSink k f)
    else .next (s.notice hub (slice p 0 3 ++ be 1 k ++ e))

/-- ALMN (R504). -/
def execAlmn (f : Frame) (s : State) : Out := mgtRequest f s fun s => .next (s.toSink (beAt f.pay 2 1) f)

/-- EVTN (R504). -/
def execEvtn (f : Frame) (s : State) : Out := mgtRequest f s fun s => .next (s.toSink (beAt f.pay 2 1) f)

/-- ALARM_DRAIN (R378, R504): the alarm FIFO goes into the event log, and in ALMN notices of up to 32 entries to its sink. [DEDUCED 159 unsafe] -/
def execAlarmDrain (s : State) : Out :=
  let l := s.rfx.alarms
  let (hub, k) := s.sinkOf 1
  let s := s.onRfx fun x => { x with alarms := [] }
  let s := l.foldl (fun (s : State) a => s.note 0x31 12 (a.map (fun w => w.toNat))) s
  if hub = s.hubNum ∧ k = 0 then .next s
  else .next ((List.range (cdiv l.length 32)).foldl (fun (s : State) i =>
    let es := (l.drop (32 * i)).take 32
    s.notice hub ([3, 0] ++ be 1 k ++ be 1 es.length ++ es.flatMap (fun a => a.flatMap (fun w => be 4 w.toNat)))) s)

/-! ### Sensors (R506 to R508) -/

/-- The level of a value between thresholds (R508): ALARM low, WARN low, WARN high and ALARM high, signed; a level lasts until the value
is 16 units within. [DEDUCED 158 unsafe] -/
def sensorLevel (cur : Nat) (v al wl wh ah : Int) : Nat :=
  if ah < v ∨ (cur = 4 ∧ ah - 16 < v) then 4
  else if v < al ∨ (cur = 3 ∧ v < al + 16) then 3
  else if wh < v ∨ ((cur = 2 ∨ cur = 4) ∧ wh - 16 < v) then 2
  else if v < wl ∨ ((cur = 1 ∨ cur = 3) ∧ v < wl + 16) then 1
  else 0

/-- SENSOR_UPDATE (R506 to R508): sensor `idx` has a value, or none (`valid` false). `raw` is the sense voltage in µV behind the input
current. [DEDUCED 158 unsafe] -/
def execSensorUpdate (idx value raw : Nat) (valid : Bool) (s : State) : Out :=
  let i := idx % 256
  let s := if i = 22 then s.set F.PWR_MEAS0_VIN 0 value else if i = 23 then s.set F.PWR_MEAS1_VOUT 0 value
    else if i = 24 then s.set F.PWR_MEAS0_VSNS 0 raw else if i = 25 then s.set F.PWR_MEAS1_VHOLD 0 value else s
  if !valid then .next ((s.set F.MGT_SNS_VAL_VALID i 0).set F.MGT_SNS_VAL_LEVEL i 0)
  else
    let old := s.get F.MGT_SNS_VAL_LEVEL i
    let g (n : Nat) : Int := sgn 16 n
    let new := sensorLevel old (g value) (g (s.get F.MGT_SNS_THRLO_T0 i)) (g (s.get F.MGT_SNS_THRLO_T1 i)) (g (s.get F.MGT_SNS_THRHI_T0 i))
      (g (s.get F.MGT_SNS_THRHI_T1 i))
    let s := ((s.set F.MGT_SNS_VAL_VALUE i value).set F.MGT_SNS_VAL_VALID i 1).set F.MGT_SNS_VAL_LEVEL i new
    let detail := [i, new, value % 65536]
    if new = old then .next s
    else if 3 ≤ new then .next (s.event 0x20 18 3 detail)
    else if 1 ≤ new then .next (s.event 0x20 18 2 detail)
    else .next (s.note 0x20 18 detail)

/-! ### Logs (R57, R509) -/

/-- EVENT_LOG_WRITE (R509, R504, R522): the oldest staged entry goes into the NVM area; one of severity 2 or higher is also
recorded and sent to its sink. [DEDUCED 159 unsafe] -/
def execEventLogWrite (s : State) : Out :=
  match s.mgt.stage with
  | [] => .next s
  | e :: rest =>
    let m := s.mgt
    let s := { s with nvm := Mem.writeN s.nvm (0x740000 + 32 * m.evlNext) (logBytes e) }
    let full := decide (4096 ≤ m.evlCount)
    let s := s.onMgt fun m => { m with stage := rest, evlNext := (m.evlNext + 1) % 4096, evlCount := if full then 4096 else m.evlCount + 1 }
    let s := if full then s.bump F.MGT_EVL_STAT_WRAPS else s
    let g (k : Nat) : Nat := (e.getD k 0).toNat
    let sev := bits (g 3) 27 24
    if sev < 2 then .next s
    else
      let s := if s.passive then s else s.record 3 { kind := 5, src := s.hubNum, aux := sev, sec := g 1 + g 2 % 65536 * 2 ^ 32, ns := g 0,
                                                     index := g 3 % 65536, data := g 4 * 2 ^ 32 + g 5 }
      let (hub, k) := s.sinkOf 0
      if hub = s.hubNum ∧ k = 0 then .next s else .next (s.notice hub ([4, 0] ++ be 1 k ++ [0] ++ logBytes e))

/-- A write of MGT.EVL_STAT. -/
def evlWrite (w : Nat) (s : State) : State.Res × State := ({}, if bit w 13 then s.onMgt fun m => { m with evlCount := 0 } else s)

/-- A write of MGT.VLOG_STAT. -/
def vlogWrite (w : Nat) (s : State) : State.Res × State :=
  let s := if bit w 7 then s.set F.MGT_VLOG_STAT_OVF 0 0 else s
  ({}, if bit w 8 then s.onHub fun h => { h with vlog := [], vseq := 0 } else s)

/-- A write of MGT.PLOG_STAT. -/
def plogWrite (w : Nat) (s : State) : State.Res × State :=
  let s := if bit w 7 then s.set F.MGT_PLOG_STAT_OVF 0 0 else s
  ({}, if bit w 8 then s.onHub fun h => { h with plog := [], pseq := 0 } else s)

/-! ### Self-tests (R510 to R512) -/

namespace State

/-- Show a result of a self-test. -/
def testResult (s : State) (test result detail : Nat) : State :=
  ((s.set F.MGT_ST_STAT_RESULT 0 result).set F.MGT_ST_STAT_TEST 0 test).set F.MGT_ST_STAT_DETAIL 0 detail

/-- A test starts. [DEDUCED 160 unsafe] -/
def startTest (s : State) (test arg : Nat) : State := (s.testResult test 0 0).onMgt fun m => { m with test := some (test, arg) }

/-- The test that runs: one that asked for a veer runs once the hub is standby (R511). -/
def runningTest (s : State) : Option (Nat × Nat) :=
  match s.mgt.test, s.mgt.veer with
  | some t, _ => some t
  | none, some (.test n a) => if s.standby then some (n, a) else none
  | none, _ => none

/-- In a lull the next test of its queue starts (R512). -/
def startQueued (s : State) : State :=
  match s.mgt.lullTests with
  | (n, a) :: rest => if s.flag F.MGT_STAT_LULL then (s.onMgt fun m => { m with lullTests := rest }).startTest n a else s
  | [] => s

/-- The running test is over. -/
def nextTest (s : State) : State :=
  (s.onMgt fun m => { m with test := none, veer := match m.veer with
    | some (.test _ _) => none
    | v => v }).startQueued

/-- The block whose memory an MBIST tests; PADRB works on FPN. [DEDUCED 160 unsafe] -/
def testBlock (test arg : Nat) : Option Nat :=
  if test = 8 then some 5
  else if test ≠ 9 then none
  else if arg = 0 then some 2 else if arg = 1 then some 4 else if arg = 2 then some 6 else if arg = 3 then some 7 else none

/-- The block of a test is reset under R480. -/
def testReset (s : State) (b : Option Nat) : State :=
  match b with
  | some b => (blkRst (2 ^ b) s).2
  | none => s

end State

/-- A write of MGT.ST_CTL (R510, R511). [DEDUCED 160 unsafe] -/
def stWrite (w : Nat) (s : State) : State.Res × State :=
  let test := w % 16
  let arg := bits w 11 4
  if bit w 14 && s.runningTest.isSome then ({ st := .busy }, s)
  else
    let s := s.setWord 0x120140 (BitVec.ofNat 32 (w % 2 ^ 14))
    if !bit w 14 then ({}, s)
    else if 1 ≤ test ∧ test ≤ 4 then ({}, s.startTest test arg)
    else if test ≠ 8 ∧ test ≠ 9 then ({}, s)
    else if test = 9 ∧ 4 ≤ arg then ({}, s.testResult test 3 0)
    else if s.standby || s.flag F.MGT_STAT_MAINT || s.flag F.MGT_STAT_LULL then ({}, s.startTest test arg)
    else if bit w 13 then
      if 4 ≤ s.mgt.lullTests.length then ({}, s.testResult test 3 0)
      else ({}, (s.testResult test 5 0).onMgt fun m => { m with lullTests := m.lullTests ++ [(test, arg)] })
    else if bit w 12 && s.activeTwin && s.healthy then
      ({}, ((s.testResult test 0 0).requestVeer).onMgt fun m => { m with veer := some (.test test arg) })
    else ({}, s.testResult test 3 0)

/-- TEST_COMPLETE (R510, R512): the running test ends with PASS or FAIL and its detail; MBIST ends with a reset of its block. -/
def execTestComplete (pass : Bool) (detail : Nat) (s : State) : Out :=
  match s.runningTest with
  | none => .next s
  | some (n, a) =>
    let s := s.testResult n (if pass then 1 else 2) detail
    let s := if pass then s.note 0x37 18 [n, a, 1, detail] else s.event 0x37 18 3 [n, a, 2, detail]
    let s := if n = 9 then s.testReset (State.testBlock n a) else s
    .next s.nextTest

/-- LULL_END (R512): the lull ends; an intrusive test that still runs is stopped, and its block is reset as an MBIST resets it. [DEDUCED 160 unsafe] -/
def execLullEnd (s : State) : Out :=
  if !s.flag F.MGT_STAT_LULL ∨ s.up < s.mgt.lullEnd then .next s
  else
    let s := s.set F.MGT_STAT_LULL 0 0
    match s.mgt.test with
    | some (n, a) =>
      if 8 ≤ n then
        let s := (s.testResult n 4 0).note 0x37 18 [n, a, 4, 0]
        .next ((s.testReset (State.testBlock n a)).onMgt fun m => { m with test := none })
      else .next s
    | none => .next s

/-! ### Updates (R516, R517) -/

/-- The hub has been LOADED and admitted for 600 s without a reset, of a block neither (R516). [DEDUCED 163 unsafe] -/
def State.settled (s : State) : Bool :=
  s.img.loaded && s.admitted && decide (max s.img.loadedAt s.rng.admAt + 600000000000 ≤ s.up)
    && s.ckr.rstAt.all (fun p => decide (p.2 + 600000000000 ≤ s.up))

/-- AUTOCONF (R516). -/
def execAutoconf (s : State) : Out :=
  .next (if s.flag F.MGT_UPD_CFG_AUTOCONF && s.updPending && s.settled then s.confirmUpdate else s)

/-- CONF_TIMEOUT (R517): CONFTMO seconds have passed since ACTIVATE. -/
def execConfTimeout (s : State) : Out :=
  match s.mgt.updAt with
  | none => .next s
  | some t => .next (if s.updPending ∧ t + s.get F.MGT_UPD_CFG_CONFTMO * 1000000000 ≤ s.up then s.fallBack 1 else s)

end Sys2Proof.Machine
end

