-- ==== Sys2Proof/Machine/Hist.lean ====
section
/-! DEFINITION. The historian (chapter 19): records, pages, the medium, its reading and replication. Log blocks are numbered by their
position in the circular log (R531), from block 8 on in the order block, LUN, chip enable. -/
namespace Sys2Proof.Machine

/-- The 32 bytes of a record (Table 19-2). -/
def HistRec.bytes (r : HistRec) : List Byte :=
  be 1 r.kind ++ be 1 r.flags ++ be 1 r.src ++ be 1 r.aux ++ be 6 r.sec ++ be 4 r.ns ++ be 4 r.rseq ++ be 2 r.index ++ be 2 r.seq2
    ++ be 2 r.aux2 ++ be 8 r.data

/-- The record that 32 bytes hold. -/
def HistRec.ofBytes (l : List Byte) : HistRec :=
  { kind := beAt l 0 1, flags := beAt l 1 1, src := beAt l 2 1, aux := beAt l 3 1, sec := beAt l 4 6, ns := beAt l 10 4, rseq := beAt l 14 4,
    index := beAt l 18 2, seq2 := beAt l 20 2, aux2 := beAt l 22 2, data := beAt l 24 8 }

namespace State

/-- Change the historian. -/
def onHst (s : State) (g : HstSt → HstSt) : State := { s with hst := g s.hst }

/-- The state of the historian: 0 OFF, 1 MOUNTING, 2 READY, 3 STOPPED, 4 NODEV, 5 MISMATCH. -/
def hstState (s : State) : Nat := s.get F.HST_STAT_STATE

/-- The bytes of a page's data area (HST.GEOM). -/
def pageSize (s : State) : Nat := 4096 * 2 ^ s.get F.HST_GEOM_PGSZ

/-- The records of a page (R528). -/
def pageRecs (s : State) : Nat := s.pageSize / 32 - 2

/-- The LUNs of all targets. [DEDUCED 165 unsafe] -/
def luns (s : State) : Nat := (s.get F.HST_CFG_CECNT + 1) * (s.get F.HST_CFG_LUNS + 1)

/-- The number of log blocks (R531). [DEDUCED 165 unsafe] -/
def logBlocks (s : State) : Nat := (s.get F.HST_NAND_BLOCKS - 8) * s.luns

/-- A log block. -/
def hblock (s : State) (b : Nat) : HBlock := Tbl.getD s.hst.blocks b {}

/-- Change a log block. -/
def setHblock (s : State) (b : Nat) (v : HBlock) : State := s.onHst fun h => { h with blocks := Tbl.put h.blocks b v }

/-! ### Pages -/

/-- The data area of a page (Table 19-5). [DEDUCED 166 unsafe] -/
def pageBytes19 (s : State) (p : HPage) : List Byte :=
  let head := be 4 0x42485354 ++ be 1 (s.get F.HST_GEOM_PGSZ) ++ be 1 s.hubNum ++ be 6 p.num ++ be 4 p.mount ++ be 8 p.first
    ++ be 2 p.recs.length ++ be 1 (b2n p.flushed + 2 * b2n p.unsigned) ++ zeros 5
  head ++ p.recs.flatten ++ List.replicate (32 * (s.pageRecs - p.recs.length)) 0xFF ++ slice p.prev 0 16 ++ slice p.tag 0 16

/-- The tag of a page by a GMAC-GEN job of the user page and slot of HST.SIGN (R530); none where the job does not end OK. [DEDUCED 166 unsafe] -/
def pageTag (s : State) (p : HPage) : Option (List Byte) :=
  let k := s.get F.HST_SIGN_SLOT
  let slot : KeySlot := Tbl.getD s.cry.slots k {}
  let mine := match s.page? (s.get F.HST_SIGN_PAGE) with
    | some q => decide (q.hub = s.hubNum) && decide (q.init = 6)
    | none => false
  if mine && s.slotIn (s.get F.HST_SIGN_PAGE) k && decide (slot.st = .ready) && !s.cry.squall then
    some (gcmSeal slot.key (be 4 p.mount ++ [0, 0] ++ be 6 p.num) ((s.pageBytes19 p).take (s.pageSize - 16)) []).2
  else none

/-- Close the page of the oldest staged records (R528, R530). [DEDUCED 166 unsafe] -/
def closePage (s : State) (flushed : Bool) : State :=
  let h := s.hst
  let recs := h.stage.take s.pageRecs
  if recs.isEmpty then s
  else
    let p : HPage := { num := h.nextPage, mount := h.mount, first := h.next - h.stage.length, recs := recs, flushed := flushed,
                       prev := slice h.lastTag 0 16, tag := zeros 16 }
    let tag := if s.flag F.HST_SIGN_EN then s.pageTag p else none
    let s := if s.flag F.HST_SIGN_EN && tag.isNone then s.set F.HST_STAT_SIGNLOST 0 1 else s
    let p := match tag with
      | some t => { p with tag := t }
      | none => { p with unsigned := true }
    s.onHst fun h => { h with stage := h.stage.drop s.pageRecs, stageAt := h.stageAt.drop s.pageRecs, prog := h.prog ++ [p],
                              nextPage := h.nextPage + 1, lastTag := p.tag }

/-- A flush (R524, R528): the full pages that are staged are closed, and the partial page behind them. -/
def flushStage (s : State) : State :=
  (List.range (cdiv s.hst.stage.length (max 1 s.pageRecs))).foldl (fun s _ => s.closePage (decide (s.hst.stage.length < s.pageRecs))) s

/-- Full pages leave the staging queue while a LUN is free for them. [DEDUCED 165 unsafe] -/
def pump (n : Nat) (s : State) : State :=
  match n with
  | 0 => s
  | n + 1 =>
    if s.hstState = 2 ∧ !s.hst.warned ∧ s.pageRecs ≤ s.hst.stage.length ∧ s.hst.prog.length < s.luns then pump n (s.closePage false) else s

/-! ### Records -/

/-- Put a record into the staging queue with the next local number (R524); one that this hub made is also replicated (R539). [DEDUCED 167 unsafe] -/
def stageRec (s : State) (own : Bool) (r : HistRec) : State :=
  let r := if own then { r with rseq := s.hst.rseq } else r
  let b := r.bytes
  let s := s.onHst fun h => { h with
    stage := h.stage ++ [b], stageAt := h.stageAt ++ [s.up], next := (h.next + 1) % 2 ^ 64, sinceMark := h.sinceMark + 1, rseq := if own then (h.rseq + 1) % 2 ^ 32 else h.rseq,
    repl0 := if own && s.flag F.HST_REPL_EN0 then h.repl0 ++ [b] else h.repl0,
    repl1 := if own && s.flag F.HST_REPL_EN1 then h.repl1 ++ [b] else h.repl1,
    repl0At := if own && s.flag F.HST_REPL_EN0 then h.repl0At ++ [s.up] else h.repl0At,
    repl1At := if own && s.flag F.HST_REPL_EN1 then h.repl1At ++ [s.up] else h.repl1At }
  s.set F.HST_STAGE_PEAK 0 (max (s.get F.HST_STAGE_PEAK) s.hst.stage.length)

/-- A LOSS record (Table 19-3). [DEDUCED 167 unsafe] -/
def lossRec (s : State) (cause count sec ns : Nat) : HistRec :=
  { kind := 6, flags := if s.timeLocked then 0 else 2, src := s.hubNum, aux := cause, sec := sec, ns := ns, data := count }

/-- A record is dropped (R525). [DEDUCED 167 unsafe] -/
def dropRec (s : State) : State :=
  let now : HDrops := { count := 0, sec := s.sec, ns := s.nsec }
  (s.bump F.HST_CNT_DROP).onHst fun h =>
    let d := h.drops.getD now
    { h with drops := some { d with count := d.count + 1 }, lostMark := h.lostMark + 1 }

/-- Once the queue has room the drops are recorded first (R525). [DEDUCED 167 unsafe] -/
def recordDrops (s : State) : State :=
  match s.hst.drops with
  | none => s
  | some d => (s.onHst fun h => { h with drops := none }).stageRec true (s.lossRec 1 d.count d.sec d.ns)

/-- The queue takes a record. -/
def hasStage (s : State) : Bool := decide (s.hstState ≠ 3) && decide (s.hst.stage.length < 2048)

/-- HST accepts or drops a record of a producer (R522, R524, R525). -/
def acceptRec (s : State) (producer : Nat) (r : HistRec) : State :=
  if !s.flag F.HST_CFG_EN then s
  else if !s.hasStage then s.dropRec
  else
    let s := s.recordDrops
    if !s.hasStage then s.dropRec
    else if producer = 4 then
      let s := match Tbl.find? s.hst.lastRseq r.src with
        | some n => if r.rseq = (n + 1) % 2 ^ 32 then s else s.bump F.HST_CNT_REPLGAP
        | none => s
      ((s.onHst fun h => { h with lastRseq := Tbl.put h.lastRseq r.src r.rseq }).stageRec false { r with flags := r.flags ||| 1 }).pump 8
    else if r.kind = 4 then
      let h := s.hst
      let s := s.stageRec true { r with data := h.sinceMark % 2 ^ 32 * 2 ^ 32 + h.lostMark % 2 ^ 32 }
      let s := s.onHst fun h => { h with sinceMark := 0, lostMark := 0 }
      if s.hstState = 2 then s.flushStage else s
    else (s.stageRec true r).pump 8

end State

/-- HIST_RECORD (R522, R524): the next waiting record in the order RFX, EPO, IMG, MGT, inbox. -/
def execHistRecord (s : State) : Out :=
  match (if s.blockBusy 19 then none else ((List.range 5).filterMap (fun p => s.recs.find? (fun e => decide (e.1 = p)))).head?) with
  | none => .next s
  | some e => .next ({ s with recs := s.recs.erase e }.acceptRec e.1 e.2)

/-- HST starts work on the medium: it is READY, its clock runs, and no power warning has come (R475, R536). -/
def State.hstRuns (s : State) : Bool := decide (s.hstState = 2) && !s.hst.warned && !s.blockBusy 19

/-- FLUSH ms have passed since the first record of a partial page (R528). -/
def State.flushDue (s : State) : Bool := match s.hst.stageAt with
  | [] => false
  | t :: _ => decide (s.hst.stage.length < s.pageRecs) && decide (t + s.get F.HST_CFG_FLUSH * 1000000 ≤ s.up)

/-- PAGE_FLUSH_TIMEOUT (R528). -/
def execPageFlushTimeout (s : State) : Out := .next (if s.hstRuns && s.flushDue then s.closePage true else s)

/-! ### The medium (R531 to R534) -/

namespace State

/-- The mean erase count of the log blocks. -/
def meanErase (s : State) : Nat := s.hst.formats + (s.hst.blocks.map (fun p => p.2.erases)).sum / max 1 s.logBlocks

/-- The medium is worn (R533). -/
def checkWorn (s : State) : State :=
  let grown := (s.hst.blocks.filter (fun p => decide (p.2.bad = 2))).length
  if s.logBlocks < 50 * grown ∨ s.get F.HST_ENDUR_CYCLES ≤ s.meanErase then s.set F.HST_STAT_WORN 0 1 else s

/-- The next block of the log that can be written, after a block. [DEDUCED 165 unsafe] -/
def nextBlock (s : State) (b n : Nat) : Option Nat :=
  match n with
  | 0 => none
  | n + 1 =>
    let c := (b + 1) % max 1 s.logBlocks
    let k := s.hblock c
    if k.bad = 0 ∧ !k.retired then some c else nextBlock s c n

/-- The write head goes to the next good block (R531, R534): an erased one is written at once, another is erased first, or stops HST
where it holds history and STOPFULL is set. [DEDUCED 165 unsafe] -/
def advance (s : State) (stop : Bool) : State :=
  match s.nextBlock s.hst.head (s.hst.blocks.length + 2) with
  | none => s
  | some c =>
    let k := s.hblock c
    let s := if c ≤ s.hst.head then s.onHst fun h => { h with blocks := h.blocks.map (fun p => (p.1, { p.2 with retired := false })) } else s
    if k.erased then s.onHst fun h => { h with head := c }
    else if stop && !k.pages.isEmpty then s.set F.HST_STAT_STATE 0 3
    else s.onHst fun h => { h with erasing := some c }

/-- The level of NF_WP_N: low except during a program or an erase (R527). -/
def nfWpN (s : State) : Bool := decide (s.hstState = 2) && (s.hst.erasing.isSome || !s.hst.prog.isEmpty)

/-- The write head's block takes a page. -/
def headOpen (s : State) : Bool :=
  let k := s.hblock s.hst.head
  s.hst.erasing.isNone && decide (k.bad = 0) && (k.erased || !k.pages.isEmpty) && decide (k.pages.length < s.get F.HST_GEOM_PPB)

end State

/-- PAGE_PROGRAM_DONE (R533): the oldest page buffer has been programmed at the write head; on FAIL the block is retired, and the page is
programmed again, unchanged, in the next good block. -/
def execPageProgramDone (fail : Bool) (s : State) : Out :=
  match s.hst.prog with
  | [] => .next s
  | p :: rest =>
    if !s.headOpen || s.blockBusy 19 then .next s
    else
      let b := s.hst.head
      let k := s.hblock b
      let stop := s.flag F.HST_CFG_STOPFULL
      if fail then
        .next ((((s.bump F.HST_CNT_PGMFAIL).setHblock b { k with bad := 2, erased := false }).checkWorn).advance stop)
      else
        let s := s.onHst fun h => { h with prog := rest, pages := Tbl.put h.pages p.num p,
                                           blocks := h.blocks.map (fun x => (x.1, { x.2 with pages := x.2.pages.filter (fun n => decide (n ≠ p.num)) })) }
        let s := s.setHblock b { k with pages := k.pages.filter (fun n => decide (n ≠ p.num)) ++ [p.num], reads := 0, erased := false, patrolAt := s.up, scrubbed := false }
        let s := s.bumpBy F.HST_CNT_REC 0 p.recs.length
        .next ((if s.get F.HST_GEOM_PPB ≤ (s.hblock b).pages.length then s.advance stop else s).pump 8)

/-- BLOCK_ERASE_DONE (R533): the block is erased and becomes the write head, and its history is gone; on FAIL it is retired. [DESIGN CHOICE 5 safe] -/
def execBlockEraseDone (fail : Bool) (s : State) : Out :=
  match (if s.blockBusy 19 then none else s.hst.erasing) with
  | none => .next s
  | some b =>
    let k := s.hblock b
    let s := s.onHst fun h => { h with erasing := none, pages := h.pages.filter (fun p => !k.pages.contains p.1), head := b }
    if fail then
      .next ((((s.bump F.HST_CNT_ERSFAIL).setHblock b { pages := [], erases := k.erases, bad := 2, erased := false }).checkWorn).advance
        (s.flag F.HST_CFG_STOPFULL))
    else .next ((s.setHblock b { erases := k.erases + 1 }).checkWorn)

namespace State

/-- Format the medium (R532): the bad-block table is built and the log blocks are erased; numbering starts again. [DEDUCED 168 unsafe] -/
def format (s : State) (factory : List Nat) : State :=
  let bad : Map HBlock := (s.hst.blocks.filter (fun p => decide (p.2.bad = 2))).map (fun p => (p.1, { erases := p.2.erases, bad := 2, erased := false }))
  let blocks := factory.foldl (fun (m : Map HBlock) b => Tbl.put m b { bad := 1, erased := false }) bad
  let start : Nat := ((List.range (factory.length + bad.length + 1)).find? (fun b => !Tbl.has blocks b)).getD 0
  s.onHst fun h => { h with pages := [], blocks := blocks, head := start, erasing := none, nextPage := 0, next := h.stage.length, lastTag := [],
                            prog := [], formats := h.formats + 1 }

/-- The newest local number on the medium plus 1; 0 for an empty one. -/
def newestEnd (s : State) : Nat := s.hst.pages.foldl (fun a p => max a (p.2.first + p.2.recs.length)) 0

/-- The oldest local number on the medium. -/
def oldest (s : State) : Nat := s.hst.pages.foldl (fun a p => min a p.2.first) s.newestEnd

/-- The newest page that the medium holds. -/
def newestPage (s : State) : Option HPage := (s.hst.pages.getLast?).map (fun p => p.2)

/-- The torn last page is abandoned with the rest of its block (R537). [DEDUCED 168 unsafe] -/
def dropTorn (s : State) : State :=
  match s.newestPage with
  | none => s
  | some p =>
    let s := s.onHst fun h => { h with pages := Tbl.erase h.pages p.num,
                                       blocks := h.blocks.map (fun x => (x.1, { x.2 with pages := x.2.pages.filter (fun n => decide (n ≠ p.num)) })) }
    ((s.set F.HST_STAT_TORN 0 1).bump F.HST_CNT_TORN).advance (s.flag F.HST_CFG_STOPFULL)

/-- Records that were accepted and did not reach the medium are recorded as lost, and numbering goes on above them (R537). [DEDUCED 167 unsafe] -/
def recoverLoss (s : State) (before : Nat) : State :=
  let top := s.newestEnd
  let word := s.incRec.last
  let staged := s.hst.stage
  let put (s : State) (cause upto : Nat) : State :=
    let since := s.hst.stageAt
    let s := (s.onHst fun h => { h with stage := [], stageAt := [], next := upto }).stageRec true (s.lossRec cause (upto - top) s.sec s.nsec)
    s.onHst fun h => { h with stage := h.stage ++ staged, stageAt := h.stageAt ++ since, next := h.next + staged.length }
  if top < word + 1 ∧ 0 < word then put s 2 (word + 1)
  else if top < before then put s 3 before
  else s.onHst fun h => { h with next := top + staged.length }

end State

/-- HST_MOUNT (R527, R532, R537): `dev` and `same` say that the device answers and is the declared one; a device without a valid page
header that was never formatted is formatted, with the positions of its factory bad blocks. `torn` and `partly` are what the reading of
the write head finds: a torn last page; a block neither programmed nor fully erased. [DEDUCED 168 unsafe] -/
def execHstMount (dev same torn partly : Bool) (factory : List Nat) (s : State) : Out :=
  if s.hstState ≠ 1 ∨ s.blockBusy 19 then .next s
  else if !dev then .next (s.set F.HST_STAT_STATE 0 4)
  else if !same then .next (s.set F.HST_STAT_STATE 0 5)
  else
    let s := s.setInc fun r => { r with mount := (r.mount + 1) % 2 ^ 32 }
    let mount := s.incRec.mount
    let s := s.onHst fun h => { h with mount := mount, warned := false }
    let s := s.set F.HST_STAT_STATE 0 2
    if s.hst.pages.isEmpty ∧ s.hst.formats = 0 then .next ((s.format factory).pump 8)
    else
      let before := s.newestEnd
      let s := if torn then s.dropTorn else s
      let last := s.newestPage
      let s := s.onHst fun h => { h with nextPage := (last.map (fun p => p.num + 1)).getD 0, lastTag := (last.map (fun p => p.tag)).getD [] }
      let s := if partly then s.onHst fun h => { h with erasing := some h.head } else s
      .next ((s.recoverLoss before).pump 8)

/-- A write of HST.CTL (R528, R532, R534). -/
def hstCtl (w : Nat) (s : State) : State.Res × State :=
  if bit w 2 && !s.flag F.HST_CFG_FMTOK then ({ st := .viol }, s)
  else
    let bad := (s.hst.blocks.filter (fun p => decide (p.2.bad = 1))).map (fun p => p.1)
    let s := if bit w 2 && decide (s.hstState = 2 ∨ s.hstState = 3) then s.format bad else s
    let s := if bit w 3 && decide (s.hstState = 3) then (s.set F.HST_STAT_STATE 0 2).advance false else s
    let s := if bit w 1 then s.record 2 { kind := 4, src := s.hubNum, aux := 0xFF, sec := s.sec, ns := s.nsec } else s
    ({}, if bit w 0 && decide (s.hstState = 2) then s.flushStage else s)

/-! ### Scrubbing (R535) -/

namespace State

/-- A block is read whole: `corr` codewords are corrected, `uncorr` cannot be, in the pages `lost`; one that `needs` it is copied to the
write head, its lost pages replaced by LOSS records, and retired for the rest of the pass. [DEDUCED 168 unsafe] -/
def scrubBlock (s : State) (b : Nat) (needs : Bool) (corr uncorr : Nat) (lost : List Nat) : State :=
  let k := s.hblock b
  let s := s.setHblock b { k with reads := k.reads + k.pages.length, patrolAt := s.up, scrubbed := true }
  let s := (s.bumpBy F.HST_CNT_CORR 0 corr).bumpBy F.HST_CNT_UNCORR 0 uncorr
  let gone := k.pages.filter (fun n => lost.contains n)
  if !needs && gone.isEmpty then s
  else
    let copies := (k.pages.filter (fun n => !lost.contains n)).filterMap (fun n => Tbl.find? s.hst.pages n)
    let s := gone.foldl (fun (s : State) n =>
      match Tbl.find? s.hst.pages n with
      | none => s
      | some p => (s.onHst fun h => { h with pages := Tbl.erase h.pages n }).stageRec true (s.lossRec 4 p.recs.length s.sec s.nsec)) s
    let s := s.setHblock b { s.hblock b with retired := true, pages := k.pages.filter (fun n => !lost.contains n) }
    let s := (s.onHst fun h => { h with prog := copies ++ h.prog }).bump F.HST_CNT_RELOC
    if s.hst.head = b then s.advance (s.flag F.HST_CFG_STOPFULL) else s

end State

/-- A block has reached RDLIM × 1,000 reads since its last program and was not read whole for that (R535). [DEDUCED 168 unsafe] -/
def State.scrubDue (s : State) (b : Nat) : Bool :=
  s.hstRuns && decide (s.get F.HST_SCRUB_RDLIM * 1000 ≤ (s.hblock b).reads) && !(s.hblock b).scrubbed

/-- A block of retained history was last read whole or programmed PATROL days ago (R535). -/
def State.patrolDue (s : State) (b : Nat) : Bool :=
  s.hstRuns && !(s.hblock b).pages.isEmpty && decide ((s.hblock b).patrolAt + s.get F.HST_SCRUB_PATROL * 86400000000000 ≤ s.up)

/-- BLOCK_SCRUB (R535). -/
def execBlockScrub (hblk : Nat) (needs : Bool) (corr uncorr : Nat) (lost : List Nat) (s : State) : Out :=
  if s.scrubDue hblk then .next (s.scrubBlock hblk needs corr uncorr lost) else .next s

/-- PATROL_SCRUB (R535). -/
def execPatrolScrub (hblk : Nat) (needs : Bool) (corr uncorr : Nat) (lost : List Nat) (s : State) : Out :=
  if s.patrolDue hblk then .next (s.scrubBlock hblk needs corr uncorr lost) else .next s

/-! ### Reading the history (R538) -/

namespace State

/-- The local number behind an offset of the record view. -/
def recAt (s : State) (off : Nat) : Nat :=
  let o := s.oldest
  o + (off / 32 + 2 ^ 30 - o % 2 ^ 30) % 2 ^ 30

/-- The page of a local number. -/
def pageOfRec (s : State) (n : Nat) : Option HPage :=
  (s.hst.pages.find? (fun p => decide (p.2.first ≤ n) && decide (n < p.2.first + p.2.recs.length))).map (fun p => p.2)

/-- The page behind an offset of the page view. [DEDUCED 169 unsafe] -/
def pageAt (s : State) (off : Nat) : Option HPage :=
  let o := (s.hst.pages.head?.map (fun p => p.1)).getD 0
  Tbl.find? s.hst.pages (o + ((off - 2 ^ 35) / 2 ^ 14 + 2 ^ 21 - o % 2 ^ 21) % 2 ^ 21)

/-- A byte of space 0x6: the number of its page, if it lies in one, and its value; none where the read is UR. -/
def histByte (s : State) (off : Nat) : Option (Option Nat × Byte) :=
  if off < 2 ^ 35 then
    let n := s.recAt off
    if s.newestEnd ≤ n then none
    else match s.pageOfRec n with
      | some p => some (some p.num, (p.recs.getD (n - p.first) []).getD (off % 32) 0)
      | none => some (none, 0)
  else (s.pageAt off).map (fun p => (some p.num, if off % 2 ^ 14 < s.pageSize then (s.pageBytes19 p).getD (off % 2 ^ 14) 0 else 0))

/-- A RD of space 0x6 (R538): UR, or it waits for NAND page reads. [DEDUCED 169 unsafe] -/
def histRead (s : State) (f : Frame) : Option State :=
  if (s.hstState = 2 ∨ s.hstState = 3) ∧ (List.range f.len).all (fun i => (s.histByte (f.offset + i)).isSome) then
    some (s.onHst fun h => { h with reads := h.reads ++ [{ req := f }] })
  else none

/-- The bytes that lie in the same page from an offset on, at most n. -/
def sameRun (s : State) (off n : Nat) : List Byte :=
  let page (i : Nat) : Option Nat := (s.histByte (off + i)).bind (fun x => x.1)
  ((List.range n).takeWhile (fun i => decide (page i = page 0))).map (fun i => ((s.histByte (off + i)).map (fun x => x.2)).getD 0)

end State

/-- NAND_PAGE_READ_DONE (R535, R538): the page read of the oldest window read ends: with an uncorrectable codeword the read is POISON;
an ABORT that has won takes effect here. [DEDUCED 169 unsafe, DEDUCED 170 safe] -/
def execNandPageReadDone (uncorr : Bool) (corr : Nat) (s : State) : Out :=
  match (if s.blockBusy 19 then [] else s.hst.reads) with
  | [] => .next s
  | r :: rest =>
    let f := r.req
    let off := f.offset + r.data.length
    let s := (s.bumpBy F.HST_CNT_CORR 0 corr).onHst fun h => { h with
      blocks := h.blocks.map (fun x => (x.1, if x.2.pages.any (fun n => decide (((s.histByte off).bind (fun y => y.1)) = some n)) then { x.2 with reads := x.2.reads + 1 } else x.2)) }
    let data := r.data ++ s.sameRun off (f.len - r.data.length)
    let fin (s : State) : State := s.onHst fun h => { h with reads := rest }
    if uncorr then
      let s := fin (s.bump F.HST_CNT_UNCORR)
      match r.abort with
      | some q => .next (s.complete 8 (s.cmpOf q .ok false false true (countData r.data.length)))
      | none => .next (s.answer 8 f { st := .poison })
    else match r.abort with
      | some q => .next ((fin s).complete 8 (s.cmpOf q .ok false false true (countData data.length)))
      | none =>
        if f.len ≤ data.length then .next ((fin s).answer 8 f { st := .ok, data := data })
        else .next (s.onHst fun h => { h with reads := { r with data := data } :: rest })

/-! ### Replication (R539) -/

/-- A frame of replicated records is due: 32 records are ready, or BATCH ms have passed since the first (R539). -/
def State.replDue (s : State) (l : List (List Byte)) (since : List Nat) : Bool :=
  !s.blockBusy 19 && (decide (32 ≤ l.length) || (match since with
    | [] => false
    | t :: _ => decide (t + s.get F.HST_REPL_BATCH * 1000000 ≤ s.up)))

/-- REPL_SEND (R539): up to 32 records go to the inbox of target `second`. -/
def execReplSend (second : Bool) (s : State) : Out :=
  let l := if second then s.hst.repl1 else s.hst.repl0
  if l.isEmpty || !s.replDue l (if second then s.hst.repl1At else s.hst.repl0At) then .next s
  else
    let dst := if second then s.get F.HST_REPL_TGT1 else s.get F.HST_REPL_TGT0
    let pay := (l.take 32).flatten
    let s := s.onHst fun h => if second then { h with repl1 := l.drop 32, repl1At := h.repl1At.drop 32 }
      else { h with repl0 := l.drop 32, repl0At := h.repl0At.drop 32 }
    let s := s.bump F.HST_CNT_REPLTX
    .next (s.sendWrite 8 { tt := .wr, tc := 12, dst := dst, init := 6, addr := fabAddr dst 4 (s.get F.HST_INBOX_BASE * 4096), len := pay.length, pay := pay })

/-- A write into the inbox (R539): its records wait for HST with REPL set. [DEDUCED 167 unsafe] -/
def inboxWrite (f : Frame) (s : State) : State.Res × State :=
  if f.pay.length % 32 ≠ 0 then ({ st := .ur }, s)
  else ({}, { s with recs := s.recs ++ (List.range (f.pay.length / 32)).map (fun k => (4, HistRec.ofBytes (slice f.pay (32 * k) 32))) })

end Sys2Proof.Machine
end

