-- ==== Sys2Proof/Machine/Power.lean ====
section
/-! DEFINITION. The power-entry controller (chapter 17). The states are coded as in Table 17-2: 0 OFF, 1 INSDLY, 2 PRECHARGE, 3 RAMP,
4 QUAL, 5 ON, 6 RETRY, 7 LATCHED. -/
namespace Sys2Proof.Machine

namespace State

/-- Change the power die. -/
def onPwr (s : State) (g : PwrSt → PwrSt) : State := { s with pwr := g s.pwr }

/-- The state of the controller. -/
def pwrState (s : State) : Nat := s.get F.PWR_STAT_STATE

/-- Show a state of the controller. [DEDUCED 152 unsafe] -/
def toPwr (s : State) (k : Nat) : State := (s.set F.PWR_STAT_STATE 0 k).onPwr fun p => { p with stateAt := s.up }

/-- Show the retry count. -/
def setRcnt (s : State) (n : Nat) : State := (s.onPwr fun p => { p with rcnt := n }).set F.PWR_STAT_RCNT 0 n

/-- PG deasserts, the hub die is warned of loss of supply and its power-good follows (Table 17-3). -/
def dropPg (s : State) : State :=
  let s := s.set F.PWR_STAT_PG 0 0
  if s.flag F.PWR_STAT_HDPG then s.hstWarn.powerOff 1 1 else s.bypassDrive

/-- The gate turns off: from QUAL and ON in the order of Table 17-3, from any other state at once (R492). -/
def turnOff (s : State) : State :=
  let s := if 4 ≤ s.pwrState ∧ s.pwrState ≤ 5 then s.dropPg else s
  ((s.set F.PWR_STAT_LIMITING 0 0).set F.PWR_STAT_FTACT 0 0).onPwr fun p => { p with gateOn := false, qualAt := none }

/-- A trip (R494): cause 1 CURRENT, 2 PRECHARGE. -/
def trip (s : State) (cause : Nat) : State :=
  let s := s.turnOff
  let n := min 16 (s.pwr.rcnt + 1)
  let s := (((s.setRcnt n).bump F.PWR_CNT_TRIP).set F.PWR_FLAGS_TRIP 0 1).set F.PWR_STAT_LASTTRIP 0 cause
  if s.get F.PWR_CFG_RTY_RETRIES < n then (s.toPwr 7).onPwr fun p => { p with cls := 2, retryAt := none }
  else
    let at_ := s.up + s.get F.PWR_CFG_RTY_RETRYDLY * 100000000
    (s.toPwr 6).onPwr fun p => { p with cls := 1, retryAt := some at_ }

end State

/-- VIN_ENTER_WINDOW (R493, Table 17-2). -/
def execVinEnterWindow (s : State) : Out :=
  let s := s.onPwr fun p => { p with vinIn := true, vinSince := s.up }
  .next (if s.pwr.vaux ∧ s.pwrState = 0 then s.toPwr 1 else s)

/-- VIN_LEAVE_WINDOW (R492, R493): below UV_OFF, or above OV_OFF (`over`). It is no trip; the state goes to OFF, and RETRY and LATCHED
stay. [DEDUCED 154 unsafe] -/
def execVinLeaveWindow (high : Bool) (s : State) : Out :=
  let s := s.onPwr fun p => { p with vinIn := false }
  if !s.pwr.vaux then .next s
  else
    let k := s.pwrState
    let s := if high then s.set F.PWR_FLAGS_OV 0 1 else if 4 ≤ k ∧ k ≤ 5 then s.set F.PWR_FLAGS_UV 0 1 else s
    .next (if k ≤ 5 then s.turnOff.toPwr 0 else s)

/-- INSERTION_DELAY_END (R487): VIN has stayed in the window for INSDLY × 10 ms. -/
def execInsertionDelayEnd (s : State) : Out :=
  .next (if s.pwr.vaux ∧ s.pwrState = 1 ∧ s.pwr.vinIn ∧ s.pwr.vinSince + s.get F.PWR_CFG_RTY_INSDLY * 10000000 ≤ s.up then s.toPwr 2 else s)

/-- PRECHARGE_END (R487). -/
def execPrechargeEnd (s : State) : Out := .next (if s.pwr.vaux ∧ s.pwrState = 2 then s.toPwr 3 else s)

/-- PRECHARGE_TIMEOUT (R487): pre-charge has not ended after PCTMO. -/
def execPrechargeTimeout (s : State) : Out :=
  .next (if s.pwr.vaux ∧ s.pwrState = 2 ∧ s.pwr.stateAt + s.get F.PWR_CFG_LIM_PCTMO * 5000000 ≤ s.up then s.trip 2 else s)

/-- GATE_FULLY_ON (R487, R490): RAMP ends, and a qualifying window starts if the fault timer is idle. -/
def execGateFullyOn (s : State) : Out :=
  if s.pwr.vaux ∧ (s.pwrState = 3 ∨ s.pwrState = 4) then
    let idle := !s.flag F.PWR_STAT_FTACT
    .next ((s.toPwr 4).onPwr fun p => { p with gateOn := true, qualAt := if idle then some s.up else none })
  else .next s

/-- PG_QUALIFIED (R490): the gate has been fully on, and the fault timer idle, for 1 ms. -/
def execPgQualified (s : State) : Out :=
  match s.pwr.qualAt with
  | none => .next s
  | some t =>
    if s.pwr.vaux ∧ s.pwrState = 4 ∧ s.pwr.gateOn ∧ !s.flag F.PWR_STAT_FTACT ∧ t + 1000000 ≤ s.up then
      .next (((s.toPwr 5).set F.PWR_STAT_PG 0 1).onPwr fun p => { p with pgSince := s.up, qualAt := none })
    else .next s

/-- OVERCURRENT (R488, R489, R491): the limiter regulates the gate and the fault timer runs; a qualifying window stops. [DESIGN CHOICE 6 safe] -/
def execOvercurrent (s : State) : Out :=
  if s.pwr.vaux ∧ 3 ≤ s.pwrState ∧ s.pwrState ≤ 5 then
    let started := if s.flag F.PWR_STAT_FTACT then s.pwr.faultAt else s.up
    .next (((s.set F.PWR_STAT_LIMITING 0 1).set F.PWR_STAT_FTACT 0 1).onPwr fun p =>
      { p with gateOn := false, qualAt := none, faultAt := started, overAt := s.up })
  else .next s

/-- FAULT_TIMER_IDLE (R489, R490): the sense voltage has stayed below 90 % of VCB for 100 µs; `full` says that the gate is fully on. [DEDUCED 154 unsafe] -/
def execFaultTimerIdle (full : Bool) (s : State) : Out :=
  if !s.flag F.PWR_STAT_FTACT ∨ s.up < s.pwr.overAt + 100000 then .next s
  else
    let s := (s.set F.PWR_STAT_LIMITING 0 0).set F.PWR_STAT_FTACT 0 0
    if full ∧ (s.pwrState = 4 ∨ s.pwrState = 5) then
      .next (s.onPwr fun p => { p with gateOn := true, qualAt := if s.pwrState = 4 then some s.up else none })
    else .next s

/-- FAULT_TIMER_EXPIRY (R489): the timer reaches FLTTMO. -/
def execFaultTimerExpiry (s : State) : Out :=
  .next (if s.pwr.vaux ∧ s.flag F.PWR_STAT_FTACT ∧ s.pwr.faultAt + s.get F.PWR_CFG_LIM_FLTTMO * 100000 ≤ s.up then s.trip 1 else s)

/-- RETRY_TIMER_EXPIRY (R494, Table 17-2): VIN has been in the window for 10 ms. [DESIGN CHOICE 4 safe] -/
def execRetryTimerExpiry (s : State) : Out :=
  match s.pwr.retryAt with
  | none => .next s
  | some t =>
    if s.pwr.vaux ∧ s.pwrState = 6 ∧ t ≤ s.up ∧ s.pwr.vinIn ∧ s.pwr.vinSince + 10000000 ≤ s.up then
      .next ((s.toPwr 2).onPwr fun p => { p with cls := 0, retryAt := none })
    else .next s

/-- RCNT_CLEAR (R494): PG has stayed asserted for 60 s. -/
def execRcntClear (s : State) : Out :=
  .next (if s.flag F.PWR_STAT_PG ∧ s.pwr.pgSince + 60000000000 ≤ s.up then s.setRcnt 0 else s)

/-- VAUX_LOSS (R492, R495, Table 16-4): the controller turns off, the always-on domain is cleared, and the hold-up domain runs from
HOLD. -/
def execVauxLoss (s : State) : Out :=
  if !s.pwr.vaux then .next s
  else
    let s := s.turnOff
    let s := if s.ckr.held.isNone then s.powerOff 0 0 else
      { s.enterReset 0 0 with ckr := { s.ckr with prelude := none } }
    let s := ((s.toPwr 0).set F.PWR_STAT_PG 0 0).set F.PWR_STAT_HDPG 0 0
    .next ((s.setRcnt s.pwr.rcnt).onPwr fun p => { p with vaux := false, collapsed := false })

/-- VAUX_RETURN (R496, Table 17-4). -/
def execVauxReturn (s : State) : Out :=
  if s.pwr.vaux then .next s
  else
    let s := if s.pwr.collapsed then s.set F.PWR_FLAGS_HUCOLL 0 1 else s.set F.PWR_FLAGS_RESUMED 0 1
    let s := (s.onPwr fun p => { p with vaux := true, collapsed := false }).setRcnt s.pwr.rcnt
    .next (if s.pwr.cls = 1 then s.toPwr 6 else if s.pwr.cls = 2 then s.toPwr 7
      else if s.pwr.vinIn then (s.toPwr 1).onPwr fun p => { p with vinSince := s.up } else s.toPwr 0)

/-- HOLD_COLLAPSE (R495): HOLD falls below 1.2 V, which cannot happen while VAUX is present. -/
def execHoldCollapse (s : State) : Out :=
  .next (if s.pwr.vaux then s else s.onPwr fun p => { p with cls := 0, rcnt := 0, retryAt := none, collapsed := true })

/-- RAIL_OUT_OF_LIMITS (R493). [DEDUCED 154 unsafe] -/
def execRailOutOfLimits (s : State) : Out :=
  let s := s.onPwr fun p => { p with railAt := s.up }
  .next (if s.flag F.PWR_STAT_HDPG then s.powerOff 1 1 else s)

/-- HDPG_ASSERT (R493): PG is asserted and the rails have been within their limits for 2 ms since then. [DEDUCED 154 unsafe] -/
def execHdpgAssert (s : State) : Out :=
  .next (if s.pwr.vaux ∧ s.flag F.PWR_STAT_PG ∧ max s.pwr.pgSince s.pwr.railAt + 2000000 ≤ s.up
    then (s.set F.PWR_STAT_HDPG 0 1).bypassDrive else s)

end Sys2Proof.Machine
end

