-- ==== Sys2Proof/Machine/Snap.lean ====
section
/-! DEFINITION. Snapshots of objects (R209 to R213), ring-wide snapshots (R505) and the image's schedule (R391). -/
namespace Sys2Proof.Machine

/-- Insert an index into an ascending list. -/
def insertUp (n : Nat) : List Nat → List Nat
  | [] => [n]
  | m :: l => if n < m then n :: m :: l else if n = m then m :: l else m :: insertUp n l

/-- The indices of a set in ascending order. -/
def ascending (l : List Nat) : List Nat := l.foldr insertUp []

namespace State

/-- The instant of a snapshot is reached (R210). [DEDUCED 109 unsafe] -/
def instantReached (s : State) (w : Instant) : Bool :=
  match w with
  | .time n => decide (n ≤ s.ns)
  | .phase k x => decide (0 ≤ sdiff 32 (s.phaseNow k) x)

/-- Copy the set and send its frames (R211, Tables 06-6 and 06-7). A standby twin sends none (R205). [DEDUCED 62 unsafe] -/
def takeSnap (s : State) (x : Snap) (late : Bool) : State :=
  let es := x.objs.filterMap (fun i => (s.obj? i).map (fun o => (i, o)))
  let n := max 1 (cdiv es.length 82)
  let (t, ph) : Nat × Nat := match x.instant with
    | .time t => (if late then s.ns else t, 0)
    | .phase k _ => (s.ns, 8 + 16 * b2n (!s.phLock k))
  if s.standby then s
  else (List.range n).foldl (fun (s : State) k =>
    let part := (es.drop (82 * k)).take 82
    sendPub s x.tc x.toHost x.dest (pubPayload (if x.toHost then x.hostId else 0) (1 + 2 * b2n (decide (k + 1 = n)) + 4 * b2n late + ph) x.id k
      (t / 10 ^ 9) (t % 10 ^ 9) part)) s

/-- A snapshot slot is free (R209): unused, or its copied set has entered SW5. [DEDUCED 62 unsafe] -/
def snapFree (s : State) (k : Nat) : Bool :=
  match Tbl.find? s.epo.snaps k with
  | none => true
  | some x => x.copied && !s.swc.offers.any (fun o => decide (o.port = 5) && decide (o.fr.tt = .pub) && bit (beAt o.fr.pay 3 1) 0
      && decide (beAt o.fr.pay 4 2 = x.id % 65536) && decide (o.fr.tc = x.tc))

/-- EPO.SNAP_STAT's code of a slot: 0 free, 1 armed, 2 copying or sending. -/
def snapCode (s : State) (k : Nat) : Nat :=
  if s.snapFree k then 0 else if ((Tbl.find? s.epo.snaps k).map (fun x => x.copied)).getD false then 2 else 1

/-- A slot's set is copied and its frames are made (R211). [DEDUCED 62 unsafe] -/
def copySnap (s : State) (k : Nat) (x : Snap) (late : Bool) : State :=
  (s.onEpo fun e => { e with snaps := Tbl.put e.snaps k { x with copied := true } }).takeSnap x late

/-- The result of arming a snapshot (R209, R210): 0 OK, 1 NORES, 2 BADARG, 5 NOREF, with the slot. One whose instant has passed is taken
at once, LATE. [DEDUCED 63 unsafe] -/
def armSnap (s : State) (set : Option (List Nat)) (x : Snap) (noRef : Bool) : Nat × Nat × State :=
  match set with
  | none => (2, 0, s)
  | some objs =>
    if x.tc < 4 ∨ 7 < x.tc then (2, 0, s)
    else if noRef then (5, 0, s)
    else match (List.range 8).find? s.snapFree with
      | none => (1, 0, s.bump F.EPO_CNT_SNAPEXH)
      | some k =>
        let x := { x with objs := ascending objs }
        if s.instantReached x.instant then (0, k, s.copySnap k x true)
        else (0, k, s.onEpo fun e => { e with snaps := Tbl.put e.snaps k x })

/-- The set that a list number, or a first object and a count, names (R209). -/
def snapSet (s : State) (isList : Bool) (first count : Nat) : Option (List Nat) :=
  if isList then Tbl.find? s.epo.lists (first % 64)
  else if definedRange s first count then some ((List.range count).map (fun k => first + k)) else none

end State

/-- SNAP_ARM with the argument registers (R209). -/
def snapArm (s : State) : State.Res × State :=
  let old := s.get F.EPO_CMD_RES_INDEX
  let k := s.get F.EPO_CMD_ARG1_PH
  let phase := s.flag F.EPO_CMD_ARG1_WHEN
  let w : Instant := if phase then .phase k (s.get F.EPO_CMD_ARG2_ARG2)
    else .time (State.timeOf (s.sec / 2 ^ 32 * 2 ^ 32 + s.get F.EPO_CMD_ARG3_ARG3) (s.get F.EPO_CMD_ARG2_ARG2))
  let x : Snap := { objs := [], tc := s.get F.EPO_CMD_ARG0_TC, toHost := s.flag F.EPO_CMD_ARG0_DSTKIND, dest := s.get F.EPO_CMD_ARG1_DEST,
                    hostId := s.get F.EPO_CMD_ARG1_HOSTID, instant := w, id := s.get F.EPO_CMD_ARG4_ARG4 }
  let set := s.snapSet (s.flag F.EPO_CMD_ARG0_LIST) (s.get F.EPO_CMD_ARG0_FIRST) (s.get F.EPO_CMD_ARG0_COUNT)
  let (r, slot, s) := s.armSnap set x (phase && !s.refOn k)
  ({ st := if r = 1 then .nores else .ok }, epoRes s (if r = 0 then slot else old) r)

/-- SNAP_CANCEL of a slot (R212): LATE once copying has begun. -/
def snapCancel (slot : Nat) (s : State) : State :=
  let old := s.get F.EPO_CMD_RES_INDEX
  if s.snapFree slot then epoRes s old 4
  else if ((Tbl.find? s.epo.snaps slot).map (fun x => x.copied)).getD false then epoRes s old 3
  else epoRes (s.onEpo fun e => { e with snaps := Tbl.erase e.snaps slot }) old 0

/-- A write of EPO.CMD (R207, R209, R212, R216): only the holder of the lock acts, and releases it. -/
def epoCmd (f : Frame) (s : State) : State.Res × State :=
  locked .epo f s fun s =>
    let w := wordOf f
    let s := s.unlock .epo
    match w % 8 with
    | 1 => let (st, s) := subAlloc s; ({ st := st }, s)
    | 2 => ({}, subFree (bits w 16 3) s)
    | 3 => snapArm s
    | 4 => ({}, snapCancel (bits w 5 3) s)
    | _ => ({}, s)

/-- SNAPSHOT_INSTANT (R210, R211): an armed slot has reached its instant; the set is copied and its frames are made; the slot is free once they
have entered SW5. [DEDUCED 62 unsafe] -/
def execSnapshotInstant (sslot : Nat) (s : State) : Out :=
  match Tbl.find? s.epo.snaps sslot with
  | none => .next s
  | some x =>
    if x.copied || !s.instantReached x.instant then .next s
    else .next (s.copySnap sslot x false)

/-! ### Ring-wide snapshots (R505) -/

/-- The entries of a SNAPARM that name this hub arm slots (R213, R505), as SNAP_ARM does; the results other than OK. [DEDUCED 63 unsafe] -/
def armEntries (p : List Byte) (s : State) : List Nat × State :=
  let phase := bit (beAt p 4 1) 0
  let k? := (s.localRef (beAt p 5 1) (beAt p 6 1)).bind (fun k => if s.phLock k then some k else none)
  let w : Instant := if phase then .phase (k?.getD 0) (beAt p 14 4) else .time (State.timeOf (beAt p 8 6) (beAt p 14 4))
  let x : Snap := { objs := [], tc := beAt p 7 1, toHost := false, dest := beAt p 18 2, hostId := 0, instant := w, id := beAt p 2 2 }
  (List.range (beAt p 20 2)).foldl (fun (a : List Nat × State) j =>
    let e := slice p (22 + 5 * j) 5
    if beAt e 0 1 ≠ a.2.hubNum then a
    else
      let (r, _, s) := a.2.armSnap (a.2.snapSet (bit (beAt e 1 1) 0) (beAt e 2 2) (beAt e 4 1 + 1)) x (phase && k?.isNone)
      (if r = 1 ∨ r = 5 then a.1 ++ [r] else a.1, s)) ([], s)

/-- SNAPREQ (R213, R505): the master sends SNAPARM and arms its own set, or refuses. -/
def execSnapreq (f : Frame) (s : State) : Out :=
  let p := f.pay
  let n := beAt p 20 2
  let wrong := mgtRefused s.hubNum f || !s.master || decide (p.length ≠ 22 + 5 * n) || decide (n = 0) || decide (200 < n) || decide (beAt p 7 1 < 4)
    || decide (7 < beAt p 7 1) || decide (4095 < beAt p 18 2) || decide (1 < beAt p 4 1) || decide (7 < beAt p 6 1) || decide (beAt p 1 1 ≠ 0)
  if wrong then .next (s.settle 7 f { st := .ur })
  else if s.epo.ringSnap.isSome then .next (s.settle 7 f { st := .busy })
  else
    let s := (s.take f).sendPosted 7 { tt := .mgt, tc := 2, dst := 0xFE, init := 0, addr := fabAddr 0xFE 0xF (0xFFE * 2 ^ 24), len := p.length,
                                       pay := [0x11, 0] ++ p.drop 2 }
    let (rs, s) := armEntries p s
    .next (s.onEpo fun e => { e with ringSnap := some { req := f, id := beAt p 2 2, since := s.up, answers := rs.map (fun r => (s.hubNum, r)) } })

/-- SNAPARM (R213, R505): each entry that names this hub arms a slot; the master hears of one that finds no slot or no reference. [DEDUCED 63 unsafe, DESIGN CHOICE 64 unsafe] -/
def execSnaparm (f : Frame) (s : State) : Out :=
  let p := f.pay
  mgtRequest f s fun s =>
  let (rs, s) := armEntries p s
  .next (if s.passive then s else rs.foldl (fun s r =>
    s.sendPosted 7 { tt := .mgt, tc := 2, dst := f.src, init := 0, addr := fabAddr f.src 0xF 0, len := 5, pay := [0x12, 0] ++ be 2 (beAt p 2 2) ++ be 1 r }) s)

/-- SNAPNACK (R505): the master notes the answer. [DESIGN CHOICE 64 unsafe] -/
def execSnapnack (f : Frame) (s : State) : Out :=
  mgtRequest f s fun s =>
  match s.epo.ringSnap with
  | none => .next s
  | some r =>
    if r.id = beAt f.pay 2 2 ∧ r.answers.length < 200 then
      .next (s.onEpo fun e => { e with ringSnap := some { r with answers := r.answers ++ [(f.src, beAt f.pay 4 1)] } })
    else .next s

/-- SNAPREQ_TIMEOUT (R505): ARMTMO after SNAPARM the master completes SNAPREQ with the answers it has. -/
def execSnapreqTimeout (s : State) : Out :=
  match s.epo.ringSnap with
  | none => .next s
  | some r =>
    if s.up < r.since + s.get F.IMG_MC_CFG_ARMTMO * 1000000 then .next s else
    let s := s.onEpo fun e => { e with ringSnap := none }
    .next (s.answer 7 r.req { st := .ok, data := r.answers.flatMap (fun a => be 1 a.1 ++ be 1 a.2) })

/-! ### The schedule (R391) -/

/-- SCHEDULE_DUE (R391, R457, R512, R522): an entry whose second has come acts, once in that second: a lull, a veer of an active twin, a MARK record, or a
snapshot of an image list to group 0. [DEDUCED 63 unsafe, DEDUCED 65 unsafe] -/
def execScheduleDue (entry : Nat) (s : State) : Out :=
  match Tbl.find? s.img.sched entry with
  | none => .next s
  | some e =>
    if e.period = 0 ∨ (s.sec + e.period - e.offset % e.period) % e.period ≠ 0 ∨ Tbl.find? s.img.schedDone entry = some s.sec then .next s
    else
    let s := s.onImg fun g => { g with schedDone := Tbl.put g.schedDone entry s.sec }
    if e.kind = 1 then
      let s := (s.set F.MGT_STAT_LULL 0 1).onMgt fun m => { m with lullEnd := s.up + e.arg * 1000000000 }
      .next (if s.runningTest.isSome then s else s.startQueued)
    else if e.kind = 2 then .next (if s.activeTwin then s.requestVeer else s)
    else if e.kind = 3 then
      .next (if s.passive then s else s.record 2 { kind := 4, src := s.hubNum, aux := entry, sec := s.sec, ns := 0 })
    else if e.kind = 4 then
      match s.snapSet true e.arg 0 with
      | none => .next s
      | some l =>
        match (List.range 8).find? s.snapFree with
        | none => .next (s.bump F.EPO_CNT_SNAPEXH)
        | some k => .next (s.copySnap k { objs := ascending l, tc := 4, toHost := false, dest := 0, hostId := 0, instant := .time (s.sec * 10 ^ 9), id := entry } false)
    else .next s

end Sys2Proof.Machine
end

