-- ==== Sys2Proof/Machine/Live.lean ====
section
/-! DEFINITION. What the live fields of the registers show (R7), as far as no event stores it in the register file: computed from
the state at the moment of a read. -/
namespace Sys2Proof.Machine

/-- Put a value into the bits of a field. -/
def Fld.place (f : Fld) (w v : Nat) : Nat := mergeBits w ((2 ^ (f.hi + 1 - f.lo) - 1) * 2 ^ f.lo) (v % 2 ^ (f.hi + 1 - f.lo) * 2 ^ f.lo)

namespace State

/-- HUB. -/
def liveHub (_s : State) (off : Nat) : List (Fld × Nat) :=
  if off = 0 then [(F.HUB_IDENT_MINOR, Config.revision.toNat % 16), (F.HUB_IDENT_MAJOR, Config.revision.toNat / 16)] else []

/-- The live fields of a lane's credits (R111, R444). -/
def laneCredits (s : State) (l : Lane) : Nat := (s.creditAvail l 0 % 256) + (s.creditAvail l 1 % 256) * 2 ^ 8 + (s.creditAvail l 2 % 256) * 2 ^ 16
  + (s.creditAvail l 3 % 256) * 2 ^ 24

/-- RNG. -/
def liveRng (s : State) (off d : Nat) : List (Fld × Nat) :=
  if off = F.Lx_CRD_WORD.off then [(F.Lx_CRD_WORD, s.laneCredits (if d = 0 then .e else .w))] else []

/-- Cells of lossless credit that an internal port holds (Table 04-3). [DEDUCED 176 unsafe] -/
def portCredits (s : State) (p : Nat) : Nat := 64 - ((List.range 4).map (fun c => Tbl.getD s.swc.llUsed (p * 4 + c) 0)).sum

/-- Egress FIFO credits of a path (R150). [DEDUCED 176 unsafe] -/
def fifoCredits (s : State) (k : Nat) : Nat := 4 - (Tbl.getD s.swc.fifo k []).length

/-- SWC. [DEDUCED 177 unsafe] -/
def liveSwc (s : State) (off d : Nat) : List (Fld × Nat) :=
  if off = F.SWC_FREE_FREE.off then [(F.SWC_FREE_FREE, s.freeShared), (F.SWC_FREE_RESV, s.resvOut)]
  else if off = F.SWC_Q_STAT_OCC.off then
    let q := s.get F.SWC_Q_IDX_Q
    [(F.SWC_Q_STAT_OCC, s.occ q), (F.SWC_Q_STAT_FRAMES, min 2047 (s.queueFrames q).length)]
  else if off = F.SWC_CAP_CFG_EN.off then if s.flag F.SWC_PLAN_PLAN then [] else [(F.SWC_CAP_CFG_EN, 0)]
  else if off = F.SWC_CAP_STAT_COUNT.off then
    [(F.SWC_CAP_STAT_COUNT, s.swc.capCount), (F.SWC_CAP_STAT_FULL, b2n (decide (4096 ≤ s.swc.capCount)))]
  else if off = F.SWC_CAP_PTR_OLDEST.off then [(F.SWC_CAP_PTR_OLDEST, s.swc.capOldest), (F.SWC_CAP_PTR_NEXT, s.swc.capNext)]
  else if off = F.SWC_CAP_DATA_DATA.off then
    [(F.SWC_CAP_DATA_DATA, if s.flag F.SWC_PLAN_PLAN then ((Tbl.getD s.swc.cap (s.get F.SWC_CAP_IDX_SLOT) []).getD (d / 4) 0).toNat else 0)]
  else if off = F.SWn_CRD_OUT.off then
    let p := d / 0x40
    [(F.SWn_CRD_IN_LL, if p < 5 then 0 else s.portCredits p), (F.SWn_CRD_IN_LY, if p < 5 then 0 else 32 - s.lossyUsed p),
     (F.SWn_CRD_OUT, s.fifoCredits p), (F.SWn_CRD_OUT_TC0, if p < 2 then s.fifoCredits (12 + p) else 0)]
  else if off = F.PKnn_PTR_WPTR.off then
    let p := s.pk (d / 0x20)
    [(F.PKnn_PTR_WPTR, p.wptr), (F.PKnn_PTR_RPTR, p.rptr), (F.PKnn_PTR_LEVEL, p.store.length)]
  else []

/-- TMQ. -/
def liveTmq (s : State) (off : Nat) : List (Fld × Nat) :=
  let p := s.get F.TMQ_POL_IDX_P
  if off = F.TMQ_SHP_CRED_C.off then [(F.TMQ_SHP_CRED_C, unsgn 32 (s.shpCredit (s.get F.TMQ_SHP_IDX_Q)))]
  else if off = F.TMQ_POL_CFG_USED.off then
    [(F.TMQ_POL_CFG_RUNTIME, b2n (Tbl.has s.tmq.runtime p)), (F.TMQ_POL_CFG_USED, b2n (decide (p < s.tmq.imagePolicers) || Tbl.has s.tmq.runtime p))]
  else if off = F.TMQ_POL_CRED_P.off then [(F.TMQ_POL_CRED_P, s.polCredit p)]
  else []

/-- The hold table (R195): the objects that the rules of the image can hold, in ascending order. [DEDUCED 69 unsafe] -/
def holdTable (s : State) : List Nat :=
  ascending (((s.rules.filter (fun r => decide (r.outkind = 1))).map (fun r => r.target)).eraseDups)

/-- The lock register of a block while it is read without taking it. -/
def lockShow (s : State) (k : LockId) : List (Fld × Nat) :=
  let v := match Tbl.find? s.locks k.ix with
    | some l => l.hub * 2 ^ 8 + l.init * 2 ^ 16
    | none => 0xFF * 2 ^ 8
  [(F.EPO_CMD_LOCK_WORD, v)]

/-- EPO. [DEDUCED 177 unsafe] -/
def liveEpo (s : State) (off : Nat) : List (Fld × Nat) :=
  if off = F.EPO_STAT_READY.off then [(F.EPO_STAT_OBJECTS, s.epo.objs.length), (F.EPO_STAT_READY, b2n s.img.loaded)]
  else if off = F.EPO_DESC_DATA_TYPE.off then
    match s.obj? (s.get F.EPO_DESC_IDX_IDX) with
    | none => []
    | some o => [(F.EPO_DESC_DATA_TYPE, o.type), (F.EPO_DESC_DATA_SIGNED, b2n o.signed), (F.EPO_DESC_DATA_HIST, b2n o.hist),
        (F.EPO_DESC_DATA_KIND, o.kind), (F.EPO_DESC_DATA_DEFINED, 1), (F.EPO_DESC_DATA_PRULE, o.prule)]
  else if off = F.EPO_DESC_SRC_INDEX.off then [(F.EPO_DESC_SRC_INDEX, ((s.obj? (s.get F.EPO_DESC_IDX_IDX)).map (fun o => o.index)).getD 0)]
  else if F.EPO_HOLD_OBJ_OBJ.off ≤ off ∧ off ≤ F.EPO_HOLD_REQLO_REQ.off then
    match s.holdTable[s.get F.EPO_HOLD_IDX_IDX]? with
    | none => []
    | some i =>
      let o := s.obj? i
      let req := (o.map Obj.requested).getD 0
      if off = F.EPO_HOLD_OBJ_OBJ.off then
        [(F.EPO_HOLD_OBJ_OBJ, i), (F.EPO_HOLD_OBJ_ACTIVE, b2n ((o.map (fun o => o.req.isSome)).getD false))]
      else if off = F.EPO_HOLD_REQHI_REQ.off then [(F.EPO_HOLD_REQHI_REQ, req / 2 ^ 32)] else [(F.EPO_HOLD_REQLO_REQ, req)]
  else if off = F.EPO_CMD_LOCK_WORD.off then s.lockShow .epo
  else if off = F.EPO_SUB_USED_USED.off then [(F.EPO_SUB_USED_USED, s.epo.subs.length)]
  else if off = F.EPO_SNAP_STAT_WORD.off then
    [(F.EPO_SNAP_STAT_WORD, ((List.range 8).map (fun k => s.snapCode k * 16 ^ k)).sum)]
  else if off = F.EPO_CRD_RFX.off then [(F.EPO_CRD_BINDER, 64 - s.epo.binder.length), (F.EPO_CRD_RFX, 32 - s.epo.rfx.length)]
  else if off = F.EPO_BULK_BCQ.off then
    [(F.EPO_BULK_BUFS, s.img.bulk.length), (F.EPO_BULK_CELLS, s.bulkCells), (F.EPO_BULK_BCQ, s.epo.copies.length)]
  else []

/-- FPN (R226): a pin that is not an unbound GPO pin shows the value that it drives, 0 when it drives none. -/
def liveFpn (s : State) (off d : Nat) : List (Fld × Nat) :=
  if off = F.FPN_OUT_PIN.off then
    [(F.FPN_OUT_PIN, ((List.range 32).map (fun k =>
      let p := d / 4 * 32 + k
      b2n (if s.unboundGpo p then s.pinBit F.FPN_OUT_PIN p else (s.padDrive p).getD false) * 2 ^ k)).sum)]
  else []

/-- A mask of engines that satisfy a condition, 32 to a register. -/
def engMask (reg : Nat) (p : Nat → Bool) : Nat := ((List.range 32).map (fun k => b2n (p (32 * reg + k)) * 2 ^ k)).sum

/-- The halted engines (PIO.HALTED0 and HALTED1). -/
def haltMask (s : State) (reg : Nat) : Nat := engMask reg (fun k => !(s.eng k).running)

/-- The engines halted with a fault (PIO.FAULT0 and FAULT1). -/
def faultMask (s : State) (reg : Nat) : Nat := engMask reg (fun k => !(s.eng k).running && decide (s.get F.PEnn_STATUS_FAULT k ≠ 0))

/-- PIO. -/
def livePio (s : State) (off d : Nat) : List (Fld × Nat) :=
  let e := d / 0x400
  let q := s.eng e
  if off = F.PEnn_STATUS_HALTED.off then
    [(F.PEnn_STATUS_HALTED, b2n (!q.running)), (F.PEnn_STATUS_STALLED, b2n q.stalled.isSome), (F.PEnn_STATUS_WHY, q.stalled.getD 3)]
  else if off = F.PEnn_QSTAT_RXLVL.off then
    [(F.PEnn_QSTAT_RXLVL, q.rx.length), (F.PEnn_QSTAT_TXLVL, q.tx.length), (F.PEnn_QSTAT_RXEND, b2n (q.rx.head?.any (fun x => x.2)))]
  else if off = F.PEnn_TAQSTAT_LEVEL.off then
    [(F.PEnn_TAQSTAT_LEVEL, q.taq.length),
     (F.PEnn_TAQSTAT_NOREF, b2n (q.taq.head?.any (fun a => decide (a.tb ≠ 0) && !s.refOn (a.tb - 1))))]
  else if off = F.PIO_SFCLR_FLAGS.off then [(F.PIO_SFSET_FLAGS, s.get F.PIO_SFSET_FLAGS)]
  else if off = F.PIO_HALTED0_ENG.off then [(F.PIO_HALTED0_ENG, s.haltMask 0)]
  else if off = F.PIO_HALTED1_ENG.off then [(F.PIO_HALTED1_ENG, s.haltMask 1)]
  else if off = F.PIO_FAULT0_ENG.off then [(F.PIO_FAULT0_ENG, s.faultMask 0)]
  else if off = F.PIO_FAULT1_ENG.off then [(F.PIO_FAULT1_ENG, s.faultMask 1)]
  else []

/-- CAN. -/
def liveCan (s : State) (off d : Nat) : List (Fld × Nat) :=
  let c := d / 0x1000
  if off = F.CNnn_OBJLOCK_LOCKED.off then
    [(F.CNnn_OBJLOCK_LOCKED, (s.can.objs.filter (fun p => decide (p.2.ch = c) && p.2.lock.isSome)).length)]
  else if off = F.CNnn_SHADOW_VALID.off then
    match (s.canCh c).shadow with
    | none => []
    | some h => [(F.CNnn_SHADOW_OBJ, h.obj), (F.CNnn_SHADOW_VALID, 1), (F.CNnn_SHADOW_LOST, b2n h.lost)]
  else if off = F.CAN_OBJ_USED_USED.off then [(F.CAN_OBJ_USED_USED, s.can.objs.length)]
  else if off = F.CAN_OBJ_MASK_MASK.off then [(F.CAN_OBJ_MASK_MASK, ((s.canObj? (s.get F.CAN_OBJ_IDX_IDX)).map (fun o => o.mask)).getD 0)]
  else if off = 0x70F10 then s.lockShow .can
  else if off = F.CAN_CRD_EPO.off then [(F.CAN_CRD_EPO, 8 - (s.epo.handed.filter (fun h => decide (h.kind = 10))).length)]
  else []

/-- The access that a bus is performing. -/
def busy (s : State) (b : Nat) : Bool := (s.bus b).cur.isSome

/-- The window of the access on a bus. -/
def busWin (s : State) (b : Nat) : Nat := ((s.bus b).cur.map (fun a => a.win)).getD 0

/-- SER (R312 to R314). -/
def liveSer (s : State) (off d : Nat) : List (Fld × Nat) :=
  let n := d / 0x100
  if off = F.SPnn_MBT_T15.off then
    [(F.SPnn_MBT_T15, cdiv (s.mbTime n 15) 1000), (F.SPnn_MBT_T35, cdiv (s.mbTime n 35) 1000)]
  else if off = F.SPnn_STAT_DE.off then
    [(F.SPnn_STAT_DE, b2n (s.flag F.SPnn_CFG_EN n && s.flag F.SPnn_CFG_DUPLEX n && !s.passive))]
  else if off = F.SQn_STAT_BUSY.off then
    [(F.SQn_STAT_BUSY, b2n (s.busy (32 + n))), (F.SQn_STAT_CS, if s.busy (32 + n) then s.get F.BRG_WIN_FAR_UNIT (s.busWin (32 + n)) else 0)]
  else if off = F.ICn_STAT_BUSY.off then [(F.ICn_STAT_BUSY, b2n (s.busy (40 + n)))]
  else []

/-- The transactions of a bus that its controller holds (R329): the one on the bus, and the next one of the same access, which is staged
behind it. [DEDUCED 99 unsafe] -/
def busUnits (s : State) (b : Nat) : Nat :=
  match (s.bus b).cur with
  | none => 0
  | some a => if a.done + a.chunk < a.len ∧ a.abort.isNone ∧ s.winKind a.win ≠ 4 then 2 else 1

/-- BRG. [DEDUCED 99 unsafe] -/
def liveBrg (s : State) (off d : Nat) : List (Fld × Nat) :=
  if off = F.BRG_DLOG_STAT_COUNT.off then [(F.BRG_DLOG_STAT_COUNT, s.brg.dlog.length)]
  else if off = F.BRG_BUS_STAT_CRD.off then
    let b := s.get F.BRG_BUS_IDX_BUS
    let src := (s.bus b).cur.map (fun a => a.src)
    [(F.BRG_BUS_STAT_CRD, 2 - s.busUnits b), (F.BRG_BUS_STAT_ACTIVE, b2n src.isSome),
     (F.BRG_BUS_STAT_POLL, b2n (match src with | some (.poll _) => true | _ => false)),
     (F.BRG_BUS_STAT_PREF, b2n (match src with | some (.prefetch _) => true | _ => false))]
  else if off = F.BRG_DLOG_DATA_DATA.off then
    [(F.BRG_DLOG_DATA_DATA, ((s.brg.dlog.getD (s.get F.BRG_DLOG_IDX_ENTRY) []).getD (d / 4) 0).toNat)]
  else []

/-- TIM and PHS. -/
def liveTim (s : State) (off d : Nat) : List (Fld × Nat) :=
  let st := s.get F.TIM_STAT_STATE
  if off = F.TIM_STAT_MASTER.off then
    [(F.TIM_STAT_MASTER, b2n s.master), (F.TIM_STAT_TCMODE, b2n (!(decide (st = 3) || decide (st = 4)) || s.flag F.TIM_CTL_TCFORCE)),
     (F.TIM_STAT_SYNT, b2n s.syntonised)]
  else if off = F.PHn_VAL_PHASE.off then [(F.PHn_VAL_PHASE, s.phaseNow (d / 0x40))]
  else if off = F.PHn_STAT_HELD.off then
    let k := d / 0x40
    [(F.PHn_STAT_HELD, b2n (s.refOn k && (s.ref k).isHeld s.tim.n)), (F.PHn_STAT_LOCK, b2n (s.phLock k))]
  else []

/-- RFX: a sweep is one step of the model, so none is running when a register is read. [DEDUCED 110 unsafe] -/
def liveRfx (s : State) (off d : Nat) : List (Fld × Nat) :=
  if off = F.RFX_STAT_ALIGNED.off then [(F.RFX_STAT_RULES, s.rules.length), (F.RFX_STAT_ALIGNED, b2n (s.flag F.RFX_SWCFG_ALIGN && s.timeLocked))]
  else if off = F.RFX_RULE_STAT_STATE.off then
    let n := s.get F.RFX_RULE_IDX_RULE
    let r := s.ruleOf n
    let q := s.ruleSt n
    [(F.RFX_RULE_STAT_STATE, b2n q.state), (F.RFX_RULE_STAT_LATCHED, b2n (r.latch && q.state)), (F.RFX_RULE_STAT_COND, b2n q.cond),
     (F.RFX_RULE_STAT_ENABLED, b2n (s.groupOn r.group)), (F.RFX_RULE_STAT_TERMS, q.terms), (F.RFX_RULE_STAT_ONCNT, min 255 q.cnt)]
  else if off = F.RFX_ALM_STAT_COUNT.off then [(F.RFX_ALM_STAT_COUNT, s.rfx.alarms.length)]
  else if off = F.RFX_ALM_DATA_DATA.off then [(F.RFX_ALM_DATA_DATA, ((s.rfx.alarms.headD []).getD (d / 4) 0).toNat)]
  else if off = F.RFX_CRD_EPO.off then [(F.RFX_CRD_EPO, 32 - s.epo.rfx.length)]
  else if off = F.RFX_STATE_RULE.off then [(F.RFX_STATE_RULE, engMask (d / 4) (fun k => (s.ruleSt k).state))]
  else []

/-- IMG. -/
def liveImg (s : State) (off : Nat) : List (Fld × Nat) :=
  if off = F.IMG_MC_ARM_ARMED.off then
    match s.img.arm with
    | none => []
    | some a => [(F.IMG_MC_ARM_ARMED, 1), (F.IMG_MC_ARM_GO, b2n a.go), (F.IMG_MC_ARM_MODE, a.mode), (F.IMG_MC_ARM_OPID, a.opid)]
  else if off = F.IMG_STG_STAT_RUNNING.off then [(F.IMG_STG_STAT_RUNNING, b2n s.img.running.isSome)]
  else []

/-- Contexts in a lane's link history: the longer of its two directions. [DEDUCED 176 unsafe] -/
def histLen (s : State) (l : Lane) : Nat :=
  max (Tbl.getD s.cry.hist (histIx l false) []).length (Tbl.getD s.cry.hist (histIx l true) []).length

/-- CRY. [DEDUCED 176 unsafe] -/
def liveCry (s : State) (off d : Nat) : List (Fld × Nat) :=
  let n := d / 0x100
  if off = F.CRY_STAT_LABUSY.off then
    [(F.CRY_STAT_NOFLEET, b2n s.cry.fleet.isNone), (F.CRY_STAT_LABUSY, b2n s.cry.running.isSome),
     (F.CRY_STAT_LAPAGE, (s.cry.running.map (fun r => r.1.page)).getD 0), (F.CRY_STAT_QJOBS, (s.cry.pages.map (fun p => p.2.queue.length)).sum)]
  else if off = F.CRY_FUSE_KCV_KCV.off then
    [(F.CRY_FUSE_KCV_KCV, rootCheck (if s.flag F.CRY_FUSE_KCV_SEL then Config.devRoot else s.fleetRoot))]
  else if off = F.CRY_LK_STAT_HIST_E.off then [(F.CRY_LK_STAT_HIST_E, s.histLen .e), (F.CRY_LK_STAT_HIST_W, s.histLen .w)]
  else if off = F.CRY_KS_STAT_STATE.off then
    let k := s.get F.CRY_KS_IDX_SLOT
    let q := s.slot k
    let page := (List.range 64).find? (fun p => s.slotIn p k)
    [(F.CRY_KS_STAT_STATE, match q.st with | .empty => 0 | .deriving_ => 1 | .ready => 2), (F.CRY_KS_STAT_ROOT, b2n q.dev),
     (F.CRY_KS_STAT_PAGE, page.getD 63), (F.CRY_KS_STAT_NOPAGE, b2n page.isNone), (F.CRY_KS_STAT_GEN, q.gen)]
  else if off = 0xE0090 then s.lockShow .cry
  else if off = F.UPnn_CFG_VALID.off then
    [(F.UPnn_CFG_VALID, b2n (s.page? n).isSome), (F.UPnn_CFG_RUNTIME, b2n ((s.page? n).any (fun p => p.runtime)))]
  else if off = F.UPnn_OWNER_HUB.off then
    [(F.UPnn_OWNER_HUB, ((s.page? n).map (fun p => p.hub)).getD 0xFF), (F.UPnn_OWNER_INIT, ((s.page? n).map (fun p => p.init)).getD 0),
     (F.UPnn_OWNER_ALLOCS, Tbl.getD s.cry.allocs n 0)]
  else if off = F.UPnn_JSTAT_QLVL.off then
    [(F.UPnn_JSTAT_QLVL, ((s.page? n).map (fun p => p.queue.length)).getD 0), (F.UPnn_JSTAT_CHAIN, b2n ((s.page? n).any (fun p => p.chain.isSome)))]
  else []

/-- Whole seconds, rounded up, from now to a time on the model's base. [DEDUCED 163 unsafe] -/
def secsTo (s : State) (t : Nat) : Nat := cdiv (t - s.up) (10 ^ 9)

/-- TWN. -/
def liveTwn (s : State) (off : Nat) : List (Fld × Nat) :=
  if off = F.TWN_STAT_HEALTHY.off then
    [(F.TWN_STAT_HEALTHY, b2n s.healthy), (F.TWN_STAT_TUP, b2n s.laneTUp), (F.TWN_STAT_PROLE, if s.laneTUp then s.get F.TWN_STAT_PROLE else 0)]
  else if off = F.TWN_CRD_TC.off then [(F.TWN_CRD_TC, s.laneCredits .t)]
  else if off = F.TWN_REVT_LEFT.off then
    [(F.TWN_REVT_LEFT, match s.twn.healthySince with
      | none => 0
      | some t => if s.flag F.TWN_CTL_NOREVERT then 0 else s.secsTo (t + s.get F.TWN_CFG_HOLDOFF * 10 ^ 9))]
  else []

/-- CKR: the crystal is always enabled. [DEDUCED 175 unsafe] -/
def liveCkr (s : State) (off : Nat) : List (Fld × Nat) := if off = 0x100000 then [(F.CKR_REF_CTL_EN, s.get F.CKR_REF_CTL_EN ||| 8)] else []

/-- An entry of a log, as its eight words. [DEDUCED 32 unsafe] -/
def logEntry (l : List LogEntry) (i k : Nat) : Nat := ((l.getD i []).getD k 0).toNat

/-- MGT. [DEDUCED 163 unsafe] -/
def liveMgt (s : State) (off d : Nat) : List (Fld × Nat) :=
  if off = F.MGT_UPD_STAT_CONFLEFT.off then
    [(F.MGT_UPD_STAT_CONFLEFT, match s.mgt.updAt with
      | some t => if s.updPending then min 65535 (s.secsTo (t + s.get F.MGT_UPD_CFG_CONFTMO * 10 ^ 9)) else 0
      | none => 0)]
  else if off = 0x120010 then s.lockShow .mbx
  else if off = F.MGT_MBX_RES_BUSY.off then [(F.MGT_MBX_RES_BUSY, b2n s.mbxBusy)]
  else if off = F.MGT_EVL_STAT_COUNT.off then [(F.MGT_EVL_STAT_COUNT, s.mgt.evlCount)]
  else if off = F.MGT_EVL_DATA_DATA.off then
    let i := s.get F.MGT_EVL_IDX_ENTRY
    [(F.MGT_EVL_DATA_DATA, if i < s.mgt.evlCount then
      Mem.num s.nvm (0x740000 + 32 * ((s.mgt.evlNext + 4096 - s.mgt.evlCount + i) % 4096) + d) 4 else 0)]
  else if off = F.MGT_VLOG_STAT_COUNT.off then [(F.MGT_VLOG_STAT_COUNT, s.hub.vlog.length)]
  else if off = F.MGT_PLOG_STAT_COUNT.off then [(F.MGT_PLOG_STAT_COUNT, s.hub.plog.length)]
  else if off = F.MGT_VLOG_DATA_DATA.off then [(F.MGT_VLOG_DATA_DATA, logEntry s.hub.vlog (s.get F.MGT_VLOG_IDX_ENTRY % 64) (d / 4))]
  else if off = F.MGT_PLOG_DATA_DATA.off then [(F.MGT_PLOG_DATA_DATA, logEntry s.hub.plog (s.get F.MGT_PLOG_IDX_ENTRY % 64) (d / 4))]
  else if off = F.MGT_ST_STAT_RUNNING.off then
    [(F.MGT_ST_STAT_RUNNING, b2n s.runningTest.isSome), (F.MGT_ST_STAT_QLEN, s.mgt.lullTests.length)]
  else []

/-- The oldest record on the medium: its bytes. -/
def oldestRec (s : State) : Option (List Byte) := (s.pageOfRec s.oldest).bind (fun p => p.recs[s.oldest - p.first]?)

/-- Records of a producer that HST has not accepted or dropped yet (R522). -/
def offered (s : State) (producer : Nat) : Nat := (s.recs.filter (fun p => decide (p.1 = producer))).length

/-- HST. -/
def liveHst (s : State) (off : Nat) : List (Fld × Nat) :=
  let newest := s.newestEnd - 1
  let bad (k : Nat) : Nat := (s.hst.blocks.filter (fun p => decide (p.2.bad = k))).length
  if off = F.HST_STAGE_LEVEL.off then [(F.HST_STAGE_LEVEL, s.hst.stage.length)]
  else if off = F.HST_NEWHI_VAL.off then [(F.HST_NEWHI_VAL, newest / 2 ^ 32)]
  else if off = F.HST_NEWLO_VAL.off then [(F.HST_NEWLO_VAL, newest)]
  else if off = F.HST_OLDHI_VAL.off then [(F.HST_OLDHI_VAL, s.oldest / 2 ^ 32)]
  else if off = F.HST_OLDLO_VAL.off then [(F.HST_OLDLO_VAL, s.oldest)]
  else if off = F.HST_OLDSEC_VAL.off then [(F.HST_OLDSEC_VAL, (s.oldestRec.map (fun b => (HistRec.ofBytes b).sec)).getD 0)]
  else if off = F.HST_BAD_GROWN.off then [(F.HST_BAD_FACTORY, bad 1), (F.HST_BAD_GROWN, bad 2)]
  else if off = F.HST_WEAR_MAX.off then
    [(F.HST_WEAR_MEAN, s.meanErase / 4), (F.HST_WEAR_MAX, (s.hst.formats + s.hst.blocks.foldl (fun a p => max a p.2.erases) 0) / 4)]
  else if off = F.HST_CRD_MGT.off then
    [(F.HST_CRD_RFX, 4 - s.offered 0), (F.HST_CRD_EPO, 4 - s.offered 1), (F.HST_CRD_IMG, 4 - s.offered 2), (F.HST_CRD_MGT, 4 - s.offered 3)]
  else []

/-- The live fields of the register at base offset `off`; `d` is the distance of the instance or array element from it. [DESIGN CHOICE 14 safe] -/
def live (s : State) (off d : Nat) : List (Fld × Nat) :=
  match off / 0x10000 with
  | 0 => s.liveHub off
  | 1 => s.liveRng off d
  | 2 => s.liveSwc off d
  | 3 => s.liveTmq off
  | 4 => s.liveEpo off
  | 5 => s.liveFpn off d
  | 6 => s.livePio off d
  | 7 => s.liveCan off d
  | 8 => s.liveSer off d
  | 9 => s.liveBrg off d
  | 10 => s.liveTim off d
  | 11 => s.liveTim off d
  | 12 => s.liveRfx off d
  | 13 => s.liveImg off
  | 14 => s.liveCry off d
  | 15 => s.liveTwn off
  | 16 => s.liveCkr off
  | 18 => s.liveMgt off d
  | 19 => s.liveHst off
  | _ => []

/-- Bits of a register that show what the spec gives no value for: a controller's measured delay, the levels of an I2C bus, the
transmitter of a serial port while a far-side transaction is on it, the step of a domain's move, and a host port's link. [DESIGN CHOICE 15 safe] -/
def openMask (s : State) (off d : Nat) : Nat :=
  if off = 0x70004 then 0x7F000
  else if off = 0x80010 then (if s.busy (d / 0x100) then (if s.flag F.SPnn_CFG_DUPLEX (d / 0x100) then 0x1FE00 else 0x3FE00) else 0)
  else if off = 0x82804 then 6
  else if off = 0x100008 then (if s.ckr.moves.isEmpty then 0 else 0x780)
  else if off = 0x140004 then (if s.get F.Hx_CTL_PHY (d / 0x100) = 2 then 7 else 1)
  else 0

/-- The bits that a host port with another PHY than SGMII shows for its speed. -/
def fixedBits (s : State) (off d : Nat) : Nat := if off = 0x140004 ∧ s.get F.Hx_CTL_PHY (d / 0x100) ≠ 2 then 6 else 0

/-- The word that a register shows: its stored word, its live fields and its open bits. [DESIGN CHOICE 14 safe, DESIGN CHOICE 15 safe] -/
def shown (s : State) (off d key start : Nat) : Nat :=
  let w := (s.live off d).foldl (fun w x => x.1.place w x.2) (s.word key (BitVec.ofNat 32 start)).toNat
  mergeBits (w ||| s.fixedBits off d) (s.openMask off d) (Config.freeValue s.free).toNat

end State

end Sys2Proof.Machine
end

