-- ==== Sys2Proof/Machine/Regs.lean ====
section
/-! DEFINITION. Reads and writes of the registers of space 0x1 by access type (R4, R7 to R9), with the effects that the chapters
give to writes of their command fields. -/
namespace Sys2Proof.Machine

/-- The offset at which a register stands: the common registers of PIO and CAN show in every instance's window. -/
def regOff (off : Nat) : Nat :=
  if off / 0x10000 = 6 ∧ 0x300 ≤ off % 0x400 then 0x60000 + off % 0x400
  else if off / 0x10000 = 7 ∧ 0xF00 ≤ off % 0x1000 then 0x70000 + off % 0x1000
  else off

/-- The bits of a register that a write may not change: its RWI fields (R8). The enable of the crystal ignores writes. [DEDUCED 175 unsafe] -/
def fixedMask (r : RegRow) : Nat :=
  let m := r.mask (fun f => decide (f.acc = .rwi))
  if r.off = 0x100000 then m - (m &&& 0x800) else m

/-- What a write leaves in the register file (Table 00-3): RW and RWS fields take the value, W1C clears, W1S sets, and every other
field stays. -/
def writtenWord (r : RegRow) (old w : Nat) : Nat :=
  let x := mergeBits old (r.mask (fun f => decide (f.acc = .rw) || decide (f.acc = .rws))) w
  let c := x &&& w &&& r.mask (fun f => decide (f.acc = .w1c))
  (x - c) ||| (w &&& r.mask (fun f => decide (f.acc = .w1s)))

/-- The word that a read returns: WO fields read zero. -/
def readWord (r : RegRow) (w : Nat) : Nat := w - (w &&& r.mask (fun f => decide (f.acc = .wo)))

/-- What a read leaves in the register file: RC fields are cleared. [DEDUCED 33 unsafe] -/
def clearedWord (r : RegRow) (w : Nat) : Nat := w - (w &&& r.mask (fun f => decide (f.acc = .rc)))

/-- One refusal of a write with several effects refuses it whole. -/
def andThen (x : State.Res × State) (on : Bool) (g : State → State.Res × State) : State.Res × State :=
  if on && decide (x.1.st = .ok) then g x.2 else x

namespace State

/-- The stored word of a register. -/
def stored (s : State) (r : RegRow) (key : Nat) : Nat := (s.word key (BitVec.ofNat 32 r.start)).toNat

/-- The key of the register at an offset, under the index registers. [DESIGN CHOICE 14 safe, DEDUCED 178 unsafe] -/
def keyAt (s : State) (r : RegRow) (off : Nat) : Nat := regKey (fun o => (s.word o 0).toNat) r off

/-- Store a write by the access types of its fields. [DESIGN CHOICE 14 safe] -/
def storeReg (s : State) (r : RegRow) (key w : Nat) : State := s.setWord key (BitVec.ofNat 32 (writtenWord r (s.stored r key) w))

end State

/-- A register write without other effects. -/
def plain (r : RegRow) (key w : Nat) (s : State) : State.Res × State := ({}, s.storeReg r key w)

/-- A refusal of a register write with VIOL, reason 0x7. [DEDUCED 174 unsafe] -/
def badValue (s : State) : State.Res × State := ({ st := .viol, reason := 7 }, s)

/-- RNG: lane control, the hold time and the insertion request. [DEDUCED 174 unsafe] -/
def writeRng (r : RegRow) (key w d : Nat) (s : State) : State.Res × State :=
  if r.off = F.Lx_LCTL_MODE.off then
    let l : Lane := if d = 0 then .e else .w
    let up := decide (s.laneState l = 4)
    if bits w 2 1 = 3 then ({ st := .ur }, s)
    else if up && (decide (bits w 2 1 ≠ 0) || decide (bit w 4 ≠ s.flag F.Lx_LCTL_EDDY l.ix)) then badValue s
    else
      let s := s.storeReg r key w
      ({}, if bit w 3 then State.reenable l s else s)
  else if r.off = F.RNG_HOLD_HOLD.off then
    if w % 2 ^ 16 < 200 ∨ 50000 < w % 2 ^ 16 then badValue s else plain r key w s
  else if r.off = F.RNG_BYP_CTL_INSERT.off then
    ({}, (if bit w 2 then s.set F.RNG_BYP_CTL_HEARTBEAT_LOST 0 0 else s).insertWrite (bit w 0))
  else plain r key w s

/-- SWC: restart of the capture and flush of a packer. -/
def writeSwc (r : RegRow) (key w d : Nat) (s : State) : State.Res × State :=
  if r.off = F.SWC_CAP_CFG_EN.off then
    let s := if bit w 0 && !s.capEn then s.onSwc fun x => { x with capSeq := 0 } else s
    let s := s.storeReg r key w
    ({}, if bit w 15 then captureRestart s else s)
  else if r.off = F.PKnn_CFG_EN.off ∧ bit w 25 then packerFlush (d / 0x20) s
  else plain r key w s

/-- TMQ: a run-time policer's rate and burst (R181), in force from the next tick on (R182), and its allocation. -/
def writeTmq (r : RegRow) (key w : Nat) (s : State) : State.Res × State :=
  let p := s.get F.TMQ_POL_IDX_P
  let mine := decide (s.tmq.imagePolicers ≤ p) && Tbl.has s.tmq.runtime p
  let next : State.Res × State := ((plain r key w s).1, s.retime (plain r key w s).2)
  if r.off = F.TMQ_POL_CFG_RATE.off then if mine then next else badValue s
  else if r.off = F.TMQ_POL_BURST_BURST.off then
    if mine && decide (2048 ≤ w % 2 ^ 20) then next else badValue s
  else if r.off = F.TMQ_POL_CMD_OP.off then
    if w % 4 = 1 then
      let (st, s) := policerAlloc (bits w 11 2) s
      ({ st := st }, s)
    else if w % 4 = 2 then ({}, policerFree (bits w 11 2) s)
    else ({}, s)
  else plain r key w s

/-- EPO: the command registers (R216). -/
def writeEpo (f : Frame) (r : RegRow) (key w : Nat) (s : State) : State.Res × State :=
  if F.EPO_CMD_ARG0_FIRST.off ≤ r.off ∧ r.off ≤ 0x40054 then locked .epo f s (plain r key w)
  else if r.off = F.EPO_CMD_OP.off then epoCmd f s
  else plain r key w s

/-- FPN.OUTn (R226): the bits of unbound GPO pins. -/
def writeFpn (r : RegRow) (key w d : Nat) (s : State) : State.Res × State :=
  if r.off = F.FPN_OUT_PIN.off then
    ({}, (List.range 32).foldl (fun s k =>
      let p := d / 4 * 32 + k
      if s.unboundGpo p then (s.setPinBit F.FPN_OUT_PIN p (bit w k)).gpoSource p (bit w k) else s) s)
  else plain r key w s

/-- STEP of a halted engine: it runs, for one instruction. [DEDUCED 80 unsafe] -/
def armStep (e : Nat) (s : State) : State :=
  if (s.eng e).running then s else s.setEng e { s.eng e with running := true, single := true }

/-- A write of PEnn_CTL (R267, R269 to R271): a halt takes effect first. [DEDUCED 79 unsafe] -/
def peCtl (e w : Nat) (s : State) : State.Res × State :=
  let x := andThen ({}, s) (bit w 0) (fun s => ({}, s.haltEngine e))
  let x := andThen x (bit w 4) (flushRx e)
  let x := andThen x (bit w 5) (flushTx e)
  let x := andThen x (bit w 7) (releaseEngine e)
  let x := andThen x (bit w 1) (engineStart e (bits w 27 16) (bit w 2) (bit w 3) (bit w 9))
  let x := andThen x (bit w 6) (fun s => ({}, flushTaq e s))
  let x := andThen x (bit w 8 && !bit w 1) (fun s => ({}, armStep e s))
  if x.1.st = .ok then x else (x.1, s)

/-- PIO. [DEDUCED 79 unsafe] -/
def writePio (r : RegRow) (key w d : Nat) (s : State) : State.Res × State :=
  let e := d / 0x400
  if r.off = F.PEnn_CTL_HALT.off then peCtl e w s
  else if F.PEnn_SA_DATA.off ≤ r.off ∧ r.off ≤ F.PEnn_CNTS_Z.off then
    if (s.eng e).running then ({ st := .busy }, s) else plain r key w s
  else if r.off = F.PEnn_TXQ_DATA.off then txqWrite e w s
  else if r.off = F.PEnn_TAQ_ACT_TB.off then taqActWrite e w s
  else if r.off = F.PEnn_IADDR_ADDR.off then
    if s.get F.PEnn_IWIN_SIZE e ≤ w % 4096 then ({ st := .ur }, s) else plain r key w s
  else if r.off = F.PEnn_IDATA_WORD.off then idataWrite e w s
  else if r.off = F.PEnn_MB_DATA.off then ({}, mailboxIn e (d % 0x400 / 4) w s)
  else if r.off = F.PIO_SFSET_FLAGS.off then ({}, State.setFlags 64 w s)
  else if r.off = F.PIO_SFCLR_FLAGS.off then ({}, State.clearFlags 64 w s)
  else if r.off = F.PIO_GSTART0_ENG.off ∨ r.off = F.PIO_GSTART1_ENG.off then ({}, gstart ((r.off - F.PIO_GSTART0_ENG.off) / 4) w s)
  else if r.off = F.PIO_GHALT0_ENG.off ∨ r.off = F.PIO_GHALT1_ENG.off then ({}, ghalt ((r.off - F.PIO_GHALT0_ENG.off) / 4) w s)
  else plain r key w s

/-- A bit timing outside the ranges of its fields or the limits of R281. [DEDUCED 174 unsafe] -/
def badTiming (data : Bool) (w : Nat) : Bool :=
  if data then
    decide ((w % 32 + 1) * (3 + bits w 9 5 + bits w 13 10) < 10) || decide (bits w 13 10 < bits w 17 14)
  else
    decide ((w % 256 + 1) * (3 + bits w 15 8 + bits w 22 16) < 80) || decide (bits w 22 16 < bits w 29 23) || decide (bits w 15 8 = 0)

/-- CAN: the mode, the bit timings (R281) and the command registers. [DEDUCED 174 unsafe] -/
def writeCan (f : Frame) (r : RegRow) (key w d : Nat) (s : State) : State.Res × State :=
  let c := d / 0x1000
  if r.off = F.CNnn_CTL_MODE.off then canCtl c w s
  else if r.off = 0x7000C ∨ r.off = 0x70010 then
    if badTiming (decide (r.off = 0x70010)) w then ({ st := .ur }, s)
    else if 2 ≤ s.get F.CNnn_STAT_MODE_ACT c then ({ st := .busy }, s)
    else plain r key w s
  else if 0x70F14 ≤ r.off ∧ r.off ≤ 0x70F1C then locked .can f s (plain r key w)
  else if r.off = F.CAN_CMD_OP.off then
    locked .can f s (fun s =>
      let s := s.unlock .can
      if w % 4 = 1 then canAlloc s else if w % 4 = 2 then ({}, canFree (bits w 14 2) s) else ({}, s))
  else plain r key w s

/-- BRG: the discard log. -/
def writeBrg (r : RegRow) (key w : Nat) (s : State) : State.Res × State :=
  let s := s.storeReg r key w
  ({}, if r.off = F.BRG_DLOG_STAT_CLEAR.off ∧ bit w 8 then dlogClear s else s)

/-- TIM.CTL: a refused SETTIME refuses the write whole. [DEDUCED 174 unsafe] -/
def writeTim (r : RegRow) (key w : Nat) (s : State) : State.Res × State :=
  if r.off = F.TIM_CTL_TCFORCE.off then
    let x := andThen ({}, s) (bit w 3) (fun s =>
      let (st, s) := setTime s
      ({ st := st }, s))
    let x := andThen x true (plain r key w)
    let x := andThen x (bit w 1) (fun s => ({}, relock s))
    andThen x (bit w 2) (fun s => ({}, latch s))
  else plain r key w s

/-- RFX: latch clears and the alarm FIFO. [DEDUCED 115 unsafe] -/
def writeRfx (r : RegRow) (key w : Nat) (s : State) : State.Res × State :=
  if r.off = F.RFX_LCLR_RULE.off then ({}, latchClear (w % 4096) (bit w 12) s)
  else if r.off = F.RFX_ALM_POP_POP.off then ({}, if bit w 0 then alarmPop s else s)
  else plain r key w s

/-- IMG: mode changes, staging and settings. -/
def writeImg (r : RegRow) (key w : Nat) (s : State) : State.Res × State :=
  if r.off = F.IMG_MC_CTL_REQ.off then mcCtl w s
  else if r.off = F.IMG_STG_CTL_OP.off then stgCtl w s
  else if r.off = F.IMG_SET_CTL_STORE.off then setCtl w s
  else plain r key w s

/-- The registers of the user pages (R431). -/
def writePage (f : Frame) (r : RegRow) (key w d : Nat) (s : State) : Option State.Res × State :=
  let some' (x : State.Res × State) : Option State.Res × State := (some x.1, x.2)
  if r.off = F.UPnn_GO_GO.off then goWrite f s
  else match s.page? (d / 0x100) with
    | none => (some { st := .viol, reason := 5 }, s)
    | some p =>
      if r.off = F.UPnn_KD_OP.off then some' (kdWrite f s)
      else if State.notOwner p f then (some { st := .viol, reason := 5 }, s)
      else if r.off = F.UPnn_CTXCTL_OP.off then some' (ctxWrite f s)
      else some' (plain r key w s)

/-- CRY. -/
def writeCry (f : Frame) (r : RegRow) (key w : Nat) (s : State) : State.Res × State :=
  if r.off = F.CRY_FUSE_CMD_OP.off then fuseCmd w s
  else if r.off = F.CRY_LK_CTL_ROTATE_E.off then ({}, epochRotate (bit w 0) (bit w 1) s)
  else if r.off = F.CRY_CMD_OP.off then
    locked .cry f s (fun s =>
      let s := s.unlock .cry
      if w % 4 = 1 then pageAlloc f.src f.init s else if w % 4 = 2 then pageFree (bits w 7 2) f s else ({}, s))
  else plain r key w s

/-- CKR: gates and resets. -/
def writeCkr (r : RegRow) (key w : Nat) (s : State) : State.Res × State :=
  if r.off = F.CKR_GATE_BLK.off then gateWrite w s
  else if r.off = F.CKR_RST_CTL_LEVEL.off then
    ({}, if w % 4 = 1 then s.requestReset 2 4 else if w % 4 = 2 then s.requestReset 1 3 else s)
  else if r.off = F.CKR_BLKRST_BLK.off then blkRst w s
  else plain r key w s

/-- MGT: the mailbox, the logs and the self-tests. -/
def writeMgt (f : Frame) (r : RegRow) (key w : Nat) (s : State) : State.Res × State :=
  if r.off = F.MGT_MBX_ARG_DATA.off then locked .mbx f s (plain r key w)
  else if r.off = F.MGT_MBX_CMD_CODE.off then mbxWrite f s
  else if r.off = F.MGT_EVL_STAT_CLEAR.off then evlWrite w s
  else if r.off = F.MGT_VLOG_STAT_CLEAR.off then vlogWrite w s
  else if r.off = F.MGT_PLOG_STAT_CLEAR.off then plogWrite w s
  else if r.off = F.MGT_ST_CTL_GO.off then stWrite w s
  else plain r key w s

/-- The effect of a write that R8 admits, by block; no result for a job that is queued (R425). [DEDUCED 74 unsafe] -/
def writeEffect (f : Frame) (r : RegRow) (key w d : Nat) (s : State) : Option State.Res × State :=
  let some' (x : State.Res × State) : Option State.Res × State := (some x.1, x.2)
  match r.off / 0x10000 with
  | 1 => some' (writeRng r key w d s)
  | 2 => some' (writeSwc r key w d s)
  | 3 => some' (writeTmq r key w s)
  | 4 => some' (writeEpo f r key w s)
  | 5 => some' (writeFpn r key w d s)
  | 6 => some' (writePio r key w d s)
  | 7 => some' (writeCan f r key w d s)
  | 9 => some' (writeBrg r key w s)
  | 10 => some' (writeTim r key w s)
  | 12 => some' (writeRfx r key w s)
  | 13 => some' (writeImg r key w s)
  | 14 => if 0xE1000 ≤ r.off then writePage f r key w d s else some' (writeCry f r key w s)
  | 15 => some' (if r.off = F.TWN_CTL_VEER.off then twnCtl w s else plain r key w s)
  | 16 => some' (writeCkr r key w s)
  | 18 => some' (writeMgt f r key w s)
  | 19 => some' (if r.off = F.HST_CTL_FLUSH.off then hstCtl w s else plain r key w s)
  | _ => some' (plain r key w s)

/-- A write of 4 bytes to space 0x1 that has passed the first check of R50 and its region (R7 to R9, R50, R477, R482). -/
def regWrite (f : Frame) (s : State) : Option State.Res × State :=
  let off := regOff f.offset
  let busy := s.blockBusy (off / 0x10000)
  match regRow? off with
  | none => (some { st := if busy then .busy else .ok }, s)
  | some r =>
    let key := s.keyAt r off
    let w := wordOf f
    let d := off - r.off
    if (s.shown r.off d key r.start ^^^ w) &&& fixedMask r ≠ 0 then (some { st := .viol, reason := 3 }, s)
    else if busy then (some { st := .busy }, s)
    else writeEffect f r key w d s

/-- The four lock registers. [DEDUCED 66 unsafe] -/
def lockAt (off : Nat) : Option LockId :=
  if off = 0x40040 then some .epo else if off = 0x70F10 then some .can else if off = 0xE0090 then some .cry
  else if off = 0x120010 then some .mbx else none

/-- A read of a page's registers shows zero to an initiator that is not the page's owner, except Mirik (R431). [DEDUCED 131 unsafe] -/
def hiddenFrom (off hub init : Nat) (s : State) : Bool :=
  if 0xE1000 ≤ off ∧ off < 0xE5000 then
    decide (classOf s.hubNum hub init ≠ some .mirik) && (match s.page? ((off - 0xE1000) / 0x100) with
      | none => true
      | some p => decide (p.hub ≠ hub) || decide (p.init ≠ init))
  else false

/-- A read of 4 bytes of space 0x1 that has passed the checks of R50. -/
def regRead (at_ hub init : Nat) (s : State) : State.Res × State :=
  let off := regOff at_
  if s.blockBusy (off / 0x10000) then ({ st := .busy }, s)
  else match lockAt off with
    | some k =>
      let (w, s) := lockRead k hub init s
      ({ data := wordBytes w.toNat }, s)
    | none =>
      match regRow? off with
      | none => ({ data := wordBytes 0 }, s)
      | some r =>
        let d := off - r.off
        if hiddenFrom off hub init s then ({ data := wordBytes 0 }, s)
        else if r.off = F.PEnn_RXQ_DATA.off then rxqRead (d / 0x400) s
        else if r.off = F.PEnn_IDATA_WORD.off then idataRead (d / 0x400) s
        else
          let key := s.keyAt r off
          let w := readWord r (s.shown r.off d key r.start)
          let s := if r.mask (fun f => decide (f.acc = .rc)) = 0 then s
            else s.setWord key (BitVec.ofNat 32 (clearedWord r (s.stored r key)))
          ({ data := wordBytes w }, if s.openMask r.off d = 0 then s else { s with free := s.free + 1 })

end Sys2Proof.Machine
end

