-- ==== Sys2Proof/Machine/Operands.lean ====
section
/-! DEFINITION. The operand forms of a fabric request: its target and range (R37 to R42, R44) and the operands and the new value of
an RMW (Table 02-4). -/
namespace Sys2Proof.Machine

/-- What a request acts on: a hub register, endpoint objects, CAN objects, a window of space 0x4, the NVM window, the historian
window, or image staging. -/
inductive Target where
  | reg | obj | can | win (w : Win) | nvm | hist | staging
  deriving DecidableEq, Repr

/-- The size, alignment and operands of an RMW, and its operation (R44). -/
def rmwOk (f : Frame) : Bool :=
  (decide (f.len = 1) || decide (f.len = 2) || decide (f.len = 4) || decide (f.len = 8)) && decide (f.offset % f.len = 0)
    && decide (f.opc < 6) && decide (f.pay.length = if f.opc = 1 then 2 * f.len else f.len)

/-- A window of space 0x4 takes a type of request: an RMW only a bulk buffer, an RD neither a feed window nor the inbox, and a feed
window only whole words (R44, R260, R539). -/
def winTakes (w : Win) (f : Frame) : Bool :=
  match w with
  | .bulk _ => true
  | .bridge _ => decide (f.tt ≠ .rmw)
  | .feed _ => decide (f.tt ≠ .rmw) && decide (f.tt ≠ .rd) && decide (f.pay.length % 4 = 0)
  | .inbox => decide (f.tt ≠ .rmw) && decide (f.tt ≠ .rd) && decide (f.pay.length % 32 = 0)

namespace State

/-- The target of a request, by Table 02-1 and the chapters of the spaces; none where the first check of R50 fails: the space,
offset, type, size and alignment, with the posted flag that Table 02-3 gives the type. [DEDUCED 16 safe, DEDUCED 20 unsafe] -/
def targetOf (s : State) (f : Frame) : Option Target :=
  let off := f.offset
  let n := dataLen f
  let rmw := decide (f.tt = .rmw)
  if !(if rmw then rmwOk f else rangeOk f) || decide (f.pst ≠ decide (f.tt = .wr)) then none
  else match f.space with
    | 1 => if n = 4 ∧ off % 4 = 0 ∧ off < 0x150000 then some .reg else none
    | 2 =>
      if off + n ≤ 0x100000 ∧ (objsOf off n).all (fun i => (s.obj? i).isSome) ∧ (rmw = false ∨ off % 16 + n ≤ 8) then some .obj else none
    | 3 =>
      if off + n ≤ 0x100000 ∧ (canRange off n).all (fun k => (s.canObj? k).any (fun o => decide (f.tt = .rd) || o.tx))
          ∧ (rmw = false ∨ off % 128 + n ≤ 4 ∨ (16 ≤ off % 128 ∧ off % 128 + n ≤ 80)) then some .can else none
    | 4 => match s.winOf off n with
      | some w => if winTakes w f then some (.win w) else none
      | none => none
    | 5 => if f.tt = .rd ∧ off + n ≤ 0x800000 then some .nvm else none
    | 6 => if f.tt = .rd ∧ (s.histRead f).isSome then some .hist else none
    | 7 => if rmw = false ∧ off + n ≤ 0x280000 then some .staging else none
    | _ => none

end State

/-- The operations of Table 02-4, by code. [DEDUCED 19 unsafe] -/
def rmwOp (code : Nat) : Option RmwOp :=
  match code with
  | 0 => some .swap
  | 1 => some .cas
  | 2 => some .fadd
  | 3 => some .fand
  | 4 => some .for
  | 5 => some .fxor
  | _ => none

/-- The new value of an RMW on n bytes (Table 02-4); none where a CAS does not store. [DEDUCED 18 unsafe] -/
def rmwNew (op : RmwOp) (n old a b : Nat) : Option Nat :=
  match op with
  | .swap => some a
  | .cas => if old = a then some b else none
  | .fadd => some ((old + a) % 256 ^ n)
  | .fand => some (old &&& a)
  | .for => some (old ||| a)
  | .fxor => some (old ^^^ a)

/-- The operands of an RMW: little-endian in space 0x1, big-endian elsewhere (R44). -/
def rmwArgs (f : Frame) : Nat × Nat :=
  let num (l : List Byte) : Nat := if f.space = 1 then unle l else unbe l
  (num (f.pay.take f.len), num (f.pay.drop f.len))

end Sys2Proof.Machine
end

