-- ==== Sys2Proof/Machine/Transact.lean ====
section
/-! DEFINITION. Requests at their target (R41 to R44, R50, R65, R66) and aborts (R74 to R77). -/
namespace Sys2Proof.Machine

/-- The block that performs requests to a target; a request waits while the block is in reset or gated (R29, R30). -/
def Target.block : Target → Option Nat
  | .obj => some 4
  | .can => some 7
  | .win (.bridge _) => some 9
  | .win (.feed _) => some 6
  | .win .inbox => some 19
  | .hist => some 19
  | _ => none

/-- The port from which a target answers (Table 01-2, R563). [DEDUCED 21 safe] -/
def Target.port : Target → Nat
  | .can => 6
  | .win (.bridge _) => 6
  | .win (.feed _) => 6
  | .win .inbox => 8
  | .hist => 8
  | .nvm => 7
  | .staging => 7
  | _ => 5

namespace State

/-- A job of the cipher engine holds the range against this initiator (R424). [DEDUCED 16 safe] -/
def held (s : State) (f : Frame) : Bool := jobHolds s f.offset (dataLen f) f.src f.init

/-- The outcome of a request on a target, where the target answers at once. -/
def answered (t : Target) (f : Frame) (x : Res × State) : State := x.2.settle t.port f x.1

end State

/-- The objects or cells of a read with a single-bit error, or with a double-bit error, among those that it covers: `ecc` pairs each
with whether its error is a double one (R130, R196). -/
def eccOf (ecc : List (Nat × Bool)) (covers : List Nat) (double : Bool) : List Nat := covers.filter (fun i => ecc.contains (i, double))

/-- Objects of a read (R193): single-bit errors are corrected and counted; a double-bit error makes it POISON (R196). [DEDUCED 171 safe] -/
def readObjs (f : Frame) (ecc : List (Nat × Bool)) (s : State) : State.Res × State :=
  let objs := objsOf f.offset f.len
  let bad := eccOf ecc objs true
  let s := s.bumpBy F.EPO_CNT_CORR 0 (eccOf ecc objs false).length
  if bad.isEmpty then ({ data := epoBytes s f.offset f.len }, s)
  else ({ st := .poison, data := zeros f.len }, bad.foldl (fun s i => s.repairObj i) s)

/-- The cells of a bulk buffer's range: the buffers lie in one range of cells, in the order of the image (R214). [DEDUCED 171 safe] -/
def bulkCellsOf (s : State) (b : BulkBuf) (off len : Nat) : List Nat :=
  let before := ((s.img.bulk.takeWhile (fun x => decide (x ≠ b))).map (fun x => x.size)).sum
  let first := (before + off - b.base) / 64
  (List.range ((before + off - b.base + len - 1) / 64 + 1 - first)).map (fun k => s.frameCells + first + k)

/-- Bytes of a bulk buffer (R214, R130): single-bit errors are corrected and counted; a double-bit error makes the read POISON. [DEDUCED 171 safe] -/
def readBulk (b : BulkBuf) (f : Frame) (ecc : List (Nat × Bool)) (s : State) : State.Res × State :=
  let cells := bulkCellsOf s b f.offset f.len
  let bad := eccOf ecc cells true
  let s := s.bumpBy F.SWC_CNT_CORR 0 (eccOf ecc cells false).length
  if bad.isEmpty then ({ data := Mem.readN s.bulk f.offset f.len }, s)
  else ({ st := .poison, data := zeros f.len },
    bad.foldl (fun s n => ((s.bump F.SWC_CNT_UNCORR).set F.SWC_ECC_LAST_CELL 0 n).set F.SWC_ECC_LAST_SEEN 0 1) s)

/-- An RD at its target, after the checks; `ecc` names the objects or the cells with an ECC error. [DEDUCED 16 safe, DEDUCED 20 unsafe] -/
def performRd (t : Target) (f : Frame) (ecc : List (Nat × Bool)) (s : State) : State :=
  match t with
  | .reg => State.answered t f (regRead f.offset f.src f.init s)
  | .obj => State.answered t f (readObjs f ecc s)
  | .can => State.answered t f (canRead f.offset f.len f.src f.init s)
  | .win (.bulk b) =>
    if s.held f then State.answered t f ({ st := .busy }, s) else State.answered t f (readBulk b f ecc s)
  | .win (.bridge w) => bridgeRequest f w (s.take f)
  | .win _ => s.settle t.port f { st := .ur }
  | .nvm => State.answered t f ({ data := Mem.readN s.nvm f.offset f.len }, s)
  | .hist => match s.histRead f with
    | some s => s.take f
    | none => s.settle t.port f { st := .ur }
  | .staging => State.answered t f ({ data := Mem.readN s.nvm (slotAt s.stagedSlot + f.offset) f.len }, s)

/-- A WR or WRN at its target, after the checks. -/
def performWr (t : Target) (f : Frame) (s : State) : State :=
  match t with
  | .reg => match regWrite f s with
    | (some r, s) => s.settle t.port f r
    | (none, s) => s.take f
  | .obj =>
    let (ov, s) := epoWrite f.offset f.pay s
    s.settle t.port f { ovrd := ov }
  | .can => State.answered t f (canWriteFrame f s)
  | .win (.bulk _) =>
    if s.held f then s.settle t.port f { st := .busy }
    else ({ s with bulk := Mem.writeN s.bulk f.offset f.pay }).settle t.port f {}
  | .win (.bridge w) => bridgeRequest f w (s.take f)
  | .win (.feed e) =>
    (s.take f).onPio fun p => { p with feeds := p.feeds ++ [(e, f, (List.range (f.pay.length / 4)).map (fun k => BitVec.ofNat 32 (beAt f.pay (4 * k) 4)))] }
  | .win .inbox => State.answered t f (inboxWrite f s)
  | .staging => State.answered t f (stagingWrite f.offset f.pay s)
  | .nvm => s.settle t.port f { st := .ur }
  | .hist => s.settle t.port f { st := .ur }

/-- The result of an RMW whose target's bytes are `old`: the old value, and the bytes that `store` takes. -/
def rmwOn (op : RmwOp) (f : Frame) (old : List Byte) (store : List Byte → State.Res × State) (s : State) : State.Res × State :=
  match rmwNew op f.len (unbe old) (rmwArgs f).1 (rmwArgs f).2 with
  | none => ({ data := old }, s)
  | some v =>
    let (r, t) := store (be f.len v)
    if r.st = .ok then ({ data := old }, t) else (r, t)

/-- An RMW of a register: a read and, unless a CAS does not store, a write; a refused write undoes the read. [DEDUCED 17 unsafe] -/
def rmwReg (op : RmwOp) (f : Frame) (s : State) : Option State.Res × State :=
  let (r, t) := regRead f.offset f.src f.init s
  if r.st ≠ .ok then (some r, t)
  else
    match rmwNew op 4 (unle r.data) (rmwArgs f).1 (rmwArgs f).2 with
    | none => (some r, t)
    | some v =>
      let g := { f with pay := wordBytes v }
      match regWrite g t with
      | (none, t) => (none, t)
      | (some w, t) => if w.st = .ok then (some { r with ovrd := w.ovrd }, t) else
        let (w, t) := regWrite g s
        (w, t)

/-- An RMW at its target, after the checks (R44, R73). [DEDUCED 17 unsafe, DEDUCED 18 unsafe] -/
def performRmw (op : RmwOp) (t : Target) (f : Frame) (s : State) : State :=
  match t with
  | .reg => match rmwReg op f s with
    | (some r, s) => s.settle t.port f r
    | (none, s) => s.take f
  | .obj =>
    let s := (objsOf f.offset f.len).foldl (fun s i => s.arrived i) s
    if (objsOf f.offset f.len).any (fun i => ((s.obj? i).map (fun o => o.req.isSome)).getD false) then s.settle t.port f { st := .busy }
    else State.answered t f (rmwOn op f (epoBytes s f.offset f.len) (fun d => ({}, (epoWrite f.offset d s).2)) s)
  | .can => State.answered t f (rmwOn op f (canData s f.offset f.len) (fun d => canWrite f.offset d s) s)
  | .win (.bulk _) =>
    if s.held f then s.settle t.port f { st := .busy }
    else State.answered t f (rmwOn op f (Mem.readN s.bulk f.offset f.len) (fun d => ({}, { s with bulk := Mem.writeN s.bulk f.offset d })) s)
  | _ => s.settle t.port f { st := .ur }

/-- A request at its target: the checks of R50 in order, then its performance. -/
def atTarget (f : Frame) (perform : Target → State → State) (s : State) : State :=
  match classOf s.hubNum f.src f.init, s.targetOf f with
  | some c, some t =>
    match s.refusal c f.space f.offset (dataLen f) (permOf f) with
    | some r => s.settle t.port f { st := .viol, reason := r }
    | none => if t.block.any (fun b => s.blockBusy b) then s else perform t s
  | _, _ => s.settle 5 f { st := .ur }

/-- RD (R41). [DEDUCED 171 safe] -/
def execRd (f : Frame) (ecc : List (Nat × Bool)) (s : State) : Out :=
  .next (if f.tt = .rd then atTarget f (fun t s => performRd t f ecc s) s else s)

/-- WR (R41): posted. -/
def execWr (f : Frame) (s : State) : Out :=
  .next (if f.tt = .wr then atTarget f (fun t s => performWr t f s) s else s)

/-- WRN (R41, R66): it completes once it is performed. -/
def execWrn (f : Frame) (s : State) : Out :=
  .next (if f.tt = .wrn then atTarget f (fun t s => performWr t f s) s else s)

/-- REGISTER_WRITE (R7): a WR or WRN whose target is a hub register. -/
def execRegisterWrite (f : Frame) (s : State) : Out :=
  .next (if f.tt = .wr ∨ f.tt = .wrn then atTarget f (fun t s => if t = .reg then performWr t f s else s) s else s)

/-- READ_CLEAR (R7, R10): an RD of a hub register, which returns its RC fields and then clears them. An event of the same cycle
follows the read: its own command sets or counts after the clear. [DEDUCED 33 unsafe] -/
def execReadClear (f : Frame) (s : State) : Out :=
  .next (if f.tt = .rd then atTarget f (fun t s => if t = .reg then performRd t f [] s else s) s else s)

/-- An RMW whose OPC names the operation, or a reserved one (R44). [DEDUCED 19 unsafe] -/
def rmwCmd (op : RmwOp) (f : Frame) (s : State) : State :=
  if f.tt = .rmw ∧ (f.opc = op.code ∨ 6 ≤ f.opc) then atTarget f (fun t s => performRmw op t f s) s else s

/-- SWAP (R44). -/
def execSwap (f : Frame) (s : State) : Out := .next (rmwCmd .swap f s)

/-- CAS (R44). -/
def execCas (f : Frame) (s : State) : Out := .next (rmwCmd .cas f s)

/-- FADD (R44). -/
def execFadd (f : Frame) (s : State) : Out := .next (rmwCmd .fadd f s)

/-- FAND (R44). -/
def execFand (f : Frame) (s : State) : Out := .next (rmwCmd .fand f s)

/-- FOR (R44). -/
def execFor (f : Frame) (s : State) : Out := .next (rmwCmd .for f s)

/-- FXOR (R44). -/
def execFxor (f : Frame) (s : State) : Out := .next (rmwCmd .fxor f s)

/-! ### Aborts (R74 to R77) -/

/-- The transaction that an ABORT names. [DEDUCED 30 safe] -/
def isNamed (q f : Frame) : Bool :=
  !f.pst && decide (f.src = beAt q.pay 2 1) && decide (f.init = beAt q.pay 3 1) && decide (f.tag = beAt q.pay 4 2 % 1024)

/-- The access names the transaction, and no ABORT has won yet. -/
def BrgAcc.hit (q : Frame) (a : BrgAcc) : Bool :=
  a.abort.isNone && (match a.src with
    | .fabric f => isNamed q f
    | _ => false)

namespace State

/-- The ABORT's completion: OK with PART and the count of bytes performed. -/
def partDone (s : State) (port : Nat) (q : Frame) (n : Nat) : State := s.complete port (s.cmpOf q .ok false false true (countData n))

/-- Abort an access of the bridge: at the end of its chunk, or at once while it waits (R322). [DEDUCED 28 unsafe, DEDUCED 93 unsafe] -/
def abortFar (s : State) (q : Frame) : Option State :=
  match (List.range 64).find? (fun b => (s.bus b).cur.any (BrgAcc.hit q)) with
  | some b =>
    let g := s.bus b
    some (s.setBus b { g with cur := g.cur.map (fun a => { a with abort := some q }) })
  | none =>
    match (List.range 64).find? (fun b => (s.bus b).queue.any (BrgAcc.hit q)) with
    | some b =>
      let g := s.bus b
      let s := match g.queue.find? (BrgAcc.hit q) with
        | some a => s.noteDone (.far b a.qseq none 0 [])
        | none => s
      some ((s.setBus b { g with queue := g.queue.eraseP (BrgAcc.hit q) }).partDone 6 q 0)
    | none => none

/-- Abort a look-aside job: at the end of its block, or at once while it is queued (R427). [DEDUCED 28 unsafe, DEDUCED 29 unsafe] -/
def abortJob (s : State) (q : Frame) : Option State :=
  let hit (j : Job) : Bool := isNamed q j.req && j.abort.isNone
  match (List.range 64).find? (fun n => (s.page? n).any (fun p => p.queue.any hit)) with
  | none => none
  | some n =>
    match s.page? n with
    | none => none
    | some p =>
      let mark (j : Job) : Job := if hit j then { j with abort := some q } else j
      let t := s.setPage n { p with queue := p.queue.map mark }
      match s.cry.running with
      | some (j, k) =>
        if hit j then some (t.onCry fun c => { c with running := some (mark j, k) })
        else (p.queue.find? hit).map (fun j => t.jobDone (mark j) 5 0 .ok none)
      | none => (p.queue.find? hit).map (fun j => t.jobDone (mark j) 5 0 .ok none)

/-- Abort a bulk copy (R215): its frames are built one to a step, so it ends at once. [DEDUCED 28 unsafe] -/
def abortCopy (s : State) (q : Frame) : Option State :=
  let hit (c : Copy) : Bool := isNamed q c.req
  (s.epo.copies.find? hit).map (fun c => (s.onEpo fun e => { e with copies := e.copies.eraseP hit }).partDone 5 q c.sent)

/-- Abort a historian window read: at the end of its page read, or at once while it waits (R538). [DEDUCED 28 unsafe] -/
def abortRead (s : State) (q : Frame) : Option State :=
  let hit (r : HRead) : Bool := isNamed q r.req && r.abort.isNone
  match s.hst.reads with
  | [] => none
  | r :: rest =>
    if hit r then some (s.onHst fun h => { h with reads := { r with abort := some q } :: rest })
    else if rest.any hit then some ((s.onHst fun h => { h with reads := r :: rest.eraseP hit }).partDone 8 q 0)
    else none

/-- A transaction that no unit can abort is open here under the name (R75). [DEDUCED 28 unsafe, DEDUCED 30 safe] -/
def openElsewhere (s : State) (q : Frame) : Bool :=
  s.inbox.any (fun p => isNamed q p.2) || s.pio.feeds.any (fun x => isNamed q x.2.1) || s.mgt.mbox.any (fun c => c.req.any (isNamed q))
    || s.mgt.relay.any (fun r => r.1.req.any (isNamed q)) || s.epo.ringSnap.any (fun x => isNamed q x.req)

/-- The port from which an ABORT_LATE leaves: the one where the original completion still waits, so that it goes out behind it
(Table 02-10). [DEDUCED 28 unsafe] -/
def latePort (s : State) (q : Frame) : Nat :=
  match s.swc.offers.find? (fun o => decide (o.fr.tt = .cmp) && decide (o.fr.dst = beAt q.pay 2 1) && decide (o.fr.init = beAt q.pay 3 1)
      && decide (o.fr.tag = beAt q.pay 4 2 % 1024)) with
  | some o => o.port
  | none => 7

end State

/-- ABORT (R74 to R76). [DEDUCED 28 unsafe] -/
def execAbort (f : Frame) (s : State) : Out :=
  let s := s.take f
  let mine := decide (f.src = beAt f.pay 2 1) && (decide (f.init = beAt f.pay 3 1) || decide (f.init = 0))
  if mgtRefused s.hubNum f ∨ f.pay.length ≠ 8 ∨ bit (beAt f.pay 1 1) 0 then .next (s.answer 7 f { st := .ur })
  else if !mine then .next ((s.violation f 6).answer 7 f { st := .viol })
  else
    match s.abortFar f <|> s.abortJob f <|> s.abortCopy f <|> s.abortRead f with
    | some s => .next s
    | none => .next (if s.openElsewhere f then s.answer 7 f { st := .ur } else s.answer (s.latePort f) f { st := .abortLate })

end Sys2Proof.Machine
end

