-- ==== Sys2Proof/Machine/RegRows.lean ====
section
/-! DEFINITION. The commands that are a write or a read of one register, or of one message object: each is the request that carries it,
and acts only where the request is aimed at that register and sets the bits that give the command its name. -/
namespace Sys2Proof.Machine

/-- A request is aimed at the register of a field, one of `n` instances. -/
def atReg (f : Frame) (r : Fld) (n : Nat := 1) : Bool :=
  let k := (regOff f.offset - r.off) / r.mult
  decide (k < n) && decide (regOff f.offset = r.off + r.mult * k)

/-- A write that is the command of a row where `aim` holds. -/
def regRow (f : Frame) (aim : Bool) (s : State) : Out := if aim then execRegisterWrite f s else .next s

/-- A read that is the command of a row where `aim` holds. -/
def readRow (f : Frame) (aim : Bool) (s : State) : Out := if aim then execReadClear f s else .next s

/-! ### Command locks (R216) -/

/-- The command register under a lock, and the bits of its OP field. -/
def LockId.cmd : LockId → Fld × Nat
  | .epo => (F.EPO_CMD_OP, 8)
  | .can => (F.CAN_CMD_OP, 4)
  | .cry => (F.CRY_CMD_OP, 4)
  | .mbx => (F.MGT_MBX_CMD_CODE, 256)

/-- A write of a command register under a lock with an OP (R216): only the holder acts, and releases the lock. -/
def lockRow (k : LockId) (op : Nat) (f : Frame) (s : State) : Out := regRow f (atReg f k.cmd.1 && decide (wordOf f % k.cmd.2 = op)) s

/-- CMD_LOCK_READ (R216): a free lock is granted to the reader. [DEDUCED 66 unsafe] -/
def execCmdLockRead (lock : LockId) (f : Frame) (s : State) : Out := readRow f (decide (lockAt (regOff f.offset) = some lock)) s

/-- RELEASE_LOCK (R216): a command write of OP 0 by the holder only releases the lock. [DEDUCED 66 unsafe] -/
def execReleaseLock (lock : LockId) (f : Frame) (s : State) : Out := lockRow lock 0 f s

/-- SUB_ALLOC (R208). -/
def execSubAlloc (f : Frame) (s : State) : Out := lockRow .epo 1 f s

/-- SUB_FREE (R207). -/
def execSubFree (f : Frame) (s : State) : Out := lockRow .epo 2 f s

/-- SNAP_ARM (R209). [DEDUCED 63 unsafe] -/
def execSnapArm (f : Frame) (s : State) : Out := lockRow .epo 3 f s

/-- SNAP_CANCEL (R212). -/
def execSnapCancel (f : Frame) (s : State) : Out := lockRow .epo 4 f s

/-- CAN_OBJ_ALLOC (R305). -/
def execCanObjAlloc (f : Frame) (s : State) : Out := lockRow .can 1 f s

/-- CAN_OBJ_FREE (R305). -/
def execCanObjFree (f : Frame) (s : State) : Out := lockRow .can 2 f s

/-- PAGE_ALLOC (R430). -/
def execPageAlloc (f : Frame) (s : State) : Out := lockRow .cry 1 f s

/-- PAGE_FREE (R430). -/
def execPageFree (f : Frame) (s : State) : Out := lockRow .cry 2 f s

/-! ### Ring, switch core and traffic manager -/

/-- REENABLE (R118): a write of Lx_LCTL with REENABLE. [DEDUCED 40 unsafe] -/
def execReenable (f : Frame) (s : State) : Out := regRow f (atReg f F.Lx_LCTL_MODE 2 && bit (wordOf f) 3) s

/-- BYP_INSERT_WRITE (R127, R410): a write of RNG.BYP_CTL. [DEDUCED 44 unsafe] -/
def execBypInsertWrite (f : Frame) (s : State) : Out := regRow f (atReg f F.RNG_BYP_CTL_INSERT) s

/-- CAPTURE_RESTART (R168): a write of SWC.CAP_CFG with RESTART. -/
def execCaptureRestart (f : Frame) (s : State) : Out := regRow f (atReg f F.SWC_CAP_CFG_EN && bit (wordOf f) 15) s

/-- PACKER_FLUSH (R165, R8): a write of PKnn_CFG with FLUSH. [DEDUCED 52 unsafe] -/
def execPackerFlush (f : Frame) (s : State) : Out := regRow f (atReg f F.PKnn_CFG_EN 64 && bit (wordOf f) 25) s

/-- POLICER_ALLOC (R181): a write of TMQ.POL_CMD with ALLOC. -/
def execPolicerAlloc (f : Frame) (s : State) : Out := regRow f (atReg f F.TMQ_POL_CMD_OP && decide (wordOf f % 4 = 1)) s

/-- POLICER_FREE (R181): a write of TMQ.POL_CMD with FREE. -/
def execPolicerFree (f : Frame) (s : State) : Out := regRow f (atReg f F.TMQ_POL_CMD_OP && decide (wordOf f % 4 = 2)) s

/-! ### Engines (chapter 08) -/

/-- A write of PEnn_CTL with one of its bits. -/
def peRow (k : Nat) (f : Frame) (s : State) : Out := regRow f (atReg f F.PEnn_CTL_HALT 64 && bit (wordOf f) k) s

/-- ENGINE_HALT (R269). -/
def execEngineHalt (f : Frame) (s : State) : Out := peRow 0 f s

/-- ENGINE_START (R271). -/
def execEngineStart (f : Frame) (s : State) : Out := peRow 1 f s

/-- ENGINE_STEP (R271): a write of PEnn_CTL with STEP, and the instruction that the engine then runs; a cell instruction runs `steps`
steps in the time that this command covers. [DESIGN CHOICE 5 safe, DEDUCED 80 unsafe] -/
def execEngineStep (f : Frame) (steps : Nat) (s : State) : Out :=
  if atReg f F.PEnn_CTL_HALT 64 && bit (wordOf f) 8 then
    match execRegisterWrite f s with
    | .next t => .next (if (t.eng (peOf f)).single && !(s.eng (peOf f)).single then t.stepInstr (peOf f) steps else t)
    | o => o
  else .next s

/-- FLUSHRX (R271). -/
def execFlushrx (f : Frame) (s : State) : Out := peRow 4 f s

/-- FLUSHTX (R271). -/
def execFlushtx (f : Frame) (s : State) : Out := peRow 5 f s

/-- FLUSHTAQ (R267). -/
def execFlushtaq (f : Frame) (s : State) : Out := peRow 6 f s

/-- RELEASE (R270). -/
def execRelease (f : Frame) (s : State) : Out := peRow 7 f s

/-- The offset of a request is one of two. -/
def atEither (f : Frame) (a b : Nat) : Bool := decide (regOff f.offset = a) || decide (regOff f.offset = b)

/-- GSTART (R268). [DEDUCED 78 unsafe] -/
def execGstart (f : Frame) (s : State) : Out := regRow f (atEither f F.PIO_GSTART0_ENG.off F.PIO_GSTART1_ENG.off) s

/-- GHALT (R268). -/
def execGhalt (f : Frame) (s : State) : Out := regRow f (atEither f F.PIO_GHALT0_ENG.off F.PIO_GHALT1_ENG.off) s

/-- SFSET (R255). -/
def execSfset (f : Frame) (s : State) : Out := regRow f (atReg f F.PIO_SFSET_FLAGS) s

/-- SFCLR (R255). -/
def execSfclr (f : Frame) (s : State) : Out := regRow f (atReg f F.PIO_SFCLR_FLAGS) s

/-- TXQ_WRITE (R260). -/
def execTxqWrite (f : Frame) (s : State) : Out := regRow f (atReg f F.PEnn_TXQ_DATA 64) s

/-- RXQ_READ (R258). -/
def execRxqRead (f : Frame) (s : State) : Out := readRow f (atReg f F.PEnn_RXQ_DATA 64) s

/-- IDATA_WRITE (R247). -/
def execIdataWrite (f : Frame) (s : State) : Out := regRow f (atReg f F.PEnn_IDATA_WORD 64) s

/-- IDATA_READ (R247). -/
def execIdataRead (f : Frame) (s : State) : Out := readRow f (atReg f F.PEnn_IDATA_WORD 64) s

/-- MAILBOX_WRITE (R261): an outside write of PEnn_MBk; without a request the binder writes mailbox k of an engine with the oldest change
that EPO handed to it (R191). -/
def execMailboxWrite (pe k : Nat) (f : Option Frame) (s : State) : Out :=
  match f with
  | some f => regRow f (decide (regOff f.offset = F.PEnn_MB_DATA.off + 0x400 * pe + 4 * k) && decide (k < 16)) s
  | none => .next (mailboxBound pe k s)

/-- TAQ_ACT_WRITE (R263). -/
def execTaqActWrite (f : Frame) (s : State) : Out := regRow f (atReg f F.PEnn_TAQ_ACT_TB 64) s

/-! ### CAN, bridge, time and reflexes -/

/-- A write of the message objects of space 0x3 sets one of the two bits of byte 0 (Table 09-4). -/
def canBit (f : Frame) (k : Nat) : Bool :=
  (canRange f.offset f.pay.length).any (fun o => decide (f.offset ≤ 128 * o) && bit (beAt f.pay (128 * o - f.offset) 1) k)

/-- A write of TX objects with one of the two bits. -/
def canRow (k : Nat) (f : Frame) (s : State) : Out :=
  .next (if (f.tt = .wr ∨ f.tt = .wrn) ∧ canBit f k then atTarget f (fun t s => if t = .can then performWr t f s else s) s else s)

/-- TXREQ (R297, R298). -/
def execTxreq (f : Frame) (s : State) : Out := canRow 1 f s

/-- TXABORT (R300). -/
def execTxabort (f : Frame) (s : State) : Out := canRow 0 f s

/-- CAN_MODE_WRITE (R277): a write of CNnn_CTL. [DEDUCED 92 unsafe] -/
def execCanModeWrite (f : Frame) (s : State) : Out := regRow f (atReg f F.CNnn_CTL_MODE 16) s

/-- RECOVER (R304): a write of CNnn_CTL with RECOVER. -/
def execRecover (f : Frame) (s : State) : Out := regRow f (atReg f F.CNnn_CTL_MODE 16 && bit (wordOf f) 3) s

/-- DLOG_CLEAR (R326): a write of BRG.DLOG_STAT with CLEAR. -/
def execDlogClear (f : Frame) (s : State) : Out := regRow f (atReg f F.BRG_DLOG_STAT_CLEAR && bit (wordOf f) 8) s

/-- A write of TIM.CTL with one of its bits. -/
def timRow (k : Nat) (f : Frame) (s : State) : Out := regRow f (atReg f F.TIM_CTL_TCFORCE && bit (wordOf f) k) s

/-- RELOCK (R347). -/
def execRelock (f : Frame) (s : State) : Out := timRow 1 f s

/-- LATCH (R336). -/
def execLatch (f : Frame) (s : State) : Out := timRow 2 f s

/-- SETTIME (R353). -/
def execSettime (f : Frame) (s : State) : Out := timRow 3 f s

/-- LATCH_CLEAR (R373): a write of RFX.LCLR. -/
def execLatchClear (f : Frame) (s : State) : Out := regRow f (atReg f F.RFX_LCLR_RULE) s

/-- ALM_POP (R378): a write of RFX.ALM_POP. -/
def execAlmPop (f : Frame) (s : State) : Out := regRow f (atReg f F.RFX_ALM_POP_POP && bit (wordOf f) 0) s

/-! ### Images, modes and settings (chapter 13) -/

/-- A write of IMG.STG_CTL with an OP. -/
def stgRow (op : Nat) (f : Frame) (s : State) : Out := regRow f (atReg f F.IMG_STG_CTL_OP && decide (wordOf f % 8 = op)) s

/-- STAGING_OPEN (R397). -/
def execStagingOpen (f : Frame) (s : State) : Out := stgRow 1 f s

/-- STAGING_CLOSE (R385). -/
def execStagingClose (f : Frame) (s : State) : Out := stgRow 2 f s

/-- VERIFY (R397). -/
def execVerify (f : Frame) (s : State) : Out := stgRow 3 f s

/-- ACTIVATE (R397). [DEDUCED 126 unsafe] -/
def execActivate (f : Frame) (s : State) : Out := stgRow 4 f s

/-- OVCOPY (R398). -/
def execOvcopy (f : Frame) (s : State) : Out := stgRow 5 f s

/-- MODE_REQUEST (R400): a write of IMG.MC_CTL with REQ. -/
def execModeRequest (f : Frame) (s : State) : Out := regRow f (atReg f F.IMG_MC_CTL_REQ && bit (wordOf f) 31) s

/-- SETTINGS_STORE (R406): a write of IMG.SET_CTL with STORE. -/
def execSettingsStore (f : Frame) (s : State) : Out := regRow f (atReg f F.IMG_SET_CTL_STORE && bit (wordOf f) 0) s

/-- SETTINGS_ERASE (R407): a write of IMG.SET_CTL with ERASE. -/
def execSettingsErase (f : Frame) (s : State) : Out := regRow f (atReg f F.IMG_SET_CTL_STORE && bit (wordOf f) 1) s

/-! ### Keys (chapter 14) -/

/-- A write of a register of a user page with an OP of two bits. -/
def pageRow (r : Fld) (op : Nat) (f : Frame) (s : State) : Out := regRow f (atReg f r 64 && decide (wordOf f % 4 = op)) s

/-- KEY_DERIVE (R412). -/
def execKeyDerive (f : Frame) (s : State) : Out := pageRow F.UPnn_KD_OP 1 f s

/-- KEY_ERASE (R412). -/
def execKeyErase (f : Frame) (s : State) : Out := pageRow F.UPnn_KD_OP 2 f s

/-- LA_GO (R422): a write of UPnn_GO with GO. -/
def execLaGo (f : Frame) (s : State) : Out := regRow f (atReg f F.UPnn_GO_GO 64 && bit (wordOf f) 0) s

/-- CTX_SAVE (R429). -/
def execCtxSave (f : Frame) (s : State) : Out := pageRow F.UPnn_CTXCTL_OP 1 f s

/-- CTX_RESTORE (R429). -/
def execCtxRestore (f : Frame) (s : State) : Out := pageRow F.UPnn_CTXCTL_OP 2 f s

/-- EPOCH_ROTATE (R418): a write of CRY.LK_CTL. -/
def execEpochRotate (f : Frame) (s : State) : Out := regRow f (atReg f F.CRY_LK_CTL_ROTATE_E) s

/-- A write of CRY.FUSE_CMD with an OP. -/
def fuseRow (op : Nat) (f : Frame) (s : State) : Out := regRow f (atReg f F.CRY_FUSE_CMD_OP && decide (wordOf f % 8 = op)) s

/-- PGM_FLEET (R436). -/
def execPgmFleet (f : Frame) (s : State) : Out := fuseRow 1 f s

/-- PGM_IMGKEY (R436). -/
def execPgmImgkey (f : Frame) (s : State) : Out := fuseRow 2 f s

/-- REVOKE_IMGKEY (R437). -/
def execRevokeImgkey (f : Frame) (s : State) : Out := fuseRow 3 f s

/-- REVOKE_JK0 (R438). -/
def execRevokeJk0 (f : Frame) (s : State) : Out := fuseRow 4 f s

/-- READ_IMGKEY (R436). [DEDUCED 132 unsafe] -/
def execReadImgkey (f : Frame) (s : State) : Out := fuseRow 5 f s

/-! ### Twin logic, clocks and resets -/

/-- TWN_FAIL (R453): a write of TWN.CTL with FAIL; a standby ignores it. -/
def execTwnFail (f : Frame) (s : State) : Out := regRow f (atReg f F.TWN_CTL_VEER && bit (wordOf f) 1) s

/-- VEER (R457): a write of TWN.CTL with VEER. -/
def execVeer (f : Frame) (s : State) : Out := regRow f (atReg f F.TWN_CTL_VEER && bit (wordOf f) 0) s

/-- GATE_REQUEST (R475): a write of CKR.GATE that sets a bit of a block. -/
def execGateRequest (f : Frame) (s : State) : Out :=
  regRow f (atReg f F.CKR_GATE_BLK && (List.range 21).any (fun b => bit (wordOf f) b && !bit (s.get F.CKR_GATE_BLK) b)) s

/-- GATE_CLEAR (R475, R476): a write of CKR.GATE that clears a bit of a block. -/
def execGateClear (f : Frame) (s : State) : Out :=
  regRow f (atReg f F.CKR_GATE_BLK && (List.range 21).any (fun b => !bit (wordOf f) b && bit (s.get F.CKR_GATE_BLK) b)) s

/-- BLOCK_RESET (R480): a write of CKR.BLKRST. -/
def execBlockReset (f : Frame) (s : State) : Out := regRow f (atReg f F.CKR_BLKRST_BLK) s

/-! ### Mirik and the historian -/

/-- EVL_CLEAR (R509). -/
def execEvlClear (f : Frame) (s : State) : Out := regRow f (atReg f F.MGT_EVL_STAT_CLEAR && bit (wordOf f) 13) s

/-- VLOG_CLEAR (R57). [DEDUCED 32 unsafe] -/
def execVlogClear (f : Frame) (s : State) : Out := regRow f (atReg f F.MGT_VLOG_STAT_CLEAR && bit (wordOf f) 8) s

/-- PLOG_CLEAR (R57). [DEDUCED 32 unsafe] -/
def execPlogClear (f : Frame) (s : State) : Out := regRow f (atReg f F.MGT_PLOG_STAT_CLEAR && bit (wordOf f) 8) s

/-- A write of MGT.ST_CTL with GO and a test. -/
def testRow (test : Nat) (f : Frame) (s : State) : Out :=
  regRow f (atReg f F.MGT_ST_CTL_GO && bit (wordOf f) 14 && decide (wordOf f % 16 = test)) s

/-- ST_SCRUB (R510). -/
def execStScrub (f : Frame) (s : State) : Out := testRow 1 f s

/-- ST_EYE (R510). -/
def execStEye (f : Frame) (s : State) : Out := testRow 2 f s

/-- ST_CLKMON (R510). -/
def execStClkmon (f : Frame) (s : State) : Out := testRow 3 f s

/-- ST_KAT (R510). -/
def execStKat (f : Frame) (s : State) : Out := testRow 4 f s

/-- ST_PADRB (R511). [DEDUCED 160 unsafe] -/
def execStPadrb (f : Frame) (s : State) : Out := testRow 8 f s

/-- ST_MBIST (R511). [DEDUCED 160 unsafe] -/
def execStMbist (f : Frame) (s : State) : Out := testRow 9 f s

/-- A write of HST.CTL with one of its bits. -/
def hstRow (k : Nat) (f : Frame) (s : State) : Out := regRow f (atReg f F.HST_CTL_FLUSH && bit (wordOf f) k) s

/-- HST_FLUSH (R528). -/
def execHstFlush (f : Frame) (s : State) : Out := hstRow 0 f s

/-- HST_MARK (R522, R524). -/
def execHstMark (f : Frame) (s : State) : Out := hstRow 1 f s

/-- HST_FORMAT (R532). [DEDUCED 168 unsafe] -/
def execHstFormat (f : Frame) (s : State) : Out := hstRow 2 f s

/-- HST_RESUME (R534). [DEDUCED 168 unsafe] -/
def execHstResume (f : Frame) (s : State) : Out := hstRow 3 f s

end Sys2Proof.Machine
end

