-- ==== Sys2Proof/Machine/Dispatch.lean ====
section
/-! DEFINITION. One arm for each command: the one call of its meaning. -/
namespace Sys2Proof.Machine

/-- The effect of a command on everything but the queue. -/
def exec (i : Instr) (s : State) : Host.Outcome State Fault Refusal :=
  match i with
  | .registerWrite f => Sys2Proof.Machine.execRegisterWrite f s
  | .readClear f => Sys2Proof.Machine.execReadClear f s
  | .rd f ecc => Sys2Proof.Machine.execRd f ecc s
  | .wr f => Sys2Proof.Machine.execWr f s
  | .wrn f => Sys2Proof.Machine.execWrn f s
  | .swapOp f => Sys2Proof.Machine.execSwap f s
  | .casOp f => Sys2Proof.Machine.execCas f s
  | .faddOp f => Sys2Proof.Machine.execFadd f s
  | .fandOp f => Sys2Proof.Machine.execFand f s
  | .forOp f => Sys2Proof.Machine.execFor f s
  | .fxorOp f => Sys2Proof.Machine.execFxor f s
  | .cmp f => Sys2Proof.Machine.execCmp f s
  | .completionTimeout init tag => Sys2Proof.Machine.execCompletionTimeout init tag s
  | .tagReserveExpiry init tag => Sys2Proof.Machine.execTagReserveExpiry init tag s
  | .tagWaitSend f => Sys2Proof.Machine.execTagWaitSend f s
  | .errn f => Sys2Proof.Machine.execErrn f s
  | .abortOp f => Sys2Proof.Machine.execAbort f s
  | .crd l tc4 climit => Sys2Proof.Machine.execCrd l tc4 climit s
  | .crdSend l tc4 => Sys2Proof.Machine.execCrdSend l tc4 s
  | .lid l hub st => Sys2Proof.Machine.execLid l hub st s
  | .linc l inc => Sys2Proof.Machine.execLinc l inc s
  | .lidLincSend l => Sys2Proof.Machine.execLidLincSend l s
  | .susp l => Sys2Proof.Machine.execSusp l s
  | .resm l => Sys2Proof.Machine.execResm l s
  | .tc0Preempt l => Sys2Proof.Machine.execTc0Preempt l s
  | .ringFrameHead l f => Sys2Proof.Machine.execRingFrameHead l f s
  | .frameVerdict h crcOk tagOk errEnd => Sys2Proof.Machine.execFrameVerdict h crcOk tagOk errEnd s
  | .holdTimerExpiry stream => Sys2Proof.Machine.execHoldTimerExpiry stream s
  | .hostFrameRx p fcsOk eth => Sys2Proof.Machine.execHostFrameRx p fcsOk eth s
  | .blockLockLoss l => Sys2Proof.Machine.execBlockLockLoss l s
  | .blockLockGain l => Sys2Proof.Machine.execBlockLockGain l s
  | .hiBer l => Sys2Proof.Machine.execHiBer l s
  | .qualityWindow l sync ctl hiBer => Sys2Proof.Machine.execQualityWindow l sync ctl hiBer s
  | .probationPass l => Sys2Proof.Machine.execProbationPass l s
  | .reenable f => Sys2Proof.Machine.execReenable f s
  | .hopmSend l => Sys2Proof.Machine.execHopmSend l s
  | .hopm l f => Sys2Proof.Machine.execHopm l f s
  | .fillTimeout l => Sys2Proof.Machine.execFillTimeout l s
  | .admreq f twinJoined => Sys2Proof.Machine.execAdmreq f twinJoined s
  | .admreqSend => Sys2Proof.Machine.execAdmreqSend s
  | .admitSend => Sys2Proof.Machine.execAdmitSend s
  | .admitOp f => Sys2Proof.Machine.execAdmit f s
  | .refuse f => Sys2Proof.Machine.execRefuse f s
  | .master f => Sys2Proof.Machine.execMaster f s
  | .masterBeaconSend => Sys2Proof.Machine.execMasterBeaconSend s
  | .beaconLoss => Sys2Proof.Machine.execBeaconLoss s
  | .cand f => Sys2Proof.Machine.execCand f s
  | .candSend => Sys2Proof.Machine.execCandSend s
  | .electionWin => Sys2Proof.Machine.execElectionWin s
  | .noAdmittedHub => Sys2Proof.Machine.execNoAdmittedHub s
  | .memb f => Sys2Proof.Machine.execMemb f s
  | .membSend => Sys2Proof.Machine.execMembSend s
  | .pres f => Sys2Proof.Machine.execPres f s
  | .presSend => Sys2Proof.Machine.execPresSend s
  | .positionRemoval hub => Sys2Proof.Machine.execPositionRemoval hub s
  | .leave f => Sys2Proof.Machine.execLeave f s
  | .dld l f => Sys2Proof.Machine.execDld l f s
  | .bypInsertWrite f => Sys2Proof.Machine.execBypInsertWrite f s
  | .insertRelease => Sys2Proof.Machine.execInsertRelease s
  | .heartbeatSend => Sys2Proof.Machine.execHeartbeatSend s
  | .heartbeatLost => Sys2Proof.Machine.execHeartbeatLost s
  | .switchIngressHead port => Sys2Proof.Machine.execSwitchIngressHead port s
  | .cellSlot errs => Sys2Proof.Machine.execCellSlot errs s
  | .bufferScrub err => Sys2Proof.Machine.execBufferScrub err s
  | .bufferFillDone => Sys2Proof.Machine.execBufferFillDone s
  | .localQueueRoom q => Sys2Proof.Machine.execLocalQueueRoom q s
  | .aonLink h => Sys2Proof.Machine.execAonLink h s
  | .packerUnitWrite pe => Sys2Proof.Machine.execPackerUnitWrite pe s
  | .packerStallRelease pe => Sys2Proof.Machine.execPackerStallRelease pe s
  | .packerCtTimeout pe => Sys2Proof.Machine.execPackerCtTimeout pe s
  | .packerFlush f => Sys2Proof.Machine.execPackerFlush f s
  | .sampleSend => Sys2Proof.Machine.execSampleSend s
  | .captureRestart f => Sys2Proof.Machine.execCaptureRestart f s
  | .shaperTick => Sys2Proof.Machine.execShaperTick s
  | .policerTick => Sys2Proof.Machine.execPolicerTick s
  | .policerAlloc f => Sys2Proof.Machine.execPolicerAlloc f s
  | .policerFree f => Sys2Proof.Machine.execPolicerFree f s
  | .sourceUpdate => Sys2Proof.Machine.execSourceUpdate s
  | .periodTimer obj => Sys2Proof.Machine.execPeriodTimer obj s
  | .deferredEvaluation obj => Sys2Proof.Machine.execDeferredEvaluation obj s
  | .staleTimeout obj => Sys2Proof.Machine.execStaleTimeout obj s
  | .batchTimer sub => Sys2Proof.Machine.execBatchTimer sub s
  | .pubFrameBuild => Sys2Proof.Machine.execPubFrameBuild s
  | .pub f => Sys2Proof.Machine.execPub f s
  | .objectScrub err => Sys2Proof.Machine.execObjectScrub err s
  | .holdChange => Sys2Proof.Machine.execHoldChange s
  | .cmdLockRead lock f => Sys2Proof.Machine.execCmdLockRead lock f s
  | .cmdLockTimeout lock => Sys2Proof.Machine.execCmdLockTimeout lock s
  | .releaseLock lock f => Sys2Proof.Machine.execReleaseLock lock f s
  | .subAlloc f => Sys2Proof.Machine.execSubAlloc f s
  | .subFree f => Sys2Proof.Machine.execSubFree f s
  | .snapArm f => Sys2Proof.Machine.execSnapArm f s
  | .snapCancel f => Sys2Proof.Machine.execSnapCancel f s
  | .snapshotInstant sslot => Sys2Proof.Machine.execSnapshotInstant sslot s
  | .bcopy f => Sys2Proof.Machine.execBcopy f s
  | .bcopyFrameSend => Sys2Proof.Machine.execBcopyFrameSend s
  | .snapreq f => Sys2Proof.Machine.execSnapreq f s
  | .snaparm f => Sys2Proof.Machine.execSnaparm f s
  | .snapnack f => Sys2Proof.Machine.execSnapnack f s
  | .snapreqTimeout => Sys2Proof.Machine.execSnapreqTimeout s
  | .pinFilteredEdge pin level => Sys2Proof.Machine.execPinFilteredEdge pin level s
  | .pinOutputChange pin ctrl => Sys2Proof.Machine.execPinOutputChange pin ctrl s
  | .readbackMismatch pin => Sys2Proof.Machine.execReadbackMismatch pin s
  | .pulseEnd pin => Sys2Proof.Machine.execPulseEnd pin s
  | .vwFrameSend block => Sys2Proof.Machine.execVwFrameSend block s
  | .vwRefresh block => Sys2Proof.Machine.execVwRefresh block s
  | .vw f => Sys2Proof.Machine.execVw f s
  | .vwApply slot => Sys2Proof.Machine.execVwApply slot s
  | .vwSlotTimeout slot => Sys2Proof.Machine.execVwSlotTimeout slot s
  | .bankSupplyLoss bank => Sys2Proof.Machine.execBankSupplyLoss bank s
  | .bankSupplyRestore bank => Sys2Proof.Machine.execBankSupplyRestore bank s
  | .nopOp pe => Sys2Proof.Machine.execNop pe s
  | .gotoOp pe => Sys2Proof.Machine.execGoto pe s
  | .loopOp pe => Sys2Proof.Machine.execLoop pe s
  | .caseOp pe => Sys2Proof.Machine.execCase pe s
  | .untilOp pe => Sys2Proof.Machine.execUntil pe s
  | .emitOp pe steps => Sys2Proof.Machine.execEmit pe steps s
  | .captureOp pe steps => Sys2Proof.Machine.execCapture pe steps s
  | .xchgOp pe steps => Sys2Proof.Machine.execXchg pe steps s
  | .sampleOp pe => Sys2Proof.Machine.execSample pe s
  | .driveOp pe => Sys2Proof.Machine.execDrive pe s
  | .postOp pe => Sys2Proof.Machine.execPost pe s
  | .fetchOp pe => Sys2Proof.Machine.execFetch pe s
  | .copyOp pe => Sys2Proof.Machine.execCopy pe s
  | .setkOp pe => Sys2Proof.Machine.execSetk pe s
  | .calcOp pe => Sys2Proof.Machine.execCalc pe s
  | .flagOp pe => Sys2Proof.Machine.execFlag pe s
  | .atOp pe => Sys2Proof.Machine.execAt pe s
  | .stopOp pe => Sys2Proof.Machine.execStop pe s
  | .stallRelease pe steps => Sys2Proof.Machine.execStallRelease pe steps s
  | .timedAction pe => Sys2Proof.Machine.execTimedAction pe s
  | .engineHalt f => Sys2Proof.Machine.execEngineHalt f s
  | .engineStart f => Sys2Proof.Machine.execEngineStart f s
  | .engineStep f steps => Sys2Proof.Machine.execEngineStep f steps s
  | .flushrx f => Sys2Proof.Machine.execFlushrx f s
  | .flushtx f => Sys2Proof.Machine.execFlushtx f s
  | .flushtaq f => Sys2Proof.Machine.execFlushtaq f s
  | .releaseOp f => Sys2Proof.Machine.execRelease f s
  | .gstart f => Sys2Proof.Machine.execGstart f s
  | .ghalt f => Sys2Proof.Machine.execGhalt f s
  | .sfset f => Sys2Proof.Machine.execSfset f s
  | .sfclr f => Sys2Proof.Machine.execSfclr f s
  | .txqWrite f => Sys2Proof.Machine.execTxqWrite f s
  | .rxqRead f => Sys2Proof.Machine.execRxqRead f s
  | .idataWrite f => Sys2Proof.Machine.execIdataWrite f s
  | .idataRead f => Sys2Proof.Machine.execIdataRead f s
  | .mailboxWrite pe k f => Sys2Proof.Machine.execMailboxWrite pe k f s
  | .taqActWrite f => Sys2Proof.Machine.execTaqActWrite f s
  | .feedWindowDrain pe => Sys2Proof.Machine.execFeedWindowDrain pe s
  | .canFrameRx ch fr age => Sys2Proof.Machine.execCanFrameRx ch fr age s
  | .canLockTimeout obj => Sys2Proof.Machine.execCanLockTimeout obj s
  | .txreq f => Sys2Proof.Machine.execTxreq f s
  | .txabort f => Sys2Proof.Machine.execTxabort f s
  | .canArbitration ch => Sys2Proof.Machine.execCanArbitration ch s
  | .canTxComplete ch outcome => Sys2Proof.Machine.execCanTxComplete ch outcome s
  | .canBusError ch lec add data tx frame => Sys2Proof.Machine.execCanBusError ch lec add data tx frame s
  | .busOff ch => Sys2Proof.Machine.execBusOff ch s
  | .recover f => Sys2Proof.Machine.execRecover f s
  | .recoveryComplete ch => Sys2Proof.Machine.execRecoveryComplete ch s
  | .canModeWrite f => Sys2Proof.Machine.execCanModeWrite f s
  | .canModeEffect ch => Sys2Proof.Machine.execCanModeEffect ch s
  | .busIntegration ch => Sys2Proof.Machine.execBusIntegration ch s
  | .abdDwellExpiry ch edge => Sys2Proof.Machine.execAbdDwellExpiry ch edge s
  | .cantxRequest => Sys2Proof.Machine.execCantxRequest s
  | .canObjAlloc f => Sys2Proof.Machine.execCanObjAlloc f s
  | .canObjFree f => Sys2Proof.Machine.execCanObjFree f s
  | .uartCharRx sp char framing parity brk => Sys2Proof.Machine.execUartCharRx sp char framing parity brk s
  | .busIdleDispatch bus => Sys2Proof.Machine.execBusIdleDispatch bus s
  | .farSideComplete bus detail data => Sys2Proof.Machine.execFarSideComplete bus detail data s
  | .farSideTimeout bus => Sys2Proof.Machine.execFarSideTimeout bus s
  | .prefetchAge k => Sys2Proof.Machine.execPrefetchAge k s
  | .pollDue entry => Sys2Proof.Machine.execPollDue entry s
  | .bridgeSinkWrite => Sys2Proof.Machine.execBridgeSinkWrite s
  | .dlogClear f => Sys2Proof.Machine.execDlogClear f s
  | .tsyncSend => Sys2Proof.Machine.execTsyncSend s
  | .tsync f stamp => Sys2Proof.Machine.execTsync f stamp s
  | .syncLossHoldover => Sys2Proof.Machine.execSyncLossHoldover s
  | .timeRingSwitch => Sys2Proof.Machine.execTimeRingSwitch s
  | .tgmrSend p => Sys2Proof.Machine.execTgmrSend p s
  | .tgmr f => Sys2Proof.Machine.execTgmr f s
  | .ptpSync p m t2 => Sys2Proof.Machine.execPtpSync p m t2 s
  | .ptpFollowUp p m => Sys2Proof.Machine.execPtpFollowUp p m s
  | .ptpDelayReq p m t4 => Sys2Proof.Machine.execPtpDelayReq p m t4 s
  | .ptpDelayResp p m t3 => Sys2Proof.Machine.execPtpDelayResp p m t3 s
  | .ptpPdelayReq p m t2 => Sys2Proof.Machine.execPtpPdelayReq p m t2 s
  | .ptpPdelayResp p m t1 t4 => Sys2Proof.Machine.execPtpPdelayResp p m t1 t4 s
  | .ptpPdelayRespFollowUp p m => Sys2Proof.Machine.execPtpPdelayRespFollowUp p m s
  | .ptpAnnounce p m => Sys2Proof.Machine.execPtpAnnounce p m s
  | .ptpDiscard => Sys2Proof.Machine.execPtpDiscard s
  | .ptpSyncSend p => Sys2Proof.Machine.execPtpSyncSend p s
  | .announceTimeout p => Sys2Proof.Machine.execAnnounceTimeout p s
  | .relock f => Sys2Proof.Machine.execRelock f s
  | .latchOp f => Sys2Proof.Machine.execLatch f s
  | .settime f => Sys2Proof.Machine.execSettime f s
  | .phaseLocalEvent ph => Sys2Proof.Machine.execPhaseLocalEvent ph s
  | .phevSend ph => Sys2Proof.Machine.execPhevSend ph s
  | .phev f => Sys2Proof.Machine.execPhev f s
  | .phaseStall ph => Sys2Proof.Machine.execPhaseStall ph s
  | .sweep => Sys2Proof.Machine.execSweep s
  | .extraSweep => Sys2Proof.Machine.execExtraSweep s
  | .deferredSweep => Sys2Proof.Machine.execDeferredSweep s
  | .latchClear f => Sys2Proof.Machine.execLatchClear f s
  | .almPop f => Sys2Proof.Machine.execAlmPop f s
  | .imageLoad vio => Sys2Proof.Machine.execImageLoad vio s
  | .stagingOpen f => Sys2Proof.Machine.execStagingOpen f s
  | .stagingClose f => Sys2Proof.Machine.execStagingClose f s
  | .verifyOp f => Sys2Proof.Machine.execVerify f s
  | .activate f => Sys2Proof.Machine.execActivate f s
  | .ovcopy f => Sys2Proof.Machine.execOvcopy f s
  | .modeRequest f => Sys2Proof.Machine.execModeRequest f s
  | .modereq f => Sys2Proof.Machine.execModereq f s
  | .modearm f => Sys2Proof.Machine.execModearm f s
  | .modeack f => Sys2Proof.Machine.execModeack f s
  | .modeDeadline => Sys2Proof.Machine.execModeDeadline s
  | .modego f => Sys2Proof.Machine.execModego f s
  | .modeabt f => Sys2Proof.Machine.execModeabt f s
  | .moderes f => Sys2Proof.Machine.execModeres f s
  | .modeqry f => Sys2Proof.Machine.execModeqry f s
  | .modestat f => Sys2Proof.Machine.execModestat f s
  | .modestatSend => Sys2Proof.Machine.execModestatSend s
  | .overlayInstant => Sys2Proof.Machine.execOverlayInstant s
  | .modeLateApply => Sys2Proof.Machine.execModeLateApply s
  | .modeInstantNoGo => Sys2Proof.Machine.execModeInstantNoGo s
  | .settingsStore f => Sys2Proof.Machine.execSettingsStore f s
  | .storeDone => Sys2Proof.Machine.execStoreDone s
  | .settingsErase f => Sys2Proof.Machine.execSettingsErase f s
  | .scheduleDue entry => Sys2Proof.Machine.execScheduleDue entry s
  | .keyDerive f => Sys2Proof.Machine.execKeyDerive f s
  | .keyErase f => Sys2Proof.Machine.execKeyErase f s
  | .derivationDone slot => Sys2Proof.Machine.execDerivationDone slot s
  | .laGo f => Sys2Proof.Machine.execLaGo f s
  | .laJobStart => Sys2Proof.Machine.execLaJobStart s
  | .laJobEnd fault blocks => Sys2Proof.Machine.execLaJobEnd fault blocks s
  | .ctxSave f => Sys2Proof.Machine.execCtxSave f s
  | .ctxRestore f => Sys2Proof.Machine.execCtxRestore f s
  | .pageAlloc f => Sys2Proof.Machine.execPageAlloc f s
  | .pageFree f => Sys2Proof.Machine.execPageFree f s
  | .epochRotate f => Sys2Proof.Machine.execEpochRotate f s
  | .epochPeriod l => Sys2Proof.Machine.execEpochPeriod l s
  | .squall source => Sys2Proof.Machine.execSquall source s
  | .tamperSample mask => Sys2Proof.Machine.execTamperSample mask s
  | .pgmFleet f => Sys2Proof.Machine.execPgmFleet f s
  | .pgmImgkey f => Sys2Proof.Machine.execPgmImgkey f s
  | .revokeImgkey f => Sys2Proof.Machine.execRevokeImgkey f s
  | .revokeJk0 f => Sys2Proof.Machine.execRevokeJk0 f s
  | .readImgkey f => Sys2Proof.Machine.execReadImgkey f s
  | .fuseDone fault => Sys2Proof.Machine.execFuseDone fault s
  | .tws content => Sys2Proof.Machine.execTws content s
  | .twsSend => Sys2Proof.Machine.execTwsSend s
  | .orign f => Sys2Proof.Machine.execOrign f s
  | .done seq items empty => Sys2Proof.Machine.execDone seq items empty s
  | .lhist seq theirs mine => Sys2Proof.Machine.execLhist seq theirs mine s
  | .hostf f => Sys2Proof.Machine.execHostf f s
  | .syncRestore => Sys2Proof.Machine.execSyncRestore s
  | .sequencerMismatch => Sys2Proof.Machine.execSequencerMismatch s
  | .twnFail f => Sys2Proof.Machine.execTwnFail f s
  | .partnerFail gap cut can => Sys2Proof.Machine.execPartnerFail gap cut can s
  | .partnerActive => Sys2Proof.Machine.execPartnerActive s
  | .roleDecide failI actI => Sys2Proof.Machine.execRoleDecide failI actI s
  | .doubleActive => Sys2Proof.Machine.execDoubleActive s
  | .veer f => Sys2Proof.Machine.execVeer f s
  | .veerreq f => Sys2Proof.Machine.execVeerreq f s
  | .veergo f => Sys2Proof.Machine.execVeergo f s
  | .veerno f => Sys2Proof.Machine.execVeerno f s
  | .veerBusIdle gap cut can => Sys2Proof.Machine.execVeerBusIdle gap cut can s
  | .veerdone f => Sys2Proof.Machine.execVeerdone f s
  | .revertTimer => Sys2Proof.Machine.execRevertTimer s
  | .cutTransactionRedo bus => Sys2Proof.Machine.execCutTransactionRedo bus s
  | .refChange qual => Sys2Proof.Machine.execRefChange qual s
  | .refMeasureDone within => Sys2Proof.Machine.execRefMeasureDone within s
  | .sparePllLock pll => Sys2Proof.Machine.execSparePllLock pll s
  | .domainMove forced => Sys2Proof.Machine.execDomainMove forced s
  | .missingEdge source still => Sys2Proof.Machine.execMissingEdge source still s
  | .sourceRunning source => Sys2Proof.Machine.execSourceRunning source s
  | .gateRequest f => Sys2Proof.Machine.execGateRequest f s
  | .gateAck blk => Sys2Proof.Machine.execGateAck blk s
  | .gateTimeout blk => Sys2Proof.Machine.execGateTimeout blk s
  | .gateClear f => Sys2Proof.Machine.execGateClear f s
  | .warmReset cause => Sys2Proof.Machine.execWarmReset cause s
  | .coldReset cause => Sys2Proof.Machine.execColdReset cause s
  | .hrst => Sys2Proof.Machine.execHrst s
  | .resetPreludeEnd active => Sys2Proof.Machine.execResetPreludeEnd active s
  | .blockReset f => Sys2Proof.Machine.execBlockReset f s
  | .blockResetDone blk => Sys2Proof.Machine.execBlockResetDone blk s
  | .hubDiePowerGood active => Sys2Proof.Machine.execHubDiePowerGood active s
  | .vinEnterWindow => Sys2Proof.Machine.execVinEnterWindow s
  | .vinLeaveWindow high => Sys2Proof.Machine.execVinLeaveWindow high s
  | .insertionDelayEnd => Sys2Proof.Machine.execInsertionDelayEnd s
  | .prechargeEnd => Sys2Proof.Machine.execPrechargeEnd s
  | .prechargeTimeout => Sys2Proof.Machine.execPrechargeTimeout s
  | .gateFullyOn => Sys2Proof.Machine.execGateFullyOn s
  | .pgQualified => Sys2Proof.Machine.execPgQualified s
  | .overcurrent => Sys2Proof.Machine.execOvercurrent s
  | .faultTimerIdle full => Sys2Proof.Machine.execFaultTimerIdle full s
  | .faultTimerExpiry => Sys2Proof.Machine.execFaultTimerExpiry s
  | .retryTimerExpiry => Sys2Proof.Machine.execRetryTimerExpiry s
  | .rcntClear => Sys2Proof.Machine.execRcntClear s
  | .vauxLoss => Sys2Proof.Machine.execVauxLoss s
  | .vauxReturn => Sys2Proof.Machine.execVauxReturn s
  | .holdCollapse => Sys2Proof.Machine.execHoldCollapse s
  | .railOutOfLimits => Sys2Proof.Machine.execRailOutOfLimits s
  | .hdpgAssert => Sys2Proof.Machine.execHdpgAssert s
  | .snsRead => Sys2Proof.Machine.execSnsRead s
  | .fwOpen => Sys2Proof.Machine.execFwOpen s
  | .fwWrite => Sys2Proof.Machine.execFwWrite s
  | .fwVerify => Sys2Proof.Machine.execFwVerify s
  | .fwActivate => Sys2Proof.Machine.execFwActivate s
  | .confirm => Sys2Proof.Machine.execConfirm s
  | .mbxFuse fault => Sys2Proof.Machine.execMbxFuse fault s
  | .dldRelay => Sys2Proof.Machine.execDldRelay s
  | .mbox f => Sys2Proof.Machine.execMbox f s
  | .watchdogExpiry => Sys2Proof.Machine.execWatchdogExpiry s
  | .lockstepError => Sys2Proof.Machine.execLockstepError s
  | .alarmDrain => Sys2Proof.Machine.execAlarmDrain s
  | .almn f => Sys2Proof.Machine.execAlmn f s
  | .evtn f => Sys2Proof.Machine.execEvtn f s
  | .sensorUpdate idx value raw valid => Sys2Proof.Machine.execSensorUpdate idx value raw valid s
  | .eventLogWrite => Sys2Proof.Machine.execEventLogWrite s
  | .evlClear f => Sys2Proof.Machine.execEvlClear f s
  | .vlogClear f => Sys2Proof.Machine.execVlogClear f s
  | .plogClear f => Sys2Proof.Machine.execPlogClear f s
  | .stScrub f => Sys2Proof.Machine.execStScrub f s
  | .stEye f => Sys2Proof.Machine.execStEye f s
  | .stClkmon f => Sys2Proof.Machine.execStClkmon f s
  | .stKat f => Sys2Proof.Machine.execStKat f s
  | .stPadrb f => Sys2Proof.Machine.execStPadrb f s
  | .stMbist f => Sys2Proof.Machine.execStMbist f s
  | .testComplete pass detail => Sys2Proof.Machine.execTestComplete pass detail s
  | .lullEnd => Sys2Proof.Machine.execLullEnd s
  | .autoconf => Sys2Proof.Machine.execAutoconf s
  | .confTimeout => Sys2Proof.Machine.execConfTimeout s
  | .helloSend => Sys2Proof.Machine.execHelloSend s
  | .hello l f => Sys2Proof.Machine.execHello l f s
  | .dldOpen src pay => Sys2Proof.Machine.execDldOpen src pay s
  | .dldData src pay => Sys2Proof.Machine.execDldData src pay s
  | .dldEnd src => Sys2Proof.Machine.execDldEnd src s
  | .dldStatus src pay => Sys2Proof.Machine.execDldStatus src pay s
  | .dldSessionTimeout => Sys2Proof.Machine.execDldSessionTimeout s
  | .histRecord => Sys2Proof.Machine.execHistRecord s
  | .pageFlushTimeout => Sys2Proof.Machine.execPageFlushTimeout s
  | .pageProgramDone fail => Sys2Proof.Machine.execPageProgramDone fail s
  | .blockEraseDone fail => Sys2Proof.Machine.execBlockEraseDone fail s
  | .hstMount dev same torn partly factory => Sys2Proof.Machine.execHstMount dev same torn partly factory s
  | .hstFlush f => Sys2Proof.Machine.execHstFlush f s
  | .hstMark f => Sys2Proof.Machine.execHstMark f s
  | .hstFormat f => Sys2Proof.Machine.execHstFormat f s
  | .hstResume f => Sys2Proof.Machine.execHstResume f s
  | .blockScrub hblk needs corr uncorr lost => Sys2Proof.Machine.execBlockScrub hblk needs corr uncorr lost s
  | .patrolScrub hblk needs corr uncorr lost => Sys2Proof.Machine.execPatrolScrub hblk needs corr uncorr lost s
  | .replSend second => Sys2Proof.Machine.execReplSend second s
  | .reservedOpcodeFetch pe ecc => Sys2Proof.Machine.execReservedOpcodeFetch pe ecc s
  | .tgmrTimeout input => Sys2Proof.Machine.execTgmrTimeout input s
  | .bypassSettleEnd => Sys2Proof.Machine.execBypassSettleEnd s
  | .nandPageReadDone uncorr corr => Sys2Proof.Machine.execNandPageReadDone uncorr corr s
  | .stagingCommandDone => Sys2Proof.Machine.execStagingCommandDone s
  | .sequenceOrderedSet l => Sys2Proof.Machine.execSequenceOrderedSet l s
  | .strayBlock l => Sys2Proof.Machine.execStrayBlock l s

end Sys2Proof.Machine
end

