-- ==== Sys2Proof/Machine/Step.lean ====
section
/-! DEFINITION. One step: the command at the front of the queue, or a tick of CK_TIM while the queue is empty. -/
namespace Sys2Proof.Machine

/-- One step. A waiting command runs with the queue's rest; on an empty queue time passes by one tick (DESIGN CHOICE). [DESIGN CHOICE 1 safe, DESIGN CHOICE 2 safe] -/
def step (s : State) : Host.Outcome State Fault Refusal :=
  match s.pending with
  | c :: rest => exec c { s with pending := rest }
  | [] => .next s.tick

/-- The state with the command that a word spells put at the front of the queue; no word spells one. [DESIGN CHOICE 3 safe] -/
def State.withFetchWord (s : State) (nbits w : Nat) : State :=
  match decodeTableWord nbits w with
  | some c => { s with pending := c :: s.pending }
  | none => s

end Sys2Proof.Machine
end

