-- ==== Sys2Proof/Safety.lean ====
section
/-! DEFINITION. What holds of every state that the hub can be in: the canonical form of its sparse memories and the capacities
of its logs. -/
namespace Sys2Proof.Machine

/-- The register file and both byte memories are in canonical form; the violation log, the posted error log and the event-log
stage hold at most 64 entries (R57, R509), the discard log at most 64 (R326), and the alarm FIFO at most 256 (R378). -/
structure State.Inv (s : State) : Prop where
  regs : Tbl.Rising s.regs = true
  bulk : Mem.wf s.bulk = true
  nvm : Mem.wf s.nvm = true
  vlog : s.hub.vlog.length ≤ 64
  plog : s.hub.plog.length ≤ 64
  stage : s.mgt.stage.length ≤ 64
  dlog : s.brg.dlog.length ≤ 64
  alarms : s.rfx.alarms.length ≤ 256

/-- The parts of the state: one for each field but the queue. -/
inductive Part where
  | regs | imgRegs | hub | rng | swc | tmq | tim | mgt | img | cry | epo | phs | pio | fpn | twn | can | brg | rfx | ckr | pwr | hst | locks | recs | bulk | nvm | inbox | out | up | free
  deriving DecidableEq, Repr

/-- A part is the same in two states. -/
def Part.same (p : Part) (s t : State) : Prop :=
  match p with
  | .regs => t.regs = s.regs
  | .imgRegs => t.imgRegs = s.imgRegs
  | .hub => t.hub = s.hub
  | .rng => t.rng = s.rng
  | .swc => t.swc = s.swc
  | .tmq => t.tmq = s.tmq
  | .tim => t.tim = s.tim
  | .mgt => t.mgt = s.mgt
  | .img => t.img = s.img
  | .cry => t.cry = s.cry
  | .epo => t.epo = s.epo
  | .phs => t.phs = s.phs
  | .pio => t.pio = s.pio
  | .fpn => t.fpn = s.fpn
  | .twn => t.twn = s.twn
  | .can => t.can = s.can
  | .brg => t.brg = s.brg
  | .rfx => t.rfx = s.rfx
  | .ckr => t.ckr = s.ckr
  | .pwr => t.pwr = s.pwr
  | .hst => t.hst = s.hst
  | .locks => t.locks = s.locks
  | .recs => t.recs = s.recs
  | .bulk => t.bulk = s.bulk
  | .nvm => t.nvm = s.nvm
  | .inbox => t.inbox = s.inbox
  | .out => t.out = s.out
  | .up => t.up = s.up
  | .free => t.free = s.free

/-- Nothing but the listed parts of the state differs: the queue and every other part are the same. -/
def State.OnlyIn (ps : List Part) (s t : State) : Prop := t.pending = s.pending ∧ ∀ p, p ∉ ps → p.same s t

/-- Every register word but those at the listed keys reads the same. -/
def State.WordsBut (ks : List Nat) (s t : State) : Prop := ∀ k, k ∉ ks → ∀ start, t.word k start = s.word k start

/-- Of the ring block, nothing but the lane l differs. -/
def State.LaneOnly (l : Lane) (s t : State) : Prop := t.rng = (s.onLane l (fun _ => t.lane l)).rng

/-- It is the turn of engine e, with the word w at its PC (R246, R249): it runs, no idle step of a PAUSE is left, and its block is neither in
reset nor gated. -/
def State.Turns (s : State) (e w : Nat) : Prop :=
  (s.eng e).running = true ∧ s.blockBusy 6 = false ∧ s.get F.PEnn_PC_PAUSELEFT e = 0 ∧ s.iword e (s.get F.PEnn_PC_PC e) = w

/-- Engine e executes the word w with opcode op (R246, R248, R249): it is its turn, chapter 08 allows w, and its instruction has begun, or the PC
is inside the window and the condition of w is true. -/
def State.Runs (s : State) (e op w : Nat) : Prop :=
  s.Turns e w ∧ w / 2 ^ 26 = op ∧ s.wordLegal e w = true
    ∧ ((s.eng e).stalled.isSome = true ∨ (s.eng e).seq.isSome = true
      ∨ s.get F.PEnn_PC_PC e < s.get F.PEnn_IWIN_SIZE e ∧ s.cond e (bits w 25 22) = true)

/-- The request passes the checks of R50 that come before its block's readiness: its initiator has a class, t is what it names and takes
it, and the region table permits it. -/
def State.Passes (s : State) (f : Frame) (t : Target) : Prop :=
  ∃ c, classOf s.hubNum f.src f.init = some c ∧ s.targetOf f = some t ∧ s.refusal c f.space f.offset (dataLen f) (permOf f) = none

/-- The write f meets the effect of the register x that holds the field r, instance i (R7 to R9, R50): it is a WR or WRN of that register,
which its target and the regions admit; it changes no RWI bit, and the register's block is neither in reset nor gated. -/
structure State.WritesReg (s : State) (f : Frame) (r : Fld) (i : Nat) (x : RegRow) : Prop where
  kind : f.tt = .wr ∨ f.tt = .wrn
  aim : regOff f.offset = r.off + r.mult * i
  row : regRow? (regOff f.offset) = some x
  name : x.off = r.off
  plain : x.sel.1 = 0
  passes : s.Passes f .reg
  fixed : (s.shown x.off (regOff f.offset - x.off) (regOff f.offset) x.start ^^^ wordOf f) &&& fixedMask x = 0
  works : s.blockBusy (regOff f.offset / 0x10000) = false

/-- The read f reaches the register at the offset of the field r, instance i (R7, R50). -/
structure State.ReadsReg (s : State) (f : Frame) (r : Fld) (i : Nat) : Prop where
  kind : f.tt = .rd
  aim : regOff f.offset = r.off + r.mult * i
  passes : s.Passes f .reg
  works : s.blockBusy (regOff f.offset / 0x10000) = false

/-- The read f meets the register x that holds the field r, instance i, and no hiding or command lock changes what it reads. -/
structure State.ReadsRow (s : State) (f : Frame) (r : Fld) (i : Nat) (x : RegRow) : Prop where
  reads : s.ReadsReg f r i
  row : regRow? (regOff f.offset) = some x
  name : x.off = r.off
  open_ : lockAt (regOff f.offset) = none
  seen : hiddenFrom (regOff f.offset) f.src f.init s = false

end Sys2Proof.Machine
end

