-- ==== Sys2Proof/Certificates/Slice0/Obligations.lean ====
section
/-! DEFINITION. The statements for the provers: what the commands do, family by family, and what every step keeps. -/
open Sys2Proof Sys2Proof.Machine

/-! ### The machine as a whole -/

/-- A step takes the command at the front of the queue and runs it with the queue's rest; on an empty queue time passes by one tick
of CK_TIM (the model's choice, log entry 2).
Rests on assumption-log entry 2. -/
def Obligations.StepRunsTheFrontCommand : Prop :=
  (∀ (c : Instr) (rest : List Instr) (s : State), step { s with pending := c :: rest } = exec c { s with pending := rest })
  ∧ ∀ s : State, s.pending = [] → step s = .next s.tick

/-- Every step keeps the invariant: the register file and the two byte memories keep their canonical form, and no log or FIFO holds more
entries than the spec gives it.
Rests on assumption-log entries 1, 2 and 5. -/
def Obligations.StepKeepsInvariant : Prop :=
  ∀ s t : State, s.Inv → step s = .next t → t.Inv

/-- The state after reset meets the invariant.
Rests on assumption-log entries 9 and 12. -/
def Obligations.ResetMeetsInvariant : Prop := State.reset.Inv

/-- Every command completes, in every state, with the queue as it was: no fault, no refusal.
Rests on assumption-log entries 1, 2 and 5. -/
def Obligations.EveryCommandCompletes : Prop :=
  ∀ (c : Instr) (s : State), s.Inv → ∃ t, exec c s = .next t ∧ t.pending = s.pending

/-- What the spec says of the state after reset (R14, R15, R114, R338, R410, R417, R484, R490; Table 21-2): no image, hub number 0xFF,
not admitted and no master, both ring lanes OFF, time 0 and FREE, no command lock, no open transaction, empty logs; the power die is
ON.
Rests on assumption-log entries 9 and 12. -/
def Obligations.ResetLeavesTransitMode : Prop :=
  State.reset.hubNum = 0xFF ∧ State.reset.admitted = false ∧ State.reset.master = false ∧ State.reset.img.loaded = false
  ∧ State.reset.laneState .e = 0 ∧ State.reset.laneState .w = 0 ∧ State.reset.ns = 0 ∧ State.reset.get F.TIM_STAT_STATE = 0
  ∧ State.reset.locks = [] ∧ State.reset.hub.opened = [] ∧ State.reset.hub.vlog = [] ∧ State.reset.hub.plog = []
  ∧ State.reset.pending = [] ∧ State.reset.pwr.cls = 0 ∧ State.reset.flag F.PWR_STAT_PG = true

/-- An event counter saturates at all ones and holds that value (R11): one event adds one to the field below its greatest value and
leaves it there; nothing but the counter's register changes. -/
def Obligations.CountersSaturate : Prop :=
  ∀ (s : State) (f : Fld) (i : Nat), f.hi < 32 → f.lo ≤ f.hi →
    (s.get f i < f.max → (s.bump f i).get f i = s.get f i + 1)
    ∧ (s.get f i = f.max → (s.bump f i).get f i = f.max ∧ ∀ n, (s.bumpBy f i n).get f i = f.max)
    ∧ s.OnlyIn [.regs] (s.bump f i) ∧ s.WordsBut [f.key i] (s.bump f i)

/-- One tick of CK_TIM (R336): N, a 64-bit number of nanoseconds with a 32-bit fraction, rises by the increment I and wraps at 2^64 ns;
fabric seconds and nanoseconds are N in another form, after the tick as before it; the hub has been up 4 ns longer. Nothing else
changes but the late mark of entries of the timed action queues (R265), and none where the engines are in reset or gated. -/
def Obligations.TickAddsTheIncrement : Prop :=
  ∀ s : State,
    s.tick.tim.n = (s.tim.n + s.get F.TIM_INCR_INT * 2 ^ 32 + s.get F.TIM_INCR_FRAC) % 2 ^ 96
    ∧ s.tick.ns = s.tick.tim.n / 2 ^ 32 ∧ s.tick.sec = s.tick.ns / 10 ^ 9 ∧ s.tick.nsec = s.tick.ns % 10 ^ 9
    ∧ s.tick.sec * 10 ^ 9 + s.tick.nsec = s.tick.ns ∧ s.tick.ns < 2 ^ 64 ∧ s.tick.up = s.up + 4
    ∧ s.tick.tim = { s.tim with n := s.tick.tim.n } ∧ s.OnlyIn [.tim, .up, .pio] s.tick
    ∧ (s.timeTick.blockBusy 6 = true → s.tick.pio = s.pio)
    ∧ ∀ e, ({ s.tick.eng e with taq := [] } : Engine) = { s.eng e with taq := [] }
      ∧ (s.tick.eng e).taq.map (fun a => { a with late := false }) = (s.eng e).taq.map fun a => { a with late := false }

/-! ### Ring -/

/-- CRD, CRD_SEND, LINC, LID_LINC_SEND, SUSP and RESM (R81, R83, R111, R113, R114, R416): what each link word does to its lane.
CRD stores the limit of its class and marks the first exchange; CRD_SEND shows the grant of the class (the whole pool for a first
CRD, which waits until the pool is empty); LINC notes the neighbour's incarnation; LID and LINC carry this hub's number, the lane's
state (UP once a probation has passed) and the incarnation; a lane that sends a test pattern sends none of these words, and one that is
looped back receives them itself (R78); SUSP parks the frame in reception and RESM resumes it, and a SUSP inside a TC0 frame or before
RESM, or a RESM inside a frame, makes the frame bad.
Rests on assumption-log entries 38, 40, 50, 119, 144 and 146. -/
def Obligations.LinkWordsActOnTheirLane : Prop :=
  ∀ (s : State) (l : Lane),
    (∀ tc4 climit, 2 ≤ s.laneState l → s.laneState l ≤ 4 → ∃ t, exec (.crd l tc4 climit) s = .next t
      ∧ (t.lane l).climit = setAt (s.lane l).climit tc4 (climit % 65536) ∧ (t.lane l).crdRcvd = setAt (s.lane l).crdRcvd tc4 true
      ∧ (t.lane l).used = (s.lane l).used ∧ (t.lane l).grant = (s.lane l).grant
      ∧ s.LaneOnly l t ∧ s.OnlyIn [.regs, .rng] t ∧ s.WordsBut [F.Lx_LSTAT_STATE.key l.ix] t)
    ∧ (∀ tc4 climit, ¬(2 ≤ s.laneState l ∧ s.laneState l ≤ 4) → exec (.crd l tc4 climit) s = .next s)
    ∧ (∀ tc4, 2 ≤ s.laneState l → s.laneState l ≤ 4 → (s.lane l).crdSent.getD tc4 true = true → s.sendsData l = true →
      s.eddies l = false → ∃ t, exec (.crdSend l tc4) s = .next t
      ∧ t.out = s.out ++ [.word l 1 (tc4 * 2 ^ 18 + (s.lane l).grant.getD tc4 0)]
      ∧ (t.lane l).lastCrd = setAt (s.lane l).lastCrd tc4 ((s.lane l).grant.getD tc4 0) ∧ (t.lane l).climit = (s.lane l).climit
      ∧ s.LaneOnly l t ∧ s.OnlyIn [.regs, .rng, .out] t ∧ s.WordsBut [F.Lx_LSTAT_STATE.key l.ix] t)
    ∧ (∀ tc4, 2 ≤ s.laneState l → s.laneState l ≤ 4 → (s.lane l).crdSent.getD tc4 true = false → s.poolUsed l.ix tc4 = 0 →
      s.sendsData l = true → s.eddies l = false → ∃ t, exec (.crdSend l tc4) s = .next t ∧ t.out = s.out ++ [.word l 1 (tc4 * 2 ^ 18 + lanePool tc4)]
      ∧ (t.lane l).grant = setAt (s.lane l).grant tc4 (lanePool tc4) ∧ (t.lane l).crdSent = setAt (s.lane l).crdSent tc4 true
      ∧ s.LaneOnly l t ∧ s.OnlyIn [.regs, .rng, .out] t ∧ s.WordsBut [F.Lx_LSTAT_STATE.key l.ix] t)
    ∧ (∀ tc4, 2 ≤ s.laneState l → s.laneState l ≤ 4 → (s.lane l).crdSent.getD tc4 true = true → s.sendsData l = true → s.eddies l = true →
      ∃ t, exec (.crdSend l tc4) s = .next t ∧ t.out = s.out ∧ (t.lane l).climit = setAt (s.lane l).climit tc4 ((s.lane l).grant.getD tc4 0 % 65536)
      ∧ (t.lane l).lastCrd = setAt (s.lane l).lastCrd tc4 ((s.lane l).grant.getD tc4 0) ∧ s.LaneOnly l t ∧ s.OnlyIn [.regs, .rng] t)
    ∧ (s.sendsData l = false → (∀ tc4, exec (.crdSend l tc4) s = .next s) ∧ exec (.lidLincSend l) s = .next s)
    ∧ (∀ inc, s.laneState l ≠ 0 → exec (.linc l inc) s =
      .next ((((s.onLane l fun q => { q with linc := some (inc % 65536) }).set F.Lx_LSTAT_NBR_INC_LO l.ix inc).tryKeys l).trainDone l))
    ∧ (s.laneState l ≠ 0 → s.sendsData l = true → s.eddies l = false → exec (.lidLincSend l) s = .next ((s.emit (.word l 2 (s.hubNum * 2 ^ 12
        + (if s.laneState l = 3 ∧ (s.lane l).probePassed = true then 4 else s.laneState l) * 2 ^ 8))).emit (.word l 3 s.ownInc)))
    ∧ (s.laneState l ≠ 0 → s.sendsData l = true → s.eddies l = true → ∃ t, exec (.lid l s.hubNum
        (if s.laneState l = 3 ∧ (s.lane l).probePassed = true then 4 else s.laneState l)) s = .next t
      ∧ exec (.lidLincSend l) s = exec (.linc l s.ownInc) t)
    ∧ (∀ h r, (s.lane l).rxCur = some h → (s.lane l).rxParked = none → Tbl.find? s.rng.rx h = some r → r.fr.tc ≠ 0 →
      exec (.susp l) s = .next (s.onLane l fun q => { q with rxParked := some h, rxCur := none }))
    ∧ (∀ h r, (s.lane l).rxCur = some h → (s.lane l).rxParked = none → Tbl.find? s.rng.rx h = some r → r.fr.tc = 0 →
      exec (.susp l) s = .next (s.onRng fun q => { q with rx := Tbl.upd q.rx h fun r => { r with blockBad := true } }))
    ∧ (∀ h k, (s.lane l).rxCur = some h → (s.lane l).rxParked = some k → exec (.susp l) s = .next (s.onRng fun q =>
        { q with rx := Tbl.upd (Tbl.upd q.rx h fun r => { r with blockBad := true }) k fun r => { r with blockBad := true } }))
    ∧ (∀ h, (s.lane l).rxParked = some h → exec (.resm l) s = .next (s.onLane l fun q => { q with rxCur := some h, rxParked := none }))
    ∧ (∀ h, (s.lane l).rxParked = none → (s.lane l).rxCur = some h →
      exec (.resm l) s = .next (s.onRng fun q => { q with rx := Tbl.upd q.rx h fun r => { r with blockBad := true } }))

/-- LID (R94, R114, R115, R117): the neighbour's number and state are noted; a lane that is UP, in TRAIN or in the short probation
is removed when its neighbour reports OUT or LOCKOUT; a lane in OUT with block lock enters the full probation when its neighbour
reports OUT or PROBE, and leaves it again for OUT when its neighbour reports LOCKOUT; else the lane moves on where keys, credits and probation allow. A lane that is OFF ignores link words.
Rests on assumption-log entries 40, 46 and 144. -/
def Obligations.LidReportsTheNeighbour : Prop :=
  ∀ (s : State) (l : Lane) (hub st : Nat),
    let told := s.onLane l fun q => { q with lid := some (hub % 256), nbrState := st % 16 }
    let heard := (told.set F.Lx_LSTAT_NBR l.ix hub).setB F.Lx_LSTAT_FACES_TWIN l.ix (told.flag F.HUB_NODE_TWIN && decide (hub % 256 = told.hubNum))
    (s.laneState l = 0 → exec (.lid l hub st) s = .next s)
    ∧ (st = 5 ∨ st = 6 → s.laneState l = 4 ∨ s.laneState l = 2 ∨ (s.laneState l = 3 ∧ ((s.lane l).fullProbe = false ∨ st = 6)) →
      exec (.lid l hub st) s = .next (heard.removeLane l))
    ∧ (s.laneState l = 5 → s.flag F.Lx_LSTAT_BLOCK_LOCK l.ix = true → st = 5 ∨ st = 3 →
      exec (.lid l hub st) s = .next (heard.enterProbe l true))
    ∧ (s.laneState l ≠ 0 → s.laneState l ≠ 5 → st ≠ 5 → st ≠ 6 → exec (.lid l hub st) s = .next (((heard.tryKeys l).trainDone l).tryUp l))
    ∧ (heard.get F.Lx_LSTAT_NBR l.ix = hub % 256 ∧ heard.laneState l = s.laneState l ∧ s.LaneOnly l heard
      ∧ s.OnlyIn [.regs, .rng] heard ∧ s.WordsBut [F.Lx_LSTAT_STATE.key l.ix] heard)

/-- RING_FRAME_HEAD (R94 to R98, R113, R141, R344; Table 03-7): on a ring lane that is UP the head of a frame gets the next handle,
with the action that Table 03-7 gives it; a frame that is to go on is lost, and counted, where the other lane is not UP; a frame for
the switch core is offered there, one HOPLIM lower if it goes on; a lane in TRAIN, PROBE or OUT takes a HOPM alone, and a lane out of
service nothing; lane T hands its notes to the twin logic and offers every other frame at SW4 (R444). The action itself:
a link-local frame stays; 0xFF and HOPLIM 0 are discarded and counted; in transit mode a frame that is no ring control goes on; a
unicast frame for this hub stays and one from this hub is removed.
Rests on assumption-log entries 37, 38, 144 and 198. -/
def Obligations.FrameHeadsFollowTable : Prop :=
  (∀ (s : State) (l : Lane) (f : Frame), l ≠ .t → s.laneState l = 4 →
    let a := s.headAction l f
    let counted := (a.2.2.map fun c => s.bump c).getD s
    let fwd := a.2.1 && decide (counted.laneState l.other = 4)
    let keep := a.1 && decide (f.tt ≠ .rctl) && !isTime f
    let lost := if a.2.1 && !fwd then counted.bump F.Lx_CNT_RMDROP l.other.ix else counted
    let r : RxFrame := { lane := l, fr := f, deliver := a.1, forward := fwd, offered := keep || fwd, capOn := lost.capEn, headNs := lost.ns,
                         returning := decide (f.tt = .rctl) && decide (f.src = lost.hubNum) && decide (f.opc = 4) }
    let o : Offer := { port := l.ix, handle := s.rng.nextHandle, deliver := keep, forward := fwd,
                       fr := if fwd then { f with hoplim := f.hoplim - 1 } else f }
    let noted := (lost.onRng fun g => { g with rx := Tbl.put g.rx s.rng.nextHandle r, nextHandle := s.rng.nextHandle + 1 }).onLane l
      fun q => { q with rxCur := some s.rng.nextHandle }
    exec (.ringFrameHead l f) s = .next (if keep || fwd then noted.onSwc fun w => { w with offers := w.offers ++ [o] } else noted))
  ∧ (∀ (s : State) (l : Lane) (f : Frame), s.laneState l ≠ 4 → isLinkLocal f = false → exec (.ringFrameHead l f) s = .next s)
  ∧ (∀ (s : State) (l : Lane) (f : Frame), l ≠ .t → s.laneState l = 2 ∨ s.laneState l = 3 ∨ s.laneState l = 5 → f.tt = .rctl → f.opc = 9 →
    exec (.ringFrameHead l f) s = .next ((s.onRng fun g => { g with
      rx := Tbl.put g.rx s.rng.nextHandle { lane := l, fr := f, deliver := true, forward := false, capOn := s.capEn, headNs := s.ns },
      nextHandle := s.rng.nextHandle + 1 }).onLane l fun q => { q with rxCur := some s.rng.nextHandle }))
  ∧ (∀ (s : State) (f : Frame), s.laneState .t = 4 → exec (.ringFrameHead .t f) s =
      .next (s.laneTHead s.rng.nextHandle f)
    ∧ (s.laneTHead s.rng.nextHandle f).swc.offers = s.swc.offers ++ (if isNote f then [] else [{ port := 4, handle := s.rng.nextHandle, fr := f }]))
  ∧ ∀ (s : State) (l : Lane) (f : Frame),
    (isLinkLocal f = true → s.headAction l f = (true, false, none))
    ∧ (isLinkLocal f = false → f.dst = 0xFF → s.headAction l f = (false, false, some F.RNG_CNT_MISADDR))
    ∧ (isLinkLocal f = false → f.dst ≠ 0xFF → f.hoplim = 0 → s.headAction l f = (false, false, some F.RNG_CNT_HOPLIM))
    ∧ (f.tt ≠ .rctl → f.dst ≠ 0xFF → f.hoplim ≠ 0 → s.admitted = false → s.headAction l f = (isTime f, true, none))
    ∧ (f.tt ≠ .rctl → f.dst ≠ 0xFF → f.hoplim ≠ 0 → s.admitted = true → s.flag F.HUB_NODE_TWIN = false → f.dst = s.hubNum →
      s.headAction l f = (true, false, none))
    ∧ (f.tt ≠ .rctl → f.dst ≠ 0xFF → f.hoplim ≠ 0 → s.admitted = true → s.flag F.HUB_NODE_TWIN = false → f.src = s.hubNum →
      f.dst ≠ s.hubNum → f.dst ≠ 0xFE → s.headAction l f = (isTime f && s.standby, false, some F.RNG_CNT_RETURNED))
    ∧ (f.tt ≠ .rctl → f.dst ≠ 0xFF → f.dst ≠ 0xFE → f.hoplim ≠ 0 → s.admitted = true → f.src ≠ s.hubNum → f.dst ≠ s.hubNum →
      s.headAction l f = (false, true, none))

/-- FRAME_VERDICT (R79, R84, R85, R100, R101, R145, R341, R419, R444), SEQUENCE_ORDERED_SET (R78) and STRAY_BLOCK (R79): once the head of a
frame is decided, a frame whose form, CRC or tag fails is counted, once, under the first cause of that order, its record goes and its
cells are zeroed; a good frame is marked GOOD, and then a HOPM is handed to RNG with its lane, a time frame to the time unit, a frame to
go on only leaves RNG, in transit mode a frame that is no ring control goes on alone, and a frame for this admitted hub meets the
duplicate decision. A lossless frame that RNG took at its head returns its cells to the neighbour (R111). On lane T a good frame is
marked GOOD and one that fails is counted in TWN.CNT_TBAD. A clause 46 fault ordered set and a stray block are each counted and change
nothing else. Which counter takes a frame with several causes is the model's choice (log entry 39).
Rests on assumption-log entries 6, 36, 37, 38, 39, 45, 144 and 198. -/
def Obligations.FrameVerdictCountsOrAccepts : Prop :=
  (∀ (s : State) (h : Nat) (r : RxFrame) (crcOk tagOk errEnd : Bool), (s.swc.offers.any fun o => decide (o.handle = h)) = false →
    Tbl.find? s.rng.rx h = some r →
    let f := r.fr
    let i := r.lane.ix
    let off := s.onLane r.lane fun q => { q with rxCur := if q.rxCur = some h then none else q.rxCur }
    let u := if r.offered || isLinkLocal f then off else off.giveBack r.lane f
    let form := errEnd || r.blockBad || decide (2048 < f.length) || (decide (f.tc = 0) && decide (192 < f.length))
      || (decide (f.tc = 1) && decide (256 < f.length)) || decide (f.ver ≠ 1) || decide (8 < f.tt.code)
    let gone (s : State) : State := s.onRng fun g => { g with rx := Tbl.erase g.rx h }
    let sync (s : State) : State := if isTime f && decide (mgtOp f = 0x20) then s.bump F.TIM_CNT_SYNCBAD else s
    let shot (s : State) : State := if r.offered && (s.buf? h).isNone then s else s.capture r.capOn i 0 1 0 f r.headNs
    let bad (s : State) : State := (gone (shot (sync s))).zeroFrame h
    let mark := (u.rxEpoch r.lane f.epp).markGood h
    let good := (gone mark).goodRecord h r
    let c := exec (.frameVerdict h crcOk tagOk errEnd) s
    (r.lane = .t → c = .next (off.laneTVerdict h r (errEnd || !crcOk)))
    ∧ (r.lane ≠ .t → form = true → c = .next (bad (u.bump F.Lx_CNT_BADRX i)))
    ∧ (r.lane ≠ .t → form = false → crcOk = false →
      c = .next (bad ((u.bump F.Lx_CNT_CRC i).onLane r.lane fun q => { q with wCrc := q.wCrc + 1 })))
    ∧ (r.lane ≠ .t → form = false → crcOk = true → tagOk = false →
      c = .next (bad ((u.bump F.Lx_CNT_TAG i).onLane r.lane fun q => { q with wTag := q.wTag + 1 })))
    ∧ (r.lane ≠ .t → form = false → crcOk = true → tagOk = true →
      (isLinkLocal f = true → f.opc = 9 →
        c = .next ((good.onLane r.lane fun q => { q with wHopm := q.wHopm + 1 }).deliver 12 { f with ring := decide (r.lane = .w) }))
      ∧ (isLinkLocal f = false → isTime f = true → r.deliver = true →
        c = .next ((good.deliver (if mgtOp f = 0x20 then 13 else 14) { f with ring := decide (r.lane = .e) }).release h))
      ∧ (isLinkLocal f = false → isTime f = false → r.returning = true → r.deliver = true → c = .next (good.deliver 12 f))
      ∧ (isLinkLocal f = false → r.deliver = false → r.returning = false → c = .next (good.release h))
      ∧ (isLinkLocal f = false → isTime f = false → r.returning = false → r.deliver = true → mark.admitted = false → f.tt ≠ .rctl →
        c = .next ((good.updBuf h fun b => { b with undecided := false }).release h))
      ∧ (isLinkLocal f = false → isTime f = false → r.returning = false → r.deliver = true → mark.admitted = true ∨ f.tt = .rctl →
        f.tt = .rctl ∨ (mark.buf? h).isSome = true → c = .next (mark.duplicateDecision h r))))
  ∧ ∀ (s : State) (l : Lane),
    (∃ t, exec (.sequenceOrderedSet l) s = .next t ∧ t.get F.Lx_CNT_FAULT l.ix = min F.Lx_CNT_FAULT.max (s.get F.Lx_CNT_FAULT l.ix + 1)
      ∧ s.OnlyIn [.regs] t ∧ s.WordsBut [F.Lx_CNT_FAULT.key l.ix] t)
    ∧ ∃ t, exec (.strayBlock l) s = .next t ∧ t.get F.Lx_CNT_STRAY l.ix = min F.Lx_CNT_STRAY.max (s.get F.Lx_CNT_STRAY l.ix + 1)
      ∧ s.OnlyIn [.regs] t ∧ s.WordsBut [F.Lx_CNT_STRAY.key l.ix] t

/-- The duplicate decision, HOLD_TIMER_EXPIRY, FILL_TIMEOUT and TC0_PREEMPT (R82, R103 to R105, R148): the first frame of a stream
opens it and is delivered, but the first of a group that finds all 4,128 group streams taken is dropped and counted; of a known stream
the next frame in order is delivered with the held ones that follow it, an older one is dropped and counted, one that runs ahead in a
class with HOLD_EN is held once, and one that runs ahead in another class is delivered after the held ones and its gap counted; a frame
of a later incarnation opens the stream anew; at the end of the hold time the gap is counted and delivery goes on at the lowest held
number. A lane's copy that starves for 2 µs ends bad, for that copy alone; a TC0 frame that is complete and GOOD goes out whole between
SUSP and RESM while another frame is being sent, and for one whose end is still to come SUSP is sent and the lane stays suspended.
Rests on assumption-log entries 16, 36, 45, 50, 54, 119 and 144. -/
def Obligations.StreamsDeliverOnceInOrder : Prop :=
  (∀ (s : State) (h : Nat) (r : RxFrame),
    let f := r.fr
    let k := streamKey f
    let u := s.goodRecord h r
    (Tbl.find? s.rng.streams k = none → f.dst ≠ 0xFE ∨ (s.rng.streams.filter fun p => decide (2 ^ 24 ≤ p.1)).length < 4128 →
      s.duplicateDecision h r = (u.deliverRx h).setStream k { inc := f.inc, next := (f.seq + 1) % 2 ^ 32 })
    ∧ (Tbl.find? s.rng.streams k = none → f.dst = 0xFE → 4128 ≤ (s.rng.streams.filter fun p => decide (2 ^ 24 ≤ p.1)).length →
      s.duplicateDecision h r = (s.bump F.RNG_CNT_STREXH).dropRx h)
    ∧ ∀ st, Tbl.find? s.rng.streams k = some st →
      (sdiff 16 f.inc st.inc < 0 → s.duplicateDecision h r = (s.bump F.RNG_CNT_DUP).dropRx h)
      ∧ (0 < sdiff 16 f.inc st.inc → s.duplicateDecision h r =
        ((State.flushHeld st.held.length u st).1.deliverRx h).setStream k { inc := f.inc, next := (f.seq + 1) % 2 ^ 32 })
      ∧ (sdiff 16 f.inc st.inc = 0 →
        (sdiff 32 f.seq st.next < 0 → s.duplicateDecision h r = (s.bump F.RNG_CNT_DUP).dropRx h)
        ∧ (0 < sdiff 32 f.seq st.next → sdiff 32 f.seq st.next < 256 → bit (s.get F.RNG_HOLD_HOLD_EN) f.tc = true →
          Tbl.has st.held f.seq = true → s.duplicateDecision h r = (s.bump F.RNG_CNT_DUP).dropRx h)
        ∧ (sdiff 32 f.seq st.next = 0 → (bit (s.get F.RNG_HOLD_HOLD_EN) f.tc = true → Tbl.has st.held f.seq = false) →
          let x := State.drainHeld 256 (u.deliverRx h) { st with next := (st.next + 1) % 2 ^ 32 }
          s.duplicateDecision h r = x.1.setStream k { x.2 with timer := x.2.timer && !x.2.held.isEmpty })
        ∧ (0 < sdiff 32 f.seq st.next → sdiff 32 f.seq st.next < 256 → bit (s.get F.RNG_HOLD_HOLD_EN) f.tc = true →
          Tbl.has st.held f.seq = false →
          s.duplicateDecision h r = u.setStream k { st with held := Tbl.put st.held f.seq h, timer := true })
        ∧ (0 < sdiff 32 f.seq st.next → bit (s.get F.RNG_HOLD_HOLD_EN) f.tc = false →
          let x := State.flushHeld st.held.length u st
          s.duplicateDecision h r = (((x.1.bumpBy F.RNG_CNT_GAP 0 (sdiff 32 f.seq st.next).toNat).deliverRx h).setStream k
            { x.2 with next := (f.seq + 1) % 2 ^ 32, held := [], timer := false }))))
  ∧ (∀ (s : State) (k q : Nat) (st : Stream), Tbl.find? s.rng.streams k = some st → State.lowestHeld st = some q →
    let x := State.drainHeld 256 (s.bumpBy F.RNG_CNT_GAP 0 ((q + 2 ^ 32 - st.next) % 2 ^ 32)) { st with next := q }
    exec (.holdTimerExpiry k) s = .next (x.1.setStream k { x.2 with timer := !x.2.held.isEmpty }))
  ∧ (∀ (s : State) (l : Lane) (x : Sending) (b : Buf) (at_ : Nat), (s.lane l).txSusp = false → s.midLine (12 + l.ix) = false →
    Tbl.getD s.swc.fifo l.ix [] = [] → Tbl.find? s.swc.sending l.ix = some x → s.buf? x.handle = some b →
    (s.lane l).fillSince = some at_ → at_ + 2000 ≤ s.up →
    b.verdict = .pending ∨ b.cells.length < b.fr.cells →
    exec (.fillTimeout l) s = .next ((if (16 * l.ix + b.fr.tc) ∈ b.links then (s.endBad l.ix x.handle).unlinkQ (16 * l.ix + b.fr.tc) x.handle
      else s.endBad l.ix x.handle).release x.handle))
  ∧ (∀ (s : State) (l : Lane) (at_ : Nat), (s.lane l).fillSince = some at_ → s.up < at_ + 2000 → exec (.fillTimeout l) s = .next s)
  ∧ ∀ (s : State) (l : Lane) (h n : Nat) (rest : List (Nat × Nat)) (b : Buf), Tbl.getD s.swc.fifo (12 + l.ix) [] = (h, n) :: rest →
    s.buf? h = some b → s.midLine l.ix = true → (s.lane l).txSusp = false →
    let x := (s.emit (.word l 4 0)).outgoing l b
    let u := ((x.2.emit (.lane l x.1 false (x.2.wire l x.1))).emit (.word l 5 0)).onSwc fun w =>
      { w with fifo := Tbl.put w.fifo (12 + l.ix) ((Tbl.getD w.fifo (12 + l.ix) []).filter fun c => decide (c.1 ≠ h)) }
    (b.verdict = .good → Tbl.has s.swc.sending (12 + l.ix) = false →
      exec (.tc0Preempt l) s = .next ((u.capture b.capOn l.ix 1 0 (16 * l.ix) x.1 (b.headTime / 2 ^ 32)).release h))
    ∧ (b.verdict ≠ .good ∨ Tbl.has s.swc.sending (12 + l.ix) = true →
      exec (.tc0Preempt l) s = .next ((s.emit (.word l 4 0)).onLane l fun q => { q with txSusp := true }))

/-- BLOCK_LOCK_LOSS, BLOCK_LOCK_GAIN, HI_BER, QUALITY_WINDOW, PROBATION_PASS and REENABLE (R113, R115 to R118; Table 03-12): a lane
without block lock goes to DOWN and shows no neighbour; a lane that gains it enters TRAIN from DOWN, and the full probation from OUT
if its neighbour reports OUT or PROBE; hi_ber removes a lane that is UP; a window's score is 64 times its errors, shown up to 65,535;
OUT_WIN windows in a row above THR_OUT remove a lane that is UP; a window of a probation counts only if it is good and held five
HOPM; a probation passes after its windows and LOCKOUT ends by the write of REENABLE alone. A removal goes to LOCKOUT once the lane has been in
OUT FLAP_MAX times within 60 minutes, else to OUT.
Rests on assumption-log entries 14, 15, 21, 40, 46, 144, 157 and 159. -/
def Obligations.LaneStatesFollowQuality : Prop :=
  ∀ (s : State) (l : Lane),
    let i := l.ix
    let dark := (s.set F.Lx_LSTAT_BLOCK_LOCK i 0).set F.Lx_LSTAT_NBR i 0xFF
    let lit := s.set F.Lx_LSTAT_BLOCK_LOCK i 1
    (s.laneState l ≠ 0 → s.laneState l ≠ 4 → s.laneState l ≠ 6 → exec (.blockLockLoss l) s = .next (dark.set F.Lx_LSTAT_STATE i 1))
    ∧ (s.laneState l = 4 → exec (.blockLockLoss l) s = .next ((dark.set F.Lx_LSTAT_STATE i 1).leaveUp l))
    ∧ (s.laneState l = 0 ∨ s.laneState l = 6 → exec (.blockLockLoss l) s = .next dark)
    ∧ (s.laneState l = 1 → exec (.blockLockGain l) s = .next (lit.enterTrain l))
    ∧ (s.laneState l = 5 → (s.lane l).nbrState = 5 ∨ (s.lane l).nbrState = 3 → exec (.blockLockGain l) s = .next (lit.enterProbe l true))
    ∧ (s.laneState l ≠ 1 → s.laneState l ≠ 5 → exec (.blockLockGain l) s = .next lit)
    ∧ (s.laneState l = 4 → exec (.hiBer l) s = .next ((s.set F.Lx_LSTAT_HI_BER i 1).removeLane l))
    ∧ (s.laneState l ≠ 4 → exec (.hiBer l) s = .next (s.set F.Lx_LSTAT_HI_BER i 1))
    ∧ (∀ sync ctl hiBer,
      let score := 64 * (sync + (s.lane l).wCrc + (s.lane l).wTag + ctl)
      let recent := (s.lane l).outTimes.filter fun t => decide (s.up < t + 3600000000000)
      let shown := (s.set F.Lx_LQSCORE_SCORE i (min 65535 score)).set F.Lx_LQSCORE_PEAK i (max (s.get F.Lx_LQSCORE_PEAK i) (min 65535 score))
      let scored := ((((shown.bumpBy F.Lx_CNT_SYNC i sync).setB F.Lx_LSTAT_HI_BER i hiBer).set F.Lx_LSTAT_OUTS i (min 15 recent.length)).onLane l
        fun q => { q with wCrc := 0, wTag := 0, wHopm := 0, outTimes := recent })
      let c := exec (.qualityWindow l sync ctl hiBer) s
      (s.laneState l ≠ 3 → s.laneState l ≠ 4 → c = .next scored)
      ∧ (s.laneState l = 3 → scored.get F.Lx_LQCFG_THR_IN i < score ∨ (s.lane l).wHopm < 5 →
        c = .next (scored.onLane l fun q => { q with probeWindows := 0, probePassed := false }))
      ∧ (s.laneState l = 3 → score ≤ scored.get F.Lx_LQCFG_THR_IN i → 5 ≤ (s.lane l).wHopm →
        c = .next (scored.onLane l fun q => { q with probeWindows := q.probeWindows + 1 }))
      ∧ (s.laneState l = 4 → score ≤ scored.get F.Lx_LQCFG_THR_OUT i → c = .next (scored.onLane l fun q => { q with badRun := 0 }))
      ∧ (s.laneState l = 4 → scored.get F.Lx_LQCFG_THR_OUT i < score →
        c = .next (if scored.get F.Lx_LQTIM_OUT_WIN i ≤ (s.lane l).badRun + 1
          then (scored.onLane l fun q => { q with badRun := 0 }).removeLane l
          else scored.onLane l fun q => { q with badRun := (s.lane l).badRun + 1 })))
    ∧ (s.laneState l = 3 → (if (s.lane l).fullProbe then 10 * s.get F.Lx_LQTIM_PROBATION i else 100) ≤ (s.lane l).probeWindows →
      exec (.probationPass l) s = .next ((s.onLane l fun q => { q with probePassed := true }).tryUp l))
    ∧ (∀ f x, s.WritesReg f F.Lx_LCTL_MODE i x → l ≠ .t → bit (wordOf f) 3 = true → bits (wordOf f) 2 1 = 0 →
      bit (wordOf f) 4 = s.flag F.Lx_LCTL_EDDY i → ∃ u, exec (.reenable f) s = .next (u.settle 5 f {})
      ∧ u.laneState l = (if s.laneState l = 6 then 1 else s.laneState l) ∧ s.OnlyIn [.regs] u
      ∧ s.WordsBut [F.Lx_LCTL_MODE.key i, F.Lx_LSTAT_STATE.key i] u)
    ∧ (s.laneState l ≠ 4 →
      let recent := (s.lane l).outTimes.filter fun t => decide (s.up < t + 3600000000000)
      s.removeLane l = if s.get F.Lx_LQTIM_FLAP_MAX i ≤ recent.length then (s.set F.Lx_LSTAT_STATE i 6).note 0x34 1 [i, 6]
        else ((s.onLane l fun q => { q with outTimes := recent ++ [s.up] }).set F.Lx_LSTAT_STATE i 5).set F.Lx_LSTAT_OUTS i
          (min 15 (recent.length + 1)))

/-- HOPM_SEND and HOPM (R117, R119, R341, R342): while a lane is in TRAIN, PROBE, UP or OUT, a HOPM leaves on it that carries the time
of its departure, the two stamps of the neighbour's latest HOPM, and the filtered delay once it is seeded; each departure is kept; a lane
that sends a test pattern sends none, and one that is looped back receives its own (R78). A HOPM that carries no stamp of this hub only
gives the neighbour's stamps. The first sample after TRAIN that no step of N spoils is taken whole; a later one within 1 µs moves the
filtered delay by an eighth of the difference; one further off is left out, and the fourth of these in a row is taken whole; the
register shows the delay in ns.
Rests on assumption-log entries 41, 50, 144, 146 and 198. -/
def Obligations.LinkDelayIsMeasuredByHopm : Prop :=
  ∀ (s : State) (l : Lane),
    (2 ≤ s.laneState l → s.laneState l ≤ 5 → s.sendsData l = true →
      let stamps := ((s.lane l).hopmPeer).getD (0, 0)
      let seen := if (s.lane l).dfSeeded then unsgn 64 (s.tim.df.getD l.ix 0) else 0
      let u := s.onLane l fun q => { q with hopmSent := lastN 8 (q.hopmSent ++ [(s.ns, s.up)]) }
      let f : Frame :=
        { tt := .rctl, tc := 2, pst := true, dst := 0xFE, src := u.hubNum, opc := 9,
          addr := fabAddr 0xFE 0 0, len := 32, hoplim := 1, inc := u.ownInc, pay := be 8 s.ns ++ be 8 stamps.1 ++ be 8 stamps.2 ++ be 8 seen }
      (s.eddies l = false → exec (.hopmSend l) s = .next (u.laneOut l f))
      ∧ (s.eddies l = true → exec (.hopmSend l) s =
        .next ((u.onLane l fun q => { q with wHopm := q.wHopm + 1 }).deliver 12 { f with ring := decide (l = .w) })))
    ∧ (¬(2 ≤ s.laneState l ∧ s.laneState l ≤ 5) ∨ s.sendsData l = false → exec (.hopmSend l) s = .next s)
    ∧ ∀ (f : Frame),
      let u := s.take { f with ring := decide (l = .w) }
      let heard := u.onLane l fun q => { q with hopmPeer := some (beAt f.pay 0 8, s.ns) }
      let d : Int := (((s.ns : Int) - beAt f.pay 8 8) - ((beAt f.pay 0 8 : Int) - beAt f.pay 16 8)) * 2 ^ 15
      let put (v : Int) : State := ((heard.onTim fun t => { t with df := setAt t.df l.ix v }).onLane l fun q => { q with dfSeeded := true, dfOut := 0 }).set
        F.Lx_HOPDLY_DELAY l.ix (unsgn 24 ((v + 2 ^ 15) / 2 ^ 16))
      (beAt f.pay 8 8 = 0 → exec (.hopm l f) s = .next heard)
      ∧ (beAt f.pay 8 8 ≠ 0 → s.tim.steppedAt = none → (s.lane l).dfSeeded = false → exec (.hopm l f) s = .next (put d))
      ∧ (beAt f.pay 8 8 ≠ 0 → s.tim.steppedAt = none → (s.lane l).dfSeeded = true → (d - s.tim.df.getD l.ix 0).natAbs ≤ 1000 * 2 ^ 16 →
        exec (.hopm l f) s = .next (put (s.tim.df.getD l.ix 0 + (d - s.tim.df.getD l.ix 0) / 8)))
      ∧ (beAt f.pay 8 8 ≠ 0 → s.tim.steppedAt = none → (s.lane l).dfSeeded = true → 1000 * 2 ^ 16 < (d - s.tim.df.getD l.ix 0).natAbs →
        exec (.hopm l f) s = .next (if 3 ≤ (s.lane l).dfOut then put d else heard.onLane l fun q => { q with dfOut := (s.lane l).dfOut + 1 }))

/-- ADMREQ, ADMREQ_SEND, ADMIT_SEND, ADMIT and REFUSE (R106, R108, R119, R123 to R125, R401, R564; Table 03-15): a hub in transit mode
with an image and a lane asks for admission; the master answers a member again, refuses a foreign fabric with reason 3, a lone half of a
twin with 4 and a taken position with 2, and else notes the request; it admits the first one whose wait of twice the hold time is
over if its position is still free, refuses it if the position has been taken, and does neither while a mode change is open; a request
for a 255th position is refused with reason 1 and counted; an ADMIT with this hub's identity admits it with the map that it carries, and
a REFUSE with it returns the hub to transit mode, out of any election, and is counted.
Rests on assumption-log entries 34, 35, 42 and 183. -/
def Obligations.AdmissionFollowsTheMaster : Prop :=
  ∀ (s : State) (f : Frame),
    let u := s.take f
    let p := f.pay
    let hub := beAt p 0 1
    let mine := beAt p 0 1 = u.hubNum ∧ beAt p 12 3 = u.deviceCheck ∧ beAt p 16 2 = u.get F.RNG_INC
    let known := u.rng.members.any fun m => decide (m.hub = hub) && decide (m.dcv = beAt p 12 3) && decide (m.inc = beAt p 16 2)
    let refuse (reason status : Nat) : State := u.sendRctl 3 hub (slice p 0 20 ++ be 1 reason ++ be 1 status ++ be 2 0) u.originHoplim
    let strange := beAt p 4 4 ≠ u.get F.HUB_FABID0 ∨ beAt p 8 4 ≠ u.get F.HUB_FABID1
    let twin := bit (beAt p 1 1) 0
    let asked := u.onRng fun g => { g with requests := g.requests ++ [(p, u.up)], admitting := g.admitting ++ [p] }
    (s.admitted = false → s.img.loaded = true → s.laneState .e = 4 ∨ s.laneState .w = 4 →
      exec .admreqSend s = .next (s.sendRctl 1 0xFE s.admreqPay s.originHoplim))
    ∧ (∀ twinJoined, u.master = true → known = true →
      exec (.admreq f twinJoined) s = .next (u.sendRctl 2 hub (slice p 0 20 ++ u.membPay) u.originHoplim))
    ∧ (∀ twinJoined, u.master = true → known = false → strange → exec (.admreq f twinJoined) s = .next (refuse 3 2))
    ∧ (u.master = true → known = false → ¬strange → twin = true → exec (.admreq f false) s = .next (refuse 4 2))
    ∧ (∀ twinJoined, u.master = true → known = false → ¬strange → twin = false → (u.rng.members.any fun m => decide (m.hub = hub)) = true →
      exec (.admreq f twinJoined) s = .next (refuse 2 2))
    ∧ (∀ twinJoined, u.master = true → ¬strange → (twin = true → twinJoined = true) →
      (u.rng.members.any fun m => decide (m.hub = hub)) = false → ((u.rng.members.map fun (m : Member) => m.hub).eraseDups).length < 254 →
      (u.rng.requests.any fun r => decide (r.1 = p)) = false → p ∉ u.rng.admitting → exec (.admreq f twinJoined) s = .next asked)
    ∧ (∀ twinJoined, u.master = true → ¬strange → (twin = true → twinJoined = true) →
      (u.rng.members.any fun m => decide (m.hub = hub)) = false → 254 ≤ ((u.rng.members.map fun (m : Member) => m.hub).eraseDups).length →
      ∃ t, exec (.admreq f twinJoined) s = .next (t.sendRctl 3 hub (slice p 0 20 ++ be 1 1 ++ be 1 5 ++ be 2 0) t.originHoplim)
      ∧ t = u.bump F.RNG_ADM_EXH)
    ∧ (s.img.change = none → s.master = true → ∀ p,
      s.rng.admitting.find? (fun p => s.rng.requests.any fun r => decide (r.1 = p) && decide (r.2 + 20 * s.get F.RNG_HOLD_HOLD ≤ s.up)) = some p →
      let m : Member := { hub := beAt p 0 1, twin := bit (beAt p 1 1) 0, inc := beAt p 16 2, dcv := beAt p 12 3 }
      let rest := s.onRng fun g => { g with admitting := g.admitting.erase p, requests := g.requests.filter (fun r => decide (r.1 ≠ p)) }
      let joined := rest.onRng fun g => { g with members := g.members ++ [m], heard := Tbl.put g.heard m.hub s.up }
      let next := (joined.set F.RNG_MEMB_VERSION 0 (joined.get F.RNG_MEMB_VERSION + 1)).newHold
      ((s.rng.members.any fun o => decide (o.hub = m.hub)) = false → ((s.rng.members.map fun (o : Member) => o.hub).eraseDups).length < 254 →
        exec .admitSend s = .next (next.sendRctl 2 m.hub (slice p 0 20 ++ next.membPay) next.originHoplim))
      ∧ ((s.rng.members.any fun o => decide (o.hub = m.hub)) = true → m.twin = false →
        (s.rng.members.any fun o => decide (o.hub = m.hub) && decide (o.dcv = m.dcv) && decide (o.inc = m.inc)) = false →
        exec .admitSend s = .next (rest.sendRctl 3 m.hub (slice p 0 20 ++ be 1 2 ++ be 1 2 ++ be 2 0) rest.originHoplim)))
    ∧ (s.img.change.isSome = true → exec .admitSend s = .next s)
    ∧ (mine → exec (.admitOp f) s = .next ((((u.takeMemb (p.drop 20)).onRng fun r =>
        { r with candidate := false, noHub := false, admAt := if u.admitted then r.admAt else u.up }).set
        F.RNG_RSTAT_ADMITTED 0 1).set F.RNG_RSTAT_ELECTING 0 0))
    ∧ (¬mine → exec (.admitOp f) s = .next u ∧ exec (.refuse f) s = .next u)
    ∧ (mine → ∃ t, exec (.refuse f) s = .next t ∧ t.admitted = false ∧ t.flag F.RNG_RSTAT_ELECTING = false ∧ t.rng.candidate = false ∧ t.get F.RNG_ADMSTAT_LAST_REFUSE = beAt p 20 1 % 8
      ∧ t.get F.RNG_ADMSTAT_REFUSALS = min F.RNG_ADMSTAT_REFUSALS.max (u.get F.RNG_ADMSTAT_REFUSALS + 1)
      ∧ s.OnlyIn [.regs, .rng, .mgt, .inbox] t)

/-- MASTER, MASTER_BEACON_SEND, BEACON_LOSS, CAND, CAND_SEND, ELECTION_WIN and NO_ADMITTED_HUB (R21, R23, R120, R121, R123): the master
sends beacons with HOPLIM 1,023, and the first copy of a beacon that returns gives the ring's hop count; other hubs note the master of
a beacon, and a master that hears a better one sends its map and yields, while one that hears a worse one remembers whose map it will
merge; a member without beacons for 5 ms starts an election, and abandons a veer that waits for the master; a better candidate
silences this hub's own candidacy, which an admitted hub repeats, or resumes after 5 ms; and a candidate that heard nothing better for
10 ms becomes master, at the end of an election or on a ring that showed no admitted hub for 30 ms.
Rests on assumption-log entries 14, 15, 42, 43 and 183. -/
def Obligations.MasterIsElected : Prop :=
  ∀ (s : State) (f : Frame),
    let u := (s.take f).onRng fun r => { r with noHub := false }
    let hub := beAt f.pay 0 1
    let prio := beAt f.pay 1 1
    (s.master = true → exec .masterBeaconSend s =
      .next (s.sendRctl 4 0xFE (be 1 s.hubNum ++ be 1 (s.get F.HUB_NODE_MPRIO) ++ be 2 (s.get F.RNG_MEMB_VERSION)) 1023))
    ∧ (s.master = false → exec .masterBeaconSend s = .next s)
    ∧ (u.master = true → f.src = u.hubNum → u.rng.beaconSeen ≠ some f.seq → exec (.master f) s =
      .next ((u.onRng fun r => { r with beaconSeen := some f.seq }).set F.RNG_MEMB_HOPS 0 (1023 - f.hoplim)))
    ∧ (u.master = true → f.src ≠ u.hubNum → betterMaster prio hub (u.get F.HUB_NODE_MPRIO) u.hubNum = true → exec (.master f) s =
      .next ((((u.sendRctl 6 0xFE u.membPay u.originHoplim).set F.RNG_RSTAT_MASTER 0 0).showMaster hub prio).onRng
        fun r => { r with rival := none }))
    ∧ (u.master = true → f.src ≠ u.hubNum → betterMaster prio hub (u.get F.HUB_NODE_MPRIO) u.hubNum = false → exec (.master f) s =
      .next (u.onRng fun r => { r with rival := some f.src }))
    ∧ (u.master = false → ∃ t, exec (.master f) s = .next t ∧ t.get F.RNG_RSTAT_MASTER_HUB = hub % 256
      ∧ t.get F.RNG_RSTAT_MASTER_PRIO = prio % 256 ∧ t.flag F.RNG_RSTAT_ELECTING = false ∧ t.rng.candidate = false
      ∧ t.rng.lastBetter = s.up ∧ t.admitted = s.admitted ∧ s.OnlyIn [.regs, .rng, .inbox] t)
    ∧ (s.admitted = true → s.master = false → s.flag F.TWN_VSTAT_PEND = false →
      let shown := ((s.set F.RNG_RSTAT_ELECTING 0 1).set F.RNG_RSTAT_MASTER_HUB 0 0xFF).set F.RNG_RSTAT_MASTER_PRIO 0 0
      let stood := shown.onRng fun r => { r with candidate := shown.mayLead, lastBetter := s.up }
      exec .beaconLoss s = .next (if shown.mayLead then stood.sendCand else stood))
    ∧ (s.admitted = true → s.master = false → s.flag F.TWN_VSTAT_PEND = true → s.twn.veering = false → s.get F.HUB_NODE_MPRIO = 0 →
      ∃ t, exec .beaconLoss s = .next t ∧ t.flag F.TWN_VSTAT_PEND = false ∧ t.get F.TWN_VSTAT_RESULT = 4
      ∧ t.flag F.RNG_RSTAT_ELECTING = true ∧ t.get F.RNG_RSTAT_MASTER_HUB = 0xFF ∧ t.rng.candidate = false ∧ s.OnlyIn [.regs, .rng] t)
    ∧ (betterMaster prio hub (u.get F.HUB_NODE_MPRIO) u.hubNum = true →
      exec (.cand f) s = .next (u.onRng fun r => { r with candidate := false, lastBetter := s.up }))
    ∧ (betterMaster prio hub (u.get F.HUB_NODE_MPRIO) u.hubNum = false → exec (.cand f) s = .next u)
    ∧ (s.admitted = true → s.flag F.RNG_RSTAT_ELECTING = true → s.mayLead = true → s.rng.candidate = true ∨ s.rng.lastBetter + 5000000 ≤ s.up →
      exec .candSend s = .next (s.onRng fun r => { r with candidate := true }).sendCand)
    ∧ (s.admitted = false → exec .candSend s = .next s)
    ∧ (s.mayLead = true → s.master = false → (s.admitted = true ∧ s.flag F.RNG_RSTAT_ELECTING = true)
        ∨ (s.admitted = false ∧ s.rng.noHub = true ∧ s.img.loaded = true) → s.rng.lastBetter + 10000000 ≤ s.up →
      ∃ t, exec .electionWin s = .next t ∧ t = s.becomeMaster ∧ t.master = true ∧ t.admitted = true ∧ t.flag F.RNG_RSTAT_ELECTING = false
      ∧ t.rng.candidate = false ∧ t.rng.requests = [] ∧ t.rng.admitting = []
      ∧ t.rng.members = (if s.admitted then s.rng.members else [s.selfMember]) ∧ t.img.change = none)
    ∧ (s.up < s.rng.lastBetter + 10000000 → exec .electionWin s = .next s)
    ∧ (s.admitted = false → exec .noAdmittedHub s =
      .next (s.onRng fun r => { r with noHub := true, candidate := s.mayLead, lastBetter := s.up }))
    ∧ (betterMaster prio hub prio hub = false ∧ ∀ p' h', betterMaster prio hub p' h' = true → betterMaster p' h' prio hub = false)

/-- MEMB, MEMB_SEND, PRES, PRES_SEND, POSITION_REMOVAL and LEAVE (R106, R119, R126): the master sends its map, notes who is present, and
removes a position that it has not heard for 50 ms or that leaves, with a new version of the map and a hold time within its bounds; a
member takes the master's map and stays admitted only if the map holds it; a master takes the hubs it does not know from the map of a
worse master whose beacon it heard, and from no other.
Rests on assumption-log entries 34, 42, 43 and 183. -/
def Obligations.MembershipFollowsTheMap : Prop :=
  ∀ (s : State) (f : Frame),
    let u := (s.take f).onRng fun r => { r with noHub := false }
    let hub := beAt f.pay 0 1
    let present (t : State) := (parseMemb f.pay).any fun m => decide (m.hub = t.hubNum) && decide (m.dcv = t.deviceCheck) && decide (m.inc = t.get F.RNG_INC)
    (s.master = true → exec .membSend s = .next (s.sendRctl 6 0xFE s.membPay s.originHoplim))
    ∧ (s.admitted = true → exec .presSend s = .next (s.sendRctl 7 0xFE (be 1 s.hubNum ++ be 1 0 ++ be 2 (s.get F.RNG_INC)) s.originHoplim))
    ∧ (u.master = true → exec (.pres f) s = .next (u.onRng fun r => { r with heard := Tbl.put r.heard hub s.up }))
    ∧ (u.master = false → exec (.pres f) s = .next u)
    ∧ (∀ h, s.master = true → h ≠ s.hubNum → (s.rng.members.any fun m => decide (m.hub = h)) = true →
      Tbl.getD s.rng.heard h 0 + 50000000 ≤ s.up → ∃ t, exec (.positionRemoval h) s = .next t
      ∧ t.rng.members = s.rng.members.filter (fun m => decide (m.hub ≠ h)) ∧ t.rng.heard = Tbl.erase s.rng.heard h
      ∧ t.get F.RNG_MEMB_VERSION = (s.get F.RNG_MEMB_VERSION + 1) % 65536 ∧ 200 ≤ t.get F.RNG_HOLD_HOLD ∧ t.get F.RNG_HOLD_HOLD ≤ 50000
      ∧ s.OnlyIn [.regs, .rng, .free] t ∧ s.WordsBut [F.RNG_MEMB_VERSION.key 0, F.RNG_HOLD_HOLD.key 0] t)
    ∧ (∀ h, s.up < Tbl.getD s.rng.heard h 0 + 50000000 → exec (.positionRemoval h) s = .next s)
    ∧ (s.master = true → (s.rng.members.any fun m => decide (m.hub = hub)) = true → ∃ t, exec (.leave f) s = .next t
      ∧ t.rng.members = s.rng.members.filter (fun m => decide (m.hub ≠ hub)) ∧ t.rng.heard = Tbl.erase s.rng.heard hub
      ∧ t.get F.RNG_MEMB_VERSION = (s.get F.RNG_MEMB_VERSION + 1) % 65536 ∧ 200 ≤ t.get F.RNG_HOLD_HOLD ∧ t.get F.RNG_HOLD_HOLD ≤ 50000
      ∧ s.OnlyIn [.regs, .rng, .inbox, .free] t ∧ s.WordsBut [F.RNG_MEMB_VERSION.key 0, F.RNG_HOLD_HOLD.key 0] t)
    ∧ (s.master = false → exec (.leave f) s = .next (s.take f))
    ∧ (u.master = true → f.src ≠ u.hubNum → u.rng.rival ≠ some f.src → exec (.memb f) s = .next u)
    ∧ (u.master = true → f.src ≠ u.hubNum → u.rng.rival = some f.src →
      ((parseMemb f.pay).all fun m => u.rng.members.all fun o => decide (o.hub ≠ m.hub) || (decide (o.inc = m.inc) && decide (o.dcv = m.dcv))) = true →
      ∃ t, exec (.memb f) s = .next t
      ∧ t.rng.members = u.rng.members ++ (parseMemb f.pay).filter (fun m => !u.rng.members.any fun o => decide (o.hub = m.hub))
      ∧ t.get F.RNG_MEMB_VERSION = (s.get F.RNG_MEMB_VERSION + 1) % 65536 ∧ t.out = s.out ∧ s.OnlyIn [.regs, .rng, .inbox, .free] t)
    ∧ (u.admitted = true → u.master = false → ∃ t, exec (.memb f) s = .next t ∧ t.rng.members = parseMemb f.pay
      ∧ t.get F.RNG_MEMB_VERSION = beAt f.pay 0 2 % 65536 ∧ (present (u.takeMemb f.pay) = true → t = u.takeMemb f.pay)
      ∧ (present (u.takeMemb f.pay) = false → t.admitted = false ∧ t.flag F.RNG_RSTAT_ELECTING = false ∧ t.rng.candidate = false)
      ∧ s.OnlyIn [.regs, .rng, .free, .inbox] t)
    ∧ (u.admitted = false → u.master = false → exec (.memb f) s = .next u)

/-- BYP_INSERT_WRITE, INSERT_RELEASE, HEARTBEAT_SEND, HEARTBEAT_LOST and BYPASS_SETTLE_END (R15, R127, R410): a write of RNG.BYP_CTL sets
INSERT, and a 1 to HEARTBEAT_LOST clears it; INSERT 1 requests insertion; INSERT becoming 0 sends LEAVE from an admitted hub and the request
ends with INSERT_RELEASE; the power die drives the bypass output exactly while its supply and the
hub die's are good, the request stands and the heartbeat runs; when the settling time ends the enabled lanes that were off start.
Rests on assumption-log entries 21, 44 and 183. -/
def Obligations.BypassFollowsInsertAndHeartbeat : Prop :=
  ∀ (s : State),
    (∀ f x, s.WritesReg f F.RNG_BYP_CTL_INSERT 0 x → exec (.bypInsertWrite f) s = .next ((State.insertWrite (bit (wordOf f) 0)
      (if bit (wordOf f) 2 then s.set F.RNG_BYP_CTL_HEARTBEAT_LOST 0 0 else s)).settle 5 f {}))
    ∧ (let off := s.setB F.RNG_BYP_CTL_INSERT 0 false
      let left := off.onRng fun r => { r with leaving := true }
      (s.flag F.RNG_BYP_CTL_INSERT = true → s.admitted = true → State.insertWrite false s =
        left.sendRctl 8 0xFE (be 1 off.hubNum ++ be 1 0 ++ be 2 (off.get F.RNG_INC)) off.originHoplim)
      ∧ (s.flag F.RNG_BYP_CTL_INSERT = true → s.admitted = false → State.insertWrite false s = left)
      ∧ (s.flag F.RNG_BYP_CTL_INSERT = false → State.insertWrite false s = off))
    ∧ (s.flag F.RNG_BYP_CTL_INSERT = true ∨ s.cry.fleet.isSome = true → State.insertWrite true s =
      ((s.setB F.RNG_BYP_CTL_INSERT 0 true).onRng fun r =>
        { r with insertReq := true, leaving := false, settling := !s.flag F.RNG_BYP_CTL_INSERT || r.settling }).bypassDrive)
    ∧ (s.rng.leaving = true → ∃ t, exec .insertRelease s = .next t ∧ t.rng.insertReq = false ∧ t.rng.leaving = false
      ∧ t.flag F.RNG_BYP_CTL_DRIVEN = false ∧ s.OnlyIn [.regs, .rng] t ∧ s.WordsBut [F.RNG_BYP_CTL_DRIVEN.key 0] t)
    ∧ (s.rng.leaving = false → exec .insertRelease s = .next s)
    ∧ (∃ t, exec .heartbeatSend s = .next t ∧ t.rng = { s.rng with heartbeat := true }
      ∧ t.flag F.RNG_BYP_CTL_DRIVEN = (s.flag F.PWR_STAT_PG && s.flag F.PWR_STAT_HDPG && s.rng.insertReq)
      ∧ s.OnlyIn [.regs, .rng] t ∧ s.WordsBut [F.RNG_BYP_CTL_DRIVEN.key 0] t)
    ∧ (∃ t, exec .heartbeatLost s = .next t ∧ t.rng = { s.rng with heartbeat := false } ∧ t.flag F.RNG_BYP_CTL_DRIVEN = false
      ∧ (s.flag F.RNG_BYP_CTL_DRIVEN = true → t.flag F.RNG_BYP_CTL_HEARTBEAT_LOST = true)
      ∧ s.OnlyIn [.regs, .rng] t ∧ s.WordsBut [F.RNG_BYP_CTL_DRIVEN.key 0] t)
    ∧ (s.rng.settling = true → s.rng.insertReq = true → s.flag F.Lx_LCTL_EN 0 = true → s.laneState .e = 0 →
      ∃ t, exec .bypassSettleEnd s = .next t ∧ t.laneState .e = 1 ∧ t.rng = { s.rng with settling := false }
      ∧ s.OnlyIn [.regs, .rng] t ∧ s.WordsBut [F.Lx_LSTAT_STATE.key 0, F.Lx_LSTAT_STATE.key 1] t)
    ∧ (s.rng.settling = false → exec .bypassSettleEnd s = .next s)

/-! ### Registers and transactions -/

/-- What a settled request leaves (R41, R56, R59): it is taken; a non-posted one is answered with a completion of its status and data,
to its source, initiator and tag; a posted one that was performed changes nothing more, and one that failed with another status than
VIOL enters the posted error log; VIOL enters the violation log first.
Rests on assumption-log entries 21, 25 and 27. -/
def Obligations.SettledRequestsAreAnswered : Prop :=
  ∀ (s : State) (port : Nat) (f : Frame) (r : State.Res),
    (r.st ≠ .viol → f.pst = false → s.settle port f r = (s.take f).complete port ((s.take f).cmpOf f r.st false r.ovrd false r.data))
    ∧ (r.st = .viol → f.pst = false →
      s.settle port f r = ((s.take f).violation f r.reason).complete port (((s.take f).violation f r.reason).cmpOf f .viol false r.ovrd false r.data))
    ∧ (r.st = .ok → f.pst = true → s.settle port f r = s.take f)
    ∧ (r.st = .viol → f.pst = true → s.settle port f r = (s.take f).violation f r.reason)
    ∧ (r.st ≠ .ok → r.st ≠ .viol → f.pst = true → s.settle port f r = (s.take f).postedError f r.st 0)
    ∧ (∀ g, s.standby = false → s.activeTwin = false → s.complete port g = s.offer port g)
    ∧ (s.cmpOf f r.st false r.ovrd false r.data).dst = f.src ∧ (s.cmpOf f r.st false r.ovrd false r.data).init = f.init
    ∧ (s.cmpOf f r.st false r.ovrd false r.data).tag = f.tag ∧ (s.cmpOf f r.st false r.ovrd false r.data).opc = r.st.code
    ∧ (s.cmpOf f r.st false r.ovrd false r.data).pay = r.data

/-- A write that would change an RWI field is refused whole (R8): nothing of the write takes place, the request is settled with VIOL,
and the violation log takes an entry with reason 0x3; a write that leaves those fields as they read has the effect of its register. -/
def Obligations.RwiWritesAreRefusedWhole : Prop :=
  ∀ (s : State) (f : Frame) (r : RegRow), f.tt = .wr ∨ f.tt = .wrn → s.Passes f .reg → regRow? (regOff f.offset) = some r →
    let key := s.keyAt r (regOff f.offset)
    let fixed := (s.shown r.off (regOff f.offset - r.off) key r.start ^^^ wordOf f) &&& fixedMask r
    (fixed ≠ 0 → exec (.registerWrite f) s = .next (s.settle 5 f { st := .viol, reason := 3 })
      ∧ (s.hub.vlog.length < 64 →
        (s.settle 5 f { st := .viol, reason := 3 }).hub.vlog = s.hub.vlog ++ [logWords (s.take f) f (State.logLen f) 3 (s.hub.vseq + 1) 0])
      ∧ (64 ≤ s.hub.vlog.length → (s.settle 5 f { st := .viol, reason := 3 }).hub.vlog = s.hub.vlog))
    ∧ (fixed = 0 → s.blockBusy (regOff f.offset / 0x10000) = false →
      ∀ a t, writeEffect f r key (wordOf f) (regOff f.offset - r.off) s = (some a, t) → exec (.registerWrite f) s = .next (t.settle 5 f a))

/-- REGISTER_WRITE and READ_CLEAR (R4, R7, R9, R10, R29, R50): a request that names no register window, or has another size or alignment,
is refused with UR; a block that is in reset or gated answers BUSY; an offset that holds no register reads as zero, ignores writes and
completes OK; the write of a register without other effects stores the word that its fields' access types leave, in that register alone; a
read returns the shown word without its WO fields and clears the RC fields, and nothing else.
Rests on assumption-log entries 14, 15, 16, 20, 21, 33, 66, 131, 171 and 175. -/
def Obligations.RegisterAccessFollowsTypes : Prop :=
  ∀ (s : State) (f : Frame),
    let off := regOff f.offset
    let writes := f.tt = .wr ∨ f.tt = .wrn
    let fixed (r : RegRow) := (s.shown r.off (off - r.off) (s.keyAt r off) r.start ^^^ wordOf f) &&& fixedMask r
    (s.targetOf f = none → (writes → exec (.registerWrite f) s = .next (s.settle 5 f { st := .ur }))
      ∧ (f.tt = .rd → exec (.readClear f) s = .next (s.settle 5 f { st := .ur })))
    ∧ (s.Passes f .reg →
      (s.blockBusy (off / 0x10000) = true → (writes → (∀ r, regRow? off = some r → fixed r = 0) →
          exec (.registerWrite f) s = .next (s.settle 5 f { st := .busy }))
        ∧ (f.tt = .rd → exec (.readClear f) s = .next (s.settle 5 f { st := .busy })))
      ∧ (s.blockBusy (off / 0x10000) = false → regRow? off = none → (writes → exec (.registerWrite f) s = .next (s.settle 5 f {}))
        ∧ (f.tt = .rd → lockAt off = none → exec (.readClear f) s = .next (s.settle 5 f { data := zeros 4 })))
      ∧ (∀ r, s.blockBusy (off / 0x10000) = false → regRow? off = some r → r.off / 0x10000 ∈ [0, 8, 11, 17] → fixed r = 0 → writes →
        exec (.registerWrite f) s = .next ((s.setWord (s.keyAt r off)
          (BitVec.ofNat 32 (writtenWord r (s.stored r (s.keyAt r off)) (wordOf f)))).settle 5 f {}))
      ∧ (∀ r, s.blockBusy (off / 0x10000) = false → lockAt off = none → regRow? off = some r → hiddenFrom off f.src f.init s = false →
        r.off ≠ F.PEnn_RXQ_DATA.off → r.off ≠ F.PEnn_IDATA_WORD.off → f.tt = .rd →
        let key := s.keyAt r off
        let cleared := if r.mask (fun x => decide (x.acc = .rc)) = 0 then s else s.setWord key (BitVec.ofNat 32 (clearedWord r (s.stored r key)))
        cleared.openMask r.off (off - r.off) = 0 →
        exec (.readClear f) s = .next (cleared.settle 5 f { data := wordBytes (readWord r (s.shown r.off (off - r.off) key r.start)) })))

/-- RD, WR and WRN (R41, R50, R53, R66, R73): the checks come in the order of R50: the initiator, target, range and size (UR), the region
permissions (VIOL with the reason), the block's readiness; then a read of a bulk buffer returns its bytes, or POISON and zeros
where it meets a double-bit error (R214), a single-bit error being corrected and counted; a write stores every byte of the payload and no other, and each is completed OK. A range that
a cipher job holds is BUSY. A read of objects returns their bytes, or POISON and zeros if one has a double-bit error (R193, R196).
Rests on assumption-log entries 16, 20, 21 and 171. -/
def Obligations.RequestsPassChecksThenPerform : Prop :=
  ∀ (s : State) (f : Frame),
    (classOf s.hubNum f.src f.init = none ∨ s.targetOf f = none →
      (f.tt = .rd → ∀ ecc, exec (.rd f ecc) s = .next (s.settle 5 f { st := .ur }))
      ∧ (f.tt = .wr → exec (.wr f) s = .next (s.settle 5 f { st := .ur }))
      ∧ (f.tt = .wrn → exec (.wrn f) s = .next (s.settle 5 f { st := .ur }))
      ∧ (f.tt = .rmw → f.opc = 0 → exec (.swapOp f) s = .next (s.settle 5 f { st := .ur })))
    ∧ (∀ c t r, classOf s.hubNum f.src f.init = some c → s.targetOf f = some t → s.refusal c f.space f.offset (dataLen f) (permOf f) = some r →
      (f.tt = .rd → ∀ ecc, exec (.rd f ecc) s = .next (s.settle t.port f { st := .viol, reason := r }))
      ∧ (f.tt = .wr → exec (.wr f) s = .next (s.settle t.port f { st := .viol, reason := r }))
      ∧ (f.tt = .wrn → exec (.wrn f) s = .next (s.settle t.port f { st := .viol, reason := r })))
    ∧ (∀ b, s.Passes f (.win (.bulk b)) →
      (∀ ecc, f.tt = .rd → s.held f = false → eccOf ecc (bulkCellsOf s b f.offset f.len) true = [] →
        exec (.rd f ecc) s = .next ((s.bumpBy F.SWC_CNT_CORR 0 (eccOf ecc (bulkCellsOf s b f.offset f.len) false).length).settle 5 f
          { data := Mem.readN s.bulk f.offset f.len }))
      ∧ (∀ ecc, f.tt = .rd → s.held f = false → eccOf ecc (bulkCellsOf s b f.offset f.len) true ≠ [] →
        ∃ u : State, exec (.rd f ecc) s = .next (u.settle 5 f { st := .poison, data := zeros f.len }) ∧ u = { s with regs := u.regs })
      ∧ (f.tt = .rd → s.held f = true → ∀ ecc, exec (.rd f ecc) s = .next (s.settle 5 f { st := .busy }))
      ∧ (f.tt = .wr → f.pst = true → s.held f = false → ∃ u, exec (.wr f) s = .next u ∧ u = ({ s with bulk := u.bulk } : State).take f
        ∧ (∀ k, k < f.pay.length → Mem.read u.bulk (f.offset + k) = f.pay.getD k 0)
        ∧ ∀ a, a < f.offset ∨ f.offset + f.pay.length ≤ a → Mem.read u.bulk a = Mem.read s.bulk a)
      ∧ (f.tt = .wrn → s.held f = false → ∃ m, exec (.wrn f) s = .next (({ s with bulk := m } : State).settle 5 f {})
        ∧ (∀ k, k < f.pay.length → Mem.read m (f.offset + k) = f.pay.getD k 0)
        ∧ ∀ a, a < f.offset ∨ f.offset + f.pay.length ≤ a → Mem.read m a = Mem.read s.bulk a))
    ∧ (s.Passes f .obj → s.blockBusy 4 = false → f.tt = .rd → ∀ ecc,
      (eccOf ecc (objsOf f.offset f.len) true = [] →
        exec (.rd f ecc) s = .next ((s.bumpBy F.EPO_CNT_CORR 0 (eccOf ecc (objsOf f.offset f.len) false).length).settle 5 f
          { data := epoBytes s f.offset f.len }))
      ∧ (eccOf ecc (objsOf f.offset f.len) true ≠ [] →
        ∃ u : State, exec (.rd f ecc) s = .next (u.settle 5 f { st := .poison, data := zeros f.len })))

/-- SWAP, CAS, FADD, FAND, FOR and FXOR on a bulk buffer (R44, R73; Table 02-4): each returns the old bytes and stores the new value, big
endian, in the operand's bytes alone; a CAS stores only if the old value equals its first operand.
Rests on assumption-log entries 16 and 21. -/
def Obligations.RmwReturnsOldStoresNew : Prop :=
  ∀ (s : State) (f : Frame) (b : BulkBuf), f.tt = .rmw → s.Passes f (.win (.bulk b)) → s.held f = false →
    let old := Mem.readN s.bulk f.offset f.len
    let x := (rmwArgs f).1
    let stored (v : Nat) : Host.Outcome State Fault Refusal :=
      .next (({ s with bulk := Mem.writeN s.bulk f.offset (be f.len v) } : State).settle 5 f { data := old })
    (f.opc = 0 → exec (.swapOp f) s = stored x)
    ∧ (f.opc = 1 → unbe old = x → exec (.casOp f) s = stored (rmwArgs f).2)
    ∧ (f.opc = 1 → unbe old ≠ x → exec (.casOp f) s = .next (s.settle 5 f { data := old }))
    ∧ (f.opc = 2 → exec (.faddOp f) s = stored ((unbe old + x) % 256 ^ f.len))
    ∧ (f.opc = 3 → exec (.fandOp f) s = stored (unbe old &&& x))
    ∧ (f.opc = 4 → exec (.forOp f) s = stored (unbe old ||| x))
    ∧ (f.opc = 5 → exec (.fxorOp f) s = stored (unbe old ^^^ x))

/-- TAG_WAIT_SEND, CMP, COMPLETION_TIMEOUT and TAG_RESERVE_EXPIRY (R36, R46 to R48, R51): a unit's request takes the first free tag and is
sent, waits when there is none, and gets a local completion with UR if the position is not admitted; a completion closes its open tag; one without an
open tag is counted late while its tag is reserved, else unexpected; when the timer of an open tag expires the tag closes, its
initiator gets a local completion with TMO, and the tag stays reserved for one more period.
Rests on assumption-log entries 22, 26 and 198. -/
def Obligations.TagsOpenCloseAndRest : Prop :=
  ∀ (s : State) (f : Frame) (init tag : Nat),
    let g : Frame := { f with src := s.hubNum, pst := false }
    let u := s.onHub fun h => { h with waiting := h.waiting.erase g }
    let key := init * 1024 + tag
    let w := s.take f
    (∀ t, f.dst ≠ 0xFE → s.reachable f.dst = true → s.freeTag f.init = some t → exec (.tagWaitSend f) s =
      .next ((u.openTag { g with tag := t } none).offer (State.initPort f.init) { g with tag := t }))
    ∧ (f.dst ≠ 0xFE → s.reachable f.dst = true → s.freeTag f.init = none → s.hub.waiting.contains g = false →
      exec (.tagWaitSend f) s = .next (s.onHub fun h => { h with waiting := h.waiting ++ [g] }))
    ∧ (f.dst = 0xFE ∨ s.reachable f.dst = false → exec (.tagWaitSend f) s =
      .next (u.deliver (State.initPort f.init) (u.cmpOf g .ur true false false [])))
    ∧ (w.cmpBuf f = none → f.fLocal = false → Tbl.find? s.hub.opened (f.init * 1024 + f.tag) = none → Tbl.has s.hub.reserved (f.init * 1024 + f.tag) = true →
      exec (.cmp f) s = .next (w.bump F.HUB_CNT_LATECMP))
    ∧ (w.cmpBuf f = none → f.fLocal = false → Tbl.find? s.hub.opened (f.init * 1024 + f.tag) = none → Tbl.has s.hub.reserved (f.init * 1024 + f.tag) = false →
      exec (.cmp f) s = .next (w.bump F.HUB_CNT_UNEXPCMP))
    ∧ (∀ o, w.cmpBuf f = none → f.fLocal = false → Tbl.find? s.hub.opened (f.init * 1024 + f.tag) = some o → o.hostTag = none → o.req.tt ≠ .mgt →
      exec (.cmp f) s = .next (w.closeTag (f.init * 1024 + f.tag)))
    ∧ (∀ o, Tbl.find? s.hub.opened key = some o → o.hostTag = none → o.since + s.timerOf init ≤ s.up →
      let t := (s.closeTag key).onHub fun h => { h with reserved := Tbl.put h.reserved key s.up }
      exec (.completionTimeout init tag) s = .next (t.deliver (State.initPort init) (t.cmpOf { o.req with src := t.hubNum } .tmo true false false [])))
    ∧ (∀ o t, Tbl.find? s.hub.opened key = some o → o.hostTag = some t → o.since + s.timerOf init ≤ s.up →
      exec (.completionTimeout init tag) s =
        .next (((s.closeTag key).onHub fun h => { h with reserved := Tbl.put h.reserved key s.up }).hostLocal o.req t .tmo))
    ∧ (∀ o, Tbl.find? s.hub.opened key = some o → s.up < o.since + s.timerOf init → exec (.completionTimeout init tag) s = .next s)
    ∧ (∀ t, Tbl.find? s.hub.reserved key = some t → t + s.timerOf init ≤ s.up → exec (.tagReserveExpiry init tag) s =
      .next (s.onHub fun h => { h with reserved := Tbl.erase h.reserved key }))

/-- HOST_FRAME_RX, ABORT and ERRN (R62, R74 to R76, R90 to R92, R449): a host port that is off takes nothing; a frame with a bad FCS or
beyond MAXLEN is counted; a good one goes through the receive checks, and its host's answers leave this twin's port from then on. An
ABORT of another's transaction is refused with VIOL, reason 6; one that no unit can serve is late or UR; the abort of a bulk copy ends
it and reports the bytes performed. A notice that names its sink goes there; another goes to the sink of the initiator that it names, here
or at the sink's hub, or nowhere.
Rests on assumption-log entries 21, 23, 24, 25, 27, 28, 29, 30 and 93. -/
def Obligations.GatewayAbortAndNotice : Prop :=
  (∀ (s : State) (p : HPort) (eth : List Byte),
    let init := (s.img.hosts.find? fun e => decide (e.port = p.ix) && decide (e.mac = beAt eth 6 6)).map fun e => e.init
    (∀ ok, s.flag F.Hx_CTL_EN p.ix = false → exec (.hostFrameRx p ok eth) s = .next s)
    ∧ (s.flag F.Hx_CTL_EN p.ix = true → exec (.hostFrameRx p false eth) s = .next (s.bump F.Hx_CNT_FCS p.ix))
    ∧ (s.flag F.Hx_CTL_EN p.ix = true → s.get F.Hx_CTL_MAXLEN p.ix < eth.length + 4 →
      exec (.hostFrameRx p true eth) s = .next (s.bump F.Hx_CNT_OVERSIZE p.ix))
    ∧ (s.flag F.Hx_CTL_EN p.ix = true → eth.length + 4 ≤ s.get F.Hx_CTL_MAXLEN p.ix →
      beAt eth (if beAt eth 12 2 = 0x8100 then 16 else 12) 2 = 0x88F7 → exec (.hostFrameRx p true eth) s = .next s)
    ∧ (s.flag F.Hx_CTL_EN p.ix = true → eth.length + 4 ≤ s.get F.Hx_CTL_MAXLEN p.ix → s.standby = false →
      beAt eth (if beAt eth 12 2 = 0x8100 then 16 else 12) 2 ≠ 0x88F7 → exec (.hostFrameRx p true eth) s =
      .next ((s.onTwn fun t => { t with hostAt := t.hostAt.filter fun i => decide (some i ≠ init) }).hostFrame p.ix eth)))
  ∧ (∀ (s : State) (f : Frame),
    let u := s.take f
    let mine := f.src = beAt f.pay 2 1 ∧ (f.init = beAt f.pay 3 1 ∨ f.init = 0)
    let served := (u.abortFar f).isSome ∨ (u.abortJob f).isSome
    mgtRefused u.hubNum f = false → f.pay.length = 8 → bit (beAt f.pay 1 1) 0 = false →
    (¬mine → exec (.abortOp f) s = .next ((u.violation f 6).answer 7 f { st := .viol }))
    ∧ (mine → ¬served → ∀ x, u.epo.copies.find? (fun (c : Copy) => isNamed f c.req) = some x →
      let v := u.onEpo fun e => { e with copies := e.copies.eraseP fun (c : Copy) => isNamed f c.req }
      exec (.abortOp f) s = .next (v.complete 5 (v.cmpOf f .ok false false true (countData x.sent))))
    ∧ (mine → ¬served → u.abortCopy f = none → u.abortRead f = none →
      exec (.abortOp f) s = .next (if u.openElsewhere f then u.answer 7 f { st := .ur } else u.answer (u.latePort f) f { st := .abortLate })))
  ∧ ∀ (s : State) (f : Frame),
    (mgtRefused s.hubNum f = true → exec (.errn f) s = .next (s.settle 7 f { st := .ur }))
    ∧ (mgtRefused s.hubNum f = false → beAt f.pay 3 1 ≠ 0 → exec (.errn f) s = .next ((s.take f).toHost (beAt f.pay 3 1) f.tag f))
    ∧ (mgtRefused s.hubNum f = false → beAt f.pay 3 1 = 0 → beAt (slice f.pay 4 32) 17 1 = (s.take f).hubNum →
      let hub := ((s.take f).sinkOf (beAt (slice f.pay 4 32) 16 1)).1
      let k := ((s.take f).sinkOf (beAt (slice f.pay 4 32) 16 1)).2
      (hub = (s.take f).hubNum → k ≠ 0 → exec (.errn f) s = .next ((s.take f).toHost k f.tag f))
      ∧ (hub = (s.take f).hubNum → k = 0 → exec (.errn f) s = .next (s.take f))
      ∧ (hub ≠ (s.take f).hubNum → exec (.errn f) s = .next ((s.take f).notice hub (slice f.pay 0 3 ++ be 1 k ++ slice f.pay 4 32))))

/-- The command locks (R216): CMD_LOCK_READ of a free lock grants it to the reader with GRANT 1; any other read returns GRANT 0 and the
holder; RELEASE_LOCK by the holder frees it, and by another initiator changes nothing but its answer, BUSY, which for a posted write
is an entry of the posted error log; CMD_LOCK_TIMEOUT frees it 10 ms after the grant and not before.
Rests on assumption-log entries 16, 21, 27, 66 and 171. -/
def Obligations.CommandLocksHaveOneHolder : Prop :=
  ∀ (s : State) (k : LockId) (f : Frame),
    (s.Passes f .reg → f.tt = .rd → lockAt (regOff f.offset) = some k → s.blockBusy (regOff f.offset / 0x10000) = false →
      (Tbl.find? s.locks k.ix = none → ∃ t, exec (.cmdLockRead k f) s =
          .next (t.settle 5 f { data := wordBytes (BitVec.ofNat 32 (1 + f.src * 2 ^ 8 + f.init * 2 ^ 16)).toNat })
        ∧ t.holds k f.src f.init = true ∧ s.OnlyIn [.locks] t ∧ ∀ j, j ≠ k.ix → Tbl.find? t.locks j = Tbl.find? s.locks j)
      ∧ (∀ l, Tbl.find? s.locks k.ix = some l → exec (.cmdLockRead k f) s =
        .next (s.settle 5 f { data := wordBytes (BitVec.ofNat 32 (l.hub * 2 ^ 8 + l.init * 2 ^ 16)).toNat })))
    ∧ (∀ x, s.WritesReg f k.cmd.1 0 x → wordOf f % k.cmd.2 = 0 →
      (s.holds k f.src f.init = true → exec (.releaseLock k f) s = .next ((s.unlock k).settle 5 f {}) ∧ Tbl.find? (s.unlock k).locks k.ix = none)
      ∧ (s.holds k f.src f.init = false → exec (.releaseLock k f) s = .next (s.settle 5 f { st := .busy }))
      ∧ (s.holds k f.src f.init = false → f.pst = true → exec (.releaseLock k f) s = .next ((s.take f).postedError f .busy 0)))
    ∧ (∀ g, s.holds k f.src f.init = false → locked k f s g = ({ st := .busy }, s))
    ∧ (∀ l, Tbl.find? s.locks k.ix = some l → l.since + 10000000 ≤ s.up → exec (.cmdLockTimeout k) s = .next (s.unlock k))
    ∧ (∀ l, Tbl.find? s.locks k.ix = some l → s.up < l.since + 10000000 → exec (.cmdLockTimeout k) s = .next s)


/-! ### Switch core, packers and traffic classes -/

/-- SWITCH_INGRESS_HEAD, CELL_SLOT, BUFFER_FILL_DONE and BUFFER_SCRUB (R129 to R138, R149, R153, R166, R179): the oldest frame offered at a
port in a class that has credit, and that no older frame of its class waits before, is taken: it is counted for the sampler, dropped
where its policer has no credit, refused and counted while the buffer fills, and else meets the admission; a lossless frame from a ring
always enters its lane's pool, a lossy one only if some queue admits it; where no frame has credit nothing is taken; each slot ends with
the slot number one higher; a single-bit error that the scrub finds is counted and the scrub goes on to the next cell; the end of the
fill opens the buffer with whole credits. The scheduler gives each input to one output at most in an iteration, and each output one input.
Rests on assumption-log entries 6, 46, 48, 53, 55, 179, 185, 186 and 198. -/
def Obligations.SwitchTakesHeadsAndSlots : Prop :=
  (∀ (s : State) (port : Nat) (o : Offer), s.nextOffer port = some o → o.packer = none →
    let lane := port ≤ 1 ∨ (port = 4 ∧ o.handle ≠ 0)
    let u := s.onSwc fun w => { w with offers := w.offers.erase o }
    let y := u.sampleHead port o.fr (if lane then o.handle else s.rng.nextHandle) (if lane then .pending else .good)
    let x := y.police port o.fr
    o ∈ s.swc.offers ∧ o.port = port ∧ s.hasCredit port o.fr = true
    ∧ (x.1 = false → exec (.switchIngressHead port) s = .next x.2)
    ∧ (x.1 = true → x.2.swc.ready = false → exec (.switchIngressHead port) s = .next (x.2.refuseHead port o.fr))
    ∧ (x.1 = true → x.2.swc.ready = true → port ≤ 1 → exec (.switchIngressHead port) s = .next (x.2.ringHead o))
    ∧ (x.1 = true → x.2.swc.ready = true → 2 ≤ port → exec (.switchIngressHead port) s = .next (x.2.ownHead o)))
  ∧ (∀ (s : State) (port : Nat), (∀ o ∈ s.swc.offers, o.port = port → s.hasCredit port o.fr = false) →
    exec (.switchIngressHead port) s = .next s)
  ∧ (∀ (s : State) (o : Offer),
    let fq := 16 * (1 - o.port) + o.fr.tc
    let f : Frame := { o.fr with hopiv := 0 }
    (o.fr.tc < 4 → o.forward = true → o.deliver = false →
      s.ringHead o = (s.enter o.handle o.port f (.lossless o.port o.fr.tc) .pending false true []).linkQ fq o.handle true)
    ∧ (4 ≤ o.fr.tc → o.forward = true → o.deliver = false → s.admits fq o.fr.tc = true →
      s.ringHead o = (s.enter o.handle o.port f .shared .pending false true []).linkQ fq o.handle true)
    ∧ (4 ≤ o.fr.tc → o.forward = true → o.deliver = false → s.admits fq o.fr.tc = false → s.ringHead o = s.refuseHead o.port o.fr)
    ∧ ∀ q tc, s.admits q tc = decide (s.occ q + 32 ≤ alphaTimes (s.alphaCode tc) s.freeShared))
  ∧ (∀ (s : State) (errs : List (Nat × Bool)), ∃ t, exec (.cellSlot errs) s = .next t ∧ t.swc.slot = s.swc.slot + 1)
  ∧ (∀ (cs : List (Nat × Cand)) (g a : List Nat), ((matchIter cs g a).map fun p => p.1).Nodup ∧ ((matchIter cs g a).map fun p => p.2).Nodup)
  ∧ ∀ (s : State),
    (exec .bufferFillDone s = .next (s.onSwc fun w => { w with ready := true, llUsed := [] }))
    ∧ ∃ t, exec (.bufferScrub 1) s = .next t ∧ t.get F.SWC_CNT_CORR = min F.SWC_CNT_CORR.max (s.get F.SWC_CNT_CORR + 1)
      ∧ t.swc = { s.swc with scrubAt := (s.swc.scrubAt + 1) % 65536 } ∧ s.OnlyIn [.regs, .swc] t ∧ s.WordsBut [F.SWC_CNT_CORR.key 0] t
      ∧ ∃ u, exec (.bufferScrub 0) s = .next u ∧ u.swc = t.swc ∧ s.OnlyIn [.swc] u

/-- LOCAL_QUEUE_ROOM, AON_LINK, SAMPLE_SEND and CAPTURE_RESTART (R141, R143, R157, R166, R168): the frame that has waited longest for a queue
is linked once the queue has room; an all-or-nothing frame only once every destination has room and nothing older waits there, and it is
freed and counted if a destination is lost; the oldest sample with a verdict leaves as a frame of TC15 in queue 127 and is counted, or is
dropped and counted; a restart empties the capture ring and clears TRIGGERED and STOPPED.
Rests on assumption-log entries 21, 53, 179, 180 and 182. -/
def Obligations.WaitingFramesAndSamplesMove : Prop :=
  ∀ (s : State),
    (∀ q h b, s.firstWaiter q = some h → s.buf? h = some b → b.aonWait = false → s.hasRoom q = true →
      let t := (s.updBuf h fun v => { v with waitLinks := b.waitLinks.erase q }).linkQ q h false
      ((b.waitLinks.erase q) ≠ [] → exec (.localQueueRoom q) s = .next t)
      ∧ ((b.waitLinks.erase q) = [] → exec (.localQueueRoom q) s = .next (t.onSwc fun w => { w with waiters := w.waiters.erase h })))
    ∧ (∀ q, s.firstWaiter q = none ∨ s.hasRoom q = false → exec (.localQueueRoom q) s = .next s)
    ∧ (∀ h b, s.buf? h = some b → b.aonWait = true →
      let done := (s.updBuf h fun b => { b with waitLinks := [], aonWait := false }).onSwc fun w => { w with waiters := w.waiters.erase h }
      ((∀ q ∈ b.waitLinks, s.portServes (State.portOfQ q) = true ∧ s.hasRoom q = true ∧ s.firstWaiter q = some h) →
        exec (.aonLink h) s = .next (b.waitLinks.foldl (fun s q => s.linkQ q h false) done))
      ∧ ((∃ q ∈ b.waitLinks, s.portServes (State.portOfQ q) = false) →
        exec (.aonLink h) s = .next ((done.bump F.SWC_CNT_AONREF).release h))
      ∧ ((∀ q ∈ b.waitLinks, s.portServes (State.portOfQ q) = true) → (∃ q ∈ b.waitLinks, s.hasRoom q = false) →
        exec (.aonLink h) s = .next s))
    ∧ (∀ x, s.swc.samples.find? (fun x => decide (x.verdict ≠ .pending)) = some x →
      let f := sampleFrame x
      let h := s.rng.nextHandle
      let u := (s.onSwc fun w => { w with samples := w.samples.erase x }).onRng fun r => { r with nextHandle := h + 1 }
      let v := (u.sampleHead 9 f h .good).police 9 f
      f.tc = 15 ∧ f.pay.take 4 = be 1 x.port ++ be 1 (if x.verdict = .bad then 2 else 1) ++ be 2 x.fr.length
      ∧ (v.1 = true → v.2.swc.ready = true → v.2.admits 127 15 = true → exec .sampleSend s =
        .next ((((v.2.enter h 9 f .shared .good false false []).linkQ 127 h false).capture v.2.capEn 9 0 0 127 f v.2.ns).bump F.SWC_SMP_CNT))
      ∧ (v.1 = true → v.2.swc.ready = false ∨ v.2.admits 127 15 = false → exec .sampleSend s = .next ((v.2.refuseHead 9 f).bump F.SWC_SMP_DROP))
      ∧ (v.1 = false → exec .sampleSend s = .next v.2))
    ∧ (s.swc.samples = [] → exec .sampleSend s = .next s)
    ∧ ∀ f x, s.WritesReg f F.SWC_CAP_CFG_EN 0 x → bit (wordOf f) 15 = true →
      ∃ t, exec (.captureRestart f) s = .next (t.settle 5 f {}) ∧ t.swc.cap = [] ∧ t.swc.capCount = 0 ∧ t.swc.capNext = 0
      ∧ t.flag F.SWC_CAP_STAT_TRIGGERED = false ∧ t.flag F.SWC_CAP_STAT_STOPPED = false ∧ t.swc.bufs = s.swc.bufs
      ∧ t.swc.queues = s.swc.queues ∧ s.OnlyIn [.regs, .swc] t ∧ s.WordsBut [F.SWC_CAP_CFG_EN.key 0, F.SWC_CAP_STAT_STOPPED.key 0] t

/-- SHAPER_TICK, POLICER_TICK, POLICER_ALLOC and POLICER_FREE (R175, R176, R179, R181, R182): from the tick on a changed setting is in force;
a shaper that acts gains its rate up to its cap, the cells that its queue was charged in the same cycle being taken off after the gain,
and no other shaper gains; a policer's credit rises by its rate and never exceeds its burst; an allocation of an unmapped key takes the
lowest free policer that the image does not define and maps the key to it, with rate 0 and burst 2,048; it is refused for a mapped key, for
a key that does not exist and when none is free; only a run-time policer is freed.
Rests on assumption-log entries 21, 49 and 68. -/
def Obligations.ShapersAndPolicersTick : Prop :=
  (∀ (s : State),
    let u := s.inForceNow fun k => decide (k % 2 ^ 24 = 0x30014) || decide (k % 2 ^ 24 = 0x30018)
    let late (q : Nat) : Int := if s.tmq.chargedAt = s.up then (Tbl.getD s.tmq.charged q 0 : Nat) else 0
    (∃ t, exec .shaperTick s = .next t
      ∧ (∀ q, q < 256 → u.shaped q = true → Tbl.find? t.tmq.shp q = some (shaperTick u q (u.shpCredit q + late q) - late q))
      ∧ (∀ q, q < 256 → u.shaped q = false → Tbl.has s.tmq.shp q = true →
        Tbl.find? t.tmq.shp q = some (min (u.shpCredit q) (s.get F.TMQ_SHP_GUST_GUST q * 256 : Nat)))
      ∧ (∀ q, q < 256 → u.shaped q = false → Tbl.has s.tmq.shp q = false → Tbl.find? t.tmq.shp q = none)
      ∧ t.tmq.pol = s.tmq.pol ∧ s.OnlyIn [.tmq] t)
    ∧ (∀ q c, 0 < s.get F.TMQ_SHP_CFG_RATE q → s.get F.TMQ_SHP_CFG_RATE q ≤ s.get F.TMQ_SHP_GUST_GUST q * 256 →
      shaperTick s q c ≤ (s.get F.TMQ_SHP_GUST_GUST q * 256 : Nat))
    ∧ (∃ t, exec .policerTick s = .next t ∧ s.OnlyIn [.tmq] t ∧ t.tmq.shp = s.tmq.shp
      ∧ ∀ p c, Tbl.find? s.tmq.pol p = some c →
        Tbl.find? t.tmq.pol p = some (min (c + s.get F.TMQ_POL_CFG_RATE p) (s.get F.TMQ_POL_BURST_BURST p * 256))))
  ∧ ∀ (s : State) (f : Frame) (x : RegRow), s.WritesReg f F.TMQ_POL_CMD_OP 0 x →
    let key := bits (wordOf f) 11 2
    (wordOf f % 4 = 1 →
      (0x354 ≤ key → exec (.policerAlloc f) s = .next (((s.set F.TMQ_POL_RES_INDEX 0 (s.get F.TMQ_POL_RES_INDEX)).set
          F.TMQ_POL_RES_RESULT 0 4).settle 5 f {}))
      ∧ (key < 0x354 → s.flag F.TMQ_PMAP_DATA_VALID key = true →
        exec (.policerAlloc f) s = .next (((s.set F.TMQ_POL_RES_INDEX 0 (s.get F.TMQ_POL_RES_INDEX)).set F.TMQ_POL_RES_RESULT 0 2).settle 5 f {}))
      ∧ (∀ i, key < 0x354 → s.flag F.TMQ_PMAP_DATA_VALID key = false →
        Tbl.firstFree s.tmq.runtime s.tmq.imagePolicers (1024 - s.tmq.imagePolicers) = some i → i < 1024 →
        ∃ u, exec (.policerAlloc f) s = .next (u.settle 5 f {}) ∧ u.flag F.TMQ_PMAP_DATA_VALID key = true
        ∧ u.get F.TMQ_PMAP_DATA_POLICER key = i ∧ u.get F.TMQ_POL_BURST_BURST i = 2048 ∧ u.get F.TMQ_POL_CFG_RATE i = 0
        ∧ u.get F.TMQ_POL_RES_INDEX = i ∧ u.get F.TMQ_POL_RES_RESULT = 0 ∧ Tbl.has u.tmq.runtime i = true ∧ s.OnlyIn [.regs, .tmq] u)
      ∧ (key < 0x354 → s.flag F.TMQ_PMAP_DATA_VALID key = false →
        Tbl.firstFree s.tmq.runtime s.tmq.imagePolicers (1024 - s.tmq.imagePolicers) = none → exec (.policerAlloc f) s =
        .next ((((s.set F.TMQ_POL_RES_INDEX 0 (s.get F.TMQ_POL_RES_INDEX)).set F.TMQ_POL_RES_RESULT 0 1).bump F.TMQ_CNT_EXH).settle 5 f { st := .nores })))
    ∧ (wordOf f % 4 = 2 →
      (Tbl.has s.tmq.runtime key = true → ∃ t, exec (.policerFree f) s = .next (t.settle 5 f {}) ∧ t.tmq.runtime = Tbl.erase s.tmq.runtime key
        ∧ t.tmq.pol = Tbl.erase s.tmq.pol key ∧ t.get F.TMQ_POL_RES_RESULT = 0 ∧ s.OnlyIn [.regs, .tmq] t)
      ∧ (Tbl.has s.tmq.runtime key = false → exec (.policerFree f) s = .next ((s.set F.TMQ_POL_RES_RESULT 0 3).settle 5 f {})))

/-- PACKER_UNIT_WRITE, PACKER_STALL_RELEASE, PACKER_CT_TIMEOUT and PACKER_FLUSH (R158 to R165): an 8-bit unit at the head of an engine's
receive queue leaves it and joins the word being filled of an enabled packer that has room, which is stored at 32 bytes; while there is
no room the unit stays where it is and the stall is counted; it joins when there is room again; a cut-through packet that starves is counted
short, and its missing byte is a zero that closes it; a flush empties a packer that is not enabled and is refused with VIOL for
one that is.
Rests on assumption-log entries 21 and 52. -/
def Obligations.PackersCollectUnits : Prop :=
  ∀ (s : State) (k : Nat),
    let p := s.pk k
    let q := Tbl.getD s.pio.eng k {}
    let taken (rest : List (Word × Bool)) (p : Packer) : State := (s.onPio fun g => { g with eng := Tbl.put g.eng k { q with rx := rest } }).setPk k p
    let fresh := s.flag F.PKnn_CFG_EN k = true ∧ s.get F.PKnn_CFG_WIDTH k = 0 ∧ p.store = [] ∧ p.pad = 0 ∧ p.cut = none ∧ p.offered = false
      ∧ p.count + 1 < s.packetLimit k
    (∀ (w : Word) rest, q.rx = (w, false) :: rest → fresh → p.cur.length < 31 →
      let t := taken rest { p with cur := p.cur ++ [BitVec.ofNat 8 w.toNat], count := p.count + 1 }
      exec (.packerUnitWrite k) s = .next t ∧ exec (.packerStallRelease k) s = .next t)
    ∧ (∀ (w : Word) rest, q.rx = (w, false) :: rest → fresh → p.cur.length = 31 → s.get F.PKnn_CFG_FIXLEN k = 0 →
      let t := taken rest { p with store := [{ data := p.cur ++ [BitVec.ofNat 8 w.toNat], last := false }], cur := [], wptr := (p.wptr + 1) % 128,
                                   count := p.count + 1 }
      exec (.packerUnitWrite k) s = .next t ∧ exec (.packerStallRelease k) s = .next t)
    ∧ (q.rx ≠ [] → s.flag F.PKnn_CFG_EN k = true → s.pkFull k = true → p.pad = 0 → p.cut = none → p.offered = true →
      exec (.packerUnitWrite k) s = .next (s.bump F.PKnn_STAT_STALLS k) ∧ exec (.packerStallRelease k) s = .next s)
    ∧ (q.rx = [] ∨ s.flag F.PKnn_CFG_EN k = false → exec (.packerUnitWrite k) s = .next s)
    ∧ (p.offered = true → p.cut = none → p.pad = 0 → ((State.frontPacket p.store).any fun w => w.last) = false →
      ∃ t, exec (.packerCtTimeout k) s = .next t ∧ t.get F.PKnn_STAT_SHORT k = min F.PKnn_STAT_SHORT.max (s.get F.PKnn_STAT_SHORT k + 1)
      ∧ s.OnlyIn [.regs, .swc] t ∧ s.WordsBut [F.PKnn_STAT_SHORT.key k] t)
    ∧ (∀ h n, p.offered = false → p.cut = some (h, n) → p.store = [] → p.pad = 0 → p.count + 1 = s.packetLimit k →
      ∃ t, exec (.packerCtTimeout k) s = .next t ∧ t.get F.PKnn_STAT_SHORT k = min F.PKnn_STAT_SHORT.max (s.get F.PKnn_STAT_SHORT k + 1)
      ∧ (t.pk k).cut = none ∧ (t.pk k).store = [] ∧ (t.pk k).cur = [] ∧ (t.pk k).count = 0 ∧ (t.pk k).pad = 0
      ∧ s.OnlyIn [.regs, .swc] t ∧ s.WordsBut [F.PKnn_STAT_SHORT.key k] t)
    ∧ (∀ f x, k < 64 → s.WritesReg f F.PKnn_CFG_EN k x → bit (wordOf f) 25 = true →
      (s.flag F.PKnn_CFG_EN k = false → exec (.packerFlush f) s = .next ((s.setPk k {}).settle 5 f {}))
      ∧ (s.flag F.PKnn_CFG_EN k = true → exec (.packerFlush f) s = .next (s.settle 5 f { st := .viol })))

/-! ### Objects, publication, snapshots and bulk copies -/

/-- SOURCE_UPDATE, HOLD_CHANGE, STALE_TIMEOUT and OBJECT_SCRUB (R185 to R196): an update writes the value and its sample time, clears
INIT, STALE, FAULT and SUBST, and sets LOST as reported; while a reflex output holds the object the value becomes the requested value and
nothing else changes; an update of RFX goes before one of the binder; a release makes the requested value effective; a value
that has not come STALE ms after the last one sets STALE, with the time at which it was due, and no sooner; a double-bit error sets the object to its initial value with INIT and FAULT. An update that
changes neither VALUE nor QUAL leaves CSEQ and is not evaluated; one that changes either adds 1 to CSEQ.
Rests on assumption-log entries 56, 57, 60, 61 and 83. -/
def Obligations.ObjectsFollowTheirSources : Prop :=
  ∀ (s : State) (i : Nat) (o : Obj), s.obj? i = some o →
    (∀ u rest, s.epo.rfx = [] → s.epo.binder = u :: rest → u.obj = i →
      let b := s.onEpo fun e => { e with binder := rest }
      (∀ v lost, u.rep = .value v lost → o.req = none → exec .sourceUpdate s = .next (b.finish i o { o with
        sec := u.sec, ns := u.ns, upAt := s.up, value := v % typeMod o.type, qual := qualWith o.qual (if lost then qLOST else 0) (qINIT + qSTALE + qFAULT + qLOST + qSUBST) }))
      ∧ (∀ v lost h, u.rep = .value v lost → o.req = some h → exec .sourceUpdate s =
        .next (b.setObj i { o with req := some (v % typeMod o.type), upAt := s.up }))
      ∧ (u.rep = .fail → exec .sourceUpdate s = .next (b.finish i o { o with sec := u.sec, ns := u.ns, qual := qualWith o.qual qFAULT 0 }))
      ∧ (u.rep = .sinkOk → exec .sourceUpdate s = .next (b.finish i o { o with sec := u.sec, ns := u.ns, qual := qualWith o.qual 0 qFAULT })))
    ∧ (∀ u rest, s.epo.rfx = .update u :: rest →
      exec .sourceUpdate s = .next ((s.onEpo fun e => { e with rfx := rest }).sourceUpdate u))
    ∧ (∀ rest, s.epo.rfx = .hold i none :: rest → ∀ v, o.req = some v → exec .holdChange s =
      .next ((s.onEpo fun e => { e with rfx := rest }).finish i o
        { o with value := v, req := none, sec := s.sec, ns := s.nsec, qual := qualWith o.qual 0 qOVRD }))
    ∧ (∀ rest v, s.epo.rfx = .hold i (some v) :: rest → exec .holdChange s =
      .next ((s.onEpo fun e => { e with rfx := rest }).finish i o
        { o with value := v % typeMod o.type, req := some o.requested, sec := s.sec, ns := s.nsec, qual := qualWith o.qual qOVRD 0 }))
    ∧ (let n := s.get F.EPO_PRULE_TIM_STALE o.prule
      let due := o.upAt + n * 1000000
      (o.isInput = true → n ≠ 0 → due ≤ s.up → bit o.qual 1 = false → exec (.staleTimeout i) s =
        .next (s.finish i o { o with qual := qualWith o.qual qSTALE 0, sec := (s.ns - (s.up - due)) / 10 ^ 9, ns := (s.ns - (s.up - due)) % 10 ^ 9 }))
      ∧ (n = 0 ∨ s.up < due → exec (.staleTimeout i) s = .next s))
    ∧ (∀ n : Obj, o.value = n.value → o.qual = n.qual → s.finish i o n = s.setObj i n)
    ∧ (∀ n : Obj, o.value = n.value → o.qual ≠ n.qual → s.finish i o n = (s.setObj i { n with cseq := (o.cseq + 1) % 65536 }).evaluate i)
    ∧ (∀ n : Obj, o.value ≠ n.value → s.finish i o n = ((s.setObj i { n with cseq := (o.cseq + 1) % 65536 }).evaluate i).handOver i n)
    ∧ (let c := s.onEpo fun e => { e with scrubAt := (s.epo.scrubAt + 1) % 65536 }
      exec (.objectScrub 0) s = .next c ∧ exec (.objectScrub 1) s = .next (c.bump F.EPO_CNT_CORR)
      ∧ exec (.objectScrub 2) s = .next (c.repairObj s.epo.scrubAt))
    ∧ (o.req = none → o.value = o.init → s.repairObj i =
      ((((s.bump F.EPO_CNT_UNCORR).set F.EPO_ECC_LAST_OBJ 0 i).set F.EPO_ECC_LAST_SEEN 0 1).setObj i
        { o with value := o.init, sec := s.sec, ns := s.nsec, cseq := 0, qual := 5 }).evaluate i)

/-- PERIOD_TIMER, DEFERRED_EVALUATION, BATCH_TIMER, PUB_FRAME_BUILD and PUB (R199 to R206): a change triggers an object whose QUAL
changed, on ANY whose value changed, on DEADBAND whose distance from the published value exceeds the band; a trigger within MININT of
the last publication defers until then; a periodic trigger comes PERIOD after the last trigger; a triggered object becomes pending in the subscriptions that name it, once; a subscription whose batch
timer has ended, or that has 82 entries, is served in rotating order, the next one after the last served, once its frame has credit; a
standby twin builds none; a mirror takes the value, time and CSEQ of a newer entry, and ignores and counts one that is not newer; a PUB
of no class of initiator or that is not posted is refused.
Rests on assumption-log entries 21, 25, 56 and 58. -/
def Obligations.PublicationFollowsTheRules : Prop :=
  (∀ (s : State) (i : Nat) (o : Obj), s.obj? i = some o →
    let mode := s.get F.EPO_PRULE_CFG_MODE o.prule
    (mode = 0 → s.evaluate i = s)
    ∧ (∀ v q t, mode ≠ 0 → o.pub = some (v, q, t) → o.qual ≠ q → s.evaluate i = s.trigger i false)
    ∧ (∀ v q t, mode ≠ 0 → o.pub = some (v, q, t) → o.qual = q → o.value = v → bit mode 1 = false → s.evaluate i = s)
    ∧ (∀ v q t, bit mode 0 = true → o.pub = some (v, q, t) → o.value ≠ v → s.evaluate i = s.trigger i false)
    ∧ (∀ v q t, bit mode 1 = true → bit mode 0 = false → o.pub = some (v, q, t) → o.qual = q →
      s.evaluate i = if exceeds o.type o.signed o.value v (s.deadband o.prule) then s.trigger i false else s)
    ∧ (∀ v q t, o.pub = some (v, q, t) → s.up < t + s.get F.EPO_PRULE_TIM_MININT o.prule * 1000 →
      s.trigger i false = s.setObj i { o with deferred := true })
    ∧ (∀ v q t, o.pub = some (v, q, t) → t + s.get F.EPO_PRULE_TIM_MININT o.prule * 1000 ≤ s.up → o.hist = false →
      ∃ u, s.trigger i false = u ∧ u.obj? i = some { o with pub := some (o.value, o.qual, s.up), deferred := false, perAt := s.up }
      ∧ (∀ k b, Tbl.find? s.epo.subs k = some b → b.first ≤ i → i < b.first + b.count →
        Tbl.find? u.epo.subs k = some { b with pending := Tbl.put b.pending i (), since := if b.pending.isEmpty then s.up else b.since })
      ∧ (∀ k b, Tbl.find? s.epo.subs k = some b → (i < b.first ∨ b.first + b.count ≤ i) → Tbl.find? u.epo.subs k = some b)
      ∧ s.OnlyIn [.epo] u)
    ∧ (bit mode 2 = true → o.deferred = false → o.perAt + s.get F.EPO_PRULE_CFG_PERIOD o.prule * 1000000 ≤ s.up →
      exec (.periodTimer i) s = .next (s.trigger i false))
    ∧ (bit mode 2 = false ∨ o.deferred = true ∨ s.up < o.perAt + s.get F.EPO_PRULE_CFG_PERIOD o.prule * 1000000 →
      exec (.periodTimer i) s = .next s)
    ∧ (∀ v q t, o.pub = some (v, q, t) →
      (o.deferred = true → t + s.get F.EPO_PRULE_TIM_MININT o.prule * 1000 ≤ s.up →
        exec (.deferredEvaluation i) s = .next ((s.setObj i { o with deferred := false }).evaluate i true))
      ∧ (o.deferred = false ∨ s.up < t + s.get F.EPO_PRULE_TIM_MININT o.prule * 1000 → exec (.deferredEvaluation i) s = .next s)))
  ∧ (∀ (s : State) (k : Nat) (b : Sub), Tbl.find? s.epo.subs k = some b →
    (b.pending.isEmpty = false → b.since + s.get F.EPO_PUBCFG_BATCH * 1000 ≤ s.up →
      ∃ t, exec (.batchTimer k) s = .next t ∧ Tbl.find? t.epo.subs k = some { b with timerDone := true } ∧ s.OnlyIn [.epo] t)
    ∧ (b.pending.isEmpty = true ∨ s.up < b.since + s.get F.EPO_PUBCFG_BATCH * 1000 → exec (.batchTimer k) s = .next s)
    ∧ (s.subReady b = true ↔ b.pending ≠ [] ∧ (s.get F.EPO_PUBCFG_BATCH = 0 ∨ b.timerDone = true ∨ 82 ≤ b.pending.length)))
  ∧ (∀ (s : State),
    let ready := s.epo.subs.filter fun p => s.subReady p.2
    let next := ready.filter fun p => decide (s.epo.rotor < p.1)
    (s.standby = true → exec .pubFrameBuild s = .next s)
    ∧ ∀ k b l, s.standby = false → next = (k, b) :: l ∨ (next = [] ∧ ready = (k, b) :: l) →
      let left : Sub := { b with pending := b.pending.drop 82, timerDone := b.timerDone && !(b.pending.drop 82).isEmpty }
      let u := s.onEpo fun e => { e with rotor := k, subs := Tbl.put e.subs k left }
      let entries := (b.pending.take 82).filterMap fun p => (s.obj? p.1).map fun o => (p.1, o)
      (s.lossyCredit 5 b.cells = true → exec .pubFrameBuild s =
        .next (u.sendPub b.tc b.toHost b.dest (State.pubPayload (if b.toHost then b.hostId else 0) 0 k 0 u.sec u.nsec entries)))
      ∧ (s.lossyCredit 5 b.cells = false → exec .pubFrameBuild s = .next s))
  ∧ ∀ (s : State) (f : Frame),
    (classOf s.hubNum f.src f.init = none ∨ f.pst = false → exec (.pub f) s = .next (s.settle 5 f { st := .ur }))
    ∧ (classOf s.hubNum f.src f.init ≠ none → f.pst = true → beAt f.pay 0 2 = 0 → exec (.pub f) s = .next (s.take f))
    ∧ ∀ i o, classOf s.hubNum f.src f.init ≠ none → f.pst = true → beAt f.pay 0 2 = 1 → s.epo.objs = [(i, o)] → o.kind = 6 →
      let e := slice f.pay 20 24
      o.index = f.src * 65536 + beAt e 0 2 → bit (beAt e 3 1 % 64) 0 = false →
      (sdiff 16 (beAt e 14 2) o.cseq ≤ 0 → exec (.pub f) s = .next ((s.take f).bump F.EPO_CNT_MIRSTALE))
      ∧ (0 < sdiff 16 (beAt e 14 2) o.cseq → o.req = none → o.value = beAt e 16 8 % typeMod o.type → o.qual = qualWith (beAt e 3 1 % 64) 0 0 →
        exec (.pub f) s = .next ((s.take f).setObj i { o with cseq := beAt e 14 2, sec := beAt e 4 6, ns := beAt e 10 4 }))
      ∧ (0 < sdiff 16 (beAt e 14 2) o.cseq → o.req = none → o.value ≠ beAt e 16 8 % typeMod o.type →
        let n : Obj := { o with value := beAt e 16 8 % typeMod o.type, qual := qualWith (beAt e 3 1 % 64) 0 0, cseq := beAt e 14 2, sec := beAt e 4 6, ns := beAt e 10 4 }
        exec (.pub f) s = .next (((s.take f).setObj i n).evaluate i))

/-- SUB_ALLOC, SUB_FREE, SNAP_ARM, SNAP_CANCEL, BCOPY and BCOPY_FRAME_SEND (R207 to R215): an allocation takes the lowest free
subscription that the image does not define, answers its number and 0, and is refused for a range that is not defined or a class
outside 4 to 7, and when none is free; only a run-time subscription is freed; an armed snapshot takes the lowest free slot; a cancel frees
an armed slot, and is late for one that is copied; every command of these releases the lock. A copy is cut at 1,024 bytes and at the
1 KiB boundaries of its destination, waits for credit, and its request completes with its last frame, with the number of bytes.
Rests on assumption-log entries 21, 26, 31, 62, 63, 67 and 68. -/
def Obligations.EndpointCommandsAnswer : Prop :=
  (∀ (s : State) (f : Frame) (x : RegRow), s.WritesReg f F.EPO_CMD_OP 0 x → s.holds .epo f.src f.init = true →
    let u := s.unlock .epo
    let old := u.get F.EPO_CMD_RES_INDEX
    let n := bits (wordOf f) 16 3
    let m := bits (wordOf f) 5 3
    let first := u.get F.EPO_CMD_ARG0_FIRST
    let count := u.get F.EPO_CMD_ARG0_COUNT
    let tc := u.get F.EPO_CMD_ARG0_TC
    (wordOf f % 8 = 1 →
      (tc < 4 ∨ 7 < tc ∨ definedRange u first count = false → exec (.subAlloc f) s = .next ((epoRes u old 2).settle 5 f {}))
      ∧ (4 ≤ tc → tc ≤ 7 → definedRange u first count = true →
        (Tbl.firstFree u.epo.subs (u.get F.EPO_SUB_USED_DEF) (16384 - u.get F.EPO_SUB_USED_DEF) = none →
          exec (.subAlloc f) s = .next (((epoRes u old 1).bump F.EPO_CNT_SUBEXH).settle 5 f { st := .nores }))
        ∧ ∀ k, Tbl.firstFree u.epo.subs (u.get F.EPO_SUB_USED_DEF) (16384 - u.get F.EPO_SUB_USED_DEF) = some k → k < 16384 →
          ∃ t, exec (.subAlloc f) s = .next (t.settle 5 f {}) ∧ t.get F.EPO_CMD_RES_INDEX = k ∧ t.get F.EPO_CMD_RES_RESULT = 0
          ∧ (∃ b : Sub, Tbl.find? t.epo.subs k = some b ∧ b.first = first ∧ b.count = count ∧ b.pending = [])
          ∧ s.OnlyIn [.regs, .locks, .epo] t ∧ s.WordsBut [F.EPO_CMD_RES_INDEX.key 0] t))
    ∧ (wordOf f % 8 = 2 →
      (u.get F.EPO_SUB_USED_DEF ≤ n → Tbl.has u.epo.subs n = true →
        exec (.subFree f) s = .next ((epoRes (u.onEpo fun e => { e with subs := Tbl.erase e.subs n }) old 0).settle 5 f {}))
      ∧ (n < u.get F.EPO_SUB_USED_DEF ∨ Tbl.has u.epo.subs n = false → exec (.subFree f) s = .next ((epoRes u old 4).settle 5 f {})))
    ∧ (wordOf f % 8 = 3 →
      let at_ := State.timeOf (u.sec / 2 ^ 32 * 2 ^ 32 + u.get F.EPO_CMD_ARG3_ARG3) (u.get F.EPO_CMD_ARG2_ARG2)
      (u.snapSet (u.flag F.EPO_CMD_ARG0_LIST) first count = none ∨ tc < 4 ∨ 7 < tc →
        exec (.snapArm f) s = .next ((epoRes u old 2).settle 5 f {}))
      ∧ (∀ objs, u.snapSet (u.flag F.EPO_CMD_ARG0_LIST) first count = some objs → 4 ≤ tc → tc ≤ 7 → u.flag F.EPO_CMD_ARG1_WHEN = false →
        ((List.range 8).find? u.snapFree = none →
          exec (.snapArm f) s = .next ((epoRes (u.bump F.EPO_CNT_SNAPEXH) old 1).settle 5 f { st := .nores }))
        ∧ (∀ k, (List.range 8).find? u.snapFree = some k → u.ns < at_ →
          ∃ y : Snap, exec (.snapArm f) s = .next ((epoRes (u.onEpo fun e => { e with snaps := Tbl.put e.snaps k y }) k 0).settle 5 f {})
            ∧ y.objs = ascending objs ∧ y.tc = tc ∧ y.instant = .time at_ ∧ y.copied = false ∧ y.id = u.get F.EPO_CMD_ARG4_ARG4)))
    ∧ (wordOf f % 8 = 4 →
      (u.snapFree m = true → exec (.snapCancel f) s = .next ((epoRes u old 4).settle 5 f {}))
      ∧ (∀ y, u.snapFree m = false → Tbl.find? u.epo.snaps m = some y → y.copied = true → exec (.snapCancel f) s =
        .next ((epoRes u old 3).settle 5 f {}))
      ∧ (∀ y, u.snapFree m = false → Tbl.find? u.epo.snaps m = some y → y.copied = false → exec (.snapCancel f) s =
        .next ((epoRes (u.onEpo fun e => { e with snaps := Tbl.erase e.snaps m }) old 0).settle 5 f {}))))
  ∧ (∀ (s : State) (f : Frame), mgtRefused s.hubNum f = true ∨ f.pay.length ≠ 20 ∨ s.winOf (beAt f.pay 2 6) (beAt f.pay 8 4) = none →
    exec (.bcopy f) s = .next (s.settle 5 f { st := .ur }))
  ∧ (∀ (s : State) (f : Frame) (b : BulkBuf) (c : InitClass),
    let p := f.pay
    mgtRefused s.hubNum f = false → p.length = 20 →
    s.winOf (beAt p 2 6) (beAt p 8 4) = some (.bulk b) → beAt p 2 6 < 2 ^ 36 → 1 ≤ beAt p 8 4 → beAt p 8 4 ≤ 2 ^ 20 → beAt p 12 6 / 2 ^ 40 < 254 →
    s.reachable (beAt p 12 6 / 2 ^ 40) = true → 8 ≤ beAt p 18 1 / 16 → beAt p 18 1 / 16 ≤ 11 → beAt p 1 1 = 0 → beAt p 18 1 % 16 = 0 → beAt p 19 1 = 0 →
    classOf s.hubNum f.src f.init = some c →
    (∀ r, s.refusal c 4 (beAt p 2 6) (beAt p 8 4) .r = some r → exec (.bcopy f) s = .next (s.settle 5 f { st := .viol, reason := r }))
    ∧ (s.refusal c 4 (beAt p 2 6) (beAt p 8 4) .r = none → 4 ≤ s.epo.copies.length →
      exec (.bcopy f) s = .next ((s.bump F.EPO_CNT_BCEXH).settle 5 f { st := .nores }))
    ∧ (s.refusal c 4 (beAt p 2 6) (beAt p 8 4) .r = none → s.epo.copies.length < 4 →
      exec (.bcopy f) s = .next ((s.take f).onEpo fun e => { e with copies := e.copies ++
        [{ req := f, src := beAt p 2 6, len := beAt p 8 4, dst := beAt p 12 6, tc := beAt p 18 1 / 16 }] })))
  ∧ ∀ (s : State) (c : Copy) (rest : List Copy), s.epo.copies = c :: rest →
    let n := min (c.len - c.sent) (1024 - (c.dst + c.sent) % 1024)
    let u := s.sendWrite 5 { tt := .wr, tc := c.tc, dst := (c.dst + c.sent) / 2 ^ 40 % 256, init := 3, pst := true, addr := c.dst + c.sent, len := n,
                             pay := Mem.readN s.bulk (c.src + c.sent) n }
    (c.sent < c.len → (c.dst + c.sent) / 1024 = (c.dst + c.sent + n - 1) / 1024)
    ∧ (s.lossyCredit 5 (cdiv (n + 52) 64) = false → exec .bcopyFrameSend s = .next s)
    ∧ (s.lossyCredit 5 (cdiv (n + 52) 64) = true → c.len ≤ c.sent + n → exec .bcopyFrameSend s =
      .next ((u.onEpo fun e => { e with copies := rest }).answer 5 c.req { st := .ok, data := be 4 c.len }))
    ∧ (s.lossyCredit 5 (cdiv (n + 52) 64) = true → c.sent + n < c.len → exec .bcopyFrameSend s =
      .next (u.onEpo fun e => { e with copies := { c with sent := c.sent + n } :: rest }))

/-- SNAPSHOT_INSTANT, SNAPREQ, SNAPARM, SNAPNACK, SNAPREQ_TIMEOUT and SCHEDULE_DUE (R209 to R213, R391, R505): a slot whose instant is
reached is marked as copied and its set sent in ascending order, at most 82 objects a frame, the last marked; a standby sends none; the
master passes a good SNAPREQ to the ring while no other runs, and refuses it with BUSY while one does; a hub arms the sets that name it
and refuses one for which it has no slot, and no other; the master notes a refusal that names its snapshot and answers with those it
has when the time is over; an entry of the schedule acts once in the seconds that its period and offset name, by its kind.
Rests on assumption-log entries 21, 25, 42, 62, 63, 64, 65, 109, 139 and 145. -/
def Obligations.SnapshotsAndScheduleAct : Prop :=
  (∀ (s : State) (k : Nat) (x : Snap), Tbl.find? s.epo.snaps k = some x →
    let u := s.onEpo fun e => { e with snaps := Tbl.put e.snaps k { x with copied := true } }
    (x.copied = true ∨ s.instantReached x.instant = false → exec (.snapshotInstant k) s = .next s)
    ∧ (x.copied = false → s.instantReached x.instant = true → exec (.snapshotInstant k) s = .next (u.takeSnap x false))
    ∧ (s.standby = true → u.takeSnap x false = u) ∧ (ascending x.objs).Pairwise (· < ·) ∧ (∀ i, i ∈ ascending x.objs ↔ i ∈ x.objs)
    ∧ ∀ o i t, s.standby = false → x.objs = [i] → s.obj? i = some o → x.instant = .time t → x.toHost = false → u.takeSnap x false =
      u.sendPub x.tc false x.dest (State.pubPayload 0 3 x.id 0 (t / 10 ^ 9) (t % 10 ^ 9) [(i, o)]))
  ∧ (∀ (s : State) (f : Frame),
    let p := f.pay
    let u := s.take f
    let e := slice p 22 5
    let objs? := u.snapSet (bit (beAt e 1 1) 0) (beAt e 2 2) (beAt e 4 1 + 1)
    (mgtRefused s.hubNum f = true ∨ s.master = false ∨ p.length ≠ 22 + 5 * beAt p 20 2 ∨ beAt p 20 2 = 0 ∨ 200 < beAt p 20 2 →
      exec (.snapreq f) s = .next (s.settle 7 f { st := .ur }))
    ∧ (mgtRefused s.hubNum f = false → s.master = true → p.length = 22 + 5 * beAt p 20 2 → 1 ≤ beAt p 20 2 → beAt p 20 2 ≤ 200 → 4 ≤ beAt p 7 1 →
      beAt p 7 1 ≤ 7 → beAt p 18 2 ≤ 4095 → beAt p 4 1 ≤ 1 → beAt p 6 1 ≤ 7 → beAt p 1 1 = 0 →
      (s.epo.ringSnap ≠ none → exec (.snapreq f) s = .next (s.settle 7 f { st := .busy }))
      ∧ (s.epo.ringSnap = none → beAt p 20 2 = 1 → beAt e 0 1 ≠ s.hubNum →
        let v := u.sendPosted 7 { tt := .mgt, tc := 2, dst := 0xFE, init := 0, addr := fabAddr 0xFE 0xF (0xFFE * 2 ^ 24), len := p.length,
                                  pay := [0x11, 0] ++ p.drop 2 }
        exec (.snapreq f) s = .next (v.onEpo fun e => { e with ringSnap := some { req := f, id := beAt p 2 2, since := v.up, answers := [] } })))
    ∧ (mgtRefused s.hubNum f = false → beAt p 20 2 = 1 →
      (beAt e 0 1 ≠ u.hubNum → exec (.snaparm f) s = .next u)
      ∧ (beAt e 0 1 = u.hubNum → beAt p 4 1 = 0 → 4 ≤ beAt p 7 1 → beAt p 7 1 ≤ 7 → ∀ objs, objs? = some objs →
        (∀ k, (List.range 8).find? u.snapFree = some k → u.ns < State.timeOf (beAt p 8 6) (beAt p 14 4) →
          ∃ y : Snap, exec (.snaparm f) s = .next (u.onEpo fun e => { e with snaps := Tbl.put e.snaps k y })
          ∧ y.objs = ascending objs ∧ y.tc = beAt p 7 1 ∧ y.instant = .time (State.timeOf (beAt p 8 6) (beAt p 14 4)) ∧ y.copied = false ∧ y.id = beAt p 2 2)
        ∧ ((List.range 8).find? u.snapFree = none → u.passive = true → exec (.snaparm f) s = .next (u.bump F.EPO_CNT_SNAPEXH))
        ∧ ((List.range 8).find? u.snapFree = none → u.passive = false → exec (.snaparm f) s =
          .next ((u.bump F.EPO_CNT_SNAPEXH).sendPosted 7 { tt := .mgt, tc := 2, dst := f.src, init := 0, addr := fabAddr f.src 0xF 0, len := 5,
                                                            pay := [0x12, 0] ++ be 2 (beAt p 2 2) ++ be 1 1 }))))
    ∧ (∀ r, s.epo.ringSnap = some r → mgtRefused s.hubNum f = false → (r.id ≠ beAt p 2 2 → exec (.snapnack f) s = .next u)
      ∧ (r.id = beAt p 2 2 → r.answers.length < 200 → exec (.snapnack f) s =
        .next (u.onEpo fun e => { e with ringSnap := some { r with answers := r.answers ++ [(f.src, beAt p 4 1)] } })))
    ∧ (∀ r, s.epo.ringSnap = some r →
      (r.since + s.get F.IMG_MC_CFG_ARMTMO * 1000000 ≤ s.up → exec .snapreqTimeout s = .next ((s.onEpo fun e => { e with ringSnap := none }).answer 7 r.req
        { st := .ok, data := r.answers.flatMap fun a => be 1 a.1 ++ be 1 a.2 }))
      ∧ (s.up < r.since + s.get F.IMG_MC_CFG_ARMTMO * 1000000 → exec .snapreqTimeout s = .next s)))
  ∧ ∀ (s : State) (k : Nat) (e : SchedEntry), Tbl.find? s.img.sched k = some e →
    let v := s.onImg fun g => { g with schedDone := Tbl.put g.schedDone k s.sec }
    ((e.period = 0 ∨ (s.sec + e.period - e.offset % e.period) % e.period ≠ 0 ∨ Tbl.find? s.img.schedDone k = some s.sec) →
      exec (.scheduleDue k) s = .next s)
    ∧ (e.period ≠ 0 → (s.sec + e.period - e.offset % e.period) % e.period = 0 → Tbl.find? s.img.schedDone k ≠ some s.sec →
      (∀ x, e.kind = 1 → s.runningTest = some x → exec (.scheduleDue k) s =
        .next ((v.set F.MGT_STAT_LULL 0 1).onMgt fun m => { m with lullEnd := s.up + e.arg * 1000000000 }))
      ∧ (e.kind = 2 → s.activeTwin = true → exec (.scheduleDue k) s = .next v.requestVeer)
      ∧ (e.kind = 2 → s.activeTwin = false → exec (.scheduleDue k) s = .next v)
      ∧ (e.kind = 3 → s.passive = false → exec (.scheduleDue k) s =
        .next (v.record 2 { kind := 4, src := s.hubNum, aux := k, sec := s.sec, ns := 0 }))
      ∧ (∀ l, e.kind = 4 → Tbl.find? s.epo.lists (e.arg % 64) = some l →
        ((List.range 8).find? s.snapFree = none → exec (.scheduleDue k) s = .next (v.bump F.EPO_CNT_SNAPEXH))
        ∧ (∀ j, (List.range 8).find? s.snapFree = some j → s.standby = true → ∃ x : Snap, exec (.scheduleDue k) s =
          .next (v.onEpo fun g => { g with snaps := Tbl.put g.snaps j x }) ∧ x.objs = ascending l ∧ x.copied = true ∧ x.id = k)
        ∧ (∀ j, (List.range 8).find? s.snapFree = some j → exec (.scheduleDue k) s = .next (v.copySnap j
          { objs := ascending l, tc := 4, toHost := false, dest := 0, hostId := 0, instant := .time (s.sec * 10 ^ 9), id := k } false))))

/-! ### The bridge to far-side buses and the serial ports -/

/-- FAR_SIDE_COMPLETE, FAR_SIDE_TIMEOUT, BRIDGE_SINK_WRITE, BUS_IDLE_DISPATCH, POLL_DUE, PREFETCH_AGE, DLOG_CLEAR and UART_CHAR_RX
(R308 to R333): a transaction that ends OK adds its bytes to the access, and the next one starts until all are done; a Modbus response
is good when it has no marked character, its CRC, address, function and length are right, and one shorter than 4 characters or with a
wrong CRC is the code 0x81, which is tried again as often as RETRY says, a write only under RETRYW; a NACK, a lost arbitration and a
stuck line are counted or marked and fail the access with their code; an echo that differs does on a half-duplex port; an answer
that does not begin in its time is the code 0x80, 0x93 or 0xA0 by the bus, and none before; an idle bus that was quiet for its time
takes a starved poll first, then its queue, then a due poll, and one that is held or not yet quiet takes none; a due poll waits,
unless it is busy or already due; a buffer of its age is discarded; DLOG_CLEAR empties the log; the characters of a port enter its FIFO of 256
with their marks, one that finds it full is lost and counted.
Rests on assumption-log entries 6, 14, 21, 83, 93, 94, 96, 97, 98, 100, 101, 136 and 145. -/
def Obligations.FarSideAccessesFollowTheBus : Prop :=
  (∀ (s : State) (b d : Nat) (data : List Byte) (a : BrgAcc), (s.bus b).cur = some a → 32 ≤ b →
    let k := s.winKind a.win
    let x := if 32 ≤ b ∧ b < 40 then (s.bump F.SQn_STAT_XFERS (b - 32)).touchLine b else s
    let n := { a with done := a.done + a.chunk, got := a.got ++ slice data 0 a.chunk, tries := 0 }
    (k = 5 ∨ k = 6 ∧ d = 0 → a.write = false →
      (a.abort = none → a.len ≤ a.done + a.chunk → exec (.farSideComplete b d data) s = .next (x.accessGood b n))
      ∧ (a.abort = none → a.done + a.chunk < a.len → exec (.farSideComplete b d data) s = .next (x.startChunk b n))
      ∧ ∀ q, a.abort = some q → exec (.farSideComplete b d data) s = .next ((x.farDone b n 0 []).abortDone q (a.done + a.chunk)))
    ∧ (k = 6 → a.abort = none →
      (d = 0x90 ∨ d = 0x91 → exec (.farSideComplete b d data) s = .next ((s.bump F.ICn_STAT_NACKS (b - 40)).accessBad b a d))
      ∧ (d = 0x92 → exec (.farSideComplete b d data) s = .next ((s.bump F.ICn_STAT_ARBLOST (b - 40)).accessBad b a d))
      ∧ (d = 0x94 → exec (.farSideComplete b d data) s = .next ((s.set F.ICn_STAT_STUCK (b - 40) 1).accessBad b a d)))
    ∧ (∀ y f, a.src = .fabric f → f.pst = false → State.accessBad y b a d =
      (y.farDone b a (farStatus d).code []).answer 6 f { st := farStatus d, data := be 2 a.done ++ be 1 d ++ [0] }))
  ∧ (∀ (s : State) (b d : Nat) (data : List Byte) (a : BrgAcc), (s.bus b).cur = some a → b < 32 → s.flag F.SPnn_CFG_MBRTU b = true → s.winKind a.win ≤ 3 →
    let chars := Tbl.getD s.brg.rx b []
    let r := chars.map (BitVec.ofNat 8)
    let v := (s.onBrg fun g => { g with rx := Tbl.put g.rx b [] }).set F.SPnn_STAT_RXLVL b 0
    chars ≠ [] → a.abort = none → d ≠ 0x82 → d ≠ 0x85 → (∀ c, c ∈ chars → bit c 9 = false ∧ bit c 10 = false) →
    (4 ≤ r.length → crc16 r = 0 → beAt r 0 1 = beAt (s.farRequest a) 0 1 → beAt r 1 1 = beAt (s.farRequest a) 1 1 → beAt r 1 1 < 128 →
      r.length = State.rtuLength (s.winKind a.win) a.chunk a.write → (a.write = true ∨ beAt r 2 1 + 5 = r.length) →
      exec (.farSideComplete b d data) s = .next (v.farGood b a (State.rtuData (s.winKind a.win) a.chunk a.write r)))
    ∧ (r.length < 4 ∨ crc16 r ≠ 0 → (a.write = false ∨ s.flag F.BRG_WIN_CFG_RETRYW a.win = true) →
      (a.tries < s.get F.BRG_WIN_CFG_RETRY a.win →
        exec (.farSideComplete b d data) s = .next ((v.bump F.BRG_CNT_RETRY).startChunk b { a with tries := a.tries + 1 }))
      ∧ (s.get F.BRG_WIN_CFG_RETRY a.win ≤ a.tries → exec (.farSideComplete b d data) s = .next (v.accessBad b a 0x81)))
    ∧ (s.flag F.SPnn_CFG_ECHO b = true → s.flag F.SPnn_CFG_DUPLEX b = false →
      exec (.farSideComplete b 0x85 data) s = .next ((v.bump F.SPnn_CNT_ECHO b).accessBad b a 0x85)))
  ∧ (∀ (s : State) (b : Nat) (a : BrgAcc), (s.bus b).cur = some a →
    let limit := if 40 ≤ b ∧ b < 48 then s.get F.ICn_CFG_STRTMO (b - 40) * 10000 else s.get F.BRG_WIN_TMO_RSPTMO a.win * 100000
    (s.up < a.at_ + limit → exec (.farSideTimeout b) s = .next s)
    ∧ (a.at_ + limit ≤ s.up →
      (b < 32 → Tbl.getD s.brg.rx b [] = [] → exec (.farSideTimeout b) s = .next (s.farFail b a 0x80))
      ∧ (40 ≤ b → b < 48 → exec (.farSideTimeout b) s = .next (s.farFail b a 0x93))
      ∧ (48 ≤ b → exec (.farSideTimeout b) s = .next (s.farFail b a 0xA0)))
    ∧ exec (.busIdleDispatch b) s = .next s)
  ∧ (∀ (s : State) (b : Nat),
    (s.passive = true ∨ s.twn.veering = true ∨ s.quietFor b (s.quietTime b) = false → exec (.busIdleDispatch b) s = .next s)
    ∧ (s.busHeld b = false → s.quietFor b (s.quietTime b) = true →
      (∀ a rest, s.duePoll b = none → (s.bus b).queue = a :: rest →
        exec (.busIdleDispatch b) s = .next ((s.setBus b { s.bus b with queue := rest }).startAccess b a))
      ∧ (∀ e, s.duePoll b = some e →
        ((s.pollOf e).due + s.get F.BRG_BUS_CFG_PSTARVE b * 1000000 < s.up →
          exec (.busIdleDispatch b) s = .next ((s.bump F.BRG_CNT_POLLOVD).startPoll b e))
        ∧ (s.up ≤ (s.pollOf e).due + s.get F.BRG_BUS_CFG_PSTARVE b * 1000000 → (s.bus b).queue = [] →
          exec (.busIdleDispatch b) s = .next (s.startPoll b e)))))
  ∧ (∀ (s : State) (h : Handed) (l : List Handed), s.epo.handed = h :: l → h.kind = 11 → s.flag F.BRG_SK_CFG_EN h.index = false →
    exec .bridgeSinkWrite s = .next (s.onEpo fun e => { e with handed := l }))
  ∧ (∀ (s : State) (h : Handed) (l : List Handed), s.epo.handed = h :: l → h.kind = 11 → s.flag F.BRG_SK_CFG_EN h.index = true →
    let w := s.get F.BRG_SK_CFG_WIN h.index
    ∀ q, (s.bus (s.winBus w)) = q → q.queue = [] → s.brg.pf = [] → ∃ t a, exec .bridgeSinkWrite s = .next t ∧ (t.bus (s.winBus w)).queue = [a]
      ∧ a.win = w ∧ a.off = s.get F.BRG_SK_OFF_OFF h.index ∧ a.write = true ∧ a.data = be (s.get F.BRG_SK_CFG_LEN h.index) h.value ∧ a.qseq = q.nextSeq
      ∧ t.epo.handed = l)
  ∧ (∀ (s : State) (e : Nat), let p := s.pollOf e
    (s.flag F.BRG_PL_CFG_EN e = true → p.busy = false → s.flag F.BRG_PL_STAT_DUE e = false → p.due ≤ s.up → e < 512 → ∃ t, exec (.pollDue e) s = .next t
      ∧ t.flag F.BRG_PL_STAT_DUE e = true ∧ t.pollOf e = p ∧ s.OnlyIn [.regs, .brg] t ∧ s.WordsBut [F.BRG_PL_STAT_DUE.key e] t)
    ∧ (s.flag F.BRG_PL_CFG_EN e = false ∨ p.busy = true ∨ s.flag F.BRG_PL_STAT_DUE e = true ∨ s.up < p.due → exec (.pollDue e) s = .next s))
  ∧ (∀ (s : State) (k : Nat) (p : PfBuf), Tbl.find? s.brg.pf k = some p →
    let age := s.get F.BRG_WIN_TMO_PFAGE p.win * 1000000
    (p.data.isSome = true → p.filled + age ≤ s.up → exec (.prefetchAge k) s = .next (s.pfDiscard k 0))
    ∧ (p.data = none ∨ s.up < p.filled + age → exec (.prefetchAge k) s = .next s))
  ∧ (∀ (s : State) (f : Frame) (x : RegRow), s.WritesReg f F.BRG_DLOG_STAT_CLEAR 0 x → bit (wordOf f) 8 = true →
    exec (.dlogClear f) s = .next ((Sys2Proof.Machine.dlogClear (s.storeReg x (regOff f.offset) (wordOf f))).settle 5 f {})
    ∧ ∀ u : State, (Sys2Proof.Machine.dlogClear u).brg = { u.brg with dlog := [], dseq := 0 })
  ∧ ∀ (s : State) (p c : Nat) (fr pa br : Bool),
    let v := s.touchLine p
    let l := Tbl.getD s.brg.rx p []
    (s.flag F.SPnn_CFG_EN p = false → exec (.uartCharRx p c fr pa br) s = .next s)
    ∧ (s.flag F.SPnn_CFG_EN p = true → s.flag F.SPnn_CFG_MODE9 p = false → fr = false → pa = false → br = false →
      (l.length < 256 → exec (.uartCharRx p c fr pa br) s =
        .next ((v.onBrg fun g => { g with rx := Tbl.put g.rx p (l ++ [c % 512]) }).set F.SPnn_STAT_RXLVL p (l.length + 1)))
      ∧ (256 ≤ l.length → exec (.uartCharRx p c fr pa br) s = .next ((v.bump F.SPnn_CNT_OVFL p).set F.SPnn_STAT_OVFL p 1)))
    ∧ (s.flag F.SPnn_CFG_EN p = true → s.flag F.SPnn_CFG_MODE9 p = false → fr = true → pa = false → br = false →
      l.length < 256 → exec (.uartCharRx p c fr pa br) s =
        .next (((v.bump F.SPnn_CNT_FRAME p).onBrg fun g => { g with rx := Tbl.put g.rx p (l ++ [c % 512 + 512]) }).set F.SPnn_STAT_RXLVL p (l.length + 1)))
    ∧ (s.flag F.SPnn_CFG_EN p = true → s.flag F.SPnn_CFG_MODE9 p = true → s.flag F.SPnn_CFG_ADRFILT p = true → bit c 8 = false →
      p ∈ s.brg.skip → exec (.uartCharRx p c fr pa br) s = .next v)

/-! ### Field pins and virtual wires -/

/-- PIN_OUTPUT_CHANGE, PIN_FILTERED_EDGE, READBACK_MISMATCH, PULSE_END, BANK_SUPPLY_LOSS and BANK_SUPPLY_RESTORE (R217 to R233, R330, R545):
a change handed to a pin becomes its GPO source and the owner decision follows; a pad level becomes RAW at once and IN when it has
held for the filter's time, and an accepted level counts the edges that EDGE names and makes due the polls it triggers; a mismatch
that has held longer than RBDLY at a driving pin is marked and counted once and reported as FAULT; a pulse ends after PW; a bank that
loses its supply drives nothing and one that regains it drives again if the load admitted it. The highest level wins a pin, the earlier
claimant among equals; a pin whose bank is off, or to which no claimant drives, is not driven.
Rests on assumption-log entries 6, 70, 71, 74, 157, 159 and 191. -/
def Obligations.PinsFollowTheirOwners : Prop :=
  (∀ (s : State) (p : Nat) (c : Option Bool), let q := s.pin p
    (s.get F.FPn_CFG_FUNC p = 3 → exec (.pinOutputChange p c) s = .next ((s.setPin p { q with ctrl := c }).redrive p))
    ∧ (∀ h l o, s.get F.FPn_CFG_FUNC p ≠ 3 → s.epo.handed = h :: l → h.kind = 8 → h.index = p → s.obj? h.obj = some o →
      exec (.pinOutputChange p c) s = .next (((s.onEpo fun e => { e with handed := l }).gpoSource p (truth o.type h.value)).sinkOk h.obj))
    ∧ (s.get F.FPn_CFG_FUNC p ≠ 3 → s.epo.handed = [] →
      exec (.pinOutputChange p c) s = .next (if s.unboundGpo p then s.gpoSource p (s.pinBit F.FPN_OUT_PIN p) else s.redrive p))
    ∧ (q.pulse = true → q.pulseAt + s.get F.FPn_SEL_PW p * 1000 ≤ s.up → exec (.pulseEnd p) s = .next ((s.setPin p { q with pulse := false }).redrive p))
    ∧ (q.pulse = false ∨ s.up < q.pulseAt + s.get F.FPn_SEL_PW p * 1000 → exec (.pulseEnd p) s = .next s)
    ∧ (s.get F.FPn_CFG_RBDLY p = 0 ∨ s.padDrive p = none ∨ q.mism = true ∨ s.up < q.driveAt + s.get F.FPn_CFG_RBDLY p * 5 →
      exec (.readbackMismatch p) s = .next s)
    ∧ (∀ v, s.get F.FPn_CFG_RBDLY p ≠ 0 → s.padDrive p = some v → s.pinBit F.FPN_RAW_PIN p = (!v != s.flag F.FPn_CFG_INV p) → q.mism = false →
      q.driveAt + s.get F.FPn_CFG_RBDLY p * 5 + 5 ≤ s.up → q.rawAt + 5 ≤ s.up → exec (.readbackMismatch p) s =
        .next ((((s.setPin p { q with mism := true }).setPinBit F.FPN_MISM_PIN p true).bump F.FPn_STAT_MISM p).pinFault p)))
  ∧ (∀ (s : State) (p : Nat) (pad : Bool),
    let lv := pad != s.flag F.FPn_CFG_INV p
    let q := { s.pin p with rawAt := s.up, mism := false }
    let raw := if s.pinBit F.FPN_RAW_PIN p = lv then s else (s.setPinBit F.FPN_RAW_PIN p lv).setPin p q
    let at_ := (raw.pin p).rawAt + raw.filterTime p
    (raw.pinBit F.FPN_IN_PIN p = lv ∨ raw.up < at_ → exec (.pinFilteredEdge p pad) s = .next raw)
    ∧ (raw.pinBit F.FPN_IN_PIN p ≠ lv → at_ ≤ raw.up →
      let u := (raw.setPinBit F.FPN_IN_PIN p lv).setPin p { raw.pin p with edgeNs := raw.ns }
      let hit := bit (u.get F.FPn_CFG_EDGE p) (if lv then 0 else 1)
      let n := if hit then u.set F.FPn_EDGES_COUNT p (u.get F.FPn_EDGES_COUNT p + 1) else u
      let v := (n.pinUpdates p lv hit).wireSource 1 p lv
      (exec (.pinFilteredEdge p pad) s = .next (((List.range 512).filter fun e =>
        decide (v.get F.BRG_PL_CFG_TRIGPIN e = p) && bit (v.get F.BRG_PL_CFG_TRIGEDGE e) (if v.pinBit F.FPN_IN_PIN p then 0 else 1)).foldl
          (fun w e => w.pollDue e w.up) v))
      ∧ (s.epo.objs = [] → n.pinUpdates p lv hit = n)))
  ∧ (∀ (s : State) (b : Nat),
    let lo := s.set F.FPN_BANK_CFG_VOK b 0
    let hi := s.set F.FPN_BANK_CFG_VOK b 1
    (s.fpn.on = true → exec (.bankSupplyLoss b) s =
      .next (((lo.onFpn fun f => { f with banks := setAt f.banks b false }).note 0x39 5 [b]).redriveRange (32 * b) 32))
    ∧ (s.fpn.on = false → exec (.bankSupplyLoss b) s = .next lo)
    ∧ (s.fpn.on = true → s.fpn.admitted.getD b false = true → exec (.bankSupplyRestore b) s =
      .next ((hi.onFpn fun f => { f with banks := setAt f.banks b true }).redriveRange (32 * b) 32))
    ∧ (s.fpn.on = false ∨ s.fpn.admitted.getD b false = false → exec (.bankSupplyRestore b) s = .next hi))
  ∧ (∀ (l : List (Nat × Bool)) (w : Nat × Bool), State.winner l = some w ↔
    ∃ i : Nat, l[i]? = some w ∧ (∀ (j : Nat) (c : Nat × Bool), l[j]? = some c → c.1 ≤ w.1) ∧ ∀ (j : Nat) (c : Nat × Bool), j < i → l[j]? = some c → c.1 < w.1)
  ∧ ∀ (s : State) (p : Nat),
    (s.padReset p = true → s.decidePin p = (none, false))
    ∧ (s.padReset p = false → (s.pin p).force = none → s.claimants p = [] → s.decidePin p = (none, false))
    ∧ (∀ v, s.padReset p = false → (s.pin p).force = some v → s.get F.FPn_CFG_FUNC p ≠ 3 →
      s.flag F.FPn_CFG_OD p = false → s.decidePin p = (some (v != s.flag F.FPn_CFG_INV p), false))

/-- VW, VW_FRAME_SEND, VW_REFRESH, VW_APPLY and VW_SLOT_TIMEOUT (R234 to R240): the waiting frame of a block leaves with the stamp of its
first change, 8 bytes on TC0 of initiator 1, and the time of the block's last frame is noted; a block quiet for REFRESH is refreshed; a frame that matches no enabled slot is counted;
one whose instant has passed, or that is unlocked, is applied at once after the slot's older ones and counted late, and else waits; the
oldest waiting state is applied at its instant and not before; a slot with no frame for its time is marked, counted once and set to its
safe wires under SAFEMODE. Applying a state writes the slot's word.
Rests on assumption-log entries 21, 72, 73 and 192. -/
def Obligations.VirtualWiresFollowTheirSource : Prop :=
  (∀ (s : State) (b : Nat),
    (∀ q, Tbl.find? s.fpn.vwo b = some q →
      exec (.vwFrameSend b) s = .next ((s.onFpn fun f => { f with vwo := Tbl.erase f.vwo b }).sendVw b q.stamp q.locked false)
      ∧ exec (.vwRefresh b) s = .next s)
    ∧ (Tbl.find? s.fpn.vwo b = none → exec (.vwFrameSend b) s = .next s)
    ∧ (∀ last, last = Tbl.getD s.fpn.vwoAt b s.fpn.onAt → Tbl.find? s.fpn.vwo b = none → s.flag F.FPN_VWO_CFG_EN b = true →
      (last + s.get F.FPN_VWO_CFG_REFRESH b * 1000000 ≤ s.up → exec (.vwRefresh b) s = .next (s.sendVw b s.nsec s.timeLocked true))
      ∧ (s.up < last + s.get F.FPN_VWO_CFG_REFRESH b * 1000000 → exec (.vwRefresh b) s = .next s))
    ∧ (s.flag F.FPN_VWO_CFG_EN b = false → exec (.vwRefresh b) s = .next s)
    ∧ (∀ stamp locked refresh, s.flag F.FPN_VWO_CFG_DSTKIND b = false → s.sendVw b stamp locked refresh =
      (s.onFpn fun f => { f with vwoAt := Tbl.put f.vwoAt b s.up }).sendPosted 10
      { tt := .vw, tc := 0, dst := s.get F.FPN_VWO_CFG_DEST b % 256, init := 1, len := 8, addr := s.get F.FPN_VWO_CFG_DEST b % 256 * 2 ^ 40 + 0 + b,
        pay := be 4 (s.get F.FPN_VWO_STATE_WIRES b) ++ be 4 (b2n refresh * 2 ^ 31 + b2n (!locked) * 2 ^ 30 + stamp % 2 ^ 30) }))
  ∧ (∀ (s : State) (f : Frame),
    let slots := (List.range 64).filter fun k => s.flag F.FPN_VWI_CFG_EN k && decide (s.get F.FPN_VWI_CFG_SRC k = f.src)
      && decide (s.get F.FPN_VWI_CFG_BLOCK k = f.addr % 16)
    (classOf s.hubNum f.src f.init = none ∨ f.pst = false → exec (.vw f) s = .next (s.settle 10 f { st := .ur }))
    ∧ (classOf s.hubNum f.src f.init ≠ none → f.pst = true →
      (slots = [] → exec (.vw f) s = .next ((s.take f).bump F.FPN_CNT_VWUNK)) ∧ (∀ k, slots = [k] → exec (.vw f) s = .next ((s.take f).slotFrame k f.pay))))
  ∧ (∀ (s : State) (k : Nat) (pay : List Byte),
    let x := beAt pay 4 4
    let a := (if x % 2 ^ 30 ≤ s.nsec then s.sec else s.sec - 1) * 10 ^ 9 + x % 2 ^ 30 + s.get F.FPN_VWI_CFG_LAT k * 100
    let u := (s.set F.FPN_VWI_STAT_TIMEDOUT k 0).onFpn fun f => { f with vwiAt := Tbl.put f.vwiAt k s.up }
    (∀ old, old = (Tbl.getD s.fpn.vwi k []).foldl (fun s e => s.applyWires k e.2) u → a < s.ns ∨ bit x 30 = true ∨ s.timeLocked = false →
      s.slotFrame k pay = (((old.onFpn fun f => { f with vwi := Tbl.erase f.vwi k }).applyWires k (beAt pay 0 4)).bump F.FPN_CNT_VWLATE).set F.FPN_VWI_STAT_LATE k 1)
    ∧ (s.ns ≤ a → bit x 30 = false → s.timeLocked = true →
      s.slotFrame k pay = u.onFpn fun f => { f with vwi := Tbl.put f.vwi k (Tbl.getD f.vwi k [] ++ [(a, beAt pay 0 4)]) }))
  ∧ ∀ (s : State) (k : Nat),
    (∀ a w rest, Tbl.getD s.fpn.vwi k [] = (a, w) :: rest →
      (a ≤ s.ns → exec (.vwApply k) s = .next ((s.onFpn fun f => { f with vwi := Tbl.put f.vwi k rest }).applyWires k w))
      ∧ (s.ns < a → exec (.vwApply k) s = .next s))
    ∧ (Tbl.getD s.fpn.vwi k [] = [] → exec (.vwApply k) s = .next s)
    ∧ (s.flag F.FPN_VWI_CFG_EN k = false ∨ s.flag F.FPN_VWI_STAT_TIMEDOUT k = true ∨ s.up < Tbl.getD s.fpn.vwiAt k s.fpn.onAt + s.slotTimeout k →
      exec (.vwSlotTimeout k) s = .next s)
    ∧ (s.flag F.FPN_VWI_CFG_EN k = true → s.flag F.FPN_VWI_STAT_TIMEDOUT k = false → Tbl.getD s.fpn.vwiAt k s.fpn.onAt + s.slotTimeout k ≤ s.up →
      let u := (s.bump F.FPN_CNT_VWTMO).set F.FPN_VWI_STAT_TIMEDOUT k 1
      (s.flag F.FPN_VWI_CFG_SAFEMODE k = false → exec (.vwSlotTimeout k) s = .next u)
      ∧ (s.flag F.FPN_VWI_CFG_SAFEMODE k = true → k < 64 → exec (.vwSlotTimeout k) s = .next (u.applyWires k (s.get F.FPN_VWI_SAFE_WIRES k))))
    ∧ ∀ w, s.get F.FPN_VWI_STATE_WIRES k = w % 2 ^ 32 → s.applyWires k w = s.set F.FPN_VWI_STATE_WIRES k w

/-! ### Programmable I/O engines -/

/-- NOP, GOTO, LOOP, CASE, UNTIL, STOP and RESERVED_OPCODE_FETCH (R246 to R250, R270): an engine that does not run, or whose word has
another opcode, does nothing; each idle step of a PAUSE counts down PAUSELEFT; a fetch beyond the window faults with 1 and a word that is
not allowed with 2; a false condition takes one step without effect and without PAUSE; a double-bit error faults with 3; a jump of
LOOP or CASE beyond the window faults with 1; LOOP counts down, sets Z and N, and jumps while the result is not 0; UNTIL ends
when the level is there and else stalls; STOP halts the engine after itself and sets SELF, and EVT as it says.
Rests on assumption-log entries 16, 70, 76, 77, 81 and 196. -/
def Obligations.EnginesFollowControlFlow : Prop :=
  (∀ (s : State) (e op : Nat) (act : State → Nat → Nat → Nat → State),
    let pc := s.get F.PEnn_PC_PC e
    let w := s.iword e pc
    let left := s.get F.PEnn_PC_PAUSELEFT e
    ((s.eng e).running = false ∨ s.blockBusy 6 = true → s.instr e op act = s)
    ∧ ((s.eng e).running = true → s.blockBusy 6 = false → left ≠ 0 → s.instr e op act = s.set F.PEnn_PC_PAUSELEFT e (left - 1))
    ∧ (s.Turns e w → (s.eng e).stalled = none → (s.eng e).seq = none →
      (s.get F.PEnn_IWIN_SIZE e ≤ pc → s.instr e op act = s.engineFault e 1)
      ∧ (pc < s.get F.PEnn_IWIN_SIZE e → w / 2 ^ 26 ≠ op → s.instr e op act = s)
      ∧ (pc < s.get F.PEnn_IWIN_SIZE e → w / 2 ^ 26 = op → s.wordLegal e w = false → s.instr e op act = s.engineFault e 2)
      ∧ (pc < s.get F.PEnn_IWIN_SIZE e → w / 2 ^ 26 = op → s.wordLegal e w = true → s.cond e (bits w 25 22) = false →
        s.instr e op act = s.completeAt e (pc + 1) 0))
    ∧ (s.Runs e op w → s.instr e op act = act s w (bits w 21 18) (pc + 1)))
  ∧ (∀ (s : State) (e pc pause : Nat), (s.eng e).running = true → pause < 16 → e < 64 →
    ∃ t, s.completeAt e pc pause = t ∧ t.get F.PEnn_PC_PC e = pc % 4096 ∧ t.get F.PEnn_PC_PAUSELEFT e = (if (s.eng e).single then 0 else pause)
    ∧ t.eng e = { s.eng e with running := !(s.eng e).single, single := false, stalled := none, seq := none }
    ∧ s.OnlyIn [.regs, .pio] t ∧ s.WordsBut [F.PEnn_PC_PC.key e] t)
  ∧ (∀ (s : State) (e w : Nat), s.Turns e w → (s.eng e).stalled = none → (s.eng e).seq = none →
    (s.get F.PEnn_IWIN_SIZE e ≤ s.get F.PEnn_PC_PC e → ∀ ecc, exec (.reservedOpcodeFetch e ecc) s = .next (s.engineFault e 1))
    ∧ (s.get F.PEnn_PC_PC e < s.get F.PEnn_IWIN_SIZE e → exec (.reservedOpcodeFetch e true) s = .next (s.engineFault e 3)
      ∧ (s.wordLegal e w = false → exec (.reservedOpcodeFetch e false) s = .next (s.engineFault e 2))
      ∧ (s.wordLegal e w = true → exec (.reservedOpcodeFetch e false) s = .next s)))
  ∧ ∀ (s : State) (e op w : Nat), s.Runs e op w →
    let pc := s.get F.PEnn_PC_PC e
    let n := bits w 11 0
    let p := bits w 21 18
    let r := (s.get (State.scratch (bit w 17)) e + 2 ^ 32 - 1) % 2 ^ 32
    let u := (s.set (State.scratch (bit w 17)) e r).setZN e r
    let j := n + s.get F.PEnn_SA_DATA e % 16
    let v := ((s.completeAt e (pc + 1) 0).haltEngine e).set F.PEnn_STATUS_SELF e 1
    (op = 0 → exec (.nopOp e) s = .next (s.completeAt e (pc + 1) p))
    ∧ (op = 1 → exec (.gotoOp e) s = .next (s.completeAt e n p))
    ∧ (op = 2 → r = 0 → exec (.loopOp e) s = .next (u.completeAt e (pc + 1) p))
    ∧ (op = 2 → r ≠ 0 → n < s.get F.PEnn_IWIN_SIZE e → exec (.loopOp e) s = .next (u.completeAt e n p))
    ∧ (op = 2 → r ≠ 0 → s.get F.PEnn_IWIN_SIZE e ≤ n → exec (.loopOp e) s = .next (s.engineFault e 1))
    ∧ (op = 3 → j < s.get F.PEnn_IWIN_SIZE e → exec (.caseOp e) s = .next (s.completeAt e j p))
    ∧ (op = 3 → s.get F.PEnn_IWIN_SIZE e ≤ j → exec (.caseOp e) s = .next (s.engineFault e 1))
    ∧ (op = 4 → bits w 16 14 = 1 → s.pinLevel (bits w 7 0) = bit w 17 → exec (.untilOp e) s = .next (s.completeAt e (pc + 1) p))
    ∧ (op = 4 → bits w 16 14 = 1 → s.pinLevel (bits w 7 0) ≠ bit w 17 → exec (.untilOp e) s = .next (s.stall e 0 false))
    ∧ (op = 17 → exec (.stopOp e) s = .next (if bit w 0 then v.set F.PEnn_STATUS_EVT e 1 else v))

/-- COPY, SETK, CALC, FLAG, SAMPLE, DRIVE, POST, FETCH and AT (R250 to R263): what each writes before it completes at the next
address with its PAUSE. CALC sets Z and N from its 32-bit result and sign-extends the immediate of ADD and SUB only; POST appends CAP to the
receive queue, or sets OVFL and counts at a full one, and clears CAP; FETCH takes the oldest word, stalls on an empty queue and marks
an underrun, or sets QE in its optional form; AT appends a timed action, or stalls on a full queue; DRIVE ignores the positions at or above
OUT_CNT.
Rests on assumption-log entries 83 and 193. -/
def Obligations.EnginesMoveData : Prop :=
  (∀ (s : State) (e op w : Nat), s.Runs e op w →
    let pc := s.get F.PEnn_PC_PC e
    let p := bits w 21 18
    let q := s.eng e
    let f := State.scratch (bit w 17)
    let fn := bits w 16 14
    let b := if bit w 13 then s.get (State.scratch (!bit w 17)) e else if fn ≤ 1 then unsgn 32 (sgn 12 (bits w 11 0)) else bits w 11 0
    let r := State.calcFn fn (s.get f e) b
    let v := State.xform (bits w 7 6) (s.copySrc e (bits w 12 8))
    let n := if bits w 4 0 = 0 then 32 else bits w 4 0
    let m := bits w 15 0 % 2 ^ s.get F.PEnn_PINS_OUT_CNT e
    (op = 12 → bits w 17 13 = 0 → exec (.copyOp e) s = .next ((s.set F.PEnn_SA_DATA e v).completeAt e (pc + 1) p))
    ∧ (op = 12 → bits w 17 13 = 1 → exec (.copyOp e) s = .next ((s.set F.PEnn_SB_DATA e v).completeAt e (pc + 1) p))
    ∧ (op = 12 → bits w 17 13 = 2 → exec (.copyOp e) s = .next (((s.set F.PEnn_CAP_DATA e v).set F.PEnn_CNTS_CAPN e 32).completeAt e (pc + 1) p))
    ∧ (op = 12 → bits w 17 13 = 3 → exec (.copyOp e) s = .next (((s.set F.PEnn_EMT_DATA e v).set F.PEnn_CNTS_EMTN e 32).completeAt e (pc + 1) p))
    ∧ (op = 12 → bits w 17 13 = 6 → exec (.copyOp e) s = .next (s.completeAt e (v % 4096) p))
    ∧ (op = 12 → 16 ≤ bits w 17 13 → exec (.copyOp e) s = .next ((s.mailboxOut e (bits w 17 13 - 16) v).completeAt e (pc + 1) p))
    ∧ (op = 13 → bit w 17 = false → exec (.setkOp e) s = .next ((s.set (State.scratch (bit w 16)) e (bits w 15 0)).completeAt e (pc + 1) p))
    ∧ (op = 13 → bit w 17 = true → exec (.setkOp e) s =
      .next ((s.set (State.scratch (bit w 16)) e (s.get (State.scratch (bit w 16)) e % 2 ^ 16 + bits w 15 0 * 2 ^ 16)).completeAt e (pc + 1) p))
    ∧ (op = 14 → exec (.calcOp e) s = .next (((s.set f e r).setZN e r).completeAt e (pc + 1) p))
    ∧ (op = 15 → bits w 17 16 = 0 → exec (.flagOp e) s = .next ((State.setFlags e (2 ^ bits w 4 0) s).completeAt e (pc + 1) p))
    ∧ (op = 15 → bits w 17 16 = 1 → exec (.flagOp e) s = .next ((State.clearFlags e (2 ^ bits w 4 0) s).completeAt e (pc + 1) p))
    ∧ (op = 15 → bits w 17 16 = 2 → exec (.flagOp e) s = .next ((s.set F.PEnn_STATUS_EVT e 1).completeAt e (pc + 1) p))
    ∧ (op = 8 → exec (.sampleOp e) s = .next ((s.shiftIn e (s.inputs e n) n).completeAt e (pc + 1) p))
    ∧ (op = 9 → bits w 17 16 = 0 → exec (.driveOp e) s = .next ((s.setLatch e (s.get F.PEnn_PINLAT_POS e ||| m)).completeAt e (pc + 1) p))
    ∧ (op = 10 → exec (.postOp e) s = .next ((s.post e (bit w 17) (bit w 16)).completeAt e (pc + 1) p))
    ∧ (∀ x rest, op = 11 → q.tx = x :: rest → exec (.fetchOp e) s = .next (((((s.setEng e { q with tx := rest }).set F.PEnn_EMT_DATA e x.toNat).set
      F.PEnn_CNTS_EMTN e (bits w 5 0)).set F.PEnn_CNTS_QE e 0).completeAt e (pc + 1) p))
    ∧ (op = 11 → q.tx = [] → bit w 16 = true → exec (.fetchOp e) s = .next ((s.set F.PEnn_CNTS_QE e 1).completeAt e (pc + 1) p))
    ∧ (op = 11 → q.tx = [] → bit w 16 = false → exec (.fetchOp e) s = .next (s.stall e 1 (!bit w 17)))
    ∧ (op = 16 → q.taq.length < 16 → exec (.atOp e) s = .next ((s.addAction e
      { stamp := s.get f e, tb := bits w 16 13, actn := bits w 12 10, wake := bit w 9, pin := bits w 4 0 }).completeAt e (pc + 1) p))
    ∧ (op = 16 → 16 ≤ q.taq.length → exec (.atOp e) s = .next (s.stall e 2 false)))
  ∧ (∀ a b, a < 2 ^ 32 → b < 2 ^ 32 → State.calcFn 1 (State.calcFn 0 a b) b = a ∧ State.calcFn 4 (State.calcFn 4 a b) b = a
    ∧ State.xform 1 (State.xform 1 a) = a ∧ State.xform 3 (State.xform 3 a) = a)
  ∧ ∀ (s : State) (e : Nat) (end_ : Bool),
    ((s.eng e).rx.length < 8 → (s.post e end_ false).eng e =
      { s.eng e with rx := (s.eng e).rx ++ [(BitVec.ofNat 32 (s.get F.PEnn_CAP_DATA e), end_)] })
    ∧ (8 ≤ (s.eng e).rx.length → ((s.post e end_ false).eng e).rx = (s.eng e).rx)
    ∧ (e < 64 → (s.post e end_ false).get F.PEnn_CAP_DATA e = 0 ∧ (s.post e end_ false).get F.PEnn_CNTS_CAPN e = 0)

/-- EMIT, CAPTURE, XCHG, STALL_RELEASE and TIMED_ACTION (R249, R251, R252, R259, R263 to R266): a cell instruction goes
on step by step and completes with its last cell; one that needs bits and finds neither EMT nor the queue with any stalls with an
underrun; a stalled instruction is repeated; a due action at the head of the queue acts on its latch position, is counted late if it was
already due behind another, and one that is not due waits, with the due ones behind it late. With OORD the high bits of EMT go out
first, and else the low bits.
Rests on assumption-log entries 16, 76, 83 and 136. -/
def Obligations.EnginesRunCellsAndActions : Prop :=
  (∀ (s : State) (e op w n : Nat), s.Runs e op w →
    let pc := s.get F.PEnn_PC_PC e
    let t := (s.cellStep e w).2
    let r : Out := .next (match (s.cellStep e w).1 with
      | .stall => t
      | .done => t.completeAt e (pc + 1) (bits w 21 18)
      | .run => t.runCells n e w (bits w 21 18) (pc + 1))
    (op = 5 → exec (.emitOp e (n + 1)) s = r) ∧ (op = 6 → exec (.captureOp e (n + 1)) s = r) ∧ (op = 7 → exec (.xchgOp e (n + 1)) s = r)
    ∧ ((s.eng e).stalled.isSome = true → op = 5 → exec (.stallRelease e (n + 1)) s = r)
    ∧ ((s.eng e).stalled = none → exec (.stallRelease e n) s = .next s))
  ∧ (∀ (s : State) (e w : Nat), (s.eng e).seq = none → (s.eng e).tx = [] → w / 2 ^ 26 = 5 → bit w 17 = true →
    s.get F.PEnn_CNTS_EMTN e ≤ s.get F.PEnn_CELLC_DW e →
    s.cellStep e w = (.stall, (s.setEng e { s.eng e with seq := some { left := bits w 5 0, steps := s.phaseLen e 0 } }).stall e 1 true))
  ∧ (∀ (s : State) (e : Nat), s.get F.PEnn_CELLC_DW e + 1 ≤ s.get F.PEnn_CNTS_EMTN e →
    let k := s.get F.PEnn_CELLC_DW e + 1
    let n := s.get F.PEnn_CNTS_EMTN e
    let emt := s.get F.PEnn_EMT_DATA e
    (s.flag F.PEnn_SHAPE_OORD e = true → (s.takeOut e).1 = emt / 2 ^ (n - k) % 2 ^ k)
    ∧ (s.flag F.PEnn_SHAPE_OORD e = false → (s.takeOut e).1 = emt % 2 ^ k))
  ∧ (∀ (s : State) (e : Nat), s.blockBusy 6 = false →
    ((s.eng e).taq = [] → exec (.timedAction e) s = .next s)
    ∧ (∀ a rest, (s.eng e).taq = a :: rest → s.due a = false → exec (.timedAction e) s =
      .next (s.setEng e { s.eng e with taq := a :: s.markLate true rest }))
    ∧ (∀ a, (s.eng e).taq = [a] → s.due a = true →
      exec (.timedAction e) s = .next ((s.setEng e { s.eng e with taq := [] }).runAction e a)))
  ∧ ∀ (s : State) (e : Nat) (a : Action), a.wake = false →
    let lat := s.get F.PEnn_PINLAT_POS e
    (a.late = false → (a.actn = 0 → s.runAction e a = s.setLatch e (setBit lat a.pin false))
      ∧ (a.actn = 1 → s.runAction e a = s.setLatch e (setBit lat a.pin true))
      ∧ (a.actn = 2 → s.runAction e a = s.setLatch e (setBit lat a.pin (!bit lat a.pin)))
      ∧ (a.actn = 3 → s.runAction e a = s.setEnables e (setBit (s.get F.PEnn_PINOE_POS e) a.pin true))
      ∧ (a.actn = 4 → s.runAction e a = s.setEnables e (setBit (s.get F.PEnn_PINOE_POS e) a.pin false)))
    ∧ (a.late = true → s.runAction e a = ((s.runAction e { a with late := false }).bump F.PEnn_CNT_LATE e).set F.PEnn_TAQSTAT_LATEF e 1)

/-- ENGINE_START, ENGINE_HALT, ENGINE_STEP, FLUSHRX, FLUSHTX, FLUSHTAQ, RELEASE, GSTART, GHALT, SFSET and SFCLR (R255, R267 to R271), each the
write of its register with its one command bit: a start beyond the window is refused with UR and one of a running engine with BUSY; the
flushes and the release of a running engine with BUSY; a start sets the PC and clears FAULT and SELF; a halt of a halted engine does
nothing; a step runs one instruction of a halted engine; FLUSHTAQ executes what is due and empties the queue; a group start resumes
only a halted engine that is enabled and has no fault; the shared flags are set and cleared by mask.
Rests on assumption-log entries 21, 76, 78, 80, 83 and 193. -/
def Obligations.EnginesStartAndHalt : Prop :=
  (∀ (s : State) (f : Frame) (e : Nat) (x : RegRow), s.WritesReg f F.PEnn_CTL_HALT e x → e < 64 →
    let w := wordOf f
    let q := s.eng e
    let only := fun k => ∀ j, j < 9 → j ≠ 2 → j ≠ 3 → bit w j = decide (j = k)
    (only 1 →
      (s.get F.PEnn_IWIN_SIZE e ≤ bits w 27 16 → exec (.engineStart f) s = .next (s.settle 5 f { st := .ur }))
      ∧ (bits w 27 16 < s.get F.PEnn_IWIN_SIZE e → q.running = true → exec (.engineStart f) s = .next (s.settle 5 f { st := .busy }))
      ∧ (bits w 27 16 < s.get F.PEnn_IWIN_SIZE e → q.running = false → ∃ t, exec (.engineStart f) s = .next (t.settle 5 f {})
        ∧ (t.eng e).running = true ∧ (t.eng e).tx = q.tx ∧ (t.eng e).rx = q.rx ∧ t.get F.PEnn_PC_PC e = bits w 27 16 ∧ t.get F.PEnn_STATUS_FAULT e = 0
        ∧ t.get F.PEnn_STATUS_SELF e = 0 ∧ (bit w 2 = true → t.get F.PEnn_EMT_DATA e = 0 ∧ t.get F.PEnn_CNTS_EMTN e = 0)
        ∧ (bit w 3 = true → t.get F.PEnn_SA_DATA e = 0 ∧ t.get F.PEnn_SB_DATA e = 0) ∧ s.OnlyIn [.regs, .pio] t))
    ∧ (only 0 → (q.running = false → exec (.engineHalt f) s = .next (s.settle 5 f {}))
      ∧ (q.running = true → ∃ t, exec (.engineHalt f) s = .next (t.settle 5 f {})
        ∧ t.eng e = { q with running := false, stalled := none, single := false } ∧ t.get F.PEnn_PC_PAUSELEFT e = 0 ∧ s.OnlyIn [.regs, .pio] t))
    ∧ (only 4 → (q.running = true → exec (.flushrx f) s = .next (s.settle 5 f { st := .busy }))
      ∧ (q.running = false → exec (.flushrx f) s = .next ((s.setEng e { q with rx := [] }).settle 5 f {})))
    ∧ (only 5 → (q.running = true → exec (.flushtx f) s = .next (s.settle 5 f { st := .busy }))
      ∧ (q.running = false → exec (.flushtx f) s = .next ((s.setEng e { q with tx := [] }).settle 5 f {})))
    ∧ (only 6 → exec (.flushtaq f) s = .next (((s.taqCycle 16 e).setEng e { (s.taqCycle 16 e).eng e with taq := [] }).settle 5 f {}))
    ∧ (only 7 → (q.running = true → exec (.releaseOp f) s = .next (s.settle 5 f { st := .busy }))
      ∧ (q.running = false → exec (.releaseOp f) s = .next ((s.setEnables e 0).settle 5 f {})))
    ∧ (only 8 → ∀ n, (q.running = true → q.single = false → exec (.engineStep f n) s = .next (s.settle 5 f {}))
      ∧ (q.running = false → q.single = false → exec (.engineStep f n) s =
        .next (((s.setEng e { q with running := true, single := true }).settle 5 f {}).stepInstr e n))))
  ∧ (∀ (s : State) (f : Frame) (x : RegRow), let w := wordOf f
    (s.WritesReg f F.PIO_GSTART0_ENG 0 x → exec (.gstart f) s = .next ((Sys2Proof.Machine.gstart 0 w s).settle 5 f {}))
    ∧ (s.WritesReg f F.PIO_GSTART1_ENG 0 x → exec (.gstart f) s = .next ((Sys2Proof.Machine.gstart 1 w s).settle 5 f {}))
    ∧ (s.WritesReg f F.PIO_GHALT0_ENG 0 x → exec (.ghalt f) s = .next (((named 0 w).foldl (fun s e => s.haltEngine e) s).settle 5 f {}))
    ∧ (s.WritesReg f F.PIO_GHALT1_ENG 0 x → exec (.ghalt f) s = .next (((named 1 w).foldl (fun s e => s.haltEngine e) s).settle 5 f {}))
    ∧ (s.WritesReg f F.PIO_SFSET_FLAGS 0 x → exec (.sfset f) s = .next ((State.setFlags 64 w s).settle 5 f {}))
    ∧ (s.WritesReg f F.PIO_SFCLR_FLAGS 0 x → exec (.sfclr f) s = .next ((State.clearFlags 64 w s).settle 5 f {})))
  ∧ (∀ (s : State) (k m e : Nat), named k m = [e] →
    (s.get F.PEnn_STATUS_FAULT e ≠ 0 ∨ s.flag F.PEnn_CFG_EN e = false ∨ (s.eng e).running = true → Sys2Proof.Machine.gstart k m s = s)
    ∧ (s.get F.PEnn_STATUS_FAULT e = 0 → s.flag F.PEnn_CFG_EN e = true → (s.eng e).running = false → Sys2Proof.Machine.gstart k m s =
      (s.setEng e { s.eng e with running := true, seq := none, stalled := none }).set F.PEnn_SEQ_VALID e 0)
    ∧ named 1 1 = [32] ∧ named 0 (2 ^ 31) = [31])
  ∧ ∀ (s : State) (src m : Nat), m < 2 ^ 32 →
    ((State.setFlags src m s).get F.PIO_SFSET_FLAGS = s.get F.PIO_SFSET_FLAGS ||| m ∧ s.OnlyIn [.regs, .pio] (State.setFlags src m s)
      ∧ s.WordsBut [F.PIO_SFSET_FLAGS.key 0] (State.setFlags src m s))
    ∧ (s.pio.flagsAt ≠ s.up → (State.clearFlags src m s).get F.PIO_SFSET_FLAGS = s.get F.PIO_SFSET_FLAGS - (s.get F.PIO_SFSET_FLAGS &&& m))
    ∧ s.OnlyIn [.regs, .pio] (State.clearFlags src m s) ∧ s.WordsBut [F.PIO_SFSET_FLAGS.key 0] (State.clearFlags src m s)

/-- TXQ_WRITE, RXQ_READ, IDATA_WRITE, IDATA_READ, MAILBOX_WRITE, TAQ_ACT_WRITE and FEED_WINDOW_DRAIN (R247, R257 to R263): a word enters
the transmit queue of eight behind what is left of a half-drained feed frame, or is refused with NORES and counted; a read of the
receive queue takes the oldest word, is BUSY while the packer is enabled, and marks a read of an empty queue; IDATA is written only while
every engine that shares the window is halted, and IADDR then advances modulo SIZE; an outside write of a mailbox marks it fresh; an
action with a field out of range is refused with UR; feed window words enter while there is room, and a request completes with its last
one.
Rests on assumption-log entries 16, 21, 81, 82 and 83. -/
def Obligations.EngineQueuesAreBounded : Prop :=
  (∀ (s : State) (f : Frame) (e : Nat) (x : RegRow), e < 64 →
    let w := wordOf f
    let q := s.eng e
    let u := if s.feedPartial e then feedDrain e s else s
    (s.WritesReg f F.PEnn_TXQ_DATA e x →
      ((u.eng e).tx.length < 8 → exec (.txqWrite f) s = .next ((u.setEng e { u.eng e with tx := (u.eng e).tx ++ [BitVec.ofNat 32 w] }).settle 5 f {}))
      ∧ (8 ≤ (u.eng e).tx.length → exec (.txqWrite f) s = .next ((u.bump F.PEnn_CNT_TXFULL e).settle 5 f { st := .nores })))
    ∧ (s.ReadsRow f F.PEnn_RXQ_DATA e x →
      (s.flag F.PKnn_CFG_EN e = true → exec (.rxqRead f) s = .next (s.settle 5 f { st := .busy }))
      ∧ (s.flag F.PKnn_CFG_EN e = false → q.rx = [] → exec (.rxqRead f) s =
        .next ((s.set F.PEnn_QSTAT_RXEMPTYRD e 1).settle 5 f { data := wordBytes 0 }))
      ∧ (∀ x b rest, s.flag F.PKnn_CFG_EN e = false → q.rx = (x, b) :: rest → exec (.rxqRead f) s =
        .next ((s.setEng e { q with rx := rest }).settle 5 f { data := wordBytes x.toNat })))
    ∧ (s.WritesReg f F.PEnn_IDATA_WORD e x →
      (s.flag F.PEnn_CFG_EN e = true → q.running = true → exec (.idataWrite f) s =
        .next ((s.bump F.PEnn_CNT_IMVIOL e).settle 5 f { st := .viol, reason := 4 }))
      ∧ ((∀ k, k < 64 → (s.eng k).running = false) → exec (.idataWrite f) s = .next ((nextIaddr (s.onPio fun p => { p with
        imem := Tbl.put p.imem (s.get F.PEnn_IWIN_BASE e + s.get F.PEnn_IADDR_ADDR e) (BitVec.ofNat 32 w) }) e).settle 5 f {})))
    ∧ (s.ReadsRow f F.PEnn_IDATA_WORD e x →
      exec (.idataRead f) s = .next ((nextIaddr s e).settle 5 f { data := wordBytes (s.iword e (s.get F.PEnn_IADDR_ADDR e)) }))
    ∧ (s.get F.PEnn_IADDR_ADDR e + 1 < s.get F.PEnn_IWIN_SIZE e → nextIaddr s e = s.set F.PEnn_IADDR_ADDR e (s.get F.PEnn_IADDR_ADDR e + 1))
    ∧ (s.get F.PEnn_IADDR_ADDR e + 1 = s.get F.PEnn_IWIN_SIZE e → nextIaddr s e = s.set F.PEnn_IADDR_ADDR e 0)
    ∧ (s.WritesReg f F.PEnn_TAQ_ACT_TB e x →
      (8 < bits w 3 0 ∨ 5 < bits w 6 4 ∨ s.get F.PEnn_PINS_OUT_CNT e ≤ bits w 12 8 → exec (.taqActWrite f) s = .next (s.settle 5 f { st := .ur }))
      ∧ (bits w 3 0 ≤ 8 → bits w 6 4 ≤ 5 → bits w 12 8 < s.get F.PEnn_PINS_OUT_CNT e →
        (16 ≤ q.taq.length → exec (.taqActWrite f) s = .next ((s.bump F.PIO_CNT_TAQEXH).settle 5 f { st := .nores }))
        ∧ (q.taq.length < 16 → exec (.taqActWrite f) s = .next ((s.addAction e
          { stamp := s.get F.PEnn_TAQ_STAMP_STAMP e, tb := bits w 3 0, actn := bits w 6 4, wake := bit w 7, pin := bits w 12 8 }).settle 5 f {})))))
  ∧ (∀ (s : State) (f : Frame) (e k : Nat) (x : RegRow), e < 64 → k < 16 → s.WritesReg f F.PEnn_MB_DATA (e * 256 + k) x → wordOf f < 2 ^ 32 →
    ∃ t, exec (.mailboxWrite e k (some f)) s = .next (t.settle 5 f {})
    ∧ t.get F.PEnn_MB_DATA (e * 256 + k) = wordOf f ∧ t.get F.PEnn_MBFRESH_FRESH e = setBit (s.get F.PEnn_MBFRESH_FRESH e) k true % 2 ^ 16
    ∧ s.OnlyIn [.regs] t ∧ s.WordsBut [F.PEnn_MB_DATA.key (e * 256 + k), F.PEnn_MBFRESH_FRESH.key e] t)
  ∧ (∀ (s : State) (e k : Nat), s.epo.handed = [] → exec (.mailboxWrite e k none) s = .next s)
  ∧ (∀ (s : State) (e k : Nat) (h : Handed) (l : List Handed), s.epo.handed = h :: l → h.kind = 9 → h.index = e * 16 + k →
    exec (.mailboxWrite e k none) s = .next ((mailboxIn e k (h.value % 2 ^ 32) (s.onEpo fun x => { x with handed := l })).sinkOk h.obj))
  ∧ ∀ (s : State) (e : Nat) (f : Frame) (ws : List Word) (l : List (Nat × Frame × List Word)), s.blockBusy 6 = false → s.pio.feeds = (e, f, ws) :: l →
    (ws.length ≤ 8 - (s.eng e).tx.length → ∃ u, exec (.feedWindowDrain e) s = .next (u.settle 6 f {}) ∧ (u.eng e).tx = (s.eng e).tx ++ ws
      ∧ u.pio.feeds = l ∧ s.OnlyIn [.pio] u)
    ∧ (8 - (s.eng e).tx.length < ws.length → ∃ u, exec (.feedWindowDrain e) s = .next u
      ∧ (u.eng e).tx = (s.eng e).tx ++ ws.take (8 - (s.eng e).tx.length) ∧ s.OnlyIn [.pio] u)

/-! ### Fabric time, the phase references and the grandmaster -/

/-- TSYNC_SEND, TSYNC, SYNC_LOSS_HOLDOVER, TIME_RING_SWITCH, RELOCK, LATCH and SETTIME (R336, R343 to R349, R353): the master sends its time
and increment, SYNCINT after the TSYNC before; a follower's offset is the arrival less the sum of the sending time, the correction and the
delay of the ring, in whole nanoseconds, and a copy of a ring that is not better is only noted; a locked follower with no usable copy of either ring for
four intervals enters holdover and keeps I; a ring with none for three, or whose lane is down, gives way to the other; SETTIME is refused with UR for a
fraction of 10^9 or more, and with BUSY but at a master without a grandmaster, and else steps N to the value and
changes the epoch; LATCH captures N and fabric time at once. The trim stays within its limit.
Rests on assumption-log entries 14, 16, 21, 42, 103, 105, 106, 107 and 195. -/
def Obligations.FabricTimeFollowsTheMaster : Prop :=
  (∀ (s : State),
    (s.master = false ∨ s.blockBusy 10 = true → exec .tsyncSend s = .next s)
    ∧ (∀ t, s.tim.syncAt = some t → s.up < t + s.syncTime → exec .tsyncSend s = .next s)
    ∧ (s.master = true → s.blockBusy 10 = false → (∀ t, s.tim.syncAt = some t → t + s.syncTime ≤ s.up) →
      exec .tsyncSend s = .next ((s.onTim fun t => { t with syncAt := some s.up }).sendPosted 5
        { tt := .mgt, tc := 1, dst := 0xFE, init := 4, len := 32, addr := fabAddr 0xFE 0xF (0xFFF * 2 ^ 24),
          pay := be 1 0x20 ++ be 1 (s.get F.TIM_STAT_GM) ++ be 1 (s.get F.TIM_STAT_TSE)
            ++ [0] ++ be 6 s.sec ++ be 4 s.nsec ++ zeros 8 ++ be 4 (s.get F.TIM_INCR_INT_I)
            ++ be 4 (s.get F.TIM_INCR_FRAC_I) ++ be 2 (s.get F.TIM_UTCOFF_OFF) }))
    ∧ (s.get F.TIM_STAT_STATE = 3 → s.master = false → s.noCopy 0 4 = true → s.noCopy 1 4 = true → exec .syncLossHoldover s =
      .next (((s.timeState 4).countMissed 4).onTim fun t => { t with good := 0 }))
    ∧ (s.get F.TIM_STAT_STATE ≠ 3 ∨ s.noCopy 0 4 = false ∨ s.noCopy 1 4 = false → exec .syncLossHoldover s = .next s)
    ∧ (let r := s.get F.TIM_STAT_RING
      let up := decide (s.laneState (if r = 0 then .w else .e) = 4)
      let turn : State → State := fun u => (u.set F.TIM_STAT_RING 0 (1 - r)).onTim fun t => { t with seen := setAt t.seen r none, missed := 0 }
      (up = true → s.noCopy r 3 = false → exec .timeRingSwitch s = .next s)
      ∧ (up = false → s.noCopy r 3 = false → exec .timeRingSwitch s = .next (turn s))
      ∧ (s.noCopy r 3 = true → exec .timeRingSwitch s = .next (turn (s.countMissed 3))))
    ∧ (∀ r n t, s.tim.copyAt.getD r none = some t → (s.noCopy r n = true ↔ t + n * s.syncTime ≤ s.up))
    ∧ (s.master = true → Sys2Proof.Machine.relock s = s.onTim fun t => { t with gmStepOk := true, gmWin := [] })
    ∧ (s.master = false → Sys2Proof.Machine.relock s = (s.timeState 1).onTim fun t => { t with win := [], good := 0, bad := 0 })
    ∧ ((Sys2Proof.Machine.latch s).get F.TIM_CAP_NSLO_VAL = s.ns % 2 ^ 32 ∧ (Sys2Proof.Machine.latch s).get F.TIM_CAP_SECLO_VAL = s.sec % 2 ^ 32
      ∧ (Sys2Proof.Machine.latch s).get F.TIM_CAP_NS_VAL = s.nsec % 2 ^ 32 ∧ s.OnlyIn [.regs] (Sys2Proof.Machine.latch s))
    ∧ ∀ o lim slew, (s.servo o lim slew).1 ≤ (lim * 1718 : Nat) ∧ (-(lim * 1718 : Nat) : Int) ≤ (s.servo o lim slew).1)
  ∧ (∀ (s : State) (f : Frame) (st : Nat), s.master = false →
    let r := b2n f.ring
    let h := beAt f.pay 3 1
    let s0 := s.take f
    let s1 := if r = s0.get F.TIM_STAT_RING then (s0.countMissed (s0.copyAge r - 1)).onTim fun t => { t with missed := 0 } else s0
    let v := (s1.bump F.TIM_CNT_SYNCRX).onTim fun t => { t with seen := setAt t.seen r (some h), copyAt := setAt t.copyAt r (some s1.up) }
    let u := (((v.set F.TIM_STAT_RING 0 r).set F.TIM_STAT_HOPS 0 h).setB F.TIM_STAT_GM 0 (bit (beAt f.pay 1 1) 0)).set F.TIM_UTCOFF_OFF 0 (beAt f.pay 30 2)
    let u := u.onTim fun t => { t with missed := 0 }
    let sent : Nat := (beAt f.pay 4 6 * 10 ^ 9 + beAt f.pay 10 4) * 65536
    let o := ((st : Int) - (sent + sgn 64 (beAt f.pay 14 8) + v.tim.df.getD (1 - r) 0)) / 65536
    (v.tim.seen.getD (1 - r) none = none → exec (.tsync f st) s =
      .next ((u.set F.TIM_OFFSET_NS 0 (sat32 o)).timeOffset o (beAt f.pay 22 4 * 2 ^ 32 + beAt f.pay 26 4 : Nat) (beAt f.pay 2 1)))
    ∧ (∀ n, v.tim.seen.getD (1 - r) none = some n → h < n → exec (.tsync f st) s =
      .next ((u.set F.TIM_OFFSET_NS 0 (sat32 o)).timeOffset o (beAt f.pay 22 4 * 2 ^ 32 + beAt f.pay 26 4 : Nat) (beAt f.pay 2 1)))
    ∧ (∀ n, v.tim.seen.getD (1 - r) none = some n → n < h → exec (.tsync f st) s = .next v))
  ∧ ∀ (s : State) (f : Frame) (x : RegRow), s.WritesReg f F.TIM_CTL_TCFORCE 0 x →
    let w := wordOf f
    let u := s.storeReg x (regOff f.offset) w
    let only := fun k => ∀ j, 1 ≤ j → j ≤ 3 → bit w j = decide (j = k)
    (only 1 → exec (.relock f) s = .next ((Sys2Proof.Machine.relock u).settle 5 f {}))
    ∧ (only 2 → exec (.latchOp f) s = .next ((Sys2Proof.Machine.latch u).settle 5 f {}))
    ∧ (only 3 →
      (10 ^ 9 ≤ s.get F.TIM_SET_NS_VAL → exec (.settime f) s = .next (s.settle 5 f { st := .ur }))
      ∧ (s.get F.TIM_SET_NS_VAL < 10 ^ 9 → (s.master = false ∨ s.flag F.TIM_STAT_GM = true) → exec (.settime f) s = .next (s.settle 5 f { st := .busy }))
      ∧ (s.get F.TIM_SET_NS_VAL < 10 ^ 9 → s.master = true → s.flag F.TIM_STAT_GM = false → ∃ v : State,
        exec (.settime f) s = .next ((v.storeReg x (regOff f.offset) w).settle 5 f {})
        ∧ v.ns = ((s.get F.TIM_SET_SECHI_VAL % 2 ^ 16 * 2 ^ 32 + s.get F.TIM_SET_SECLO_VAL) * 10 ^ 9 + s.get F.TIM_SET_NS_VAL) % 2 ^ 64
        ∧ v.get F.TIM_STAT_TSE = (s.get F.TIM_STAT_TSE + 1) % 256))

/-- PHASE_LOCAL_EVENT, PHEV_SEND, PHEV and PHASE_STALL (R358 to R364): a disabled reference takes no event and reads 0; an enabled one
looks at the source that SRC names; a waiting event leaves once, MININT after the one before, with the next SEQ; a remote reference
takes only an event of its source whose SEQ is newer; a reference without events for STALLN intervals holds its value, the owner's at
its limit, sets STALL, clears LOCK and counts. The value runs toward its limit and never beyond it.
Rests on assumption-log entries 16, 83, 108 and 109. -/
def Obligations.PhaseReferencesFollowEvents : Prop :=
  (∀ (s : State) (k : Nat),
    let r := s.ref k
    (s.refOn k = false → exec (.phaseLocalEvent k) s = .next s ∧ s.phaseNow k = 0 ∧ exec (.phaseStall k) s = .next s)
    ∧ (s.blockBusy 11 = true → exec (.phaseLocalEvent k) s = .next s ∧ exec (.phaseStall k) s = .next s)
    ∧ (s.refOn k = true → s.blockBusy 11 = false →
      (s.get F.PHn_CFG_SRC k = 1 → exec (.phaseLocalEvent k) s = .next (s.zcEvent k r))
      ∧ (s.get F.PHn_CFG_SRC k = 2 → exec (.phaseLocalEvent k) s = .next (s.encEvent k r))
      ∧ (s.get F.PHn_CFG_SRC k = 3 → exec (.phaseLocalEvent k) s = .next (s.objEvent k r))
      ∧ (s.get F.PHn_CFG_SRC k = 4 → exec (.phaseLocalEvent k) s = .next s))
    ∧ (r.pend = none → exec (.phevSend k) s = .next s)
    ∧ (r.pend ≠ none → s.standby = true → exec (.phevSend k) s = .next (s.setRef k { r with pend := none }))
    ∧ (∀ t, r.pend ≠ none → s.standby = false → r.sentAt = some t → s.up < t + s.get F.PHS_CFG_MININT * 1000 → exec (.phevSend k) s = .next s)
    ∧ (∀ e, r.pend = some e → s.standby = false → s.blockBusy 11 = false → (∀ t, r.sentAt = some t → t + s.get F.PHS_CFG_MININT * 1000 ≤ s.up) →
      ∃ t f, exec (.phevSend k) s = .next (t.sendPosted 5 f) ∧ f.tt = .mgt ∧ f.tc = 0 ∧ f.len = 32
      ∧ t.ref k = { r with pend := none, seq := some ((r.seq.getD 255 + 1) % 256), sentAt := some s.up } ∧ s.OnlyIn [.regs, .phs] t)
    ∧ (s.refOn k = true → r.stalled = true ∨ r.test = 0 → exec (.phaseStall k) s = .next s)
    ∧ (s.refOn k = true → s.blockBusy 11 = false → r.stalled = false → r.test ≠ 0 → k < 8 →
      let per := if s.get F.PHn_CFG_SRC k = 4 then r.d else s.refEvents k
      let due := r.time * per + s.get F.PHn_CFG_STALLN k * r.test
      (s.ns * per < due → exec (.phaseStall k) s = .next s)
      ∧ (due ≤ s.ns * per → ∃ t, exec (.phaseStall k) s = .next t ∧ t.flag F.PHn_STAT_STALL k = true
        ∧ t.flag F.PHn_STAT_LOCK k = false ∧ s.OnlyIn [.regs, .phs] t
        ∧ (s.get F.PHn_CFG_SRC k = 4 → t.ref k = { r with held := some (r.value s.tim.n), stalled := true, events := 0, last := none, seed := true })
        ∧ (s.get F.PHn_CFG_SRC k ≠ 4 → s.flag F.PHn_CFG_PUB k = false →
          t.ref k = { r with held := some r.lim, stalled := true, events := 0, last := none, seed := true }))))
  ∧ (∀ (s : State) (f : Frame), s.standby = false →
    let mine := fun k => s.get F.PHn_CFG_SRC k = 4 ∧ s.get F.PHn_SRC_A k = f.src
    ((∀ k, ¬mine k) → exec (.phev f) s = .next (s.take f))
    ∧ (∀ k, k < 8 → (∀ j, j ≠ k → ¬mine j) → mine k → s.refOn k = true → s.get F.PHn_SRC_B k % 8 = beAt f.pay 1 1 % 8 →
      (∀ q, (s.ref k).seq = some q → 0 < sdiff 8 (beAt f.pay 3 1) q) → exec (.phev f) s = .next ((s.take f).remoteEvent k (s.ref k) f.pay)))
  ∧ ∀ (r : PhRef) (n : Nat), r.stalled = false → r.held = none → r.back = false → r.phase < 2 ^ 32 → r.lim < 2 ^ 32 →
    phaseDist false r.phase (r.value n) ≤ phaseDist false r.phase r.lim

/-- TGMR_SEND, TGMR, TGMR_TIMEOUT, ANNOUNCE_TIMEOUT and the ten commands of IEEE 1588 on the host ports (R350 to R354): a gateway sends its
offset to the master once, at most once in SYNCINT; a follower only discards a TGMR, and a master with a grandmaster trims to it; a slave
port takes Sync, Follow_Up, Delay_Resp and Announce of its own domain and computes the offset and the delay; a master port answers a
request while time is locked, and sends Sync and Announce when their intervals have passed; a message of another role or domain changes
nothing; an input without Announce or TGMR for its time is not valid; a Signaling or Management message is counted.
Rests on assumption-log entries 21, 42, 50, 103, 104 and 107. -/
def Obligations.HostPortsKeepPtp : Prop :=
  (∀ (s : State) (p : HPort) (m : Ptp) (t1 t4 : Nat),
    let q := s.ptp p
    (s.ptpMine p m = false → exec (.ptpSync p m t1) s = .next s ∧ exec (.ptpFollowUp p m) s = .next s ∧ exec (.ptpDelayReq p m t1) s = .next s
      ∧ exec (.ptpPdelayReq p m t1) s = .next s ∧ exec (.ptpPdelayResp p m t1 t4) s = .next s ∧ exec (.ptpPdelayRespFollowUp p m) s = .next s
      ∧ exec (.ptpAnnounce p m) s = .next s)
    ∧ (s.ptpMine p m = true → s.ptpRole p = 1 →
      (m.twoStep = true → exec (.ptpSync p m t1) s = .next (s.setPtp p { q with wait := some (m.seq, t1, m.corr) }))
      ∧ (m.twoStep = false → exec (.ptpSync p m t1) s = .next (s.syncDone p q ((t1 : Int) - m.ts - m.corr)))
      ∧ (∀ c, q.wait = some (m.seq, t1, c) → exec (.ptpFollowUp p m) s = .next (s.syncDone p q ((t1 : Int) - m.ts - c - m.corr)))
      ∧ (q.wait = none → exec (.ptpFollowUp p m) s = .next s)
      ∧ (∀ w, q.fwd = some w → s.ptpPeer p = false →
        exec (.ptpDelayResp p m t1) s = .next (s.setPtp p { q with delay := (w + ((m.ts : Int) - t1 - m.corr)) / 2 }))
      ∧ exec (.ptpAnnounce p m) s =
        .next (s.setPtp p { q with annOk := true, annAt := s.up, cls := m.cls, steps := m.steps, utc := m.utc, ident := m.ident }).showInputs
      ∧ exec (.ptpDelayReq p m t1) s = .next s)
    ∧ (s.ptpMine p m = true → s.ptpRole p = 2 → s.ptpPeer p = false → s.timeLocked = true →
      exec (.ptpDelayReq p m t1) s = .next (s.emit (.ptp p.ix 9 m.seq t1)))
    ∧ (s.ptpMine p m = true → s.ptpRole p = 1 → s.ptpPeer p = true →
      exec (.ptpPdelayReq p m t1) s = .next ((s.emit (.ptp p.ix 3 m.seq t1)).emit (.ptp p.ix 10 m.seq (s.tim.n / 2 ^ 16)))
      ∧ (m.twoStep = false → exec (.ptpPdelayResp p m t1 t4) s = .next (s.setPtp p { q with delay := ((t4 : Int) - t1 - m.corr) / 2 }))
      ∧ (m.twoStep = true → exec (.ptpPdelayResp p m t1 t4) s = .next (s.setPtp p { q with pwait := some (m.seq, (t4 : Int) - t1 - m.corr, m.ts) }))
      ∧ (∀ rt t2, q.pwait = some (m.seq, rt, t2) → exec (.ptpPdelayRespFollowUp p m) s =
        .next (s.setPtp p { q with pwait := none, delay := (rt - ((m.ts : Int) - t2) - m.corr) / 2 })))
    ∧ (s.ptpRole p ≠ 2 ∨ s.timeLocked = false → exec (.ptpSyncSend p) s = .next s)
    ∧ (s.ptpRole p = 2 → s.timeLocked = true → s.flag F.TIM_STAT_GM = false →
      (∀ t, q.syncSent = some t → t + s.ptpSyncTime p ≤ s.up) → (∀ t, q.annSent = some t → t + s.annTime p ≤ s.up) → exec (.ptpSyncSend p) s =
      .next (((s.setPtp p { q with syncSent := some s.up, annSent := some s.up }).emit (.ptp p.ix 0 0 s.ns)).emit (.ptp p.ix 11 (248 * 2 ^ 16 + 0xA0) s.ns)))
    ∧ (∀ a, s.ptpRole p = 2 → s.timeLocked = true → (∀ t, q.syncSent = some t → t + s.ptpSyncTime p ≤ s.up) → q.annSent = some a →
      s.up < a + s.annTime p → exec (.ptpSyncSend p) s = .next ((s.setPtp p { q with syncSent := some s.up }).emit (.ptp p.ix 0 0 s.ns)))
    ∧ (q.annOk = false ∨ q.annAt + 3 * s.annTime p ≤ s.up →
      exec (.announceTimeout p) s = .next (s.setPtp p { q with annOk := false, ogm := none }).showInputs)
    ∧ (q.annOk = true → s.up < q.annAt + 3 * s.annTime p → exec (.announceTimeout p) s = .next s)
    ∧ exec .ptpDiscard s = .next (s.bump F.TIM_CNT_PTPDISC)
    ∧ (q.ogm = none → exec (.tgmrSend p) s = .next s)
    ∧ (∀ t, q.tgmrSent = some t → s.up < t + s.syncTime → exec (.tgmrSend p) s = .next s)
    ∧ (∀ o, q.ogm = some o → s.ptpRole p = 1 → q.annOk = true → (∀ t, q.tgmrSent = some t → t + s.syncTime ≤ s.up) → ∃ f,
      exec (.tgmrSend p) s = .next ((s.setPtp p { q with ogm := none, tgmrSent := some s.up }).sendPosted 5 f)
      ∧ f.tt = .mgt ∧ f.dst = s.get F.RNG_RSTAT_MASTER_HUB ∧ f.len = 24 ∧ slice f.pay 4 8 = be 8 (unsgn 64 o)))
  ∧ ∀ (s : State) (f : Frame) (x : Nat),
    (s.tim.tgmrAt.getD x 0 + 10 ^ 9 ≤ s.up →
      exec (.tgmrTimeout x) s = .next (s.onTim fun t => { t with tgmrOk := setAt t.tgmrOk x false }).showInputs)
    ∧ (s.up < s.tim.tgmrAt.getD x 0 + 10 ^ 9 → exec (.tgmrTimeout x) s = .next s)
    ∧ (mgtRefused s.hubNum f = true → exec (.tgmr f) s = .next (s.settle 7 f { st := .ur }))
    ∧ (mgtRefused s.hubNum f = false →
      let v := s.take f
      let i := beAt f.pay 1 1 % 2
      let hub := v.get (if i = 0 then F.TIM_TIN_HUBA else F.TIM_TIN_HUBB)
      (s.master = false ∨ hub ≠ f.src → exec (.tgmr f) s = .next v)
      ∧ (s.master = true → hub = f.src →
        let u := (v.onTim fun t => { t with tgmrOk := setAt t.tgmrOk i true, tgmrAt := setAt t.tgmrAt i v.up }).showInputs
        (u.flag F.TIM_GMSTAT_VALID = false ∨ u.get F.TIM_GMSTAT_INPUT ≠ i → exec (.tgmr f) s = .next u)
        ∧ (u.flag F.TIM_GMSTAT_VALID = true → u.get F.TIM_GMSTAT_INPUT = i → ∀ g,
          g = ((((u.set F.TIM_GMSTAT_CLASS 0 (beAt f.pay 2 1)).set F.TIM_GMSTAT_STEPS 0 (beAt f.pay 3 1)).set F.TIM_UTCOFF_OFF 0 (beAt f.pay 12 2)).onTim
            fun t => { t with gmIdent := beAt f.pay 14 8 }) →
          let o := sgn 64 (beAt f.pay 4 8) / 65536
          let far := decide (g.get F.TIM_LIMITS_UNLOCKTHR * 100 < o.natAbs)
          (g.flag F.TIM_STAT_GM = true → exec (.tgmr f) s = .next (g.gmTrim o far))
          ∧ (g.flag F.TIM_STAT_GM = false → g.tim.gmStepOk = false → exec (.tgmr f) s =
            .next (if far then g.gmTrim o true else (g.set F.TIM_STAT_GM 0 1).gmTrim o false)))))

/-! ### CAN FD controllers and the reflex engine -/

/-- CAN_FRAME_RX, TXREQ, TXABORT, CANTX_REQUEST, CAN_LOCK_TIMEOUT, CAN_ARBITRATION, CAN_TX_COMPLETE, CAN_OBJ_ALLOC and CAN_OBJ_FREE (R285 to
R301, R305, R276): NORMAL acknowledges a good frame; a frame that no object matches is counted; one for an object that is not locked is stored, and marks and counts what it
overwrites; one for a locked object waits in the shadow, and a second one replaces it or is dropped, and is counted; a lock that times out
keeps NEW and LOST; a write that names an object that is absent or receives is refused with UR; the pending frame that would win is
offered on an idle bus; an attempt ends with its result in TXST; an allocation takes the lowest free object; only a run-time
object that is neither locked nor on the bus is freed.
Rests on assumption-log entries 16, 21, 50, 66, 68, 84, 85, 87, 88, 91 and 145. -/
def Obligations.CanObjectsHoldFrames : Prop :=
  (∀ (s : State) (c : Nat) (f : CanFrame) (t k : Nat) (o : CanObj),
    (s.canMatch c f = none → s.canReceive c f t = s.bump F.CNnn_CNT_NOMATCH c)
    ∧ (s.canMatch c f = some (k, o) → o.lock = none → s.canReceive c f t = s.canStore k o f t false false)
    ∧ (∀ own, s.canMatch c f = some (k, o) → o.lock = some own →
      let n := { o with fcnt := (o.fcnt + 1) % 65536 }
      let q := s.canCh c
      (q.shadow = none → s.canReceive c f t = (s.setCanObj k n).setCanCh c { q with shadow := some { obj := k, fr := f, sof := t } })
      ∧ (∀ h, q.shadow = some h → h.obj ≠ k → s.canReceive c f t = (s.setCanObj k { n with lost := true }).bump F.CNnn_CNT_SHDROP c)
      ∧ (∀ h, q.shadow = some h → h.obj = k → s.canReceive c f t =
        ((s.setCanObj k n).setCanCh c { q with shadow := some { obj := k, fr := f, sof := t, lost := true } }).bump F.CNnn_CNT_SHREPL c))
    ∧ (s.canMode c = 4 ∨ (s.canMode c = 2 ∨ s.canMode c = 3) ∧ (s.canCh c).integrated = true ∧ s.get F.CNnn_STAT_ECS c ≠ 2 →
      f.fdf = false ∨ f.rtr = false ∧ s.flag F.CNnn_CFG_FDEN c = true →
      ∀ age, exec (.canFrameRx c f age) s = .next (s.canGood c f (s.sofTime c age)))
    ∧ (s.canMode c ≤ 1 ∨ f.fdf = true ∧ (f.rtr = true ∨ s.flag F.CNnn_CFG_FDEN c = false) → ∀ age, exec (.canFrameRx c f age) s = .next s)
    ∧ (s.canMode c = 2 → (s.canCh c).recv ≤ 127 → s.abdOn c = false → c < 16 → s.canGood c f t =
      ((((s.emit (.canAck c)).bump F.CNnn_CNT_RXOK c).setCanCh c { s.canCh c with recv := (s.canCh c).recv - 1 }).showErrors c).canReceive c f t)
    ∧ (∀ own, s.canObj? k = some o → o.lock = some own →
      (o.lockAt + s.get F.CAN_LOCKTMO_TMO * 1000 ≤ s.up →
        exec (.canLockTimeout k) s = .next ((s.canRelease k false).bump F.CNnn_CNT_LOCKTMO o.ch))
      ∧ (s.up < o.lockAt + s.get F.CAN_LOCKTMO_TMO * 1000 → exec (.canLockTimeout k) s = .next s))
    ∧ (s.canObj? k = some o → o.lock = none → exec (.canLockTimeout k) s = .next s)
    ∧ (∀ own, s.canObj? k = some o → o.lock = some own → (s.canCh o.ch).shadow = none →
      ((s.canRelease k false).canObj? k).map (fun n => (n.lock, n.isNew, n.lost)) = some (none, o.isNew, o.lost)))
  ∧ (∀ (s : State) (f : Frame) (k : Nat) (cls : InitClass), canRange f.offset f.pay.length = [k] → f.tt = .wr ∨ f.tt = .wrn → f.offset ≤ 128 * k →
    let w := beAt f.pay (128 * k - f.offset) 1
    (f.space = 3 → classOf s.hubNum f.src f.init = some cls → s.canObj? k = none ∨ (∃ o, s.canObj? k = some o ∧ o.tx = false) →
      (bit w 1 = true → exec (.txreq f) s = .next (s.settle 5 f { st := .ur }))
      ∧ (bit w 0 = true → exec (.txabort f) s = .next (s.settle 5 f { st := .ur })))
    ∧ (∀ o, s.Passes f .can → s.blockBusy 7 = false → s.canObj? k = some o → 128 * k - f.offset < f.pay.length →
      let place (j : Nat) : Option Byte := if f.offset ≤ 128 * k + j then f.pay[128 * k + j - f.offset]? else none
      let n := canFields o place
      o.tx = true → n.fr.fdf = false →
      (bit w 1 = true → bit w 0 = false → exec (.txreq f) s = .next ((s.setCanObj k (canRequest s k n)).settle 6 f {}))
      ∧ (bit w 1 = false → bit w 0 = true → exec (.txabort f) s = .next ((s.setCanObj k (canAbort s k n)).settle 6 f {})))
    ∧ (bit w 1 = false → exec (.txreq f) s = .next s) ∧ (bit w 0 = false → exec (.txabort f) s = .next s))
  ∧ (∀ (s : State) (c k : Nat) (o : CanObj),
    let q := s.canCh c
    (q.sending ≠ none ∨ q.integrated = false ∨ s.canMode c ≤ 1 → exec (.canArbitration c) s = .next s)
    ∧ (s.canMode c = 2 → s.twn.veering = false → q.integrated = true → q.sending = none → s.get F.CNnn_STAT_ECS c ≠ 2 →
      (s.can.objs.filter fun p => p.2.tx && p.2.txreq && decide (p.2.ch = c)) = [(k, o)] →
      let g : CanFrame := { o.fr with brs := o.fr.brs && o.fr.fdf, esi := decide (s.get F.CNnn_STAT_ECS c = 1), data := o.fr.data.take o.fr.len }
      exec (.canArbitration c) s =
        .next (((s.setCanCh c { q with sending := some (k, g, s.sofTime c 0) }).set F.CNnn_STAT_IDLE c 0).emit (.can c g)))
    ∧ (∀ n, q.sending = none → exec (.canTxComplete c n) s = .next s)
    ∧ (∀ x, q.sending = some x → s.canObj? x.1 = none → ∃ t, exec (.canTxComplete c 1) s = .next t ∧ (t.canCh c).sending = none
      ∧ t.get F.CNnn_CNT_ARBLOST c = min F.CNnn_CNT_ARBLOST.max (s.get F.CNnn_CNT_ARBLOST c + 1) ∧ s.OnlyIn [.regs, .can] t)
    ∧ (∀ x, q.sending = some x → s.canObj? x.1 = some o → o.oneshot = false → o.abort = false → exec (.canTxComplete c 1) s =
      .next (((s.setCanCh c { q with sending := none }).set F.CNnn_STAT_IDLE c 1).bump F.CNnn_CNT_ARBLOST c))
    ∧ (∀ x, q.sending = some x → s.canObj? x.1 = some o → o.again = false → s.canMode c ≠ 5 → c < 16 → exec (.canTxComplete c 0) s =
      .next ((((((s.setCanCh c { q with sending := none }).set F.CNnn_STAT_IDLE c 1).bump F.CNnn_CNT_TXOK c).setCanCh c
        { q with sending := none, tec := q.tec - 1 }).showErrors c).canEnd x.1 o 2 (some x.2.2)))
    ∧ (s.epo.handed = [] → exec .cantxRequest s = .next s)
    ∧ (∀ h l v, s.epo.handed = h :: l → h.kind = 10 → h.index = k → s.canObj? k = some o → o.tx = true → s.obj? h.obj = some v →
      let u := s.onEpo fun e => { e with handed := l }
      exec .cantxRequest s = .next ((u.setCanObj k (canRequest u k { o with fr := { o.fr with
                                                                                    data := patch (slice o.fr.data 0 64) 0 (be (typeBytes v.type) h.value) } })).sinkOk h.obj)))
  ∧ ∀ (s : State) (f : Frame) (x : RegRow), s.WritesReg f F.CAN_CMD_OP 0 x → s.holds .can f.src f.init = true →
    let w := wordOf f
    let u := s.unlock .can
    let k := bits w 14 2
    let old := u.get F.CAN_CMD_RES_INDEX
    (w % 4 = 1 → exec (.canObjAlloc f) s = .next ((canAlloc u).2.settle 5 f (canAlloc u).1))
    ∧ (w % 4 = 2 →
      (u.canObj? k = none → exec (.canObjFree f) s = .next ((canRes u old 4).settle 5 f {}))
      ∧ ∀ o, u.canObj? k = some o →
        (k < u.get F.CAN_OBJ_USED_DEF → exec (.canObjFree f) s = .next ((canRes u old 4).settle 5 f {}))
        ∧ (u.get F.CAN_OBJ_USED_DEF ≤ k → o.lock ≠ none → exec (.canObjFree f) s = .next ((canRes u old 5).settle 5 f {}))
        ∧ (u.get F.CAN_OBJ_USED_DEF ≤ k → o.lock = none → (u.canCh o.ch).sending = none →
          exec (.canObjFree f) s = .next ((canRes (u.onCan fun c => { c with objs := Tbl.erase c.objs k }) old 0).settle 5 f {})))
    ∧ (let tx := u.flag F.CAN_CMD_ARG0_DIR
      let n : CanObj := { tx := tx, ch := u.get F.CAN_CMD_ARG0_CHAN, mask := if tx then 0 else u.get F.CAN_CMD_ARG2,
                          oneshot := tx && u.flag F.CAN_CMD_ARG0_ONESHOT,
                          fr := { ide := true, fdf := false, id := u.get F.CAN_CMD_ARG1, dlc := 0, data := zeros 64 } }
      u.flag F.CAN_CMD_ARG0_IDE = true → u.flag F.CAN_CMD_ARG0_FDF = false → Machine.canUsed u n = false →
      let d := u.get F.CAN_OBJ_USED_DEF
      (Tbl.firstFree u.can.objs d (8192 - d) = none → canAlloc u = ({ st := .nores }, (canRes u old 1).bump F.CAN_CNT_EXH))
      ∧ ∀ j, Tbl.firstFree u.can.objs d (8192 - d) = some j → canAlloc u = ({}, canRes (u.setCanObj j n) j 0))

/-- CAN_MODE_WRITE, RECOVER, CAN_MODE_EFFECT, BUS_INTEGRATION, RECOVERY_COMPLETE, CAN_BUS_ERROR, BUS_OFF and ABD_DWELL_EXPIRY (R277 to R284,
R302 to R304): a mode above 5 is refused with UR, and detection from an active mode with BUSY; a request waits for its effect; RECOVER starts the
recovery of a channel that is bus-off; integration sets IDLE and counts a sequence in recovery; the end of the recovery clears both error
counters and the error state; an error is shown, counted, and passes 255 into bus-off; a dwell that ends moves detection on.
Rests on assumption-log entries 16, 21, 85, 86, 88, 89, 90, 92 and 145. -/
def Obligations.CanChannelsChangeMode : Prop :=
  (∀ (s : State) (f : Frame) (c : Nat) (x : RegRow), c < 16 → s.WritesReg f F.CNnn_CTL_MODE c x →
    let w := wordOf f
    let act := s.get F.CNnn_STAT_MODE_ACT c
    let asked := (s.set F.CNnn_CTL_MODE c (w % 8)).setCanCh c { s.canCh c with request := some (w % 8) }
    (6 ≤ w % 8 → exec (.canModeWrite f) s = .next (s.settle 5 f { st := .ur })
      ∧ (bit w 3 = true → exec (.recover f) s = .next (s.settle 5 f { st := .ur })))
    ∧ (w % 8 = 4 → act = 2 ∨ act = 3 ∨ act = 5 → exec (.canModeWrite f) s = .next (s.settle 5 f { st := .busy }))
    ∧ (w % 8 ≤ 5 → w % 8 ≠ 4 → s.abdOn c = false → bit w 3 = false → exec (.canModeWrite f) s = .next (asked.settle 5 f {}))
    ∧ (w % 8 ≤ 5 → w % 8 ≠ 4 → s.abdOn c = false → bit w 3 = true → s.get F.CNnn_STAT_ECS c = 2 → s.flag F.CNnn_STAT_RECOVERING c = false →
      exec (.recover f) s = .next ((asked.canRecover c).settle 5 f {}))
    ∧ (bit w 3 = false → exec (.recover f) s = .next s))
  ∧ ∀ (s : State) (c : Nat),
    let q := s.canCh c
    ((q.request = none ∨ q.sending ≠ none ∨ s.blockBusy 7 = true → exec (.canModeEffect c) s = .next s)
    ∧ (∀ m, q.request = some m → q.sending = none → s.blockBusy 7 = false → exec (.canModeEffect c) s = .next (s.canEnter c m)))
    ∧ (s.canMode c < 2 → exec (.busIntegration c) s = .next s ∧ ∀ lec add d tx fr, exec (.canBusError c lec add d tx fr) s = .next s)
    ∧ (2 ≤ s.canMode c → s.flag F.CNnn_STAT_RECOVERING c = false → c < 16 → ∃ t, exec (.busIntegration c) s = .next t
      ∧ t.canCh c = { s.canCh c with integrated := true } ∧ t.flag F.CNnn_STAT_IDLE c = true ∧ s.OnlyIn [.regs, .can] t
      ∧ s.WordsBut [F.CNnn_STAT_IDLE.key c] t)
    ∧ (s.flag F.CNnn_STAT_RECOVERING c = false ∨ s.get F.CNnn_ERRCNT_RECSEQ c < 127 → exec (.recoveryComplete c) s = .next s)
    ∧ (s.flag F.CNnn_STAT_RECOVERING c = true → 127 ≤ s.get F.CNnn_ERRCNT_RECSEQ c → exec (.recoveryComplete c) s =
      .next (((((s.setCanCh c { s.canCh c with tec := 0, recv := 0 }).set F.CNnn_ERRCNT_RECSEQ c 128).set F.CNnn_STAT_RECOVERING c 0).set
        F.CNnn_STAT_ECS c 0).showErrors c))
    ∧ (s.get F.CNnn_STAT_ECS c = 2 ∨ q.tec ≤ 255 → exec (.busOff c) s = .next s)
    ∧ (s.get F.CNnn_STAT_ECS c ≠ 2 → 255 < q.tec → exec (.busOff c) s = .next (s.goBusOff c))
    ∧ ((∀ p ∈ s.can.objs, p.2.ch = c → p.2.txreq = false) → (∀ e ∈ s.epo.objs, e.2.kind ≠ 3 ∧ e.2.kind ≠ 10) → c < 16 →
      let v := ((s.set F.CNnn_STAT_ECS c 2).bump F.CNnn_CNT_BUSOFF c).setCanCh c { q with sending := none }
      s.goBusOff c = if s.flag F.CNnn_CFG_AUTORECOV c then v.canRecover c else v)
    ∧ (∀ e, s.abdOn c = false ∨ s.up < q.dwellAt + s.get F.CAN_ABD_CTL_DWELL * 1000000 → exec (.abdDwellExpiry c e) s = .next s)
    ∧ (∀ e, s.abdOn c = true → q.dwellAt + s.get F.CAN_ABD_CTL_DWELL * 1000000 ≤ s.up →
      exec (.abdDwellExpiry c e) s = .next ((s.setCanCh c { q with edge := q.edge || e }).abdNext c))
    ∧ (∀ lec, s.canMode c = 3 → s.get F.CNnn_STAT_MODE_ACT c ≠ 4 → c < 16 → lec < 8 →
      ∃ t, exec (.canBusError c lec 0 false false false) s = .next t ∧ t.get F.CNnn_STAT_LEC c = lec ∧ t.flag F.CNnn_STAT_DPE c = false
      ∧ s.OnlyIn [.regs] t ∧ s.WordsBut [F.CNnn_STAT_LEC.key c] t)
    ∧ (∀ lec add d, s.canMode c = 2 → s.abdOn c = false → s.get F.CNnn_STAT_ECS c ≠ 2 → c < 16 → s.get F.CNnn_STAT_MODE_ACT c = 2 →
      let v := (s.set F.CNnn_STAT_LEC c lec).setB F.CNnn_STAT_DPE c d
      exec (.canBusError c lec add d true false) s = .next ((v.setCanCh c { q with tec := q.tec + add }).showErrors c)
      ∧ exec (.canBusError c lec add d false false) s = .next ((v.setCanCh c { q with recv := min 255 (q.recv + add) }).showErrors c))

/-- SWEEP, EXTRA_SWEEP, DEFERRED_SWEEP, LATCH_CLEAR and ALM_POP (R368 to R378): a sweep evaluates the valid rules in ascending order; an
extra one runs while its reference is on and is not stalled; a deferred one is counted; a latch clear waits for the next sweep, once
for a rule; a pop removes the oldest alarm. A rule of a disabled group is 0 unless its latch holds it; one becomes 1 when its terms have been
true for more than its delay, and a latched one stays 1 until it is cleared. Of the rules in state 1 the lowest drives a target.
Rests on assumption-log entries 21, 109, 110, 111 and 112. -/
def Obligations.ReflexRulesCommit : Prop :=
  (∀ (s : State),
    (s.sweeps = false → exec .sweep s = .next s ∧ exec .deferredSweep s = .next s ∧ exec .extraSweep s = .next s)
    ∧ (s.sweeps = true →
      (s.sweepDue = true → exec .sweep s = .next s.startPeriod.realign.sweep) ∧ (s.sweepDue = false → exec .sweep s = .next s)
      ∧ (∀ p, s.rfx.startAt = some p → s.up ≤ p + 8000 →
        (s.sweepDue = true → exec .deferredSweep s = .next (s.startPeriod.realign.bump F.RFX_CNT_DEFER).sweep)
        ∧ (s.sweepDue = false → s.extraDue = true → exec .deferredSweep s = .next (s.startExtra.bump F.RFX_CNT_DEFER).sweep))
      ∧ ((∀ p, s.rfx.startAt = some p → p + 8000 < s.up) → exec .deferredSweep s = .next s)
      ∧ (s.extraDue = true → exec .extraSweep s = .next s.startExtra.sweep))
    ∧ (let h := s.get F.RFX_XSWEEP_PH
      (s.flag F.RFX_XSWEEP_EN = false ∨ s.refOn h = false ∨ (s.ref h).stalled = true → exec .extraSweep s = .next s)
      ∧ (s.flag F.RFX_XSWEEP_EN = true → s.refOn h = true → (s.ref h).stalled = false → s.rfx.xDone = none → s.extraDue = true)
      ∧ (∀ y, s.rfx.xDone = some y → s.extraInstant (s.phaseNow h) = y → exec .extraSweep s = .next s))
    ∧ (s.rfx.periodAt = none → s.sweepDue = true)
    ∧ (∀ p n, s.rfx.periodAt = some (p, n) → s.flag F.RFX_SWCFG_ALIGN = false →
      (s.sweepDue = true ↔ p + s.get F.RFX_SWCFG_PERIOD * 1000 ≤ s.up)))
  ∧ (∀ (s : State) (f : Frame) (x : RegRow), s.WritesReg f F.RFX_LCLR_RULE 0 x →
    let r := wordOf f % 4096
    (bit (wordOf f) 12 = true → ∃ t, exec (.latchClear f) s = .next (t.settle 5 f {}) ∧ t.rfx = { s.rfx with clearAll := true } ∧ s.OnlyIn [.regs, .rfx] t
      ∧ t.get F.RFX_CNT_LCLR = min F.RFX_CNT_LCLR.max (s.get F.RFX_CNT_LCLR + 1) ∧ s.WordsBut [F.RFX_CNT_LCLR.key 0] t)
    ∧ (bit (wordOf f) 12 = false → ∃ t, exec (.latchClear f) s = .next (t.settle 5 f {}) ∧ s.OnlyIn [.regs, .rfx] t
      ∧ t.get F.RFX_CNT_LCLR = min F.RFX_CNT_LCLR.max (s.get F.RFX_CNT_LCLR + 1) ∧ s.WordsBut [F.RFX_CNT_LCLR.key 0] t
      ∧ t.rfx = { s.rfx with clears := if s.rfx.clears.contains r then s.rfx.clears else s.rfx.clears ++ [r] }))
  ∧ (∀ (s : State) (f : Frame) (x : RegRow), s.WritesReg f F.RFX_ALM_POP_POP 0 x →
    (bit (wordOf f) 0 = true → exec (.almPop f) s = .next ((s.onRfx fun y => { y with alarms := y.alarms.tail }).settle 5 f {}))
    ∧ (bit (wordOf f) 0 = false → exec (.almPop f) s = .next s))
  ∧ (∀ (s : State) (m : Map RuleSt) (r : Rule),
    (s.groupOn r.group = false → r.latch = false → (evalRule s m r).state = false)
    ∧ (r.latch = true → (s.ruleSt r.num).state = true → s.rfx.clearAll = false → r.num ∉ s.rfx.clears → (evalRule s m r).state = true)
    ∧ (s.groupOn r.group = true → r.comb = 0 → r.ten % 16 = 0 → (evalRule s m r).cond = true
      ∧ (evalRule s m r).cnt = min 256 ((s.ruleSt r.num).cnt + 1))
    ∧ (s.groupOn r.group = true → (evalRule s m r).cond = false → (evalRule s m r).cnt = 0))
  ∧ ∀ (a : Rule) (l : List Rule) (m : Map RuleSt) (k : Nat) (tg vl : Rule → Nat), a.outkind = k → (Tbl.getD m a.num {}).state = true →
    Tbl.find? (outputs (a :: l) m k tg vl) (tg a) = some (vl a, a.num)

/-! ### The structure image -/

/-- STAGING_OPEN, STAGING_CLOSE, VERIFY, ACTIVATE, OVCOPY, STAGING_COMMAND_DONE, IMAGE_LOAD, SETTINGS_STORE, STORE_DONE and SETTINGS_ERASE (R385,
R393, R394, R397, R398, R406, R407, R517 to R519): a staging command is refused with BUSY while another runs; OPEN erases the inactive
slot; ACTIVATE needs a VERIFY of OK and no armed change, and an active twin with a healthy partner veers first; OVCOPY copies a valid overlay
that is not in use; a load takes the active slot, else falls back from a pending update, else tries the other slot, else enters doldrums
mode; a settings record is written into the area that does not hold the last one, and is valid only when the store completes.
Rests on assumption-log entries 21, 116, 117, 118, 119, 120, 124, 125, 126, 139, 140, 157, 159 and 188. -/
def Obligations.ImageStagesAndLoads : Prop :=
  (∀ (s : State) (f : Frame) (x : RegRow), s.WritesReg f F.IMG_STG_CTL_OP 0 x →
    let op := wordOf f % 8
    let k := bits (wordOf f) 6 3
    let from_ := ovlAt s.stagedSlot k
    let used := fun m => (s.modeOf m).any fun e => decide (e.ovl = k)
    (op ≠ 1 → exec (.stagingOpen f) s = .next s)
    ∧ (s.staging = true →
      (op = 1 → exec (.stagingOpen f) s = .next (s.settle 5 f { st := .busy })) ∧ (op = 2 → exec (.stagingClose f) s = .next (s.settle 5 f { st := .busy }))
      ∧ (op = 3 → exec (.verifyOp f) s = .next (s.settle 5 f { st := .busy })) ∧ (op = 5 → exec (.ovcopy f) s = .next (s.settle 5 f { st := .busy }))
      ∧ (op = 4 → exec (.activate f) s = .next ((s.stgResult 2 0).settle 5 f { st := .busy })))
    ∧ (s.staging = false →
      (op = 1 → exec (.stagingOpen f) s = .next (((({ s with nvm := Mem.clear s.nvm (slotAt s.stagedSlot) 0x280000 } : State).set F.IMG_STG_STAT_OPEN 0 1).onImg
        fun g => { g with verified := false, running := some (1, 0) }).settle 5 f {}))
      ∧ (op = 2 → exec (.stagingClose f) s = .next (((s.set F.IMG_STG_STAT_OPEN 0 0).stgResult 0 0).settle 5 f {}))
      ∧ (op = 3 → exec (.verifyOp f) s = .next ((s.onImg fun g => { g with running := some (3, 0) }).settle 5 f {}))
      ∧ (op = 4 →
        (s.img.arm ≠ none → exec (.activate f) s = .next ((s.stgResult 2 0).settle 5 f { st := .busy }))
        ∧ (s.img.arm = none → s.img.verified = false → exec (.activate f) s = .next ((s.stgResult 3 0).settle 5 f {}))
        ∧ (s.img.arm = none → s.img.verified = true → (s.activeTwin && s.healthy) = true → exec (.activate f) s =
          .next (((s.stgResult 0 0).requestVeer.onMgt fun m => { m with veer := some .activate }).settle 5 f {}))
        ∧ (s.img.arm = none → s.img.verified = true → (s.activeTwin && s.healthy) = false → exec (.activate f) s =
          .next ((s.stgResult 0 0).activateNow.settle 5 f {})))
      ∧ (op = 5 →
        (s.get F.IMG_MODE_OVL = k ∨ (∃ m, s.img.arm = some m ∧ used m.mode = true) → exec (.ovcopy f) s = .next ((s.stgResult 2 0).settle 5 f {}))
        ∧ (s.get F.IMG_MODE_OVL ≠ k → (∀ m, s.img.arm = some m → used m.mode = false) → exec (.ovcopy f) s =
          .next (if s.checkOvl s.baseLoader s.stagedSlot k = 0
            then ((({ s with nvm := Mem.writeN s.nvm (ovlAt (s.get F.IMG_STAT_SLOT) k) (Mem.readN s.nvm from_ (imgHdr s.nvm from_).len) } : State).set
              F.IMG_OVSTAT_PRESENT 0 (setBit (s.get F.IMG_OVSTAT_PRESENT) k true)).stgResult 0 0).settle 5 f {}
            else (s.stgResult 1 (s.checkOvl s.baseLoader s.stagedSlot k)).settle 5 f {})))))
  ∧ (∀ (s : State) (vio : List Nat), s.mgt.veer ≠ some .activate →
    let k := s.boot.imgSlot
    let second (x : State) : State := match x.checkBase (1 - k) true with
      | (_, some d) => (((x.setBoot fun b => { b with imgSlot := 1 - k }).showUpdates).note 0x10 18 [1 - k]).loadImage (1 - k) d vio
      | (n, none) => (x.rejectImage (1 - k) n).enterDoldrums 2
    (3 ≤ s.get F.IMG_STAT_STATE ∨ s.get F.MGT_STAT_DSRC = 1 ∨ s.packerBusy = true → exec (.imageLoad vio) s = .next s)
    ∧ (s.get F.IMG_STAT_STATE < 3 → s.get F.MGT_STAT_DSRC ≠ 1 → s.packerBusy = false → exec (.imageLoad vio) s = .next (match s.checkBase k true with
      | (_, some d) => s.loadImage k d vio
      | (r, none) => if (s.rejectImage k r).boot.imgPend = true then (s.rejectImage k r).fallBack 2 else second (s.rejectImage k r))))
  ∧ ∀ (s : State) (f : Frame) (x : RegRow) (k d : Nat) (data : List Byte),
    let z := zeros 64
    let es := s.img.setlist.map fun x => (x.1, match s.settingKey x.1, regRow? x.1 with
      | some key, some row => (s.word key (BitVec.ofNat 32 row.start)).toNat &&& x.2
      | _, _ => 0)
    let r : State.SetRec := { seq := s.settingsSeq + 1, hash := s.img.hash, mode := s.mode, entries := es }
    let u := s.onImg fun g => { g with running := none }
    let n := (u.checkBase u.stagedSlot true).1
    (s.img.running = none → exec .stagingCommandDone s = .next s)
    ∧ (s.img.running = some (1, d) → exec .stagingCommandDone s = .next (u.stgResult 0 0))
    ∧ (s.img.running = some (3, d) → exec .stagingCommandDone s =
      .next ((u.onImg fun g => { g with verified := decide (n = 0) && decide (d = 0) }).stgResult (if n = 0 then 0 else 1) n))
    ∧ (s.img.storing = none → exec .storeDone s = .next s)
    ∧ (s.img.storing = some (k, data) → exec .storeDone s =
      .next (((({ s with nvm := Mem.writeN s.nvm (State.areaAt k) data } : State).onImg fun g => { g with storing := none }).set
        F.IMG_SET_STAT_BUSY 0 0).set F.IMG_SET_STAT_AREA 0 k))
    ∧ (s.WritesReg f F.IMG_SET_CTL_STORE 0 x →
      (bit (wordOf f) 0 = true → s.img.storing ≠ none → exec (.settingsStore f) s = .next (s.settle 5 f { st := .busy }))
      ∧ (bit (wordOf f) 0 = true → bit (wordOf f) 1 = false → s.img.storing = none →
        k = (if s.boot.imgPend then s.get F.IMG_SET_STAT_AREA else 1 - s.get F.IMG_SET_STAT_AREA) →
        exec (.settingsStore f) s = .next (((({ s with nvm := Mem.writeN s.nvm (State.areaAt k) z } : State).set F.IMG_SET_STAT_BUSY 0 1).onImg
          fun g => { g with storing := some (k, State.SetRec.bytes r) }).settle 5 f {}))
      ∧ (bit (wordOf f) 0 = false → exec (.settingsStore f) s = .next s)
      ∧ (bit (wordOf f) 0 = false → bit (wordOf f) 1 = true → exec (.settingsErase f) s =
        .next (({ s with nvm := Mem.writeN (Mem.writeN s.nvm (State.areaAt 0) z) (State.areaAt 1) z } : State).settle 5 f {})))

/-- MODE_REQUEST, MODEREQ, MODEARM, MODEACK, MODE_DEADLINE, MODEGO, MODEABT, MODERES, MODEQRY, MODESTAT, MODESTAT_SEND, OVERLAY_INSTANT, MODE_LATE_APPLY
and MODE_INSTANT_NO_GO (R399 to R404): a request is BUSY while one is pending; the master alone answers it, refuses an unknown mode and a late
instant, and otherwise numbers the change and arms the ring; a hub arms if every check passes and answers either way; the master
resolves when all have answered ARMED, or at the deadline; an armed hub switches at its instant once it holds MODEGO, late by its
estimate, at once if it had to ask, and not at all after MODEABT; without either it asks the master, and gives up on a ring without one.
Rests on assumption-log entries 21, 42, 109, 121, 122 and 123. -/
def Obligations.ModesChangeTogether : Prop :=
  (∀ (s : State) (f : Frame) (x : RegRow), s.WritesReg f F.IMG_MC_CTL_REQ 0 x →
    let w := wordOf f
    let u := s.setWord F.IMG_MC_CTL_REQ.off (BitVec.ofNat 32 (w % 2 ^ 17))
    let inst : When := if bit w 5 then .phase (bits w 13 6) (bits w 16 14) (u.get F.IMG_MC_ARG0_ARG0)
      else .time (State.timeOf (u.sec / 2 ^ 32 % 2 ^ 16 * 2 ^ 32 + u.get F.IMG_MC_ARG1_ARG1) (u.get F.IMG_MC_ARG0_ARG0))
    (bit w 31 = false → exec (.modeRequest f) s = .next s)
    ∧ (bit w 31 = true → s.flag F.IMG_MC_STAT_PEND = true → exec (.modeRequest f) s = .next (s.settle 5 f { st := .busy }))
    ∧ (bit w 31 = true → s.flag F.IMG_MC_STAT_PEND = false → ∃ t, exec (.modeRequest f) s = .next ((t.sendMode 0x30 (u.get F.RNG_RSTAT_MASTER_HUB)
      (be 1 (w % 32) ++ State.whenBytes inst)).settle 5 f {}) ∧ t.flag F.IMG_MC_STAT_PEND = true ∧ t.get F.IMG_MC_STAT_OUTCOME = 0
      ∧ t.get F.IMG_MC_STAT_REASON = 0 ∧ s.OnlyIn [.regs] t))
  ∧ (∀ (s : State) (f : Frame), mgtRefused s.hubNum f = true → let r := s.settle 7 f { st := .ur }
    exec (.modereq f) s = .next r ∧ exec (.modearm f) s = .next r ∧ exec (.modeack f) s = .next r ∧ exec (.modego f) s = .next r
    ∧ exec (.modeabt f) s = .next r ∧ exec (.moderes f) s = .next r ∧ exec (.modeqry f) s = .next r ∧ exec (.modestat f) s = .next r)
  ∧ (∀ (s : State) (f : Frame), mgtRefused s.hubNum f = false →
    let u := s.take f
    let m := beAt f.pay 2 1
    let w := State.whenAt f.pay 3
    (u.master = false → exec (.modereq f) s = .next u ∧ exec (.modeqry f) s = .next u)
    ∧ (u.master = true → u.img.change ≠ none → exec (.modereq f) s = .next (u.sendMode 0x35 f.src [2, 0, 0]))
    ∧ (u.master = true → u.img.change = none → u.modeOf m = none → exec (.modereq f) s = .next (u.sendMode 0x35 f.src [4, 0, 0]))
    ∧ (∀ e n, u.master = true → u.img.change = none → u.modeOf m = some e → w = .time n →
      let g := u.get F.IMG_MC_CFG_GUARD * 1000000
      let d := min (n - g) (u.ns + u.get F.IMG_MC_CFG_ARMTMO * 1000000)
      let opid := u.hubNum * 256 + u.img.opCount % 256
      (n < u.ns + u.get F.IMG_MC_CFG_ARMMIN * 1000000 → exec (.modereq f) s = .next (u.sendMode 0x35 f.src [3, 0, 0]))
      ∧ (u.ns + u.get F.IMG_MC_CFG_ARMMIN * 1000000 ≤ n → exec (.modereq f) s = .next
        ((u.onImg fun g => { g with opCount := g.opCount + 1,
                                    change := some { opid := opid, mode := m, at_ := w, reqHub := f.src, deadline := d } }).sendMode 0x31 0xFE
          (be 2 opid ++ be 1 m ++ State.whenBytes w ++ be 6 (d / 10 ^ 9) ++ be 4 (d % 10 ^ 9)))))
    ∧ (∀ r, u.master = true → u.img.resolved = some (beAt f.pay 2 2, true) → r = be 2 (beAt f.pay 2 2) →
      exec (.modeqry f) s = .next (u.sendMode 0x33 f.src r))
    ∧ (u.master = true → u.img.resolved ≠ some (beAt f.pay 2 2, true) →
      exec (.modeqry f) s = .next (u.sendMode 0x34 f.src (be 2 (beAt f.pay 2 2) ++ [0, 0]))))
  ∧ (∀ (s : State) (f : Frame) (r k : Nat), mgtRefused s.hubNum f = false →
    let u := s.take f
    let ack (t : State) : State := t.sendMode 0x32 f.src (be 2 (beAt f.pay 2 2) ++ be 1 t.hubNum ++ be 1 (b2n t.standby) ++ be 1 r)
    u.armCheck (beAt f.pay 4 1) (State.whenAt f.pay 5) (State.timeOf (beAt f.pay 18 6) (beAt f.pay 24 4)) = (r, k) →
    (r = 0 → exec (.modearm f) s = .next (ack
      (u.onImg fun g => { g with arm := some { opid := beAt f.pay 2 2, mode := beAt f.pay 4 1, at_ := State.whenAt f.pay 5, ph := k } })))
    ∧ (r ≠ 0 → exec (.modearm f) s = .next (ack (u.bump F.IMG_CNT_VETO))))
  ∧ (∀ (s : State) (f : Frame) (c : ModeChange) (a : Arm), mgtRefused s.hubNum f = false →
    let u := s.take f
    (u.img.change = some c → u.master = true → c.opid = beAt f.pay 2 2 →
      let n := { c with acks := c.acks ++ [(beAt f.pay 4 1, bit (beAt f.pay 5 1) 0, beAt f.pay 6 1)] }
      let v := u.onImg fun g => { g with change := some n }
      exec (.modeack f) s = .next (if v.allArmed n then v.resolveMode n else v))
    ∧ (u.img.change = some c → u.master = false ∨ c.opid ≠ beAt f.pay 2 2 → exec (.modeack f) s = .next u)
    ∧ (u.img.arm = none → exec (.modego f) s = .next u ∧ exec (.modeabt f) s = .next u)
    ∧ (u.img.arm = some a → a.opid ≠ beAt f.pay 2 2 → exec (.modego f) s = .next u ∧ exec (.modeabt f) s = .next u)
    ∧ (u.img.arm = some a → a.opid = beAt f.pay 2 2 → exec (.modeabt f) s = .next (u.onImg fun g => { g with arm := none }))
    ∧ (u.img.arm = some a → a.opid = beAt f.pay 2 2 → a.asked ≠ none → exec (.modego f) s = .next ((u.switchMode a).bump F.IMG_CNT_LATEAPPLY))
    ∧ (∀ n, u.img.arm = some a → a.opid = beAt f.pay 2 2 → a.asked = none → a.at_ = .time n →
      exec (.modego f) s = .next (u.onImg fun g => { g with arm := some { a with go := true, est := none } }))
    ∧ (u.flag F.IMG_MC_STAT_PEND = false → exec (.moderes f) s = .next u)
    ∧ (u.flag F.IMG_MC_STAT_PEND = true → exec (.moderes f) s = .next ((((u.set F.IMG_MC_STAT_PEND 0 0).set F.IMG_MC_STAT_OUTCOME 0 (beAt f.pay 2 1)).set
      F.IMG_MC_STAT_VHUB 0 (beAt f.pay 3 1)).set F.IMG_MC_STAT_REASON 0 (beAt f.pay 4 1)))
    ∧ (u.img.loaded = true → beAt f.pay 2 1 % 32 ≠ u.mode ∨ beAt f.pay 4 2 ≠ u.epoch → exec (.modestat f) s =
      .next (((u.applyMode (beAt f.pay 2 1 % 32)).set F.IMG_MODE_EPOCH 0 (beAt f.pay 4 2)).bump F.IMG_CNT_LATEAPPLY))
    ∧ (beAt f.pay 2 1 % 32 = u.mode → beAt f.pay 4 2 = u.epoch → exec (.modestat f) s = .next u))
  ∧ ∀ (s : State) (a : Arm),
    let m := s.get F.RNG_RSTAT_MASTER_HUB
    (∀ c, s.img.change = some c →
      (s.master = true → c.deadline ≤ s.ns → exec .modeDeadline s = .next (s.resolveMode c))
      ∧ (s.master = false ∨ s.ns < c.deadline → exec .modeDeadline s = .next s))
    ∧ (s.master = true → (∀ t, s.img.statAt = some t → t + 100000000 ≤ s.up) → exec .modestatSend s = .next s.sendModestat)
    ∧ (s.master = false ∨ (∃ t, s.img.statAt = some t ∧ s.up < t + 100000000) → exec .modestatSend s = .next s)
    ∧ (∀ n, s.img.arm = some a → a.at_ = .time n → a.go = true → n ≤ s.ns → exec .overlayInstant s = .next (s.switchMode a))
    ∧ (∀ n, s.img.arm = some a → a.at_ = .time n → a.go = false ∨ s.ns < n → exec .overlayInstant s = .next s)
    ∧ (∀ h r x, s.img.arm = some a → a.at_ = .phase h r x → a.go = true → 0 ≤ sdiff 32 (s.phaseNow a.ph) x →
      exec .overlayInstant s = .next (s.switchMode a))
    ∧ (∀ t, s.img.arm = some a → a.est = some t → a.go = true → t ≤ s.ns →
      exec .modeLateApply s = .next ((s.switchMode a).bump F.IMG_CNT_LATEAPPLY))
    ∧ (s.img.arm = none ∨ (∃ b, s.img.arm = some b ∧ (b.est = none ∨ b.go = false ∨ ∃ t, b.est = some t ∧ s.ns < t)) → exec .modeLateApply s = .next s)
    ∧ (s.img.arm = some a → a.go = true ∨ s.modeReached a = false ∨ a.asked = some m → exec .modeInstantNoGo s = .next s)
    ∧ (s.img.arm = some a → a.go = false → s.modeReached a = true → m ≠ 0xFF → a.asked ≠ some m → exec .modeInstantNoGo s =
      .next ((s.onImg fun g => { g with arm := some { a with asked := some m } }).sendMode 0x36 m (be 2 a.opid)))
    ∧ (s.img.arm = some a → a.go = false → s.modeReached a = true → m = 0xFF → a.asked ≠ some m → exec .modeInstantNoGo s =
      .next (s.onImg fun g => { g with arm := none }))

/-! ### The cipher block -/

/-- KEY_DERIVE, KEY_ERASE, DERIVATION_DONE, LA_GO, LA_JOB_START, LA_JOB_END, CTX_SAVE, CTX_RESTORE, PAGE_ALLOC and PAGE_FREE (R412, R422 to R432): a
slot outside the page's range is UR, a page of another owner VIOL with reason 5, a slot that is DERIVING BUSY; a job that fails no check is
queued, up to four for a page; the engine starts it with the key of a READY slot, or ends it STALE if the key has changed since; a
tag that does not match leaves no text; a chaining state is restored only for the key it belongs to; a page is given to the
initiator that asks and freed by its owner when its queue is empty.
Rests on assumption-log entries 8, 21, 127, 128, 130, 131 and 135. -/
def Obligations.KeysAndJobsBelongToPages : Prop :=
  (∀ (s : State) (f : Frame) (x : RegRow) (n : Nat), n < 64 → s.WritesReg f F.UPnn_KD_OP n x →
    let w := wordOf f
    let k := bits w 15 8
    let ctx := be 1 (s.get F.UPnn_CFG_DOMAIN n) ++ (s.pageBytes F.UPnn_KDCTX n 0 8).take (bits w 7 3)
    (w % 4 ≠ 1 → exec (.keyDerive f) s = .next s) ∧ (w % 4 ≠ 2 → exec (.keyErase f) s = .next s)
    ∧ (w % 4 = 1 →
      (s.page? n = none → exec (.keyDerive f) s = .next (s.settle 5 f { st := .viol, reason := 5 }))
      ∧ ∀ p, s.page? n = some p →
        (s.slotIn n k = false ∨ bits w 7 3 = 0 → exec (.keyDerive f) s = .next (s.settle 5 f { st := .ur }))
        ∧ (s.slotIn n k = true → bits w 7 3 ≠ 0 →
          (State.notOwner p f = true → exec (.keyDerive f) s = .next (s.settle 5 f { st := .viol, reason := 5 }))
          ∧ (State.notOwner p f = false → (s.slot k).st = .deriving_ → exec (.keyDerive f) s = .next (s.settle 5 f { st := .busy }))
          ∧ (State.notOwner p f = false → (s.slot k).st ≠ .deriving_ →
            exec (.keyDerive f) s = .next ((s.derive k (bit w 2) lblUser ctx).settle 5 f {}))))
    ∧ (w % 4 = 2 →
      (s.page? n = none → exec (.keyErase f) s = .next (s.settle 5 f { st := .viol, reason := 5 }))
      ∧ ∀ p, s.page? n = some p →
        (s.slotIn n k = false → exec (.keyErase f) s = .next (s.settle 5 f { st := .ur }))
        ∧ (s.slotIn n k = true →
          (State.notOwner p f = true → exec (.keyErase f) s = .next (s.settle 5 f { st := .viol, reason := 5 }))
          ∧ (State.notOwner p f = false → (s.slot k).st = .deriving_ → exec (.keyErase f) s = .next (s.settle 5 f { st := .busy }))
          ∧ (State.notOwner p f = false → (s.slot k).st ≠ .deriving_ → exec (.keyErase f) s = .next ((s.eraseSlot k).settle 5 f {})))))
  ∧ (∀ (s : State) (k : Nat),
    (∀ d l c, s.cry.squall = true → s.derive k d l c = s.eraseSlot k)
    ∧ (∀ d l c, s.cry.squall = false → (s.derive k d l c).slot k =
      { s.slot k with st := .deriving_, key := kdf (s.rootOf d) l c, gen := ((s.slot k).gen + 1) % 2 ^ 16, dev := d })
    ∧ ((s.slot k).st = .deriving_ → exec (.derivationDone k) s =
      .next (s.onCry fun c => { c with slots := Tbl.put c.slots k { s.slot k with st := .ready } }))
    ∧ ((s.slot k).st ≠ .deriving_ → exec (.derivationDone k) s = .next s))
  ∧ (∀ (s : State) (f : Frame) (x : RegRow) (n : Nat) (p : Page), n < 64 → s.WritesReg f F.UPnn_GO_GO n x →
    let j := s.jobOf n f
    (bit (wordOf f) 0 = false → exec (.laGo f) s = .next s)
    ∧ (bit (wordOf f) 0 = true →
      (s.page? n = none → exec (.laGo f) s = .next (s.settle 5 f { st := .viol, reason := 5 }))
      ∧ (s.page? n = some p → s.jobWrong p j = true → exec (.laGo f) s = .next (s.settle 5 f { st := .ur }))
      ∧ (s.page? n = some p → s.jobWrong p j = false →
        (State.notOwner p f = true → exec (.laGo f) s = .next (s.settle 5 f { st := .viol, reason := 5 }))
        ∧ (∀ r, State.notOwner p f = false → s.jobRefused j = some r → exec (.laGo f) s = .next (s.settle 5 f { st := .viol, reason := r }))
        ∧ (State.notOwner p f = false → s.jobRefused j = none → 4 ≤ p.queue.length →
          exec (.laGo f) s = .next ((s.bump F.CRY_CNT_QFULL).settle 5 f { st := .nores }))
        ∧ (State.notOwner p f = false → s.jobRefused j = none → p.queue.length < 4 →
          exec (.laGo f) s = .next ((s.setPage n { p with queue := p.queue ++ [j] }).take f)))))
  ∧ (∀ (s : State) (n : Nat) (p : Page) (j : Job) (l : List Job),
    (s.cry.running ≠ none ∨ s.cry.squall = true → exec .laJobStart s = .next s)
    ∧ (s.cry.running = none → s.cry.squall = false → s.nextPage = some (n, p) → p.queue = j :: l →
      ((s.slot j.slot).gen ≠ j.gen → exec .laJobStart s =
        .next (((s.onCry fun c => { c with rotor := n }).bump F.CRY_CNT_STALE).jobDone j 3 0 .stale none))
      ∧ ((s.slot j.slot).gen = j.gen → (s.slot j.slot).st = .ready → exec .laJobStart s =
        .next (s.onCry fun c => { c with rotor := n, running := some (j, (s.slot j.slot).key) }))
      ∧ ((s.slot j.slot).gen = j.gen → (s.slot j.slot).st = .deriving_ → exec .laJobStart s = .next s))
    ∧ (s.cry.running = none → ∀ x b, exec (.laJobEnd x b) s = .next s)
    ∧ (∀ x b key, s.cry.running = some (j, key) → exec (.laJobEnd x b) s = .next ((s.onCry fun c => { c with running := none }).jobEnd j key x b))
    ∧ (∀ b key, j.abort = none → j.writes = true → s.jobEnd j key true b =
      (s.zeroRange j.dst j.len).jobDone j 6 (min j.len (16 * b)) .poison none)
    ∧ (∀ b key, j.abort = none → j.checks = true → j.final = true → j.writes = true → j.tags = false →
      let x := s.compute key j ((s.page? j.page).bind fun p => p.chain)
      s.jobEnd j key false b = if s.bulkBytes j.taga j.tlen = x.2.1.take j.tlen
        then ({ s with bulk := Mem.writeN s.bulk j.dst x.1 } : State).jobDone j 1 j.len .ok none
        else ((s.zeroRange j.dst j.len).bump F.CRY_CNT_AUTHFAIL).jobDone j 2 j.len .poison none))
  ∧ (∀ (s : State) (f : Frame) (x : RegRow) (n : Nat) (p : Page), n < 64 → s.WritesReg f F.UPnn_CTXCTL_OP n x →
    let w := wordOf f
    let b := s.pageBytes F.UPnn_CTX n 0 21
    let c := chainOf (b.take 56)
    (w % 4 ≠ 1 → exec (.ctxSave f) s = .next s) ∧ (w % 4 ≠ 2 → exec (.ctxRestore f) s = .next s)
    ∧ (s.page? n = none ∨ (s.page? n = some p ∧ State.notOwner p f = true) →
      (w % 4 = 1 → exec (.ctxSave f) s = .next (s.settle 5 f { st := .viol, reason := 5 }))
      ∧ (w % 4 = 2 → exec (.ctxRestore f) s = .next (s.settle 5 f { st := .viol, reason := 5 })))
    ∧ (s.page? n = some p → State.notOwner p f = false →
      (w % 4 = 1 → p.queue ≠ [] → exec (.ctxSave f) s = .next ((s.set F.UPnn_CTXCTL_RESULT n 3).settle 5 f { st := .busy }))
      ∧ (∀ h, w % 4 = 1 → p.queue = [] → bit w 2 = false → p.chain = some h → exec (.ctxSave f) s =
        .next (((s.setPageBytes F.UPnn_CTX n h.bytes).set F.UPnn_CTXCTL_RESULT n 0).settle 5 f {}))
      ∧ (w % 4 = 2 → p.queue = [] → bit w 2 = false → c.gen = (s.slot c.slot).gen → exec (.ctxRestore f) s =
        .next (((s.setPage n { p with chain := some c }).set F.UPnn_CTXCTL_RESULT n 0).settle 5 f {}))
      ∧ (w % 4 = 2 → p.queue = [] → bit w 2 = false → c.gen ≠ (s.slot c.slot).gen → exec (.ctxRestore f) s =
        .next (((s.setPage n { p with chain := none }).set F.UPnn_CTXCTL_RESULT n 2).settle 5 f {}))))
  ∧ ∀ (s : State) (f : Frame) (x : RegRow), s.WritesReg f F.CRY_CMD_OP 0 x → s.holds .cry f.src f.init = true →
    let u := s.unlock .cry
    let old := u.get F.CRY_CMD_RES_PAGE
    let d := u.img.pages.length
    let n := bits (wordOf f) 7 2
    (wordOf f % 4 = 1 →
      (Tbl.firstFree u.cry.pages d (64 - d) = none → exec (.pageAlloc f) s = .next (((u.cryRes old 1).bump F.CRY_CNT_EXH).settle 5 f { st := .nores }))
      ∧ (∀ k, Tbl.firstFree u.cry.pages d (64 - d) = some k → exec (.pageAlloc f) s =
        .next (((u.openPage k f.src f.init true).cryRes k 0).settle 5 f {})))
    ∧ (wordOf f % 4 = 2 →
      (u.page? n = none → exec (.pageFree f) s = .next ((u.cryRes old 4).settle 5 f {}))
      ∧ ∀ p, u.page? n = some p →
        (p.runtime = false → exec (.pageFree f) s = .next ((u.cryRes old 4).settle 5 f {}))
        ∧ (p.runtime = true → State.notOwner p f = true → classOf u.hubNum f.src f.init ≠ some .mirik →
          exec (.pageFree f) s = .next (u.settle 5 f { st := .viol, reason := 5 }))
        ∧ (p.runtime = true → State.notOwner p f = false → p.queue ≠ [] → exec (.pageFree f) s = .next ((u.cryRes old 2).settle 5 f {}))
        ∧ (p.runtime = true → State.notOwner p f = false → p.queue = [] → exec (.pageFree f) s =
          .next ((((u.erasePage n).onCry fun c => { c with pages := Tbl.erase c.pages n }).cryRes old 0).settle 5 f {})))

/-- EPOCH_ROTATE, EPOCH_PERIOD, SQUALL, TAMPER_SAMPLE, the five fuse commands and FUSE_DONE (R418, R434 to R438): a transmitter moves its epoch when it
may and keeps the request otherwise, but not past the last epoch; an enabled source of squall ends every job, erases every key and
drops the hub out of the ring; a fuse command is refused with BUSY while one runs, and when it ends a fuse that was programmed
already gives RESULT 1 and stays as it was.
Rests on assumption-log entries 21, 132, 133, 157, 159 and 164. -/
def Obligations.EpochsSquallsAndFuses : Prop :=
  (∀ (s : State) (f : Frame) (x : RegRow), s.WritesReg f F.CRY_LK_CTL_ROTATE_E 0 x →
    exec (.epochRotate f) s = .next ((Sys2Proof.Machine.epochRotate (bit (wordOf f) 0) (bit (wordOf f) 1) s).settle 5 f {}))
  ∧ (∀ (s : State) (l : Lane) (c : LinkCtx),
    (s.moveDue l = true → s.mayMove l = true → exec (.epochPeriod l) s = .next (s.moveEpoch l))
    ∧ (s.moveDue l = false ∨ s.mayMove l = false → exec (.epochPeriod l) s = .next s)
    ∧ (s.cry.rotate.contains l.ix = false → s.curCtx l true = some c → (s.moveDue l = true ↔
      c.since + s.get F.CRY_LK_CFG_PERIOD * 3600000000000 ≤ s.up ∨ c.mark < c.hopiv / 2 ^ 40))
    ∧ (s.mayMove .e = true → Sys2Proof.Machine.epochRotate true false s = s.moveEpoch .e)
    ∧ (s.mayMove .w = false → s.cry.rotate.contains 1 = false → Sys2Proof.Machine.epochRotate false true s =
      s.onCry fun k => { k with rotate := k.rotate ++ [1] })
    ∧ Sys2Proof.Machine.epochRotate false false s = s
    ∧ (s.curCtx l true = some c → 0xFFFF ≤ c.epoch → s.moveEpoch l =
      (s.onCry fun k => { k with rotate := k.rotate.filter fun x => decide (x ≠ l.ix) }).set F.CRY_LK_STAT_EPMAX 0 1))
  ∧ (∀ (s : State) (k m : Nat),
    (k < 4 → bit (s.get F.CRY_SQ_CFG_TMPEN) k = false → exec (.squall k) s = .next s)
    ∧ (k < 4 → bit (s.get F.CRY_SQ_CFG_TMPEN) k = true → exec (.squall k) s =
      .next ((s.set F.CRY_SQ_STAT_TMP 0 (setBit (s.get F.CRY_SQ_STAT_TMP) k true)).squall.note 0x38 14 [k]))
    ∧ (s.flag F.CRY_SQ_CFG_VMON = true → exec (.squall 4) s = .next ((s.set F.CRY_SQ_STAT_VMON 0 1).squall.note 0x38 14 [4]))
    ∧ (s.flag F.CRY_SQ_CFG_TMON = true → exec (.squall 5) s = .next ((s.set F.CRY_SQ_STAT_TMON 0 1).squall.note 0x38 14 [5]))
    ∧ (s.flag F.CRY_SQ_CFG_CMON = true → exec (.squall 6) s = .next ((s.set F.CRY_SQ_STAT_CMON 0 1).squall.note 0x38 14 [6]))
    ∧ (s.flag F.CRY_SQ_CFG_VMON = false → exec (.squall 4) s = .next s)
    ∧ s.squall.flag F.CRY_STAT_SQUALL = true
    ∧ (s.eraseKeys.cry.squall = true ∧ s.eraseKeys.cry.linkCur = [] ∧ s.eraseKeys.cry.fleet = none
      ∧ ∀ p ∈ s.eraseKeys.cry.pages, p.2.key = [] ∧ p.2.chain = none ∧ p.2.queue = [])
    ∧ (s.flag F.PWR_STAT_HDPG = true ∨ m % 16 = 0 → exec (.tamperSample m) s = .next s)
    ∧ (s.flag F.PWR_STAT_HDPG = false → m % 16 ≠ 0 → exec (.tamperSample m) s = .next (((s.set F.CRY_SQ_STAT_TMP 0
      (s.get F.CRY_SQ_STAT_TMP ||| m % 16)).set F.CRY_SQ_STAT_UNPWR 0 1).eraseKeys.set F.CRY_STAT_SQUALL 0 1)))
  ∧ ∀ (s : State) (f : Frame) (x : RegRow) (k : Nat),
    let op := wordOf f % 8
    let begun := (s.onCry fun c => { c with fuseCmd := some (op, bits (wordOf f) 4 3) }).set F.CRY_FUSE_STAT_BUSY 0 1
    let ended (t : State) (r : Nat) (d : List Byte) : State :=
      ((((t.onCry fun c => { c with fuseCmd := none }).set F.CRY_FUSE_STAT_BUSY 0 0).setFuseData d).set F.CRY_FUSE_STAT_RESULT 0 r).showFuses
    (s.WritesReg f F.CRY_FUSE_CMD_OP 0 x →
      (op ≠ 1 → exec (.pgmFleet f) s = .next s)
      ∧ (s.flag F.CRY_FUSE_STAT_BUSY = true → let r := s.settle 5 f { st := .busy }
        (op = 1 → exec (.pgmFleet f) s = .next r) ∧ (op = 2 → exec (.pgmImgkey f) s = .next r) ∧ (op = 3 → exec (.revokeImgkey f) s = .next r)
        ∧ (op = 4 → exec (.revokeJk0 f) s = .next r) ∧ (op = 5 → exec (.readImgkey f) s = .next r))
      ∧ (s.flag F.CRY_FUSE_STAT_BUSY = false → let r := begun.settle 5 f {}
        (op = 1 → exec (.pgmFleet f) s = .next r) ∧ (op = 2 → exec (.pgmImgkey f) s = .next r) ∧ (op = 3 → exec (.revokeImgkey f) s = .next r)
        ∧ (op = 4 → exec (.revokeJk0 f) s = .next r) ∧ (op = 5 → exec (.readImgkey f) s = .next r)))
    ∧ (∀ x, s.cry.fuseCmd = none → exec (.fuseDone x) s = .next s)
    ∧ (∀ o x, s.cry.fuseCmd = some (o, k) → x = 2 ∨ x = 3 → exec (.fuseDone x) s = .next (ended s x (zeros 48)))
    ∧ (∀ d, s.cry.fuseCmd = some (1, k) → s.cry.fuse.fleet = some d → exec (.fuseDone 0) s = .next (ended s 1 (zeros 48)))
    ∧ (s.cry.fuseCmd = some (1, k) → s.cry.fuse.fleet = none → exec (.fuseDone 0) s =
      .next (ended (s.onFuse fun z => { z with fleet := some (s.fuseData 8) }) 0 (zeros 48)))
    ∧ (∀ d, s.cry.fuseCmd = some (2, k) → s.cry.fuse.imgkey.getD k none = some d → exec (.fuseDone 0) s = .next (ended s 1 (zeros 48)))
    ∧ (s.cry.fuseCmd = some (3, k) → s.cry.fuse.imgrev.getD k false = false → exec (.fuseDone 0) s =
      .next (ended (s.onFuse fun z => { z with imgrev := setAt z.imgrev k true }) 0 (zeros 48)))
    ∧ (s.cry.fuseCmd = some (4, k) → s.cry.fuse.jkrev = false → exec (.fuseDone 0) s =
      .next (ended (s.onFuse fun z => { z with jkrev := true }) 0 (zeros 48)))
    ∧ (∀ d, s.cry.fuseCmd = some (5, k) → s.cry.fuse.imgkey.getD k none = some d → exec (.fuseDone 0) s = .next (ended s 0 d))

/-! ### Twin pairs -/

/-- TWS, TWS_SEND, ORIGN, DONE, LHIST, HOSTF and SYNC_RESTORE (R442, R445 to R449): TWS shows the partner's role, SYNC and SERIAL; only a twin
whose lane T is not OFF sends one, and a twin that is not active sends it alone; a note out of sequence loses SYNC; ORIGN gives a standby
the next number of each stream, and DONE its completed work; a restarted twin takes its link histories from LHIST, each resumed 2^32
frames further; a host frame is taken once all its fragments are there; SYNC returns after 1 s without a gap in which every used bus was
reported empty.
Rests on assumption-log entries 23, 24, 119, 136, 137, 138 and 140. -/
def Obligations.TwinsExchangeNotes : Prop :=
  ∀ (s : State) (f : Frame) (n : Nat),
    let v := (s.take f).noteSeq (beAt f.pay 2 2)
    let g (w : Nat) : Frag := Tbl.getD v.twn.frags w { count := beAt f.pay 7 1, port := beAt f.pay 8 1 }
    (n = s.twn.noteRx → s.noteSeq n = s.onTwn fun t => { t with noteRx := (n + 1) % 65536 })
    ∧ (n ≠ s.twn.noteRx → s.noteSeq n = s.loseSync.onTwn fun t => { t with noteRx := (n + 1) % 65536 })
    ∧ (∃ t, exec (.tws n) s = .next t ∧ t.twn = { s.twn with psync := bit n 15, pserial := n % 2 ^ 15 } ∧ s.OnlyIn [.regs, .twn] t
      ∧ t.get F.TWN_STAT_PROLE = (if bits n 19 16 < 4 then bits n 19 16 else 0) ∧ s.WordsBut [F.TWN_STAT_PROLE.key 0] t)
    ∧ (s.isTwin = false ∨ s.laneState .t = 0 ∨ (∃ a, s.twn.twsAt = some a ∧ s.up < a + 1000) → exec .twsSend s = .next s)
    ∧ (s.isTwin = true → s.laneState .t ≠ 0 → (∀ a, s.twn.twsAt = some a → a + 1000 ≤ s.up) →
      s.activeTwin = false ∨ s.twn.orign = [] ∧ s.twn.done = [] ∧ s.up < s.twn.lhistAt + 1000000
        ∧ State.histShape s.twn.lhistSent = State.histShape s.cry.hist → ∃ t, exec .twsSend s = .next t ∧ s.OnlyIn [.twn, .out] t
      ∧ t.twn = { s.twn with twsAt := some s.up, healthySince := t.twn.healthySince }
      ∧ t.out = s.out ++ [.word .t 6 (s.get F.TWN_STAT_ROLE * 2 ^ 16 + s.get F.TWN_STAT_SYNC * 2 ^ 15 + s.serialLow)])
    ∧ (v.standby = false → exec (.orign f) s = .next v)
    ∧ (v.standby = true → f.pay.length = 12 →
      let d := beAt f.pay 4 2
      let k := ((b2n (decide (0x8000 ≤ d)) * 256 + v.hubNum) * 4096 + d % 0x8000) * 16 + beAt f.pay 6 1
      exec (.orign f) s = .next (v.onRng fun r => { r with origin := Tbl.put r.origin k ((beAt f.pay 8 4 + 1) % 2 ^ 32) }))
    ∧ ((s.noteSeq n).standby = false → ∀ it em, exec (.done n it em) s = .next (s.noteSeq n))
    ∧ ((s.noteSeq n).standby = true → ∀ it, exec (.done n it []) s =
      .next ((it.foldl (fun s d => s.applyDone d) (s.noteSeq n)).onTwn fun t => { t with empties := t.empties ++ [] }))
    ∧ (∀ src init tag, s.applyDone (.cmp src init tag) = s.onTwn fun t =>
      { t with unsent := t.unsent.filter (fun f => !(decide (f.dst = src) && decide (f.init = init) && decide (f.tag = tag))) })
    ∧ (∀ th mine, let u := (s.noteSeq n).onTwn fun t => { t with mirror := th }
      (s.cry.hist ≠ [] → exec (.lhist n th mine) s = .next u)
      ∧ (s.cry.hist = [] → exec (.lhist n th mine) s = .next (u.onCry fun c => { c with hist := mine.foldl (fun (m : Map (List LinkCtx)) p =>
                                     Tbl.put m p.1 (p.2.map fun (x : LinkCtx) => { x with hopiv := x.hopiv + 2 ^ 32, since := u.up, mark := x.hopiv / 2 ^ 40 })) [] })))
    ∧ (∀ w, w = beAt f.pay 4 2 → (g w).count ≤ (Tbl.put (g w).parts (beAt f.pay 6 1) (f.pay.drop 12)).length → v.activeTwin = false →
      ∃ t, exec (.hostf f) s = .next t ∧ t.twn.frags = [] ∧ v.OnlyIn [.twn] t)
    ∧ (∀ w, w = beAt f.pay 4 2 → (g w).count ≤ (Tbl.put (g w).parts (beAt f.pay 6 1) (f.pay.drop 12)).length → v.activeTwin = true →
      ∃ t : State, exec (.hostf f) s = .next (t.hostFrame (g w).port ((Tbl.put (g w).parts (beAt f.pay 6 1) (f.pay.drop 12)).flatMap fun p => p.2))
      ∧ t.twn.frags = [] ∧ v.OnlyIn [.twn] t)
    ∧ (∀ w, w = beAt f.pay 4 2 → (Tbl.put (g w).parts (beAt f.pay 6 1) (f.pay.drop 12)).length < (g w).count →
      exec (.hostf f) s = .next (v.onTwn fun t => { t with frags := [(w, { g w with parts := Tbl.put (g w).parts (beAt f.pay 6 1) (f.pay.drop 12) })] }))
    ∧ (s.standby = false ∨ s.up < s.twn.gapAt + 10 ^ 9 → exec .syncRestore s = .next s)
    ∧ (s.standby = true → s.twn.gapAt + 10 ^ 9 ≤ s.up → (∀ w, w < 256 → s.flag F.BRG_WIN_CFG_EN w = true → s.twn.empties.contains (s.winBus w) = true) →
      exec .syncRestore s = .next (s.set F.TWN_STAT_SYNC 0 1))

/-- SEQUENCER_MISMATCH, TWN_FAIL, PARTNER_FAIL, PARTNER_ACTIVE, ROLE_DECIDE, DOUBLE_ACTIVE, VEER, VEERREQ, VEERGO, VEERNO, VEER_BUS_IDLE, VEERDONE,
REVERT_TIMER and CUT_TRANSACTION_REDO (R441, R450, R452 to R460): only an active twin declares failure, and only a standby takes over; the
failed twin lets go of its pads once its partner is active; a twin that sees an active partner becomes standby; of two active twins the one
not preferred yields; a veer is BUSY on a standby, asked for only with a healthy partner, granted one at a time and not during a mode
change; the master's refusal and the end of the veer show in VSTAT; a cut transaction is performed again, once.
Rests on assumption-log entries 21, 42, 139, 140, 141, 142, 143 and 145. -/
def Obligations.TwinsSwapRoles : Prop :=
  (∀ (s : State) (gap : Nat) (cut : List (Nat × Option Nat)) (can : List Nat) (c : Nat),
    (s.activeTwin = false → s.declareFail c = s)
    ∧ (s.activeTwin = true → (s.declareFail c).get F.TWN_STAT_ROLE = 3)
    ∧ (s.isTwin = false → exec .sequencerMismatch s = .next s)
    ∧ (s.isTwin = true → exec .sequencerMismatch s = .next ((s.bump F.TWN_CNT_MISM).assertHold.declareFail 1))
    ∧ ((s.set F.TWN_STAT_FAILI 0 0).standby = true → exec (.partnerFail gap cut can) s = .next ((s.set F.TWN_STAT_FAILI 0 0).takeOver false gap cut can))
    ∧ ((s.set F.TWN_STAT_FAILI 0 0).standby = false → exec (.partnerFail gap cut can) s = .next (s.set F.TWN_STAT_FAILI 0 0))
    ∧ (let u := (s.set F.TWN_STAT_ACTI 0 1).onTwn fun t =>
        { t with actiAt := if s.flag F.TWN_STAT_ACTI then some (t.actiAt.getD s.up) else some s.up }
      (s.get F.TWN_STAT_ROLE = 3 → exec .partnerActive s = .next u.releaseHold) ∧ (s.get F.TWN_STAT_ROLE ≠ 3 → exec .partnerActive s = .next u))
    ∧ (∀ a b, let u := (s.setB F.TWN_STAT_FAILI 0 a).noteActi b
      let free (t : State) : State := t.onTwn fun x => { x with waitAt := none }
      let since := u.twn.waitAt.getD u.up
      (u.isTwin = false ∨ u.img.loaded = false ∨ u.admitted = false ∨ u.get F.TWN_STAT_ROLE ≠ 0 → exec (.roleDecide a b) s = .next (free u))
      ∧ (u.isTwin = true → u.img.loaded = true → u.admitted = true → u.get F.TWN_STAT_ROLE = 0 →
        (b = false → u.flag F.TWN_CFG_PREF = true ∨ a = false ∨ since + 1000000000 ≤ u.up →
          exec (.roleDecide a b) s = .next ((u.setRole 1).set F.TWN_STAT_PAIRINC 0 (u.get F.RNG_INC)))
        ∧ (b = false → u.flag F.TWN_CFG_PREF = false → a = true → u.up < since + 1000000000 →
          exec (.roleDecide a b) s = .next (u.onTwn fun x => { x with waitAt := some since }))
        ∧ (b = true → ∃ t, exec (.roleDecide a b) s = .next t ∧ t.get F.TWN_STAT_ROLE = 2 ∧ t.get F.TWN_STAT_SYNC = 0
          ∧ t.twn = { u.twn with gapAt := u.up, empties := [], waitAt := none } ∧ u.OnlyIn [.regs, .twn] t)))
    ∧ (s.activeTwin = false ∨ s.twn.actiAt = none → exec .doubleActive s = .next s)
    ∧ (∀ t, s.twn.actiAt = some t →
      (s.up < t + 2000 → exec .doubleActive s = .next s)
      ∧ (s.activeTwin = true → t + 2000 ≤ s.up → s.flag F.TWN_CFG_PREF = true → exec .doubleActive s = .next (s.bump F.TWN_CNT_DIVERGE))
      ∧ (s.activeTwin = true → t + 2000 ≤ s.up → s.flag F.TWN_CFG_PREF = false → ∃ t, exec .doubleActive s = .next t ∧ t.get F.TWN_STAT_ROLE = 2
        ∧ t.get F.TWN_STAT_SYNC = 0 ∧ s.OnlyIn [.regs, .twn] t)))
  ∧ (∀ (s : State) (f : Frame) (y : RegRow), s.WritesReg f F.TWN_CTL_VEER 0 y →
    let w := wordOf f
    let x := s.setB F.TWN_CTL_NOREVERT 0 (bit w 2)
    (bit w 0 = false → exec (.veer f) s = .next s) ∧ (bit w 1 = false → exec (.twnFail f) s = .next s)
    ∧ (bit w 0 = true → s.standby = true → exec (.veer f) s = .next (s.settle 5 f { st := .busy }))
    ∧ (bit w 0 = true → bit w 1 = false → s.standby = false → x.activeTwin = true → exec (.veer f) s = .next (x.requestVeer.settle 5 f {}))
    ∧ (bit w 0 = true → bit w 1 = false → s.standby = false → x.activeTwin = false → exec (.veer f) s = .next (x.settle 5 f {}))
    ∧ (bit w 0 = false → bit w 1 = true → exec (.twnFail f) s = .next ((x.declareFail 7).settle 5 f {})))
  ∧ ∀ (s : State) (f : Frame) (gap : Nat) (cut : List (Nat × Option Nat)) (can : List Nat) (b : Nat),
    let u := s.take f
    let ended (t : State) : State :=
      let t := t.bump F.TWN_CNT_VEER
      if t.flag F.TWN_VSTAT_PEND then (t.set F.TWN_VSTAT_PEND 0 0).set F.TWN_VSTAT_RESULT 0 1 else t
    (mgtRefused s.hubNum f = true → let r := s.settle 7 f { st := .ur }
      exec (.veerreq f) s = .next r ∧ exec (.veergo f) s = .next r ∧ exec (.veerno f) s = .next r ∧ exec (.veerdone f) s = .next r)
    ∧ (s.healthy = false → s.requestVeer = (s.set F.TWN_VSTAT_PEND 0 0).set F.TWN_VSTAT_RESULT 0 3)
    ∧ (s.healthy = true → s.requestVeer =
      ((s.set F.TWN_VSTAT_PEND 0 1).set F.TWN_VSTAT_RESULT 0 0).sendVeer 0x40 (s.get F.RNG_RSTAT_MASTER_HUB) [])
    ∧ (mgtRefused s.hubNum f = false →
      (u.master = false → exec (.veerreq f) s = .next u)
      ∧ (u.master = true → u.twn.granted ≠ none ∨ u.img.change ≠ none → exec (.veerreq f) s = .next (u.sendVeer 0x42 f.src [6]))
      ∧ (u.master = true → u.twn.granted = none → u.img.change = none → exec (.veerreq f) s =
        .next ((u.onTwn fun t => { t with granted := some f.src }).sendVeer 0x41 f.src []))
      ∧ (u.activeTwin = true → exec (.veergo f) s = .next (u.onTwn fun t => { t with veering := true, veerAt := u.up }))
      ∧ (u.activeTwin = false → exec (.veergo f) s = .next u)
      ∧ (u.flag F.TWN_VSTAT_PEND = true → exec (.veerno f) s = .next ((u.set F.TWN_VSTAT_PEND 0 0).set F.TWN_VSTAT_RESULT 0 2))
      ∧ (u.flag F.TWN_VSTAT_PEND = false → exec (.veerno f) s = .next u)
      ∧ (u.twn.granted = some f.src → exec (.veerdone f) s = .next (u.onTwn fun t => { t with granted := none }))
      ∧ (u.twn.granted ≠ some f.src → exec (.veerdone f) s = .next u))
    ∧ (s.activeTwin = true → s.twn.veering = true → s.veerReady = true → ∃ t, exec (.veerBusIdle gap cut can) s =
      .next ((ended t).sendVeer 0x43 (s.get F.RNG_RSTAT_MASTER_HUB) []) ∧ t.get F.TWN_STAT_ROLE = 2 ∧ t.get F.RNG_RSTAT_MASTER = 0
      ∧ t.twn = { s.twn with veering := false } ∧ (∀ p ∈ t.brg.buses, p.2.cur = none) ∧ s.OnlyIn [.regs, .brg, .twn] t)
    ∧ (s.standby = true → exec (.veerBusIdle gap cut can) s = .next (ended (s.takeOver true gap cut can)))
    ∧ (s.standby = false → s.activeTwin = false ∨ s.twn.veering = false ∨ s.veerReady = false → exec (.veerBusIdle gap cut can) s = .next s)
    ∧ (s.standby = false ∨ s.flag F.TWN_CFG_PREF = false ∨ s.flag F.TWN_CTL_NOREVERT = true ∨ s.twn.healthySince = none → exec .revertTimer s = .next s)
    ∧ (∀ t, s.standby = true → s.flag F.TWN_CFG_PREF = true → s.flag F.TWN_CTL_NOREVERT = false → s.flag F.TWN_VSTAT_PEND = false →
      s.twn.healthySince = some t → t + s.get F.TWN_CFG_HOLDOFF * 10 ^ 9 ≤ s.up → exec .revertTimer s = .next s.requestVeer)
    ∧ (s.quietFor b (s.recoverTime b) = false ∨ s.twn.cut.find? (fun (x : Nat × Option Nat) => decide (x.1 = b)) = none →
      exec (.cutTransactionRedo b) s = .next s)
    ∧ (let redo := (s.onTwn fun t => { t with cut := t.cut.filter fun (x : Nat × Option Nat) => decide (x.1 ≠ b) }).bump F.TWN_CNT_REDO
      s.quietFor b (s.recoverTime b) = true →
      (∀ e, s.twn.cut.find? (fun (x : Nat × Option Nat) => decide (x.1 = b)) = some (b, some e) → exec (.cutTransactionRedo b) s = .next (redo.startPoll b e))
      ∧ (∀ a l, s.twn.cut.find? (fun (x : Nat × Option Nat) => decide (x.1 = b)) = some (b, none) → (redo.bus b).queue = a :: l →
        exec (.cutTransactionRedo b) s = .next ((redo.setBus b { redo.bus b with queue := l }).startAccess b a)))

/-! ### Clocks, resets and power -/

/-- REF_CHANGE, REF_MEASURE_DONE, SPARE_PLL_LOCK, DOMAIN_MOVE, MISSING_EDGE, SOURCE_RUNNING, GATE_REQUEST, GATE_ACK, GATE_TIMEOUT and GATE_CLEAR (R464
to R477): the master follows its crystal and no other candidate; a forced candidate is followed while it is qualified; a new reference
is measured and then taken, hitless or by the ramp on which the spare PLL locks first; domains move one at a time, in order, while their
target runs; a source that stops is counted once; GATE holds the bits that can be gated, and a gate is applied only when the block
has acknowledged it, else shown as failed.
Rests on assumption-log entries 21, 42, 83, 107, 147, 148, 149, 150, 157 and 159. -/
def Obligations.ClocksFollowTheirSources : Prop :=
  (∀ (s : State) (m q c : Nat),
    (s.master = true → s.chooseRef m = if bit m 3 then some 3 else none)
    ∧ (s.master = false → s.get F.CKR_REF_CTL_FORCE = c + 1 → c < 4 → bit m c = true → s.chooseRef m = some c)
    ∧ (let u := s.showRef (s.qualMask q)
      (u.chooseRef (s.qualMask q) = none → exec (.refChange q) s = .next (u.onCkr fun k => { k with measuring := none }))
      ∧ (u.chooseRef (s.qualMask q) = some c → exec (.refChange q) s =
        .next (u.onCkr fun k => { k with measuring := if c = u.get F.CKR_REF_STAT_SEL then none else some c })))
    ∧ (let u := s.onCkr fun k => { k with measuring := none }
      (s.ckr.measuring = none → ∀ b, exec (.refMeasureDone b) s = .next s)
      ∧ (s.ckr.measuring = some c → exec (.refMeasureDone true) s = .next (u.takeRef c 0))
      ∧ (s.ckr.measuring = some c → exec (.refMeasureDone false) s =
        .next (((u.takeRef c 1).setLock (1 - u.get F.CKR_PLL_STAT_INUSE) false).onCkr fun k => { k with relock := true }))))
  ∧ (∀ (s : State) (p k : Nat) (rest : List Nat), p < 2 →
    (s.pllLock p = true ∨ s.running (4 + p) = false → exec (.sparePllLock p) s = .next s)
    ∧ (s.pllLock p = false → s.running (4 + p) = true → State.moveOrder.any (fun k => decide ((s.setLock p true).domSrc k = 2)) = true →
      s.ckr.moves = [] → exec (.sparePllLock p) s = .next ((s.setLock p true).startMoves p))
    ∧ (∀ b, s.ckr.moves = [] ∨ s.running (4 + s.ckr.target) = false → exec (.domainMove b) s = .next s)
    ∧ (s.ckr.moves = k :: rest → rest ≠ [] → s.running (4 + s.ckr.target) = true → exec (.domainMove false) s =
      .next ((((s.setDomSrc k s.ckr.target).bump F.CKR_CNT_RAMP).onCkr fun c => { c with moves := rest }).showMove))
    ∧ (s.ckr.moves = k :: rest → rest ≠ [] → s.running (4 + s.ckr.target) = true → exec (.domainMove true) s =
      .next (((((s.setDomSrc k s.ckr.target).bump F.CKR_CNT_RAMP).forcedSwitch k).onCkr fun c => { c with moves := rest }).showMove)))
  ∧ (∀ (s : State) (x : Nat) (b : Bool),
    let u := (s.onCkr fun c => { c with stopped := c.stopped ++ [x], stopAt := Tbl.put c.stopAt x s.up }).bump F.CKR_CNT_MISSING
    let v := u.set F.CKR_MON_STAT_SRC 0 (setBit (u.get F.CKR_MON_STAT_SRC) x true)
    let w := u.set F.CKR_MON_STAT_DOM 0 (setBit (u.get F.CKR_MON_STAT_DOM) (x - 8) true)
    (7 = x ∨ 15 ≤ x → exec (.missingEdge x b) s = .next s)
    ∧ (x ≤ 5 → s.ckr.stopped.contains x = true → exec (.missingEdge x b) s = .next s)
    ∧ (x ≤ 3 → s.ckr.stopped.contains x = false → exec (.missingEdge x b) s = .next (v.refStop (State.candOf x)))
    ∧ (4 ≤ x → x ≤ 5 → s.ckr.stopped.contains x = false → exec (.missingEdge x b) s = .next (v.pllStop (x - 4)))
    ∧ (x = 6 → s.ckr.stopped.contains 6 = false → exec (.missingEdge 6 b) s = .next v.cmon)
    ∧ (s.ckr.stopped.contains x = false →
      (x = 9 ∨ x = 11 ∨ x = 13 ∨ x = 14 → exec (.missingEdge x false) s = .next w)
      ∧ (x = 8 ∨ x = 10 → exec (.missingEdge x false) s = .next (w.declareFail 6)) ∧ (x = 12 → exec (.missingEdge x false) s = .next w.cmon))
    ∧ (8 ≤ x → x < 15 → s.ckr.stopped.contains x = true →
      (Tbl.getD s.ckr.stopAt x 0 + 100000 ≤ s.up → exec (.missingEdge x true) s = .next (s.requestReset 2 7))
      ∧ (s.up < Tbl.getD s.ckr.stopAt x 0 + 100000 → exec (.missingEdge x b) s = .next s) ∧ exec (.missingEdge x false) s = .next s)
    ∧ ∃ t, exec (.sourceRunning x) s = .next t ∧ t.running x = true ∧ (∀ y, y ≠ x → t.running y = s.running y) ∧ s.OnlyIn [.ckr] t)
  ∧ (∀ (s : State) (f : Frame) (x : RegRow), s.WritesReg f F.CKR_GATE_BLK 0 x →
    let w := wordOf f
    let old := s.get F.CKR_GATE_BLK
    ((∃ b, b < 21 ∧ bit w b = true ∧ bit old b = false) → exec (.gateRequest f) s = .next ((gateWrite w s).2.settle 5 f {}))
    ∧ ((∃ b, b < 21 ∧ bit w b = false ∧ bit old b = true) → exec (.gateClear f) s = .next ((gateWrite w s).2.settle 5 f {}))
    ∧ ((∀ b, b < 21 → bit w b = true → bit old b = true) → exec (.gateRequest f) s = .next s)
    ∧ ((∀ b, b < 21 → bit old b = true → bit w b = true) → exec (.gateClear f) s = .next s)
    ∧ (gateWrite w s).2.get F.CKR_GATE_BLK = w &&& gateable)
  ∧ ∀ (s : State) (b : Nat),
    let u := s.onCkr fun c => { c with gateReq := c.gateReq.filter fun x => decide (x ≠ b) }
    let due := Tbl.getD s.ckr.gateAt b 0 + blockTime b 1024
    (s.ckr.gateReq.contains b = false → exec (.gateAck b) s = .next s ∧ exec (.gateTimeout b) s = .next s)
    ∧ (s.ckr.gateReq.contains b = true → exec (.gateAck b) s = .next (u.set F.CKR_GACK_BLK 0 (setBit (u.get F.CKR_GACK_BLK) b true)))
    ∧ (s.ckr.gateReq.contains b = true → due ≤ s.up → exec (.gateTimeout b) s =
      .next (((u.set F.CKR_GFAIL_BLK 0 (setBit (u.get F.CKR_GFAIL_BLK) b true)).bump F.CKR_CNT_GATETMO).note 0x22 16 [b]))
    ∧ (s.up < due → exec (.gateTimeout b) s = .next s)

/-- WARM_RESET, COLD_RESET, HRST, RESET_PRELUDE_END, HUB_DIE_POWER_GOOD, BLOCK_RESET and BLOCK_RESET_DONE (R478 to R483; Table 16-4): a reset of
the same or a shallower level than one in progress is dropped; at the end of its prelude a reset of level 1 or 2 puts the ring, the
switch, the engines and every queue back to their starting state, keeps the non-volatile memory, and shows its level and cause; the hub
die starts only when its power is good; a block leaves its reset only when it is in one.
Rests on assumption-log entries 16, 21, 83, 133 and 151. -/
def Obligations.ResetsRunInLevels : Prop :=
  (∀ (s : State) (level cause : Nat),
    (∀ l k, s.ckr.prelude = some (l, k) → l ≤ level → s.requestReset level cause = s)
    ∧ (s.ckr.prelude = none → s.requestReset level cause = (({ s with ckr := { s.ckr with prelude := some (level, cause), preludeAt := s.up } } : State).hstWarn).declareFail 4)
    ∧ exec .hrst s = .next (s.requestReset 1 2)
    ∧ (s.mgt.veer = some .fwActivate → s.standby = true → exec (.warmReset cause) s = .next s.fwActivateNow)
    ∧ (s.mgt.veer ≠ some .fwActivate → 4 ≤ cause → cause ≤ 7 → exec (.warmReset cause) s = .next (s.requestReset 2 cause))
    ∧ exec (.coldReset 3) s = .next (s.requestReset 1 3)
    ∧ (s.flag F.PWR_STAT_HDPG = true → exec (.coldReset 1) s = .next (s.powerOff 1 1))
    ∧ (s.flag F.PWR_STAT_HDPG = false → exec (.coldReset 1) s = .next s))
  ∧ (∀ (s : State) (level cause : Nat), level < 4 → cause < 16 →
    let t := s.enterReset level cause
    t.get F.CKR_RSTCAUSE_LEVEL = level ∧ t.get F.CKR_RSTCAUSE_CAUSE = cause ∧ t.nvm = s.nvm ∧ t.hub = {} ∧ t.rng = {} ∧ t.locks = []
    ∧ t.epo = {} ∧ t.pio = {} ∧ t.inbox = [] ∧ t.img.loaded = false ∧ t.pwr = s.pwr ∧ t.up = s.up ∧ t.pending = s.pending)
  ∧ (∀ (s : State) (f : Frame) (x : RegRow) (b : Nat), s.WritesReg f F.CKR_BLKRST_BLK 0 x →
    let old := s.get F.CKR_BLKRST_BLK
    (∀ l k, s.ckr.prelude = some (l, k) → l < 3 → exec (.blockReset f) s = .next (s.settle 5 f {}))
    ∧ (wordOf f &&& resettable = 0 → exec (.blockReset f) s = .next (s.settle 5 f {}))
    ∧ (s.ckr.prelude = none → b ∈ [2, 3, 4, 6, 7, 8, 9, 10, 11, 12, 19, 20] → wordOf f = 2 ^ b → bit old b = false →
      let u := s.set F.CKR_BLKRST_BLK 0 (old ||| 2 ^ b)
      exec (.blockReset f) s = .next ((({ u with ckr := { s.ckr with rstAt := Tbl.put s.ckr.rstAt b s.up } } : State).resetBlock b).settle 5 f {})))
  ∧ ∀ (s : State) (a q : Bool) (b cause : Nat),
    (s.ckr.prelude = none ∨ s.up < s.ckr.preludeAt + 2000 → exec (.resetPreludeEnd a) s = .next s)
    ∧ (s.ckr.preludeAt + 2000 ≤ s.up →
      (s.ckr.prelude = some (1, cause) → exec (.resetPreludeEnd a) s = .next (fuseReload a (s.enterReset 1 cause)).leaveReset)
      ∧ (s.ckr.prelude = some (2, cause) → exec (.resetPreludeEnd a) s = .next (s.enterReset 2 cause).leaveReset))
    ∧ (s.ckr.held = none → exec (.hubDiePowerGood a) s = .next s)
    ∧ (s.ckr.held = some q → s.flag F.PWR_STAT_HDPG = false → exec (.hubDiePowerGood a) s = .next s)
    ∧ (s.ckr.held = some q → s.flag F.PWR_STAT_HDPG = true →
      let u := ({ s with ckr := { s.ckr with held := none } } : State).onCry fun c => { c with fleet := c.fuse.fleet, squall := c.squall || (q && a) }
      exec (.hubDiePowerGood a) s = .next (u.setB F.CRY_STAT_SQUALL 0 u.cry.squall).leaveReset)
    ∧ (let due := Tbl.getD s.ckr.rstAt b 0 + blockTime b 64
      (bit (s.get F.CKR_BLKRST_BLK) b = false ∨ b = 14 ∨ s.inPrelude b = true ∨ s.up < due → exec (.blockResetDone b) s = .next s)
      ∧ (bit (s.get F.CKR_BLKRST_BLK) b = true → b ≠ 14 → b ≠ 1 → s.inPrelude b = false → due ≤ s.up → s.img.loaded = false →
        exec (.blockResetDone b) s = .next ((s.set F.CKR_BLKRST_BLK 0 (setBit (s.get F.CKR_BLKRST_BLK) b false)).startBlock b)))

/-- The seventeen commands of the power-entry controller (R487 to R496; Table 17-2): it goes from OFF through the insertion delay, precharge,
ramp and qualification to ON, one condition at a time; a trip counts, and retries after its delay or latches when the retries are used up;
leaving the window is no trip and keeps RETRY and LATCHED; the retry count clears after 60 s of PG; the hold-up domain keeps class and
count over a loss of VAUX unless HOLD collapses.
Rests on assumption-log entries 6, 83, 151, 152 and 154. -/
def Obligations.PowerEntersInOrder : Prop :=
  (∀ (s : State), s.pwr.vaux = true →
    let u := s.onPwr fun p => { p with vinIn := true, vinSince := s.up }
    (s.pwrState = 0 → exec .vinEnterWindow s = .next (u.toPwr 1)) ∧ (s.pwrState ≠ 0 → exec .vinEnterWindow s = .next u)
    ∧ (s.pwrState = 1 → s.pwr.vinIn = true → s.pwr.vinSince + s.get F.PWR_CFG_RTY_INSDLY * 10000000 ≤ s.up →
      exec .insertionDelayEnd s = .next (s.toPwr 2))
    ∧ (s.pwrState ≠ 1 ∨ s.up < s.pwr.vinSince + s.get F.PWR_CFG_RTY_INSDLY * 10000000 → exec .insertionDelayEnd s = .next s)
    ∧ (s.pwrState = 2 → exec .prechargeEnd s = .next (s.toPwr 3))
    ∧ (s.pwrState = 2 → s.pwr.stateAt + s.get F.PWR_CFG_LIM_PCTMO * 5000000 ≤ s.up → exec .prechargeTimeout s = .next (s.trip 2))
    ∧ (s.up < s.pwr.stateAt + s.get F.PWR_CFG_LIM_PCTMO * 5000000 → exec .prechargeTimeout s = .next s)
    ∧ (s.pwrState ≠ 2 → exec .prechargeEnd s = .next s ∧ exec .prechargeTimeout s = .next s)
    ∧ (s.pwrState = 3 ∨ s.pwrState = 4 → exec .gateFullyOn s =
      .next ((s.toPwr 4).onPwr fun p => { p with gateOn := true, qualAt := if s.flag F.PWR_STAT_FTACT then none else some s.up }))
    ∧ (∀ t, s.pwr.qualAt = some t → s.pwrState = 4 → s.pwr.gateOn = true → s.flag F.PWR_STAT_FTACT = false → t + 1000000 ≤ s.up →
      exec .pgQualified s = .next (((s.toPwr 5).set F.PWR_STAT_PG 0 1).onPwr fun p => { p with pgSince := s.up, qualAt := none }))
    ∧ (s.pwr.qualAt = none → exec .pgQualified s = .next s)
    ∧ (3 ≤ s.pwrState → s.pwrState ≤ 5 → exec .overcurrent s =
      .next (((s.set F.PWR_STAT_LIMITING 0 1).set F.PWR_STAT_FTACT 0 1).onPwr fun p =>
        { p with gateOn := false, qualAt := none, faultAt := if s.flag F.PWR_STAT_FTACT then s.pwr.faultAt else s.up, overAt := s.up }))
    ∧ (s.pwrState < 3 ∨ 5 < s.pwrState → exec .overcurrent s = .next s)
    ∧ (let due := s.pwr.faultAt + s.get F.PWR_CFG_LIM_FLTTMO * 100000
      (s.flag F.PWR_STAT_FTACT = true → due ≤ s.up → exec .faultTimerExpiry s = .next (s.trip 1))
      ∧ (s.flag F.PWR_STAT_FTACT = false ∨ s.up < due → exec .faultTimerExpiry s = .next s))
    ∧ (s.flag F.PWR_STAT_FTACT = false ∨ s.up < s.pwr.overAt + 100000 → ∀ b, exec (.faultTimerIdle b) s = .next s)
    ∧ (s.flag F.PWR_STAT_FTACT = true → s.pwr.overAt + 100000 ≤ s.up →
      let v := (s.set F.PWR_STAT_LIMITING 0 0).set F.PWR_STAT_FTACT 0 0
      exec (.faultTimerIdle false) s = .next v
      ∧ (s.pwrState = 4 → exec (.faultTimerIdle true) s = .next (v.onPwr fun p => { p with gateOn := true, qualAt := some s.up })))
    ∧ (6 ≤ s.pwrState → exec (.vinLeaveWindow false) s = .next (s.onPwr fun p => { p with vinIn := false }))
    ∧ (s.pwrState ≤ 3 → exec (.vinLeaveWindow false) s = .next ((s.onPwr fun p => { p with vinIn := false }).turnOff.toPwr 0)))
  ∧ (∀ (s : State) (c : Nat),
    let u := s.turnOff
    let n := min 16 (u.pwr.rcnt + 1)
    let v := (((u.setRcnt n).bump F.PWR_CNT_TRIP).set F.PWR_FLAGS_TRIP 0 1).set F.PWR_STAT_LASTTRIP 0 c
    (v.get F.PWR_CFG_RTY_RETRIES < n → s.trip c = (v.toPwr 7).onPwr fun p => { p with cls := 2, retryAt := none })
    ∧ (n ≤ v.get F.PWR_CFG_RTY_RETRIES → s.trip c =
      (v.toPwr 6).onPwr fun p => { p with cls := 1, retryAt := some (v.up + v.get F.PWR_CFG_RTY_RETRYDLY * 100000000) }))
  ∧ ∀ s : State,
    (s.pwr.retryAt = none → exec .retryTimerExpiry s = .next s)
    ∧ (∀ t, s.pwr.retryAt = some t → s.pwr.vaux = true → s.pwrState = 6 → t ≤ s.up → s.pwr.vinIn = true → s.pwr.vinSince + 10000000 ≤ s.up →
      exec .retryTimerExpiry s = .next ((s.toPwr 2).onPwr fun p => { p with cls := 0, retryAt := none }))
    ∧ (s.flag F.PWR_STAT_PG = true → s.pwr.pgSince + 60000000000 ≤ s.up → exec .rcntClear s = .next (s.setRcnt 0))
    ∧ (s.flag F.PWR_STAT_PG = false ∨ s.up < s.pwr.pgSince + 60000000000 → exec .rcntClear s = .next s)
    ∧ (s.pwr.vaux = true → exec .vauxReturn s = .next s ∧ exec .holdCollapse s = .next s)
    ∧ (s.pwr.vaux = false → exec .vauxLoss s = .next s
      ∧ exec .holdCollapse s = .next (s.onPwr fun p => { p with cls := 0, rcnt := 0, retryAt := none, collapsed := true }))
    ∧ (s.pwr.vaux = true → ∃ t, exec .vauxLoss s = .next t ∧ t.pwr.vaux = false ∧ t.pwr.collapsed = false ∧ t.pwr.cls = s.pwr.cls
      ∧ t.pwr.rcnt = s.pwr.rcnt)
    ∧ (let u := ((s.set F.PWR_FLAGS_RESUMED 0 1).onPwr fun p => { p with vaux := true, collapsed := false }).setRcnt s.pwr.rcnt
      s.pwr.vaux = false → s.pwr.collapsed = false →
        (s.pwr.cls = 1 → exec .vauxReturn s = .next (u.toPwr 6)) ∧ (s.pwr.cls = 2 → exec .vauxReturn s = .next (u.toPwr 7)))
    ∧ (let v := s.onPwr fun p => { p with railAt := s.up }
      (s.flag F.PWR_STAT_HDPG = true → exec .railOutOfLimits s = .next (v.powerOff 1 1))
      ∧ (s.flag F.PWR_STAT_HDPG = false → exec .railOutOfLimits s = .next v))
    ∧ (s.pwr.vaux = true → s.flag F.PWR_STAT_PG = true → max s.pwr.pgSince s.pwr.railAt + 2000000 ≤ s.up →
      exec .hdpgAssert s = .next (s.set F.PWR_STAT_HDPG 0 1).bypassDrive)
    ∧ (s.pwr.vaux = false ∨ s.flag F.PWR_STAT_PG = false ∨ s.up < max s.pwr.pgSince s.pwr.railAt + 2000000 → exec .hdpgAssert s = .next s)

/-! ### The historian -/

/-- The thirteen commands of the historian (R522 to R539): producers are served in a fixed order; a disabled historian takes nothing and
drops nothing, a full or stopped one counts what it drops, and the drops are recorded first when there is room again; a staged record
takes the next local number, and one this hub made the next record sequence; a partial page closes at its flush; a page is programmed at
an open write head, and programmed again in the next good block when that fails; an erased block becomes the write head; a device that
does not answer or is not the declared one is not used, a medium without history is formatted, and a mount counts; FORMAT needs FMTOK;
a scrub waits for its limit and a patrol for its days; replication sends up to 32 records to either target when 32 are ready or the
batch time is over; a read ends with its data, or POISON at an uncorrectable codeword.
Rests on assumption-log entries 16, 21, 165, 166, 167, 168, 169 and 170. -/
def Obligations.HistoryIsStagedPagedAndRead : Prop :=
  (∀ (s : State) (p : Nat) (r : HistRec),
    (s.recs = [] → exec .histRecord s = .next s) ∧ (s.blockBusy 19 = true → exec .histRecord s = .next s)
    ∧ (s.blockBusy 19 = false → p < 5 → (∀ q, q < p → ∀ e ∈ s.recs, e.1 ≠ q) → s.recs.find? (fun e => decide (e.1 = p)) = some (p, r) →
      exec .histRecord s = .next ({ s with recs := s.recs.erase (p, r) }.acceptRec p r))
    ∧ (s.flag F.HST_CFG_EN = false → s.acceptRec p r = s)
    ∧ (s.flag F.HST_CFG_EN = true → s.hasStage = false → s.acceptRec p r = s.dropRec)
    ∧ (s.flag F.HST_CFG_EN = true → s.hasStage = true → s.hst.drops = none → p ≠ 4 → r.kind ≠ 4 → s.acceptRec p r = (s.stageRec true r).pump 8)
    ∧ (s.flag F.HST_CFG_EN = true → s.hasStage = true → s.hst.drops = none → Tbl.find? s.hst.lastRseq r.src = none → s.acceptRec 4 r =
      ((s.onHst fun h => { h with lastRseq := Tbl.put h.lastRseq r.src r.rseq }).stageRec false { r with flags := r.flags ||| 1 }).pump 8)
    ∧ (∀ d, s.hst.drops = some d → s.recordDrops = (s.onHst fun h => { h with drops := none }).stageRec true (s.lossRec 1 d.count d.sec d.ns))
    ∧ (∃ b, (s.stageRec true r).hst.stage = s.hst.stage ++ [b] ∧ (s.stageRec true r).hst.next = (s.hst.next + 1) % 2 ^ 64
      ∧ (s.stageRec true r).hst.rseq = (s.hst.rseq + 1) % 2 ^ 32 ∧ b = HistRec.bytes { r with rseq := s.hst.rseq }))
  ∧ (∀ (s : State) (t : Nat) (ts : List Nat),
    (s.hstRuns = true → s.hst.stageAt = t :: ts → s.hst.stage.length < s.pageRecs → t + s.get F.HST_CFG_FLUSH * 1000000 ≤ s.up →
      exec .pageFlushTimeout s = .next (s.closePage true))
    ∧ (s.hstRuns = false → exec .pageFlushTimeout s = .next s)
    ∧ (s.hst.stageAt = t :: ts → s.up < t + s.get F.HST_CFG_FLUSH * 1000000 → exec .pageFlushTimeout s = .next s)
    ∧ (∀ b, s.hst.stage = [] → s.closePage b = s)
    ∧ (∀ b, s.hst.stage ≠ [] → s.flag F.HST_SIGN_EN = false → s.closePage b = s.onHst fun h => { h with
        stage := h.stage.drop s.pageRecs, stageAt := h.stageAt.drop s.pageRecs,
        prog := h.prog ++ [{ num := h.nextPage, mount := h.mount, first := h.next - h.stage.length, recs := h.stage.take s.pageRecs, flushed := b,
                             prev := slice h.lastTag 0 16, tag := zeros 16, unsigned := true }],
        nextPage := h.nextPage + 1, lastTag := zeros 16 }))
  ∧ (∀ (s : State) (p : HPage) (rest : List HPage) (b : Nat),
    (s.hst.prog = [] ∨ s.headOpen = false ∨ s.blockBusy 19 = true → ∀ x, exec (.pageProgramDone x) s = .next s)
    ∧ (s.hst.prog = p :: rest → s.headOpen = true → s.blockBusy 19 = false → exec (.pageProgramDone true) s =
      .next ((((s.bump F.HST_CNT_PGMFAIL).setHblock s.hst.head { s.hblock s.hst.head with bad := 2, erased := false }).checkWorn).advance
        (s.flag F.HST_CFG_STOPFULL)))
    ∧ (s.hst.prog = p :: rest → s.headOpen = true → s.blockBusy 19 = false →
      let k := s.hblock s.hst.head
      let u := ((s.onHst fun h => { h with
          prog := rest, pages := Tbl.put h.pages p.num p,
          blocks := h.blocks.map fun x => (x.1, { x.2 with pages := x.2.pages.filter fun n => decide (n ≠ p.num) }) }).setHblock s.hst.head
        { k with pages := (k.pages.filter fun n => decide (n ≠ p.num)) ++ [p.num], reads := 0, erased := false, patrolAt := s.up, scrubbed := false }).bumpBy
          F.HST_CNT_REC 0 p.recs.length
      (s.get F.HST_GEOM_PPB ≤ (u.hblock s.hst.head).pages.length → exec (.pageProgramDone false) s = .next ((u.advance (s.flag F.HST_CFG_STOPFULL)).pump 8))
      ∧ ((u.hblock s.hst.head).pages.length < s.get F.HST_GEOM_PPB → exec (.pageProgramDone false) s = .next (u.pump 8)))
    ∧ (∀ x, s.hst.erasing = none → exec (.blockEraseDone x) s = .next s)
    ∧ (s.hst.erasing = some b → s.blockBusy 19 = false →
      let u := s.onHst fun h => { h with erasing := none, pages := h.pages.filter fun p => !(s.hblock b).pages.contains p.1, head := b }
      exec (.blockEraseDone false) s = .next (u.setHblock b { erases := (s.hblock b).erases + 1 }).checkWorn
      ∧ exec (.blockEraseDone true) s = .next (((u.bump F.HST_CNT_ERSFAIL).setHblock b
        { pages := [], erases := (s.hblock b).erases, bad := 2, erased := false }).checkWorn.advance
        (u.flag F.HST_CFG_STOPFULL))))
  ∧ (∀ (s : State) (b : Nat) (l : List Nat),
    (∀ dev same torn partly, s.hstState ≠ 1 → exec (.hstMount dev same torn partly l) s = .next s)
    ∧ (s.hstState = 1 → s.blockBusy 19 = false →
      (∀ same torn partly, exec (.hstMount false same torn partly l) s = .next (s.set F.HST_STAT_STATE 0 4))
      ∧ (∀ torn partly, exec (.hstMount true false torn partly l) s = .next (s.set F.HST_STAT_STATE 0 5))
      ∧ (∀ torn partly,
        let u := s.setInc fun r => { r with mount := (r.mount + 1) % 2 ^ 32 }
        let v := (u.onHst fun h => { h with mount := u.incRec.mount, warned := false }).set F.HST_STAT_STATE 0 2
        (v.hst.pages = [] → v.hst.formats = 0 → exec (.hstMount true true torn partly l) s = .next ((v.format l).pump 8))
        ∧ (v.hst.pages ≠ [] → exec (.hstMount true true false false l) s = .next
            (((v.onHst fun h => { h with nextPage := (v.newestPage.map fun p => p.num + 1).getD 0,
                                         lastTag := (v.newestPage.map fun p => p.tag).getD [] }).recoverLoss v.newestEnd).pump 8))))
    ∧ (∀ needs corr uncorr, s.hstRuns = false ∨ (s.hblock b).reads < s.get F.HST_SCRUB_RDLIM * 1000 ∨ (s.hblock b).scrubbed = true →
      exec (.blockScrub b needs corr uncorr l) s = .next s)
    ∧ (∀ needs corr uncorr, s.hstRuns = true → s.get F.HST_SCRUB_RDLIM * 1000 ≤ (s.hblock b).reads → (s.hblock b).scrubbed = false →
      exec (.blockScrub b needs corr uncorr l) s = .next (s.scrubBlock b needs corr uncorr l))
    ∧ (∀ needs corr uncorr, s.hstRuns = true → (s.hblock b).pages ≠ [] → (s.hblock b).patrolAt + s.get F.HST_SCRUB_PATROL * 86400000000000 ≤ s.up →
      exec (.patrolScrub b needs corr uncorr l) s = .next (s.scrubBlock b needs corr uncorr l))
    ∧ (∀ needs corr uncorr, (s.hblock b).pages = [] ∨ s.up < (s.hblock b).patrolAt + s.get F.HST_SCRUB_PATROL * 86400000000000 →
      exec (.patrolScrub b needs corr uncorr l) s = .next s))
  ∧ (∀ (s : State) (f : Frame) (x : RegRow), s.WritesReg f F.HST_CTL_FLUSH 0 x →
    let w := wordOf f
    (bit w 2 = true → s.flag F.HST_CFG_FMTOK = false → exec (.hstFormat f) s = .next (s.settle 5 f { st := .viol }))
    ∧ (w = 4 → s.flag F.HST_CFG_FMTOK = true → s.hstState = 2 ∨ s.hstState = 3 → exec (.hstFormat f) s =
      .next ((s.format ((s.hst.blocks.filter fun p => decide (p.2.bad = 1)).map fun p => p.1)).settle 5 f {}))
    ∧ (w = 1 → s.hstState = 2 → exec (.hstFlush f) s = .next (s.flushStage.settle 5 f {}))
    ∧ (w = 2 → exec (.hstMark f) s =
      .next ((s.record 2 { kind := 4, src := s.hubNum, aux := 0xFF, sec := s.sec, ns := s.nsec }).settle 5 f {}))
    ∧ (w = 8 → s.hstState = 3 → exec (.hstResume f) s = .next (((s.set F.HST_STAT_STATE 0 2).advance false).settle 5 f {}))
    ∧ (w = 8 → s.hstState ≠ 3 → exec (.hstResume f) s = .next (s.settle 5 f {})))
  ∧ ∀ (s : State) (second : Bool),
    let l := if second then s.hst.repl1 else s.hst.repl0
    let since := if second then s.hst.repl1At else s.hst.repl0At
    let dst := if second then s.get F.HST_REPL_TGT1 else s.get F.HST_REPL_TGT0
    let pay := (l.take 32).flatten
    let u := (if second then s.onHst fun h => { h with repl1 := h.repl1.drop 32, repl1At := h.repl1At.drop 32 }
      else s.onHst fun h => { h with repl0 := h.repl0.drop 32, repl0At := h.repl0At.drop 32 }).bump F.HST_CNT_REPLTX
    (l = [] → exec (.replSend second) s = .next s)
    ∧ (∀ t ts, l.length < 32 → since = t :: ts → s.up < t + s.get F.HST_REPL_BATCH * 1000000 → exec (.replSend second) s = .next s)
    ∧ (s.blockBusy 19 = false → l ≠ [] → 32 ≤ l.length ∨ (∃ t ts, since = t :: ts ∧ t + s.get F.HST_REPL_BATCH * 1000000 ≤ s.up) →
      exec (.replSend second) s = .next (u.sendWrite 8 { tt := .wr, tc := 12, dst := dst, init := 6,
                                                         addr := fabAddr dst 4 (u.get F.HST_INBOX_BASE * 4096), len := pay.length, pay := pay }))
    ∧ (∀ x n, s.hst.reads = [] → exec (.nandPageReadDone x n) s = .next s)
    ∧ ∀ (g : Frame) (rest : List HRead) (n : Nat), s.hst.reads = { req := g } :: rest → s.blockBusy 19 = false →
      let v := (s.bumpBy F.HST_CNT_CORR 0 n).onHst fun h => { h with
        blocks := h.blocks.map fun x => (x.1, if x.2.pages.any (fun m => decide
          (((s.histByte g.offset).bind fun y => y.1) = some m)) then { x.2 with reads := x.2.reads + 1 } else x.2) }
      (exec (.nandPageReadDone true n) s = .next (((v.bump F.HST_CNT_UNCORR).onHst fun h => { h with reads := rest }).answer 8 g { st := .poison }))
      ∧ (g.len ≤ (v.sameRun g.offset g.len).length → exec (.nandPageReadDone false n) s =
        .next ((v.onHst fun h => { h with reads := rest }).answer 8 g { st := .ok, data := v.sameRun g.offset g.len }))
      ∧ ((v.sameRun g.offset g.len).length < g.len → exec (.nandPageReadDone false n) s =
        .next (v.onHst fun h => { h with reads := { req := g, data := v.sameRun g.offset g.len } :: rest }))

/-! ### Mirik -/

/-- MBOX, SNS_READ, the FW_ commands, CONFIRM, MBX_FUSE, AUTOCONF, CONF_TIMEOUT, DLD_RELAY and the doldrums messages (R501, R502, R515 to R521): a
command is checked, refused as its class and the access rules say, BUSY when eight others wait, and answered with RESULT 5 if its code
is none; each command at the head of the queue ends with its result, and no other command touches it; firmware is written only into
an open slot and activated only after a VERIFY of OK; a confirmation clears the pending update, a timeout falls back; a hub that is
not in doldrums mode takes no session, and one that is has one session at a time.
Rests on assumption-log entries 21, 116, 117, 119, 132, 139, 140, 153, 155, 156, 158, 161, 162, 163 and 164. -/
def Obligations.MailboxUpdatesAndDoldrums : Prop :=
  (∀ (s : State) (f : Frame),
    let code := beAt f.pay 2 1
    let c : MbxCmd := { code := code, args := slice f.pay 16 (beAt f.pay 4 2), hub := f.src, init := f.init, req := some f }
    (mgtRefused s.hubNum f = true ∨ beAt f.pay 1 1 ≠ 0 ∨ f.pay.length < 16 + beAt f.pay 4 2 → exec (.mbox f) s = .next (s.settle 7 f { st := .ur }))
    ∧ (mgtRefused s.hubNum f = false → beAt f.pay 1 1 = 0 → 16 + beAt f.pay 4 2 ≤ f.pay.length →
      (∀ st r, s.mbxRefused f.src f.init code = some (st, r) → exec (.mbox f) s = .next (s.settle 7 f { st := st, reason := r }))
      ∧ (s.mbxRefused f.src f.init code = none → 8 ≤ (s.mgt.mbox.tail.filter fun c => c.req.isSome).length →
        exec (.mbox f) s = .next ((s.bump F.MGT_CNT_MBXBUSY).settle 7 f { st := .busy }))
      ∧ (s.mbxRefused f.src f.init code = none → (s.mgt.mbox.tail.filter fun c => c.req.isSome).length < 8 →
        (State.mbxCodes.contains code = true → exec (.mbox f) s = .next ((s.take f).onMgt fun m => { m with mbox := m.mbox ++ [c] }))
        ∧ (State.mbxCodes.contains code = false → exec (.mbox f) s = .next ((s.take f).mbxAnswer c 5 0 [])))))
  ∧ (∀ (s : State) (c : MbxCmd),
    let u := s.mbxPop
    let k := 1 - u.boot.fwSlot
    (s.mbxHead 0x01 = none → exec .snsRead s = .next s) ∧ (s.mbxHead 0x11 = none → exec .fwWrite s = .next s)
    ∧ (s.mbxHead 0x13 = none → exec .fwActivate s = .next s) ∧ (s.mbxHead 0x20 = none → ∀ x, exec (.mbxFuse x) s = .next s)
    ∧ (s.mbxHead 0x01 = some c → c.args.length ≠ 2 → exec .snsRead s = .next (u.mbxAnswer c 1 0 []))
    ∧ (∀ i, s.mbxHead 0x01 = some c → c.args.length = 2 → unbe c.args = i → i < 256 → exec .snsRead s =
      .next (u.mbxAnswer c 0 0 (be 4 (u.word (0x120064 + 2 ^ 24 * i) 0).toNat)))
    ∧ (s.mbxHead 0x01 = some c → c.args.length = 2 → 256 ≤ unbe c.args → exec .snsRead s = .next (u.mbxAnswer c 0 0 (be 4 0)))
    ∧ (s.mbxHead 0x10 = some c → exec .fwOpen s = .next ((({ u with nvm := Mem.clear u.nvm (fwAt k) 0x100000 } : State).onMgt
      fun m => { m with fwOpen := true, fwVerified := false }).mbxAnswer c 0 0 []))
    ∧ (s.mbxHead 0x11 = some c → u.mgt.fwOpen = false → exec .fwWrite s = .next (u.mbxAnswer c 4 0 []))
    ∧ (s.mbxHead 0x11 = some c → u.mgt.fwOpen = true → 5 ≤ c.args.length → beAt c.args 0 4 + (c.args.drop 4).length ≤ 0x100000 →
      exec .fwWrite s = .next ((({ u with nvm := Mem.writeN u.nvm (fwAt k + beAt c.args 0 4) (c.args.drop 4) } : State).onMgt
        fun m => { m with fwVerified := false }).mbxAnswer c 0 0 []))
    ∧ (s.mbxHead 0x12 = some c → exec .fwVerify s = .next ((u.onMgt fun m => { m with fwVerified := decide (u.fwCheck k = 0) }).mbxAnswer c
      (if u.fwCheck k = 0 then 0 else 3) (u.fwCheck k) (be 4 (fwHdr u.nvm k).serial)))
    ∧ (s.mbxHead 0x13 = some c → u.mgt.fwVerified = false → exec .fwActivate s = .next (u.mbxAnswer c 4 0 []))
    ∧ (s.mbxHead 0x13 = some c → u.mgt.fwVerified = true →
      ((u.mbxAnswer c 0 0 []).activeTwin && (u.mbxAnswer c 0 0 []).healthy) = false → exec .fwActivate s = .next (u.mbxAnswer c 0 0 []).fwActivateNow)
    ∧ (s.mbxHead 0x13 = some c → u.mgt.fwVerified = true →
      ((u.mbxAnswer c 0 0 []).activeTwin && (u.mbxAnswer c 0 0 []).healthy) = true → exec .fwActivate s =
      .next ((u.mbxAnswer c 0 0 []).requestVeer.onMgt fun m => { m with veer := some .fwActivate }))
    ∧ (s.mbxHead 0x14 = some c → u.updPending = true → exec .confirm s = .next (u.confirmUpdate.mbxAnswer c 0 0 []))
    ∧ (s.mbxHead 0x14 = some c → u.updPending = false → exec .confirm s = .next (u.mbxAnswer c 4 0 []))
    ∧ (∀ x, s.mbxHead 0x20 = some c → c.args.length < 4 → exec (.mbxFuse x) s = .next (u.mbxAnswer c 1 0 []))
    ∧ (s.mbxHead 0x30 = some c → c.args.length < 2 ∨ 1 < beAt c.args 0 1 → exec .dldRelay s = .next (u.mbxAnswer c 1 0 []))
    ∧ (∀ x, s.mbxHead 0x20 = some c → 4 ≤ c.args.length → c.args.length ≤ 52 → u.flag F.CRY_FUSE_STAT_BUSY = true →
      1 ≤ beAt c.args 0 4 % 8 → beAt c.args 0 4 % 8 ≤ 5 → exec (.mbxFuse x) s = .next (u.mbxAnswer c 2 0 []))
    ∧ (∀ x, s.mbxHead 0x20 = some c → 4 ≤ c.args.length → c.args.length ≤ 52 → u.flag F.CRY_FUSE_STAT_BUSY = false →
      1 ≤ beAt c.args 0 4 % 8 → beAt c.args 0 4 % 8 ≤ 4 →
      let b := (u.setFuseData (slice c.args 4 48)).burn (beAt c.args 0 4 % 8) (bits (beAt c.args 0 4) 4 3)
      let v (r : Nat) (a : State) := ((a.setFuseData (zeros 48)).set F.CRY_FUSE_STAT_RESULT 0 r).showFuses
      (x = 2 ∨ x = 3 → exec (.mbxFuse x) s = .next ((v x (u.setFuseData (slice c.args 4 48))).mbxAnswer c 0 0
        (be 4 ((v x (u.setFuseData (slice c.args 4 48))).word 0xE0010 0).toNat)))
      ∧ (x < 2 → exec (.mbxFuse x) s = .next ((v b.1 b.2).mbxAnswer c 0 0 (be 4 ((v b.1 b.2).word 0xE0010 0).toNat))))
    ∧ (s.mbxHead 0x30 = some c → 2 ≤ c.args.length → beAt c.args 0 1 ≤ 1 →
      let l : Lane := if beAt c.args 0 1 = 0 then .e else .w
      (u.mgt.relay = none → exec .dldRelay s = .next ((u.onMgt fun m => { m with relay := some (c, l) }).dldLane l (c.args.drop 1)))
      ∧ (∀ old k, u.mgt.relay = some (old, k) → exec .dldRelay s =
        .next (((u.mbxAnswer old 2 0 []).onMgt fun m => { m with relay := some (c, l) }).dldLane l (c.args.drop 1))))
    ∧ (s.flag F.MGT_UPD_CFG_AUTOCONF = true → s.updPending = true → s.settled = true → exec .autoconf s = .next s.confirmUpdate)
    ∧ (s.flag F.MGT_UPD_CFG_AUTOCONF = false ∨ s.updPending = false ∨ s.img.loaded = false ∨ s.admitted = false ∨ s.up < s.rng.admAt + 600000000000 →
      exec .autoconf s = .next s)
    ∧ (s.mgt.updAt = none ∨ s.updPending = false → exec .confTimeout s = .next s)
    ∧ (∀ t, s.mgt.updAt = some t → s.updPending = true → t + s.get F.MGT_UPD_CFG_CONFTMO * 1000000000 ≤ s.up →
      exec .confTimeout s = .next (s.fallBack 1)))
  ∧ ∀ (s : State) (src : DldSrc) (p : List Byte) (x : DldSess) (l : Lane) (f : Frame),
    let size := if beAt p 2 1 = 0 then 0x100000 else 0x280000
    let at_ := if x.kind = 0 then fwAt x.slot else slotAt x.slot
    let off := beAt p 4 4
    let data := p.drop 8
    (s.doldrums = false → exec (.dldOpen src p) s = .next s ∧ exec (.dldData src p) s = .next s ∧ exec (.dldEnd src) s = .next s ∧ exec .helloSend s = .next s)
    ∧ (∀ t, s.mgt.helloAt = some t → s.up < t + 1000000000 → exec .helloSend s = .next s)
    ∧ (s.doldrums = true → (∀ t, s.mgt.helloAt = some t → t + 1000000000 ≤ s.up) →
      let u := s.onMgt fun m => { m with helloAt := some s.up }
      exec .helloSend s = .next (((((u.dldHost .h0 u.hello).dldHost .h1 u.hello).dldLane .e u.hello).dldLane .w u.hello)))
    ∧ (s.mgt.sess = some x → s.doldrums = true → x.src ≠ src → exec (.dldOpen src p) s = .next (s.dldStatus src 2 0)
      ∧ exec (.dldData src p) s = .next (s.dldStatus src 2 0) ∧ exec (.dldEnd src) s = .next (s.dldStatus src 2 0))
    ∧ (s.mgt.sess = none → s.doldrums = true → exec (.dldData src p) s = .next (s.dldStatus src 4 0) ∧ exec (.dldEnd src) s = .next (s.dldStatus src 4 0))
    ∧ (s.doldrums = true → s.mgt.sess = none ∨ (s.mgt.sess = some x ∧ x.src = src) →
      (1 < beAt p 2 1 ∨ 1 < beAt p 3 1 ∨ beAt p 4 4 = 0 ∨ size < beAt p 4 4 → exec (.dldOpen src p) s = .next (s.dldStatus src 1 0))
      ∧ (beAt p 2 1 ≤ 1 → beAt p 3 1 ≤ 1 → beAt p 4 4 ≠ 0 → beAt p 4 4 ≤ size → exec (.dldOpen src p) s =
        .next ((({ s with nvm := Mem.clear s.nvm (if beAt p 2 1 = 0 then fwAt (beAt p 3 1) else slotAt (beAt p 3 1)) size } : State).setSess
          (some { src := src, kind := beAt p 2 1, slot := beAt p 3 1, total := beAt p 4 4, last := s.up })).dldStatus src 0 0)))
    ∧ (s.mgt.sess = some x → s.doldrums = true → x.src = src →
      let u := s.sessTouch x
      let r := if x.kind = 0 then u.fwCheck x.slot else (u.checkBase x.slot false).1
      (data = [] ∨ 1016 < data.length ∨ x.total < off + data.length → exec (.dldData src p) s = .next (u.dldStatus src 1 0))
      ∧ (data ≠ [] → data.length ≤ 1016 → off + data.length ≤ x.total → exec (.dldData src p) s =
        .next (({ u with nvm := Mem.writeN u.nvm (at_ + off) data } : State).dldStatus src 0 0))
      ∧ (let v := (u.dldStatus src 0 0).setSess none
        let w := if x.kind = 0 then v.setBoot fun b => { b with fwSlot := x.slot, fwPend := true, att := 0 }
          else v.setBoot fun b => { b with imgSlot := x.slot, imgPend := true, att := 0 }
        exec (.dldEnd src) s = .next (if r ≠ 0 then u.dldStatus src 3 r
          else ((w.onMgt fun m => { m with updAt := some w.up }).showUpdates).requestReset 2 4)))
    ∧ (s.mgt.relay = none → exec (.dldStatus src p) s = .next s)
    ∧ (∀ c, s.mgt.relay = some (c, l) → beAt p 0 1 = 0x54 → exec (.dldStatus (.lane l) p) s =
      .next ((s.onMgt fun m => { m with relay := none }).mbxAnswer c 0 0 p))
    ∧ (s.mgt.sess = some x → x.last + 10000000000 ≤ s.up → exec .dldSessionTimeout s = .next (s.setSess none))
    ∧ (s.mgt.sess = none ∨ (s.mgt.sess = some x ∧ s.up < x.last + 10000000000) → exec .dldSessionTimeout s = .next s)
    ∧ exec (.hello l f) s = .next (s.take { f with ring := decide (l = .w) })
    ∧ exec (.dld l f) s = .next ((s.take { f with ring := decide (l = .w) }).dldMessage (.lane l) f.pay)

/-- ALMN, EVTN, ALARM_DRAIN, SENSOR_UPDATE, EVENT_LOG_WRITE, EVL_CLEAR, VLOG_CLEAR, PLOG_CLEAR, the six ST_ commands, TEST_COMPLETE, LULL_END,
WATCHDOG_EXPIRY and LOCKSTEP_ERROR (R57, R499, R500, R504, R506 to R512): a notice for Mirik goes no further and one for a host goes to it; the
alarm FIFO goes into the event log and to its sink; a sensor without a value shows level 0, and one whose level does not change logs
nothing; an entry goes from the stage into the NVM area, which wraps and counts that, and one of severity 2 or higher is also recorded and
sent to its sink; a log that is cleared is empty; a test is BUSY while one runs, an intrusive one starts only at a standby, in maintenance or
in a lull, else waits, or is refused; a lull that ends stops it.
Rests on assumption-log entries 21, 25, 27, 32, 145, 157, 158, 159 and 160. -/
def Obligations.SensorsLogsAndTests : Prop :=
  (∀ (s : State) (f : Frame),
    let sink := beAt f.pay 2 1
    (mgtRefused s.hubNum f = false →
      (sink = 0 → exec (.almn f) s = .next (s.take f) ∧ exec (.evtn f) s = .next (s.take f))
      ∧ (sink ≠ 0 → exec (.almn f) s = .next ((s.take f).toHost sink f.tag f) ∧ exec (.evtn f) s = .next ((s.take f).toHost sink f.tag f)))
    ∧ exec .watchdogExpiry s = .next (s.requestReset 2 5) ∧ exec .lockstepError s = .next ((s.declareFail 2).requestReset 2 6)
    ∧ (let u := s.rfx.alarms.foldl (fun (s : State) a => s.note 0x31 12 (a.map fun w => w.toNat)) (s.onRfx fun x => { x with alarms := [] })
      (s.sinkOf 1 = (u.hubNum, 0) → exec .alarmDrain s = .next u)
      ∧ (∀ hub k, s.sinkOf 1 = (hub, k) → hub ≠ u.hubNum ∨ k ≠ 0 → s.rfx.alarms ≠ [] → s.rfx.alarms.length ≤ 32 → exec .alarmDrain s =
        .next (u.notice hub ([3, 0] ++ be 1 k ++ be 1 s.rfx.alarms.length ++ s.rfx.alarms.flatMap fun a => a.flatMap fun w => be 4 w.toNat))))
    ∧ (∀ x, s.WritesReg f F.MGT_EVL_STAT_CLEAR 0 x → bit (wordOf f) 13 = true →
      exec (.evlClear f) s = .next ((s.onMgt fun m => { m with evlCount := 0 }).settle 5 f {}))
    ∧ (∀ x, s.WritesReg f F.MGT_VLOG_STAT_CLEAR 0 x → bit (wordOf f) 8 = true → exec (.vlogClear f) s =
      .next (((if bit (wordOf f) 7 then s.set F.MGT_VLOG_STAT_OVF 0 0 else s).onHub fun h => { h with vlog := [], vseq := 0 }).settle 5 f {}))
    ∧ (∀ x, s.WritesReg f F.MGT_PLOG_STAT_CLEAR 0 x → bit (wordOf f) 8 = true → exec (.plogClear f) s =
      .next (((if bit (wordOf f) 7 then s.set F.MGT_PLOG_STAT_OVF 0 0 else s).onHub fun h => { h with plog := [], pseq := 0 }).settle 5 f {})))
  ∧ (∀ (s : State) (i v : Nat),
    let g (n : Nat) : Int := sgn 16 n
    let new := sensorLevel (s.get F.MGT_SNS_VAL_LEVEL i) (g v) (g (s.get F.MGT_SNS_THRLO_T0 i)) (g (s.get F.MGT_SNS_THRLO_T1 i))
      (g (s.get F.MGT_SNS_THRHI_T0 i)) (g (s.get F.MGT_SNS_THRHI_T1 i))
    let u := ((s.set F.MGT_SNS_VAL_VALUE i v).set F.MGT_SNS_VAL_VALID i 1).set F.MGT_SNS_VAL_LEVEL i new
    (i < 22 → ∀ raw,
      exec (.sensorUpdate i v raw false) s = .next ((s.set F.MGT_SNS_VAL_VALID i 0).set F.MGT_SNS_VAL_LEVEL i 0)
      ∧ (new = s.get F.MGT_SNS_VAL_LEVEL i → exec (.sensorUpdate i v raw true) s = .next u)
      ∧ (new ≠ s.get F.MGT_SNS_VAL_LEVEL i → 3 ≤ new → exec (.sensorUpdate i v raw true) s = .next (u.event 0x20 18 3 [i, new, v % 65536]))
      ∧ (new ≠ s.get F.MGT_SNS_VAL_LEVEL i → 1 ≤ new → new < 3 → exec (.sensorUpdate i v raw true) s = .next (u.event 0x20 18 2 [i, new, v % 65536]))
      ∧ (new ≠ s.get F.MGT_SNS_VAL_LEVEL i → new = 0 → exec (.sensorUpdate i v raw true) s = .next (u.note 0x20 18 [i, new, v % 65536])))
    ∧ ∀ raw, exec (.sensorUpdate 22 v raw false) s = .next (((s.set F.PWR_MEAS0_VIN 0 v).set F.MGT_SNS_VAL_VALID 22 0).set F.MGT_SNS_VAL_LEVEL 22 0)
      ∧ exec (.sensorUpdate 23 v raw false) s = .next (((s.set F.PWR_MEAS1_VOUT 0 v).set F.MGT_SNS_VAL_VALID 23 0).set F.MGT_SNS_VAL_LEVEL 23 0)
      ∧ exec (.sensorUpdate 24 v raw false) s = .next (((s.set F.PWR_MEAS0_VSNS 0 raw).set F.MGT_SNS_VAL_VALID 24 0).set F.MGT_SNS_VAL_LEVEL 24 0)
      ∧ exec (.sensorUpdate 25 v raw false) s = .next (((s.set F.PWR_MEAS1_VHOLD 0 v).set F.MGT_SNS_VAL_VALID 25 0).set F.MGT_SNS_VAL_LEVEL 25 0))
  ∧ (∀ (cur : Nat) (v al wl wh ah : Int), al ≤ wl → wl < wh → wh ≤ ah →
    (ah < v → sensorLevel cur v al wl wh ah = 4) ∧ (v < al → cur ≠ 4 → sensorLevel cur v al wl wh ah = 3)
    ∧ (wl + 16 ≤ v → v ≤ wh - 16 → sensorLevel cur v al wl wh ah = 0)
    ∧ (cur = 0 → wl ≤ v → v ≤ wh → sensorLevel cur v al wl wh ah = 0) ∧ sensorLevel cur v al wl wh ah ≤ 4)
  ∧ (∀ (s : State) (e : LogEntry) (rest : List LogEntry),
    let u := ({ s with nvm := Mem.writeN s.nvm (0x740000 + 32 * s.mgt.evlNext) (logBytes e) } : State)
    let n (m : MgtSt) (c : Nat) : MgtSt := { m with stage := rest, evlNext := (m.evlNext + 1) % 4096, evlCount := c }
    let v := if s.mgt.evlCount < 4096 then u.onMgt fun m => n m (s.mgt.evlCount + 1) else (u.onMgt fun m => n m 4096).bump F.MGT_EVL_STAT_WRAPS
    let g (k : Nat) : Nat := (e.getD k 0).toNat
    let sev := bits (g 3) 27 24
    let w := if v.passive then v else v.record 3
      { kind := 5, src := v.hubNum, aux := sev, sec := g 1 + g 2 % 65536 * 2 ^ 32, ns := g 0, index := g 3 % 65536, data := g 4 * 2 ^ 32 + g 5 }
    (s.mgt.stage = [] → exec .eventLogWrite s = .next s)
    ∧ (s.mgt.stage = e :: rest → sev < 2 → exec .eventLogWrite s = .next v)
    ∧ (s.mgt.stage = e :: rest → 2 ≤ sev →
      (w.sinkOf 0 = (w.hubNum, 0) → exec .eventLogWrite s = .next w)
      ∧ (∀ hub k, w.sinkOf 0 = (hub, k) → hub ≠ w.hubNum ∨ k ≠ 0 → exec .eventLogWrite s =
        .next (w.notice hub ([4, 0] ++ be 1 k ++ [0] ++ logBytes e)))))
  ∧ (∀ (s : State) (f : Frame) (x : RegRow) (test arg : Nat), s.WritesReg f F.MGT_ST_CTL_GO 0 x →
    let w := wordOf f
    let u := s.setWord 0x120140 (BitVec.ofNat 32 (w % 2 ^ 14))
    let go (t : State) : Host.Outcome State Fault Refusal := .next (t.settle 5 f {})
    bit w 14 = true → w % 16 = test → bits w 11 4 = arg →
    (s.runningTest ≠ none →
      (test = 1 → exec (.stScrub f) s = .next (s.settle 5 f { st := .busy })) ∧ (test = 2 → exec (.stEye f) s = .next (s.settle 5 f { st := .busy }))
      ∧ (test = 3 → exec (.stClkmon f) s = .next (s.settle 5 f { st := .busy })) ∧ (test = 4 → exec (.stKat f) s = .next (s.settle 5 f { st := .busy }))
      ∧ (test = 8 → exec (.stPadrb f) s = .next (s.settle 5 f { st := .busy })) ∧ (test = 9 → exec (.stMbist f) s = .next (s.settle 5 f { st := .busy })))
    ∧ (s.runningTest = none →
      (test = 1 → exec (.stScrub f) s = go (u.startTest test arg)) ∧ (test = 2 → exec (.stEye f) s = go (u.startTest test arg))
      ∧ (test = 3 → exec (.stClkmon f) s = go (u.startTest test arg)) ∧ (test = 4 → exec (.stKat f) s = go (u.startTest test arg))
      ∧ ((u.standby || u.flag F.MGT_STAT_MAINT || u.flag F.MGT_STAT_LULL) = true →
        (test = 8 → exec (.stPadrb f) s = go (u.startTest test arg)) ∧ (test = 9 → arg < 4 → exec (.stMbist f) s = go (u.startTest test arg)))
      ∧ ((u.standby || u.flag F.MGT_STAT_MAINT || u.flag F.MGT_STAT_LULL) = false → bit w 13 = true → u.mgt.lullTests.length < 4 →
        let v := (u.testResult test 5 0).onMgt fun m => { m with lullTests := m.lullTests ++ [(test, arg)] }
        (test = 8 → exec (.stPadrb f) s = go v) ∧ (test = 9 → arg < 4 → exec (.stMbist f) s = go v))
      ∧ ((u.standby || u.flag F.MGT_STAT_MAINT || u.flag F.MGT_STAT_LULL) = false → bit w 13 = false → bit w 12 = false →
        (test = 8 → exec (.stPadrb f) s = go (u.testResult test 3 0)) ∧ (test = 9 → arg < 4 → exec (.stMbist f) s = go (u.testResult test 3 0)))))
  ∧ ∀ (s : State) (test arg : Nat),
    (s.runningTest = none → ∀ b d, exec (.testComplete b d) s = .next s)
    ∧ (∀ d, s.runningTest = some (test, arg) → test ≠ 9 → exec (.testComplete true d) s =
      .next ((s.testResult test 1 d).note 0x37 18 [test, arg, 1, d]).nextTest)
    ∧ (∀ d, s.runningTest = some (test, arg) → test ≠ 9 → exec (.testComplete false d) s =
      .next ((s.testResult test 2 d).event 0x37 18 3 [test, arg, 2, d]).nextTest)
    ∧ (∀ d, s.runningTest = some (9, arg) → exec (.testComplete true d) s =
      .next (((s.testResult 9 1 d).note 0x37 18 [9, arg, 1, d]).testReset (State.testBlock 9 arg)).nextTest)
    ∧ (s.flag F.MGT_STAT_LULL = false ∨ s.up < s.mgt.lullEnd → exec .lullEnd s = .next s)
    ∧ (s.flag F.MGT_STAT_LULL = true → s.mgt.lullEnd ≤ s.up → s.mgt.test = none ∨ (s.mgt.test = some (test, arg) ∧ test < 8) →
      exec .lullEnd s = .next (s.set F.MGT_STAT_LULL 0 0))
    ∧ (s.flag F.MGT_STAT_LULL = true → s.mgt.lullEnd ≤ s.up → s.mgt.test = some (test, arg) → 8 ≤ test → exec .lullEnd s =
      .next ((((((s.set F.MGT_STAT_LULL 0 0).testResult test 4 0).note 0x37 18 [test, arg, 4, 0]).testReset (State.testBlock test arg))).onMgt
        fun m => { m with test := none }))
end

