-- ==== Sys2Proof/Laws/Tables.lean ====
section
/-! SUPPORT. The sparse tables and byte memories: every operation keeps the canonical form; a read after a write to the same place gives
what was written, and a write leaves every other place alone. -/
namespace Sys2Proof

namespace Tbl
variable {α : Type}

theorem rising_iff (m : Map α) : Rising m = true ↔ m.Pairwise (fun a b => a.1 < b.1) := by
  induction m with
  | nil => simp [Rising]
  | cons p m ih =>
    cases m with
    | nil => simp [Rising]
    | cons q m =>
      simp only [Rising, Bool.and_eq_true, decide_eq_true_eq, ih, List.pairwise_cons]
      constructor
      · rintro ⟨h, hq, hm⟩
        refine ⟨fun r hr => ?_, hq, hm⟩
        rcases List.mem_cons.mp hr with rfl | hr
        · exact h
        · exact lt_trans h (hq r hr)
      · rintro ⟨h, hq⟩
        exact ⟨h q List.mem_cons_self, hq⟩

theorem rising_nil : Rising ([] : Map α) = true := rfl

theorem mem_put {m : Map α} {i : Nat} {v : α} {p : Nat × α} (h : p ∈ put m i v) : p = (i, v) ∨ p ∈ m := by
  induction m with
  | nil => simpa [put] using h
  | cons q m ih =>
    unfold put at h
    split at h
    · simpa using h
    · split at h
      · rcases List.mem_cons.mp h with rfl | h
        · exact .inl rfl
        · exact .inr (List.mem_cons_of_mem _ h)
      · rcases List.mem_cons.mp h with rfl | h
        · exact .inr List.mem_cons_self
        · rcases ih h with rfl | h
          · exact .inl rfl
          · exact .inr (List.mem_cons_of_mem _ h)

/-- Setting an entry keeps the keys rising. -/
theorem rising_put {m : Map α} (h : Rising m = true) (i : Nat) (v : α) : Rising (put m i v) = true := by
  rw [rising_iff] at *
  induction m with
  | nil => simp [put]
  | cons q m ih =>
    rw [List.pairwise_cons] at h
    unfold put
    split
    · rename_i hi
      refine List.pairwise_cons.mpr ⟨fun r hr => ?_, List.pairwise_cons.mpr h⟩
      rcases List.mem_cons.mp hr with rfl | hr
      · exact hi
      · exact lt_trans hi (h.1 r hr)
    · split
      · rename_i _ he
        subst he
        exact List.pairwise_cons.mpr h
      · refine List.pairwise_cons.mpr ⟨fun r hr => ?_, ih h.2⟩
        rcases mem_put hr with rfl | hr
        · show q.1 < i
          omega
        · exact h.1 r hr

/-- Dropping entries keeps the keys rising. -/
theorem rising_filter {m : Map α} (h : Rising m = true) (c : Nat × α → Bool) : Rising (m.filter c) = true := by
  rw [rising_iff] at *
  exact h.filter c

theorem rising_erase {m : Map α} (h : Rising m = true) (i : Nat) : Rising (erase m i) = true := rising_filter h _

/-- Changing entries in place keeps the keys rising. -/
theorem rising_map {β : Type} {m : Map α} (h : Rising m = true) (g : Nat × α → Nat × β) (hg : ∀ p, (g p).1 = p.1) : Rising (m.map g) = true := by
  rw [rising_iff] at *
  rw [List.pairwise_map]
  exact h.imp (fun {a b} hab => by rw [hg, hg]; exact hab)

theorem rising_upd {m : Map α} (h : Rising m = true) (i : Nat) (g : α → α) : Rising (upd m i g) = true :=
  rising_map h _ (fun p => by split <;> rfl)

theorem rising_foldl_put {β : Type} (l : List β) (k : β → Nat) (v : β → α) {m : Map α} (h : Rising m = true) :
    Rising (l.foldl (fun m p => put m (k p) (v p)) m) = true := by
  induction l generalizing m with
  | nil => exact h
  | cons p l ih => exact ih (rising_put h _ _)

/-- The entry that was set is found. -/
@[simp] theorem find?_put_self (m : Map α) (i : Nat) (v : α) : find? (put m i v) i = some v := by
  induction m with
  | nil => simp [put, find?]
  | cons q m ih =>
    unfold put
    split
    · simp [find?]
    · split
      · simp [find?]
      · rename_i h1 h2
        simp [find?, Ne.symm h2, ih]

/-- Setting an entry leaves every other key alone. -/
@[simp] theorem find?_put_ne (m : Map α) {i j : Nat} (v : α) (h : j ≠ i) : find? (put m i v) j = find? m j := by
  induction m with
  | nil => simp [put, find?, Ne.symm h]
  | cons q m ih =>
    unfold put
    split
    · simp [find?, Ne.symm h]
    · split
      · rename_i h1 h2
        subst h2
        simp [find?, Ne.symm h]
      · simp [find?, ih]

theorem find?_filter_ne (m : Map α) (i j : Nat) (h : j ≠ i) : find? (erase m i) j = find? m j := by
  induction m with
  | nil => rfl
  | cons q m ih =>
    unfold erase at *
    by_cases hq : q.1 = i
    · rw [List.filter_cons_of_neg (by simpa using hq), ih]
      simp [find?, hq, Ne.symm h]
    · rw [List.filter_cons_of_pos (by simpa using hq)]
      simp only [find?, ih]

theorem find?_erase_self (m : Map α) (i : Nat) : find? (erase m i) i = none := by
  induction m with
  | nil => rfl
  | cons q m ih =>
    unfold erase at *
    by_cases hq : q.1 = i
    · rw [List.filter_cons_of_neg (by simpa using hq), ih]
    · rw [List.filter_cons_of_pos (by simpa using hq)]
      simpa [find?, hq] using ih

end Tbl

namespace Mem

theorem wf_nil : wf [] = true := rfl

theorem wf_put {m : Mem} (h : wf m = true) (a : Nat) (v : Byte) (hv : v ≠ 0) : wf (Tbl.put m a v) = true := by
  simp only [wf, Bool.and_eq_true, List.all_eq_true, decide_eq_true_eq] at *
  refine ⟨Tbl.rising_put h.1 a v, fun p hp => ?_⟩
  rcases Tbl.mem_put hp with rfl | hp
  · exact hv
  · exact h.2 p hp

theorem wf_filter {m : Mem} (h : wf m = true) (c : Host.Cell → Bool) : wf (m.filter c) = true := by
  simp only [wf, Bool.and_eq_true, List.all_eq_true, decide_eq_true_eq] at *
  exact ⟨Tbl.rising_filter h.1 c, fun p hp => h.2 p (List.mem_of_mem_filter hp)⟩

/-- Storing a byte keeps the canonical form. -/
theorem wf_write {m : Mem} (h : wf m = true) (a : Nat) (v : Byte) : wf (write m a v) = true := by
  unfold write
  split
  · exact wf_filter h _
  · rename_i hv
    exact wf_put h a v hv

/-- Storing bytes keeps the canonical form. -/
theorem wf_writeN {m : Mem} (h : wf m = true) (a : Nat) (l : List Byte) : wf (writeN m a l) = true := by
  induction l generalizing m a with
  | nil => exact h
  | cons b l ih => exact ih (wf_write h a b) (a + 1)

/-- Clearing a range keeps the canonical form. -/
theorem wf_clear {m : Mem} (h : wf m = true) (a n : Nat) : wf (clear m a n) = true := wf_filter h _

/-- A read after a write to the same address. -/
@[simp] theorem read_write_self (m : Mem) (a : Nat) (v : Byte) : read (write m a v) a = v := by
  unfold read write Tbl.getD
  split
  · rename_i h
    rw [Tbl.find?_erase_self, h]
    rfl
  · rw [Tbl.find?_put_self]
    rfl

/-- A write leaves every other address alone. -/
@[simp] theorem read_write_ne (m : Mem) {a b : Nat} (v : Byte) (h : b ≠ a) : read (write m a v) b = read m b := by
  unfold read write Tbl.getD
  split
  · rw [Tbl.find?_filter_ne m a b h]
  · rw [Tbl.find?_put_ne m v h]

/-- Storing bytes leaves every address outside their range alone. -/
theorem read_writeN_out (m : Mem) (a b : Nat) (l : List Byte) (h : b < a ∨ a + l.length ≤ b) : read (writeN m a l) b = read m b := by
  induction l generalizing m a with
  | nil => rfl
  | cons x l ih =>
    simp only [List.length_cons] at h
    have hb : b ≠ a := by omega
    rw [writeN, ih (write m a x) (a + 1) (by omega), read_write_ne m x hb]

/-- The bytes that were stored are read back. -/
theorem read_writeN_in (m : Mem) (a k : Nat) (l : List Byte) (h : k < l.length) : read (writeN m a l) (a + k) = l.getD k 0 := by
  induction l generalizing m a k with
  | nil => simp at h
  | cons x l ih =>
    cases k with
    | zero =>
      rw [writeN, read_writeN_out _ _ _ _ (by omega)]
      simp
    | succ k =>
      have := ih (write m a x) (a + 1) k (by simpa using h)
      rw [writeN, show a + (k + 1) = a + 1 + k by omega, this]
      rfl

end Mem

end Sys2Proof
end

