-- ==== Sys2Proof/Laws/Kept.lean ====
section
/-! SUPPORT. What every effect of a command keeps: the queue is left alone and the invariant of Safety.lean is kept. The lemmas here say so of
an update of each field of the state; the lemmas of the other files of this folder say it of every operation. -/
namespace Sys2Proof.Machine

/-- The queue is q and the invariant holds. -/
def Kept (q : List Instr) (s : State) : Prop := s.pending = q ∧ s.Inv

/-- The outcome is a next state with queue q in which the invariant holds. -/
def Ends (q : List Instr) (o : Out) : Prop := ∃ t, o = .next t ∧ Kept q t

variable {q : List Instr} {s : State}

theorem ends_next (h : Kept q s) : Ends q (.next s) := ⟨s, rfl, h⟩

theorem ends_ite {c : Prop} [Decidable c] {a b : Out} (h1 : c → Ends q a) (h2 : ¬c → Ends q b) : Ends q (if c then a else b) := by
  split
  · exact h1 ‹_›
  · exact h2 ‹_›

namespace Kept

theorem pend (h : Kept q s) : s.pending = q := h.1
theorem regs (h : Kept q s) : Tbl.Rising s.regs = true := h.2.regs
theorem bulk (h : Kept q s) : Mem.wf s.bulk = true := h.2.bulk
theorem nvm (h : Kept q s) : Mem.wf s.nvm = true := h.2.nvm
theorem vlog (h : Kept q s) : s.hub.vlog.length ≤ 64 := h.2.vlog
theorem plog (h : Kept q s) : s.hub.plog.length ≤ 64 := h.2.plog
theorem stage (h : Kept q s) : s.mgt.stage.length ≤ 64 := h.2.stage
theorem dlog (h : Kept q s) : s.brg.dlog.length ≤ 64 := h.2.dlog
theorem alarms (h : Kept q s) : s.rfx.alarms.length ≤ 256 := h.2.alarms

/-- The parts of the invariant, one by one. -/
theorem of_parts (hp : s.pending = q) (h1 : Tbl.Rising s.regs = true) (h2 : Mem.wf s.bulk = true) (h3 : Mem.wf s.nvm = true)
    (h4 : s.hub.vlog.length ≤ 64) (h5 : s.hub.plog.length ≤ 64) (h6 : s.mgt.stage.length ≤ 64) (h7 : s.brg.dlog.length ≤ 64)
    (h8 : s.rfx.alarms.length ≤ 256) : Kept q s := ⟨hp, h1, h2, h3, h4, h5, h6, h7, h8⟩

theorem ite {c : Prop} [Decidable c] {a b : State} (h1 : c → Kept q a) (h2 : ¬c → Kept q b) : Kept q (if c then a else b) := by
  split
  · exact h1 ‹_›
  · exact h2 ‹_›

theorem ite_snd {α : Type} {c : Prop} [Decidable c] {a b : α × State} (h1 : c → Kept q a.2) (h2 : ¬c → Kept q b.2) :
    Kept q (if c then a else b).2 := by
  split
  · exact h1 ‹_›
  · exact h2 ‹_›

theorem put_imgRegs (h : Kept q s) (x : Map Word) : Kept q { s with imgRegs := x } :=
  ⟨h.1, h.regs, h.bulk, h.nvm, h.vlog, h.plog, h.stage, h.dlog, h.alarms⟩
theorem put_rng (h : Kept q s) (x : RngSt) : Kept q { s with rng := x } :=
  ⟨h.1, h.regs, h.bulk, h.nvm, h.vlog, h.plog, h.stage, h.dlog, h.alarms⟩
theorem put_swc (h : Kept q s) (x : SwcSt) : Kept q { s with swc := x } :=
  ⟨h.1, h.regs, h.bulk, h.nvm, h.vlog, h.plog, h.stage, h.dlog, h.alarms⟩
theorem put_tmq (h : Kept q s) (x : TmqSt) : Kept q { s with tmq := x } :=
  ⟨h.1, h.regs, h.bulk, h.nvm, h.vlog, h.plog, h.stage, h.dlog, h.alarms⟩
theorem put_img (h : Kept q s) (x : ImgSt) : Kept q { s with img := x } :=
  ⟨h.1, h.regs, h.bulk, h.nvm, h.vlog, h.plog, h.stage, h.dlog, h.alarms⟩
theorem put_cry (h : Kept q s) (x : CrySt) : Kept q { s with cry := x } :=
  ⟨h.1, h.regs, h.bulk, h.nvm, h.vlog, h.plog, h.stage, h.dlog, h.alarms⟩
theorem put_epo (h : Kept q s) (x : EpoSt) : Kept q { s with epo := x } :=
  ⟨h.1, h.regs, h.bulk, h.nvm, h.vlog, h.plog, h.stage, h.dlog, h.alarms⟩
theorem put_phs (h : Kept q s) (x : Map PhRef) : Kept q { s with phs := x } :=
  ⟨h.1, h.regs, h.bulk, h.nvm, h.vlog, h.plog, h.stage, h.dlog, h.alarms⟩
theorem put_pio (h : Kept q s) (x : PioSt) : Kept q { s with pio := x } :=
  ⟨h.1, h.regs, h.bulk, h.nvm, h.vlog, h.plog, h.stage, h.dlog, h.alarms⟩
theorem put_fpn (h : Kept q s) (x : FpnSt) : Kept q { s with fpn := x } :=
  ⟨h.1, h.regs, h.bulk, h.nvm, h.vlog, h.plog, h.stage, h.dlog, h.alarms⟩
theorem put_twn (h : Kept q s) (x : TwnSt) : Kept q { s with twn := x } :=
  ⟨h.1, h.regs, h.bulk, h.nvm, h.vlog, h.plog, h.stage, h.dlog, h.alarms⟩
theorem put_can (h : Kept q s) (x : CanSt) : Kept q { s with can := x } :=
  ⟨h.1, h.regs, h.bulk, h.nvm, h.vlog, h.plog, h.stage, h.dlog, h.alarms⟩
theorem put_ckr (h : Kept q s) (x : CkrSt) : Kept q { s with ckr := x } :=
  ⟨h.1, h.regs, h.bulk, h.nvm, h.vlog, h.plog, h.stage, h.dlog, h.alarms⟩
theorem put_pwr (h : Kept q s) (x : PwrSt) : Kept q { s with pwr := x } :=
  ⟨h.1, h.regs, h.bulk, h.nvm, h.vlog, h.plog, h.stage, h.dlog, h.alarms⟩
theorem put_hst (h : Kept q s) (x : HstSt) : Kept q { s with hst := x } :=
  ⟨h.1, h.regs, h.bulk, h.nvm, h.vlog, h.plog, h.stage, h.dlog, h.alarms⟩
theorem put_locks (h : Kept q s) (x : Map LockSt) : Kept q { s with locks := x } :=
  ⟨h.1, h.regs, h.bulk, h.nvm, h.vlog, h.plog, h.stage, h.dlog, h.alarms⟩
theorem put_recs (h : Kept q s) (x : List (Nat × HistRec)) : Kept q { s with recs := x } :=
  ⟨h.1, h.regs, h.bulk, h.nvm, h.vlog, h.plog, h.stage, h.dlog, h.alarms⟩
theorem put_inbox (h : Kept q s) (x : List (Nat × Frame)) : Kept q { s with inbox := x } :=
  ⟨h.1, h.regs, h.bulk, h.nvm, h.vlog, h.plog, h.stage, h.dlog, h.alarms⟩
theorem put_out (h : Kept q s) (x : List Emit) : Kept q { s with out := x } :=
  ⟨h.1, h.regs, h.bulk, h.nvm, h.vlog, h.plog, h.stage, h.dlog, h.alarms⟩
theorem put_up (h : Kept q s) (x : Nat) : Kept q { s with up := x } :=
  ⟨h.1, h.regs, h.bulk, h.nvm, h.vlog, h.plog, h.stage, h.dlog, h.alarms⟩
theorem put_free (h : Kept q s) (x : Nat) : Kept q { s with free := x } :=
  ⟨h.1, h.regs, h.bulk, h.nvm, h.vlog, h.plog, h.stage, h.dlog, h.alarms⟩
theorem put_regs (h : Kept q s) (x : Map Word) (h1 : Tbl.Rising x = true) : Kept q { s with regs := x } :=
  ⟨h.1, h1, h.bulk, h.nvm, h.vlog, h.plog, h.stage, h.dlog, h.alarms⟩
theorem put_bulk (h : Kept q s) (x : Mem) (h1 : Mem.wf x = true) : Kept q { s with bulk := x } :=
  ⟨h.1, h.regs, h1, h.nvm, h.vlog, h.plog, h.stage, h.dlog, h.alarms⟩
theorem put_nvm (h : Kept q s) (x : Mem) (h1 : Mem.wf x = true) : Kept q { s with nvm := x } :=
  ⟨h.1, h.regs, h.bulk, h1, h.vlog, h.plog, h.stage, h.dlog, h.alarms⟩
theorem put_hub (h : Kept q s) (x : HubSt) (h1 : x.vlog.length ≤ 64) (h2 : x.plog.length ≤ 64) : Kept q { s with hub := x } :=
  ⟨h.1, h.regs, h.bulk, h.nvm, h1, h2, h.stage, h.dlog, h.alarms⟩
theorem put_mgt (h : Kept q s) (x : MgtSt) (h1 : x.stage.length ≤ 64) : Kept q { s with mgt := x } :=
  ⟨h.1, h.regs, h.bulk, h.nvm, h.vlog, h.plog, h1, h.dlog, h.alarms⟩
theorem put_brg (h : Kept q s) (x : BrgSt) (h1 : x.dlog.length ≤ 64) : Kept q { s with brg := x } :=
  ⟨h.1, h.regs, h.bulk, h.nvm, h.vlog, h.plog, h.stage, h1, h.alarms⟩
theorem put_rfx (h : Kept q s) (x : RfxSt) (h1 : x.alarms.length ≤ 256) : Kept q { s with rfx := x } :=
  ⟨h.1, h.regs, h.bulk, h.nvm, h.vlog, h.plog, h.stage, h.dlog, h1⟩
theorem put_tim (h : Kept q s) (x : TimSt) : Kept q { s with tim := x } :=
  ⟨h.1, h.regs, h.bulk, h.nvm, h.vlog, h.plog, h.stage, h.dlog, h.alarms⟩

end Kept

/-- A fold over a list keeps what each of its steps keeps. -/
theorem foldl_kept {β : Type} {g : State → β → State} (l : List β) (hg : ∀ (t : State) (x : β), Kept q t → Kept q (g t x)) (h : Kept q s) :
    Kept q (l.foldl g s) := by
  induction l generalizing s with
  | nil => exact h
  | cons x l ih => exact ih (hg s x h)

theorem foldl_fst_kept {β γ : Type} {g : State × γ → β → State × γ} (l : List β) {p : State × γ}
    (hg : ∀ (t : State × γ) (x : β), Kept q t.1 → Kept q (g t x).1) (h : Kept q p.1) : Kept q (l.foldl g p).1 := by
  induction l generalizing p with
  | nil => exact h
  | cons x l ih => exact ih (hg p x h)

theorem foldl_snd_kept {β γ : Type} {g : γ × State → β → γ × State} (l : List β) {p : γ × State}
    (hg : ∀ (t : γ × State) (x : β), Kept q t.2 → Kept q (g t x).2) (h : Kept q p.2) : Kept q (l.foldl g p).2 := by
  induction l generalizing p with
  | nil => exact h
  | cons x l ih => exact ih (hg p x h)

/-- The state of a result that has been taken apart. -/
theorem Kept.of_snd {α : Type} {x : α × State} {a : α} {b : State} (e : x = (a, b)) (h : Kept q x.2) : Kept q b := by
  subst e
  exact h

theorem Kept.of_fst {α : Type} {x : State × α} {a : α} {b : State} (e : x = (b, a)) (h : Kept q x.1) : Kept q b := by
  subst e
  exact h

theorem Kept.of_third {α β : Type} {x : α × β × State} {a : α} {c : β} {b : State} (e : x = (a, c, b)) (h : Kept q x.2.2) : Kept q b := by
  subst e
  exact h

theorem Kept.of_some {x : Option State} {b : State} (e : x = some b) (h : ∀ t, x = some t → Kept q t) : Kept q b := h b e

theorem getD_kept {o : Option State} (h : Kept q s) (ho : ∀ t, o = some t → Kept q t) : Kept q (o.getD s) := by
  cases o with
  | none => exact h
  | some t => exact ho t rfl

end Sys2Proof.Machine
end

