-- ==== Sys2Proof/Laws/Ops.lean ====
section
/-! SUPPORT. The operations of Machine/Ops.lean leave the queue alone and keep the invariant of Safety.lean. -/
namespace Sys2Proof.Machine

theorem State.onHub_kept {q : List Instr} {s : State} {g : HubSt → HubSt} (h : Kept q s) (h1 : (g s.hub).vlog.length ≤ 64)
    (h2 : (g s.hub).plog.length ≤ 64) : Kept q (s.onHub g) := h.put_hub _ h1 h2

theorem State.onRng_kept {q : List Instr} {s : State} {g : RngSt → RngSt} (h : Kept q s) :
    Kept q (State.onRng s g) := by
  unfold State.onRng
  with_reducible
    repeat'
      first | assumption | apply Kept.put_rng

theorem State.onSwc_kept {q : List Instr} {s : State} {g : SwcSt → SwcSt} (h : Kept q s) :
    Kept q (State.onSwc s g) := by
  unfold State.onSwc
  with_reducible
    repeat'
      first | assumption | apply Kept.put_swc

theorem State.onTmq_kept {q : List Instr} {s : State} {g : TmqSt → TmqSt} (h : Kept q s) :
    Kept q (State.onTmq s g) := by
  unfold State.onTmq
  with_reducible
    repeat'
      first | assumption | apply Kept.put_tmq

theorem State.onTim_kept {q : List Instr} {s : State} {g : TimSt → TimSt} (h : Kept q s) :
    Kept q (State.onTim s g) := by
  unfold State.onTim
  with_reducible
    repeat'
      first | assumption | apply Kept.put_tim

theorem State.onMgt_kept {q : List Instr} {s : State} {g : MgtSt → MgtSt} (h : Kept q s) (h1 : (g s.mgt).stage.length ≤ 64) :
    Kept q (s.onMgt g) := h.put_mgt _ h1

theorem State.onImg_kept {q : List Instr} {s : State} {g : ImgSt → ImgSt} (h : Kept q s) :
    Kept q (State.onImg s g) := by
  unfold State.onImg
  with_reducible
    repeat'
      first | assumption | apply Kept.put_img

theorem State.onCry_kept {q : List Instr} {s : State} {g : CrySt → CrySt} (h : Kept q s) :
    Kept q (State.onCry s g) := by
  unfold State.onCry
  with_reducible
    repeat'
      first | assumption | apply Kept.put_cry

theorem State.onEpo_kept {q : List Instr} {s : State} {g : EpoSt → EpoSt} (h : Kept q s) :
    Kept q (State.onEpo s g) := by
  unfold State.onEpo
  with_reducible
    repeat'
      first | assumption | apply Kept.put_epo

theorem State.onPio_kept {q : List Instr} {s : State} {g : PioSt → PioSt} (h : Kept q s) :
    Kept q (State.onPio s g) := by
  unfold State.onPio
  with_reducible
    repeat'
      first | assumption | apply Kept.put_pio

theorem State.onFpn_kept {q : List Instr} {s : State} {g : FpnSt → FpnSt} (h : Kept q s) :
    Kept q (State.onFpn s g) := by
  unfold State.onFpn
  with_reducible
    repeat'
      first | assumption | apply Kept.put_fpn

theorem State.onTwn_kept {q : List Instr} {s : State} {g : TwnSt → TwnSt} (h : Kept q s) :
    Kept q (State.onTwn s g) := by
  unfold State.onTwn
  with_reducible
    repeat'
      first | assumption | apply Kept.put_twn

theorem State.onRfx_kept {q : List Instr} {s : State} {g : RfxSt → RfxSt} (h : Kept q s) (h1 : (g s.rfx).alarms.length ≤ 256) :
    Kept q (s.onRfx g) := h.put_rfx _ h1

theorem State.onBrg_kept {q : List Instr} {s : State} {g : BrgSt → BrgSt} (h : Kept q s) (h1 : (g s.brg).dlog.length ≤ 64) :
    Kept q (s.onBrg g) := h.put_brg _ h1

theorem State.onCan_kept {q : List Instr} {s : State} {g : CanSt → CanSt} (h : Kept q s) :
    Kept q (State.onCan s g) := by
  unfold State.onCan
  with_reducible
    repeat'
      first | assumption | apply Kept.put_can

theorem State.setWord_kept {q : List Instr} {s : State} {key : Nat} {w : Word} (h : Kept q s) : Kept q (s.setWord key w) :=
  h.put_regs _ (Tbl.rising_put h.regs _ _)

theorem State.set_kept {q : List Instr} {s : State} {f : Fld} {i : Nat} {v : Nat} (h : Kept q s) :
    Kept q (State.set s f i v) := by
  unfold State.set
  with_reducible
    repeat'
      first | assumption | apply State.setWord_kept

theorem State.setB_kept {q : List Instr} {s : State} {f : Fld} {i : Nat} {b : Bool} (h : Kept q s) :
    Kept q (State.setB s f i b) := by
  unfold State.setB
  with_reducible
    repeat'
      first | assumption | apply State.set_kept

theorem State.setPinBit_kept {q : List Instr} {s : State} {f : Fld} {p : Nat} {v : Bool} (h : Kept q s) :
    Kept q (State.setPinBit s f p v) := by
  unfold State.setPinBit
  with_reducible
    repeat'
      first | assumption | apply State.set_kept

theorem State.bumpBy_kept {q : List Instr} {s : State} {f : Fld} {i : Nat} {n : Nat} (h : Kept q s) :
    Kept q (State.bumpBy s f i n) := by
  unfold State.bumpBy
  with_reducible
    repeat'
      first | assumption | apply State.set_kept

theorem State.bump_kept {q : List Instr} {s : State} {f : Fld} {i : optParam Nat 0} (h : Kept q s) :
    Kept q (State.bump s f i) := by
  unfold State.bump
  with_reducible
    repeat'
      first | assumption | apply State.bumpBy_kept

theorem State.clearRegs_kept {q : List Instr} {s : State} {block : Nat} {keep : optParam (Nat → Bool) fun x => false} (h : Kept q s) :
    Kept q (State.clearRegs s block keep) := by
  unfold State.clearRegs
  with_reducible
    repeat'
      first | assumption | apply Kept.put_regs | apply Kept.regs | apply Tbl.rising_filter

theorem State.draw_kept {q : List Instr} {s : State} (h : Kept q s) :
    Kept q (State.draw s).2 := by
  unfold State.draw
  with_reducible
    repeat'
      first | assumption | apply Kept.put_free

theorem State.timeTick_kept {q : List Instr} {s : State} (h : Kept q s) :
    Kept q (State.timeTick s) := by
  unfold State.timeTick
  exact ⟨h.pend, h.regs, h.bulk, h.nvm, h.vlog, h.plog, h.stage, h.dlog, h.alarms⟩

theorem State.record_kept {q : List Instr} {s : State} {producer : Nat} {r : HistRec} (h : Kept q s) :
    Kept q (State.record s producer r) := by
  unfold State.record
  with_reducible
    repeat'
      first | assumption | apply Kept.put_recs

theorem State.emit_kept {q : List Instr} {s : State} {e : Emit} (h : Kept q s) :
    Kept q (State.emit s e) := by
  unfold State.emit
  with_reducible
    repeat'
      first | assumption | apply Kept.put_out

theorem State.deliver_kept {q : List Instr} {s : State} {unit : Nat} {f : Frame} (h : Kept q s) :
    Kept q (State.deliver s unit f) := by
  unfold State.deliver
  with_reducible
    repeat'
      first | assumption | apply Kept.put_inbox

theorem State.take_kept {q : List Instr} {s : State} {f : Frame} (h : Kept q s) :
    Kept q (State.take s f) := by
  unfold State.take
  with_reducible
    repeat'
      first | assumption | apply Kept.put_inbox

theorem State.offer_kept {q : List Instr} {s : State} {port : Nat} {f : Frame} (h : Kept q s) :
    Kept q (State.offer s port f) := by
  unfold State.offer
  with_reducible
    repeat'
      first | assumption | apply Kept.put_swc

theorem State.onLane_kept {q : List Instr} {s : State} {l : Lane} {g : LaneSt → LaneSt} (h : Kept q s) :
    Kept q (State.onLane s l g) := by
  unfold State.onLane
  with_reducible
    repeat'
      first | assumption | split | apply Kept.put_rng

theorem State.event_kept {q : List Instr} {s : State} {code block sev : Nat} {detail : List Nat} (h : Kept q s) :
    Kept q (s.event code block sev detail) := by
  unfold State.event
  extract_lets
  split
  · refine h.put_mgt _ ?_
    simp only [List.length_append, List.length_singleton]
    omega
  · exact State.bump_kept h

theorem State.note_kept {q : List Instr} {s : State} {code : Nat} {block : Nat} {detail : List Nat} (h : Kept q s) :
    Kept q (State.note s code block detail) := by
  unfold State.note
  with_reducible
    repeat'
      first | assumption | apply State.event_kept

theorem State.postedTag_kept {q : List Instr} {s : State} {init : Nat} (h : Kept q s) :
    Kept q (State.postedTag s init).2 := by
  unfold State.postedTag
  with_reducible
    repeat'
      first | assumption | apply Kept.put_hub | apply Kept.vlog | apply Kept.plog

theorem State.noteDone_kept {q : List Instr} {s : State} {d : DoneItem} (h : Kept q s) :
    Kept q (State.noteDone s d) := by
  unfold State.noteDone
  with_reducible
    repeat'
      first | assumption | apply State.onTwn_kept | apply Kept.ite | (intro)

theorem State.sendPosted_kept {q : List Instr} {s : State} {port : Nat} {f : Frame} (h : Kept q s) :
    Kept q (State.sendPosted s port f) := by
  unfold State.sendPosted
  with_reducible
    repeat'
      first
        | assumption | apply State.offer_kept | apply State.postedTag_kept | apply State.bump_kept
        | (refine Kept.of_snd (by assumption) ?_) | apply Kept.ite | (intro)

theorem State.notice_kept {q : List Instr} {s : State} {hub : Nat} {pay : List Byte} (h : Kept q s) :
    Kept q (State.notice s hub pay) := by
  unfold State.notice
  with_reducible
    repeat'
      first
        | assumption | apply State.bump_kept | apply State.sendPosted_kept | apply Kept.ite | (intro) | apply Kept.put_hub
        | apply Kept.vlog | apply Kept.plog

theorem State.copyLog_kept {q : List Instr} {s : State} {code : Nat} {e : LogEntry} (h : Kept q s) : Kept q (s.copyLog code e) := by
  unfold State.copyLog
  extract_lets
  split
  · refine h.put_mgt _ ?_
    simp only [List.length_append, List.length_singleton]
    omega
  · exact State.bump_kept h

theorem State.violation_kept {q : List Instr} {s : State} {f : Frame} {reason : Nat} (h : Kept q s) : Kept q (s.violation f reason) := by
  unfold State.violation
  extract_lets seq e full _ s1 s2
  have h1 : Kept q s1 := by
    refine h.put_hub _ ?_ h.plog
    have := h.vlog
    by_cases hf : 64 ≤ s.hub.vlog.length
    · simp [full, hf, this]
    · simp [full, hf]
      omega
  have h2 : Kept q s2 := Kept.ite (fun _ => State.set_kept (State.bump_kept h1)) (fun _ => State.copyLog_kept h1)
  exact Kept.ite (fun _ => h2) (fun _ => State.notice_kept h2)

theorem State.postedError_kept {q : List Instr} {s : State} {f : Frame} {st : Status} {detail : Nat} (h : Kept q s) :
    Kept q (s.postedError f st detail) := by
  unfold State.postedError
  extract_lets seq e full _ s1 s2
  have h1 : Kept q s1 := by
    refine h.put_hub _ h.vlog ?_
    have := h.plog
    by_cases hf : 64 ≤ s.hub.plog.length
    · simp [full, hf, this]
    · simp [full, hf]
      omega
  have h2 : Kept q s2 := Kept.ite (fun _ => State.set_kept (State.bump_kept h1)) (fun _ => State.copyLog_kept h1)
  exact Kept.ite (fun _ => h2) (fun _ => State.notice_kept h2)

theorem State.sendWrite_kept {q : List Instr} {s : State} {port : Nat} {f : Frame} (h : Kept q s) :
    Kept q (State.sendWrite s port f) := by
  unfold State.sendWrite
  with_reducible
    repeat'
      first
        | assumption | apply State.reachable_kept | apply State.sendPosted_kept | apply State.postedTag_kept
        | apply State.postedError_kept | apply State.hubNum_kept | (refine Kept.of_snd (by assumption) ?_) | apply Kept.ite
        | apply Kept.ite_snd | split | (intro)

theorem State.complete_kept {q : List Instr} {s : State} {port : Nat} {f : Frame} (h : Kept q s) :
    Kept q (State.complete s port f) := by
  unfold State.complete
  with_reducible
    repeat'
      first | assumption | apply State.noteDone_kept | apply State.offer_kept | apply State.onTwn_kept | apply Kept.ite | (intro)

theorem State.endLocal_kept {q : List Instr} {s : State} {unit : Nat} {req : Frame} {st : Status} (h : Kept q s) :
    Kept q (State.endLocal s unit req st) := by
  unfold State.endLocal
  with_reducible
    repeat'
      first
        | assumption | apply State.deliver_kept | apply State.cmpOf_kept | apply State.hubNum_kept
        | (refine Kept.of_snd (by assumption) ?_) | apply Kept.ite | apply Kept.ite_snd | split | (intro)

theorem State.answer_kept {q : List Instr} {s : State} {port : Nat} {req : Frame} {a : Answer} (h : Kept q s) :
    Kept q (State.answer s port req a) := by
  unfold State.answer
  with_reducible
    repeat'
      first | assumption | apply State.complete_kept | apply State.postedError_kept | apply Kept.ite | (intro)

theorem State.settle_kept {q : List Instr} {s : State} {port : Nat} {f : Frame} {r : State.Res} (h : Kept q s) :
    Kept q (State.settle s port f r) := by
  unfold State.settle
  with_reducible
    repeat'
      first | assumption | apply State.violation_kept | apply State.answer_kept | apply State.take_kept | apply Kept.ite | (intro)

end Sys2Proof.Machine
end

