-- ==== Sys2Proof/Laws/Keys.lean ====
section
/-! SUPPORT. The operations of Machine/Keys.lean leave the queue alone and keep the invariant of Safety.lean. -/
namespace Sys2Proof.Machine

theorem State.rewriteSlot_kept {q : List Instr} {s : State} {k : Nat} {st : KState} {key : List Byte} (h : Kept q s) :
    Kept q (State.rewriteSlot s k st key) := by
  unfold State.rewriteSlot
  with_reducible
    repeat'
      first | assumption | apply Kept.put_cry

theorem State.updCtx_kept {q : List Instr} {s : State} {l : Lane} {tx : Bool} {g : LinkCtx → LinkCtx} (h : Kept q s) :
    Kept q (State.updCtx s l tx g) := by
  unfold State.updCtx
  with_reducible
    repeat'
      first | assumption | split | apply Kept.put_cry

theorem State.deriveLink_kept {q : List Instr} {s : State} {l : Lane} {tx : Bool} {ctx : List Byte} {epoch : Nat} (h : Kept q s) :
    Kept q (State.deriveLink s l tx ctx epoch) := by
  unfold State.deriveLink
  with_reducible
    repeat'
      first | assumption | apply State.rewriteSlot_kept

theorem State.showEpoch_kept {q : List Instr} {s : State} {l : Lane} {tx : Bool} {e : Nat} (h : Kept q s) :
    Kept q (State.showEpoch s l tx e) := by
  unfold State.showEpoch
  with_reducible
    repeat'
      first | assumption | apply State.set_kept

theorem State.startCtx_kept {q : List Instr} {s t : State} {l : Lane} {tx : Bool} (h : Kept q s)
    (e : s.startCtx l tx = some t) : Kept q t := by
  unfold State.startCtx at e
  extract_lets c k hs go at e
  have hg : ∀ (u : State) (i n : Nat), Kept q u → Kept q (go u i n) := fun u i n hu =>
    Kept.ite (fun _ => State.showEpoch_kept (State.deriveLink_kept (hu.put_cry _)))
      (fun _ => State.deriveLink_kept (State.showEpoch_kept (State.deriveLink_kept (hu.put_cry _))))
  split at e
  · exact Option.some.inj e ▸ hg _ _ _ h
  · split at e
    · exact Option.some.inj e ▸ hg _ _ _ (h.put_cry _)
    · exact absurd e (by simp)

theorem State.tryKeys_kept {q : List Instr} {s : State} {l : Lane} (h : Kept q s) : Kept q (s.tryKeys l) := by
  unfold State.tryKeys
  extract_lets
  apply Kept.ite
  · intro
    split
    · rename_i t e
      obtain ⟨u, hu, ht⟩ := Option.bind_eq_some_iff.mp e
      exact State.onLane_kept (State.startCtx_kept (State.startCtx_kept h hu) ht)
    · exact State.bump_kept (State.set_kept h)
  · intro
    exact h

theorem State.nextHopiv_kept {q : List Instr} {s : State} {l : Lane} (h : Kept q s) :
    Kept q (State.nextHopiv s l).2.2 := by
  unfold State.nextHopiv
  with_reducible
    repeat'
      first | assumption | apply State.updCtx_kept | split

theorem State.rxEpoch_kept {q : List Instr} {s : State} {l : Lane} {epp : Bool} (h : Kept q s) :
    Kept q (State.rxEpoch s l epp) := by
  unfold State.rxEpoch
  with_reducible
    repeat'
      first
        | assumption | apply State.deriveLink_kept | apply State.updCtx_kept | apply State.showEpoch_kept | apply Kept.ite | split
        | (intro)

end Sys2Proof.Machine
end

