-- ==== Sys2Proof/Laws/Buffer.lean ====
section
/-! SUPPORT. The operations of Machine/Buffer.lean leave the queue alone and keep the invariant of Safety.lean. -/
namespace Sys2Proof.Machine

theorem mgtRequest_kept {q : List Instr} {f : Frame} {s : State} {g : State → Out} (h : Kept q s) (hg : ∀ t, Kept q t → Ends q (g t)) :
    Ends q (mgtRequest f s g) := by
  unfold mgtRequest
  exact ends_ite (fun _ => ends_next (State.settle_kept h)) (fun _ => hg _ (State.take_kept h))

theorem State.updBuf_kept {q : List Instr} {s : State} {hd : Nat} {g : Buf → Buf} (h : Kept q s) :
    Kept q (State.updBuf s hd g) := by
  unfold State.updBuf
  with_reducible
    repeat'
      first | assumption | apply Kept.put_swc

theorem State.setQueue_kept {q : List Instr} {s : State} {q' : Nat} {v : QSt} (h : Kept q s) :
    Kept q (State.setQueue s q' v) := by
  unfold State.setQueue
  with_reducible
    repeat'
      first | assumption | apply Kept.put_swc

theorem State.linkQ_kept {q : List Instr} {s : State} {q' : Nat} {hd : Nat} {transit : Bool} (h : Kept q s) :
    Kept q (State.linkQ s q' hd transit) := by
  unfold State.linkQ
  with_reducible
    repeat'
      first | assumption | apply State.updBuf_kept | apply State.setQueue_kept

theorem State.unlinkQ_kept {q : List Instr} {s : State} {q' : Nat} {hd : Nat} (h : Kept q s) :
    Kept q (State.unlinkQ s q' hd) := by
  unfold State.unlinkQ
  with_reducible
    repeat'
      first | assumption | apply State.updBuf_kept | apply State.setQueue_kept

theorem State.capture_kept {q : List Instr} {s : State} {on : Bool} {port : Nat} {dir : Nat} {outcome : Nat} {q' : Nat} {f : Frame} {time : Nat} (h : Kept q s) :
    Kept q (State.capture s on port dir outcome q' f time) := by
  unfold State.capture
  with_reducible
    repeat'
      first
        | assumption | apply State.bump_kept | apply State.setB_kept | apply State.post_kept | apply Kept.ite | (intro)
        | apply Kept.put_swc

theorem State.giveBack_kept {q : List Instr} {s : State} {l : Lane} {f : Frame} (h : Kept q s) :
    Kept q (State.giveBack s l f) := by
  unfold State.giveBack
  with_reducible
    repeat'
      first
        | assumption | apply State.onLane_kept | (refine Kept.of_snd (by assumption) ?_) | apply Kept.ite | apply Kept.ite_snd | split
        | (intro)

theorem State.freeBuf_kept {q : List Instr} {s : State} {hd : Nat} (h : Kept q s) :
    Kept q (State.freeBuf s hd) := by
  unfold State.freeBuf
  with_reducible
    repeat'
      first | assumption | apply State.giveBack_kept | apply getD_kept | apply Kept.ite | split | (intro) | apply Kept.put_swc

theorem State.release_kept {q : List Instr} {s : State} {hd : Nat} (h : Kept q s) :
    Kept q (State.release s hd) := by
  unfold State.release
  with_reducible
    repeat'
      first
        | assumption | apply State.freeBuf_kept | (refine Kept.of_snd (by assumption) ?_) | apply Kept.ite | apply Kept.ite_snd | split
        | (intro)

theorem State.outgoing_kept {q : List Instr} {s : State} {l : Lane} {b : Buf} (h : Kept q s) :
    Kept q (State.outgoing s l b).2 := by
  unfold State.outgoing
  with_reducible
    repeat'
      first | assumption | apply State.nextHopiv_kept | (refine Kept.of_third (by assumption) ?_) | apply Kept.ite_snd | (intro)

theorem State.hostOut_kept {q : List Instr} {s : State} {p : Nat} {f : Frame} {inverted : Bool} (h : Kept q s) :
    Kept q (State.hostOut s p f inverted) := by
  unfold State.hostOut
  with_reducible
    repeat'
      first
        | assumption | apply State.emit_kept | apply State.ethFrame_kept | (refine Kept.of_snd (by assumption) ?_) | apply Kept.ite
        | apply Kept.ite_snd | split | (intro)

theorem State.resume_kept {q : List Instr} {s : State} {out : Nat} (h : Kept q s) :
    Kept q (State.resume s out) := by
  unfold State.resume
  with_reducible
    repeat'
      first
        | assumption | apply isLane_kept | apply laneOf_kept | apply State.emit_kept | apply State.onLane_kept
        | (refine Kept.of_snd (by assumption) ?_) | apply Kept.ite | apply Kept.ite_snd | split | (intro)

theorem State.endBad_kept {q : List Instr} {s : State} {out : Nat} {hd : Nat} (h : Kept q s) :
    Kept q (State.endBad s out hd) := by
  unfold State.endBad
  with_reducible
    repeat'
      first
        | assumption | apply State.bump_kept | apply State.outgoing_kept | apply State.emit_kept | apply State.onLane_kept
        | apply State.resume_kept | apply State.hostOut_kept | apply State.capture_kept | apply Kept.ite | split | (intro)
        | apply Kept.put_swc

theorem State.markSamples_kept {q : List Instr} {s : State} {hd : Nat} {v : Verdict} (h : Kept q s) :
    Kept q (State.markSamples s hd v) := by
  unfold State.markSamples
  with_reducible
    repeat'
      first
        | assumption | apply State.onSwc_kept | (refine Kept.of_snd (by assumption) ?_) | apply Kept.ite | apply Kept.ite_snd | split
        | (intro)

theorem State.zeroFrame_kept {q : List Instr} {s : State} {hd : Nat} (h : Kept q s) :
    Kept q (State.zeroFrame s hd) := by
  unfold State.zeroFrame
  with_reducible
    repeat'
      first
        | assumption | extract_lets | apply State.markSamples_kept | apply State.endBad_kept | apply State.unlinkQ_kept
        | apply State.freeBuf_kept | apply State.bump_kept | (refine Kept.of_snd (by assumption) ?_) | apply Kept.ite | apply foldl_kept
        | apply foldl_fst_kept | apply foldl_snd_kept | split | (intro)

theorem State.markGood_kept {q : List Instr} {s : State} {hd : Nat} (h : Kept q s) :
    Kept q (State.markGood s hd) := by
  unfold State.markGood
  with_reducible
    repeat'
      first
        | assumption | apply State.updBuf_kept | apply State.markSamples_kept | (refine Kept.of_snd (by assumption) ?_) | apply Kept.ite
        | apply Kept.ite_snd | split | (intro)

theorem State.denyLocal_kept {q : List Instr} {s : State} {f : Frame} {qs : List Nat} (h : Kept q s) :
    Kept q (State.denyLocal s f qs).2 := by
  unfold State.denyLocal
  with_reducible
    repeat'
      first
        | assumption | apply State.admits_kept | apply State.isAon_kept | apply State.bump_kept | apply foldl_kept
        | apply State.portOfQ_kept | (refine Kept.of_snd (by assumption) ?_) | apply Kept.ite | apply Kept.ite_snd | apply foldl_kept
        | apply foldl_fst_kept | apply foldl_snd_kept | split | (intro)

theorem State.waitOn_kept {q : List Instr} {s : State} {hd : Nat} {qs : List Nat} {aon : Bool} (h : Kept q s) :
    Kept q (State.waitOn s hd qs aon) := by
  unfold State.waitOn
  with_reducible
    repeat'
      first
        | assumption | apply State.updBuf_kept | apply State.onSwc_kept | (refine Kept.of_snd (by assumption) ?_) | apply Kept.ite
        | apply Kept.ite_snd | split | (intro)

theorem State.linkLocal_kept {q : List Instr} {s : State} {hd : Nat} (h : Kept q s) :
    Kept q (State.linkLocal s hd) := by
  unfold State.linkLocal
  with_reducible
    repeat'
      first
        | assumption | apply State.updBuf_kept | apply State.release_kept | apply State.bump_kept | apply foldl_kept
        | apply State.linkQ_kept | apply State.waitOn_kept | (refine Kept.of_snd (by assumption) ?_) | apply Kept.ite
        | apply Kept.ite_snd | apply foldl_kept | apply foldl_fst_kept | apply foldl_snd_kept | split | (intro)

end Sys2Proof.Machine
end

