-- ==== Sys2Proof/Laws/Access.lean ====
section
/-! SUPPORT. The operations of Machine/Access.lean leave the queue alone and keep the invariant of Safety.lean. -/
namespace Sys2Proof.Machine

theorem State.unlock_kept {q : List Instr} {s : State} {k : LockId} (h : Kept q s) :
    Kept q (State.unlock s k) := by
  unfold State.unlock
  with_reducible
    repeat'
      first | assumption | apply Kept.put_locks

theorem lockRead_kept {q : List Instr} {k : LockId} {hub : Nat} {init : Nat} {s : State} (h : Kept q s) :
    Kept q (lockRead k hub init s).2 := by
  unfold lockRead
  with_reducible
    repeat'
      first | assumption | split | apply Kept.put_locks

theorem execCmdLockTimeout_kept {q : List Instr} {lock : LockId} {s : State} (h : Kept q s) :
    Ends q (execCmdLockTimeout lock s) := by
  unfold execCmdLockTimeout
  with_reducible
    repeat'
      first | assumption | apply State.unlock_kept | apply ends_next | apply Kept.ite | split | (intro)

theorem locked_kept {q : List Instr} {k : LockId} {f : Frame} {s : State} {g : State → State.Res × State} (h : Kept q s)
    (hg : ∀ t : State, Kept q t → Kept q (g t).2) : Kept q (locked k f s g).2 :=
  Kept.ite_snd (fun _ => hg s h) fun _ => h

end Sys2Proof.Machine
end

