-- ==== Sys2Proof/Laws/Publish.lean ====
section
/-! SUPPORT. The operations of Machine/Publish.lean leave the queue alone and keep the invariant of Safety.lean. -/
namespace Sys2Proof.Machine

theorem State.setObj_kept {q : List Instr} {s : State} {i : Nat} {o : Obj} (h : Kept q s) :
    Kept q (State.setObj s i o) := by
  unfold State.setObj
  with_reducible
    repeat'
      first | assumption | apply State.onEpo_kept

theorem State.trigger_kept {q : List Instr} {s : State} {i : Nat} {due : Bool} (h : Kept q s) :
    Kept q (State.trigger s i due) := by
  unfold State.trigger
  with_reducible
    repeat'
      first | assumption | apply State.record_kept | apply State.onEpo_kept | apply State.setObj_kept | apply Kept.ite | split | (intro)

theorem State.evaluate_kept {q : List Instr} {s : State} {i : Nat} {due : optParam Bool false} (h : Kept q s) :
    Kept q (State.evaluate s i due) := by
  unfold State.evaluate
  with_reducible
    repeat'
      first | assumption | apply State.trigger_kept | apply Kept.ite | split | (intro)

theorem State.handOver_kept {q : List Instr} {s : State} {i : Nat} {o : Obj} (h : Kept q s) :
    Kept q (State.handOver s i o) := by
  unfold State.handOver
  with_reducible
    repeat'
      first | assumption | apply State.onEpo_kept | apply Kept.ite | (intro)

theorem State.finish_kept {q : List Instr} {s : State} {i : Nat} {old : Obj} {new : Obj} (h : Kept q s) :
    Kept q (State.finish s i old new) := by
  unfold State.finish
  with_reducible
    repeat'
      first | assumption | apply State.handOver_kept | apply State.evaluate_kept | apply State.setObj_kept | apply Kept.ite | (intro)

theorem State.sourceUpdate_kept {q : List Instr} {s : State} {u : Update} (h : Kept q s) :
    Kept q (State.sourceUpdate s u) := by
  unfold State.sourceUpdate
  with_reducible
    repeat'
      first | assumption | apply State.setObj_kept | apply State.finish_kept | apply Kept.ite | split | (intro)

theorem State.fabricWrite_kept {q : List Instr} {s : State} {i : Nat} {o : Obj} {v : Nat} (h : Kept q s) :
    Kept q (State.fabricWrite s i o v).2 := by
  unfold State.fabricWrite
  with_reducible
    repeat'
      first | assumption | apply State.finish_kept | apply State.setObj_kept | apply Kept.ite_snd | (intro)

theorem State.holdObj_kept {q : List Instr} {s : State} {i : Nat} {v : Nat} (h : Kept q s) :
    Kept q (State.holdObj s i v) := by
  unfold State.holdObj
  with_reducible
    repeat'
      first | assumption | apply State.finish_kept | split

theorem State.releaseObj_kept {q : List Instr} {s : State} {i : Nat} (h : Kept q s) :
    Kept q (State.releaseObj s i) := by
  unfold State.releaseObj
  with_reducible
    repeat'
      first | assumption | apply State.finish_kept | split

theorem State.performRfx_kept {q : List Instr} {s : State} {x : RfxItem} (h : Kept q s) :
    Kept q (State.performRfx s x) := by
  unfold State.performRfx
  with_reducible
    repeat'
      first
        | assumption | apply State.sourceUpdate_kept | apply State.holdObj_kept | apply State.releaseObj_kept | apply Kept.ite | split
        | (intro)

theorem State.arrived_kept {q : List Instr} {s : State} {i : Nat} (h : Kept q s) :
    Kept q (State.arrived s i) := by
  unfold State.arrived
  with_reducible
    repeat'
      first
        | assumption | apply State.take_kept | apply foldl_kept | apply State.performRfx_kept | apply State.onEpo_kept
        | apply State.sourceUpdate_kept | apply Kept.ite | apply foldl_kept | apply foldl_fst_kept | apply foldl_snd_kept | (intro)
        | apply Kept.put_rfx | apply Kept.alarms

theorem State.repairObj_kept {q : List Instr} {s : State} {i : Nat} (h : Kept q s) :
    Kept q (State.repairObj s i) := by
  unfold State.repairObj
  with_reducible
    repeat'
      first
        | assumption | apply State.handOver_kept | apply State.setObj_kept | apply State.evaluate_kept | apply State.bump_kept
        | apply State.set_kept | apply Kept.ite | split | (intro)

theorem epoWrite_kept {q : List Instr} {off : Nat} {data : List Byte} {s : State} (h : Kept q s) :
    Kept q (epoWrite off data s).2 := by
  unfold epoWrite
  with_reducible
    repeat'
      first
        | assumption | extract_lets | apply State.arrived_kept | apply State.fabricWrite_kept | apply getD_kept
        | (refine Kept.of_snd (by assumption) ?_) | apply Kept.ite | apply Kept.ite_snd | apply foldl_kept | apply foldl_fst_kept
        | apply foldl_snd_kept | split | (intro)

theorem execSourceUpdate_kept {q : List Instr} {s : State} (h : Kept q s) :
    Ends q (execSourceUpdate s) := by
  unfold execSourceUpdate
  with_reducible
    repeat'
      first | assumption | apply State.onEpo_kept | apply State.sourceUpdate_kept | apply ends_next | split

theorem execHoldChange_kept {q : List Instr} {s : State} (h : Kept q s) :
    Ends q (execHoldChange s) := by
  unfold execHoldChange
  with_reducible
    repeat'
      first
        | assumption | apply ends_next | apply ends_ite | apply State.onEpo_kept | apply State.performRfx_kept | apply Kept.ite | split
        | (intro) | apply Kept.put_rfx | apply Kept.alarms

theorem execPeriodTimer_kept {q : List Instr} {obj : Nat} {s : State} (h : Kept q s) :
    Ends q (execPeriodTimer obj s) := by
  unfold execPeriodTimer
  with_reducible
    repeat'
      first | assumption | apply State.trigger_kept | apply ends_next | apply Kept.ite | split | (intro)

theorem execDeferredEvaluation_kept {q : List Instr} {obj : Nat} {s : State} (h : Kept q s) :
    Ends q (execDeferredEvaluation obj s) := by
  unfold execDeferredEvaluation
  with_reducible
    repeat'
      first | assumption | apply State.setObj_kept | apply State.evaluate_kept | apply ends_next | apply Kept.ite | split | (intro)

theorem execStaleTimeout_kept {q : List Instr} {obj : Nat} {s : State} (h : Kept q s) :
    Ends q (execStaleTimeout obj s) := by
  unfold execStaleTimeout
  with_reducible
    repeat'
      first | assumption | apply State.finish_kept | apply ends_next | apply ends_ite | split | (intro)

theorem execObjectScrub_kept {q : List Instr} {err : Nat} {s : State} (h : Kept q s) :
    Ends q (execObjectScrub err s) := by
  unfold execObjectScrub
  with_reducible
    repeat'
      first
        | assumption | apply State.repairObj_kept | apply State.bump_kept | apply State.onEpo_kept | apply ends_next | apply Kept.ite
        | (intro)

theorem State.sendPub_kept {q : List Instr} {s : State} {tc : Nat} {toHost : Bool} {dest : Nat} {pay : List Byte} (h : Kept q s) :
    Kept q (State.sendPub s tc toHost dest pay) := by
  unfold State.sendPub
  with_reducible
    repeat'
      first | assumption | apply State.bump_kept | apply State.sendPosted_kept | apply Kept.ite | (intro)

theorem State.buildPub_kept {q : List Instr} {s : State} {k : Nat} {b : Sub} (h : Kept q s) :
    Kept q (State.buildPub s k b) := by
  unfold State.buildPub
  with_reducible
    repeat'
      first | assumption | apply State.sendPub_kept | apply State.onEpo_kept

theorem execBatchTimer_kept {q : List Instr} {sub : Nat} {s : State} (h : Kept q s) :
    Ends q (execBatchTimer sub s) := by
  unfold execBatchTimer
  with_reducible
    repeat'
      first | assumption | apply State.onEpo_kept | apply ends_next | apply ends_ite | split | (intro)

theorem execPubFrameBuild_kept {q : List Instr} {s : State} (h : Kept q s) :
    Ends q (execPubFrameBuild s) := by
  unfold execPubFrameBuild
  with_reducible
    repeat'
      first | assumption | apply State.buildPub_kept | apply ends_next | apply ends_ite | extract_lets | split | (intro)

theorem mirror_kept {q : List Instr} {s : State} {src : Nat} {e : List Byte} (h : Kept q s) :
    Kept q (mirror s src e) := by
  unfold mirror
  with_reducible
    repeat'
      first
        | assumption | apply State.evaluate_kept | apply State.setObj_kept | apply State.bump_kept | apply foldl_kept | extract_lets
        | split | (intro)

theorem execPub_kept {q : List Instr} {f : Frame} {s : State} (h : Kept q s) :
    Ends q (execPub f s) := by
  unfold execPub
  with_reducible
    repeat'
      first
        | assumption | apply ends_next | apply ends_ite | apply State.settle_kept | apply mirror_kept | apply State.take_kept
        | apply Kept.ite | apply foldl_kept | apply foldl_fst_kept | apply foldl_snd_kept | (intro)

theorem epoRes_kept {q : List Instr} {s : State} {index : Nat} {result : Nat} (h : Kept q s) :
    Kept q (epoRes s index result) := by
  unfold epoRes
  with_reducible
    repeat'
      first | assumption | apply State.set_kept

theorem subAlloc_kept {q : List Instr} {s : State} (h : Kept q s) :
    Kept q (subAlloc s).2 := by
  unfold subAlloc
  with_reducible
    repeat'
      first
        | assumption | apply State.onEpo_kept | apply State.bump_kept | apply epoRes_kept | apply Kept.ite_snd | extract_lets | split
        | (intro)

theorem subFree_kept {q : List Instr} {k : Nat} {s : State} (h : Kept q s) :
    Kept q (subFree k s) := by
  unfold subFree
  with_reducible
    repeat'
      first | assumption | apply State.onEpo_kept | apply epoRes_kept | apply Kept.ite | (intro)

theorem execBcopy_kept {q : List Instr} {f : Frame} {s : State} (h : Kept q s) :
    Ends q (execBcopy f s) := by
  unfold execBcopy
  with_reducible
    repeat'
      first
        | assumption | apply ends_next | apply ends_ite | apply State.settle_kept | apply State.bump_kept | apply State.take_kept
        | apply State.onEpo_kept | apply Kept.ite | split | (intro) | apply Kept.put_hub | apply Kept.vlog | apply Kept.plog

theorem execBcopyFrameSend_kept {q : List Instr} {s : State} (h : Kept q s) :
    Ends q (execBcopyFrameSend s) := by
  unfold execBcopyFrameSend
  with_reducible
    repeat'
      first
        | assumption | apply State.onEpo_kept | apply State.answer_kept | apply State.sendWrite_kept | apply ends_next | apply ends_ite
        | split | (intro)

end Sys2Proof.Machine
end

