-- ==== Sys2Proof/Laws/Time.lean ====
section
/-! SUPPORT. The operations of Machine/Time.lean leave the queue alone and keep the invariant of Safety.lean. -/
namespace Sys2Proof.Machine

theorem State.setRef_kept {q : List Instr} {s : State} {k : Nat} {r : PhRef} (h : Kept q s) :
    Kept q (State.setRef s k r) := by
  unfold State.setRef
  with_reducible
    repeat'
      first | assumption | apply Kept.put_phs

theorem State.showEvent_kept {q : List Instr} {s : State} {k : Nat} {phase : Nat} {time : Nat} (h : Kept q s) :
    Kept q (State.showEvent s k phase time) := by
  unfold State.showEvent
  with_reducible
    repeat'
      first | assumption | apply State.set_kept | apply State.bump_kept

theorem State.showPeriod_kept {q : List Instr} {s : State} {k : Nat} {test : Nat} (h : Kept q s) :
    Kept q (State.showPeriod s k test) := by
  unfold State.showPeriod
  with_reducible
    repeat'
      first | assumption | apply State.set_kept

theorem State.localEvent_kept {q : List Instr} {s : State} {k : Nat} {r : PhRef} {phase : Nat} {time : Nat} {next : Nat} {back : Bool}
    {jumped : Bool} (h : Kept q s) :
    Kept q (State.localEvent s k r phase time next back jumped) := by
  unfold State.localEvent
  with_reducible
    repeat'
      first
        | assumption | apply State.bump_kept | apply State.setB_kept | apply State.showEvent_kept | apply State.showPeriod_kept
        | apply State.set_kept | apply State.setRef_kept | apply Kept.ite | (intro)

theorem State.zcEvent_kept {q : List Instr} {s : State} {k : Nat} {r : PhRef} (h : Kept q s) :
    Kept q (State.zcEvent s k r) := by
  unfold State.zcEvent
  with_reducible
    repeat'
      first | assumption | apply State.localEvent_kept | apply State.setRef_kept | apply Kept.ite | (intro)

theorem State.encEvent_kept {q : List Instr} {s : State} {k : Nat} {r : PhRef} (h : Kept q s) :
    Kept q (State.encEvent s k r) := by
  unfold State.encEvent
  with_reducible
    repeat'
      first | assumption | apply State.setRef_kept | apply State.localEvent_kept | apply Kept.ite | (intro)

theorem State.objEvent_kept {q : List Instr} {s : State} {k : Nat} {r : PhRef} (h : Kept q s) :
    Kept q (State.objEvent s k r) := by
  unfold State.objEvent
  with_reducible
    repeat'
      first | assumption | apply State.setRef_kept | apply State.localEvent_kept | apply Kept.ite | extract_lets | split | (intro)

theorem State.remoteStall_kept {q : List Instr} {s : State} {k : Nat} {r : PhRef} (h : Kept q s) :
    Kept q (State.remoteStall s k r) := by
  unfold State.remoteStall
  with_reducible
    repeat'
      first | assumption | apply State.setRef_kept | apply State.set_kept | apply State.bump_kept | apply Kept.ite | (intro)

theorem State.remoteEvent_kept {q : List Instr} {s : State} {k : Nat} {r : PhRef} {p : List Byte} (h : Kept q s) :
    Kept q (State.remoteEvent s k r p) := by
  unfold State.remoteEvent
  with_reducible
    repeat'
      first
        | assumption | apply State.showEvent_kept | apply State.set_kept | apply State.remoteStall_kept | apply State.setRef_kept
        | apply State.showPeriod_kept | apply State.setB_kept | apply State.bump_kept | apply Kept.ite | (intro)

theorem execPhaseLocalEvent_kept {q : List Instr} {ph : Nat} {s : State} (h : Kept q s) :
    Ends q (execPhaseLocalEvent ph s) := by
  unfold execPhaseLocalEvent
  with_reducible
    repeat'
      first
        | assumption | apply State.objEvent_kept | apply State.encEvent_kept | apply State.zcEvent_kept | apply ends_next
        | apply ends_ite | split | (intro)

theorem execPhevSend_kept {q : List Instr} {ph : Nat} {s : State} (h : Kept q s) :
    Ends q (execPhevSend ph s) := by
  unfold execPhevSend
  with_reducible
    repeat'
      first
        | assumption | apply State.sendPosted_kept | apply State.set_kept | apply State.setRef_kept | apply ends_next | apply ends_ite
        | extract_lets | split | (intro)

theorem execPhev_kept {q : List Instr} {f : Frame} {s : State} (h : Kept q s) :
    Ends q (execPhev f s) := by
  unfold execPhev
  with_reducible
    repeat'
      first
        | assumption | apply State.take_kept | apply State.remoteEvent_kept | apply State.setRef_kept | apply ends_next | apply Kept.ite
        | apply foldl_kept | (intro)

theorem execPhaseStall_kept {q : List Instr} {ph : Nat} {s : State} (h : Kept q s) :
    Ends q (execPhaseStall ph s) := by
  unfold execPhaseStall
  with_reducible
    repeat'
      first
        | assumption | apply State.set_kept | apply State.bump_kept | apply State.setRef_kept | apply ends_next | apply ends_ite
        | (intro)

theorem State.timeState_kept {q : List Instr} {s : State} {st : Nat} (h : Kept q s) :
    Kept q (State.timeState s st) := by
  unfold State.timeState
  with_reducible
    repeat'
      first | assumption | apply State.onTim_kept | apply State.set_kept | apply State.setB_kept | apply Kept.ite | (intro)

theorem State.timeStep_kept {q : List Instr} {s : State} {d : Int} (h : Kept q s) :
    Kept q (State.timeStep s d) := by
  unfold State.timeStep
  with_reducible
    repeat'
      first
        | assumption | apply State.set_kept | apply State.bump_kept | apply State.onPio_kept | apply State.onTim_kept
        | apply Kept.put_phs

theorem State.setIncr_kept {q : List Instr} {s : State} {base : Int} {trim : Int} (h : Kept q s) :
    Kept q (State.setIncr s base trim) := by
  unfold State.setIncr
  with_reducible
    repeat'
      first | assumption | apply State.set_kept | apply State.onTim_kept

theorem State.timeOffset_kept {q : List Instr} {s : State} {o : Int} {inc : Int} {tse : Nat} (h : Kept q s) :
    Kept q (State.timeOffset s o inc tse) := by
  unfold State.timeOffset
  with_reducible
    repeat'
      first
        | assumption | apply State.bump_kept | apply State.set_kept | apply State.timeStep_kept | apply State.setIncr_kept
        | apply State.timeState_kept | apply State.onTim_kept | apply Kept.ite | (intro)

theorem State.timeMaster_kept {q : List Instr} {s : State} (h : Kept q s) :
    Kept q (State.timeMaster s) := by
  unfold State.timeMaster
  with_reducible
    repeat'
      first
        | assumption | apply State.onTim_kept | apply State.timeState_kept | apply State.setIncr_kept | apply State.set_kept
        | apply Kept.ite | (intro)

theorem State.timeMerge_kept {q : List Instr} {s : State} (h : Kept q s) :
    Kept q (State.timeMerge s) := by
  unfold State.timeMerge
  with_reducible
    repeat'
      first | assumption | apply State.set_kept | apply Kept.ite | (intro)

theorem execTsyncSend_kept {q : List Instr} {s : State} (h : Kept q s) :
    Ends q (execTsyncSend s) := by
  unfold execTsyncSend
  with_reducible
    repeat'
      first
        | assumption | apply ends_next | apply ends_ite | apply State.onTim_kept | apply State.sendPosted_kept | apply Kept.ite
        | (intro)

theorem State.countMissed_kept {q : List Instr} {s : State} {n : Nat} (h : Kept q s) :
    Kept q (State.countMissed s n) := by
  unfold State.countMissed
  with_reducible
    repeat'
      first | assumption | apply State.bumpBy_kept | apply State.onTim_kept | apply Kept.ite | (intro)

theorem execTsync_kept {q : List Instr} {f : Frame} {stamp : Nat} {s : State} (h : Kept q s) :
    Ends q (execTsync f stamp s) := by
  unfold execTsync
  with_reducible
    repeat'
      first
        | assumption | apply ends_next | apply ends_ite | apply State.take_kept | apply State.onTim_kept | apply State.countMissed_kept
        | apply State.bump_kept | apply State.set_kept | apply State.setB_kept | apply State.timeOffset_kept | apply Kept.ite | (intro)

theorem execSyncLossHoldover_kept {q : List Instr} {s : State} (h : Kept q s) :
    Ends q (execSyncLossHoldover s) := by
  unfold execSyncLossHoldover
  with_reducible
    repeat'
      first
        | assumption | apply ends_next | apply ends_ite | apply State.timeState_kept | apply State.countMissed_kept
        | apply State.onTim_kept | apply Kept.ite | (intro)

theorem execTimeRingSwitch_kept {q : List Instr} {s : State} (h : Kept q s) :
    Ends q (execTimeRingSwitch s) := by
  unfold execTimeRingSwitch
  with_reducible
    repeat'
      first
        | assumption | apply ends_next | apply ends_ite | apply State.countMissed_kept | apply State.set_kept | apply State.onTim_kept
        | apply Kept.ite | (intro)

theorem State.setPtp_kept {q : List Instr} {s : State} {p : HPort} {v : PtpPort} (h : Kept q s) :
    Kept q (State.setPtp s p v) := by
  unfold State.setPtp
  with_reducible
    repeat'
      first | assumption | apply State.onTim_kept | split

theorem State.showInputs_kept {q : List Instr} {s : State} (h : Kept q s) :
    Kept q (State.showInputs s) := by
  unfold State.showInputs
  with_reducible
    repeat'
      first | assumption | apply State.set_kept | apply State.onTim_kept | apply State.setB_kept | apply Kept.ite | (intro)

theorem State.syncDone_kept {q : List Instr} {s : State} {p : HPort} {q' : PtpPort} {fwd : Int} (h : Kept q s) :
    Kept q (State.syncDone s p q' fwd) := by
  unfold State.syncDone
  with_reducible
    repeat'
      first | assumption | apply State.setPtp_kept

theorem execTgmrSend_kept {q : List Instr} {p : HPort} {s : State} (h : Kept q s) :
    Ends q (execTgmrSend p s) := by
  unfold execTgmrSend
  with_reducible
    repeat'
      first
        | assumption | apply State.setPtp_kept | apply State.sendPosted_kept | apply ends_next | apply ends_ite | extract_lets | split
        | (intro)

theorem State.gmTrim_kept {q : List Instr} {o : Int} {b : Bool} {s : State} (h : Kept q s) : Kept q (s.gmTrim o b) := by
  unfold State.gmTrim
  with_reducible exact State.onTim_kept (State.setIncr_kept h)

theorem execTgmr_kept {q : List Instr} {f : Frame} {s : State} (h : Kept q s) :
    Ends q (execTgmr f s) := by
  unfold execTgmr
  refine mgtRequest_kept h (fun u hu => ?_)
  extract_lets x s2 o s3 s4 far win s5 s6
  have h2 : Kept q s2 := by with_reducible exact State.showInputs_kept (State.onTim_kept hu)
  have h3 : Kept q s3 := by with_reducible exact State.set_kept (State.set_kept (State.set_kept h2))
  have h4 : Kept q s4 := by with_reducible exact State.onTim_kept h3
  have ht : ∀ (t : State) (b : Bool), Kept q t → Kept q (t.gmTrim o b) := fun t b hk => State.gmTrim_kept hk
  have h5 : Kept q s5 := by with_reducible exact State.timeStep_kept h4
  have h6 : Kept q s6 := by with_reducible exact State.set_kept (State.set_kept h5)
  clear_value x s2 o s3 far s4 s5 s6
  repeat' (first | with_reducible apply ends_ite | intro _ | with_reducible apply ends_next | with_reducible apply ht |
    with_reducible assumption | with_reducible apply State.onTim_kept | with_reducible apply State.set_kept)

theorem execTgmrTimeout_kept {q : List Instr} {input : Nat} {s : State} (h : Kept q s) :
    Ends q (execTgmrTimeout input s) := by
  unfold execTgmrTimeout
  with_reducible
    repeat'
      first
        | assumption | apply ends_next | apply ends_ite | apply State.onTim_kept | apply State.showInputs_kept | apply Kept.ite
        | (intro)

theorem execPtpSync_kept {q : List Instr} {p : HPort} {m : Ptp} {t2 : Nat} {s : State} (h : Kept q s) :
    Ends q (execPtpSync p m t2 s) := by
  unfold execPtpSync
  with_reducible
    repeat'
      first | assumption | apply State.syncDone_kept | apply State.setPtp_kept | apply ends_next | apply ends_ite | (intro)

theorem execPtpFollowUp_kept {q : List Instr} {p : HPort} {m : Ptp} {s : State} (h : Kept q s) :
    Ends q (execPtpFollowUp p m s) := by
  unfold execPtpFollowUp
  with_reducible
    repeat'
      first | assumption | apply State.syncDone_kept | apply ends_next | apply ends_ite | split | (intro)

theorem execPtpDelayReq_kept {q : List Instr} {p : HPort} {m : Ptp} {t4 : Nat} {s : State} (h : Kept q s) :
    Ends q (execPtpDelayReq p m t4 s) := by
  unfold execPtpDelayReq
  with_reducible
    repeat'
      first | assumption | apply State.emit_kept | apply ends_next | apply ends_ite | (intro)

theorem execPtpDelayResp_kept {q : List Instr} {p : HPort} {m : Ptp} {t3 : Nat} {s : State} (h : Kept q s) :
    Ends q (execPtpDelayResp p m t3 s) := by
  unfold execPtpDelayResp
  with_reducible
    repeat'
      first | assumption | apply State.setPtp_kept | apply ends_next | apply ends_ite | extract_lets | split | (intro)

theorem execPtpPdelayReq_kept {q : List Instr} {p : HPort} {m : Ptp} {t2 : Nat} {s : State} (h : Kept q s) :
    Ends q (execPtpPdelayReq p m t2 s) := by
  unfold execPtpPdelayReq
  with_reducible
    repeat'
      first | assumption | apply State.emit_kept | apply ends_next | apply ends_ite | (intro)

theorem execPtpPdelayResp_kept {q : List Instr} {p : HPort} {m : Ptp} {t1 : Nat} {t4 : Nat} {s : State} (h : Kept q s) :
    Ends q (execPtpPdelayResp p m t1 t4 s) := by
  unfold execPtpPdelayResp
  with_reducible
    repeat'
      first | assumption | apply State.setPtp_kept | apply ends_next | apply ends_ite | (intro)

theorem execPtpPdelayRespFollowUp_kept {q : List Instr} {p : HPort} {m : Ptp} {s : State} (h : Kept q s) :
    Ends q (execPtpPdelayRespFollowUp p m s) := by
  unfold execPtpPdelayRespFollowUp
  with_reducible
    repeat'
      first | assumption | apply State.setPtp_kept | apply ends_next | apply ends_ite | split | (intro)

theorem execPtpAnnounce_kept {q : List Instr} {p : HPort} {m : Ptp} {s : State} (h : Kept q s) :
    Ends q (execPtpAnnounce p m s) := by
  unfold execPtpAnnounce
  with_reducible
    repeat'
      first | assumption | apply State.setPtp_kept | apply State.showInputs_kept | apply ends_next | apply ends_ite | (intro)

theorem execAnnounceTimeout_kept {q : List Instr} {p : HPort} {s : State} (h : Kept q s) :
    Ends q (execAnnounceTimeout p s) := by
  unfold execAnnounceTimeout
  with_reducible
    repeat'
      first
        | assumption | apply ends_next | apply ends_ite | apply State.setPtp_kept | apply State.showInputs_kept | apply Kept.ite
        | (intro)

theorem execPtpDiscard_kept {q : List Instr} {s : State} (h : Kept q s) :
    Ends q (execPtpDiscard s) := by
  unfold execPtpDiscard
  with_reducible
    repeat'
      first | assumption | apply State.bump_kept | apply ends_next

theorem execPtpSyncSend_kept {q : List Instr} {p : HPort} {s : State} (h : Kept q s) :
    Ends q (execPtpSyncSend p s) := by
  unfold execPtpSyncSend
  with_reducible
    repeat'
      first | assumption | apply ends_next | apply ends_ite | apply State.setPtp_kept | apply State.emit_kept | apply Kept.ite | (intro)

theorem relock_kept {q : List Instr} {s : State} (h : Kept q s) :
    Kept q (relock s) := by
  unfold relock
  with_reducible
    repeat'
      first | assumption | apply State.timeState_kept | apply State.onTim_kept | apply Kept.ite | (intro)

theorem latch_kept {q : List Instr} {s : State} (h : Kept q s) :
    Kept q (latch s) := by
  unfold latch
  with_reducible
    repeat'
      first | assumption | apply State.set_kept

theorem setTime_kept {q : List Instr} {s : State} (h : Kept q s) :
    Kept q (setTime s).2 := by
  unfold setTime
  with_reducible
    repeat'
      first | assumption | apply State.timeStep_kept | apply State.set_kept | apply Kept.ite_snd | (intro)

end Sys2Proof.Machine
end

