-- ==== Sys2Proof/Laws/Pins.lean ====
section
/-! SUPPORT. The operations of Machine/Pins.lean leave the queue alone and keep the invariant of Safety.lean. -/
namespace Sys2Proof.Machine

theorem State.setPin_kept {q : List Instr} {s : State} {p : Nat} {v : Pin} (h : Kept q s) :
    Kept q (State.setPin s p v) := by
  unfold State.setPin
  with_reducible
    repeat'
      first | assumption | apply State.onFpn_kept

theorem State.redrive_kept {q : List Instr} {s : State} {p : Nat} (h : Kept q s) :
    Kept q (State.redrive s p) := by
  unfold State.redrive
  with_reducible
    repeat'
      first | assumption | apply State.bump_kept | apply State.setPinBit_kept | apply State.setPin_kept | apply Kept.ite | (intro)

theorem State.redriveRange_kept {q : List Instr} {s : State} {base : Nat} {n : Nat} (h : Kept q s) :
    Kept q (State.redriveRange s base n) := by
  unfold State.redriveRange
  with_reducible
    repeat'
      first | assumption | apply State.redrive_kept | apply foldl_kept | split | (intro)

theorem State.redriveAll_kept {q : List Instr} {s : State} (h : Kept q s) :
    Kept q (State.redriveAll s) := by
  unfold State.redriveAll
  with_reducible
    repeat'
      first
        | assumption | apply State.redrive_kept | apply Kept.ite | apply foldl_kept | apply foldl_fst_kept | apply foldl_snd_kept
        | (intro)

theorem State.restSignals_kept {q : List Instr} {s : State} {p : Nat → Bool} (h : Kept q s) :
    Kept q (State.restSignals s p) := by
  unfold State.restSignals
  with_reducible
    repeat'
      first
        | assumption | apply State.setPin_kept | apply State.redrive_kept | apply Kept.ite | apply foldl_kept | apply foldl_fst_kept
        | apply foldl_snd_kept | (intro)

theorem State.assertHold_kept {q : List Instr} {s : State} (h : Kept q s) :
    Kept q (State.assertHold s) := by
  unfold State.assertHold
  with_reducible
    repeat'
      first
        | assumption | apply State.set_kept | apply State.bump_kept | apply State.setPin_kept | apply Kept.ite | apply foldl_kept
        | (intro)

theorem State.releaseHold_kept {q : List Instr} {s : State} (h : Kept q s) :
    Kept q (State.releaseHold s) := by
  unfold State.releaseHold
  with_reducible
    repeat'
      first | assumption | apply State.set_kept | apply State.redriveAll_kept | apply Kept.ite | (intro)

theorem State.gpoSource_kept {q : List Instr} {s : State} {p : Nat} {v : Bool} (h : Kept q s) :
    Kept q (State.gpoSource s p v) := by
  unfold State.gpoSource
  with_reducible
    repeat'
      first | assumption | apply State.setPin_kept | apply State.redrive_kept

theorem State.pushUpdate_kept {q : List Instr} {s : State} {u : Update} (h : Kept q s) :
    Kept q (State.pushUpdate s u) := by
  unfold State.pushUpdate
  with_reducible
    repeat'
      first | assumption | apply State.onEpo_kept

theorem State.sinkOk_kept {q : List Instr} {s : State} {obj : Nat} (h : Kept q s) :
    Kept q (State.sinkOk s obj) := by
  unfold State.sinkOk
  with_reducible
    repeat'
      first | assumption | apply State.pushUpdate_kept | apply Kept.ite | split | (intro)

theorem State.pinUpdates_kept {q : List Instr} {s : State} {p : Nat} {level : Bool} {counted : Bool} (h : Kept q s) :
    Kept q (State.pinUpdates s p level counted) := by
  unfold State.pinUpdates
  with_reducible
    repeat'
      first | assumption | apply State.pushUpdate_kept | apply foldl_kept | split | (intro)

theorem State.wireChange_kept {q : List Instr} {s : State} {b : Nat} {w : Nat} {v : Bool} (h : Kept q s) :
    Kept q (State.wireChange s b w v) := by
  unfold State.wireChange
  with_reducible
    repeat'
      first
        | assumption | apply State.bump_kept | apply State.onFpn_kept | apply State.set_kept | apply Kept.ite | extract_lets | split
        | (intro)

theorem State.wireSource_kept {q : List Instr} {s : State} {kind : Nat} {idx : Nat} {v : Bool} (h : Kept q s) :
    Kept q (State.wireSource s kind idx v) := by
  unfold State.wireSource
  with_reducible
    repeat'
      first | assumption | apply State.wireChange_kept | apply foldl_kept | split | (intro)

theorem State.startWires_kept {q : List Instr} {s : State} (h : Kept q s) :
    Kept q (State.startWires s) := by
  unfold State.startWires
  with_reducible
    repeat'
      first
        | assumption | apply State.set_kept | apply getD_kept | apply Kept.ite | apply foldl_kept | apply foldl_fst_kept
        | apply foldl_snd_kept | (intro)

theorem State.pinEdge_kept {q : List Instr} {s : State} {p : Nat} {pad : Bool} (h : Kept q s) :
    Kept q (State.pinEdge s p pad).2 := by
  unfold State.pinEdge
  with_reducible
    repeat'
      first
        | assumption | apply State.setPinBit_kept | apply State.setPin_kept | apply State.set_kept | apply State.pinUpdates_kept
        | apply State.wireSource_kept | apply Kept.ite | apply Kept.ite_snd | (intro)

theorem State.pinFault_kept {q : List Instr} {s : State} {p : Nat} (h : Kept q s) :
    Kept q (State.pinFault s p) := by
  unfold State.pinFault
  with_reducible
    repeat'
      first | assumption | apply State.pushUpdate_kept | split

theorem State.sendVw_kept {q : List Instr} {s : State} {b : Nat} {stamp : Nat} {locked : Bool} {refresh : Bool} (h : Kept q s) :
    Kept q (State.sendVw s b stamp locked refresh) := by
  unfold State.sendVw
  with_reducible
    repeat'
      first | assumption | apply locked_kept | apply State.onFpn_kept | apply State.sendPosted_kept | apply Kept.ite | (intro)

theorem State.applyWires_kept {q : List Instr} {s : State} {slot : Nat} {w : Nat} (h : Kept q s) :
    Kept q (State.applyWires s slot w) := by
  unfold State.applyWires
  with_reducible
    repeat'
      first | assumption | apply State.redrive_kept | apply State.set_kept | apply Kept.ite | apply foldl_kept | (intro)

theorem State.slotFrame_kept {q : List Instr} {s : State} {slot : Nat} {pay : List Byte} (h : Kept q s) :
    Kept q (State.slotFrame s slot pay) := by
  unfold State.slotFrame
  with_reducible
    repeat'
      first
        | assumption | apply State.set_kept | apply State.onFpn_kept | apply getD_kept | apply State.applyWires_kept
        | apply State.bump_kept | apply Kept.ite | apply foldl_kept | apply foldl_fst_kept | apply foldl_snd_kept | (intro)

theorem execPinOutputChange_kept {q : List Instr} {pin : Nat} {ctrl : Option Bool} {s : State} (h : Kept q s) :
    Ends q (execPinOutputChange pin ctrl s) := by
  unfold execPinOutputChange
  with_reducible
    repeat'
      first
        | assumption | apply State.gpoSource_kept | apply State.sinkOk_kept | apply State.onEpo_kept | apply State.setPin_kept
        | apply State.redrive_kept | apply ends_next | apply ends_ite | split | (intro)

theorem execReadbackMismatch_kept {q : List Instr} {pin : Nat} {s : State} (h : Kept q s) :
    Ends q (execReadbackMismatch pin s) := by
  unfold execReadbackMismatch
  with_reducible
    repeat'
      first
        | assumption | apply ends_next | apply ends_ite | apply State.setPin_kept | apply State.setPinBit_kept | apply State.bump_kept
        | apply State.pinFault_kept | apply Kept.ite | (intro)

theorem execPulseEnd_kept {q : List Instr} {pin : Nat} {s : State} (h : Kept q s) :
    Ends q (execPulseEnd pin s) := by
  unfold execPulseEnd
  with_reducible
    repeat'
      first
        | assumption | apply ends_next | apply ends_ite | apply State.setPin_kept | apply State.redrive_kept | apply Kept.ite | (intro)

theorem execVwFrameSend_kept {q : List Instr} {block : Nat} {s : State} (h : Kept q s) :
    Ends q (execVwFrameSend block s) := by
  unfold execVwFrameSend
  with_reducible
    repeat'
      first | assumption | apply State.onFpn_kept | apply State.sendVw_kept | apply ends_next | split

theorem execVwRefresh_kept {q : List Instr} {block : Nat} {s : State} (h : Kept q s) :
    Ends q (execVwRefresh block s) := by
  unfold execVwRefresh
  with_reducible
    repeat'
      first | assumption | apply State.sendVw_kept | apply ends_next | apply ends_ite | (intro)

theorem execVw_kept {q : List Instr} {f : Frame} {s : State} (h : Kept q s) :
    Ends q (execVw f s) := by
  unfold execVw
  with_reducible
    repeat'
      first
        | assumption | apply ends_next | apply ends_ite | apply State.settle_kept | apply State.take_kept | apply State.bump_kept
        | apply foldl_kept | apply State.slotFrame_kept | apply Kept.ite | apply foldl_kept | apply foldl_fst_kept
        | apply foldl_snd_kept | (intro)

theorem execVwApply_kept {q : List Instr} {slot : Nat} {s : State} (h : Kept q s) :
    Ends q (execVwApply slot s) := by
  unfold execVwApply
  with_reducible
    repeat'
      first | assumption | apply State.onFpn_kept | apply State.applyWires_kept | apply ends_next | split

theorem execVwSlotTimeout_kept {q : List Instr} {slot : Nat} {s : State} (h : Kept q s) :
    Ends q (execVwSlotTimeout slot s) := by
  unfold execVwSlotTimeout
  with_reducible
    repeat'
      first
        | assumption | apply State.applyWires_kept | apply State.bump_kept | apply State.set_kept | apply ends_next | apply ends_ite
        | split | (intro)

theorem execBankSupplyLoss_kept {q : List Instr} {bank : Nat} {s : State} (h : Kept q s) :
    Ends q (execBankSupplyLoss bank s) := by
  unfold execBankSupplyLoss
  with_reducible
    repeat'
      first
        | assumption | apply State.onFpn_kept | apply State.note_kept | apply State.redriveRange_kept | apply State.set_kept
        | apply ends_next | apply ends_ite | (intro)

theorem execBankSupplyRestore_kept {q : List Instr} {bank : Nat} {s : State} (h : Kept q s) :
    Ends q (execBankSupplyRestore bank s) := by
  unfold execBankSupplyRestore
  with_reducible
    repeat'
      first
        | assumption | apply State.onFpn_kept | apply State.redriveRange_kept | apply State.set_kept | apply ends_next | apply ends_ite
        | (intro)

end Sys2Proof.Machine
end

