-- ==== Sys2Proof/Laws/Can.lean ====
section
/-! SUPPORT. The operations of Machine/Can.lean leave the queue alone and keep the invariant of Safety.lean. -/
namespace Sys2Proof.Machine

theorem State.setCanObj_kept {q : List Instr} {s : State} {k : Nat} {o : CanObj} (h : Kept q s) :
    Kept q (State.setCanObj s k o) := by
  unfold State.setCanObj
  with_reducible
    repeat'
      first | assumption | apply State.onCan_kept

theorem State.setCanCh_kept {q : List Instr} {s : State} {c : Nat} {v : CanCh} (h : Kept q s) :
    Kept q (State.setCanCh s c v) := by
  unfold State.setCanCh
  with_reducible
    repeat'
      first | assumption | apply State.onCan_kept

theorem State.showErrors_kept {q : List Instr} {s : State} {c : Nat} (h : Kept q s) :
    Kept q (State.showErrors s c) := by
  unfold State.showErrors
  with_reducible
    repeat'
      first | assumption | apply State.set_kept | apply State.setB_kept | apply Kept.ite | (intro)

theorem State.canUpdate_kept {q : List Instr} {s : State} {k : Nat} {c : Nat} {o : CanObj} (h : Kept q s) :
    Kept q (State.canUpdate s k c o) := by
  unfold State.canUpdate
  with_reducible
    repeat'
      first
        | assumption | apply State.pushUpdate_kept | apply State.onEpo_kept | apply State.bump_kept | apply foldl_kept | extract_lets
        | split | (intro)

theorem State.canStore_kept {q : List Instr} {s : State} {k : Nat} {o : CanObj} {f : CanFrame} {sof : Nat} {counted : Bool}
    {lost : Bool} (h : Kept q s) :
    Kept q (State.canStore s k o f sof counted lost) := by
  unfold State.canStore
  with_reducible
    repeat'
      first | assumption | apply State.bump_kept | apply State.setCanObj_kept | apply State.canUpdate_kept | apply Kept.ite | (intro)

theorem State.canReceive_kept {q : List Instr} {s : State} {c : Nat} {f : CanFrame} {sof : Nat} (h : Kept q s) :
    Kept q (State.canReceive s c f sof) := by
  unfold State.canReceive
  with_reducible
    repeat'
      first
        | assumption | apply State.setCanObj_kept | apply State.setCanCh_kept | apply State.canStore_kept | apply State.bump_kept
        | apply Kept.ite | extract_lets | split | (intro)

theorem State.canRelease_kept {q : List Instr} {s : State} {k : Nat} {clears : Bool} (h : Kept q s) :
    Kept q (State.canRelease s k clears) := by
  unfold State.canRelease
  with_reducible
    repeat'
      first
        | assumption | apply State.setCanCh_kept | apply State.canStore_kept | apply State.setCanObj_kept | apply Kept.ite | extract_lets
        | split | (intro)

theorem canTouch_kept {q : List Instr} {hub : Nat} {init : Nat} {k : Nat} {lo : Nat} {hi : Nat} {s : State} (h : Kept q s) :
    Kept q (canTouch hub init k lo hi s) := by
  unfold canTouch
  with_reducible
    repeat'
      first
        | assumption | apply State.setCanObj_kept | apply State.set_kept | apply State.canRelease_kept | apply Kept.ite | split | (intro)

theorem canRead_kept {q : List Instr} {off : Nat} {len : Nat} {hub : Nat} {init : Nat} {s : State} (h : Kept q s) :
    Kept q (canRead off len hub init s).2 := by
  unfold canRead
  with_reducible
    repeat'
      first | assumption | apply canTouch_kept | apply Kept.ite_snd | apply foldl_kept | (intro)

theorem canWrite_kept {q : List Instr} {off : Nat} {data : List Byte} {s : State} (h : Kept q s) :
    Kept q (canWrite off data s).2 := by
  unfold canWrite
  with_reducible
    repeat'
      first | assumption | apply State.setCanObj_kept | apply Kept.ite_snd | apply foldl_kept | split | (intro)

theorem canWriteFrame_kept {q : List Instr} {f : Frame} {s : State} (h : Kept q s) :
    Kept q (canWriteFrame f s).2 := by
  unfold canWriteFrame
  with_reducible
    repeat'
      first | assumption | apply canWrite_kept

theorem execCantxRequest_kept {q : List Instr} {s : State} (h : Kept q s) :
    Ends q (execCantxRequest s) := by
  unfold execCantxRequest
  with_reducible
    repeat'
      first
        | assumption | apply State.setCanObj_kept | apply State.sinkOk_kept | apply State.onEpo_kept | apply ends_next | apply ends_ite
        | extract_lets | split | (intro)

theorem execCanLockTimeout_kept {q : List Instr} {obj : Nat} {s : State} (h : Kept q s) :
    Ends q (execCanLockTimeout obj s) := by
  unfold execCanLockTimeout
  with_reducible
    repeat'
      first | assumption | apply State.canRelease_kept | apply State.bump_kept | apply ends_next | apply Kept.ite | split | (intro)

theorem State.abdApply_kept {q : List Instr} {s : State} {c : Nat} {k : Nat} (h : Kept q s) :
    Kept q (State.abdApply s c k) := by
  unfold State.abdApply
  with_reducible
    repeat'
      first | assumption | apply State.set_kept | apply State.setCanCh_kept

theorem State.abdEnd_kept {q : List Instr} {s : State} {c : Nat} {state : Nat} (h : Kept q s) :
    Kept q (State.abdEnd s c state) := by
  unfold State.abdEnd
  with_reducible
    repeat'
      first | assumption | apply State.set_kept

theorem State.abdRound_kept {q : List Instr} {s : State} {c : Nat} (h : Kept q s) :
    Kept q (State.abdRound s c) := by
  unfold State.abdRound
  with_reducible
    repeat'
      first
        | assumption | apply State.set_kept | apply State.setCanCh_kept | apply State.abdApply_kept | apply State.abdEnd_kept
        | apply Kept.ite | (intro)

theorem State.abdNext_kept {q : List Instr} {s : State} {c : Nat} (h : Kept q s) :
    Kept q (State.abdNext s c) := by
  unfold State.abdNext
  with_reducible
    repeat'
      first | assumption | apply State.abdRound_kept | apply State.abdApply_kept | split

theorem State.abdStart_kept {q : List Instr} {s : State} {c : Nat} (h : Kept q s) :
    Kept q (State.abdStart s c) := by
  unfold State.abdStart
  with_reducible
    repeat'
      first
        | assumption | apply State.abdRound_kept | apply State.abdApply_kept | apply State.setCanCh_kept | apply State.set_kept
        | extract_lets | split | (intro)

theorem State.abdGood_kept {q : List Instr} {s : State} {c : Nat} {brs : Bool} (h : Kept q s) :
    Kept q (State.abdGood s c brs) := by
  unfold State.abdGood
  with_reducible
    repeat'
      first | assumption | apply State.set_kept | apply State.setB_kept | apply State.setCanCh_kept | apply Kept.ite | (intro)

theorem State.abdError_kept {q : List Instr} {s : State} {c : Nat} {data : Bool} (h : Kept q s) :
    Kept q (State.abdError s c data) := by
  unfold State.abdError
  with_reducible
    repeat'
      first | assumption | apply State.abdNext_kept | apply State.set_kept | apply State.setCanCh_kept | apply Kept.ite | split | (intro)

theorem State.canEnter_kept {q : List Instr} {s : State} {c : Nat} {m : Nat} (h : Kept q s) :
    Kept q (State.canEnter s c m) := by
  unfold State.canEnter
  with_reducible
    repeat'
      first
        | assumption | apply State.resume_kept | apply State.setCanCh_kept | apply State.set_kept | apply State.restSignals_kept
        | apply State.abdStart_kept | apply Kept.ite | (intro)

theorem State.canRecover_kept {q : List Instr} {s : State} {c : Nat} (h : Kept q s) :
    Kept q (State.canRecover s c) := by
  unfold State.canRecover
  with_reducible
    repeat'
      first | assumption | apply State.set_kept

theorem State.canEnd_kept {q : List Instr} {s : State} {k : Nat} {o : CanObj} {st : Nat} {sof : Option Nat} (h : Kept q s) :
    Kept q (State.canEnd s k o st sof) := by
  unfold State.canEnd
  with_reducible
    repeat'
      first | assumption | apply State.noteDone_kept | apply State.setCanObj_kept | apply Kept.ite | (intro)

theorem State.goBusOff_kept {q : List Instr} {s : State} {c : Nat} (h : Kept q s) :
    Kept q (State.goBusOff s c) := by
  unfold State.goBusOff
  with_reducible
    repeat'
      first
        | assumption | apply State.set_kept | apply State.bump_kept | apply State.setCanCh_kept | apply State.canEnd_kept
        | apply State.pushUpdate_kept | apply State.canRecover_kept | apply Kept.ite | apply foldl_kept | apply foldl_fst_kept
        | apply foldl_snd_kept | (intro)

theorem canCtl_kept {q : List Instr} {c : Nat} {w : Nat} {s : State} (h : Kept q s) :
    Kept q (canCtl c w s).2 := by
  unfold canCtl
  with_reducible
    repeat'
      first
        | assumption | apply State.canRecover_kept | apply State.setCanCh_kept | apply State.set_kept | apply Kept.ite
        | apply Kept.ite_snd | (intro)

theorem execCanModeEffect_kept {q : List Instr} {ch : Nat} {s : State} (h : Kept q s) :
    Ends q (execCanModeEffect ch s) := by
  unfold execCanModeEffect
  with_reducible
    repeat'
      first | assumption | apply State.canEnter_kept | apply ends_next | split

theorem execBusIntegration_kept {q : List Instr} {ch : Nat} {s : State} (h : Kept q s) :
    Ends q (execBusIntegration ch s) := by
  unfold execBusIntegration
  with_reducible
    repeat'
      first | assumption | apply State.setCanCh_kept | apply State.set_kept | apply ends_next | apply ends_ite | split | (intro)

theorem execRecoveryComplete_kept {q : List Instr} {ch : Nat} {s : State} (h : Kept q s) :
    Ends q (execRecoveryComplete ch s) := by
  unfold execRecoveryComplete
  with_reducible
    repeat'
      first
        | assumption | apply State.showErrors_kept | apply State.setCanCh_kept | apply State.set_kept | apply ends_next | apply ends_ite
        | (intro)

theorem execAbdDwellExpiry_kept {q : List Instr} {ch : Nat} {edge : Bool} {s : State} (h : Kept q s) :
    Ends q (execAbdDwellExpiry ch edge s) := by
  unfold execAbdDwellExpiry
  with_reducible
    repeat'
      first | assumption | apply State.setCanCh_kept | apply State.abdNext_kept | apply ends_next | apply ends_ite | (intro)

theorem State.canGood_kept {q : List Instr} {s : State} {c : Nat} {fr : CanFrame} {sof : Nat} (h : Kept q s) :
    Kept q (State.canGood s c fr sof) := by
  unfold State.canGood
  with_reducible
    repeat'
      first
        | assumption | apply State.emit_kept | apply State.bump_kept | apply State.draw_kept | apply State.setCanCh_kept
        | apply State.showErrors_kept | apply State.abdGood_kept | apply State.canReceive_kept | apply Kept.ite | (intro)

theorem execCanFrameRx_kept {q : List Instr} {ch : Nat} {fr : CanFrame} {age : Nat} {s : State} (h : Kept q s) :
    Ends q (execCanFrameRx ch fr age s) := by
  unfold execCanFrameRx
  with_reducible
    repeat'
      first | assumption | apply State.canGood_kept | apply ends_next | apply ends_ite | (intro)

theorem execCanArbitration_kept {q : List Instr} {ch : Nat} {s : State} (h : Kept q s) :
    Ends q (execCanArbitration ch s) := by
  unfold execCanArbitration
  with_reducible
    repeat'
      first
        | assumption | extract_lets | apply ends_next | apply ends_ite | apply State.take_kept | apply State.setCanCh_kept
        | apply State.set_kept | apply State.emit_kept | (refine Kept.of_snd (by assumption) ?_) | apply Kept.ite | split | (intro)

theorem execCanTxComplete_kept {q : List Instr} {ch : Nat} {outcome : Nat} {s : State} (h : Kept q s) :
    Ends q (execCanTxComplete ch outcome s) := by
  unfold execCanTxComplete
  with_reducible
    repeat'
      first
        | assumption | apply State.canGood_kept | apply State.canEnd_kept | apply State.setCanObj_kept | apply State.bump_kept
        | apply State.showErrors_kept | apply State.setCanCh_kept | apply State.set_kept | apply ends_next | apply Kept.ite
        | extract_lets | split | (intro)

theorem execCanBusError_kept {q : List Instr} {ch : Nat} {lec : Nat} {add : Nat} {data : Bool} {tx : Bool} {frame : Bool} {s : State}
    (h : Kept q s) :
    Ends q (execCanBusError ch lec add data tx frame s) := by
  unfold execCanBusError
  with_reducible
    repeat'
      first
        | assumption | apply State.goBusOff_kept | apply State.setCanCh_kept | apply State.showErrors_kept | apply State.abdError_kept
        | apply State.bump_kept | apply State.set_kept | apply State.setB_kept | apply ends_next | apply ends_ite | apply Kept.ite
        | (intro)

theorem execBusOff_kept {q : List Instr} {ch : Nat} {s : State} (h : Kept q s) :
    Ends q (execBusOff ch s) := by
  unfold execBusOff
  with_reducible
    repeat'
      first | assumption | apply State.goBusOff_kept | apply ends_next | apply Kept.ite | (intro)

theorem canRes_kept {q : List Instr} {s : State} {index : Nat} {result : Nat} (h : Kept q s) :
    Kept q (canRes s index result) := by
  unfold canRes
  with_reducible
    repeat'
      first | assumption | apply State.set_kept

theorem canAlloc_kept {q : List Instr} {s : State} (h : Kept q s) :
    Kept q (canAlloc s).2 := by
  unfold canAlloc
  with_reducible
    repeat'
      first
        | assumption | apply State.setCanObj_kept | apply State.bump_kept | apply canRes_kept | apply Kept.ite_snd | extract_lets | split
        | (intro)

theorem canFree_kept {q : List Instr} {k : Nat} {s : State} (h : Kept q s) :
    Kept q (canFree k s) := by
  unfold canFree
  with_reducible
    repeat'
      first | assumption | apply State.onCan_kept | apply canRes_kept | apply Kept.ite | split | (intro)

end Sys2Proof.Machine
end

