-- ==== Sys2Proof/Laws/Bridge.lean ====
section
/-! SUPPORT. The operations of Machine/Bridge.lean leave the queue alone and keep the invariant of Safety.lean. -/
namespace Sys2Proof.Machine

theorem State.setBus_kept {q : List Instr} {s : State} {b : Nat} {v : BrgBus} (h : Kept q s) :
    Kept q (State.setBus s b v) := by
  unfold State.setBus
  with_reducible
    repeat'
      first | assumption | apply State.set_kept | apply State.setB_kept | apply State.onBrg_kept | apply Kept.dlog

theorem State.touchLine_kept {q : List Instr} {s : State} {b : Nat} (h : Kept q s) :
    Kept q (State.touchLine s b) := by
  unfold State.touchLine
  with_reducible
    repeat'
      first | assumption | apply State.onBrg_kept | apply Kept.ite | (intro) | apply Kept.dlog

theorem State.startChunk_kept {q : List Instr} {s : State} {b : Nat} {a : BrgAcc} (h : Kept q s) :
    Kept q (State.startChunk s b a) := by
  unfold State.startChunk
  with_reducible
    repeat'
      first
        | assumption | apply State.emit_kept | apply State.setCanObj_kept | apply State.setBus_kept | apply Kept.ite | extract_lets
        | split | (intro)

theorem State.startAccess_kept {q : List Instr} {s : State} {b : Nat} {a : BrgAcc} (h : Kept q s) :
    Kept q (State.startAccess s b a) := by
  unfold State.startAccess
  with_reducible
    repeat'
      first | assumption | apply State.bump_kept | apply State.startChunk_kept | apply Kept.ite | (intro)

theorem State.pfDiscard_kept {q : List Instr} {s : State} {k reason : Nat} (h : Kept q s) : Kept q (s.pfDiscard k reason) := by
  unfold State.pfDiscard
  split
  · exact h
  · extract_lets s1 s2 at_ f e
    have h1 : Kept q s1 := State.onBrg_kept h h.dlog
    have h2 : Kept q s2 := State.bump_kept h1
    refine Kept.ite (fun _ => h1) fun _ => Kept.ite (fun _ => h2) fun _ => Kept.ite (fun _ => State.set_kept
    (State.bump_kept h2)) fun hn => ?_
    refine State.onBrg_kept h2 ?_
    simp only [List.length_append, List.length_singleton]
    omega

theorem State.pfCondemn_kept {q : List Instr} {s : State} {k : Nat} {reason : Nat} (h : Kept q s) :
    Kept q (State.pfCondemn s k reason) := by
  unfold State.pfCondemn
  with_reducible
    repeat'
      first | assumption | apply State.pfDiscard_kept | apply State.onBrg_kept | apply Kept.ite | split | (intro) | apply Kept.dlog

theorem State.pfDrop_kept {q : List Instr} {s : State} {w : Nat} {write : Bool} {off : Nat} {n : Nat} (h : Kept q s) :
    Kept q (State.pfDrop s w write off n) := by
  unfold State.pfDrop
  with_reducible
    repeat'
      first
        | assumption | apply State.pfCondemn_kept | apply Kept.ite | apply foldl_kept | apply foldl_fst_kept | apply foldl_snd_kept
        | (intro)

theorem State.pfStart_kept {q : List Instr} {s : State} {f : Frame} {w : Nat} {o : Nat} {n : Nat} (h : Kept q s) :
    Kept q (State.pfStart s f w o n) := by
  unfold State.pfStart
  with_reducible
    repeat'
      first | assumption | apply State.onBrg_kept | apply Kept.ite | split | (intro) | apply Kept.dlog

theorem State.setPoll_kept {q : List Instr} {s : State} {e : Nat} {p : PollSt} (h : Kept q s) :
    Kept q (State.setPoll s e p) := by
  unfold State.setPoll
  with_reducible
    repeat'
      first | assumption | apply State.onBrg_kept | apply Kept.dlog

theorem State.pollNext_kept {q : List Instr} {s : State} {e : Nat} {i : Nat} {p : PollSt} (h : Kept q s) :
    Kept q (State.pollNext s e i p) := by
  unfold State.pollNext
  with_reducible
    repeat'
      first | assumption | apply State.set_kept | apply State.setPoll_kept

theorem State.pollGood_kept {q : List Instr} {s : State} {e : Nat} {resp : List Byte} (h : Kept q s) :
    Kept q (State.pollGood s e resp) := by
  unfold State.pollGood
  with_reducible
    repeat'
      first
        | assumption | apply State.pushUpdate_kept | apply State.pollNext_kept | apply State.set_kept | apply State.bump_kept
        | apply foldl_kept | (intro)

theorem State.pollBad_kept {q : List Instr} {s : State} {e : Nat} (h : Kept q s) :
    Kept q (State.pollBad s e) := by
  unfold State.pollBad
  with_reducible
    repeat'
      first
        | assumption | apply State.pushUpdate_kept | apply State.pollNext_kept | apply State.set_kept | apply State.bump_kept
        | apply foldl_kept | (intro)

theorem State.pollDue_kept {q : List Instr} {s : State} {e : Nat} {t : Nat} (h : Kept q s) :
    Kept q (State.pollDue s e t) := by
  unfold State.pollDue
  with_reducible
    repeat'
      first | assumption | apply State.set_kept | apply State.setPoll_kept | apply Kept.ite | (intro)

theorem State.farDone_kept {q : List Instr} {s : State} {b : Nat} {a : BrgAcc} {status : Nat} {resp : List Byte} (h : Kept q s) :
    Kept q (State.farDone s b a status resp) := by
  unfold State.farDone
  with_reducible
    repeat'
      first | assumption | apply State.noteDone_kept | apply State.setBus_kept | split

theorem State.abortDone_kept {q : List Instr} {s : State} {q' : Frame} {n : Nat} (h : Kept q s) :
    Kept q (State.abortDone s q' n) := by
  unfold State.abortDone
  with_reducible
    repeat'
      first | assumption | apply State.complete_kept

theorem State.accessGood_kept {q : List Instr} {s : State} {b : Nat} {a : BrgAcc} (h : Kept q s) :
    Kept q (State.accessGood s b a) := by
  unfold State.accessGood
  with_reducible
    repeat'
      first
        | assumption | apply State.onBrg_kept | apply State.pfDiscard_kept | apply State.pollGood_kept | apply State.sinkOk_kept
        | apply State.pfStart_kept | apply State.answer_kept | apply State.farDone_kept | apply Kept.ite | extract_lets | split | (intro)
        | apply Kept.dlog

theorem State.accessBad_kept {q : List Instr} {s : State} {b : Nat} {a : BrgAcc} {detail : Nat} (h : Kept q s) :
    Kept q (State.accessBad s b a detail) := by
  unfold State.accessBad
  with_reducible
    repeat'
      first
        | assumption | apply State.onBrg_kept | apply State.pollBad_kept | apply State.pushUpdate_kept | apply State.answer_kept
        | apply State.postedError_kept | apply State.farDone_kept | apply Kept.ite | split | (intro) | apply Kept.dlog

theorem State.farCount_kept {q : List Instr} {s : State} {b : Nat} {detail : Nat} (h : Kept q s) :
    Kept q (State.farCount s b detail) := by
  unfold State.farCount
  with_reducible
    repeat'
      first | assumption | apply State.set_kept | apply State.bump_kept | apply Kept.ite | (intro)

theorem State.farFail_kept {q : List Instr} {s : State} {b : Nat} {a : BrgAcc} {detail : Nat} (h : Kept q s) :
    Kept q (State.farFail s b a detail) := by
  unfold State.farFail
  with_reducible
    repeat'
      first
        | assumption | apply State.accessBad_kept | apply State.farDone_kept | apply State.abortDone_kept | apply State.bump_kept
        | apply State.startChunk_kept | apply State.farCount_kept | apply Kept.ite | split | (intro)

theorem State.rtuCheck_kept {q : List Instr} {s : State} {b : Nat} {a : BrgAcc} {line : Nat} (h : Kept q s) :
    Kept q (State.rtuCheck s b a line).2 := by
  unfold State.rtuCheck
  with_reducible
    repeat'
      first | assumption | apply getD_kept | apply State.draw_kept | apply Kept.ite | apply Kept.ite_snd | (intro)

theorem State.farDetail_kept {q : List Instr} {s t : State} {b : Nat} {a : BrgAcc} {line d : Nat} (h : Kept q s)
    (e : s.farDetail b a line = some (d, t)) : Kept q t := by
  unfold State.farDetail at e
  extract_lets k line' st at e
  have key : ∀ {x : Nat × State}, some x = some (d, t) → Kept q x.2 → Kept q t := by
    rintro x ⟨rfl⟩ hu
    exact hu
  split at e
  · split at e
    · exact absurd e (by simp)
    · exact key e (State.rtuCheck_kept h)
  · split at e
    · exact key e h
    · split at e
      · exact key e h
      · split at e
        · exact key e h
        · split at e
          · exact key e h
          · split at e
            · exact absurd e (by simp)
            · exact key e h

theorem State.farData_kept {q : List Instr} {s t : State} {b : Nat} {a : BrgAcc} {data d : List Byte} (h : Kept q s)
    (e : s.farData b a data = some (d, t)) : Kept q t := by
  unfold State.farData at e
  extract_lets k j at e
  have key : ∀ {x : List Byte} {u : State}, some (x, u) = some (d, t) → Kept q u → Kept q t := by
    rintro x u ⟨rfl, rfl⟩ hu
    exact hu
  split at e
  · exact key e h
  · split at e
    · exact key e (canTouch_kept h)
    · split at e
      · exact key e h
      · split at e
        · split at e
          · exact absurd e (by simp)
          · exact key e (State.set_kept (State.onBrg_kept h h.dlog))
        · exact key e h

theorem State.farGood_kept {q : List Instr} {s : State} {b : Nat} {a : BrgAcc} {d : List Byte} (h : Kept q s) :
    Kept q (State.farGood s b a d) := by
  unfold State.farGood
  with_reducible
    repeat'
      first
        | assumption | extract_lets | apply State.bump_kept | apply State.touchLine_kept | apply State.farDone_kept
        | apply State.abortDone_kept | apply State.accessGood_kept | apply State.startChunk_kept
        | (refine Kept.of_snd (by assumption) ?_) | apply Kept.ite | split | (intro)

theorem rxClear_kept {q : List Instr} {bus : Nat} {s : State} (h : Kept q s) :
    Kept q (rxClear bus s) := by
  unfold rxClear
  with_reducible
    repeat'
      first | assumption | apply State.onBrg_kept | apply State.set_kept | apply Kept.ite | (intro) | apply Kept.dlog

theorem execFarSideComplete_kept {q : List Instr} {bus : Nat} {line : Nat} {data : List Byte} {s : State} (h : Kept q s) :
    Ends q (execFarSideComplete bus line data s) := by
  unfold execFarSideComplete
  split
  · exact ends_next (rxClear_kept h)
  · split
    · exact ends_next h
    · rename_i e
      have h1 := State.farDetail_kept h e
      split
      · exact ends_next (State.farFail_kept (rxClear_kept h1))
      · split
        · exact ends_next h1
        · rename_i e2
          exact ends_next (State.farGood_kept (rxClear_kept (State.farData_kept h1 e2)))

theorem execFarSideTimeout_kept {q : List Instr} {bus : Nat} {s : State} (h : Kept q s) :
    Ends q (execFarSideTimeout bus s) := by
  unfold execFarSideTimeout
  with_reducible
    repeat'
      first
        | assumption | apply ends_next | apply ends_ite | apply getD_kept | apply State.farFail_kept | apply Kept.ite | split | (intro)

theorem enqueue_kept {q : List Instr} {a : BrgAcc} {s : State} (h : Kept q s) :
    Kept q (enqueue a s) := by
  unfold enqueue
  with_reducible
    repeat'
      first | assumption | apply State.setBus_kept

theorem bridgeRequest_kept {q : List Instr} {f : Frame} {w : Nat} {s : State} (h : Kept q s) :
    Kept q (bridgeRequest f w s) := by
  unfold bridgeRequest
  with_reducible
    repeat'
      first
        | assumption | extract_lets | apply State.answer_kept | apply State.bump_kept | apply State.onBrg_kept | apply State.pfDrop_kept
        | apply State.pfStart_kept | apply enqueue_kept | (refine Kept.of_snd (by assumption) ?_) | apply Kept.ite | split | (intro)
        | apply Kept.dlog

theorem execBridgeSinkWrite_kept {q : List Instr} {s : State} (h : Kept q s) :
    Ends q (execBridgeSinkWrite s) := by
  unfold execBridgeSinkWrite
  with_reducible
    repeat'
      first
        | assumption | extract_lets | apply ends_next | apply ends_ite | apply State.onEpo_kept | apply State.postedTag_kept
        | apply State.draw_kept | apply State.setBus_kept | apply State.bump_kept | apply enqueue_kept | apply State.pfDrop_kept
        | (refine Kept.of_snd (by assumption) ?_) | apply Kept.ite | split | (intro)

theorem State.startPoll_kept {q : List Instr} {s : State} {b : Nat} {e : Nat} (h : Kept q s) :
    Kept q (State.startPoll s b e) := by
  unfold State.startPoll
  with_reducible
    repeat'
      first | assumption | apply State.startAccess_kept | apply State.set_kept | apply State.setPoll_kept

theorem State.dispatchIdle_kept {q : List Instr} {s : State} {b : Nat} (h : Kept q s) : Kept q (s.dispatchIdle b) := by
  unfold State.dispatchIdle
  split
  · exact State.startPoll_kept h
  · split
    · exact State.startAccess_kept h
    · exact h

theorem State.dispatch_kept {q : List Instr} {s : State} {b : Nat} (h : Kept q s) : Kept q (s.dispatch b) := by
  unfold State.dispatch
  split
  · exact State.startPoll_kept (State.bump_kept h)
  · split
    · exact State.startAccess_kept (State.setBus_kept h)
    · exact State.dispatchIdle_kept h

theorem execBusIdleDispatch_kept {q : List Instr} {bus : Nat} {s : State} (h : Kept q s) :
    Ends q (execBusIdleDispatch bus s) := by
  unfold execBusIdleDispatch
  with_reducible
    repeat'
      first | assumption | apply State.dispatch_kept | apply ends_next | apply Kept.ite | (intro)

theorem execPollDue_kept {q : List Instr} {entry : Nat} {s : State} (h : Kept q s) :
    Ends q (execPollDue entry s) := by
  unfold execPollDue
  with_reducible
    repeat'
      first | assumption | apply ends_next | apply ends_ite | apply State.pollDue_kept | apply Kept.ite | (intro)

theorem execPrefetchAge_kept {q : List Instr} {k : Nat} {s : State} (h : Kept q s) :
    Ends q (execPrefetchAge k s) := by
  unfold execPrefetchAge
  with_reducible
    repeat'
      first | assumption | apply State.pfDiscard_kept | apply ends_next | apply Kept.ite | split | (intro)

theorem dlogClear_kept {q : List Instr} {s : State} (h : Kept q s) :
    Kept q (dlogClear s) :=
  State.onBrg_kept h (Nat.zero_le _)

theorem execUartCharRx_kept {q : List Instr} {sp : Nat} {char : Nat} {framing : Bool} {parity : Bool} {brk : Bool} {s : State} (h : Kept q s) :
    Ends q (execUartCharRx sp char framing parity brk s) := by
  unfold execUartCharRx
  with_reducible
    repeat'
      first
        | assumption | apply ends_next | apply ends_ite | apply State.touchLine_kept | apply State.onBrg_kept | apply State.bump_kept
        | apply getD_kept | apply State.set_kept | apply Kept.ite | (intro) | apply Kept.dlog

theorem execPinFilteredEdge_kept {q : List Instr} {pin : Nat} {level : Bool} {s : State} (h : Kept q s) :
    Ends q (execPinFilteredEdge pin level s) := by
  unfold execPinFilteredEdge
  with_reducible
    repeat'
      first
        | assumption | apply State.pollDue_kept | apply State.pinEdge_kept | apply ends_next | apply ends_ite | apply foldl_kept
        | (intro)

theorem pollInit_kept {q : List Instr} {s : State} (h : Kept q s) :
    Kept q (pollInit s) := by
  unfold pollInit
  with_reducible
    repeat'
      first
        | assumption | apply State.set_kept | apply State.pollDue_kept | apply State.onBrg_kept | apply foldl_kept | split | (intro)
        | apply Kept.dlog

theorem bridgeReset_kept {q : List Instr} {s : State} (h : Kept q s) : Kept q (bridgeReset s) := by
  unfold bridgeReset
  extract_lets accs posted n s1 s2
  have h1 : Kept q s1 := by with_reducible exact foldl_kept _ (fun _ _ ht => State.pfDiscard_kept ht) h
  have h2 : Kept q s2 := by with_reducible exact State.bumpBy_kept h1
  clear_value s2
  exact State.onBrg_kept h2 h2.dlog

theorem bridgeRestart_kept {q : List Instr} {s : State} (h : Kept q s) :
    Kept q (bridgeRestart s) := by
  unfold bridgeRestart
  with_reducible
    repeat'
      first | assumption | apply State.onBrg_kept | apply State.postedError_kept | apply foldl_kept | (intro) | apply Kept.dlog

end Sys2Proof.Machine
end

