-- ==== Sys2Proof/Laws/Reflex.lean ====
section
/-! SUPPORT. The operations of Machine/Reflex.lean leave the queue alone and keep the invariant of Safety.lean. -/
namespace Sys2Proof.Machine

theorem State.commitForces_kept {q : List Instr} {s : State} {m : Map (Nat × Nat)} (h : Kept q s) :
    Kept q (State.commitForces s m) := by
  unfold State.commitForces
  with_reducible
    repeat'
      first
        | assumption | apply State.setPin_kept | apply State.setPinBit_kept | apply State.redrive_kept | apply foldl_kept | extract_lets
        | split | (intro)

theorem State.commitHolds_kept {q : List Instr} {s : State} {rules : List Rule} {m : Map (Nat × Nat)} (h : Kept q s) :
    Kept q (State.commitHolds s rules m) := by
  unfold State.commitHolds
  with_reducible
    repeat'
      first | assumption | apply State.onEpo_kept | apply State.onRfx_kept | apply Kept.alarms

theorem State.commitState_kept {q : List Instr} {s : State} {r : Nat} {v : Bool} (h : Kept q s) :
    Kept q (State.commitState s r v) := by
  unfold State.commitState
  with_reducible
    repeat'
      first | assumption | apply State.onEpo_kept | apply State.wireSource_kept

theorem State.commitAlarm_kept {q : List Instr} {s : State} {r : Rule} {v : Bool} (h : Kept q s) : Kept q (s.commitAlarm r v) := by
  unfold State.commitAlarm
  refine Kept.ite (fun _ => h) fun _ => ?_
  extract_lets w s1
  have h1 : Kept q s1 := by
    refine Kept.ite (fun _ => h) fun _ => Kept.ite (fun _ => State.set_kept (State.bump_kept h)) fun hn => State.onRfx_kept h ?_
    simp only [List.length_append, List.length_singleton]
    omega
  exact Kept.ite (fun _ => State.record_kept h1) (fun _ => h1)

theorem State.sweep_kept {q : List Instr} {s : State} (h : Kept q s) :
    Kept q (State.sweep s) := by
  unfold State.sweep
  with_reducible
    repeat'
      first
        | assumption | apply State.set_kept | apply State.draw_kept | apply State.bump_kept | apply State.commitAlarm_kept
        | apply State.commitState_kept | apply State.commitHolds_kept | apply State.commitForces_kept | apply State.onRfx_kept
        | apply Kept.ite | apply foldl_kept | (intro) | apply Kept.alarms

theorem State.startPeriod_kept {q : List Instr} {s : State} (h : Kept q s) :
    Kept q (State.startPeriod s) := by
  unfold State.startPeriod
  with_reducible
    repeat'
      first | assumption | apply State.onRfx_kept | apply Kept.ite | (intro) | apply Kept.alarms

theorem State.startExtra_kept {q : List Instr} {s : State} (h : Kept q s) :
    Kept q (State.startExtra s) := by
  unfold State.startExtra
  with_reducible
    repeat'
      first | assumption | apply State.onRfx_kept | apply Kept.ite | (intro) | apply Kept.alarms

theorem State.realign_kept {q : List Instr} {s : State} (h : Kept q s) :
    Kept q (State.realign s) := by
  unfold State.realign
  with_reducible
    repeat'
      first | assumption | apply State.bump_kept | apply State.onTim_kept | apply Kept.ite | (intro)

theorem execSweep_kept {q : List Instr} {s : State} (h : Kept q s) :
    Ends q (execSweep s) :=
  ends_next (Kept.ite (fun _ => State.sweep_kept (State.realign_kept (State.startPeriod_kept h))) fun _ => h)

theorem execExtraSweep_kept {q : List Instr} {s : State} (h : Kept q s) :
    Ends q (execExtraSweep s) :=
  ends_next (Kept.ite (fun _ => State.sweep_kept (State.startExtra_kept h)) fun _ => h)

theorem execDeferredSweep_kept {q : List Instr} {s : State} (h : Kept q s) :
    Ends q (execDeferredSweep s) :=
  ends_ite (fun _ => ends_next h) fun _ =>
    ends_ite (fun _ => ends_next (State.sweep_kept (State.bump_kept (State.realign_kept (State.startPeriod_kept h))))) fun _ =>
      ends_ite (fun _ => ends_next (State.sweep_kept (State.bump_kept (State.startExtra_kept h)))) fun _ => ends_next h

theorem latchClear_kept {q : List Instr} {rule : Nat} {all : Bool} {s : State} (h : Kept q s) :
    Kept q (latchClear rule all s) := by
  unfold latchClear
  with_reducible
    repeat'
      first | assumption | apply State.bump_kept | apply State.onRfx_kept | apply Kept.ite | split | (intro) | apply Kept.alarms

theorem alarmPop_kept {q : List Instr} {s : State} (h : Kept q s) :
    Kept q (alarmPop s) := by
  refine State.onRfx_kept h ?_
  have := h.alarms
  simp only [List.length_tail]
  omega

theorem rfxReset_kept {q : List Instr} {s : State} (h : Kept q s) : Kept q (rfxReset s) := by
  unfold rfxReset
  extract_lets lost latched s1 held
  have h1 : Kept q s1 := State.onEpo_kept h
  exact State.bumpBy_kept (State.onRfx_kept h1 (Nat.zero_le _))

theorem rfxClear_kept {q : List Instr} {s : State} (h : Kept q s) : Kept q (rfxClear s) := State.onRfx_kept h (Nat.zero_le _)

end Sys2Proof.Machine
end

