-- ==== Sys2Proof/Laws/Ring.lean ====
section
/-! SUPPORT. The operations of Machine/Ring.lean leave the queue alone and keep the invariant of Safety.lean. -/
namespace Sys2Proof.Machine

theorem State.nextSeq_kept {q : List Instr} {s : State} {f : Frame} (h : Kept q s) :
    Kept q (State.nextSeq s f).2 := by
  unfold State.nextSeq
  with_reducible
    repeat'
      first | assumption | apply State.onTwn_kept | apply Kept.ite | split | apply Kept.put_rng

theorem State.spend_kept {q : List Instr} {s : State} {l : Lane} {f : Frame} (h : Kept q s) :
    Kept q (State.spend s l f) := by
  unfold State.spend
  with_reducible
    repeat'
      first | assumption | apply State.onLane_kept | apply Kept.ite | (intro)

theorem State.laneOut_kept {q : List Instr} {s : State} {l : Lane} {f : Frame} (h : Kept q s) :
    Kept q (State.laneOut s l f) := by
  unfold State.laneOut
  with_reducible
    repeat'
      first | assumption | apply State.emit_kept | apply State.outgoing_kept

theorem State.sendRctl_kept {q : List Instr} {s : State} {kind : Nat} {dst : Nat} {pay : List Byte} {hoplim : Nat} (h : Kept q s) :
    Kept q (State.sendRctl s kind dst pay hoplim) := by
  unfold State.sendRctl
  with_reducible
    repeat'
      first
        | assumption | apply State.nextSeq_kept | apply State.onLane_kept | apply State.bump_kept | apply Kept.ite | apply foldl_kept
        | apply foldl_fst_kept | apply foldl_snd_kept | (intro)

theorem State.zeroCredits_kept {q : List Instr} {s : State} {l : Lane} (h : Kept q s) :
    Kept q (State.zeroCredits s l) := by
  unfold State.zeroCredits
  with_reducible
    repeat'
      first | assumption | apply State.onLane_kept

theorem State.enterTrain_kept {q : List Instr} {s : State} {l : Lane} (h : Kept q s) :
    Kept q (State.enterTrain s l) := by
  unfold State.enterTrain
  with_reducible
    repeat'
      first | assumption | apply State.onLane_kept | apply State.zeroCredits_kept | apply State.set_kept

theorem State.enterProbe_kept {q : List Instr} {s : State} {l : Lane} {full : Bool} (h : Kept q s) :
    Kept q (State.enterProbe s l full) := by
  unfold State.enterProbe
  with_reducible
    repeat'
      first | assumption | apply State.set_kept | apply State.onLane_kept | apply State.zeroCredits_kept | apply Kept.ite | (intro)

theorem State.trainDone_kept {q : List Instr} {s : State} {l : Lane} (h : Kept q s) :
    Kept q (State.trainDone s l) := by
  unfold State.trainDone
  with_reducible
    repeat'
      first | assumption | apply State.enterProbe_kept | apply Kept.ite | (intro)

theorem State.tryUp_kept {q : List Instr} {s : State} {l : Lane} (h : Kept q s) :
    Kept q (State.tryUp s l) := by
  unfold State.tryUp
  with_reducible
    repeat'
      first | assumption | apply State.set_kept | apply State.onLane_kept | apply Kept.ite | (intro)

theorem State.leaveUp_kept {q : List Instr} {s : State} {l : Lane} (h : Kept q s) :
    Kept q (State.leaveUp s l) := by
  unfold State.leaveUp
  extract_lets p fr s1 s2 s3 drop
  have h3 : Kept q s3 := foldl_kept _ (fun _ _ hk => State.endBad_kept hk) (State.onLane_kept (State.bumpBy_kept h))
  have hd : ∀ (t : State) (a b : Nat) (c : Bool), Kept q t → Kept q (drop t a b c) := fun t a b c hk => by
    have hu : Kept q (t.unlinkQ a b) := State.unlinkQ_kept hk
    dsimp only [drop]
    split
    · exact hu
    · exact Kept.ite (fun _ => State.bump_kept hu) fun _ =>
        Kept.ite (fun _ => State.zeroFrame_kept (State.bump_kept hu)) fun _ => State.bump_kept hu
  exact foldl_kept _ (fun _ _ hk => foldl_kept _ (fun _ _ hk => hd _ _ _ _ hk) (foldl_kept _ (fun _ _ hk => hd _ _ _ _ hk) hk)) h3

theorem State.removeLane_kept {q : List Instr} {s : State} {l : Lane} (h : Kept q s) :
    Kept q (State.removeLane s l) := by
  unfold State.removeLane
  with_reducible
    repeat'
      first
        | assumption | apply State.leaveUp_kept | apply State.onLane_kept | apply State.set_kept | apply State.note_kept | apply Kept.ite
        | (intro)

theorem State.deliverRx_kept {q : List Instr} {s : State} {hd : Nat} (h : Kept q s) :
    Kept q (State.deliverRx s hd) := by
  unfold State.deliverRx
  with_reducible
    repeat'
      first
        | assumption | apply State.linkLocal_kept | apply State.updBuf_kept | apply State.release_kept | apply State.deliver_kept
        | apply Kept.ite | split | (intro) | apply Kept.put_rng

theorem State.dropRx_kept {q : List Instr} {s : State} {hd : Nat} (h : Kept q s) :
    Kept q (State.dropRx s hd) := by
  unfold State.dropRx
  with_reducible
    repeat'
      first | assumption | apply State.updBuf_kept | apply State.release_kept | apply State.capture_kept | split | apply Kept.put_rng

theorem State.setStream_kept {q : List Instr} {s : State} {k : Nat} {v : Stream} (h : Kept q s) :
    Kept q (State.setStream s k v) := by
  unfold State.setStream
  with_reducible
    repeat'
      first | assumption | apply Kept.put_rng

theorem State.drainHeld_kept {q : List Instr} (n : Nat) {s : State} {st : Stream} (h : Kept q s) : Kept q (State.drainHeld n s st).1 := by
  induction n generalizing s st with
  | zero => exact h
  | succ n ih =>
    unfold State.drainHeld
    split
    · exact h
    · exact ih (State.deliverRx_kept h)

theorem State.flushHeld_kept {q : List Instr} (n : Nat) {s : State} {st : Stream} (h : Kept q s) : Kept q (State.flushHeld n s st).1 := by
  induction n generalizing s st with
  | zero => exact h
  | succ n ih =>
    unfold State.flushHeld
    repeat' split
    · exact h
    · exact h
    · exact ih (State.deliverRx_kept h)

theorem State.goodRecord_kept {q : List Instr} {s : State} {hd : Nat} {r : RxFrame} (h : Kept q s) :
    Kept q (State.goodRecord s hd r) := by
  unfold State.goodRecord
  with_reducible
    repeat'
      first | assumption | apply State.capture_kept | apply Kept.ite | split | (intro)

theorem State.duplicateDecision_kept {q : List Instr} {s : State} {hd : Nat} {r : RxFrame} (h : Kept q s) :
    Kept q (State.duplicateDecision s hd r) := by
  unfold State.duplicateDecision
  with_reducible
    repeat'
      first
        | assumption | extract_lets | apply State.bump_kept | apply State.dropRx_kept | apply State.goodRecord_kept
        | apply State.flushHeld_kept | apply State.drainHeld_kept | apply State.deliverRx_kept | apply State.setStream_kept
        | apply State.bumpBy_kept | (refine Kept.of_snd (by assumption) ?_) | (refine Kept.of_fst (by assumption) ?_)
        | (refine Kept.of_third (by assumption) ?_) | (refine Kept.of_some (by assumption) ?_) | apply Kept.ite | split | (intro)

theorem execCrd_kept {q : List Instr} {l : Lane} {tc4 : Nat} {climit : Nat} {s : State} (h : Kept q s) :
    Ends q (execCrd l tc4 climit s) := by
  unfold execCrd
  with_reducible
    repeat'
      first
        | assumption | apply State.trainDone_kept | apply State.tryUp_kept | apply State.onLane_kept | apply ends_next | apply ends_ite
        | (intro)

theorem execCrdSend_kept {q : List Instr} {l : Lane} {tc4 : Nat} {s : State} (h : Kept q s) :
    Ends q (execCrdSend l tc4 s) := by
  unfold execCrdSend
  with_reducible
    repeat'
      first
        | assumption | apply ends_next | apply ends_ite | apply State.onLane_kept | apply execCrd_kept | apply State.emit_kept
        | apply State.trainDone_kept | apply State.tryUp_kept | apply Kept.ite | (intro)

theorem execLid_kept {q : List Instr} {l : Lane} {hub : Nat} {st : Nat} {s : State} (h : Kept q s) :
    Ends q (execLid l hub st s) := by
  unfold execLid
  with_reducible
    repeat'
      first
        | assumption | apply State.tryKeys_kept | apply State.trainDone_kept | apply State.tryUp_kept | apply State.enterProbe_kept
        | apply State.removeLane_kept | apply State.set_kept | apply State.setB_kept | apply State.onLane_kept | apply ends_next
        | apply ends_ite | (intro)

theorem execLinc_kept {q : List Instr} {l : Lane} {inc : Nat} {s : State} (h : Kept q s) :
    Ends q (execLinc l inc s) := by
  unfold execLinc
  with_reducible
    repeat'
      first
        | assumption | apply State.tryKeys_kept | apply State.trainDone_kept | apply State.onLane_kept | apply State.set_kept
        | apply ends_next | apply ends_ite | (intro)

theorem execLidLincSend_kept {q : List Instr} {l : Lane} {s : State} (h : Kept q s) :
    Ends q (execLidLincSend l s) := by
  unfold execLidLincSend
  refine ends_ite (fun _ => ends_next h) fun _ => ?_
  extract_lets st
  refine ends_ite (fun _ => ?_) fun _ => ends_next (State.emit_kept (State.emit_kept h))
  obtain ⟨t, e, ht⟩ := execLid_kept (l := l) (hub := s.hubNum) (st := st) h
  rw [e]
  exact execLinc_kept ht

theorem execSusp_kept {q : List Instr} {l : Lane} {s : State} (h : Kept q s) :
    Ends q (execSusp l s) := by
  unfold execSusp
  with_reducible
    repeat'
      first | assumption | apply State.onLane_kept | apply ends_next | apply ends_ite | split | (intro) | apply Kept.put_rng

theorem execResm_kept {q : List Instr} {l : Lane} {s : State} (h : Kept q s) :
    Ends q (execResm l s) := by
  unfold execResm
  with_reducible
    repeat'
      first | assumption | apply State.onLane_kept | apply ends_next | extract_lets | split | (intro) | apply Kept.put_rng

theorem execTc0Preempt_kept {q : List Instr} {l : Lane} {s : State} (h : Kept q s) :
    Ends q (execTc0Preempt l s) := by
  unfold execTc0Preempt
  with_reducible
    repeat'
      first
        | assumption | extract_lets | apply ends_next | apply ends_ite | apply getD_kept | apply State.emit_kept
        | apply State.onLane_kept | apply State.outgoing_kept | apply State.capture_kept | apply State.release_kept
        | (refine Kept.of_snd (by assumption) ?_) | apply Kept.ite | split | (intro) | apply Kept.put_swc

theorem State.laneTHead_kept {q : List Instr} {s : State} {hd : Nat} {f : Frame} (h : Kept q s) :
    Kept q (State.laneTHead s hd f) := by
  unfold State.laneTHead
  with_reducible
    repeat'
      first | assumption | apply State.onLane_kept | apply Kept.ite | (intro) | apply Kept.put_rng | apply Kept.put_swc

theorem State.laneTVerdict_kept {q : List Instr} {s : State} {hd : Nat} {r : RxFrame} {bad : Bool} (h : Kept q s) :
    Kept q (State.laneTVerdict s hd r bad) := by
  unfold State.laneTVerdict
  with_reducible
    repeat'
      first
        | assumption | apply State.note_kept | apply State.giveBack_kept | apply State.goodRecord_kept | apply State.capture_kept
        | apply State.bump_kept | apply State.zeroFrame_kept | apply State.set_kept | apply State.onTwn_kept | apply State.deliver_kept
        | apply State.markGood_kept | apply Kept.ite | (intro) | apply Kept.put_rng

theorem execRingFrameHead_kept {q : List Instr} {l : Lane} {f : Frame} {s : State} (h : Kept q s) :
    Ends q (execRingFrameHead l f s) := by
  unfold execRingFrameHead
  with_reducible
    repeat'
      first
        | assumption | apply State.onLane_kept | apply State.bump_kept | apply State.laneTHead_kept | apply ends_next | apply ends_ite
        | apply Kept.ite | extract_lets | split | (intro) | apply Kept.put_rng | apply Kept.put_swc

theorem execFrameVerdict_kept {q : List Instr} {hd : Nat} {crcOk : Bool} {tagOk : Bool} {errEnd : Bool} {s : State} (h : Kept q s) :
    Ends q (execFrameVerdict hd crcOk tagOk errEnd s) := by
  unfold execFrameVerdict
  with_reducible
    repeat'
      first
        | assumption | extract_lets | apply ends_next | apply ends_ite | apply State.onLane_kept | apply State.laneTVerdict_kept
        | apply State.giveBack_kept | apply State.bump_kept | apply State.capture_kept | apply State.zeroFrame_kept
        | apply State.rxEpoch_kept | apply State.markGood_kept | apply State.goodRecord_kept | apply State.deliver_kept
        | apply State.release_kept | apply State.updBuf_kept | apply State.duplicateDecision_kept
        | (refine Kept.of_snd (by assumption) ?_) | apply Kept.ite | split | (intro) | apply Kept.put_rng

theorem execHoldTimerExpiry_kept {q : List Instr} {stream : Nat} {s : State} (h : Kept q s) :
    Ends q (execHoldTimerExpiry stream s) := by
  unfold execHoldTimerExpiry
  with_reducible
    repeat'
      first | assumption | apply State.drainHeld_kept | apply State.bumpBy_kept | apply State.setStream_kept | apply ends_next | split

theorem execBlockLockLoss_kept {q : List Instr} {l : Lane} {s : State} (h : Kept q s) :
    Ends q (execBlockLockLoss l s) := by
  unfold execBlockLockLoss
  with_reducible
    repeat'
      first | assumption | apply State.leaveUp_kept | apply State.set_kept | apply ends_next | apply ends_ite | split | (intro)

theorem execBlockLockGain_kept {q : List Instr} {l : Lane} {s : State} (h : Kept q s) :
    Ends q (execBlockLockGain l s) := by
  unfold execBlockLockGain
  with_reducible
    repeat'
      first
        | assumption | apply State.enterProbe_kept | apply State.enterTrain_kept | apply State.set_kept | apply ends_next
        | apply ends_ite | (intro)

theorem execHiBer_kept {q : List Instr} {l : Lane} {s : State} (h : Kept q s) :
    Ends q (execHiBer l s) := by
  unfold execHiBer
  with_reducible
    repeat'
      first | assumption | apply State.removeLane_kept | apply State.set_kept | apply ends_next | apply Kept.ite | (intro)

theorem execQualityWindow_kept {q : List Instr} {l : Lane} {sync : Nat} {ctl : Nat} {hiBer : Bool} {s : State} (h : Kept q s) :
    Ends q (execQualityWindow l sync ctl hiBer s) := by
  unfold execQualityWindow
  with_reducible
    repeat'
      first
        | assumption | apply State.removeLane_kept | apply State.onLane_kept | apply State.bumpBy_kept | apply State.setB_kept
        | apply State.set_kept | apply ends_next | apply ends_ite | (intro)

theorem execProbationPass_kept {q : List Instr} {l : Lane} {s : State} (h : Kept q s) :
    Ends q (execProbationPass l s) := by
  unfold execProbationPass
  with_reducible
    repeat'
      first | assumption | apply State.onLane_kept | apply State.tryUp_kept | apply ends_next | apply ends_ite | (intro)

theorem State.reenable_kept {q : List Instr} {l : Lane} {s : State} (h : Kept q s) :
    Kept q (State.reenable l s) := by
  unfold State.reenable
  with_reducible
    repeat'
      first | assumption | apply State.set_kept | apply Kept.ite | (intro)

theorem execHopmSend_kept {q : List Instr} {l : Lane} {s : State} (h : Kept q s) :
    Ends q (execHopmSend l s) := by
  unfold execHopmSend
  with_reducible
    repeat'
      first
        | assumption | apply ends_next | apply ends_ite | apply State.onLane_kept | apply State.deliver_kept | apply State.laneOut_kept
        | apply Kept.ite | (intro)

theorem execHopm_kept {q : List Instr} {l : Lane} {f : Frame} {s : State} (h : Kept q s) :
    Ends q (execHopm l f s) := by
  unfold execHopm
  with_reducible
    repeat'
      first
        | assumption | apply State.set_kept | apply State.onLane_kept | apply State.take_kept | apply ends_next | apply ends_ite
        | (intro) | apply Kept.put_tim

theorem execFillTimeout_kept {q : List Instr} {l : Lane} {s : State} (h : Kept q s) :
    Ends q (execFillTimeout l s) := by
  unfold execFillTimeout
  with_reducible
    repeat'
      first
        | assumption | extract_lets | apply ends_next | apply ends_ite | apply getD_kept | apply State.endBad_kept
        | apply State.unlinkQ_kept | apply State.release_kept | (refine Kept.of_snd (by assumption) ?_) | apply Kept.ite | split
        | (intro)

theorem execAdmreq_kept {q : List Instr} {f : Frame} {twinJoined : Bool} {s : State} (h : Kept q s) :
    Ends q (execAdmreq f twinJoined s) := by
  unfold execAdmreq
  with_reducible
    repeat'
      first
        | assumption | apply State.bump_kept | apply State.sendRctl_kept | apply State.take_kept | apply ends_next | apply ends_ite
        | apply Kept.ite | (intro) | apply Kept.put_rng

theorem execAdmreqSend_kept {q : List Instr} {s : State} (h : Kept q s) :
    Ends q (execAdmreqSend s) := by
  unfold execAdmreqSend
  with_reducible
    repeat'
      first | assumption | apply State.sendRctl_kept | apply ends_next | apply ends_ite | (intro)

theorem State.newHold_kept {q : List Instr} {s : State} (h : Kept q s) :
    Kept q (State.newHold s) := by
  unfold State.newHold
  with_reducible
    repeat'
      first | assumption | apply State.draw_kept | apply State.set_kept | apply Kept.ite | (intro)

theorem State.unask_kept {q : List Instr} {s : State} {p : List Byte} (h : Kept q s) : Kept q (s.unask p) := by
  unfold State.unask
  with_reducible
    repeat'
      first | assumption | apply Kept.put_rng

theorem execAdmitSend_kept {q : List Instr} {s : State} (h : Kept q s) :
    Ends q (execAdmitSend s) := by
  unfold execAdmitSend
  with_reducible
    repeat'
      first
        | assumption | extract_lets | apply ends_next | apply ends_ite | apply State.unask_kept | apply State.sendRctl_kept
        | apply State.bump_kept | apply State.set_kept | apply State.newHold_kept | (refine Kept.of_snd (by assumption) ?_)
        | apply Kept.ite | split | (intro) | apply Kept.put_rng | apply Kept.put_hub | apply Kept.vlog | apply Kept.plog

theorem State.toTransit_kept {q : List Instr} {s : State} (h : Kept q s) :
    Kept q (State.toTransit s) := by
  unfold State.toTransit
  with_reducible
    repeat'
      first | assumption | apply State.set_kept | apply State.onRng_kept | apply Kept.ite | (intro)

theorem execRefuse_kept {q : List Instr} {f : Frame} {s : State} (h : Kept q s) :
    Ends q (execRefuse f s) := by
  unfold execRefuse
  with_reducible
    repeat'
      first
        | assumption | apply ends_next | apply ends_ite | apply State.take_kept | apply State.set_kept | apply State.bump_kept
        | apply State.toTransit_kept | apply State.note_kept | apply Kept.ite | (intro) | apply Kept.put_rng

theorem execMasterBeaconSend_kept {q : List Instr} {s : State} (h : Kept q s) :
    Ends q (execMasterBeaconSend s) := by
  unfold execMasterBeaconSend
  with_reducible
    repeat'
      first | assumption | apply State.sendRctl_kept | apply ends_next | apply ends_ite | (intro)

theorem State.sendCand_kept {q : List Instr} {s : State} (h : Kept q s) :
    Kept q (State.sendCand s) := by
  unfold State.sendCand
  with_reducible
    repeat'
      first | assumption | apply State.sendRctl_kept

theorem execBeaconLoss_kept {q : List Instr} {s : State} (h : Kept q s) :
    Ends q (execBeaconLoss s) := by
  unfold execBeaconLoss
  with_reducible
    repeat'
      first
        | assumption | apply State.sendCand_kept | apply State.set_kept | apply ends_next | apply ends_ite | apply Kept.ite | (intro)
        | apply Kept.put_rng

theorem execCand_kept {q : List Instr} {f : Frame} {s : State} (h : Kept q s) :
    Ends q (execCand f s) := by
  unfold execCand
  with_reducible
    repeat'
      first | assumption | apply State.take_kept | apply ends_next | apply ends_ite | (intro) | apply Kept.put_rng

theorem execCandSend_kept {q : List Instr} {s : State} (h : Kept q s) :
    Ends q (execCandSend s) := by
  unfold execCandSend
  with_reducible
    repeat'
      first | assumption | apply State.sendCand_kept | apply ends_next | apply ends_ite | (intro) | apply Kept.put_rng

theorem execNoAdmittedHub_kept {q : List Instr} {s : State} (h : Kept q s) :
    Ends q (execNoAdmittedHub s) := by
  unfold execNoAdmittedHub
  with_reducible
    repeat'
      first | assumption | apply ends_next | apply ends_ite | (intro) | apply Kept.put_rng

theorem execMembSend_kept {q : List Instr} {s : State} (h : Kept q s) :
    Ends q (execMembSend s) := by
  unfold execMembSend
  with_reducible
    repeat'
      first | assumption | apply State.sendRctl_kept | apply ends_next | apply ends_ite | (intro)

theorem execPres_kept {q : List Instr} {f : Frame} {s : State} (h : Kept q s) :
    Ends q (execPres f s) := by
  unfold execPres
  with_reducible
    repeat'
      first | assumption | apply State.take_kept | apply ends_next | apply ends_ite | (intro) | apply Kept.put_rng

theorem execPresSend_kept {q : List Instr} {s : State} (h : Kept q s) :
    Ends q (execPresSend s) := by
  unfold execPresSend
  with_reducible
    repeat'
      first | assumption | apply State.sendRctl_kept | apply ends_next | apply ends_ite | (intro)

theorem State.removeMember_kept {q : List Instr} {s : State} {hub : Nat} (h : Kept q s) :
    Kept q (State.removeMember s hub) := by
  unfold State.removeMember
  with_reducible
    repeat'
      first | assumption | apply State.set_kept | apply State.newHold_kept | apply Kept.ite | (intro) | apply Kept.put_rng

theorem execPositionRemoval_kept {q : List Instr} {hub : Nat} {s : State} (h : Kept q s) :
    Ends q (execPositionRemoval hub s) := by
  unfold execPositionRemoval
  with_reducible
    repeat'
      first | assumption | apply State.removeMember_kept | apply ends_next | apply ends_ite | (intro)

theorem execLeave_kept {q : List Instr} {f : Frame} {s : State} (h : Kept q s) :
    Ends q (execLeave f s) := by
  unfold execLeave
  with_reducible
    repeat'
      first
        | assumption | apply State.removeMember_kept | apply State.take_kept | apply ends_next | apply ends_ite | (intro)
        | apply Kept.put_rng

theorem State.bypassDrive_kept {q : List Instr} {s : State} (h : Kept q s) :
    Kept q (State.bypassDrive s) := by
  unfold State.bypassDrive
  with_reducible
    repeat'
      first | assumption | apply State.setB_kept

theorem State.insertWrite_kept {q : List Instr} {v : Bool} {s : State} (h : Kept q s) :
    Kept q (State.insertWrite v s) := by
  unfold State.insertWrite
  with_reducible
    repeat'
      first
        | assumption | apply State.sendRctl_kept | apply State.bypassDrive_kept | apply State.note_kept | apply State.setB_kept
        | apply Kept.ite | (intro) | apply Kept.put_rng

theorem execInsertRelease_kept {q : List Instr} {s : State} (h : Kept q s) :
    Ends q (execInsertRelease s) := by
  unfold execInsertRelease
  with_reducible
    repeat'
      first | assumption | apply State.bypassDrive_kept | apply ends_next | apply ends_ite | (intro) | apply Kept.put_rng

theorem execHeartbeatSend_kept {q : List Instr} {s : State} (h : Kept q s) :
    Ends q (execHeartbeatSend s) := by
  unfold execHeartbeatSend
  with_reducible
    repeat'
      first | assumption | apply State.bypassDrive_kept | apply ends_next | apply Kept.put_rng

theorem execHeartbeatLost_kept {q : List Instr} {s : State} (h : Kept q s) :
    Ends q (execHeartbeatLost s) := by
  unfold execHeartbeatLost
  with_reducible
    repeat'
      first
        | assumption | apply State.set_kept | apply State.bypassDrive_kept | apply ends_next | apply Kept.ite | (intro)
        | apply Kept.put_rng

theorem execBypassSettleEnd_kept {q : List Instr} {s : State} (h : Kept q s) :
    Ends q (execBypassSettleEnd s) := by
  unfold execBypassSettleEnd
  with_reducible
    repeat'
      first
        | assumption | apply State.set_kept | apply ends_next | apply ends_ite | apply foldl_kept | split | (intro) | apply Kept.put_rng

theorem execSequenceOrderedSet_kept {q : List Instr} {l : Lane} {s : State} (h : Kept q s) :
    Ends q (execSequenceOrderedSet l s) := by
  unfold execSequenceOrderedSet
  with_reducible
    repeat'
      first | assumption | apply State.bump_kept | apply ends_next

theorem execStrayBlock_kept {q : List Instr} {l : Lane} {s : State} (h : Kept q s) :
    Ends q (execStrayBlock l s) := by
  unfold execStrayBlock
  with_reducible
    repeat'
      first | assumption | apply State.bump_kept | apply ends_next

end Sys2Proof.Machine
end

