-- ==== Sys2Proof/Laws/Control.lean ====
section
/-! SUPPORT. The operations of Machine/Control.lean leave the queue alone and keep the invariant of Safety.lean. -/
namespace Sys2Proof.Machine

theorem State.takeMemb_kept {q : List Instr} {s : State} {p : List Byte} (h : Kept q s) :
    Kept q (State.takeMemb s p) := by
  unfold State.takeMemb
  with_reducible
    repeat'
      first | assumption | apply State.onRng_kept | apply State.set_kept | apply State.newHold_kept | apply Kept.ite | (intro)

theorem State.showMaster_kept {q : List Instr} {s : State} {hub : Nat} {prio : Nat} (h : Kept q s) :
    Kept q (State.showMaster s hub prio) := by
  unfold State.showMaster
  with_reducible
    repeat'
      first | assumption | apply State.set_kept

theorem State.becomeMaster_kept {q : List Instr} {s : State} (h : Kept q s) :
    Kept q (State.becomeMaster s) := by
  unfold State.becomeMaster
  with_reducible
    repeat'
      first
        | assumption | apply State.onRng_kept | apply State.set_kept | apply State.showMaster_kept | apply State.newHold_kept
        | apply State.onTwn_kept | apply State.onImg_kept | apply State.timeMaster_kept | apply Kept.ite | apply foldl_kept
        | apply foldl_fst_kept | apply foldl_snd_kept | (intro)

theorem execMaster_kept {q : List Instr} {f : Frame} {s : State} (h : Kept q s) :
    Ends q (execMaster f s) := by
  unfold execMaster
  with_reducible
    repeat'
      first
        | assumption | apply State.showMaster_kept | apply State.sendRctl_kept | apply State.set_kept | apply State.take_kept
        | apply State.onRng_kept | apply ends_next | apply ends_ite | (intro)

theorem execElectionWin_kept {q : List Instr} {s : State} (h : Kept q s) :
    Ends q (execElectionWin s) := by
  unfold execElectionWin
  with_reducible
    repeat'
      first | assumption | apply State.becomeMaster_kept | apply ends_next | apply ends_ite | (intro)

theorem execAdmit_kept {q : List Instr} {f : Frame} {s : State} (h : Kept q s) :
    Ends q (execAdmit f s) := by
  unfold execAdmit
  with_reducible
    repeat'
      first
        | assumption | apply State.set_kept | apply State.takeMemb_kept | apply State.onRng_kept | apply State.take_kept
        | apply ends_next | apply ends_ite | (intro)

theorem State.refuseMember_kept {q : List Instr} {s : State} {m : Member} (h : Kept q s) :
    Kept q (State.refuseMember s m) := by
  unfold State.refuseMember
  with_reducible
    repeat'
      first | assumption | apply State.sendRctl_kept

theorem execMemb_kept {q : List Instr} {f : Frame} {s : State} (h : Kept q s) :
    Ends q (execMemb f s) := by
  unfold execMemb
  with_reducible
    repeat'
      first
        | assumption | apply ends_next | apply ends_ite | apply State.take_kept | apply State.onRng_kept | apply foldl_kept
        | apply State.set_kept | apply State.newHold_kept | apply State.refuseMember_kept | apply State.timeMerge_kept
        | apply State.takeMemb_kept | apply State.toTransit_kept | apply Kept.ite | apply foldl_kept | apply foldl_fst_kept
        | apply foldl_snd_kept | (intro)

end Sys2Proof.Machine
end

