-- ==== Sys2Proof/Laws/Gateway.lean ====
section
/-! SUPPORT. The operations of Machine/Gateway.lean leave the queue alone and keep the invariant of Safety.lean. -/
namespace Sys2Proof.Machine

theorem State.toHost_kept {q : List Instr} {s : State} {init : Nat} {tag : Nat} {f : Frame} (h : Kept q s) :
    Kept q (State.toHost s init tag f) := by
  unfold State.toHost
  with_reducible
    repeat'
      first
        | assumption | apply State.linkQ_kept | apply State.freeBuf_kept | apply State.onSwc_kept | apply State.onRng_kept
        | apply Kept.ite | (intro)

theorem State.hostLocal_kept {q : List Instr} {s : State} {f : Frame} {tag : Nat} {st : Status} (h : Kept q s) :
    Kept q (State.hostLocal s f tag st) := by
  unfold State.hostLocal
  with_reducible
    repeat'
      first | assumption | apply State.toHost_kept | apply Kept.ite | (intro)

theorem State.openTag_kept {q : List Instr} {s : State} {f : Frame} {host : Option Nat} (h : Kept q s) :
    Kept q (State.openTag s f host) := by
  unfold State.openTag
  with_reducible
    repeat'
      first | assumption | apply State.onHub_kept | apply Kept.vlog | apply Kept.plog

theorem State.closeTag_kept {q : List Instr} {s : State} {key : Nat} (h : Kept q s) :
    Kept q (State.closeTag s key) := by
  unfold State.closeTag
  with_reducible
    repeat'
      first | assumption | apply State.onHub_kept | apply Kept.vlog | apply Kept.plog

theorem State.hostRequest_kept {q : List Instr} {s : State} {p : Nat} {init : Nat} {tag : Nat} {f : Frame} (h : Kept q s) :
    Kept q (State.hostRequest s p init tag f) := by
  unfold State.hostRequest
  with_reducible
    repeat'
      first
        | assumption | apply State.openTag_kept | apply State.offer_kept | apply State.violation_kept | apply State.bump_kept
        | apply State.postedError_kept | apply State.hostLocal_kept | apply State.postedTag_kept
        | (refine Kept.of_snd (by assumption) ?_) | apply Kept.ite | split | (intro)

theorem State.hostFrame_kept {q : List Instr} {s : State} {p : Nat} {eth : List Byte} (h : Kept q s) :
    Kept q (State.hostFrame s p eth) := by
  unfold State.hostFrame
  with_reducible
    repeat'
      first
        | assumption | apply State.hostRequest_kept | apply State.onHub_kept | apply State.note_kept | apply State.bump_kept
        | apply Kept.ite | split | (intro) | apply Kept.vlog | apply Kept.plog

theorem State.sendNote_kept {q : List Instr} {s : State} {op : Nat} {body : List Byte} (h : Kept q s) :
    Kept q (State.sendNote s op body) := by
  unfold State.sendNote
  with_reducible
    repeat'
      first | assumption | apply State.offer_kept | apply State.postedTag_kept | apply State.onTwn_kept

theorem State.relayHost_kept {q : List Instr} {s : State} {p : Nat} {eth : List Byte} (h : Kept q s) :
    Kept q (State.relayHost s p eth) := by
  unfold State.relayHost
  with_reducible
    repeat'
      first | assumption | apply State.sendNote_kept | apply State.onTwn_kept | apply foldl_kept | (intro)

theorem execHostFrameRx_kept {q : List Instr} {p : HPort} {fcsOk : Bool} {eth : List Byte} {s : State} (h : Kept q s) :
    Ends q (execHostFrameRx p fcsOk eth s) := by
  unfold execHostFrameRx
  with_reducible
    repeat'
      first
        | assumption | apply State.onTwn_kept | apply State.hostFrame_kept | apply State.relayHost_kept | apply State.bump_kept
        | apply ends_next | apply ends_ite | (intro)

theorem execCmp_kept {q : List Instr} {f : Frame} {s : State} (h : Kept q s) :
    Ends q (execCmp f s) := by
  unfold execCmp
  with_reducible
    repeat'
      first
        | assumption | apply ends_next | apply ends_ite | apply State.take_kept | apply State.updBuf_kept | apply State.release_kept
        | apply State.bump_kept | apply State.closeTag_kept | apply State.linkLocal_kept | apply Kept.ite | split | (intro)

theorem execCompletionTimeout_kept {q : List Instr} {init : Nat} {tag : Nat} {s : State} (h : Kept q s) :
    Ends q (execCompletionTimeout init tag s) := by
  unfold execCompletionTimeout
  with_reducible
    repeat'
      first
        | assumption | extract_lets | apply ends_next | apply ends_ite | apply State.closeTag_kept | apply State.onHub_kept
        | apply State.hostLocal_kept | apply State.endLocal_kept | (refine Kept.of_snd (by assumption) ?_) | apply Kept.ite | split
        | (intro) | apply Kept.vlog | apply Kept.plog

theorem execTagReserveExpiry_kept {q : List Instr} {init : Nat} {tag : Nat} {s : State} (h : Kept q s) :
    Ends q (execTagReserveExpiry init tag s) := by
  unfold execTagReserveExpiry
  with_reducible
    repeat'
      first | assumption | apply State.onHub_kept | apply ends_next | apply Kept.ite | split | (intro) | apply Kept.vlog | apply Kept.plog

theorem execTagWaitSend_kept {q : List Instr} {f : Frame} {s : State} (h : Kept q s) :
    Ends q (execTagWaitSend f s) := by
  unfold execTagWaitSend
  with_reducible
    repeat'
      first
        | assumption | apply ends_next | apply ends_ite | apply State.onHub_kept | apply State.endLocal_kept | apply State.openTag_kept
        | apply State.offer_kept | apply Kept.ite | split | (intro) | apply Kept.vlog | apply Kept.plog

end Sys2Proof.Machine
end

