-- ==== Sys2Proof/Laws/Pio.lean ====
section
/-! SUPPORT. The operations of Machine/Pio.lean leave the queue alone and keep the invariant of Safety.lean. -/
namespace Sys2Proof.Machine

theorem State.setEng_kept {q : List Instr} {s : State} {e : Nat} {v : Engine} (h : Kept q s) :
    Kept q (State.setEng s e v) := by
  unfold State.setEng
  with_reducible
    repeat'
      first | assumption | apply State.onPio_kept

theorem State.haltEngine_kept {q : List Instr} {s : State} {e : Nat} (h : Kept q s) :
    Kept q (State.haltEngine s e) := by
  unfold State.haltEngine
  with_reducible
    repeat'
      first | assumption | apply State.setEng_kept | apply State.set_kept | apply Kept.ite | split | (intro)

theorem State.engineFault_kept {q : List Instr} {s : State} {e : Nat} {code : Nat} (h : Kept q s) :
    Kept q (State.engineFault s e code) := by
  unfold State.engineFault
  with_reducible
    repeat'
      first | assumption | apply State.haltEngine_kept | apply State.set_kept | apply State.note_kept | apply State.setEng_kept

theorem State.completeAt_kept {q : List Instr} {s : State} {e : Nat} {pc : Nat} {pause : Nat} (h : Kept q s) :
    Kept q (State.completeAt s e pc pause) := by
  unfold State.completeAt
  with_reducible
    repeat'
      first | assumption | apply State.engineFault_kept | apply State.set_kept | apply State.setEng_kept | apply Kept.ite | (intro)

theorem State.stall_kept {q : List Instr} {s : State} {e : Nat} {why : Nat} {undr : Bool} (h : Kept q s) :
    Kept q (State.stall s e why undr) := by
  unfold State.stall
  with_reducible
    repeat'
      first | assumption | apply State.setEng_kept | apply State.set_kept | apply State.bump_kept | apply Kept.ite | (intro)

theorem State.setLatch_kept {q : List Instr} {s : State} {e : Nat} {v : Nat} (h : Kept q s) :
    Kept q (State.setLatch s e v) := by
  unfold State.setLatch
  with_reducible
    repeat'
      first | assumption | apply State.set_kept | apply State.redriveRange_kept | apply Kept.ite | (intro)

theorem State.setEnables_kept {q : List Instr} {s : State} {e : Nat} {v : Nat} (h : Kept q s) :
    Kept q (State.setEnables s e v) := by
  unfold State.setEnables
  with_reducible
    repeat'
      first | assumption | apply State.set_kept | apply State.redriveRange_kept | apply Kept.ite | (intro)

theorem State.shiftIn_kept {q : List Instr} {s : State} {e : Nat} {g : Nat} {n : Nat} (h : Kept q s) :
    Kept q (State.shiftIn s e g n) := by
  unfold State.shiftIn
  with_reducible
    repeat'
      first | assumption | apply State.set_kept

theorem State.post_kept {q : List Instr} {s : State} {e : Nat} {end_ : Bool} {align : Bool} (h : Kept q s) :
    Kept q (State.post s e end_ align) := by
  unfold State.post
  with_reducible
    repeat'
      first | assumption | apply State.setEng_kept | apply State.set_kept | apply State.bump_kept | apply Kept.ite | (intro)

theorem State.flagCycle_kept {q : List Instr} {s : State} (h : Kept q s) :
    Kept q (State.flagCycle s) := by
  unfold State.flagCycle
  with_reducible
    repeat'
      first | assumption | apply State.onPio_kept | apply Kept.ite | (intro)

theorem State.setFlags_kept {q : List Instr} {src : Nat} {mask : Nat} {s : State} (h : Kept q s) :
    Kept q (State.setFlags src mask s) :=
  State.set_kept (State.onPio_kept (State.flagCycle_kept h))

theorem State.clearFlags_kept {q : List Instr} {src : Nat} {mask : Nat} {s : State} (h : Kept q s) :
    Kept q (State.clearFlags src mask s) :=
  State.set_kept (State.onPio_kept (State.flagCycle_kept h))

theorem State.instr_kept {q : List Instr} {s : State} {e op : Nat} {act : State → Nat → Nat → Nat → State} (h : Kept q s)
    (g : ∀ w pause next, Kept q (act s w pause next)) : Kept q (s.instr e op act) := by
  unfold State.instr
  extract_lets
  exact Kept.ite (fun _ => h) fun _ => Kept.ite (fun _ => State.set_kept h) fun _ => Kept.ite (fun _ => State.engineFault_kept h) fun _ =>
    Kept.ite (fun _ => h) fun _ => Kept.ite (fun _ => State.engineFault_kept h) fun _ =>
    Kept.ite (fun _ => State.completeAt_kept h) fun _ => g _ _ _

theorem State.setZN_kept {q : List Instr} {s : State} {e : Nat} {r : Nat} (h : Kept q s) :
    Kept q (State.setZN s e r) := by
  unfold State.setZN
  with_reducible
    repeat'
      first | assumption | apply State.setB_kept

theorem State.loopAct_kept {q : List Instr} {e : Nat} {s : State} {w : Nat} {pause : Nat} {next : Nat} (h : Kept q s) :
    Kept q (State.loopAct e s w pause next) := by
  unfold State.loopAct
  with_reducible
    repeat'
      first
        | assumption | apply State.set_kept | apply State.setZN_kept | apply State.completeAt_kept | apply State.engineFault_kept
        | apply Kept.ite | (intro)

theorem State.caseAct_kept {q : List Instr} {e : Nat} {s : State} {w : Nat} {pause : Nat} {_next : Nat} (h : Kept q s) :
    Kept q (State.caseAct e s w pause _next) := by
  unfold State.caseAct
  with_reducible
    repeat'
      first | assumption | apply State.completeAt_kept | apply State.engineFault_kept | apply Kept.ite | (intro)

theorem State.untilAct_kept {q : List Instr} {e : Nat} {s : State} {w : Nat} {pause : Nat} {next : Nat} (h : Kept q s) :
    Kept q (State.untilAct e s w pause next) := by
  unfold State.untilAct
  with_reducible
    repeat'
      first
        | assumption | apply State.completeAt_kept | apply State.stall_kept | apply State.clearFlags_kept | apply State.setEng_kept
        | apply State.set_kept | apply Kept.ite | split | (intro)

theorem State.takeOut_kept {q : List Instr} {s : State} {e : Nat} (h : Kept q s) :
    Kept q (State.takeOut s e).2 := by
  unfold State.takeOut
  with_reducible
    repeat'
      first | assumption | apply State.set_kept | apply Kept.ite_snd | (intro)

theorem State.cellStep_kept {q : List Instr} {s : State} {e : Nat} {w : Nat} (h : Kept q s) :
    Kept q (State.cellStep s e w).2 := by
  unfold State.cellStep
  with_reducible
    repeat'
      first
        | assumption | apply State.post_kept | apply State.shiftIn_kept | apply State.setLatch_kept | apply State.takeOut_kept
        | apply State.set_kept | apply State.setEng_kept | apply State.stall_kept | (refine Kept.of_snd (by assumption) ?_)
        | apply Kept.ite | apply Kept.ite_snd | (intro)

theorem State.runCells_kept {q : List Instr} (n : Nat) {s : State} {e w pause next : Nat} (h : Kept q s) :
    Kept q (State.runCells n s e w pause next) := by
  induction n generalizing s with
  | zero => exact h
  | succ n ih =>
    unfold State.runCells
    have hc : Kept q (s.cellStep e w).2 := State.cellStep_kept h
    split
    · rename_i t hx
      exact Kept.of_snd hx hc
    · rename_i t hx
      exact State.completeAt_kept (Kept.of_snd hx hc)
    · rename_i t hx
      exact ih (Kept.of_snd hx hc)

theorem State.cellAct_kept {q : List Instr} {e : Nat} {steps : Nat} {s : State} {w : Nat} {pause : Nat} {next : Nat} (h : Kept q s) :
    Kept q (State.cellAct e steps s w pause next) := by
  unfold State.cellAct
  with_reducible
    repeat'
      first | assumption | apply State.runCells_kept

theorem State.sampleAct_kept {q : List Instr} {e : Nat} {s : State} {w : Nat} {pause : Nat} {next : Nat} (h : Kept q s) :
    Kept q (State.sampleAct e s w pause next) := by
  unfold State.sampleAct
  with_reducible
    repeat'
      first | assumption | apply State.shiftIn_kept | apply State.completeAt_kept

theorem State.driveAct_kept {q : List Instr} {e : Nat} {s : State} {w : Nat} {pause : Nat} {next : Nat} (h : Kept q s) :
    Kept q (State.driveAct e s w pause next) := by
  unfold State.driveAct
  with_reducible
    repeat'
      first | assumption | apply State.completeAt_kept | apply State.setEnables_kept | apply State.setLatch_kept | split

theorem State.postAct_kept {q : List Instr} {e : Nat} {s : State} {w : Nat} {pause : Nat} {next : Nat} (h : Kept q s) :
    Kept q (State.postAct e s w pause next) := by
  unfold State.postAct
  with_reducible
    repeat'
      first | assumption | apply State.post_kept | apply State.completeAt_kept

theorem State.fetchAct_kept {q : List Instr} {e : Nat} {s : State} {w : Nat} {pause : Nat} {next : Nat} (h : Kept q s) :
    Kept q (State.fetchAct e s w pause next) := by
  unfold State.fetchAct
  with_reducible
    repeat'
      first
        | assumption | apply State.stall_kept | apply State.completeAt_kept | apply State.setEng_kept | apply State.set_kept
        | apply Kept.ite | extract_lets | split | (intro)

theorem State.mailboxOut_kept {q : List Instr} {s : State} {e : Nat} {k : Nat} {v : Nat} (h : Kept q s) :
    Kept q (State.mailboxOut s e k v) := by
  unfold State.mailboxOut
  with_reducible
    repeat'
      first
        | assumption | apply State.pushUpdate_kept | apply State.onEpo_kept | apply State.bump_kept | apply State.set_kept
        | apply foldl_kept | extract_lets | split | (intro)

theorem State.copyAct_kept {q : List Instr} {e : Nat} {s : State} {w : Nat} {pause : Nat} {next : Nat} (h : Kept q s) :
    Kept q (State.copyAct e s w pause next) := by
  unfold State.copyAct
  with_reducible
    repeat'
      first
        | assumption | apply State.engineFault_kept | apply State.setEnables_kept | apply State.setLatch_kept | apply State.set_kept
        | apply State.mailboxOut_kept | apply State.completeAt_kept | apply Kept.ite | split | (intro)

theorem State.setkAct_kept {q : List Instr} {e : Nat} {s : State} {w : Nat} {pause : Nat} {next : Nat} (h : Kept q s) :
    Kept q (State.setkAct e s w pause next) := by
  unfold State.setkAct
  with_reducible
    repeat'
      first | assumption | apply State.set_kept | apply State.completeAt_kept

theorem State.calcAct_kept {q : List Instr} {e : Nat} {s : State} {w : Nat} {pause : Nat} {next : Nat} (h : Kept q s) :
    Kept q (State.calcAct e s w pause next) := by
  unfold State.calcAct
  with_reducible
    repeat'
      first | assumption | apply State.set_kept | apply State.setZN_kept | apply State.completeAt_kept

theorem State.flagAct_kept {q : List Instr} {e : Nat} {s : State} {w : Nat} {pause : Nat} {next : Nat} (h : Kept q s) :
    Kept q (State.flagAct e s w pause next) := by
  unfold State.flagAct
  with_reducible
    repeat'
      first
        | assumption | apply State.setFlags_kept | apply State.clearFlags_kept | apply State.set_kept | apply State.completeAt_kept
        | apply Kept.ite | split | (intro)

theorem State.addAction_kept {q : List Instr} {s : State} {e : Nat} {a : Action} (h : Kept q s) :
    Kept q (State.addAction s e a) := by
  unfold State.addAction
  with_reducible
    repeat'
      first | assumption | apply State.setEng_kept

theorem State.atAct_kept {q : List Instr} {e : Nat} {s : State} {w : Nat} {pause : Nat} {next : Nat} (h : Kept q s) :
    Kept q (State.atAct e s w pause next) := by
  unfold State.atAct
  with_reducible
    repeat'
      first | assumption | apply State.addAction_kept | apply State.completeAt_kept | apply State.stall_kept | apply Kept.ite | (intro)

theorem State.stopAct_kept {q : List Instr} {e : Nat} {s : State} {w : Nat} {_pause : Nat} {next : Nat} (h : Kept q s) :
    Kept q (State.stopAct e s w _pause next) := by
  unfold State.stopAct
  with_reducible
    repeat'
      first | assumption | apply State.set_kept | apply State.completeAt_kept | apply State.haltEngine_kept | apply Kept.ite | (intro)

theorem State.runAction_kept {q : List Instr} {s : State} {e : Nat} {a : Action} (h : Kept q s) :
    Kept q (State.runAction s e a) := by
  unfold State.runAction
  with_reducible
    repeat'
      first
        | assumption | apply State.bump_kept | apply State.set_kept | apply State.setEng_kept | apply State.setEnables_kept
        | apply State.setLatch_kept | apply Kept.ite | split | (intro)

theorem State.tick_kept {q : List Instr} {s : State} (h : Kept q s) :
    Kept q (State.tick s) := by
  unfold State.tick
  with_reducible
    repeat'
      first | assumption | apply State.timeTick_kept | apply State.onPio_kept | apply Kept.ite | (intro)

theorem State.taqCycle_kept {q : List Instr} (n : Nat) {s : State} {e : Nat} (h : Kept q s) : Kept q (State.taqCycle n s e) := by
  induction n generalizing s with
  | zero => exact h
  | succ n ih =>
    unfold State.taqCycle
    extract_lets
    split
    · exact h
    · apply Kept.ite
      · intro; exact ih (State.runAction_kept (State.setEng_kept h))
      · intro; exact State.setEng_kept h

theorem State.stepInstr_kept {q : List Instr} {s : State} {e steps : Nat} (h : Kept q s) : Kept q (s.stepInstr e steps) := by
  unfold State.stepInstr
  extract_lets jump op
  refine State.instr_kept h fun w pause next => ?_
  generalize op = n
  split
  · exact State.completeAt_kept h
  · exact State.completeAt_kept h
  · exact State.loopAct_kept h
  · exact State.caseAct_kept h
  · exact State.untilAct_kept h
  · exact State.cellAct_kept h
  · exact State.cellAct_kept h
  · exact State.cellAct_kept h
  · exact State.sampleAct_kept h
  · exact State.driveAct_kept h
  · exact State.postAct_kept h
  · exact State.fetchAct_kept h
  · exact State.copyAct_kept h
  · exact State.setkAct_kept h
  · exact State.calcAct_kept h
  · exact State.flagAct_kept h
  · exact State.atAct_kept h
  · exact State.stopAct_kept h

theorem execNop_kept {q : List Instr} {pe : Nat} {s : State} (h : Kept q s) :
    Ends q (execNop pe s) := by
  unfold execNop
  with_reducible
    repeat'
      first | assumption | apply State.completeAt_kept | apply State.instr_kept | apply ends_next | (intro)

theorem execGoto_kept {q : List Instr} {pe : Nat} {s : State} (h : Kept q s) :
    Ends q (execGoto pe s) := by
  unfold execGoto
  with_reducible
    repeat'
      first | assumption | apply State.completeAt_kept | apply State.instr_kept | apply ends_next | (intro)

theorem execLoop_kept {q : List Instr} {pe : Nat} {s : State} (h : Kept q s) :
    Ends q (execLoop pe s) := by
  unfold execLoop
  with_reducible
    repeat'
      first | assumption | apply State.loopAct_kept | apply State.instr_kept | apply ends_next | (intro)

theorem execCase_kept {q : List Instr} {pe : Nat} {s : State} (h : Kept q s) :
    Ends q (execCase pe s) := by
  unfold execCase
  with_reducible
    repeat'
      first | assumption | apply State.caseAct_kept | apply State.instr_kept | apply ends_next | (intro)

theorem execUntil_kept {q : List Instr} {pe : Nat} {s : State} (h : Kept q s) :
    Ends q (execUntil pe s) := by
  unfold execUntil
  with_reducible
    repeat'
      first | assumption | apply State.untilAct_kept | apply State.instr_kept | apply ends_next | (intro)

theorem execEmit_kept {q : List Instr} {pe : Nat} {steps : Nat} {s : State} (h : Kept q s) :
    Ends q (execEmit pe steps s) := by
  unfold execEmit
  with_reducible
    repeat'
      first | assumption | apply State.cellAct_kept | apply State.instr_kept | apply ends_next | (intro)

theorem execCapture_kept {q : List Instr} {pe : Nat} {steps : Nat} {s : State} (h : Kept q s) :
    Ends q (execCapture pe steps s) := by
  unfold execCapture
  with_reducible
    repeat'
      first | assumption | apply State.cellAct_kept | apply State.instr_kept | apply ends_next | (intro)

theorem execXchg_kept {q : List Instr} {pe : Nat} {steps : Nat} {s : State} (h : Kept q s) :
    Ends q (execXchg pe steps s) := by
  unfold execXchg
  with_reducible
    repeat'
      first | assumption | apply State.cellAct_kept | apply State.instr_kept | apply ends_next | (intro)

theorem execSample_kept {q : List Instr} {pe : Nat} {s : State} (h : Kept q s) :
    Ends q (execSample pe s) := by
  unfold execSample
  with_reducible
    repeat'
      first | assumption | apply State.sampleAct_kept | apply State.instr_kept | apply ends_next | (intro)

theorem execDrive_kept {q : List Instr} {pe : Nat} {s : State} (h : Kept q s) :
    Ends q (execDrive pe s) := by
  unfold execDrive
  with_reducible
    repeat'
      first | assumption | apply State.driveAct_kept | apply State.instr_kept | apply ends_next | (intro)

theorem execPost_kept {q : List Instr} {pe : Nat} {s : State} (h : Kept q s) :
    Ends q (execPost pe s) := by
  unfold execPost
  with_reducible
    repeat'
      first | assumption | apply State.postAct_kept | apply State.instr_kept | apply ends_next | (intro)

theorem execFetch_kept {q : List Instr} {pe : Nat} {s : State} (h : Kept q s) :
    Ends q (execFetch pe s) := by
  unfold execFetch
  with_reducible
    repeat'
      first | assumption | apply State.fetchAct_kept | apply State.instr_kept | apply ends_next | (intro)

theorem execCopy_kept {q : List Instr} {pe : Nat} {s : State} (h : Kept q s) :
    Ends q (execCopy pe s) := by
  unfold execCopy
  with_reducible
    repeat'
      first | assumption | apply State.copyAct_kept | apply State.instr_kept | apply ends_next | (intro)

theorem execSetk_kept {q : List Instr} {pe : Nat} {s : State} (h : Kept q s) :
    Ends q (execSetk pe s) := by
  unfold execSetk
  with_reducible
    repeat'
      first | assumption | apply State.setkAct_kept | apply State.instr_kept | apply ends_next | (intro)

theorem execCalc_kept {q : List Instr} {pe : Nat} {s : State} (h : Kept q s) :
    Ends q (execCalc pe s) := by
  unfold execCalc
  with_reducible
    repeat'
      first | assumption | apply State.calcAct_kept | apply State.instr_kept | apply ends_next | (intro)

theorem execFlag_kept {q : List Instr} {pe : Nat} {s : State} (h : Kept q s) :
    Ends q (execFlag pe s) := by
  unfold execFlag
  with_reducible
    repeat'
      first | assumption | apply State.flagAct_kept | apply State.instr_kept | apply ends_next | (intro)

theorem execAt_kept {q : List Instr} {pe : Nat} {s : State} (h : Kept q s) :
    Ends q (execAt pe s) := by
  unfold execAt
  with_reducible
    repeat'
      first | assumption | apply State.atAct_kept | apply State.instr_kept | apply ends_next | (intro)

theorem execStop_kept {q : List Instr} {pe : Nat} {s : State} (h : Kept q s) :
    Ends q (execStop pe s) := by
  unfold execStop
  with_reducible
    repeat'
      first | assumption | apply State.stopAct_kept | apply State.instr_kept | apply ends_next | (intro)

theorem execReservedOpcodeFetch_kept {q : List Instr} {pe : Nat} {ecc : Bool} {s : State} (h : Kept q s) :
    Ends q (execReservedOpcodeFetch pe ecc s) := by
  unfold execReservedOpcodeFetch
  with_reducible
    repeat'
      first | assumption | apply State.engineFault_kept | apply ends_next | apply ends_ite | (intro)

theorem execStallRelease_kept {q : List Instr} {pe : Nat} {steps : Nat} {s : State} (h : Kept q s) :
    Ends q (execStallRelease pe steps s) := by
  unfold execStallRelease
  with_reducible
    repeat'
      first | assumption | apply State.stepInstr_kept | apply ends_next | apply Kept.ite | (intro)

theorem execTimedAction_kept {q : List Instr} {pe : Nat} {s : State} (h : Kept q s) :
    Ends q (execTimedAction pe s) := by
  unfold execTimedAction
  with_reducible
    repeat'
      first | assumption | apply ends_next | apply ends_ite | apply State.taqCycle_kept | apply Kept.ite | (intro)

theorem engineStart_kept {q : List Instr} {e : Nat} {addr : Nat} {clrShift : Bool} {clrScr : Bool} {resume : Bool} {s : State}
    (h : Kept q s) :
    Kept q (engineStart e addr clrShift clrScr resume s).2 := by
  unfold engineStart
  with_reducible
    repeat'
      first | assumption | apply State.set_kept | apply State.setEng_kept | apply Kept.ite | apply Kept.ite_snd | (intro)

theorem engineStep_kept {q : List Instr} {e : Nat} {steps : Nat} {s : State} (h : Kept q s) :
    Kept q (engineStep e steps s) := by
  unfold engineStep
  with_reducible
    repeat'
      first | assumption | apply State.setEng_kept | apply State.set_kept | apply State.stepInstr_kept | apply Kept.ite | (intro)

theorem flushRx_kept {q : List Instr} {e : Nat} {s : State} (h : Kept q s) :
    Kept q (flushRx e s).2 := by
  unfold flushRx
  with_reducible
    repeat'
      first | assumption | apply State.setEng_kept | apply Kept.ite_snd | (intro)

theorem flushTx_kept {q : List Instr} {e : Nat} {s : State} (h : Kept q s) :
    Kept q (flushTx e s).2 := by
  unfold flushTx
  with_reducible
    repeat'
      first | assumption | apply State.setEng_kept | apply Kept.ite_snd | (intro)

theorem releaseEngine_kept {q : List Instr} {e : Nat} {s : State} (h : Kept q s) :
    Kept q (releaseEngine e s).2 := by
  unfold releaseEngine
  with_reducible
    repeat'
      first | assumption | apply State.setEnables_kept | apply Kept.ite_snd | (intro)

theorem flushTaq_kept {q : List Instr} {e : Nat} {s : State} (h : Kept q s) :
    Kept q (flushTaq e s) := by
  unfold flushTaq
  with_reducible
    repeat'
      first | assumption | apply State.setEng_kept | apply State.taqCycle_kept

theorem gstart_kept {q : List Instr} {reg : Nat} {mask : Nat} {s : State} (h : Kept q s) :
    Kept q (gstart reg mask s) := by
  unfold gstart
  with_reducible
    repeat'
      first | assumption | apply State.setEng_kept | apply State.set_kept | apply foldl_kept | extract_lets | split | (intro)

theorem ghalt_kept {q : List Instr} {reg : Nat} {mask : Nat} {s : State} (h : Kept q s) :
    Kept q (ghalt reg mask s) := by
  unfold ghalt
  with_reducible
    repeat'
      first | assumption | apply State.haltEngine_kept | apply foldl_kept

theorem feedDrain_kept {q : List Instr} {e : Nat} {s : State} (h : Kept q s) :
    Kept q (feedDrain e s) := by
  unfold feedDrain
  with_reducible
    repeat'
      first
        | assumption | apply State.setEng_kept | apply State.take_kept | apply State.onPio_kept | apply State.settle_kept
        | apply Kept.ite | split | (intro)

theorem txqWrite_kept {q : List Instr} {e : Nat} {w : Nat} {s : State} (h : Kept q s) :
    Kept q (txqWrite e w s).2 := by
  unfold txqWrite
  with_reducible
    repeat'
      first
        | assumption | apply feedDrain_kept | apply State.bump_kept | apply State.setEng_kept | apply Kept.ite | apply Kept.ite_snd
        | (intro)

theorem rxqRead_kept {q : List Instr} {e : Nat} {s : State} (h : Kept q s) :
    Kept q (rxqRead e s).2 := by
  unfold rxqRead
  with_reducible
    repeat'
      first | assumption | apply State.setEng_kept | apply State.set_kept | apply Kept.ite_snd | split | (intro)

theorem nextIaddr_kept {q : List Instr} {s : State} {e : Nat} (h : Kept q s) :
    Kept q (nextIaddr s e) := by
  unfold nextIaddr
  with_reducible
    repeat'
      first | assumption | apply State.set_kept

theorem idataWrite_kept {q : List Instr} {e : Nat} {w : Nat} {s : State} (h : Kept q s) :
    Kept q (idataWrite e w s).2 := by
  unfold idataWrite
  with_reducible
    repeat'
      first | assumption | apply State.onPio_kept | apply nextIaddr_kept | apply State.bump_kept | apply Kept.ite_snd | (intro)

theorem idataRead_kept {q : List Instr} {e : Nat} {s : State} (h : Kept q s) :
    Kept q (idataRead e s).2 := by
  unfold idataRead
  with_reducible
    repeat'
      first | assumption | apply nextIaddr_kept

theorem mailboxIn_kept {q : List Instr} {e : Nat} {k : Nat} {v : Nat} {s : State} (h : Kept q s) :
    Kept q (mailboxIn e k v s) := by
  unfold mailboxIn
  with_reducible
    repeat'
      first | assumption | apply State.set_kept

theorem mailboxBound_kept {q : List Instr} {e : Nat} {k : Nat} {s : State} (h : Kept q s) :
    Kept q (mailboxBound e k s) := by
  unfold mailboxBound
  with_reducible
    repeat'
      first
        | assumption | extract_lets | apply mailboxIn_kept | apply State.onEpo_kept | apply State.sinkOk_kept
        | (refine Kept.of_snd (by assumption) ?_) | apply Kept.ite | split | (intro)

theorem taqActWrite_kept {q : List Instr} {e : Nat} {w : Nat} {s : State} (h : Kept q s) :
    Kept q (taqActWrite e w s).2 := by
  unfold taqActWrite
  with_reducible
    repeat'
      first | assumption | apply State.addAction_kept | apply State.bump_kept | apply Kept.ite_snd | (intro)

theorem execFeedWindowDrain_kept {q : List Instr} {pe : Nat} {s : State} (h : Kept q s) :
    Ends q (execFeedWindowDrain pe s) := by
  unfold execFeedWindowDrain
  with_reducible
    repeat'
      first | assumption | apply ends_next | apply ends_ite | apply feedDrain_kept | apply Kept.ite | (intro)

end Sys2Proof.Machine
end

