-- ==== Sys2Proof/Laws/Twin.lean ====
section
/-! SUPPORT. The operations of Machine/Twin.lean leave the queue alone and keep the invariant of Safety.lean. -/
namespace Sys2Proof.Machine

theorem State.setRole_kept {q : List Instr} {s : State} {r : Nat} (h : Kept q s) :
    Kept q (State.setRole s r) := by
  unfold State.setRole
  with_reducible
    repeat'
      first | assumption | apply State.set_kept

theorem State.loseSync_kept {q : List Instr} {s : State} (h : Kept q s) :
    Kept q (State.loseSync s) := by
  unfold State.loseSync
  with_reducible
    repeat'
      first | assumption | apply State.set_kept | apply State.bump_kept | apply State.onTwn_kept

theorem State.noteSeq_kept {q : List Instr} {s : State} {n : Nat} (h : Kept q s) :
    Kept q (State.noteSeq s n) := by
  unfold State.noteSeq
  with_reducible
    repeat'
      first | assumption | apply State.onTwn_kept | apply State.loseSync_kept | apply Kept.ite | (intro)

theorem State.lastAt_kept {q : List Instr} {s : State} {cause : Nat} {unsync : Bool} {gap : Nat} (h : Kept q s) :
    Kept q (State.lastAt s cause unsync gap) := by
  unfold State.lastAt
  with_reducible
    repeat'
      first | assumption | apply State.setB_kept | apply State.set_kept

theorem State.declareFail_kept {q : List Instr} {s : State} {cause : Nat} (h : Kept q s) :
    Kept q (State.declareFail s cause) := by
  unfold State.declareFail
  with_reducible
    repeat'
      first
        | assumption | apply State.assertHold_kept | apply getD_kept | apply State.haltEngine_kept | apply State.onBrg_kept
        | apply State.onCan_kept | apply State.lastAt_kept | apply State.setRole_kept | apply Kept.ite | apply foldl_kept
        | apply foldl_fst_kept | apply foldl_snd_kept | (intro) | apply Kept.dlog

theorem execTws_kept {q : List Instr} {content : Nat} {s : State} (h : Kept q s) :
    Ends q (execTws content s) := by
  unfold execTws
  with_reducible
    repeat'
      first | assumption | apply State.set_kept | apply State.onTwn_kept | apply ends_next

theorem State.sendOrign_kept {q : List Instr} (n : Nat) {s : State} (h : Kept q s) : Kept q (State.sendOrign n s) := by
  induction n generalizing s with
  | zero => exact h
  | succ n ih =>
    unfold State.sendOrign
    split
    · exact h
    · exact ih (State.sendNote_kept (State.onTwn_kept h))

theorem State.nextNote_kept {q : List Instr} {s : State} (h : Kept q s) :
    Kept q (State.nextNote s).2 := by
  unfold State.nextNote
  with_reducible
    repeat'
      first | assumption | apply State.onTwn_kept

theorem State.sendDone_kept {q : List Instr} {s : State} (h : Kept q s) :
    Kept q (State.sendDone s) := by
  unfold State.sendDone
  with_reducible
    repeat'
      first | assumption | apply State.emit_kept | apply State.onTwn_kept | apply State.nextNote_kept

theorem State.sendLhist_kept {q : List Instr} {s : State} (h : Kept q s) :
    Kept q (State.sendLhist s) := by
  unfold State.sendLhist
  with_reducible
    repeat'
      first | assumption | apply State.emit_kept | apply State.onTwn_kept | apply State.nextNote_kept

theorem execTwsSend_kept {q : List Instr} {s : State} (h : Kept q s) :
    Ends q (execTwsSend s) := by
  unfold execTwsSend
  with_reducible
    repeat'
      first
        | assumption | apply State.sendLhist_kept | apply State.sendDone_kept | apply State.sendOrign_kept | apply State.onTwn_kept
        | apply State.emit_kept | apply ends_next | apply ends_ite | apply Kept.ite | (intro)

theorem execOrign_kept {q : List Instr} {f : Frame} {s : State} (h : Kept q s) :
    Ends q (execOrign f s) := by
  unfold execOrign
  with_reducible
    repeat'
      first
        | assumption | apply State.onRng_kept | apply State.take_kept | apply State.noteSeq_kept | apply ends_next | apply ends_ite
        | apply foldl_kept | (intro)

theorem State.applyDone_kept {q : List Instr} {s : State} {d : DoneItem} (h : Kept q s) :
    Kept q (State.applyDone s d) := by
  unfold State.applyDone
  with_reducible
    repeat'
      first
        | assumption | apply State.pushUpdate_kept | apply State.sinkOk_kept | apply State.pollBad_kept | apply State.pollGood_kept
        | apply State.setBus_kept | apply State.set_kept | apply State.setPoll_kept | apply State.setCanObj_kept | apply State.onTwn_kept
        | apply Kept.ite | extract_lets | split | (intro)

theorem execDone_kept {q : List Instr} {seq : Nat} {items : List DoneItem} {empty : List Nat} {s : State} (h : Kept q s) :
    Ends q (execDone seq items empty s) := by
  unfold execDone
  with_reducible
    repeat'
      first
        | assumption | apply State.applyDone_kept | apply State.onTwn_kept | apply State.noteSeq_kept | apply ends_next | apply ends_ite
        | apply foldl_kept | (intro)

theorem execLhist_kept {q : List Instr} {seq : Nat} {theirs : List (Nat × List LinkCtx)} {mine : List (Nat × List LinkCtx)} {s : State}
    (h : Kept q s) :
    Ends q (execLhist seq theirs mine s) := by
  unfold execLhist
  with_reducible
    repeat'
      first
        | assumption | apply State.onCry_kept | apply State.noteSeq_kept | apply State.onTwn_kept | apply ends_next | apply ends_ite
        | (intro)

theorem execHostf_kept {q : List Instr} {f : Frame} {s : State} (h : Kept q s) :
    Ends q (execHostf f s) := by
  unfold execHostf
  with_reducible
    repeat'
      first
        | assumption | apply State.hostFrame_kept | apply State.onTwn_kept | apply State.take_kept | apply State.noteSeq_kept
        | apply ends_next | apply ends_ite | split | (intro)

theorem execSyncRestore_kept {q : List Instr} {s : State} (h : Kept q s) :
    Ends q (execSyncRestore s) := by
  unfold execSyncRestore
  with_reducible
    repeat'
      first | assumption | apply State.set_kept | apply ends_next | apply ends_ite | (intro)

theorem execSequencerMismatch_kept {q : List Instr} {s : State} (h : Kept q s) :
    Ends q (execSequencerMismatch s) := by
  unfold execSequencerMismatch
  with_reducible
    repeat'
      first
        | assumption | apply State.bump_kept | apply State.assertHold_kept | apply State.declareFail_kept | apply ends_next
        | apply ends_ite | (intro)

theorem State.restartEngine_kept {q : List Instr} {s : State} {e : Nat} (h : Kept q s) :
    Kept q (State.restartEngine s e) := by
  unfold State.restartEngine
  with_reducible
    repeat'
      first | assumption | apply State.haltEngine_kept | apply engineStart_kept

theorem State.cutBus_kept {q : List Instr} {s : State} {b : Nat} {poll : Option Nat} (h : Kept q s) :
    Kept q (State.cutBus s b poll) := by
  unfold State.cutBus
  with_reducible
    repeat'
      first
        | assumption | apply State.touchLine_kept | apply State.onTwn_kept | apply State.setBus_kept | apply State.accessBad_kept
        | apply Kept.ite | split | (intro)

theorem State.cutCan_kept {q : List Instr} {s : State} {k : Nat} (h : Kept q s) :
    Kept q (State.cutCan s k) := by
  unfold State.cutCan
  with_reducible
    repeat'
      first | assumption | apply State.setCanObj_kept | apply Kept.ite | split | (intro)

theorem State.takeOver_kept {q : List Instr} {s : State} {veer : Bool} {gap : Nat} {cut : List (Nat × Option Nat)} {can : List Nat} (h : Kept q s) :
    Kept q (State.takeOver s veer gap cut can) := by
  unfold State.takeOver
  with_reducible
    repeat'
      first
        | assumption | apply State.cutBus_kept | apply State.restartEngine_kept | apply State.cutCan_kept | apply State.setCanCh_kept
        | apply State.restSignals_kept
        | apply State.set_kept | apply State.onFpn_kept | apply State.sendVw_kept | apply State.onEpo_kept | apply State.onTwn_kept
        | apply State.complete_kept | apply State.onRng_kept | apply State.bump_kept | apply State.lastAt_kept
        | apply State.releaseHold_kept | apply State.setRole_kept | apply State.draw_kept | apply Kept.ite | apply foldl_kept | (intro)

theorem execPartnerFail_kept {q : List Instr} {gap : Nat} {cut : List (Nat × Option Nat)} {can : List Nat} {s : State} (h : Kept q s) :
    Ends q (execPartnerFail gap cut can s) := by
  unfold execPartnerFail
  with_reducible
    repeat'
      first | assumption | apply State.takeOver_kept | apply State.set_kept | apply ends_next | apply Kept.ite | (intro)

theorem State.noteActi_kept {q : List Instr} {v : Bool} {s : State} (h : Kept q s) :
    Kept q (State.noteActi v s) := by
  unfold State.noteActi
  with_reducible
    repeat'
      first | assumption | apply State.setB_kept | apply State.onTwn_kept | apply Kept.ite | (intro)

theorem State.becomeStandby_kept {q : List Instr} {s : State} (h : Kept q s) :
    Kept q (State.becomeStandby s) := by
  unfold State.becomeStandby
  with_reducible
    repeat'
      first | assumption | apply State.setRole_kept | apply State.set_kept | apply State.onTwn_kept | apply Kept.ite | (intro)

theorem execPartnerActive_kept {q : List Instr} {s : State} (h : Kept q s) :
    Ends q (execPartnerActive s) := by
  unfold execPartnerActive
  with_reducible
    repeat'
      first
        | assumption | apply ends_next | apply ends_ite | apply State.noteActi_kept | apply State.releaseHold_kept | apply Kept.ite
        | (intro)

theorem execRoleDecide_kept {q : List Instr} {failI : Bool} {actI : Bool} {s : State} (h : Kept q s) :
    Ends q (execRoleDecide failI actI s) := by
  have h1 : Kept q ((s.setB F.TWN_STAT_FAILI 0 failI).noteActi actI) := State.noteActi_kept (State.setB_kept h)
  exact ends_ite (fun _ => ends_next (State.onTwn_kept h1)) fun _ =>
    ends_ite (fun _ => ends_next (State.onTwn_kept (State.becomeStandby_kept h1))) fun _ =>
      ends_ite (fun _ => ends_next (State.set_kept (State.setRole_kept h1))) fun _ => ends_next (State.onTwn_kept h1)

theorem execDoubleActive_kept {q : List Instr} {s : State} (h : Kept q s) :
    Ends q (execDoubleActive s) := by
  unfold execDoubleActive
  with_reducible
    repeat'
      first
        | assumption | apply ends_next | apply ends_ite | apply State.bump_kept | apply State.becomeStandby_kept | apply Kept.ite
        | (intro)

theorem State.sendVeer_kept {q : List Instr} {s : State} {op : Nat} {dst : Nat} {more : List Byte} (h : Kept q s) :
    Kept q (State.sendVeer s op dst more) := by
  unfold State.sendVeer
  with_reducible
    repeat'
      first | assumption | apply State.sendPosted_kept

theorem State.requestVeer_kept {q : List Instr} {s : State} (h : Kept q s) :
    Kept q (State.requestVeer s) := by
  unfold State.requestVeer
  with_reducible
    repeat'
      first | assumption | apply State.sendVeer_kept | apply State.set_kept | apply Kept.ite | (intro)

theorem twnCtl_kept {q : List Instr} {w : Nat} {s : State} (h : Kept q s) :
    Kept q (twnCtl w s).2 := by
  unfold twnCtl
  with_reducible
    repeat'
      first
        | assumption | apply State.requestVeer_kept | apply State.declareFail_kept | apply State.setB_kept | apply Kept.ite
        | apply Kept.ite_snd | (intro)

theorem execVeerreq_kept {q : List Instr} {f : Frame} {s : State} (h : Kept q s) :
    Ends q (execVeerreq f s) := by
  unfold execVeerreq
  with_reducible
    repeat'
      first
        | assumption | apply ends_next | apply ends_ite | apply mgtRequest_kept | apply State.sendVeer_kept | apply State.onTwn_kept
        | apply Kept.ite | (intro)

theorem execVeergo_kept {q : List Instr} {f : Frame} {s : State} (h : Kept q s) :
    Ends q (execVeergo f s) := by
  unfold execVeergo
  with_reducible
    repeat'
      first | assumption | apply ends_next | apply ends_ite | apply mgtRequest_kept | apply State.onTwn_kept | apply Kept.ite | (intro)

theorem execVeerno_kept {q : List Instr} {f : Frame} {s : State} (h : Kept q s) :
    Ends q (execVeerno f s) := by
  unfold execVeerno
  with_reducible
    repeat'
      first | assumption | apply ends_next | apply ends_ite | apply mgtRequest_kept | apply State.set_kept | apply Kept.ite | (intro)

theorem execVeerBusIdle_kept {q : List Instr} {gap : Nat} {cut : List (Nat × Option Nat)} {can : List Nat} {s : State} (h : Kept q s) :
    Ends q (execVeerBusIdle gap cut can s) := by
  unfold execVeerBusIdle
  with_reducible
    repeat'
      first
        | assumption | apply State.takeOver_kept | apply State.sendVeer_kept | apply State.onTwn_kept | apply State.setRole_kept
        | apply State.lastAt_kept | apply State.onBrg_kept | apply State.set_kept | apply State.bump_kept | apply ends_next
        | apply ends_ite | apply Kept.ite | (intro) | apply Kept.dlog

theorem execVeerdone_kept {q : List Instr} {f : Frame} {s : State} (h : Kept q s) :
    Ends q (execVeerdone f s) := by
  unfold execVeerdone
  with_reducible
    repeat'
      first | assumption | apply ends_next | apply ends_ite | apply mgtRequest_kept | apply State.onTwn_kept | apply Kept.ite | (intro)

theorem execRevertTimer_kept {q : List Instr} {s : State} (h : Kept q s) :
    Ends q (execRevertTimer s) := by
  unfold execRevertTimer
  with_reducible
    repeat'
      first | assumption | apply State.requestVeer_kept | apply ends_next | apply Kept.ite | (intro)

theorem execCutTransactionRedo_kept {q : List Instr} {bus : Nat} {s : State} (h : Kept q s) :
    Ends q (execCutTransactionRedo bus s) := by
  unfold execCutTransactionRedo
  with_reducible
    repeat'
      first
        | assumption | apply State.setBus_kept | apply State.startAccess_kept | apply State.startPoll_kept | apply State.onTwn_kept
        | apply State.bump_kept | apply ends_next | extract_lets | split | (intro)

end Sys2Proof.Machine
end

