-- ==== Sys2Proof/Laws/Cipher.lean ====
section
/-! SUPPORT. The operations of Machine/Cipher.lean leave the queue alone and keep the invariant of Safety.lean. -/
namespace Sys2Proof.Machine

theorem State.setPage_kept {q : List Instr} {s : State} {p : Nat} {v : Page} (h : Kept q s) :
    Kept q (State.setPage s p v) := by
  unfold State.setPage
  with_reducible
    repeat'
      first | assumption | apply State.onCry_kept

theorem State.eraseSlot_kept {q : List Instr} {s : State} {k : Nat} (h : Kept q s) :
    Kept q (State.eraseSlot s k) := by
  unfold State.eraseSlot
  with_reducible
    repeat'
      first | assumption | apply State.rewriteSlot_kept

theorem State.erasePage_kept {q : List Instr} {s : State} {p : Nat} (h : Kept q s) :
    Kept q (State.erasePage s p) := by
  unfold State.erasePage
  with_reducible
    repeat'
      first | assumption | apply State.eraseSlot_kept | apply foldl_kept | (intro)

theorem State.derive_kept {q : List Instr} {s : State} {k : Nat} {dev : Bool} {label : List Byte} {ctx : List Byte} (h : Kept q s) :
    Kept q (State.derive s k dev label ctx) := by
  unfold State.derive
  with_reducible
    repeat'
      first | assumption | apply State.onCry_kept | apply State.rewriteSlot_kept | apply State.eraseSlot_kept | apply Kept.ite | (intro)

theorem State.setPageBytes_kept {q : List Instr} {s : State} {f : Fld} {p : Nat} {l : List Byte} (h : Kept q s) :
    Kept q (State.setPageBytes s f p l) := by
  unfold State.setPageBytes
  with_reducible
    repeat'
      first | assumption | apply State.set_kept | apply foldl_kept | (intro)

theorem onPage_kept {q : List Instr} {f : Frame} {s : State} {g : Page → State → State.Res × State} (h : Kept q s)
    (hg : ∀ (p : Page) (t : State), Kept q t → Kept q (g p t).2) : Kept q (onPage f s g).2 := by
  unfold onPage
  split
  · exact h
  · exact Kept.ite_snd (fun _ => h) fun _ => hg _ s h

theorem kdWrite_kept {q : List Instr} {f : Frame} {s : State} (h : Kept q s) :
    Kept q (kdWrite f s).2 := by
  unfold kdWrite
  with_reducible
    repeat'
      first | assumption | apply State.derive_kept | apply State.eraseSlot_kept | apply onPage_kept | apply Kept.ite_snd | (intro)

theorem execDerivationDone_kept {q : List Instr} {slot : Nat} {s : State} (h : Kept q s) :
    Ends q (execDerivationDone slot s) := by
  unfold execDerivationDone
  with_reducible
    repeat'
      first | assumption | apply State.onCry_kept | apply ends_next | apply ends_ite | (intro)

theorem goWrite_kept {q : List Instr} {f : Frame} {s : State} (h : Kept q s) :
    Kept q (goWrite f s).2 := by
  unfold goWrite
  with_reducible
    repeat'
      first | assumption | apply State.setPage_kept | apply State.bump_kept | apply Kept.ite_snd | split | (intro)

theorem State.zeroRange_kept {q : List Instr} {s : State} {off : Nat} {len : Nat} (h : Kept q s) :
    Kept q (State.zeroRange s off len) := by
  unfold State.zeroRange
  with_reducible
    repeat'
      first | assumption | apply Kept.put_bulk | apply Kept.bulk | apply Mem.wf_writeN

theorem State.jobDone_kept {q : List Instr} {s : State} {j : Job} {result : Nat} {count : Nat} {st : Status} {chain : Option Chain}
    (h : Kept q s) :
    Kept q (State.jobDone s j result count st chain) := by
  unfold State.jobDone
  with_reducible
    repeat'
      first
        | assumption | apply State.postedError_kept | apply State.complete_kept | apply State.set_kept | apply State.setPage_kept
        | apply Kept.ite | split | (intro)

theorem State.jobEnd_kept {q : List Instr} {s : State} {j : Job} {key : List Byte} {fault : Bool} {blocks : Nat} (h : Kept q s) :
    Kept q (State.jobEnd s j key fault blocks) := by
  unfold State.jobEnd
  with_reducible
    repeat'
      first
        | assumption | apply State.bump_kept | apply State.jobDone_kept | apply State.zeroRange_kept | apply Kept.ite | (intro)
        | apply Kept.put_bulk | apply Kept.bulk | apply Mem.wf_writeN

theorem execLaJobStart_kept {q : List Instr} {s : State} (h : Kept q s) :
    Ends q (execLaJobStart s) := by
  unfold execLaJobStart
  with_reducible
    repeat'
      first
        | assumption | apply State.onCry_kept | apply State.bump_kept | apply State.jobDone_kept | apply ends_next | apply ends_ite
        | split | (intro)

theorem execLaJobEnd_kept {q : List Instr} {fault : Bool} {blocks : Nat} {s : State} (h : Kept q s) :
    Ends q (execLaJobEnd fault blocks s) := by
  unfold execLaJobEnd
  with_reducible
    repeat'
      first | assumption | apply State.onCry_kept | apply State.jobEnd_kept | apply ends_next | split

theorem ctxWrite_kept {q : List Instr} {f : Frame} {s : State} (h : Kept q s) :
    Kept q (ctxWrite f s).2 := by
  unfold ctxWrite
  with_reducible
    repeat'
      first
        | assumption | apply State.setPage_kept | apply State.setPageBytes_kept | apply State.draw_kept | apply State.set_kept
        | apply onPage_kept | (refine Kept.of_snd (by assumption) ?_) | apply foldl_snd_kept | extract_lets | split | (intro)

theorem State.cryRes_kept {q : List Instr} {s : State} {page : Nat} {result : Nat} (h : Kept q s) :
    Kept q (State.cryRes s page result) := by
  unfold State.cryRes
  with_reducible
    repeat'
      first | assumption | apply State.set_kept

theorem State.openPage_kept {q : List Instr} {s : State} {n : Nat} {hub : Nat} {init : Nat} {runtime : Bool} (h : Kept q s) :
    Kept q (State.openPage s n hub init runtime) := by
  unfold State.openPage
  with_reducible
    repeat'
      first | assumption | apply State.setPage_kept | apply State.erasePage_kept | apply State.onCry_kept

theorem pageAlloc_kept {q : List Instr} {hub : Nat} {init : Nat} {s : State} (h : Kept q s) :
    Kept q (pageAlloc hub init s).2 := by
  unfold pageAlloc
  with_reducible
    repeat'
      first | assumption | apply State.openPage_kept | apply State.cryRes_kept | apply State.bump_kept | extract_lets | split | (intro)

theorem pageFree_kept {q : List Instr} {n : Nat} {f : Frame} {s : State} (h : Kept q s) :
    Kept q (pageFree n f s).2 := by
  unfold pageFree
  with_reducible
    repeat'
      first
        | assumption | apply State.erasePage_kept | apply State.onCry_kept | apply State.cryRes_kept | apply Kept.ite_snd | split
        | (intro)

theorem State.moveEpoch_kept {q : List Instr} {s : State} {l : Lane} (h : Kept q s) :
    Kept q (State.moveEpoch s l) := by
  unfold State.moveEpoch
  with_reducible
    repeat'
      first
        | assumption | apply State.showEpoch_kept | apply State.deriveLink_kept | apply State.updCtx_kept | apply State.set_kept
        | apply State.onCry_kept | apply Kept.ite | split | (intro)

theorem epochRotate_kept {q : List Instr} {e : Bool} {w : Bool} {s : State} (h : Kept q s) :
    Kept q (epochRotate e w s) := by
  unfold epochRotate
  with_reducible
    repeat'
      first
        | assumption | apply State.moveEpoch_kept | apply State.onCry_kept | apply Kept.ite | apply foldl_kept | apply foldl_fst_kept
        | apply foldl_snd_kept | (intro)

theorem execEpochPeriod_kept {q : List Instr} {l : Lane} {s : State} (h : Kept q s) :
    Ends q (execEpochPeriod l s) := by
  unfold execEpochPeriod
  with_reducible
    repeat'
      first | assumption | apply State.moveEpoch_kept | apply ends_next | apply Kept.ite | (intro)

theorem State.dropOut_kept {q : List Instr} {s : State} (h : Kept q s) :
    Kept q (State.dropOut s) := by
  unfold State.dropOut
  with_reducible
    repeat'
      first
        | assumption | apply State.bypassDrive_kept | apply State.leaveUp_kept | apply State.set_kept | apply foldl_kept | split
        | (intro) | apply Kept.put_rng

theorem State.loseJobs_kept {q : List Instr} {s : State} (h : Kept q s) :
    Kept q (State.loseJobs s) := by
  unfold State.loseJobs
  with_reducible
    repeat'
      first
        | assumption | apply State.onCry_kept | apply foldl_kept | apply State.draw_kept | apply State.zeroRange_kept
        | apply State.bump_kept | apply State.jobDone_kept | apply Kept.ite | apply foldl_kept | apply foldl_fst_kept
        | apply foldl_snd_kept | (intro) | split

theorem State.eraseKeys_kept {q : List Instr} {s : State} (h : Kept q s) :
    Kept q (State.eraseKeys s) := by
  unfold State.eraseKeys
  with_reducible
    repeat'
      first | assumption | apply State.onCry_kept | apply State.eraseSlot_kept | apply foldl_kept

theorem State.squall_kept {q : List Instr} {s : State} (h : Kept q s) :
    Kept q (State.squall s) := by
  unfold State.squall
  with_reducible
    repeat'
      first
        | assumption | apply State.loseJobs_kept | apply State.eraseKeys_kept | apply State.dropOut_kept | apply State.set_kept
        | apply State.declareFail_kept

theorem execSquall_kept {q : List Instr} {source : Nat} {s : State} (h : Kept q s) :
    Ends q (execSquall source s) := by
  unfold execSquall
  with_reducible
    repeat'
      first
        | assumption | apply State.squall_kept | apply State.note_kept | apply State.set_kept | apply ends_next | apply ends_ite
        | apply Kept.ite | (intro)

theorem execTamperSample_kept {q : List Instr} {mask : Nat} {s : State} (h : Kept q s) :
    Ends q (execTamperSample mask s) := by
  unfold execTamperSample
  with_reducible
    repeat'
      first | assumption | apply State.eraseKeys_kept | apply State.set_kept | apply ends_next | apply ends_ite | (intro)

theorem fuseCmd_kept {q : List Instr} {w : Nat} {s : State} (h : Kept q s) :
    Kept q (fuseCmd w s).2 := by
  unfold fuseCmd
  with_reducible
    repeat'
      first | assumption | apply State.onCry_kept | apply State.set_kept | apply Kept.ite_snd | (intro)

theorem State.setFuseData_kept {q : List Instr} {s : State} {l : List Byte} (h : Kept q s) :
    Kept q (State.setFuseData s l) := by
  unfold State.setFuseData
  with_reducible
    repeat'
      first | assumption | apply State.set_kept | apply foldl_kept | (intro)

theorem State.onFuse_kept {q : List Instr} {s : State} {g : Fuses → Fuses} (h : Kept q s) :
    Kept q (State.onFuse s g) := by
  unfold State.onFuse
  with_reducible
    repeat'
      first | assumption | apply State.onCry_kept

theorem State.burn_kept {q : List Instr} {s : State} {op : Nat} {k : Nat} (h : Kept q s) :
    Kept q (State.burn s op k).2 := by
  unfold State.burn
  with_reducible
    repeat'
      first | assumption | apply State.onFuse_kept | apply Kept.ite_snd | split | (intro)

theorem State.showFuses_kept {q : List Instr} {s : State} (h : Kept q s) :
    Kept q (State.showFuses s) := by
  unfold State.showFuses
  with_reducible
    repeat'
      first | assumption | apply State.setB_kept | apply State.set_kept

theorem execFuseDone_kept {q : List Instr} {fault : Nat} {s : State} (h : Kept q s) :
    Ends q (execFuseDone fault s) := by
  unfold execFuseDone
  with_reducible
    repeat'
      first
        | assumption | apply State.setFuseData_kept | apply State.showFuses_kept | apply State.onCry_kept | apply State.set_kept
        | apply State.burn_kept | apply ends_next | apply Kept.ite_snd | split | (intro)

theorem cipherLoad_kept {q : List Instr} {s : State} (h : Kept q s) :
    Kept q (cipherLoad s) := by
  unfold cipherLoad
  with_reducible
    repeat'
      first | assumption | apply State.derive_kept | apply State.openPage_kept | apply State.onCry_kept | apply foldl_kept | (intro)

theorem cipherReset_kept {q : List Instr} {s : State} (h : Kept q s) :
    Kept q (cipherReset s) := by
  unfold cipherReset
  with_reducible
    repeat'
      first | assumption | apply State.bumpBy_kept | apply State.onCry_kept | apply State.eraseSlot_kept | apply foldl_kept

theorem fuseReload_kept {q : List Instr} {active : Bool} {s : State} (h : Kept q s) :
    Kept q (fuseReload active s) := by
  unfold fuseReload
  with_reducible
    repeat'
      first | assumption | apply State.setB_kept | apply State.onCry_kept | apply State.showFuses_kept

end Sys2Proof.Machine
end

