-- ==== Sys2Proof/Laws/Nvm.lean ====
section
/-! SUPPORT. The operations of Machine/Nvm.lean leave the queue alone and keep the invariant of Safety.lean. -/
namespace Sys2Proof.Machine

theorem State.setBoot_kept {q : List Instr} {s : State} {g : BootRec → BootRec} (h : Kept q s) :
    Kept q (State.setBoot s g) := by
  unfold State.setBoot
  with_reducible
    repeat'
      first | assumption | apply Kept.put_nvm | apply Kept.nvm | apply Mem.wf_writeN

theorem State.setInc_kept {q : List Instr} {s : State} {g : IncRec → IncRec} (h : Kept q s) :
    Kept q (State.setInc s g) := by
  unfold State.setInc
  with_reducible
    repeat'
      first | assumption | apply Kept.put_nvm | apply Kept.nvm | apply Mem.wf_writeN

theorem State.nextIncarnation_kept {q : List Instr} {s : State} (h : Kept q s) :
    Kept q (State.nextIncarnation s) := by
  unfold State.nextIncarnation
  with_reducible
    repeat'
      first | assumption | apply State.set_kept | apply State.setInc_kept

theorem State.showUpdates_kept {q : List Instr} {s : State} (h : Kept q s) :
    Kept q (State.showUpdates s) := by
  unfold State.showUpdates
  with_reducible
    repeat'
      first | assumption | apply State.set_kept | apply State.setB_kept

end Sys2Proof.Machine
end

