-- ==== Sys2Proof/Laws/Packer.lean ====
section
/-! SUPPORT. The operations of Machine/Packer.lean leave the queue alone and keep the invariant of Safety.lean. -/
namespace Sys2Proof.Machine

theorem State.setPk_kept {q : List Instr} {s : State} {k : Nat} {v : Packer} (h : Kept q s) :
    Kept q (State.setPk s k v) := by
  unfold State.setPk
  with_reducible
    repeat'
      first | assumption | apply State.onSwc_kept

theorem State.storeWord_kept {q : List Instr} {s : State} {k : Nat} {last : Bool} (h : Kept q s) :
    Kept q (State.storeWord s k last) := by
  unfold State.storeWord
  with_reducible
    repeat'
      first | assumption | apply State.setPk_kept

theorem State.packByte_kept {q : List Instr} {s : State} {k : Nat} {b : Byte} {last : Bool} (h : Kept q s) :
    Kept q (State.packByte s k b last) := by
  unfold State.packByte
  with_reducible
    repeat'
      first | assumption | apply State.storeWord_kept | apply State.bump_kept | apply State.setPk_kept | apply Kept.ite | (intro)

theorem State.packPad_kept {q : List Instr} (n : Nat) {s : State} {k : Nat} (h : Kept q s) : Kept q (State.packPad n s k) := by
  induction n generalizing s with
  | zero => exact h
  | succ n ih =>
    unfold State.packPad
    extract_lets
    apply Kept.ite
    · intro; exact h
    · intro
      apply ih
      apply Kept.ite
      · intro; exact State.storeWord_kept (State.setPk_kept h)
      · intro
        apply Kept.ite
        · intro; exact State.storeWord_kept (State.setPk_kept h)
        · intro; exact State.setPk_kept h

theorem State.readWords_kept {q : List Instr} {s : State} {k : Nat} {n : Nat} (h : Kept q s) :
    Kept q (State.readWords s k n) := by
  unfold State.readWords
  with_reducible
    repeat'
      first | assumption | apply State.setPk_kept

theorem State.packetTaken_kept {q : List Instr} {s : State} {k : Nat} {hd : Nat} (h : Kept q s) :
    Kept q (State.packetTaken s k hd) := by
  unfold State.packetTaken
  with_reducible
    repeat'
      first | assumption | apply State.updBuf_kept | apply State.setPk_kept | apply State.readWords_kept

theorem State.cutRead_kept {q : List Instr} {s : State} {k : Nat} (h : Kept q s) :
    Kept q (State.cutRead s k) := by
  unfold State.cutRead
  with_reducible
    repeat'
      first | assumption | apply State.updBuf_kept | apply State.setPk_kept | apply State.readWords_kept | split

theorem State.offerPacket_kept {q : List Instr} {n : Nat} {s : State} {k : Nat} (h : Kept q s) :
    Kept q (State.offerPacket n s k) := by
  induction n generalizing s with
  | zero => exact h
  | succ n ih =>
    unfold State.offerPacket
    have h1 : ∀ p f, Kept q ((s.setPk k p).sendWrite 6 f) := fun _ _ => State.sendWrite_kept (State.setPk_kept h)
    exact Kept.ite (fun _ => h) fun _ =>
      Kept.ite (fun _ => ih (State.packetTaken_kept (h1 _ _))) fun _ => State.onSwc_kept (h1 _ _)

theorem State.pkSettle_kept {q : List Instr} {s : State} {k : Nat} (h : Kept q s) :
    Kept q (State.pkSettle s k) :=
  State.offerPacket_kept (State.cutRead_kept (State.packPad_kept _ h))

theorem State.placeUnit_kept {q : List Instr} {s : State} {k : Nat} (h : Kept q s) :
    Kept q (State.placeUnit s k) := by
  unfold State.placeUnit
  with_reducible
    repeat'
      first
        | assumption | extract_lets | apply getD_kept | apply State.onPio_kept | apply State.packByte_kept
        | (refine Kept.of_snd (by assumption) ?_) | apply Kept.ite | apply foldl_kept | apply foldl_fst_kept | apply foldl_snd_kept
        | split | (intro)

theorem State.packUnit_kept {q : List Instr} {s : State} {k : Nat} (h : Kept q s) :
    Kept q (State.packUnit s k) := by
  unfold State.packUnit
  with_reducible
    repeat'
      first | assumption | apply State.placeUnit_kept | apply State.pkSettle_kept | apply Kept.ite | (intro)

theorem execPackerUnitWrite_kept {q : List Instr} {pe : Nat} {s : State} (h : Kept q s) :
    Ends q (execPackerUnitWrite pe s) := by
  unfold execPackerUnitWrite
  with_reducible
    repeat'
      first
        | assumption | apply State.bump_kept | apply State.pkSettle_kept | apply State.packUnit_kept | apply ends_next | apply ends_ite
        | (intro)

theorem execPackerStallRelease_kept {q : List Instr} {pe : Nat} {s : State} (h : Kept q s) :
    Ends q (execPackerStallRelease pe s) := by
  unfold execPackerStallRelease
  with_reducible
    repeat'
      first | assumption | apply State.packUnit_kept | apply State.pkSettle_kept | apply ends_next | apply Kept.ite | (intro)

theorem execPackerCtTimeout_kept {q : List Instr} {pe : Nat} {s : State} (h : Kept q s) :
    Ends q (execPackerCtTimeout pe s) := by
  unfold execPackerCtTimeout
  with_reducible
    repeat'
      first
        | assumption | apply State.setPk_kept | apply State.bump_kept | apply State.pkSettle_kept | apply ends_next | apply ends_ite
        | (intro)

theorem packerFlush_kept {q : List Instr} {k : Nat} {s : State} (h : Kept q s) :
    Kept q (packerFlush k s).2 := by
  unfold packerFlush
  with_reducible
    repeat'
      first | assumption | apply State.setPk_kept | apply Kept.ite_snd | (intro)

end Sys2Proof.Machine
end

