-- ==== Sys2Proof/Laws/Blocks.lean ====
section
/-! SUPPORT. The operations of Machine/Blocks.lean leave the queue alone and keep the invariant of Safety.lean. -/
namespace Sys2Proof.Machine

theorem State.clearBlock_kept {q : List Instr} {s : State} {b : Nat} (h : Kept q s) :
    Kept q (State.clearBlock s b) := by
  unfold State.clearBlock
  with_reducible
    repeat'
      first | assumption | apply State.setWord_kept | apply State.clearRegs_kept | apply foldl_kept | split | (intro)

theorem State.loseInbox_kept {q : List Instr} {s : State} {unit : Nat} (h : Kept q s) :
    Kept q (State.loseInbox s unit) := by
  unfold State.loseInbox
  with_reducible
    repeat'
      first | assumption | apply Kept.put_inbox

theorem State.losePort_kept {q : List Instr} {s : State} {port : Nat} (h : Kept q s) :
    Kept q (State.losePort s port) := by
  unfold State.losePort
  with_reducible
    repeat'
      first | assumption | apply State.loseInbox_kept | apply State.bumpBy_kept

theorem State.resetRng_kept {q : List Instr} {s : State} (h : Kept q s) :
    Kept q (State.resetRng s) := by
  unfold State.resetRng
  with_reducible
    repeat'
      first
        | assumption | apply State.setB_kept | apply State.nextIncarnation_kept | apply cipherReset_kept | apply State.showFuses_kept
        | apply State.bypassDrive_kept | apply State.bumpBy_kept | apply State.loseInbox_kept | apply State.losePort_kept
        | apply State.clearBlock_kept | apply State.dropOut_kept | apply Kept.put_rng

theorem State.resetSwc_kept {q : List Instr} {s : State} (h : Kept q s) : Kept q s.resetSwc := by
  have h1 : Kept q (s.clearBlock 2) := State.clearBlock_kept h
  exact State.bumpBy_kept ⟨h1.pend, h1.regs, Mem.wf_nil, h1.nvm, h1.vlog, h1.plog, h1.stage, h1.dlog, h1.alarms⟩

theorem State.resetTmq_kept {q : List Instr} {s : State} (h : Kept q s) :
    Kept q (State.resetTmq s) := by
  unfold State.resetTmq
  with_reducible
    repeat'
      first | assumption | apply State.clearBlock_kept | apply State.onTmq_kept

theorem State.resetEpo_kept {q : List Instr} {s : State} (h : Kept q s) :
    Kept q (State.resetEpo s) := by
  unfold State.resetEpo
  with_reducible
    repeat'
      first
        | assumption | apply State.clearBlock_kept | apply State.onEpo_kept | apply State.take_kept | apply State.onRfx_kept
        | apply State.bumpBy_kept | apply Kept.ite | (intro) | apply Kept.put_rfx | apply Kept.put_inbox | apply Kept.alarms

theorem State.resetFpn_kept {q : List Instr} {s : State} (h : Kept q s) :
    Kept q (State.resetFpn s) := by
  unfold State.resetFpn
  with_reducible
    repeat'
      first | assumption | apply State.set_kept | apply State.clearBlock_kept | apply State.onFpn_kept | apply foldl_kept | (intro)

theorem State.resetPio_kept {q : List Instr} {s : State} (h : Kept q s) :
    Kept q (State.resetPio s) := by
  unfold State.resetPio
  with_reducible
    repeat'
      first
        | assumption | apply State.clearBlock_kept | apply State.onPio_kept | apply State.bumpBy_kept | apply State.redriveAll_kept
        | apply Kept.ite | (intro)

theorem State.resetCan_kept {q : List Instr} {s : State} (h : Kept q s) :
    Kept q (State.resetCan s) := by
  unfold State.resetCan
  with_reducible
    repeat'
      first
        | assumption | apply State.onEpo_kept | apply State.clearBlock_kept | apply State.unlock_kept | apply State.bumpBy_kept
        | apply State.restSignals_kept | apply Kept.ite | (intro) | apply Kept.put_can

theorem State.resetBridge_kept {q : List Instr} {s : State} {b : Nat} (h : Kept q s) :
    Kept q (State.resetBridge s b) := by
  unfold State.resetBridge
  with_reducible
    repeat'
      first
        | assumption | apply bridgeReset_kept | apply State.clearBlock_kept | apply State.restSignals_kept | apply State.set_kept
        | apply Kept.ite | (intro)

theorem State.resetTim_kept {q : List Instr} {s : State} (h : Kept q s) :
    Kept q (State.resetTim s) := by
  unfold State.resetTim
  with_reducible
    repeat'
      first | assumption | apply State.loseInbox_kept | apply State.clearBlock_kept | apply Kept.put_tim

theorem State.resetPhs_kept {q : List Instr} {s : State} (h : Kept q s) :
    Kept q (State.resetPhs s) := by
  unfold State.resetPhs
  with_reducible
    repeat'
      first | assumption | apply State.loseInbox_kept | apply State.clearBlock_kept | apply State.bumpBy_kept | apply Kept.put_phs

theorem State.resetRfx_kept {q : List Instr} {s : State} (h : Kept q s) :
    Kept q (State.resetRfx s) := by
  unfold State.resetRfx
  with_reducible
    repeat'
      first | assumption | apply State.clearBlock_kept | apply State.set_kept | apply State.losePort_kept | apply rfxReset_kept

theorem State.resetHst_kept {q : List Instr} {s : State} (h : Kept q s) :
    Kept q (State.resetHst s) := by
  unfold State.resetHst
  with_reducible
    repeat'
      first
        | assumption | apply State.losePort_kept | apply State.clearBlock_kept | apply State.bumpBy_kept | apply Kept.ite
        | apply foldl_kept | apply foldl_fst_kept | apply foldl_snd_kept | (intro) | apply Kept.put_hst | apply Kept.put_recs

theorem State.resetBlock_kept {q : List Instr} {s : State} {b : Nat} (h : Kept q s) :
    Kept q (State.resetBlock s b) := by
  unfold State.resetBlock
  with_reducible
    repeat'
      first
        | assumption | apply State.clearBlock_kept | apply State.resetHst_kept | apply State.resetRfx_kept | apply State.resetPhs_kept
        | apply State.resetTim_kept | apply State.resetBridge_kept | apply State.resetCan_kept | apply State.resetPio_kept
        | apply State.resetFpn_kept | apply State.resetEpo_kept | apply State.resetTmq_kept | apply State.resetSwc_kept
        | apply State.resetRng_kept | split

theorem State.fillBlock_kept {q : List Instr} {s t : State} {b : Nat} (h : Kept q s) : Kept q (s.fillBlock t b) := by
  unfold State.fillBlock
  split
  · exact State.onTmq_kept h
  · exact State.onEpo_kept h
  · exact State.onPio_kept h
  · exact State.onCan_kept h
  · exact h

theorem State.zeroEngines_kept {q : List Instr} {s : State} (h : Kept q s) :
    Kept q (State.zeroEngines s) :=
  Kept.put_regs h _ (Tbl.rising_filter h.regs _)

theorem State.startEngines_kept {q : List Instr} {s : State} (h : Kept q s) :
    Kept q (State.startEngines s) := by
  have h1 : Kept q (s.onPio fun p => { p with eng := [], feeds := [] }).zeroEngines.redriveAll :=
    State.redriveAll_kept (State.zeroEngines_kept (State.onPio_kept h))
  refine foldl_kept _ (fun t e hk => ?_) h1
  exact Kept.ite (fun _ => engineStart_kept (State.set_kept hk)) fun _ => State.set_kept hk

theorem State.startPins_kept {q : List Instr} {s : State} (h : Kept q s) :
    Kept q (State.startPins s) := by
  unfold State.startPins
  with_reducible
    repeat'
      first
        | assumption | apply State.onFpn_kept | apply State.startWires_kept | apply State.setPin_kept | apply State.redrive_kept
        | apply Kept.ite | apply foldl_kept | apply foldl_fst_kept | apply foldl_snd_kept | (intro)

theorem State.startBlock_kept {q : List Instr} {s : State} {b : Nat} (h : Kept q s) :
    Kept q (State.startBlock s b) := by
  unfold State.startBlock
  with_reducible
    repeat'
      first
        | assumption | apply State.startPins_kept | apply State.startEngines_kept | apply State.set_kept | apply State.canEnter_kept
        | apply pollInit_kept | apply bridgeRestart_kept | apply State.onTim_kept | apply cipherLoad_kept | apply Kept.ite
        | apply foldl_kept | apply foldl_fst_kept | apply foldl_snd_kept | split | (intro)

end Sys2Proof.Machine
end

