-- ==== Sys2Proof/Laws/Switch.lean ====
section
/-! SUPPORT. The operations of Machine/Switch.lean leave the queue alone and keep the invariant of Safety.lean. -/
namespace Sys2Proof.Machine

theorem State.police_kept {q : List Instr} {s : State} {port : Nat} {f : Frame} (h : Kept q s) :
    Kept q (State.police s port f).2 := by
  unfold State.police
  with_reducible
    repeat'
      first | assumption | apply State.onTmq_kept | apply State.bump_kept | apply Kept.ite_snd | split | (intro)

theorem State.sampleHead_kept {q : List Instr} {s : State} {port : Nat} {f : Frame} {hd : Nat} {v : Verdict} (h : Kept q s) :
    Kept q (State.sampleHead s port f hd v) := by
  unfold State.sampleHead
  with_reducible
    repeat'
      first | assumption | apply State.onSwc_kept | apply Kept.ite | (intro)

theorem State.numberFrame_kept {q : List Instr} {s : State} {f : Frame} (h : Kept q s) :
    Kept q (State.numberFrame s f).2 := by
  unfold State.numberFrame
  with_reducible
    repeat'
      first | assumption | apply State.nextSeq_kept | (refine Kept.of_snd (by assumption) ?_) | apply Kept.ite_snd | (intro)

theorem State.enter_kept {q : List Instr} {s : State} {hd : Nat} {port : Nat} {f : Frame} {pool : Pool} {verdict : Verdict} {undecided : Bool} {transit : Bool} {denied : List Nat} (h : Kept q s) :
    Kept q (State.enter s hd port f pool verdict undecided transit denied) := by
  unfold State.enter
  with_reducible
    repeat'
      first | assumption | apply State.onSwc_kept | apply getD_kept | apply Kept.ite | split | (intro)

theorem State.refuseHead_kept {q : List Instr} {s : State} {port : Nat} {f : Frame} (h : Kept q s) :
    Kept q (State.refuseHead s port f) := by
  unfold State.refuseHead
  with_reducible
    repeat'
      first | assumption | apply State.bump_kept | apply State.capture_kept | apply State.giveBack_kept | apply Kept.ite | (intro)

theorem State.ringHead_kept {q : List Instr} {s : State} {o : Offer} (h : Kept q s) :
    Kept q (State.ringHead s o) := by
  unfold State.ringHead
  with_reducible
    repeat'
      first
        | assumption | apply State.deliver_kept | apply State.enter_kept | apply State.linkQ_kept | apply State.denyLocal_kept
        | apply State.refuseHead_kept | apply Kept.ite | (intro)

theorem State.ownHead_kept {q : List Instr} {s : State} {o : Offer} (h : Kept q s) :
    Kept q (State.ownHead s o) := by
  unfold State.ownHead
  extract_lets laneT mute
  split
  rename_i f u e
  have hu : Kept q u := Kept.of_snd e (Kept.ite_snd (fun _ => h) fun _ => Kept.ite_snd (fun _ => h) fun _ => State.numberFrame_kept h)
  extract_lets hd s1 ring l1 locals lanes own finish s2 rings missed s3
  have h1 : Kept q s1 := Kept.ite (fun _ => hu) fun _ => State.onRng_kept hu
  have h2 : Kept q s2 := Kept.ite (fun _ => foldl_kept _ (fun _ _ ht => State.bump_kept ht) h1) fun _ => h1
  have hf : ∀ (t : State) (p : Pool) (r d m : List Nat), Kept q t → Kept q (finish t p r d m) := fun t p r d m ht => by
    unfold finish
    extract_lets a b c fst
    have hb : Kept q b := foldl_kept r (fun _ _ hx => State.linkQ_kept hx) (State.enter_kept ht)
    have hc : Kept q c := by
      refine Kept.ite (fun _ => State.deliver_kept hb) fun _ => Kept.ite (fun _ => State.release_kept hb) fun _ => State.linkLocal_kept hb
    clear_value c
    exact Kept.ite (fun _ => hc) fun _ => State.capture_kept hc
  clear_value finish s1 s2
  refine Kept.ite (fun _ => h1) fun _ => Kept.ite (fun _ => State.refuseHead_kept h1) fun _ => Kept.ite (fun _ => hf _ _ _ _ _ h2) fun _ => ?_
  split
  rename_i d v e
  have hv : Kept q v := Kept.of_snd e (Kept.ite_snd (fun _ => h2) fun _ => State.denyLocal_kept h2)
  exact Kept.ite (fun _ => hf _ _ _ _ _ (foldl_kept _ (fun _ _ ht => State.bump_kept ht) hv)) fun _ => State.refuseHead_kept hv

theorem execSwitchIngressHead_kept {q : List Instr} {port : Nat} {s : State} (h : Kept q s) :
    Ends q (execSwitchIngressHead port s) := by
  unfold execSwitchIngressHead
  with_reducible
    repeat'
      first
        | assumption | apply ends_next | apply ends_ite | apply State.onSwc_kept | apply State.packetTaken_kept
        | apply State.pkSettle_kept | apply State.sampleHead_kept | apply State.police_kept | apply State.refuseHead_kept
        | apply State.ringHead_kept | apply State.ownHead_kept | apply Kept.ite | split | (intro)

theorem State.charge_kept {q : List Instr} {s : State} {q' : Nat} {f : Frame} (h : Kept q s) :
    Kept q (State.charge s q' f) := by
  unfold State.charge
  with_reducible
    repeat'
      first | assumption | apply State.onTmq_kept | apply Kept.ite | (intro)

theorem State.takeCell_kept {q : List Instr} {s : State} {out : Nat} {c : Cand} {errs : List (Nat × Bool)} (h : Kept q s) :
    Kept q (State.takeCell s out c errs) := by
  unfold State.takeCell
  with_reducible
    repeat'
      first
        | assumption | apply State.onSwc_kept | apply State.unlinkQ_kept | apply State.bump_kept | apply State.release_kept
        | apply State.spend_kept | apply State.charge_kept | apply getD_kept | apply State.set_kept | apply State.updBuf_kept
        | apply State.endBad_kept | apply Kept.ite | split | (intro)

theorem State.deliverMgt_kept {q : List Instr} {s : State} {f : Frame} (h : Kept q s) :
    Kept q (State.deliverMgt s f) := by
  unfold State.deliverMgt
  with_reducible
    repeat'
      first
        | assumption | apply State.onMgt_kept | apply State.answer_kept | apply State.deliver_kept | apply Kept.ite | (intro)
        | apply Kept.stage

theorem State.copyDone_kept {q : List Instr} {s : State} {out : Nat} {hd : Nat} (h : Kept q s) :
    Kept q (State.copyDone s out hd) := by
  unfold State.copyDone
  with_reducible
    repeat'
      first
        | assumption | apply State.outgoing_kept | apply State.emit_kept | apply State.hostOut_kept | apply State.bump_kept
        | apply State.deliverMgt_kept | apply State.deliver_kept | apply State.capture_kept | apply State.release_kept | apply Kept.ite
        | split | (intro)

theorem State.fillWord_kept {q : List Instr} {s : State} {out : Nat} (h : Kept q s) :
    Kept q (State.fillWord s out) := by
  unfold State.fillWord
  with_reducible
    repeat'
      first | assumption | apply State.emit_kept | apply State.bump_kept | apply State.onLane_kept | apply Kept.ite | (intro)

theorem State.drainPath_kept {q : List Instr} {s : State} {path : Nat} (h : Kept q s) :
    Kept q (State.drainPath s path) := by
  unfold State.drainPath
  with_reducible
    repeat'
      first
        | assumption | apply State.fillWord_kept | apply getD_kept | apply State.onSwc_kept | apply State.onLane_kept
        | apply State.copyDone_kept | apply State.resume_kept | apply Kept.ite | split | (intro) | apply Kept.put_out

theorem State.sendCtl_kept {q : List Instr} {s : State} {l : Lane} (h : Kept q s) :
    Kept q (State.sendCtl s l) := by
  unfold State.sendCtl
  with_reducible
    repeat'
      first
        | assumption | apply State.spend_kept | apply State.charge_kept | apply State.onSwc_kept | apply State.onLane_kept
        | apply State.laneOut_kept | apply Kept.ite | split | (intro) | apply Kept.put_out

theorem State.writeCell_kept {q : List Instr} {s : State} {banks : List Nat} {port : Nat} (h : Kept q s) :
    Kept q (State.writeCell s banks port).1 := by
  unfold State.writeCell
  with_reducible
    repeat'
      first
        | assumption | extract_lets | apply State.onSwc_kept | apply State.updBuf_kept | apply State.release_kept
        | (refine Kept.of_snd (by assumption) ?_) | apply Kept.ite | split | (intro)

theorem execCellSlot_kept {q : List Instr} {errs : List (Nat × Bool)} {s : State} (h : Kept q s) :
    Ends q (execCellSlot errs s) := by
  unfold execCellSlot
  with_reducible
    repeat'
      first
        | assumption | apply ends_next | apply ends_ite | apply State.onTmq_kept | apply State.drainPath_kept | apply State.sendCtl_kept
        | apply State.takeCell_kept | apply State.onSwc_kept | apply foldl_kept | apply State.writeCell_kept | apply Kept.ite
        | apply foldl_kept | apply foldl_fst_kept | apply foldl_snd_kept | (intro)

theorem execBufferScrub_kept {q : List Instr} {err : Nat} {s : State} (h : Kept q s) :
    Ends q (execBufferScrub err s) := by
  unfold execBufferScrub
  with_reducible
    repeat'
      first | assumption | apply State.onSwc_kept | apply State.bump_kept | apply ends_next | apply Kept.ite | (intro)

theorem execBufferFillDone_kept {q : List Instr} {s : State} (h : Kept q s) :
    Ends q (execBufferFillDone s) := by
  unfold execBufferFillDone
  with_reducible
    repeat'
      first | assumption | apply State.onSwc_kept | apply ends_next

theorem execLocalQueueRoom_kept {q : List Instr} {q' : Nat} {s : State} (h : Kept q s) :
    Ends q (execLocalQueueRoom q' s) := by
  unfold execLocalQueueRoom
  with_reducible
    repeat'
      first
        | assumption | apply ends_next | apply ends_ite | apply State.updBuf_kept | apply State.linkQ_kept | apply State.onSwc_kept
        | apply Kept.ite | split | (intro)

theorem execAonLink_kept {q : List Instr} {hd : Nat} {s : State} (h : Kept q s) :
    Ends q (execAonLink hd s) := by
  unfold execAonLink
  with_reducible
    repeat'
      first
        | assumption | apply ends_next | apply ends_ite | apply State.updBuf_kept | apply State.onSwc_kept | apply State.bump_kept
        | apply State.release_kept | apply State.linkQ_kept | apply Kept.ite | apply foldl_kept | apply foldl_fst_kept
        | apply foldl_snd_kept | split | (intro)

theorem execSampleSend_kept {q : List Instr} {s : State} (h : Kept q s) :
    Ends q (execSampleSend s) := by
  unfold execSampleSend
  with_reducible
    repeat'
      first
        | assumption | apply ends_next | apply ends_ite | apply State.onSwc_kept | apply State.onRng_kept | apply State.sampleHead_kept
        | apply State.police_kept | apply State.enter_kept | apply State.linkQ_kept | apply State.capture_kept | apply State.bump_kept
        | apply State.refuseHead_kept | apply Kept.ite | split | (intro)

theorem captureRestart_kept {q : List Instr} {s : State} (h : Kept q s) :
    Kept q (captureRestart s) := by
  unfold captureRestart
  with_reducible
    repeat'
      first | assumption | apply State.onSwc_kept | apply State.set_kept | apply Kept.ite | (intro)

theorem State.inForceNow_kept {q : List Instr} {s : State} {p : Nat → Bool} (h : Kept q s) :
    Kept q (State.inForceNow s p) := by
  unfold State.inForceNow
  with_reducible
    repeat'
      first | assumption | apply State.onTmq_kept | apply Kept.ite | (intro)

theorem tickShaper_kept {q : List Instr} {s : State} {q' : Nat} (h : Kept q s) :
    Kept q (tickShaper s q') := by
  unfold tickShaper
  with_reducible
    repeat'
      first | assumption | apply getD_kept | apply State.onTmq_kept | apply Kept.ite | (intro)

theorem execShaperTick_kept {q : List Instr} {s : State} (h : Kept q s) :
    Ends q (execShaperTick s) := by
  unfold execShaperTick
  with_reducible
    repeat'
      first
        | assumption | apply ends_next | apply ends_ite | apply tickShaper_kept | apply State.inForceNow_kept | apply Kept.ite
        | apply foldl_kept | apply foldl_fst_kept | apply foldl_snd_kept | (intro)

theorem execPolicerTick_kept {q : List Instr} {s : State} (h : Kept q s) :
    Ends q (execPolicerTick s) := by
  unfold execPolicerTick
  with_reducible
    repeat'
      first
        | assumption | apply ends_next | apply ends_ite | apply State.inForceNow_kept | apply State.onTmq_kept | apply Kept.ite
        | (intro)

theorem State.retime_kept {q : List Instr} {s t : State} (h : Kept q t) : Kept q (s.retime t) :=
  foldl_kept _ (fun _ _ hk => Kept.ite (fun _ => State.onTmq_kept hk) fun _ => hk) h

theorem policerAlloc_kept {q : List Instr} {key : Nat} {s : State} (h : Kept q s) :
    Kept q (policerAlloc key s).2 := by
  unfold policerAlloc
  with_reducible
    repeat'
      first
        | assumption | extract_lets | apply State.set_kept | apply State.bump_kept | apply State.onTmq_kept
        | apply State.inForceNow_kept | (refine Kept.of_snd (by assumption) ?_) | apply Kept.ite | apply Kept.ite_snd | split | (intro)

theorem State.unmapKeys_kept {q : List Instr} {i : Nat} {ks : List Nat} {s : State} (h : Kept q s) :
    Kept q (s.unmapKeys i ks) := by
  unfold State.unmapKeys
  with_reducible
    repeat'
      first | assumption | apply State.set_kept | apply Kept.ite | apply foldl_kept | (intro)

theorem policerFree_kept {q : List Instr} {i : Nat} {s : State} (h : Kept q s) :
    Kept q (policerFree i s) := by
  unfold policerFree
  with_reducible
    repeat'
      first | assumption | apply State.set_kept | apply State.onTmq_kept | apply Kept.ite | apply State.unmapKeys_kept | (intro)

end Sys2Proof.Machine
end

