-- ==== Sys2Proof/Laws/Image.lean ====
section
/-! SUPPORT. The operations of Machine/Image.lean leave the queue alone and keep the invariant of Safety.lean. -/
namespace Sys2Proof.Machine

theorem State.recNow_kept {q : List Instr} {s : State} {producer : Nat} {r : HistRec} (h : Kept q s) :
    Kept q (State.recNow s producer r) := by
  unfold State.recNow
  with_reducible
    repeat'
      first | assumption | apply State.record_kept | apply Kept.ite | (intro)

theorem State.hstWarn_kept {q : List Instr} {s : State} (h : Kept q s) :
    Kept q (State.hstWarn s) := by
  unfold State.hstWarn
  with_reducible
    repeat'
      first | assumption | apply State.setInc_kept | apply Kept.ite | (intro) | apply Kept.put_hst

theorem State.requestReset_kept {q : List Instr} {s : State} {level : Nat} {cause : Nat} (h : Kept q s) :
    Kept q (State.requestReset s level cause) := by
  unfold State.requestReset
  with_reducible
    repeat'
      first | assumption | apply State.hstWarn_kept | apply State.declareFail_kept | apply Kept.ite | (intro) | apply Kept.put_ckr

theorem State.restoreSlots_kept {q : List Instr} {s : State} {cause : Nat} (h : Kept q s) :
    Kept q (State.restoreSlots s cause) := by
  unfold State.restoreSlots
  with_reducible
    repeat'
      first
        | assumption | apply State.onMgt_kept | apply State.set_kept | apply State.showUpdates_kept | apply State.note_kept
        | apply State.setBoot_kept | apply Kept.stage

theorem State.beginLoad_kept {q : List Instr} {s : State} (h : Kept q s) :
    Kept q (State.beginLoad s) := by
  unfold State.beginLoad
  with_reducible
    repeat'
      first
        | assumption | apply State.insertWrite_kept | apply State.onFpn_kept | apply State.onImg_kept | apply State.set_kept
        | apply Kept.ite | (intro)

theorem State.fallBack_kept {q : List Instr} {s : State} {cause : Nat} (h : Kept q s) :
    Kept q (State.fallBack s cause) := by
  unfold State.fallBack
  with_reducible
    repeat'
      first
        | assumption | apply State.beginLoad_kept | apply State.requestReset_kept | apply State.restoreSlots_kept | apply Kept.ite
        | (intro)

theorem State.patchRegs_kept {q : List Instr} {s : State} {img : Map Word} {set : Map Nat} (h : Kept q s) : Kept q
    (s.patchRegs img set) := by
  unfold State.patchRegs
  extract_lets one
  exact (h.put_regs _ (Tbl.rising_map h.regs one fun p => by show (one p).1 = _; simp only [one]; split <;> rfl)).put_imgRegs _

theorem State.patchOverlay_kept {q : List Instr} {s : State} {img : Map Word} (h : Kept q s) :
    Kept q (State.patchOverlay s img) := by
  unfold State.patchOverlay
  extract_lets one
  exact State.retime_kept
    ((h.put_regs _ (Tbl.rising_map h.regs one fun p => by show (one p).1 = _; simp only [one]; split <;> rfl)).put_imgRegs _)

theorem State.clipPolls_kept {q : List Instr} {s : State} (h : Kept q s) :
    Kept q (State.clipPolls s) := by
  unfold State.clipPolls
  with_reducible
    repeat'
      first
        | assumption | apply State.pollDue_kept | apply State.set_kept | apply State.setPoll_kept | apply foldl_kept | extract_lets
        | split | (intro)

theorem State.applyMode_kept {q : List Instr} {s : State} {m : Nat} (h : Kept q s) :
    Kept q (State.applyMode s m) := by
  unfold State.applyMode
  with_reducible
    repeat'
      first
        | assumption | apply State.setB_kept | apply State.clipPolls_kept | apply State.set_kept | apply State.patchOverlay_kept
        | apply State.onImg_kept

theorem State.applyEntries_kept {q : List Instr} {s : State} {r : State.SetRec} {p : Nat → Bool} (h : Kept q s) :
    Kept q (State.applyEntries s r p).1 := by
  unfold State.applyEntries
  with_reducible
    repeat'
      first | assumption | apply State.setWord_kept | apply foldl_fst_kept | split | (intro)

theorem State.applySettings_kept {q : List Instr} {s : State} (h : Kept q s) :
    Kept q (State.applySettings s).1 := by
  unfold State.applySettings
  with_reducible
    repeat'
      first | assumption | apply State.applyEntries_kept | apply State.set_kept | split

theorem State.bankCheck_kept {q : List Instr} {s : State} {vio : List Nat} (h : Kept q s) :
    Kept q (State.bankCheck s vio) := by
  unfold State.bankCheck
  with_reducible
    repeat'
      first
        | assumption | apply State.set_kept | apply State.note_kept | apply State.setB_kept | apply State.onFpn_kept | apply foldl_kept
        | extract_lets | split | (intro)

theorem State.loadImage_kept {q : List Instr} {s : State} {slot : Nat} {d : Loader} {vio : List Nat} (h : Kept q s) :
    Kept q (State.loadImage s slot d vio) := by
  unfold State.loadImage
  with_reducible
    repeat'
      first
        | assumption | apply State.note_kept | apply State.startBlock_kept | apply State.bankCheck_kept | apply State.applyMode_kept
        | apply State.applySettings_kept | apply State.setB_kept | apply State.set_kept | apply rfxClear_kept | apply State.onImg_kept
        | apply State.resetSwc_kept | apply State.patchRegs_kept | apply Kept.ite | apply foldl_kept | extract_lets
        | (fail_if_no_progress conv => arg 2; whnf) | split | (intro) | dsimp only | apply Kept.of_parts | apply Kept.pend
        | apply Kept.vlog | apply Kept.plog | apply Kept.stage | apply Kept.dlog | apply Kept.alarms | apply Kept.regs | apply Kept.bulk
        | apply Kept.nvm

theorem State.rejectImage_kept {q : List Instr} {s : State} {slot : Nat} {reason : Nat} (h : Kept q s) :
    Kept q (State.rejectImage s slot reason) := by
  unfold State.rejectImage
  with_reducible
    repeat'
      first | assumption | apply State.note_kept | apply State.set_kept | apply State.bump_kept

theorem State.enterDoldrums_kept {q : List Instr} {s : State} {dsrc : Nat} (h : Kept q s) :
    Kept q (State.enterDoldrums s dsrc) := by
  unfold State.enterDoldrums
  with_reducible
    repeat'
      first | assumption | apply State.note_kept | apply State.set_kept

theorem State.convertSettings_kept {q : List Instr} {s : State} {new : Loader} (h : Kept q s) :
    Kept q (State.convertSettings s new) := by
  unfold State.convertSettings
  with_reducible
    repeat'
      first | assumption | apply State.set_kept | split | apply Kept.put_nvm | apply Kept.nvm | apply Mem.wf_writeN

theorem State.activateNow_kept {q : List Instr} {s : State} (h : Kept q s) :
    Kept q (State.activateNow s) := by
  unfold State.activateNow
  with_reducible
    repeat'
      first
        | assumption | apply State.beginLoad_kept | apply State.onMgt_kept | apply State.setBoot_kept | apply State.showUpdates_kept
        | apply State.convertSettings_kept | split | apply Kept.stage

theorem execImageLoad_kept {q : List Instr} {vio : List Nat} {s : State} (h : Kept q s) :
    Ends q (execImageLoad vio s) := by
  unfold execImageLoad
  with_reducible
    repeat'
      first
        | assumption | apply State.enterDoldrums_kept | apply State.setBoot_kept | apply State.showUpdates_kept | apply State.note_kept
        | apply State.fallBack_kept | apply State.rejectImage_kept | apply State.loadImage_kept | apply State.activateNow_kept
        | apply ends_next | apply ends_ite | extract_lets | split | (intro)

theorem State.stgResult_kept {q : List Instr} {s : State} {result : Nat} {reason : Nat} (h : Kept q s) :
    Kept q (State.stgResult s result reason) := by
  unfold State.stgResult
  with_reducible
    repeat'
      first | assumption | apply State.set_kept

theorem stagingOpen_kept {q : List Instr} {s : State} (h : Kept q s) :
    Kept q (stagingOpen s).2 := by
  unfold stagingOpen
  with_reducible
    repeat'
      first
        | assumption | apply State.set_kept | apply State.onImg_kept | apply Kept.ite_snd | (intro) | apply Kept.put_nvm | apply Kept.nvm
        | apply Mem.wf_clear

theorem stagingClose_kept {q : List Instr} {s : State} (h : Kept q s) :
    Kept q (stagingClose s).2 := by
  unfold stagingClose
  with_reducible
    repeat'
      first | assumption | apply State.set_kept | apply State.stgResult_kept | apply Kept.ite_snd | (intro)

theorem stagingVerify_kept {q : List Instr} {s : State} (h : Kept q s) :
    Kept q (stagingVerify s).2 := by
  unfold stagingVerify
  with_reducible
    repeat'
      first | assumption | apply State.onImg_kept | apply Kept.ite_snd | (intro)

theorem stagingActivate_kept {q : List Instr} {s : State} (h : Kept q s) :
    Kept q (stagingActivate s).2 := by
  unfold stagingActivate
  with_reducible
    repeat'
      first
        | assumption | apply State.activateNow_kept | apply State.requestVeer_kept | apply State.onMgt_kept | apply State.stgResult_kept
        | apply Kept.ite_snd | (intro) | apply Kept.stage

theorem stagingOvcopy_kept {q : List Instr} {k : Nat} {s : State} (h : Kept q s) :
    Kept q (stagingOvcopy k s).2 := by
  unfold stagingOvcopy
  with_reducible
    repeat'
      first
        | assumption | apply State.set_kept | apply State.stgResult_kept | apply Kept.ite_snd | (intro) | apply Kept.put_nvm
        | apply Kept.nvm | apply Mem.wf_writeN

theorem stgCtl_kept {q : List Instr} {w : Nat} {s : State} (h : Kept q s) :
    Kept q (stgCtl w s).2 := by
  unfold stgCtl
  with_reducible
    repeat'
      first
        | assumption | apply stagingOvcopy_kept | apply stagingActivate_kept | apply stagingVerify_kept | apply stagingClose_kept
        | apply stagingOpen_kept | split

theorem execStagingCommandDone_kept {q : List Instr} {s : State} (h : Kept q s) :
    Ends q (execStagingCommandDone s) := by
  unfold execStagingCommandDone
  with_reducible
    repeat'
      first | assumption | apply State.stgResult_kept | apply State.onImg_kept | apply ends_next | apply ends_ite | split | (intro)

theorem stagingWrite_kept {q : List Instr} {off : Nat} {data : List Byte} {s : State} (h : Kept q s) :
    Kept q (stagingWrite off data s).2 := by
  unfold stagingWrite
  with_reducible
    repeat'
      first
        | assumption | apply State.onImg_kept | apply Kept.ite_snd | (intro) | apply Kept.put_nvm | apply Kept.nvm | apply Mem.wf_writeN

theorem State.sendMode_kept {q : List Instr} {s : State} {op : Nat} {dst : Nat} {body : List Byte} (h : Kept q s) :
    Kept q (State.sendMode s op dst body) := by
  unfold State.sendMode
  with_reducible
    repeat'
      first | assumption | apply State.sendPosted_kept

theorem State.sendModestat_kept {q : List Instr} {s : State} (h : Kept q s) :
    Kept q (State.sendModestat s) := by
  unfold State.sendModestat
  with_reducible
    repeat'
      first | assumption | apply State.sendMode_kept | apply State.onImg_kept | apply Kept.ite | (intro)

theorem State.switchMode_kept {q : List Instr} {s : State} {a : Arm} (h : Kept q s) :
    Kept q (State.switchMode s a) := by
  unfold State.switchMode
  with_reducible
    repeat'
      first
        | assumption | apply State.sendModestat_kept | apply State.note_kept | apply State.recNow_kept | apply State.set_kept
        | apply State.bump_kept | apply State.applyMode_kept | apply State.onImg_kept | apply Kept.ite | (intro)

theorem State.resolveMode_kept {q : List Instr} {s : State} {c : ModeChange} (h : Kept q s) :
    Kept q (State.resolveMode s c) := by
  unfold State.resolveMode
  with_reducible
    repeat'
      first | assumption | apply State.sendMode_kept | apply State.onImg_kept | apply Kept.ite | (intro)

theorem mcCtl_kept {q : List Instr} {w : Nat} {s : State} (h : Kept q s) :
    Kept q (mcCtl w s).2 := by
  unfold mcCtl
  with_reducible
    repeat'
      first | assumption | apply State.set_kept | apply State.sendMode_kept | apply State.setWord_kept | apply Kept.ite_snd | (intro)

theorem execModereq_kept {q : List Instr} {f : Frame} {s : State} (h : Kept q s) :
    Ends q (execModereq f s) := by
  unfold execModereq
  with_reducible
    repeat'
      first
        | assumption | apply ends_next | apply ends_ite | apply mgtRequest_kept | apply State.sendMode_kept | apply State.onImg_kept
        | apply Kept.ite | (intro)

theorem execModearm_kept {q : List Instr} {f : Frame} {s : State} (h : Kept q s) :
    Ends q (execModearm f s) := by
  unfold execModearm
  with_reducible
    repeat'
      first
        | assumption | apply ends_next | apply ends_ite | apply mgtRequest_kept | apply State.sendMode_kept | apply State.onImg_kept
        | apply State.bump_kept | apply Kept.ite | (intro)

theorem execModeack_kept {q : List Instr} {f : Frame} {s : State} (h : Kept q s) :
    Ends q (execModeack f s) := by
  unfold execModeack
  with_reducible
    repeat'
      first
        | assumption | apply ends_next | apply ends_ite | apply mgtRequest_kept | apply State.onImg_kept | apply State.resolveMode_kept
        | apply Kept.ite | split | (intro)

theorem execModeDeadline_kept {q : List Instr} {s : State} (h : Kept q s) :
    Ends q (execModeDeadline s) := by
  unfold execModeDeadline
  with_reducible
    repeat'
      first | assumption | apply State.resolveMode_kept | apply ends_next | apply Kept.ite | split | (intro)

theorem execModego_kept {q : List Instr} {f : Frame} {s : State} (h : Kept q s) :
    Ends q (execModego f s) := by
  unfold execModego
  with_reducible
    repeat'
      first
        | assumption | apply ends_next | apply ends_ite | apply mgtRequest_kept | apply State.switchMode_kept | apply State.bump_kept
        | apply State.onImg_kept | apply Kept.ite | split | (intro)

theorem execModeabt_kept {q : List Instr} {f : Frame} {s : State} (h : Kept q s) :
    Ends q (execModeabt f s) := by
  unfold execModeabt
  with_reducible
    repeat'
      first
        | assumption | apply ends_next | apply ends_ite | apply mgtRequest_kept | apply State.onImg_kept | apply Kept.ite | split
        | (intro)

theorem execModeres_kept {q : List Instr} {f : Frame} {s : State} (h : Kept q s) :
    Ends q (execModeres f s) := by
  unfold execModeres
  with_reducible
    repeat'
      first | assumption | apply ends_next | apply ends_ite | apply mgtRequest_kept | apply State.set_kept | apply Kept.ite | (intro)

theorem execModeqry_kept {q : List Instr} {f : Frame} {s : State} (h : Kept q s) :
    Ends q (execModeqry f s) := by
  unfold execModeqry
  with_reducible
    repeat'
      first
        | assumption | apply ends_next | apply ends_ite | apply mgtRequest_kept | apply State.sendMode_kept | apply Kept.ite | (intro)

theorem execModestat_kept {q : List Instr} {f : Frame} {s : State} (h : Kept q s) :
    Ends q (execModestat f s) := by
  unfold execModestat
  with_reducible
    repeat'
      first
        | assumption | apply ends_next | apply ends_ite | apply mgtRequest_kept | apply State.applyMode_kept | apply State.set_kept
        | apply State.bump_kept | apply Kept.ite | (intro)

theorem execModestatSend_kept {q : List Instr} {s : State} (h : Kept q s) :
    Ends q (execModestatSend s) := by
  unfold execModestatSend
  with_reducible
    repeat'
      first | assumption | apply State.sendModestat_kept | apply ends_next | apply Kept.ite | (intro)

theorem execOverlayInstant_kept {q : List Instr} {s : State} (h : Kept q s) :
    Ends q (execOverlayInstant s) := by
  unfold execOverlayInstant
  with_reducible
    repeat'
      first | assumption | apply State.switchMode_kept | apply ends_next | apply Kept.ite | split | (intro)

theorem execModeLateApply_kept {q : List Instr} {s : State} (h : Kept q s) :
    Ends q (execModeLateApply s) := by
  unfold execModeLateApply
  with_reducible
    repeat'
      first | assumption | apply State.switchMode_kept | apply State.bump_kept | apply ends_next | apply Kept.ite | split | (intro)

theorem execModeInstantNoGo_kept {q : List Instr} {s : State} (h : Kept q s) :
    Ends q (execModeInstantNoGo s) := by
  unfold execModeInstantNoGo
  with_reducible
    repeat'
      first | assumption | apply State.sendMode_kept | apply State.onImg_kept | apply ends_next | apply ends_ite | split | (intro)

theorem settingsStore_kept {q : List Instr} {s : State} (h : Kept q s) :
    Kept q (settingsStore s).2 := by
  unfold settingsStore
  with_reducible
    repeat'
      first
        | assumption | apply State.set_kept | apply State.onImg_kept | apply Kept.ite_snd | (intro) | apply Kept.put_nvm | apply Kept.nvm
        | apply Mem.wf_writeN

theorem settingsErase_kept {q : List Instr} {s : State} (h : Kept q s) :
    Kept q (settingsErase s).2 := by
  unfold settingsErase
  with_reducible
    repeat'
      first | assumption | apply Kept.put_nvm | apply Kept.nvm | apply Mem.wf_writeN

theorem setCtl_kept {q : List Instr} {w : Nat} {s : State} (h : Kept q s) :
    Kept q (setCtl w s).2 := by
  unfold setCtl
  with_reducible
    repeat'
      first
        | assumption | apply settingsErase_kept | apply settingsStore_kept | (refine Kept.of_snd (by assumption) ?_) | apply Kept.ite_snd
        | (intro)

theorem execStoreDone_kept {q : List Instr} {s : State} (h : Kept q s) :
    Ends q (execStoreDone s) := by
  unfold execStoreDone
  with_reducible
    repeat'
      first
        | assumption | apply State.set_kept | apply State.onImg_kept | apply ends_next | split | apply Kept.put_nvm | apply Kept.nvm
        | apply Mem.wf_writeN

end Sys2Proof.Machine
end

