-- ==== Sys2Proof/Laws/Boot.lean ====
section
/-! SUPPORT. The operations of Machine/Boot.lean leave the queue alone and keep the invariant of Safety.lean. -/
namespace Sys2Proof.Machine

theorem State.countAttempt_kept {q : List Instr} {s : State} (h : Kept q s) :
    Kept q (State.countAttempt s) := by
  unfold State.countAttempt
  with_reducible
    repeat'
      first | assumption | apply State.setBoot_kept | apply State.restoreSlots_kept | apply Kept.ite | (intro)

theorem State.chooseFirmware_kept {q : List Instr} {s : State} (h : Kept q s) :
    Kept q (State.chooseFirmware s).2 := by
  unfold State.chooseFirmware
  with_reducible
    repeat'
      first | assumption | apply State.setBoot_kept | apply State.restoreSlots_kept | apply Kept.ite | apply Kept.ite_snd | (intro)

theorem State.romRun_kept {q : List Instr} {s : State} {cause : Nat} {k : Option Nat} (h : Kept q s) : Kept q (s.romRun cause k) := by
  cases k with
  | none => exact State.enterDoldrums_kept h
  | some k => exact State.note_kept (State.set_kept (State.set_kept h))

theorem State.romBoot_kept {q : List Instr} {s : State} {cause : Nat} (h : Kept q s) : Kept q (s.romBoot cause) :=
  State.romRun_kept (State.showUpdates_kept (State.chooseFirmware_kept (State.countAttempt_kept h)))

theorem State.enterReset_kept {q : List Instr} {s : State} {level cause : Nat} (h : Kept q s) : Kept q (s.enterReset level cause) := by
  unfold State.enterReset
  extract_lets warms kept hard m _ s1 s2
  have h1 : Kept q s1 := by
    refine ⟨h.pend, Tbl.rising_foldl_put _ _ _
    (show Tbl.Rising bootRegs = true by decide), Mem.wf_nil, h.nvm, Nat.zero_le _, Nat.zero_le _, Nat.zero_le _, Nat.zero_le _, ?_⟩
    show (if hard = true then ({} : RfxSt) else (rfxReset s).rfx).alarms.length ≤ 256
    split
    · exact Nat.zero_le _
    · exact (rfxReset_kept h).alarms
  exact State.setB_kept (State.set_kept (State.set_kept (State.set_kept h1)))

theorem State.leaveReset_kept {q : List Instr} {s : State} (h : Kept q s) :
    Kept q (State.leaveReset s) := by
  unfold State.leaveReset
  with_reducible
    repeat'
      first | assumption | apply State.nextIncarnation_kept | apply State.showFuses_kept | apply State.romBoot_kept

theorem State.powerOff_kept {q : List Instr} {s : State} {level : Nat} {cause : Nat} (h : Kept q s) :
    Kept q (State.powerOff s level cause) := by
  unfold State.powerOff
  with_reducible
    repeat'
      first
        | assumption | apply State.onCry_kept | apply State.enterReset_kept | apply State.declareFail_kept | apply State.set_kept
        | apply State.bypassDrive_kept | apply Kept.put_ckr

theorem State.fwActivateNow_kept {q : List Instr} {s : State} (h : Kept q s) :
    Kept q (State.fwActivateNow s) := by
  unfold State.fwActivateNow
  with_reducible
    repeat'
      first
        | assumption | apply State.onMgt_kept | apply State.requestReset_kept | apply State.setBoot_kept | apply State.showUpdates_kept
        | apply State.insertWrite_kept | apply Kept.ite | (intro) | apply Kept.stage

theorem execWarmReset_kept {q : List Instr} {cause : Nat} {s : State} (h : Kept q s) :
    Ends q (execWarmReset cause s) := by
  unfold execWarmReset
  with_reducible
    repeat'
      first
        | assumption | apply State.requestReset_kept | apply State.fwActivateNow_kept | apply ends_next | apply ends_ite | split
        | (intro)

theorem execColdReset_kept {q : List Instr} {cause : Nat} {s : State} (h : Kept q s) :
    Ends q (execColdReset cause s) := by
  unfold execColdReset
  with_reducible
    repeat'
      first | assumption | apply State.powerOff_kept | apply State.requestReset_kept | apply ends_next | apply Kept.ite | (intro)

theorem execHrst_kept {q : List Instr} {s : State} (h : Kept q s) :
    Ends q (execHrst s) := by
  unfold execHrst
  with_reducible
    repeat'
      first | assumption | apply State.requestReset_kept | apply ends_next

theorem execResetPreludeEnd_kept {q : List Instr} {active : Bool} {s : State} (h : Kept q s) :
    Ends q (execResetPreludeEnd active s) := by
  unfold execResetPreludeEnd
  with_reducible
    repeat'
      first
        | assumption | apply fuseReload_kept | apply State.leaveReset_kept | apply State.enterReset_kept | apply State.resetBlock_kept
        | apply ends_next | apply ends_ite | apply foldl_kept | split | (intro) | apply Kept.put_ckr

theorem execHubDiePowerGood_kept {q : List Instr} {active : Bool} {s : State} (h : Kept q s) :
    Ends q (execHubDiePowerGood active s) := by
  unfold execHubDiePowerGood
  with_reducible
    repeat'
      first
        | assumption | apply State.setB_kept | apply State.leaveReset_kept | apply State.onCry_kept | apply ends_next | apply ends_ite
        | split | (intro) | apply Kept.put_ckr

theorem blkRst_kept {q : List Instr} {w : Nat} {s : State} (h : Kept q s) :
    Kept q (blkRst w s).2 := by
  unfold blkRst
  with_reducible
    repeat'
      first
        | assumption | apply State.resetBlock_kept | apply State.declareFail_kept | apply State.set_kept | apply Kept.ite_snd
        | apply foldl_kept | split | (intro) | apply Kept.put_ckr

theorem execBlockResetDone_kept {q : List Instr} {blk : Nat} {s : State} (h : Kept q s) :
    Ends q (execBlockResetDone blk s) := by
  unfold execBlockResetDone
  with_reducible
    repeat'
      first
        | assumption | apply State.startBlock_kept | apply State.applyEntries_kept | apply State.fillBlock_kept | apply State.set_kept
        | apply ends_next | apply ends_ite | apply Kept.ite | split | (intro)

end Sys2Proof.Machine
end

