-- ==== Sys2Proof/Laws/Clocks.lean ====
section
/-! SUPPORT. The operations of Machine/Clocks.lean leave the queue alone and keep the invariant of Safety.lean. -/
namespace Sys2Proof.Machine

theorem State.onCkr_kept {q : List Instr} {s : State} {g : CkrSt → CkrSt} (h : Kept q s) :
    Kept q (State.onCkr s g) := by
  unfold State.onCkr
  with_reducible
    repeat'
      first | assumption | apply Kept.put_ckr

theorem State.showRef_kept {q : List Instr} {s : State} {m : Nat} (h : Kept q s) :
    Kept q (State.showRef s m) := by
  unfold State.showRef
  with_reducible
    repeat'
      first | assumption | apply State.set_kept | apply State.setB_kept

theorem State.takeRef_kept {q : List Instr} {s : State} {c : Nat} {path : Nat} (h : Kept q s) :
    Kept q (State.takeRef s c path) := by
  unfold State.takeRef
  with_reducible
    repeat'
      first | assumption | apply State.set_kept | apply State.bump_kept

theorem State.setDomSrc_kept {q : List Instr} {s : State} {k : Nat} {v : Nat} (h : Kept q s) :
    Kept q (State.setDomSrc s k v) := by
  unfold State.setDomSrc
  with_reducible
    repeat'
      first | assumption | apply State.setWord_kept

theorem State.setLock_kept {q : List Instr} {s : State} {p : Nat} {v : Bool} (h : Kept q s) :
    Kept q (State.setLock s p v) := by
  unfold State.setLock
  with_reducible
    repeat'
      first | assumption | apply State.setB_kept | apply Kept.ite | (intro)

theorem State.showMove_kept {q : List Instr} {s : State} (h : Kept q s) :
    Kept q (State.showMove s) := by
  unfold State.showMove
  with_reducible
    repeat'
      first | assumption | apply State.setB_kept | apply State.set_kept

theorem State.forcedSwitch_kept {q : List Instr} {s : State} {k : Nat} (h : Kept q s) :
    Kept q (State.forcedSwitch s k) := by
  unfold State.forcedSwitch
  with_reducible
    repeat'
      first | assumption | apply State.set_kept | apply State.bump_kept | apply State.note_kept

theorem State.fallTo_kept {q : List Instr} {s : State} {p : Nat} {dst : Nat} (h : Kept q s) :
    Kept q (State.fallTo s p dst) := by
  unfold State.fallTo
  with_reducible
    repeat'
      first
        | assumption | apply State.setDomSrc_kept | apply State.bump_kept | apply State.forcedSwitch_kept | apply State.onCkr_kept
        | apply State.showMove_kept | apply foldl_kept | split | (intro)

theorem State.startMoves_kept {q : List Instr} {s : State} {target : Nat} (h : Kept q s) :
    Kept q (State.startMoves s target) := by
  unfold State.startMoves
  with_reducible
    repeat'
      first | assumption | apply State.onCkr_kept | apply State.showMove_kept

theorem State.pllStop_kept {q : List Instr} {s : State} {p : Nat} (h : Kept q s) :
    Kept q (State.pllStop s p) := by
  unfold State.pllStop
  with_reducible
    repeat'
      first
        | assumption | apply State.onCkr_kept | apply State.insertWrite_kept | apply State.fallTo_kept | apply State.set_kept
        | apply State.setLock_kept | apply Kept.ite | (intro)

theorem State.refStop_kept {q : List Instr} {s : State} {c : Nat} (h : Kept q s) :
    Kept q (State.refStop s c) := by
  unfold State.refStop
  with_reducible
    repeat'
      first | assumption | apply State.takeRef_kept | apply State.showRef_kept | apply State.onCkr_kept | apply Kept.ite | split | (intro)

theorem State.cmon_kept {q : List Instr} {s : State} (h : Kept q s) :
    Kept q (State.cmon s) := by
  unfold State.cmon
  with_reducible
    repeat'
      first | assumption | apply State.set_kept | apply State.squall_kept | apply State.note_kept | apply Kept.ite | (intro)

theorem execRefChange_kept {q : List Instr} {qual : Nat} {s : State} (h : Kept q s) :
    Ends q (execRefChange qual s) := by
  unfold execRefChange
  with_reducible
    repeat'
      first | assumption | apply State.onCkr_kept | apply State.showRef_kept | apply ends_next | split

theorem execRefMeasureDone_kept {q : List Instr} {within : Bool} {s : State} (h : Kept q s) :
    Ends q (execRefMeasureDone within s) := by
  unfold execRefMeasureDone
  with_reducible
    repeat'
      first
        | assumption | apply State.setLock_kept | apply State.takeRef_kept | apply State.onCkr_kept | apply ends_next | apply ends_ite
        | split | (intro)

theorem execSparePllLock_kept {q : List Instr} {pll : Nat} {s : State} (h : Kept q s) :
    Ends q (execSparePllLock pll s) := by
  unfold execSparePllLock
  with_reducible
    repeat'
      first
        | assumption | apply State.onCkr_kept | apply State.startMoves_kept | apply State.setLock_kept | apply ends_next | apply ends_ite
        | (intro)

theorem execDomainMove_kept {q : List Instr} {forced : Bool} {s : State} (h : Kept q s) :
    Ends q (execDomainMove forced s) := by
  unfold execDomainMove
  with_reducible
    repeat'
      first
        | assumption | apply State.insertWrite_kept | apply State.set_kept | apply State.setLock_kept | apply State.onCkr_kept
        | apply State.showMove_kept | apply State.forcedSwitch_kept | apply State.setDomSrc_kept | apply State.bump_kept
        | apply ends_next | apply ends_ite | apply Kept.ite | split | (intro)

theorem execMissingEdge_kept {q : List Instr} {source : Nat} {still : Bool} {s : State} (h : Kept q s) :
    Ends q (execMissingEdge source still s) := by
  unfold execMissingEdge
  with_reducible
    repeat'
      first
        | assumption | apply State.requestReset_kept | apply State.cmon_kept | apply State.declareFail_kept | apply State.pllStop_kept
        | apply State.refStop_kept | apply State.set_kept | apply State.onCkr_kept | apply State.bump_kept | apply ends_next
        | apply ends_ite | apply Kept.ite | (intro)

theorem execSourceRunning_kept {q : List Instr} {source : Nat} {s : State} (h : Kept q s) :
    Ends q (execSourceRunning source s) := by
  unfold execSourceRunning
  with_reducible
    repeat'
      first | assumption | apply State.onCkr_kept | apply ends_next

theorem gateWrite_kept {q : List Instr} {w : Nat} {s : State} (h : Kept q s) :
    Kept q (gateWrite w s).2 := by
  unfold gateWrite
  with_reducible
    repeat'
      first | assumption | apply State.onCkr_kept | apply State.set_kept | apply foldl_kept | split | (intro)

theorem execGateAck_kept {q : List Instr} {blk : Nat} {s : State} (h : Kept q s) :
    Ends q (execGateAck blk s) := by
  unfold execGateAck
  with_reducible
    repeat'
      first | assumption | apply State.onCkr_kept | apply State.set_kept | apply ends_next | apply ends_ite | (intro)

theorem execGateTimeout_kept {q : List Instr} {blk : Nat} {s : State} (h : Kept q s) :
    Ends q (execGateTimeout blk s) := by
  unfold execGateTimeout
  with_reducible
    repeat'
      first
        | assumption | apply State.set_kept | apply State.bump_kept | apply State.note_kept | apply State.onCkr_kept | apply ends_next
        | apply ends_ite | (intro)

end Sys2Proof.Machine
end

