-- ==== Sys2Proof/Laws/Mirik.lean ====
section
/-! SUPPORT. The operations of Machine/Mirik.lean leave the queue alone and keep the invariant of Safety.lean. -/
namespace Sys2Proof.Machine

theorem State.mbxAnswer_kept {q : List Instr} {s : State} {c : MbxCmd} {result : Nat} {reason : Nat} {data : List Byte} (h : Kept q s) :
    Kept q (State.mbxAnswer s c result reason data) := by
  unfold State.mbxAnswer
  with_reducible
    repeat'
      first | assumption | apply State.set_kept | apply State.answer_kept | apply foldl_kept | split | (intro)

theorem State.mbxPop_kept {q : List Instr} {s : State} (h : Kept q s) :
    Kept q (State.mbxPop s) := by
  unfold State.mbxPop
  with_reducible
    repeat'
      first | assumption | apply State.onMgt_kept | apply Kept.stage

theorem execMbox_kept {q : List Instr} {f : Frame} {s : State} (h : Kept q s) :
    Ends q (execMbox f s) := by
  unfold execMbox
  with_reducible
    repeat'
      first
        | assumption | apply State.mbxAnswer_kept | apply State.onMgt_kept | apply State.take_kept | apply State.bump_kept
        | apply State.settle_kept | apply ends_next | apply ends_ite | split | (intro) | apply Kept.stage

theorem mbxWrite_kept {q : List Instr} {f : Frame} {s : State} (h : Kept q s) :
    Kept q (mbxWrite f s).2 := by
  unfold mbxWrite
  with_reducible
    repeat'
      first
        | assumption | apply State.onMgt_kept | apply State.mbxAnswer_kept | apply State.unlock_kept | apply locked_kept | extract_lets
        | split | (intro) | apply Kept.stage

theorem State.mbxRun_kept {q : List Instr} {s : State} {code : Nat} {g : MbxCmd → State → Nat × Nat × List Byte × State} (h : Kept q s)
    (hg : ∀ (c : MbxCmd) (t : State), Kept q t → Kept q (g c t).2.2.2) : Kept q (s.mbxRun code g) := by
  unfold State.mbxRun
  split
  · exact h
  · exact State.mbxAnswer_kept (hg _ _ (State.mbxPop_kept h))

theorem execSnsRead_kept {q : List Instr} {s : State} (h : Kept q s) :
    Ends q (execSnsRead s) := by
  unfold execSnsRead
  with_reducible
    repeat'
      first | assumption | apply State.mbxRun_kept | apply ends_next | split | (intro)

theorem execFwOpen_kept {q : List Instr} {s : State} (h : Kept q s) :
    Ends q (execFwOpen s) := by
  unfold execFwOpen
  with_reducible
    repeat'
      first
        | assumption | apply State.onMgt_kept | apply State.mbxRun_kept | apply ends_next | (intro) | apply Kept.put_nvm
        | apply Kept.stage | apply Kept.nvm | apply Mem.wf_clear

theorem execFwWrite_kept {q : List Instr} {s : State} (h : Kept q s) :
    Ends q (execFwWrite s) := by
  unfold execFwWrite
  with_reducible
    repeat'
      first
        | assumption | apply State.onMgt_kept | apply State.mbxRun_kept | apply ends_next | extract_lets | split | (intro)
        | apply Kept.put_nvm | apply Kept.stage | apply Kept.nvm | apply Mem.wf_writeN

theorem execFwVerify_kept {q : List Instr} {s : State} (h : Kept q s) :
    Ends q (execFwVerify s) := by
  unfold execFwVerify
  with_reducible
    repeat'
      first | assumption | apply State.onMgt_kept | apply State.mbxRun_kept | apply ends_next | (intro) | apply Kept.stage

theorem execFwActivate_kept {q : List Instr} {s : State} (h : Kept q s) :
    Ends q (execFwActivate s) := by
  unfold execFwActivate
  with_reducible
    repeat'
      first
        | assumption | apply State.fwActivateNow_kept | apply State.requestVeer_kept | apply State.onMgt_kept
        | apply State.mbxAnswer_kept | apply State.mbxPop_kept | apply ends_next | apply ends_ite | split | (intro) | apply Kept.stage

theorem State.confirmUpdate_kept {q : List Instr} {s : State} (h : Kept q s) :
    Kept q (State.confirmUpdate s) := by
  unfold State.confirmUpdate
  with_reducible
    repeat'
      first
        | assumption | apply State.onMgt_kept | apply State.showUpdates_kept | apply State.note_kept | apply State.setBoot_kept
        | apply Kept.stage

theorem execConfirm_kept {q : List Instr} {s : State} (h : Kept q s) :
    Ends q (execConfirm s) := by
  unfold execConfirm
  with_reducible
    repeat'
      first | assumption | apply State.confirmUpdate_kept | apply State.mbxRun_kept | apply ends_next | split | (intro)

theorem execMbxFuse_kept {q : List Instr} {fault : Nat} {s : State} (h : Kept q s) :
    Ends q (execMbxFuse fault s) := by
  unfold execMbxFuse
  with_reducible
    repeat'
      first
        | assumption | apply State.set_kept | apply State.showFuses_kept | apply State.burn_kept | apply State.setFuseData_kept
        | apply State.mbxRun_kept | (refine Kept.of_snd (by assumption) ?_) | apply ends_next | extract_lets | split | (intro)

theorem State.dldLane_kept {q : List Instr} {s : State} {l : Lane} {pay : List Byte} (h : Kept q s) :
    Kept q (State.dldLane s l pay) := by
  unfold State.dldLane
  with_reducible
    repeat'
      first | assumption | apply State.laneOut_kept | apply Kept.ite | (intro)

theorem State.dldHost_kept {q : List Instr} {s : State} {p : HPort} {pay : List Byte} (h : Kept q s) :
    Kept q (State.dldHost s p pay) := by
  unfold State.dldHost
  with_reducible
    repeat'
      first | assumption | apply State.hostOut_kept | apply Kept.ite | (intro)

theorem State.dldStatus_kept {q : List Instr} {s : State} {src : DldSrc} {result : Nat} {reason : Nat} (h : Kept q s) :
    Kept q (State.dldStatus s src result reason) := by
  unfold State.dldStatus
  with_reducible
    repeat'
      first | assumption | apply State.dldLane_kept | apply State.dldHost_kept | split

theorem State.setSess_kept {q : List Instr} {s : State} {x : Option DldSess} (h : Kept q s) :
    Kept q (State.setSess s x) := by
  unfold State.setSess
  with_reducible
    repeat'
      first | assumption | apply State.onMgt_kept | apply State.setB_kept | apply Kept.stage

theorem State.dldOpen_kept {q : List Instr} {s : State} {src : DldSrc} {p : List Byte} (h : Kept q s) :
    Kept q (State.dldOpen s src p) := by
  unfold State.dldOpen
  with_reducible
    repeat'
      first
        | assumption | apply State.setSess_kept | apply State.dldStatus_kept | apply Kept.ite | (intro) | apply Kept.put_nvm
        | apply Kept.nvm | apply Mem.wf_clear

theorem State.sessTouch_kept {q : List Instr} {s : State} {x : DldSess} (h : Kept q s) :
    Kept q (State.sessTouch s x) := by
  unfold State.sessTouch
  with_reducible
    repeat'
      first | assumption | apply State.onMgt_kept | apply Kept.ite | (intro) | apply Kept.stage

theorem State.dldData_kept {q : List Instr} {s : State} {src : DldSrc} {p : List Byte} (h : Kept q s) :
    Kept q (State.dldData s src p) := by
  unfold State.dldData
  with_reducible
    repeat'
      first
        | assumption | apply State.dldStatus_kept | apply State.sessTouch_kept | apply Kept.ite | split | (intro) | apply Kept.put_nvm
        | apply Mem.wf_writeN | apply Kept.bulk | apply Kept.nvm

theorem State.dldEnd_kept {q : List Instr} {s : State} {src : DldSrc} (h : Kept q s) :
    Kept q (State.dldEnd s src) := by
  unfold State.dldEnd
  with_reducible
    repeat'
      first
        | assumption | apply State.dldStatus_kept | apply State.sessTouch_kept | apply State.setSess_kept | apply State.setBoot_kept
        | apply State.onMgt_kept | apply State.showUpdates_kept | apply State.requestReset_kept | apply Kept.ite | split | (intro)
        | apply Kept.stage

theorem State.dldReply_kept {q : List Instr} {s : State} {src : DldSrc} {p : List Byte} (h : Kept q s) :
    Kept q (State.dldReply s src p) := by
  unfold State.dldReply
  with_reducible
    repeat'
      first | assumption | apply State.onMgt_kept | apply State.mbxAnswer_kept | apply Kept.ite | split | (intro) | apply Kept.stage

theorem State.dldMessage_kept {q : List Instr} {s : State} {src : DldSrc} {p : List Byte} (h : Kept q s) :
    Kept q (State.dldMessage s src p) := by
  unfold State.dldMessage
  with_reducible
    repeat'
      first
        | assumption | apply State.dldReply_kept | apply State.dldOpen_kept | apply State.dldData_kept | apply State.dldEnd_kept
        | apply Kept.ite | (intro)

theorem execDld_kept {q : List Instr} {l : Lane} {f : Frame} {s : State} (h : Kept q s) :
    Ends q (execDld l f s) := by
  unfold execDld
  with_reducible
    repeat'
      first | assumption | apply State.take_kept | apply State.dldMessage_kept | apply ends_next

theorem execDldRelay_kept {q : List Instr} {s : State} (h : Kept q s) :
    Ends q (execDldRelay s) := by
  unfold execDldRelay
  with_reducible
    repeat'
      first
        | assumption | apply State.onMgt_kept | apply State.dldLane_kept | apply State.mbxAnswer_kept | apply State.mbxPop_kept
        | apply ends_next | apply ends_ite | split | (intro) | apply Kept.stage

theorem execHelloSend_kept {q : List Instr} {s : State} (h : Kept q s) :
    Ends q (execHelloSend s) := by
  unfold execHelloSend
  with_reducible
    repeat'
      first
        | assumption | apply ends_next | apply ends_ite | apply State.onMgt_kept | apply State.dldHost_kept | apply State.dldLane_kept
        | apply Kept.ite | apply foldl_kept | apply foldl_fst_kept | apply foldl_snd_kept | (intro) | apply Kept.stage

theorem execHello_kept {q : List Instr} {l : Lane} {f : Frame} {s : State} (h : Kept q s) :
    Ends q (execHello l f s) := by
  unfold execHello
  with_reducible
    repeat'
      first | assumption | apply State.take_kept | apply ends_next

theorem execDldOpen_kept {q : List Instr} {src : DldSrc} {pay : List Byte} {s : State} (h : Kept q s) :
    Ends q (execDldOpen src pay s) := by
  unfold execDldOpen
  with_reducible
    repeat'
      first | assumption | apply State.dldOpen_kept | apply ends_next | apply Kept.ite | (intro)

theorem execDldData_kept {q : List Instr} {src : DldSrc} {pay : List Byte} {s : State} (h : Kept q s) :
    Ends q (execDldData src pay s) := by
  unfold execDldData
  with_reducible
    repeat'
      first | assumption | apply ends_next | apply ends_ite | apply State.dldData_kept | apply Kept.ite | (intro)

theorem execDldEnd_kept {q : List Instr} {src : DldSrc} {s : State} (h : Kept q s) :
    Ends q (execDldEnd src s) := by
  unfold execDldEnd
  with_reducible
    repeat'
      first | assumption | apply State.dldEnd_kept | apply ends_next | apply Kept.ite | (intro)

theorem execDldStatus_kept {q : List Instr} {src : DldSrc} {pay : List Byte} {s : State} (h : Kept q s) :
    Ends q (execDldStatus src pay s) := by
  unfold execDldStatus
  with_reducible
    repeat'
      first | assumption | apply State.dldReply_kept | apply ends_next

theorem execDldSessionTimeout_kept {q : List Instr} {s : State} (h : Kept q s) :
    Ends q (execDldSessionTimeout s) := by
  unfold execDldSessionTimeout
  with_reducible
    repeat'
      first | assumption | apply ends_next | apply ends_ite | apply State.setSess_kept | apply Kept.ite | split | (intro)

theorem execWatchdogExpiry_kept {q : List Instr} {s : State} (h : Kept q s) :
    Ends q (execWatchdogExpiry s) := by
  unfold execWatchdogExpiry
  with_reducible
    repeat'
      first | assumption | apply State.requestReset_kept | apply ends_next

theorem execLockstepError_kept {q : List Instr} {s : State} (h : Kept q s) :
    Ends q (execLockstepError s) := by
  unfold execLockstepError
  with_reducible
    repeat'
      first | assumption | apply State.declareFail_kept | apply State.requestReset_kept | apply ends_next

theorem State.toSink_kept {q : List Instr} {s : State} {sink : Nat} {f : Frame} (h : Kept q s) :
    Kept q (State.toSink s sink f) := by
  unfold State.toSink
  with_reducible
    repeat'
      first | assumption | apply State.toHost_kept | apply Kept.ite | (intro)

theorem execErrn_kept {q : List Instr} {f : Frame} {s : State} (h : Kept q s) :
    Ends q (execErrn f s) := by
  unfold execErrn
  with_reducible
    repeat'
      first
        | assumption | apply ends_next | apply ends_ite | apply mgtRequest_kept | apply State.toSink_kept | apply State.notice_kept
        | apply Kept.ite | (intro)

theorem execAlmn_kept {q : List Instr} {f : Frame} {s : State} (h : Kept q s) :
    Ends q (execAlmn f s) := by
  unfold execAlmn
  with_reducible
    repeat'
      first | assumption | apply ends_next | apply ends_ite | apply mgtRequest_kept | apply State.toSink_kept | apply Kept.ite | (intro)

theorem execEvtn_kept {q : List Instr} {f : Frame} {s : State} (h : Kept q s) :
    Ends q (execEvtn f s) := by
  unfold execEvtn
  with_reducible
    repeat'
      first | assumption | apply ends_next | apply ends_ite | apply mgtRequest_kept | apply State.toSink_kept | apply Kept.ite | (intro)

theorem execAlarmDrain_kept {q : List Instr} {s : State} (h : Kept q s) : Ends q (execAlarmDrain s) := by
  unfold execAlarmDrain
  extract_lets l s1 s2
  have h1 : Kept q s1 := State.onRfx_kept h (Nat.zero_le _)
  have h2 : Kept q s2 := foldl_kept _ (fun _ _ ht => State.note_kept ht) h1
  exact ends_ite (fun _ => ends_next h2) fun _ => ends_next (foldl_kept _ (fun _ _ ht => State.notice_kept ht) h2)

theorem execSensorUpdate_kept {q : List Instr} {idx : Nat} {value : Nat} {raw : Nat} {valid : Bool} {s : State} (h : Kept q s) :
    Ends q (execSensorUpdate idx value raw valid s) := by
  unfold execSensorUpdate
  with_reducible
    repeat'
      first
        | assumption | apply State.note_kept | apply State.event_kept | apply State.set_kept | apply ends_next | apply ends_ite
        | apply Kept.ite | (intro)

theorem execEventLogWrite_kept {q : List Instr} {s : State} (h : Kept q s) : Ends q (execEventLogWrite s) := by
  unfold execEventLogWrite
  split
  · exact ends_next h
  · rename_i e rest hs
    extract_lets m s1 full s2 s3 g sev s4
    have h1 : Kept q s1 := h.put_nvm _ (Mem.wf_writeN h.nvm _ _)
    have h2 : Kept q s2 := State.onMgt_kept h1 (by
      have := h.stage
      rw [hs] at this
      exact Nat.le_of_succ_le this)
    have h3 : Kept q s3 := Kept.ite (fun _ => State.bump_kept h2) fun _ => h2
    have h4 : Kept q s4 := Kept.ite (fun _ => h3) fun _ => State.record_kept h3
    exact ends_ite (fun _ => ends_next h3) fun _ => ends_ite (fun _ => ends_next h4) fun _ => ends_next (State.notice_kept h4)

theorem evlWrite_kept {q : List Instr} {w : Nat} {s : State} (h : Kept q s) :
    Kept q (evlWrite w s).2 := by
  unfold evlWrite
  with_reducible
    repeat'
      first | assumption | apply State.onMgt_kept | apply Kept.ite | (intro) | apply Kept.stage

theorem vlogWrite_kept {q : List Instr} {w : Nat} {s : State} (h : Kept q s) : Kept q (vlogWrite w s).2 := by
  unfold vlogWrite
  extract_lets s1
  have h1 : Kept q s1 := Kept.ite (fun _ => State.set_kept h) fun _ => h
  exact Kept.ite (fun _ => State.onHub_kept h1 (Nat.zero_le _) h1.plog) fun _ => h1

theorem plogWrite_kept {q : List Instr} {w : Nat} {s : State} (h : Kept q s) : Kept q (plogWrite w s).2 := by
  unfold plogWrite
  extract_lets s1
  have h1 : Kept q s1 := Kept.ite (fun _ => State.set_kept h) fun _ => h
  exact Kept.ite (fun _ => State.onHub_kept h1 h1.vlog (Nat.zero_le _)) fun _ => h1

theorem State.testResult_kept {q : List Instr} {s : State} {test : Nat} {result : Nat} {detail : Nat} (h : Kept q s) :
    Kept q (State.testResult s test result detail) := by
  unfold State.testResult
  with_reducible
    repeat'
      first | assumption | apply State.set_kept

theorem State.startTest_kept {q : List Instr} {s : State} {test : Nat} {arg : Nat} (h : Kept q s) :
    Kept q (State.startTest s test arg) := by
  unfold State.startTest
  with_reducible
    repeat'
      first | assumption | apply State.testResult_kept | apply State.onMgt_kept | apply Kept.stage

theorem State.startQueued_kept {q : List Instr} {s : State} (h : Kept q s) :
    Kept q (State.startQueued s) := by
  unfold State.startQueued
  with_reducible
    repeat'
      first | assumption | apply State.onMgt_kept | apply State.startTest_kept | apply Kept.ite | split | (intro) | apply Kept.stage

theorem State.nextTest_kept {q : List Instr} {s : State} (h : Kept q s) :
    Kept q (State.nextTest s) := by
  unfold State.nextTest
  with_reducible
    repeat'
      first | assumption | apply State.onMgt_kept | apply State.startQueued_kept | apply Kept.stage

theorem State.testReset_kept {q : List Instr} {s : State} {b : Option Nat} (h : Kept q s) :
    Kept q (State.testReset s b) := by
  unfold State.testReset
  with_reducible
    repeat'
      first | assumption | apply blkRst_kept | split

theorem stWrite_kept {q : List Instr} {w : Nat} {s : State} (h : Kept q s) :
    Kept q (stWrite w s).2 := by
  unfold stWrite
  with_reducible
    repeat'
      first
        | assumption | apply State.requestVeer_kept | apply State.onMgt_kept | apply State.testResult_kept | apply State.startTest_kept
        | apply State.setWord_kept | apply Kept.ite_snd | (intro) | apply Kept.stage

theorem execTestComplete_kept {q : List Instr} {pass : Bool} {detail : Nat} {s : State} (h : Kept q s) :
    Ends q (execTestComplete pass detail s) := by
  unfold execTestComplete
  with_reducible
    repeat'
      first
        | assumption | apply State.nextTest_kept | apply State.testReset_kept | apply State.event_kept | apply State.note_kept
        | apply State.testResult_kept | apply ends_next | apply Kept.ite | split | (intro)

theorem execLullEnd_kept {q : List Instr} {s : State} (h : Kept q s) :
    Ends q (execLullEnd s) := by
  unfold execLullEnd
  with_reducible
    repeat'
      first
        | assumption | apply State.testReset_kept | apply State.onMgt_kept | apply State.testResult_kept | apply State.note_kept
        | apply State.set_kept | apply ends_next | apply ends_ite | extract_lets | split | (intro) | apply Kept.stage

theorem execAutoconf_kept {q : List Instr} {s : State} (h : Kept q s) :
    Ends q (execAutoconf s) := by
  unfold execAutoconf
  with_reducible
    repeat'
      first | assumption | apply State.confirmUpdate_kept | apply ends_next | apply Kept.ite | (intro)

theorem execConfTimeout_kept {q : List Instr} {s : State} (h : Kept q s) :
    Ends q (execConfTimeout s) := by
  unfold execConfTimeout
  with_reducible
    repeat'
      first | assumption | apply State.fallBack_kept | apply ends_next | apply Kept.ite | split | (intro)

end Sys2Proof.Machine
end

