-- ==== Sys2Proof/Laws/Hist.lean ====
section
/-! SUPPORT. The operations of Machine/Hist.lean leave the queue alone and keep the invariant of Safety.lean. -/
namespace Sys2Proof.Machine

theorem State.onHst_kept {q : List Instr} {s : State} {g : HstSt → HstSt} (h : Kept q s) :
    Kept q (State.onHst s g) := by
  unfold State.onHst
  with_reducible
    repeat'
      first | assumption | apply Kept.put_hst

theorem State.setHblock_kept {q : List Instr} {s : State} {b : Nat} {v : HBlock} (h : Kept q s) :
    Kept q (State.setHblock s b v) := by
  unfold State.setHblock
  with_reducible
    repeat'
      first | assumption | apply State.onHst_kept

theorem State.closePage_kept {q : List Instr} {s : State} {flushed : Bool} (h : Kept q s) :
    Kept q (State.closePage s flushed) := by
  unfold State.closePage
  with_reducible
    repeat'
      first | assumption | apply State.onHst_kept | apply State.set_kept | apply Kept.ite | (intro)

theorem State.flushStage_kept {q : List Instr} {s : State} (h : Kept q s) :
    Kept q (State.flushStage s) := by
  unfold State.flushStage
  with_reducible
    repeat'
      first
        | assumption | apply State.closePage_kept | apply Kept.ite | apply foldl_kept | apply foldl_fst_kept | apply foldl_snd_kept
        | (intro)

theorem State.pump_kept {q : List Instr} {s : State} {n : Nat} (h : Kept q s) : Kept q (s.pump n) := by
  induction n generalizing s with
  | zero => exact h
  | succ n ih =>
    unfold State.pump
    exact Kept.ite (fun _ => ih (State.closePage_kept h)) (fun _ => h)

theorem State.stageRec_kept {q : List Instr} {s : State} {own : Bool} {r : HistRec} (h : Kept q s) :
    Kept q (State.stageRec s own r) := by
  unfold State.stageRec
  with_reducible
    repeat'
      first | assumption | apply State.set_kept | apply State.onHst_kept

theorem State.dropRec_kept {q : List Instr} {s : State} (h : Kept q s) :
    Kept q (State.dropRec s) := by
  unfold State.dropRec
  with_reducible
    repeat'
      first | assumption | apply State.bump_kept | apply State.onHst_kept

theorem State.recordDrops_kept {q : List Instr} {s : State} (h : Kept q s) :
    Kept q (State.recordDrops s) := by
  unfold State.recordDrops
  with_reducible
    repeat'
      first | assumption | apply State.onHst_kept | apply State.stageRec_kept | split

theorem State.acceptRec_kept {q : List Instr} {s : State} {producer : Nat} {r : HistRec} (h : Kept q s) :
    Kept q (State.acceptRec s producer r) := by
  unfold State.acceptRec
  with_reducible
    repeat'
      first
        | assumption | apply State.dropRec_kept | apply State.recordDrops_kept | apply State.bump_kept | apply State.onHst_kept
        | apply State.stageRec_kept | apply State.pump_kept | apply State.flushStage_kept | apply Kept.ite | split | (intro)

theorem execHistRecord_kept {q : List Instr} {s : State} (h : Kept q s) :
    Ends q (execHistRecord s) := by
  unfold execHistRecord
  with_reducible
    repeat'
      first | assumption | apply State.acceptRec_kept | apply ends_next | split | apply Kept.put_recs

theorem execPageFlushTimeout_kept {q : List Instr} {s : State} (h : Kept q s) :
    Ends q (execPageFlushTimeout s) := by
  unfold execPageFlushTimeout
  with_reducible
    repeat'
      first | assumption | apply State.closePage_kept | apply ends_next | apply Kept.ite | (intro)

theorem State.checkWorn_kept {q : List Instr} {s : State} (h : Kept q s) :
    Kept q (State.checkWorn s) := by
  unfold State.checkWorn
  with_reducible
    repeat'
      first | assumption | apply State.set_kept | apply Kept.ite | (intro)

theorem State.advance_kept {q : List Instr} {s : State} {stop : Bool} (h : Kept q s) :
    Kept q (State.advance s stop) := by
  unfold State.advance
  with_reducible
    repeat'
      first | assumption | apply State.set_kept | apply State.onHst_kept | apply Kept.ite | split | (intro)

theorem execPageProgramDone_kept {q : List Instr} {fail : Bool} {s : State} (h : Kept q s) :
    Ends q (execPageProgramDone fail s) := by
  unfold execPageProgramDone
  with_reducible
    repeat'
      first
        | assumption | apply State.pump_kept | apply State.bumpBy_kept | apply State.onHst_kept | apply State.bump_kept
        | apply State.setHblock_kept | apply State.checkWorn_kept | apply State.advance_kept | apply ends_next | apply ends_ite | split
        | (intro)

theorem execBlockEraseDone_kept {q : List Instr} {fail : Bool} {s : State} (h : Kept q s) :
    Ends q (execBlockEraseDone fail s) := by
  unfold execBlockEraseDone
  with_reducible
    repeat'
      first
        | assumption | apply State.bump_kept | apply State.setHblock_kept | apply State.checkWorn_kept | apply State.advance_kept
        | apply State.onHst_kept | apply ends_next | apply ends_ite | split | (intro)

theorem State.format_kept {q : List Instr} {s : State} {factory : List Nat} (h : Kept q s) :
    Kept q (State.format s factory) := by
  unfold State.format
  with_reducible
    repeat'
      first | assumption | apply State.onHst_kept

theorem State.dropTorn_kept {q : List Instr} {s : State} (h : Kept q s) :
    Kept q (State.dropTorn s) := by
  unfold State.dropTorn
  with_reducible
    repeat'
      first | assumption | apply State.set_kept | apply State.bump_kept | apply State.advance_kept | apply State.onHst_kept | split

theorem State.recoverLoss_kept {q : List Instr} {s : State} {before : Nat} (h : Kept q s) :
    Kept q (State.recoverLoss s before) := by
  unfold State.recoverLoss
  with_reducible
    repeat'
      first | assumption | apply State.onHst_kept | apply State.stageRec_kept | apply Kept.ite | (intro)

theorem execHstMount_kept {q : List Instr} {dev : Bool} {same : Bool} {torn : Bool} {partly : Bool} {factory : List Nat} {s : State}
    (h : Kept q s) :
    Ends q (execHstMount dev same torn partly factory s) := by
  unfold execHstMount
  with_reducible
    repeat'
      first
        | assumption | apply State.recoverLoss_kept | apply State.dropTorn_kept | apply State.format_kept | apply State.pump_kept
        | apply State.onHst_kept | apply State.setInc_kept | apply State.set_kept | apply ends_next | apply ends_ite | apply Kept.ite
        | (intro)

theorem hstCtl_kept {q : List Instr} {w : Nat} {s : State} (h : Kept q s) :
    Kept q (hstCtl w s).2 := by
  unfold hstCtl
  with_reducible
    repeat'
      first
        | assumption | apply State.format_kept | apply State.set_kept | apply State.advance_kept | apply State.record_kept
        | apply State.flushStage_kept | apply Kept.ite | apply Kept.ite_snd | (intro)

theorem State.scrubBlock_kept {q : List Instr} {s : State} {b : Nat} {needs : Bool} {corr : Nat} {uncorr : Nat} {lost : List Nat}
    (h : Kept q s) :
    Kept q (State.scrubBlock s b needs corr uncorr lost) := by
  unfold State.scrubBlock
  with_reducible
    repeat'
      first
        | assumption | apply State.advance_kept | apply State.bump_kept | apply State.onHst_kept | apply State.stageRec_kept
        | apply State.bumpBy_kept | apply State.setHblock_kept | apply Kept.ite | apply foldl_kept | split | (intro)

theorem execBlockScrub_kept {q : List Instr} {hblk : Nat} {needs : Bool} {corr : Nat} {uncorr : Nat} {lost : List Nat} {s : State}
    (h : Kept q s) :
    Ends q (execBlockScrub hblk needs corr uncorr lost s) := by
  unfold execBlockScrub
  with_reducible
    repeat'
      first | assumption | apply State.scrubBlock_kept | apply ends_next | apply ends_ite | (intro)

theorem execPatrolScrub_kept {q : List Instr} {hblk : Nat} {needs : Bool} {corr : Nat} {uncorr : Nat} {lost : List Nat} {s : State}
    (h : Kept q s) :
    Ends q (execPatrolScrub hblk needs corr uncorr lost s) := by
  unfold execPatrolScrub
  with_reducible
    repeat'
      first | assumption | apply State.scrubBlock_kept | apply ends_next | apply ends_ite | (intro)

theorem State.histRead_kept {q : List Instr} {s t : State} {f : Frame} (h : Kept q s) (e : s.histRead f = some t) : Kept q t := by
  unfold State.histRead at e
  split at e
  · exact Option.some.inj e ▸ State.onHst_kept h
  · exact absurd e (by simp)

theorem execNandPageReadDone_kept {q : List Instr} {uncorr : Bool} {corr : Nat} {s : State} (h : Kept q s) :
    Ends q (execNandPageReadDone uncorr corr s) := by
  unfold execNandPageReadDone
  with_reducible
    repeat'
      first
        | assumption | apply State.answer_kept | apply State.complete_kept | apply State.bump_kept | apply State.bumpBy_kept
        | apply State.onHst_kept | apply ends_next | apply ends_ite | split | (intro)

theorem execReplSend_kept {q : List Instr} {second : Bool} {s : State} (h : Kept q s) :
    Ends q (execReplSend second s) := by
  unfold execReplSend
  with_reducible
    repeat'
      first
        | assumption | apply State.sendWrite_kept | apply State.bump_kept | apply State.onHst_kept | apply ends_next | apply ends_ite
        | (intro)

theorem inboxWrite_kept {q : List Instr} {f : Frame} {s : State} (h : Kept q s) :
    Kept q (inboxWrite f s).2 := by
  unfold inboxWrite
  with_reducible
    repeat'
      first | assumption | apply Kept.ite_snd | (intro) | apply Kept.put_recs

end Sys2Proof.Machine
end

