-- ==== Sys2Proof/Laws/Power.lean ====
section
/-! SUPPORT. The operations of Machine/Power.lean leave the queue alone and keep the invariant of Safety.lean. -/
namespace Sys2Proof.Machine

theorem State.onPwr_kept {q : List Instr} {s : State} {g : PwrSt → PwrSt} (h : Kept q s) :
    Kept q (State.onPwr s g) := by
  unfold State.onPwr
  with_reducible
    repeat'
      first | assumption | apply Kept.put_pwr

theorem State.toPwr_kept {q : List Instr} {s : State} {k : Nat} (h : Kept q s) :
    Kept q (State.toPwr s k) := by
  unfold State.toPwr
  with_reducible
    repeat'
      first | assumption | apply State.set_kept | apply State.onPwr_kept | apply Kept.ite | (intro)

theorem State.setRcnt_kept {q : List Instr} {s : State} {n : Nat} (h : Kept q s) :
    Kept q (State.setRcnt s n) := by
  unfold State.setRcnt
  with_reducible
    repeat'
      first | assumption | apply State.onPwr_kept | apply State.set_kept

theorem State.dropPg_kept {q : List Instr} {s : State} (h : Kept q s) :
    Kept q (State.dropPg s) := by
  unfold State.dropPg
  with_reducible
    repeat'
      first
        | assumption | apply State.bypassDrive_kept | apply State.hstWarn_kept | apply State.powerOff_kept | apply State.set_kept
        | apply Kept.ite | (intro)

theorem State.turnOff_kept {q : List Instr} {s : State} (h : Kept q s) :
    Kept q (State.turnOff s) := by
  unfold State.turnOff
  with_reducible
    repeat'
      first | assumption | apply State.set_kept | apply State.onPwr_kept | apply State.dropPg_kept | apply Kept.ite | (intro)

theorem State.trip_kept {q : List Instr} {s : State} {cause : Nat} (h : Kept q s) :
    Kept q (State.trip s cause) := by
  unfold State.trip
  with_reducible
    repeat'
      first
        | assumption | apply State.toPwr_kept | apply State.onPwr_kept | apply State.setRcnt_kept | apply State.bump_kept
        | apply State.set_kept | apply State.turnOff_kept | apply Kept.ite | (intro)

theorem execVinEnterWindow_kept {q : List Instr} {s : State} (h : Kept q s) :
    Ends q (execVinEnterWindow s) := by
  unfold execVinEnterWindow
  with_reducible
    repeat'
      first | assumption | apply State.toPwr_kept | apply State.onPwr_kept | apply ends_next | apply Kept.ite | (intro)

theorem execVinLeaveWindow_kept {q : List Instr} {over_ : Bool} {s : State} (h : Kept q s) :
    Ends q (execVinLeaveWindow over_ s) := by
  unfold execVinLeaveWindow
  with_reducible
    repeat'
      first
        | assumption | apply State.turnOff_kept | apply State.toPwr_kept | apply State.set_kept | apply State.onPwr_kept
        | apply ends_next | apply ends_ite | apply Kept.ite | (intro)

theorem execInsertionDelayEnd_kept {q : List Instr} {s : State} (h : Kept q s) :
    Ends q (execInsertionDelayEnd s) := by
  unfold execInsertionDelayEnd
  with_reducible
    repeat'
      first | assumption | apply State.toPwr_kept | apply ends_next | apply Kept.ite | (intro)

theorem execPrechargeEnd_kept {q : List Instr} {s : State} (h : Kept q s) :
    Ends q (execPrechargeEnd s) := by
  unfold execPrechargeEnd
  with_reducible
    repeat'
      first | assumption | apply State.toPwr_kept | apply ends_next | apply Kept.ite | (intro)

theorem execPrechargeTimeout_kept {q : List Instr} {s : State} (h : Kept q s) :
    Ends q (execPrechargeTimeout s) := by
  unfold execPrechargeTimeout
  with_reducible
    repeat'
      first | assumption | apply State.trip_kept | apply ends_next | apply Kept.ite | (intro)

theorem execGateFullyOn_kept {q : List Instr} {s : State} (h : Kept q s) :
    Ends q (execGateFullyOn s) := by
  unfold execGateFullyOn
  with_reducible
    repeat'
      first | assumption | apply State.toPwr_kept | apply State.onPwr_kept | apply ends_next | apply ends_ite | (intro)

theorem execPgQualified_kept {q : List Instr} {s : State} (h : Kept q s) :
    Ends q (execPgQualified s) := by
  unfold execPgQualified
  with_reducible
    repeat'
      first
        | assumption | apply State.toPwr_kept | apply State.set_kept | apply State.onPwr_kept | apply ends_next | apply ends_ite | split
        | (intro)

theorem execOvercurrent_kept {q : List Instr} {s : State} (h : Kept q s) :
    Ends q (execOvercurrent s) := by
  unfold execOvercurrent
  with_reducible
    repeat'
      first | assumption | apply State.set_kept | apply State.onPwr_kept | apply ends_next | apply ends_ite | (intro)

theorem execFaultTimerIdle_kept {q : List Instr} {full : Bool} {s : State} (h : Kept q s) :
    Ends q (execFaultTimerIdle full s) := by
  unfold execFaultTimerIdle
  with_reducible
    repeat'
      first | assumption | apply State.onPwr_kept | apply State.set_kept | apply ends_next | apply ends_ite | (intro)

theorem execFaultTimerExpiry_kept {q : List Instr} {s : State} (h : Kept q s) :
    Ends q (execFaultTimerExpiry s) := by
  unfold execFaultTimerExpiry
  with_reducible
    repeat'
      first | assumption | apply State.trip_kept | apply ends_next | apply Kept.ite | (intro)

theorem execRetryTimerExpiry_kept {q : List Instr} {s : State} (h : Kept q s) :
    Ends q (execRetryTimerExpiry s) := by
  unfold execRetryTimerExpiry
  with_reducible
    repeat'
      first | assumption | apply State.toPwr_kept | apply State.onPwr_kept | apply ends_next | apply ends_ite | split | (intro)

theorem execRcntClear_kept {q : List Instr} {s : State} (h : Kept q s) :
    Ends q (execRcntClear s) := by
  unfold execRcntClear
  with_reducible
    repeat'
      first | assumption | apply State.setRcnt_kept | apply ends_next | apply Kept.ite | (intro)

theorem execVauxLoss_kept {q : List Instr} {s : State} (h : Kept q s) :
    Ends q (execVauxLoss s) := by
  unfold execVauxLoss
  with_reducible
    repeat'
      first
        | assumption | apply State.setRcnt_kept | apply State.onPwr_kept | apply State.toPwr_kept | apply State.set_kept
        | apply State.enterReset_kept | apply State.powerOff_kept | apply State.turnOff_kept | apply ends_next | apply ends_ite
        | apply Kept.ite | (intro) | apply Kept.put_ckr

theorem execVauxReturn_kept {q : List Instr} {s : State} (h : Kept q s) :
    Ends q (execVauxReturn s) := by
  unfold execVauxReturn
  with_reducible
    repeat'
      first
        | assumption | apply State.toPwr_kept | apply State.onPwr_kept | apply State.setRcnt_kept | apply State.set_kept
        | apply ends_next | apply ends_ite | apply Kept.ite | (intro)

theorem execHoldCollapse_kept {q : List Instr} {s : State} (h : Kept q s) :
    Ends q (execHoldCollapse s) := by
  unfold execHoldCollapse
  with_reducible
    repeat'
      first | assumption | apply State.onPwr_kept | apply ends_next | apply Kept.ite | (intro)

theorem execRailOutOfLimits_kept {q : List Instr} {s : State} (h : Kept q s) :
    Ends q (execRailOutOfLimits s) := by
  unfold execRailOutOfLimits
  with_reducible
    repeat'
      first
        | assumption | apply ends_next | apply ends_ite | apply State.onPwr_kept | apply State.powerOff_kept | apply Kept.ite | (intro)

theorem execHdpgAssert_kept {q : List Instr} {s : State} (h : Kept q s) :
    Ends q (execHdpgAssert s) := by
  unfold execHdpgAssert
  with_reducible
    repeat'
      first | assumption | apply State.set_kept | apply State.bypassDrive_kept | apply ends_next | apply Kept.ite | (intro)

end Sys2Proof.Machine
end

