-- ==== Sys2Proof/Laws/Snap.lean ====
section
/-! SUPPORT. The operations of Machine/Snap.lean leave the queue alone and keep the invariant of Safety.lean. -/
namespace Sys2Proof.Machine

theorem State.takeSnap_kept {q : List Instr} {s : State} {x : Snap} {late : Bool} (h : Kept q s) :
    Kept q (State.takeSnap s x late) := by
  unfold State.takeSnap
  with_reducible
    repeat'
      first | assumption | apply State.sendPub_kept | apply Kept.ite | apply foldl_kept | (intro)

theorem State.copySnap_kept {q : List Instr} {s : State} {k : Nat} {x : Snap} {late : Bool} (h : Kept q s) :
    Kept q (State.copySnap s k x late) := by
  unfold State.copySnap
  with_reducible
    repeat'
      first | assumption | apply State.onEpo_kept | apply State.takeSnap_kept | apply Kept.ite | (intro)

theorem State.armSnap_kept {q : List Instr} {s : State} {set : Option (List Nat)} {x : Snap} {noRef : Bool} (h : Kept q s) :
    Kept q (State.armSnap s set x noRef).2.2 := by
  unfold State.armSnap
  with_reducible
    repeat'
      first
        | assumption | extract_lets | apply State.set_kept | apply State.bump_kept | apply State.copySnap_kept | apply State.onEpo_kept
        | (refine Kept.of_snd (by assumption) ?_) | apply Kept.ite | apply Kept.ite_snd | split | (intro)

theorem snapArm_kept {q : List Instr} {s : State} (h : Kept q s) :
    Kept q (snapArm s).2 := by
  unfold snapArm
  with_reducible
    repeat'
      first | assumption | apply epoRes_kept | apply State.armSnap_kept

theorem snapCancel_kept {q : List Instr} {slot : Nat} {s : State} (h : Kept q s) :
    Kept q (snapCancel slot s) := by
  unfold snapCancel
  with_reducible
    repeat'
      first | assumption | apply State.onEpo_kept | apply epoRes_kept | apply Kept.ite | (intro)

theorem epoCmd_kept {q : List Instr} {f : Frame} {s : State} (h : Kept q s) :
    Kept q (epoCmd f s).2 := by
  unfold epoCmd
  with_reducible
    repeat'
      first
        | assumption | apply snapCancel_kept | apply snapArm_kept | apply subFree_kept | apply subAlloc_kept | apply State.unlock_kept
        | apply locked_kept | (refine Kept.of_snd (by assumption) ?_) | extract_lets | split | (intro)

theorem execSnapshotInstant_kept {q : List Instr} {sslot : Nat} {s : State} (h : Kept q s) :
    Ends q (execSnapshotInstant sslot s) := by
  unfold execSnapshotInstant
  with_reducible
    repeat'
      first | assumption | apply ends_next | apply ends_ite | apply State.copySnap_kept | apply Kept.ite | split | (intro)

theorem armEntries_kept {q : List Instr} {p : List Byte} {s : State} (h : Kept q s) :
    Kept q (armEntries p s).2 := by
  unfold armEntries
  with_reducible
    repeat'
      first
        | assumption | apply State.toHost_kept | apply State.armSnap_kept | apply Kept.ite | apply Kept.ite_snd | apply foldl_kept
        | apply foldl_fst_kept | apply foldl_snd_kept | (intro)

theorem execSnapreq_kept {q : List Instr} {f : Frame} {s : State} (h : Kept q s) :
    Ends q (execSnapreq f s) := by
  unfold execSnapreq
  with_reducible
    repeat'
      first
        | assumption | apply ends_next | apply ends_ite | apply State.settle_kept | apply State.take_kept | apply State.sendPosted_kept
        | apply armEntries_kept | apply State.onEpo_kept | apply Kept.ite | (intro)

theorem execSnaparm_kept {q : List Instr} {f : Frame} {s : State} (h : Kept q s) :
    Ends q (execSnaparm f s) := by
  unfold execSnaparm
  with_reducible
    repeat'
      first
        | assumption | apply ends_next | apply ends_ite | apply mgtRequest_kept | apply armEntries_kept | apply foldl_kept
        | apply State.sendPosted_kept | apply Kept.ite | apply foldl_kept | apply foldl_fst_kept | apply foldl_snd_kept | (intro)

theorem execSnapnack_kept {q : List Instr} {f : Frame} {s : State} (h : Kept q s) :
    Ends q (execSnapnack f s) := by
  unfold execSnapnack
  with_reducible
    repeat'
      first
        | assumption | apply ends_next | apply ends_ite | apply mgtRequest_kept | apply State.onEpo_kept | apply Kept.ite | split
        | (intro)

theorem execSnapreqTimeout_kept {q : List Instr} {s : State} (h : Kept q s) :
    Ends q (execSnapreqTimeout s) := by
  unfold execSnapreqTimeout
  with_reducible
    repeat'
      first | assumption | apply State.answer_kept | apply State.onEpo_kept | apply ends_next | split

theorem execScheduleDue_kept {q : List Instr} {entry : Nat} {s : State} (h : Kept q s) :
    Ends q (execScheduleDue entry s) := by
  unfold execScheduleDue
  with_reducible
    repeat'
      first
        | assumption | apply ends_next | apply ends_ite | apply State.onImg_kept | apply State.set_kept | apply State.onMgt_kept
        | apply State.startQueued_kept | apply State.requestVeer_kept | apply State.record_kept | apply State.bump_kept
        | apply State.copySnap_kept | apply State.toHost_kept | apply Kept.ite | (intro) | split | apply Kept.stage

end Sys2Proof.Machine
end

