-- ==== Sys2Proof/Laws/Regs.lean ====
section
/-! SUPPORT. The operations of Machine/Regs.lean leave the queue alone and keep the invariant of Safety.lean. -/
namespace Sys2Proof.Machine

theorem andThen_kept {q : List Instr} {x : State.Res × State} {on : Bool} {g : State → State.Res × State} (h : Kept q x.2)
    (hg : ∀ t : State, Kept q t → Kept q (g t).2) : Kept q (andThen x on g).2 :=
  Kept.ite_snd (fun _ => hg _ h) fun _ => h

theorem State.storeReg_kept {q : List Instr} {s : State} {r : RegRow} {key : Nat} {w : Nat} (h : Kept q s) :
    Kept q (State.storeReg s r key w) := by
  unfold State.storeReg
  with_reducible
    repeat'
      first | assumption | apply State.setWord_kept

theorem plain_kept {q : List Instr} {r : RegRow} {key : Nat} {w : Nat} {s : State} (h : Kept q s) :
    Kept q (plain r key w s).2 := by
  unfold plain
  with_reducible
    repeat'
      first | assumption | apply State.storeReg_kept

theorem badValue_kept {q : List Instr} {s : State} (h : Kept q s) :
    Kept q (badValue s).2 := by
  unfold badValue
  with_reducible
    repeat'
      first | assumption

theorem writeRng_kept {q : List Instr} {r : RegRow} {key : Nat} {w : Nat} {d : Nat} {s : State} (h : Kept q s) :
    Kept q (writeRng r key w d s).2 := by
  unfold writeRng
  with_reducible
    repeat'
      first
        | assumption | apply badValue_kept | apply State.storeReg_kept | apply State.reenable_kept | apply plain_kept
        | apply State.set_kept | apply State.insertWrite_kept | apply Kept.ite | apply Kept.ite_snd | (intro) | apply Kept.put_up

theorem writeSwc_kept {q : List Instr} {r : RegRow} {key : Nat} {w : Nat} {d : Nat} {s : State} (h : Kept q s) :
    Kept q (writeSwc r key w d s).2 := by
  unfold writeSwc
  with_reducible
    repeat'
      first
        | assumption | apply State.onSwc_kept | apply State.storeReg_kept | apply captureRestart_kept | apply packerFlush_kept
        | apply plain_kept | apply Kept.ite | apply Kept.ite_snd | (intro)

theorem writeTmq_kept {q : List Instr} {r : RegRow} {key : Nat} {w : Nat} {s : State} (h : Kept q s) :
    Kept q (writeTmq r key w s).2 := by
  have hn : Kept q (s.retime (plain r key w s).2) := State.retime_kept (plain_kept h)
  unfold writeTmq
  with_reducible
    repeat'
      first
        | assumption | extract_lets | apply policerFree_kept | apply policerAlloc_kept | apply badValue_kept | apply plain_kept
        | (refine Kept.of_snd (by assumption) ?_) | apply Kept.ite_snd | split | (intro)

theorem writeEpo_kept {q : List Instr} {f : Frame} {r : RegRow} {key : Nat} {w : Nat} {s : State} (h : Kept q s) :
    Kept q (writeEpo f r key w s).2 := by
  unfold writeEpo
  with_reducible
    repeat'
      first | assumption | apply epoCmd_kept | apply plain_kept | apply locked_kept | apply Kept.ite_snd | (intro)

theorem writeFpn_kept {q : List Instr} {r : RegRow} {key : Nat} {w : Nat} {d : Nat} {s : State} (h : Kept q s) :
    Kept q (writeFpn r key w d s).2 := by
  unfold writeFpn
  with_reducible
    repeat'
      first
        | assumption | apply plain_kept | apply State.setPinBit_kept | apply State.gpoSource_kept | apply Kept.ite_snd | apply foldl_kept
        | extract_lets | split | (intro)

theorem armStep_kept {q : List Instr} {e : Nat} {s : State} (h : Kept q s) :
    Kept q (armStep e s) := by
  unfold armStep
  with_reducible
    repeat'
      first | assumption | apply State.setEng_kept | apply Kept.ite | (intro)

theorem peCtl_kept {q : List Instr} {e : Nat} {w : Nat} {s : State} (h : Kept q s) :
    Kept q (peCtl e w s).2 := by
  unfold peCtl
  with_reducible
    repeat'
      first
        | assumption | apply armStep_kept | apply flushTaq_kept | apply engineStart_kept | apply releaseEngine_kept | apply flushTx_kept
        | apply flushRx_kept | apply State.haltEngine_kept | apply andThen_kept | apply Kept.ite_snd | (intro)

theorem writePio_kept {q : List Instr} {r : RegRow} {key : Nat} {w : Nat} {d : Nat} {s : State} (h : Kept q s) :
    Kept q (writePio r key w d s).2 := by
  unfold writePio
  with_reducible
    repeat'
      first
        | assumption | apply peCtl_kept | apply plain_kept | apply txqWrite_kept | apply taqActWrite_kept | apply idataWrite_kept
        | apply mailboxIn_kept | apply State.setFlags_kept | apply State.clearFlags_kept | apply gstart_kept | apply ghalt_kept
        | apply Kept.ite | apply Kept.ite_snd | (intro)

theorem writeCan_kept {q : List Instr} {f : Frame} {r : RegRow} {key : Nat} {w : Nat} {d : Nat} {s : State} (h : Kept q s) :
    Kept q (writeCan f r key w d s).2 := by
  unfold writeCan
  with_reducible
    repeat'
      first
        | assumption | apply canFree_kept | apply canAlloc_kept | apply State.unlock_kept | apply locked_kept | apply plain_kept
        | apply canCtl_kept | apply Kept.ite_snd | (intro)

theorem writeBrg_kept {q : List Instr} {r : RegRow} {key : Nat} {w : Nat} {s : State} (h : Kept q s) :
    Kept q (writeBrg r key w s).2 := by
  unfold writeBrg
  with_reducible
    repeat'
      first | assumption | apply State.storeReg_kept | apply dlogClear_kept | apply Kept.ite | apply Kept.ite_snd | (intro)

theorem writeTim_kept {q : List Instr} {r : RegRow} {key : Nat} {w : Nat} {s : State} (h : Kept q s) :
    Kept q (writeTim r key w s).2 := by
  unfold writeTim
  with_reducible
    repeat'
      first
        | assumption | apply latch_kept | apply relock_kept | apply plain_kept | apply setTime_kept | apply andThen_kept
        | apply Kept.ite_snd | (intro)

theorem writeRfx_kept {q : List Instr} {r : RegRow} {key : Nat} {w : Nat} {s : State} (h : Kept q s) :
    Kept q (writeRfx r key w s).2 := by
  unfold writeRfx
  with_reducible
    repeat'
      first
        | assumption | apply latchClear_kept | apply alarmPop_kept | apply plain_kept | apply Kept.ite | apply Kept.ite_snd | (intro)

theorem writeImg_kept {q : List Instr} {r : RegRow} {key : Nat} {w : Nat} {s : State} (h : Kept q s) :
    Kept q (writeImg r key w s).2 := by
  unfold writeImg
  with_reducible
    repeat'
      first | assumption | apply plain_kept | apply setCtl_kept | apply stgCtl_kept | apply mcCtl_kept | apply Kept.ite_snd | (intro)

theorem writePage_kept {q : List Instr} {f : Frame} {r : RegRow} {key : Nat} {w : Nat} {d : Nat} {s : State} (h : Kept q s) :
    Kept q (writePage f r key w d s).2 := by
  unfold writePage
  with_reducible
    repeat'
      first
        | assumption | apply plain_kept | apply ctxWrite_kept | apply kdWrite_kept | apply goWrite_kept | apply Kept.ite_snd | split
        | (intro)

theorem writeCry_kept {q : List Instr} {f : Frame} {r : RegRow} {key : Nat} {w : Nat} {s : State} (h : Kept q s) :
    Kept q (writeCry f r key w s).2 := by
  unfold writeCry
  with_reducible
    repeat'
      first
        | assumption | apply fuseCmd_kept | apply epochRotate_kept | apply locked_kept | apply State.unlock_kept | apply pageAlloc_kept
        | apply pageFree_kept | apply plain_kept | apply Kept.ite | apply Kept.ite_snd | (intro)

theorem writeCkr_kept {q : List Instr} {r : RegRow} {key : Nat} {w : Nat} {s : State} (h : Kept q s) :
    Kept q (writeCkr r key w s).2 := by
  unfold writeCkr
  with_reducible
    repeat'
      first
        | assumption | apply plain_kept | apply blkRst_kept | apply State.requestReset_kept | apply gateWrite_kept | apply Kept.ite_snd
        | split | (intro)

theorem writeMgt_kept {q : List Instr} {f : Frame} {r : RegRow} {key : Nat} {w : Nat} {s : State} (h : Kept q s) :
    Kept q (writeMgt f r key w s).2 := by
  unfold writeMgt
  with_reducible
    repeat'
      first
        | assumption | apply stWrite_kept | apply plogWrite_kept | apply vlogWrite_kept | apply evlWrite_kept | apply mbxWrite_kept
        | apply plain_kept | apply locked_kept | apply Kept.ite_snd | (intro)

theorem writeEffect_kept {q : List Instr} {f : Frame} {r : RegRow} {key : Nat} {w : Nat} {d : Nat} {s : State} (h : Kept q s) :
    Kept q (writeEffect f r key w d s).2 := by
  unfold writeEffect
  with_reducible
    repeat'
      first
        | assumption | apply hstCtl_kept | apply writeMgt_kept | apply writeCkr_kept | apply plain_kept | apply twnCtl_kept
        | apply writeCry_kept | apply writePage_kept | apply writeImg_kept | apply writeRfx_kept | apply writeTim_kept
        | apply writeBrg_kept | apply writeCan_kept | apply writePio_kept | apply writeFpn_kept | apply writeEpo_kept
        | apply writeTmq_kept | apply writeSwc_kept | apply writeRng_kept | apply Kept.ite_snd | split | (intro)

theorem regWrite_kept {q : List Instr} {f : Frame} {s : State} (h : Kept q s) :
    Kept q (regWrite f s).2 := by
  unfold regWrite
  with_reducible
    repeat'
      first
        | assumption | extract_lets | apply writeEffect_kept | (refine Kept.of_snd (by assumption) ?_) | apply Kept.ite
        | apply Kept.ite_snd | split | (intro)

theorem regRead_kept {q : List Instr} {at_ : Nat} {hub : Nat} {init : Nat} {s : State} (h : Kept q s) :
    Kept q (regRead at_ hub init s).2 := by
  unfold regRead
  with_reducible
    repeat'
      first
        | assumption | apply State.setWord_kept | apply idataRead_kept | apply rxqRead_kept | apply lockRead_kept
        | (refine Kept.of_snd (by assumption) ?_) | apply Kept.ite | apply Kept.ite_snd | split | (intro) | apply Kept.put_free

end Sys2Proof.Machine
end

