-- ==== Sys2Proof/Laws/Transact.lean ====
section
/-! SUPPORT. The operations of Machine/Transact.lean leave the queue alone and keep the invariant of Safety.lean. -/
namespace Sys2Proof.Machine

theorem State.answered_kept {q : List Instr} {t : Target} {f : Frame} {x : State.Res × State} (k2 : Kept q x.2) :
    Kept q (State.answered t f x) := by
  unfold State.answered
  with_reducible
    repeat'
      first | assumption | apply State.settle_kept

theorem readObjs_kept {q : List Instr} {f : Frame} {ecc : List (Nat × Bool)} {s : State} (h : Kept q s) :
    Kept q (readObjs f ecc s).2 := by
  unfold readObjs
  with_reducible
    repeat'
      first
        | assumption | apply State.bumpBy_kept | apply foldl_kept | apply State.repairObj_kept | apply Kept.ite | apply Kept.ite_snd
        | apply foldl_kept | apply foldl_fst_kept | apply foldl_snd_kept | (intro)

theorem readBulk_kept {q : List Instr} {b : BulkBuf} {f : Frame} {ecc : List (Nat × Bool)} {s : State} (h : Kept q s) :
    Kept q (readBulk b f ecc s).2 := by
  unfold readBulk
  with_reducible
    repeat'
      first
        | assumption | apply State.bumpBy_kept | apply foldl_kept | apply State.bump_kept | apply State.set_kept | apply Kept.ite
        | apply Kept.ite_snd | apply foldl_kept | apply foldl_fst_kept | apply foldl_snd_kept | (intro) | apply Mem.wf_writeN
        | apply Kept.bulk | apply Kept.nvm

theorem performRd_kept {q : List Instr} {t : Target} {f : Frame} {ecc : List (Nat × Bool)} {s : State} (h : Kept q s) :
    Kept q (performRd t f ecc s) := by
  unfold performRd
  split
  · exact State.answered_kept (regRead_kept h)
  · exact State.answered_kept (readObjs_kept h)
  · exact State.answered_kept (canRead_kept h)
  · exact Kept.ite (fun _ => State.answered_kept h) fun _ => State.answered_kept (readBulk_kept h)
  · exact bridgeRequest_kept (State.take_kept h)
  · exact State.settle_kept h
  · exact State.answered_kept h
  · split
    · exact State.take_kept (State.histRead_kept h ‹_›)
    · exact State.settle_kept h
  · exact State.answered_kept h

theorem performWr_kept {q : List Instr} {t : Target} {f : Frame} {s : State} (h : Kept q s) :
    Kept q (performWr t f s) := by
  unfold performWr
  with_reducible
    repeat'
      first
        | assumption | apply stagingWrite_kept | apply inboxWrite_kept | apply State.onPio_kept | apply bridgeRequest_kept
        | apply canWriteFrame_kept | apply State.answered_kept | apply epoWrite_kept | apply State.take_kept | apply State.settle_kept
        | apply regWrite_kept | (refine Kept.of_snd (by assumption) ?_) | apply Kept.ite | split | (intro) | apply Kept.put_bulk
        | apply Kept.bulk | apply Mem.wf_writeN

theorem rmwOn_kept {q : List Instr} {op : RmwOp} {f : Frame} {old : List Byte} {store : List Byte → State.Res × State} {s : State}
    (hg : ∀ l : List Byte, Kept q (store l).2) (h : Kept q s) : Kept q (rmwOn op f old store s).2 := by
  unfold rmwOn
  split
  · exact h
  · exact Kept.ite_snd (fun _ => hg _) fun _ => hg _

theorem rmwReg_kept {q : List Instr} {op : RmwOp} {f : Frame} {s : State} (h : Kept q s) :
    Kept q (rmwReg op f s).2 := by
  unfold rmwReg
  with_reducible
    repeat'
      first
        | assumption | apply regWrite_kept | apply regRead_kept | (refine Kept.of_snd (by assumption) ?_) | apply Kept.ite_snd
        | extract_lets | split | (intro)

theorem performRmw_kept {q : List Instr} {op : RmwOp} {t : Target} {f : Frame} {s : State} (h : Kept q s) :
    Kept q (performRmw op t f s) := by
  unfold performRmw
  with_reducible
    repeat'
      first
        | assumption | apply rmwReg_kept | apply State.settle_kept | apply State.take_kept | apply State.arrived_kept
        | apply State.answered_kept | apply rmwOn_kept | apply epoWrite_kept | apply canWrite_kept
        | (refine Kept.of_snd (by assumption) ?_) | apply Kept.ite | apply foldl_kept | apply foldl_fst_kept | apply foldl_snd_kept
        | split | (intro) | apply Kept.put_bulk | apply Mem.wf_writeN | apply Kept.bulk | apply Kept.nvm

theorem atTarget_kept {q : List Instr} {f : Frame} {perform : Target → State → State} {s : State}
    (hg : ∀ (t : Target) (u : State), Kept q u → Kept q (perform t u)) (h : Kept q s) : Kept q (atTarget f perform s) := by
  unfold atTarget
  split
  · split
    · exact State.settle_kept h
    · exact Kept.ite (fun _ => h) fun _ => hg _ s h
  · exact State.settle_kept h

theorem execRd_kept {q : List Instr} {f : Frame} {ecc : List (Nat × Bool)} {s : State} (h : Kept q s) :
    Ends q (execRd f ecc s) := by
  unfold execRd
  with_reducible
    repeat'
      first | assumption | apply performRd_kept | apply atTarget_kept | apply ends_next | apply Kept.ite | (intro)

theorem execWr_kept {q : List Instr} {f : Frame} {s : State} (h : Kept q s) :
    Ends q (execWr f s) := by
  unfold execWr
  with_reducible
    repeat'
      first | assumption | apply performWr_kept | apply atTarget_kept | apply ends_next | apply Kept.ite | (intro)

theorem execWrn_kept {q : List Instr} {f : Frame} {s : State} (h : Kept q s) :
    Ends q (execWrn f s) := by
  unfold execWrn
  with_reducible
    repeat'
      first | assumption | apply performWr_kept | apply atTarget_kept | apply ends_next | apply Kept.ite | (intro)

theorem execRegisterWrite_kept {q : List Instr} {f : Frame} {s : State} (h : Kept q s) :
    Ends q (execRegisterWrite f s) := by
  unfold execRegisterWrite
  with_reducible
    repeat'
      first | assumption | apply ends_next | apply ends_ite | apply atTarget_kept | apply performWr_kept | apply Kept.ite | (intro)

theorem execReadClear_kept {q : List Instr} {f : Frame} {s : State} (h : Kept q s) :
    Ends q (execReadClear f s) := by
  unfold execReadClear
  with_reducible
    repeat'
      first | assumption | apply performRd_kept | apply atTarget_kept | apply ends_next | apply Kept.ite | (intro)

theorem rmwCmd_kept {q : List Instr} {op : RmwOp} {f : Frame} {s : State} (h : Kept q s) :
    Kept q (rmwCmd op f s) := by
  unfold rmwCmd
  with_reducible
    repeat'
      first | assumption | apply atTarget_kept | apply performRmw_kept | apply Kept.ite | (intro)

theorem execSwap_kept {q : List Instr} {f : Frame} {s : State} (h : Kept q s) :
    Ends q (execSwap f s) := by
  unfold execSwap
  with_reducible
    repeat'
      first | assumption | apply rmwCmd_kept | apply ends_next

theorem execCas_kept {q : List Instr} {f : Frame} {s : State} (h : Kept q s) :
    Ends q (execCas f s) := by
  unfold execCas
  with_reducible
    repeat'
      first | assumption | apply rmwCmd_kept | apply ends_next

theorem execFadd_kept {q : List Instr} {f : Frame} {s : State} (h : Kept q s) :
    Ends q (execFadd f s) := by
  unfold execFadd
  with_reducible
    repeat'
      first | assumption | apply rmwCmd_kept | apply ends_next

theorem execFand_kept {q : List Instr} {f : Frame} {s : State} (h : Kept q s) :
    Ends q (execFand f s) := by
  unfold execFand
  with_reducible
    repeat'
      first | assumption | apply rmwCmd_kept | apply ends_next

theorem execFor_kept {q : List Instr} {f : Frame} {s : State} (h : Kept q s) :
    Ends q (execFor f s) := by
  unfold execFor
  with_reducible
    repeat'
      first | assumption | apply rmwCmd_kept | apply ends_next

theorem execFxor_kept {q : List Instr} {f : Frame} {s : State} (h : Kept q s) :
    Ends q (execFxor f s) := by
  unfold execFxor
  with_reducible
    repeat'
      first | assumption | apply rmwCmd_kept | apply ends_next

theorem State.partDone_kept {q : List Instr} {s : State} {port : Nat} {q' : Frame} {n : Nat} (h : Kept q s) :
    Kept q (State.partDone s port q' n) := by
  unfold State.partDone
  with_reducible
    repeat'
      first | assumption | apply State.complete_kept

theorem State.abortFar_kept {q : List Instr} {s t : State} {f : Frame} (h : Kept q s) (e : s.abortFar f = some t) : Kept q t := by
  unfold State.abortFar at e
  split at e
  · exact Option.some.inj e ▸ State.setBus_kept h
  · split at e
    · refine Option.some.inj e ▸ State.partDone_kept (State.setBus_kept ?_)
      split
      · exact State.noteDone_kept h
      · exact h
    · exact absurd e (by simp)

theorem State.abortJob_kept {q : List Instr} {s t : State} {f : Frame} (h : Kept q s) (e : s.abortJob f = some t) : Kept q t := by
  unfold State.abortJob at e
  extract_lets hit mark at e
  have hm : ∀ {α : Type} {o : Option α} {g : α → State}, o.map g = some t → (∀ a, Kept q (g a)) → Kept q t := by
    intro α o g hx hg
    cases o with
    | none => exact absurd hx (by simp)
    | some a => exact Option.some.inj hx ▸ hg a
  split at e
  · exact absurd e (by simp)
  · split at e
    · exact absurd e (by simp)
    · extract_lets u at e
      have hu : Kept q u := State.setPage_kept h
      split at e
      · split at e
        · exact Option.some.inj e ▸ State.onCry_kept hu
        · exact hm e fun _ => State.jobDone_kept hu
      · exact hm e fun _ => State.jobDone_kept hu

theorem State.abortCopy_kept {q : List Instr} {s t : State} {f : Frame} (h : Kept q s) (e : s.abortCopy f = some t) : Kept q t := by
  unfold State.abortCopy at e
  extract_lets hit at e
  cases hx : s.epo.copies.find? hit with
  | none =>
    rw [hx] at e
    exact absurd e (by simp)
  | some c =>
    rw [hx] at e
    exact Option.some.inj e ▸ State.partDone_kept (State.onEpo_kept h)

theorem State.abortRead_kept {q : List Instr} {s t : State} {f : Frame} (h : Kept q s) (e : s.abortRead f = some t) : Kept q t := by
  unfold State.abortRead at e
  extract_lets hit at e
  split at e
  · exact absurd e (by simp)
  · split at e
    · exact Option.some.inj e ▸ State.onHst_kept h
    · split at e
      · exact Option.some.inj e ▸ State.partDone_kept (State.onHst_kept h)
      · exact absurd e (by simp)

theorem execAbort_kept {q : List Instr} {f : Frame} {s : State} (h : Kept q s) :
    Ends q (execAbort f s) := by
  unfold execAbort
  extract_lets s1 mine
  have h1 : Kept q s1 := State.take_kept h
  refine ends_ite (fun _ => ends_next (State.answer_kept h1)) fun _ =>
    ends_ite (fun _ => ends_next (State.answer_kept (State.violation_kept h1))) fun _ => ?_
  split
  · rename_i t e
    refine ends_next ?_
    cases ha : s1.abortFar f with
    | some u => rw [ha] at e; exact Option.some.inj e ▸ State.abortFar_kept h1 ha
    | none =>
      cases hb : s1.abortJob f with
      | some u => rw [ha, hb] at e; exact Option.some.inj e ▸ State.abortJob_kept h1 hb
      | none =>
        cases hc : s1.abortCopy f with
        | some u => rw [ha, hb, hc] at e; exact Option.some.inj e ▸ State.abortCopy_kept h1 hc
        | none =>
          rw [ha, hb, hc] at e
          exact State.abortRead_kept h1 e
  · exact ends_next (Kept.ite (fun _ => State.answer_kept h1) fun _ => State.answer_kept h1)

end Sys2Proof.Machine
end

