-- ==== Sys2Proof/Laws/RegRows.lean ====
section
/-! SUPPORT. The operations of Machine/RegRows.lean leave the queue alone and keep the invariant of Safety.lean. -/
namespace Sys2Proof.Machine

/-- A request that passes the checks of R50 is performed at its target if the target's block is ready. -/
theorem State.Passes.run {s : State} {f : Frame} {t : Target} (h : s.Passes f t) (hb : t.block.any (fun b => s.blockBusy b) = false)
    (g : Target → State → State) : atTarget f g s = g t s := by
  obtain ⟨c, hc, ht, hp⟩ := h
  simp only [atTarget, hc, ht, hp, hb, Bool.false_eq_true, if_false]

/-- What a write that meets the effect of its register does. -/
theorem State.WritesReg.write {s : State} {f : Frame} {r : Fld} {i : Nat} {x : RegRow} (h : s.WritesReg f r i x) :
    execRegisterWrite f s = .next (match writeEffect f x (regOff f.offset) (wordOf f) (r.mult * i) s with
      | (some a, t) => t.settle 5 f a
      | (none, t) => t.take f) := by
  have hk : s.keyAt x (regOff f.offset) = regOff f.offset := by simp [State.keyAt, regKey, h.plain]
  have hd : regOff f.offset - x.off = r.mult * i := by rw [h.name, h.aim]; omega
  have e : regWrite f s = writeEffect f x (regOff f.offset) (wordOf f) (r.mult * i) s := by
    unfold regWrite
    simp only [h.row, hk]
    rw [if_neg (by rw [h.fixed]; simp), if_neg (by rw [h.works]; simp), hd]
  have ht : Target.block .reg = none := rfl
  unfold execRegisterWrite
  rw [if_pos h.kind, h.passes.run (by rw [ht]; rfl)]
  simp only [if_true, performWr, e, Target.port]
  all_goals (rcases writeEffect f x (regOff f.offset) (wordOf f) (r.mult * i) s with ⟨_ | _, _⟩ <;> rfl)

/-- A row whose aim holds is the write that carries it. -/
theorem State.WritesReg.row_eq {s : State} {f : Frame} {r : Fld} {i : Nat} {x : RegRow} (h : s.WritesReg f r i x) {aim : Bool} (ha : aim = true) :
    regRow f aim s = .next (match writeEffect f x (regOff f.offset) (wordOf f) (r.mult * i) s with
      | (some a, t) => t.settle 5 f a
      | (none, t) => t.take f) := by
  unfold regRow
  rw [if_pos ha, h.write]

/-- The request is aimed at the register. -/
theorem State.WritesReg.at_reg {s : State} {f : Frame} {r : Fld} {i n : Nat} {x : RegRow} (h : s.WritesReg f r i x) (hm : 0 < r.mult) (hi : i < n) :
    atReg f r n = true := by
  have : (r.off + r.mult * i - r.off) / r.mult = i := by
    rw [Nat.add_sub_cancel_left, Nat.mul_div_cancel_left _ hm]
  simp only [atReg, h.aim, this, hi, decide_true, Bool.and_self]

/-- The request is aimed at the only or first register. -/
theorem State.WritesReg.at_first {s : State} {f : Frame} {r : Fld} {n : Nat} {x : RegRow} (h : s.WritesReg f r 0 x) (hn : 0 < n) :
    atReg f r n = true := by
  have e : regOff f.offset = r.off := by rw [h.aim, Nat.mul_zero, Nat.add_zero]
  simp only [atReg, e, Nat.sub_self, Nat.zero_div, Nat.mul_zero, Nat.add_zero, hn, decide_true, Bool.and_self]

/-- A read of a register returns what regRead gives. -/
theorem State.ReadsReg.read {s : State} {f : Frame} {r : Fld} {i : Nat} (h : s.ReadsReg f r i) :
    execReadClear f s = .next (State.answered .reg f (regRead f.offset f.src f.init s)) := by
  unfold execReadClear
  rw [if_pos h.kind, h.passes.run rfl]
  simp only [if_true, performRd]

/-- A row whose aim holds is the read that carries it. -/
theorem State.ReadsReg.row_eq {s : State} {f : Frame} {r : Fld} {i : Nat} (h : s.ReadsReg f r i) {aim : Bool} (ha : aim = true) :
    readRow f aim s = .next (State.answered .reg f (regRead f.offset f.src f.init s)) := by
  unfold readRow
  rw [if_pos ha, h.read]

theorem regRow_kept {q : List Instr} {f : Frame} {aim : Bool} {s : State} (h : Kept q s) : Ends q (regRow f aim s) :=
  ends_ite (fun _ => execRegisterWrite_kept h) fun _ => ends_next h

theorem readRow_kept {q : List Instr} {f : Frame} {aim : Bool} {s : State} (h : Kept q s) : Ends q (readRow f aim s) :=
  ends_ite (fun _ => execReadClear_kept h) fun _ => ends_next h

theorem canRow_kept {q : List Instr} {k : Nat} {f : Frame} {s : State} (h : Kept q s) : Ends q (canRow k f s) := by
  unfold canRow
  with_reducible
    repeat'
      first | assumption | apply performWr_kept | apply atTarget_kept | apply ends_next | apply Kept.ite | (intro)

theorem execCmdLockRead_kept {q : List Instr} {lock : LockId} {f : Frame} {s : State} (h : Kept q s) : Ends q (execCmdLockRead lock f s) :=
  readRow_kept h

theorem execReleaseLock_kept {q : List Instr} {lock : LockId} {f : Frame} {s : State} (h : Kept q s) : Ends q (execReleaseLock lock f s) :=
  regRow_kept h

theorem execSubAlloc_kept {q : List Instr} {f : Frame} {s : State} (h : Kept q s) : Ends q (execSubAlloc f s) := regRow_kept h

theorem execSubFree_kept {q : List Instr} {f : Frame} {s : State} (h : Kept q s) : Ends q (execSubFree f s) := regRow_kept h

theorem execSnapArm_kept {q : List Instr} {f : Frame} {s : State} (h : Kept q s) : Ends q (execSnapArm f s) := regRow_kept h

theorem execSnapCancel_kept {q : List Instr} {f : Frame} {s : State} (h : Kept q s) : Ends q (execSnapCancel f s) := regRow_kept h

theorem execCanObjAlloc_kept {q : List Instr} {f : Frame} {s : State} (h : Kept q s) : Ends q (execCanObjAlloc f s) := regRow_kept h

theorem execCanObjFree_kept {q : List Instr} {f : Frame} {s : State} (h : Kept q s) : Ends q (execCanObjFree f s) := regRow_kept h

theorem execPageAlloc_kept {q : List Instr} {f : Frame} {s : State} (h : Kept q s) : Ends q (execPageAlloc f s) := regRow_kept h

theorem execPageFree_kept {q : List Instr} {f : Frame} {s : State} (h : Kept q s) : Ends q (execPageFree f s) := regRow_kept h

theorem execReenable_kept {q : List Instr} {f : Frame} {s : State} (h : Kept q s) : Ends q (execReenable f s) := regRow_kept h

theorem execBypInsertWrite_kept {q : List Instr} {f : Frame} {s : State} (h : Kept q s) : Ends q (execBypInsertWrite f s) :=
  regRow_kept h

theorem execCaptureRestart_kept {q : List Instr} {f : Frame} {s : State} (h : Kept q s) : Ends q (execCaptureRestart f s) :=
  regRow_kept h

theorem execPackerFlush_kept {q : List Instr} {f : Frame} {s : State} (h : Kept q s) : Ends q (execPackerFlush f s) := regRow_kept h

theorem execPolicerAlloc_kept {q : List Instr} {f : Frame} {s : State} (h : Kept q s) : Ends q (execPolicerAlloc f s) := regRow_kept h

theorem execPolicerFree_kept {q : List Instr} {f : Frame} {s : State} (h : Kept q s) : Ends q (execPolicerFree f s) := regRow_kept h

theorem execEngineHalt_kept {q : List Instr} {f : Frame} {s : State} (h : Kept q s) : Ends q (execEngineHalt f s) := regRow_kept h

theorem execEngineStart_kept {q : List Instr} {f : Frame} {s : State} (h : Kept q s) : Ends q (execEngineStart f s) := regRow_kept h

theorem execEngineStep_kept {q : List Instr} {f : Frame} {steps : Nat} {s : State} (h : Kept q s) : Ends q (execEngineStep f steps s) := by
  refine ends_ite (fun _ => ?_) fun _ => ends_next h
  obtain ⟨t, e, ht⟩ := execRegisterWrite_kept (f := f) h
  rw [e]
  exact ends_next (Kept.ite (fun _ => State.stepInstr_kept ht) fun _ => ht)

theorem execFlushrx_kept {q : List Instr} {f : Frame} {s : State} (h : Kept q s) : Ends q (execFlushrx f s) := regRow_kept h

theorem execFlushtx_kept {q : List Instr} {f : Frame} {s : State} (h : Kept q s) : Ends q (execFlushtx f s) := regRow_kept h

theorem execFlushtaq_kept {q : List Instr} {f : Frame} {s : State} (h : Kept q s) : Ends q (execFlushtaq f s) := regRow_kept h

theorem execRelease_kept {q : List Instr} {f : Frame} {s : State} (h : Kept q s) : Ends q (execRelease f s) := regRow_kept h

theorem execGstart_kept {q : List Instr} {f : Frame} {s : State} (h : Kept q s) : Ends q (execGstart f s) := regRow_kept h

theorem execGhalt_kept {q : List Instr} {f : Frame} {s : State} (h : Kept q s) : Ends q (execGhalt f s) := regRow_kept h

theorem execSfset_kept {q : List Instr} {f : Frame} {s : State} (h : Kept q s) : Ends q (execSfset f s) := regRow_kept h

theorem execSfclr_kept {q : List Instr} {f : Frame} {s : State} (h : Kept q s) : Ends q (execSfclr f s) := regRow_kept h

theorem execTxqWrite_kept {q : List Instr} {f : Frame} {s : State} (h : Kept q s) : Ends q (execTxqWrite f s) := regRow_kept h

theorem execRxqRead_kept {q : List Instr} {f : Frame} {s : State} (h : Kept q s) : Ends q (execRxqRead f s) := readRow_kept h

theorem execIdataWrite_kept {q : List Instr} {f : Frame} {s : State} (h : Kept q s) : Ends q (execIdataWrite f s) := regRow_kept h

theorem execIdataRead_kept {q : List Instr} {f : Frame} {s : State} (h : Kept q s) : Ends q (execIdataRead f s) := readRow_kept h

theorem execMailboxWrite_kept {q : List Instr} {pe : Nat} {k : Nat} {f : Option Frame} {s : State} (h : Kept q s) : Ends q (execMailboxWrite pe k f s) := by
  cases f with
  | none => exact ends_next (mailboxBound_kept h)
  | some f => exact regRow_kept h

theorem execTaqActWrite_kept {q : List Instr} {f : Frame} {s : State} (h : Kept q s) : Ends q (execTaqActWrite f s) := regRow_kept h

theorem execTxreq_kept {q : List Instr} {f : Frame} {s : State} (h : Kept q s) : Ends q (execTxreq f s) := canRow_kept h

theorem execTxabort_kept {q : List Instr} {f : Frame} {s : State} (h : Kept q s) : Ends q (execTxabort f s) := canRow_kept h

theorem execCanModeWrite_kept {q : List Instr} {f : Frame} {s : State} (h : Kept q s) : Ends q (execCanModeWrite f s) := regRow_kept h

theorem execRecover_kept {q : List Instr} {f : Frame} {s : State} (h : Kept q s) : Ends q (execRecover f s) := regRow_kept h

theorem execDlogClear_kept {q : List Instr} {f : Frame} {s : State} (h : Kept q s) : Ends q (execDlogClear f s) := regRow_kept h

theorem execRelock_kept {q : List Instr} {f : Frame} {s : State} (h : Kept q s) : Ends q (execRelock f s) := regRow_kept h

theorem execLatch_kept {q : List Instr} {f : Frame} {s : State} (h : Kept q s) : Ends q (execLatch f s) := regRow_kept h

theorem execSettime_kept {q : List Instr} {f : Frame} {s : State} (h : Kept q s) : Ends q (execSettime f s) := regRow_kept h

theorem execLatchClear_kept {q : List Instr} {f : Frame} {s : State} (h : Kept q s) : Ends q (execLatchClear f s) := regRow_kept h

theorem execAlmPop_kept {q : List Instr} {f : Frame} {s : State} (h : Kept q s) : Ends q (execAlmPop f s) := regRow_kept h

theorem execStagingOpen_kept {q : List Instr} {f : Frame} {s : State} (h : Kept q s) : Ends q (execStagingOpen f s) := regRow_kept h

theorem execStagingClose_kept {q : List Instr} {f : Frame} {s : State} (h : Kept q s) : Ends q (execStagingClose f s) := regRow_kept h

theorem execVerify_kept {q : List Instr} {f : Frame} {s : State} (h : Kept q s) : Ends q (execVerify f s) := regRow_kept h

theorem execActivate_kept {q : List Instr} {f : Frame} {s : State} (h : Kept q s) : Ends q (execActivate f s) := regRow_kept h

theorem execOvcopy_kept {q : List Instr} {f : Frame} {s : State} (h : Kept q s) : Ends q (execOvcopy f s) := regRow_kept h

theorem execModeRequest_kept {q : List Instr} {f : Frame} {s : State} (h : Kept q s) : Ends q (execModeRequest f s) := regRow_kept h

theorem execSettingsStore_kept {q : List Instr} {f : Frame} {s : State} (h : Kept q s) : Ends q (execSettingsStore f s) := regRow_kept h

theorem execSettingsErase_kept {q : List Instr} {f : Frame} {s : State} (h : Kept q s) : Ends q (execSettingsErase f s) := regRow_kept h

theorem execKeyDerive_kept {q : List Instr} {f : Frame} {s : State} (h : Kept q s) : Ends q (execKeyDerive f s) := regRow_kept h

theorem execKeyErase_kept {q : List Instr} {f : Frame} {s : State} (h : Kept q s) : Ends q (execKeyErase f s) := regRow_kept h

theorem execLaGo_kept {q : List Instr} {f : Frame} {s : State} (h : Kept q s) : Ends q (execLaGo f s) := regRow_kept h

theorem execCtxSave_kept {q : List Instr} {f : Frame} {s : State} (h : Kept q s) : Ends q (execCtxSave f s) := regRow_kept h

theorem execCtxRestore_kept {q : List Instr} {f : Frame} {s : State} (h : Kept q s) : Ends q (execCtxRestore f s) := regRow_kept h

theorem execEpochRotate_kept {q : List Instr} {f : Frame} {s : State} (h : Kept q s) : Ends q (execEpochRotate f s) := regRow_kept h

theorem execPgmFleet_kept {q : List Instr} {f : Frame} {s : State} (h : Kept q s) : Ends q (execPgmFleet f s) := regRow_kept h

theorem execPgmImgkey_kept {q : List Instr} {f : Frame} {s : State} (h : Kept q s) : Ends q (execPgmImgkey f s) := regRow_kept h

theorem execRevokeImgkey_kept {q : List Instr} {f : Frame} {s : State} (h : Kept q s) : Ends q (execRevokeImgkey f s) := regRow_kept h

theorem execRevokeJk0_kept {q : List Instr} {f : Frame} {s : State} (h : Kept q s) : Ends q (execRevokeJk0 f s) := regRow_kept h

theorem execReadImgkey_kept {q : List Instr} {f : Frame} {s : State} (h : Kept q s) : Ends q (execReadImgkey f s) := regRow_kept h

theorem execTwnFail_kept {q : List Instr} {f : Frame} {s : State} (h : Kept q s) : Ends q (execTwnFail f s) := regRow_kept h

theorem execVeer_kept {q : List Instr} {f : Frame} {s : State} (h : Kept q s) : Ends q (execVeer f s) := regRow_kept h

theorem execGateRequest_kept {q : List Instr} {f : Frame} {s : State} (h : Kept q s) : Ends q (execGateRequest f s) := regRow_kept h

theorem execGateClear_kept {q : List Instr} {f : Frame} {s : State} (h : Kept q s) : Ends q (execGateClear f s) := regRow_kept h

theorem execBlockReset_kept {q : List Instr} {f : Frame} {s : State} (h : Kept q s) : Ends q (execBlockReset f s) := regRow_kept h

theorem execEvlClear_kept {q : List Instr} {f : Frame} {s : State} (h : Kept q s) : Ends q (execEvlClear f s) := regRow_kept h

theorem execVlogClear_kept {q : List Instr} {f : Frame} {s : State} (h : Kept q s) : Ends q (execVlogClear f s) := regRow_kept h

theorem execPlogClear_kept {q : List Instr} {f : Frame} {s : State} (h : Kept q s) : Ends q (execPlogClear f s) := regRow_kept h

theorem execStScrub_kept {q : List Instr} {f : Frame} {s : State} (h : Kept q s) : Ends q (execStScrub f s) := regRow_kept h

theorem execStEye_kept {q : List Instr} {f : Frame} {s : State} (h : Kept q s) : Ends q (execStEye f s) := regRow_kept h

theorem execStClkmon_kept {q : List Instr} {f : Frame} {s : State} (h : Kept q s) : Ends q (execStClkmon f s) := regRow_kept h

theorem execStKat_kept {q : List Instr} {f : Frame} {s : State} (h : Kept q s) : Ends q (execStKat f s) := regRow_kept h

theorem execStPadrb_kept {q : List Instr} {f : Frame} {s : State} (h : Kept q s) : Ends q (execStPadrb f s) := regRow_kept h

theorem execStMbist_kept {q : List Instr} {f : Frame} {s : State} (h : Kept q s) : Ends q (execStMbist f s) := regRow_kept h

theorem execHstFlush_kept {q : List Instr} {f : Frame} {s : State} (h : Kept q s) : Ends q (execHstFlush f s) := regRow_kept h

theorem execHstMark_kept {q : List Instr} {f : Frame} {s : State} (h : Kept q s) : Ends q (execHstMark f s) := regRow_kept h

theorem execHstFormat_kept {q : List Instr} {f : Frame} {s : State} (h : Kept q s) : Ends q (execHstFormat f s) := regRow_kept h

theorem execHstResume_kept {q : List Instr} {f : Frame} {s : State} (h : Kept q s) : Ends q (execHstResume f s) := regRow_kept h

end Sys2Proof.Machine
end

