-- ==== Sys2Proof/Laws/State.lean ====
section
/-! SUPPORT. What each small update of the state leaves alone, field by field, and reads of a register field after a write. -/
namespace Sys2Proof.Machine.State

variable (s : State)

/-! ### setWord -/

@[simp] theorem setWord_imgRegs (key : Nat) (w : Word) : (s.setWord key w).imgRegs = s.imgRegs := rfl
@[simp] theorem setWord_hub (key : Nat) (w : Word) : (s.setWord key w).hub = s.hub := rfl
@[simp] theorem setWord_rng (key : Nat) (w : Word) : (s.setWord key w).rng = s.rng := rfl
@[simp] theorem setWord_swc (key : Nat) (w : Word) : (s.setWord key w).swc = s.swc := rfl
@[simp] theorem setWord_tmq (key : Nat) (w : Word) : (s.setWord key w).tmq = s.tmq := rfl
@[simp] theorem setWord_tim (key : Nat) (w : Word) : (s.setWord key w).tim = s.tim := rfl
@[simp] theorem setWord_mgt (key : Nat) (w : Word) : (s.setWord key w).mgt = s.mgt := rfl
@[simp] theorem setWord_img (key : Nat) (w : Word) : (s.setWord key w).img = s.img := rfl
@[simp] theorem setWord_cry (key : Nat) (w : Word) : (s.setWord key w).cry = s.cry := rfl
@[simp] theorem setWord_epo (key : Nat) (w : Word) : (s.setWord key w).epo = s.epo := rfl
@[simp] theorem setWord_phs (key : Nat) (w : Word) : (s.setWord key w).phs = s.phs := rfl
@[simp] theorem setWord_pio (key : Nat) (w : Word) : (s.setWord key w).pio = s.pio := rfl
@[simp] theorem setWord_fpn (key : Nat) (w : Word) : (s.setWord key w).fpn = s.fpn := rfl
@[simp] theorem setWord_twn (key : Nat) (w : Word) : (s.setWord key w).twn = s.twn := rfl
@[simp] theorem setWord_can (key : Nat) (w : Word) : (s.setWord key w).can = s.can := rfl
@[simp] theorem setWord_brg (key : Nat) (w : Word) : (s.setWord key w).brg = s.brg := rfl
@[simp] theorem setWord_rfx (key : Nat) (w : Word) : (s.setWord key w).rfx = s.rfx := rfl
@[simp] theorem setWord_ckr (key : Nat) (w : Word) : (s.setWord key w).ckr = s.ckr := rfl
@[simp] theorem setWord_pwr (key : Nat) (w : Word) : (s.setWord key w).pwr = s.pwr := rfl
@[simp] theorem setWord_hst (key : Nat) (w : Word) : (s.setWord key w).hst = s.hst := rfl
@[simp] theorem setWord_locks (key : Nat) (w : Word) : (s.setWord key w).locks = s.locks := rfl
@[simp] theorem setWord_recs (key : Nat) (w : Word) : (s.setWord key w).recs = s.recs := rfl
@[simp] theorem setWord_bulk (key : Nat) (w : Word) : (s.setWord key w).bulk = s.bulk := rfl
@[simp] theorem setWord_nvm (key : Nat) (w : Word) : (s.setWord key w).nvm = s.nvm := rfl
@[simp] theorem setWord_inbox (key : Nat) (w : Word) : (s.setWord key w).inbox = s.inbox := rfl
@[simp] theorem setWord_out (key : Nat) (w : Word) : (s.setWord key w).out = s.out := rfl
@[simp] theorem setWord_up (key : Nat) (w : Word) : (s.setWord key w).up = s.up := rfl
@[simp] theorem setWord_free (key : Nat) (w : Word) : (s.setWord key w).free = s.free := rfl
@[simp] theorem setWord_pending (key : Nat) (w : Word) : (s.setWord key w).pending = s.pending := rfl

/-! ### set -/

@[simp] theorem set_imgRegs (f : Fld) (i v : Nat) : (s.set f i v).imgRegs = s.imgRegs := rfl
@[simp] theorem set_hub (f : Fld) (i v : Nat) : (s.set f i v).hub = s.hub := rfl
@[simp] theorem set_rng (f : Fld) (i v : Nat) : (s.set f i v).rng = s.rng := rfl
@[simp] theorem set_swc (f : Fld) (i v : Nat) : (s.set f i v).swc = s.swc := rfl
@[simp] theorem set_tmq (f : Fld) (i v : Nat) : (s.set f i v).tmq = s.tmq := rfl
@[simp] theorem set_tim (f : Fld) (i v : Nat) : (s.set f i v).tim = s.tim := rfl
@[simp] theorem set_mgt (f : Fld) (i v : Nat) : (s.set f i v).mgt = s.mgt := rfl
@[simp] theorem set_img (f : Fld) (i v : Nat) : (s.set f i v).img = s.img := rfl
@[simp] theorem set_cry (f : Fld) (i v : Nat) : (s.set f i v).cry = s.cry := rfl
@[simp] theorem set_epo (f : Fld) (i v : Nat) : (s.set f i v).epo = s.epo := rfl
@[simp] theorem set_phs (f : Fld) (i v : Nat) : (s.set f i v).phs = s.phs := rfl
@[simp] theorem set_pio (f : Fld) (i v : Nat) : (s.set f i v).pio = s.pio := rfl
@[simp] theorem set_fpn (f : Fld) (i v : Nat) : (s.set f i v).fpn = s.fpn := rfl
@[simp] theorem set_twn (f : Fld) (i v : Nat) : (s.set f i v).twn = s.twn := rfl
@[simp] theorem set_can (f : Fld) (i v : Nat) : (s.set f i v).can = s.can := rfl
@[simp] theorem set_brg (f : Fld) (i v : Nat) : (s.set f i v).brg = s.brg := rfl
@[simp] theorem set_rfx (f : Fld) (i v : Nat) : (s.set f i v).rfx = s.rfx := rfl
@[simp] theorem set_ckr (f : Fld) (i v : Nat) : (s.set f i v).ckr = s.ckr := rfl
@[simp] theorem set_pwr (f : Fld) (i v : Nat) : (s.set f i v).pwr = s.pwr := rfl
@[simp] theorem set_hst (f : Fld) (i v : Nat) : (s.set f i v).hst = s.hst := rfl
@[simp] theorem set_locks (f : Fld) (i v : Nat) : (s.set f i v).locks = s.locks := rfl
@[simp] theorem set_recs (f : Fld) (i v : Nat) : (s.set f i v).recs = s.recs := rfl
@[simp] theorem set_bulk (f : Fld) (i v : Nat) : (s.set f i v).bulk = s.bulk := rfl
@[simp] theorem set_nvm (f : Fld) (i v : Nat) : (s.set f i v).nvm = s.nvm := rfl
@[simp] theorem set_inbox (f : Fld) (i v : Nat) : (s.set f i v).inbox = s.inbox := rfl
@[simp] theorem set_out (f : Fld) (i v : Nat) : (s.set f i v).out = s.out := rfl
@[simp] theorem set_up (f : Fld) (i v : Nat) : (s.set f i v).up = s.up := rfl
@[simp] theorem set_free (f : Fld) (i v : Nat) : (s.set f i v).free = s.free := rfl
@[simp] theorem set_pending (f : Fld) (i v : Nat) : (s.set f i v).pending = s.pending := rfl

/-! ### setB -/

@[simp] theorem setB_imgRegs (f : Fld) (i : Nat) (b : Bool) : (s.setB f i b).imgRegs = s.imgRegs := rfl
@[simp] theorem setB_hub (f : Fld) (i : Nat) (b : Bool) : (s.setB f i b).hub = s.hub := rfl
@[simp] theorem setB_rng (f : Fld) (i : Nat) (b : Bool) : (s.setB f i b).rng = s.rng := rfl
@[simp] theorem setB_swc (f : Fld) (i : Nat) (b : Bool) : (s.setB f i b).swc = s.swc := rfl
@[simp] theorem setB_tmq (f : Fld) (i : Nat) (b : Bool) : (s.setB f i b).tmq = s.tmq := rfl
@[simp] theorem setB_tim (f : Fld) (i : Nat) (b : Bool) : (s.setB f i b).tim = s.tim := rfl
@[simp] theorem setB_mgt (f : Fld) (i : Nat) (b : Bool) : (s.setB f i b).mgt = s.mgt := rfl
@[simp] theorem setB_img (f : Fld) (i : Nat) (b : Bool) : (s.setB f i b).img = s.img := rfl
@[simp] theorem setB_cry (f : Fld) (i : Nat) (b : Bool) : (s.setB f i b).cry = s.cry := rfl
@[simp] theorem setB_epo (f : Fld) (i : Nat) (b : Bool) : (s.setB f i b).epo = s.epo := rfl
@[simp] theorem setB_phs (f : Fld) (i : Nat) (b : Bool) : (s.setB f i b).phs = s.phs := rfl
@[simp] theorem setB_pio (f : Fld) (i : Nat) (b : Bool) : (s.setB f i b).pio = s.pio := rfl
@[simp] theorem setB_fpn (f : Fld) (i : Nat) (b : Bool) : (s.setB f i b).fpn = s.fpn := rfl
@[simp] theorem setB_twn (f : Fld) (i : Nat) (b : Bool) : (s.setB f i b).twn = s.twn := rfl
@[simp] theorem setB_can (f : Fld) (i : Nat) (b : Bool) : (s.setB f i b).can = s.can := rfl
@[simp] theorem setB_brg (f : Fld) (i : Nat) (b : Bool) : (s.setB f i b).brg = s.brg := rfl
@[simp] theorem setB_rfx (f : Fld) (i : Nat) (b : Bool) : (s.setB f i b).rfx = s.rfx := rfl
@[simp] theorem setB_ckr (f : Fld) (i : Nat) (b : Bool) : (s.setB f i b).ckr = s.ckr := rfl
@[simp] theorem setB_pwr (f : Fld) (i : Nat) (b : Bool) : (s.setB f i b).pwr = s.pwr := rfl
@[simp] theorem setB_hst (f : Fld) (i : Nat) (b : Bool) : (s.setB f i b).hst = s.hst := rfl
@[simp] theorem setB_locks (f : Fld) (i : Nat) (b : Bool) : (s.setB f i b).locks = s.locks := rfl
@[simp] theorem setB_recs (f : Fld) (i : Nat) (b : Bool) : (s.setB f i b).recs = s.recs := rfl
@[simp] theorem setB_bulk (f : Fld) (i : Nat) (b : Bool) : (s.setB f i b).bulk = s.bulk := rfl
@[simp] theorem setB_nvm (f : Fld) (i : Nat) (b : Bool) : (s.setB f i b).nvm = s.nvm := rfl
@[simp] theorem setB_inbox (f : Fld) (i : Nat) (b : Bool) : (s.setB f i b).inbox = s.inbox := rfl
@[simp] theorem setB_out (f : Fld) (i : Nat) (b : Bool) : (s.setB f i b).out = s.out := rfl
@[simp] theorem setB_up (f : Fld) (i : Nat) (b : Bool) : (s.setB f i b).up = s.up := rfl
@[simp] theorem setB_free (f : Fld) (i : Nat) (b : Bool) : (s.setB f i b).free = s.free := rfl
@[simp] theorem setB_pending (f : Fld) (i : Nat) (b : Bool) : (s.setB f i b).pending = s.pending := rfl

/-! ### bumpBy -/

@[simp] theorem bumpBy_imgRegs (f : Fld) (i n : Nat) : (s.bumpBy f i n).imgRegs = s.imgRegs := rfl
@[simp] theorem bumpBy_hub (f : Fld) (i n : Nat) : (s.bumpBy f i n).hub = s.hub := rfl
@[simp] theorem bumpBy_rng (f : Fld) (i n : Nat) : (s.bumpBy f i n).rng = s.rng := rfl
@[simp] theorem bumpBy_swc (f : Fld) (i n : Nat) : (s.bumpBy f i n).swc = s.swc := rfl
@[simp] theorem bumpBy_tmq (f : Fld) (i n : Nat) : (s.bumpBy f i n).tmq = s.tmq := rfl
@[simp] theorem bumpBy_tim (f : Fld) (i n : Nat) : (s.bumpBy f i n).tim = s.tim := rfl
@[simp] theorem bumpBy_mgt (f : Fld) (i n : Nat) : (s.bumpBy f i n).mgt = s.mgt := rfl
@[simp] theorem bumpBy_img (f : Fld) (i n : Nat) : (s.bumpBy f i n).img = s.img := rfl
@[simp] theorem bumpBy_cry (f : Fld) (i n : Nat) : (s.bumpBy f i n).cry = s.cry := rfl
@[simp] theorem bumpBy_epo (f : Fld) (i n : Nat) : (s.bumpBy f i n).epo = s.epo := rfl
@[simp] theorem bumpBy_phs (f : Fld) (i n : Nat) : (s.bumpBy f i n).phs = s.phs := rfl
@[simp] theorem bumpBy_pio (f : Fld) (i n : Nat) : (s.bumpBy f i n).pio = s.pio := rfl
@[simp] theorem bumpBy_fpn (f : Fld) (i n : Nat) : (s.bumpBy f i n).fpn = s.fpn := rfl
@[simp] theorem bumpBy_twn (f : Fld) (i n : Nat) : (s.bumpBy f i n).twn = s.twn := rfl
@[simp] theorem bumpBy_can (f : Fld) (i n : Nat) : (s.bumpBy f i n).can = s.can := rfl
@[simp] theorem bumpBy_brg (f : Fld) (i n : Nat) : (s.bumpBy f i n).brg = s.brg := rfl
@[simp] theorem bumpBy_rfx (f : Fld) (i n : Nat) : (s.bumpBy f i n).rfx = s.rfx := rfl
@[simp] theorem bumpBy_ckr (f : Fld) (i n : Nat) : (s.bumpBy f i n).ckr = s.ckr := rfl
@[simp] theorem bumpBy_pwr (f : Fld) (i n : Nat) : (s.bumpBy f i n).pwr = s.pwr := rfl
@[simp] theorem bumpBy_hst (f : Fld) (i n : Nat) : (s.bumpBy f i n).hst = s.hst := rfl
@[simp] theorem bumpBy_locks (f : Fld) (i n : Nat) : (s.bumpBy f i n).locks = s.locks := rfl
@[simp] theorem bumpBy_recs (f : Fld) (i n : Nat) : (s.bumpBy f i n).recs = s.recs := rfl
@[simp] theorem bumpBy_bulk (f : Fld) (i n : Nat) : (s.bumpBy f i n).bulk = s.bulk := rfl
@[simp] theorem bumpBy_nvm (f : Fld) (i n : Nat) : (s.bumpBy f i n).nvm = s.nvm := rfl
@[simp] theorem bumpBy_inbox (f : Fld) (i n : Nat) : (s.bumpBy f i n).inbox = s.inbox := rfl
@[simp] theorem bumpBy_out (f : Fld) (i n : Nat) : (s.bumpBy f i n).out = s.out := rfl
@[simp] theorem bumpBy_up (f : Fld) (i n : Nat) : (s.bumpBy f i n).up = s.up := rfl
@[simp] theorem bumpBy_free (f : Fld) (i n : Nat) : (s.bumpBy f i n).free = s.free := rfl
@[simp] theorem bumpBy_pending (f : Fld) (i n : Nat) : (s.bumpBy f i n).pending = s.pending := rfl

/-! ### bump -/

@[simp] theorem bump_imgRegs (f : Fld) (i : Nat) : (s.bump f i).imgRegs = s.imgRegs := rfl
@[simp] theorem bump_hub (f : Fld) (i : Nat) : (s.bump f i).hub = s.hub := rfl
@[simp] theorem bump_rng (f : Fld) (i : Nat) : (s.bump f i).rng = s.rng := rfl
@[simp] theorem bump_swc (f : Fld) (i : Nat) : (s.bump f i).swc = s.swc := rfl
@[simp] theorem bump_tmq (f : Fld) (i : Nat) : (s.bump f i).tmq = s.tmq := rfl
@[simp] theorem bump_tim (f : Fld) (i : Nat) : (s.bump f i).tim = s.tim := rfl
@[simp] theorem bump_mgt (f : Fld) (i : Nat) : (s.bump f i).mgt = s.mgt := rfl
@[simp] theorem bump_img (f : Fld) (i : Nat) : (s.bump f i).img = s.img := rfl
@[simp] theorem bump_cry (f : Fld) (i : Nat) : (s.bump f i).cry = s.cry := rfl
@[simp] theorem bump_epo (f : Fld) (i : Nat) : (s.bump f i).epo = s.epo := rfl
@[simp] theorem bump_phs (f : Fld) (i : Nat) : (s.bump f i).phs = s.phs := rfl
@[simp] theorem bump_pio (f : Fld) (i : Nat) : (s.bump f i).pio = s.pio := rfl
@[simp] theorem bump_fpn (f : Fld) (i : Nat) : (s.bump f i).fpn = s.fpn := rfl
@[simp] theorem bump_twn (f : Fld) (i : Nat) : (s.bump f i).twn = s.twn := rfl
@[simp] theorem bump_can (f : Fld) (i : Nat) : (s.bump f i).can = s.can := rfl
@[simp] theorem bump_brg (f : Fld) (i : Nat) : (s.bump f i).brg = s.brg := rfl
@[simp] theorem bump_rfx (f : Fld) (i : Nat) : (s.bump f i).rfx = s.rfx := rfl
@[simp] theorem bump_ckr (f : Fld) (i : Nat) : (s.bump f i).ckr = s.ckr := rfl
@[simp] theorem bump_pwr (f : Fld) (i : Nat) : (s.bump f i).pwr = s.pwr := rfl
@[simp] theorem bump_hst (f : Fld) (i : Nat) : (s.bump f i).hst = s.hst := rfl
@[simp] theorem bump_locks (f : Fld) (i : Nat) : (s.bump f i).locks = s.locks := rfl
@[simp] theorem bump_recs (f : Fld) (i : Nat) : (s.bump f i).recs = s.recs := rfl
@[simp] theorem bump_bulk (f : Fld) (i : Nat) : (s.bump f i).bulk = s.bulk := rfl
@[simp] theorem bump_nvm (f : Fld) (i : Nat) : (s.bump f i).nvm = s.nvm := rfl
@[simp] theorem bump_inbox (f : Fld) (i : Nat) : (s.bump f i).inbox = s.inbox := rfl
@[simp] theorem bump_out (f : Fld) (i : Nat) : (s.bump f i).out = s.out := rfl
@[simp] theorem bump_up (f : Fld) (i : Nat) : (s.bump f i).up = s.up := rfl
@[simp] theorem bump_free (f : Fld) (i : Nat) : (s.bump f i).free = s.free := rfl
@[simp] theorem bump_pending (f : Fld) (i : Nat) : (s.bump f i).pending = s.pending := rfl

/-! ### emit -/

@[simp] theorem emit_regs (e : Emit) : (s.emit e).regs = s.regs := rfl
@[simp] theorem emit_imgRegs (e : Emit) : (s.emit e).imgRegs = s.imgRegs := rfl
@[simp] theorem emit_hub (e : Emit) : (s.emit e).hub = s.hub := rfl
@[simp] theorem emit_rng (e : Emit) : (s.emit e).rng = s.rng := rfl
@[simp] theorem emit_swc (e : Emit) : (s.emit e).swc = s.swc := rfl
@[simp] theorem emit_tmq (e : Emit) : (s.emit e).tmq = s.tmq := rfl
@[simp] theorem emit_tim (e : Emit) : (s.emit e).tim = s.tim := rfl
@[simp] theorem emit_mgt (e : Emit) : (s.emit e).mgt = s.mgt := rfl
@[simp] theorem emit_img (e : Emit) : (s.emit e).img = s.img := rfl
@[simp] theorem emit_cry (e : Emit) : (s.emit e).cry = s.cry := rfl
@[simp] theorem emit_epo (e : Emit) : (s.emit e).epo = s.epo := rfl
@[simp] theorem emit_phs (e : Emit) : (s.emit e).phs = s.phs := rfl
@[simp] theorem emit_pio (e : Emit) : (s.emit e).pio = s.pio := rfl
@[simp] theorem emit_fpn (e : Emit) : (s.emit e).fpn = s.fpn := rfl
@[simp] theorem emit_twn (e : Emit) : (s.emit e).twn = s.twn := rfl
@[simp] theorem emit_can (e : Emit) : (s.emit e).can = s.can := rfl
@[simp] theorem emit_brg (e : Emit) : (s.emit e).brg = s.brg := rfl
@[simp] theorem emit_rfx (e : Emit) : (s.emit e).rfx = s.rfx := rfl
@[simp] theorem emit_ckr (e : Emit) : (s.emit e).ckr = s.ckr := rfl
@[simp] theorem emit_pwr (e : Emit) : (s.emit e).pwr = s.pwr := rfl
@[simp] theorem emit_hst (e : Emit) : (s.emit e).hst = s.hst := rfl
@[simp] theorem emit_locks (e : Emit) : (s.emit e).locks = s.locks := rfl
@[simp] theorem emit_recs (e : Emit) : (s.emit e).recs = s.recs := rfl
@[simp] theorem emit_bulk (e : Emit) : (s.emit e).bulk = s.bulk := rfl
@[simp] theorem emit_nvm (e : Emit) : (s.emit e).nvm = s.nvm := rfl
@[simp] theorem emit_inbox (e : Emit) : (s.emit e).inbox = s.inbox := rfl
@[simp] theorem emit_up (e : Emit) : (s.emit e).up = s.up := rfl
@[simp] theorem emit_free (e : Emit) : (s.emit e).free = s.free := rfl
@[simp] theorem emit_pending (e : Emit) : (s.emit e).pending = s.pending := rfl

/-! ### deliver -/

@[simp] theorem deliver_regs (u : Nat) (f : Frame) : (s.deliver u f).regs = s.regs := rfl
@[simp] theorem deliver_imgRegs (u : Nat) (f : Frame) : (s.deliver u f).imgRegs = s.imgRegs := rfl
@[simp] theorem deliver_hub (u : Nat) (f : Frame) : (s.deliver u f).hub = s.hub := rfl
@[simp] theorem deliver_rng (u : Nat) (f : Frame) : (s.deliver u f).rng = s.rng := rfl
@[simp] theorem deliver_swc (u : Nat) (f : Frame) : (s.deliver u f).swc = s.swc := rfl
@[simp] theorem deliver_tmq (u : Nat) (f : Frame) : (s.deliver u f).tmq = s.tmq := rfl
@[simp] theorem deliver_tim (u : Nat) (f : Frame) : (s.deliver u f).tim = s.tim := rfl
@[simp] theorem deliver_mgt (u : Nat) (f : Frame) : (s.deliver u f).mgt = s.mgt := rfl
@[simp] theorem deliver_img (u : Nat) (f : Frame) : (s.deliver u f).img = s.img := rfl
@[simp] theorem deliver_cry (u : Nat) (f : Frame) : (s.deliver u f).cry = s.cry := rfl
@[simp] theorem deliver_epo (u : Nat) (f : Frame) : (s.deliver u f).epo = s.epo := rfl
@[simp] theorem deliver_phs (u : Nat) (f : Frame) : (s.deliver u f).phs = s.phs := rfl
@[simp] theorem deliver_pio (u : Nat) (f : Frame) : (s.deliver u f).pio = s.pio := rfl
@[simp] theorem deliver_fpn (u : Nat) (f : Frame) : (s.deliver u f).fpn = s.fpn := rfl
@[simp] theorem deliver_twn (u : Nat) (f : Frame) : (s.deliver u f).twn = s.twn := rfl
@[simp] theorem deliver_can (u : Nat) (f : Frame) : (s.deliver u f).can = s.can := rfl
@[simp] theorem deliver_brg (u : Nat) (f : Frame) : (s.deliver u f).brg = s.brg := rfl
@[simp] theorem deliver_rfx (u : Nat) (f : Frame) : (s.deliver u f).rfx = s.rfx := rfl
@[simp] theorem deliver_ckr (u : Nat) (f : Frame) : (s.deliver u f).ckr = s.ckr := rfl
@[simp] theorem deliver_pwr (u : Nat) (f : Frame) : (s.deliver u f).pwr = s.pwr := rfl
@[simp] theorem deliver_hst (u : Nat) (f : Frame) : (s.deliver u f).hst = s.hst := rfl
@[simp] theorem deliver_locks (u : Nat) (f : Frame) : (s.deliver u f).locks = s.locks := rfl
@[simp] theorem deliver_recs (u : Nat) (f : Frame) : (s.deliver u f).recs = s.recs := rfl
@[simp] theorem deliver_bulk (u : Nat) (f : Frame) : (s.deliver u f).bulk = s.bulk := rfl
@[simp] theorem deliver_nvm (u : Nat) (f : Frame) : (s.deliver u f).nvm = s.nvm := rfl
@[simp] theorem deliver_out (u : Nat) (f : Frame) : (s.deliver u f).out = s.out := rfl
@[simp] theorem deliver_up (u : Nat) (f : Frame) : (s.deliver u f).up = s.up := rfl
@[simp] theorem deliver_free (u : Nat) (f : Frame) : (s.deliver u f).free = s.free := rfl
@[simp] theorem deliver_pending (u : Nat) (f : Frame) : (s.deliver u f).pending = s.pending := rfl

/-! ### take -/

@[simp] theorem take_regs (f : Frame) : (s.take f).regs = s.regs := rfl
@[simp] theorem take_imgRegs (f : Frame) : (s.take f).imgRegs = s.imgRegs := rfl
@[simp] theorem take_hub (f : Frame) : (s.take f).hub = s.hub := rfl
@[simp] theorem take_rng (f : Frame) : (s.take f).rng = s.rng := rfl
@[simp] theorem take_swc (f : Frame) : (s.take f).swc = s.swc := rfl
@[simp] theorem take_tmq (f : Frame) : (s.take f).tmq = s.tmq := rfl
@[simp] theorem take_tim (f : Frame) : (s.take f).tim = s.tim := rfl
@[simp] theorem take_mgt (f : Frame) : (s.take f).mgt = s.mgt := rfl
@[simp] theorem take_img (f : Frame) : (s.take f).img = s.img := rfl
@[simp] theorem take_cry (f : Frame) : (s.take f).cry = s.cry := rfl
@[simp] theorem take_epo (f : Frame) : (s.take f).epo = s.epo := rfl
@[simp] theorem take_phs (f : Frame) : (s.take f).phs = s.phs := rfl
@[simp] theorem take_pio (f : Frame) : (s.take f).pio = s.pio := rfl
@[simp] theorem take_fpn (f : Frame) : (s.take f).fpn = s.fpn := rfl
@[simp] theorem take_twn (f : Frame) : (s.take f).twn = s.twn := rfl
@[simp] theorem take_can (f : Frame) : (s.take f).can = s.can := rfl
@[simp] theorem take_brg (f : Frame) : (s.take f).brg = s.brg := rfl
@[simp] theorem take_rfx (f : Frame) : (s.take f).rfx = s.rfx := rfl
@[simp] theorem take_ckr (f : Frame) : (s.take f).ckr = s.ckr := rfl
@[simp] theorem take_pwr (f : Frame) : (s.take f).pwr = s.pwr := rfl
@[simp] theorem take_hst (f : Frame) : (s.take f).hst = s.hst := rfl
@[simp] theorem take_locks (f : Frame) : (s.take f).locks = s.locks := rfl
@[simp] theorem take_recs (f : Frame) : (s.take f).recs = s.recs := rfl
@[simp] theorem take_bulk (f : Frame) : (s.take f).bulk = s.bulk := rfl
@[simp] theorem take_nvm (f : Frame) : (s.take f).nvm = s.nvm := rfl
@[simp] theorem take_out (f : Frame) : (s.take f).out = s.out := rfl
@[simp] theorem take_up (f : Frame) : (s.take f).up = s.up := rfl
@[simp] theorem take_free (f : Frame) : (s.take f).free = s.free := rfl
@[simp] theorem take_pending (f : Frame) : (s.take f).pending = s.pending := rfl

/-! ### offer -/

@[simp] theorem offer_regs (p : Nat) (f : Frame) : (s.offer p f).regs = s.regs := rfl
@[simp] theorem offer_imgRegs (p : Nat) (f : Frame) : (s.offer p f).imgRegs = s.imgRegs := rfl
@[simp] theorem offer_hub (p : Nat) (f : Frame) : (s.offer p f).hub = s.hub := rfl
@[simp] theorem offer_rng (p : Nat) (f : Frame) : (s.offer p f).rng = s.rng := rfl
@[simp] theorem offer_tmq (p : Nat) (f : Frame) : (s.offer p f).tmq = s.tmq := rfl
@[simp] theorem offer_tim (p : Nat) (f : Frame) : (s.offer p f).tim = s.tim := rfl
@[simp] theorem offer_mgt (p : Nat) (f : Frame) : (s.offer p f).mgt = s.mgt := rfl
@[simp] theorem offer_img (p : Nat) (f : Frame) : (s.offer p f).img = s.img := rfl
@[simp] theorem offer_cry (p : Nat) (f : Frame) : (s.offer p f).cry = s.cry := rfl
@[simp] theorem offer_epo (p : Nat) (f : Frame) : (s.offer p f).epo = s.epo := rfl
@[simp] theorem offer_phs (p : Nat) (f : Frame) : (s.offer p f).phs = s.phs := rfl
@[simp] theorem offer_pio (p : Nat) (f : Frame) : (s.offer p f).pio = s.pio := rfl
@[simp] theorem offer_fpn (p : Nat) (f : Frame) : (s.offer p f).fpn = s.fpn := rfl
@[simp] theorem offer_twn (p : Nat) (f : Frame) : (s.offer p f).twn = s.twn := rfl
@[simp] theorem offer_can (p : Nat) (f : Frame) : (s.offer p f).can = s.can := rfl
@[simp] theorem offer_brg (p : Nat) (f : Frame) : (s.offer p f).brg = s.brg := rfl
@[simp] theorem offer_rfx (p : Nat) (f : Frame) : (s.offer p f).rfx = s.rfx := rfl
@[simp] theorem offer_ckr (p : Nat) (f : Frame) : (s.offer p f).ckr = s.ckr := rfl
@[simp] theorem offer_pwr (p : Nat) (f : Frame) : (s.offer p f).pwr = s.pwr := rfl
@[simp] theorem offer_hst (p : Nat) (f : Frame) : (s.offer p f).hst = s.hst := rfl
@[simp] theorem offer_locks (p : Nat) (f : Frame) : (s.offer p f).locks = s.locks := rfl
@[simp] theorem offer_recs (p : Nat) (f : Frame) : (s.offer p f).recs = s.recs := rfl
@[simp] theorem offer_bulk (p : Nat) (f : Frame) : (s.offer p f).bulk = s.bulk := rfl
@[simp] theorem offer_nvm (p : Nat) (f : Frame) : (s.offer p f).nvm = s.nvm := rfl
@[simp] theorem offer_inbox (p : Nat) (f : Frame) : (s.offer p f).inbox = s.inbox := rfl
@[simp] theorem offer_out (p : Nat) (f : Frame) : (s.offer p f).out = s.out := rfl
@[simp] theorem offer_up (p : Nat) (f : Frame) : (s.offer p f).up = s.up := rfl
@[simp] theorem offer_free (p : Nat) (f : Frame) : (s.offer p f).free = s.free := rfl
@[simp] theorem offer_pending (p : Nat) (f : Frame) : (s.offer p f).pending = s.pending := rfl

/-! ### record -/

@[simp] theorem record_regs (p : Nat) (r : HistRec) : (s.record p r).regs = s.regs := rfl
@[simp] theorem record_imgRegs (p : Nat) (r : HistRec) : (s.record p r).imgRegs = s.imgRegs := rfl
@[simp] theorem record_hub (p : Nat) (r : HistRec) : (s.record p r).hub = s.hub := rfl
@[simp] theorem record_rng (p : Nat) (r : HistRec) : (s.record p r).rng = s.rng := rfl
@[simp] theorem record_swc (p : Nat) (r : HistRec) : (s.record p r).swc = s.swc := rfl
@[simp] theorem record_tmq (p : Nat) (r : HistRec) : (s.record p r).tmq = s.tmq := rfl
@[simp] theorem record_tim (p : Nat) (r : HistRec) : (s.record p r).tim = s.tim := rfl
@[simp] theorem record_mgt (p : Nat) (r : HistRec) : (s.record p r).mgt = s.mgt := rfl
@[simp] theorem record_img (p : Nat) (r : HistRec) : (s.record p r).img = s.img := rfl
@[simp] theorem record_cry (p : Nat) (r : HistRec) : (s.record p r).cry = s.cry := rfl
@[simp] theorem record_epo (p : Nat) (r : HistRec) : (s.record p r).epo = s.epo := rfl
@[simp] theorem record_phs (p : Nat) (r : HistRec) : (s.record p r).phs = s.phs := rfl
@[simp] theorem record_pio (p : Nat) (r : HistRec) : (s.record p r).pio = s.pio := rfl
@[simp] theorem record_fpn (p : Nat) (r : HistRec) : (s.record p r).fpn = s.fpn := rfl
@[simp] theorem record_twn (p : Nat) (r : HistRec) : (s.record p r).twn = s.twn := rfl
@[simp] theorem record_can (p : Nat) (r : HistRec) : (s.record p r).can = s.can := rfl
@[simp] theorem record_brg (p : Nat) (r : HistRec) : (s.record p r).brg = s.brg := rfl
@[simp] theorem record_rfx (p : Nat) (r : HistRec) : (s.record p r).rfx = s.rfx := rfl
@[simp] theorem record_ckr (p : Nat) (r : HistRec) : (s.record p r).ckr = s.ckr := rfl
@[simp] theorem record_pwr (p : Nat) (r : HistRec) : (s.record p r).pwr = s.pwr := rfl
@[simp] theorem record_hst (p : Nat) (r : HistRec) : (s.record p r).hst = s.hst := rfl
@[simp] theorem record_locks (p : Nat) (r : HistRec) : (s.record p r).locks = s.locks := rfl
@[simp] theorem record_bulk (p : Nat) (r : HistRec) : (s.record p r).bulk = s.bulk := rfl
@[simp] theorem record_nvm (p : Nat) (r : HistRec) : (s.record p r).nvm = s.nvm := rfl
@[simp] theorem record_inbox (p : Nat) (r : HistRec) : (s.record p r).inbox = s.inbox := rfl
@[simp] theorem record_out (p : Nat) (r : HistRec) : (s.record p r).out = s.out := rfl
@[simp] theorem record_up (p : Nat) (r : HistRec) : (s.record p r).up = s.up := rfl
@[simp] theorem record_free (p : Nat) (r : HistRec) : (s.record p r).free = s.free := rfl
@[simp] theorem record_pending (p : Nat) (r : HistRec) : (s.record p r).pending = s.pending := rfl

/-! ### onHub -/

@[simp] theorem onHub_regs (g : HubSt → HubSt) : (s.onHub g).regs = s.regs := rfl
@[simp] theorem onHub_imgRegs (g : HubSt → HubSt) : (s.onHub g).imgRegs = s.imgRegs := rfl
@[simp] theorem onHub_rng (g : HubSt → HubSt) : (s.onHub g).rng = s.rng := rfl
@[simp] theorem onHub_swc (g : HubSt → HubSt) : (s.onHub g).swc = s.swc := rfl
@[simp] theorem onHub_tmq (g : HubSt → HubSt) : (s.onHub g).tmq = s.tmq := rfl
@[simp] theorem onHub_tim (g : HubSt → HubSt) : (s.onHub g).tim = s.tim := rfl
@[simp] theorem onHub_mgt (g : HubSt → HubSt) : (s.onHub g).mgt = s.mgt := rfl
@[simp] theorem onHub_img (g : HubSt → HubSt) : (s.onHub g).img = s.img := rfl
@[simp] theorem onHub_cry (g : HubSt → HubSt) : (s.onHub g).cry = s.cry := rfl
@[simp] theorem onHub_epo (g : HubSt → HubSt) : (s.onHub g).epo = s.epo := rfl
@[simp] theorem onHub_phs (g : HubSt → HubSt) : (s.onHub g).phs = s.phs := rfl
@[simp] theorem onHub_pio (g : HubSt → HubSt) : (s.onHub g).pio = s.pio := rfl
@[simp] theorem onHub_fpn (g : HubSt → HubSt) : (s.onHub g).fpn = s.fpn := rfl
@[simp] theorem onHub_twn (g : HubSt → HubSt) : (s.onHub g).twn = s.twn := rfl
@[simp] theorem onHub_can (g : HubSt → HubSt) : (s.onHub g).can = s.can := rfl
@[simp] theorem onHub_brg (g : HubSt → HubSt) : (s.onHub g).brg = s.brg := rfl
@[simp] theorem onHub_rfx (g : HubSt → HubSt) : (s.onHub g).rfx = s.rfx := rfl
@[simp] theorem onHub_ckr (g : HubSt → HubSt) : (s.onHub g).ckr = s.ckr := rfl
@[simp] theorem onHub_pwr (g : HubSt → HubSt) : (s.onHub g).pwr = s.pwr := rfl
@[simp] theorem onHub_hst (g : HubSt → HubSt) : (s.onHub g).hst = s.hst := rfl
@[simp] theorem onHub_locks (g : HubSt → HubSt) : (s.onHub g).locks = s.locks := rfl
@[simp] theorem onHub_recs (g : HubSt → HubSt) : (s.onHub g).recs = s.recs := rfl
@[simp] theorem onHub_bulk (g : HubSt → HubSt) : (s.onHub g).bulk = s.bulk := rfl
@[simp] theorem onHub_nvm (g : HubSt → HubSt) : (s.onHub g).nvm = s.nvm := rfl
@[simp] theorem onHub_inbox (g : HubSt → HubSt) : (s.onHub g).inbox = s.inbox := rfl
@[simp] theorem onHub_out (g : HubSt → HubSt) : (s.onHub g).out = s.out := rfl
@[simp] theorem onHub_up (g : HubSt → HubSt) : (s.onHub g).up = s.up := rfl
@[simp] theorem onHub_free (g : HubSt → HubSt) : (s.onHub g).free = s.free := rfl
@[simp] theorem onHub_pending (g : HubSt → HubSt) : (s.onHub g).pending = s.pending := rfl
@[simp] theorem onHub_hub (g : HubSt → HubSt) : (s.onHub g).hub = g s.hub := rfl

/-! ### onRng -/

@[simp] theorem onRng_regs (g : RngSt → RngSt) : (s.onRng g).regs = s.regs := rfl
@[simp] theorem onRng_imgRegs (g : RngSt → RngSt) : (s.onRng g).imgRegs = s.imgRegs := rfl
@[simp] theorem onRng_hub (g : RngSt → RngSt) : (s.onRng g).hub = s.hub := rfl
@[simp] theorem onRng_swc (g : RngSt → RngSt) : (s.onRng g).swc = s.swc := rfl
@[simp] theorem onRng_tmq (g : RngSt → RngSt) : (s.onRng g).tmq = s.tmq := rfl
@[simp] theorem onRng_tim (g : RngSt → RngSt) : (s.onRng g).tim = s.tim := rfl
@[simp] theorem onRng_mgt (g : RngSt → RngSt) : (s.onRng g).mgt = s.mgt := rfl
@[simp] theorem onRng_img (g : RngSt → RngSt) : (s.onRng g).img = s.img := rfl
@[simp] theorem onRng_cry (g : RngSt → RngSt) : (s.onRng g).cry = s.cry := rfl
@[simp] theorem onRng_epo (g : RngSt → RngSt) : (s.onRng g).epo = s.epo := rfl
@[simp] theorem onRng_phs (g : RngSt → RngSt) : (s.onRng g).phs = s.phs := rfl
@[simp] theorem onRng_pio (g : RngSt → RngSt) : (s.onRng g).pio = s.pio := rfl
@[simp] theorem onRng_fpn (g : RngSt → RngSt) : (s.onRng g).fpn = s.fpn := rfl
@[simp] theorem onRng_twn (g : RngSt → RngSt) : (s.onRng g).twn = s.twn := rfl
@[simp] theorem onRng_can (g : RngSt → RngSt) : (s.onRng g).can = s.can := rfl
@[simp] theorem onRng_brg (g : RngSt → RngSt) : (s.onRng g).brg = s.brg := rfl
@[simp] theorem onRng_rfx (g : RngSt → RngSt) : (s.onRng g).rfx = s.rfx := rfl
@[simp] theorem onRng_ckr (g : RngSt → RngSt) : (s.onRng g).ckr = s.ckr := rfl
@[simp] theorem onRng_pwr (g : RngSt → RngSt) : (s.onRng g).pwr = s.pwr := rfl
@[simp] theorem onRng_hst (g : RngSt → RngSt) : (s.onRng g).hst = s.hst := rfl
@[simp] theorem onRng_locks (g : RngSt → RngSt) : (s.onRng g).locks = s.locks := rfl
@[simp] theorem onRng_recs (g : RngSt → RngSt) : (s.onRng g).recs = s.recs := rfl
@[simp] theorem onRng_bulk (g : RngSt → RngSt) : (s.onRng g).bulk = s.bulk := rfl
@[simp] theorem onRng_nvm (g : RngSt → RngSt) : (s.onRng g).nvm = s.nvm := rfl
@[simp] theorem onRng_inbox (g : RngSt → RngSt) : (s.onRng g).inbox = s.inbox := rfl
@[simp] theorem onRng_out (g : RngSt → RngSt) : (s.onRng g).out = s.out := rfl
@[simp] theorem onRng_up (g : RngSt → RngSt) : (s.onRng g).up = s.up := rfl
@[simp] theorem onRng_free (g : RngSt → RngSt) : (s.onRng g).free = s.free := rfl
@[simp] theorem onRng_pending (g : RngSt → RngSt) : (s.onRng g).pending = s.pending := rfl
@[simp] theorem onRng_rng (g : RngSt → RngSt) : (s.onRng g).rng = g s.rng := rfl

/-! ### onSwc -/

@[simp] theorem onSwc_regs (g : SwcSt → SwcSt) : (s.onSwc g).regs = s.regs := rfl
@[simp] theorem onSwc_imgRegs (g : SwcSt → SwcSt) : (s.onSwc g).imgRegs = s.imgRegs := rfl
@[simp] theorem onSwc_hub (g : SwcSt → SwcSt) : (s.onSwc g).hub = s.hub := rfl
@[simp] theorem onSwc_rng (g : SwcSt → SwcSt) : (s.onSwc g).rng = s.rng := rfl
@[simp] theorem onSwc_tmq (g : SwcSt → SwcSt) : (s.onSwc g).tmq = s.tmq := rfl
@[simp] theorem onSwc_tim (g : SwcSt → SwcSt) : (s.onSwc g).tim = s.tim := rfl
@[simp] theorem onSwc_mgt (g : SwcSt → SwcSt) : (s.onSwc g).mgt = s.mgt := rfl
@[simp] theorem onSwc_img (g : SwcSt → SwcSt) : (s.onSwc g).img = s.img := rfl
@[simp] theorem onSwc_cry (g : SwcSt → SwcSt) : (s.onSwc g).cry = s.cry := rfl
@[simp] theorem onSwc_epo (g : SwcSt → SwcSt) : (s.onSwc g).epo = s.epo := rfl
@[simp] theorem onSwc_phs (g : SwcSt → SwcSt) : (s.onSwc g).phs = s.phs := rfl
@[simp] theorem onSwc_pio (g : SwcSt → SwcSt) : (s.onSwc g).pio = s.pio := rfl
@[simp] theorem onSwc_fpn (g : SwcSt → SwcSt) : (s.onSwc g).fpn = s.fpn := rfl
@[simp] theorem onSwc_twn (g : SwcSt → SwcSt) : (s.onSwc g).twn = s.twn := rfl
@[simp] theorem onSwc_can (g : SwcSt → SwcSt) : (s.onSwc g).can = s.can := rfl
@[simp] theorem onSwc_brg (g : SwcSt → SwcSt) : (s.onSwc g).brg = s.brg := rfl
@[simp] theorem onSwc_rfx (g : SwcSt → SwcSt) : (s.onSwc g).rfx = s.rfx := rfl
@[simp] theorem onSwc_ckr (g : SwcSt → SwcSt) : (s.onSwc g).ckr = s.ckr := rfl
@[simp] theorem onSwc_pwr (g : SwcSt → SwcSt) : (s.onSwc g).pwr = s.pwr := rfl
@[simp] theorem onSwc_hst (g : SwcSt → SwcSt) : (s.onSwc g).hst = s.hst := rfl
@[simp] theorem onSwc_locks (g : SwcSt → SwcSt) : (s.onSwc g).locks = s.locks := rfl
@[simp] theorem onSwc_recs (g : SwcSt → SwcSt) : (s.onSwc g).recs = s.recs := rfl
@[simp] theorem onSwc_bulk (g : SwcSt → SwcSt) : (s.onSwc g).bulk = s.bulk := rfl
@[simp] theorem onSwc_nvm (g : SwcSt → SwcSt) : (s.onSwc g).nvm = s.nvm := rfl
@[simp] theorem onSwc_inbox (g : SwcSt → SwcSt) : (s.onSwc g).inbox = s.inbox := rfl
@[simp] theorem onSwc_out (g : SwcSt → SwcSt) : (s.onSwc g).out = s.out := rfl
@[simp] theorem onSwc_up (g : SwcSt → SwcSt) : (s.onSwc g).up = s.up := rfl
@[simp] theorem onSwc_free (g : SwcSt → SwcSt) : (s.onSwc g).free = s.free := rfl
@[simp] theorem onSwc_pending (g : SwcSt → SwcSt) : (s.onSwc g).pending = s.pending := rfl
@[simp] theorem onSwc_swc (g : SwcSt → SwcSt) : (s.onSwc g).swc = g s.swc := rfl

/-! ### onTmq -/

@[simp] theorem onTmq_regs (g : TmqSt → TmqSt) : (s.onTmq g).regs = s.regs := rfl
@[simp] theorem onTmq_imgRegs (g : TmqSt → TmqSt) : (s.onTmq g).imgRegs = s.imgRegs := rfl
@[simp] theorem onTmq_hub (g : TmqSt → TmqSt) : (s.onTmq g).hub = s.hub := rfl
@[simp] theorem onTmq_rng (g : TmqSt → TmqSt) : (s.onTmq g).rng = s.rng := rfl
@[simp] theorem onTmq_swc (g : TmqSt → TmqSt) : (s.onTmq g).swc = s.swc := rfl
@[simp] theorem onTmq_tim (g : TmqSt → TmqSt) : (s.onTmq g).tim = s.tim := rfl
@[simp] theorem onTmq_mgt (g : TmqSt → TmqSt) : (s.onTmq g).mgt = s.mgt := rfl
@[simp] theorem onTmq_img (g : TmqSt → TmqSt) : (s.onTmq g).img = s.img := rfl
@[simp] theorem onTmq_cry (g : TmqSt → TmqSt) : (s.onTmq g).cry = s.cry := rfl
@[simp] theorem onTmq_epo (g : TmqSt → TmqSt) : (s.onTmq g).epo = s.epo := rfl
@[simp] theorem onTmq_phs (g : TmqSt → TmqSt) : (s.onTmq g).phs = s.phs := rfl
@[simp] theorem onTmq_pio (g : TmqSt → TmqSt) : (s.onTmq g).pio = s.pio := rfl
@[simp] theorem onTmq_fpn (g : TmqSt → TmqSt) : (s.onTmq g).fpn = s.fpn := rfl
@[simp] theorem onTmq_twn (g : TmqSt → TmqSt) : (s.onTmq g).twn = s.twn := rfl
@[simp] theorem onTmq_can (g : TmqSt → TmqSt) : (s.onTmq g).can = s.can := rfl
@[simp] theorem onTmq_brg (g : TmqSt → TmqSt) : (s.onTmq g).brg = s.brg := rfl
@[simp] theorem onTmq_rfx (g : TmqSt → TmqSt) : (s.onTmq g).rfx = s.rfx := rfl
@[simp] theorem onTmq_ckr (g : TmqSt → TmqSt) : (s.onTmq g).ckr = s.ckr := rfl
@[simp] theorem onTmq_pwr (g : TmqSt → TmqSt) : (s.onTmq g).pwr = s.pwr := rfl
@[simp] theorem onTmq_hst (g : TmqSt → TmqSt) : (s.onTmq g).hst = s.hst := rfl
@[simp] theorem onTmq_locks (g : TmqSt → TmqSt) : (s.onTmq g).locks = s.locks := rfl
@[simp] theorem onTmq_recs (g : TmqSt → TmqSt) : (s.onTmq g).recs = s.recs := rfl
@[simp] theorem onTmq_bulk (g : TmqSt → TmqSt) : (s.onTmq g).bulk = s.bulk := rfl
@[simp] theorem onTmq_nvm (g : TmqSt → TmqSt) : (s.onTmq g).nvm = s.nvm := rfl
@[simp] theorem onTmq_inbox (g : TmqSt → TmqSt) : (s.onTmq g).inbox = s.inbox := rfl
@[simp] theorem onTmq_out (g : TmqSt → TmqSt) : (s.onTmq g).out = s.out := rfl
@[simp] theorem onTmq_up (g : TmqSt → TmqSt) : (s.onTmq g).up = s.up := rfl
@[simp] theorem onTmq_free (g : TmqSt → TmqSt) : (s.onTmq g).free = s.free := rfl
@[simp] theorem onTmq_pending (g : TmqSt → TmqSt) : (s.onTmq g).pending = s.pending := rfl
@[simp] theorem onTmq_tmq (g : TmqSt → TmqSt) : (s.onTmq g).tmq = g s.tmq := rfl

/-! ### onTim -/

@[simp] theorem onTim_regs (g : TimSt → TimSt) : (s.onTim g).regs = s.regs := rfl
@[simp] theorem onTim_imgRegs (g : TimSt → TimSt) : (s.onTim g).imgRegs = s.imgRegs := rfl
@[simp] theorem onTim_hub (g : TimSt → TimSt) : (s.onTim g).hub = s.hub := rfl
@[simp] theorem onTim_rng (g : TimSt → TimSt) : (s.onTim g).rng = s.rng := rfl
@[simp] theorem onTim_swc (g : TimSt → TimSt) : (s.onTim g).swc = s.swc := rfl
@[simp] theorem onTim_tmq (g : TimSt → TimSt) : (s.onTim g).tmq = s.tmq := rfl
@[simp] theorem onTim_mgt (g : TimSt → TimSt) : (s.onTim g).mgt = s.mgt := rfl
@[simp] theorem onTim_img (g : TimSt → TimSt) : (s.onTim g).img = s.img := rfl
@[simp] theorem onTim_cry (g : TimSt → TimSt) : (s.onTim g).cry = s.cry := rfl
@[simp] theorem onTim_epo (g : TimSt → TimSt) : (s.onTim g).epo = s.epo := rfl
@[simp] theorem onTim_phs (g : TimSt → TimSt) : (s.onTim g).phs = s.phs := rfl
@[simp] theorem onTim_pio (g : TimSt → TimSt) : (s.onTim g).pio = s.pio := rfl
@[simp] theorem onTim_fpn (g : TimSt → TimSt) : (s.onTim g).fpn = s.fpn := rfl
@[simp] theorem onTim_twn (g : TimSt → TimSt) : (s.onTim g).twn = s.twn := rfl
@[simp] theorem onTim_can (g : TimSt → TimSt) : (s.onTim g).can = s.can := rfl
@[simp] theorem onTim_brg (g : TimSt → TimSt) : (s.onTim g).brg = s.brg := rfl
@[simp] theorem onTim_rfx (g : TimSt → TimSt) : (s.onTim g).rfx = s.rfx := rfl
@[simp] theorem onTim_ckr (g : TimSt → TimSt) : (s.onTim g).ckr = s.ckr := rfl
@[simp] theorem onTim_pwr (g : TimSt → TimSt) : (s.onTim g).pwr = s.pwr := rfl
@[simp] theorem onTim_hst (g : TimSt → TimSt) : (s.onTim g).hst = s.hst := rfl
@[simp] theorem onTim_locks (g : TimSt → TimSt) : (s.onTim g).locks = s.locks := rfl
@[simp] theorem onTim_recs (g : TimSt → TimSt) : (s.onTim g).recs = s.recs := rfl
@[simp] theorem onTim_bulk (g : TimSt → TimSt) : (s.onTim g).bulk = s.bulk := rfl
@[simp] theorem onTim_nvm (g : TimSt → TimSt) : (s.onTim g).nvm = s.nvm := rfl
@[simp] theorem onTim_inbox (g : TimSt → TimSt) : (s.onTim g).inbox = s.inbox := rfl
@[simp] theorem onTim_out (g : TimSt → TimSt) : (s.onTim g).out = s.out := rfl
@[simp] theorem onTim_up (g : TimSt → TimSt) : (s.onTim g).up = s.up := rfl
@[simp] theorem onTim_free (g : TimSt → TimSt) : (s.onTim g).free = s.free := rfl
@[simp] theorem onTim_pending (g : TimSt → TimSt) : (s.onTim g).pending = s.pending := rfl
@[simp] theorem onTim_tim (g : TimSt → TimSt) : (s.onTim g).tim = g s.tim := rfl

/-! ### onMgt -/

@[simp] theorem onMgt_regs (g : MgtSt → MgtSt) : (s.onMgt g).regs = s.regs := rfl
@[simp] theorem onMgt_imgRegs (g : MgtSt → MgtSt) : (s.onMgt g).imgRegs = s.imgRegs := rfl
@[simp] theorem onMgt_hub (g : MgtSt → MgtSt) : (s.onMgt g).hub = s.hub := rfl
@[simp] theorem onMgt_rng (g : MgtSt → MgtSt) : (s.onMgt g).rng = s.rng := rfl
@[simp] theorem onMgt_swc (g : MgtSt → MgtSt) : (s.onMgt g).swc = s.swc := rfl
@[simp] theorem onMgt_tmq (g : MgtSt → MgtSt) : (s.onMgt g).tmq = s.tmq := rfl
@[simp] theorem onMgt_tim (g : MgtSt → MgtSt) : (s.onMgt g).tim = s.tim := rfl
@[simp] theorem onMgt_img (g : MgtSt → MgtSt) : (s.onMgt g).img = s.img := rfl
@[simp] theorem onMgt_cry (g : MgtSt → MgtSt) : (s.onMgt g).cry = s.cry := rfl
@[simp] theorem onMgt_epo (g : MgtSt → MgtSt) : (s.onMgt g).epo = s.epo := rfl
@[simp] theorem onMgt_phs (g : MgtSt → MgtSt) : (s.onMgt g).phs = s.phs := rfl
@[simp] theorem onMgt_pio (g : MgtSt → MgtSt) : (s.onMgt g).pio = s.pio := rfl
@[simp] theorem onMgt_fpn (g : MgtSt → MgtSt) : (s.onMgt g).fpn = s.fpn := rfl
@[simp] theorem onMgt_twn (g : MgtSt → MgtSt) : (s.onMgt g).twn = s.twn := rfl
@[simp] theorem onMgt_can (g : MgtSt → MgtSt) : (s.onMgt g).can = s.can := rfl
@[simp] theorem onMgt_brg (g : MgtSt → MgtSt) : (s.onMgt g).brg = s.brg := rfl
@[simp] theorem onMgt_rfx (g : MgtSt → MgtSt) : (s.onMgt g).rfx = s.rfx := rfl
@[simp] theorem onMgt_ckr (g : MgtSt → MgtSt) : (s.onMgt g).ckr = s.ckr := rfl
@[simp] theorem onMgt_pwr (g : MgtSt → MgtSt) : (s.onMgt g).pwr = s.pwr := rfl
@[simp] theorem onMgt_hst (g : MgtSt → MgtSt) : (s.onMgt g).hst = s.hst := rfl
@[simp] theorem onMgt_locks (g : MgtSt → MgtSt) : (s.onMgt g).locks = s.locks := rfl
@[simp] theorem onMgt_recs (g : MgtSt → MgtSt) : (s.onMgt g).recs = s.recs := rfl
@[simp] theorem onMgt_bulk (g : MgtSt → MgtSt) : (s.onMgt g).bulk = s.bulk := rfl
@[simp] theorem onMgt_nvm (g : MgtSt → MgtSt) : (s.onMgt g).nvm = s.nvm := rfl
@[simp] theorem onMgt_inbox (g : MgtSt → MgtSt) : (s.onMgt g).inbox = s.inbox := rfl
@[simp] theorem onMgt_out (g : MgtSt → MgtSt) : (s.onMgt g).out = s.out := rfl
@[simp] theorem onMgt_up (g : MgtSt → MgtSt) : (s.onMgt g).up = s.up := rfl
@[simp] theorem onMgt_free (g : MgtSt → MgtSt) : (s.onMgt g).free = s.free := rfl
@[simp] theorem onMgt_pending (g : MgtSt → MgtSt) : (s.onMgt g).pending = s.pending := rfl
@[simp] theorem onMgt_mgt (g : MgtSt → MgtSt) : (s.onMgt g).mgt = g s.mgt := rfl

/-! ### onImg -/

@[simp] theorem onImg_regs (g : ImgSt → ImgSt) : (s.onImg g).regs = s.regs := rfl
@[simp] theorem onImg_imgRegs (g : ImgSt → ImgSt) : (s.onImg g).imgRegs = s.imgRegs := rfl
@[simp] theorem onImg_hub (g : ImgSt → ImgSt) : (s.onImg g).hub = s.hub := rfl
@[simp] theorem onImg_rng (g : ImgSt → ImgSt) : (s.onImg g).rng = s.rng := rfl
@[simp] theorem onImg_swc (g : ImgSt → ImgSt) : (s.onImg g).swc = s.swc := rfl
@[simp] theorem onImg_tmq (g : ImgSt → ImgSt) : (s.onImg g).tmq = s.tmq := rfl
@[simp] theorem onImg_tim (g : ImgSt → ImgSt) : (s.onImg g).tim = s.tim := rfl
@[simp] theorem onImg_mgt (g : ImgSt → ImgSt) : (s.onImg g).mgt = s.mgt := rfl
@[simp] theorem onImg_cry (g : ImgSt → ImgSt) : (s.onImg g).cry = s.cry := rfl
@[simp] theorem onImg_epo (g : ImgSt → ImgSt) : (s.onImg g).epo = s.epo := rfl
@[simp] theorem onImg_phs (g : ImgSt → ImgSt) : (s.onImg g).phs = s.phs := rfl
@[simp] theorem onImg_pio (g : ImgSt → ImgSt) : (s.onImg g).pio = s.pio := rfl
@[simp] theorem onImg_fpn (g : ImgSt → ImgSt) : (s.onImg g).fpn = s.fpn := rfl
@[simp] theorem onImg_twn (g : ImgSt → ImgSt) : (s.onImg g).twn = s.twn := rfl
@[simp] theorem onImg_can (g : ImgSt → ImgSt) : (s.onImg g).can = s.can := rfl
@[simp] theorem onImg_brg (g : ImgSt → ImgSt) : (s.onImg g).brg = s.brg := rfl
@[simp] theorem onImg_rfx (g : ImgSt → ImgSt) : (s.onImg g).rfx = s.rfx := rfl
@[simp] theorem onImg_ckr (g : ImgSt → ImgSt) : (s.onImg g).ckr = s.ckr := rfl
@[simp] theorem onImg_pwr (g : ImgSt → ImgSt) : (s.onImg g).pwr = s.pwr := rfl
@[simp] theorem onImg_hst (g : ImgSt → ImgSt) : (s.onImg g).hst = s.hst := rfl
@[simp] theorem onImg_locks (g : ImgSt → ImgSt) : (s.onImg g).locks = s.locks := rfl
@[simp] theorem onImg_recs (g : ImgSt → ImgSt) : (s.onImg g).recs = s.recs := rfl
@[simp] theorem onImg_bulk (g : ImgSt → ImgSt) : (s.onImg g).bulk = s.bulk := rfl
@[simp] theorem onImg_nvm (g : ImgSt → ImgSt) : (s.onImg g).nvm = s.nvm := rfl
@[simp] theorem onImg_inbox (g : ImgSt → ImgSt) : (s.onImg g).inbox = s.inbox := rfl
@[simp] theorem onImg_out (g : ImgSt → ImgSt) : (s.onImg g).out = s.out := rfl
@[simp] theorem onImg_up (g : ImgSt → ImgSt) : (s.onImg g).up = s.up := rfl
@[simp] theorem onImg_free (g : ImgSt → ImgSt) : (s.onImg g).free = s.free := rfl
@[simp] theorem onImg_pending (g : ImgSt → ImgSt) : (s.onImg g).pending = s.pending := rfl
@[simp] theorem onImg_img (g : ImgSt → ImgSt) : (s.onImg g).img = g s.img := rfl

/-! ### onCry -/

@[simp] theorem onCry_regs (g : CrySt → CrySt) : (s.onCry g).regs = s.regs := rfl
@[simp] theorem onCry_imgRegs (g : CrySt → CrySt) : (s.onCry g).imgRegs = s.imgRegs := rfl
@[simp] theorem onCry_hub (g : CrySt → CrySt) : (s.onCry g).hub = s.hub := rfl
@[simp] theorem onCry_rng (g : CrySt → CrySt) : (s.onCry g).rng = s.rng := rfl
@[simp] theorem onCry_swc (g : CrySt → CrySt) : (s.onCry g).swc = s.swc := rfl
@[simp] theorem onCry_tmq (g : CrySt → CrySt) : (s.onCry g).tmq = s.tmq := rfl
@[simp] theorem onCry_tim (g : CrySt → CrySt) : (s.onCry g).tim = s.tim := rfl
@[simp] theorem onCry_mgt (g : CrySt → CrySt) : (s.onCry g).mgt = s.mgt := rfl
@[simp] theorem onCry_img (g : CrySt → CrySt) : (s.onCry g).img = s.img := rfl
@[simp] theorem onCry_epo (g : CrySt → CrySt) : (s.onCry g).epo = s.epo := rfl
@[simp] theorem onCry_phs (g : CrySt → CrySt) : (s.onCry g).phs = s.phs := rfl
@[simp] theorem onCry_pio (g : CrySt → CrySt) : (s.onCry g).pio = s.pio := rfl
@[simp] theorem onCry_fpn (g : CrySt → CrySt) : (s.onCry g).fpn = s.fpn := rfl
@[simp] theorem onCry_twn (g : CrySt → CrySt) : (s.onCry g).twn = s.twn := rfl
@[simp] theorem onCry_can (g : CrySt → CrySt) : (s.onCry g).can = s.can := rfl
@[simp] theorem onCry_brg (g : CrySt → CrySt) : (s.onCry g).brg = s.brg := rfl
@[simp] theorem onCry_rfx (g : CrySt → CrySt) : (s.onCry g).rfx = s.rfx := rfl
@[simp] theorem onCry_ckr (g : CrySt → CrySt) : (s.onCry g).ckr = s.ckr := rfl
@[simp] theorem onCry_pwr (g : CrySt → CrySt) : (s.onCry g).pwr = s.pwr := rfl
@[simp] theorem onCry_hst (g : CrySt → CrySt) : (s.onCry g).hst = s.hst := rfl
@[simp] theorem onCry_locks (g : CrySt → CrySt) : (s.onCry g).locks = s.locks := rfl
@[simp] theorem onCry_recs (g : CrySt → CrySt) : (s.onCry g).recs = s.recs := rfl
@[simp] theorem onCry_bulk (g : CrySt → CrySt) : (s.onCry g).bulk = s.bulk := rfl
@[simp] theorem onCry_nvm (g : CrySt → CrySt) : (s.onCry g).nvm = s.nvm := rfl
@[simp] theorem onCry_inbox (g : CrySt → CrySt) : (s.onCry g).inbox = s.inbox := rfl
@[simp] theorem onCry_out (g : CrySt → CrySt) : (s.onCry g).out = s.out := rfl
@[simp] theorem onCry_up (g : CrySt → CrySt) : (s.onCry g).up = s.up := rfl
@[simp] theorem onCry_free (g : CrySt → CrySt) : (s.onCry g).free = s.free := rfl
@[simp] theorem onCry_pending (g : CrySt → CrySt) : (s.onCry g).pending = s.pending := rfl
@[simp] theorem onCry_cry (g : CrySt → CrySt) : (s.onCry g).cry = g s.cry := rfl

/-! ### onEpo -/

@[simp] theorem onEpo_regs (g : EpoSt → EpoSt) : (s.onEpo g).regs = s.regs := rfl
@[simp] theorem onEpo_imgRegs (g : EpoSt → EpoSt) : (s.onEpo g).imgRegs = s.imgRegs := rfl
@[simp] theorem onEpo_hub (g : EpoSt → EpoSt) : (s.onEpo g).hub = s.hub := rfl
@[simp] theorem onEpo_rng (g : EpoSt → EpoSt) : (s.onEpo g).rng = s.rng := rfl
@[simp] theorem onEpo_swc (g : EpoSt → EpoSt) : (s.onEpo g).swc = s.swc := rfl
@[simp] theorem onEpo_tmq (g : EpoSt → EpoSt) : (s.onEpo g).tmq = s.tmq := rfl
@[simp] theorem onEpo_tim (g : EpoSt → EpoSt) : (s.onEpo g).tim = s.tim := rfl
@[simp] theorem onEpo_mgt (g : EpoSt → EpoSt) : (s.onEpo g).mgt = s.mgt := rfl
@[simp] theorem onEpo_img (g : EpoSt → EpoSt) : (s.onEpo g).img = s.img := rfl
@[simp] theorem onEpo_cry (g : EpoSt → EpoSt) : (s.onEpo g).cry = s.cry := rfl
@[simp] theorem onEpo_phs (g : EpoSt → EpoSt) : (s.onEpo g).phs = s.phs := rfl
@[simp] theorem onEpo_pio (g : EpoSt → EpoSt) : (s.onEpo g).pio = s.pio := rfl
@[simp] theorem onEpo_fpn (g : EpoSt → EpoSt) : (s.onEpo g).fpn = s.fpn := rfl
@[simp] theorem onEpo_twn (g : EpoSt → EpoSt) : (s.onEpo g).twn = s.twn := rfl
@[simp] theorem onEpo_can (g : EpoSt → EpoSt) : (s.onEpo g).can = s.can := rfl
@[simp] theorem onEpo_brg (g : EpoSt → EpoSt) : (s.onEpo g).brg = s.brg := rfl
@[simp] theorem onEpo_rfx (g : EpoSt → EpoSt) : (s.onEpo g).rfx = s.rfx := rfl
@[simp] theorem onEpo_ckr (g : EpoSt → EpoSt) : (s.onEpo g).ckr = s.ckr := rfl
@[simp] theorem onEpo_pwr (g : EpoSt → EpoSt) : (s.onEpo g).pwr = s.pwr := rfl
@[simp] theorem onEpo_hst (g : EpoSt → EpoSt) : (s.onEpo g).hst = s.hst := rfl
@[simp] theorem onEpo_locks (g : EpoSt → EpoSt) : (s.onEpo g).locks = s.locks := rfl
@[simp] theorem onEpo_recs (g : EpoSt → EpoSt) : (s.onEpo g).recs = s.recs := rfl
@[simp] theorem onEpo_bulk (g : EpoSt → EpoSt) : (s.onEpo g).bulk = s.bulk := rfl
@[simp] theorem onEpo_nvm (g : EpoSt → EpoSt) : (s.onEpo g).nvm = s.nvm := rfl
@[simp] theorem onEpo_inbox (g : EpoSt → EpoSt) : (s.onEpo g).inbox = s.inbox := rfl
@[simp] theorem onEpo_out (g : EpoSt → EpoSt) : (s.onEpo g).out = s.out := rfl
@[simp] theorem onEpo_up (g : EpoSt → EpoSt) : (s.onEpo g).up = s.up := rfl
@[simp] theorem onEpo_free (g : EpoSt → EpoSt) : (s.onEpo g).free = s.free := rfl
@[simp] theorem onEpo_pending (g : EpoSt → EpoSt) : (s.onEpo g).pending = s.pending := rfl
@[simp] theorem onEpo_epo (g : EpoSt → EpoSt) : (s.onEpo g).epo = g s.epo := rfl

/-! ### onPio -/

@[simp] theorem onPio_regs (g : PioSt → PioSt) : (s.onPio g).regs = s.regs := rfl
@[simp] theorem onPio_imgRegs (g : PioSt → PioSt) : (s.onPio g).imgRegs = s.imgRegs := rfl
@[simp] theorem onPio_hub (g : PioSt → PioSt) : (s.onPio g).hub = s.hub := rfl
@[simp] theorem onPio_rng (g : PioSt → PioSt) : (s.onPio g).rng = s.rng := rfl
@[simp] theorem onPio_swc (g : PioSt → PioSt) : (s.onPio g).swc = s.swc := rfl
@[simp] theorem onPio_tmq (g : PioSt → PioSt) : (s.onPio g).tmq = s.tmq := rfl
@[simp] theorem onPio_tim (g : PioSt → PioSt) : (s.onPio g).tim = s.tim := rfl
@[simp] theorem onPio_mgt (g : PioSt → PioSt) : (s.onPio g).mgt = s.mgt := rfl
@[simp] theorem onPio_img (g : PioSt → PioSt) : (s.onPio g).img = s.img := rfl
@[simp] theorem onPio_cry (g : PioSt → PioSt) : (s.onPio g).cry = s.cry := rfl
@[simp] theorem onPio_epo (g : PioSt → PioSt) : (s.onPio g).epo = s.epo := rfl
@[simp] theorem onPio_phs (g : PioSt → PioSt) : (s.onPio g).phs = s.phs := rfl
@[simp] theorem onPio_fpn (g : PioSt → PioSt) : (s.onPio g).fpn = s.fpn := rfl
@[simp] theorem onPio_twn (g : PioSt → PioSt) : (s.onPio g).twn = s.twn := rfl
@[simp] theorem onPio_can (g : PioSt → PioSt) : (s.onPio g).can = s.can := rfl
@[simp] theorem onPio_brg (g : PioSt → PioSt) : (s.onPio g).brg = s.brg := rfl
@[simp] theorem onPio_rfx (g : PioSt → PioSt) : (s.onPio g).rfx = s.rfx := rfl
@[simp] theorem onPio_ckr (g : PioSt → PioSt) : (s.onPio g).ckr = s.ckr := rfl
@[simp] theorem onPio_pwr (g : PioSt → PioSt) : (s.onPio g).pwr = s.pwr := rfl
@[simp] theorem onPio_hst (g : PioSt → PioSt) : (s.onPio g).hst = s.hst := rfl
@[simp] theorem onPio_locks (g : PioSt → PioSt) : (s.onPio g).locks = s.locks := rfl
@[simp] theorem onPio_recs (g : PioSt → PioSt) : (s.onPio g).recs = s.recs := rfl
@[simp] theorem onPio_bulk (g : PioSt → PioSt) : (s.onPio g).bulk = s.bulk := rfl
@[simp] theorem onPio_nvm (g : PioSt → PioSt) : (s.onPio g).nvm = s.nvm := rfl
@[simp] theorem onPio_inbox (g : PioSt → PioSt) : (s.onPio g).inbox = s.inbox := rfl
@[simp] theorem onPio_out (g : PioSt → PioSt) : (s.onPio g).out = s.out := rfl
@[simp] theorem onPio_up (g : PioSt → PioSt) : (s.onPio g).up = s.up := rfl
@[simp] theorem onPio_free (g : PioSt → PioSt) : (s.onPio g).free = s.free := rfl
@[simp] theorem onPio_pending (g : PioSt → PioSt) : (s.onPio g).pending = s.pending := rfl
@[simp] theorem onPio_pio (g : PioSt → PioSt) : (s.onPio g).pio = g s.pio := rfl

/-! ### onFpn -/

@[simp] theorem onFpn_regs (g : FpnSt → FpnSt) : (s.onFpn g).regs = s.regs := rfl
@[simp] theorem onFpn_imgRegs (g : FpnSt → FpnSt) : (s.onFpn g).imgRegs = s.imgRegs := rfl
@[simp] theorem onFpn_hub (g : FpnSt → FpnSt) : (s.onFpn g).hub = s.hub := rfl
@[simp] theorem onFpn_rng (g : FpnSt → FpnSt) : (s.onFpn g).rng = s.rng := rfl
@[simp] theorem onFpn_swc (g : FpnSt → FpnSt) : (s.onFpn g).swc = s.swc := rfl
@[simp] theorem onFpn_tmq (g : FpnSt → FpnSt) : (s.onFpn g).tmq = s.tmq := rfl
@[simp] theorem onFpn_tim (g : FpnSt → FpnSt) : (s.onFpn g).tim = s.tim := rfl
@[simp] theorem onFpn_mgt (g : FpnSt → FpnSt) : (s.onFpn g).mgt = s.mgt := rfl
@[simp] theorem onFpn_img (g : FpnSt → FpnSt) : (s.onFpn g).img = s.img := rfl
@[simp] theorem onFpn_cry (g : FpnSt → FpnSt) : (s.onFpn g).cry = s.cry := rfl
@[simp] theorem onFpn_epo (g : FpnSt → FpnSt) : (s.onFpn g).epo = s.epo := rfl
@[simp] theorem onFpn_phs (g : FpnSt → FpnSt) : (s.onFpn g).phs = s.phs := rfl
@[simp] theorem onFpn_pio (g : FpnSt → FpnSt) : (s.onFpn g).pio = s.pio := rfl
@[simp] theorem onFpn_twn (g : FpnSt → FpnSt) : (s.onFpn g).twn = s.twn := rfl
@[simp] theorem onFpn_can (g : FpnSt → FpnSt) : (s.onFpn g).can = s.can := rfl
@[simp] theorem onFpn_brg (g : FpnSt → FpnSt) : (s.onFpn g).brg = s.brg := rfl
@[simp] theorem onFpn_rfx (g : FpnSt → FpnSt) : (s.onFpn g).rfx = s.rfx := rfl
@[simp] theorem onFpn_ckr (g : FpnSt → FpnSt) : (s.onFpn g).ckr = s.ckr := rfl
@[simp] theorem onFpn_pwr (g : FpnSt → FpnSt) : (s.onFpn g).pwr = s.pwr := rfl
@[simp] theorem onFpn_hst (g : FpnSt → FpnSt) : (s.onFpn g).hst = s.hst := rfl
@[simp] theorem onFpn_locks (g : FpnSt → FpnSt) : (s.onFpn g).locks = s.locks := rfl
@[simp] theorem onFpn_recs (g : FpnSt → FpnSt) : (s.onFpn g).recs = s.recs := rfl
@[simp] theorem onFpn_bulk (g : FpnSt → FpnSt) : (s.onFpn g).bulk = s.bulk := rfl
@[simp] theorem onFpn_nvm (g : FpnSt → FpnSt) : (s.onFpn g).nvm = s.nvm := rfl
@[simp] theorem onFpn_inbox (g : FpnSt → FpnSt) : (s.onFpn g).inbox = s.inbox := rfl
@[simp] theorem onFpn_out (g : FpnSt → FpnSt) : (s.onFpn g).out = s.out := rfl
@[simp] theorem onFpn_up (g : FpnSt → FpnSt) : (s.onFpn g).up = s.up := rfl
@[simp] theorem onFpn_free (g : FpnSt → FpnSt) : (s.onFpn g).free = s.free := rfl
@[simp] theorem onFpn_pending (g : FpnSt → FpnSt) : (s.onFpn g).pending = s.pending := rfl
@[simp] theorem onFpn_fpn (g : FpnSt → FpnSt) : (s.onFpn g).fpn = g s.fpn := rfl

/-! ### onTwn -/

@[simp] theorem onTwn_regs (g : TwnSt → TwnSt) : (s.onTwn g).regs = s.regs := rfl
@[simp] theorem onTwn_imgRegs (g : TwnSt → TwnSt) : (s.onTwn g).imgRegs = s.imgRegs := rfl
@[simp] theorem onTwn_hub (g : TwnSt → TwnSt) : (s.onTwn g).hub = s.hub := rfl
@[simp] theorem onTwn_rng (g : TwnSt → TwnSt) : (s.onTwn g).rng = s.rng := rfl
@[simp] theorem onTwn_swc (g : TwnSt → TwnSt) : (s.onTwn g).swc = s.swc := rfl
@[simp] theorem onTwn_tmq (g : TwnSt → TwnSt) : (s.onTwn g).tmq = s.tmq := rfl
@[simp] theorem onTwn_tim (g : TwnSt → TwnSt) : (s.onTwn g).tim = s.tim := rfl
@[simp] theorem onTwn_mgt (g : TwnSt → TwnSt) : (s.onTwn g).mgt = s.mgt := rfl
@[simp] theorem onTwn_img (g : TwnSt → TwnSt) : (s.onTwn g).img = s.img := rfl
@[simp] theorem onTwn_cry (g : TwnSt → TwnSt) : (s.onTwn g).cry = s.cry := rfl
@[simp] theorem onTwn_epo (g : TwnSt → TwnSt) : (s.onTwn g).epo = s.epo := rfl
@[simp] theorem onTwn_phs (g : TwnSt → TwnSt) : (s.onTwn g).phs = s.phs := rfl
@[simp] theorem onTwn_pio (g : TwnSt → TwnSt) : (s.onTwn g).pio = s.pio := rfl
@[simp] theorem onTwn_fpn (g : TwnSt → TwnSt) : (s.onTwn g).fpn = s.fpn := rfl
@[simp] theorem onTwn_can (g : TwnSt → TwnSt) : (s.onTwn g).can = s.can := rfl
@[simp] theorem onTwn_brg (g : TwnSt → TwnSt) : (s.onTwn g).brg = s.brg := rfl
@[simp] theorem onTwn_rfx (g : TwnSt → TwnSt) : (s.onTwn g).rfx = s.rfx := rfl
@[simp] theorem onTwn_ckr (g : TwnSt → TwnSt) : (s.onTwn g).ckr = s.ckr := rfl
@[simp] theorem onTwn_pwr (g : TwnSt → TwnSt) : (s.onTwn g).pwr = s.pwr := rfl
@[simp] theorem onTwn_hst (g : TwnSt → TwnSt) : (s.onTwn g).hst = s.hst := rfl
@[simp] theorem onTwn_locks (g : TwnSt → TwnSt) : (s.onTwn g).locks = s.locks := rfl
@[simp] theorem onTwn_recs (g : TwnSt → TwnSt) : (s.onTwn g).recs = s.recs := rfl
@[simp] theorem onTwn_bulk (g : TwnSt → TwnSt) : (s.onTwn g).bulk = s.bulk := rfl
@[simp] theorem onTwn_nvm (g : TwnSt → TwnSt) : (s.onTwn g).nvm = s.nvm := rfl
@[simp] theorem onTwn_inbox (g : TwnSt → TwnSt) : (s.onTwn g).inbox = s.inbox := rfl
@[simp] theorem onTwn_out (g : TwnSt → TwnSt) : (s.onTwn g).out = s.out := rfl
@[simp] theorem onTwn_up (g : TwnSt → TwnSt) : (s.onTwn g).up = s.up := rfl
@[simp] theorem onTwn_free (g : TwnSt → TwnSt) : (s.onTwn g).free = s.free := rfl
@[simp] theorem onTwn_pending (g : TwnSt → TwnSt) : (s.onTwn g).pending = s.pending := rfl
@[simp] theorem onTwn_twn (g : TwnSt → TwnSt) : (s.onTwn g).twn = g s.twn := rfl

/-! ### onRfx -/

@[simp] theorem onRfx_regs (g : RfxSt → RfxSt) : (s.onRfx g).regs = s.regs := rfl
@[simp] theorem onRfx_imgRegs (g : RfxSt → RfxSt) : (s.onRfx g).imgRegs = s.imgRegs := rfl
@[simp] theorem onRfx_hub (g : RfxSt → RfxSt) : (s.onRfx g).hub = s.hub := rfl
@[simp] theorem onRfx_rng (g : RfxSt → RfxSt) : (s.onRfx g).rng = s.rng := rfl
@[simp] theorem onRfx_swc (g : RfxSt → RfxSt) : (s.onRfx g).swc = s.swc := rfl
@[simp] theorem onRfx_tmq (g : RfxSt → RfxSt) : (s.onRfx g).tmq = s.tmq := rfl
@[simp] theorem onRfx_tim (g : RfxSt → RfxSt) : (s.onRfx g).tim = s.tim := rfl
@[simp] theorem onRfx_mgt (g : RfxSt → RfxSt) : (s.onRfx g).mgt = s.mgt := rfl
@[simp] theorem onRfx_img (g : RfxSt → RfxSt) : (s.onRfx g).img = s.img := rfl
@[simp] theorem onRfx_cry (g : RfxSt → RfxSt) : (s.onRfx g).cry = s.cry := rfl
@[simp] theorem onRfx_epo (g : RfxSt → RfxSt) : (s.onRfx g).epo = s.epo := rfl
@[simp] theorem onRfx_phs (g : RfxSt → RfxSt) : (s.onRfx g).phs = s.phs := rfl
@[simp] theorem onRfx_pio (g : RfxSt → RfxSt) : (s.onRfx g).pio = s.pio := rfl
@[simp] theorem onRfx_fpn (g : RfxSt → RfxSt) : (s.onRfx g).fpn = s.fpn := rfl
@[simp] theorem onRfx_twn (g : RfxSt → RfxSt) : (s.onRfx g).twn = s.twn := rfl
@[simp] theorem onRfx_can (g : RfxSt → RfxSt) : (s.onRfx g).can = s.can := rfl
@[simp] theorem onRfx_brg (g : RfxSt → RfxSt) : (s.onRfx g).brg = s.brg := rfl
@[simp] theorem onRfx_ckr (g : RfxSt → RfxSt) : (s.onRfx g).ckr = s.ckr := rfl
@[simp] theorem onRfx_pwr (g : RfxSt → RfxSt) : (s.onRfx g).pwr = s.pwr := rfl
@[simp] theorem onRfx_hst (g : RfxSt → RfxSt) : (s.onRfx g).hst = s.hst := rfl
@[simp] theorem onRfx_locks (g : RfxSt → RfxSt) : (s.onRfx g).locks = s.locks := rfl
@[simp] theorem onRfx_recs (g : RfxSt → RfxSt) : (s.onRfx g).recs = s.recs := rfl
@[simp] theorem onRfx_bulk (g : RfxSt → RfxSt) : (s.onRfx g).bulk = s.bulk := rfl
@[simp] theorem onRfx_nvm (g : RfxSt → RfxSt) : (s.onRfx g).nvm = s.nvm := rfl
@[simp] theorem onRfx_inbox (g : RfxSt → RfxSt) : (s.onRfx g).inbox = s.inbox := rfl
@[simp] theorem onRfx_out (g : RfxSt → RfxSt) : (s.onRfx g).out = s.out := rfl
@[simp] theorem onRfx_up (g : RfxSt → RfxSt) : (s.onRfx g).up = s.up := rfl
@[simp] theorem onRfx_free (g : RfxSt → RfxSt) : (s.onRfx g).free = s.free := rfl
@[simp] theorem onRfx_pending (g : RfxSt → RfxSt) : (s.onRfx g).pending = s.pending := rfl
@[simp] theorem onRfx_rfx (g : RfxSt → RfxSt) : (s.onRfx g).rfx = g s.rfx := rfl

/-! ### onBrg -/

@[simp] theorem onBrg_regs (g : BrgSt → BrgSt) : (s.onBrg g).regs = s.regs := rfl
@[simp] theorem onBrg_imgRegs (g : BrgSt → BrgSt) : (s.onBrg g).imgRegs = s.imgRegs := rfl
@[simp] theorem onBrg_hub (g : BrgSt → BrgSt) : (s.onBrg g).hub = s.hub := rfl
@[simp] theorem onBrg_rng (g : BrgSt → BrgSt) : (s.onBrg g).rng = s.rng := rfl
@[simp] theorem onBrg_swc (g : BrgSt → BrgSt) : (s.onBrg g).swc = s.swc := rfl
@[simp] theorem onBrg_tmq (g : BrgSt → BrgSt) : (s.onBrg g).tmq = s.tmq := rfl
@[simp] theorem onBrg_tim (g : BrgSt → BrgSt) : (s.onBrg g).tim = s.tim := rfl
@[simp] theorem onBrg_mgt (g : BrgSt → BrgSt) : (s.onBrg g).mgt = s.mgt := rfl
@[simp] theorem onBrg_img (g : BrgSt → BrgSt) : (s.onBrg g).img = s.img := rfl
@[simp] theorem onBrg_cry (g : BrgSt → BrgSt) : (s.onBrg g).cry = s.cry := rfl
@[simp] theorem onBrg_epo (g : BrgSt → BrgSt) : (s.onBrg g).epo = s.epo := rfl
@[simp] theorem onBrg_phs (g : BrgSt → BrgSt) : (s.onBrg g).phs = s.phs := rfl
@[simp] theorem onBrg_pio (g : BrgSt → BrgSt) : (s.onBrg g).pio = s.pio := rfl
@[simp] theorem onBrg_fpn (g : BrgSt → BrgSt) : (s.onBrg g).fpn = s.fpn := rfl
@[simp] theorem onBrg_twn (g : BrgSt → BrgSt) : (s.onBrg g).twn = s.twn := rfl
@[simp] theorem onBrg_can (g : BrgSt → BrgSt) : (s.onBrg g).can = s.can := rfl
@[simp] theorem onBrg_rfx (g : BrgSt → BrgSt) : (s.onBrg g).rfx = s.rfx := rfl
@[simp] theorem onBrg_ckr (g : BrgSt → BrgSt) : (s.onBrg g).ckr = s.ckr := rfl
@[simp] theorem onBrg_pwr (g : BrgSt → BrgSt) : (s.onBrg g).pwr = s.pwr := rfl
@[simp] theorem onBrg_hst (g : BrgSt → BrgSt) : (s.onBrg g).hst = s.hst := rfl
@[simp] theorem onBrg_locks (g : BrgSt → BrgSt) : (s.onBrg g).locks = s.locks := rfl
@[simp] theorem onBrg_recs (g : BrgSt → BrgSt) : (s.onBrg g).recs = s.recs := rfl
@[simp] theorem onBrg_bulk (g : BrgSt → BrgSt) : (s.onBrg g).bulk = s.bulk := rfl
@[simp] theorem onBrg_nvm (g : BrgSt → BrgSt) : (s.onBrg g).nvm = s.nvm := rfl
@[simp] theorem onBrg_inbox (g : BrgSt → BrgSt) : (s.onBrg g).inbox = s.inbox := rfl
@[simp] theorem onBrg_out (g : BrgSt → BrgSt) : (s.onBrg g).out = s.out := rfl
@[simp] theorem onBrg_up (g : BrgSt → BrgSt) : (s.onBrg g).up = s.up := rfl
@[simp] theorem onBrg_free (g : BrgSt → BrgSt) : (s.onBrg g).free = s.free := rfl
@[simp] theorem onBrg_pending (g : BrgSt → BrgSt) : (s.onBrg g).pending = s.pending := rfl
@[simp] theorem onBrg_brg (g : BrgSt → BrgSt) : (s.onBrg g).brg = g s.brg := rfl

/-! ### onCan -/

@[simp] theorem onCan_regs (g : CanSt → CanSt) : (s.onCan g).regs = s.regs := rfl
@[simp] theorem onCan_imgRegs (g : CanSt → CanSt) : (s.onCan g).imgRegs = s.imgRegs := rfl
@[simp] theorem onCan_hub (g : CanSt → CanSt) : (s.onCan g).hub = s.hub := rfl
@[simp] theorem onCan_rng (g : CanSt → CanSt) : (s.onCan g).rng = s.rng := rfl
@[simp] theorem onCan_swc (g : CanSt → CanSt) : (s.onCan g).swc = s.swc := rfl
@[simp] theorem onCan_tmq (g : CanSt → CanSt) : (s.onCan g).tmq = s.tmq := rfl
@[simp] theorem onCan_tim (g : CanSt → CanSt) : (s.onCan g).tim = s.tim := rfl
@[simp] theorem onCan_mgt (g : CanSt → CanSt) : (s.onCan g).mgt = s.mgt := rfl
@[simp] theorem onCan_img (g : CanSt → CanSt) : (s.onCan g).img = s.img := rfl
@[simp] theorem onCan_cry (g : CanSt → CanSt) : (s.onCan g).cry = s.cry := rfl
@[simp] theorem onCan_epo (g : CanSt → CanSt) : (s.onCan g).epo = s.epo := rfl
@[simp] theorem onCan_phs (g : CanSt → CanSt) : (s.onCan g).phs = s.phs := rfl
@[simp] theorem onCan_pio (g : CanSt → CanSt) : (s.onCan g).pio = s.pio := rfl
@[simp] theorem onCan_fpn (g : CanSt → CanSt) : (s.onCan g).fpn = s.fpn := rfl
@[simp] theorem onCan_twn (g : CanSt → CanSt) : (s.onCan g).twn = s.twn := rfl
@[simp] theorem onCan_brg (g : CanSt → CanSt) : (s.onCan g).brg = s.brg := rfl
@[simp] theorem onCan_rfx (g : CanSt → CanSt) : (s.onCan g).rfx = s.rfx := rfl
@[simp] theorem onCan_ckr (g : CanSt → CanSt) : (s.onCan g).ckr = s.ckr := rfl
@[simp] theorem onCan_pwr (g : CanSt → CanSt) : (s.onCan g).pwr = s.pwr := rfl
@[simp] theorem onCan_hst (g : CanSt → CanSt) : (s.onCan g).hst = s.hst := rfl
@[simp] theorem onCan_locks (g : CanSt → CanSt) : (s.onCan g).locks = s.locks := rfl
@[simp] theorem onCan_recs (g : CanSt → CanSt) : (s.onCan g).recs = s.recs := rfl
@[simp] theorem onCan_bulk (g : CanSt → CanSt) : (s.onCan g).bulk = s.bulk := rfl
@[simp] theorem onCan_nvm (g : CanSt → CanSt) : (s.onCan g).nvm = s.nvm := rfl
@[simp] theorem onCan_inbox (g : CanSt → CanSt) : (s.onCan g).inbox = s.inbox := rfl
@[simp] theorem onCan_out (g : CanSt → CanSt) : (s.onCan g).out = s.out := rfl
@[simp] theorem onCan_up (g : CanSt → CanSt) : (s.onCan g).up = s.up := rfl
@[simp] theorem onCan_free (g : CanSt → CanSt) : (s.onCan g).free = s.free := rfl
@[simp] theorem onCan_pending (g : CanSt → CanSt) : (s.onCan g).pending = s.pending := rfl
@[simp] theorem onCan_can (g : CanSt → CanSt) : (s.onCan g).can = g s.can := rfl

/-! ### Register words and fields -/

theorem word_setWord_self (k : Nat) (w start : Word) : (s.setWord k w).word k start = w := by
  unfold word setWord
  rw [Tbl.find?_put_self]

theorem word_setWord_ne {k j : Nat} (w start : Word) (h : j ≠ k) : (s.setWord k w).word j start = s.word j start := by
  unfold word setWord
  rw [Tbl.find?_put_ne s.regs w h]

/-- A field of another register is left alone by a write. -/
theorem get_set_ne {f g : Fld} {i j : Nat} (v : Nat) (h : g.key j ≠ f.key i) : (s.set f i v).get g j = s.get g j := by
  unfold get set
  rw [word_setWord_ne s _ _ h]

theorem get_bumpBy_ne {f g : Fld} {i j : Nat} (n : Nat) (h : g.key j ≠ f.key i) : (s.bumpBy f i n).get g j = s.get g j :=
  get_set_ne s _ h

theorem get_bump_ne {f g : Fld} {i j : Nat} (h : g.key j ≠ f.key i) : (s.bump f i).get g j = s.get g j := get_set_ne s _ h

theorem bits_lt (n hi lo : Nat) : bits n hi lo < 2 ^ (hi + 1 - lo) := Nat.mod_lt _ (Nat.two_pow_pos _)

/-- What a field write leaves in the word, as a number. -/
theorem set_word (f : Fld) (i v : Nat) : ((s.set f i v).word (f.key i) f.start).toNat =
    ((s.word (f.key i) f.start).toNat - bits (s.word (f.key i) f.start).toNat f.hi f.lo * 2 ^ f.lo
      + v % 2 ^ (f.hi + 1 - f.lo) * 2 ^ f.lo) % 2 ^ 32 := by
  unfold set
  rw [word_setWord_self]
  rfl

/-- Replacing bits hi:lo of a 32-bit number stays within 32 bits. -/
theorem replace_lt {w hi lo x : Nat} (hw : w < 2 ^ 32) (hh : hi < 32) (hl : lo ≤ hi) (hx : x < 2 ^ (hi + 1 - lo)) :
    w - bits w hi lo * 2 ^ lo + x * 2 ^ lo < 2 ^ 32 := by
  have e : w = w / 2 ^ (hi + 1) * 2 ^ (hi + 1) + bits w hi lo * 2 ^ lo + w % 2 ^ lo := by
    have h1 := Nat.div_add_mod w (2 ^ lo)
    have h2 := Nat.div_add_mod (w / 2 ^ lo) (2 ^ (hi + 1 - lo))
    rw [Nat.div_div_eq_div_mul, ← Nat.pow_add, show lo + (hi + 1 - lo) = hi + 1 by omega] at h2
    have h3 : 2 ^ (hi + 1) = 2 ^ (hi + 1 - lo) * 2 ^ lo := by rw [← Nat.pow_add]; congr 1; omega
    unfold bits
    calc w = 2 ^ lo * (w / 2 ^ lo) + w % 2 ^ lo := h1.symm
      _ = 2 ^ lo * (2 ^ (hi + 1 - lo) * (w / 2 ^ (hi + 1)) + w / 2 ^ lo % 2 ^ (hi + 1 - lo)) + w % 2 ^ lo := by rw [h2]
      _ = _ := by rw [h3]; ring
  have hm : w % 2 ^ lo < 2 ^ lo := Nat.mod_lt _ (Nat.two_pow_pos _)
  have hb := bits_lt w hi lo
  have hq : w / 2 ^ (hi + 1) < 2 ^ (32 - (hi + 1)) := by
    rw [Nat.div_lt_iff_lt_mul (Nat.two_pow_pos _), ← Nat.pow_add]
    rwa [show 32 - (hi + 1) + (hi + 1) = 32 by omega]
  have h32 : (2 : Nat) ^ 32 = 2 ^ (32 - (hi + 1)) * 2 ^ (hi + 1) := by rw [← Nat.pow_add]; congr 1; omega
  have hp : (2 : Nat) ^ (hi + 1) = 2 ^ (hi + 1 - lo) * 2 ^ lo := by rw [← Nat.pow_add]; congr 1; omega
  have hx' : x * 2 ^ lo + w % 2 ^ lo < 2 ^ (hi + 1) := by
    rw [hp]
    calc x * 2 ^ lo + w % 2 ^ lo < x * 2 ^ lo + 2 ^ lo := by omega
      _ = (x + 1) * 2 ^ lo := by ring
      _ ≤ 2 ^ (hi + 1 - lo) * 2 ^ lo := Nat.mul_le_mul_right _ hx
  have hw' : w - bits w hi lo * 2 ^ lo + x * 2 ^ lo = w / 2 ^ (hi + 1) * 2 ^ (hi + 1) + (x * 2 ^ lo + w % 2 ^ lo) := by omega
  rw [hw', h32]
  calc w / 2 ^ (hi + 1) * 2 ^ (hi + 1) + (x * 2 ^ lo + w % 2 ^ lo) < w / 2 ^ (hi + 1) * 2 ^ (hi + 1) + 2 ^ (hi + 1) := by omega
    _ = (w / 2 ^ (hi + 1) + 1) * 2 ^ (hi + 1) := by ring
    _ ≤ 2 ^ (32 - (hi + 1)) * 2 ^ (hi + 1) := Nat.mul_le_mul_right _ hq

/-- The parts of a number above, within and below bits hi:lo. -/
theorem split_bits {w hi lo : Nat} (hl : lo ≤ hi) : w = w / 2 ^ (hi + 1) * 2 ^ (hi + 1) + bits w hi lo * 2 ^ lo + w % 2 ^ lo := by
  have h1 := Nat.div_add_mod w (2 ^ lo)
  have h2 := Nat.div_add_mod (w / 2 ^ lo) (2 ^ (hi + 1 - lo))
  rw [Nat.div_div_eq_div_mul, ← Nat.pow_add, show lo + (hi + 1 - lo) = hi + 1 by omega] at h2
  have h3 : 2 ^ (hi + 1) = 2 ^ (hi + 1 - lo) * 2 ^ lo := by rw [← Nat.pow_add]; congr 1; omega
  unfold bits
  calc w = 2 ^ lo * (w / 2 ^ lo) + w % 2 ^ lo := h1.symm
    _ = 2 ^ lo * (2 ^ (hi + 1 - lo) * (w / 2 ^ (hi + 1)) + w / 2 ^ lo % 2 ^ (hi + 1 - lo)) + w % 2 ^ lo := by rw [h2]
    _ = _ := by rw [h3]; ring

/-- Bits hi:lo of a number put together from three parts. -/
theorem bits_join {a x r hi lo : Nat} (hl : lo ≤ hi) (hx : x < 2 ^ (hi + 1 - lo)) (hr : r < 2 ^ lo) :
    bits (a * 2 ^ (hi + 1) + x * 2 ^ lo + r) hi lo = x := by
  have h3 : 2 ^ (hi + 1) = 2 ^ (hi + 1 - lo) * 2 ^ lo := by rw [← Nat.pow_add]; congr 1; omega
  unfold bits
  have e : a * 2 ^ (hi + 1) + x * 2 ^ lo + r = r + (a * 2 ^ (hi + 1 - lo) + x) * 2 ^ lo := by rw [h3]; ring
  rw [e, Nat.add_mul_div_right _ _ (Nat.two_pow_pos lo), Nat.div_eq_of_lt hr, Nat.zero_add, Nat.add_comm, Nat.add_mul_mod_self_right, Nat.mod_eq_of_lt hx]

/-- A field reads back what was written to it, modulo its width. -/
theorem get_set_self {f : Fld} (i v : Nat) (hh : f.hi < 32) (hl : f.lo ≤ f.hi) : (s.set f i v).get f i = v % 2 ^ (f.hi + 1 - f.lo) := by
  have hv : v % 2 ^ (f.hi + 1 - f.lo) < 2 ^ (f.hi + 1 - f.lo) := Nat.mod_lt _ (Nat.two_pow_pos _)
  have hw := (s.word (f.key i) f.start).isLt
  unfold get
  rw [set_word, Nat.mod_eq_of_lt (replace_lt hw hh hl hv)]
  generalize (s.word (f.key i) f.start).toNat = w
  have e : w - bits w f.hi f.lo * 2 ^ f.lo + v % 2 ^ (f.hi + 1 - f.lo) * 2 ^ f.lo
      = w / 2 ^ (f.hi + 1) * 2 ^ (f.hi + 1) + v % 2 ^ (f.hi + 1 - f.lo) * 2 ^ f.lo + w % 2 ^ f.lo := by
    have := split_bits (w := w) hl
    omega
  rw [e, bits_join hl hv (Nat.mod_lt _ (Nat.two_pow_pos _))]

/-- A counter field after one event: saturating at all ones (R11). -/
theorem get_bump_self {f : Fld} (i : Nat) (hh : f.hi < 32) (hl : f.lo ≤ f.hi) : (s.bump f i).get f i = min f.max (s.get f i + 1) := by
  unfold bump bumpBy
  rw [get_set_self s i _ hh hl, Nat.mod_eq_of_lt]
  unfold Fld.max
  have := Nat.two_pow_pos (f.hi + 1 - f.lo)
  omega

/-- Bits above position n of a number that is cut at n. -/
theorem bits_above {a r n hi lo : Nat} (hr : r < 2 ^ n) (hn : n ≤ lo) : bits (a * 2 ^ n + r) hi lo = bits (a * 2 ^ n) hi lo := by
  unfold bits
  have e : 2 ^ lo = 2 ^ n * 2 ^ (lo - n) := by rw [← Nat.pow_add]; congr 1; omega
  rw [e, ← Nat.div_div_eq_div_mul, ← Nat.div_div_eq_div_mul, Nat.mul_div_cancel _ (Nat.two_pow_pos n), Nat.add_comm,
    Nat.add_mul_div_right _ _ (Nat.two_pow_pos n), Nat.div_eq_of_lt hr, Nat.zero_add]

/-- Bits below position n of a number that is cut at n. -/
theorem bits_below {a r n hi lo : Nat} (hl : lo ≤ hi) (hn : hi < n) : bits (a * 2 ^ n + r) hi lo = bits r hi lo := by
  unfold bits
  have e : a * 2 ^ n = a * 2 ^ (n - lo - (hi + 1 - lo)) * 2 ^ (hi + 1 - lo) * 2 ^ lo := by
    rw [Nat.mul_assoc, Nat.mul_assoc, ← Nat.pow_add, ← Nat.pow_add]; congr 2; omega
  rw [e, Nat.add_comm, Nat.add_mul_div_right _ _ (Nat.two_pow_pos lo), Nat.add_mul_mod_self_right]

/-- A field of the same register that has no bit in common with the one written is left alone. -/
theorem get_set_disjoint {f g : Fld} {i j : Nat} (v : Nat) (hk : g.key j = f.key i) (hs : g.start = f.start) (hh : f.hi < 32)
    (hl : f.lo ≤ f.hi) (hg : g.lo ≤ g.hi) (hd : g.hi < f.lo ∨ f.hi < g.lo) : (s.set f i v).get g j = s.get g j := by
  have hv : v % 2 ^ (f.hi + 1 - f.lo) < 2 ^ (f.hi + 1 - f.lo) := Nat.mod_lt _ (Nat.two_pow_pos _)
  have hw := (s.word (f.key i) f.start).isLt
  unfold get
  rw [hk, hs, set_word, Nat.mod_eq_of_lt (replace_lt hw hh hl hv)]
  generalize (s.word (f.key i) f.start).toNat = w
  have hb := bits_lt w f.hi f.lo
  have sp := split_bits (w := w) hl
  generalize hB : bits w f.hi f.lo = b at sp hb
  generalize v % 2 ^ (f.hi + 1 - f.lo) = x at hv
  have hr : w % 2 ^ f.lo < 2 ^ f.lo := Nat.mod_lt _ (Nat.two_pow_pos _)
  generalize hR : w % 2 ^ f.lo = r at sp hr
  generalize w / 2 ^ (f.hi + 1) = a at sp
  have h3 : 2 ^ (f.hi + 1) = 2 ^ (f.hi + 1 - f.lo) * 2 ^ f.lo := by rw [← Nat.pow_add]; congr 1; omega
  have lt (y : Nat) (hy : y < 2 ^ (f.hi + 1 - f.lo)) : y * 2 ^ f.lo + r < 2 ^ (f.hi + 1) := by
    rw [h3]
    calc y * 2 ^ f.lo + r < (y + 1) * 2 ^ f.lo := by rw [Nat.succ_mul]; omega
      _ ≤ _ := Nat.mul_le_mul_right _ hy
  have e1 : w - b * 2 ^ f.lo + x * 2 ^ f.lo = a * 2 ^ (f.hi + 1) + (x * 2 ^ f.lo + r) := by omega
  have e2 : w = a * 2 ^ (f.hi + 1) + (b * 2 ^ f.lo + r) := by omega
  rw [e1]
  conv_rhs => rw [e2]
  rcases hd with hd | hd
  · rw [← Nat.add_assoc, ← Nat.add_assoc]
    have c (y : Nat) : a * 2 ^ (f.hi + 1) + y * 2 ^ f.lo + r = (a * 2 ^ (f.hi + 1 - f.lo) + y) * 2 ^ f.lo + r := by rw [h3]; ring
    rw [c, c, bits_below hg hd, bits_below hg hd]
  · rw [bits_above (lt x hv) (by omega), bits_above (lt b hb) (by omega)]

theorem get_bumpBy_disjoint {f g : Fld} {i j : Nat} (n : Nat) (hk : g.key j = f.key i) (hs : g.start = f.start) (hh : f.hi < 32)
    (hl : f.lo ≤ f.hi) (hg : g.lo ≤ g.hi) (hd : g.hi < f.lo ∨ f.hi < g.lo) : (s.bumpBy f i n).get g j = s.get g j :=
  get_set_disjoint s _ hk hs hh hl hg hd

theorem get_bump_disjoint {f g : Fld} {i j : Nat} (hk : g.key j = f.key i) (hs : g.start = f.start) (hh : f.hi < 32)
    (hl : f.lo ≤ f.hi) (hg : g.lo ≤ g.hi) (hd : g.hi < f.lo ∨ f.hi < g.lo) : (s.bump f i).get g j = s.get g j :=
  get_set_disjoint s _ hk hs hh hl hg hd

/-- An entry of the event log changes no register word but that of the count of drops (R509). -/
theorem word_event_ne {k : Nat} (code block sev : Nat) (d : List Nat) (start : Word) (h : k ≠ F.MGT_EVL_STAT_DROPS.key 0) :
    (s.event code block sev d).word k start = s.word k start := by
  unfold event
  dsimp only
  split
  · rfl
  · exact word_setWord_ne s _ _ h

theorem word_note_ne {k : Nat} (code block : Nat) (d : List Nat) (start : Word) (h : k ≠ F.MGT_EVL_STAT_DROPS.key 0) :
    (s.note code block d).word k start = s.word k start := word_event_ne s _ _ _ _ _ h

theorem get_event_ne {g : Fld} {j : Nat} (code block sev : Nat) (d : List Nat) (h : g.key j ≠ F.MGT_EVL_STAT_DROPS.key 0) :
    (s.event code block sev d).get g j = s.get g j := by
  unfold State.get
  rw [word_event_ne s _ _ _ _ _ h]

theorem get_note_ne {g : Fld} {j : Nat} (code block : Nat) (d : List Nat) (h : g.key j ≠ F.MGT_EVL_STAT_DROPS.key 0) :
    (s.note code block d).get g j = s.get g j := get_event_ne s _ _ _ _ h

end Sys2Proof.Machine.State
end

