-- ==== Sys2Proof/Tests/Slice0.lean ====
section
/-! SUPPORT. Tests: ill-formed commands are refused by the check; each statement that has hypotheses has states that meet them, clause
by clause; and small steps of each family whose results are worked out from the spec's words. -/
-- One theorem at a time: a theorem that waits for the kernel holds a stack of its own.
set_option Elab.async false

namespace Sys2Proof.Tests
open Sys2Proof Sys2Proof.Machine

/-- A state whose listed fields (field, instance, value) are set. -/
def withFields (l : List (Fld × Nat × Nat)) (s : State := {}) : State := l.foldl (fun s x => s.set x.1 x.2.1 x.2.2) s

/-- The state after a command. -/
def after (c : Instr) (s : State) : State :=
  match exec c s with
  | .next t => t
  | _ => s

/-! ### Requests of a register or a buffer -/

/-- A hub with a bulk buffer of 4 KiB at the start of space 0x4, open to class hub. -/
def bulky : State :=
  { withFields [(F.HUB_NODE_HUBNUM, 0, 7)] with
    img := { bulk := [{ buf := 0, base := 0, size := 4096 }],
             regions := [{ space := 4, base := 0, size := 4096, r := 31, w := 31, a := 31, pf := false, se := false }] } }

/-- A request of hub 9's cipher engine to space 0x4 of hub 7. -/
def ask (tt : TType) (off len : Nat) (pay : List Byte := []) (opc : Nat := 0) (pst : Bool := false) : Frame :=
  { tt := tt, tc := 2, dst := 7, src := 9, init := 4, tag := 5, opc := opc, pst := pst, addr := fabAddr 7 4 off, len := len, pay := pay }

/-- A write of a register of hub 7. -/
def wrReg (off w : Nat) : Frame := { ask .wrn off 4 (le 4 w) with addr := fabAddr 7 1 off }

/-- A read of a register of hub 7. -/
def rdReg (off : Nat) : Frame := { ask .rd off 4 with addr := fabAddr 7 1 off }

/-- A register without free bits shows its word and its live fields. -/
theorem shown_closed (s : State) (off d key start : Nat) (h : s.openMask off d = 0) :
    s.shown off d key start
      = ((s.live off d).foldl (fun w x => x.1.place w x.2) (s.word key (BitVec.ofNat 32 start)).toNat) ||| s.fixedBits off d := by
  simp [State.shown, h, mergeBits]

/-- Hub 7 with every register open to every class, and fields set. -/
def openHub (l : List (Fld × Nat × Nat) := []) : State :=
  { withFields ([(F.HUB_NODE_HUBNUM, 0, 7)] ++ l) with
    img := { regions := [{ space := 1, base := 0, size := 2 ^ 36, r := 31, w := 31, a := 31, pf := false, se := false }] } }

/-- The conditions of `State.WritesReg`, decided for a word w written to register r. -/
def writes (s : State) (r : Fld) (i w : Nat) : Bool :=
  let off := r.off + r.mult * i
  let f := wrReg off w
  match regRow? off with
  | none => false
  | some x =>
    decide (regOff f.offset = off) && decide (x.off = r.off) && decide (x.sel.1 = 0) && decide (classOf s.hubNum f.src f.init = some .hub)
      && decide (s.targetOf f = some .reg) && decide (s.refusal .hub f.space f.offset (dataLen f) (permOf f) = none)
      && !s.blockBusy (off / 0x10000) && decide (wordOf f = w)
      && (decide (fixedMask x = 0) || decide (s.openMask x.off (off - x.off) = 0 ∧
        ((((s.live x.off (off - x.off)).foldl (fun w x => x.1.place w x.2) (s.word off (BitVec.ofNat 32 x.start)).toNat)
          ||| s.fixedBits x.off (off - x.off)) ^^^ w) &&& fixedMask x = 0))

/-- A write that is decided so is one that meets the effect of its register, with the word w. -/
theorem writes_reg {s : State} {r : Fld} {i w : Nat} (h : writes s r i w = true) :
    (∃ x, s.WritesReg (wrReg (r.off + r.mult * i) w) r i x) ∧ wordOf (wrReg (r.off + r.mult * i) w) = w := by
  unfold writes at h
  dsimp only at h
  split at h
  · cases h
  · rename_i x hx
    simp only [Bool.and_eq_true, Bool.or_eq_true, decide_eq_true_eq, Bool.not_eq_true'] at h
    obtain ⟨⟨⟨⟨⟨⟨⟨⟨h1, h2⟩, h3⟩, h4⟩, h5⟩, h6⟩, h7⟩, h8⟩, h9⟩ := h
    refine ⟨⟨x, Or.inr rfl, h1, by rw [h1]; exact hx, h2, h3, ⟨_, h4, h5, h6⟩, ?_, by rw [h1]; exact h7⟩, h8⟩
    rw [h1, h8]
    rcases h9 with h9 | ⟨h9, h10⟩
    · rw [h9]; exact Nat.and_zero _
    · rw [shown_closed _ _ _ _ _ h9]; exact h10

/-- The conditions of `State.ReadsReg`, decided for a read of register r. -/
def reads (s : State) (r : Fld) (i : Nat) : Bool :=
  let off := r.off + r.mult * i
  let f := rdReg off
  decide (regOff f.offset = off) && decide (classOf s.hubNum f.src f.init = some .hub) && decide (s.targetOf f = some .reg)
    && decide (s.refusal .hub f.space f.offset (dataLen f) (permOf f) = none) && !s.blockBusy (off / 0x10000)

/-- A read that is decided so is one that meets its register. -/
theorem reads_reg {s : State} {r : Fld} {i : Nat} (h : reads s r i = true) : s.ReadsReg (rdReg (r.off + r.mult * i)) r i := by
  simp only [reads, Bool.and_eq_true, decide_eq_true_eq, Bool.not_eq_true'] at h
  obtain ⟨⟨⟨⟨h1, h2⟩, h3⟩, h4⟩, h5⟩ := h
  exact ⟨rfl, h1, ⟨_, h2, h3, h4⟩, by rw [h1]; exact h5⟩

/-- A management request to hub 7. -/
def mgt (pay : List Byte) (pst : Bool := false) : Frame := { ask .mgt 0 0 pay 0 pst with addr := fabAddr 7 0xF 0 }

/-- The conditions of `State.Passes` for an initiator of class hub, decided. -/
def passes (s : State) (f : Frame) (t : Target) : Bool :=
  decide (classOf s.hubNum f.src f.init = some .hub) && decide (s.targetOf f = some t)
    && decide (s.refusal .hub f.space f.offset (dataLen f) (permOf f) = none)

theorem passes_of {s : State} {f : Frame} {t : Target} (h : passes s f t = true) : s.Passes f t := by
  simp only [passes, Bool.and_eq_true, decide_eq_true_eq] at h
  exact ⟨_, h.1.1, h.1.2, h.2⟩

/-! ### Well-formed commands -/

/-- A well-formed frame. -/
def aFrame : Frame := { tt := .rd, tc := 3, dst := 5, addr := 0 }

theorem test_wf_frame : aFrame.wf = true ∧ (Instr.rd aFrame []).wf = true := by decide
theorem test_wf_frame_version : ({ aFrame with ver := 16 } : Frame).wf = false := by decide
theorem test_wf_frame_type : ({ aFrame with tt := .other 16 } : Frame).wf = false := by decide
theorem test_wf_frame_class : ({ aFrame with tc := 16 } : Frame).wf = false := by decide
theorem test_wf_frame_hubs : ({ aFrame with dst := 256 } : Frame).wf = false ∧ ({ aFrame with src := 256 } : Frame).wf = false := by decide
theorem test_wf_frame_seq : ({ aFrame with seq := 2 ^ 32 } : Frame).wf = false := by decide
theorem test_wf_frame_init : ({ aFrame with init := 256 } : Frame).wf = false := by decide
theorem test_wf_frame_tag : ({ aFrame with tag := 1024 } : Frame).wf = false := by decide
theorem test_wf_frame_opc : ({ aFrame with opc := 16 } : Frame).wf = false := by decide
theorem test_wf_frame_addr : ({ aFrame with addr := 2 ^ 48 } : Frame).wf = false := by decide
theorem test_wf_frame_len : ({ aFrame with len := 2048 } : Frame).wf = false := by decide
theorem test_wf_frame_hoplim : ({ aFrame with hoplim := 1024 } : Frame).wf = false := by decide
theorem test_wf_frame_inc : ({ aFrame with inc := 2 ^ 16 } : Frame).wf = false := by decide
theorem test_wf_frame_hopiv : ({ aFrame with hopiv := 2 ^ 64 } : Frame).wf = false := by decide
theorem test_wf_frame_payload : (Instr.wr { aFrame with pay := zeros 1997 }).wf = false := by decide +kernel
theorem test_wf_tag : (Instr.completionTimeout 256 0).wf = false ∧ (Instr.completionTimeout 0 1024).wf = false := by decide
theorem test_wf_class_of_credit : (Instr.crd .e 4 0).wf = false ∧ (Instr.crdSend .e 4).wf = false := by decide
theorem test_wf_port : (Instr.switchIngressHead 12).wf = false := by decide
theorem test_wf_engine : (Instr.nopOp 64).wf = false := by decide
theorem test_wf_snapshot_slot : (Instr.snapshotInstant 8).wf = false := by decide
theorem test_wf_pin : (Instr.pinFilteredEdge 256 true).wf = false := by decide
theorem test_wf_channel : (Instr.busOff 16).wf = false := by decide
theorem test_wf_bus : (Instr.busIdleDispatch 64).wf = false := by decide
theorem test_wf_entry : (Instr.pollDue 64).wf = false ∧ (Instr.scheduleDue 64).wf = false := by decide
theorem test_wf_lock_request : (Instr.cmdLockRead .epo { aFrame with src := 256 }).wf = false := by decide
theorem test_wf_source : (Instr.squall 16).wf = false ∧ (Instr.sourceRunning 16).wf = false := by decide
theorem test_wf_pll : (Instr.sparePllLock 2).wf = false := by decide
theorem test_wf_block : (Instr.gateAck 21).wf = false := by decide
theorem test_wf_cause : (Instr.warmReset 16).wf = false := by decide

/-! ### States that meet the hypotheses of the statements -/

theorem test_witness_StepRunsTheFrontCommand : ({} : State).pending = [] := by decide

theorem test_witness_StepKeepsInvariant : State.reset.Inv ∧ step State.reset = .next State.reset.tick :=
  ⟨⟨by decide, by decide, by decide, by decide, by decide, by decide, by decide, by decide⟩, rfl⟩

theorem test_witness_EveryCommandCompletes : State.reset.Inv :=
  ⟨by decide, by decide, by decide, by decide, by decide, by decide, by decide, by decide⟩

theorem test_witness_CountersSaturate :
    let f := F.RNG_CNT_DUP
    let s := withFields [(f, 0, f.max)]
    f.hi < 32 ∧ f.lo ≤ f.hi ∧ ({} : State).get f 0 < f.max ∧ s.get f 0 = f.max := by decide

/-- A state whose lane E is in a state of Table 03-12. -/
def laneAt (n : Nat) (l : LaneSt := {}) : State := { withFields [(F.Lx_LSTAT_STATE, 0, n)] with rng := { laneE := l } }

theorem test_witness_LinkWordsActOnTheirLane :
    let fr : Frame := { tt := .wr, tc := 2, dst := 9, addr := 0 }
    let rx (c : Nat) : State := { laneAt 4 { rxCur := some 1 } with rng := { laneE := { rxCur := some 1 }, rx := [(1, { lane := .e, fr := { fr with tc := c }, deliver := false, forward := true })] } }
    (2 ≤ (laneAt 2).laneState .e ∧ (laneAt 4).laneState .e ≤ 4) ∧ ¬(2 ≤ (laneAt 1).laneState .e) ∧ ¬((laneAt 5).laneState .e ≤ 4)
    ∧ (2 ≤ (laneAt 4 { crdSent := [true, false, false, false] }).laneState .e
      ∧ ((laneAt 4 { crdSent := [true, false, false, false] }).lane .e).crdSent.getD 0 true = true)
    ∧ ((laneAt 2).laneState .e ≤ 4 ∧ ((laneAt 2).lane .e).crdSent.getD 3 true = false ∧ (laneAt 2).poolUsed 0 3 = 0)
    ∧ (laneAt 1).laneState .e ≠ 0
    ∧ (∃ r, ((rx 2).lane .e).rxCur = some 1 ∧ ((rx 2).lane .e).rxParked = none ∧ Tbl.find? (rx 2).rng.rx 1 = some r ∧ r.fr.tc ≠ 0)
    ∧ (∃ r, ((rx 0).lane .e).rxCur = some 1 ∧ ((rx 0).lane .e).rxParked = none ∧ Tbl.find? (rx 0).rng.rx 1 = some r ∧ r.fr.tc = 0)
    ∧ ((laneAt 4 { rxParked := some 1 }).lane .e).rxParked = some 1 :=
  ⟨by decide, by decide, by decide, by decide, by decide, by decide, ⟨_, rfl, rfl, rfl, by decide⟩, ⟨_, rfl, rfl, rfl, by decide⟩, rfl⟩

theorem test_witness_LidReportsTheNeighbour :
    (laneAt 0).laneState .e = 0 ∧ (laneAt 4).laneState .e = 4 ∧ (laneAt 2).laneState .e = 2
    ∧ ((laneAt 3).laneState .e = 3 ∧ ((laneAt 3).lane .e).fullProbe = false)
    ∧ (withFields [(F.Lx_LSTAT_STATE, 0, 5), (F.Lx_LSTAT_BLOCK_LOCK, 0, 1)]).laneState .e = 5
    ∧ (withFields [(F.Lx_LSTAT_STATE, 0, 5), (F.Lx_LSTAT_BLOCK_LOCK, 0, 1)]).flag F.Lx_LSTAT_BLOCK_LOCK 0 = true
    ∧ ((laneAt 6).laneState .e ≠ 0 ∧ (laneAt 6).laneState .e ≠ 5) := by decide

theorem test_witness_FrameHeadsFollowTable :
    let f : Frame := { tt := .wr, tc := 2, dst := 7, src := 3, hoplim := 9, addr := 0 }
    let own := withFields [(F.HUB_NODE_HUBNUM, 0, 7), (F.RNG_RSTAT_ADMITTED, 0, 1)]
    (Lane.e ≠ .t ∧ (laneAt 4).laneState .e = 4) ∧ ((laneAt 3).laneState .e ≠ 4 ∧ isLinkLocal f = false)
    ∧ isLinkLocal { f with tt := .rctl, opc := 9 } = true
    ∧ (isLinkLocal { f with dst := 0xFF } = false)
    ∧ (isLinkLocal { f with hoplim := 0 } = false ∧ f.dst ≠ 0xFF)
    ∧ (f.tt ≠ .rctl ∧ f.hoplim ≠ 0 ∧ (laneAt 4).admitted = false)
    ∧ (own.admitted = true ∧ own.flag F.HUB_NODE_TWIN = false ∧ f.dst = own.hubNum)
    ∧ (({ f with src := 7, dst := 8 } : Frame).src = own.hubNum ∧ ({ f with src := 7, dst := 8 } : Frame).dst ≠ own.hubNum)
    ∧ (f.src ≠ own.hubNum ∧ ({ f with dst := 8 } : Frame).dst ≠ own.hubNum ∧ f.dst ≠ 0xFE) := by decide

theorem test_witness_FrameVerdictCountsOrAccepts :
    let f : Frame := { tt := .wr, tc := 2, dst := 7, src := 3, hoplim := 9, addr := 0 }
    let r : RxFrame := { lane := .e, fr := f, deliver := true, forward := false }
    let s (r : RxFrame) : State := { withFields [(F.HUB_NODE_HUBNUM, 0, 7), (F.RNG_RSTAT_ADMITTED, 0, 1)] with
      rng := { rx := [(1, r)] }, swc := { bufs := [(1, { port := 0, fr := f, pool := .shared, verdict := .pending })] } }
    (Tbl.find? (s r).rng.rx 1 = some r ∧ r.lane ≠ .t)
    ∧ (decide (2048 < f.length) = false ∧ decide (192 < ({ f with pay := zeros 140 } : Frame).length) = false
      ∧ decide (192 < ({ f with pay := zeros 141 } : Frame).length) = true)
    ∧ (isLinkLocal { f with tt := .rctl, opc := 9 } = true)
    ∧ (isLinkLocal f = false ∧ isTime f = false ∧ r.returning = false ∧ r.deliver = true)
    ∧ ((s r).admitted = true ∧ ((s r).buf? 1).isSome = true) := by decide +kernel

theorem test_witness_StreamsDeliverOnceInOrder :
    let f : Frame := { tt := .wr, tc := 2, dst := 7, src := 3, seq := 10, hoplim := 9, addr := 0 }
    let st : Stream := { inc := 0, next := 10 }
    let s : State := { withFields [(F.RNG_HOLD_HOLD_EN, 0, 4)] with rng := { streams := [(streamKey f, st)] } }
    let x : Sending := { handle := 1, queue := 2, next := 0 }
    let b : Buf := { port := 0, fr := f, pool := .shared, verdict := .pending, links := [3] }
    let busy : State := { ({} : State) with swc := { sending := [(0, x)], bufs := [(1, b)], queues := [] } }
    let ready : State := { ({} : State) with swc := { sending := [(0, x)], fifo := [(12, [(2, 1)])], bufs := [(1, b), (2, { b with fr := { f with tc := 0 }, verdict := .good })] } }
    f.dst ≠ 0xFE ∧ Tbl.find? ({} : State).rng.streams (streamKey f) = none
    ∧ (Tbl.find? s.rng.streams (streamKey f) = some st ∧ sdiff 16 f.inc st.inc = 0)
    ∧ sdiff 32 9 st.next < 0 ∧ sdiff 32 f.seq st.next = 0
    ∧ (0 < sdiff 32 11 st.next ∧ sdiff 32 265 st.next < 256 ∧ bit (s.get F.RNG_HOLD_HOLD_EN) f.tc = true ∧ Tbl.has st.held 11 = false)
    ∧ State.lowestHeld { st with held := [(12, 5)] } = some 12
    ∧ (Tbl.find? busy.swc.sending 0 = some x ∧ busy.buf? 1 = some b ∧ 16 * 0 + b.fr.tc ∉ b.links)
    ∧ (Tbl.getD ready.swc.fifo 12 [] = (2, 1) :: [] ∧ Tbl.has ready.swc.sending 0 = true ∧ Tbl.has ready.swc.sending 12 = false) := by decide

theorem test_witness_LaneStatesFollowQuality :
    let good : LaneSt := { wHopm := 5, fullProbe := true, probeWindows := 100 }
    ((laneAt 5).laneState .e ≠ 0 ∧ (laneAt 5).laneState .e ≠ 4 ∧ (laneAt 5).laneState .e ≠ 6) ∧ (laneAt 4).laneState .e = 4
    ∧ (laneAt 0).laneState .e = 0 ∧ (laneAt 6).laneState .e = 6 ∧ (laneAt 1).laneState .e = 1
    ∧ ((laneAt 5 { nbrState := 5 }).laneState .e = 5 ∧ ((laneAt 5 { nbrState := 5 }).lane .e).nbrState = 5)
    ∧ ((laneAt 3 good).laneState .e = 3 ∧ 5 ≤ ((laneAt 3 good).lane .e).wHopm ∧ 64 * 0 ≤ (laneAt 3 good).get F.Lx_LQCFG_THR_IN 0)
    ∧ ((laneAt 3).lane .e).wHopm < 5
    ∧ (laneAt 4).get F.Lx_LQCFG_THR_OUT 0 < 64 * 70000
    ∧ 64 * 0 ≤ (laneAt 4).get F.Lx_LQCFG_THR_OUT 0
    ∧ (100 : Nat) ≤ ((laneAt 3 { probeWindows := 100 }).lane .e).probeWindows := by decide

theorem test_witness_LinkDelayIsMeasuredByHopm :
    let f : Frame := { tt := .rctl, tc := 2, dst := 0xFE, opc := 9, addr := 0, pay := be 8 3 ++ be 8 2 ++ be 8 1 }
    let seeded : State := { ({} : State) with tim := { n := 6 * 2 ^ 32 }, rng := { laneE := { dfSeeded := true } } }
    let d : Int := (((seeded.ns : Int) - beAt f.pay 8 8) - ((beAt f.pay 0 8 : Int) - beAt f.pay 16 8)) * 2 ^ 15
    (2 ≤ (laneAt 2).laneState .e ∧ (laneAt 5).laneState .e ≤ 5) ∧ ¬((laneAt 6).laneState .e ≤ 5) ∧ ¬(2 ≤ (laneAt 1).laneState .e)
    ∧ beAt (be 8 3 ++ be 8 0) 8 8 = 0 ∧ beAt f.pay 8 8 ≠ 0
    ∧ (({} : State).tim.steppedAt = none ∧ (({} : State).lane .e).dfSeeded = false)
    ∧ ((seeded.lane .e).dfSeeded = true ∧ (d - seeded.tim.df.getD 0 0).natAbs ≤ 1000 * 2 ^ 16) := by decide

/-- A master with an image. -/
def aMaster (r : RngSt := {}) (up : Nat := 0) : State :=
  { withFields [(F.HUB_NODE_HUBNUM, 0, 7), (F.RNG_RSTAT_ADMITTED, 0, 1), (F.RNG_RSTAT_MASTER, 0, 1), (F.RNG_RSTAT_MASTER_HUB, 0, 7)] with
    img := { loaded := true }, rng := r, up := up }

theorem test_witness_AdmissionFollowsTheMaster :
    let ask (hub : Nat) (twin : Bool) (fab : Nat) : Frame := { tt := .rctl, tc := 2, dst := 0xFE, opc := 1, addr := 0, pay := be 1 hub ++ be 1 (b2n twin) ++ be 2 0 ++ be 4 fab ++ be 4 0 ++ be 3 0 ++ be 1 0 ++ be 2 0 ++ be 2 0 }
    let known := aMaster { members := [{ hub := 9, twin := false, inc := 0, dcv := 0 }] }
    let other := aMaster { members := [{ hub := 9, twin := false, inc := 4, dcv := 0 }] }
    let p := (ask 9 false 0).pay
    let due := aMaster { admitting := [p], requests := [(p, 0)] } 1000000000
    let lost := aMaster { members := [{ hub := 9, twin := false, inc := 4, dcv := 0 }], admitting := [p], requests := [(p, 0)] } 1000000000
    let s0 : State := { laneAt 4 with img := { loaded := true } }
    (s0.admitted = false ∧ s0.img.loaded = true ∧ s0.laneState .e = 4)
    ∧ ((known.take (ask 9 false 0)).master = true
      ∧ ((known.take (ask 9 false 0)).rng.members.any fun m => decide (m.hub = 9) && decide (m.dcv = beAt p 12 3) && decide (m.inc = beAt p 16 2)) = true)
    ∧ ((aMaster.take (ask 9 false 5)).rng.members.any (fun m => decide (m.hub = 9)) = false
      ∧ beAt (ask 9 false 5).pay 4 4 ≠ (aMaster.take (ask 9 false 5)).get F.HUB_FABID0)
    ∧ (beAt (ask 9 true 0).pay 4 4 = aMaster.get F.HUB_FABID0 ∧ beAt (ask 9 true 0).pay 8 4 = aMaster.get F.HUB_FABID1
      ∧ bit (beAt (ask 9 true 0).pay 1 1) 0 = true ∧ bit (beAt p 1 1) 0 = false)
    ∧ ((other.rng.members.any fun m => decide (m.hub = 9)) = true ∧ (other.rng.members.any fun m => decide (m.inc = beAt p 16 2)) = false)
    ∧ ((aMaster.rng.members.any fun m => decide (m.hub = 9)) = false ∧ ((aMaster.rng.members.map fun (m : Member) => m.hub).eraseDups).length < 254
      ∧ (aMaster.rng.requests.any fun r => decide (r.1 = p)) = false ∧ p ∉ aMaster.rng.admitting)
    ∧ (due.img.change = none ∧ due.master = true
      ∧ due.rng.admitting.find? (fun p => due.rng.requests.any fun r => decide (r.1 = p) && decide (r.2 + 20 * due.get F.RNG_HOLD_HOLD ≤ due.up)) = some p
      ∧ (due.rng.members.any fun m => decide (m.hub = 9)) = false ∧ ((due.rng.members.map fun (m : Member) => m.hub).eraseDups).length < 254)
    ∧ (lost.img.change = none ∧ lost.master = true
      ∧ lost.rng.admitting.find? (fun p => lost.rng.requests.any fun r => decide (r.1 = p) && decide (r.2 + 20 * lost.get F.RNG_HOLD_HOLD ≤ lost.up)) = some p
      ∧ (lost.rng.members.any fun m => decide (m.hub = 9)) = true
      ∧ (lost.rng.members.any fun m => decide (m.hub = 9) && decide (m.inc = beAt p 16 2)) = false)
    ∧ (beAt (ask 0 false 0).pay 0 1 = ({} : State).hubNum ∧ beAt (ask 0 false 0).pay 16 2 = ({} : State).get F.RNG_INC)
    ∧ beAt p 0 1 ≠ ({} : State).hubNum := by decide +kernel

theorem test_witness_AdmissionFollowsTheMaster_identity :
    let p : List Byte := be 1 0 ++ zeros 11 ++ be 3 ({} : State).deviceCheck ++ be 1 0 ++ be 2 (({} : State).get F.RNG_INC) ++ zeros 2
    ({ ({} : State) with img := { change := some { opid := 1, mode := 0, at_ := .time 0, reqHub := 0, deadline := 0 } } } : State).img.change.isSome = true
    ∧ beAt p 0 1 = ({} : State).hubNum := by decide

theorem test_witness_MasterIsElected :
    let f : Frame := { tt := .rctl, tc := 2, dst := 0xFE, src := 7, seq := 4, opc := 4, addr := 0, pay := [9, 200, 0, 0] }
    let m := (aMaster.take f).onRng fun r => { r with noHub := false }
    let e (c : RngSt) (up : Nat) : State := { withFields [(F.HUB_NODE_HUBNUM, 0, 7), (F.HUB_NODE_MPRIO, 0, 1), (F.RNG_RSTAT_ADMITTED, 0, 1), (F.RNG_RSTAT_ELECTING, 0, 1)] with
      img := { loaded := true }, rng := c, up := up }
    aMaster.master = true ∧ ({} : State).master = false
    ∧ (m.master = true ∧ f.src = m.hubNum ∧ m.rng.beaconSeen ≠ some f.seq)
    ∧ (({ f with src := 9 } : Frame).src ≠ m.hubNum ∧ betterMaster 200 9 (m.get F.HUB_NODE_MPRIO) m.hubNum = true)
    ∧ ((e {} 0).admitted = true ∧ (e {} 0).master = false ∧ (e {} 0).flag F.TWN_VSTAT_PEND = false)
    ∧ betterMaster 0 9 (m.get F.HUB_NODE_MPRIO) m.hubNum = false
    ∧ ((e { lastBetter := 0 } 5000000).flag F.RNG_RSTAT_ELECTING = true ∧ (e { lastBetter := 0 } 5000000).mayLead = true)
    ∧ ((e { lastBetter := 0 } 10000000).rng.lastBetter + 10000000 ≤ (e { lastBetter := 0 } 10000000).up ∧ (e {} 10000000).mayLead = true)
    ∧ (e { lastBetter := 0 } 9999999).up < (e { lastBetter := 0 } 9999999).rng.lastBetter + 10000000 := by decide

theorem test_witness_MembershipFollowsTheMap :
    let f : Frame := { tt := .rctl, tc := 2, dst := 0xFE, src := 9, opc := 8, addr := 0, pay := [9, 0, 0, 0] }
    let s := aMaster { members := [{ hub := 9, twin := false, inc := 0, dcv := 0 }], heard := [(9, 0)] } 50000000
    let mem := withFields [(F.HUB_NODE_HUBNUM, 0, 7), (F.RNG_RSTAT_ADMITTED, 0, 1)]
    let u := (s.take f).onRng fun r => { r with noHub := false }
    s.master = true ∧ s.admitted = true ∧ u.master = true ∧ (mem.take f).master = false
    ∧ (9 ≠ s.hubNum ∧ (s.rng.members.any fun m => decide (m.hub = 9)) = true ∧ Tbl.getD s.rng.heard 9 0 + 50000000 ≤ s.up)
    ∧ ({ s with up := 49999999 } : State).up < Tbl.getD s.rng.heard 9 0 + 50000000
    ∧ ((mem.take f).admitted = true) ∧ (({} : State).take f).admitted = false := by decide

theorem test_witness_BypassFollowsInsertAndHeartbeat :
    let s : State := { withFields [(F.RNG_BYP_CTL_INSERT, 0, 1), (F.Lx_LCTL_EN, 0, 1)] with rng := { settling := true, insertReq := true, leaving := true } }
    s.flag F.RNG_BYP_CTL_INSERT = true ∧ ({ ({} : State) with cry := { fleet := some [] } } : State).cry.fleet.isSome = true
    ∧ s.rng.leaving = true ∧ ({} : State).rng.leaving = false
    ∧ (withFields [(F.RNG_BYP_CTL_DRIVEN, 0, 1)]).flag F.RNG_BYP_CTL_DRIVEN = true
    ∧ (s.rng.settling = true ∧ s.rng.insertReq = true ∧ s.flag F.Lx_LCTL_EN 0 = true ∧ s.laneState .e = 0)
    ∧ ({} : State).rng.settling = false := by decide

theorem test_witness_LinkWordsActOnTheirLane_modes :
    let all : List Bool := [true, true, true, true]
    let eddy : State := { withFields [(F.Lx_LSTAT_STATE, 0, 4), (F.Lx_LCTL_EDDY, 0, 1)] with rng := { laneE := { crdSent := all } } }
    let both : State := laneAt 4 { rxCur := some 1, rxParked := some 2 }
    ((laneAt 4).sendsData .e = true ∧ (laneAt 4).eddies .e = false ∧ (laneAt 4).laneState .e = 4)
    ∧ (eddy.laneState .e = 4 ∧ (eddy.lane .e).crdSent.getD 3 true = true ∧ eddy.sendsData .e = true ∧ eddy.eddies .e = true)
    ∧ (withFields [(F.Lx_LCTL_MODE, 0, 1)]).sendsData .e = false
    ∧ ((both.lane .e).rxCur = some 1 ∧ (both.lane .e).rxParked = some 2)
    ∧ (((laneAt 4 { rxCur := some 1 }).lane .e).rxParked = none ∧ ((laneAt 4 { rxCur := some 1 }).lane .e).rxCur = some 1) := by decide

theorem test_witness_LidReportsTheNeighbour_lockout :
    ((laneAt 3 { fullProbe := true }).laneState .e = 3 ∧ ((laneAt 3 { fullProbe := true }).lane .e).fullProbe = true)
    ∧ ((laneAt 1).laneState .e ≠ 0 ∧ (laneAt 1).laneState .e ≠ 5) := by decide

theorem test_witness_FrameHeadsFollowTable_lanes :
    let f : Frame := { tt := .rctl, tc := 2, dst := 0xFE, src := 3, opc := 9, hoplim := 1, addr := 0 }
    let g : Frame := { tt := .wr, tc := 2, dst := 7, src := 7, hoplim := 9, addr := 0 }
    let own := withFields [(F.HUB_NODE_HUBNUM, 0, 6), (F.RNG_RSTAT_ADMITTED, 0, 1)]
    (Lane.w ≠ .t ∧ (laneAt 2).laneState .e = 2 ∧ (laneAt 3).laneState .e = 3 ∧ (laneAt 5).laneState .e = 5 ∧ f.tt = .rctl ∧ f.opc = 9)
    ∧ (withFields [(F.Lx_LSTAT_STATE, 4, 4)]).laneState .t = 4
    ∧ (own.admitted = true ∧ g.src ≠ own.hubNum ∧ g.dst ≠ own.hubNum ∧ g.dst ≠ 0xFE ∧ g.dst ≠ 0xFF ∧ g.hoplim ≠ 0 ∧ g.tt ≠ .rctl) := by decide

theorem test_witness_FrameVerdictCountsOrAccepts_causes :
    let f : Frame := { tt := .wr, tc := 0, dst := 7, src := 3, hoplim := 9, addr := 0 }
    let s (r : RxFrame) (adm : Nat) (offers : List Offer := []) : State :=
      { withFields [(F.HUB_NODE_HUBNUM, 0, 7), (F.RNG_RSTAT_ADMITTED, 0, adm)] with
        rng := { rx := [(1, r)] }, swc := { offers := offers, bufs := [(1, { port := 0, fr := r.fr, pool := .shared, verdict := .pending })] } }
    let r : RxFrame := { lane := .e, fr := f, deliver := true, forward := false, offered := true }
    let form (r : RxFrame) (e : Bool) : Bool := e || r.blockBad || decide (2048 < r.fr.length) || (decide (r.fr.tc = 0) && decide (192 < r.fr.length))
      || (decide (r.fr.tc = 1) && decide (256 < r.fr.length)) || decide (r.fr.ver ≠ 1) || decide (8 < r.fr.tt.code)
    (((s r 1).swc.offers.any fun o => decide (o.handle = 1)) = false ∧ Tbl.find? (s r 1).rng.rx 1 = some r)
    ∧ ({ r with lane := .t } : RxFrame).lane = .t
    ∧ (form r true = true ∧ form r false = false ∧ form { r with fr := { f with pay := zeros 140 } } false = false
      ∧ form { r with fr := { f with pay := zeros 141 } } false = true)
    ∧ (isTime { f with tt := .mgt, pay := [0x20] } = true ∧ isLinkLocal { f with tt := .mgt, pay := [0x20] } = false ∧ mgtOp { f with tt := .mgt, pay := [0x20] } = 0x20)
    ∧ ({ r with returning := true } : RxFrame).returning = true
    ∧ (({ r with deliver := false, forward := true } : RxFrame).deliver = false)
    ∧ ((s r 0).admitted = false ∧ f.tt ≠ .rctl ∧ (s r 1).admitted = true ∧ ((s r 1).buf? 1).isSome = true) := by decide +kernel

theorem find_replicate {α : Type} (n k j : Nat) (v : α) (h : k ≠ j) : Tbl.find? (List.replicate n (j, v)) k = none := by
  induction n with
  | zero => rfl
  | succ n ih => simp only [List.replicate_succ, Tbl.find?, if_neg (Ne.symm h), ih]

theorem test_witness_StreamsDeliverOnceInOrder_full :
    let f : Frame := { tt := .wr, tc := 2, dst := 0xFE, src := 3, seq := 10, hoplim := 9, addr := 0 }
    let s : State := { ({} : State) with rng := { streams := List.replicate 4128 (2 ^ 24, { inc := 0, next := 0 }) } }
    Tbl.find? s.rng.streams (streamKey f) = none ∧ f.dst = 0xFE ∧ 4128 ≤ (s.rng.streams.filter fun p => decide (2 ^ 24 ≤ p.1)).length := by
  refine ⟨find_replicate _ _ _ _ (by decide), rfl, ?_⟩
  exact Nat.le_of_eq (by dsimp only; rw [List.filter_replicate, if_pos (by decide), List.length_replicate])

theorem test_witness_StreamsDeliverOnceInOrder_order :
    let fr : Frame := { tt := .wr, tc := 2, dst := 7, src := 3, hoplim := 9, addr := 0 }
    let st : Stream := { inc := 4, next := 10 }
    let s : State := withFields [(F.RNG_HOLD_HOLD_EN, 0, 4)]
    let x : Sending := { handle := 1, queue := 2, next := 0 }
    let b : Buf := { port := 0, fr := fr, pool := .shared, verdict := .pending, links := [2] }
    let starved (up : Nat) : State := { ({} : State) with
      rng := { laneE := { fillSince := some 0 } }, swc := { sending := [(0, x)], bufs := [(1, b)] }, up := up }
    let busy (v : Verdict) (l : LaneSt := {}) : State := { ({} : State) with
      rng := { laneE := l }, swc := { fifo := [(0, [(1, 1)]), (12, [(2, 0)])], bufs := [(1, b), (2, { b with fr := { fr with tc := 0 }, verdict := v })] } }
    (sdiff 16 3 st.inc < 0 ∧ 0 < sdiff 16 5 st.inc ∧ sdiff 16 4 st.inc = 0 ∧ sdiff 32 9 st.next < 0)
    ∧ (0 < sdiff 32 11 st.next ∧ sdiff 32 11 st.next < 256 ∧ bit (s.get F.RNG_HOLD_HOLD_EN) fr.tc = true ∧ Tbl.has ({ st with held := [(11, 3)] } : Stream).held 11 = true)
    ∧ (sdiff 32 10 st.next = 0 ∧ Tbl.has st.held 10 = false)
    ∧ (0 < sdiff 32 300 st.next ∧ bit (s.get F.RNG_HOLD_HOLD_EN) 5 = false)
    ∧ (((starved 2000).lane .e).txSusp = false ∧ (starved 2000).midLine (12 + Lane.e.ix) = false ∧ Tbl.getD (starved 2000).swc.fifo Lane.e.ix [] = []
      ∧ Tbl.find? (starved 2000).swc.sending Lane.e.ix = some x ∧ (starved 2000).buf? 1 = some b ∧ ((starved 2000).lane .e).fillSince = some 0
      ∧ 0 + 2000 ≤ (starved 2000).up ∧ b.verdict = .pending)
    ∧ (((starved 1999).lane .e).fillSince = some 0 ∧ (starved 1999).up < 0 + 2000)
    ∧ (Tbl.getD (busy .good).swc.fifo (12 + Lane.e.ix) [] = (2, 0) :: [] ∧ ((busy .good).buf? 2).isSome = true ∧ (busy .good).midLine Lane.e.ix = true
      ∧ ((busy .good).lane .e).txSusp = false ∧ Tbl.has (busy .good).swc.sending 12 = false)
    ∧ (((busy .pending).buf? 2).map fun b => b.verdict) ≠ some .good := by decide +kernel

theorem test_witness_LaneStatesFollowQuality_reenable :
    let s : State := { openHub [(F.Lx_LSTAT_STATE, 0, 6)] with up := 5 }
    (writes s F.Lx_LCTL_MODE Lane.e.ix 8 = true ∧ bit 8 3 = true ∧ bits 8 2 1 = 0 ∧ bit 8 4 = s.flag F.Lx_LCTL_EDDY 0 ∧ Lane.e ≠ .t)
    ∧ (64 * 70000 ≤ 64 * 70000 ∧ (laneAt 3).laneState .e ≠ 4 ∧ (laneAt 1).laneState .e ≠ 4 ∧ (laneAt 4).laneState .e ≠ 3)
    ∧ ((laneAt 3 { wHopm := 4 }).laneState .e = 3 ∧ ((laneAt 3 { wHopm := 4 }).lane .e).wHopm < 5)
    ∧ ((laneAt 3 { fullProbe := true, probeWindows := 10 * (laneAt 3).get F.Lx_LQTIM_PROBATION 0 }).laneState .e = 3) := by decide +kernel

theorem test_witness_LinkDelayIsMeasuredByHopm_far :
    let f : Frame := { tt := .rctl, tc := 2, dst := 0xFE, opc := 9, addr := 0, pay := be 8 3 ++ be 8 2 ++ be 8 1 }
    let s : State := { ({} : State) with tim := { n := 8000 * 2 ^ 32 }, rng := { laneE := { dfSeeded := true, dfOut := 3 } } }
    let d : Int := (((s.ns : Int) - beAt f.pay 8 8) - ((beAt f.pay 0 8 : Int) - beAt f.pay 16 8)) * 2 ^ 15
    let eddy := withFields [(F.Lx_LSTAT_STATE, 0, 2), (F.Lx_LCTL_EDDY, 0, 1)]
    ((laneAt 2).sendsData .e = true ∧ (laneAt 2).eddies .e = false) ∧ (2 ≤ eddy.laneState .e ∧ eddy.sendsData .e = true ∧ eddy.eddies .e = true)
    ∧ (withFields [(F.Lx_LCTL_MODE, 0, 2)]).sendsData .e = false
    ∧ (beAt f.pay 8 8 ≠ 0 ∧ s.tim.steppedAt = none ∧ (s.lane .e).dfSeeded = true ∧ 1000 * 2 ^ 16 < (d - s.tim.df.getD 0 0).natAbs) := by decide

theorem test_witness_AdmissionFollowsTheMaster_full :
    let f : Frame := { tt := .rctl, tc := 2, dst := 0xFE, opc := 1, addr := 0, pay := be 1 0 ++ zeros 27 }
    let s := aMaster { members := (List.range 254).map fun i => { hub := i + 1, twin := false, inc := 0, dcv := 0 } }
    (s.take f).master = true ∧ beAt f.pay 4 4 = (s.take f).get F.HUB_FABID0 ∧ beAt f.pay 8 4 = (s.take f).get F.HUB_FABID1 ∧ bit (beAt f.pay 1 1) 0 = false
    ∧ ((s.take f).rng.members.any fun m => decide (m.hub = 0)) = false
    ∧ 254 ≤ (((s.take f).rng.members.map fun (m : Member) => m.hub).eraseDups).length := by decide +kernel

theorem test_witness_MasterIsElected_alone :
    let alone (up : Nat) : State := { withFields [(F.HUB_NODE_HUBNUM, 0, 7), (F.HUB_NODE_MPRIO, 0, 1)] with img := { loaded := true }, rng := { noHub := true }, up := up }
    let veer := withFields [(F.HUB_NODE_HUBNUM, 0, 7), (F.RNG_RSTAT_ADMITTED, 0, 1), (F.TWN_VSTAT_PEND, 0, 1)]
    let e : State := { withFields [(F.HUB_NODE_MPRIO, 0, 1), (F.RNG_RSTAT_ADMITTED, 0, 1), (F.RNG_RSTAT_ELECTING, 0, 1)] with rng := { candidate := true } }
    ((alone 10000000).mayLead = true ∧ (alone 10000000).master = false ∧ (alone 10000000).admitted = false ∧ (alone 10000000).rng.noHub = true
      ∧ (alone 10000000).img.loaded = true ∧ (alone 10000000).rng.lastBetter + 10000000 ≤ (alone 10000000).up)
    ∧ (veer.admitted = true ∧ veer.master = false ∧ veer.flag F.TWN_VSTAT_PEND = true ∧ veer.twn.veering = false ∧ veer.get F.HUB_NODE_MPRIO = 0)
    ∧ (e.admitted = true ∧ e.flag F.RNG_RSTAT_ELECTING = true ∧ e.mayLead = true ∧ e.rng.candidate = true)
    ∧ ({} : State).admitted = false ∧ betterMaster 2 9 1 7 = true := by decide

theorem test_witness_MembershipFollowsTheMap_maps :
    let pay : List Byte := be 2 5 ++ be 2 0 ++ be 2 1 ++ [9, 0, 0, 0, 0, 0, 0, 0]
    let f (src : Nat) : Frame := { tt := .rctl, tc := 2, dst := 0xFE, src := src, opc := 6, addr := 0, pay := pay }
    let u (r : RngSt) : State := ((aMaster r).take (f 9)).onRng fun r => { r with noHub := false }
    let mem := withFields [(F.HUB_NODE_HUBNUM, 0, 7), (F.RNG_RSTAT_ADMITTED, 0, 1)]
    let lv : Frame := { f 9 with opc := 8, pay := [9, 0, 0, 0] }
    let s := aMaster { members := [{ hub := 9, twin := false, inc := 0, dcv := 0 }] }
    ((u {}).master = true ∧ (f 9).src ≠ (u {}).hubNum ∧ (u {}).rng.rival ≠ some 9)
    ∧ ((u { rival := some 9 }).rng.rival = some (f 9).src
      ∧ ((parseMemb (f 9).pay).all fun m => (u { rival := some 9 }).rng.members.all fun o => decide (o.hub ≠ m.hub) || (decide (o.inc = m.inc) && decide (o.dcv = m.dcv))) = true)
    ∧ ((mem.take (f 9)).admitted = true ∧ (mem.take (f 9)).master = false)
    ∧ (({} : State).admitted = false ∧ ({} : State).master = false)
    ∧ (s.master = true ∧ (s.rng.members.any fun m => decide (m.hub = beAt lv.pay 0 1)) = true) ∧ mem.master = false := by decide +kernel

theorem test_witness_BypassFollowsInsertAndHeartbeat_writes :
    writes (openHub) F.RNG_BYP_CTL_INSERT 0 0xA1 = true ∧ writes (openHub) F.RNG_BYP_CTL_INSERT 0 0xA4 = true
    ∧ ((withFields [(F.RNG_BYP_CTL_INSERT, 0, 1), (F.RNG_RSTAT_ADMITTED, 0, 1)]).flag F.RNG_BYP_CTL_INSERT = true
      ∧ (withFields [(F.RNG_BYP_CTL_INSERT, 0, 1), (F.RNG_RSTAT_ADMITTED, 0, 1)]).admitted = true)
    ∧ (({} : State).admitted = false ∧ ({} : State).flag F.RNG_BYP_CTL_INSERT = false) := by decide +kernel

theorem test_witness_SettledRequestsAreAnswered :
    (({ st := .ur } : State.Res).st ≠ .viol ∧ (ask .rd 0 4).pst = false) ∧ (ask .wr 0 4 [] 0 true).pst = true
    ∧ (({} : State).standby = false ∧ ({} : State).activeTwin = false) ∧ (({} : State.Res).st = .ok) := by decide

theorem test_witness_RwiWritesAreRefusedWhole :
    let fixed (w : Nat) (r : RegRow) : Nat :=
      (openHub.shown r.off (0x1020C - r.off) (openHub.keyAt r 0x1020C) r.start ^^^ wordOf (wrReg 0x1020C w)) &&& fixedMask r
    openHub.blockBusy (regOff (wrReg 0x1020C 0x100C8).offset / 0x10000) = false
    ∧ (∃ r, regRow? (regOff (wrReg 0x1020C 0x100C8).offset) = some r ∧ fixed 0x100C8 r ≠ 0)
    ∧ (∃ r, regRow? (regOff (wrReg 0x1020C 0xF00C9).offset) = some r ∧ fixed 0xF00C9 r = 0)
    ∧ openHub.hub.vlog.length < 64
    ∧ 64 ≤ ({ openHub with hub := { vlog := List.replicate 64 [] } } : State).hub.vlog.length := by
  refine ⟨by decide +kernel, ⟨_, rfl, ?_⟩, ⟨_, rfl, ?_⟩, by decide, by decide⟩ <;>
    (dsimp only; rw [shown_closed _ _ _ _ _ (by decide +kernel)]; decide +kernel)

theorem test_witness_RegisterAccessFollowsTypes :
    let gated := withFields [(F.CKR_GACK_BLK, 0, 2 ^ 6)]
    gated.blockBusy (regOff 0x60000 / 0x10000) = true
    ∧ (({} : State).blockBusy 0 = false ∧ regRow? 0xFC = none ∧ lockAt 0xFC = none)
    ∧ (∃ r, regRow? 0x4 = some r ∧ r.off / 0x10000 ∈ [0, 8, 11, 17]
        ∧ (({} : State).shown r.off (4 - r.off) (({} : State).keyAt r 4) r.start ^^^ wordOf (wrReg 4 0)) &&& fixedMask r = 0
        ∧ r.off ≠ F.PEnn_RXQ_DATA.off ∧ r.off ≠ F.PEnn_IDATA_WORD.off)
    ∧ (lockAt 0x4 = none ∧ hiddenFrom 0x4 9 4 {} = false ∧ ({} : State).openMask 0x4 0 = 0) := by
  refine ⟨by decide +kernel, by decide +kernel, ⟨_, rfl, by decide +kernel, ?_, by decide +kernel, by decide +kernel⟩, by decide +kernel⟩
  rw [shown_closed _ _ _ _ _ (by decide +kernel)]; decide +kernel

theorem test_witness_RequestsPassChecksThenPerform :
    let shut : State := { bulky with img := { bulky.img with regions := [] } }
    let job : Job := { page := 0, mode := 0, init := true, final := true, tlen := 16, slot := 0, src := 0, dst := 0, aada := 0,
                       taga := 0, len := 16, aadlen := 0, iv := [], gen := 0, req := { ask .wr 0 4 with init := 5 } }
    let busy : State := { bulky with cry := { running := some (job, []), pages := [(0, { hub := 9, init := 5, queue := [job] })] } }
    classOf 7 9 9 = none ∧ bulky.targetOf (ask .rd 0 0) = none ∧ bulky.targetOf (ask .rd 0 1025) = none
    ∧ (classOf bulky.hubNum 9 4 = some .hub ∧ bulky.targetOf (ask .rd 0 1024) = some (.win (.bulk { buf := 0, base := 0, size := 4096 })))
    ∧ shut.targetOf (ask .rd 0 4) = some (.win (.bulk { buf := 0, base := 0, size := 4096 }))
    ∧ shut.refusal .hub (ask .rd 0 4).space 0 4 .r = some 1
    ∧ bulky.refusal .hub (ask .rd 0 4).space 0 (dataLen (ask .rd 0 4)) (permOf (ask .rd 0 4)) = none
    ∧ bulky.held (ask .rd 0 4) = false ∧ busy.held (ask .rd 0 4) = true
    ∧ bulky.targetOf (ask .wr 1020 0 [1, 2, 3, 4] 0 true) = some (.win (.bulk { buf := 0, base := 0, size := 4096 }))
    ∧ bulky.targetOf (ask .wrn 1020 0 [1, 2, 3, 4]) = some (.win (.bulk { buf := 0, base := 0, size := 4096 })) := by decide +kernel

theorem test_witness_RequestsPassChecksThenPerform_objects :
    let s : State := { bulky with
      epo := { objs := [(3, { type := 5 })] }
      img := { bulky.img with regions := [{ space := 2, base := 0, size := 4096, r := 31, w := 31, a := 31, pf := false, se := false }] } }
    let f : Frame := { ask .rd 0 16 with addr := fabAddr 7 2 48 }
    classOf s.hubNum f.src f.init = some .hub ∧ s.targetOf f = some .obj ∧ s.refusal .hub f.space f.offset (dataLen f) (permOf f) = none
    ∧ s.blockBusy 4 = false ∧ (objsOf f.offset f.len).filter (fun i => [3].contains i) = [3] := by decide +kernel

theorem test_witness_RmwReturnsOldStoresNew :
    let f (opc : Nat) (pay : List Byte) := ask .rmw 8 4 pay opc
    let b : Target := .win (.bulk { buf := 0, base := 0, size := 4096 })
    let open_ (g : Frame) : Bool := decide (bulky.targetOf g = some b) && decide (bulky.refusal .hub g.space g.offset (dataLen g) (permOf g) = none)
      && !bulky.held g
    classOf bulky.hubNum 9 4 = some .hub
    ∧ open_ (f 0 [0, 0, 0, 1]) = true ∧ open_ (f 1 [0, 0, 0, 0, 0, 0, 0, 1]) = true ∧ open_ (f 1 [9, 0, 0, 0, 0, 0, 0, 1]) = true
    ∧ open_ (f 2 [0, 0, 0, 1]) = true ∧ open_ (f 3 [0, 0, 0, 1]) = true ∧ open_ (f 4 [0, 0, 0, 1]) = true ∧ open_ (f 5 [0, 0, 0, 1]) = true
    ∧ unbe (Mem.readN bulky.bulk 8 4) = (rmwArgs (f 1 [0, 0, 0, 0, 0, 0, 0, 1])).1
    ∧ unbe (Mem.readN bulky.bulk 8 4) ≠ (rmwArgs (f 1 [9, 0, 0, 0, 0, 0, 0, 1])).1 := by decide +kernel

/-- The listed tags of the cipher engine, open. -/
def tagsOpen (l : List Nat) : Map OpenTx := l.map fun t => (4 * 1024 + t, { req := ask .rd 0 4 })

/-- A hub whose cipher engine's 1,024 tags are all open. -/
def allTags : State := { bulky with hub := { opened := tagsOpen (List.range 1024) } }

theorem has_of_mem {α : Type} {m : Map α} {k : Nat} {v : α} (h : (k, v) ∈ m) : Tbl.has m k = true := by
  induction m with
  | nil => cases h
  | cons x m ih =>
    simp only [Tbl.has, Tbl.find?] at ih ⊢
    split
    · rfl
    · exact ih ((List.mem_cons.mp h).resolve_left fun e => ‹¬ x.1 = k› (e ▸ rfl))

theorem tagsOpen_has {l : List Nat} {t : Nat} (h : t ∈ l) : Tbl.has (tagsOpen l) (4 * 1024 + t) = true :=
  has_of_mem (v := { req := ask .rd 0 4 }) (List.mem_map.mpr ⟨t, h, rfl⟩)

theorem allTags_full : allTags.freeTag 4 = none := by
  unfold State.freeTag
  rw [List.find?_eq_none]
  intro t ht
  simp only [allTags, tagsOpen_has ht, Bool.not_true, Bool.false_and, Bool.false_eq_true, not_false_eq_true]

theorem test_witness_TagsOpenCloseAndRest :
    let open_ (h : Option Nat) (up : Nat) : State := { bulky with hub := { opened := [(4 * 1024 + 5, { req := ask .rd 0 4, hostTag := h })] }, up := up }
    let resting : State := { bulky with hub := { reserved := [(4 * 1024 + 5, 0)] }, up := 20000000000 }
    let c : Frame := { tt := .cmp, tc := 3, dst := 7, init := 4, tag := 5, addr := 0 }
    ((ask .rd 0 4).dst ≠ 0xFE ∧ bulky.reachable 7 = true ∧ bulky.freeTag 4 = some 0)
    ∧ (allTags.hub.waiting.contains (ask .rd 0 4) = false) ∧ bulky.reachable 8 = false
    ∧ ((resting.take c).cmpBuf c = none ∧ Tbl.find? resting.hub.opened 4101 = none ∧ Tbl.has resting.hub.reserved 4101 = true)
    ∧ Tbl.has bulky.hub.reserved 4101 = false
    ∧ (((open_ none 0).take c).cmpBuf c = none ∧ Tbl.find? (open_ none 0).hub.opened 4101 = some { req := ask .rd 0 4 } ∧ (ask .rd 0 4).tt ≠ .mgt)
    ∧ (open_ none 0).timerOf 4 ≤ (open_ none 20000000000).up
    ∧ (Tbl.find? (open_ (some 3) 0).hub.opened 4101 = some { req := ask .rd 0 4, hostTag := some 3 })
    ∧ (open_ none 0).up < 0 + (open_ none 0).timerOf 4
    ∧ 0 + resting.timerOf 4 ≤ resting.up
    ∧ allTags.freeTag 4 = none := by
  simp only [allTags_full]; decide +kernel

theorem test_witness_GatewayAbortAndNotice :
    let s := withFields [(F.Hx_CTL_EN, 0, 1), (F.Hx_CTL_MAXLEN, 0, 1536)]
    let ptp : List Byte := zeros 12 ++ [0x88, 0xF7] ++ zeros 46
    let a (src init : Nat) : Frame := mgt [2, 0, BitVec.ofNat 8 src, BitVec.ofNat 8 init, 0, 5, 0, 0]
    let copying : State := { bulky with epo := { copies := [{ req := ask .mgt 0 0 [1], src := 0, len := 8, dst := 0, tc := 8 }] } }
    let open_ : State := { bulky with inbox := [(0, ask .rd 0 4)] }
    let e (sink hub init : Nat) : Frame := mgt ([1, 0, 0, BitVec.ofNat 8 sink] ++ zeros 16 ++ [BitVec.ofNat 8 init, BitVec.ofNat 8 hub] ++ zeros 14) true
    let sunk : State := { bulky with img := { bulky.img with sinks := [{ init := 4, kind := 1, hub := 8, host := 0 }] } }
    ({} : State).flag F.Hx_CTL_EN 0 = false ∧ s.flag F.Hx_CTL_EN 0 = true
    ∧ s.get F.Hx_CTL_MAXLEN 0 < (zeros 1533).length + 4 ∧ (zeros 1532).length + 4 ≤ s.get F.Hx_CTL_MAXLEN 0
    ∧ (s.standby = false ∧ beAt (zeros 60) (if beAt (zeros 60) 12 2 = 0x8100 then 16 else 12) 2 ≠ 0x88F7)
    ∧ (beAt ptp (if beAt ptp 12 2 = 0x8100 then 16 else 12) 2 = 0x88F7 ∧ ptp.length + 4 ≤ s.get F.Hx_CTL_MAXLEN 0)
    ∧ (mgtRefused (bulky.take (a 9 4)).hubNum (a 9 4) = false ∧ (a 9 4).pay.length = 8 ∧ bit (beAt (a 9 4).pay 1 1) 0 = false)
    ∧ ((a 8 4).src ≠ beAt (a 8 4).pay 2 1 ∧ mgtRefused (bulky.take (a 8 4)).hubNum (a 8 4) = false)
    ∧ ((a 9 4).src = beAt (a 9 4).pay 2 1 ∧ (a 9 4).init = beAt (a 9 4).pay 3 1 ∧ (bulky.take (a 9 4)).abortFar (a 9 4) = none
      ∧ (bulky.take (a 9 4)).abortJob (a 9 4) = none ∧ (bulky.take (a 9 4)).abortCopy (a 9 4) = none ∧ (bulky.take (a 9 4)).abortRead (a 9 4) = none)
    ∧ ((bulky.take (a 9 4)).openElsewhere (a 9 4) = false ∧ (open_.take (a 9 4)).openElsewhere (a 9 4) = true)
    ∧ (((copying.take (a 9 4)).epo.copies.find? fun (c : Copy) => isNamed (a 9 4) c.req).isSome = true
      ∧ (copying.take (a 9 4)).abortFar (a 9 4) = none ∧ (copying.take (a 9 4)).abortJob (a 9 4) = none)
    ∧ mgtRefused 7 (mgt [1] false) = true
    ∧ (mgtRefused bulky.hubNum (e 1 7 4) = false ∧ beAt (e 1 7 4).pay 3 1 ≠ 0)
    ∧ (mgtRefused bulky.hubNum (e 0 7 4) = false ∧ beAt (e 0 7 4).pay 3 1 = 0 ∧ beAt (slice (e 0 7 4).pay 4 32) 17 1 = (bulky.take (e 0 7 4)).hubNum)
    ∧ ((bulky.take (e 0 7 4)).sinkOf 4 = (7, 0) ∧ (bulky.take (e 0 7 0x10)).sinkOf 0x10 = (7, 0x10) ∧ (sunk.take (e 0 7 4)).sinkOf 4 = (8, 0)) := by
  decide +kernel

theorem test_witness_CommandLocksHaveOneHolder :
    let held (up : Nat) : State := { ({} : State) with locks := [(0, { hub := 9, init := 4, since := 0 })], up := up }
    Tbl.find? ({} : State).locks LockId.epo.ix = none ∧ Tbl.find? (held 0).locks LockId.epo.ix = some { hub := 9, init := 4, since := 0 }
    ∧ (held 0).holds .epo 9 4 = true ∧ (held 0).holds .epo 9 5 = false ∧ (ask .wr 0 4 [] 0 true).pst = true
    ∧ 0 + 10000000 ≤ (held 10000000).up ∧ (held 9999999).up < 0 + 10000000 := by decide

theorem test_witness_RwiWritesAreRefusedWhole_request :
    (wrReg 0x1020C 0).tt = .wrn ∧ passes openHub (wrReg 0x1020C 0) .reg = true := by decide +kernel

theorem test_witness_RegisterAccessFollowsTypes_requests :
    let gated := openHub [(F.CKR_GACK_BLK, 0, 2 ^ 6)]
    (openHub.targetOf { wrReg 0x10000 0 with pay := zeros 8 } = none ∧ openHub.targetOf { rdReg 0x10002 with len := 4 } = none)
    ∧ (passes gated (wrReg 0x60000 0) .reg = true ∧ passes gated (rdReg 0x60000) .reg = true ∧ gated.blockBusy (regOff (rdReg 0x60000).offset / 0x10000) = true)
    ∧ (passes openHub (wrReg 0xFC 0) .reg = true ∧ passes openHub (rdReg 0xFC) .reg = true)
    ∧ (passes openHub (wrReg 4 0) .reg = true ∧ passes openHub (rdReg 4) .reg = true) := by decide +kernel

theorem test_witness_RequestsPassChecksThenPerform_targets :
    let b : Target := .win (.bulk { buf := 0, base := 0, size := 4096 })
    let cells := bulkCellsOf bulky { buf := 0, base := 0, size := 4096 } 0 4
    let s : State := { bulky with
      epo := { objs := [(3, { type := 5 })] }
      img := { bulky.img with regions := [{ space := 2, base := 0, size := 4096, r := 31, w := 31, a := 31, pf := false, se := false }] } }
    let f : Frame := { ask .rd 0 16 with addr := fabAddr 7 2 48 }
    (bulky.targetOf (ask .rmw 0 3 [1, 2, 3]) = none)
    ∧ (passes bulky (ask .rd 0 4) b = true ∧ passes bulky (ask .wr 1020 0 [1, 2, 3, 4] 0 true) b = true ∧ passes bulky (ask .wrn 1020 0 [1, 2, 3, 4]) b = true)
    ∧ (eccOf [] cells true = [] ∧ eccOf [(bulky.frameCells, true)] cells true ≠ [])
    ∧ (passes s f .obj = true ∧ eccOf [(3, false)] (objsOf f.offset f.len) true = [] ∧ eccOf [(3, true)] (objsOf f.offset f.len) true ≠ []) := by
  decide +kernel

theorem test_witness_TagsOpenCloseAndRest_kinds :
    let open_ (h : Option Nat) (up : Nat) : State := { bulky with hub := { opened := [(4 * 1024 + 5, { req := ask .rd 0 4, hostTag := h })] }, up := up }
    let resting : State := { bulky with hub := { reserved := [(4 * 1024 + 5, 0)] }, up := 20000000000 }
    let c : Frame := { tt := .cmp, tc := 3, dst := 7, init := 4, tag := 5, addr := 0 }
    c.fLocal = false ∧ ({ c with dst := 0xFE } : Frame).dst = 0xFE
    ∧ (Tbl.find? (open_ none 20000000000).hub.opened 4101 = some { req := ask .rd 0 4 } ∧ 0 + (open_ none 0).timerOf 4 ≤ (open_ none 20000000000).up)
    ∧ 0 + (open_ none 0).timerOf 4 ≤ (open_ (some 3) 20000000000).up
    ∧ Tbl.find? resting.hub.reserved 4101 = some 0 := by decide +kernel

theorem test_witness_CommandLocksHaveOneHolder_requests :
    let held : State := { openHub with locks := [(0, { hub := 9, init := 4, since := 0 }), (1, { hub := 9, init := 4, since := 0 }),
                                                 (2, { hub := 9, init := 4, since := 0 }), (3, { hub := 9, init := 4, since := 0 })] }
    (passes openHub (rdReg 0x40040) .reg = true ∧ lockAt (regOff (rdReg 0x40040).offset) = some .epo ∧ openHub.blockBusy 4 = false)
    ∧ (lockAt 0x70F10 = some .can ∧ lockAt 0xE0090 = some .cry ∧ lockAt 0x120010 = some .mbx)
    ∧ (writes held LockId.epo.cmd.1 0 0 = true ∧ held.holds .epo 9 4 = true) ∧ (writes held LockId.can.cmd.1 0 0 = true ∧ held.holds .can 9 4 = true)
    ∧ (writes held LockId.cry.cmd.1 0 0 = true ∧ held.holds .cry 9 4 = true) ∧ (writes held LockId.mbx.cmd.1 0 0 = true ∧ held.holds .mbx 9 4 = true)
    ∧ (writes openHub LockId.epo.cmd.1 0 0 = true ∧ openHub.holds .epo 9 4 = false) := by decide +kernel

theorem test_witness_SwitchTakesHeadsAndSlots :
    let fr (tc : Nat) : Frame := { tt := .wr, tc := tc, dst := 9, addr := 0 }
    let o (port tc : Nat) : Offer := { port := port, fr := fr tc, deliver := false, forward := true }
    let s (o : Offer) (ready : Bool) : State := { ({} : State) with swc := { ready := ready, offers := [o] } }
    let shut : State := { withFields [(F.TMQ_PMAP_DATA_VALID, 0x80, 1), (F.TMQ_POL_CFG_EN, 0, 1)] with tmq := { pol := [(0, 0)] } }
    ((s (o 0 2) true).nextOffer 0 = some (o 0 2) ∧ (o 0 2).packer = none ∧ (s (o 0 2) true).hasCredit 0 (fr 2) = true)
    ∧ (s (o 0 2) false).swc.ready = false ∧ (s (o 0 2) true).swc.ready = true
    ∧ ((s (o 1 4) true).police 1 (fr 4)).1 = true ∧ ((s (o 2 4) true).police 2 (fr 4)).1 = true
    ∧ ((fr 3).tc < 4 ∧ (o 0 3).forward = true ∧ (o 0 3).deliver = false) ∧ 4 ≤ (fr 4).tc
    ∧ ({} : State).admits 20 4 = true
    ∧ shut.standby = false := by decide

theorem test_witness_SwitchTakesHeadsAndSlots_police :
    let f : Frame := { tt := .wr, tc := 8, dst := 9, init := 0x10, addr := 0 }
    let k := (State.policerKey 2 f).getD 0
    let shut : State := { withFields [(F.TMQ_PMAP_DATA_VALID, k, 1), (F.TMQ_POL_CFG_EN, 0, 1)] with tmq := { pol := [(0, 0)] } }
    (State.policerKey 2 f).isSome = true ∧ (shut.police 2 f).1 = false
    ∧ ({ ({} : State) with swc := { bufs := (List.range 8).map fun h =>
      (h, { port := 4, fr := f, pool := .shared, verdict := .good, cells := List.range 8192 }) } } : State).admits 20 4 = false := by decide +kernel

theorem test_witness_SwitchTakesHeadsAndSlots_credit :
    let fr (tc : Nat) : Frame := { tt := .wr, tc := tc, dst := 7, addr := 0 }
    let s : State := { ({} : State) with swc := { offers := [{ port := 5, fr := fr 2 }], llUsed := [(22, 16)] } }
    (∀ o ∈ s.swc.offers, o.port = 5 → s.hasCredit 5 o.fr = false) ∧ s.nextOffer 5 = none ∧ s.nextOffer 0 = none := by decide

theorem test_witness_WaitingFramesAndSamplesMove :
    let f : Frame := { tt := .wr, tc := 2, dst := 7, addr := 0 }
    let b : Buf := { port := 0, fr := f, pool := .shared, verdict := .good, waitLinks := [98] }
    let s (b : Buf) (l : List Nat := []) : State := { withFields [(F.SWC_QLIM_TC2, 0, 8)] with swc := { bufs := [(1, b)], waiters := [1], queues := [(98, { loc := l })] } }
    let smp (v : Verdict) : Sample := { port := 0, handle := 1, fr := f, time := 0, verdict := v }
    let down : State := (s { b with aonWait := true }).set F.CKR_BLKRST_BLK 0 (2 ^ 9)
    ((s b).firstWaiter 98 = some 1 ∧ (s b).buf? 1 = some b ∧ b.aonWait = false ∧ (s b).hasRoom 98 = true ∧ b.waitLinks.erase 98 = [])
    ∧ ({ b with waitLinks := [98, 82] } : Buf).waitLinks.erase 98 ≠ []
    ∧ (s b (List.range 8)).hasRoom 98 = false ∧ (s b).firstWaiter 82 = none
    ∧ ((s { b with aonWait := true }).buf? 1 = some { b with aonWait := true }
      ∧ ∀ q ∈ b.waitLinks, (s { b with aonWait := true }).portServes (State.portOfQ q) = true ∧ (s { b with aonWait := true }).hasRoom q = true
        ∧ (s { b with aonWait := true }).firstWaiter q = some 1)
    ∧ (down.buf? 1 = some { b with aonWait := true } ∧ ∃ q ∈ b.waitLinks, down.portServes (State.portOfQ q) = false)
    ∧ (∃ q ∈ b.waitLinks, (s { b with aonWait := true } (List.range 8)).hasRoom q = false)
    ∧ ({ ({} : State) with swc := { samples := [smp .pending, smp .good] } } : State).swc.samples.find? (fun x => decide (x.verdict ≠ .pending)) = some (smp .good)
    ∧ (({} : State).police 9 (sampleFrame (smp .good))).1 = true
    ∧ ({} : State).admits 127 15 = true ∧ ({} : State).swc.ready = false
    ∧ (writes openHub F.SWC_CAP_CFG_EN 0 (2 ^ 15) = true ∧ bit (2 ^ 15) 15 = true) := by
  refine ⟨?_, ?_, ?_, ?_, ?_, ?_, ?_, ?_, ?_, ?_, ?_, ?_⟩ <;> decide +kernel

theorem test_witness_WaitingFramesAndSamplesMove_policed :
    let smp : Sample := { port := 0, handle := 1, fr := { tt := .wr, tc := 2, dst := 7, addr := 0 }, time := 0, verdict := .good }
    let k := (State.policerKey 9 (sampleFrame smp)).getD 0
    let shut : State := { withFields [(F.TMQ_PMAP_DATA_VALID, k, 1), (F.TMQ_POL_CFG_EN, 0, 1)] with tmq := { pol := [(0, 0)] } }
    (State.policerKey 9 (sampleFrame smp)).isSome = true ∧ (shut.police 9 (sampleFrame smp)).1 = false := by decide +kernel

theorem test_witness_ShapersAndPolicersTick :
    let s := withFields [(F.TMQ_SHP_CFG_MODE, 3, 1), (F.TMQ_SHP_CFG_RATE, 3, 256), (F.TMQ_SHP_GUST_GUST, 3, 64), (F.TMQ_PMAP_DATA_VALID, 5, 1)]
    let f (key : Nat) : Frame := { ask .wrn 0 4 (le 4 (1 + key * 4)) with addr := fabAddr 7 1 0x3000C }
    let full : State := { ({} : State) with tmq := { imagePolicers := 1024 } }
    let used : State := { ({} : State) with tmq := { runtime := [(9, ())], pol := [(9, 100)] } }
    s.shaped 3 = true ∧ s.shaped 4 = false ∧ (0 < s.get F.TMQ_SHP_CFG_RATE 3 ∧ s.get F.TMQ_SHP_CFG_RATE 3 ≤ s.get F.TMQ_SHP_GUST_GUST 3 * 256)
    ∧ Tbl.find? used.tmq.pol 9 = some 100
    ∧ bits (wordOf (f 0x354)) 11 2 = 0x354 ∧ bits (wordOf (f 0x353)) 11 2 = 0x353
    ∧ s.flag F.TMQ_PMAP_DATA_VALID 5 = true ∧ s.flag F.TMQ_PMAP_DATA_VALID 0x353 = false
    ∧ Tbl.firstFree s.tmq.runtime s.tmq.imagePolicers (1024 - s.tmq.imagePolicers) = some 0
    ∧ Tbl.firstFree full.tmq.runtime full.tmq.imagePolicers (1024 - full.tmq.imagePolicers) = none
    ∧ Tbl.has used.tmq.runtime 9 = true ∧ Tbl.has used.tmq.runtime 8 = false := by decide

theorem test_witness_ShapersAndPolicersTick_commands :
    let used (l : List (Fld × Nat × Nat)) : State := { openHub l with tmq := { runtime := [(9, ())], pol := [(9, 100)], shp := [(4, 7)] } }
    (writes openHub F.TMQ_POL_CMD_OP 0 (1 + 0x353 * 4) = true ∧ (1 + 0x353 * 4) % 4 = 1)
    ∧ writes (used []) F.TMQ_POL_CMD_OP 0 (2 + 9 * 4) = true ∧ (2 + 9 * 4) % 4 = 2 ∧ bits (2 + 9 * 4) 11 2 = 9
    ∧ (Tbl.has (used []).tmq.shp 4 = true ∧ Tbl.has (used []).tmq.shp 5 = false ∧ (used []).shaped 4 = false) := by decide +kernel

theorem test_witness_PackersCollectUnits :
    let s (en fix : Nat) (p : Packer) (rx : List (Word × Bool) := [(5#32, false)]) : State := { openHub [(F.PKnn_CFG_EN, 0, en), (F.PKnn_CFG_FIXLEN, 0, fix)] with
      pio := { eng := [(0, { rx := rx })] }, swc := { packers := [(0, p)] } }
    let part : Packer := { cur := zeros 30, count := 30 }
    let whole : Packer := { cur := zeros 31, count := 31 }
    let full : Packer := { store := List.replicate 64 { data := [], last := false }, offered := true }
    ((Tbl.getD (s 1 64 part).pio.eng 0 {}).rx = [(5#32, false)] ∧ (s 1 64 part).flag F.PKnn_CFG_EN 0 = true ∧ (s 1 64 part).get F.PKnn_CFG_WIDTH 0 = 0
      ∧ (s 1 64 part).pk 0 = part ∧ part.store = [] ∧ part.pad = 0 ∧ part.cut = none ∧ part.offered = false ∧ part.cur.length < 31
      ∧ part.count + 1 < (s 1 64 part).packetLimit 0)
    ∧ ((s 1 0 whole).pk 0 = whole ∧ whole.cur.length = 31 ∧ (s 1 0 whole).get F.PKnn_CFG_FIXLEN 0 = 0 ∧ whole.count + 1 < (s 1 0 whole).packetLimit 0)
    ∧ ((s 1 0 full).pkFull 0 = true ∧ full.pad = 0 ∧ full.cut = none ∧ full.offered = true ∧ ((State.frontPacket full.store).any fun w => w.last) = false)
    ∧ ((Tbl.getD (s 1 0 {} []).pio.eng 0 {}).rx = [] ∧ (s 0 0 {}).flag F.PKnn_CFG_EN 0 = false)
    ∧ (let p : Packer := { cut := some (1, 32), count := 63 }
      p.offered = false ∧ p.cut = some (1, 32) ∧ p.store = [] ∧ p.pad = 0 ∧ p.count + 1 = (s 1 64 p).packetLimit 0)
    ∧ (writes (s 0 0 {}) F.PKnn_CFG_EN 0 (2 ^ 25) = true ∧ bit (2 ^ 25) 25 = true ∧ (s 0 0 {}).flag F.PKnn_CFG_EN 0 = false)
    ∧ (writes (s 1 0 {}) F.PKnn_CFG_EN 0 (2 ^ 25 + 1) = true ∧ bit (2 ^ 25 + 1) 25 = true ∧ (s 1 0 {}).flag F.PKnn_CFG_EN 0 = true) := by
  decide +kernel

/-- A hub with object 5, an input of 32 bits. -/
def withObj (o : Obj) (e : EpoSt := {}) (l : List (Fld × Nat × Nat) := []) (up : Nat := 0) : State :=
  { withFields l with epo := { e with objs := [(5, o)] }, up := up }

theorem test_witness_ObjectsFollowTheirSources :
    let o : Obj := { type := 3 }
    let u (r : Report) : Update := { obj := 5, rep := r, sec := 1, ns := 2 }
    (withObj o).obj? 5 = some o
    ∧ ((withObj o { binder := [u (.value 7 true)] }).epo.rfx = [] ∧ (withObj o { binder := [u (.value 7 true)] }).epo.binder = u (.value 7 true) :: []
      ∧ (u .fail).obj = 5 ∧ o.req = none)
    ∧ ({ o with req := some 3 } : Obj).req = some 3
    ∧ (withObj o { rfx := [.update (u .sinkOk)] }).epo.rfx = .update (u .sinkOk) :: []
    ∧ (withObj { o with req := some 9 } { rfx := [.hold 5 none] }).epo.rfx = .hold 5 none :: []
    ∧ (withObj o { rfx := [.hold 5 (some 4)] }).epo.rfx = .hold 5 (some 4) :: []
    ∧ (({ o with kind := 1 } : Obj).isInput = true ∧ (withObj o {} [(F.EPO_PRULE_TIM_STALE, 0, 10)]).get F.EPO_PRULE_TIM_STALE 0 ≠ 0)
    ∧ (o.value = ({ o with qual := 0 } : Obj).value ∧ o.qual ≠ ({ o with qual := 0 } : Obj).qual) ∧ o.value ≠ ({ o with value := 1 } : Obj).value
    ∧ o.value = o.init := by decide

theorem test_witness_PublicationFollowsTheRules :
    let o : Obj := { type := 3, value := 7, qual := 0, pub := some (7, 0, 0) }
    let rule (m : Nat) := [(F.EPO_PRULE_CFG_MODE, 0, m), (F.EPO_PRULE_TIM_MININT, 0, 5)]
    let b : Sub := { first := 5, count := 1, tc := 4, toHost := false, dest := 9, pending := [(5, ())] }
    let many : Sub := { b with count := 82, pending := (List.range 82).map fun i => (5 + i, ()) }
    let e (rotor : Nat) : State := withObj o { subs := [(2, b), (3, { b with pending := [] })], rotor := rotor } [(F.EPO_PUBCFG_BATCH, 0, 0)]
    let f : Frame := { tt := .pub, tc := 4, dst := 7, src := 9, addr := 0, pay := zeros 44 }
    let m : Obj := { type := 3, kind := 6, index := 9 * 65536, cseq := 1 }
    (withObj o).obj? 5 = some o ∧ (withObj o).get F.EPO_PRULE_CFG_MODE 0 = 0 ∧ (withObj o {} (rule 1)).get F.EPO_PRULE_CFG_MODE 0 ≠ 0
    ∧ (bit 1 0 = true ∧ bit 1 1 = false) ∧ (bit 2 1 = true ∧ bit 2 0 = false) ∧ (bit 4 2 = true ∧ bit 3 2 = false)
    ∧ ({ o with qual := 1 } : Obj).qual ≠ 0 ∧ ({ o with value := 8 } : Obj).value ≠ 7
    ∧ (withObj o {} (rule 1) 4999).up < 0 + (withObj o {} (rule 1)).get F.EPO_PRULE_TIM_MININT 0 * 1000
    ∧ 0 + (withObj o {} (rule 1)).get F.EPO_PRULE_TIM_MININT 0 * 1000 ≤ (withObj o {} (rule 1) 5000).up ∧ o.hist = false
    ∧ (b.first ≤ 5 ∧ 5 < b.first + b.count) ∧ (6 < 5 ∨ b.first + b.count ≤ 6)
    ∧ ({ o with deferred := true } : Obj).deferred = true ∧ o.deferred = false
    ∧ (Tbl.find? (e 0).epo.subs 2 = some b ∧ b.pending.isEmpty = false ∧ ({ b with pending := [] } : Sub).pending.isEmpty = true)
    ∧ 82 ≤ many.pending.length
    ∧ (withFields [(F.TWN_STAT_ROLE, 0, 2)]).standby = true
    ∧ ((e 1).epo.subs.filter fun p => (e 1).subReady p.2).filter (fun p => decide ((e 1).epo.rotor < p.1)) = (2, b) :: []
    ∧ ((e 2).epo.subs.filter fun p => (e 2).subReady p.2).filter (fun p => decide ((e 2).epo.rotor < p.1)) = []
    ∧ (e 2).epo.subs.filter (fun p => (e 2).subReady p.2) = (2, b) :: []
    ∧ (withObj m).epo.objs = [(5, m)] ∧ m.index = f.src * 65536 + beAt (zeros 24) 0 2 ∧ bit (beAt (zeros 24) 3 1 % 64) 0 = false
    ∧ sdiff 16 (beAt (zeros 24) 14 2) m.cseq ≤ 0 := by decide

theorem test_witness_EndpointCommandsAnswer :
    let f (w : Nat) : Frame := { ask .wrn 0 4 (le 4 w) with addr := fabAddr 7 1 0x40020 }
    let o : Obj := { type := 3 }
    let s (tc first : Nat) (subs : Map Sub) (snaps : Map Snap) (u : Nat) : State :=
      { withObj o { subs := subs, snaps := snaps } [(F.EPO_CMD_ARG0_TC, 0, tc), (F.EPO_CMD_ARG0_FIRST, 0, first), (F.EPO_CMD_ARG0_COUNT, 0, 1),
        (F.EPO_SUB_USED_DEF, 0, u)] with locks := [(0, { hub := 9, init := 4, since := 0 })] }
    let b : Sub := { first := 5, count := 1, tc := 4, toHost := false, dest := 9 }
    let x : Snap := { objs := [5], tc := 4, toHost := false, dest := 9, hostId := 0, instant := .time 0, id := 1 }
    (s 4 5 [] [] 0).holds .epo (f 1).src (f 1).init = true
    ∧ (s 3 5 [] [] 0).get F.EPO_CMD_ARG0_TC < 4 ∧ 7 < (s 8 5 [] [] 0).get F.EPO_CMD_ARG0_TC
    ∧ definedRange (s 4 6 [] [] 0) 6 1 = false
    ∧ (definedRange (s 7 5 [] [] 0) 5 1 = true ∧ 4 ≤ (s 7 5 [] [] 0).get F.EPO_CMD_ARG0_TC ∧ (s 7 5 [] [] 0).get F.EPO_CMD_ARG0_TC ≤ 7)
    ∧ Tbl.firstFree (s 7 5 [] [] 0).epo.subs ((s 7 5 [] [] 0).get F.EPO_SUB_USED_DEF) 16384 = some 0
    ∧ Tbl.firstFree (s 7 5 [] [] 16384).epo.subs ((s 7 5 [] [] 16384).get F.EPO_SUB_USED_DEF) (16384 - (s 7 5 [] [] 16384).get F.EPO_SUB_USED_DEF) = none
    ∧ (bits (wordOf (f (2 + 9 * 8))) 16 3 = 9 ∧ (s 7 5 [(9, b)] [] 9).get F.EPO_SUB_USED_DEF ≤ 9 ∧ Tbl.has (s 7 5 [(9, b)] [] 9).epo.subs 9 = true)
    ∧ (8 < (s 7 5 [(9, b)] [] 9).get F.EPO_SUB_USED_DEF ∧ Tbl.has (s 7 5 [(9, b)] [] 9).epo.subs 10 = false)
    ∧ wordOf (f 3) % 8 = 3 ∧ (wordOf (f (4 + 7 * 8)) % 8 = 4 ∧ bits (wordOf (f (4 + 7 * 8))) 5 3 = 7)
    ∧ Tbl.has (s 7 5 [] [(7, x)] 0).epo.snaps 7 = true ∧ Tbl.has (s 7 5 [] [(7, x)] 0).epo.snaps 6 = false := by decide

theorem test_witness_EndpointCommandsAnswer_copy :
    let p (off len dst : Nat) (tc : Nat) : List Byte := [9, 0] ++ be 6 off ++ be 4 len ++ be 6 dst ++ be 1 (tc * 16) ++ be 1 0
    let f (off len dst : Nat) : Frame := mgt (p off len dst 8)
    let c : Copy := { req := f 0 4096 (fabAddr 7 4 0), src := 0, len := 4096, dst := fabAddr 7 4 512, tc := 8 }
    let s (l : List Copy) : State := { bulky with epo := { copies := l } }
    (bulky.take (f 4096 4 0)).winOf (beAt (f 4096 4 0).pay 2 6) (beAt (f 4096 4 0).pay 8 4) = none
    ∧ ((bulky.take (f 0 4096 (fabAddr 7 4 0))).winOf (beAt (f 0 4096 (fabAddr 7 4 0)).pay 2 6) (beAt (f 0 4096 (fabAddr 7 4 0)).pay 8 4)
        = some (.bulk { buf := 0, base := 0, size := 4096 }))
    ∧ (1 ≤ beAt c.req.pay 8 4 ∧ beAt c.req.pay 8 4 ≤ 2 ^ 20 ∧ beAt c.req.pay 12 6 / 2 ^ 40 < 254 ∧ bulky.reachable (beAt c.req.pay 12 6 / 2 ^ 40) = true
      ∧ 8 ≤ beAt c.req.pay 18 1 / 16 ∧ beAt c.req.pay 18 1 / 16 ≤ 11 ∧ beAt c.req.pay 1 1 = 0 ∧ beAt c.req.pay 18 1 % 16 = 0 ∧ beAt c.req.pay 19 1 = 0
      ∧ classOf bulky.hubNum 9 4 = some .hub)
    ∧ (bulky.refusal .hub 4 0 4096 .r = none ∧ ({ bulky with img := { bulky.img with regions := [] } } : State).refusal .hub 4 0 4096 .r = some 1)
    ∧ 4 ≤ (s [c, c, c, c]).epo.copies.length ∧ (s [c, c, c]).epo.copies.length < 4
    ∧ (let n := min (c.len - c.sent) (1024 - (c.dst + c.sent) % 1024)
       c.sent < c.len ∧ n = 512 ∧ c.sent + n < c.len)
    ∧ (let d : Copy := { c with sent := 3584 }
       d.len ≤ d.sent + min (d.len - d.sent) (1024 - (d.dst + d.sent) % 1024)) := by decide +kernel

theorem test_witness_SnapshotsAndScheduleAct :
    let x : Snap := { objs := [5], tc := 4, toHost := false, dest := 9, hostId := 0, instant := .time 0, id := 1 }
    let s (t : Nat) : State := withObj { type := 3 } { snaps := [(7, { x with instant := .time t })] }
    let f (n : Nat) : Frame := mgt ([0x10, 0, 0, 1, 0, 0, 0, 4] ++ zeros 10 ++ [0, 0] ++ be 2 n ++ zeros (5 * n))
    let r : RingSnap := { req := f 1, id := 1 }
    let sched (kind period : Nat) (l : EpoSt) : State := { withObj { type := 3 } l with img := { sched := [(3, { kind := kind, arg := 2, period := period, offset := 0 })] } }
    (Tbl.find? (s 0).epo.snaps 7 = some x ∧ (s 0).instantReached (.time 0) = true ∧ (s 1).instantReached (.time 1) = false)
    ∧ (withFields [(F.TWN_STAT_ROLE, 0, 2)]).standby = true
    ∧ ((s 0).standby = false ∧ x.objs = [5] ∧ (s 0).obj? 5 = some { type := 3 })
    ∧ ({} : State).master = false
    ∧ ((f 1).pst = false ∧ aMaster.master = true ∧ (f 1).pay.length = 22 + 5 * beAt (f 1).pay 20 2 ∧ (f 200).pay.length = 22 + 5 * beAt (f 200).pay 20 2
      ∧ beAt (f 0).pay 20 2 = 0 ∧ 200 < beAt (f 201).pay 20 2
      ∧ 4 ≤ beAt (f 1).pay 7 1 ∧ beAt (f 1).pay 7 1 ≤ 7 ∧ beAt (f 1).pay 18 2 ≤ 4095 ∧ beAt (f 1).pay 4 1 ≤ 1 ∧ beAt (f 1).pay 6 1 ≤ 7 ∧ beAt (f 1).pay 1 1 = 0)
    ∧ ({ ({} : State) with epo := { ringSnap := some r } } : State).epo.ringSnap ≠ none ∧ aMaster.epo.ringSnap = none
    ∧ (beAt (f 1).pay 20 2 = 1 ∧ beAt (slice (f 1).pay 22 5) 0 1 ≠ aMaster.hubNum)
    ∧ (r.id = beAt (f 1).pay 2 2 ∧ r.answers.length < 200) ∧ ({ r with id := 2 } : RingSnap).id ≠ beAt (f 1).pay 2 2
    ∧ (Tbl.find? (sched 1 60 {}).img.sched 3 = some { kind := 1, arg := 2, period := 60, offset := 0 })
    ∧ ((sched 1 60 {}).sec + 60 - 0 % 60) % 60 = 0 ∧ ((sched 1 60 {}).sec + 60 - 1 % 60) % 60 ≠ 0
    ∧ ({ ({} : State) with mgt := { test := some (1, 0) } } : State).runningTest = some (1, 0)
    ∧ (withFields [(F.HUB_NODE_TWIN, 0, 1), (F.TWN_STAT_ROLE, 0, 1)]).activeTwin = true ∧ ({} : State).activeTwin = false
    ∧ ({} : State).passive = false
    ∧ Tbl.find? (sched 4 60 { lists := [(2, [5])] }).epo.lists (2 % 64) = some [5]
    ∧ ((List.range 8).all fun k => Tbl.has ((List.range 8).map fun i => (i, x)) k) = true
    ∧ ((List.range 8).all fun k => Tbl.has (s 0).epo.snaps k) = false := by decide +kernel

theorem test_witness_ObjectsFollowTheirSources_times :
    let o : Obj := { type := 3, kind := 1 }
    let s (up : Nat) : State := withObj o {} [(F.EPO_PRULE_TIM_STALE, 0, 10)] up
    (o.isInput = true ∧ (s 10000000).get F.EPO_PRULE_TIM_STALE o.prule ≠ 0 ∧ o.upAt + (s 10000000).get F.EPO_PRULE_TIM_STALE o.prule * 1000000 ≤ (s 10000000).up ∧ bit o.qual 1 = false)
    ∧ (s 9999999).up < o.upAt + (s 9999999).get F.EPO_PRULE_TIM_STALE o.prule * 1000000 ∧ (withObj o).get F.EPO_PRULE_TIM_STALE o.prule = 0
    ∧ (o.value = ({ o with cseq := 5 } : Obj).value ∧ o.qual = ({ o with cseq := 5 } : Obj).qual) ∧ (o.req = none ∧ o.value = o.init) := by decide

theorem test_witness_PublicationFollowsTheRules_times :
    let o : Obj := { type := 3, value := 7, qual := 0, pub := some (7, 0, 0) }
    let s (o : Obj) (up : Nat) : State := withObj o {} [(F.EPO_PRULE_CFG_MODE, 0, 4), (F.EPO_PRULE_CFG_PERIOD, 0, 3), (F.EPO_PRULE_TIM_MININT, 0, 5)] up
    let b : Sub := { first := 5, count := 1, tc := 4, toHost := false, dest := 9, pending := [(5, ())] }
    let e (up : Nat) : State := withObj o { subs := [(2, b)] } [(F.EPO_PUBCFG_BATCH, 0, 2)] up
    let fr : Frame := { tt := .pub, tc := 4, dst := 9, addr := 0, pay := zeros 1900 }
    let slow : State := { e 0 with swc := { offers := [{ port := 5, fr := fr }] } }
    let pay (id n : Nat) (v : Nat) : List Byte := be 2 n ++ zeros 18 ++ (be 2 id ++ zeros 12 ++ be 2 2 ++ be 8 v)
    let f (pst : Bool) (src init n v : Nat) : Frame := { tt := .pub, tc := 4, dst := 7, src := src, init := init, pst := pst, addr := 0, pay := pay 0 n v }
    let m : Obj := { type := 3, kind := 6, index := 9 * 65536, cseq := 1, value := 4 }
    let h : State := { withFields [(F.HUB_NODE_HUBNUM, 0, 7)] with epo := { objs := [(5, m)] } }
    (bit ((s o 0).get F.EPO_PRULE_CFG_MODE o.prule) 2 = true ∧ o.deferred = false ∧ o.perAt + (s o 0).get F.EPO_PRULE_CFG_PERIOD o.prule * 1000000 ≤ (s o 3000000).up)
    ∧ (s o 2999999).up < o.perAt + (s o 0).get F.EPO_PRULE_CFG_PERIOD o.prule * 1000000
    ∧ (({ o with deferred := true } : Obj).deferred = true ∧ 0 + (s o 0).get F.EPO_PRULE_TIM_MININT o.prule * 1000 ≤ (s o 5000).up
      ∧ (s o 4999).up < 0 + (s o 0).get F.EPO_PRULE_TIM_MININT o.prule * 1000)
    ∧ (Tbl.find? (e 2000).epo.subs 2 = some b ∧ b.pending.isEmpty = false ∧ b.since + (e 2000).get F.EPO_PUBCFG_BATCH * 1000 ≤ (e 2000).up
      ∧ (e 1999).up < b.since + (e 1999).get F.EPO_PUBCFG_BATCH * 1000)
    ∧ ((e 0).standby = false ∧ (e 0).lossyCredit 5 b.cells = true ∧ slow.lossyCredit 5 b.cells = false)
    ∧ (classOf h.hubNum 9 9 = none ∧ (f false 9 4 1 4).pst = false)
    ∧ (classOf h.hubNum 9 4 ≠ none ∧ (f true 9 4 0 4).pst = true ∧ beAt (f true 9 4 0 4).pay 0 2 = 0)
    ∧ (beAt (f true 9 4 1 4).pay 0 2 = 1 ∧ m.index = 9 * 65536 + beAt (slice (f true 9 4 1 4).pay 20 24) 0 2
      ∧ bit (beAt (slice (f true 9 4 1 4).pay 20 24) 3 1 % 64) 0 = false ∧ 0 < sdiff 16 (beAt (slice (f true 9 4 1 4).pay 20 24) 14 2) m.cseq
      ∧ m.req = none ∧ m.value = beAt (slice (f true 9 4 1 4).pay 20 24) 16 8 % typeMod m.type)
    ∧ m.value ≠ beAt (slice (f true 9 4 1 5).pay 20 24) 16 8 % typeMod m.type
    ∧ sdiff 16 (beAt (slice (f true 9 4 1 5).pay 20 24) 14 2) ({ m with cseq := 2 } : Obj).cseq ≤ 0 := by decide +kernel

theorem test_witness_EndpointCommandsAnswer_writes :
    let x (copied : Bool) : Snap := { objs := [5], tc := 4, toHost := false, dest := 9, hostId := 0, instant := .time 0, id := 1, copied := copied }
    let all : Map Snap := (List.range 8).map fun k => (k, x false)
    let s (tc : Nat) (subs : Map Sub) (snaps : Map Snap) : State :=
      { openHub [(F.EPO_CMD_ARG0_TC, 0, tc), (F.EPO_CMD_ARG0_FIRST, 0, 5), (F.EPO_CMD_ARG0_COUNT, 0, 1), (F.EPO_CMD_ARG2_ARG2, 0, 9)] with
        locks := [(0, { hub := 9, init := 4, since := 0 })], epo := { objs := [(5, { type := 3 })], subs := subs, snaps := snaps } }
    let u := (s 4 [] []).unlock .epo
    let b : Sub := { first := 5, count := 1, tc := 4, toHost := false, dest := 9 }
    (writes (s 4 [] []) F.EPO_CMD_OP 0 1 = true ∧ (s 4 [] []).holds .epo 9 4 = true ∧ definedRange u 5 1 = true ∧ 4 ≤ u.get F.EPO_CMD_ARG0_TC ∧ u.get F.EPO_CMD_ARG0_TC ≤ 7)
    ∧ writes (s 4 [(9, b)] []) F.EPO_CMD_OP 0 (2 + 9 * 8) = true
    ∧ (writes (s 4 [] []) F.EPO_CMD_OP 0 3 = true ∧ u.snapSet (u.flag F.EPO_CMD_ARG0_LIST) 5 1 = some [5] ∧ u.flag F.EPO_CMD_ARG1_WHEN = false
      ∧ (List.range 8).find? u.snapFree = some 0 ∧ u.ns < State.timeOf (u.sec / 2 ^ 32 * 2 ^ 32 + u.get F.EPO_CMD_ARG3_ARG3) (u.get F.EPO_CMD_ARG2_ARG2))
    ∧ ((List.range 8).find? ((s 4 [] all).unlock .epo).snapFree = none ∧ u.snapSet (u.flag F.EPO_CMD_ARG0_LIST) 6 1 = none)
    ∧ (writes (s 4 [] [(7, x false)]) F.EPO_CMD_OP 0 (4 + 7 * 8) = true ∧ ((s 4 [] [(7, x false)]).unlock .epo).snapFree 7 = false ∧ (x false).copied = false
      ∧ ((s 4 [] [(7, x false)]).unlock .epo).snapFree 6 = true) := by decide +kernel

theorem test_witness_EndpointCommandsAnswer_late :
    let x : Snap := { objs := [5], tc := 4, toHost := false, dest := 9, hostId := 0, instant := .time 0, id := 1, copied := true }
    let fr : Frame := { tt := .pub, tc := 4, dst := 9, addr := 0, pay := [0, 0, 0, 1, 0, 1] }
    let s : State := { openHub with locks := [(0, { hub := 9, init := 4, since := 0 })], epo := { snaps := [(7, x)] }, swc := { offers := [{ port := 5, fr := fr }] } }
    writes s F.EPO_CMD_OP 0 (4 + 7 * 8) = true ∧ (s.unlock .epo).snapFree 7 = false ∧ Tbl.find? (s.unlock .epo).epo.snaps 7 = some x ∧ x.copied = true := by
  decide +kernel

theorem test_witness_EndpointCommandsAnswer_requests :
    let p (off len dst : Nat) : List Byte := [9, 0] ++ be 6 off ++ be 4 len ++ be 6 dst ++ be 1 128 ++ be 1 0
    let f (off len dst : Nat) : Frame := mgt (p off len dst)
    let g := f 0 4096 (fabAddr 7 4 0)
    let c : Copy := { req := g, src := 0, len := 4096, dst := fabAddr 7 4 512, tc := 8 }
    let s (l : List Copy) : State := { bulky with epo := { copies := l } }
    let fr : Frame := { tt := .wr, tc := 8, dst := 9, addr := 0, pay := zeros 1950 }
    let slow : State := { s [c] with swc := { offers := [{ port := 5, fr := fr }] } }
    let shut : State := { bulky with img := { bulky.img with regions := [] } }
    (mgtRefused bulky.hubNum { g with pst := true } = true ∧ bulky.winOf 4096 4 = none ∧ mgtRefused bulky.hubNum (f 4096 4 0) = false)
    ∧ (mgtRefused bulky.hubNum g = false ∧ g.pay.length = 20 ∧ bulky.winOf (beAt g.pay 2 6) (beAt g.pay 8 4) = some (.bulk { buf := 0, base := 0, size := 4096 })
      ∧ beAt g.pay 2 6 < 2 ^ 36 ∧ 1 ≤ beAt g.pay 8 4 ∧ beAt g.pay 8 4 ≤ 2 ^ 20 ∧ beAt g.pay 12 6 / 2 ^ 40 < 254 ∧ bulky.reachable (beAt g.pay 12 6 / 2 ^ 40) = true
      ∧ 8 ≤ beAt g.pay 18 1 / 16 ∧ beAt g.pay 18 1 / 16 ≤ 11 ∧ beAt g.pay 1 1 = 0 ∧ beAt g.pay 18 1 % 16 = 0 ∧ beAt g.pay 19 1 = 0
      ∧ classOf bulky.hubNum g.src g.init = some .hub)
    ∧ (shut.refusal .hub 4 0 4096 .r = some 1 ∧ bulky.refusal .hub 4 0 4096 .r = none)
    ∧ (4 ≤ (s [c, c, c, c]).epo.copies.length ∧ (s [c, c, c]).epo.copies.length < 4)
    ∧ ((s [c]).epo.copies = c :: [] ∧ (s [c]).lossyCredit 5 (cdiv (512 + 52) 64) = true ∧ slow.lossyCredit 5 (cdiv (512 + 52) 64) = false) := by
  decide +kernel

theorem test_witness_SnapshotsAndScheduleAct_requests :
    let pay (op hub ty n : Nat) (at_ : Nat) : List Byte :=
      be 1 op ++ [0] ++ be 2 1 ++ [0, 0, 0, 4] ++ be 6 0 ++ be 4 at_ ++ be 2 ty ++ be 2 n ++ (List.replicate n (be 1 hub ++ [0] ++ be 2 5 ++ [0])).flatten
    let q : Frame := mgt (pay 0x10 9 0 1 5)
    let a (hub : Nat) : Frame := mgt (pay 0x11 hub 0 1 5) true
    let nack (id : Nat) : Frame := mgt ([0x12, 0] ++ be 2 id ++ be 1 1) true
    let r : RingSnap := { req := q, id := 1 }
    let h (snaps : Map Snap) : State := { withFields [(F.HUB_NODE_HUBNUM, 0, 7)] with epo := { objs := [(5, { type := 3 })], snaps := snaps } }
    let x : Snap := { objs := [5], tc := 4, toHost := false, dest := 9, hostId := 0, instant := .time 0, id := 1 }
    let all : Map Snap := (List.range 8).map fun k => (k, x)
    let u := (h []).take (a 7)
    let tmo (up : Nat) : State := { withFields [(F.IMG_MC_CFG_ARMTMO, 0, 20)] with epo := { ringSnap := some r }, up := up }
    (mgtRefused aMaster.hubNum q = false ∧ aMaster.master = true ∧ q.pay.length = 22 + 5 * beAt q.pay 20 2 ∧ 1 ≤ beAt q.pay 20 2 ∧ beAt q.pay 20 2 ≤ 200
      ∧ 4 ≤ beAt q.pay 7 1 ∧ beAt q.pay 7 1 ≤ 7 ∧ beAt q.pay 18 2 ≤ 4095 ∧ beAt q.pay 4 1 ≤ 1 ∧ beAt q.pay 6 1 ≤ 7 ∧ beAt q.pay 1 1 = 0
      ∧ beAt (slice q.pay 22 5) 0 1 ≠ aMaster.hubNum)
    ∧ (mgtRefused (h []).hubNum (a 9) = false ∧ beAt (a 9).pay 20 2 = 1 ∧ beAt (slice (a 9).pay 22 5) 0 1 ≠ ((h []).take (a 9)).hubNum)
    ∧ (mgtRefused (h []).hubNum (a 7) = false ∧ beAt (slice (a 7).pay 22 5) 0 1 = u.hubNum ∧ beAt (a 7).pay 4 1 = 0
      ∧ u.snapSet (bit (beAt (slice (a 7).pay 22 5) 1 1) 0) (beAt (slice (a 7).pay 22 5) 2 2) (beAt (slice (a 7).pay 22 5) 4 1 + 1) = some [5]
      ∧ (List.range 8).find? u.snapFree = some 0 ∧ u.ns < State.timeOf (beAt (a 7).pay 8 6) (beAt (a 7).pay 14 4))
    ∧ ((List.range 8).find? ((h all).take (a 7)).snapFree = none ∧ ((h all).take (a 7)).passive = false)
    ∧ (withFields [(F.TWN_STAT_ROLE, 0, 2)]).passive = true
    ∧ (mgtRefused 7 (nack 1) = false ∧ r.id = beAt (nack 1).pay 2 2 ∧ r.answers.length < 200 ∧ r.id ≠ beAt (nack 2).pay 2 2)
    ∧ (r.since + (tmo 20000000).get F.IMG_MC_CFG_ARMTMO * 1000000 ≤ (tmo 20000000).up ∧ (tmo 19999999).up < r.since + (tmo 19999999).get F.IMG_MC_CFG_ARMTMO * 1000000)
    := by decide +kernel

theorem test_witness_SnapshotsAndScheduleAct_schedule :
    let s (done : Map Nat) (kind period : Nat) : State := { ({} : State) with img := { sched := [(3, { kind := kind, arg := 2, period := period, offset := 0 })], schedDone := done } }
    (Tbl.find? (s [(3, 0)] 1 60).img.schedDone 3 = some (s [(3, 0)] 1 60).sec ∧ Tbl.find? (s [] 1 60).img.schedDone 3 ≠ some (s [] 1 60).sec)
    ∧ ((s [] 1 1).sec + 1 - 0 % 1) % 1 = 0 ∧ (List.range 8).find? (s [] 4 60).snapFree = some 0 := by decide

theorem test_witness_FarSideAccessesFollowTheBus :
    let fr : Frame := { ask .rd 0x1000 8 with addr := fabAddr 7 4 0x1000 }
    let a : BrgAcc := { src := .fabric fr, win := 0, off := 0, len := 8, write := false, chunk := 4 }
    let s (b : Nat) (a : BrgAcc) : State := { withFields [(F.BRG_WIN_CFG_KIND, 0, 1), (F.BRG_WIN_CFG_RETRY, 0, 2), (F.BRG_WIN_CFG_RETRYW, 0, 1)] with
      brg := { buses := [(b, { cur := some a })] } }
    let idle (l : List (Fld × Nat × Nat)) (q : List BrgAcc) : State := { withFields l with brg := { buses := [(0, { queue := q })] } }
    let poll (up due : Nat) (q : List BrgAcc) : State :=
      { withFields [(F.BRG_PL_CFG_EN, 3, 1), (F.BRG_PL_STAT_DUE, 3, 1), (F.BRG_BUS_CFG_PSTARVE, 0, 1)] with
        brg := { buses := [(0, { queue := q })], polls := [(3, { due := due })] }, up := up }
    ((s 0 a).flag F.SPnn_CFG_MBRTU 0 = false ∧ ((s 0 a).bus 0).cur = some a ∧ (s 0 a).winKind 0 ≠ 4 ∧ (s 0 a).winKind 0 ≠ 7)
    ∧ (a.write = false ∧ a.abort = none ∧ a.done + a.chunk < a.len) ∧ ({ a with done := 4 } : BrgAcc).len ≤ ({ a with done := 4 } : BrgAcc).done + a.chunk
    ∧ ({ a with abort := some fr } : BrgAcc).abort = some fr
    ∧ (a.tries < (s 0 a).get F.BRG_WIN_CFG_RETRY a.win ∧ (s 0 { a with write := true }).flag F.BRG_WIN_CFG_RETRYW a.win = true)
    ∧ ((0x7F < 0x80 ∨ 0x84 < 0x7F) ∧ (0x85 < 0x80 ∨ 0x84 < 0x85)) ∧ a.src = .fabric fr ∧ fr.pst = false
    ∧ (((s 31 a).bus 31).cur = some a ∧ ((s 32 a).bus 32).cur = some a ∧ ((s 40 a).bus 40).cur = some a ∧ ((s 48 a).bus 48).cur = some a)
    ∧ ((idle [(F.TWN_STAT_ROLE, 0, 2)] []).passive = true ∧ ((idle [] []).bus 0).cur = none)
    ∧ ((idle [] [a]).passive = false ∧ (idle [] [a]).twn.cut = [] ∧ (idle [] [a]).twn.veering = false ∧ (idle [] [a]).duePoll 0 = none
      ∧ ((idle [] [a]).bus 0).queue = a :: [])
    ∧ ((poll 1000001 0 [a]).duePoll 0 = some 3
      ∧ ((poll 1000001 0 [a]).pollOf 3).due + (poll 1000001 0 [a]).get F.BRG_BUS_CFG_PSTARVE 0 * 1000000 < (poll 1000001 0 [a]).up)
    ∧ ((poll 1000000 0 []).up ≤ ((poll 1000000 0 []).pollOf 3).due + (poll 1000000 0 []).get F.BRG_BUS_CFG_PSTARVE 0 * 1000000
      ∧ ((poll 1000000 0 []).bus 0).queue = []) := by decide +kernel

theorem test_witness_FarSideAccessesFollowTheBus_ports :
    let h : Handed := { obj := 5, kind := 11, index := 2, value := 7 }
    let s (en : Nat) : State := { withFields [(F.BRG_SK_CFG_EN, 2, en)] with epo := { handed := [h] } }
    let p (l : List (Fld × Nat × Nat)) (rx : List Nat) : State := { withFields l with brg := { rx := [(0, rx)], skip := [0] } }
    let b : PfBuf := { win := 0, off := 0, len := 4, req := ask .rd 0 4 }
    ((s 0).epo.handed = h :: [] ∧ h.kind = 11 ∧ (s 0).flag F.BRG_SK_CFG_EN 2 = false ∧ (s 1).flag F.BRG_SK_CFG_EN 2 = true)
    ∧ (((s 1).bus ((s 1).winBus ((s 1).get F.BRG_SK_CFG_WIN 2))).queue = [] ∧ (s 1).brg.pf = [])
    ∧ ((withFields [(F.BRG_PL_CFG_EN, 511, 1)]).flag F.BRG_PL_CFG_EN 511 = true ∧ ((withFields [(F.BRG_PL_CFG_EN, 511, 1)]).pollOf 511).busy = false
      ∧ (withFields [(F.BRG_PL_CFG_EN, 511, 1)]).flag F.BRG_PL_STAT_DUE 511 = false)
    ∧ ({} : State).flag F.BRG_PL_CFG_EN 0 = false
    ∧ (Tbl.find? ({ ({} : State) with brg := { pf := [(0, b)] } } : State).brg.pf 0 = some b ∧ b.data = none ∧ ({ b with data := some [] } : PfBuf).data.isSome = true)
    ∧ ((p [] []).flag F.SPnn_CFG_EN 0 = false)
    ∧ ((p [(F.SPnn_CFG_EN, 0, 1)] (List.replicate 255 0)).flag F.SPnn_CFG_EN 0 = true ∧ (p [(F.SPnn_CFG_EN, 0, 1)] []).flag F.SPnn_CFG_MODE9 0 = false
      ∧ (Tbl.getD (p [] (List.replicate 255 0)).brg.rx 0 []).length < 256 ∧ 256 ≤ (Tbl.getD (p [] (List.replicate 256 0)).brg.rx 0 []).length)
    ∧ ((p [(F.SPnn_CFG_EN, 0, 1), (F.SPnn_CFG_MODE9, 0, 1), (F.SPnn_CFG_ADRFILT, 0, 1)] []).flag F.SPnn_CFG_MODE9 0 = true
      ∧ (p [(F.SPnn_CFG_EN, 0, 1), (F.SPnn_CFG_MODE9, 0, 1), (F.SPnn_CFG_ADRFILT, 0, 1)] []).flag F.SPnn_CFG_ADRFILT 0 = true ∧ bit 0xFF 8 = false) := by
  decide +kernel

theorem test_witness_PinsFollowTheirOwners :
    let o : Obj := { type := 0 }
    let s (l : List (Fld × Nat × Nat)) (f : FpnSt := {}) : State := { withObj o { handed := [{ obj := 5, kind := 8, index := 9, value := 1 }] } l with fpn := f }
    let on : FpnSt := { on := true, banks := List.replicate 8 true, admitted := List.replicate 8 true, pins := [(9, { drive := some true, force := some true })] }
    (s [(F.FPn_CFG_FUNC, 9, 3)]).get F.FPn_CFG_FUNC 9 = 3
    ∧ ((s [(F.FPn_CFG_FUNC, 9, 2)]).get F.FPn_CFG_FUNC 9 ≠ 3 ∧ (s []).epo.handed = { obj := 5, kind := 8, index := 9, value := 1 } :: [] ∧ (s []).obj? 5 = some o)
    ∧ (({} : State).get F.FPn_CFG_FUNC 9 ≠ 3 ∧ ({} : State).epo.handed = [])
    ∧ (({} : State).padDrive 9 = none ∧ (s [(F.FPn_CFG_RBDLY, 9, 1)] on).get F.FPn_CFG_RBDLY 9 ≠ 0 ∧ (s [(F.FPn_CFG_RBDLY, 9, 1)] on).padDrive 9 ≠ none)
    ∧ (((({} : State).setPinBit F.FPN_RAW_PIN 9 true).pinBit F.FPN_IN_PIN 9 ≠ true) ∧ ((({} : State).setPinBit F.FPN_RAW_PIN 9 false).pinBit F.FPN_IN_PIN 9 = false))
    ∧ ({} : State).epo.objs = []
    ∧ (on.on = true ∧ ({} : State).fpn.on = false ∧ on.admitted.getD 0 false = true ∧ ({} : State).fpn.admitted.getD 0 false = false)
    ∧ ((s [] on).fpn.banks.getD (9 / 32) false = true ∧ ((s [] on).pin 9).force = some true ∧ (s [] on).get F.FPn_CFG_FUNC 9 ≠ 3 ∧ (s [] on).flag F.FPn_CFG_OD 9 = false)
    ∧ (((s [] on).pin 8).force = none ∧ (s [] on).claimants 8 = []) := by decide +kernel

theorem test_witness_VirtualWiresFollowTheirSource :
    let s (v : List (Fld × Nat × Nat)) (f : FpnSt := {}) (n : Nat := 0) : State := { withFields v with fpn := f, tim := { n := n } }
    let q : VwWait := { stamp := 5, locked := true, changed := 1 }
    let f : Frame := { tt := .vw, tc := 0, dst := 7, src := 9, addr := fabAddr 7 0 3, pay := be 4 1 ++ be 4 5 }
    let slot := [(F.FPN_VWI_CFG_EN, 3, 1), (F.FPN_VWI_CFG_SRC, 3, 9), (F.FPN_VWI_CFG_BLOCK, 3, 3), (F.TIM_STAT_TLOCK, 0, 1), (F.FPN_VWI_CFG_LAT, 3, 1)]
    let at_ (t : State) : Nat := (if 5 % 2 ^ 30 ≤ t.nsec then t.sec else t.sec - 1) * 10 ^ 9 + 5 + t.get F.FPN_VWI_CFG_LAT 3 * 100
    (Tbl.find? (s [] { vwo := [(15, q)] }).fpn.vwo 15 = some q)
    ∧ (Tbl.find? (s [(F.FPN_VWO_CFG_EN, 15, 1)]).fpn.vwo 15 = none ∧ (s [(F.FPN_VWO_CFG_EN, 15, 1)]).flag F.FPN_VWO_CFG_EN 15 = true)
    ∧ ((s []).flag F.FPN_VWO_CFG_EN 0 = false ∧ (s []).flag F.FPN_VWO_CFG_DSTKIND 0 = false)
    ∧ ((List.range 64).filter fun k => ((s slot).take f).flag F.FPN_VWI_CFG_EN k && decide (((s slot).take f).get F.FPN_VWI_CFG_SRC k = f.src)
        && decide (((s slot).take f).get F.FPN_VWI_CFG_BLOCK k = f.addr % 16)) = [3]
    ∧ ((List.range 64).filter fun k => ((s []).take f).flag F.FPN_VWI_CFG_EN k && decide (((s []).take f).get F.FPN_VWI_CFG_SRC k = f.src)
        && decide (((s []).take f).get F.FPN_VWI_CFG_BLOCK k = f.addr % 16)) = []
    ∧ (at_ (s slot {} (106 * 2 ^ 32)) < (s slot {} (106 * 2 ^ 32)).ns) ∧ bit (2 ^ 30) 30 = true ∧ (s []).timeLocked = false
    ∧ ((s slot {} (105 * 2 ^ 32)).ns ≤ at_ (s slot {} (105 * 2 ^ 32)) ∧ bit 5 30 = false ∧ (s slot {} (105 * 2 ^ 32)).timeLocked = true)
    ∧ (Tbl.getD (s [] { vwi := [(63, [(9, 1)])] }).fpn.vwi 63 [] = (9, 1) :: [] ∧ Tbl.getD (s []).fpn.vwi 63 [] = [])
    ∧ ((s []).flag F.FPN_VWI_CFG_EN 63 = false)
    ∧ ((s [(F.FPN_VWI_CFG_EN, 63, 1)]).flag F.FPN_VWI_CFG_EN 63 = true ∧ (s [(F.FPN_VWI_CFG_EN, 63, 1)]).flag F.FPN_VWI_CFG_SAFEMODE 63 = false)
    ∧ ((s [(F.FPN_VWI_CFG_EN, 63, 1), (F.FPN_VWI_CFG_SAFEMODE, 63, 1)]).flag F.FPN_VWI_CFG_SAFEMODE 63 = true)
    ∧ (s [(F.FPN_VWI_STATE_WIRES, 63, 6)]).get F.FPN_VWI_STATE_WIRES 63 = (2 ^ 32 + 6) % 2 ^ 32 := by decide +kernel

theorem test_witness_FarSideAccessesFollowTheBus_controllers :
    let fr : Frame := { ask .rd 0x1000 8 with addr := fabAddr 7 4 0x1000 }
    let a : BrgAcc := { src := .fabric fr, win := 0, off := 0, len := 8, write := false, chunk := 4 }
    let s (b kind : Nat) (a : BrgAcc) : State := { withFields [(F.BRG_WIN_CFG_KIND, 0, kind)] with brg := { buses := [(b, { cur := some a })] } }
    (((s 32 5 a).bus 32).cur = some a ∧ (s 32 5 a).winKind 0 = 5 ∧ a.write = false ∧ a.abort = none ∧ a.done + a.chunk < a.len)
    ∧ (({ a with done := 4 } : BrgAcc).len ≤ ({ a with done := 4 } : BrgAcc).done + a.chunk)
    ∧ (((s 40 6 a).bus 40).cur = some a ∧ (s 40 6 a).winKind 0 = 6) ∧ ({ a with abort := some fr } : BrgAcc).abort = some fr := by decide

theorem test_witness_FarSideAccessesFollowTheBus_modbus :
    let fr : Frame := { ask .rd 0x1000 8 with addr := fabAddr 7 4 0x1000 }
    let a : BrgAcc := { src := .fabric fr, win := 0, off := 0, len := 8, write := false, chunk := 2 }
    let good := rtu [1, 3, 2, 0, 7]
    let s (echo : Nat) (r : List Byte) (a : BrgAcc) : State :=
      { withFields [(F.BRG_WIN_CFG_KIND, 0, 2), (F.BRG_WIN_FAR_UNIT, 0, 1), (F.SPnn_CFG_MBRTU, 31, 1), (F.SPnn_CFG_ECHO, 31, echo), (F.BRG_WIN_CFG_RETRY, 0, 2),
          (F.BRG_WIN_CFG_RETRYW, 0, 1)] with
        brg := { buses := [(31, { cur := some a })], rx := [(31, r.map fun c => c.toNat)] } }
    (((s 0 good a).bus 31).cur = some a ∧ (s 0 good a).flag F.SPnn_CFG_MBRTU 31 = true ∧ (s 0 good a).winKind a.win ≤ 3)
    ∧ (good.map (fun c => c.toNat) ≠ [] ∧ a.abort = none ∧ ∀ c ∈ good.map (fun c => c.toNat), bit c 9 = false ∧ bit c 10 = false)
    ∧ (4 ≤ good.length ∧ crc16 good = 0 ∧ beAt good 0 1 = beAt ((s 0 good a).farRequest a) 0 1 ∧ beAt good 1 1 = beAt ((s 0 good a).farRequest a) 1 1
      ∧ beAt good 1 1 < 128 ∧ good.length = State.rtuLength 2 a.chunk a.write ∧ beAt good 2 1 + 5 = good.length)
    ∧ (([1, 3, 2] : List Byte).length < 4 ∧ crc16 [1, 3, 2, 0, 7, 0, 0] ≠ 0)
    ∧ (a.tries < (s 0 [1, 3, 2] a).get F.BRG_WIN_CFG_RETRY a.win ∧ (s 0 [1, 3, 2] a).get F.BRG_WIN_CFG_RETRY a.win ≤ ({ a with tries := 2 } : BrgAcc).tries
      ∧ (s 0 [1, 3, 2] a).flag F.BRG_WIN_CFG_RETRYW a.win = true)
    ∧ ((s 1 good a).flag F.SPnn_CFG_ECHO 31 = true ∧ (s 1 good a).flag F.SPnn_CFG_DUPLEX 31 = false) := by decide +kernel

theorem test_witness_FarSideAccessesFollowTheBus_times :
    let a : BrgAcc := { src := .fabric (ask .rd 0x1000 8), win := 0, off := 0, len := 8, write := false, chunk := 4 }
    let s (b up : Nat) : State := { withFields [(F.BRG_WIN_TMO_RSPTMO, 0, 3), (F.ICn_CFG_STRTMO, 7, 2)] with brg := { buses := [(b, { cur := some a })] }, up := up }
    let pf (d : Option (List Byte)) (up : Nat) : State :=
      { withFields [(F.BRG_WIN_TMO_PFAGE, 0, 1)] with brg := { pf := [(0, { win := 0, off := 0, len := 4, req := ask .rd 0 4, data := d })] }, up := up }
    let poll (due busy : Nat) (at_ : Nat) : State :=
      { withFields [(F.BRG_PL_CFG_EN, 511, 1), (F.BRG_PL_STAT_DUE, 511, due)] with brg := { polls := [(511, { due := at_, busy := busy == 1 })] }, up := 9 }
    let quiet (up : Nat) : State :=
      { withFields [(F.SPnn_CFG_MBRTU, 31, 1)] with brg := { quiet := [(31, 0)], buses := [(31, { queue := [a] })] }, up := up }
    ((s 31 299999).up < a.at_ + 3 * 100000 ∧ (s 31 300000).get F.BRG_WIN_TMO_RSPTMO a.win * 100000 = 300000 ∧ a.at_ + 300000 ≤ (s 31 300000).up
      ∧ Tbl.getD (s 31 300000).brg.rx 31 [] = [] ∧ ((s 31 300000).bus 31).cur = some a)
    ∧ ((s 47 20000).get F.ICn_CFG_STRTMO 7 * 10000 = 20000 ∧ a.at_ + 20000 ≤ (s 47 20000).up ∧ ((s 47 20000).bus 47).cur = some a)
    ∧ ((s 48 300000).bus 48).cur = some a
    ∧ ((pf (some []) 1000000).up = 0 + (pf none 0).get F.BRG_WIN_TMO_PFAGE 0 * 1000000 ∧ (pf (some []) 999999).up < 0 + 1000000)
    ∧ ((poll 0 0 9).flag F.BRG_PL_CFG_EN 511 = true ∧ ((poll 0 0 9).pollOf 511).busy = false ∧ (poll 0 0 9).flag F.BRG_PL_STAT_DUE 511 = false
      ∧ ((poll 0 0 9).pollOf 511).due ≤ (poll 0 0 9).up)
    ∧ (((poll 0 1 9).pollOf 511).busy = true ∧ (poll 1 0 9).flag F.BRG_PL_STAT_DUE 511 = true ∧ (poll 0 0 10).up < ((poll 0 0 10).pollOf 511).due)
    ∧ ((quiet 0).quietFor 31 ((quiet 0).quietTime 31) = false ∧ (quiet (10 ^ 12)).quietFor 31 ((quiet 0).quietTime 31) = true
      ∧ (quiet (10 ^ 12)).busHeld 31 = false ∧ (quiet (10 ^ 12)).duePoll 31 = none ∧ ((quiet (10 ^ 12)).bus 31).queue = a :: []) := by decide +kernel

theorem test_witness_FarSideAccessesFollowTheBus_rows :
    let p (l : List (Fld × Nat × Nat)) : State := { withFields l with brg := { skip := [0] } }
    (writes openHub F.BRG_DLOG_STAT_CLEAR 0 (2 ^ 8) = true ∧ bit (2 ^ 8) 8 = true)
    ∧ 0 ∈ (p []).brg.skip ∧ (withFields [(F.TWN_STAT_ROLE, 0, 2)]).passive = true ∧ ({ ({} : State) with twn := { veering := true } } : State).twn.veering = true := by
  decide +kernel

theorem test_witness_PinsFollowTheirOwners_times :
    let on : FpnSt := { on := true, banks := List.replicate 8 true, admitted := List.replicate 8 true, pins := [(9, { drive := some true, pulse := true, pulseAt := 4 })] }
    let s (l : List (Fld × Nat × Nat)) (up : Nat) (f : FpnSt := on) : State := { withFields l with fpn := f, up := up }
    let gpo := [(F.FPn_CFG_FUNC, 9, 2)]
    (((s [(F.FPn_SEL_PW, 9, 3)] 3004).pin 9).pulse = true ∧ ((s [(F.FPn_SEL_PW, 9, 3)] 3004).pin 9).pulseAt + (s [(F.FPn_SEL_PW, 9, 3)] 3004).get F.FPn_SEL_PW 9 * 1000 ≤ 3004)
    ∧ ((3003 : Nat) < ((s [(F.FPn_SEL_PW, 9, 3)] 3003).pin 9).pulseAt + (s [(F.FPn_SEL_PW, 9, 3)] 3003).get F.FPn_SEL_PW 9 * 1000)
    ∧ (let u := s [(F.FPn_CFG_RBDLY, 9, 2)] 15
       u.get F.FPn_CFG_RBDLY 9 ≠ 0 ∧ u.padDrive 9 = some true ∧ u.pinBit F.FPN_RAW_PIN 9 = (!true != u.flag F.FPn_CFG_INV 9) ∧ (u.pin 9).mism = false
       ∧ (u.pin 9).driveAt + u.get F.FPn_CFG_RBDLY 9 * 5 + 5 ≤ u.up ∧ (u.pin 9).rawAt + 5 ≤ u.up)
    ∧ (s [(F.FPn_CFG_RBDLY, 9, 2)] 9).up < ((s [(F.FPn_CFG_RBDLY, 9, 2)] 9).pin 9).driveAt + 2 * 5
    ∧ ((s [(F.FPn_CFG_FILT_N, 9, 2)] 9).filterTime 9 = 10 ∧ (s [(F.FPn_CFG_FILT_N, 9, 2)] 9).pinBit F.FPN_IN_PIN 9 ≠ true)
    ∧ ((s gpo 0).padReset 9 = false ∧ (s [] 0).padReset 9 = true ∧ (s gpo 0 { on with pins := [] }).claimants 8 = [] ∧ ((s gpo 0).pin 9).force = none)
    ∧ (let u := s gpo 0 { on with pins := [(9, { force := some true })] }
       u.padReset 9 = false ∧ (u.pin 9).force = some true ∧ u.get F.FPn_CFG_FUNC 9 ≠ 3 ∧ u.flag F.FPn_CFG_OD 9 = false)
    ∧ (let u := s [(F.FPn_CFG_FUNC, 8, 2)] 0 { on with pins := [] }
       u.get F.FPn_CFG_FUNC 8 ≠ 3 ∧ u.epo.handed = [] ∧ u.unboundGpo 8 = true) := by decide +kernel

theorem test_witness_VirtualWiresFollowTheirSource_times :
    let s (v : List (Fld × Nat × Nat)) (f : FpnSt := {}) (up : Nat := 0) : State := { withFields ([(F.HUB_NODE_HUBNUM, 0, 7)] ++ v) with fpn := f, up := up }
    let block := [(F.FPN_VWO_CFG_EN, 15, 1), (F.FPN_VWO_CFG_REFRESH, 15, 2)]
    let f (pst : Bool) (init : Nat) : Frame := { tt := .vw, tc := 0, dst := 7, src := 9, init := init, pst := pst, addr := fabAddr 7 0 3, pay := be 4 1 ++ be 4 5 }
    let slot := [(F.FPN_VWI_CFG_EN, 63, 1), (F.FPN_VWI_CFG_SRC, 63, 9), (F.FPN_VWI_CFG_BLOCK, 63, 3), (F.FPN_VWI_CFG_TMO, 63, 4)]
    (Tbl.getD (s block {} 2000000).fpn.vwoAt 15 (s block).fpn.onAt + (s block).get F.FPN_VWO_CFG_REFRESH 15 * 1000000 ≤ (s block {} 2000000).up)
    ∧ (s block {} 1999999).up < Tbl.getD (s block).fpn.vwoAt 15 (s block).fpn.onAt + (s block).get F.FPN_VWO_CFG_REFRESH 15 * 1000000
    ∧ (classOf (s []).hubNum 9 9 = none ∧ (f false 4).pst = false ∧ classOf (s []).hubNum (f true 4).src (f true 4).init ≠ none ∧ (f true 4).pst = true)
    ∧ (9 ≤ (9 : Nat) ∧ Tbl.getD (s [] { vwi := [(63, [(9, 1)])] }).fpn.vwi 63 [] = (9, 1) :: [])
    ∧ ((s slot).flag F.FPN_VWI_CFG_EN 63 = true ∧ (s slot).flag F.FPN_VWI_STAT_TIMEDOUT 63 = false ∧ (s slot).slotTimeout 63 = 4000000
      ∧ Tbl.getD (s slot).fpn.vwiAt 63 (s slot).fpn.onAt + (s slot).slotTimeout 63 ≤ (s slot {} 4000000).up)
    ∧ (s slot {} 3999999).up < Tbl.getD (s slot).fpn.vwiAt 63 (s slot).fpn.onAt + (s slot).slotTimeout 63 := by decide +kernel

/-- Engine 0 with a window of four words, of which the first is given. -/
def engineAt (w : Nat) (q : Engine := { running := true }) (l : List (Fld × Nat × Nat) := []) (en : Nat := 1) : State :=
  { withFields ([(F.PEnn_CFG_EN, 0, en), (F.PEnn_IWIN_SIZE, 0, 4), (F.PEnn_PINS_OUT_CNT, 0, 4)] ++ l) with
    pio := { eng := [(0, q)], imem := [(0, BitVec.ofNat 32 w)] } }

/-- Whether it is engine 0's turn, with the word w: the conditions of `State.Turns`, decided. -/
def turns (w : Nat) (s : State := engineAt w) : Bool :=
  (s.eng 0).running && !s.blockBusy 6 && decide (s.get F.PEnn_PC_PAUSELEFT 0 = 0) && decide (s.iword 0 (s.get F.PEnn_PC_PC 0) = w)

theorem turns_iff (w : Nat) (s : State) (h : turns w s = true) : s.Turns 0 w := by
  simp only [turns, Bool.and_eq_true, decide_eq_true_eq, Bool.not_eq_true'] at h
  exact ⟨h.1.1.1, h.1.1.2, h.1.2, h.2⟩

/-- Whether engine 0 executes the word w with its opcode: the conditions of `State.Runs`, decided. -/
def runs (w : Nat) (s : State := engineAt w) : Bool :=
  turns w s && s.wordLegal 0 w && ((s.eng 0).stalled.isSome || (s.eng 0).seq.isSome
    || (decide (s.get F.PEnn_PC_PC 0 < s.get F.PEnn_IWIN_SIZE 0) && s.cond 0 (bits w 25 22)))

theorem runs_iff (w : Nat) (s : State) (h : runs w s = true) : s.Runs 0 (w / 2 ^ 26) w := by
  simp only [runs, Bool.and_eq_true, Bool.or_eq_true, decide_eq_true_eq] at h
  exact ⟨turns_iff w s h.1.1, rfl, h.1.2, or_assoc.mp h.2⟩

/-- The conditions of `State.ReadsRow`, decided for a read of register r. -/
def readsRow (s : State) (r : Fld) (i : Nat) : Bool :=
  let off := r.off + r.mult * i
  match regRow? off with
  | none => false
  | some x => reads s r i && decide (regOff (rdReg off).offset = off) && decide (x.off = r.off) && decide (lockAt off = none) && !hiddenFrom off 9 4 s

theorem readsRow_row {s : State} {r : Fld} {i : Nat} (h : readsRow s r i = true) : ∃ x, s.ReadsRow (rdReg (r.off + r.mult * i)) r i x := by
  unfold readsRow at h
  dsimp only at h
  split at h
  · cases h
  · rename_i x hx
    simp only [Bool.and_eq_true, decide_eq_true_eq, Bool.not_eq_true'] at h
    obtain ⟨⟨⟨⟨h1, h2⟩, h3⟩, h4⟩, h5⟩ := h
    exact ⟨x, reads_reg h1, by rw [h2]; exact hx, h3, by rw [h2]; exact h4, by rw [h2]; exact h5⟩

/-- Hub 7 with engine 0 in the state q, enabled and with its window. -/
def hubEngine (q : Engine := { running := true }) (l : List (Fld × Nat × Nat) := []) (feeds : List (Nat × Frame × List Word) := []) : State :=
  { openHub ([(F.PEnn_CFG_EN, 0, 1), (F.PEnn_IWIN_SIZE, 0, 4), (F.PEnn_PINS_OUT_CNT, 0, 4)] ++ l) with pio := { eng := [(0, q)], feeds := feeds } }

theorem test_witness_EnginesFollowControlFlow :
    let op (n : Nat) : Nat := n * 2 ^ 26
    runs (op 0) = true ∧ runs (op 1 + 4095) = true ∧ runs (op 2 + 3) = true ∧ runs (op 3) = true ∧ runs (op 4 + 2 ^ 14) = true ∧ runs (op 17 + 1) = true
    ∧ ((engineAt (op 0) {}).eng 0).running = false
    ∧ (((engineAt (op 0 + 1)).eng 0).running = true ∧ (engineAt (op 0 + 1)).wordLegal 0 (op 0 + 1) = false)
    ∧ ((engineAt (op 0 + 2 ^ 22)).wordLegal 0 (op 0 + 2 ^ 22) = true ∧ ((engineAt 0).eng 0).stalled = none ∧ ((engineAt 0).eng 0).seq = none
      ∧ (engineAt (op 0 + 2 ^ 22)).cond 0 (bits (op 0 + 2 ^ 22) 25 22) = false)
    ∧ (((engineAt 0).eng 0).single = false ∧ 3 < (engineAt 0).get F.PEnn_IWIN_SIZE 0)
    ∧ (((engineAt (op 2 + 3) { running := true } [(F.PEnn_SA_DATA, 0, 1)]).get F.PEnn_SA_DATA 0 + 2 ^ 32 - 1) % 2 ^ 32 = 0
      ∧ ((engineAt (op 2 + 3)).get F.PEnn_SA_DATA 0 + 2 ^ 32 - 1) % 2 ^ 32 ≠ 0
      ∧ bits (op 2 + 3) 11 0 < (engineAt 0).get F.PEnn_IWIN_SIZE 0 ∧ (engineAt 0).get F.PEnn_IWIN_SIZE 0 ≤ bits (op 2 + 4) 11 0)
    ∧ (3 + (engineAt 0).get F.PEnn_SA_DATA 0 % 16 < (engineAt 0).get F.PEnn_IWIN_SIZE 0 ∧ (engineAt 0).get F.PEnn_IWIN_SIZE 0 ≤ 4)
    ∧ (bits (op 4 + 2 ^ 14) 16 14 = 1 ∧ (engineAt 0).pinLevel 0 = bit (op 4 + 2 ^ 14) 17 ∧ (engineAt 0).pinLevel 0 ≠ bit (op 4 + 2 ^ 14 + 2 ^ 17) 17
      ∧ runs (op 4 + 2 ^ 14 + 2 ^ 17) = true) := by decide +kernel

theorem test_witness_EnginesMoveData :
    let op (n : Nat) : Nat := n * 2 ^ 26
    let q (n : Nat) : Engine := { running := true, tx := [5#32], taq := List.replicate n { stamp := 0, tb := 0, actn := 1, wake := false, pin := 0 } }
    runs (op 12) = true ∧ runs (op 12 + 2 ^ 13) = true ∧ runs (op 12 + 2 * 2 ^ 13) = true ∧ runs (op 12 + 3 * 2 ^ 13) = true
    ∧ runs (op 12 + 6 * 2 ^ 13) = true ∧ runs (op 12 + 16 * 2 ^ 13) = true ∧ runs (op 13 + 0xFFFF) = true ∧ runs (op 13 + 2 ^ 17) = true
    ∧ runs (op 14 + 0xFFF) = true ∧ runs (op 15 + 31) = true ∧ runs (op 15 + 2 * 2 ^ 16) = true ∧ runs (op 8) = true ∧ runs (op 9 + 15) = true
    ∧ runs (op 10 + 2 ^ 17) = true
    ∧ (runs (op 11 + 32) (engineAt (op 11 + 32) (q 0)) = true ∧ ((engineAt (op 11 + 32) (q 0)).eng 0).tx = 5#32 :: [])
    ∧ (runs (op 11 + 32) = true ∧ ((engineAt (op 11 + 32)).eng 0).tx = [] ∧ bit (op 11 + 32) 16 = false ∧ runs (op 11 + 32 + 2 ^ 16) = true)
    ∧ (runs (op 16 + 2 ^ 10) (engineAt (op 16 + 2 ^ 10) (q 15)) = true ∧ ((engineAt 0 (q 15)).eng 0).taq.length < 16)
    ∧ (runs (op 16 + 2 ^ 10) (engineAt (op 16 + 2 ^ 10) (q 16)) = true ∧ 16 ≤ ((engineAt 0 (q 16)).eng 0).taq.length)
    ∧ ((engineAt 0 { rx := List.replicate 7 (0#32, false) }).eng 0).rx.length < 8 ∧ 8 ≤ ((engineAt 0 { rx := List.replicate 8 (0#32, false) }).eng 0).rx.length := by
  decide +kernel

theorem test_witness_EnginesRunCellsAndActions :
    let op (n : Nat) : Nat := n * 2 ^ 26
    let a (t : Nat) : Action := { stamp := t, tb := 0, actn := 1, wake := false, pin := 0 }
    let s (l : List Action) : State := engineAt 0 { taq := l }
    runs (op 5 + 1) = true ∧ runs (op 6 + 1) = true ∧ runs (op 7 + 1) = true
    ∧ (runs (op 5 + 1) (engineAt (op 5 + 1) { running := true, stalled := some 1 }) = true ∧ ((engineAt 0 { running := true, stalled := some 1 }).eng 0).stalled.isSome = true)
    ∧ (runs (op 5 + 1) (engineAt (op 5 + 1)) = true ∧ ((engineAt 0).eng 0).stalled = none) ∧ ((engineAt 0 {}).eng 0).running = false
    ∧ (((engineAt 0).eng 0).seq = none ∧ ((engineAt 0).eng 0).tx = [] ∧ bit (op 5 + 2 ^ 17 + 1) 17 = true
      ∧ (engineAt 0).get F.PEnn_CNTS_EMTN 0 ≤ (engineAt 0).get F.PEnn_CELLC_DW 0)
    ∧ ((engineAt 0 {} [(F.PEnn_CNTS_EMTN, 0, 1), (F.PEnn_SHAPE_OORD, 0, 1)]).get F.PEnn_CELLC_DW 0 + 1
        ≤ (engineAt 0 {} [(F.PEnn_CNTS_EMTN, 0, 1), (F.PEnn_SHAPE_OORD, 0, 1)]).get F.PEnn_CNTS_EMTN 0
      ∧ (engineAt 0 {} [(F.PEnn_SHAPE_OORD, 0, 1)]).flag F.PEnn_SHAPE_OORD 0 = true ∧ (engineAt 0).flag F.PEnn_SHAPE_OORD 0 = false)
    ∧ (((s []).eng 0).taq = [] ∧ ((s [a 1000000]).eng 0).taq = a 1000000 :: [] ∧ (s [a 1000000]).due (a 1000000) = false)
    ∧ ((s []).due (a 0) = true ∧ (a 0).late = false ∧ (a 0).wake = false ∧ (a 0).actn = 1) := by decide +kernel

theorem test_witness_EnginesFollowControlFlow_turns :
    let op (n : Nat) : Nat := n * 2 ^ 26
    let at_ (pc : Nat) (w : Nat) : State := engineAt w { running := true } [(F.PEnn_PC_PC, 0, pc)]
    let idle : State := engineAt 0 { running := true } [(F.PEnn_PC_PAUSELEFT, 0, 5)]
    ((idle.eng 0).running = true ∧ idle.blockBusy 6 = false ∧ idle.get F.PEnn_PC_PAUSELEFT 0 = 5)
    ∧ (turns 0 (at_ 4 0) = true ∧ ((at_ 4 0).eng 0).stalled = none ∧ ((at_ 4 0).eng 0).seq = none ∧ (at_ 4 0).get F.PEnn_IWIN_SIZE 0 ≤ (at_ 4 0).get F.PEnn_PC_PC 0)
    ∧ (turns 0 = true ∧ 0 < (engineAt 0).get F.PEnn_IWIN_SIZE 0 ∧ 0 / 2 ^ 26 ≠ (1 : Nat))
    ∧ (turns (op 0 + 1) = true ∧ (engineAt (op 0 + 1)).wordLegal 0 (op 0 + 1) = false)
    ∧ (turns (op 0 + 2 ^ 22) = true ∧ (engineAt (op 0 + 2 ^ 22)).cond 0 (bits (op 0 + 2 ^ 22) 25 22) = false) := by decide +kernel

theorem test_witness_EnginesMoveData_clear : runs (15 * 2 ^ 26 + 2 ^ 16) = true ∧ bits (15 * 2 ^ 26 + 2 ^ 16) 17 16 = 1 := by decide +kernel

theorem test_witness_EnginesRunCellsAndActions_due :
    let a (t : Nat) (late : Bool) (n : Nat) : Action := { stamp := t, tb := 0, actn := n, wake := false, pin := 0, late := late }
    let s (l : List Action) : State := engineAt 0 { taq := l }
    ((s [a 0 false 1]).blockBusy 6 = false ∧ ((s [a 0 false 1]).eng 0).taq = [a 0 false 1] ∧ (s [a 0 false 1]).due (a 0 false 1) = true)
    ∧ (((s [a 1000000 false 1, a 0 false 1]).eng 0).taq = a 1000000 false 1 :: [a 0 false 1] ∧ (s [a 1000000 false 1, a 0 false 1]).due (a 1000000 false 1) = false)
    ∧ ∀ n, n ≤ 4 → (a 0 false n).wake = false ∧ (a 0 false n).late = false ∧ (a 0 false n).actn = n ∧ (a 0 true n).late = true := by decide +kernel

theorem test_witness_EnginesStartAndHalt :
    let at_ (pc : Nat) : Nat := pc * 2 ^ 16
    let w (k pc : Nat) : Nat := 2 ^ k + at_ pc
    let only (k n : Nat) : Bool := (List.range 9).all fun j => decide (j = 2) || decide (j = 3) || decide (bit n j = decide (j = k))
    let h (run : Bool) : State := hubEngine { running := run }
    ((List.all [0, 1, 4, 5, 6, 7, 8] fun k => only k (w k 0) && writes (h true) F.PEnn_CTL_HALT 0 (w k 0) && writes (h false) F.PEnn_CTL_HALT 0 (w k 0)) = true)
    ∧ (only 1 (w 1 3 + 12) = true ∧ writes (h false) F.PEnn_CTL_HALT 0 (w 1 3 + 12) = true ∧ bits (w 1 3 + 12) 27 16 < (h false).get F.PEnn_IWIN_SIZE 0
      ∧ bit (w 1 3 + 12) 2 = true ∧ bit (w 1 3 + 12) 3 = true)
    ∧ (only 1 (w 1 4) = true ∧ writes (h true) F.PEnn_CTL_HALT 0 (w 1 4) = true ∧ (h true).get F.PEnn_IWIN_SIZE 0 ≤ bits (w 1 4) 27 16)
    ∧ (((h true).eng 0).running = true ∧ ((h false).eng 0).running = false ∧ ((h true).eng 0).single = false)
    ∧ (List.all [F.PIO_GSTART0_ENG, F.PIO_GSTART1_ENG, F.PIO_GHALT0_ENG, F.PIO_GHALT1_ENG, F.PIO_SFSET_FLAGS, F.PIO_SFCLR_FLAGS] fun r =>
      writes (h false) r 0 0x80000001) = true
    ∧ named 0 1 = [0]
    ∧ ((engineAt 0 {} [(F.PEnn_STATUS_FAULT, 0, 2)]).get F.PEnn_STATUS_FAULT 0 ≠ 0 ∧ (engineAt 0 {} [] 0).flag F.PEnn_CFG_EN 0 = false)
    ∧ ((engineAt 0 {}).get F.PEnn_STATUS_FAULT 0 = 0 ∧ (engineAt 0 {}).flag F.PEnn_CFG_EN 0 = true)
    ∧ ({ ({} : State) with up := 4 } : State).pio.flagsAt ≠ ({ ({} : State) with up := 4 } : State).up := by decide +kernel

theorem test_witness_EngineQueuesAreBounded :
    let f (w : Nat) : Frame := wrReg 0x60000 w
    let q (tx : Nat) : Engine := { tx := List.replicate tx 0#32, rx := [(7#32, true)] }
    let act (b t p : Nat) : Nat := b + t * 16 + p * 256
    let t (n : Nat) : State := engineAt 0 { taq := List.replicate n { stamp := 0, tb := 0, actn := 1, wake := false, pin := 0 } }
    let s (n : Nat) : State := { engineAt 0 (q n) with pio := { eng := [(0, q n)], feeds := [(0, f 0, [1#32, 2#32])] } }
    (((engineAt 0 (q 7)).eng 0).tx.length < 8 ∧ 8 ≤ ((engineAt 0 (q 8)).eng 0).tx.length)
    ∧ (engineAt 0 {} [(F.PKnn_CFG_EN, 0, 1)]).flag F.PKnn_CFG_EN 0 = true
    ∧ ((engineAt 0 {}).flag F.PKnn_CFG_EN 0 = false ∧ ((engineAt 0 {}).eng 0).rx = [] ∧ ((engineAt 0 (q 0)).eng 0).rx = (7#32, true) :: [])
    ∧ ((engineAt 0).flag F.PEnn_CFG_EN 0 = true ∧ ((engineAt 0).eng 0).running = true)
    ∧ ((List.range 64).all fun k => decide (((engineAt 0 {}).eng k).running = false)) = true
    ∧ ((engineAt 0 {} [(F.PEnn_IADDR_ADDR, 0, 2)]).get F.PEnn_IADDR_ADDR 0 + 1 < (engineAt 0).get F.PEnn_IWIN_SIZE 0
      ∧ (engineAt 0 {} [(F.PEnn_IADDR_ADDR, 0, 3)]).get F.PEnn_IADDR_ADDR 0 + 1 = (engineAt 0).get F.PEnn_IWIN_SIZE 0)
    ∧ (8 < bits (wordOf (f (act 9 0 0))) 3 0 ∧ 5 < bits (wordOf (f (act 0 6 0))) 6 4 ∧ (engineAt 0).get F.PEnn_PINS_OUT_CNT 0 ≤ bits (wordOf (f (act 0 0 4))) 12 8)
    ∧ (bits (wordOf (f (act 8 5 3))) 3 0 ≤ 8 ∧ bits (wordOf (f (act 8 5 3))) 6 4 ≤ 5 ∧ bits (wordOf (f (act 8 5 3))) 12 8 < (engineAt 0).get F.PEnn_PINS_OUT_CNT 0)
    ∧ (16 ≤ ((t 16).eng 0).taq.length ∧ ((t 15).eng 0).taq.length < 16)
    ∧ ({} : State).epo.handed = []
    ∧ ((s 6).pio.feeds = (0, f 0, [1#32, 2#32]) :: [] ∧ [1#32, 2#32].length ≤ 8 - ((s 6).eng 0).tx.length ∧ 8 - ((s 7).eng 0).tx.length < [1#32, 2#32].length) := by
  decide +kernel

theorem test_witness_EngineQueuesAreBounded_rows :
    let h (run : Bool) (l : List (Fld × Nat × Nat) := []) : State := hubEngine { running := run } l
    let act (b t p : Nat) : Nat := b + t * 16 + p * 256
    let x : Handed := { index := 5, value := 0xDEADBEEF, obj := 2, kind := 9 }
    (writes (h false) F.PEnn_TXQ_DATA 0 7 = true ∧ (h false).feedPartial 0 = false)
    ∧ (let s := hubEngine {} [] [(0, ask .wr 0 8 (zeros 8), [1#32])]
       writes s F.PEnn_TXQ_DATA 0 7 = true ∧ s.feedPartial 0 = true)
    ∧ (readsRow (h false) F.PEnn_RXQ_DATA 0 = true ∧ readsRow (h false [(F.PKnn_CFG_EN, 0, 1)]) F.PEnn_RXQ_DATA 0 = true)
    ∧ (writes (h true) F.PEnn_IDATA_WORD 0 7 = true ∧ writes (h false) F.PEnn_IDATA_WORD 0 7 = true ∧ readsRow (h false) F.PEnn_IDATA_WORD 0 = true)
    ∧ (List.all [act 9 0 0, act 0 6 0, act 0 0 4, act 8 5 3] fun w => writes (h false) F.PEnn_TAQ_ACT_TB 0 w) = true
    ∧ writes (h false) F.PEnn_MB_DATA (0 * 256 + 15) 0xFFFFFFFF = true
    ∧ (({ ({} : State) with epo := { handed := [x] } } : State).epo.handed = x :: [] ∧ x.kind = 9 ∧ x.index = 0 * 16 + 5)
    ∧ (engineAt 0).blockBusy 6 = false := by decide +kernel
theorem test_witness_FabricTimeFollowsTheMaster :
    let f : Frame := { tt := .mgt, tc := 1, dst := 0xFE, src := 3, addr := 0, pay := [0x20, 0, 0, 4] ++ zeros 28 }
    let s (l : List (Fld × Nat × Nat)) (t : TimSt := {}) : State := { withFields l with tim := t }
    let seen (t : TimSt) : Option Nat := ((((s [] t).take f).bump F.TIM_CNT_SYNCRX).tim).seen.getD 1 none
    let m (gm : Nat) : State := withFields [(F.RNG_RSTAT_MASTER, 0, 1), (F.TIM_STAT_GM, 0, gm), (F.TIM_SET_NS_VAL, 0, 999999999)]
    ({} : State).master = false ∧ (m 0).master = true
    ∧ ((s [(F.TIM_STAT_STATE, 0, 3)]).get F.TIM_STAT_STATE = 3 ∧ (s []).get F.TIM_STAT_STATE ≠ 3)
    ∧ seen {} = none ∧ (seen { seen := [none, some 3] } = some 3 ∧ 3 < beAt f.pay 3 1)
    ∧ 10 ^ 9 ≤ (s [(F.TIM_SET_NS_VAL, 0, 10 ^ 9)]).get F.TIM_SET_NS_VAL
    ∧ ((m 0).get F.TIM_SET_NS_VAL < 10 ^ 9 ∧ (m 0).flag F.TIM_STAT_GM = false ∧ (m 1).flag F.TIM_STAT_GM = true) := by decide

theorem test_witness_PhaseReferencesFollowEvents :
    let s (src : Nat) (r : PhRef := {}) (l : List (Fld × Nat × Nat) := []) : State :=
      { withFields ([(F.PHn_CFG_EN, 7, 1), (F.PHn_CFG_SRC, 7, src), (F.PHn_SRC_A, 7, 9)] ++ l) with phs := [(7, r)] }
    let e : PhEvent := { phase := 5, time := 6 }
    let f : Frame := { tt := .mgt, tc := 0, dst := 0xFE, src := 8, addr := 0 }
    ({} : State).refOn 7 = false
    ∧ ((s 1).refOn 7 = true ∧ (s 1).get F.PHn_CFG_SRC 7 = 1) ∧ (s 2).get F.PHn_CFG_SRC 7 = 2 ∧ (s 3).get F.PHn_CFG_SRC 7 = 3 ∧ (s 4).get F.PHn_CFG_SRC 7 = 4
    ∧ ((s 1).ref 7).pend = none ∧ (((s 1 { pend := some e }).ref 7).pend = some e ∧ (s 1).standby = false)
    ∧ (s 1 { pend := some e } [(F.TWN_STAT_ROLE, 0, 2)]).standby = true
    ∧ ((s 4 { stalled := true }).ref 7).stalled = true ∧ ((s 4).ref 7).stalled = false
    ∧ ((List.range 8).all fun k => decide ((s 1).get F.PHn_CFG_SRC k ≠ 4 ∨ (s 1).get F.PHn_SRC_A k ≠ f.src)) = true
    ∧ (let r : PhRef := { phase := 2 ^ 32 - 1, lim := 2 ^ 32 - 1, test := 1 }
       r.stalled = false ∧ r.held = none ∧ r.back = false ∧ r.phase < 2 ^ 32 ∧ r.lim < 2 ^ 32) := by decide +kernel

theorem test_witness_HostPortsKeepPtp :
    let s (l : List (Fld × Nat × Nat)) (q : PtpPort := {}) : State := { withFields l with tim := { ptp0 := q } }
    let slave := [(F.Hx_CTL_EN, 0, 1), (F.TIM_PTP_H0_ROLE, 0, 1)]
    let m : Ptp := { domain := 0, seq := 3 }
    (s slave).ptpMine .h0 m = true ∧ (s slave).ptpMine .h0 { m with domain := 1 } = false
    ∧ ((s slave).ptpRole .h0 = 1 ∧ (s slave).ptpPeer .h0 = false)
    ∧ (m.twoStep = false ∧ ({ m with twoStep := true } : Ptp).twoStep = true)
    ∧ ((s slave { wait := some (3, 0, 0) }).ptp .h0).wait = some (m.seq, 0, 0) ∧ ((s slave).ptp .h0).wait = none
    ∧ ((s slave { fwd := some 9 }).ptp .h0).fwd = some 9
    ∧ ((s [(F.Hx_CTL_EN, 0, 1), (F.TIM_PTP_H0_ROLE, 0, 2), (F.TIM_STAT_TLOCK, 0, 1)]).ptpRole .h0 = 2
      ∧ (s [(F.Hx_CTL_EN, 0, 1), (F.TIM_PTP_H0_ROLE, 0, 2), (F.TIM_STAT_TLOCK, 0, 1)]).timeLocked = true)
    ∧ ((s (slave ++ [(F.TIM_PTP_H0_DELAY, 0, 1)])).ptpPeer .h0 = true ∧ (s (slave ++ [(F.TIM_PTP_H0_DELAY, 0, 1)])).ptpMine .h0 m = true)
    ∧ ((s slave { pwait := some (3, 0, 0) }).ptp .h0).pwait = some (m.seq, 0, 0)
    ∧ (((s slave { ogm := some 5, annOk := true }).ptp .h0).ogm = some 5 ∧ ((s slave).ptp .h0).ogm = none)
    ∧ ({} : State).timeLocked = false := by decide +kernel

theorem test_witness_FabricTimeFollowsTheMaster_times :
    let s (l : List (Fld × Nat × Nat)) (t : TimSt) (up : Nat) : State := { withFields ([(F.TIM_CFG_SYNCINT, 0, 8)] ++ l) with tim := t, up := up }
    let m := [(F.RNG_RSTAT_MASTER, 0, 1)]
    let c : TimSt := { copyAt := [some 0, some 0] }
    ((s m { syncAt := some 0 } 7999999).master = true ∧ (7999999 : Nat) < 0 + (s m {} 0).syncTime ∧ (s m { syncAt := some 0 } 8000000).blockBusy 10 = false
      ∧ 0 + (s m {} 0).syncTime ≤ 8000000)
    ∧ ((s [(F.TIM_STAT_STATE, 0, 3)] c 32000000).noCopy 0 4 = true ∧ (s [(F.TIM_STAT_STATE, 0, 3)] c 32000000).noCopy 1 4 = true
      ∧ (s [(F.TIM_STAT_STATE, 0, 3)] c 32000000).master = false ∧ (s [] c 31999999).noCopy 0 4 = false)
    ∧ ((s [] c 23999999).noCopy 0 3 = false ∧ (s [] c 24000000).noCopy 0 3 = true ∧ (s [] c 0).get F.TIM_STAT_RING = 0)
    ∧ (s [(F.Lx_LSTAT_STATE, Lane.ix .w, 4)] c 0).laneState .w = 4 ∧ (s [] c 0).laneState .w ≠ 4
    ∧ c.copyAt.getD 0 none = some 0 := by decide +kernel

theorem test_witness_FabricTimeFollowsTheMaster_rows :
    let w (k : Nat) : Nat := 2 ^ k
    let only (k n : Nat) : Bool := (List.range 4).all fun j => decide (j = 0) || decide (bit n j = decide (j = k))
    let h (l : List (Fld × Nat × Nat)) : State := openHub l
    (List.all [1, 2, 3] fun k => only k (w k) && writes (h []) F.TIM_CTL_TCFORCE 0 (w k)) = true
    ∧ (writes (h [(F.TIM_SET_NS_VAL, 0, 10 ^ 9)]) F.TIM_CTL_TCFORCE 0 8 = true ∧ 10 ^ 9 ≤ (h [(F.TIM_SET_NS_VAL, 0, 10 ^ 9)]).get F.TIM_SET_NS_VAL)
    ∧ (let m := h [(F.TIM_SET_NS_VAL, 0, 999999999), (F.RNG_RSTAT_MASTER, 0, 1)]
       writes m F.TIM_CTL_TCFORCE 0 8 = true ∧ m.get F.TIM_SET_NS_VAL < 10 ^ 9 ∧ m.master = true ∧ m.flag F.TIM_STAT_GM = false)
    ∧ (let m := h [(F.TIM_SET_NS_VAL, 0, 999999999), (F.RNG_RSTAT_MASTER, 0, 1), (F.TIM_STAT_GM, 0, 1)]
       writes m F.TIM_CTL_TCFORCE 0 8 = true ∧ m.flag F.TIM_STAT_GM = true) := by decide +kernel

theorem test_witness_PhaseReferencesFollowEvents_times :
    let s (src : Nat) (r : PhRef) (up : Nat) (n : Nat := 0) : State :=
      { withFields [(F.PHn_CFG_EN, 7, 1), (F.PHn_CFG_SRC, 7, src), (F.PHn_SRC_A, 7, 9), (F.PHn_SRC_B, 7, 5), (F.PHn_CFG_STALLN, 7, 3), (F.PHS_CFG_MININT, 0, 2),
          (F.PHn_PARAM_PARAM, 7, 4)] with
        phs := [(7, r)], up := up, tim := { n := n } }
    let e : PhEvent := { phase := 5, time := 6 }
    let f : Frame := { tt := .mgt, tc := 0, dst := 0xFE, src := 9, addr := 0, pay := [0x22, 5, 0, 4] ++ zeros 28 }
    let q : PhRef := { pend := some e, sentAt := some 0 }
    let live : PhRef := { test := 10, d := 2, seq := some 3 }
    (((s 1 q 1999).ref 7).pend ≠ none ∧ ((s 1 q 1999).ref 7).sentAt = some 0 ∧ (s 1 q 1999).standby = false
      ∧ (1999 : Nat) < 0 + (s 1 q 1999).get F.PHS_CFG_MININT * 1000)
    ∧ ((s 1 q 2000).blockBusy 11 = false ∧ 0 + (s 1 q 2000).get F.PHS_CFG_MININT * 1000 ≤ 2000)
    ∧ ((s 4 live 0).refOn 7 = true ∧ ((s 4 live 0).ref 7).stalled = false ∧ ((s 4 live 0).ref 7).test ≠ 0 ∧ (s 4 live 0).get F.PHn_CFG_SRC 7 = 4)
    ∧ (let due := ((s 4 live 0).ref 7).time * 2 + (s 4 live 0).get F.PHn_CFG_STALLN 7 * 10
       (s 4 live 0 (14 * 2 ^ 32)).ns * 2 < due ∧ due ≤ (s 4 live 0 (15 * 2 ^ 32)).ns * 2)
    ∧ ((s 2 live 0).get F.PHn_CFG_SRC 7 ≠ 4 ∧ (s 2 live 0).flag F.PHn_CFG_PUB 7 = false ∧ (s 2 live 0).refEvents 7 = 4)
    ∧ ((s 4 live 0).get F.PHn_SRC_A 7 = f.src ∧ ((List.range 8).all fun j => decide (j = 7 ∨ (s 4 live 0).get F.PHn_CFG_SRC j ≠ 4)) = true
      ∧ (s 4 live 0).get F.PHn_SRC_B 7 % 8 = beAt f.pay 1 1 % 8 ∧ 0 < Sys2Proof.sdiff 8 (beAt f.pay 3 1) 3) := by decide +kernel

theorem test_witness_HostPortsKeepPtp_times :
    let s (l : List (Fld × Nat × Nat)) (q : PtpPort) (up : Nat) : State := { withFields (l ++ [(F.Hx_CTL_EN, 0, 1), (F.TIM_CFG_SYNCINT, 0, 8)]) with tim := { ptp0 := q }, up := up }
    let mast := [(F.TIM_PTP_H0_ROLE, 0, 2), (F.TIM_STAT_TLOCK, 0, 1), (F.TIM_PTP_H0_LOGANN, 0, 1), (F.TIM_PTP_H0_LOGSYNC, 0, 15)]
    let slave := [(F.TIM_PTP_H0_ROLE, 0, 1), (F.TIM_PTP_H0_LOGANN, 0, 0)]
    let q : PtpPort := { syncSent := some 0, annSent := some 0 }
    ((s mast q (2 * 10 ^ 9)).ptpRole .h0 = 2 ∧ (s mast q 0).timeLocked = true ∧ (s mast q 0).flag F.TIM_STAT_GM = false
      ∧ 0 + (s mast q 0).ptpSyncTime .h0 ≤ 2 * 10 ^ 9 ∧ 0 + (s mast q 0).annTime .h0 ≤ 2 * 10 ^ 9)
    ∧ (0 + (s mast q 0).ptpSyncTime .h0 = 500000000 ∧ (1999999999 : Nat) < 0 + (s mast q 0).annTime .h0)
    ∧ (let a : PtpPort := { annOk := true, annAt := 0 }
       ((s slave a 3000000000).ptp .h0).annOk = true ∧ ((s slave a 0).ptp .h0).annAt + 3 * (s slave a 0).annTime .h0 = 3000000000)
    ∧ (let t : PtpPort := { ogm := some (-5), annOk := true, tgmrSent := some 0 }
       ((s slave t 8000000).ptp .h0).ogm = some (-5) ∧ (s slave t 0).ptpRole .h0 = 1 ∧ 0 + (s slave t 0).syncTime = 8000000) := by decide +kernel

theorem test_witness_HostPortsKeepPtp_inputs :
    let f : Frame := { mgt ([0x22, 0, 7, 1] ++ be 8 65536 ++ zeros 12) true with src := 9 }
    let s (l : List (Fld × Nat × Nat)) (up : Nat := 0) : State := { openHub l with up := up, tim := { gmStepOk := false } }
    let m (gm : Nat) := s [(F.RNG_RSTAT_MASTER, 0, 1), (F.TIM_TIN_HUBA, 0, 9), (F.TIM_TIN_ENA, 0, 1), (F.TIM_STAT_GM, 0, gm)]
    let u (gm : Nat) : State := ((((m gm).take f).onTim fun t => { t with tgmrOk := setAt t.tgmrOk 0 true, tgmrAt := setAt t.tgmrAt 0 ((m gm).take f).up }).showInputs)
    mgtRefused (s []).hubNum f = false ∧ mgtRefused (s []).hubNum { f with pst := false } = true
    ∧ ((s [] (10 ^ 9)).tim.tgmrAt.getD 0 0 + 10 ^ 9 ≤ 10 ^ 9)
    ∧ ((s []).master = false ∧ (m 0).master = true ∧ ((m 0).take f).get F.TIM_TIN_HUBA = f.src)
    ∧ ((u 0).flag F.TIM_GMSTAT_VALID = true ∧ (u 0).get F.TIM_GMSTAT_INPUT = 0 ∧ (u 0).flag F.TIM_STAT_GM = false ∧ (u 1).flag F.TIM_STAT_GM = true)
    ∧ (u 0).tim.gmStepOk = false := by decide +kernel
theorem test_witness_CanObjectsHoldFrames :
    let fr : CanFrame := { ide := false, id := 0x7FF, dlc := 8, data := zeros 8 }
    let o : CanObj := { tx := false, ch := 15, mask := 0, fr := fr }
    let x : CanObj := { tx := true, ch := 15, fr := fr, txreq := true }
    let s (o : CanObj) (q : CanCh := {}) (l : List (Fld × Nat × Nat) := []) : State := { withFields l with can := { objs := [(3, o)], chans := [(15, q)] } }
    let f (n : Nat) : Frame := { ask .wr (3 * 128) 0 (be 4 n) with addr := fabAddr 7 3 (3 * 128), pay := be 4 n }
    let cmd (w : Nat) : Frame := { ask .wrn 0 4 (le 4 w) with addr := fabAddr 7 1 0x70F20 }
    let held (u : Nat) (o : CanObj) : State := { s o {} [(F.CAN_OBJ_USED_DEF, 0, u)] with locks := [(1, { hub := 9, init := 4, since := 0 })] }
    let h : Handed := { obj := 5, kind := 10, index := 3, value := 1 }
    (({} : State).canMatch 15 fr = none ∧ (s o).canMatch 15 fr = some (3, o) ∧ o.lock = none)
    ∧ ((s { o with lock := some (9, 4) }).canMatch 15 fr = some (3, { o with lock := some (9, 4) }) ∧ ((s o).canCh 15).shadow = none
      ∧ ({ shadow := some { obj := 3, fr := fr, sof := 0 } } : CanCh).shadow = some { obj := 3, fr := fr, sof := 0 } ∧ (4 : Nat) ≠ 3)
    ∧ ((s o {} [(F.CNnn_STAT_MODE_ACT, 15, 4)]).canMode 15 = 4 ∧ (s o {} [(F.CNnn_STAT_MODE_ACT, 15, 3)]).canMode 15 = 3
      ∧ ((s o { integrated := true }).canCh 15).integrated = true ∧ (s o {} [(F.CNnn_STAT_MODE_ACT, 15, 1)]).canMode 15 ≤ 1)
    ∧ (s o).canObj? 3 = some o
    ∧ (canRange (f 0).offset (f 0).pay.length = [3] ∧ ({} : State).canObj? 3 = none ∧ (s x).canObj? 3 = some x ∧ x.tx = true)
    ∧ ((canFields x fun j => (f (2 ^ 25)).pay[j]?).fr.fdf = false ∧ bit 2 1 = true ∧ bit 2 0 = false ∧ bit 1 1 = false)
    ∧ (((s x { integrated := true }).canCh 15).sending = none ∧ ((s x).canCh 15).integrated = false)
    ∧ ((s x { integrated := true } [(F.CNnn_STAT_MODE_ACT, 15, 2)]).canMode 15 = 2 ∧ (s x).twn.veering = false
      ∧ (s x).get F.CNnn_STAT_ECS 15 ≠ 2 ∧ ((s x).can.objs.filter fun p => p.2.tx && p.2.txreq && decide (p.2.ch = 15)) = [(3, x)])
    ∧ (((s x { sending := some (3, fr, 0) }).canCh 15).sending = some (3, fr, 0) ∧ ((s x { sending := some (4, fr, 0) }).canObj? 4) = none
      ∧ x.oneshot = false ∧ x.abort = false)
    ∧ (({ s x with epo := { handed := [h], objs := [(5, { type := 3 })] } } : State).epo.handed = h :: [] ∧ h.kind = 10
      ∧ ({ s x with epo := { handed := [h], objs := [(5, { type := 3 })] } } : State).obj? 5 = some { type := 3 })
    ∧ ((held 3 o).holds .can 9 4 = true ∧ bits (wordOf (cmd (2 + 3 * 4))) 14 2 = 3 ∧ (held 3 o).get F.CAN_OBJ_USED_DEF ≤ 3
      ∧ 3 < (held 4 o).get F.CAN_OBJ_USED_DEF ∧ (held 3 { o with lock := some (9, 4) }).canObj? 3 = some { o with lock := some (9, 4) }
      ∧ ((held 3 o).canCh 15).sending = none ∧ (held 3 o).canObj? 2 = none) := by decide +kernel

theorem test_witness_CanChannelsChangeMode :
    let f (w : Nat) : Frame := { ask .wrn 0 4 (le 4 w) with addr := fabAddr 7 1 0x70F00 }
    let s (act : Nat) (l : List (Fld × Nat × Nat) := []) (q : CanCh := {}) : State :=
      { withFields ([(F.CNnn_STAT_MODE_ACT, 15, act)] ++ l) with can := { chans := [(15, q)] } }
    let g (w : Nat) : Frame := { f w with addr := fabAddr 7 1 (0x70000 + 15 * 0x100) }
    6 ≤ wordOf (f 7) % 8
    ∧ (wordOf (f 4) % 8 = 4 ∧ (s 2).get F.CNnn_STAT_MODE_ACT 15 = 2 ∧ (s 5).get F.CNnn_STAT_MODE_ACT 15 = 5)
    ∧ (wordOf (f 3) % 8 ≤ 3 ∧ (s 2).abdOn 15 = false ∧ bit (wordOf (f 3)) 3 = false ∧ bit (wordOf (f 11)) 3 = true)
    ∧ ((s 2 [(F.CNnn_STAT_ECS, 15, 2)]).get F.CNnn_STAT_ECS 15 = 2 ∧ (s 2).flag F.CNnn_STAT_RECOVERING 15 = false)
    ∧ ((s 2).canCh 15).request = none ∧ ((s 2 [] { request := some 3 }).canCh 15).request = some 3
    ∧ ((s 1).canMode 15 < 2 ∧ 2 ≤ (s 2).canMode 15)
    ∧ (s 2 [(F.CNnn_STAT_RECOVERING, 15, 1)]).flag F.CNnn_STAT_RECOVERING 15 = true
    ∧ (s 2).get F.CNnn_STAT_ECS 15 ≠ 2
    ∧ (s 4 [(F.CNnn_ABD_STATE, 15, 1)]).abdOn 15 = true
    ∧ ((s 3).canMode 15 = 3 ∧ (s 3).get F.CNnn_STAT_MODE_ACT 15 ≠ 4)
    ∧ canOf (g 0) < 16 := by decide +kernel

theorem test_witness_ReflexRulesCommit :
    let s (en : Nat) (r : PhRef := {}) (x : RfxSt := {}) : State :=
      { withFields [(F.RFX_XSWEEP_EN, 0, en), (F.PHn_CFG_EN, 0, 1), (F.PHn_CFG_SRC, 0, 1)] with phs := [(0, r)], rfx := x }
    let r : Rule := (({} : State).ruleOf 0)
    ((s 1).flag F.RFX_XSWEEP_EN = true ∧ (s 1).refOn ((s 1).get F.RFX_XSWEEP_PH) = true ∧ ((s 1).ref ((s 1).get F.RFX_XSWEEP_PH)).stalled = false)
    ∧ ((s 0).flag F.RFX_XSWEEP_EN = false ∧ ((s 1 { stalled := true }).ref 0).stalled = true ∧ ({} : State).refOn 0 = false)
    ∧ (4095 ∉ (s 0).rfx.clears ∧ 4095 ∈ (s 0 {} { clears := [4095] }).rfx.clears)
    ∧ (r.latch = false ∧ ({ r with latch := true } : Rule).latch = true ∧ ((s 0 {} { rules := [(0, { state := true })] }).ruleSt 0).state = true
      ∧ (s 0).rfx.clearAll = false ∧ 0 ∉ (s 0).rfx.clears)
    ∧ (r.comb = 0 ∧ r.ten % 16 = 0 ∧ (evalRule (withFields [(F.RFX_GRPEN0_GRP, 0, 1)]) [] { r with comb := 0, ten := 15 }).cond = false)
    ∧ (Tbl.getD [(r.num, ({ state := true } : RuleSt))] r.num {}).state = true := by decide +kernel

theorem test_witness_ReflexRulesCommit_groups :
    let on := withFields [(F.RFX_GRPEN0_GRP, 0, 1)]
    on.groupOn 0 = true ∧ on.groupOn 1 = false := by decide +kernel

theorem test_witness_CanObjectsHoldFrames_rows :
    let fr : CanFrame := { ide := false, id := 0x7FF, dlc := 8, data := zeros 8 }
    let x : CanObj := { tx := true, ch := 15, fr := fr, lock := some (9, 4) }
    let s (up : Nat) (l : List (Fld × Nat × Nat) := []) (q : CanCh := {}) : State :=
      { withFields ([(F.HUB_NODE_HUBNUM, 0, 7), (F.CAN_LOCKTMO_TMO, 0, 2)] ++ l) with
        can := { objs := [(3, x)], chans := [(15, q)] }, up := up,
        img := { regions := [{ space := 3, base := 0, size := 2 ^ 24, r := 31, w := 31, a := 31, pf := false, se := false }] } }
    let f (n : Nat) : Frame := { ask .wrn (3 * 128) 4 (be 4 n) with addr := fabAddr 7 3 (3 * 128) }
    let cmd (u : Nat) : State := { openHub [(F.CAN_OBJ_USED_DEF, 0, u), (F.CAN_CMD_ARG0_IDE, 0, 1), (F.CAN_CMD_ARG0_CHAN, 0, 15)] with
      locks := [(1, { hub := 9, init := 4, since := 0 })] }
    (passes (s 0) (f (2 ^ 25)) .can = true ∧ passes (s 0) (f (2 ^ 24)) .can = true ∧ (s 0).blockBusy 7 = false ∧ (s 0).canObj? 3 = some x
      ∧ 128 * 3 - (f 0).offset < (f 0).pay.length ∧ (f 0).offset ≤ 128 * 3 ∧ (f 0).space = 3 ∧ classOf (s 0).hubNum 9 4 = some .hub)
    ∧ (beAt (f (2 ^ 25)).pay 0 1 = 2 ∧ beAt (f (2 ^ 24)).pay 0 1 = 1)
    ∧ (x.lockAt + (s 0).get F.CAN_LOCKTMO_TMO * 1000 = 2000 ∧ (s 1999).up < 2000 ∧ 2000 ≤ (s 2000).up)
    ∧ (fr.fdf = false ∧ ({ fr with fdf := true } : CanFrame).rtr = false ∧ (s 0 [(F.CNnn_CFG_FDEN, 15, 1)]).flag F.CNnn_CFG_FDEN 15 = true
      ∧ (s 0).flag F.CNnn_CFG_FDEN 15 = false ∧ ({ fr with fdf := true, rtr := true } : CanFrame).rtr = true)
    ∧ ((s 0 [(F.CNnn_STAT_MODE_ACT, 15, 2)]).canMode 15 = 2 ∧ (s 0 [] { recv := 127 }).get F.CNnn_STAT_ECS 15 ≠ 2 ∧ ((s 0 [] { recv := 127 }).canCh 15).recv ≤ 127)
    ∧ (List.all [1, 2 + 3 * 4, 2 + 8191 * 4] fun w => writes (cmd 8191) F.CAN_CMD_OP 0 w) = true
    ∧ ((cmd 8191).holds .can 9 4 = true ∧ ((cmd 8191).unlock .can).flag F.CAN_CMD_ARG0_IDE = true ∧ ((cmd 8191).unlock .can).flag F.CAN_CMD_ARG0_FDF = false)
    ∧ (Machine.canUsed ((cmd 0).unlock .can) { tx := false, ch := 15, mask := 0, fr := { ide := true, id := 0, dlc := 0, data := zeros 64 } } = false)
    ∧ (Tbl.firstFree ((cmd 8191).unlock .can).can.objs 8191 1 = some 8191 ∧ Tbl.firstFree [(8191, x)] 8191 1 = none) := by decide +kernel

theorem test_witness_CanChannelsChangeMode_rows :
    let s (l : List (Fld × Nat × Nat) := []) (q : CanCh := {}) (up : Nat := 0) : State :=
      { openHub ([(F.CNnn_STAT_MODE_ACT, 15, 2), (F.CAN_ABD_CTL_DWELL, 0, 3)] ++ l) with can := { chans := [(15, q)] }, up := up }
    (List.all [3, 4, 6, 7 + 8, 3 + 8] fun w => writes (s []) F.CNnn_CTL_MODE 15 w) = true
    ∧ (writes (s [(F.CNnn_STAT_ECS, 15, 2)]) F.CNnn_CTL_MODE 15 10 = true)
    ∧ ((s [] { request := some 3 }).blockBusy 7 = false ∧ ((s [] { request := some 3 }).canCh 15).sending = none)
    ∧ ((s [(F.CNnn_ERRCNT_RECSEQ, 15, 126)]).get F.CNnn_ERRCNT_RECSEQ 15 < 127
      ∧ (s [(F.CNnn_STAT_RECOVERING, 15, 1), (F.CNnn_ERRCNT_RECSEQ, 15, 127)]).flag F.CNnn_STAT_RECOVERING 15 = true
      ∧ 127 ≤ (s [(F.CNnn_STAT_RECOVERING, 15, 1), (F.CNnn_ERRCNT_RECSEQ, 15, 127)]).get F.CNnn_ERRCNT_RECSEQ 15)
    ∧ (((s [] { tec := 255 }).canCh 15).tec ≤ 255 ∧ 255 < ((s [] { tec := 256 }).canCh 15).tec ∧ (s []).get F.CNnn_STAT_ECS 15 ≠ 2)
    ∧ ((s []).can.objs = [] ∧ (s []).epo.objs = [])
    ∧ (let a (up : Nat) := s [(F.CNnn_ABD_STATE, 15, 1), (F.CNnn_STAT_MODE_ACT, 15, 4)] {} up
       (a 0).abdOn 15 = true ∧ (a 2999999).up < ((a 0).canCh 15).dwellAt + (a 0).get F.CAN_ABD_CTL_DWELL * 1000000
       ∧ ((a 0).canCh 15).dwellAt + (a 0).get F.CAN_ABD_CTL_DWELL * 1000000 ≤ (a 3000000).up)
    ∧ ((s []).abdOn 15 = false ∧ (s []).canMode 15 = 2) := by decide +kernel

theorem test_witness_ReflexRulesCommit_sweeps :
    let s (l : List (Fld × Nat × Nat)) (x : RfxSt) (up : Nat) : State := { openHub l with rfx := x, up := up, img := { (openHub l).img with loaded := true } }
    let per := [(F.RFX_SWCFG_PERIOD, 0, 10)]
    let ext := [(F.RFX_XSWEEP_EN, 0, 1), (F.PHn_CFG_EN, 0, 1), (F.PHn_CFG_SRC, 0, 1)]
    (({} : State).sweeps = false ∧ (s [] {} 0).sweeps = true ∧ (s [] {} 0).sweepDue = true ∧ (s [] {} 0).rfx.periodAt = none)
    ∧ (let x : RfxSt := { periodAt := some (0, 0), startAt := some 0 }
       (s per x 9999).sweepDue = false ∧ (s per x 10000).sweepDue = true ∧ (s per x 0).flag F.RFX_SWCFG_ALIGN = false
       ∧ (s per x 8000).up ≤ 0 + 8000 ∧ 0 + 8000 < (s per x 8001).up ∧ (s (per ++ ext) x 8000).extraDue = true ∧ (s (per ++ ext) x 8000).sweepDue = false)
    ∧ (let x : RfxSt := { xDone := some ((s ext {} 0).extraInstant ((s ext {} 0).phaseNow 0)) }
       (s ext x 0).rfx.xDone = some ((s ext x 0).extraInstant ((s ext x 0).phaseNow ((s ext x 0).get F.RFX_XSWEEP_PH))))
    ∧ (List.all [4095, 4096] fun w => writes (s [] {} 0) F.RFX_LCLR_RULE 0 w) = true
    ∧ (writes (s [] {} 0) F.RFX_ALM_POP_POP 0 1 = true ∧ writes (s [] {} 0) F.RFX_ALM_POP_POP 0 0 = true) := by decide +kernel
/-- A hub whose image update is pending. -/
def pendingImage : State := ({} : State).setBoot fun b => { b with imgPend := true }

theorem test_witness_ImageStagesAndLoads :
    let f (w : Nat) : Frame := { ask .wrn 0 4 (le 4 w) with addr := fabAddr 7 1 0xD0010 }
    let s (g : ImgSt) (l : List (Fld × Nat × Nat) := []) : State := { withFields l with img := g }
    let a : Arm := { opid := 1, mode := 0, at_ := .time 0 }
    let twin : State := withFields [(F.TWN_STAT_ROLE, 0, 1), (F.TWN_STAT_PROLE, 0, 2), (F.Lx_LSTAT_STATE, 4, 4)]
    (s { running := some (1, 0) }).staging = true ∧ (s {}).staging = false
    ∧ (s { arm := some a }).img.arm ≠ none ∧ ((s {}).img.arm = none ∧ (s {}).img.verified = false ∧ (s { verified := true }).img.verified = true)
    ∧ ({ twin with twn := { psync := true } } : State).activeTwin = true ∧ ({ twin with twn := { psync := true } } : State).healthy = true
    ∧ ((s {}).activeTwin && (s {}).healthy) = false
    ∧ ((s {} [(F.IMG_MODE_OVL, 0, 15)]).get F.IMG_MODE_OVL = bits (wordOf (f (15 * 8))) 6 3 ∧ (s {}).get F.IMG_MODE_OVL ≠ bits (wordOf (f (15 * 8))) 6 3)
    ∧ ((s {}).mgt.veer ≠ some .activate ∧ 3 ≤ (s {} [(F.IMG_STAT_STATE, 0, 3)]).get F.IMG_STAT_STATE ∧ (s {} [(F.IMG_STAT_STATE, 0, 2)]).get F.IMG_STAT_STATE < 3
      ∧ (s {}).get F.MGT_STAT_DSRC ≠ 1 ∧ (s {} [(F.MGT_STAT_DSRC, 0, 1)]).get F.MGT_STAT_DSRC = 1)
    ∧ (s { running := some (3, 0) }).img.running = some (3, 0) ∧ (s {}).img.running = none
    ∧ (s { storing := some (1, [5]) }).img.storing = some (1, [5]) ∧ (s {}).img.storing = none ∧ (s {}).boot.imgPend = false := by decide +kernel

theorem test_witness_ModesChangeTogether :
    let s (g : ImgSt) (l : List (Fld × Nat × Nat) := []) (n : Nat := 0) : State := { withFields ([(F.HUB_NODE_HUBNUM, 0, 7)] ++ l) with img := g, tim := { n := n } }
    let m : List (Fld × Nat × Nat) := [(F.RNG_RSTAT_MASTER, 0, 1), (F.IMG_MC_CFG_ARMMIN, 0, 1)]
    let e : ModeEntry := { num := 4, ovl := 255, startup := true, maint := false }
    let c : ModeChange := { opid := 1, mode := 4, at_ := .time 9, reqHub := 3, deadline := 5 }
    let a : Arm := { opid := 1, mode := 4, at_ := .time 9 }
    let req (ns : Nat) : Frame := mgt ([0x30, 0, 4, 0, 0, 0] ++ be 6 0 ++ be 4 ns) true
    let msg (op id : Nat) : Frame := mgt ([BitVec.ofNat 8 op, 0] ++ be 2 id ++ [0, 0]) true
    let wr : Frame := { ask .wrn 0 4 (le 4 (2 ^ 31)) with addr := fabAddr 7 1 0xD0040 }
    let armed : State := s { modes := [e], loaded := true } [(F.IMG_STAT_STATE, 0, 3), (F.TIM_STAT_TLOCK, 0, 1)]
    (mgtRefused 7 (req 0) = false ∧ (List.all [0x31, 0x32, 0x33, 0x34, 0x35, 0x36, 0x37] fun op => !mgtRefused (s {}).hubNum (msg op 1)) = true
      ∧ mgtRefused (s {}).hubNum (mgt [0x30]) = true)
    ∧ (bit (wordOf wr) 31 = true ∧ (s {} [(F.IMG_MC_STAT_PEND, 0, 1)]).flag F.IMG_MC_STAT_PEND = true)
    ∧ ((s {}).take (req 0)).master = false
    ∧ (((s { change := some c } m).take (req 0)).master = true ∧ ((s { change := some c } m).take (req 0)).img.change ≠ none)
    ∧ (((s {} m).take (req 0)).img.change = none ∧ ((s {} m).take (req 0)).modeOf (beAt (req 0).pay 2 1) = none)
    ∧ (((s { modes := [e] } m).take (req 0)).modeOf (beAt (req 0).pay 2 1) = some e ∧ State.whenAt (req 999999).pay 3 = .time 999999
      ∧ 999999 < (s { modes := [e] } m).ns + (s { modes := [e] } m).get F.IMG_MC_CFG_ARMMIN * 1000000
      ∧ (s { modes := [e] } m).ns + (s { modes := [e] } m).get F.IMG_MC_CFG_ARMMIN * 1000000 ≤ 1000000)
    ∧ (((s { resolved := some (1, true) } m).take (msg 0x36 1)).img.resolved = some (beAt (msg 0x36 1).pay 2 2, true)
      ∧ ((s {} m).take (msg 0x36 1)).img.resolved ≠ some (beAt (msg 0x36 1).pay 2 2, true))
    ∧ (((s { change := some c } m).take (msg 0x32 1)).img.change = some c ∧ c.opid = beAt (msg 0x32 1).pay 2 2 ∧ c.opid ≠ beAt (msg 0x32 2).pay 2 2)
    ∧ (c.deadline ≤ (s { change := some c } m (5 * 2 ^ 32)).ns ∧ (s { change := some c } m (4 * 2 ^ 32)).ns < c.deadline)
    ∧ (((s {}).take (msg 0x33 1)).img.arm = none ∧ ((s { arm := some a }).take (msg 0x33 1)).img.arm = some a ∧ a.opid = beAt (msg 0x33 1).pay 2 2
      ∧ a.opid ≠ beAt (msg 0x33 2).pay 2 2 ∧ a.asked = none ∧ ({ a with asked := some 3 } : Arm).asked ≠ none ∧ a.at_ = .time 9)
    ∧ ((s {} [(F.IMG_MC_STAT_PEND, 0, 1)]).take (msg 0x35 0)).flag F.IMG_MC_STAT_PEND = true ∧ ((s {}).take (msg 0x35 0)).flag F.IMG_MC_STAT_PEND = false
    ∧ (((s { loaded := true }).take (msg 0x37 0x100)).img.loaded = true ∧ beAt (msg 0x37 0x100).pay 2 1 % 32 ≠ ((s { loaded := true }).take (msg 0x37 0x100)).mode)
    ∧ (beAt (msg 0x37 0).pay 2 1 % 32 = ((s {}).take (msg 0x37 0)).mode ∧ beAt (msg 0x37 0).pay 4 2 = ((s {}).take (msg 0x37 0)).epoch)
    ∧ (armed.armCheck 4 (.time 1000000000) 0 = (0, 0) ∧ armed.armCheck 5 (.time 0) 0 = (1, 0)) := by decide +kernel

theorem test_witness_ModesChangeTogether_instant :
    let s (a : Option Arm) (n : Nat) : State := { ({} : State) with img := { arm := a }, tim := { n := n * 2 ^ 32 } }
    let a : Arm := { opid := 1, mode := 4, at_ := .time 9, go := true }
    let p : Arm := { a with at_ := .phase 3 0 0, est := some 7 }
    ((s (some a) 9).img.arm = some a ∧ a.at_ = .time 9 ∧ a.go = true ∧ 9 ≤ (s (some a) 9).ns ∧ (s (some a) 8).ns < 9)
    ∧ ({ a with go := false } : Arm).go = false
    ∧ ((s (some p) 7).img.arm = some p ∧ p.at_ = .phase 3 0 0 ∧ 0 ≤ sdiff 32 ((s (some p) 7).phaseNow p.ph) 0)
    ∧ (p.est = some 7 ∧ 7 ≤ (s (some p) 7).ns ∧ (s (some p) 6).ns < 7) ∧ a.est = none ∧ (s none 0).img.arm = none
    ∧ (a.go = true ∧ ({ a with go := false } : Arm).asked = none) := by decide +kernel

theorem test_witness_ImageStagesAndLoads_rows :
    let s (g : ImgSt) (l : List (Fld × Nat × Nat) := []) : State := { openHub l with img := { g with regions := (openHub l).img.regions } }
    (List.all [1, 2, 3, 4, 5 + 15 * 8] fun w => writes (s {}) F.IMG_STG_CTL_OP 0 w && writes (s { running := some (1, 0) }) F.IMG_STG_CTL_OP 0 w) = true
    ∧ (List.all [0, 1, 2] fun w => writes (s {}) F.IMG_SET_CTL_STORE 0 w && writes (s { storing := some (1, [5]) }) F.IMG_SET_CTL_STORE 0 w) = true
    ∧ ((s {}).packerBusy = false ∧ (s {}).boot.imgPend = false ∧ 1 = (if (s {}).boot.imgPend then (s {}).get F.IMG_SET_STAT_AREA else 1 - (s {}).get F.IMG_SET_STAT_AREA))
    ∧ (s { verified := true }).img.arm = none ∧ (s { verified := true }).img.verified = true ∧ ((s { verified := true }).activeTwin && (s {}).healthy) = false := by
  decide +kernel

theorem test_witness_ModesChangeTogether_times :
    let s (g : ImgSt) (l : List (Fld × Nat × Nat) := []) (n : Nat := 0) (up : Nat := 0) : State := { openHub l with img := { g with regions := (openHub l).img.regions }, tim := { n := n * 2 ^ 32 }, up := up }
    let m := [(F.RNG_RSTAT_MASTER, 0, 1)]
    let a : Arm := { opid := 1, mode := 4, at_ := .time 9 }
    (List.all [0, 2 ^ 31, 2 ^ 31 + 2 ^ 5 + 31] fun w => writes (s {}) F.IMG_MC_CTL_REQ 0 w && writes (s {} [(F.IMG_MC_STAT_PEND, 0, 1)]) F.IMG_MC_CTL_REQ 0 w) = true
    ∧ ((s {} m).master = true ∧ (s {} m).img.statAt = none ∧ (s { statAt := some 0 } m).img.statAt = some 0 ∧ (s {} m 0 99999999).up < 0 + 100000000
      ∧ 0 + 100000000 ≤ (s {} m 0 100000000).up ∧ (s {}).master = false)
    ∧ ((s { arm := some a } [] 9).img.arm = some a ∧ a.go = false ∧ (s { arm := some a } [] 9).modeReached a = true ∧ (s { arm := some a } [] 8).modeReached a = false)
    ∧ ((s {} [(F.RNG_RSTAT_MASTER_HUB, 0, 3)]).get F.RNG_RSTAT_MASTER_HUB ≠ 0xFF ∧ a.asked ≠ some 3 ∧ ({ a with asked := some 3 } : Arm).asked = some 3)
    ∧ ((s {} [(F.RNG_RSTAT_MASTER_HUB, 0, 0xFF)]).get F.RNG_RSTAT_MASTER_HUB = 0xFF ∧ a.asked ≠ some 0xFF) := by decide +kernel
theorem test_witness_KeysAndJobsBelongToPages :
    let p : Page := { hub := 9, init := 4 }
    let f (w : Nat) : Frame := { ask .wrn 0 4 (le 4 w) with addr := fabAddr 7 1 0xE1000 }
    let s (c : CrySt) (l : List (Fld × Nat × Nat) := []) : State :=
      { bulky with regs := (withFields ([(F.UPnn_CFG_SLOTBASE, 0, 8), (F.UPnn_CFG_SLOTCNT, 0, 2), (F.HUB_NODE_HUBNUM, 0, 7)] ++ l)).regs, cry := c }
    let kd (op ctx slot : Nat) : Nat := op + ctx * 8 + slot * 256
    let z : KeySlot := { st := .deriving_ }
    pageOf (f 0) = 0
    ∧ ((s {}).slotIn 0 7 = false ∧ (s {}).slotIn 0 10 = false ∧ (s {}).slotIn 0 8 = true ∧ (s {}).slotIn 0 9 = true)
    ∧ (wordOf (f (kd 1 1 7)) % 4 = 1 ∧ wordOf (f (kd 2 0 10)) % 4 = 2 ∧ bits (wordOf (f (kd 2 0 9))) 15 8 = 9 ∧ bits (wordOf (f (kd 1 1 9))) 7 3 ≠ 0)
    ∧ ((s {}).page? 0 = none ∧ (s { pages := [(0, p)] }).page? 0 = some p)
    ∧ (State.notOwner p (f 0) = false ∧ State.notOwner { p with init := 5 } (f 0) = true)
    ∧ (((s { slots := [(9, z)] }).slot 9).st = .deriving_ ∧ ((s {}).slot 9).st ≠ .deriving_)
    ∧ (s { squall := true }).cry.squall = true := by decide +kernel

theorem test_witness_KeysAndJobsBelongToPages_jobs :
    let p : Page := { hub := 9, init := 4 }
    let f : Frame := { ask .wr 0 4 (le 4 1) 0 true with addr := fabAddr 7 1 0xE1060 }
    let z : KeySlot := { st := .ready, key := zeros 32 }
    let s (c : CrySt) (tlen : Nat := 16) : State :=
      { bulky with regs := (withFields [(F.UPnn_CFG_SLOTBASE, 0, 8), (F.UPnn_CFG_SLOTCNT, 0, 2), (F.HUB_NODE_HUBNUM, 0, 7), (F.UPnn_MODE_MODE, 0, 1),
        (F.UPnn_MODE_INIT, 0, 1), (F.UPnn_MODE_FINAL, 0, 1), (F.UPnn_MODE_TLEN, 0, tlen), (F.UPnn_MODE_SLOT, 0, 8), (F.UPnn_LEN_BYTES, 0, 16)]).regs, cry := c }
    let q (n : Nat) : State := s { slots := [(8, z)], pages := [(0, { p with queue := List.replicate n ((s { slots := [(8, z)] }).jobOf 0 f) })] }
    let j : Job := (q 0).jobOf 0 f
    bit (wordOf f) 0 = true ∧ (s {}).page? 0 = none ∧ ((s { pages := [(0, p)] }).page? 0 = some p ∧ (s { pages := [(0, p)] }).jobWrong p ((s { pages := [(0, p)] }).jobOf 0 f) = true)
    ∧ ((q 0).jobWrong p j = false ∧ State.notOwner p f = false ∧ (q 0).jobRefused j = none ∧ State.notOwner { p with hub := 8 } f = true)
    ∧ ({ q 0 with img := { bulky.img with regions := [] } } : State).jobRefused j = some 1
    ∧ (s { slots := [(8, z)] } 11).jobWrong p ((s { slots := [(8, z)] } 11).jobOf 0 f) = true
    ∧ (4 ≤ (List.replicate 4 j).length ∧ (List.replicate 3 j).length < 4)
    ∧ ((s { running := some (j, zeros 32) }).cry.running ≠ none ∧ (q 1).cry.running = none ∧ (q 1).cry.squall = false
      ∧ (q 1).nextPage = some (0, { p with queue := [j] }))
    ∧ (((q 1).slot 8).gen = j.gen ∧ ((q 1).slot 8).st = .ready ∧ ({ z with gen := 1 } : KeySlot).gen ≠ j.gen)
    ∧ (j.abort = none ∧ j.writes = true ∧ j.checks = true ∧ j.final = true ∧ j.tags = false) := by decide +kernel

theorem test_witness_KeysAndJobsBelongToPages_pages :
    let h : Chain := { mode := 1, slot := 8, gen := 0, acc := 0, ctr := 0, aadBits := 0, textBits := 0 }
    let p : Page := { hub := 9, init := 4, runtime := true, chain := some h }
    let j : Job := ({} : State).jobOf 0 (ask .wr 0 4)
    let f (w : Nat) : Frame := { ask .wrn 0 4 (le 4 w) with addr := fabAddr 7 1 0xE1080 }
    let s (l : Map Page) (own : Nat := 0) : State := { ({} : State) with cry := { pages := l }, img := { pages := List.replicate own (9, 4) }, locks := [(2, { hub := 9, init := 4, since := 0 })] }
    let full : Map Page := (List.range 64).map fun n => (n, p)
    (wordOf (f 1) % 4 = 1 ∧ wordOf (f 2) % 4 = 2 ∧ bit (wordOf (f 2)) 2 = false ∧ ({ p with queue := [j] } : Page).queue ≠ [] ∧ p.queue = [])
    ∧ ((s [(0, p)]).page? 0 = some p ∧ State.notOwner p (f 1) = false ∧ p.chain = some h)
    ∧ ((chainOf (((s []).pageBytes F.UPnn_CTX 0 0 21).take 56)).gen = ((s []).slot (chainOf (((s []).pageBytes F.UPnn_CTX 0 0 21).take 56)).slot).gen)
    ∧ (chainOf (((withFields [(F.UPnn_CTX, 1, 0xFFFFFFFF)]).pageBytes F.UPnn_CTX 0 0 21).take 56)).gen ≠ 0
    ∧ (s []).holds .cry (f 1).src (f 1).init = true
    ∧ (Tbl.firstFree (s full).cry.pages 0 64 = none ∧ Tbl.firstFree (s [] 63).cry.pages 63 (64 - 63) = some 63)
    ∧ (bits (wordOf (f (2 + 63 * 4))) 7 2 = 63 ∧ (s []).page? 63 = none ∧ (s full).page? 63 = some p ∧ p.runtime = true ∧ ({ p with runtime := false } : Page).runtime = false)
    ∧ (State.notOwner { p with init := 5 } (f 1) = true ∧ classOf (s []).hubNum 9 4 ≠ some .mirik) := by decide +kernel

theorem test_witness_EpochsSquallsAndFuses :
    let s (l : List (Fld × Nat × Nat)) (c : CrySt := {}) : State := { withFields l with cry := c }
    let up : State := s [(F.Lx_LSTAT_STATE, 0, 4)] { hist := [(1, [{ ctx := [], epoch := 0xFFFF }])], linkCur := [(1, 0)] }
    let f (w : Nat) : Frame := { ask .wrn 0 4 (le 4 w) with addr := fabAddr 7 1 0xE000C }
    let z (k : Fuses) (op n : Nat) : State := s [] { fuse := k, fuseCmd := some (op, n) }
    (up.mayMove .e = true ∧ (s []).mayMove .w = false ∧ (s []).cry.rotate.contains 1 = false)
    ∧ (up.curCtx .e true = some { ctx := [], epoch := 0xFFFF } ∧ 0xFFFF ≤ ({ ctx := [], epoch := 0xFFFF } : LinkCtx).epoch)
    ∧ (bit ((s [(F.CRY_SQ_CFG_TMPEN, 0, 7)]).get F.CRY_SQ_CFG_TMPEN) 3 = false ∧ bit ((s [(F.CRY_SQ_CFG_TMPEN, 0, 8)]).get F.CRY_SQ_CFG_TMPEN) 3 = true)
    ∧ ((s [(F.CRY_SQ_CFG_VMON, 0, 1)]).flag F.CRY_SQ_CFG_VMON = true ∧ (s [(F.CRY_SQ_CFG_TMON, 0, 1)]).flag F.CRY_SQ_CFG_TMON = true
      ∧ (s [(F.CRY_SQ_CFG_CMON, 0, 1)]).flag F.CRY_SQ_CFG_CMON = true ∧ (s [(F.CRY_SQ_CFG_VMON, 0, 0)]).flag F.CRY_SQ_CFG_VMON = false)
    ∧ ((s [(F.PWR_STAT_HDPG, 0, 1)]).flag F.PWR_STAT_HDPG = true ∧ 16 % 16 = 0 ∧ (s []).flag F.PWR_STAT_HDPG = false ∧ 15 % 16 ≠ 0)
    ∧ ((s [(F.CRY_FUSE_STAT_BUSY, 0, 1)]).flag F.CRY_FUSE_STAT_BUSY = true ∧ (s []).flag F.CRY_FUSE_STAT_BUSY = false)
    ∧ (wordOf (f 1) % 8 = 1 ∧ wordOf (f 2) % 8 = 2 ∧ wordOf (f 3) % 8 = 3 ∧ wordOf (f 4) % 8 = 4 ∧ wordOf (f 5) % 8 = 5)
    ∧ ((s []).cry.fuseCmd = none ∧ (z {} 1 0).cry.fuseCmd = some (1, 0) ∧ (z { fleet := some [] } 1 0).cry.fuse.fleet = some [] ∧ (z {} 1 0).cry.fuse.fleet = none)
    ∧ (z { imgkey := [none, none, none, some [1]] } 2 3).cry.fuse.imgkey.getD 3 none = some [1] ∧ (z {} 3 3).cry.fuse.imgrev.getD 3 false = false
    ∧ (z {} 4 0).cry.fuse.jkrev = false := by decide +kernel

theorem test_witness_KeysAndJobsBelongToPages_rows :
    let p : Page := { hub := 9, init := 4 }
    let s (c : CrySt) (l : List (Fld × Nat × Nat) := []) : State :=
      { openHub ([(F.UPnn_CFG_SLOTBASE, 63, 8), (F.UPnn_CFG_SLOTCNT, 63, 2)] ++ l) with cry := c, locks := [(2, { hub := 9, init := 4, since := 0 })] }
    let t := s { pages := [(63, p)] }
    let kd (op ctx slot : Nat) : Nat := op + ctx * 8 + slot * 256
    let wr (r : Fld) (i w : Nat) : Bool := writes (s {}) r i w && writes t r i w && decide ((State.notOwner p (wrReg (r.off + r.mult * i) w)) = false)
    (wr F.UPnn_KD_OP 63 (kd 1 1 9) && wr F.UPnn_KD_OP 63 (kd 2 0 9) && wr F.UPnn_KD_OP 63 (kd 1 1 7) && wr F.UPnn_KD_OP 63 (kd 2 0 10)) = true
    ∧ (wr F.UPnn_GO_GO 63 1 && wr F.UPnn_GO_GO 63 0 && wr F.UPnn_CTXCTL_OP 63 1 && wr F.UPnn_CTXCTL_OP 63 2) = true
    ∧ (wr F.CRY_CMD_OP 0 1 && wr F.CRY_CMD_OP 0 (2 + 63 * 4) && wr F.CRY_LK_CTL_ROTATE_E 0 3) = true
    ∧ (List.all [0, 1, 2 + 8, 3 + 8, 4, 5 + 8] fun w => wr F.CRY_FUSE_CMD_OP 0 w && writes (s {} [(F.CRY_FUSE_STAT_BUSY, 0, 1)]) F.CRY_FUSE_CMD_OP 0 w) = true
    ∧ (t.holds .cry 9 4 = true ∧ State.notOwner { p with hub := 8 } (wrReg (F.UPnn_KD_OP.off + F.UPnn_KD_OP.mult * 63) 1) = true) := by decide +kernel

theorem test_witness_EpochsSquallsAndFuses_times :
    let c : LinkCtx := { ctx := [], epoch := 3, since := 0, mark := 0 }
    let s (h up : Nat) (rot : List Nat := []) : State :=
      { withFields [(F.Lx_LSTAT_STATE, 0, 4), (F.CRY_LK_CFG_PERIOD, 0, 1)] with cry := { hist := [(1, [{ c with hopiv := h }])], linkCur := [(1, 0)], rotate := rot }, up := up }
    ((s 0 3600000000000).moveDue .e = true ∧ (s 0 0).mayMove .e = true ∧ (s 0 3599999999999).moveDue .e = false)
    ∧ ((s (2 ^ 40) 0).moveDue .e = true ∧ (s 0 0).cry.rotate.contains Lane.e.ix = false ∧ (s 0 0).curCtx .e true = some c)
    ∧ (s 0 0 [0]).moveDue .e = true := by decide +kernel
theorem test_witness_TwinsExchangeNotes :
    let s (l : List (Fld × Nat × Nat)) (t : TwnSt := {}) (up : Nat := 0) : State := { withFields l with twn := t, up := up }
    let role (n : Nat) : List (Fld × Nat × Nat) := [(F.TWN_CFG_TWIN, 0, 1), (F.TWN_STAT_ROLE, 0, n), (F.Lx_LSTAT_STATE, 4, 4)]
    let f (n : Nat) : Frame := { ask .mgt 0 0 ([0x50, 0] ++ be 2 0 ++ zeros (n - 4)) with tt := .mgt }
    let h (count : Nat) : Frame := { ask .mgt 0 0 ([0x53, 0] ++ be 2 0 ++ be 2 9 ++ be 1 0 ++ be 1 count ++ zeros 4 ++ [1, 2]) with tt := .mgt }
    let v (n : Nat) (g : Frame) : State := ((s (role n)).take g).noteSeq (beAt g.pay 2 2)
    ((0 : Nat) = (s []).twn.noteRx ∧ (1 : Nat) ≠ (s []).twn.noteRx)
    ∧ ((s []).isTwin = false ∧ (s (role 2)).isTwin = true ∧ (s (role 2)).laneState .t ≠ 0 ∧ (s (role 2)).activeTwin = false
      ∧ (s [(F.TWN_CFG_TWIN, 0, 1)]).laneState .t = 0)
    ∧ ((v 1 (f 12)).standby = false ∧ (v 2 (f 12)).standby = true ∧ (f 12).pay.length = 12)
    ∧ (((s (role 1)).noteSeq 0).standby = false ∧ ((s (role 2)).noteSeq 0).standby = true)
    ∧ (({ ({} : State) with cry := { hist := [(0, [])] } } : State).cry.hist ≠ [] ∧ (s []).cry.hist = [])
    ∧ (beAt (h 1).pay 4 2 = 9 ∧ (Tbl.getD (v 2 (h 1)).twn.frags 9 { count := beAt (h 1).pay 7 1, port := beAt (h 1).pay 8 1 }).count
        ≤ (Tbl.put (Tbl.getD (v 2 (h 1)).twn.frags 9 { count := beAt (h 1).pay 7 1, port := beAt (h 1).pay 8 1 }).parts (beAt (h 1).pay 6 1) ((h 1).pay.drop 12)).length
      ∧ (v 2 (h 1)).activeTwin = false)
    ∧ (Tbl.put (Tbl.getD (v 2 (h 2)).twn.frags 9 { count := beAt (h 2).pay 7 1, port := beAt (h 2).pay 8 1 }).parts (beAt (h 2).pay 6 1) ((h 2).pay.drop 12)).length
        < (Tbl.getD (v 2 (h 2)).twn.frags 9 { count := beAt (h 2).pay 7 1, port := beAt (h 2).pay 8 1 }).count
    ∧ ((s (role 2) {} 999999999).up < (s (role 2)).twn.gapAt + 10 ^ 9 ∧ (s (role 2)).twn.gapAt + 10 ^ 9 ≤ (s (role 2) {} (10 ^ 9)).up
      ∧ ((List.range 256).all fun w => decide ((s (role 2)).flag F.BRG_WIN_CFG_EN w = false)) = true) := by decide +kernel

theorem test_witness_TwinsSwapRoles :
    let s (l : List (Fld × Nat × Nat)) (t : TwnSt := {}) (up : Nat := 0) : State := { withFields ([(F.TWN_CFG_TWIN, 0, 1)] ++ l) with twn := t, up := up, img := { loaded := true } }
    let u (l : List (Fld × Nat × Nat)) (a b : Bool) : State := ((s l).setB F.TWN_STAT_FAILI 0 a).setB F.TWN_STAT_ACTI 0 b
    let f (w : Nat) : Frame := { ask .wrn 0 4 (le 4 w) with addr := fabAddr 7 1 0xF0008 }
    let m : List (Fld × Nat × Nat) := [(F.RNG_RSTAT_MASTER, 0, 1)]
    let back : List (Fld × Nat × Nat) := [(F.TWN_STAT_ROLE, 0, 2), (F.TWN_CFG_PREF, 0, 1), (F.TWN_CFG_HOLDOFF, 0, 10)]
    let cutAt (e : Option Nat) : State := s [] { cut := [(5, e)] }
    ((s []).activeTwin = false ∧ (s [(F.TWN_STAT_ROLE, 0, 1)]).activeTwin = true ∧ ({} : State).isTwin = false ∧ (s []).isTwin = true)
    ∧ (((s [(F.TWN_STAT_ROLE, 0, 2)]).set F.TWN_STAT_FAILI 0 0).standby = true ∧ ((s []).set F.TWN_STAT_FAILI 0 0).standby = false)
    ∧ ((s [(F.TWN_STAT_ROLE, 0, 3)]).get F.TWN_STAT_ROLE = 3 ∧ (s []).get F.TWN_STAT_ROLE ≠ 3)
    ∧ ((u [(F.RNG_RSTAT_ADMITTED, 0, 1)] true true).isTwin = true ∧ (u [(F.RNG_RSTAT_ADMITTED, 0, 1)] true true).img.loaded = true
      ∧ (u [(F.RNG_RSTAT_ADMITTED, 0, 1)] true true).admitted = true ∧ (u [(F.RNG_RSTAT_ADMITTED, 0, 1)] true true).get F.TWN_STAT_ROLE = 0)
    ∧ ((u [] false false).admitted = false ∧ (u [(F.TWN_CFG_PREF, 0, 1)] true false).flag F.TWN_CFG_PREF = true ∧ (u [] true false).flag F.TWN_CFG_PREF = false)
    ∧ ((s [(F.TWN_STAT_ROLE, 0, 1), (F.TWN_CFG_PREF, 0, 1)]).flag F.TWN_CFG_PREF = true ∧ (s [(F.TWN_STAT_ROLE, 0, 1)]).flag F.TWN_CFG_PREF = false)
    ∧ (bit (wordOf (f 1)) 0 = true ∧ bit (wordOf (f 1)) 1 = false ∧ bit (wordOf (f 2)) 1 = true ∧ bit (wordOf (f 2)) 0 = false ∧ bit (wordOf (f 4)) 1 = false
      ∧ ((s [(F.TWN_STAT_ROLE, 0, 1)]).setB F.TWN_CTL_NOREVERT 0 (bit (wordOf (f 1)) 2)).activeTwin = true)
    ∧ ((s []).healthy = false ∧ (s [(F.TWN_STAT_ROLE, 0, 1), (F.TWN_STAT_PROLE, 0, 2), (F.Lx_LSTAT_STATE, 4, 4)] { psync := true }).healthy = true)
    ∧ (((s []).take (f 0)).master = false ∧ ((s m).take (f 0)).master = true ∧ ((s m { granted := some 3 }).take (f 0)).twn.granted ≠ none
      ∧ ((s m).take (f 0)).twn.granted = none ∧ ((s m).take (f 0)).img.change = none)
    ∧ (((s [(F.TWN_VSTAT_PEND, 0, 1)]).take (f 0)).flag F.TWN_VSTAT_PEND = true ∧ ((s []).take (f 0)).flag F.TWN_VSTAT_PEND = false)
    ∧ ((s [(F.TWN_STAT_ROLE, 0, 2)]).standby = true ∧ (s []).twn.veering = false)
    ∧ ((s m { granted := some 9 }).take (f 0)).twn.granted = some (f 0).src
    ∧ ((s back { healthySince := some 0 } 10000000000).standby = true ∧ (s back { healthySince := some 0 } 10000000000).flag F.TWN_CFG_PREF = true
      ∧ (s back).flag F.TWN_CTL_NOREVERT = false ∧ (s back).flag F.TWN_VSTAT_PEND = false
      ∧ 0 + (s back).get F.TWN_CFG_HOLDOFF * 10 ^ 9 ≤ (s back { healthySince := some 0 } 10000000000).up)
    ∧ ((s []).twn.cut.find? (fun (x : Nat × Option Nat) => decide (x.1 = 5)) = none
      ∧ (cutAt (some 3)).twn.cut.find? (fun (x : Nat × Option Nat) => decide (x.1 = 5)) = some (5, some 3)) := by decide +kernel

theorem test_witness_TwinsExchangeNotes_times :
    let s (role up : Nat) (t : TwnSt := {}) : State := { withFields [(F.TWN_CFG_TWIN, 0, 1), (F.TWN_STAT_ROLE, 0, role), (F.Lx_LSTAT_STATE, 4, 4)] with twn := t, up := up }
    let t : TwnSt := { twsAt := some 0 }
    ((s 2 999 t).twn.twsAt = some 0 ∧ (s 2 999 t).up < 0 + 1000 ∧ 0 + 1000 ≤ (s 2 1000 t).up)
    ∧ ((s 1 1000 t).activeTwin = true ∧ (s 1 1000 t).twn.orign = [] ∧ (s 1 1000 t).twn.done = [] ∧ (s 1 1000 t).up < (s 1 1000 t).twn.lhistAt + 1000000
      ∧ State.histShape (s 1 1000 t).twn.lhistSent = State.histShape (s 1 1000 t).cry.hist) := by decide +kernel

theorem test_witness_TwinsExchangeNotes_relay :
    let h : Frame := mgt ([0x53, 0] ++ be 2 0 ++ be 2 9 ++ be 1 0 ++ be 1 1 ++ zeros 4 ++ [1, 2]) true
    let v : State := ((withFields [(F.TWN_CFG_TWIN, 0, 1), (F.TWN_STAT_ROLE, 0, 1)]).take h).noteSeq (beAt h.pay 2 2)
    v.activeTwin = true ∧ (Tbl.put (Tbl.getD v.twn.frags 9 { count := beAt h.pay 7 1, port := beAt h.pay 8 1 }).parts (beAt h.pay 6 1) (h.pay.drop 12)).length = 1
    ∧ beAt h.pay 4 2 = 9 := by decide +kernel

theorem test_witness_TwinsSwapRoles_times :
    let s (l : List (Fld × Nat × Nat)) (t : TwnSt := {}) (up : Nat := 0) : State := { openHub ([(F.TWN_CFG_TWIN, 0, 1)] ++ l) with twn := t, up := up }
    let active := [(F.TWN_STAT_ROLE, 0, 1)]
    let w (a b : Bool) (up : Nat) : State :=
      ((({ s [(F.RNG_RSTAT_ADMITTED, 0, 1)] { waitAt := some 0 } up with img := { loaded := true } } : State).setB F.TWN_STAT_FAILI 0 a).noteActi b)
    ((w true false 999999999).twn.waitAt = some 0 ∧ (w true false 999999999).up < 0 + 1000000000 ∧ 0 + 1000000000 ≤ (w true false 1000000000).up
      ∧ (w true true 0).get F.TWN_STAT_ROLE = 0 ∧ (w true true 0).admitted = true ∧ (w true true 0).img.loaded = true ∧ (w true true 0).isTwin = true
      ∧ (w true false 0).flag F.TWN_CFG_PREF = false)
    ∧ ((s active { actiAt := some 0 } 2000).twn.actiAt = some 0 ∧ (s active { actiAt := some 0 } 1999).up < 0 + 2000 ∧ 0 + 2000 ≤ (s active { actiAt := some 0 } 2000).up
      ∧ (s active).twn.actiAt = none)
    ∧ (List.all [0, 1, 2, 4, 5] fun x => writes (s active) F.TWN_CTL_VEER 0 x && writes (s [(F.TWN_STAT_ROLE, 0, 2)]) F.TWN_CTL_VEER 0 x) = true
    ∧ (mgtRefused (s []).hubNum (mgt [0x40] true) = false ∧ mgtRefused (s []).hubNum (mgt [0x41] true) = false ∧ mgtRefused (s []).hubNum (mgt [0x42, 6] true) = false
      ∧ mgtRefused (s []).hubNum (mgt [0x43] true) = false ∧ mgtRefused (s []).hubNum (mgt [0x40]) = true)
    ∧ ((s active { veering := true }).veerReady = true ∧ (s active { veering := true }).twn.veering = true ∧ (s active).twn.veering = false) := by decide +kernel

theorem test_witness_TwinsSwapRoles_messages :
    let f (op : Nat) : Frame := mgt [BitVec.ofNat 8 op, 6] true
    let s (l : List (Fld × Nat × Nat)) (t : TwnSt) (op : Nat) : State := ({ openHub l with twn := t } : State).take (f op)
    let m := [(F.RNG_RSTAT_MASTER, 0, 1)]
    (List.all [0x40, 0x41, 0x42, 0x43] fun op => !mgtRefused (openHub m).hubNum (f op)) = true
    ∧ ((s [] {} 0x40).master = false ∧ (s m {} 0x40).master = true ∧ (s m { granted := some 3 } 0x40).twn.granted ≠ none ∧ (s m {} 0x40).twn.granted = none
      ∧ (s m {} 0x40).img.change = none)
    ∧ ((s [(F.TWN_STAT_ROLE, 0, 1)] {} 0x41).activeTwin = true ∧ (s [] {} 0x41).activeTwin = false)
    ∧ ((s [(F.TWN_VSTAT_PEND, 0, 1)] {} 0x42).flag F.TWN_VSTAT_PEND = true ∧ (s [] {} 0x42).flag F.TWN_VSTAT_PEND = false)
    ∧ ((s m { granted := some 9 } 0x43).twn.granted = some (f 0x43).src ∧ (s m {} 0x43).twn.granted ≠ some (f 0x43).src) := by decide +kernel

theorem test_witness_TwinsSwapRoles_redo :
    let a : BrgAcc := { src := .poll 3, win := 0, off := 0, len := 2, write := false, chunk := 2 }
    let s (e : Option Nat) (up : Nat) : State := { withFields [(F.SPnn_BAUD_DIV, 5, 16)] with twn := { cut := [(5, e)] }, brg := { buses := [(5, { queue := [a] })], quiet := [(5, 0)] }, up := up }
    let redo : State := ((s none 55).onTwn fun t => { t with cut := t.cut.filter fun (x : Nat × Option Nat) => decide (x.1 ≠ 5) }).bump F.TWN_CNT_REDO
    ((s none 54).quietFor 5 ((s none 0).recoverTime 5) = false ∧ (s none 55).quietFor 5 ((s none 0).recoverTime 5) = true)
    ∧ ((s none 0).twn.cut.find? (fun (x : Nat × Option Nat) => decide (x.1 = 5)) = some (5, none) ∧ (redo.bus 5).queue = a :: []) := by decide +kernel
theorem test_witness_ClocksFollowTheirSources :
    let s (l : List (Fld × Nat × Nat)) (c : CkrSt := {}) : State := { withFields l with ckr := c }
    let lk : List (Fld × Nat × Nat) := [(F.CKR_PLL_STAT_SPA_LOCK, 0, 1)]
    let rco : State := (s []).setDomSrc 0 2
    (s [(F.RNG_RSTAT_MASTER, 0, 1)]).master = true
    ∧ ((s [(F.CKR_REF_CTL_FORCE, 0, 4)]).master = false ∧ (s [(F.CKR_REF_CTL_FORCE, 0, 4)]).get F.CKR_REF_CTL_FORCE = 3 + 1 ∧ bit 8 3 = true)
    ∧ (((s []).showRef ((s []).qualMask 0)).chooseRef ((s []).qualMask 0) = none ∧ ((s []).showRef ((s []).qualMask 8)).chooseRef ((s []).qualMask 8) = some 3)
    ∧ ((s []).ckr.measuring = none ∧ (s [] { measuring := some 3 }).ckr.measuring = some 3)
    ∧ ((s lk).pllLock 0 = true ∧ (s [] { stopped := [4] }).running 4 = false ∧ (s []).pllLock 1 = false ∧ (s []).running 5 = true)
    ∧ State.moveOrder.any (fun k => decide ((rco.setLock 1 true).domSrc k = 2)) = true
    ∧ ((s [] { moves := [0, 1] }).ckr.moves = 0 :: [1] ∧ (s [] { moves := [0, 1] }).running (4 + (s [] { moves := [0, 1] }).ckr.target) = true ∧ (s []).ckr.moves = [])
    ∧ ((s [] { stopped := [5] }).ckr.stopped.contains 5 = true ∧ (s []).ckr.stopped.contains 3 = false ∧ (s []).ckr.stopped.contains 4 = false
      ∧ (s []).ckr.stopped.contains 6 = false ∧ (s [] { stopped := [14] }).ckr.stopped.contains 14 = true)
    ∧ ((s [] { gateReq := [20] }).ckr.gateReq.contains 20 = true ∧ (s []).ckr.gateReq.contains 20 = false) := by decide +kernel

theorem test_witness_ResetsRunInLevels :
    let s (l : List (Fld × Nat × Nat)) (c : CkrSt := {}) (m : MgtSt := {}) : State := { withFields l with ckr := c, mgt := m }
    let f (w : Nat) : Frame := { ask .wrn 0 4 (le 4 w) with addr := fabAddr 7 1 0x110010 }
    (s [] { prelude := some (2, 5) }).ckr.prelude = some (2, 5) ∧ (s []).ckr.prelude = none ∧ (s [] { prelude := some (1, 2) }).ckr.prelude = some (1, 2)
    ∧ ((s [(F.TWN_STAT_ROLE, 0, 2)] {} { veer := some .fwActivate }).mgt.veer = some .fwActivate
      ∧ (s [(F.TWN_STAT_ROLE, 0, 2)] {} { veer := some .fwActivate }).standby = true ∧ (s []).mgt.veer ≠ some .fwActivate)
    ∧ ((s [(F.PWR_STAT_HDPG, 0, 1)]).flag F.PWR_STAT_HDPG = true ∧ (s []).flag F.PWR_STAT_HDPG = false)
    ∧ ((s []).ckr.held = none ∧ (s [] { held := some false }).ckr.held = some false)
    ∧ (wordOf (f 1) &&& resettable = 0 ∧ bit ((s []).get F.CKR_BLKRST_BLK) 20 = false) := by decide +kernel

theorem test_witness_PowerEntersInOrder :
    let s (l : List (Fld × Nat × Nat)) (p : PwrSt := {}) (up : Nat := 0) : State := { withFields l with pwr := p, up := up }
    let st (n : Nat) : List (Fld × Nat × Nat) := [(F.PWR_STAT_STATE, 0, n), (F.PWR_CFG_RTY_INSDLY, 0, 4)]
    ((s []).pwr.vaux = true ∧ (s (st 0)).pwrState = 0 ∧ (s (st 1)).pwrState ≠ 0)
    ∧ ((s (st 1)).pwr.vinIn = true ∧ (s (st 1)).pwr.vinSince + (s (st 1)).get F.PWR_CFG_RTY_INSDLY * 10000000 ≤ (s (st 1) {} 40000000).up
      ∧ (s (st 1) {} 39999999).up < (s (st 1)).pwr.vinSince + (s (st 1)).get F.PWR_CFG_RTY_INSDLY * 10000000)
    ∧ ((s (st 2)).pwrState = 2 ∧ (s (st 3)).pwrState = 3 ∧ (s (st 4)).pwrState = 4 ∧ (s (st 6)).pwrState = 6)
    ∧ ((s (st 4) { qualAt := some 0 } 1000000).pwr.qualAt = some 0 ∧ (s (st 4)).pwr.gateOn = true ∧ (s (st 4)).flag F.PWR_STAT_FTACT = false
      ∧ 0 + 1000000 ≤ (s (st 4) { qualAt := some 0 } 1000000).up ∧ (s []).pwr.qualAt = none)
    ∧ ((s (st 5)).pwrState ≤ 5 ∧ 5 < (s (st 6)).pwrState ∧ (s (st 2)).pwrState < 3 ∧ (s [(F.PWR_STAT_FTACT, 0, 1)]).flag F.PWR_STAT_FTACT = true)
    ∧ ((s []).pwr.retryAt = none ∧ ((s (st 6) { retryAt := some 0 } 10000000).pwr.retryAt = some 0
      ∧ (s (st 6)).pwr.vinSince + 10000000 ≤ (s (st 6) { retryAt := some 0 } 10000000).up))
    ∧ ((s [(F.PWR_STAT_PG, 0, 1)] {} 60000000000).flag F.PWR_STAT_PG = true ∧ (s []).pwr.pgSince + 60000000000 ≤ (s [] {} 60000000000).up
      ∧ (s [] {} 59999999999).up < (s []).pwr.pgSince + 60000000000 ∧ (s []).flag F.PWR_STAT_PG = false)
    ∧ ((s [] { vaux := false, cls := 1 }).pwr.vaux = false ∧ (s [] { vaux := false, cls := 1 }).pwr.collapsed = false ∧ (s [] { vaux := false, cls := 1 }).pwr.cls = 1
      ∧ (s [] { vaux := false, cls := 2 }).pwr.cls = 2)
    ∧ ((s [(F.PWR_STAT_HDPG, 0, 1)]).flag F.PWR_STAT_HDPG = true ∧ (s []).flag F.PWR_STAT_HDPG = false)
    ∧ ((s []).get F.PWR_CFG_RTY_RETRIES < 16) := by decide +kernel

theorem test_witness_PowerEntersInOrder_retries :
    let s (r n : Nat) : State := { withFields [(F.PWR_CFG_RTY_RETRIES, 0, r)] with pwr := { rcnt := n } }
    let v (r n : Nat) : State :=
      ((((s r n).turnOff.setRcnt (min 16 ((s r n).turnOff.pwr.rcnt + 1))).bump F.PWR_CNT_TRIP).set F.PWR_FLAGS_TRIP 0 1).set F.PWR_STAT_LASTTRIP 0 1
    (v 3 3).get F.PWR_CFG_RTY_RETRIES < min 16 ((s 3 3).turnOff.pwr.rcnt + 1) ∧ min 16 ((s 3 2).turnOff.pwr.rcnt + 1) ≤ (v 3 2).get F.PWR_CFG_RTY_RETRIES := by
  decide +kernel

theorem test_witness_ClocksFollowTheirSources_times :
    let s (l : List (Fld × Nat × Nat)) (c : CkrSt := {}) (up : Nat := 0) : State := { openHub l with ckr := c, up := up }
    let g := [(F.CKR_GATE_BLK, 0, 2 ^ 6)]
    (writes (s []) F.CKR_GATE_BLK 0 (2 ^ 6) = true ∧ bit (2 ^ 6) 6 = true ∧ bit ((s []).get F.CKR_GATE_BLK) 6 = false)
    ∧ (writes (s g) F.CKR_GATE_BLK 0 0 = true ∧ bit ((s g).get F.CKR_GATE_BLK) 6 = true ∧ writes (s []) F.CKR_GATE_BLK 0 0 = true)
    ∧ (let c : CkrSt := { gateReq := [6], gateAt := [(6, 0)] }
       (s [] c).ckr.gateReq.contains 6 = true ∧ Tbl.getD (s [] c).ckr.gateAt 6 0 + blockTime 6 1024 ≤ (s [] c (blockTime 6 1024)).up
       ∧ (s [] c (blockTime 6 1024 - 1)).up < Tbl.getD (s [] c).ckr.gateAt 6 0 + blockTime 6 1024)
    ∧ (let c : CkrSt := { stopped := [14], stopAt := [(14, 0)] }
       (s [] c).ckr.stopped.contains 14 = true ∧ Tbl.getD (s [] c).ckr.stopAt 14 0 + 100000 ≤ (s [] c 100000).up
       ∧ (s [] c 99999).up < Tbl.getD (s [] c).ckr.stopAt 14 0 + 100000) := by decide +kernel

theorem test_witness_ResetsRunInLevels_times :
    let s (l : List (Fld × Nat × Nat)) (c : CkrSt := {}) (up : Nat := 0) : State := { openHub l with ckr := c, up := up }
    (List.all [2, 3, 4, 6, 7, 8, 9, 10, 11, 12, 19, 20] fun b => writes (s []) F.CKR_BLKRST_BLK 0 (2 ^ b) && !bit ((s []).get F.CKR_BLKRST_BLK) b) = true
    ∧ (writes (s [] { prelude := some (2, 5) }) F.CKR_BLKRST_BLK 0 4 = true ∧ (s [] { prelude := some (2, 5) }).ckr.prelude = some (2, 5))
    ∧ (writes (s []) F.CKR_BLKRST_BLK 0 1 = true ∧ 1 &&& resettable = 0)
    ∧ ((s [] { prelude := some (1, 2) } 1999).up < (s [] { prelude := some (1, 2) }).ckr.preludeAt + 2000
      ∧ (s [] { prelude := some (1, 2) }).ckr.preludeAt + 2000 ≤ (s [] { prelude := some (1, 2) } 2000).up)
    ∧ ((s [(F.PWR_STAT_HDPG, 0, 1)] { held := some true }).ckr.held = some true ∧ (s [(F.PWR_STAT_HDPG, 0, 1)] { held := some true }).flag F.PWR_STAT_HDPG = true)
    ∧ (let r := [(F.CKR_BLKRST_BLK, 0, 2 ^ 6)]
       let c : CkrSt := { rstAt := [(6, 0)] }
       bit ((s r c).get F.CKR_BLKRST_BLK) 6 = true ∧ (s r c).inPrelude 6 = false ∧ Tbl.getD (s r c).ckr.rstAt 6 0 + blockTime 6 64 ≤ (s r c (blockTime 6 64)).up
       ∧ (s r c).img.loaded = false ∧ (s r c (blockTime 6 64 - 1)).up < Tbl.getD (s r c).ckr.rstAt 6 0 + blockTime 6 64) := by decide +kernel

theorem test_witness_PowerEntersInOrder_times :
    let s (l : List (Fld × Nat × Nat)) (p : PwrSt := {}) (up : Nat := 0) : State := { withFields l with pwr := p, up := up }
    let lim := [(F.PWR_CFG_LIM_PCTMO, 0, 4), (F.PWR_CFG_LIM_FLTTMO, 0, 7), (F.PWR_STAT_FTACT, 0, 1)]
    let st (n : Nat) : List (Fld × Nat × Nat) := [(F.PWR_STAT_STATE, 0, n)] ++ lim
    ((s (st 2)).pwrState = 2 ∧ (s (st 2)).pwr.stateAt + (s (st 2)).get F.PWR_CFG_LIM_PCTMO * 5000000 ≤ (s (st 2) {} 20000000).up
      ∧ (s (st 2) {} 19999999).up < (s (st 2)).pwr.stateAt + (s (st 2)).get F.PWR_CFG_LIM_PCTMO * 5000000)
    ∧ ((s (st 4)).flag F.PWR_STAT_FTACT = true ∧ (s (st 4)).pwr.faultAt + (s (st 4)).get F.PWR_CFG_LIM_FLTTMO * 100000 ≤ (s (st 4) {} 700000).up
      ∧ (s (st 4) {} 699999).up < (s (st 4)).pwr.faultAt + (s (st 4)).get F.PWR_CFG_LIM_FLTTMO * 100000)
    ∧ ((s (st 4) {} 99999).up < (s (st 4)).pwr.overAt + 100000 ∧ (s (st 4)).pwr.overAt + 100000 ≤ (s (st 4) {} 100000).up ∧ (s (st 4)).pwrState = 4)
    ∧ ((s [(F.PWR_STAT_PG, 0, 1)] {} 2000000).pwr.vaux = true ∧ (s [(F.PWR_STAT_PG, 0, 1)]).flag F.PWR_STAT_PG = true
      ∧ max (s []).pwr.pgSince (s []).pwr.railAt + 2000000 ≤ (s [] {} 2000000).up ∧ (s [] {} 1999999).up < max (s []).pwr.pgSince (s []).pwr.railAt + 2000000)
    ∧ ((s [(F.PWR_STAT_STATE, 0, 6)] { retryAt := some 0 } 10000000).pwr.vinIn = true ∧ 0 ≤ (s [] {} 10000000).up) := by decide +kernel
theorem test_witness_HistoryIsStagedPagedAndRead :
    let s (l : List (Fld × Nat × Nat)) (h : HstSt := {}) (r : List (Nat × HistRec) := []) : State := { withFields l with hst := h, recs := r }
    let f (w : Nat) : Frame := { ask .wrn 0 4 (le 4 w) with addr := fabAddr 7 1 0x130004 }
    let st (n : Nat) : List (Fld × Nat × Nat) := [(F.HST_STAT_STATE, 0, n), (F.HST_CFG_EN, 0, 1), (F.HST_SCRUB_RDLIM, 0, 1)]
    let r : HistRec := { kind := 1 }
    let p : HPage := { num := 0, mount := 0, first := 0, recs := [], prev := [], tag := [] }
    let run : State := s ([(F.HST_GEOM_PPB, 0, 64)] ++ st 2) { prog := [p], blocks := [(0, { reads := 1000, pages := [1] })] }
    ((s []).recs = [] ∧ (s [] {} [(0, r)]).recs = (0, r) :: [])
    ∧ ((s []).flag F.HST_CFG_EN = false ∧ (s (st 2)).flag F.HST_CFG_EN = true ∧ (s (st 3)).hasStage = false ∧ (s (st 2)).hasStage = true
      ∧ (s (st 2) { stage := List.replicate 2048 [] }).hasStage = false ∧ (s (st 2) { stage := List.replicate 2047 [] }).hasStage = true
      ∧ (s (st 2)).hst.drops = none ∧ r.kind ≠ 4)
    ∧ ((s (st 2)).hstState = 2 ∧ (s (st 2)).hst.warned = false ∧ (s (st 1)).hstState ≠ 2 ∧ (s [] { warned := true }).hst.warned = true ∧ (s []).hst.stage = [])
    ∧ (run.hst.prog = p :: [] ∧ run.headOpen = true ∧ (s []).hst.prog = [] ∧ (s []).headOpen = false)
    ∧ ((s []).hst.erasing = none ∧ (s [] { erasing := some 3 }).hst.erasing = some 3)
    ∧ (s (st 1)).hstState = 1
    ∧ ((run.hblock 1).reads < run.get F.HST_SCRUB_RDLIM * 1000 ∧ run.get F.HST_SCRUB_RDLIM * 1000 ≤ (run.hblock 0).reads ∧ (run.hblock 0).pages ≠ []
      ∧ (run.hblock 1).pages = [])
    ∧ (bit (wordOf (f 4)) 2 = true ∧ (s []).flag F.HST_CFG_FMTOK = false ∧ (s [(F.HST_CFG_FMTOK, 0, 1)]).flag F.HST_CFG_FMTOK = true)
    ∧ (wordOf (f 1) = 1 ∧ wordOf (f 2) = 2 ∧ wordOf (f 8) = 8 ∧ wordOf (f 4) = 4 ∧ (s (st 3)).hstState = 3)
    ∧ ((s []).hst.repl0 = [] ∧ (s []).hst.repl1 = [] ∧ (s [] { repl0 := [[]] }).hst.repl0 ≠ [] ∧ (s []).hst.reads = []
      ∧ (s [] { reads := [{ req := f 0 }] }).hst.reads = { req := f 0 } :: []) := by decide +kernel

theorem test_witness_HistoryIsStagedPagedAndRead_times :
    let s (l : List (Fld × Nat × Nat)) (h : HstSt := {}) (up : Nat := 0) : State :=
      { openHub ([(F.HST_STAT_STATE, 0, 2), (F.HST_CFG_FLUSH, 0, 5), (F.HST_SCRUB_PATROL, 0, 1), (F.HST_REPL_BATCH, 0, 3)] ++ l) with hst := h, up := up }
    let one : HstSt := { stage := [zeros 32], stageAt := [0] }
    let b : HstSt := { blocks := [(7, { pages := [1], patrolAt := 0 })] }
    let day : Nat := 86400000000000
    ((s [] one).hstRuns = true ∧ (s [] one).hst.stageAt = 0 :: [] ∧ (s [] one).hst.stage.length < (s [] one).pageRecs ∧ (s [] one).hst.stage ≠ []
      ∧ 0 + (s [] one).get F.HST_CFG_FLUSH * 1000000 ≤ (s [] one 5000000).up ∧ (s [] one 4999999).up < 0 + (s [] one).get F.HST_CFG_FLUSH * 1000000
      ∧ (s [] { one with warned := true }).hstRuns = false ∧ (s [] one).flag F.HST_SIGN_EN = false)
    ∧ ((s [] b).hstRuns = true ∧ ((s [] b).hblock 7).pages ≠ [] ∧ ((s [] b).hblock 7).scrubbed = false
      ∧ ((s [] b).hblock 7).patrolAt + (s [] b).get F.HST_SCRUB_PATROL * day ≤ (s [] b day).up
      ∧ (s [] b (day - 1)).up < ((s [] b).hblock 7).patrolAt + (s [] b).get F.HST_SCRUB_PATROL * day)
    ∧ (let r (n : Nat) : HstSt := { repl1 := List.replicate n [], repl1At := [0] }
       (s [] (r 31)).hst.repl1.length < 32 ∧ (s [] (r 31)).hst.repl1At = 0 :: [] ∧ (s [] (r 31) 2999999).up < 0 + (s [] (r 31)).get F.HST_REPL_BATCH * 1000000
       ∧ 0 + (s [] (r 31)).get F.HST_REPL_BATCH * 1000000 ≤ (s [] (r 31) 3000000).up ∧ 32 ≤ (s [] (r 32)).hst.repl1.length ∧ (s [] (r 32)).blockBusy 19 = false)
    ∧ (List.all [1, 2, 4, 8] fun w => writes (s []) F.HST_CTL_FLUSH 0 w && writes (s [(F.HST_STAT_STATE, 0, 3), (F.HST_CFG_FMTOK, 0, 1)]) F.HST_CTL_FLUSH 0 w) = true
    ∧ ((s [(F.HST_STAT_STATE, 0, 3)]).hstState = 3 ∧ (s []).hstState ≠ 3 ∧ (s []).hstState = 2) := by decide +kernel

theorem test_witness_HistoryIsStagedPagedAndRead_medium :
    let s (l : List (Fld × Nat × Nat)) (h : HstSt := {}) (r : List (Nat × HistRec) := []) : State := { openHub l with hst := h, recs := r }
    let r : HistRec := { kind := 1 }
    let p : HPage := { num := 0, mount := 0, first := 0, recs := [], prev := [], tag := [] }
    let mount (h : HstSt) : State :=
      let u := (s [(F.HST_STAT_STATE, 0, 1)] h).setInc fun r => { r with mount := (r.mount + 1) % 2 ^ 32 }
      (u.onHst fun h => { h with mount := u.incRec.mount, warned := false }).set F.HST_STAT_STATE 0 2
    let run (n : Nat) : State := s [(F.HST_GEOM_PPB, 0, 64), (F.HST_STAT_STATE, 0, 2)] { prog := [p], blocks := [(0, { pages := List.replicate n 1 })] }
    let u (n : Nat) : State :=
      let s := run n
      let k := s.hblock s.hst.head
      ((s.onHst fun h => { h with
          prog := [], pages := Tbl.put h.pages p.num p,
          blocks := h.blocks.map fun x => (x.1, { x.2 with pages := x.2.pages.filter fun n => decide (n ≠ p.num) }) }).setHblock s.hst.head
        { k with pages := (k.pages.filter fun n => decide (n ≠ p.num)) ++ [p.num], reads := 0, erased := false, patrolAt := s.up, scrubbed := false }).bumpBy
          F.HST_CNT_REC 0 p.recs.length
    ((s [] {} [(4, r), (1, r)]).recs.find? (fun e => decide (e.1 = 1)) = some (1, r) ∧ (∀ q, q < 1 → ∀ e ∈ (s [] {} [(4, r), (1, r)]).recs, e.1 ≠ q))
    ∧ (Tbl.find? (s []).hst.lastRseq r.src = none ∧ (s [] { drops := some { count := 1, sec := 0, ns := 0 } }).hst.drops = some { count := 1, sec := 0, ns := 0 })
    ∧ ((mount {}).hst.pages = [] ∧ (mount {}).hst.formats = 0 ∧ (mount { pages := [(0, p)] }).hst.pages ≠ [])
    ∧ ((run 1).blockBusy 19 = false ∧ ((u 1).hblock (run 1).hst.head).pages.length < (run 1).get F.HST_GEOM_PPB
      ∧ (run 63).headOpen = true ∧ (run 63).get F.HST_GEOM_PPB ≤ ((u 63).hblock (run 63).hst.head).pages.length)
    ∧ (let g (n : Nat) : Frame := { ask .rd 0 n with addr := fabAddr 7 6 0 }
       let two (n : Nat) : State := s [] { pages := [(0, { p with recs := [zeros 32] }), (1, { p with num := 1, first := 1, recs := [zeros 32] })], reads := [{ req := g n }] }
       let v (n : Nat) : State := ((two n).bumpBy F.HST_CNT_CORR 0 3).onHst fun h => { h with
         blocks := h.blocks.map fun x => (x.1, if x.2.pages.any (fun m => decide (((two n).histByte (g n).offset).bind (fun y => y.1) = some m)) then { x.2 with reads := x.2.reads + 1 } else x.2) }
       (two 64).hst.reads = { req := g 64 } :: [] ∧ ((v 64).sameRun (g 64).offset 64).length < 64 ∧ 32 ≤ ((v 32).sameRun (g 32).offset 32).length) := by decide +kernel
theorem test_witness_MailboxUpdatesAndDoldrums :
    let s (m : MgtSt) (l : List (Fld × Nat × Nat) := []) (up : Nat := 0) : State := { bulky with regs := (withFields ([(F.HUB_NODE_HUBNUM, 0, 7)] ++ l)).regs, mgt := m, up := up }
    let open_ (m : MgtSt) : State :=
      { s m with img := { regions := [{ space := 0xF, base := 0, size := 256, r := 31, w := 31, a := 31, pf := false, se := false }] } }
    let f (code : Nat) (flags : Nat := 0) : Frame := { ask .mgt 0 0 ([8, BitVec.ofNat 8 flags, BitVec.ofNat 8 code, 0, 0, 2] ++ zeros 12) with tt := .mgt }
    let c (code : Nat) (args : List Byte) : MbxCmd := { code := code, args := args, hub := 9, init := 4, req := some (f code) }
    let full : MgtSt := { mbox := List.replicate 9 (c 1 [0, 0]) }
    let hd (x : MbxCmd) (m : MgtSt := {}) : State := s { m with mbox := [x] }
    ((f 1).pst = false ∧ beAt (f 1).pay 1 1 = 0 ∧ 16 + beAt (f 1).pay 4 2 ≤ (f 1).pay.length ∧ beAt (f 1 1).pay 1 1 ≠ 0)
    ∧ ((s {}).mbxRefused 9 4 1 = some (.viol, 1) ∧ (open_ {}).mbxRefused 9 4 1 = none)
    ∧ (8 ≤ ((open_ full).mgt.mbox.tail.filter fun c => c.req.isSome).length ∧ ((open_ {}).mgt.mbox.tail.filter fun c => c.req.isSome).length < 8
      ∧ (open_ full).mbxRefused 9 4 1 = none ∧ State.mbxCodes.contains 1 = true ∧ State.mbxCodes.contains 0x7F = false)
    ∧ ((s {}).mbxHead 1 = none ∧ (s {}).mbxHead 0x11 = none ∧ (s {}).mbxHead 0x13 = none ∧ (s {}).mbxHead 0x20 = none)
    ∧ ((hd (c 1 [0, 255])).mbxHead 1 = some (c 1 [0, 255]) ∧ (c 1 [0, 255]).args.length = 2 ∧ unbe (c 1 [0, 255]).args = 255 ∧ (c 1 [0]).args.length ≠ 2)
    ∧ (hd (c 0x10 [])).mbxHead 0x10 = some (c 0x10 [])
    ∧ ((hd (c 0x11 [0, 0x0F, 0xFF, 0xFF, 1])).mbxHead 0x11 = some (c 0x11 [0, 0x0F, 0xFF, 0xFF, 1]) ∧ (hd (c 0x11 [])).mbxPop.mgt.fwOpen = false
      ∧ (hd (c 0x11 []) { fwOpen := true }).mbxPop.mgt.fwOpen = true
      ∧ 5 ≤ (c 0x11 [0, 0x0F, 0xFF, 0xFF, 1]).args.length ∧ beAt (c 0x11 [0, 0x0F, 0xFF, 0xFF, 1]).args 0 4 + 1 ≤ 0x100000)
    ∧ (hd (c 0x12 [])).mbxHead 0x12 = some (c 0x12 [])
    ∧ ((hd (c 0x13 [])).mbxHead 0x13 = some (c 0x13 []) ∧ (hd (c 0x13 [])).mbxPop.mgt.fwVerified = false
      ∧ (hd (c 0x13 []) { fwVerified := true }).mbxPop.mgt.fwVerified = true
      ∧ (((hd (c 0x13 []) { fwVerified := true }).mbxPop.mbxAnswer (c 0x13 []) 0 0 []).activeTwin
        && ((hd (c 0x13 []) { fwVerified := true }).mbxPop.mbxAnswer (c 0x13 []) 0 0 []).healthy) = false)
    ∧ ((hd (c 0x14 [])).mbxHead 0x14 = some (c 0x14 []) ∧ (hd (c 0x14 [])).mbxPop.updPending = false)
    ∧ ((hd (c 0x20 [1])).mbxHead 0x20 = some (c 0x20 [1]) ∧ (c 0x20 [1]).args.length < 4)
    ∧ ((hd (c 0x30 [1, 0x51])).mbxHead 0x30 = some (c 0x30 [1, 0x51]) ∧ beAt (c 0x30 [1, 0x51]).args 0 1 = 1 ∧ 1 < beAt (c 0x30 [2, 0x51]).args 0 1
      ∧ (hd (c 0x30 [1, 0x51])).mbxPop.mgt.relay = none) := by decide +kernel

theorem test_witness_MailboxUpdatesAndDoldrums_updates :
    let u : State := { pendingImage with mgt := { updAt := some 0 }, img := { loaded := true }, regs := (withFields [(F.MGT_UPD_CFG_AUTOCONF, 0, 1), (F.RNG_RSTAT_ADMITTED, 0, 1), (F.MGT_UPD_CFG_CONFTMO, 0, 600)]).regs, up := 600000000000 }
    (u.flag F.MGT_UPD_CFG_AUTOCONF = true ∧ u.updPending = true ∧ u.img.loaded = true ∧ u.admitted = true)
    ∧ (u.mgt.updAt = some 0 ∧ 0 + u.get F.MGT_UPD_CFG_CONFTMO * 1000000000 ≤ u.up)
    ∧ (({} : State).mgt.updAt = none ∧ ({} : State).updPending = false ∧ u.mbxPop.updPending = true) := by decide +kernel

theorem test_witness_MailboxUpdatesAndDoldrums_sessions :
    let s (d : Nat) (x : Option DldSess) (r : Option (MbxCmd × Lane) := none) : State := { withFields [(F.MGT_STAT_DOLD, 0, d)] with mgt := { sess := x, relay := r } }
    let x : DldSess := { src := .lane .e, kind := 0, slot := 1, total := 64 }
    let p (off n : Nat) : List Byte := [0x51, 0, 0, 0] ++ be 4 off ++ zeros n
    let o (kind slot total : Nat) : List Byte := [0x50, 0] ++ be 1 kind ++ be 1 slot ++ be 4 total
    (s 0 none).doldrums = false ∧ (s 1 none).doldrums = true ∧ (s 1 (some x)).mgt.sess = some x ∧ x.src ≠ .lane .w ∧ (s 1 none).mgt.sess = none
    ∧ (1 < beAt (o 2 0 1) 2 1 ∧ 1 < beAt (o 0 2 1) 3 1 ∧ beAt (o 0 0 0) 4 4 = 0 ∧ 0x100000 < beAt (o 0 0 0x100001) 4 4)
    ∧ (beAt (o 1 1 0x280000) 2 1 ≤ 1 ∧ beAt (o 1 1 0x280000) 3 1 ≤ 1 ∧ beAt (o 1 1 0x280000) 4 4 ≠ 0 ∧ beAt (o 1 1 0x280000) 4 4 ≤ 0x280000)
    ∧ ((p 0 0).drop 8 = [] ∧ 1016 < ((p 0 1017).drop 8).length ∧ x.total < beAt (p 60 5) 4 4 + ((p 60 5).drop 8).length)
    ∧ ((p 60 4).drop 8 ≠ [] ∧ ((p 60 4).drop 8).length ≤ 1016 ∧ beAt (p 60 4) 4 4 + ((p 60 4).drop 8).length ≤ x.total)
    ∧ ((s 1 none).mgt.relay = none ∧ beAt [0x54, 0] 0 1 = 0x54) := by decide +kernel

theorem test_witness_SensorsLogsAndTests :
    let s (m : MgtSt) (l : List (Fld × Nat × Nat) := []) : State := { withFields l with mgt := m }
    let f (w : Nat) : Frame := { ask .wrn 0 4 (le 4 w) with addr := fabAddr 7 1 0x120140 }
    let a (sink : Nat) : Frame := { ask .mgt 0 0 [2, 0, BitVec.ofNat 8 sink, 0] with tt := .mgt }
    let e (c : Nat) : LogEntry := [0, 0, 0, BitVec.ofNat 32 (c * 2 ^ 24), 0, 0, 0, 0]
    (beAt (a 0).pay 2 1 = 0 ∧ beAt (a 16).pay 2 1 ≠ 0)
    ∧ (({ ({} : State) with rfx := { alarms := [e 0] } } : State).rfx.alarms = [e 0] ∧ ({} : State).sinkOf 1 = (({} : State).hubNum, 0))
    ∧ (wordOf (f 256) = 256 ∧ wordOf (f 128) = 128)
    ∧ sensorLevel 0 50 0 10 90 100 = 0 ∧ sensorLevel 0 101 0 10 90 100 = 4 ∧ sensorLevel 0 95 0 10 90 100 = 2
    ∧ ((0 : Int) ≤ 10 ∧ (10 : Int) < 90 ∧ (90 : Int) ≤ 100 ∧ (10 : Int) + 16 ≤ 26 ∧ (26 : Int) ≤ 90 - 16)
    ∧ ((s {}).mgt.stage = [] ∧ (s { stage := [e 1] }).mgt.stage = e 1 :: [] ∧ bits ((e 1).getD 3 0).toNat 27 24 < 2 ∧ (s { evlCount := 4095 }).mgt.evlCount < 4096
      ∧ 4096 ≤ (s { evlCount := 4096 }).mgt.evlCount)
    ∧ (bit (wordOf (f (2 ^ 14 + 1))) 14 = true ∧ (s { test := some (1, 0) }).runningTest ≠ none ∧ (s {}).runningTest = none)
    ∧ (wordOf (f (2 ^ 14 + 8)) % 16 = 8 ∧ ((s {} [(F.MGT_STAT_MAINT, 0, 1)]).standby || (s {} [(F.MGT_STAT_MAINT, 0, 1)]).flag F.MGT_STAT_MAINT) = true)
    ∧ (wordOf (f (2 ^ 14 + 2 ^ 13 + 9 + 3 * 16)) % 16 = 9 ∧ bits (wordOf (f (2 ^ 14 + 2 ^ 13 + 9 + 3 * 16))) 11 4 = 3 ∧ bit (wordOf (f (2 ^ 14 + 2 ^ 13 + 9))) 13 = true
      ∧ ((s {}).standby || (s {}).flag F.MGT_STAT_MAINT || (s {}).flag F.MGT_STAT_LULL) = false ∧ (s { lullTests := [(9, 0), (9, 1), (9, 2)] }).mgt.lullTests.length < 4)
    ∧ (bit (wordOf (f (2 ^ 14 + 9))) 13 = false ∧ bit (wordOf (f (2 ^ 14 + 9))) 12 = false)
    ∧ ((s { test := some (1, 0) }).runningTest = some (1, 0) ∧ (s { test := some (8, 0) }).mgt.test = some (8, 0))
    ∧ ((s {} [(F.MGT_STAT_LULL, 0, 1)]).flag F.MGT_STAT_LULL = true ∧ (s {}).flag F.MGT_STAT_LULL = false ∧ (s {}).mgt.test = none) := by decide +kernel

theorem test_witness_MailboxUpdatesAndDoldrums_requests :
    let f (code : Nat) (flags : Nat := 0) : Frame := mgt ([8, BitVec.ofNat 8 flags, BitVec.ofNat 8 code, 0, 0, 2] ++ zeros 12)
    let c (code : Nat) (args : List Byte) : MbxCmd := { code := code, args := args, hub := 9, init := 4, req := some (f code) }
    let h (m : MgtSt) (l : List (Fld × Nat × Nat) := []) : State := { openHub l with mgt := m }
    let fuse (b : Nat) : State := h { mbox := [c 0x20 [0, 0, 0, 2, 7]] } [(F.CRY_FUSE_STAT_BUSY, 0, b)]
    let twin : State := { h { mbox := [c 0x13 []], fwVerified := true } [(F.TWN_STAT_ROLE, 0, 1), (F.TWN_STAT_PROLE, 0, 2), (F.Lx_LSTAT_STATE, 4, 4)] with twn := { psync := true } }
    (mgtRefused (h {}).hubNum (f 1) = false ∧ mgtRefused (h {}).hubNum { f 1 with pst := true } = true ∧ beAt (f 1).pay 1 1 = 0 ∧ beAt (f 1 1).pay 1 1 ≠ 0
      ∧ 16 + beAt (f 1).pay 4 2 ≤ (f 1).pay.length ∧ (f 1).pay.length - 1 < 16 + beAt (f 1).pay 4 2)
    ∧ (((fuse 1).mbxHead 0x20 = some (c 0x20 [0, 0, 0, 2, 7])) ∧ (fuse 1).mbxPop.flag F.CRY_FUSE_STAT_BUSY = true ∧ (fuse 0).mbxPop.flag F.CRY_FUSE_STAT_BUSY = false
      ∧ beAt (c 0x20 [0, 0, 0, 2, 7]).args 0 4 % 8 = 2)
    ∧ (twin.mbxHead 0x13 = some (c 0x13 []) ∧ twin.mbxPop.mgt.fwVerified = true
      ∧ ((twin.mbxPop.mbxAnswer (c 0x13 []) 0 0 []).activeTwin && (twin.mbxPop.mbxAnswer (c 0x13 []) 0 0 []).healthy) = true)
    ∧ ((h { mbox := [c 0x01 [1, 0]] }).mbxHead 0x01 = some (c 0x01 [1, 0]) ∧ 256 ≤ unbe (c 0x01 [1, 0]).args)
    ∧ (h { mbox := [c 0x30 [1, 0x51]], relay := some (c 0x30 [0, 0x51], .e) }).mbxPop.mgt.relay = some (c 0x30 [0, 0x51], .e) := by decide +kernel

theorem test_witness_MailboxUpdatesAndDoldrums_times :
    let u (up : Nat) : State := { pendingImage with mgt := { updAt := some 0 }, img := { loaded := true }, up := up,
                                                    regs := (withFields [(F.MGT_UPD_CFG_AUTOCONF, 0, 1), (F.RNG_RSTAT_ADMITTED, 0, 1)]).regs }
    let s (m : MgtSt) (up : Nat) : State := { withFields [(F.MGT_STAT_DOLD, 0, 1)] with mgt := m, up := up }
    let x : DldSess := { src := .lane .e, kind := 0, slot := 1, total := 64, last := 0 }
    let c : MbxCmd := { code := 0x30, args := [], hub := 9, init := 4, req := none }
    ((u 600000000000).settled = true ∧ (u 0).up < (u 0).rng.admAt + 600000000000 ∧ (u 0).updPending = true)
    ∧ ((s {} 0).doldrums = true ∧ (s {} 0).mgt.helloAt = none ∧ (s { helloAt := some 0 } 999999999).mgt.helloAt = some 0
      ∧ (s { helloAt := some 0 } 999999999).up < 0 + 1000000000 ∧ 0 + 1000000000 ≤ (s { helloAt := some 0 } 1000000000).up)
    ∧ ((s { sess := some x } 0).mgt.sess = some x ∧ x.last + 10000000000 ≤ (s { sess := some x } 10000000000).up ∧ (s { sess := some x } 9999999999).up < x.last + 10000000000)
    ∧ (s { relay := some (c, .w) } 0).mgt.relay = some (c, .w) := by decide +kernel

theorem test_witness_SensorsLogsAndTests_rows :
    let s (m : MgtSt) (l : List (Fld × Nat × Nat) := []) : State := { openHub l with mgt := m }
    let busy := s { test := some (1, 0) }
    (writes (s {}) F.MGT_EVL_STAT_CLEAR 0 (2 ^ 13) && writes (s {}) F.MGT_VLOG_STAT_CLEAR 0 (2 ^ 8) && writes (s {}) F.MGT_PLOG_STAT_CLEAR 0 (2 ^ 8 + 2 ^ 7)) = true
    ∧ (List.all [1, 2, 3, 4, 8, 9, 9 + 3 * 16, 2 ^ 13 + 9 + 3 * 16, 2 ^ 13 + 8] fun w => writes (s {}) F.MGT_ST_CTL_GO 0 (2 ^ 14 + w) && writes busy F.MGT_ST_CTL_GO 0 (2 ^ 14 + w)) = true
    ∧ (let u (w : Nat) (l : List (Fld × Nat × Nat)) : State := (s {} l).setWord 0x120140 (BitVec.ofNat 32 (w % 2 ^ 14))
       ((u 8 [(F.MGT_STAT_MAINT, 0, 1)]).standby || (u 8 [(F.MGT_STAT_MAINT, 0, 1)]).flag F.MGT_STAT_MAINT) = true
       ∧ ((u 8 []).standby || (u 8 []).flag F.MGT_STAT_MAINT || (u 8 []).flag F.MGT_STAT_LULL) = false)
    ∧ (mgtRefused (s {}).hubNum (mgt [3, 0, 16] true) = false ∧ mgtRefused (s {}).hubNum (mgt [4, 0, 0] true) = false) := by decide +kernel

theorem test_witness_SensorsLogsAndTests_lull :
    let s (up : Nat) (m : MgtSt) : State := { withFields [(F.MGT_STAT_LULL, 0, 1)] with mgt := { m with lullEnd := 1000 }, up := up }
    ((s 999 {}).up < (s 999 {}).mgt.lullEnd ∧ (s 1000 {}).mgt.lullEnd ≤ (s 1000 {}).up ∧ (s 0 {}).flag F.MGT_STAT_LULL = true ∧ (s 0 {}).mgt.test = none)
    ∧ ((s 0 { test := some (7, 0) }).mgt.test = some (7, 0) ∧ (s 0 { test := some (8, 0) }).mgt.test = some (8, 0)) := by decide +kernel

theorem test_witness_SensorsLogsAndTests_sinks :
    let e : LogEntry := [0, 0, 0, BitVec.ofNat 32 (2 * 2 ^ 24), 0, 0, 0, 0]
    let k (i : Nat) : SinkEntry := { init := i, kind := 2, hub := 9, host := 16 }
    let s : State := { ({} : State) with rfx := { alarms := List.replicate 32 e }, mgt := { stage := [e] }, img := { sinks := [k 0, k 1] } }
    (s.sinkOf 1 = (9, 16) ∧ (16 : Nat) ≠ 0 ∧ s.rfx.alarms ≠ [] ∧ s.rfx.alarms.length ≤ 32 ∧ s.sinkOf 0 = (9, 16)
      ∧ s.mgt.stage = e :: [] ∧ 2 ≤ bits (e.getD 3 0).toNat 27 24) ∧ ({} : State).sinkOf 0 = (({} : State).hubNum, 0) := by decide +kernel

theorem test_witness_SensorsLogsAndTests_levels :
    let s (l : List (Fld × Nat × Nat)) : State := withFields l
    let th : List (Fld × Nat × Nat) := [(F.MGT_SNS_THRLO_T0, 21, 0), (F.MGT_SNS_THRLO_T1, 21, 10), (F.MGT_SNS_THRHI_T0, 21, 90), (F.MGT_SNS_THRHI_T1, 21, 100)]
    let new (v : Nat) : Nat := sensorLevel ((s th).get F.MGT_SNS_VAL_LEVEL 21) (sgn 16 v) (sgn 16 ((s th).get F.MGT_SNS_THRLO_T0 21))
      (sgn 16 ((s th).get F.MGT_SNS_THRLO_T1 21)) (sgn 16 ((s th).get F.MGT_SNS_THRHI_T0 21)) (sgn 16 ((s th).get F.MGT_SNS_THRHI_T1 21))
    new 50 = 0 ∧ new 101 = 4 ∧ new 95 = 2 ∧ (s th).get F.MGT_SNS_VAL_LEVEL 21 = 0 := by decide +kernel

theorem test_witness_SensorsLogsAndTests_complete : ({ ({} : State) with mgt := { test := some (9, 3) } } : State).runningTest = some (9, 3) := by decide
/-! ### Small steps of each family, with results from the spec's words -/

/-- R336: with I at 4 ns a tick adds 4 ns. -/
theorem test_tick_adds_four_ns : State.reset.tick.ns = 4 := by decide +kernel

/-- Table 03-7: a unicast frame of this hub that comes back is removed, and counted. -/
theorem test_returned_frame_is_counted :
    (after (.ringFrameHead .e { tt := .wr, tc := 4, dst := 9, src := 7, hoplim := 5, addr := 0 })
      (withFields [(F.HUB_NODE_HUBNUM, 0, 7), (F.RNG_RSTAT_ADMITTED, 0, 1), (F.Lx_LSTAT_STATE, 0, 4)])).get F.RNG_CNT_RETURNED = 1 := by decide +kernel

/-- Table 02-4: FADD on four bytes wraps at 2^32 and leaves the byte behind them. -/
theorem test_fadd_wraps :
    Mem.readN (after (.faddOp (ask .rmw 8 4 [0, 0, 0, 1] 2)) { bulky with bulk := Mem.writeN [] 8 [0xFF, 0xFF, 0xFF, 0xFF, 7] }).bulk 8 5 = [0, 0, 0, 0, 7] := by
  decide +kernel

/-- Table 02-4: a CAS whose compare operand differs stores nothing. -/
theorem test_cas_mismatch_stores_nothing :
    (after (.casOp (ask .rmw 8 1 [1, 2] 1)) { bulky with bulk := [(8, 3)] }).bulk = [(8, 3)] := by decide +kernel

/-- R59: a posted write to a place that does not exist leaves an entry of the posted error log and no completion. -/
theorem test_posted_error_is_logged :
    let t := after (.wr (ask .wr 0x5000 0 [1] 0 true)) bulky
    t.hub.plog.length = 1 ∧ t.swc.offers = [] := by decide +kernel

/-- R216: the lock read that finds the lock free grants it; the next one does not. -/
theorem test_second_lock_read_fails :
    let t := (lockRead .epo 9 4 {}).2
    (lockRead .epo 9 4 {}).1 = 0x00040901#32 ∧ t.holds .epo 9 4 = true ∧ (lockRead .epo 3 16 t).1 = 0x00040900#32 := by decide +kernel

/-- R249: GOTO to 3 sets the PC and leaves the flags. -/
theorem test_goto : (after (.gotoOp 0) (engineAt (1 * 2 ^ 26 + 3))).get F.PEnn_PC_PC 0 = 3 := by decide +kernel

/-- R249: LOOP that reaches zero falls through and sets Z. -/
theorem test_loop_ends :
    let t := after (.loopOp 0) (engineAt (2 * 2 ^ 26 + 3) { running := true } [(F.PEnn_SA_DATA, 0, 1)])
    t.get F.PEnn_PC_PC 0 = 1 ∧ t.flag F.PEnn_CNTS_Z 0 = true ∧ t.get F.PEnn_SA_DATA 0 = 0 := by decide +kernel

/-- R248: an opcode beyond the table halts the engine with fault 2. -/
theorem test_reserved_opcode_faults : (after (.reservedOpcodeFetch 0 false) (engineAt (63 * 2 ^ 26))).get F.PEnn_STATUS_FAULT 0 = 2 := by decide +kernel

/-- R223: a pin with INV shows the other level. -/
theorem test_inverted_pin : (after (.pinFilteredEdge 9 true) (withFields [(F.FPn_CFG_INV, 9, 1)])).pinBit F.FPN_IN_PIN 9 = false := by decide +kernel

/-- R199: on ANY, a changed value becomes pending in the subscription that names the object. -/
theorem test_change_is_pending :
    let o : Obj := { type := 3, qual := 0, pub := some (0, 0, 0) }
    let s := withObj o { subs := [(0, { first := 5, count := 1, tc := 4, toHost := false, dest := 9 })], binder := [{ obj := 5, rep := .value 7 false, sec := 0, ns := 0 }] }
      [(F.EPO_PRULE_CFG_MODE, 0, 1)]
    (Tbl.find? (after .sourceUpdate s).epo.subs 0).map (fun b => b.pending.length) = some 1 := by decide +kernel

/-- R308: a character that finds the FIFO of 256 full is lost and counted. -/
theorem test_uart_overflow :
    let t := after (.uartCharRx 0 65 false false false) { withFields [(F.SPnn_CFG_EN, 0, 1)] with brg := { rx := [(0, List.replicate 256 0)] } }
    t.get F.SPnn_CNT_OVFL 0 = 1 ∧ (Tbl.getD t.brg.rx 0 []).length = 256 := by decide +kernel

/-- R353: a SETTIME with a fraction of a second of 10^9 ns is refused and leaves the time. -/
theorem test_settime_out_of_range :
    let t (ns : Nat) := setTime (withFields [(F.TIM_SET_NS_VAL, 0, ns), (F.RNG_RSTAT_MASTER, 0, 1)])
    (t (10 ^ 9)).1 = .ur ∧ (t (10 ^ 9)).2.tim.n = 0 ∧ (t (10 ^ 9 - 1)).1 = .ok ∧ (t (10 ^ 9 - 1)).2.ns = 10 ^ 9 - 1 := by decide +kernel

/-- R286: a frame without a matching object is counted. -/
theorem test_can_no_match :
    (after (.canFrameRx 3 { ide := false, id := 5, dlc := 0 } 0) { withFields [(F.CNnn_STAT_MODE_ACT, 3, 2)] with can := { chans := [(3, { integrated := true })] } }).get
      F.CNnn_CNT_NOMATCH 3 = 1 := by decide +kernel

/-- R378: a pop removes the oldest alarm. -/
theorem test_alarm_pop : (alarmPop { ({} : State) with rfx := { alarms := [[1#32], [2#32]] } }).rfx.alarms = [[2#32]] := by decide +kernel

/-- R404: MODEABT disarms the change that it names. -/
theorem test_modeabt_disarms :
    (after (.modeabt (mgt ([0x34, 0] ++ be 2 5 ++ [0, 0]) true))
      { openHub with img := { arm := some { opid := 5, mode := 1, at_ := .time 9 } } }).img.arm = none := by decide +kernel

/-- R412: an erase of a slot that is DERIVING changes nothing. -/
theorem test_erase_waits_for_derivation :
    let s (z : KeySlot) : State := { openHub [(F.UPnn_CFG_SLOTBASE, 0, 8), (F.UPnn_CFG_SLOTCNT, 0, 2)] with
      cry := { pages := [(0, { hub := 9, init := 4 })], slots := [(8, z)] } }
    let t (z : KeySlot) : State := (kdWrite (wrReg F.UPnn_KD_OP.off (2 + 8 * 256)) (s z)).2
    ((t { st := .deriving_ }).slot 8).st = .deriving_ ∧ ((t { st := .ready }).slot 8).st ≠ .ready := by decide +kernel

/-- R457: the master grants one veer at a time. -/
theorem test_one_veer_at_a_time :
    let t (g : Option Nat) : State := after (.veerreq { mgt [0x40, 0] true with src := 3 }) { openHub [(F.RNG_RSTAT_MASTER, 0, 1)] with twn := { granted := g } }
    (t (some 9)).twn.granted = some 9 ∧ (t none).twn.granted = some 3 := by decide +kernel

/-- R473: a source that has stopped is not counted again before it runs. -/
theorem test_stopped_source_counts_once :
    (after (.missingEdge 2 false) (after (.missingEdge 2 false) State.reset)).get F.CKR_CNT_MISSING = 1 := by decide +kernel

/-- R494: a trip uses one retry and goes to RETRY while retries are left. -/
theorem test_trip_goes_to_retry :
    let t := after .faultTimerExpiry { withFields [(F.PWR_STAT_FTACT, 0, 1), (F.PWR_CFG_RTY_RETRIES, 0, 3), (F.PWR_STAT_STATE, 0, 5), (F.PWR_CFG_LIM_FLTTMO, 0, 7)] with up := 700000 }
    t.pwrState = 6 ∧ t.pwr.rcnt = 1 := by decide +kernel

/-- R525: a record that finds no room is dropped. -/
theorem test_full_historian_drops :
    ((after .histRecord { withFields [(F.HST_CFG_EN, 0, 1), (F.HST_STAT_STATE, 0, 3)] with recs := [(0, { kind := 1 })] }).hst.drops).isSome = true := by decide +kernel

/-- R508: a sensor above its upper ALARM threshold shows level 4. -/
theorem test_sensor_alarm :
    (after (.sensorUpdate 0 (111 * 16) 0 true) State.reset).get F.MGT_SNS_VAL_LEVEL 0 = 4 := by decide +kernel

/-- R509: an entry of the event log leaves the stage and takes its 32 bytes. -/
theorem test_event_log_write :
    let t := after .eventLogWrite { ({} : State) with mgt := { stage := [[0x01020304#32, 0, 0, 0, 0, 0, 0, 0]] } }
    t.mgt.stage = [] ∧ t.mgt.evlCount = 1 := by decide +kernel

/-- A step takes the command at the front of the queue and keeps the rest. -/
theorem test_step_takes_the_front :
    (match step { ({} : State) with pending := [.heartbeatSend, .lullEnd] } with
      | .next t => t.pending
      | _ => []) = [.lullEnd] := by decide +kernel

/-- R57: the violation log holds 64 entries; a further violation sets OVF and adds none. -/
theorem test_violation_log_full :
    let s : State := { bulky with hub := { vlog := List.replicate 64 [] }, img := { bulky.img with regions := [] } }
    let t := after (.rd (ask .rd 0 4) []) s
    t.hub.vlog.length = 64 ∧ t.get F.MGT_VLOG_STAT_OVF = 1 := by decide +kernel

end Sys2Proof.Tests
end

/-! PROOFS. What settling a refused request leaves in the logs, what a register write answers (R8), and what a counter holds after
an event (R11). -/
namespace Sys2Proof.Machine

/-! ### The violation log across the answer of a request -/

@[simp] theorem State.sendPosted_vlog (s : State) (port : Nat) (f : Frame) : (s.sendPosted port f).hub.vlog = s.hub.vlog := by
  unfold State.sendPosted
  split <;> rfl

@[simp] theorem State.notice_vlog (s : State) (hub : Nat) (pay : List Byte) : (s.notice hub pay).hub.vlog = s.hub.vlog := by
  unfold State.notice
  dsimp only
  split
  · exact State.sendPosted_vlog _ _ _
  · rfl

@[simp] theorem State.copyLog_hub (s : State) (code : Nat) (e : LogEntry) : (s.copyLog code e).hub = s.hub := by
  unfold State.copyLog
  dsimp only
  split <;> rfl

@[simp] theorem State.noteDone_hub (s : State) (d : DoneItem) : (s.noteDone d).hub = s.hub := by
  unfold State.noteDone
  split <;> rfl

@[simp] theorem State.complete_hub (s : State) (port : Nat) (f : Frame) : (s.complete port f).hub = s.hub := by
  unfold State.complete
  split
  · rfl
  · exact State.noteDone_hub s _

/-- The answer to a request refused with VIOL enters neither log: the check that refused it has entered it (R56). -/
theorem State.answer_viol_hub (s : State) (port : Nat) (f : Frame) {a : Answer} (h : a.st = .viol) : (s.answer port f a).hub = s.hub := by
  unfold State.answer
  split
  · rw [if_pos (.inr h)]
  · exact State.complete_hub s port _

/-- A violation enters its words while the log has room, and a full log keeps what it holds (R57). -/
theorem State.violation_vlog (s : State) (f : Frame) (reason : Nat) : (s.violation f reason).hub.vlog =
    if 64 ≤ s.hub.vlog.length then s.hub.vlog else s.hub.vlog ++ [logWords s f (logLen f) reason (s.hub.vseq + 1) 0] := by
  unfold State.violation
  by_cases full : 64 ≤ s.hub.vlog.length <;> cases isNotice f <;> simp [full]

/-- A request settled with VIOL leaves the log as its violation does. -/
theorem State.settle_viol_vlog (s : State) (port : Nat) (f : Frame) {r : State.Res} (h : r.st = .viol) :
    (s.settle port f r).hub.vlog = ((s.take f).violation f r.reason).hub.vlog := by
  unfold State.settle
  dsimp only
  rw [if_pos h, State.answer_viol_hub _ _ _ h]

/-! ### A write of a register (R7, R8) -/

/-- The RWI bits of the register r that the write f would change (R8). -/
def State.fixedChange (s : State) (f : Frame) (r : RegRow) : Nat :=
  (s.shown r.off (regOff f.offset - r.off) (s.keyAt r (regOff f.offset)) r.start ^^^ wordOf f) &&& fixedMask r

section
variable {s t : State} {f : Frame} {r : RegRow} {a : State.Res}

/-- A write of a register meets R8 first, then the readiness of the block, then the register's effect. -/
theorem regWrite_eq (hr : regRow? (regOff f.offset) = some r) : regWrite f s =
    if s.fixedChange f r ≠ 0 then (some { st := .viol, reason := 3 }, s)
    else if s.blockBusy (regOff f.offset / 0x10000) then (some { st := .busy }, s)
    else writeEffect f r (s.keyAt r (regOff f.offset)) (wordOf f) (regOff f.offset - r.off) s := by
  unfold regWrite
  simp only [hr]
  rfl

theorem regWrite_of_fixedChange (hr : regRow? (regOff f.offset) = some r) (hc : s.fixedChange f r ≠ 0) :
    regWrite f s = (some { st := .viol, reason := 3 }, s) := by
  rw [regWrite_eq hr, if_pos hc]

theorem regWrite_of_noChange (hr : regRow? (regOff f.offset) = some r) (hc : s.fixedChange f r = 0)
    (hb : s.blockBusy (regOff f.offset / 0x10000) = false) :
    regWrite f s = writeEffect f r (s.keyAt r (regOff f.offset)) (wordOf f) (regOff f.offset - r.off) s := by
  rw [regWrite_eq hr, if_neg (not_not_intro hc), if_neg (by simp [hb])]

/-- A register write that passes the checks of R50 is settled with what the register file answers. -/
theorem State.Passes.registerWrite (hp : s.Passes f .reg) (hk : f.tt = .wr ∨ f.tt = .wrn) (hw : regWrite f s = (some a, t)) :
    exec (.registerWrite f) s = .next (t.settle 5 f a) := by
  change execRegisterWrite f s = _
  unfold execRegisterWrite
  rw [if_pos hk, hp.run rfl, if_pos rfl]
  simp only [performWr, hw, Target.port]

end

/-- Settles O20: the comparison with the RWI fields comes before every effect of the write. -/
theorem rwiWritesAreRefusedWhole : Obligations.RwiWritesAreRefusedWhole := by
  unfold Obligations.RwiWritesAreRefusedWhole
  intro s f r hk hp hr key fixed
  have log := s.settle_viol_vlog 5 f (r := { st := .viol, reason := 3 }) rfl
  rw [State.violation_vlog, State.take_hub] at log
  refine ⟨fun hc => ⟨hp.registerWrite hk (regWrite_of_fixedChange hr hc), fun room => ?_, fun full => ?_⟩, fun hc hb a t he => ?_⟩
  · rw [log, if_neg (Nat.not_le.mpr room)]
  · rw [log, if_pos full]
  · exact hp.registerWrite hk ((regWrite_of_noChange hr hc hb).trans he)

/-! ### Event counters (R11) -/

/-- A counter field after n events: saturating at all ones (R11). -/
theorem State.get_bumpBy_self (s : State) {f : Fld} (i n : Nat) (hh : f.hi < 32) (hl : f.lo ≤ f.hi) :
    (s.bumpBy f i n).get f i = min f.max (s.get f i + n) := by
  have fits : min f.max (s.get f i + n) < 2 ^ (f.hi + 1 - f.lo) :=
    lt_of_le_of_lt (Nat.min_le_left _ _) (Nat.sub_lt (Nat.two_pow_pos _) Nat.one_pos)
  unfold State.bumpBy
  rw [State.get_set_self s i _ hh hl, Nat.mod_eq_of_lt fits]

/-- An update of the register file changes no other part of the state. -/
theorem State.onlyIn_putRegs (s : State) (m : Map Word) : s.OnlyIn [.regs] { s with regs := m } := by
  refine ⟨rfl, fun p hp => ?_⟩
  cases p with
  | regs => exact absurd (List.mem_singleton_self _) hp
  | _ => rfl

theorem State.wordsBut_set (s : State) (f : Fld) (i v : Nat) : s.WordsBut [f.key i] (s.set f i v) :=
  fun _ hk start => State.word_setWord_ne s _ start (List.ne_of_not_mem_cons hk)

/-- Settles O6: a count is a write of the lesser of the field's greatest value and the sum. -/
theorem countersSaturate : Obligations.CountersSaturate := by
  unfold Obligations.CountersSaturate
  intro s f i hh hl
  refine ⟨fun below => ?_, fun full => ?_, s.onlyIn_putRegs _, s.wordsBut_set f i _⟩
  · rw [State.get_bump_self s i hh hl, Nat.min_eq_right below]
  · have holds (n : Nat) : (s.bumpBy f i n).get f i = f.max := by
      rw [State.get_bumpBy_self s i n hh hl, full, Nat.min_eq_left (Nat.le_add_right _ _)]
    exact ⟨holds 1, holds⟩

end Sys2Proof.Machine

/-! PROOFS. The passing of time: what a tick of CK_TIM changes (R336), and what the compare of the timed action queues leaves
alone (R264, R265). -/
namespace Sys2Proof.Tbl
variable {α β : Type}

/-- The entry of a key after a change of every value of a table. -/
theorem find?_map_val (m : Map α) (g : α → β) (i : Nat) :
    find? (m.map fun p => (p.1, g p.2)) i = (find? m i).map g := by
  induction m with
  | nil => rfl
  | cons p m ih =>
    simp only [List.map_cons, find?]
    split
    · rfl
    · exact ih

/-- A change of every value that keeps the value for an absent key commutes with reading the table. -/
theorem getD_map_val (m : Map α) (g : α → α) (i : Nat) {d : α} (hd : g d = d) :
    getD (m.map fun p => (p.1, g p.2)) i d = g (getD m i d) := by
  unfold getD
  rw [find?_map_val]
  cases find? m i with
  | none => exact hd.symm
  | some v => rfl

end Sys2Proof.Tbl

namespace Sys2Proof.Machine

/-! ### What stays the same over two changes -/

theorem Part.same_trans {p : Part} {s t u : State} (h : p.same s t) (h' : p.same t u) : p.same s u := by
  cases p <;> exact Eq.trans h' h

theorem State.onlyIn_refl (ps : List Part) (s : State) : s.OnlyIn ps s :=
  ⟨rfl, fun p _ => by cases p <;> rfl⟩

theorem State.OnlyIn.trans {ps qs : List Part} {s t u : State} (h : s.OnlyIn ps t) (h' : t.OnlyIn qs u) : s.OnlyIn (ps ++ qs) u := by
  obtain ⟨queue, rest⟩ := h
  obtain ⟨queue', rest'⟩ := h'
  refine ⟨queue'.trans queue, fun p hp => ?_⟩
  rw [List.mem_append, not_or] at hp
  exact Part.same_trans (rest p hp.1) (rest' p hp.2)

/-! ### The clock (R336) -/

/-- An update of the clock and of the up-time changes no other part of the state. It is stated for any clock: with the sum that
N becomes in its place, the kernel would unfold that sum to compare the two states. -/
theorem State.onlyIn_putClock (s : State) (c : TimSt) (u : Nat) : s.OnlyIn [.tim, .up] { s with tim := c, up := u } := by
  refine ⟨rfl, fun p hp => ?_⟩
  cases p with
  | tim | up => exact absurd hp (by decide)
  | _ => rfl

theorem State.onlyIn_timeTick (s : State) : s.OnlyIn [.tim, .up] s.timeTick := s.onlyIn_putClock _ _

theorem State.timeTick_pio (s : State) : s.timeTick.pio = s.pio := s.onlyIn_timeTick.2 .pio (by decide)

theorem State.timeTick_eng (s : State) (e : Nat) : s.timeTick.eng e = s.eng e := by
  unfold State.eng
  rw [State.timeTick_pio]

/-- N keeps its 64 bits of nanoseconds and 32 of fraction. -/
theorem State.timeTick_n_lt (s : State) : s.timeTick.tim.n < 2 ^ 96 := Nat.mod_lt _ (Nat.two_pow_pos 96)

/-- Fabric seconds and nanoseconds are the nanosecond counter in another form. -/
theorem State.sec_add_nsec (s : State) : s.sec * 10 ^ 9 + s.nsec = s.ns := Nat.div_add_mod' s.ns (10 ^ 9)

/-! ### The compare of the timed action queues (R264, R265) -/

/-- The compare of a cycle moves no entry of a queue and changes none but for its late mark. -/
theorem State.markLate_but_late (s : State) (behind : Bool) (l : List Action) :
    (s.markLate behind l).map (fun a => { a with late := false }) = l.map fun a => { a with late := false } := by
  induction l generalizing behind with
  | nil => rfl
  | cons a l ih => simp only [State.markLate, List.map_cons, ih]

/-- An engine after the compare of its timed action queue. -/
def State.compareTaq (s : State) (q : Engine) : Engine := { q with taq := s.markLate false q.taq }

/-- The state after the compare of every engine's timed action queue. -/
def State.compareTaqs (s : State) : State := s.onPio fun p => { p with eng := p.eng.map fun x => (x.1, s.compareTaq x.2) }

theorem State.compareTaqs_eng (s : State) (e : Nat) : s.compareTaqs.eng e = s.compareTaq (s.eng e) :=
  Tbl.getD_map_val s.pio.eng s.compareTaq e rfl

theorem State.onlyIn_compareTaqs (s : State) : s.OnlyIn [.pio] s.compareTaqs := by
  refine ⟨rfl, fun p hp => ?_⟩
  cases p with
  | pio => exact absurd hp (by decide)
  | _ => rfl

/-! ### A tick: the clock, then the compare -/

/-- While the engines are in reset or gated, a tick only moves the clock. -/
theorem State.tick_of_busy {s : State} (h : s.timeTick.blockBusy 6 = true) : s.tick = s.timeTick := by
  unfold State.tick
  rw [if_pos h]

/-- While the engines work, a tick moves the clock and then compares the queue of every engine. -/
theorem State.tick_of_works {s : State} (h : ¬ s.timeTick.blockBusy 6 = true) : s.tick = s.timeTick.compareTaqs := by
  unfold State.tick
  rw [if_neg h]
  rfl

/-- After its clock a tick changes the engines alone. -/
theorem State.timeTick_onlyIn_tick (s : State) : s.timeTick.OnlyIn [.pio] s.tick := by
  by_cases h : s.timeTick.blockBusy 6 = true
  · rw [State.tick_of_busy h]
    exact State.onlyIn_refl _ _
  · rw [State.tick_of_works h]
    exact s.timeTick.onlyIn_compareTaqs

theorem State.onlyIn_tick (s : State) : s.OnlyIn [.tim, .up, .pio] s.tick := s.onlyIn_timeTick.trans s.timeTick_onlyIn_tick

theorem State.tick_tim (s : State) : s.tick.tim = s.timeTick.tim := s.timeTick_onlyIn_tick.2 .tim (by decide)

theorem State.tick_up (s : State) : s.tick.up = s.timeTick.up := s.timeTick_onlyIn_tick.2 .up (by decide)

theorem State.tick_ns_lt (s : State) : s.tick.ns < 2 ^ 64 := by
  have wraps : s.tick.tim.n < 2 ^ 32 * 2 ^ 64 := s.tick_tim ▸ s.timeTick_n_lt
  exact Nat.div_lt_of_lt_mul wraps

/-- A tick changes nothing of an engine but the late marks of its timed action queue. -/
theorem State.tick_eng_but_late (s : State) (e : Nat) :
    ({ s.tick.eng e with taq := [] } : Engine) = { s.eng e with taq := [] }
    ∧ (s.tick.eng e).taq.map (fun a => { a with late := false }) = (s.eng e).taq.map fun a => { a with late := false } := by
  by_cases h : s.timeTick.blockBusy 6 = true
  · rw [State.tick_of_busy h, State.timeTick_eng]
    exact ⟨rfl, rfl⟩
  · rw [State.tick_of_works h, State.compareTaqs_eng, State.timeTick_eng]
    exact ⟨rfl, s.timeTick.markLate_but_late false (s.eng e).taq⟩

/-- Settles O7: a tick moves the clock and then, unless the engines are in reset or gated, marks late entries of their queues. -/
theorem tickAddsTheIncrement : Obligations.TickAddsTheIncrement := by
  unfold Obligations.TickAddsTheIncrement
  intro s
  refine ⟨?_, rfl, rfl, rfl, s.tick.sec_add_nsec, s.tick_ns_lt, s.tick_up, ?_, s.onlyIn_tick, fun h => ?_, s.tick_eng_but_late⟩
  · rw [State.tick_tim]
    rfl
  · rw [State.tick_tim]
    rfl
  · rw [State.tick_of_busy h, State.timeTick_pio]

end Sys2Proof.Machine

/-! PROOFS. Every command ends in a next state that leaves the queue alone and keeps the invariant (Safety.lean). -/
namespace Sys2Proof.Machine
/-- Every command ends in a next state that leaves the queue alone and keeps the invariant. -/
theorem exec_ends {q : List Instr} {s : State} (h : Kept q s) (c : Instr) : Ends q (exec c s) := by
  unfold exec
  cases c with
  | registerWrite _ => exact execRegisterWrite_kept h
  | readClear _ => exact execReadClear_kept h
  | rd _ _ => exact execRd_kept h
  | wr _ => exact execWr_kept h
  | wrn _ => exact execWrn_kept h
  | swapOp _ => exact execSwap_kept h
  | casOp _ => exact execCas_kept h
  | faddOp _ => exact execFadd_kept h
  | fandOp _ => exact execFand_kept h
  | forOp _ => exact execFor_kept h
  | fxorOp _ => exact execFxor_kept h
  | cmp _ => exact execCmp_kept h
  | completionTimeout _ _ => exact execCompletionTimeout_kept h
  | tagReserveExpiry _ _ => exact execTagReserveExpiry_kept h
  | tagWaitSend _ => exact execTagWaitSend_kept h
  | errn _ => exact execErrn_kept h
  | abortOp _ => exact execAbort_kept h
  | crd _ _ _ => exact execCrd_kept h
  | crdSend _ _ => exact execCrdSend_kept h
  | lid _ _ _ => exact execLid_kept h
  | linc _ _ => exact execLinc_kept h
  | lidLincSend _ => exact execLidLincSend_kept h
  | susp _ => exact execSusp_kept h
  | resm _ => exact execResm_kept h
  | tc0Preempt _ => exact execTc0Preempt_kept h
  | ringFrameHead _ _ => exact execRingFrameHead_kept h
  | frameVerdict _ _ _ _ => exact execFrameVerdict_kept h
  | holdTimerExpiry _ => exact execHoldTimerExpiry_kept h
  | hostFrameRx _ _ _ => exact execHostFrameRx_kept h
  | blockLockLoss _ => exact execBlockLockLoss_kept h
  | blockLockGain _ => exact execBlockLockGain_kept h
  | hiBer _ => exact execHiBer_kept h
  | qualityWindow _ _ _ _ => exact execQualityWindow_kept h
  | probationPass _ => exact execProbationPass_kept h
  | reenable _ => exact execReenable_kept h
  | hopmSend _ => exact execHopmSend_kept h
  | hopm _ _ => exact execHopm_kept h
  | fillTimeout _ => exact execFillTimeout_kept h
  | admreq _ _ => exact execAdmreq_kept h
  | admreqSend => exact execAdmreqSend_kept h
  | admitSend => exact execAdmitSend_kept h
  | admitOp _ => exact execAdmit_kept h
  | refuse _ => exact execRefuse_kept h
  | master _ => exact execMaster_kept h
  | masterBeaconSend => exact execMasterBeaconSend_kept h
  | beaconLoss => exact execBeaconLoss_kept h
  | cand _ => exact execCand_kept h
  | candSend => exact execCandSend_kept h
  | electionWin => exact execElectionWin_kept h
  | noAdmittedHub => exact execNoAdmittedHub_kept h
  | memb _ => exact execMemb_kept h
  | membSend => exact execMembSend_kept h
  | pres _ => exact execPres_kept h
  | presSend => exact execPresSend_kept h
  | positionRemoval _ => exact execPositionRemoval_kept h
  | leave _ => exact execLeave_kept h
  | dld _ _ => exact execDld_kept h
  | bypInsertWrite _ => exact execBypInsertWrite_kept h
  | insertRelease => exact execInsertRelease_kept h
  | heartbeatSend => exact execHeartbeatSend_kept h
  | heartbeatLost => exact execHeartbeatLost_kept h
  | switchIngressHead _ => exact execSwitchIngressHead_kept h
  | cellSlot _ => exact execCellSlot_kept h
  | bufferScrub _ => exact execBufferScrub_kept h
  | bufferFillDone => exact execBufferFillDone_kept h
  | localQueueRoom _ => exact execLocalQueueRoom_kept h
  | aonLink _ => exact execAonLink_kept h
  | packerUnitWrite _ => exact execPackerUnitWrite_kept h
  | packerStallRelease _ => exact execPackerStallRelease_kept h
  | packerCtTimeout _ => exact execPackerCtTimeout_kept h
  | packerFlush _ => exact execPackerFlush_kept h
  | sampleSend => exact execSampleSend_kept h
  | captureRestart _ => exact execCaptureRestart_kept h
  | shaperTick => exact execShaperTick_kept h
  | policerTick => exact execPolicerTick_kept h
  | policerAlloc _ => exact execPolicerAlloc_kept h
  | policerFree _ => exact execPolicerFree_kept h
  | sourceUpdate => exact execSourceUpdate_kept h
  | periodTimer _ => exact execPeriodTimer_kept h
  | deferredEvaluation _ => exact execDeferredEvaluation_kept h
  | staleTimeout _ => exact execStaleTimeout_kept h
  | batchTimer _ => exact execBatchTimer_kept h
  | pubFrameBuild => exact execPubFrameBuild_kept h
  | pub _ => exact execPub_kept h
  | objectScrub _ => exact execObjectScrub_kept h
  | holdChange => exact execHoldChange_kept h
  | cmdLockRead _ _ => exact execCmdLockRead_kept h
  | cmdLockTimeout _ => exact execCmdLockTimeout_kept h
  | releaseLock _ _ => exact execReleaseLock_kept h
  | subAlloc _ => exact execSubAlloc_kept h
  | subFree _ => exact execSubFree_kept h
  | snapArm _ => exact execSnapArm_kept h
  | snapCancel _ => exact execSnapCancel_kept h
  | snapshotInstant _ => exact execSnapshotInstant_kept h
  | bcopy _ => exact execBcopy_kept h
  | bcopyFrameSend => exact execBcopyFrameSend_kept h
  | snapreq _ => exact execSnapreq_kept h
  | snaparm _ => exact execSnaparm_kept h
  | snapnack _ => exact execSnapnack_kept h
  | snapreqTimeout => exact execSnapreqTimeout_kept h
  | pinFilteredEdge _ _ => exact execPinFilteredEdge_kept h
  | pinOutputChange _ _ => exact execPinOutputChange_kept h
  | readbackMismatch _ => exact execReadbackMismatch_kept h
  | pulseEnd _ => exact execPulseEnd_kept h
  | vwFrameSend _ => exact execVwFrameSend_kept h
  | vwRefresh _ => exact execVwRefresh_kept h
  | vw _ => exact execVw_kept h
  | vwApply _ => exact execVwApply_kept h
  | vwSlotTimeout _ => exact execVwSlotTimeout_kept h
  | bankSupplyLoss _ => exact execBankSupplyLoss_kept h
  | bankSupplyRestore _ => exact execBankSupplyRestore_kept h
  | nopOp _ => exact execNop_kept h
  | gotoOp _ => exact execGoto_kept h
  | loopOp _ => exact execLoop_kept h
  | caseOp _ => exact execCase_kept h
  | untilOp _ => exact execUntil_kept h
  | emitOp _ _ => exact execEmit_kept h
  | captureOp _ _ => exact execCapture_kept h
  | xchgOp _ _ => exact execXchg_kept h
  | sampleOp _ => exact execSample_kept h
  | driveOp _ => exact execDrive_kept h
  | postOp _ => exact execPost_kept h
  | fetchOp _ => exact execFetch_kept h
  | copyOp _ => exact execCopy_kept h
  | setkOp _ => exact execSetk_kept h
  | calcOp _ => exact execCalc_kept h
  | flagOp _ => exact execFlag_kept h
  | atOp _ => exact execAt_kept h
  | stopOp _ => exact execStop_kept h
  | stallRelease _ _ => exact execStallRelease_kept h
  | timedAction _ => exact execTimedAction_kept h
  | engineHalt _ => exact execEngineHalt_kept h
  | engineStart _ => exact execEngineStart_kept h
  | engineStep _ _ => exact execEngineStep_kept h
  | flushrx _ => exact execFlushrx_kept h
  | flushtx _ => exact execFlushtx_kept h
  | flushtaq _ => exact execFlushtaq_kept h
  | releaseOp _ => exact execRelease_kept h
  | gstart _ => exact execGstart_kept h
  | ghalt _ => exact execGhalt_kept h
  | sfset _ => exact execSfset_kept h
  | sfclr _ => exact execSfclr_kept h
  | txqWrite _ => exact execTxqWrite_kept h
  | rxqRead _ => exact execRxqRead_kept h
  | idataWrite _ => exact execIdataWrite_kept h
  | idataRead _ => exact execIdataRead_kept h
  | mailboxWrite _ _ _ => exact execMailboxWrite_kept h
  | taqActWrite _ => exact execTaqActWrite_kept h
  | feedWindowDrain _ => exact execFeedWindowDrain_kept h
  | canFrameRx _ _ _ => exact execCanFrameRx_kept h
  | canLockTimeout _ => exact execCanLockTimeout_kept h
  | txreq _ => exact execTxreq_kept h
  | txabort _ => exact execTxabort_kept h
  | canArbitration _ => exact execCanArbitration_kept h
  | canTxComplete _ _ => exact execCanTxComplete_kept h
  | canBusError _ _ _ _ _ _ => exact execCanBusError_kept h
  | busOff _ => exact execBusOff_kept h
  | recover _ => exact execRecover_kept h
  | recoveryComplete _ => exact execRecoveryComplete_kept h
  | canModeWrite _ => exact execCanModeWrite_kept h
  | canModeEffect _ => exact execCanModeEffect_kept h
  | busIntegration _ => exact execBusIntegration_kept h
  | abdDwellExpiry _ _ => exact execAbdDwellExpiry_kept h
  | cantxRequest => exact execCantxRequest_kept h
  | canObjAlloc _ => exact execCanObjAlloc_kept h
  | canObjFree _ => exact execCanObjFree_kept h
  | uartCharRx _ _ _ _ _ => exact execUartCharRx_kept h
  | busIdleDispatch _ => exact execBusIdleDispatch_kept h
  | farSideComplete _ _ _ => exact execFarSideComplete_kept h
  | farSideTimeout _ => exact execFarSideTimeout_kept h
  | prefetchAge _ => exact execPrefetchAge_kept h
  | pollDue _ => exact execPollDue_kept h
  | bridgeSinkWrite => exact execBridgeSinkWrite_kept h
  | dlogClear _ => exact execDlogClear_kept h
  | tsyncSend => exact execTsyncSend_kept h
  | tsync _ _ => exact execTsync_kept h
  | syncLossHoldover => exact execSyncLossHoldover_kept h
  | timeRingSwitch => exact execTimeRingSwitch_kept h
  | tgmrSend _ => exact execTgmrSend_kept h
  | tgmr _ => exact execTgmr_kept h
  | ptpSync _ _ _ => exact execPtpSync_kept h
  | ptpFollowUp _ _ => exact execPtpFollowUp_kept h
  | ptpDelayReq _ _ _ => exact execPtpDelayReq_kept h
  | ptpDelayResp _ _ _ => exact execPtpDelayResp_kept h
  | ptpPdelayReq _ _ _ => exact execPtpPdelayReq_kept h
  | ptpPdelayResp _ _ _ _ => exact execPtpPdelayResp_kept h
  | ptpPdelayRespFollowUp _ _ => exact execPtpPdelayRespFollowUp_kept h
  | ptpAnnounce _ _ => exact execPtpAnnounce_kept h
  | ptpDiscard => exact execPtpDiscard_kept h
  | ptpSyncSend _ => exact execPtpSyncSend_kept h
  | announceTimeout _ => exact execAnnounceTimeout_kept h
  | relock _ => exact execRelock_kept h
  | latchOp _ => exact execLatch_kept h
  | settime _ => exact execSettime_kept h
  | phaseLocalEvent _ => exact execPhaseLocalEvent_kept h
  | phevSend _ => exact execPhevSend_kept h
  | phev _ => exact execPhev_kept h
  | phaseStall _ => exact execPhaseStall_kept h
  | sweep => exact execSweep_kept h
  | extraSweep => exact execExtraSweep_kept h
  | deferredSweep => exact execDeferredSweep_kept h
  | latchClear _ => exact execLatchClear_kept h
  | almPop _ => exact execAlmPop_kept h
  | imageLoad _ => exact execImageLoad_kept h
  | stagingOpen _ => exact execStagingOpen_kept h
  | stagingClose _ => exact execStagingClose_kept h
  | verifyOp _ => exact execVerify_kept h
  | activate _ => exact execActivate_kept h
  | ovcopy _ => exact execOvcopy_kept h
  | modeRequest _ => exact execModeRequest_kept h
  | modereq _ => exact execModereq_kept h
  | modearm _ => exact execModearm_kept h
  | modeack _ => exact execModeack_kept h
  | modeDeadline => exact execModeDeadline_kept h
  | modego _ => exact execModego_kept h
  | modeabt _ => exact execModeabt_kept h
  | moderes _ => exact execModeres_kept h
  | modeqry _ => exact execModeqry_kept h
  | modestat _ => exact execModestat_kept h
  | modestatSend => exact execModestatSend_kept h
  | overlayInstant => exact execOverlayInstant_kept h
  | modeLateApply => exact execModeLateApply_kept h
  | modeInstantNoGo => exact execModeInstantNoGo_kept h
  | settingsStore _ => exact execSettingsStore_kept h
  | storeDone => exact execStoreDone_kept h
  | settingsErase _ => exact execSettingsErase_kept h
  | scheduleDue _ => exact execScheduleDue_kept h
  | keyDerive _ => exact execKeyDerive_kept h
  | keyErase _ => exact execKeyErase_kept h
  | derivationDone _ => exact execDerivationDone_kept h
  | laGo _ => exact execLaGo_kept h
  | laJobStart => exact execLaJobStart_kept h
  | laJobEnd _ _ => exact execLaJobEnd_kept h
  | ctxSave _ => exact execCtxSave_kept h
  | ctxRestore _ => exact execCtxRestore_kept h
  | pageAlloc _ => exact execPageAlloc_kept h
  | pageFree _ => exact execPageFree_kept h
  | epochRotate _ => exact execEpochRotate_kept h
  | epochPeriod _ => exact execEpochPeriod_kept h
  | squall _ => exact execSquall_kept h
  | tamperSample _ => exact execTamperSample_kept h
  | pgmFleet _ => exact execPgmFleet_kept h
  | pgmImgkey _ => exact execPgmImgkey_kept h
  | revokeImgkey _ => exact execRevokeImgkey_kept h
  | revokeJk0 _ => exact execRevokeJk0_kept h
  | readImgkey _ => exact execReadImgkey_kept h
  | fuseDone _ => exact execFuseDone_kept h
  | tws _ => exact execTws_kept h
  | twsSend => exact execTwsSend_kept h
  | orign _ => exact execOrign_kept h
  | done _ _ _ => exact execDone_kept h
  | lhist _ _ _ => exact execLhist_kept h
  | hostf _ => exact execHostf_kept h
  | syncRestore => exact execSyncRestore_kept h
  | sequencerMismatch => exact execSequencerMismatch_kept h
  | twnFail _ => exact execTwnFail_kept h
  | partnerFail _ _ _ => exact execPartnerFail_kept h
  | partnerActive => exact execPartnerActive_kept h
  | roleDecide _ _ => exact execRoleDecide_kept h
  | doubleActive => exact execDoubleActive_kept h
  | veer _ => exact execVeer_kept h
  | veerreq _ => exact execVeerreq_kept h
  | veergo _ => exact execVeergo_kept h
  | veerno _ => exact execVeerno_kept h
  | veerBusIdle _ _ _ => exact execVeerBusIdle_kept h
  | veerdone _ => exact execVeerdone_kept h
  | revertTimer => exact execRevertTimer_kept h
  | cutTransactionRedo _ => exact execCutTransactionRedo_kept h
  | refChange _ => exact execRefChange_kept h
  | refMeasureDone _ => exact execRefMeasureDone_kept h
  | sparePllLock _ => exact execSparePllLock_kept h
  | domainMove _ => exact execDomainMove_kept h
  | missingEdge _ _ => exact execMissingEdge_kept h
  | sourceRunning _ => exact execSourceRunning_kept h
  | gateRequest _ => exact execGateRequest_kept h
  | gateAck _ => exact execGateAck_kept h
  | gateTimeout _ => exact execGateTimeout_kept h
  | gateClear _ => exact execGateClear_kept h
  | warmReset _ => exact execWarmReset_kept h
  | coldReset _ => exact execColdReset_kept h
  | hrst => exact execHrst_kept h
  | resetPreludeEnd _ => exact execResetPreludeEnd_kept h
  | blockReset _ => exact execBlockReset_kept h
  | blockResetDone _ => exact execBlockResetDone_kept h
  | hubDiePowerGood _ => exact execHubDiePowerGood_kept h
  | vinEnterWindow => exact execVinEnterWindow_kept h
  | vinLeaveWindow _ => exact execVinLeaveWindow_kept h
  | insertionDelayEnd => exact execInsertionDelayEnd_kept h
  | prechargeEnd => exact execPrechargeEnd_kept h
  | prechargeTimeout => exact execPrechargeTimeout_kept h
  | gateFullyOn => exact execGateFullyOn_kept h
  | pgQualified => exact execPgQualified_kept h
  | overcurrent => exact execOvercurrent_kept h
  | faultTimerIdle _ => exact execFaultTimerIdle_kept h
  | faultTimerExpiry => exact execFaultTimerExpiry_kept h
  | retryTimerExpiry => exact execRetryTimerExpiry_kept h
  | rcntClear => exact execRcntClear_kept h
  | vauxLoss => exact execVauxLoss_kept h
  | vauxReturn => exact execVauxReturn_kept h
  | holdCollapse => exact execHoldCollapse_kept h
  | railOutOfLimits => exact execRailOutOfLimits_kept h
  | hdpgAssert => exact execHdpgAssert_kept h
  | snsRead => exact execSnsRead_kept h
  | fwOpen => exact execFwOpen_kept h
  | fwWrite => exact execFwWrite_kept h
  | fwVerify => exact execFwVerify_kept h
  | fwActivate => exact execFwActivate_kept h
  | confirm => exact execConfirm_kept h
  | mbxFuse _ => exact execMbxFuse_kept h
  | dldRelay => exact execDldRelay_kept h
  | mbox _ => exact execMbox_kept h
  | watchdogExpiry => exact execWatchdogExpiry_kept h
  | lockstepError => exact execLockstepError_kept h
  | alarmDrain => exact execAlarmDrain_kept h
  | almn _ => exact execAlmn_kept h
  | evtn _ => exact execEvtn_kept h
  | sensorUpdate _ _ _ _ => exact execSensorUpdate_kept h
  | eventLogWrite => exact execEventLogWrite_kept h
  | evlClear _ => exact execEvlClear_kept h
  | vlogClear _ => exact execVlogClear_kept h
  | plogClear _ => exact execPlogClear_kept h
  | stScrub _ => exact execStScrub_kept h
  | stEye _ => exact execStEye_kept h
  | stClkmon _ => exact execStClkmon_kept h
  | stKat _ => exact execStKat_kept h
  | stPadrb _ => exact execStPadrb_kept h
  | stMbist _ => exact execStMbist_kept h
  | testComplete _ _ => exact execTestComplete_kept h
  | lullEnd => exact execLullEnd_kept h
  | autoconf => exact execAutoconf_kept h
  | confTimeout => exact execConfTimeout_kept h
  | helloSend => exact execHelloSend_kept h
  | hello _ _ => exact execHello_kept h
  | dldOpen _ _ => exact execDldOpen_kept h
  | dldData _ _ => exact execDldData_kept h
  | dldEnd _ => exact execDldEnd_kept h
  | dldStatus _ _ => exact execDldStatus_kept h
  | dldSessionTimeout => exact execDldSessionTimeout_kept h
  | histRecord => exact execHistRecord_kept h
  | pageFlushTimeout => exact execPageFlushTimeout_kept h
  | pageProgramDone _ => exact execPageProgramDone_kept h
  | blockEraseDone _ => exact execBlockEraseDone_kept h
  | hstMount _ _ _ _ _ => exact execHstMount_kept h
  | hstFlush _ => exact execHstFlush_kept h
  | hstMark _ => exact execHstMark_kept h
  | hstFormat _ => exact execHstFormat_kept h
  | hstResume _ => exact execHstResume_kept h
  | blockScrub _ _ _ _ _ => exact execBlockScrub_kept h
  | patrolScrub _ _ _ _ _ => exact execPatrolScrub_kept h
  | replSend _ => exact execReplSend_kept h
  | reservedOpcodeFetch _ _ => exact execReservedOpcodeFetch_kept h
  | tgmrTimeout _ => exact execTgmrTimeout_kept h
  | bypassSettleEnd => exact execBypassSettleEnd_kept h
  | nandPageReadDone _ _ => exact execNandPageReadDone_kept h
  | stagingCommandDone => exact execStagingCommandDone_kept h
  | sequenceOrderedSet _ => exact execSequenceOrderedSet_kept h
  | strayBlock _ => exact execStrayBlock_kept h
/-- Settles O4: the lemma of each command gives its next state. -/
theorem everyCommandCompletes : Obligations.EveryCommandCompletes := by
  unfold Obligations.EveryCommandCompletes
  intro c s inv
  obtain ⟨t, ends, queue, -⟩ := exec_ends ⟨rfl, inv⟩ c
  exact ⟨t, ends, queue⟩

/-- Settles O2: a step is a command on the queue's rest, or a tick. -/
theorem stepKeepsInvariant : Obligations.StepKeepsInvariant := by
  unfold Obligations.StepKeepsInvariant
  intro s t inv he
  unfold step at he
  split at he
  · rename_i c rest _
    obtain ⟨u, ends, -, keeps⟩ := exec_ends (s := { s with pending := rest }) ⟨rfl, { inv with }⟩ c
    cases ends.symm.trans he
    exact keeps
  · cases he
    exact (State.tick_kept ⟨rfl, inv⟩).2
end Sys2Proof.Machine

/-! PROOFS. Rules of the frame: which updates of a state stay within a list of its parts, which leave the register words alone, and
what a read of a register field gives after an update of something else. -/
namespace Sys2Proof.Machine

/-! ### Nothing but the listed parts differs -/

theorem Part.same_symm {p : Part} {s t : State} (h : p.same s t) : p.same t s := by
  cases p <;> exact Eq.symm h

theorem State.OnlyIn.symm {ps : List Part} {s t : State} (h : s.OnlyIn ps t) : t.OnlyIn ps s :=
  ⟨h.1.symm, fun p hp => Part.same_symm (h.2 p hp)⟩

theorem State.OnlyIn.mono {ps qs : List Part} {s t : State} (h : s.OnlyIn ps t) (sub : ps ⊆ qs) : s.OnlyIn qs t :=
  ⟨h.1, fun p hp => h.2 p fun mem => hp (sub mem)⟩

/-- Two changes that each stay within the listed parts stay within them together. -/
theorem State.OnlyIn.andThen {ps : List Part} {s t u : State} (h : s.OnlyIn ps t) (h' : t.OnlyIn ps u) : s.OnlyIn ps u :=
  (h.trans h').mono (by simp)

/-- A change within the listed parts does not matter to what stays within them. -/
theorem State.OnlyIn.absorb {ps qs : List Part} {t u : State} (h : t.OnlyIn qs u) (sub : qs ⊆ ps) (s : State) :
    s.OnlyIn ps u ↔ s.OnlyIn ps t :=
  ⟨fun k => k.andThen (h.mono sub).symm, fun k => k.andThen (h.mono sub)⟩

/-- One part differs: the queue and every other part are the same. -/
theorem State.onlyIn_part {p : Part} {s t : State} (queue : t.pending = s.pending) (rest : ∀ q, q ≠ p → q.same s t) :
    s.OnlyIn [p] t := ⟨queue, fun q hq => rest q fun e => hq (e ▸ List.mem_singleton_self _)⟩

theorem State.OnlyIn.absorb_part {ps : List Part} {p : Part} {t u : State} (h : t.OnlyIn [p] u) (mem : p ∈ ps) (s : State) :
    s.OnlyIn ps u ↔ s.OnlyIn ps t := 
  h.absorb (fun _ hq => List.mem_singleton.mp hq ▸ mem) s

section
variable {ps : List Part} {t : State}

theorem State.onlyIn_put_imgRegs (t : State) (x : Map Word) : t.OnlyIn [.imgRegs] { t with imgRegs := x } :=
  onlyIn_part rfl fun q hq => by
    cases q with
    | imgRegs => exact absurd rfl hq
    | _ => rfl

theorem State.onlyIn_put_hub (t : State) (x : HubSt) : t.OnlyIn [.hub] { t with hub := x } :=
  onlyIn_part rfl fun q hq => by
    cases q with
    | hub => exact absurd rfl hq
    | _ => rfl

theorem State.onlyIn_put_rng (t : State) (x : RngSt) : t.OnlyIn [.rng] { t with rng := x } :=
  onlyIn_part rfl fun q hq => by
    cases q with
    | rng => exact absurd rfl hq
    | _ => rfl

theorem State.onlyIn_put_swc (t : State) (x : SwcSt) : t.OnlyIn [.swc] { t with swc := x } :=
  onlyIn_part rfl fun q hq => by
    cases q with
    | swc => exact absurd rfl hq
    | _ => rfl

theorem State.onlyIn_put_tmq (t : State) (x : TmqSt) : t.OnlyIn [.tmq] { t with tmq := x } :=
  onlyIn_part rfl fun q hq => by
    cases q with
    | tmq => exact absurd rfl hq
    | _ => rfl

theorem State.onlyIn_put_tim (t : State) (x : TimSt) : t.OnlyIn [.tim] { t with tim := x } :=
  onlyIn_part rfl fun q hq => by
    cases q with
    | tim => exact absurd rfl hq
    | _ => rfl

theorem State.onlyIn_put_mgt (t : State) (x : MgtSt) : t.OnlyIn [.mgt] { t with mgt := x } :=
  onlyIn_part rfl fun q hq => by
    cases q with
    | mgt => exact absurd rfl hq
    | _ => rfl

theorem State.onlyIn_put_img (t : State) (x : ImgSt) : t.OnlyIn [.img] { t with img := x } :=
  onlyIn_part rfl fun q hq => by
    cases q with
    | img => exact absurd rfl hq
    | _ => rfl

theorem State.onlyIn_put_cry (t : State) (x : CrySt) : t.OnlyIn [.cry] { t with cry := x } :=
  onlyIn_part rfl fun q hq => by
    cases q with
    | cry => exact absurd rfl hq
    | _ => rfl

theorem State.onlyIn_put_epo (t : State) (x : EpoSt) : t.OnlyIn [.epo] { t with epo := x } :=
  onlyIn_part rfl fun q hq => by
    cases q with
    | epo => exact absurd rfl hq
    | _ => rfl

theorem State.onlyIn_put_phs (t : State) (x : Map PhRef) : t.OnlyIn [.phs] { t with phs := x } :=
  onlyIn_part rfl fun q hq => by
    cases q with
    | phs => exact absurd rfl hq
    | _ => rfl

theorem State.onlyIn_put_pio (t : State) (x : PioSt) : t.OnlyIn [.pio] { t with pio := x } :=
  onlyIn_part rfl fun q hq => by
    cases q with
    | pio => exact absurd rfl hq
    | _ => rfl

theorem State.onlyIn_put_fpn (t : State) (x : FpnSt) : t.OnlyIn [.fpn] { t with fpn := x } :=
  onlyIn_part rfl fun q hq => by
    cases q with
    | fpn => exact absurd rfl hq
    | _ => rfl

theorem State.onlyIn_put_twn (t : State) (x : TwnSt) : t.OnlyIn [.twn] { t with twn := x } :=
  onlyIn_part rfl fun q hq => by
    cases q with
    | twn => exact absurd rfl hq
    | _ => rfl

theorem State.onlyIn_put_can (t : State) (x : CanSt) : t.OnlyIn [.can] { t with can := x } :=
  onlyIn_part rfl fun q hq => by
    cases q with
    | can => exact absurd rfl hq
    | _ => rfl

theorem State.onlyIn_put_brg (t : State) (x : BrgSt) : t.OnlyIn [.brg] { t with brg := x } :=
  onlyIn_part rfl fun q hq => by
    cases q with
    | brg => exact absurd rfl hq
    | _ => rfl

theorem State.onlyIn_put_rfx (t : State) (x : RfxSt) : t.OnlyIn [.rfx] { t with rfx := x } :=
  onlyIn_part rfl fun q hq => by
    cases q with
    | rfx => exact absurd rfl hq
    | _ => rfl

theorem State.onlyIn_put_ckr (t : State) (x : CkrSt) : t.OnlyIn [.ckr] { t with ckr := x } :=
  onlyIn_part rfl fun q hq => by
    cases q with
    | ckr => exact absurd rfl hq
    | _ => rfl

theorem State.onlyIn_put_pwr (t : State) (x : PwrSt) : t.OnlyIn [.pwr] { t with pwr := x } :=
  onlyIn_part rfl fun q hq => by
    cases q with
    | pwr => exact absurd rfl hq
    | _ => rfl

theorem State.onlyIn_put_hst (t : State) (x : HstSt) : t.OnlyIn [.hst] { t with hst := x } :=
  onlyIn_part rfl fun q hq => by
    cases q with
    | hst => exact absurd rfl hq
    | _ => rfl

theorem State.onlyIn_put_locks (t : State) (x : Map LockSt) : t.OnlyIn [.locks] { t with locks := x } :=
  onlyIn_part rfl fun q hq => by
    cases q with
    | locks => exact absurd rfl hq
    | _ => rfl

theorem State.onlyIn_put_recs (t : State) (x : List (Nat × HistRec)) : t.OnlyIn [.recs] { t with recs := x } :=
  onlyIn_part rfl fun q hq => by
    cases q with
    | recs => exact absurd rfl hq
    | _ => rfl

theorem State.onlyIn_put_bulk (t : State) (x : Mem) : t.OnlyIn [.bulk] { t with bulk := x } :=
  onlyIn_part rfl fun q hq => by
    cases q with
    | bulk => exact absurd rfl hq
    | _ => rfl

theorem State.onlyIn_put_nvm (t : State) (x : Mem) : t.OnlyIn [.nvm] { t with nvm := x } :=
  onlyIn_part rfl fun q hq => by
    cases q with
    | nvm => exact absurd rfl hq
    | _ => rfl

theorem State.onlyIn_put_inbox (t : State) (x : List (Nat × Frame)) : t.OnlyIn [.inbox] { t with inbox := x } :=
  onlyIn_part rfl fun q hq => by
    cases q with
    | inbox => exact absurd rfl hq
    | _ => rfl

theorem State.onlyIn_put_out (t : State) (x : List Emit) : t.OnlyIn [.out] { t with out := x } :=
  onlyIn_part rfl fun q hq => by
    cases q with
    | out => exact absurd rfl hq
    | _ => rfl

theorem State.onlyIn_put_up (t : State) (x : Nat) : t.OnlyIn [.up] { t with up := x } :=
  onlyIn_part rfl fun q hq => by
    cases q with
    | up => exact absurd rfl hq
    | _ => rfl

theorem State.onlyIn_put_free (t : State) (x : Nat) : t.OnlyIn [.free] { t with free := x } :=
  onlyIn_part rfl fun q hq => by
    cases q with
    | free => exact absurd rfl hq
    | _ => rfl

theorem State.OnlyIn.put_imgRegs {s : State} (h : s.OnlyIn ps t) (x : Map Word) (mem : .imgRegs ∈ ps) : s.OnlyIn ps { t with imgRegs := x } :=
  ((t.onlyIn_put_imgRegs x).absorb_part mem s).mpr h

theorem State.OnlyIn.put_hub {s : State} (h : s.OnlyIn ps t) (x : HubSt) (mem : .hub ∈ ps) : s.OnlyIn ps { t with hub := x } :=
  ((t.onlyIn_put_hub x).absorb_part mem s).mpr h

theorem State.OnlyIn.put_rng {s : State} (h : s.OnlyIn ps t) (x : RngSt) (mem : .rng ∈ ps) : s.OnlyIn ps { t with rng := x } :=
  ((t.onlyIn_put_rng x).absorb_part mem s).mpr h

theorem State.OnlyIn.put_swc {s : State} (h : s.OnlyIn ps t) (x : SwcSt) (mem : .swc ∈ ps) : s.OnlyIn ps { t with swc := x } :=
  ((t.onlyIn_put_swc x).absorb_part mem s).mpr h

theorem State.OnlyIn.put_tmq {s : State} (h : s.OnlyIn ps t) (x : TmqSt) (mem : .tmq ∈ ps) : s.OnlyIn ps { t with tmq := x } :=
  ((t.onlyIn_put_tmq x).absorb_part mem s).mpr h

theorem State.OnlyIn.put_tim {s : State} (h : s.OnlyIn ps t) (x : TimSt) (mem : .tim ∈ ps) : s.OnlyIn ps { t with tim := x } :=
  ((t.onlyIn_put_tim x).absorb_part mem s).mpr h

theorem State.OnlyIn.put_mgt {s : State} (h : s.OnlyIn ps t) (x : MgtSt) (mem : .mgt ∈ ps) : s.OnlyIn ps { t with mgt := x } :=
  ((t.onlyIn_put_mgt x).absorb_part mem s).mpr h

theorem State.OnlyIn.put_img {s : State} (h : s.OnlyIn ps t) (x : ImgSt) (mem : .img ∈ ps) : s.OnlyIn ps { t with img := x } :=
  ((t.onlyIn_put_img x).absorb_part mem s).mpr h

theorem State.OnlyIn.put_cry {s : State} (h : s.OnlyIn ps t) (x : CrySt) (mem : .cry ∈ ps) : s.OnlyIn ps { t with cry := x } :=
  ((t.onlyIn_put_cry x).absorb_part mem s).mpr h

theorem State.OnlyIn.put_epo {s : State} (h : s.OnlyIn ps t) (x : EpoSt) (mem : .epo ∈ ps) : s.OnlyIn ps { t with epo := x } :=
  ((t.onlyIn_put_epo x).absorb_part mem s).mpr h

theorem State.OnlyIn.put_phs {s : State} (h : s.OnlyIn ps t) (x : Map PhRef) (mem : .phs ∈ ps) : s.OnlyIn ps { t with phs := x } :=
  ((t.onlyIn_put_phs x).absorb_part mem s).mpr h

theorem State.OnlyIn.put_pio {s : State} (h : s.OnlyIn ps t) (x : PioSt) (mem : .pio ∈ ps) : s.OnlyIn ps { t with pio := x } :=
  ((t.onlyIn_put_pio x).absorb_part mem s).mpr h

theorem State.OnlyIn.put_fpn {s : State} (h : s.OnlyIn ps t) (x : FpnSt) (mem : .fpn ∈ ps) : s.OnlyIn ps { t with fpn := x } :=
  ((t.onlyIn_put_fpn x).absorb_part mem s).mpr h

theorem State.OnlyIn.put_twn {s : State} (h : s.OnlyIn ps t) (x : TwnSt) (mem : .twn ∈ ps) : s.OnlyIn ps { t with twn := x } :=
  ((t.onlyIn_put_twn x).absorb_part mem s).mpr h

theorem State.OnlyIn.put_can {s : State} (h : s.OnlyIn ps t) (x : CanSt) (mem : .can ∈ ps) : s.OnlyIn ps { t with can := x } :=
  ((t.onlyIn_put_can x).absorb_part mem s).mpr h

theorem State.OnlyIn.put_brg {s : State} (h : s.OnlyIn ps t) (x : BrgSt) (mem : .brg ∈ ps) : s.OnlyIn ps { t with brg := x } :=
  ((t.onlyIn_put_brg x).absorb_part mem s).mpr h

theorem State.OnlyIn.put_rfx {s : State} (h : s.OnlyIn ps t) (x : RfxSt) (mem : .rfx ∈ ps) : s.OnlyIn ps { t with rfx := x } :=
  ((t.onlyIn_put_rfx x).absorb_part mem s).mpr h

theorem State.OnlyIn.put_ckr {s : State} (h : s.OnlyIn ps t) (x : CkrSt) (mem : .ckr ∈ ps) : s.OnlyIn ps { t with ckr := x } :=
  ((t.onlyIn_put_ckr x).absorb_part mem s).mpr h

theorem State.OnlyIn.put_pwr {s : State} (h : s.OnlyIn ps t) (x : PwrSt) (mem : .pwr ∈ ps) : s.OnlyIn ps { t with pwr := x } :=
  ((t.onlyIn_put_pwr x).absorb_part mem s).mpr h

theorem State.OnlyIn.put_hst {s : State} (h : s.OnlyIn ps t) (x : HstSt) (mem : .hst ∈ ps) : s.OnlyIn ps { t with hst := x } :=
  ((t.onlyIn_put_hst x).absorb_part mem s).mpr h

theorem State.OnlyIn.put_locks {s : State} (h : s.OnlyIn ps t) (x : Map LockSt) (mem : .locks ∈ ps) : s.OnlyIn ps { t with locks := x } :=
  ((t.onlyIn_put_locks x).absorb_part mem s).mpr h

theorem State.OnlyIn.put_recs {s : State} (h : s.OnlyIn ps t) (x : List (Nat × HistRec)) (mem : .recs ∈ ps) : s.OnlyIn ps { t with recs := x } :=
  ((t.onlyIn_put_recs x).absorb_part mem s).mpr h

theorem State.OnlyIn.put_bulk {s : State} (h : s.OnlyIn ps t) (x : Mem) (mem : .bulk ∈ ps) : s.OnlyIn ps { t with bulk := x } :=
  ((t.onlyIn_put_bulk x).absorb_part mem s).mpr h

theorem State.OnlyIn.put_nvm {s : State} (h : s.OnlyIn ps t) (x : Mem) (mem : .nvm ∈ ps) : s.OnlyIn ps { t with nvm := x } :=
  ((t.onlyIn_put_nvm x).absorb_part mem s).mpr h

theorem State.OnlyIn.put_inbox {s : State} (h : s.OnlyIn ps t) (x : List (Nat × Frame)) (mem : .inbox ∈ ps) : s.OnlyIn ps { t with inbox := x } :=
  ((t.onlyIn_put_inbox x).absorb_part mem s).mpr h

theorem State.OnlyIn.put_out {s : State} (h : s.OnlyIn ps t) (x : List Emit) (mem : .out ∈ ps) : s.OnlyIn ps { t with out := x } :=
  ((t.onlyIn_put_out x).absorb_part mem s).mpr h

theorem State.OnlyIn.put_up {s : State} (h : s.OnlyIn ps t) (x : Nat) (mem : .up ∈ ps) : s.OnlyIn ps { t with up := x } :=
  ((t.onlyIn_put_up x).absorb_part mem s).mpr h

theorem State.OnlyIn.put_free {s : State} (h : s.OnlyIn ps t) (x : Nat) (mem : .free ∈ ps) : s.OnlyIn ps { t with free := x } :=
  ((t.onlyIn_put_free x).absorb_part mem s).mpr h

/-! An update within the listed parts, by its operation. -/

@[simp] theorem State.onlyIn_set (s : State) (f : Fld) (i v : Nat) (h : .regs ∈ ps) :
    s.OnlyIn ps (t.set f i v) ↔ s.OnlyIn ps t := (t.onlyIn_putRegs _).absorb_part h s

@[simp] theorem State.onlyIn_setB (s : State) (f : Fld) (i : Nat) (b : Bool) (h : .regs ∈ ps) :
    s.OnlyIn ps (t.setB f i b) ↔ s.OnlyIn ps t := (t.onlyIn_putRegs _).absorb_part h s

@[simp] theorem State.onlyIn_setWord (s : State) (k : Nat) (w : Word) (h : .regs ∈ ps) :
    s.OnlyIn ps (t.setWord k w) ↔ s.OnlyIn ps t := (t.onlyIn_putRegs _).absorb_part h s

@[simp] theorem State.onlyIn_bump (s : State) (f : Fld) (i : Nat) (h : .regs ∈ ps) :
    s.OnlyIn ps (t.bump f i) ↔ s.OnlyIn ps t := (t.onlyIn_putRegs _).absorb_part h s

@[simp] theorem State.onlyIn_bumpBy (s : State) (f : Fld) (i n : Nat) (h : .regs ∈ ps) :
    s.OnlyIn ps (t.bumpBy f i n) ↔ s.OnlyIn ps t := (t.onlyIn_putRegs _).absorb_part h s

@[simp] theorem State.onlyIn_setPinBit (s : State) (f : Fld) (i : Nat) (b : Bool) (h : .regs ∈ ps) :
    s.OnlyIn ps (t.setPinBit f i b) ↔ s.OnlyIn ps t := (t.onlyIn_putRegs _).absorb_part h s

@[simp] theorem State.onlyIn_clearRegs (s : State) (b : Nat) (k : Nat → Bool) (h : .regs ∈ ps) :
    s.OnlyIn ps (t.clearRegs b k) ↔ s.OnlyIn ps t := (t.onlyIn_putRegs _).absorb_part h s

@[simp] theorem State.onlyIn_emit (s : State) (e : Emit) (h : .out ∈ ps) :
    s.OnlyIn ps (t.emit e) ↔ s.OnlyIn ps t := (t.onlyIn_put_out _).absorb_part h s

@[simp] theorem State.onlyIn_deliver (s : State) (u : Nat) (f : Frame) (h : .inbox ∈ ps) :
    s.OnlyIn ps (t.deliver u f) ↔ s.OnlyIn ps t := (t.onlyIn_put_inbox _).absorb_part h s

@[simp] theorem State.onlyIn_take (s : State) (f : Frame) (h : .inbox ∈ ps) :
    s.OnlyIn ps (t.take f) ↔ s.OnlyIn ps t := (t.onlyIn_put_inbox _).absorb_part h s

@[simp] theorem State.onlyIn_offer (s : State) (port : Nat) (f : Frame) (h : .swc ∈ ps) :
    s.OnlyIn ps (t.offer port f) ↔ s.OnlyIn ps t := (t.onlyIn_put_swc _).absorb_part h s

@[simp] theorem State.onlyIn_record (s : State) (p : Nat) (r : HistRec) (h : .recs ∈ ps) :
    s.OnlyIn ps (t.record p r) ↔ s.OnlyIn ps t := (t.onlyIn_put_recs _).absorb_part h s

@[simp] theorem State.onlyIn_onHub (s : State) (g : HubSt → HubSt) (h : .hub ∈ ps) :
    s.OnlyIn ps (t.onHub g) ↔ s.OnlyIn ps t := (t.onlyIn_put_hub _).absorb_part h s

@[simp] theorem State.onlyIn_onRng (s : State) (g : RngSt → RngSt) (h : .rng ∈ ps) :
    s.OnlyIn ps (t.onRng g) ↔ s.OnlyIn ps t := (t.onlyIn_put_rng _).absorb_part h s

@[simp] theorem State.onlyIn_onSwc (s : State) (g : SwcSt → SwcSt) (h : .swc ∈ ps) :
    s.OnlyIn ps (t.onSwc g) ↔ s.OnlyIn ps t := (t.onlyIn_put_swc _).absorb_part h s

@[simp] theorem State.onlyIn_onTmq (s : State) (g : TmqSt → TmqSt) (h : .tmq ∈ ps) :
    s.OnlyIn ps (t.onTmq g) ↔ s.OnlyIn ps t := (t.onlyIn_put_tmq _).absorb_part h s

@[simp] theorem State.onlyIn_onTim (s : State) (g : TimSt → TimSt) (h : .tim ∈ ps) :
    s.OnlyIn ps (t.onTim g) ↔ s.OnlyIn ps t := (t.onlyIn_put_tim _).absorb_part h s

@[simp] theorem State.onlyIn_onMgt (s : State) (g : MgtSt → MgtSt) (h : .mgt ∈ ps) :
    s.OnlyIn ps (t.onMgt g) ↔ s.OnlyIn ps t := (t.onlyIn_put_mgt _).absorb_part h s

@[simp] theorem State.onlyIn_onImg (s : State) (g : ImgSt → ImgSt) (h : .img ∈ ps) :
    s.OnlyIn ps (t.onImg g) ↔ s.OnlyIn ps t := (t.onlyIn_put_img _).absorb_part h s

@[simp] theorem State.onlyIn_onCry (s : State) (g : CrySt → CrySt) (h : .cry ∈ ps) :
    s.OnlyIn ps (t.onCry g) ↔ s.OnlyIn ps t := (t.onlyIn_put_cry _).absorb_part h s

@[simp] theorem State.onlyIn_onEpo (s : State) (g : EpoSt → EpoSt) (h : .epo ∈ ps) :
    s.OnlyIn ps (t.onEpo g) ↔ s.OnlyIn ps t := (t.onlyIn_put_epo _).absorb_part h s

@[simp] theorem State.onlyIn_onPio (s : State) (g : PioSt → PioSt) (h : .pio ∈ ps) :
    s.OnlyIn ps (t.onPio g) ↔ s.OnlyIn ps t := (t.onlyIn_put_pio _).absorb_part h s

@[simp] theorem State.onlyIn_onFpn (s : State) (g : FpnSt → FpnSt) (h : .fpn ∈ ps) :
    s.OnlyIn ps (t.onFpn g) ↔ s.OnlyIn ps t := (t.onlyIn_put_fpn _).absorb_part h s

@[simp] theorem State.onlyIn_onTwn (s : State) (g : TwnSt → TwnSt) (h : .twn ∈ ps) :
    s.OnlyIn ps (t.onTwn g) ↔ s.OnlyIn ps t := (t.onlyIn_put_twn _).absorb_part h s

@[simp] theorem State.onlyIn_onRfx (s : State) (g : RfxSt → RfxSt) (h : .rfx ∈ ps) :
    s.OnlyIn ps (t.onRfx g) ↔ s.OnlyIn ps t := (t.onlyIn_put_rfx _).absorb_part h s

@[simp] theorem State.onlyIn_onBrg (s : State) (g : BrgSt → BrgSt) (h : .brg ∈ ps) :
    s.OnlyIn ps (t.onBrg g) ↔ s.OnlyIn ps t := (t.onlyIn_put_brg _).absorb_part h s

@[simp] theorem State.onlyIn_onCan (s : State) (g : CanSt → CanSt) (h : .can ∈ ps) :
    s.OnlyIn ps (t.onCan g) ↔ s.OnlyIn ps t := (t.onlyIn_put_can _).absorb_part h s

@[simp] theorem State.onlyIn_onLane (s : State) (l : Lane) (g : LaneSt → LaneSt) (h : .rng ∈ ps) :
    s.OnlyIn ps (t.onLane l g) ↔ s.OnlyIn ps t := by
  cases l <;> exact (t.onlyIn_put_rng _).absorb_part h s

@[simp] theorem State.onlyIn_ite (s : State) (c : Prop) [Decidable c] (t u : State) :
    s.OnlyIn ps (if c then t else u) ↔ if c then s.OnlyIn ps t else s.OnlyIn ps u := by
  split <;> rfl

@[simp] theorem State.onlyIn_event (s : State) (code block sev : Nat) (d : List Nat) (hr : .regs ∈ ps) (hm : .mgt ∈ ps) :
    s.OnlyIn ps (t.event code block sev d) ↔ s.OnlyIn ps t := by
  unfold State.event
  extract_lets
  split
  · exact (t.onlyIn_put_mgt _).absorb_part hm s
  · exact State.onlyIn_bump s _ _ hr

@[simp] theorem State.onlyIn_note (s : State) (code block : Nat) (d : List Nat) (hr : .regs ∈ ps) (hm : .mgt ∈ ps) :
    s.OnlyIn ps (t.note code block d) ↔ s.OnlyIn ps t := State.onlyIn_event s _ _ _ _ hr hm

@[simp] theorem State.onlyIn_self (s : State) : s.OnlyIn ps s := s.onlyIn_refl ps

end

/-! ### Register words and fields after an update of something else -/

/-- Two states with the same register file and the same image registers show the same words. -/
theorem State.word_congr {s t : State} (hr : t.regs = s.regs) (hi : t.imgRegs = s.imgRegs) (k : Nat) (start : Word) :
    t.word k start = s.word k start := by
  unfold State.word
  rw [hr, hi]

theorem State.get_congr {s t : State} (hr : t.regs = s.regs) (hi : t.imgRegs = s.imgRegs) (f : Fld) (i : Nat) :
    t.get f i = s.get f i := by
  unfold State.get
  rw [State.word_congr hr hi]

theorem State.OnlyIn.get {ps : List Part} {s t : State} (h : s.OnlyIn ps t) (hr : .regs ∉ ps) (hi : .imgRegs ∉ ps) (f : Fld) (i : Nat) :
    t.get f i = s.get f i := State.get_congr (h.2 _ hr) (h.2 _ hi) f i

theorem State.WordsBut.get {ks : List Nat} {s t : State} (h : s.WordsBut ks t) {f : Fld} {i : Nat} (hk : f.key i ∉ ks) :
    t.get f i = s.get f i := by
  unfold State.get
  rw [h _ hk]

theorem State.WordsBut.flag {ks : List Nat} {s t : State} (h : s.WordsBut ks t) {f : Fld} {i : Nat} (hk : f.key i ∉ ks) :
    t.flag f i = s.flag f i := by
  unfold State.flag
  rw [h.get hk]

theorem State.WordsBut.refl (ks : List Nat) (s : State) : s.WordsBut ks s := fun _ _ _ => rfl

theorem State.WordsBut.trans {ks : List Nat} {s t u : State} (h : s.WordsBut ks t) (h' : t.WordsBut ks u) : s.WordsBut ks u :=
  fun k hk start => (h' k hk start).trans (h k hk start)

@[simp] theorem State.wordsBut_self (ks : List Nat) (s : State) : s.WordsBut ks s := .refl ks s

section
variable {ks : List Nat} {t : State}

@[simp] theorem State.wordsBut_setWord (s : State) (k : Nat) (w : Word) (h : k ∈ ks) :
    s.WordsBut ks (t.setWord k w) ↔ s.WordsBut ks t := by
  refine forall₂_congr fun j hj => ?_
  simp only [State.word_setWord_ne t w _ (fun e : j = k => hj (e ▸ h))]

@[simp] theorem State.wordsBut_set_iff (s : State) (f : Fld) (i v : Nat) (h : f.key i ∈ ks) :
    s.WordsBut ks (t.set f i v) ↔ s.WordsBut ks t := State.wordsBut_setWord s _ _ h

@[simp] theorem State.wordsBut_setB (s : State) (f : Fld) (i : Nat) (b : Bool) (h : f.key i ∈ ks) :
    s.WordsBut ks (t.setB f i b) ↔ s.WordsBut ks t := State.wordsBut_setWord s _ _ h

@[simp] theorem State.wordsBut_bump (s : State) (f : Fld) (i : Nat) (h : f.key i ∈ ks) :
    s.WordsBut ks (t.bump f i) ↔ s.WordsBut ks t := State.wordsBut_setWord s _ _ h

@[simp] theorem State.wordsBut_bumpBy (s : State) (f : Fld) (i n : Nat) (h : f.key i ∈ ks) :
    s.WordsBut ks (t.bumpBy f i n) ↔ s.WordsBut ks t := State.wordsBut_setWord s _ _ h

@[simp] theorem State.wordsBut_event (s : State) (code block sev : Nat) (d : List Nat) (h : F.MGT_EVL_STAT_DROPS.key 0 ∈ ks) :
    s.WordsBut ks (t.event code block sev d) ↔ s.WordsBut ks t := by
  unfold State.event
  extract_lets
  split
  · rfl
  · exact State.wordsBut_setWord s _ _ h

@[simp] theorem State.wordsBut_note (s : State) (code block : Nat) (d : List Nat) (h : F.MGT_EVL_STAT_DROPS.key 0 ∈ ks) :
    s.WordsBut ks (t.note code block d) ↔ s.WordsBut ks t := State.wordsBut_event s _ _ _ _ h

@[simp] theorem State.wordsBut_ite (s : State) (c : Prop) [Decidable c] (t u : State) :
    s.WordsBut ks (if c then t else u) ↔ if c then s.WordsBut ks t else s.WordsBut ks u := by
  split <;> rfl

@[simp] theorem State.wordsBut_emit (s : State) (e : Emit) : s.WordsBut ks (t.emit e) ↔ s.WordsBut ks t := Iff.rfl
@[simp] theorem State.wordsBut_deliver (s : State) (u : Nat) (f : Frame) : s.WordsBut ks (t.deliver u f) ↔ s.WordsBut ks t := Iff.rfl
@[simp] theorem State.wordsBut_take (s : State) (f : Frame) : s.WordsBut ks (t.take f) ↔ s.WordsBut ks t := Iff.rfl
@[simp] theorem State.wordsBut_offer (s : State) (port : Nat) (f : Frame) : s.WordsBut ks (t.offer port f) ↔ s.WordsBut ks t := Iff.rfl
@[simp] theorem State.wordsBut_record (s : State) (p : Nat) (r : HistRec) : s.WordsBut ks (t.record p r) ↔ s.WordsBut ks t := Iff.rfl
@[simp] theorem State.wordsBut_onHub (s : State) (g : HubSt → HubSt) : s.WordsBut ks (t.onHub g) ↔ s.WordsBut ks t := Iff.rfl
@[simp] theorem State.wordsBut_onRng (s : State) (g : RngSt → RngSt) : s.WordsBut ks (t.onRng g) ↔ s.WordsBut ks t := Iff.rfl
@[simp] theorem State.wordsBut_onSwc (s : State) (g : SwcSt → SwcSt) : s.WordsBut ks (t.onSwc g) ↔ s.WordsBut ks t := Iff.rfl
@[simp] theorem State.wordsBut_onTmq (s : State) (g : TmqSt → TmqSt) : s.WordsBut ks (t.onTmq g) ↔ s.WordsBut ks t := Iff.rfl
@[simp] theorem State.wordsBut_onTim (s : State) (g : TimSt → TimSt) : s.WordsBut ks (t.onTim g) ↔ s.WordsBut ks t := Iff.rfl
@[simp] theorem State.wordsBut_onMgt (s : State) (g : MgtSt → MgtSt) : s.WordsBut ks (t.onMgt g) ↔ s.WordsBut ks t := Iff.rfl
@[simp] theorem State.wordsBut_onImg (s : State) (g : ImgSt → ImgSt) : s.WordsBut ks (t.onImg g) ↔ s.WordsBut ks t := Iff.rfl
@[simp] theorem State.wordsBut_onCry (s : State) (g : CrySt → CrySt) : s.WordsBut ks (t.onCry g) ↔ s.WordsBut ks t := Iff.rfl
@[simp] theorem State.wordsBut_onEpo (s : State) (g : EpoSt → EpoSt) : s.WordsBut ks (t.onEpo g) ↔ s.WordsBut ks t := Iff.rfl
@[simp] theorem State.wordsBut_onPio (s : State) (g : PioSt → PioSt) : s.WordsBut ks (t.onPio g) ↔ s.WordsBut ks t := Iff.rfl
@[simp] theorem State.wordsBut_onFpn (s : State) (g : FpnSt → FpnSt) : s.WordsBut ks (t.onFpn g) ↔ s.WordsBut ks t := Iff.rfl
@[simp] theorem State.wordsBut_onTwn (s : State) (g : TwnSt → TwnSt) : s.WordsBut ks (t.onTwn g) ↔ s.WordsBut ks t := Iff.rfl
@[simp] theorem State.wordsBut_onRfx (s : State) (g : RfxSt → RfxSt) : s.WordsBut ks (t.onRfx g) ↔ s.WordsBut ks t := Iff.rfl
@[simp] theorem State.wordsBut_onBrg (s : State) (g : BrgSt → BrgSt) : s.WordsBut ks (t.onBrg g) ↔ s.WordsBut ks t := Iff.rfl
@[simp] theorem State.wordsBut_onCan (s : State) (g : CanSt → CanSt) : s.WordsBut ks (t.onCan g) ↔ s.WordsBut ks t := Iff.rfl
@[simp] theorem State.wordsBut_onLane (s : State) (l : Lane) (g : LaneSt → LaneSt) :
    s.WordsBut ks (t.onLane l g) ↔ s.WordsBut ks t := by
  cases l <;> rfl

end

section
variable (s : State)

@[simp] theorem State.emit_word (e : Emit) (k : Nat) (w : Word) : (s.emit e).word k w = s.word k w := rfl
@[simp] theorem State.deliver_word (u : Nat) (f : Frame) (k : Nat) (w : Word) : (s.deliver u f).word k w = s.word k w := rfl
@[simp] theorem State.take_word (f : Frame) (k : Nat) (w : Word) : (s.take f).word k w = s.word k w := rfl
@[simp] theorem State.offer_word (port : Nat) (f : Frame) (k : Nat) (w : Word) : (s.offer port f).word k w = s.word k w := rfl
@[simp] theorem State.record_word (p : Nat) (r : HistRec) (k : Nat) (w : Word) : (s.record p r).word k w = s.word k w := rfl
@[simp] theorem State.onHub_word (g : HubSt → HubSt) (k : Nat) (w : Word) : (s.onHub g).word k w = s.word k w := rfl
@[simp] theorem State.onRng_word (g : RngSt → RngSt) (k : Nat) (w : Word) : (s.onRng g).word k w = s.word k w := rfl
@[simp] theorem State.onSwc_word (g : SwcSt → SwcSt) (k : Nat) (w : Word) : (s.onSwc g).word k w = s.word k w := rfl
@[simp] theorem State.onTmq_word (g : TmqSt → TmqSt) (k : Nat) (w : Word) : (s.onTmq g).word k w = s.word k w := rfl
@[simp] theorem State.onTim_word (g : TimSt → TimSt) (k : Nat) (w : Word) : (s.onTim g).word k w = s.word k w := rfl
@[simp] theorem State.onMgt_word (g : MgtSt → MgtSt) (k : Nat) (w : Word) : (s.onMgt g).word k w = s.word k w := rfl
@[simp] theorem State.onImg_word (g : ImgSt → ImgSt) (k : Nat) (w : Word) : (s.onImg g).word k w = s.word k w := rfl
@[simp] theorem State.onCry_word (g : CrySt → CrySt) (k : Nat) (w : Word) : (s.onCry g).word k w = s.word k w := rfl
@[simp] theorem State.onEpo_word (g : EpoSt → EpoSt) (k : Nat) (w : Word) : (s.onEpo g).word k w = s.word k w := rfl
@[simp] theorem State.onPio_word (g : PioSt → PioSt) (k : Nat) (w : Word) : (s.onPio g).word k w = s.word k w := rfl
@[simp] theorem State.onFpn_word (g : FpnSt → FpnSt) (k : Nat) (w : Word) : (s.onFpn g).word k w = s.word k w := rfl
@[simp] theorem State.onTwn_word (g : TwnSt → TwnSt) (k : Nat) (w : Word) : (s.onTwn g).word k w = s.word k w := rfl
@[simp] theorem State.onRfx_word (g : RfxSt → RfxSt) (k : Nat) (w : Word) : (s.onRfx g).word k w = s.word k w := rfl
@[simp] theorem State.onBrg_word (g : BrgSt → BrgSt) (k : Nat) (w : Word) : (s.onBrg g).word k w = s.word k w := rfl
@[simp] theorem State.onCan_word (g : CanSt → CanSt) (k : Nat) (w : Word) : (s.onCan g).word k w = s.word k w := rfl
@[simp] theorem State.onLane_word (l : Lane) (g : LaneSt → LaneSt) (k : Nat) (w : Word) : (s.onLane l g).word k w = s.word k w := by
  cases l <;> rfl

@[simp] theorem State.emit_get (e : Emit) (x : Fld) (j : Nat) : (s.emit e).get x j = s.get x j := rfl
@[simp] theorem State.deliver_get (u : Nat) (f : Frame) (x : Fld) (j : Nat) : (s.deliver u f).get x j = s.get x j := rfl
@[simp] theorem State.take_get (f : Frame) (x : Fld) (j : Nat) : (s.take f).get x j = s.get x j := rfl
@[simp] theorem State.offer_get (port : Nat) (f : Frame) (x : Fld) (j : Nat) : (s.offer port f).get x j = s.get x j := rfl
@[simp] theorem State.record_get (p : Nat) (r : HistRec) (x : Fld) (j : Nat) : (s.record p r).get x j = s.get x j := rfl
@[simp] theorem State.onHub_get (g : HubSt → HubSt) (x : Fld) (j : Nat) : (s.onHub g).get x j = s.get x j := rfl
@[simp] theorem State.onRng_get (g : RngSt → RngSt) (x : Fld) (j : Nat) : (s.onRng g).get x j = s.get x j := rfl
@[simp] theorem State.onSwc_get (g : SwcSt → SwcSt) (x : Fld) (j : Nat) : (s.onSwc g).get x j = s.get x j := rfl
@[simp] theorem State.onTmq_get (g : TmqSt → TmqSt) (x : Fld) (j : Nat) : (s.onTmq g).get x j = s.get x j := rfl
@[simp] theorem State.onTim_get (g : TimSt → TimSt) (x : Fld) (j : Nat) : (s.onTim g).get x j = s.get x j := rfl
@[simp] theorem State.onMgt_get (g : MgtSt → MgtSt) (x : Fld) (j : Nat) : (s.onMgt g).get x j = s.get x j := rfl
@[simp] theorem State.onImg_get (g : ImgSt → ImgSt) (x : Fld) (j : Nat) : (s.onImg g).get x j = s.get x j := rfl
@[simp] theorem State.onCry_get (g : CrySt → CrySt) (x : Fld) (j : Nat) : (s.onCry g).get x j = s.get x j := rfl
@[simp] theorem State.onEpo_get (g : EpoSt → EpoSt) (x : Fld) (j : Nat) : (s.onEpo g).get x j = s.get x j := rfl
@[simp] theorem State.onPio_get (g : PioSt → PioSt) (x : Fld) (j : Nat) : (s.onPio g).get x j = s.get x j := rfl
@[simp] theorem State.onFpn_get (g : FpnSt → FpnSt) (x : Fld) (j : Nat) : (s.onFpn g).get x j = s.get x j := rfl
@[simp] theorem State.onTwn_get (g : TwnSt → TwnSt) (x : Fld) (j : Nat) : (s.onTwn g).get x j = s.get x j := rfl
@[simp] theorem State.onRfx_get (g : RfxSt → RfxSt) (x : Fld) (j : Nat) : (s.onRfx g).get x j = s.get x j := rfl
@[simp] theorem State.onBrg_get (g : BrgSt → BrgSt) (x : Fld) (j : Nat) : (s.onBrg g).get x j = s.get x j := rfl
@[simp] theorem State.onCan_get (g : CanSt → CanSt) (x : Fld) (j : Nat) : (s.onCan g).get x j = s.get x j := rfl
@[simp] theorem State.onLane_get (l : Lane) (g : LaneSt → LaneSt) (x : Fld) (j : Nat) : (s.onLane l g).get x j = s.get x j := by
  cases l <;> rfl

@[simp] theorem State.emit_flag (e : Emit) (x : Fld) (j : Nat) : (s.emit e).flag x j = s.flag x j := rfl
@[simp] theorem State.deliver_flag (u : Nat) (f : Frame) (x : Fld) (j : Nat) : (s.deliver u f).flag x j = s.flag x j := rfl
@[simp] theorem State.take_flag (f : Frame) (x : Fld) (j : Nat) : (s.take f).flag x j = s.flag x j := rfl
@[simp] theorem State.offer_flag (port : Nat) (f : Frame) (x : Fld) (j : Nat) : (s.offer port f).flag x j = s.flag x j := rfl
@[simp] theorem State.record_flag (p : Nat) (r : HistRec) (x : Fld) (j : Nat) : (s.record p r).flag x j = s.flag x j := rfl
@[simp] theorem State.onHub_flag (g : HubSt → HubSt) (x : Fld) (j : Nat) : (s.onHub g).flag x j = s.flag x j := rfl
@[simp] theorem State.onRng_flag (g : RngSt → RngSt) (x : Fld) (j : Nat) : (s.onRng g).flag x j = s.flag x j := rfl
@[simp] theorem State.onSwc_flag (g : SwcSt → SwcSt) (x : Fld) (j : Nat) : (s.onSwc g).flag x j = s.flag x j := rfl
@[simp] theorem State.onTmq_flag (g : TmqSt → TmqSt) (x : Fld) (j : Nat) : (s.onTmq g).flag x j = s.flag x j := rfl
@[simp] theorem State.onTim_flag (g : TimSt → TimSt) (x : Fld) (j : Nat) : (s.onTim g).flag x j = s.flag x j := rfl
@[simp] theorem State.onMgt_flag (g : MgtSt → MgtSt) (x : Fld) (j : Nat) : (s.onMgt g).flag x j = s.flag x j := rfl
@[simp] theorem State.onImg_flag (g : ImgSt → ImgSt) (x : Fld) (j : Nat) : (s.onImg g).flag x j = s.flag x j := rfl
@[simp] theorem State.onCry_flag (g : CrySt → CrySt) (x : Fld) (j : Nat) : (s.onCry g).flag x j = s.flag x j := rfl
@[simp] theorem State.onEpo_flag (g : EpoSt → EpoSt) (x : Fld) (j : Nat) : (s.onEpo g).flag x j = s.flag x j := rfl
@[simp] theorem State.onPio_flag (g : PioSt → PioSt) (x : Fld) (j : Nat) : (s.onPio g).flag x j = s.flag x j := rfl
@[simp] theorem State.onFpn_flag (g : FpnSt → FpnSt) (x : Fld) (j : Nat) : (s.onFpn g).flag x j = s.flag x j := rfl
@[simp] theorem State.onTwn_flag (g : TwnSt → TwnSt) (x : Fld) (j : Nat) : (s.onTwn g).flag x j = s.flag x j := rfl
@[simp] theorem State.onRfx_flag (g : RfxSt → RfxSt) (x : Fld) (j : Nat) : (s.onRfx g).flag x j = s.flag x j := rfl
@[simp] theorem State.onBrg_flag (g : BrgSt → BrgSt) (x : Fld) (j : Nat) : (s.onBrg g).flag x j = s.flag x j := rfl
@[simp] theorem State.onCan_flag (g : CanSt → CanSt) (x : Fld) (j : Nat) : (s.onCan g).flag x j = s.flag x j := rfl
@[simp] theorem State.onLane_flag (l : Lane) (g : LaneSt → LaneSt) (x : Fld) (j : Nat) : (s.onLane l g).flag x j = s.flag x j := by
  cases l <;> rfl

@[simp] theorem State.onLane_imgRegs (l : Lane) (g : LaneSt → LaneSt) : (s.onLane l g).imgRegs = s.imgRegs := by cases l <;> rfl
@[simp] theorem State.onLane_hub (l : Lane) (g : LaneSt → LaneSt) : (s.onLane l g).hub = s.hub := by cases l <;> rfl
@[simp] theorem State.onLane_swc (l : Lane) (g : LaneSt → LaneSt) : (s.onLane l g).swc = s.swc := by cases l <;> rfl
@[simp] theorem State.onLane_tmq (l : Lane) (g : LaneSt → LaneSt) : (s.onLane l g).tmq = s.tmq := by cases l <;> rfl
@[simp] theorem State.onLane_tim (l : Lane) (g : LaneSt → LaneSt) : (s.onLane l g).tim = s.tim := by cases l <;> rfl
@[simp] theorem State.onLane_mgt (l : Lane) (g : LaneSt → LaneSt) : (s.onLane l g).mgt = s.mgt := by cases l <;> rfl
@[simp] theorem State.onLane_img (l : Lane) (g : LaneSt → LaneSt) : (s.onLane l g).img = s.img := by cases l <;> rfl
@[simp] theorem State.onLane_cry (l : Lane) (g : LaneSt → LaneSt) : (s.onLane l g).cry = s.cry := by cases l <;> rfl
@[simp] theorem State.onLane_epo (l : Lane) (g : LaneSt → LaneSt) : (s.onLane l g).epo = s.epo := by cases l <;> rfl
@[simp] theorem State.onLane_phs (l : Lane) (g : LaneSt → LaneSt) : (s.onLane l g).phs = s.phs := by cases l <;> rfl
@[simp] theorem State.onLane_pio (l : Lane) (g : LaneSt → LaneSt) : (s.onLane l g).pio = s.pio := by cases l <;> rfl
@[simp] theorem State.onLane_fpn (l : Lane) (g : LaneSt → LaneSt) : (s.onLane l g).fpn = s.fpn := by cases l <;> rfl
@[simp] theorem State.onLane_twn (l : Lane) (g : LaneSt → LaneSt) : (s.onLane l g).twn = s.twn := by cases l <;> rfl
@[simp] theorem State.onLane_can (l : Lane) (g : LaneSt → LaneSt) : (s.onLane l g).can = s.can := by cases l <;> rfl
@[simp] theorem State.onLane_brg (l : Lane) (g : LaneSt → LaneSt) : (s.onLane l g).brg = s.brg := by cases l <;> rfl
@[simp] theorem State.onLane_rfx (l : Lane) (g : LaneSt → LaneSt) : (s.onLane l g).rfx = s.rfx := by cases l <;> rfl
@[simp] theorem State.onLane_ckr (l : Lane) (g : LaneSt → LaneSt) : (s.onLane l g).ckr = s.ckr := by cases l <;> rfl
@[simp] theorem State.onLane_pwr (l : Lane) (g : LaneSt → LaneSt) : (s.onLane l g).pwr = s.pwr := by cases l <;> rfl
@[simp] theorem State.onLane_hst (l : Lane) (g : LaneSt → LaneSt) : (s.onLane l g).hst = s.hst := by cases l <;> rfl
@[simp] theorem State.onLane_locks (l : Lane) (g : LaneSt → LaneSt) : (s.onLane l g).locks = s.locks := by cases l <;> rfl
@[simp] theorem State.onLane_recs (l : Lane) (g : LaneSt → LaneSt) : (s.onLane l g).recs = s.recs := by cases l <;> rfl
@[simp] theorem State.onLane_bulk (l : Lane) (g : LaneSt → LaneSt) : (s.onLane l g).bulk = s.bulk := by cases l <;> rfl
@[simp] theorem State.onLane_nvm (l : Lane) (g : LaneSt → LaneSt) : (s.onLane l g).nvm = s.nvm := by cases l <;> rfl
@[simp] theorem State.onLane_inbox (l : Lane) (g : LaneSt → LaneSt) : (s.onLane l g).inbox = s.inbox := by cases l <;> rfl
@[simp] theorem State.onLane_out (l : Lane) (g : LaneSt → LaneSt) : (s.onLane l g).out = s.out := by cases l <;> rfl
@[simp] theorem State.onLane_up (l : Lane) (g : LaneSt → LaneSt) : (s.onLane l g).up = s.up := by cases l <;> rfl
@[simp] theorem State.onLane_free (l : Lane) (g : LaneSt → LaneSt) : (s.onLane l g).free = s.free := by cases l <;> rfl

/-- Two register fields, each with its index, have no bit in common: they lie in different registers or in different bits of one. -/
def Fld.apart (g : Fld) (j : Nat) (f : Fld) (i : Nat) : Bool :=
  decide (g.key j ≠ f.key i)
    || decide (g.start = f.start) && decide (f.hi < 32) && decide (f.lo ≤ f.hi) && decide (g.lo ≤ g.hi) && (decide (g.hi < f.lo) || decide (f.hi < g.lo))

/-- A field reads the same after a write of one that it has no bit in common with. -/
theorem State.get_set_apart {g f : Fld} {i j : Nat} (v : Nat) (h : g.apart j f i = true) : (s.set f i v).get g j = s.get g j := by
  by_cases key : g.key j = f.key i
  · simp only [Fld.apart, key, ne_eq, not_true_eq_false, decide_false, Bool.false_or, Bool.and_eq_true, Bool.or_eq_true, decide_eq_true_eq] at h
    obtain ⟨⟨⟨⟨start, fits⟩, bits_f⟩, bits_g⟩, disjoint⟩ := h
    exact s.get_set_disjoint v key start fits bits_f bits_g disjoint
  · exact s.get_set_ne v key

theorem State.get_setB_apart {g f : Fld} {i j : Nat} (b : Bool) (h : g.apart j f i = true) : (s.setB f i b).get g j = s.get g j :=
  s.get_set_apart _ h

theorem State.get_bumpBy_apart {g f : Fld} {i j : Nat} (n : Nat) (h : g.apart j f i = true) : (s.bumpBy f i n).get g j = s.get g j :=
  s.get_set_apart _ h

theorem State.get_bump_apart {g f : Fld} {i j : Nat} (h : g.apart j f i = true) : (s.bump f i).get g j = s.get g j :=
  s.get_set_apart _ h

theorem State.flag_set_apart {g f : Fld} {i j : Nat} (v : Nat) (h : g.apart j f i = true) : (s.set f i v).flag g j = s.flag g j := by
  unfold State.flag
  rw [s.get_set_apart v h]

theorem State.flag_setB_apart {g f : Fld} {i j : Nat} (b : Bool) (h : g.apart j f i = true) : (s.setB f i b).flag g j = s.flag g j :=
  s.flag_set_apart _ h

theorem State.flag_bump_apart {g f : Fld} {i j : Nat} (h : g.apart j f i = true) : (s.bump f i).flag g j = s.flag g j :=
  s.flag_set_apart _ h

/-- A one-bit field: in the register, and one bit wide. -/
theorem State.flag_setB_self {f : Fld} (i : Nat) (b : Bool) (hh : f.hi < 32) (hl : f.hi = f.lo) : (s.setB f i b).flag f i = b := by
  unfold State.flag State.setB
  rw [s.get_set_self i _ hh hl.ge, hl, show f.lo + 1 - f.lo = 1 by omega]
  cases b <;> rfl

theorem State.flag_set_self {f : Fld} (i v : Nat) (hh : f.hi < 32) (hl : f.hi = f.lo) : (s.set f i v).flag f i = decide (v % 2 = 1) := by
  unfold State.flag
  rw [s.get_set_self i _ hh hl.ge, hl, show f.lo + 1 - f.lo = 1 by omega, Nat.pow_one]

theorem State.get_setB_self {f : Fld} (i : Nat) (b : Bool) (hh : f.hi < 32) (hl : f.hi = f.lo) : (s.setB f i b).get f i = b2n b := by
  unfold State.setB
  rw [s.get_set_self i _ hh hl.ge, hl, show f.lo + 1 - f.lo = 1 by omega]
  cases b <;> rfl

/-- A one-bit field reads 1 or 0. -/
theorem State.get_eq_zero_of_flag {f : Fld} {i : Nat} (hl : f.hi = f.lo) (h : s.flag f i = false) : s.get f i = 0 := by
  have lt := State.bits_lt (s.word (f.key i) f.start).toNat f.hi f.lo
  rw [show f.hi + 1 - f.lo = 1 by omega] at lt
  have ne : s.get f i ≠ 1 := of_decide_eq_false h
  unfold State.get at ne ⊢
  omega

end

end Sys2Proof.Machine

/-! PROOFS. A step, the state after reset, and the link words of a lane (R81, R83, R94, R111 to R117, R416). -/
namespace Sys2Proof.Machine

/-! ### A step and the state after reset -/

/-- Settles O1: the two equations of a step. -/
theorem stepRunsTheFrontCommand : Obligations.StepRunsTheFrontCommand := by
  unfold Obligations.StepRunsTheFrontCommand
  refine ⟨fun _ _ _ => rfl, fun s idle => ?_⟩
  unfold step
  rw [idle]

/-- Settles O3: at reset the register file and both memories are empty, and so is every log. -/
theorem resetMeetsInvariant : Obligations.ResetMeetsInvariant :=
  ⟨rfl, rfl, rfl, Nat.zero_le _, Nat.zero_le _, Nat.zero_le _, Nat.zero_le _, Nat.zero_le _⟩

/-- Settles O5: each register of the list at its starting value, and each part empty. -/
theorem resetLeavesTransitMode : Obligations.ResetLeavesTransitMode :=
  ⟨rfl, rfl, rfl, rfl, rfl, rfl, rfl, rfl, rfl, rfl, rfl, rfl, rfl, rfl, rfl⟩

end Sys2Proof.Machine

/-! PROOFS. The link words of a lane (R81, R83, R94, R111 to R117, R416), with the rules of reading and changing one lane. -/
namespace Sys2Proof.Machine

/-! ### Reading a lane after an update -/

section
variable (s : State)

@[simp] theorem State.lane_onLane_self (l : Lane) (g : LaneSt → LaneSt) : (s.onLane l g).lane l = g (s.lane l) := by
  cases l <;> rfl

/-- A change of a lane is known by what it makes of that lane. -/
theorem State.onLane_congr {s : State} {l : Lane} {g g' : LaneSt → LaneSt} (h : g (s.lane l) = g' (s.lane l)) : s.onLane l g = s.onLane l g' := by
  cases l <;> simp only [State.onLane, State.lane] at * <;> rw [h]

theorem State.lane_congr {s t : State} (h : t.rng = s.rng) (l : Lane) : t.lane l = s.lane l := by
  unfold State.lane
  rw [h]

@[simp] theorem State.lane_set (f : Fld) (i v : Nat) (l : Lane) : (s.set f i v).lane l = s.lane l := rfl
@[simp] theorem State.lane_setB (f : Fld) (i : Nat) (b : Bool) (l : Lane) : (s.setB f i b).lane l = s.lane l := rfl
@[simp] theorem State.lane_bump (f : Fld) (i : Nat) (l : Lane) : (s.bump f i).lane l = s.lane l := rfl
@[simp] theorem State.lane_emit (e : Emit) (l : Lane) : (s.emit e).lane l = s.lane l := rfl
@[simp] theorem State.laneState_onLane (k l : Lane) (g : LaneSt → LaneSt) : (s.onLane k g).laneState l = s.laneState l :=
  s.onLane_get k g _ _
@[simp] theorem State.laneState_emit (e : Emit) (l : Lane) : (s.emit e).laneState l = s.laneState l := rfl

/-- The state of a lane as its register holds it. -/
@[simp] theorem State.laneState_set_self (l : Lane) (n : Nat) : (s.set F.Lx_LSTAT_STATE l.ix n).laneState l = n % 8 :=
  s.get_set_self l.ix n (by decide) (by decide)

/-- A field of a lane's status register other than the state leaves the state alone. -/
theorem State.laneState_set_apart {f : Fld} {i : Nat} (v : Nat) {l : Lane} (h : Fld.apart F.Lx_LSTAT_STATE l.ix f i = true) :
    (s.set f i v).laneState l = s.laneState l := s.get_set_apart v h

end

/-! ### Nothing but one lane differs -/

section
variable {l : Lane} {s t u : State}

theorem State.laneOnly_iff : s.LaneOnly l t ↔
    t.rng = match l with
      | .e => { s.rng with laneE := t.rng.laneE }
      | .w => { s.rng with laneW := t.rng.laneW }
      | .t => { s.rng with laneT := t.rng.laneT } := by
  cases l <;> rfl

theorem State.laneOnly_of_rng (h : t.rng = s.rng) : s.LaneOnly l t := by
  rw [State.laneOnly_iff, h]
  cases l <;> rfl

theorem State.LaneOnly.trans (h : s.LaneOnly l t) (h' : t.LaneOnly l u) : s.LaneOnly l u := by
  rw [State.laneOnly_iff] at *
  cases l <;> simp only at * <;> rw [h', h]

@[simp] theorem State.laneOnly_self (l : Lane) (s : State) : s.LaneOnly l s := State.laneOnly_of_rng rfl

/-- What the lane itself becomes does not matter. -/
@[simp] theorem State.laneOnly_onLane (g : LaneSt → LaneSt) : s.LaneOnly l (t.onLane l g) ↔ s.LaneOnly l t := by
  have there : t.LaneOnly l (t.onLane l g) := by cases l <;> rfl
  have back : (t.onLane l g).LaneOnly l t := by cases l <;> rfl
  exact ⟨fun h => h.trans back, fun h => h.trans there⟩

@[simp] theorem State.laneOnly_set (f : Fld) (i v : Nat) : s.LaneOnly l (t.set f i v) ↔ s.LaneOnly l t := Iff.rfl
@[simp] theorem State.laneOnly_emit (e : Emit) : s.LaneOnly l (t.emit e) ↔ s.LaneOnly l t := Iff.rfl

end

/-! ### A lane that moves on, its credits as they were -/

/-- The lane l may have moved on to another state: its credit counts are the same, and nothing else differs but its state. -/
structure State.MovesOn (l : Lane) (s t : State) : Prop where
  climit : (t.lane l).climit = (s.lane l).climit
  used : (t.lane l).used = (s.lane l).used
  grant : (t.lane l).grant = (s.lane l).grant
  lastCrd : (t.lane l).lastCrd = (s.lane l).lastCrd
  crdSent : (t.lane l).crdSent = (s.lane l).crdSent
  crdRcvd : (t.lane l).crdRcvd = (s.lane l).crdRcvd
  rng : s.LaneOnly l t
  parts : s.OnlyIn [.regs, .rng] t
  words : s.WordsBut [F.Lx_LSTAT_STATE.key l.ix] t

section
variable {l : Lane} {s t u : State}

theorem State.MovesOn.refl (l : Lane) (s : State) : s.MovesOn l s :=
  ⟨rfl, rfl, rfl, rfl, rfl, rfl, State.laneOnly_of_rng rfl, s.onlyIn_self, s.wordsBut_self _⟩

theorem State.MovesOn.trans (h : s.MovesOn l t) (h' : t.MovesOn l u) : s.MovesOn l u where
  climit := h'.climit.trans h.climit
  used := h'.used.trans h.used
  grant := h'.grant.trans h.grant
  lastCrd := h'.lastCrd.trans h.lastCrd
  crdSent := h'.crdSent.trans h.crdSent
  crdRcvd := h'.crdRcvd.trans h.crdRcvd
  rng := h.rng.trans h'.rng
  parts := h.parts.andThen h'.parts
  words := h.words.trans h'.words

/-- A probation that starts with the credits as they are (R117). -/
theorem State.movesOn_enterProbe (s : State) (l : Lane) : s.MovesOn l (s.enterProbe l false) := by
  unfold State.enterProbe
  constructor <;> simp

theorem State.movesOn_trainDone (s : State) (l : Lane) : s.MovesOn l (s.trainDone l) := by
  unfold State.trainDone
  dsimp only
  split
  · exact s.movesOn_enterProbe l
  · exact .refl l s

theorem State.movesOn_tryUp (s : State) (l : Lane) : s.MovesOn l (s.tryUp l) := by
  unfold State.tryUp
  dsimp only
  split
  · constructor <;> simp
  · exact .refl l s

/-- What follows a credit word: TRAIN may be done, and a lane whose probation has passed may enter UP (R114, R117). -/
theorem State.movesOn_trainDone_tryUp (s : State) (l : Lane) : s.MovesOn l ((s.trainDone l).tryUp l) :=
  (s.movesOn_trainDone l).trans (State.movesOn_tryUp _ l)

/-- An update of one lane followed by its moving on. -/
theorem State.MovesOn.afterLane {g : LaneSt → LaneSt} (h : (s.onLane l g).MovesOn l t) :
    s.LaneOnly l t ∧ s.OnlyIn [.regs, .rng] t ∧ s.WordsBut [F.Lx_LSTAT_STATE.key l.ix] t :=
  ⟨.trans (by simp) h.rng, .andThen (by simp) h.parts, .trans (by simp) h.words⟩

end

/-! ### The link words (R81, R83, R111) -/

section
variable {s : State} {l : Lane}

/-- A credit word on a lane in service: the limit is stored, the first exchange marked, and the lane moves on. -/
theorem execCrd_of_inService (tc4 climit : Nat) (h : 2 ≤ s.laneState l ∧ s.laneState l ≤ 4) :
    ∃ t, execCrd l tc4 climit s = .next t
      ∧ (s.onLane l fun q => { q with climit := setAt q.climit tc4 (climit % 65536), crdRcvd := setAt q.crdRcvd tc4 true }).MovesOn l t := by
  unfold execCrd
  rw [if_pos h]
  exact ⟨_, rfl, State.movesOn_trainDone_tryUp _ l⟩

/-- The lane after a credit word of class tc4 that grants g has been sent. -/
def State.granting (s : State) (l : Lane) (tc4 g : Nat) : State :=
  s.onLane l fun q => { q with grant := setAt q.grant tc4 g, lastCrd := setAt q.lastCrd tc4 g, crdSent := setAt q.crdSent tc4 true }

/-- The grant that a credit word shows: the whole pool in the first one of its class (R114). -/
def State.crdGrant (s : State) (l : Lane) (tc4 : Nat) : Nat :=
  if (s.lane l).crdSent.getD tc4 true then (s.lane l).grant.getD tc4 0 else lanePool tc4

/-- A lane in service that sends data sends a credit word, the first of its class only while the pool is empty; the lane itself receives
it where it is looped back. -/
theorem execCrdSend_of_inService {tc4 : Nat} (h : 2 ≤ s.laneState l ∧ s.laneState l ≤ 4)
    (first : (s.lane l).crdSent.getD tc4 true = true ∨ s.poolUsed l.ix tc4 = 0) (sends : s.sendsData l = true) :
    execCrdSend l tc4 s =
      if s.eddies l then execCrd l tc4 (s.crdGrant l tc4) (s.granting l tc4 (s.crdGrant l tc4))
      else .next ((((s.granting l tc4 (s.crdGrant l tc4)).emit (.word l 1 (tc4 * 2 ^ 18 + s.crdGrant l tc4))).trainDone l).tryUp l) := by
  have same (g : Nat) : (s.granting l tc4 g).eddies l = s.eddies l := s.onLane_flag l _ _ _
  unfold execCrdSend
  dsimp only
  rw [if_pos ⟨h, by simpa using first, sends⟩]
  simp only [← same (s.crdGrant l tc4), State.crdGrant]
  cases (s.lane l).crdSent.getD tc4 true <;> rfl

/-- What a credit word that leaves on the line changes: the grant is shown, marked as sent, and the lane moves on. -/
theorem execCrdSend_leaves {tc4 : Nat} (h : 2 ≤ s.laneState l ∧ s.laneState l ≤ 4)
    (first : (s.lane l).crdSent.getD tc4 true = true ∨ s.poolUsed l.ix tc4 = 0) (sends : s.sendsData l = true) (line : s.eddies l = false) :
    ∃ t, execCrdSend l tc4 s = .next t
      ∧ ((s.granting l tc4 (s.crdGrant l tc4)).emit (.word l 1 (tc4 * 2 ^ 18 + s.crdGrant l tc4))).MovesOn l t
      ∧ s.LaneOnly l t ∧ s.OnlyIn [.regs, .rng, .out] t ∧ s.WordsBut [F.Lx_LSTAT_STATE.key l.ix] t := by
  rw [execCrdSend_of_inService h first sends, if_neg (by simp [line])]
  have moves := State.movesOn_trainDone_tryUp ((s.granting l tc4 (s.crdGrant l tc4)).emit (.word l 1 (tc4 * 2 ^ 18 + s.crdGrant l tc4))) l
  refine ⟨_, rfl, moves, ?_, ?_, ?_⟩
  · exact .trans (by simp [State.granting]) moves.rng
  · exact .andThen (by simp [State.granting]) (moves.parts.mono (by decide))
  · exact .trans (by simp [State.granting]) moves.words

/-- Under EDDY the lane itself receives the credit word (R78). -/
theorem execCrdSend_returns {tc4 : Nat} (h : 2 ≤ s.laneState l ∧ s.laneState l ≤ 4)
    (first : (s.lane l).crdSent.getD tc4 true = true ∨ s.poolUsed l.ix tc4 = 0) (sends : s.sendsData l = true) (looped : s.eddies l = true) :
    execCrdSend l tc4 s = execCrd l tc4 (s.crdGrant l tc4) (s.granting l tc4 (s.crdGrant l tc4)) := by
  rw [execCrdSend_of_inService h first sends, if_pos looped]

/-- LID, LINC and CRD end in a next state. -/
theorem execLid_next (hub st : Nat) : ∃ t, execLid l hub st s = .next t := by
  unfold execLid
  dsimp only
  split_ifs <;> exact ⟨_, rfl⟩

end

/-- Settles O8: a credit word is stored or sent and the lane moves on; the other words each by its cases. -/
theorem linkWordsActOnTheirLane : Obligations.LinkWordsActOnTheirLane := by
  unfold Obligations.LinkWordsActOnTheirLane
  intro s l
  refine ⟨fun tc4 climit lo hi => ?_, fun tc4 climit h => if_neg h, fun tc4 lo hi sent sends line => ?_,
    fun tc4 lo hi sent empty sends line => ?_, fun tc4 lo hi sent sends looped => ?_, fun silent => ?_, fun inc on => if_neg on,
    fun on sends line => ?_, fun on sends looped => ?_, fun h r cur parked found cls => ?_, fun h r cur parked found cls => ?_,
    fun h k cur parked => ?_, fun h parked => ?_, fun h parked cur => ?_⟩
  · obtain ⟨t, ends, moves⟩ := execCrd_of_inService (s := s) tc4 climit ⟨lo, hi⟩
    have ⟨rng, parts, words⟩ := moves.afterLane
    exact ⟨t, ends, by simpa using moves.climit, by simpa using moves.crdRcvd, by simpa using moves.used, by simpa using moves.grant, rng, parts, words⟩
  · obtain ⟨t, ends, moves, rng, parts, words⟩ := execCrdSend_leaves ⟨lo, hi⟩ (.inl sent) sends line
    have out := moves.parts.2 .out (by decide)
    have shown := moves.lastCrd
    have limit := moves.climit
    simp only [State.granting, State.crdGrant, sent] at out shown limit
    exact ⟨t, ends, by simpa [Part.same, State.emit] using out, by simpa using shown, by simpa using limit, rng, parts, words⟩
  · obtain ⟨t, ends, moves, rng, parts, words⟩ := execCrdSend_leaves ⟨lo, hi⟩ (.inr empty) sends line
    have out := moves.parts.2 .out (by decide)
    have granted := moves.grant
    have marked := moves.crdSent
    simp only [State.granting, State.crdGrant, sent] at out granted marked
    exact ⟨t, ends, by simpa [Part.same, State.emit] using out, by simpa using granted, by simpa using marked, rng, parts, words⟩
  · rw [show exec (.crdSend l tc4) s = _ from execCrdSend_returns ⟨lo, hi⟩ (.inl sent) sends looped]
    obtain ⟨t, ends, moves⟩ := execCrd_of_inService (s := s.granting l tc4 (s.crdGrant l tc4)) (l := l) tc4 (s.crdGrant l tc4)
      (by simpa [State.granting] using ⟨lo, hi⟩)
    have ⟨rng, parts, _⟩ := moves.afterLane
    have shown := moves.lastCrd
    have limit := moves.climit
    simp only [State.granting, State.crdGrant, sent] at shown limit
    exact ⟨t, ends, by simpa [State.granting, Part.same] using parts.2 .out (by decide), by simpa using limit, by simpa using shown,
      .trans (by simp [State.granting]) rng, .andThen (by simp [State.granting]) parts⟩
  · refine ⟨fun tc4 => if_neg ?_, if_pos ?_⟩ <;> simp [silent]
  · change execLidLincSend l s = _
    simp [execLidLincSend, on, sends, line]
  · obtain ⟨t, ends⟩ := execLid_next (s := s) (l := l) s.hubNum (if s.laneState l = 3 ∧ (s.lane l).probePassed = true then 4 else s.laneState l)
    refine ⟨t, ends, ?_⟩
    change execLidLincSend l s = execLinc l s.ownInc t
    simp [execLidLincSend, on, sends, looped, ends]
  · change execSusp l s = _
    simp only [execSusp, cur, parked, found, cls, Option.bind_some, decide_false, Option.isSome_none, Bool.or_self, Bool.false_eq_true, if_false]
    exact congrArg _ (State.onLane_congr (by rw [cur]))
  · change execSusp l s = _
    simp [execSusp, cur, parked, found, cls, State.onRng]
  · change execSusp l s = _
    simp [execSusp, cur, parked, State.onRng]
  · change execResm l s = _
    simp [execResm, parked]
  · change execResm l s = _
    simp [execResm, parked, cur, State.onRng]

/-- Settles O9: the lane after the neighbour's report, by what it reports and where the lane stands. -/
theorem lidReportsTheNeighbour : Obligations.LidReportsTheNeighbour := by
  unfold Obligations.LidReportsTheNeighbour
  intro s l hub st told heard
  have lane : heard.lane l = { s.lane l with lid := some (hub % 256), nbrState := st % 16 } := s.lane_onLane_self l _
  have lock : heard.flag F.Lx_LSTAT_BLOCK_LOCK l.ix = s.flag F.Lx_LSTAT_BLOCK_LOCK l.ix := by
    cases l <;> simp (disch := decide) only [heard, told, State.flag_setB_apart, State.flag_set_apart, State.onLane_flag]
  have heard_eq (on : s.laneState l ≠ 0) : execLid l hub st s =
      if (decide (st = 5) || decide (st = 6)) && (decide (s.laneState l = 4) || decide (s.laneState l = 2)
          || (decide (s.laneState l = 3) && (!(heard.lane l).fullProbe || decide (st = 6)))) then .next (heard.removeLane l)
      else if s.laneState l = 5 ∧ heard.flag F.Lx_LSTAT_BLOCK_LOCK l.ix ∧ (st = 5 ∨ st = 3) then .next (heard.enterProbe l true)
      else .next (((heard.tryKeys l).trainDone l).tryUp l) := if_neg on
  refine ⟨fun off => if_pos off, fun out own => ?_, fun own locked out => ?_, fun on own not5 not6 => ?_, ?_⟩
  · change execLid l hub st s = _
    rw [heard_eq (by omega), if_pos]
    rcases own with own | own | ⟨own, short⟩
    · simp [own, out]
    · simp [own, out]
    · simpa [own, out, lane] using short
  · change execLid l hub st s = _
    rw [heard_eq (by omega), if_neg (by simp [own]), if_pos ⟨own, by rw [lock, locked], out⟩]
  · change execLid l hub st s = _
    rw [heard_eq on, if_neg (by simp [not5, not6]), if_neg (fun h => own h.1)]
  · refine ⟨?_, ?_, ?_, ?_, ?_⟩
    · cases l <;> simp (disch := decide) only [heard, State.get_setB_apart, State.get_set_self] <;> rfl
    · cases l <;> simp (disch := decide) only [heard, told, State.laneState, State.get_setB_apart, State.get_set_apart, State.onLane_get]
    · simp [heard, told, State.setB]
    · simp [heard, told]
    · have key (f : Fld) (h : f.key l.ix = F.Lx_LSTAT_STATE.key l.ix) : f.key l.ix ∈ [F.Lx_LSTAT_STATE.key l.ix] := by simp [h]
      simp [heard, told, key F.Lx_LSTAT_NBR rfl, key F.Lx_LSTAT_FACES_TWIN rfl]

end Sys2Proof.Machine

/-! PROOFS. Frame heads and verdicts on a lane (R79, R94 to R101, R344; Table 03-7). -/
namespace Sys2Proof.Machine

/-! ### The head of a frame (R94, R113) -/

/-- What becomes of the head of frame f at a ring lane, kept for a unit or for the twin logic (del) or going on (fwd): the record of the
frame, and the offer to the switch core where its port takes part. -/
def State.headTaken (s : State) (l : Lane) (f : Frame) (h : Nat) (del fwd : Bool) : Out :=
  let keep := del && decide (f.tt ≠ .rctl) && !isTime f
  let r : RxFrame := { lane := l, fr := f, deliver := del, forward := fwd, offered := keep || fwd, capOn := s.capEn, headNs := s.ns,
                       returning := decide (f.tt = .rctl) && decide (f.src = s.hubNum) && decide (f.opc = 4) }
  let noted := (s.onRng fun g => { g with rx := Tbl.put g.rx h r, nextHandle := h + 1 }).onLane l fun q => { q with rxCur := some h }
  if keep || fwd then .next (noted.onSwc fun w => { w with offers := w.offers ++
    [{ port := l.ix, handle := h, deliver := keep, forward := fwd, fr := if fwd then { f with hoplim := f.hoplim - 1 } else f }] })
  else .next noted

/-- A head that a ring lane takes (one that is UP, or a HOPM): the action of the table is counted, a frame that cannot go on is lost, and the rest is taken. -/
theorem execRingFrameHead_of_taken {s : State} {l : Lane} (f : Frame) (ring : l ≠ .t)
    (takes : s.laneState l = 4 ∨ (s.laneState l = 2 ∨ s.laneState l = 3 ∨ s.laneState l = 5) ∧ f.tt = .rctl ∧ f.opc = 9) :
    let a := s.headAction l f
    let counted := (a.2.2.map fun c => s.bump c).getD s
    let fwd := a.2.1 && decide (counted.laneState l.other = 4)
    execRingFrameHead l f s =
      (if a.2.1 && !fwd then counted.bump F.Lx_CNT_RMDROP l.other.ix else counted).headTaken l f s.rng.nextHandle a.1 fwd := by
  intro a counted fwd
  have taken : execRingFrameHead l f s =
      let counted := match a.2.2 with | some c => s.bump c | none => s
      let lost := a.2.1 && decide (counted.laneState l.other ≠ 4)
      (if lost then counted.bump F.Lx_CNT_RMDROP l.other.ix else counted).headTaken l f s.rng.nextHandle a.1 (a.2.1 && !lost) :=
    (if_pos takes).trans (if_neg ring)
  have counted_eq : (match a.2.2 with | some c => s.bump c | none => s) = counted := by
    cases h : a.2.2 <;> simp [counted, h]
  have lost_eq : (a.2.1 && decide (counted.laneState l.other ≠ 4)) = (a.2.1 && !fwd) := by
    cases h : a.2.1 <;> simp [fwd, h]
  have fwd_eq : (a.2.1 && !(a.2.1 && !fwd)) = fwd := by
    cases h : a.2.1 <;> simp [fwd, h]
  simpa only [counted_eq, lost_eq, fwd_eq] using taken

/-- Settles O10: a head by the lane's state, and the rows of Table 03-7. -/
theorem frameHeadsFollowTable : Obligations.FrameHeadsFollowTable := by
  unfold Obligations.FrameHeadsFollowTable
  refine ⟨fun s l f ring up => ?_, fun s l f notUp notLocal => ?_, fun s l f ring training rctl hopm => ?_, fun s f up => ⟨?_, ?_⟩, fun s l f => ?_⟩
  · intro a counted fwd keep lost r o noted
    change execRingFrameHead l f s = _
    rw [execRingFrameHead_of_taken f ring (.inl up), apply_ite Host.Outcome.next]
    rfl
  · refine if_neg fun h => ?_
    rcases h with h | ⟨_, h, h'⟩
    · exact notUp h
    · simp [isLinkLocal, h, h'] at notLocal
  · change execRingFrameHead l f s = _
    have link : isLinkLocal f = true := by simp [isLinkLocal, rctl, hopm]
    have kept : s.headAction l f = (true, false, none) := if_pos link
    rw [execRingFrameHead_of_taken f ring (.inr ⟨training, rctl, hopm⟩), kept]
    simp [State.headTaken, rctl, hopm]
  · change execRingFrameHead .t f s = _
    exact (if_pos (.inl up)).trans (if_pos rfl)
  · unfold State.laneTHead
    dsimp only
    split <;> simp
  · have table : s.headAction l f = s.headAction l f := rfl
    conv at table => rhs; unfold State.headAction
    rw [table]
    refine ⟨fun h => ?_, fun h h1 => ?_, fun h h1 h2 => ?_, fun h h1 h2 h3 => ?_, fun h h1 h2 h3 h4 h5 => ?_, fun h h1 h2 h3 h4 h5 h6 h7 => ?_, fun h h1 h2 h3 h4 h5 h6 => ?_⟩
    · simp [h]
    · simp [h, h1]
    · simp [h, h1, h2]
    · simp [isLinkLocal, h, h1, h2, h3, State.transit]
    · simp [isLinkLocal, h, h2, h3, h4, h5, State.transit]
      omega
    · simp [isLinkLocal, h, h1, h2, h3, h4, h5, h6, h7, State.transit]
    · simp [isLinkLocal, h, h1, h2, h3, h4, h5, h6, State.transit]

/-! ### The verdict on a frame (R79, R100, R101) -/

/-- A count in a register changes that register alone and adds one to the field below its greatest value (R11). -/
theorem State.bump_counts (s : State) (f : Fld) (i : Nat) (hh : f.hi < 32) (hl : f.lo ≤ f.hi) :
    (s.bump f i).get f i = min f.max (s.get f i + 1) ∧ s.OnlyIn [.regs] (s.bump f i) ∧ s.WordsBut [f.key i] (s.bump f i) :=
  ⟨s.get_bump_self i hh hl, by simp, by simp⟩

/-- Settles O11: the verdict by the frame's form, its CRC and its tag, and a good frame by its kind. -/
theorem frameVerdictCountsOrAccepts : Obligations.FrameVerdictCountsOrAccepts := by
  unfold Obligations.FrameVerdictCountsOrAccepts
  refine ⟨fun s h r crcOk tagOk errEnd decided found => ?_, fun s l => ⟨?_, ?_⟩⟩
  · intro f i off u form gone sync shot bad mark good c
    have form_eq : (errEnd || r.blockBad || decide (2048 < f.length) || tooLong f || decide (f.ver ≠ 1) || decide (8 < f.tt.code)) = form := by
      simp only [form, tooLong, Bool.or_assoc]
    have run : c = if r.lane = .t then .next (off.laneTVerdict h r (errEnd || !crcOk))
        else if form || !crcOk || !tagOk then
          .next (bad (if form then u.bump F.Lx_CNT_BADRX i
            else if !crcOk then (u.bump F.Lx_CNT_CRC i).onLane r.lane fun q => { q with wCrc := q.wCrc + 1 }
            else (u.bump F.Lx_CNT_TAG i).onLane r.lane fun q => { q with wTag := q.wTag + 1 }))
        else if isLinkLocal f then
          .next (State.deliver (if f.opc = 9 then good.onLane r.lane fun q => { q with wHopm := q.wHopm + 1 } else good) 12
            { f with ring := decide (r.lane = .w) })
        else if isTime f then
          .next ((if r.deliver then good.deliver (if mgtOp f = 0x20 then 13 else 14) { f with ring := decide (r.lane = .e) } else good).release h)
        else if r.returning then .next (if r.deliver then good.deliver 12 f else good)
        else if r.deliver then
          if mark.transit ∧ f.tt ≠ .rctl then .next ((good.updBuf h fun b => { b with undecided := false }).release h)
          else if f.tt = .rctl ∨ (mark.buf? h).isSome then .next (mark.duplicateDecision h r)
          else .next good
        else .next (good.release h) := by
      rw [← form_eq]
      change execFrameVerdict h crcOk tagOk errEnd s = _
      unfold execFrameVerdict
      rw [if_neg (by simp [decided]), found]
      rfl
    rw [run]
    refine ⟨fun t => if_pos t, fun ring formed => ?_, fun ring formed crc => ?_, fun ring formed crc tag => ?_, fun ring formed crc tag => ?_⟩
    · simp [ring, formed]
    · simp [ring, formed, crc]
    · simp [ring, formed, crc, tag]
    · rw [if_neg ring, if_neg (by simp [formed, crc, tag])]
      refine ⟨fun link hopm => ?_, fun link time del => ?_, fun link time ret del => ?_, fun link del ret => ?_, fun link time ret del out kind => ?_,
        fun link time ret del adm kept => ?_⟩
      · rw [if_pos link, if_pos hopm]
      · simp [link, time, del]
      · simp [link, time, ret, del]
      · simp [link, del, ret]
      · simp [link, time, ret, del, State.transit, out, kind]
      · have own : ¬(mark.transit = true ∧ f.tt ≠ .rctl) := by
          rintro ⟨out, kind⟩
          rcases adm with adm | adm
          · simp [State.transit, adm] at out
          · exact kind adm
        simp [link, time, ret, del, own, kept]
  · exact ⟨_, rfl, s.bump_counts _ _ (by decide) (by decide)⟩
  · exact ⟨_, rfl, s.bump_counts _ _ (by decide) (by decide)⟩

end Sys2Proof.Machine

/-! PROOFS. The duplicate decision, held frames and the cells of a lane (R82, R103 to R105, R148). -/
namespace Sys2Proof

/-- A counter lies no distance from itself. -/
theorem sdiff_self (n a : Nat) : sdiff n a a = 0 := by
  have whole : (a + 2 ^ n - a % 2 ^ n) % 2 ^ n = 0 := by
    rw [Nat.sub_add_comm (Nat.mod_le _ _), Nat.add_mod_right, ← Nat.div_add_mod a (2 ^ n), Nat.mul_add_mod, Nat.mod_mod, Nat.add_sub_cancel,
      Nat.mul_mod_right]
  simp [sdiff, whole]

namespace Machine

/-! ### What the record of a frame changes (R167) -/

/-- The capture ring lies in the switch core, and its state in one register. -/
theorem State.capture_frame (s : State) (on : Bool) (port dir outcome q : Nat) (f : Frame) (time : Nat) :
    s.OnlyIn [.regs, .swc] (s.capture on port dir outcome q f time)
    ∧ s.WordsBut [F.SWC_CAP_STAT_LOST.key 0] (s.capture on port dir outcome q f time) := by
  unfold State.capture
  extract_lets hdr same pass full wrap w h sec rec_ lost trig post next cnt src taken shown
  have key (f : Fld) (h : f.key 0 = F.SWC_CAP_STAT_LOST.key 0) : f.key 0 ∈ [F.SWC_CAP_STAT_LOST.key 0] := by simp [h]
  have stopped := key F.SWC_CAP_STAT_STOPPED rfl
  have triggered := key F.SWC_CAP_STAT_TRIGGERED rfl
  have lost_frame : s.OnlyIn [.regs, .swc] lost ∧ s.WordsBut [F.SWC_CAP_STAT_LOST.key 0] lost := by simp [lost]
  have taken_frame : s.OnlyIn [.regs, .swc] taken ∧ s.WordsBut [F.SWC_CAP_STAT_LOST.key 0] taken :=
    ⟨lost_frame.1.put_swc _ (by decide), lost_frame.2⟩
  have shown_frame : s.OnlyIn [.regs, .swc] shown ∧ s.WordsBut [F.SWC_CAP_STAT_LOST.key 0] shown := by
    simp [shown, triggered, taken_frame]
  simp [stopped, shown_frame]

theorem State.goodRecord_frame (s : State) (h : Nat) (r : RxFrame) :
    s.OnlyIn [.regs, .swc] (s.goodRecord h r) ∧ s.WordsBut [F.SWC_CAP_STAT_LOST.key 0] (s.goodRecord h r) := by
  unfold State.goodRecord
  split
  · exact s.capture_frame ..
  · split
    · simp
    · exact s.capture_frame ..

@[simp] theorem State.goodRecord_rng (s : State) (h : Nat) (r : RxFrame) : (s.goodRecord h r).rng = s.rng :=
  (s.goodRecord_frame h r).1.2 .rng (by decide)

@[simp] theorem State.goodRecord_holdEn (s : State) (h : Nat) (r : RxFrame) :
    (s.goodRecord h r).get F.RNG_HOLD_HOLD_EN = s.get F.RNG_HOLD_HOLD_EN := (s.goodRecord_frame h r).2.get (by decide)

/-! ### The duplicate decision (R103 to R105) -/

/-- With nothing held, nothing follows. -/
theorem State.drainHeld_of_empty (n : Nat) (s : State) {st : Stream} (h : st.held = []) : State.drainHeld n s st = (s, st) := by
  cases n with
  | zero => rfl
  | succ n => simp [State.drainHeld, h, Tbl.find?]

section
variable {s : State} {h : Nat} {r : RxFrame} {st : Stream}

/-- A frame that is rejected is counted and dropped. -/
theorem State.duplicateDecision_of_rejects {c : Fld} (e : s.rejects r.fr = some c) : s.duplicateDecision h r = (s.bump c).dropRx h := by
  unfold State.duplicateDecision
  simp only [e]

/-- The first frame of a stream opens it and is delivered. -/
theorem State.duplicateDecision_of_first (keep : s.rejects r.fr = none) (new : Tbl.find? s.rng.streams (streamKey r.fr) = none) :
    s.duplicateDecision h r =
      ((s.goodRecord h r).deliverRx h).setStream (streamKey r.fr) { inc := r.fr.inc, next := (r.fr.seq + 1) % 2 ^ 32 } := by
  unfold State.duplicateDecision
  simp [keep, new, sdiff_self, State.drainHeld_of_empty]

/-- A frame of a later incarnation opens its stream anew, after what the old one held. -/
theorem State.duplicateDecision_of_later (keep : s.rejects r.fr = none) (old : Tbl.find? s.rng.streams (streamKey r.fr) = some st)
    (later : 0 < sdiff 16 r.fr.inc st.inc) :
    s.duplicateDecision h r = ((State.flushHeld st.held.length (s.goodRecord h r) st).1.deliverRx h).setStream (streamKey r.fr)
      { inc := r.fr.inc, next := (r.fr.seq + 1) % 2 ^ 32 } := by
  unfold State.duplicateDecision
  simp [keep, old, later, sdiff_self, State.drainHeld_of_empty]

/-- A frame of a known stream and its incarnation: the next one is delivered with those that follow, one that runs ahead is held where its
class says so, and else delivered after those held. -/
theorem State.duplicateDecision_of_known (keep : s.rejects r.fr = none) (old : Tbl.find? s.rng.streams (streamKey r.fr) = some st)
    (same : sdiff 16 r.fr.inc st.inc = 0) :
    s.duplicateDecision h r =
      if sdiff 32 r.fr.seq st.next = 0 then
        let x := State.drainHeld 256 ((s.goodRecord h r).deliverRx h) { st with next := (st.next + 1) % 2 ^ 32 }
        x.1.setStream (streamKey r.fr) { x.2 with timer := x.2.timer && !x.2.held.isEmpty }
      else if sdiff 32 r.fr.seq st.next < 256 ∧ bit (s.get F.RNG_HOLD_HOLD_EN) r.fr.tc then
        (s.goodRecord h r).setStream (streamKey r.fr) { st with held := Tbl.put st.held r.fr.seq h, timer := true }
      else
        let x := State.flushHeld st.held.length (s.goodRecord h r) st
        ((x.1.bumpBy F.RNG_CNT_GAP 0 (sdiff 32 r.fr.seq st.next).toNat).deliverRx h).setStream (streamKey r.fr)
          { x.2 with next := (r.fr.seq + 1) % 2 ^ 32, held := [], timer := false } := by
  unfold State.duplicateDecision
  simp only [keep, State.goodRecord_rng, old, same, lt_irrefl, if_false, State.goodRecord_holdEn]

end

/-- Settles O12: the duplicate decision by the stream's numbers, the end of the hold time, and the cells of a lane. -/
theorem streamsDeliverOnceInOrder : Obligations.StreamsDeliverOnceInOrder := by
  unfold Obligations.StreamsDeliverOnceInOrder
  refine ⟨fun s h r => ?_, fun s k q st old low => ?_, fun s l x b at_ plain quiet line sending buf since late starved => ?_,
    fun s l at_ since early => ?_, fun s l h n rest b fifo buf mid plain => ?_⟩
  · dsimp only
    refine ⟨fun new room => State.duplicateDecision_of_first ?_ new, fun new group full => State.duplicateDecision_of_rejects ?_,
      fun st old => ⟨fun earlier => State.duplicateDecision_of_rejects ?_, fun later => State.duplicateDecision_of_later ?_ old later, fun same => ?_⟩⟩
    · unfold State.rejects
      simp only [show Tbl.find? s.rng.streams (streamKey r.fr) = none from new]
      rw [if_neg]
      rintro ⟨group, full⟩
      rcases room with single | room
      · exact single group
      · omega
    · unfold State.rejects
      simp only [show Tbl.find? s.rng.streams (streamKey r.fr) = none from new]
      rw [if_pos ⟨group, full⟩]
    · unfold State.rejects
      simp only [show Tbl.find? s.rng.streams (streamKey r.fr) = some st from old]
      rw [if_neg (by omega), if_pos (.inl earlier)]
    · unfold State.rejects
      simp only [show Tbl.find? s.rng.streams (streamKey r.fr) = some st from old]
      rw [if_pos later]
    · have rejects : s.rejects r.fr = if sdiff 32 r.fr.seq st.next < 0 then some F.RNG_CNT_DUP
          else if sdiff 32 r.fr.seq st.next < 256 ∧ bit (s.get F.RNG_HOLD_HOLD_EN) r.fr.tc ∧ Tbl.has st.held r.fr.seq then some F.RNG_CNT_DUP
          else none := by
        unfold State.rejects
        simp only [show Tbl.find? s.rng.streams (streamKey r.fr) = some st from old, same, lt_irrefl, if_false, false_or]
      refine ⟨fun older => State.duplicateDecision_of_rejects ?_, fun ahead near hold held => State.duplicateDecision_of_rejects ?_,
        fun next fresh => ?_, fun ahead near hold fresh => ?_, fun ahead pass => ?_⟩
      · exact rejects.trans (if_pos older)
      · exact rejects.trans ((if_neg (by omega)).trans (if_pos ⟨near, hold, held⟩))
      · rw [State.duplicateDecision_of_known _ old same, if_pos next]
        refine rejects.trans ((if_neg (by omega)).trans (if_neg ?_))
        rintro ⟨-, hold, held⟩
        simp [fresh hold] at held
      · rw [State.duplicateDecision_of_known _ old same, if_neg (by omega), if_pos ⟨near, hold⟩]
        exact rejects.trans ((if_neg (by omega)).trans (if_neg (by simp [fresh])))
      · rw [State.duplicateDecision_of_known _ old same, if_neg (by omega), if_neg (by simp [pass])]
        exact rejects.trans ((if_neg (by omega)).trans (if_neg (by simp [pass])))
  · change execHoldTimerExpiry k s = _
    simp only [execHoldTimerExpiry, old, low]
  · change execFillTimeout l s = _
    unfold execFillTimeout
    simp [plain, quiet, line, sending, buf, since, late, starved]
  · change execFillTimeout l s = _
    unfold execFillTimeout
    dsimp only
    rw [since]
    generalize Option.bind _ _ = x
    cases x with
    | none => rfl
    | some x => exact if_neg (by omega)
  · intro x u
    have run : execTc0Preempt l s = if Tbl.has s.swc.sending (12 + l.ix) || decide (b.verdict ≠ .good)
        then .next ((s.emit (.word l 4 0)).onLane l fun q => { q with txSusp := true })
        else .next ((u.capture b.capOn l.ix 1 0 (16 * l.ix) x.1 (b.headTime / 2 ^ 32)).release h) := by
      unfold execTc0Preempt
      simp only [fifo, buf, mid, plain]
      rfl
    refine ⟨fun good idle => run.trans (if_neg (by simp [good, idle])), fun waits => run.trans (if_pos ?_)⟩
    rcases waits with waits | waits <;> simp [waits]

end Machine
end Sys2Proof

/-! PROOFS. A write of a register that meets its effect: the effect by the register's block (R7 to R9). -/
namespace Sys2Proof.Machine

section
variable {s t : State} {f : Frame} {r : Fld} {i : Nat} {x : RegRow} {aim : Bool} {a : State.Res}

/-- A row that is the write of its register ends with the answer of the register's effect. -/
theorem State.WritesReg.ends (h : s.WritesReg f r i x) (ha : aim = true)
    (he : writeEffect f x (regOff f.offset) (wordOf f) (r.mult * i) s = (some a, t)) : regRow f aim s = .next (t.settle 5 f a) := by
  rw [h.row_eq ha, he]

end

section
variable {f : Frame} {x : RegRow} {key w d o : Nat} {s : State}

theorem writeEffect_rng (h : x.off = o) (block : o / 0x10000 = 1 := by decide) :
    writeEffect f x key w d s = (some (writeRng x key w d s).1, (writeRng x key w d s).2) := by
  unfold writeEffect
  rw [h, block]
  rfl

theorem writeEffect_swc (h : x.off = o) (block : o / 0x10000 = 2 := by decide) :
    writeEffect f x key w d s = (some (writeSwc x key w d s).1, (writeSwc x key w d s).2) := by
  unfold writeEffect
  rw [h, block]
  rfl

theorem writeEffect_tmq (h : x.off = o) (block : o / 0x10000 = 3 := by decide) :
    writeEffect f x key w d s = (some (writeTmq x key w s).1, (writeTmq x key w s).2) := by
  unfold writeEffect
  rw [h, block]
  rfl

theorem writeEffect_epo (h : x.off = o) (block : o / 0x10000 = 4 := by decide) :
    writeEffect f x key w d s = (some (writeEpo f x key w s).1, (writeEpo f x key w s).2) := by
  unfold writeEffect
  rw [h, block]
  rfl

theorem writeEffect_fpn (h : x.off = o) (block : o / 0x10000 = 5 := by decide) :
    writeEffect f x key w d s = (some (writeFpn x key w d s).1, (writeFpn x key w d s).2) := by
  unfold writeEffect
  rw [h, block]
  rfl

theorem writeEffect_pio (h : x.off = o) (block : o / 0x10000 = 6 := by decide) :
    writeEffect f x key w d s = (some (writePio x key w d s).1, (writePio x key w d s).2) := by
  unfold writeEffect
  rw [h, block]
  rfl

theorem writeEffect_can (h : x.off = o) (block : o / 0x10000 = 7 := by decide) :
    writeEffect f x key w d s = (some (writeCan f x key w d s).1, (writeCan f x key w d s).2) := by
  unfold writeEffect
  rw [h, block]
  rfl

theorem writeEffect_brg (h : x.off = o) (block : o / 0x10000 = 9 := by decide) :
    writeEffect f x key w d s = (some (writeBrg x key w s).1, (writeBrg x key w s).2) := by
  unfold writeEffect
  rw [h, block]
  rfl

theorem writeEffect_tim (h : x.off = o) (block : o / 0x10000 = 10 := by decide) :
    writeEffect f x key w d s = (some (writeTim x key w s).1, (writeTim x key w s).2) := by
  unfold writeEffect
  rw [h, block]
  rfl

theorem writeEffect_rfx (h : x.off = o) (block : o / 0x10000 = 12 := by decide) :
    writeEffect f x key w d s = (some (writeRfx x key w s).1, (writeRfx x key w s).2) := by
  unfold writeEffect
  rw [h, block]
  rfl

theorem writeEffect_img (h : x.off = o) (block : o / 0x10000 = 13 := by decide) :
    writeEffect f x key w d s = (some (writeImg x key w s).1, (writeImg x key w s).2) := by
  unfold writeEffect
  rw [h, block]
  rfl

theorem writeEffect_page (h : x.off = o) (block : o / 0x10000 = 14 := by decide) (page : 0xE1000 ≤ o := by decide) : writeEffect f x key w d s = writePage f x key w d s := by
  unfold writeEffect
  rw [h, block]
  exact if_pos page

theorem writeEffect_cry (h : x.off = o) (block : o / 0x10000 = 14 := by decide) (page : o < 0xE1000 := by decide) :
    writeEffect f x key w d s = (some (writeCry f x key w s).1, (writeCry f x key w s).2) := by
  unfold writeEffect
  rw [h, block]
  exact if_neg (Nat.not_le.mpr page)

theorem writeEffect_ckr (h : x.off = o) (block : o / 0x10000 = 16 := by decide) :
    writeEffect f x key w d s = (some (writeCkr x key w s).1, (writeCkr x key w s).2) := by
  unfold writeEffect
  rw [h, block]
  rfl

theorem writeEffect_mgt (h : x.off = o) (block : o / 0x10000 = 18 := by decide) :
    writeEffect f x key w d s = (some (writeMgt f x key w s).1, (writeMgt f x key w s).2) := by
  unfold writeEffect
  rw [h, block]
  rfl

theorem writeEffect_veer (h : x.off = F.TWN_CTL_VEER.off) :
    writeEffect f x key w d s = (some (twnCtl w s).1, (twnCtl w s).2) := by
  unfold writeEffect
  rw [h]
  rfl

theorem writeEffect_hstCtl (h : x.off = F.HST_CTL_FLUSH.off) :
    writeEffect f x key w d s = (some (hstCtl w s).1, (hstCtl w s).2) := by
  unfold writeEffect
  rw [h]
  rfl

end

/-! ### A stored word -/

section
variable (s : State)

@[simp] theorem State.onlyIn_storeReg {ps : List Part} (t : State) (x : RegRow) (key w : Nat) (h : .regs ∈ ps) :
    s.OnlyIn ps (t.storeReg x key w) ↔ s.OnlyIn ps t := State.onlyIn_setWord s _ _ h

@[simp] theorem State.wordsBut_storeReg {ks : List Nat} (t : State) (x : RegRow) (key w : Nat) (h : key ∈ ks) :
    s.WordsBut ks (t.storeReg x key w) ↔ s.WordsBut ks t := State.wordsBut_setWord s _ _ h

theorem State.get_setWord_ne {g : Fld} {j k : Nat} (w : Word) (h : g.key j ≠ k) : (s.setWord k w).get g j = s.get g j := by
  unfold State.get
  rw [s.word_setWord_ne w _ h]

theorem State.get_storeReg_ne {g : Fld} {j k : Nat} (x : RegRow) (w : Nat) (h : g.key j ≠ k) : (s.storeReg x k w).get g j = s.get g j :=
  s.get_setWord_ne _ h

end

end Sys2Proof.Machine

/-! PROOFS. The states of a lane, its link delay and the bypass (R113 to R118, R127, R341, R342). -/
namespace Sys2Proof.Machine

/-! ### Lane states (R113 to R118) -/

/-- A write of the lane's control register by which its mode and EDDY stay: the word is stored, and a lane in LOCKOUT goes to DOWN. -/
theorem writeRng_reenable {s : State} {x : RegRow} {l : Lane} {w : Nat} (key : Nat) (name : x.off = F.Lx_LCTL_MODE.off) (ring : l ≠ .t)
    (re : bit w 3 = true) (mode : bits w 2 1 = 0) (eddy : bit w 4 = s.flag F.Lx_LCTL_EDDY l.ix) :
    writeRng x key w (F.Lx_LCTL_MODE.mult * l.ix) s = ({}, State.reenable l (s.storeReg x key w)) := by
  have lane : (if F.Lx_LCTL_MODE.mult * l.ix = 0 then Lane.e else .w) = l := by
    cases l with
    | e | w => rfl
    | t => exact absurd rfl ring
  unfold writeRng
  rw [if_pos name]
  simp only [lane, mode, eddy, re]
  simp

/-- Settles O13: each event by the state of the lane. -/
theorem laneStatesFollowQuality : Obligations.LaneStatesFollowQuality := by
  unfold Obligations.LaneStatesFollowQuality
  intro s l i dark lit
  refine ⟨fun on up lock => ?_, fun up => ?_, fun off => if_pos off, fun down => if_pos down, fun out near => ?_, fun down out => ?_,
    fun up => ?_, fun up => ?_, fun sync ctl hiBer => ?_, fun probe enough => if_pos ⟨probe, enough⟩, fun f x h ring re mode eddy => ?_, fun up => if_neg (by simpa using up)⟩
  · exact (if_neg (by simp [on, lock])).trans (by rw [if_neg up])
  · exact (if_neg (by simp [up])).trans (by rw [if_pos up])
  · exact (if_neg (by simp [out])).trans (if_pos ⟨out, near⟩)
  · exact (if_neg down).trans (if_neg fun h => out h.1)
  · exact congrArg _ (if_pos up)
  · exact congrArg _ (if_neg up)
  · intro score recent shown scored c
    have run : c = if s.laneState l = 4 then
          if scored.get F.Lx_LQCFG_THR_OUT i < score then
            if scored.get F.Lx_LQTIM_OUT_WIN i ≤ (s.lane l).badRun + 1 then .next ((scored.onLane l fun q => { q with badRun := 0 }).removeLane l)
            else .next (scored.onLane l fun q => { q with badRun := (s.lane l).badRun + 1 })
          else .next (scored.onLane l fun q => { q with badRun := 0 })
        else if s.laneState l = 3 then
          if score ≤ scored.get F.Lx_LQCFG_THR_IN i ∧ 5 ≤ (s.lane l).wHopm then
            .next (scored.onLane l fun q => { q with probeWindows := q.probeWindows + 1 })
          else .next (scored.onLane l fun q => { q with probeWindows := 0, probePassed := false })
        else .next scored := rfl
    rw [run]
    refine ⟨fun probe up => ?_, fun probe bad => ?_, fun probe good held => ?_, fun up good => ?_, fun up bad => ?_⟩
    · rw [if_neg up, if_neg probe]
    · rw [if_neg (by simp [probe]), if_pos probe, if_neg (by omega)]
    · rw [if_neg (by simp [probe]), if_pos probe, if_pos ⟨good, held⟩]
    · rw [if_pos up, if_neg (by omega)]
    · rw [if_pos up, if_pos bad, apply_ite Host.Outcome.next]
  · have aimed : (atReg f F.Lx_LCTL_MODE 2 && bit (wordOf f) 3) = true := by
      rw [re, h.at_reg (by decide) (by cases l <;> simp_all [i, Lane.ix]), Bool.and_self]
    have effect := writeRng_reenable (regOff f.offset) h.name ring re mode eddy
    refine ⟨_, h.ends aimed ((writeEffect_rng h.name).trans (by rw [effect])), ?_, ?_, ?_⟩
    · have lit : (s.storeReg x (regOff f.offset) (wordOf f)).laneState l = s.laneState l :=
        s.get_storeReg_ne _ _ (by rw [h.aim]; cases l <;> decide)
      unfold State.reenable
      rw [lit]
      split <;> simp [lit]
    · unfold State.reenable
      split <;> simp
    · unfold State.reenable
      rw [show regOff f.offset = F.Lx_LCTL_MODE.key i from h.aim]
      split <;> simp [i]

/-! ### Link delay (R341, R342) -/

/-- Settles O14: the stamps sent, and the filtered delay by the sample. -/
theorem linkDelayIsMeasuredByHopm : Obligations.LinkDelayIsMeasuredByHopm := by
  unfold Obligations.LinkDelayIsMeasuredByHopm
  intro s l
  refine ⟨fun lo hi sends => ?_, fun quiet => if_neg ?_, fun f => ?_⟩
  · intro stamps seen u f
    have looped : u.eddies l = s.eddies l := s.onLane_flag l _ _ _
    refine ⟨fun line => (if_pos ⟨lo, hi, sends⟩).trans (if_neg ?_), fun eddy => (if_pos ⟨lo, hi, sends⟩).trans (if_pos ?_)⟩
    · exact ne_true_of_eq_false (looped.trans line)
    · exact looped.trans eddy
  · rintro ⟨lo, hi, sends⟩
    rcases quiet with quiet | quiet
    · exact quiet ⟨lo, hi⟩
    · simp [quiet] at sends
  · intro u heard d put
    have tim : heard.tim = s.tim := u.onLane_tim l _
    have run (stamped : beAt f.pay 8 8 ≠ 0) (steady : s.tim.steppedAt = none) : execHopm l f s =
        if !(s.lane l).dfSeeded then .next (put d)
        else if 1000 * 2 ^ 16 < (d - heard.tim.df.getD l.ix 0).natAbs then
          if 3 ≤ (s.lane l).dfOut then .next (put d) else .next (heard.onLane l fun q => { q with dfOut := (s.lane l).dfOut + 1 })
        else .next (put (heard.tim.df.getD l.ix 0 + (d - heard.tim.df.getD l.ix 0) / 8)) := by
      refine (if_neg stamped).trans ((if_neg ?_).trans ?_)
      · let sent : Option Nat := ((s.lane l).hopmSent.find? fun x => decide (x.1 = beAt f.pay 8 8)).map fun x => x.2
        change ¬(match sent, heard.tim.steppedAt with
          | some a, some b => decide (a ≤ b)
          | none, some _ => true
          | _, none => false) = true
        rw [tim, steady]
        cases sent <;> simp
      · congr 3
        exact congrArg _ (State.onLane_congr (by simp; rfl))
    rw [tim] at run
    refine ⟨fun bare => if_pos bare, fun stamped steady first => ?_, fun stamped steady seeded near => ?_, fun stamped steady seeded far => ?_⟩
    · exact (run stamped steady).trans (by simp [first])
    · exact (run stamped steady).trans (by rw [if_neg (by simp [seeded]), if_neg (by omega)])
    · exact (run stamped steady).trans (by rw [if_neg (by simp [seeded]), if_pos far, apply_ite Host.Outcome.next])

/-! ### The bypass (R127) -/

/-- The bypass output follows the supplies, the request and the heartbeat, and nothing else changes. -/
theorem State.bypassDrive_frame (s : State) : s.bypassDrive.rng = s.rng
    ∧ s.bypassDrive.flag F.RNG_BYP_CTL_DRIVEN = (s.flag F.PWR_STAT_PG && s.flag F.PWR_STAT_HDPG && s.rng.insertReq && s.rng.heartbeat)
    ∧ s.OnlyIn [.regs] s.bypassDrive ∧ s.WordsBut [F.RNG_BYP_CTL_DRIVEN.key 0] s.bypassDrive :=
  ⟨rfl, s.flag_setB_self _ _ (by decide) rfl, by simp [State.bypassDrive], by simp [State.bypassDrive]⟩

/-- INSERT becoming 0 (R127): a hub that was inserted leaves, with LEAVE if it is admitted. -/
theorem State.insertWrite_false (s : State) : State.insertWrite false s =
    let off := s.setB F.RNG_BYP_CTL_INSERT 0 false
    let left := off.onRng fun r => { r with leaving := true }
    if s.flag F.RNG_BYP_CTL_INSERT then
      if left.transit then left
      else left.sendRctl 8 0xFE (be 1 off.hubNum ++ be 1 0 ++ be 2 (off.get F.RNG_INC)) off.originHoplim
    else off := rfl

/-- INSERT 1 (R127, R410): insertion is requested, which a hub without a fleet key notes, and the bypass is driven. -/
theorem State.insertWrite_true (s : State) : State.insertWrite true s =
    let asked := (s.setB F.RNG_BYP_CTL_INSERT 0 true).onRng fun r =>
      { r with insertReq := true, leaving := false, settling := !s.flag F.RNG_BYP_CTL_INSERT || r.settling }
    (if (!s.flag F.RNG_BYP_CTL_INSERT) = true ∧ s.cry.fleet.isNone = true then asked.note 0x36 14 [1] else asked).bypassDrive := rfl

/-- An enabled lane that is off starts (R127). -/
def State.startLane (s : State) (l : Lane) : State :=
  if s.flag F.Lx_LCTL_EN l.ix ∧ s.laneState l = 0 then s.set F.Lx_LSTAT_STATE l.ix 1 else s

theorem State.startLane_frame (s : State) {l : Lane} (ring : l ≠ .t) : (s.startLane l).rng = s.rng ∧ s.OnlyIn [.regs] (s.startLane l)
    ∧ s.WordsBut [F.Lx_LSTAT_STATE.key 0, F.Lx_LSTAT_STATE.key 1] (s.startLane l) := by
  have key : F.Lx_LSTAT_STATE.key l.ix ∈ [F.Lx_LSTAT_STATE.key 0, F.Lx_LSTAT_STATE.key 1] := by
    cases l <;> simp_all [Lane.ix]
  unfold State.startLane
  split
  · exact ⟨rfl, by simp, (State.wordsBut_set_iff s _ _ _ key).mpr (s.wordsBut_self _)⟩
  · exact ⟨rfl, by simp, by simp⟩

/-- Settles O18: the write of the insertion request, and the commands that drive the bypass output. -/
theorem bypassFollowsInsertAndHeartbeat : Obligations.BypassFollowsInsertAndHeartbeat := by
  unfold Obligations.BypassFollowsInsertAndHeartbeat
  intro s
  refine ⟨fun f x h => ?_, ?_, fun ready => ?_, fun leaving => ?_, fun staying => if_neg (by simp [staying]), ?_, ?_,
    fun settling wanted enabled off => ?_, fun settled => if_neg (by simp [settled])⟩
  · refine h.ends (h.at_first (by decide)) ((writeEffect_rng h.name).trans ?_)
    simp [writeRng, h.name]
  · intro off left
    have out_eq : left.transit = !s.admitted := by
      change (!off.admitted) = _
      rw [show off.admitted = s.admitted from s.flag_setB_apart _ (by decide)]
    rw [State.insertWrite_false]
    refine ⟨fun on adm => ?_, fun on out => ?_, fun was => if_neg (by simp [was])⟩
    · exact (if_pos on).trans (if_neg (ne_true_of_eq_false (out_eq.trans (by simp [adm]))))
    · exact (if_pos on).trans (if_pos (out_eq.trans (by simp [out])))
  · rw [State.insertWrite_true]
    refine congrArg State.bypassDrive (if_neg ?_)
    rintro ⟨new, keyless⟩
    rcases ready with ready | ready
    · simp [ready] at new
    · simp_all
  · have ⟨rng, driven, parts, words⟩ := State.bypassDrive_frame (s.onRng fun r => { r with leaving := false, insertReq := false, settling := false })
    exact ⟨_, if_pos leaving, congrArg RngSt.insertReq rng, congrArg RngSt.leaving rng, driven.trans (by simp), .andThen (by simp) (parts.mono (by decide)), words⟩
  · have ⟨rng, driven, parts, words⟩ := State.bypassDrive_frame (s.onRng fun r => { r with heartbeat := true })
    exact ⟨_, rfl, rng, driven.trans (by simp), .andThen (by simp) (parts.mono (by decide)), words⟩
  · have ⟨rng, driven, parts, words⟩ := State.bypassDrive_frame (s.onRng fun r => { r with heartbeat := false })
    have stays : s.OnlyIn [.regs, .rng] (s.onRng fun r => { r with heartbeat := false }).bypassDrive := .andThen (by simp) (parts.mono (by decide))
    refine ⟨if s.flag F.RNG_BYP_CTL_DRIVEN then
      (s.onRng fun r => { r with heartbeat := false }).bypassDrive.set F.RNG_BYP_CTL_HEARTBEAT_LOST 0 1
      else (s.onRng fun r => { r with heartbeat := false }).bypassDrive, rfl, ?_, ?_, fun was => ?_, ?_, ?_⟩
    · split <;> exact rng
    · split
      · exact (State.flag_set_apart _ _ (by decide)).trans (driven.trans (by simp))
      · exact driven.trans (by simp)
    · rw [if_pos was, State.flag_set_self _ _ _ (by decide) rfl]
      rfl
    · simp [stays]
    · have key : F.RNG_BYP_CTL_HEARTBEAT_LOST.key 0 ∈ [F.RNG_BYP_CTL_DRIVEN.key 0] := by decide
      rw [State.wordsBut_ite, State.wordsBut_set_iff _ _ _ _ key, ite_self]
      exact words
  · let u := s.onRng fun r => { r with settling := false }
    have e := u.startLane_frame (l := .e) (by decide)
    have w := (u.startLane .e).startLane_frame (l := .w) (by decide)
    have parts : s.OnlyIn [.regs, .rng] u := by simp [u]
    refine ⟨(u.startLane .e).startLane .w, if_pos ⟨settling, wanted⟩, ?_, w.1.trans e.1, parts.andThen ((e.2.1.andThen w.2.1).mono (by decide)), e.2.2.trans w.2.2⟩
    have started : (u.startLane .e).laneState .e = 1 := by
      rw [State.startLane, if_pos ⟨enabled, off⟩]
      exact u.laneState_set_self .e 1
    rw [State.startLane]
    split
    · rw [State.laneState_set_apart _ _ (by decide), started]
    · exact started

end Sys2Proof.Machine

/-! PROOFS. Admission, election and the membership map (R21, R23, R106, R119 to R126). -/
namespace Sys2Proof.Machine

/-! ### What the shared operations of the ring change -/

section
variable (s : State)

/-- A new hold time lies within its bounds, and nothing else changes (R106). -/
theorem State.newHold_frame : s.OnlyIn [.regs, .free] s.newHold ∧ s.WordsBut [F.RNG_HOLD_HOLD.key 0] s.newHold
    ∧ 200 ≤ s.newHold.get F.RNG_HOLD_HOLD ∧ s.newHold.get F.RNG_HOLD_HOLD ≤ 50000 := by
  have hold : s.newHold.get F.RNG_HOLD_HOLD = clampN 200 50000 (Config.freeValue s.free).toNat % 2 ^ 16 :=
    State.get_set_self _ 0 _ (by decide) (by decide)
  refine ⟨(State.onlyIn_set s _ _ _ (by decide)).mpr (s.onlyIn_self.put_free _ (by decide)), fun k hk start => ?_, ?_⟩
  · exact State.word_setWord_ne _ _ _ (List.ne_of_not_mem_cons hk)
  · rw [hold]
    unfold clampN
    omega

@[simp] theorem State.newHold_rng : s.newHold.rng = s.rng := rfl
@[simp] theorem State.newHold_out : s.newHold.out = s.out := rfl
@[simp] theorem State.newHold_img : s.newHold.img = s.img := rfl

/-- A change of the map raises its version (R126). -/
theorem State.newVersion_frame :
    let t := (s.set F.RNG_MEMB_VERSION 0 (s.get F.RNG_MEMB_VERSION + 1)).newHold
    t.get F.RNG_MEMB_VERSION = (s.get F.RNG_MEMB_VERSION + 1) % 65536 ∧ 200 ≤ t.get F.RNG_HOLD_HOLD ∧ t.get F.RNG_HOLD_HOLD ≤ 50000
    ∧ s.OnlyIn [.regs, .free] t ∧ s.WordsBut [F.RNG_MEMB_VERSION.key 0, F.RNG_HOLD_HOLD.key 0] t := by
  have ⟨parts, words, lo, hi⟩ := State.newHold_frame (s.set F.RNG_MEMB_VERSION 0 (s.get F.RNG_MEMB_VERSION + 1))
  refine ⟨?_, lo, hi, ?_, fun k hk start => ?_⟩
  · exact (words.get (by decide)).trans (s.get_set_self 0 _ (by decide) (by decide))
  · exact .andThen (by simp) parts
  · rw [words k (fun h => hk (List.mem_cons_of_mem _ h))]
    exact s.word_setWord_ne _ _ (List.ne_of_not_mem_cons hk)

/-- A member is removed from the map, under a new version of it. -/
theorem State.removeMember_frame (hub : Nat) : (s.removeMember hub).rng.members = s.rng.members.filter (fun m => decide (m.hub ≠ hub))
    ∧ (s.removeMember hub).rng.heard = Tbl.erase s.rng.heard hub
    ∧ (s.removeMember hub).get F.RNG_MEMB_VERSION = (s.get F.RNG_MEMB_VERSION + 1) % 65536
    ∧ 200 ≤ (s.removeMember hub).get F.RNG_HOLD_HOLD ∧ (s.removeMember hub).get F.RNG_HOLD_HOLD ≤ 50000
    ∧ s.OnlyIn [.regs, .rng, .free] (s.removeMember hub)
    ∧ s.WordsBut [F.RNG_MEMB_VERSION.key 0, F.RNG_HOLD_HOLD.key 0] (s.removeMember hub) := by
  let u := s.onRng fun r => { r with members := r.members.filter (fun m => decide (m.hub ≠ hub)), heard := Tbl.erase r.heard hub }
  have ⟨version, lo, hi, parts, words⟩ := u.newVersion_frame
  exact ⟨rfl, rfl, version, lo, hi, State.OnlyIn.andThen (t := u) (by simp [u]) (parts.mono (by decide)), words⟩

/-- A hub that returns to transit mode is not admitted, in no election and no candidate. -/
theorem State.toTransit_frame : s.toTransit.admitted = false ∧ s.toTransit.flag F.RNG_RSTAT_ELECTING = false ∧ s.toTransit.rng.candidate = false
    ∧ s.OnlyIn [.regs, .rng] s.toTransit ∧ s.WordsBut [F.RNG_RSTAT_ADMITTED.key 0] s.toTransit := by
  refine ⟨?_, ?_, rfl, by simp [State.toTransit], ?_⟩
  · exact (State.flag_set_apart _ 0 (by decide)).trans (s.flag_set_self 0 0 (by decide) rfl)
  · exact State.flag_set_self _ 0 0 (by decide) rfl
  · unfold State.toTransit
    simp (disch := decide) only [State.wordsBut_onRng, State.wordsBut_set_iff, State.wordsBut_self]

/-- A map that is taken: its members, its version and a new hold time. -/
theorem State.takeMemb_frame (p : List Byte) : (s.takeMemb p).rng = { s.rng with members := parseMemb p }
    ∧ (s.takeMemb p).get F.RNG_MEMB_VERSION = beAt p 0 2 % 65536 ∧ s.OnlyIn [.regs, .rng, .free] (s.takeMemb p) := by
  let u := ((s.onRng fun r => { r with members := parseMemb p }).set F.RNG_MEMB_VERSION 0 (beAt p 0 2)).set F.RNG_MEMB_HOPS 0 (beAt p 2 2)
  have ⟨parts, words, _⟩ := u.newHold_frame
  refine ⟨rfl, ?_, State.OnlyIn.andThen (t := u) (by simp [u]) (parts.mono (by decide))⟩
  rw [show (s.takeMemb p).get F.RNG_MEMB_VERSION = u.get F.RNG_MEMB_VERSION from words.get (by decide)]
  exact (State.get_set_apart _ _ (by decide)).trans (State.get_set_self _ _ _ (by decide) (by decide))

end

/-- None is left where none passes. -/
theorem isEmpty_filter_of_any_eq_false {α : Type} {p : α → Bool} {l : List α} (h : l.any p = false) : l.filter p = [] := by
  simpa using h

/-! ### Admission (R108, R119, R123 to R125) -/

/-- Settles O15: each request by the master's checks, and the answers to this hub. -/
theorem admissionFollowsTheMaster : Obligations.AdmissionFollowsTheMaster := by
  unfold Obligations.AdmissionFollowsTheMaster
  intro s f u p hub mine known refuse strange twin asked
  have run (twinJoined : Bool) (lead : u.master = true) : execAdmreq f twinJoined s =
      if known then .next (u.sendRctl 2 hub (slice p 0 20 ++ u.membPay) u.originHoplim)
      else if strange then .next (refuse 3 2)
      else if twin ∧ !twinJoined then .next (refuse 4 2)
      else
        let places := u.rng.members.filter (fun m => decide (m.hub = hub))
        if !(places.isEmpty || (twin && decide (places.length = 1) && places.all (fun m => m.twin))) then .next (refuse 2 2)
        else if places.isEmpty ∧ 254 ≤ ((u.rng.members.map (fun (m : Member) => m.hub)).eraseDups).length then
          .next ((u.bump F.RNG_ADM_EXH).sendRctl 3 hub (slice p 0 20 ++ be 1 1 ++ be 1 5 ++ be 2 0) (u.bump F.RNG_ADM_EXH).originHoplim)
        else
          let listed := if u.rng.requests.any (fun r => decide (r.1 = p)) then u
            else u.onRng fun g => { g with requests := g.requests ++ [(p, u.up)] }
          .next (if p ∈ listed.rng.admitting then listed else listed.onRng fun g => { g with admitting := g.admitting ++ [p] }) :=
    if_pos lead
  have unknown (free : (u.rng.members.any fun m => decide (m.hub = hub)) = false) : known = false := by
    simp only [List.any_eq_false, decide_eq_true_eq, known, Bool.and_eq_true, not_and] at free ⊢
    exact fun m hm h => absurd h.1 (free m hm)
  refine ⟨fun out loaded up => if_pos ⟨by simp [State.transit, out], loaded, up⟩, fun tj lead member => ?_, fun tj lead new foreign => ?_,
    fun lead new home double => ?_, fun tj lead new home single taken => ?_, fun tj lead home joined free room first waits => ?_,
    fun tj lead home joined free full => ⟨_, ?_, rfl⟩, fun still lead p first => ?_, fun changing => ?_, fun own => if_pos own,
    fun other => ⟨if_neg other, if_neg other⟩, fun own => ?_⟩
  · exact (run tj lead).trans (if_pos member)
  · exact (run tj lead).trans ((if_neg (by simp [new])).trans (if_pos foreign))
  · exact (run false lead).trans ((if_neg (by simp [new])).trans ((if_neg home).trans (if_pos ⟨double, rfl⟩)))
  · refine (run tj lead).trans ((if_neg (by simp [new])).trans ((if_neg home).trans ((if_neg (by simp [single])).trans (if_pos ?_))))
    have some_place : (u.rng.members.filter fun m => decide (m.hub = hub)).isEmpty = false := by simpa using taken
    simp [single, some_place]
  · have empty := isEmpty_filter_of_any_eq_false free
    have alone : ¬(twin = true ∧ (!tj) = true) := by
      rintro ⟨double, apart⟩
      simp [joined double] at apart
    refine (run tj lead).trans ((if_neg (by simp [unknown free])).trans ((if_neg home).trans ((if_neg alone).trans ((if_neg (by simp [empty])).trans
      ((if_neg (by omega)).trans ?_)))))
    rw [if_neg (by simp [first])]
    exact congrArg _ (if_neg waits)
  · have empty := isEmpty_filter_of_any_eq_false free
    have alone : ¬(twin = true ∧ (!tj) = true) := by
      rintro ⟨double, apart⟩
      simp [joined double] at apart
    exact (run tj lead).trans ((if_neg (by simp [unknown free])).trans ((if_neg home).trans ((if_neg alone).trans ((if_neg (by simp [empty])).trans
      (if_pos ⟨by simp [empty], full⟩)))))
  · intro m rest joined next
    have run : execAdmitSend s =
        if s.rng.members.any (fun o => decide (o.hub = m.hub) && decide (o.dcv = m.dcv) && decide (o.inc = m.inc)) then
          .next (rest.sendRctl 2 m.hub (slice p 0 20 ++ rest.membPay) rest.originHoplim)
        else match s.placeTaken p with
        | some reason =>
          let t := if reason = 1 then rest.bump F.RNG_ADM_EXH else rest
          .next (t.sendRctl 3 m.hub (slice p 0 20 ++ be 1 reason ++ be 1 (if reason = 1 then 5 else 2) ++ be 2 0) t.originHoplim)
        | none => .next (next.sendRctl 2 m.hub (slice p 0 20 ++ next.membPay) next.originHoplim) := by
      unfold execAdmitSend
      simp only [still, Option.isSome_none, Bool.false_eq_true, if_false, first]
      exact if_pos lead
    refine ⟨fun free room => ?_, fun taken single strange => ?_⟩
    · have other : (s.rng.members.any fun o => decide (o.hub = m.hub) && decide (o.dcv = m.dcv) && decide (o.inc = m.inc)) = false := by
        simp only [List.any_eq_false, decide_eq_true_eq, Bool.and_eq_true, not_and] at free ⊢
        exact fun o ho h => absurd h.1 (free o ho)
      have place : s.placeTaken p = none := by
        have empty : s.rng.members.filter (fun o => decide (o.hub = beAt p 0 1)) = [] := isEmpty_filter_of_any_eq_false free
        simp [State.placeTaken, empty, room]
      rw [show exec .admitSend s = _ from run, if_neg (by simp [other]), place]
    · have some_place : (s.rng.members.filter fun o => decide (o.hub = beAt p 0 1)).isEmpty = false := by simpa using taken
      have place : s.placeTaken p = some 2 := by
        refine if_pos ?_
        rw [some_place, show bit (beAt p 1 1) 0 = false from single]
        rfl
      rw [show exec .admitSend s = _ from run, if_neg (by simp [strange]), place]
      rfl
  · change execAdmitSend s = _
    unfold execAdmitSend
    simp [changing]
  · let noted := (u.set F.RNG_ADMSTAT_LAST_REFUSE 0 (beAt p 20 1)).bump F.RNG_ADMSTAT_REFUSALS
    have ⟨out, quiet, candidate, parts, words⟩ := noted.toTransit_frame
    have shown : s.OnlyIn [.regs, .rng, .mgt, .inbox] noted.toTransit := .andThen (by simp [noted, u]) (parts.mono (by decide))
    have ends : ∃ t, execRefuse f s = .next t ∧ t.rng.candidate = false ∧ noted.toTransit.OnlyIn [.regs, .rng, .mgt, .inbox] t
        ∧ noted.toTransit.WordsBut [F.MGT_EVL_STAT_DROPS.key 0] t := by
      refine ⟨if beAt p 20 1 ∈ noted.toTransit.rng.refusedLogged then noted.toTransit
        else (noted.toTransit.onRng fun r => { r with refusedLogged := r.refusedLogged ++ [beAt p 20 1] }).note 0x34 1 [beAt p 20 1], ?_, ?_, ?_, ?_⟩
      · exact (if_pos own).trans (apply_ite Host.Outcome.next _ _ _).symm
      · split
        · exact candidate
        · exact congrArg RngSt.candidate (((State.onlyIn_note (ps := [.regs, .mgt]) _ _ _ _ (by decide) (by decide)).mpr
            (State.onlyIn_self _)).2 .rng (by decide))
      · simp
      · simp
    obtain ⟨t, ends, cand, parts', words'⟩ := ends
    refine ⟨t, ends, ?_, ?_, cand, ?_, ?_, shown.andThen parts'⟩
    · exact (words'.flag (by decide)).trans out
    · exact (words'.flag (by decide)).trans quiet
    · rw [words'.get (by decide), words.get (by decide)]
      exact (State.get_bump_apart _ (by decide)).trans (State.get_set_self _ _ _ (by decide) (by decide))
    · rw [words'.get (by decide), words.get (by decide), State.get_bump_self _ _ (by decide) (by decide), State.get_set_apart _ _ (by decide)]

end Sys2Proof.Machine

/-! PROOFS. Beacons, candidacies, elections and the membership map (R21, R23, R106, R119 to R126). -/
namespace Sys2Proof.Machine

/-! ### What a hub that becomes master changes -/

section
variable (s : State)

/-- Time at a new master changes TIM alone (R347, R353). -/
theorem State.timeMaster_frame : s.OnlyIn [.regs, .tim] s.timeMaster
    ∧ s.WordsBut [F.TIM_STAT_TSE.key 0, F.TIM_INCR_INT_I.key 0, F.TIM_INCR_FRAC_I.key 0] s.timeMaster := by
  unfold State.timeMaster State.timeState State.setIncr
  constructor
  · simp (disch := decide) only [State.onlyIn_onTim, State.onlyIn_set, State.onlyIn_setB, State.onlyIn_ite, State.onlyIn_self, ite_self]
  · simp (disch := decide) only [State.wordsBut_onTim, State.wordsBut_set_iff, State.wordsBut_setB, State.wordsBut_ite, State.wordsBut_self,
      ite_self]

/-- The time epochs that merge change TIM.STAT alone. -/
theorem State.timeMerge_frame : s.OnlyIn [.regs] s.timeMerge ∧ s.WordsBut [F.TIM_STAT_TSE.key 0] s.timeMerge := by
  unfold State.timeMerge
  simp

/-- The new master's map: an admitted hub keeps it, another begins one of itself (R21). -/
def State.ownMap (s : State) : State :=
  if s.transit then (s.onRng fun r => { r with members := [s.selfMember], admAt := s.up }).set F.RNG_RSTAT_ADMITTED 0 1 else s

theorem State.ownMap_admitted : s.ownMap.admitted = true := by
  unfold State.ownMap
  split
  · exact State.flag_set_self _ _ _ (by decide) rfl
  · rename_i h
    simpa [State.transit] using h

theorem State.ownMap_members : s.ownMap.rng.members = if s.admitted then s.rng.members else [s.selfMember] := by
  unfold State.ownMap State.transit
  cases s.admitted <;> rfl

/-- The new master: admitted, in no election, with no request and no mode change open. -/
theorem State.becomeMaster_frame : s.becomeMaster.master = true ∧ s.becomeMaster.admitted = true
    ∧ s.becomeMaster.flag F.RNG_RSTAT_ELECTING = false ∧ s.becomeMaster.rng.candidate = false ∧ s.becomeMaster.rng.requests = []
    ∧ s.becomeMaster.rng.admitting = [] ∧ s.becomeMaster.rng.members = s.ownMap.rng.members ∧ s.becomeMaster.img.change = none := by
  let led := s.ownMap.onRng fun r => { r with
    candidate := false, noHub := false, beaconSeen := none, rival := none, requests := [], admitting := [],
    heard := r.members.foldl (fun (t : Map Nat) (m : Member) => Tbl.put t m.hub s.ownMap.up) [] }
  let shown := ((led.set F.RNG_RSTAT_MASTER 0 1).set F.RNG_RSTAT_ELECTING 0 0).showMaster led.hubNum (led.get F.HUB_NODE_MPRIO)
  let fresh := (shown.set F.RNG_MEMB_VERSION 0 (shown.get F.RNG_MEMB_VERSION + 1)).newHold
  let u := (fresh.onTwn fun t => { t with granted := none }).onImg fun g => { g with change := none, resolved := none }
  have e : s.becomeMaster = u.timeMaster := rfl
  have ⟨parts, words⟩ := u.timeMaster_frame
  have ⟨_, _, _, _, words'⟩ := shown.newVersion_frame
  have reg (f : Fld) (h : f.key 0 ∉ [F.TIM_STAT_TSE.key 0, F.TIM_INCR_INT_I.key 0, F.TIM_INCR_FRAC_I.key 0])
      (h' : f.key 0 ∉ [F.RNG_MEMB_VERSION.key 0, F.RNG_HOLD_HOLD.key 0]) : u.timeMaster.flag f = shown.flag f := by
    rw [words.flag h, State.onImg_flag, State.onTwn_flag]
    exact words'.flag h'
  have rng : u.timeMaster.rng = led.rng := parts.2 .rng (by decide)
  rw [e, rng, parts.2 .img (by decide)]
  refine ⟨(reg _ (by decide) (by decide)).trans ?_, (reg _ (by decide) (by decide)).trans ?_, (reg _ (by decide) (by decide)).trans ?_, rfl, rfl, rfl, rfl, rfl⟩
  · simp (disch := decide) only [shown, State.showMaster, State.flag_set_apart]
    exact State.flag_set_self _ _ _ (by decide) rfl
  · simp (disch := decide) only [shown, State.showMaster, State.flag_set_apart]
    exact s.ownMap_admitted
  · simp (disch := decide) only [shown, State.showMaster, State.flag_set_apart]
    exact State.flag_set_self _ _ _ (by decide) rfl

end

/-- A hub that waits for the master's grant of a veer abandons it where the master is lost (R120). -/
def State.dropVeer (s : State) : State :=
  if s.flag F.TWN_VSTAT_PEND && !s.twn.veering then (s.set F.TWN_VSTAT_PEND 0 0).set F.TWN_VSTAT_RESULT 0 4 else s

/-- A member that hears no beacon starts an election, and stands in it where it may lead (R120, R121). -/
theorem execBeaconLoss_of_member {s x : State} (adm : s.admitted = true) (led : s.master = false)
    (left : (((s.set F.RNG_RSTAT_ELECTING 0 1).set F.RNG_RSTAT_MASTER_HUB 0 0xFF).set F.RNG_RSTAT_MASTER_PRIO 0 0).dropVeer = x) :
    execBeaconLoss s = .next (if x.mayLead then (x.onRng fun r => { r with candidate := x.mayLead, lastBetter := s.up }).sendCand
      else x.onRng fun r => { r with candidate := x.mayLead, lastBetter := s.up }) := by
  have up : x.up = s.up := by
    rw [← left, State.dropVeer]
    split <;> rfl
  refine (if_pos ⟨adm, by simp [led]⟩).trans ?_
  rw [← up, ← left]
  rfl

theorem State.dropVeer_of_waiting {u : State} (waits : u.flag F.TWN_VSTAT_PEND = true) (idle : u.twn.veering = false) :
    u.dropVeer = (u.set F.TWN_VSTAT_PEND 0 0).set F.TWN_VSTAT_RESULT 0 4 := if_pos (by rw [waits, idle]; rfl)

/-- A hub that may not lead does not stand in the election. -/
theorem execBeaconLoss_of_follower {s x : State} (adm : s.admitted = true) (led : s.master = false)
    (left : (((s.set F.RNG_RSTAT_ELECTING 0 1).set F.RNG_RSTAT_MASTER_HUB 0 0xFF).set F.RNG_RSTAT_MASTER_PRIO 0 0).dropVeer = x)
    (follows : x.mayLead = false) : execBeaconLoss s = .next (x.onRng fun r => { r with candidate := false, lastBetter := s.up }) := by
  rw [execBeaconLoss_of_member adm led left, follows, if_neg Bool.false_ne_true]

/-- What a member without a master shows once it has abandoned a veer. -/
theorem State.veerDropped_spec (s : State) :
    let shown := ((s.set F.RNG_RSTAT_ELECTING 0 1).set F.RNG_RSTAT_MASTER_HUB 0 0xFF).set F.RNG_RSTAT_MASTER_PRIO 0 0
    let t := ((shown.set F.TWN_VSTAT_PEND 0 0).set F.TWN_VSTAT_RESULT 0 4).onRng fun r => { r with candidate := false, lastBetter := s.up }
    t.flag F.TWN_VSTAT_PEND = false ∧ t.get F.TWN_VSTAT_RESULT = 4 ∧ t.flag F.RNG_RSTAT_ELECTING = true ∧ t.get F.RNG_RSTAT_MASTER_HUB = 0xFF
      ∧ t.rng.candidate = false ∧ s.OnlyIn [.regs, .rng] t := by
  intro shown t
  refine ⟨?_, ?_, ?_, ?_, rfl, ?_⟩
  · rw [State.onRng_flag, State.flag_set_apart _ _ (by decide)]
    exact State.flag_set_self _ _ _ (by decide) rfl
  · rw [State.onRng_get]
    exact State.get_set_self _ _ _ (by decide) (by decide)
  · rw [State.onRng_flag, State.flag_set_apart _ _ (by decide), State.flag_set_apart _ _ (by decide), State.flag_set_apart _ _ (by decide),
      State.flag_set_apart _ _ (by decide)]
    exact State.flag_set_self _ _ _ (by decide) rfl
  · rw [State.onRng_get, State.get_set_apart _ _ (by decide), State.get_set_apart _ _ (by decide), State.get_set_apart _ _ (by decide)]
    exact State.get_set_self _ _ _ (by decide) (by decide)
  · simp [t, shown]

/-- A better candidate or master is never worse. -/
theorem betterMaster_asymm {p h p' h' : Nat} (better : betterMaster p h p' h' = true) : betterMaster p' h' p h = false := by
  simp only [betterMaster, Bool.or_eq_true, Bool.and_eq_true, decide_eq_true_eq, Bool.or_eq_false_iff, Bool.and_eq_false_iff,
    decide_eq_false_iff_not] at better ⊢
  omega

/-- Settles O16: each beacon and candidacy by who hears it, and the election by the time since a better one. -/
theorem masterIsElected : Obligations.MasterIsElected := by
  unfold Obligations.MasterIsElected
  intro s f u hub prio
  refine ⟨fun lead => if_pos lead, fun led => if_neg (by simp [led]), fun lead own new => ?_, fun lead other better => ?_, fun lead other worse => ?_,
    fun led => ?_, fun adm led idle => ?_, fun adm led waits idle prio0 => ?_, fun better => if_pos better, fun worse => if_neg (ne_true_of_eq_false worse),
    fun adm elect lead heard => if_pos ⟨adm, elect, lead, heard⟩, fun out => if_neg (by simp [out]), fun lead led stands quiet => ?_,
    fun early => if_neg (by omega), fun out => if_pos (by simp [State.transit, out]), ?_, fun _ _ => betterMaster_asymm⟩
  · exact (if_pos ⟨lead, own⟩).trans (if_neg new)
  · exact (if_neg fun h => other h.2).trans ((if_pos lead).trans (if_pos better))
  · exact (if_neg fun h => other h.2).trans ((if_pos lead).trans (if_neg (ne_true_of_eq_false worse)))
  · refine ⟨_, (if_neg fun h => ne_true_of_eq_false led h.1).trans (if_neg (ne_true_of_eq_false led)), ?_, ?_, ?_, rfl, rfl, ?_, ?_⟩
    · exact (State.get_set_apart _ _ (by decide)).trans (State.get_set_self _ _ _ (by decide) (by decide))
    · exact State.get_set_self _ _ _ (by decide) (by decide)
    · simp (disch := decide) only [State.showMaster, State.flag_set_apart]
      exact State.flag_set_self _ _ _ (by decide) rfl
    · simp (disch := decide) only [State.showMaster, State.admitted, State.flag_set_apart]
      rfl
    · simp [State.showMaster]
  · intro shown stood
    have none_waits : shown.dropVeer = shown := by
      refine if_neg ?_
      rw [show shown.flag F.TWN_VSTAT_PEND = false by
        simp (disch := decide) only [shown, State.flag_set_apart, idle]]
      exact Bool.false_ne_true
    exact execBeaconLoss_of_member adm led none_waits
  · let shown := ((s.set F.RNG_RSTAT_ELECTING 0 1).set F.RNG_RSTAT_MASTER_HUB 0 0xFF).set F.RNG_RSTAT_MASTER_PRIO 0 0
    have waits' : shown.flag F.TWN_VSTAT_PEND = true := by simp (disch := decide) only [shown, State.flag_set_apart, waits]
    have dropped := State.dropVeer_of_waiting (u := shown) waits' (by simp [shown, idle])
    have follows : ((shown.set F.TWN_VSTAT_PEND 0 0).set F.TWN_VSTAT_RESULT 0 4).mayLead = false := by
      simp (disch := decide) only [shown, State.mayLead, State.get_set_apart, prio0]
      simp
    exact ⟨_, execBeaconLoss_of_follower adm led dropped follows, s.veerDropped_spec⟩
  · have stands' : s.admitted ∧ s.flag F.RNG_RSTAT_ELECTING ∨ s.transit ∧ s.rng.noHub ∧ s.img.loaded := by
      simpa [State.transit] using stands
    refine ⟨_, if_pos ⟨lead, by simp [led], stands', quiet⟩, rfl, ?_⟩
    rw [← s.ownMap_members]
    exact s.becomeMaster_frame
  · simp [betterMaster]

/-! ### The membership map (R106, R119, R126) -/

/-- A hub that returns to transit mode keeps the map. -/
theorem State.toTransit_members (s : State) : s.toTransit.rng.members = s.rng.members := rfl

/-- A member takes the master's map, and returns to transit mode where the map leaves it out. -/
theorem State.takeMemb_or_leave (u : State) (p : List Byte) (present : Bool) :
    ∃ t, (if present then u.takeMemb p else (u.takeMemb p).toTransit) = t ∧ t.rng.members = parseMemb p
      ∧ t.get F.RNG_MEMB_VERSION = beAt p 0 2 % 65536 ∧ (present = true → t = u.takeMemb p)
      ∧ (present = false → t.admitted = false ∧ t.flag F.RNG_RSTAT_ELECTING = false ∧ t.rng.candidate = false)
      ∧ u.OnlyIn [.regs, .rng, .free] t := by
  have ⟨rng, version, parts⟩ := u.takeMemb_frame p
  have ⟨out, quiet, candidate, parts', words'⟩ := (u.takeMemb p).toTransit_frame
  cases present with
  | true => exact ⟨u.takeMemb p, if_pos rfl, by simp [rng], version, fun _ => rfl, by simp, parts⟩
  | false =>
    refine ⟨(u.takeMemb p).toTransit, if_neg Bool.false_ne_true, ?_, (words'.get (by decide)).trans version, by simp, fun _ => ⟨out, quiet, candidate⟩, parts.andThen (parts'.mono (by decide))⟩
    rw [State.toTransit_members, rng]

/-- A master that takes over hubs of another map, none of which clashes with one of its own. -/
theorem execMemb_of_merge {s : State} {f : Frame} :
    let u := (s.take f).onRng fun r => { r with noHub := false }
    u.master = true → f.src ≠ u.hubNum → u.rng.rival = some f.src →
    ((parseMemb f.pay).all fun m => u.rng.members.all fun o => decide (o.hub ≠ m.hub) || (decide (o.inc = m.inc) && decide (o.dcv = m.dcv))) = true →
    let fresh := (parseMemb f.pay).filter fun m => !u.rng.members.any fun o => decide (o.hub = m.hub)
    let met := u.onRng fun r => { r with
      members := u.rng.members ++ fresh, heard := fresh.foldl (fun (t : Map Nat) (m : Member) => Tbl.put t m.hub u.up) u.rng.heard }
    execMemb f s = .next (met.set F.RNG_MEMB_VERSION 0 (met.get F.RNG_MEMB_VERSION + 1)).newHold.timeMerge := by
  intro u lead other rival agree fresh met
  let clash := (parseMemb f.pay).filter fun m => u.rng.members.any (fun o => decide (o.hub = m.hub))
    && !u.rng.members.any (fun b => decide (m.hub = b.hub) && decide (m.inc = b.inc) && decide (m.dcv = b.dcv))
  have none : clash = [] := by
    simp only [clash, List.filter_eq_nil_iff, Bool.and_eq_true, List.any_eq_true, decide_eq_true_eq, Bool.not_eq_true', List.any_eq_false, not_and]
    rintro m hm ⟨o, ho, same⟩
    have agrees := List.all_eq_true.mp (List.all_eq_true.mp agree m hm) o ho
    intro strange
    have := strange o ho
    simp_all
  have run : execMemb f s = .next (clash.foldl (fun s m => s.refuseMember m)
      (met.set F.RNG_MEMB_VERSION 0 (met.get F.RNG_MEMB_VERSION + 1)).newHold).timeMerge :=
    (if_neg fun h => h.2.2 rival).trans (if_pos ⟨lead, other⟩)
  rw [run, none]
  rfl

/-- Settles O17: each message by who hears it. -/
theorem membershipFollowsTheMap : Obligations.MembershipFollowsTheMap := by
  unfold Obligations.MembershipFollowsTheMap
  intro s f u hub present
  refine ⟨fun lead => if_pos lead, fun adm => if_pos adm, fun lead => if_pos lead, fun led => if_neg (ne_true_of_eq_false led),
    fun h lead other member quiet => ⟨_, if_pos ⟨lead, other, member, quiet⟩, s.removeMember_frame h⟩, fun h early => if_neg (by omega),
    fun lead member => ⟨_, if_pos ⟨lead, member⟩, ?_⟩, fun led => if_neg fun h => ne_true_of_eq_false led h.1,
    fun lead other unknown => if_pos ⟨lead, other, unknown⟩, fun lead other rival agree => ?_, fun adm led => ?_, fun out led => ?_⟩
  · have ⟨members, heard, version, lo, hi, parts, words⟩ := (s.take f).removeMember_frame hub
    exact ⟨members, heard, version, lo, hi, .andThen (by simp) (parts.mono (by decide)), words⟩
  · let fresh := (parseMemb f.pay).filter fun m => !u.rng.members.any fun o => decide (o.hub = m.hub)
    let met := u.onRng fun r => { r with
      members := u.rng.members ++ fresh, heard := fresh.foldl (fun (t : Map Nat) (m : Member) => Tbl.put t m.hub u.up) u.rng.heard }
    have ⟨version, _, _, parts, _⟩ := met.newVersion_frame
    have ⟨parts', words'⟩ := (met.set F.RNG_MEMB_VERSION 0 (met.get F.RNG_MEMB_VERSION + 1)).newHold.timeMerge_frame
    refine ⟨_, execMemb_of_merge lead other rival agree, ?_, (words'.get (by decide)).trans version, ?_, ?_⟩
    · exact congrArg RngSt.members (parts'.2 .rng (by decide))
    · exact parts'.2 .out (by decide)
    · exact State.OnlyIn.andThen (t := met) (by simp [met, u]) ((parts.trans parts').mono (by decide))
  · obtain ⟨t, e, members, version, stays, leaves, parts⟩ := u.takeMemb_or_leave f.pay (present (u.takeMemb f.pay))
    refine ⟨t, ?_, members, version, stays, leaves, .andThen (by simp [u]) (parts.mono (by decide))⟩
    rw [← e]
    exact (if_neg fun h => ne_true_of_eq_false led h.1).trans ((if_neg fun h => ne_true_of_eq_false led h.1).trans
      (if_pos ⟨adm, (congrArg Bool.not led).trans rfl⟩))
  · exact (if_neg fun h => ne_true_of_eq_false led h.1).trans ((if_neg fun h => ne_true_of_eq_false led h.1).trans
      (if_neg fun h => ne_true_of_eq_false out h.1))

end Sys2Proof.Machine

/-! PROOFS. Settled requests and the command locks (R41, R56, R59, R216). -/
namespace Sys2Proof.Machine

/-- Settles O19: how a settled request is answered, by its status and whether it was posted. -/
theorem settledRequestsAreAnswered : Obligations.SettledRequestsAreAnswered := by
  unfold Obligations.SettledRequestsAreAnswered
  intro s port f r
  refine ⟨fun fine asked => ?_, fun bad asked => ?_, fun fine posted => ?_, fun bad posted => ?_, fun fails other posted => ?_,
    fun g act twin => ?_, rfl, rfl, rfl, rfl, rfl⟩
  · simp [State.settle, State.answer, fine, asked]
  · simp [State.settle, State.answer, bad, asked]
  · simp [State.settle, State.answer, fine, posted]
  · simp [State.settle, State.answer, bad, posted]
  · simp [State.settle, State.answer, fails, other, posted]
  · simp [State.complete, State.noteDone, act, twin]

/-! ### The command locks -/

section
variable {s : State} {k : LockId} {f : Frame} {x : RegRow}

/-- A read of a lock's register that meets no busy block reads the lock. -/
theorem regRead_of_lockAt {a hub init : Nat} (here : lockAt (regOff a) = some k) (works : s.blockBusy (regOff a / 0x10000) = false) :
    regRead a hub init s = ({ data := wordBytes (lockRead k hub init s).1.toNat }, (lockRead k hub init s).2) := by
  unfold regRead
  simp only [works, here, Bool.false_eq_true, if_false]

/-- A release of a lock frees it for its holder, and for no other initiator. -/
theorem State.WritesReg.release (h : s.WritesReg f k.cmd.1 0 x) (op : wordOf f % k.cmd.2 = 0) :
    exec (.releaseLock k f) s = .next ((locked k f s fun s => ({}, s.unlock k)).2.settle 5 f (locked k f s fun s => ({}, s.unlock k)).1) := by
  have aim : (atReg f k.cmd.1 && decide (wordOf f % k.cmd.2 = 0)) = true := by
    rw [h.at_first (by decide), op]
    rfl
  have name := h.name
  refine h.ends aim ?_
  cases k with
  | epo =>
    have op : wordOf f % 8 = 0 := op
    refine (writeEffect_epo name).trans ?_
    simp [writeEpo, epoCmd, locked, name, LockId.cmd, op]
  | can =>
    have op : wordOf f % 4 = 0 := op
    refine (writeEffect_can name).trans ?_
    simp [writeCan, locked, name, LockId.cmd, op]
  | cry =>
    have op : wordOf f % 4 = 0 := op
    refine (writeEffect_cry name (by decide)).trans ?_
    simp [writeCry, locked, name, LockId.cmd, op]
  | mbx =>
    have op : wordOf f % 256 = 0 := op
    refine (writeEffect_mgt name).trans ?_
    simp [writeMgt, mbxWrite, locked, name, LockId.cmd, op]

theorem locked_of_holds {g : State → State.Res × State} (mine : s.holds k f.src f.init = true) : locked k f s g = g s := if_pos mine

theorem locked_of_not_holds {g : State → State.Res × State} (other : s.holds k f.src f.init = false) :
    locked k f s g = ({ st := .busy }, s) := if_neg (ne_true_of_eq_false other)

end

/-- Settles O26: a free lock goes to its reader, and only its holder or its time frees it. -/
theorem commandLocksHaveOneHolder : Obligations.CommandLocksHaveOneHolder := by
  unfold Obligations.CommandLocksHaveOneHolder
  intro s k f
  refine ⟨fun passes reads here works => ?_, fun x wr op => ⟨fun mine => ⟨?_, Tbl.find?_erase_self _ _⟩, fun other => ?_, fun other posted => ?_⟩,
    fun g other => locked_of_not_holds other, fun l found late => ?_, fun l found early => ?_⟩
  · have run : exec (.cmdLockRead k f) s = .next (State.answered .reg f (regRead f.offset f.src f.init s)) := by
      have h : s.ReadsReg f ⟨regOff f.offset, 0, 0, 0, 0⟩ 0 := ⟨reads, rfl, passes, works⟩
      exact h.row_eq (by simp [here])
    rw [regRead_of_lockAt here works] at run
    refine ⟨fun free => ?_, fun l found => ?_⟩
    · simp only [lockRead, free] at run
      exact ⟨_, run, by simp [State.holds], s.onlyIn_put_locks _, fun j other => Tbl.find?_put_ne _ _ other⟩
    · simp only [lockRead, found] at run
      exact run
  · rw [wr.release op, locked_of_holds mine]
  · rw [wr.release op, locked_of_not_holds other]
  · rw [wr.release op, locked_of_not_holds other]
    simp [State.settle, State.answer, posted]
  · change execCmdLockTimeout k s = _
    simp only [execCmdLockTimeout, found]
    rw [if_neg (by omega)]
  · change execCmdLockTimeout k s = _
    simp only [execCmdLockTimeout, found]
    rw [if_pos early]

end Sys2Proof.Machine

/-! PROOFS. Requests: the register file, reads and writes of the targets (R4 to R10, R29, R44, R50). -/
namespace Sys2Proof.Machine

section
variable {s : State} {f : Frame}

/-- A request without a target is unroutable. -/
theorem atTarget_of_targetOf_none (g : Target → State → State) (none : classOf s.hubNum f.src f.init = none ∨ s.targetOf f = none) :
    atTarget f g s = s.settle 5 f { st := .ur } := by
  rcases none with none | none
  · simp only [atTarget, none]
  · cases h : classOf s.hubNum f.src f.init <;> simp only [atTarget, h, none]

/-- A request that its region refuses is a violation. -/
theorem atTarget_of_refusal {c : InitClass} {r : Nat} {t : Target} (g : Target → State → State) (cls : classOf s.hubNum f.src f.init = some c)
    (aim : s.targetOf f = some t) (refused : s.refusal c f.space f.offset (dataLen f) (permOf f) = some r) :
    atTarget f g s = s.settle t.port f { st := .viol, reason := r } := by
  simp only [atTarget, cls, aim, refused]

/-- A read of a register returns what the register file gives. -/
theorem State.Passes.readClear (hp : s.Passes f .reg) (reads : f.tt = .rd) :
    exec (.readClear f) s = .next (State.answered .reg f (regRead f.offset f.src f.init s)) := by
  change execReadClear f s = _
  rw [execReadClear, if_pos reads, hp.run rfl, if_pos rfl]
  rfl

theorem State.Passes.rd {t : Target} (hp : s.Passes f t) (hb : t.block.any (fun b => s.blockBusy b) = false) (reads : f.tt = .rd)
    (ecc : List (Nat × Bool)) : exec (.rd f ecc) s = .next (performRd t f ecc s) := by
  change execRd f ecc s = _
  rw [execRd, if_pos reads, hp.run hb]

theorem State.Passes.wr {t : Target} (hp : s.Passes f t) (hb : t.block.any (fun b => s.blockBusy b) = false) (writes : f.tt = .wr) :
    exec (.wr f) s = .next (performWr t f s) := by
  change execWr f s = _
  rw [execWr, if_pos writes, hp.run hb]

theorem State.Passes.wrn {t : Target} (hp : s.Passes f t) (hb : t.block.any (fun b => s.blockBusy b) = false) (writes : f.tt = .wrn) :
    exec (.wrn f) s = .next (performWr t f s) := by
  change execWrn f s = _
  rw [execWrn, if_pos writes, hp.run hb]

/-- A block in reset or gated answers a write of no register, or of one whose RWI bits stay, with BUSY. -/
theorem regWrite_of_blockBusy (busy : s.blockBusy (regOff f.offset / 0x10000) = true)
    (same : ∀ r, regRow? (regOff f.offset) = some r → s.fixedChange f r = 0) : regWrite f s = (some { st := .busy }, s) := by
  cases row : regRow? (regOff f.offset) with
  | none => simp only [regWrite, row, busy, if_true]
  | some r => rw [regWrite_eq row, if_neg (not_not_intro (same r row)), if_pos busy]

theorem regWrite_of_no_row (works : s.blockBusy (regOff f.offset / 0x10000) = false) (none : regRow? (regOff f.offset) = none) :
    regWrite f s = (some {}, s) := by
  simp only [regWrite, none, works, Bool.false_eq_true, if_false]

/-- The blocks HUB, NSW, REF and PWR have no register whose write does more than store. -/
theorem writeEffect_of_plain_block {r : RegRow} {key w d : Nat} (block : r.off / 0x10000 ∈ [0, 8, 11, 17]) :
    writeEffect f r key w d s = (some {}, s.storeReg r key w) := by
  unfold writeEffect
  simp only [List.mem_cons, List.not_mem_nil, or_false] at block
  rcases block with b | b | b | b <;> rw [b] <;> rfl

theorem regRead_of_blockBusy {a hub init : Nat} (busy : s.blockBusy (regOff a / 0x10000) = true) :
    regRead a hub init s = ({ st := .busy }, s) := by
  simp only [regRead, busy, if_true]

theorem regRead_of_no_row {a hub init : Nat} (works : s.blockBusy (regOff a / 0x10000) = false) (noLock : lockAt (regOff a) = none)
    (none : regRow? (regOff a) = none) : regRead a hub init s = ({ data := wordBytes 0 }, s) := by
  simp only [regRead, works, noLock, none, Bool.false_eq_true, if_false]

/-- The state in which a read of the register r has cleared its RC fields. -/
def State.clearRead (s : State) (r : RegRow) (key : Nat) : State :=
  if r.mask (fun x => decide (x.acc = .rc)) = 0 then s else s.setWord key (BitVec.ofNat 32 (clearedWord r (s.stored r key)))

/-- A register read shows the word without its WO fields and clears the RC fields. -/
theorem regRead_of_row {a hub init : Nat} {r : RegRow} (works : s.blockBusy (regOff a / 0x10000) = false) (noLock : lockAt (regOff a) = none)
    (row : regRow? (regOff a) = some r) (shown : hiddenFrom (regOff a) hub init s = false) (rxq : r.off ≠ F.PEnn_RXQ_DATA.off)
    (idata : r.off ≠ F.PEnn_IDATA_WORD.off) (closed : (s.clearRead r (s.keyAt r (regOff a))).openMask r.off (regOff a - r.off) = 0) :
    regRead a hub init s = ({ data := wordBytes (readWord r (s.shown r.off (regOff a - r.off) (s.keyAt r (regOff a)) r.start)) },
      s.clearRead r (s.keyAt r (regOff a))) := by
  have run : regRead a hub init s = ({ data := wordBytes (readWord r (s.shown r.off (regOff a - r.off) (s.keyAt r (regOff a)) r.start)) },
      if (s.clearRead r (s.keyAt r (regOff a))).openMask r.off (regOff a - r.off) = 0 then s.clearRead r (s.keyAt r (regOff a))
      else { s.clearRead r (s.keyAt r (regOff a)) with free := (s.clearRead r (s.keyAt r (regOff a))).free + 1 }) := by
    simp only [regRead, works, noLock, row, shown, rxq, idata, Bool.false_eq_true, if_false]
    rfl
  rw [run, if_pos closed]

end

/-- Settles O21: a write and a read by the register they meet. -/
theorem registerAccessFollowsTypes : Obligations.RegisterAccessFollowsTypes := by
  unfold Obligations.RegisterAccessFollowsTypes
  intro s f off writes fixed
  refine ⟨fun none => ⟨fun w => ?_, fun r => ?_⟩, fun passes => ⟨fun busy => ⟨fun w same => ?_, fun r => ?_⟩, fun works none => ⟨fun w => ?_, fun r noLock => ?_⟩,
    fun r works row block same w => ?_, ?_⟩⟩
  · change execRegisterWrite f s = _
    rw [execRegisterWrite, if_pos w, atTarget_of_targetOf_none _ (.inr none)]
  · change execReadClear f s = _
    rw [execReadClear, if_pos r, atTarget_of_targetOf_none _ (.inr none)]
  · exact passes.registerWrite w (regWrite_of_blockBusy busy same)
  · rw [passes.readClear r, regRead_of_blockBusy busy]
    rfl
  · exact passes.registerWrite w (regWrite_of_no_row works none)
  · rw [passes.readClear r, regRead_of_no_row works noLock none]
    rfl
  · exact passes.registerWrite w ((regWrite_of_noChange row same works).trans (writeEffect_of_plain_block block))
  · intro r works noLock row shown rxq idata reads key cleared closed
    rw [passes.readClear reads, regRead_of_row works noLock row shown rxq idata closed]
    rfl

/-- Errors of both bits that a read of a bulk buffer meets change the register file alone. -/
theorem foldl_eccErrors (l : List Nat) (s : State) :
    ∃ m, l.foldl (fun s n => ((s.bump F.SWC_CNT_UNCORR).set F.SWC_ECC_LAST_CELL 0 n).set F.SWC_ECC_LAST_SEEN 0 1) s = { s with regs := m } := by
  induction l generalizing s with
  | nil => exact ⟨s.regs, rfl⟩
  | cons n l ih =>
    obtain ⟨m, e⟩ := ih (((s.bump F.SWC_CNT_UNCORR).set F.SWC_ECC_LAST_CELL 0 n).set F.SWC_ECC_LAST_SEEN 0 1)
    exact ⟨m, e.trans rfl⟩

section
variable {s : State} {f : Frame} {ecc : List (Nat × Bool)}

/-- A read of a bulk buffer without an error of both bits returns the bytes; the errors of one bit are counted. -/
theorem readBulk_clean {b : BulkBuf} (clean : eccOf ecc (bulkCellsOf s b f.offset f.len) true = []) :
    readBulk b f ecc s = ({ data := Mem.readN s.bulk f.offset f.len },
      s.bumpBy F.SWC_CNT_CORR 0 (eccOf ecc (bulkCellsOf s b f.offset f.len) false).length) := by
  simp only [readBulk, clean, List.isEmpty_nil, if_true, State.bumpBy_bulk]

/-- A read of a bulk buffer that meets an error of both bits is poisoned. -/
theorem readBulk_bad {b : BulkBuf} (bad : eccOf ecc (bulkCellsOf s b f.offset f.len) true ≠ []) :
    ∃ m, readBulk b f ecc s = ({ st := .poison, data := zeros f.len }, { s with regs := m }) := by
  obtain ⟨m, e⟩ := foldl_eccErrors (eccOf ecc (bulkCellsOf s b f.offset f.len) true)
    (s.bumpBy F.SWC_CNT_CORR 0 (eccOf ecc (bulkCellsOf s b f.offset f.len) false).length)
  refine ⟨m, ?_⟩
  simp only [readBulk, List.isEmpty_eq_false_iff.mpr bad, Bool.false_eq_true, if_false, e]
  rfl

theorem readObjs_clean (clean : eccOf ecc (objsOf f.offset f.len) true = []) :
    readObjs f ecc s = ({ data := epoBytes s f.offset f.len }, s.bumpBy F.EPO_CNT_CORR 0 (eccOf ecc (objsOf f.offset f.len) false).length) := by
  simp only [readObjs, clean, List.isEmpty_nil, if_true]
  rfl

theorem readObjs_bad (bad : eccOf ecc (objsOf f.offset f.len) true ≠ []) :
    ∃ u, readObjs f ecc s = ({ st := .poison, data := zeros f.len }, u) := by
  simp only [readObjs, List.isEmpty_eq_false_iff.mpr bad, Bool.false_eq_true, if_false]
  exact ⟨_, rfl⟩

end

/-- Settles O22: the checks of R50 first, then the access by its target. -/
theorem requestsPassChecksThenPerform : Obligations.RequestsPassChecksThenPerform := by
  unfold Obligations.RequestsPassChecksThenPerform
  intro s f
  refine ⟨fun none => ?_, fun c t r cls aim refused => ?_, fun b passes => ⟨fun ecc reads free clean => ?_, fun ecc reads free bad => ?_, fun reads busy ecc => ?_,
    fun writes posted free => ?_, fun writes free => ?_⟩, fun passes works reads ecc => ⟨fun clean => ?_, fun bad => ?_⟩⟩
  · refine ⟨fun k ecc => ?_, fun k => ?_, fun k => ?_, fun k op => ?_⟩
    · change execRd f ecc s = _
      rw [execRd, if_pos k, atTarget_of_targetOf_none _ none]
    · change execWr f s = _
      rw [execWr, if_pos k, atTarget_of_targetOf_none _ none]
    · change execWrn f s = _
      rw [execWrn, if_pos k, atTarget_of_targetOf_none _ none]
    · change execSwap f s = _
      rw [execSwap, rmwCmd, if_pos ⟨k, .inl op⟩, atTarget_of_targetOf_none _ none]
  · refine ⟨fun k ecc => ?_, fun k => ?_, fun k => ?_⟩
    · change execRd f ecc s = _
      rw [execRd, if_pos k, atTarget_of_refusal _ cls aim refused]
    · change execWr f s = _
      rw [execWr, if_pos k, atTarget_of_refusal _ cls aim refused]
    · change execWrn f s = _
      rw [execWrn, if_pos k, atTarget_of_refusal _ cls aim refused]
  · rw [passes.rd rfl reads, performRd, if_neg (ne_true_of_eq_false free), readBulk_clean clean]
    rfl
  · obtain ⟨m, e⟩ := readBulk_bad bad
    refine ⟨{ s with regs := m }, ?_, rfl⟩
    rw [passes.rd rfl reads, performRd, if_neg (ne_true_of_eq_false free), e]
    rfl
  · rw [passes.rd rfl reads, performRd, if_pos busy]
    rfl
  · refine ⟨({ s with bulk := Mem.writeN s.bulk f.offset f.pay } : State).take f, ?_, rfl, fun k h => Mem.read_writeN_in _ _ _ _ h,
      fun a h => Mem.read_writeN_out _ _ _ _ h⟩
    rw [passes.wr rfl writes, performWr, if_neg (ne_true_of_eq_false free)]
    simp [State.settle, State.answer, posted]
  · refine ⟨Mem.writeN s.bulk f.offset f.pay, ?_, fun k h => Mem.read_writeN_in _ _ _ _ h, fun a h => Mem.read_writeN_out _ _ _ _ h⟩
    rw [passes.wrn rfl writes, performWr, if_neg (ne_true_of_eq_false free)]
    rfl
  · rw [passes.rd (by simp [Target.block, works]) reads, performRd, readObjs_clean clean]
    rfl
  · obtain ⟨u, e⟩ := readObjs_bad (s := s) bad
    refine ⟨u, ?_⟩
    rw [passes.rd (by simp [Target.block, works]) reads, performRd, e]
    rfl

section
variable {s : State} {f : Frame} {b : BulkBuf}

theorem State.Passes.rmwBulk (passes : s.Passes f (.win (.bulk b))) (kind : f.tt = .rmw) (free : s.held f = false) (op : RmwOp) (code : f.opc = op.code) :
    rmwCmd op f s = State.answered (.win (.bulk b)) f (rmwOn op f (Mem.readN s.bulk f.offset f.len)
      (fun d => ({}, { s with bulk := Mem.writeN s.bulk f.offset d })) s) := by
  rw [rmwCmd, if_pos ⟨kind, .inl code⟩, passes.run rfl, performRmw, if_neg (ne_true_of_eq_false free)]

/-- A read-modify-write of a bulk buffer with a new value returns the old bytes and stores the value. -/
theorem State.Passes.rmwBulk_stores (passes : s.Passes f (.win (.bulk b))) (kind : f.tt = .rmw) (free : s.held f = false) (op : RmwOp)
    (code : f.opc = op.code) {v : Nat} (new : rmwNew op f.len (unbe (Mem.readN s.bulk f.offset f.len)) (rmwArgs f).1 (rmwArgs f).2 = some v) :
    (.next (rmwCmd op f s) : Host.Outcome State Fault Refusal) =
      .next (({ s with bulk := Mem.writeN s.bulk f.offset (be f.len v) } : State).settle 5 f { data := Mem.readN s.bulk f.offset f.len }) := by
  rw [passes.rmwBulk kind free op code, rmwOn, new]
  rfl

end

/-- Settles O23: each operation by the new value that it forms. -/
theorem rmwReturnsOldStoresNew : Obligations.RmwReturnsOldStoresNew := by
  unfold Obligations.RmwReturnsOldStoresNew
  intro s f b kind passes free old x stored
  have run := passes.rmwBulk_stores kind free
  refine ⟨fun c => run .swap c rfl, fun c same => run .cas c (if_pos same), fun c other => ?_, fun c => run .fadd c rfl, fun c => run .fand c rfl,
    fun c => run .for c rfl, fun c => run .fxor c rfl⟩
  change execCas f s = _
  rw [execCas, passes.rmwBulk kind free .cas c, rmwOn,
    show rmwNew .cas f.len (unbe (Mem.readN s.bulk f.offset f.len)) (rmwArgs f).1 (rmwArgs f).2 = none from if_neg other]
  rfl

end Sys2Proof.Machine

/-! PROOFS. Tags, the host ports' frames, aborts and notices (R36, R46 to R51, R62, R74 to R76, R90 to R92). -/
namespace Sys2Proof.Machine

section
variable {s : State} {f : Frame}

/-- A completion without an open tag is counted: late while its tag is reserved, else unexpected. -/
theorem execCmp_of_closed (whole : (s.take f).cmpBuf f = none) (remote : f.fLocal = false)
    (closed : Tbl.find? s.hub.opened (f.init * 1024 + f.tag) = none) : execCmp f s =
      .next (if Tbl.has s.hub.reserved (f.init * 1024 + f.tag) then (s.take f).bump F.HUB_CNT_LATECMP else (s.take f).bump F.HUB_CNT_UNEXPCMP) := by
  simp only [execCmp, whole, remote, State.take_hub, closed, Bool.false_eq_true, false_and, if_false]
  rfl

/-- A completion of an open tag of a unit closes it. -/
theorem execCmp_of_open {o : OpenTx} (whole : (s.take f).cmpBuf f = none) (remote : f.fLocal = false)
    (found : Tbl.find? s.hub.opened (f.init * 1024 + f.tag) = some o) (unit : o.hostTag = none) (access : o.req.tt ≠ .mgt) :
    execCmp f s = .next ((s.take f).closeTag (f.init * 1024 + f.tag)) := by
  simp only [execCmp, whole, remote, State.take_hub, found, unit, access, Bool.false_eq_true, false_and, if_false, Option.isSome_none,
    Bool.false_and, decide_false]

end

/-- Settles O24: each command by what it finds of the tag. -/
theorem tagsOpenCloseAndRest : Obligations.TagsOpenCloseAndRest := by
  unfold Obligations.TagsOpenCloseAndRest
  intro s f init tag g u key w
  refine ⟨fun t unit reach free => ?_, fun unit reach none fresh => ?_, fun away => ?_, fun whole remote closed resv => ?_, fun whole remote closed resv => ?_,
    fun o => execCmp_of_open, fun o found unit late => ?_, fun o t found host late => ?_, fun o found early => ?_, fun t found late => ?_⟩
  · change execTagWaitSend f s = _
    simp only [execTagWaitSend, unit, reach, free, Bool.not_true, Bool.false_eq_true, or_self, if_false]
    rfl
  · change execTagWaitSend f s = _
    simp only [execTagWaitSend, unit, reach, none, Bool.not_true, Bool.false_eq_true, or_self, if_false]
    rw [if_neg (ne_true_of_eq_false fresh)]
  · change execTagWaitSend f s = _
    have out : f.dst = 0xFE ∨ (!s.reachable f.dst) = true := away.imp id fun out => by rw [out]; rfl
    simp only [execTagWaitSend, out, if_true]
    rfl
  · change execCmp f s = _
    rw [execCmp_of_closed whole remote closed, if_pos resv]
  · change execCmp f s = _
    rw [execCmp_of_closed whole remote closed, if_neg (ne_true_of_eq_false resv)]
  · change execCompletionTimeout init tag s = _
    simp only [execCompletionTimeout, key] at found ⊢
    simp only [found, unit, if_neg (Nat.not_lt.mpr late)]
    rfl
  · change execCompletionTimeout init tag s = _
    simp only [execCompletionTimeout, key] at found ⊢
    simp only [found, host, if_neg (Nat.not_lt.mpr late)]
  · change execCompletionTimeout init tag s = _
    simp only [execCompletionTimeout, key] at found ⊢
    simp only [found, if_pos early]
  · change execTagReserveExpiry init tag s = _
    simp only [execTagReserveExpiry, key] at found ⊢
    simp only [found, if_neg (Nat.not_lt.mpr late)]

/-! ### Aborts and notices -/

section
variable {s : State} {f : Frame}

/-- An abort that is well formed and not of another's transaction acts on the first unit that holds its target. -/
theorem execAbort_of_mine (good : mgtRefused (s.take f).hubNum f = false) (long : f.pay.length = 8) (named : bit (beAt f.pay 1 1) 0 = false)
    (mine : f.src = beAt f.pay 2 1 ∧ (f.init = beAt f.pay 3 1 ∨ f.init = 0)) : execAbort f s =
      match (s.take f).abortFar f <|> (s.take f).abortJob f <|> (s.take f).abortCopy f <|> (s.take f).abortRead f with
      | some t => .next t
      | none => .next (if (s.take f).openElsewhere f then (s.take f).answer 7 f { st := .ur }
        else (s.take f).answer ((s.take f).latePort f) f { st := .abortLate }) := by
  have bad : ¬(mgtRefused (s.take f).hubNum f = true ∨ f.pay.length ≠ 8 ∨ bit (beAt f.pay 1 1) 0 = true) := by simp [good, long, named]
  have own : ¬((!(decide (f.src = beAt f.pay 2 1) && (decide (f.init = beAt f.pay 3 1) || decide (f.init = 0)))) = true) := by
    simpa [mine.1, or_iff_not_imp_left] using mine.2
  exact (if_neg bad).trans (if_neg own)

/-- A notice that passes the checks of a management request goes to its sink. -/
theorem execErrn_of_good (good : mgtRefused s.hubNum f = false) : execErrn f s =
    if beAt f.pay 3 1 ≠ 0 ∨ beAt (slice f.pay 4 32) 17 1 ≠ (s.take f).hubNum then .next ((s.take f).toSink (beAt f.pay 3 1) f)
    else if ((s.take f).sinkOf (beAt (slice f.pay 4 32) 16 1)).1 = (s.take f).hubNum then
      .next ((s.take f).toSink ((s.take f).sinkOf (beAt (slice f.pay 4 32) 16 1)).2 f)
    else .next ((s.take f).notice ((s.take f).sinkOf (beAt (slice f.pay 4 32) 16 1)).1
      (slice f.pay 0 3 ++ be 1 ((s.take f).sinkOf (beAt (slice f.pay 4 32) 16 1)).2 ++ slice f.pay 4 32)) :=
  if_neg (ne_true_of_eq_false good)

end

/-- Settles O25: each request by its checks, in their order. -/
theorem gatewayAbortAndNotice : Obligations.GatewayAbortAndNotice := by
  unfold Obligations.GatewayAbortAndNotice
  refine ⟨?_, fun s f => ?_, fun s f => ⟨fun bad => if_pos bad, fun good sink => ?_, fun good sink own => ?_⟩⟩
  · intro s p eth init
    have open' (on : s.flag F.Hx_CTL_EN p.ix = true) : ¬((!s.flag F.Hx_CTL_EN p.ix) = true) := by simp [on]
    refine ⟨fun ok off => if_pos (by simp [off]), fun on => if_neg (open' on), fun on long => ?_, fun on fits ptp => ?_, fun on fits act other => ?_⟩
    · exact (if_neg (open' on)).trans ((if_neg (by simp)).trans (if_pos long))
    · exact (if_neg (open' on)).trans ((if_neg (by simp)).trans ((if_neg (Nat.not_lt.mpr fits)).trans (if_pos ptp)))
    · exact (if_neg (open' on)).trans ((if_neg (by simp)).trans ((if_neg (Nat.not_lt.mpr fits)).trans
        ((if_neg other).trans (if_neg (ne_true_of_eq_false act)))))
  · intro u mine served good long named
    refine ⟨fun other => ?_, fun own idle x found => ?_, fun own idle noCopy noRead => ?_⟩
    · have bad : ¬(mgtRefused (s.take f).hubNum f = true ∨ f.pay.length ≠ 8 ∨ bit (beAt f.pay 1 1) 0 = true) := by
        simp only [u] at good
        simp [good, long, named]
      exact (if_neg bad).trans (if_pos (by simpa [mine, imp_iff_not_or] using other))
    · obtain ⟨far, job⟩ : u.abortFar f = none ∧ u.abortJob f = none := by simpa [served] using idle
      have ended : u.abortCopy f = some ((u.onEpo fun e => { e with copies := e.copies.eraseP fun c => isNamed f c.req }).partDone 5 f x.sent) := by
        rw [State.abortCopy, found]
        rfl
      refine (execAbort_of_mine good long named own).trans ?_
      rw [far, job, ended]
      rfl
    · obtain ⟨far, job⟩ : u.abortFar f = none ∧ u.abortJob f = none := by simpa [served] using idle
      refine (execAbort_of_mine good long named own).trans ?_
      rw [far, job, noCopy, noRead]
      rfl
  · refine (execErrn_of_good good).trans ((if_pos (.inl sink)).trans ?_)
    rw [State.toSink, if_neg sink]
  · intro hub k
    have run := (execErrn_of_good good).trans (if_neg (not_or.mpr ⟨not_not_intro sink, not_not_intro own⟩))
    refine ⟨fun here host => ?_, fun here none => ?_, fun away => run.trans (if_neg away)⟩
    · refine run.trans ((if_pos here).trans ?_)
      rw [State.toSink, if_neg host]
    · refine run.trans ((if_pos here).trans ?_)
      rw [State.toSink, if_pos none]

end Sys2Proof.Machine

/-! PROOFS. The switch core: heads, slots, matching, waiting frames and samples (R129 to R153, R157, R166, R168, R179). -/
namespace Sys2Proof.Machine

/-- A frame of the register file holds for every longer list of registers. -/
theorem State.WordsBut.mono {ks ls : List Nat} {s t : State} (h : s.WordsBut ks t) (sub : ks ⊆ ls) : s.WordsBut ls t :=
  fun k out d => h k (fun mem => out (sub mem)) d

/-! ### No operation within a slot counts the slots -/

section
variable (s : State)

/-- The slot number of a state in one of two branches. -/
theorem State.slot_ite (c : Prop) [Decidable c] (t u : State) : (if c then t else u).swc.slot = if c then t.swc.slot else u.swc.slot := by
  split <;> rfl

@[simp] theorem State.updBuf_slot (h : Nat) (g : Buf → Buf) : (s.updBuf h g).swc.slot = s.swc.slot := rfl
@[simp] theorem State.setQueue_slot (q : Nat) (v : QSt) : (s.setQueue q v).swc.slot = s.swc.slot := rfl
@[simp] theorem State.unlinkQ_slot (q h : Nat) : (s.unlinkQ q h).swc.slot = s.swc.slot := rfl
@[simp] theorem State.offer_slot (port : Nat) (f : Frame) : (s.offer port f).swc.slot = s.swc.slot := rfl

@[simp] theorem State.sendPosted_slot (port : Nat) (f : Frame) : (s.sendPosted port f).swc.slot = s.swc.slot := by
  unfold State.sendPosted
  split <;> rfl

@[simp] theorem State.notice_slot (hub : Nat) (p : List Byte) : (s.notice hub p).swc.slot = s.swc.slot := by
  simp [State.notice, State.slot_ite]

@[simp] theorem State.copyLog_slot (n : Nat) (e : List Word) : (s.copyLog n e).swc.slot = s.swc.slot := by
  simp [State.copyLog, State.slot_ite]

@[simp] theorem State.postedError_slot (f : Frame) (st : Status) (detail : Nat) : (s.postedError f st detail).swc.slot = s.swc.slot := by
  simp [State.postedError, State.slot_ite]

@[simp] theorem State.complete_slot (port : Nat) (f : Frame) : (s.complete port f).swc.slot = s.swc.slot := by
  simp [State.complete, State.noteDone, State.slot_ite]

@[simp] theorem State.answer_slot (port : Nat) (f : Frame) (a : Answer) : (s.answer port f a).swc.slot = s.swc.slot := by
  simp [State.answer, State.slot_ite]

@[simp] theorem State.capture_slot (on : Bool) (port dir outcome q : Nat) (f : Frame) (time : Nat) :
    (s.capture on port dir outcome q f time).swc.slot = s.swc.slot := by
  unfold State.capture
  extract_lets
  split
  · rfl
  split
  · simp
  split
  · rfl
  simp +zetaDelta [State.slot_ite]

@[simp] theorem State.giveBack_slot (l : Lane) (f : Frame) : (s.giveBack l f).swc.slot = s.swc.slot := by
  simp [State.giveBack, State.slot_ite]

@[simp] theorem State.freeBuf_slot (h : Nat) : (s.freeBuf h).swc.slot = s.swc.slot := by
  unfold State.freeBuf
  split
  · rfl
  split
  · rfl
  simp [State.slot_ite]

@[simp] theorem State.release_slot (h : Nat) : (s.release h).swc.slot = s.swc.slot := by
  unfold State.release
  split
  · rfl
  simp [State.slot_ite]

@[simp] theorem State.resume_slot (out : Nat) : (s.resume out).swc.slot = s.swc.slot := by
  simp [State.resume, State.slot_ite]

@[simp] theorem State.nextHopiv_swc (l : Lane) : (s.nextHopiv l).2.2.swc = s.swc := by
  unfold State.nextHopiv State.updCtx
  split
  · rfl
  split <;> rfl

@[simp] theorem State.outgoing_swc (l : Lane) (b : Buf) : (s.outgoing l b).2.swc = s.swc := by
  unfold State.outgoing
  split
  · rfl
  exact s.nextHopiv_swc l

@[simp] theorem State.hostOut_slot (p : Nat) (f : Frame) (inverted : Bool) : (s.hostOut p f inverted).swc.slot = s.swc.slot := rfl

@[simp] theorem State.deliverMgt_slot (f : Frame) : (s.deliverMgt f).swc.slot = s.swc.slot := by
  simp [State.deliverMgt, State.slot_ite]

@[simp] theorem State.laneOut_slot (l : Lane) (f : Frame) : (s.laneOut l f).swc.slot = s.swc.slot := by
  simp [State.laneOut]

@[simp] theorem State.spend_slot (l : Lane) (f : Frame) : (s.spend l f).swc.slot = s.swc.slot := by
  simp [State.spend, State.slot_ite]

@[simp] theorem State.charge_slot (q : Nat) (f : Frame) : (s.charge q f).swc.slot = s.swc.slot := by
  simp [State.charge, State.slot_ite]

@[simp] theorem State.fillWord_slot (out : Nat) : (s.fillWord out).swc.slot = s.swc.slot := by
  simp [State.fillWord]

@[simp] theorem State.copyDone_slot (out h : Nat) : (s.copyDone out h).swc.slot = s.swc.slot := by
  unfold State.copyDone
  split
  · rfl
  simp only [State.release_slot, State.capture_slot]
  split
  · simp
  split
  · simp
  split
  · simp [State.slot_ite]
  split <;> simp

@[simp] theorem State.endBad_slot (out h : Nat) : (s.endBad out h).swc.slot = s.swc.slot := by
  unfold State.endBad
  extract_lets
  split
  · rfl
  simp only [State.capture_slot]
  split
  · simp +zetaDelta [State.slot_ite]
  split
  · simp +zetaDelta
  split <;> simp +zetaDelta

@[simp] theorem State.drainPath_slot (path : Nat) : (s.drainPath path).swc.slot = s.swc.slot := by
  unfold State.drainPath
  extract_lets out fill
  have fills (t : State) : (fill t).swc.slot = t.swc.slot := by simp [fill, State.slot_ite]
  split
  · rfl
  split
  · split
    · simp [State.slot_ite, fills]
    · rfl
  split
  · rfl
  simp [State.slot_ite, fills]

@[simp] theorem State.sendCtl_slot (l : Lane) : (s.sendCtl l).swc.slot = s.swc.slot := by
  unfold State.sendCtl
  extract_lets
  split
  · rfl
  simp [State.slot_ite]

@[simp] theorem State.takeCell_slot (out : Nat) (c : Cand) (errs : List (Nat × Bool)) : (s.takeCell out c errs).swc.slot = s.swc.slot := by
  unfold State.takeCell
  split
  · rfl
  rename_i b _
  extract_lets set last transit spent headed charged onPath left read fresh bad
  split
  · rfl
  split
  · simp [set]
  have h1 : charged.swc.slot = s.swc.slot := by
    simp [charged, headed, spent, set, State.slot_ite]
  have h2 : onPath.swc.slot = charged.swc.slot := rfl
  have h3 : left.swc.slot = onPath.swc.slot := by simp [left, State.slot_ite]
  have h4 : read.swc.slot = left.swc.slot := by
    unfold read
    split <;> simp
  split
  · simp [bad, State.slot_ite, h4, h3, h2, h1]
  · rw [h4, h3, h2, h1]

@[simp] theorem State.writeCell_slot (banks : List Nat) (port : Nat) : (s.writeCell banks port).1.swc.slot = s.swc.slot := by
  unfold State.writeCell
  split
  · rfl
  extract_lets
  split
  · rfl
  split
  · rfl
  simp [State.slot_ite]

end

theorem State.foldl_slot {α : Type} {g : State → α → State} {l : List α} {s t : State} (e : t = l.foldl g s)
    (keeps : ∀ s a, (g s a).swc.slot = s.swc.slot) : t.swc.slot = s.swc.slot := by
  subst e
  induction l generalizing s with
  | nil => rfl
  | cons a l ih => exact ih.trans (keeps s a)

theorem State.foldl_fst_slot {α β : Type} {g : State × β → α → State × β} {l : List α} {x y : State × β} (e : l.foldl g x = y)
    (keeps : ∀ x a, (g x a).1.swc.slot = x.1.swc.slot) : y.1.swc.slot = x.1.swc.slot := by
  subst e
  induction l generalizing x with
  | nil => rfl
  | cons a l ih => exact ih.trans (keeps x a)

/-- A slot ends with the next slot number. -/
theorem execCellSlot_slot (s : State) (errs : List (Nat × Bool)) : ∃ t, execCellSlot errs s = .next t ∧ t.swc.slot = s.swc.slot + 1 := by
  unfold execCellSlot
  extract_lets fresh drained sent held all first pairs turned chosen isLate late taken
  generalize written : List.foldl (fun (a : State × List Nat) p => a.1.writeCell a.2 p) (taken, []) (List.range 12) = x
  refine ⟨_, rfl, ?_⟩
  have h1 : drained.swc.slot = fresh.swc.slot := State.foldl_slot rfl fun s p => s.drainPath_slot p
  have h2 : sent.swc.slot = drained.swc.slot := by simp only [sent, State.sendCtl_slot]
  have h3 : held.swc.slot = sent.swc.slot := State.foldl_slot rfl fun s x => s.takeCell_slot x.1 x.2 errs
  have h4 : taken.swc.slot = turned.swc.slot := State.foldl_slot rfl fun s x => s.takeCell_slot x.1 x.2 errs
  have h5 := State.foldl_fst_slot written fun x p => x.1.writeCell_slot x.2 p
  dsimp only at h5
  have h0 : fresh.swc.slot = s.swc.slot := rfl
  have h : turned.swc.slot = held.swc.slot := by simp only [turned, State.onSwc_swc]
  rw [← h0, ← h1, ← h2, ← h3, ← h, ← h4, ← h5]
  rfl

/-! ### The matching of a slot -/

theorem bestBy_mem {α : Type} {score : α → Nat} {l : List α} {a : α} (h : bestBy score l = some a) : a ∈ l := by
  induction l with
  | nil => simp [bestBy] at h
  | cons b l ih =>
    unfold bestBy at h
    split at h
    · simp_all
    · rename_i c found
      split at h
      · simp_all
      · obtain rfl : c = a := by simpa using h
        exact List.mem_cons_of_mem _ (ih found)

/-- Choosing at most one entry for each number of a range chooses no number twice. -/
theorem nodup_map_filterMap_range {α : Type} (n : Nat) (g : Nat → Option α) (name : α → Nat) (named : ∀ i a, g i = some a → name a = i) :
    (((List.range n).filterMap g).map name).Nodup := by
  rw [List.map_filterMap]
  refine List.Nodup.filterMap ?_ List.nodup_range
  intro i j b hi hj
  simp only [Option.mem_def, Option.map_eq_some_iff] at hi hj
  obtain ⟨a, ha, rfl⟩ := hi
  obtain ⟨c, hc, e⟩ := hj
  rw [← named i a ha, ← named j c hc, e]

/-- An iteration of the scheduler pairs each output and each input once at most. -/
theorem matchIter_nodup (cs : List (Nat × Cand)) (g a : List Nat) :
    ((matchIter cs g a).map fun p => p.1).Nodup ∧ ((matchIter cs g a).map fun p => p.2).Nodup := by
  unfold matchIter
  extract_lets rank dist grants
  have inputs : (grants.map fun p => p.2).Nodup := by
    refine nodup_map_filterMap_range _ _ _ fun i p h => ?_
    obtain ⟨o, -, rfl⟩ := Option.map_eq_some_iff.mp h
    rfl
  have chosen (o : Nat) (p : Nat × Nat)
      (h : bestBy (fun p => rank o p.2 * 16 + (11 - dist p.2 (a.getD o 0))) (grants.filter fun g => decide (g.1 = o)) = some p) : p ∈ grants ∧ p.1 = o := by
    simpa using bestBy_mem h
  have outputs := nodup_map_filterMap_range 12 _ (fun p : Nat × Nat => p.1) fun o p h => (chosen o p h).2
  refine ⟨outputs, (outputs.of_map _).map_on fun p hp q hq same => ?_⟩
  obtain ⟨o, -, hp⟩ := List.mem_filterMap.mp hp
  obtain ⟨o', -, hq⟩ := List.mem_filterMap.mp hq
  exact List.inj_on_of_nodup_map inputs (chosen o p hp).1 (chosen o' q hq).1 same

/-! ### Heads at the ports -/

section
variable {s : State} {port : Nat} {o : Offer}

/-- The offer that is taken waits at the port and has credit. -/
theorem State.nextOffer_mem (h : s.nextOffer port = some o) : o ∈ s.swc.offers ∧ o.port = port ∧ s.hasCredit port o.fr = true := by
  have credit := List.find?_some h
  have mem := List.mem_of_find?_eq_some h
  simp only [List.mem_filter, decide_eq_true_eq] at mem
  simp only [Bool.and_eq_true] at credit
  exact ⟨mem.1, mem.2, credit.1⟩

theorem State.nextOffer_none (h : ∀ o ∈ s.swc.offers, o.port = port → s.hasCredit port o.fr = false) : s.nextOffer port = none := by
  refine List.find?_eq_none.mpr fun o mem => ?_
  simp only [List.mem_filter, decide_eq_true_eq] at mem
  simp [h o mem.1 mem.2]

end

/-- A lossy frame from a ring that no local queue takes goes on where its queue admits it. -/
theorem State.ringHead_of_lossy {s : State} {o : Offer} (lossy : ¬o.fr.tc < 4) (rest : o.deliver = false) : s.ringHead o =
    if o.forward && s.admits (16 * (1 - o.port) + o.fr.tc) o.fr.tc then
      (s.enter o.handle o.port { o.fr with hopiv := 0 } .shared .pending false o.forward []).linkQ (16 * (1 - o.port) + o.fr.tc) o.handle true
    else s.refuseHead o.port o.fr := by
  have none (f : Frame) : s.denyLocal f [] = ([], s) := by simp [State.denyLocal]
  unfold State.ringHead
  simp only [lossy, rest, none, Bool.false_eq_true, if_false]
  cases o.forward <;> cases s.admits (16 * (1 - o.port) + o.fr.tc) o.fr.tc <;> rfl

/-- Settles O27: the head, the slot and the scrub, each by its command. -/
theorem switchTakesHeadsAndSlots : Obligations.SwitchTakesHeadsAndSlots := by
  unfold Obligations.SwitchTakesHeadsAndSlots
  refine ⟨?_, fun s port none => ?_, ?_, execCellSlot_slot, matchIter_nodup, fun s => ⟨rfl, ?_⟩⟩
  · intro s port o next plain lane u y x
    obtain ⟨mem, here, credit⟩ := State.nextOffer_mem next
    have run : execSwitchIngressHead port s = if !x.1 then .next x.2 else if !x.2.swc.ready then .next (x.2.refuseHead port o.fr)
        else .next (if port ≤ 1 then x.2.ringHead o else x.2.ownHead o) := by
      simp only [execSwitchIngressHead, next, plain]
      rfl
    refine ⟨mem, here, credit, fun drop => ?_, fun pass closed => ?_, fun pass ready ring => ?_, fun pass ready own => ?_⟩
    · exact run.trans (if_pos (by simp [drop]))
    · exact run.trans ((if_neg (by simp [pass])).trans (if_pos (by simp [closed])))
    · exact run.trans ((if_neg (by simp [pass])).trans ((if_neg (by simp [ready])).trans (by rw [if_pos ring])))
    · exact run.trans ((if_neg (by simp [pass])).trans ((if_neg (by simp [ready])).trans (by rw [if_neg (by omega)])))
  · change execSwitchIngressHead port s = _
    simp only [execSwitchIngressHead, State.nextOffer_none none]
  · intro s o fq f
    refine ⟨fun lossless on rest => ?_, fun lossy on rest fits => ?_, fun lossy on rest full => ?_, fun q tc => rfl⟩
    · unfold State.ringHead
      simp only [lossless, on, rest, if_true]
      rfl
    · rw [State.ringHead_of_lossy (by omega) rest, fits, on]
      rfl
    · rw [State.ringHead_of_lossy (by omega) rest, full, on]
      rfl
  · have counted : F.SWC_CNT_CORR.key 0 ∈ [F.SWC_CNT_CORR.key 0] := by simp
    refine ⟨_, rfl, ?_, rfl, by simp, by simp [counted], _, rfl, rfl, by simp⟩
    exact State.get_bump_self s 0 (by decide) (by decide)

/-! ### Waiting frames, samples and the capture ring -/

section
variable {s : State} {h : Nat} {b : Buf}

/-- A frame that waits for all its destinations at once goes on, is lost or waits, by those destinations. -/
theorem execAonLink_of_waits (found : s.buf? h = some b) (waits : b.aonWait = true) : execAonLink h s =
    let done := (s.updBuf h fun b => { b with waitLinks := [], aonWait := false }).onSwc fun w => { w with waiters := w.waiters.erase h }
    if !b.waitLinks.all (fun q => s.portServes (State.portOfQ q)) then .next ((done.bump F.SWC_CNT_AONREF).release h)
    else if b.waitLinks.all (fun q => s.hasRoom q && decide (s.firstWaiter q = some h)) then
      .next (b.waitLinks.foldl (fun s q => s.linkQ q h false) done)
    else .next s := by
  unfold execAonLink
  simp only [found, waits, Bool.not_true, Bool.false_eq_true, if_false]

/-- The oldest sample with a verdict meets the sampler and the policer as a frame of its own port. -/
theorem execSampleSend_of_sample {x : Sample} (found : s.swc.samples.find? (fun x => decide (x.verdict ≠ .pending)) = some x) :
    execSampleSend s =
      let u := (s.onSwc fun w => { w with samples := w.samples.erase x }).onRng fun r => { r with nextHandle := s.rng.nextHandle + 1 }
      let v := (u.sampleHead 9 (sampleFrame x) s.rng.nextHandle .good).police 9 (sampleFrame x)
      if !v.1 then .next v.2
      else if v.2.swc.ready && v.2.admits 127 15 then
        .next ((((v.2.enter s.rng.nextHandle 9 (sampleFrame x) .shared .good false false []).linkQ 127 s.rng.nextHandle false).capture
          v.2.capEn 9 0 0 127 (sampleFrame x) v.2.ns).bump F.SWC_SMP_CNT)
      else .next ((v.2.refuseHead 9 (sampleFrame x)).bump F.SWC_SMP_DROP) := by
  simp only [execSampleSend, found]

end

/-- The restart empties the capture ring. -/
theorem captureRestart_frame (s : State) : (captureRestart s).swc.cap = [] ∧ (captureRestart s).swc.capCount = 0
    ∧ (captureRestart s).swc.capNext = 0 ∧ (captureRestart s).flag F.SWC_CAP_STAT_TRIGGERED = false
    ∧ (captureRestart s).flag F.SWC_CAP_STAT_STOPPED = false ∧ (captureRestart s).swc.bufs = s.swc.bufs
    ∧ (captureRestart s).swc.queues = s.swc.queues ∧ s.OnlyIn [.regs, .swc] (captureRestart s)
    ∧ s.WordsBut [F.SWC_CAP_STAT_STOPPED.key 0] (captureRestart s) := by
  unfold captureRestart
  have same : F.SWC_CAP_STAT_TRIGGERED.key 0 ∈ [F.SWC_CAP_STAT_STOPPED.key 0] := by decide
  refine ⟨rfl, rfl, rfl, ?_, State.flag_set_self _ _ _ (by decide) rfl, rfl, rfl, by simp, by simp [same]⟩
  exact (State.flag_set_apart _ _ (by decide)).trans (State.flag_set_self _ _ _ (by decide) rfl)

/-- Settles O28: the frame, sample or ring by its command. -/
theorem waitingFramesAndSamplesMove : Obligations.WaitingFramesAndSamplesMove := by
  unfold Obligations.WaitingFramesAndSamplesMove
  intro s
  refine ⟨?_, fun q idle => ?_, ?_, ?_, fun none => ?_, fun f x wr start => ?_⟩
  · intro q h b waiter found plain room t
    have run : execLocalQueueRoom q s = .next (if (b.waitLinks.erase q).isEmpty then t.onSwc fun w => { w with waiters := w.waiters.erase h } else t) := by
      simp [execLocalQueueRoom, waiter, found, plain, room, t]
    exact ⟨fun more => run.trans (by rw [if_neg (by simpa using more)]), fun last => run.trans (by rw [last]; rfl)⟩
  · change execLocalQueueRoom q s = _
    rcases idle with none | full
    · simp [execLocalQueueRoom, none]
    · unfold execLocalQueueRoom
      split
      · rfl
      · rw [if_neg (by simp [full])]
  · intro h b found waits done
    have run := execAonLink_of_waits found waits
    refine ⟨fun all => ?_, fun ⟨q, mem, lost⟩ => ?_, fun serves ⟨q, mem, full⟩ => ?_⟩
    · refine run.trans ((if_neg ?_).trans (if_pos ?_))
      · simpa using fun q mem => (all q mem).1
      · simpa using fun q mem => (all q mem).2
    · exact run.trans (if_pos (by simpa using ⟨q, mem, lost⟩))
    · refine run.trans ((if_neg (by simpa using serves)).trans (if_neg ?_))
      simp only [List.all_eq_true, Bool.and_eq_true, not_forall]
      exact ⟨q, mem, by simp [full]⟩
  · intro x found f h u v
    have run := execSampleSend_of_sample found
    refine ⟨rfl, rfl, fun pass ready room => ?_, fun pass full => ?_, fun drop => ?_⟩
    · exact run.trans ((if_neg (by rw [pass]; decide)).trans (if_pos (by rw [ready, room]; rfl)))
    · refine run.trans ((if_neg (by rw [pass]; decide)).trans (if_neg ?_))
      rcases full with no | no <;> rw [no] <;> simp
    · exact run.trans (if_pos (by rw [drop]; rfl))
  · change execSampleSend s = _
    simp [execSampleSend, none]
  · let u := (if bit (wordOf f) 0 && !s.capEn then s.onSwc fun x => { x with capSeq := 0 } else s).storeReg x (regOff f.offset) (wordOf f)
    have key : regOff f.offset = F.SWC_CAP_CFG_EN.key 0 := wr.aim
    have effect : writeEffect f x (regOff f.offset) (wordOf f) (F.SWC_CAP_CFG_EN.mult * 0) s = (some {}, captureRestart u) := by
      refine (writeEffect_swc wr.name).trans ?_
      simp [writeSwc, wr.name, start, u]
    have before : u.swc.bufs = s.swc.bufs ∧ u.swc.queues = s.swc.queues ∧ s.OnlyIn [.regs, .swc] u ∧ s.WordsBut [F.SWC_CAP_CFG_EN.key 0] u := by
      unfold u
      rw [key]
      split <;> simp [State.storeReg]
    obtain ⟨cap, count, next, triggered, stopped, bufs, queues, parts, words⟩ := captureRestart_frame u
    obtain ⟨bufs', queues', parts', words'⟩ := before
    exact ⟨_, wr.ends (by rw [wr.at_first (by decide), start]; rfl) effect, cap, count, next, triggered, stopped, bufs.trans bufs',
      queues.trans queues', parts'.andThen parts, (words'.mono (by simp)).trans (words.mono (by simp))⟩

end Sys2Proof.Machine

/-! PROOFS. Shapers, policers and packers (R158 to R165, R175 to R182). -/
namespace Sys2Proof

namespace Tbl
variable {α β : Type}

/-- The entry of a key after a change of every value of a table by its key. -/
theorem find?_map_key (m : Map α) (g : Nat → α → β) (i : Nat) : find? (m.map fun p => (p.1, g p.1 p.2)) i = (find? m i).map (g i) := by
  induction m with
  | nil => rfl
  | cons p m ih =>
    simp only [List.map_cons, find?]
    split
    · next h => rw [h]; rfl
    · exact ih

/-- The later of two entries of a key stands. -/
theorem put_put (m : Map α) (i : Nat) (v w : α) : put (put m i v) i w = put m i w := by
  induction m with
  | nil => simp [put]
  | cons p m ih =>
    obtain ⟨k, x⟩ := p
    by_cases below : i < k
    · simp [put, below]
    · by_cases here : i = k
      · simp [put, here]
      · simp [put, below, here, ih]

@[simp] theorem getD_put_self (m : Map α) (i : Nat) (v d : α) : getD (put m i v) i d = v := by
  rw [getD, find?_put_self]
  rfl

@[simp] theorem getD_put_ne (m : Map α) {i j : Nat} (v d : α) (h : j ≠ i) : getD (put m i v) j d = getD m j d := by
  rw [getD, find?_put_ne m v h]
  rfl

theorem has_put_self (m : Map α) (i : Nat) (v : α) : has (put m i v) i = true := by
  rw [has, find?_put_self]
  rfl

theorem find?_eq_none_of_has {m : Map α} {i : Nat} (h : has m i = false) : find? m i = none := by
  rw [has] at h
  exact Option.isSome_eq_false_iff.mp h |> Option.isNone_iff_eq_none.mp

end Tbl

namespace Machine

/-! ### Fields of registers with an index -/

/-- Two fields of one register, in different bits of it. -/
def Fld.beside (g f : Fld) : Bool :=
  decide (g.off = f.off) && decide (g.mult = f.mult) && decide (g.start = f.start) && decide (f.hi < 32) && decide (f.lo ≤ f.hi)
    && decide (g.lo ≤ g.hi) && (decide (g.hi < f.lo) || decide (f.hi < g.lo))

/-- Two fields whose registers never meet, whatever their instances: the offsets differ modulo what both steps divide by. -/
def Fld.elsewhere (g f : Fld) : Bool := decide (g.off % Nat.gcd g.mult f.mult ≠ f.off % Nat.gcd g.mult f.mult)

section
variable {g f : Fld}

theorem Fld.apart_of_beside (i : Nat) (h : g.beside f = true) : g.apart i f i = true := by
  simp only [Fld.beside, Bool.and_eq_true, decide_eq_true_eq] at h
  obtain ⟨⟨⟨⟨⟨⟨off, mult⟩, start⟩, fits⟩, bits_f⟩, bits_g⟩, disjoint⟩ := h
  simp [Fld.apart, start, fits, bits_f, bits_g, disjoint]

theorem Fld.key_ne_of_elsewhere (j i : Nat) (h : g.elsewhere f = true) : g.key j ≠ f.key i := by
  simp only [Fld.elsewhere, decide_eq_true_eq] at h
  intro same
  obtain ⟨a, ha⟩ := Nat.gcd_dvd_left g.mult f.mult
  obtain ⟨b, hb⟩ := Nat.gcd_dvd_right g.mult f.mult
  generalize Nat.gcd g.mult f.mult = d at h ha hb
  have same := congrArg (· % d) same
  simp only [Fld.key, ha, hb, Nat.mul_assoc, Nat.add_mul_mod_self_left] at same
  exact h same

theorem Fld.apart_of_elsewhere (j i : Nat) (h : g.elsewhere f = true) : g.apart j f i = true := by
  simp [Fld.apart, Fld.key_ne_of_elsewhere j i h]

end

section
variable (s : State) {g f : Fld} {i j : Nat}

theorem State.get_set_beside (v : Nat) (h : g.beside f = true) : (s.set f i v).get g i = s.get g i := s.get_set_apart v (Fld.apart_of_beside i h)
theorem State.get_setB_beside (b : Bool) (h : g.beside f = true) : (s.setB f i b).get g i = s.get g i := s.get_set_beside _ h
theorem State.get_bump_beside (h : g.beside f = true) : (s.bump f i).get g i = s.get g i := s.get_set_beside _ h
theorem State.flag_set_beside (v : Nat) (h : g.beside f = true) : (s.set f i v).flag g i = s.flag g i := s.flag_set_apart v (Fld.apart_of_beside i h)
theorem State.flag_setB_beside (b : Bool) (h : g.beside f = true) : (s.setB f i b).flag g i = s.flag g i := s.flag_set_beside _ h
theorem State.flag_bump_beside (h : g.beside f = true) : (s.bump f i).flag g i = s.flag g i := s.flag_set_beside _ h
theorem State.get_set_elsewhere (v : Nat) (h : g.elsewhere f = true) : (s.set f i v).get g j = s.get g j := s.get_set_apart v (Fld.apart_of_elsewhere j i h)
theorem State.get_setB_elsewhere (b : Bool) (h : g.elsewhere f = true) : (s.setB f i b).get g j = s.get g j := s.get_set_elsewhere _ h
theorem State.get_bump_elsewhere (h : g.elsewhere f = true) : (s.bump f i).get g j = s.get g j := s.get_set_elsewhere _ h
theorem State.flag_set_elsewhere (v : Nat) (h : g.elsewhere f = true) : (s.set f i v).flag g j = s.flag g j :=
  s.flag_set_apart v (Fld.apart_of_elsewhere j i h)
theorem State.flag_setB_elsewhere (b : Bool) (h : g.elsewhere f = true) : (s.setB f i b).flag g j = s.flag g j := s.flag_set_elsewhere _ h
theorem State.flag_bump_elsewhere (h : g.elsewhere f = true) : (s.bump f i).flag g j = s.flag g j := s.flag_set_elsewhere _ h

end

/-! ### Shapers -/

section
variable (s : State) (p : Nat → Bool)

@[simp] theorem State.inForceNow_get (f : Fld) (i : Nat) : (s.inForceNow p).get f i = s.get f i := by simp [State.inForceNow]
@[simp] theorem State.inForceNow_flag (f : Fld) (i : Nat) : (s.inForceNow p).flag f i = s.flag f i := by simp [State.inForceNow]
@[simp] theorem State.inForceNow_runtime : (s.inForceNow p).tmq.runtime = s.tmq.runtime := rfl

@[simp] theorem State.onlyIn_inForceNow {ps : List Part} (t : State) (mem : .tmq ∈ ps) : t.OnlyIn ps (s.inForceNow p) ↔ t.OnlyIn ps s :=
  State.onlyIn_onTmq t _ mem

end

/-- The credit of a shaper after its tick; none where the queue has no shaper yet. -/
def State.ticked (s : State) (q : Nat) : Option Int :=
  let late : Int := if s.tmq.chargedAt = s.up then (Tbl.getD s.tmq.charged q 0 : Nat) else 0
  if s.shaped q then some (shaperTick s q (s.shpCredit q + late) - late)
  else if Tbl.has s.tmq.shp q then some (min (s.shpCredit q) (s.get F.TMQ_SHP_GUST_GUST q * 256 : Nat))
  else none

/-- The state with other credits of the shapers. -/
def State.withCredits (s : State) (m : Map Int) : State := s.onTmq fun t => { t with shp := m }

/-- The tick of a shaper depends on its own credit alone. -/
theorem State.withCredits_ticked (s : State) (m : Map Int) (q : Nat) (same : Tbl.find? m q = Tbl.find? s.tmq.shp q) :
    (s.withCredits m).ticked q = s.ticked q := by
  have credit : (s.withCredits m).shpCredit q = s.shpCredit q := by
    unfold State.shpCredit Tbl.getD
    rw [show (s.withCredits m).tmq.shp = m from rfl, same]
    rfl
  have has : Tbl.has (s.withCredits m).tmq.shp q = Tbl.has s.tmq.shp q := by
    unfold Tbl.has
    rw [show (s.withCredits m).tmq.shp = m from rfl, same]
  unfold State.ticked
  rw [credit, has]
  rfl

theorem tickShaper_eq (s : State) (q : Nat) : tickShaper s q = s.withCredits (match s.ticked q with
    | some c => Tbl.put s.tmq.shp q c
    | none => s.tmq.shp) := by
  unfold tickShaper State.ticked
  extract_lets late c
  split
  · rfl
  · split <;> rfl

theorem State.ticked_eq_none (s : State) {q : Nat} (h : s.ticked q = none) : Tbl.find? s.tmq.shp q = none := by
  unfold State.ticked at h
  extract_lets at h
  split at h
  · cases h
  · split at h
    · cases h
    · next unused => exact Tbl.find?_eq_none_of_has (Bool.eq_false_iff.mpr unused)

/-- The tick of a list of shapers, each once. -/
theorem foldl_tickShaper (l : List Nat) (once : l.Nodup) (s : State) : ∃ m, l.foldl tickShaper s = s.withCredits m
    ∧ (∀ q ∈ l, Tbl.find? m q = s.ticked q) ∧ ∀ q, q ∉ l → Tbl.find? m q = Tbl.find? s.tmq.shp q := by
  induction l generalizing s with
  | nil => exact ⟨s.tmq.shp, rfl, by simp, fun _ _ => rfl⟩
  | cons a l ih =>
    obtain ⟨fresh, once⟩ := List.nodup_cons.mp once
    let m₀ := match s.ticked a with
      | some c => Tbl.put s.tmq.shp a c
      | none => s.tmq.shp
    have first : tickShaper s a = s.withCredits m₀ := tickShaper_eq s a
    have here : Tbl.find? m₀ a = s.ticked a := by
      unfold m₀
      split
      · next c h => rw [Tbl.find?_put_self, h]
      · next h =>
        rw [h]
        exact s.ticked_eq_none h
    have there (q : Nat) (other : q ≠ a) : Tbl.find? m₀ q = Tbl.find? s.tmq.shp q := by
      unfold m₀
      split
      · exact Tbl.find?_put_ne _ _ other
      · rfl
    obtain ⟨m, run, mem, out⟩ := ih once (s.withCredits m₀)
    refine ⟨m, ?_, fun q hq => ?_, fun q hq => ?_⟩
    · rw [List.foldl_cons, first, run]
      rfl
    · rcases List.mem_cons.mp hq with rfl | hq
      · rw [out q fresh]
        exact here
      · rw [mem q hq, State.withCredits_ticked _ _ _ (there q fun e => fresh (e ▸ hq))]
    · rw [List.mem_cons, not_or] at hq
      rw [out q hq.2]
      exact there q hq.1

/-- A tick never lifts a shaper that its settings let act above its burst. -/
theorem shaperTick_le (s : State) (q : Nat) (c : Int) (fits : s.get F.TMQ_SHP_CFG_RATE q ≤ s.get F.TMQ_SHP_GUST_GUST q * 256) :
    shaperTick s q c ≤ (s.get F.TMQ_SHP_GUST_GUST q * 256 : Nat) := by
  unfold shaperTick
  extract_lets rate gust c'
  have low : c' ≤ gust := min_le_right _ _
  have cap : gust = (s.get F.TMQ_SHP_GUST_GUST q * 256 : Nat) := by simp [gust]
  have slow : rate ≤ gust := by
    rw [cap]
    exact Int.ofNat_le.mpr fits
  rw [← cap]
  split
  · exact min_le_right _ _
  · split
    · exact low
    · exact (min_le_right _ _).trans slow

/-! ### Policers -/

/-- Keys leave a policer by the clearing of their VALID bits alone. -/
theorem State.unmapKeys_frame (s : State) (i : Nat) (l : List Nat) : s.OnlyIn [.regs] (s.unmapKeys i l)
    ∧ s.WordsBut (l.map F.TMQ_PMAP_DATA_VALID.key) (s.unmapKeys i l) := by
  unfold State.unmapKeys
  induction l generalizing s with
  | nil => exact ⟨State.onlyIn_refl _ s, State.WordsBut.refl _ s⟩
  | cons k l ih =>
    rw [List.foldl_cons]
    split
    · obtain ⟨parts, words⟩ := ih (s.set F.TMQ_PMAP_DATA_VALID k 0)
      have first : s.WordsBut [F.TMQ_PMAP_DATA_VALID.key k] (s.set F.TMQ_PMAP_DATA_VALID k 0) := by simp
      exact ⟨State.OnlyIn.andThen (by simp) parts, (first.mono (by simp)).trans (words.mono (by simp))⟩
    · obtain ⟨parts, words⟩ := ih s
      exact ⟨parts, words.mono (by simp)⟩

section
variable {s : State} {key i : Nat}

/-- A free policer takes an unmapped key with rate 0 and a burst of 2,048 bytes. -/
theorem policerAlloc_of_free (below : key < 0x354) (unmapped : s.flag F.TMQ_PMAP_DATA_VALID key = false)
    (free : Tbl.firstFree s.tmq.runtime s.tmq.imagePolicers (1024 - s.tmq.imagePolicers) = some i) (index : i < 1024) :
    ∃ u, policerAlloc key s = (.ok, u) ∧ u.flag F.TMQ_PMAP_DATA_VALID key = true
      ∧ u.get F.TMQ_PMAP_DATA_POLICER key = i ∧ u.get F.TMQ_POL_BURST_BURST i = 2048 ∧ u.get F.TMQ_POL_CFG_RATE i = 0
      ∧ u.get F.TMQ_POL_RES_INDEX = i ∧ u.get F.TMQ_POL_RES_RESULT = 0 ∧ Tbl.has u.tmq.runtime i = true ∧ s.OnlyIn [.regs, .tmq] u := by
  unfold policerAlloc
  extract_lets res old first
  rw [if_neg (by omega), if_neg (ne_true_of_eq_false unmapped), show Tbl.firstFree s.tmq.runtime first (1024 - first) = some i from free]
  refine ⟨_, rfl, ?_, ?_, ?_, ?_, ?_, ?_, ?_, ?_⟩
  all_goals simp (disch := decide) only [res, State.inForceNow_get, State.inForceNow_flag, State.get_set_elsewhere, State.get_set_beside,
    State.flag_set_elsewhere]
  · exact State.flag_set_self _ _ _ (by decide) rfl
  · exact (State.get_set_self _ _ _ (by decide) (by decide)).trans (Nat.mod_eq_of_lt index)
  · exact (State.get_set_self _ _ _ (by decide) (by decide)).trans (Nat.mod_eq_of_lt (by decide))
  · exact State.get_set_self _ _ _ (by decide) (by decide)
  · exact (State.get_set_self _ _ _ (by decide) (by decide)).trans (Nat.mod_eq_of_lt index)
  · exact State.get_set_self _ _ _ (by decide) (by decide)
  · simp [Tbl.has_put_self]
  · simp

theorem policerAlloc_of_none (below : key < 0x354) (unmapped : s.flag F.TMQ_PMAP_DATA_VALID key = false)
    (none : Tbl.firstFree s.tmq.runtime s.tmq.imagePolicers (1024 - s.tmq.imagePolicers) = none) : policerAlloc key s =
      (.nores, ((s.set F.TMQ_POL_RES_INDEX 0 (s.get F.TMQ_POL_RES_INDEX)).set F.TMQ_POL_RES_RESULT 0 1).bump F.TMQ_CNT_EXH) := by
  unfold policerAlloc
  extract_lets res old first
  rw [if_neg (by omega), if_neg (ne_true_of_eq_false unmapped), show Tbl.firstFree s.tmq.runtime first (1024 - first) = .none from none]

/-- The state without a run-time policer and the mapping of the keys to it. -/
def State.dropPolicer (s : State) (i : Nat) (keys : List Nat) : State :=
  ((((s.onTmq fun t => { t with runtime := Tbl.erase t.runtime i, pol := Tbl.erase t.pol i }).unmapKeys i keys).set
    F.TMQ_POL_CFG_RUNTIME i 0).set F.TMQ_POL_CFG_USED i 0).set F.TMQ_POL_RES_RESULT 0 0

theorem policerFree_of_runtime (mine : Tbl.has s.tmq.runtime i = true) : policerFree i s = s.dropPolicer i (List.range 0x354) := if_pos mine

/-- A run-time policer that is freed leaves the table of the policers with its credit. -/
theorem State.dropPolicer_frame (s : State) (i : Nat) (keys : List Nat) : (s.dropPolicer i keys).tmq.runtime = Tbl.erase s.tmq.runtime i
    ∧ (s.dropPolicer i keys).tmq.pol = Tbl.erase s.tmq.pol i ∧ (s.dropPolicer i keys).get F.TMQ_POL_RES_RESULT = 0
    ∧ s.OnlyIn [.regs, .tmq] (s.dropPolicer i keys) := by
  unfold State.dropPolicer
  generalize start : (s.onTmq fun t => { t with runtime := Tbl.erase t.runtime i, pol := Tbl.erase t.pol i }) = e
  obtain ⟨parts, -⟩ := e.unmapKeys_frame i keys
  have tmq : (e.unmapKeys i keys).tmq = e.tmq := parts.2 .tmq (by decide)
  have whole : s.OnlyIn [.regs, .tmq] (e.unmapKeys i keys) := State.OnlyIn.andThen (by simp [← start]) (parts.mono (by decide))
  refine ⟨?_, ?_, State.get_set_self _ _ _ (by decide) (by decide), by simp [whole]⟩
  · simp only [State.set_tmq, tmq]
    rw [← start, State.onTmq_tmq]
  · simp only [State.set_tmq, tmq]
    rw [← start, State.onTmq_tmq]

end

/-- Settles O29: the tick of each shaper and policer, and the two commands. -/
theorem shapersAndPolicersTick : Obligations.ShapersAndPolicersTick := by
  unfold Obligations.ShapersAndPolicersTick
  refine ⟨?_, ?_⟩
  · intro s u late
    obtain ⟨m, run, ticked, -⟩ := foldl_tickShaper (List.range 256) List.nodup_range u
    have credit (q : Nat) (h : q < 256) : Tbl.find? (u.withCredits m).tmq.shp q = u.ticked q := ticked q (List.mem_range.mpr h)
    refine ⟨⟨u.withCredits m, congrArg Host.Outcome.next run, fun q h acts => ?_, fun q h idle used => ?_, fun q h idle unused => ?_, rfl, ?_⟩,
      fun q c _ fits => shaperTick_le s q c fits, _, rfl, ?_, rfl, fun p c found => ?_⟩
    · exact (credit q h).trans (if_pos acts)
    · exact (credit q h).trans ((if_neg (ne_true_of_eq_false idle)).trans (if_pos used))
    · exact (credit q h).trans ((if_neg (ne_true_of_eq_false idle)).trans (if_neg (ne_true_of_eq_false unused)))
    · simp [u, State.withCredits]
    · simp
    · have gains := Tbl.find?_map_key s.tmq.pol (fun k c => min (c + s.get F.TMQ_POL_CFG_RATE k) (s.get F.TMQ_POL_BURST_BURST k * 256)) p
      rw [found] at gains
      exact gains
  · intro s f x wr key
    have aim : atReg f F.TMQ_POL_CMD_OP = true := wr.at_first (by decide)
    have alloc (op : wordOf f % 4 = 1) {st : Status} {t : State} (e : policerAlloc key s = (st, t)) :
        exec (.policerAlloc f) s = .next (t.settle 5 f { st := st }) := by
      refine wr.ends (by rw [aim, op]; rfl) ((writeEffect_tmq wr.name).trans ?_)
      simp [writeTmq, wr.name, op, key] at e ⊢
      simp [e]
    have free (op : wordOf f % 4 = 2) : exec (.policerFree f) s = .next ((policerFree key s).settle 5 f {}) := by
      refine wr.ends (by rw [aim, op]; rfl) ((writeEffect_tmq wr.name).trans ?_)
      simp [writeTmq, wr.name, op, key]
    refine ⟨fun op => ⟨fun high => ?_, fun low mapped => ?_, fun i low unmapped found index => ?_, fun low unmapped none => ?_⟩,
      fun op => ⟨fun mine => ⟨_, free op, ?_⟩, fun other => ?_⟩⟩
    · exact alloc op (if_pos high)
    · exact alloc op ((if_neg (by omega)).trans (if_pos mapped))
    · obtain ⟨u, run, rest⟩ := policerAlloc_of_free low unmapped found index
      exact ⟨u, alloc op run, rest⟩
    · exact alloc op (policerAlloc_of_none low unmapped none)
    · rw [policerFree_of_runtime mine]
      exact s.dropPolicer_frame key _
    · rw [free op, policerFree, if_neg (ne_true_of_eq_false other)]

end Machine

end Sys2Proof

/-! PROOFS. The packers between the engines' receive queues and SW6 (R158 to R165). -/
namespace Sys2Proof.Machine

section
variable (s : State) (k : Nat) (p v : Packer)

@[simp] theorem State.pk_setPk : (s.setPk k p).pk k = p := Tbl.getD_put_self _ _ _ _

@[simp] theorem State.setPk_setPk : (s.setPk k p).setPk k v = s.setPk k v := by
  simp [State.setPk, State.onSwc, Tbl.put_put]

@[simp] theorem State.setPk_get (f : Fld) (i : Nat) : (s.setPk k p).get f i = s.get f i := rfl
@[simp] theorem State.setPk_flag (f : Fld) (i : Nat) : (s.setPk k p).flag f i = s.flag f i := rfl
@[simp] theorem State.setPk_packetLimit : (s.setPk k p).packetLimit k = s.packetLimit k := rfl

end

theorem State.updBuf_eq (s : State) (h : Nat) (g : Buf → Buf) : s.updBuf h g = s.onSwc fun w => { w with bufs := Tbl.upd w.bufs h g } := rfl

section
variable {s : State} {k : Nat}

theorem State.packPad_of_closed (n : Nat) (none : (s.pk k).pad = 0) : s.packPad n k = s := by
  cases n with
  | zero => rfl
  | succ n => exact if_pos (.inl none)

theorem State.cutRead_of_none (none : (s.pk k).cut = none) : s.cutRead k = s := by
  unfold State.cutRead
  simp only [none]

/-- Nothing of a packer's store can be offered: a packet is offered already, or none is whole and none may cut through. -/
def State.PkWaits (s : State) (k : Nat) : Prop :=
  (s.pk k).offered = true ∨ (((State.frontPacket (s.pk k).store).any fun w => w.last) = false ∧ (s.get F.PKnn_CFG_FIXLEN k = 0 ∨ (s.pk k).store = []))

theorem State.offerPacket_of_waits (n : Nat) (waits : s.PkWaits k) : State.offerPacket n s k = s := by
  cases n with
  | zero => rfl
  | succ n =>
    unfold State.offerPacket
    extract_lets p ws whole thr early
    refine if_pos ?_
    rcases waits with offered | ⟨part, none⟩
    · simp [p, offered]
    · have late : early = false := by
        rcases none with var | none
        · simp [early, var]
        · simp only [early, ws, p, none, State.frontPacket, List.length_nil]
          cases h : decide (thr ≠ 0) <;> simp at h ⊢
          omega
      have part : whole = false := part
      rw [late, part]
      simp

/-- A packer in which no padding, no cut and no offer is open keeps its store. -/
theorem State.pkSettle_of_waits (closed : (s.pk k).pad = 0) (uncut : (s.pk k).cut = none) (waits : s.PkWaits k) : s.pkSettle k = s := by
  rw [State.pkSettle, State.packPad_of_closed _ closed, State.cutRead_of_none uncut, State.offerPacket_of_waits _ waits]

/-- The unit that an 8-bit packer takes, with what is left in the queue. -/
theorem State.placeUnit_of_byte {w : Word} {rest : List (Word × Bool)} (head : (Tbl.getD s.pio.eng k {}).rx = (w, false) :: rest)
    (byte : s.get F.PKnn_CFG_WIDTH k = 0) : s.placeUnit k =
      (s.onPio fun g => { g with eng := Tbl.put g.eng k { Tbl.getD s.pio.eng k {} with rx := rest } }).packByte k (BitVec.ofNat 8 w.toNat) false := by
  unfold State.placeUnit
  simp only [head]
  simp [byte, be, List.range_succ]

/-- A byte within a packet of a packer extends the word being filled. -/
theorem State.packByte_of_room {b : Byte} (short : (s.pk k).count + 1 < s.packetLimit k) (room : (s.pk k).cur.length < 31) :
    s.packByte k b false = s.setPk k { s.pk k with cur := (s.pk k).cur ++ [b], count := (s.pk k).count + 1 } := by
  unfold State.packByte
  simp [Nat.not_le.mpr short]
  omega

/-- The 32nd byte of a word stores the word. -/
theorem State.packByte_of_last {b : Byte} (short : (s.pk k).count + 1 < s.packetLimit k) (room : (s.pk k).cur.length = 31) :
    s.packByte k b false = s.setPk k { s.pk k with
      store := (s.pk k).store ++ [{ data := (s.pk k).cur ++ [b], last := false }], cur := [], wptr := ((s.pk k).wptr + 1) % 128,
      count := (s.pk k).count + 1 } := by
  unfold State.packByte
  simp [Nat.not_le.mpr short, room, State.storeWord]

/-- A packer that may take a unit takes it, at once or when its stall ends. -/
theorem packUnit_of_open {t : State} (enabled : s.flag F.PKnn_CFG_EN k = true) (some : (Tbl.getD s.pio.eng k {}).rx ≠ []) (empty : (s.pk k).store = [])
    (closed : (s.pk k).pad = 0) (quiet : s.pkSettle k = s) (placed : s.placeUnit k = t) (fits : (t.pk k).store.length ≤ 64) (settled : t.pkSettle k = t) :
    exec (.packerUnitWrite k) s = .next t ∧ exec (.packerStallRelease k) s = .next t := by
  have opens : s.pkOpen k = true := by simp [State.pkOpen, State.pkFull, enabled, empty, closed, placed, fits]
  have unit : s.packUnit k = t := by rw [State.packUnit, placed, settled]
  constructor
  · change execPackerUnitWrite k s = _
    simp [execPackerUnitWrite, enabled, some, opens, unit]
  · change execPackerStallRelease k s = _
    simp [execPackerStallRelease, quiet, opens, unit]

/-- Two states that differ in one packer at most, and there neither in what it offers nor in its cut. -/
structure State.PkGrows (k : Nat) (s t : State) : Prop where
  parts : s.OnlyIn [.swc] t
  regs : t.regs = s.regs
  offered : (t.pk k).offered = (s.pk k).offered
  cut : (t.pk k).cut = (s.pk k).cut

theorem State.PkGrows.refl (s : State) : s.PkGrows k s := ⟨State.onlyIn_refl _ s, rfl, rfl, rfl⟩

theorem State.PkGrows.trans {t u : State} (h : s.PkGrows k t) (h' : t.PkGrows k u) : s.PkGrows k u :=
  ⟨h.parts.andThen h'.parts, h'.regs.trans h.regs, h'.offered.trans h.offered, h'.cut.trans h.cut⟩

theorem State.PkGrows.setPk {v : Packer} (offered : v.offered = (s.pk k).offered) (cut : v.cut = (s.pk k).cut) : s.PkGrows k (s.setPk k v) :=
  ⟨by simp [State.setPk], rfl, by rw [State.pk_setPk, offered], by rw [State.pk_setPk, cut]⟩

theorem State.storeWord_grows (last : Bool) : s.PkGrows k (s.storeWord k last) := .setPk rfl rfl

/-- The padding enters the store and changes neither the offer nor the cut. -/
theorem State.packPad_grows (n : Nat) (s : State) : s.PkGrows k (s.packPad n k) := by
  induction n generalizing s with
  | zero => exact .refl s
  | succ n ih =>
    unfold State.packPad
    extract_lets p padded q
    split
    · exact .refl s
    · have first : s.PkGrows k padded := .setPk rfl rfl
      refine first.trans (.trans ?_ (ih _))
      split
      · exact State.storeWord_grows true
      · split
        · exact State.storeWord_grows false
        · exact .refl padded

/-- A padding byte enters the word being filled, and ends it at 32 bytes or with the packet. -/
theorem State.packPad_succ {n : Nat} (opens : ¬((s.pk k).pad = 0 ∨ s.pkFull k = true)) : s.packPad (n + 1) k =
    let t := s.setPk k { s.pk k with cur := (s.pk k).cur ++ [0], count := (s.pk k).count + 1, pad := (s.pk k).pad - 1 }
    State.packPad n (if (t.pk k).pad = 0 then t.storeWord k true else if (t.pk k).cur.length = 32 then t.storeWord k false else t) k :=
  if_neg opens

/-- The last padding byte of a packet ends its word and the packet. -/
theorem State.packPad_of_one (n : Nat) (one : (s.pk k).pad = 1) (empty : (s.pk k).store = []) : s.packPad (n + 1) k = s.setPk k { s.pk k with
    cur := [], count := 0, pad := 0, store := [{ data := (s.pk k).cur ++ [0], last := true }], wptr := ((s.pk k).wptr + 1) % 128 } := by
  have open' : ¬((s.pk k).pad = 0 ∨ s.pkFull k = true) := by simp [one, empty, State.pkFull]
  have step := State.packPad_succ (n := n) open'
  simp only [State.pk_setPk, one, Nat.sub_self, if_true, State.storeWord, State.setPk_setPk, empty, List.nil_append] at step
  rw [step, State.packPad_of_closed n (by rw [State.pk_setPk])]

/-- The words that complete a frame already entered are read off the store and end the cut. -/
theorem State.cutRead_of_whole {h n : Nat} {w : PkWord} (cut : (s.pk k).cut = some (h, n)) (store : (s.pk k).store = [w]) (last : w.last = true) :
    s.cutRead k = (s.setPk k { s.pk k with store := [], rptr := ((s.pk k).rptr + 1) % 128, cut := none }).updBuf h
      fun b => { b with fr := { b.fr with pay := patch b.fr.pay n w.data } } := by
  unfold State.cutRead
  simp [cut, store, State.frontPacket, last, State.readWords, State.pkBytes]

theorem State.wordsBut_of_regs {ks : List Nat} {s t : State} (regs : t.regs = s.regs) (image : t.imgRegs = s.imgRegs) : s.WordsBut ks t := by
  intro k _ d
  unfold State.word
  rw [regs, image]

end

/-- A packet that starves is counted short and filled with zeros. -/
theorem execPackerCtTimeout_of_open {s : State} {k : Nat} (starved : ((s.pk k).cut.isSome
    || ((s.pk k).offered && !(State.frontPacket (s.pk k).store).any fun w => w.last)) = true) (closed : (s.pk k).pad = 0) :
    execPackerCtTimeout k s = .next (((s.setPk k { s.pk k with pad := s.packetLimit k - (s.pk k).count }).bump F.PKnn_STAT_SHORT k).pkSettle k) := by
  unfold execPackerCtTimeout
  simp [starved, closed]

/-- Settles O30: a unit by the room for it, a starved packet by how it left, a flush by EN. -/
theorem packersCollectUnits : Obligations.PackersCollectUnits := by
  unfold Obligations.PackersCollectUnits
  intro s k p q taken fresh
  have still (closed : p.pad = 0) (uncut : p.cut = none) (waits : s.PkWaits k) : s.pkSettle k = s := State.pkSettle_of_waits closed uncut waits
  refine ⟨fun w rest head new room => ?_, fun w rest head new room var => ?_, fun some enabled full closed uncut offered => ⟨?_, ?_⟩, fun idle => ?_,
    fun offered uncut closed part => ?_, fun h n free cut empty closed short => ?_, fun f x index wr flush => ⟨fun off => ?_, fun on => ?_⟩⟩
  · obtain ⟨enabled, byte, empty, closed, uncut, free, short⟩ := new
    have waits : s.PkWaits k := .inr ⟨by rw [show (s.pk k).store = [] from empty]; rfl, .inr empty⟩
    refine packUnit_of_open enabled (by rw [show (Tbl.getD s.pio.eng k {}).rx = _ from head]; simp) empty closed (still closed uncut waits)
      ((State.placeUnit_of_byte head byte).trans (State.packByte_of_room short room)) ?_ (State.pkSettle_of_waits ?_ ?_ (.inr ⟨?_, .inr ?_⟩))
    all_goals rw [State.pk_setPk]
    · exact (congrArg List.length empty).trans_le (by decide)
    · exact closed
    · exact uncut
    · show ((State.frontPacket p.store).any fun w => w.last) = false
      rw [empty]
      rfl
    · exact empty
  · obtain ⟨enabled, byte, empty, closed, uncut, free, short⟩ := new
    have waits : s.PkWaits k := .inr ⟨by rw [show (s.pk k).store = [] from empty]; rfl, .inr empty⟩
    have place := (State.placeUnit_of_byte head byte).trans (State.packByte_of_last short room)
    refine packUnit_of_open enabled (by rw [show (Tbl.getD s.pio.eng k {}).rx = _ from head]; simp) empty closed (still closed uncut waits)
      (place.trans ?_) ?_ (State.pkSettle_of_waits ?_ ?_ (.inr ⟨?_, .inl var⟩))
    all_goals try rw [State.pk_setPk]
    · show (State.onPio s _).setPk k { p with store := p.store ++ _, cur := [], wptr := _, count := _ } = _
      rw [empty]
      rfl
    · show List.length [_] ≤ 64
      simp
    · exact closed
    · exact uncut
    · rfl
  · change execPackerUnitWrite k s = _
    have shut : s.pkOpen k = false := by simp [State.pkOpen, full]
    have settled : (s.bump F.PKnn_STAT_STALLS k).pkSettle k = s.bump F.PKnn_STAT_STALLS k := State.pkSettle_of_waits closed uncut (.inl offered)
    have some : (Tbl.getD s.pio.eng k {}).rx ≠ [] := some
    simp [execPackerUnitWrite, enabled, some, shut, settled]
  · change execPackerStallRelease k s = _
    have shut : s.pkOpen k = false := by simp [State.pkOpen, full]
    simp [execPackerStallRelease, still closed uncut (.inl offered), shut]
  · change execPackerUnitWrite k s = _
    rcases idle with none | off
    · have none : (Tbl.getD s.pio.eng k {}).rx = [] := none
      simp [execPackerUnitWrite, none]
    · simp [execPackerUnitWrite, off]
  · let u := (s.setPk k { p with pad := s.packetLimit k - p.count }).bump F.PKnn_STAT_SHORT k
    have run : execPackerCtTimeout k s = .next (u.pkSettle k) := execPackerCtTimeout_of_open (by rw [offered, part]; simp) closed
    have grows : u.PkGrows k (u.packPad 1024 k) := State.packPad_grows 1024 u
    have same : u.pk k = { p with pad := s.packetLimit k - p.count } := s.pk_setPk k _
    have settled : u.pkSettle k = u.packPad 1024 k := by
      rw [State.pkSettle, State.cutRead_of_none (grows.cut.trans (by rw [same]; exact uncut)), State.offerPacket_of_waits]
      exact .inl (grows.offered.trans (by rw [same]; exact offered))
    have words : u.WordsBut [] (u.packPad 1024 k) := State.wordsBut_of_regs grows.regs (grows.parts.2 .imgRegs (by decide))
    rw [settled] at run
    refine ⟨_, run, (words.get (by simp)).trans (State.get_bump_self _ k (by decide) (by decide)), ?_, ?_⟩
    · exact State.OnlyIn.andThen (t := u) (by simp [u, State.setPk]) (grows.parts.mono (by decide))
    · exact State.WordsBut.trans (t := u) (by simp [u, State.setPk]) (words.mono (by simp))
  · let u := (s.setPk k { p with pad := s.packetLimit k - p.count }).bump F.PKnn_STAT_SHORT k
    have run : execPackerCtTimeout k s = .next (u.pkSettle k) := execPackerCtTimeout_of_open (by rw [show (s.pk k).cut = _ from cut]; rfl) closed
    have same : u.pk k = { p with pad := s.packetLimit k - p.count } := s.pk_setPk k _
    have padded : u.packPad 1024 k = u.setPk k { p with
        cur := [], count := 0, pad := 0, store := [{ data := p.cur ++ [0], last := true }], wptr := (p.wptr + 1) % 128 } := by
      have one := State.packPad_of_one (s := u) (k := k) 1023 (by rw [same]; show s.packetLimit k - p.count = 1; omega) (by rw [same]; exact empty)
      rw [same] at one
      exact one
    obtain ⟨v, read⟩ : ∃ v : State, v = (u.packPad 1024 k).cutRead k := ⟨_, rfl⟩
    rw [padded, State.cutRead_of_whole (by rw [State.pk_setPk]; exact cut) (by rw [State.pk_setPk]) rfl, State.setPk_setPk, State.pk_setPk] at read
    have after : v.pk k = { p with cur := [], count := 0, pad := 0, store := [], wptr := (p.wptr + 1) % 128, rptr := (p.rptr + 1) % 128, cut := none } := by
      rw [read]
      exact u.pk_setPk k _
    have settled : u.pkSettle k = v := by
      rw [State.pkSettle, padded, State.cutRead_of_whole (by rw [State.pk_setPk]; exact cut) (by rw [State.pk_setPk]) rfl, State.setPk_setPk,
        State.pk_setPk, ← read]
      exact State.offerPacket_of_waits _ (.inr ⟨by rw [after]; rfl, .inr (by rw [after])⟩)
    have parts : u.OnlyIn [.regs, .swc] v := by
      rw [read, State.updBuf_eq]
      simp [State.setPk]
    have words : u.WordsBut [] v := State.wordsBut_of_regs (by rw [read]; rfl) (by rw [read]; rfl)
    rw [settled] at run
    refine ⟨v, run, (words.get (by simp)).trans (State.get_bump_self _ k (by decide) (by decide)), by rw [after], by rw [after], by rw [after],
      by rw [after], by rw [after], State.OnlyIn.andThen (t := u) (by simp [u, State.setPk]) parts,
      State.WordsBut.trans (t := u) (by simp [u, State.setPk]) (words.mono (by simp))⟩
  · have aim : (atReg f F.PKnn_CFG_EN 64 && bit (wordOf f) 25) = true := by rw [wr.at_reg (by decide) index, flush]; rfl
    refine wr.ends aim ((writeEffect_swc wr.name).trans ?_)
    simp [writeSwc, wr.name, flush, packerFlush, off]
  · have aim : (atReg f F.PKnn_CFG_EN 64 && bit (wordOf f) 25) = true := by rw [wr.at_reg (by decide) index, flush]; rfl
    refine wr.ends aim ((writeEffect_swc wr.name).trans ?_)
    simp [writeSwc, wr.name, flush, packerFlush, on]

end Sys2Proof.Machine

/-! PROOFS. Endpoint objects and their publication (R185 to R206). -/
namespace Sys2Proof.Machine

section
variable {s : State} {i : Nat} {o : Obj}

/-- An update of an object by what its source reports. -/
theorem State.sourceUpdate_of_obj {u : Update} (found : s.obj? u.obj = some o) : s.sourceUpdate u = match u.rep with
    | .fail => s.finish u.obj o { o with sec := u.sec, ns := u.ns, qual := qualWith o.qual qFAULT 0 }
    | .sinkOk => s.finish u.obj o { o with sec := u.sec, ns := u.ns, qual := qualWith o.qual 0 qFAULT }
    | .value v lost => if o.req.isSome then s.setObj u.obj { o with req := some (v % typeMod o.type), upAt := s.up }
      else s.finish u.obj o { o with
        sec := u.sec, ns := u.ns, upAt := s.up, value := v % typeMod o.type,
        qual := qualWith o.qual (if lost then qLOST else 0) (qINIT + qSTALE + qFAULT + qLOST + qSUBST) } := by
  unfold State.sourceUpdate
  rw [found] <;> rfl

/-- The binder's oldest update acts where RFX has none. -/
theorem execSourceUpdate_of_binder {u : Update} {rest : List Update} (quiet : s.epo.rfx = []) (next : s.epo.binder = u :: rest) :
    exec .sourceUpdate s = .next ((s.onEpo fun e => { e with binder := rest }).sourceUpdate u) := by
  change execSourceUpdate s = _
  simp [execSourceUpdate, quiet, next]

theorem execSourceUpdate_of_rfx {u : Update} {rest : List RfxItem} (next : s.epo.rfx = .update u :: rest) :
    exec .sourceUpdate s = .next ((s.onEpo fun e => { e with rfx := rest }).sourceUpdate u) := by
  change execSourceUpdate s = _
  simp [execSourceUpdate, next]

theorem execHoldChange_of_hold {v : Option Nat} {rest : List RfxItem} (next : s.epo.rfx = .hold i v :: rest) :
    exec .holdChange s = .next ((s.onEpo fun e => { e with rfx := rest }).performRfx (.hold i v)) := by
  change execHoldChange s = _
  simp [execHoldChange, next]

/-- A value that has not come in its time makes an input stale once. -/
theorem execStaleTimeout_of_obj (found : s.obj? i = some o) : exec (.staleTimeout i) s =
    let n := s.get F.EPO_PRULE_TIM_STALE o.prule
    let due := o.upAt + n * 1000000
    if o.isInput ∧ n ≠ 0 ∧ due ≤ s.up ∧ !bit o.qual 1 then
      .next (s.finish i o { o with qual := qualWith o.qual qSTALE 0, sec := (s.ns - (s.up - due)) / 10 ^ 9, ns := (s.ns - (s.up - due)) % 10 ^ 9 })
    else .next s := by
  change execStaleTimeout i s = _
  unfold execStaleTimeout
  rw [found]

end

/-- Settles O31: each update by its source, and each repair. -/
theorem objectsFollowTheirSources : Obligations.ObjectsFollowTheirSources := by
  unfold Obligations.ObjectsFollowTheirSources
  intro s i o found
  refine ⟨?_, fun u rest next => execSourceUpdate_of_rfx next, fun rest next v held => ?_, fun rest v next => ?_, ?_, fun n value qual => if_pos ⟨value, qual⟩,
    fun n value qual => ?_, fun n value => ?_, ⟨rfl, rfl, rfl⟩, fun free fresh => ?_⟩
  · rintro u rest quiet next rfl b
    have run := (execSourceUpdate_of_binder quiet next).trans (congrArg Host.Outcome.next (State.sourceUpdate_of_obj (s := b) found))
    refine ⟨fun v lost rep free => ?_, fun v lost h rep held => ?_, fun rep => ?_, fun rep => ?_⟩
    · rw [run, rep]
      simp only [free, Option.isSome_none, Bool.false_eq_true, if_false]
      rfl
    · rw [run, rep]
      simp only [held, Option.isSome_some, if_true]
      rfl
    · rw [run, rep]
    · rw [run, rep]
  · have found' : (s.onEpo fun e => { e with rfx := rest }).obj? i = some o := found
    rw [execHoldChange_of_hold next]
    simp only [State.performRfx, State.releaseObj, found', held]
    rfl
  · have found' : (s.onEpo fun e => { e with rfx := rest }).obj? i = some o := found
    rw [execHoldChange_of_hold next]
    simp only [State.performRfx, State.holdObj, found']
    rfl
  · intro n due
    have run := execStaleTimeout_of_obj found
    refine ⟨fun input timed late fresh => run.trans (if_pos ⟨input, timed, late, by simp [fresh]⟩), fun early => run.trans (if_neg ?_)⟩
    rintro ⟨-, timed, late, -⟩
    exact early.elim timed (Nat.not_lt.mpr late)
  · exact (if_neg fun h => qual h.2).trans (if_pos value)
  · exact (if_neg fun h => value h.1).trans (if_neg value)
  · simp [State.repairObj, found, free, fresh, qINIT, qFAULT]

/-! ### Publication -/

section
variable {s : State} {i : Nat} {o : Obj}

/-- A published object is triggered by a change of its quality, under ANY of its value, and under DEADBAND of its distance. -/
theorem State.evaluate_of_published {v q t : Nat} (found : s.obj? i = some o) (pub : o.pub = some (v, q, t))
    (on : s.get F.EPO_PRULE_CFG_MODE o.prule ≠ 0) : s.evaluate i =
      if decide (o.qual ≠ q) || (bit (s.get F.EPO_PRULE_CFG_MODE o.prule) 0 && decide (o.value ≠ v))
        || (bit (s.get F.EPO_PRULE_CFG_MODE o.prule) 1 && exceeds o.type o.signed o.value v (s.deadband o.prule)) then s.trigger i false else s := by
  unfold State.evaluate
  simp only [found, pub, on, if_false]

theorem bit_zero (k : Nat) : bit 0 k = false := by simp [bit]

theorem ne_zero_of_bit {n k : Nat} (h : bit n k = true) : n ≠ 0 := by
  rintro rfl
  rw [bit_zero] at h
  cases h

/-- A trigger within MININT of the last publication waits. -/
theorem State.trigger_of_early {v q t : Nat} (found : s.obj? i = some o) (pub : o.pub = some (v, q, t))
    (early : s.up < t + s.get F.EPO_PRULE_TIM_MININT o.prule * 1000) : s.trigger i false = s.setObj i { o with deferred := true } := by
  unfold State.trigger
  simp only [found, pub, early, decide_true, Bool.not_false, Bool.and_self, if_true]

/-- The subscriptions after a trigger of the object i: those that name it hold it as pending. -/
def State.subsAfter (s : State) (i : Nat) : Map Sub := s.epo.subs.map fun p => (p.1,
  if p.2.first ≤ i ∧ i < p.2.first + p.2.count then
    { p.2 with pending := Tbl.put p.2.pending i (), since := if p.2.pending.isEmpty then s.up else p.2.since }
  else p.2)

theorem State.subsAfter_find {k : Nat} {b : Sub} (h : Tbl.find? s.epo.subs k = some b) : Tbl.find? (s.subsAfter i) k =
    some (if b.first ≤ i ∧ i < b.first + b.count then
      { b with pending := Tbl.put b.pending i (), since := if b.pending.isEmpty then s.up else b.since }
    else b) := by
  refine (Tbl.find?_map_key s.epo.subs (fun _ (b : Sub) => if b.first ≤ i ∧ i < b.first + b.count then
      { b with pending := Tbl.put b.pending i (), since := if b.pending.isEmpty then s.up else b.since } else b) k).trans ?_
  rw [h]
  rfl

/-- A trigger after MININT publishes the object. -/
theorem State.trigger_of_late {v q t : Nat} (found : s.obj? i = some o) (pub : o.pub = some (v, q, t))
    (late : t + s.get F.EPO_PRULE_TIM_MININT o.prule * 1000 ≤ s.up) (plain : o.hist = false) : s.trigger i false =
      (s.setObj i { o with pub := some (o.value, o.qual, s.up), deferred := false, perAt := s.up }).onEpo fun e => { e with subs := s.subsAfter i } := by
  have marks : s.subsAfter i = s.epo.subs.map fun p =>
      if p.2.first ≤ i ∧ i < p.2.first + p.2.count then
        (p.1, { p.2 with pending := Tbl.put p.2.pending i (), since := if p.2.pending.isEmpty then s.up else p.2.since })
      else p := by
    refine List.map_congr_left fun p _ => ?_
    split <;> rfl
  unfold State.trigger
  simp only [found, pub, Nat.not_lt.mpr late, plain, decide_false, Bool.false_and, Bool.false_eq_true, if_false, marks]
  rfl

/-- The PUB frame of the next subscription in rotating order. -/
theorem execPubFrameBuild_of_next {k : Nat} {b : Sub} {l : Map Sub} (active : s.standby = false)
    (next : ((s.epo.subs.filter fun p => s.subReady p.2).filter fun p => decide (s.epo.rotor < p.1)) = (k, b) :: l
      ∨ (((s.epo.subs.filter fun p => s.subReady p.2).filter fun p => decide (s.epo.rotor < p.1)) = []
        ∧ (s.epo.subs.filter fun p => s.subReady p.2) = (k, b) :: l)) :
    execPubFrameBuild s = .next (if s.lossyCredit 5 b.cells then s.buildPub k b else s) := by
  unfold execPubFrameBuild
  rw [active]
  extract_lets ready
  have head : (ready.filter (fun p => decide (s.epo.rotor < p.1)) ++ ready).head? = some (k, b) := by
    rcases next with h | ⟨h, h'⟩
    · rw [show ready.filter _ = _ from h]
      rfl
    · rw [show ready.filter _ = _ from h, List.nil_append, show ready = _ from h']
      rfl
  rw [head]
  rfl

/-- An object with what an entry of a PUB frame says of it; while an output holds it the value is the requested one. -/
def Obj.mirrored (o : Obj) (e : List Byte) : Obj := { o with
  value := if o.req.isSome then o.value else beAt e 16 8 % typeMod o.type, req := o.req.map fun _ => beAt e 16 8 % typeMod o.type,
  qual := qualWith (beAt e 3 1 % 64) (if o.req.isSome then qOVRD else 0) 0, cseq := beAt e 14 2, sec := beAt e 4 6, ns := beAt e 10 4 }

theorem Obj.mirrored_of_free {e : List Byte} (free : o.req = none) : o.mirrored e = { o with
    value := beAt e 16 8 % typeMod o.type, qual := qualWith (beAt e 3 1 % 64) 0 0, cseq := beAt e 14 2, sec := beAt e 4 6, ns := beAt e 10 4 } := by
  simp [Obj.mirrored, free]

/-- The state after an entry without INIT for a mirror: one that is not newer is counted. -/
def State.mirrorOne (s : State) (i : Nat) (o : Obj) (e : List Byte) : State :=
  if sdiff 16 (beAt e 14 2) o.cseq ≤ 0 then s.bump F.EPO_CNT_MIRSTALE
  else if o.value = (o.mirrored e).value ∧ o.qual = (o.mirrored e).qual then s.setObj i (o.mirrored e)
  else (s.setObj i (o.mirrored e)).evaluate i

/-- A PUB frame of one entry acts on the one object that mirrors it. -/
theorem execPub_of_mirror {f : Frame} (known : classOf s.hubNum f.src f.init ≠ none) (posted : f.pst = true) (one : beAt f.pay 0 2 = 1)
    (objs : s.epo.objs = [(i, o)]) (remote : o.kind = 6) (here : o.index = f.src * 65536 + beAt (slice f.pay 20 24) 0 2)
    (init : bit (beAt (slice f.pay 20 24) 3 1 % 64) 0 = false) :
    execPub f s = .next ((s.take f).mirrorOne i o (slice f.pay 20 24)) := by
  have targets : ((s.take f).epo.objs.filter fun p => decide (p.2.kind = 6) && decide (p.2.index = f.src * 65536 + beAt (slice f.pay 20 24) 0 2))
      = [(i, o)] := by
    rw [State.take_epo, objs]
    simp [remote, here]
  have found : (s.take f).obj? i = some o := by
    rw [State.obj?, State.take_epo, objs]
    simp [Tbl.find?]
  have run : mirror (s.take f) f.src (slice f.pay 20 24) = (s.take f).mirrorOne i o (slice f.pay 20 24) := by
    unfold mirror
    rw [targets]
    simp [found, init, State.mirrorOne, Obj.mirrored]
  have pass : ¬(classOf s.hubNum f.src f.init = none ∨ (!f.pst) = true) := by simp [known, posted]
  refine (if_neg pass).trans ?_
  rw [one]
  exact congrArg Host.Outcome.next run

end

/-- Settles O32: the trigger by the rule's mode, the frame by the rotation, the mirror by the sequence. -/
theorem publicationFollowsTheRules : Obligations.PublicationFollowsTheRules := by
  unfold Obligations.PublicationFollowsTheRules
  refine ⟨fun s i o found => ?_, fun s k b found => ⟨fun some late => ?_, fun idle => ?_, ?_⟩, fun s => ?_, fun s f => ⟨fun bad => ?_, fun known posted none => ?_, ?_⟩⟩
  · intro mode
    have eval {v q t : Nat} (pub : o.pub = some (v, q, t)) (on : mode ≠ 0) := State.evaluate_of_published found pub on
    refine ⟨fun off => ?_, fun v q t on pub qual => ?_, fun v q t on pub qual value band => ?_, fun v q t any pub value => ?_, fun v q t band any pub qual => ?_,
      fun v q t pub early => State.trigger_of_early found pub early, fun v q t pub late plain => ?_, fun periodic now late => ?_, fun idle => ?_,
      fun v q t pub => ⟨fun waits late => ?_, fun idle => ?_⟩⟩
    · unfold State.evaluate
      rw [found]
      exact if_pos off
    · rw [eval pub on, if_pos (by simp [qual])]
    · rw [eval pub on, if_neg (by simp only [mode] at band; simp [qual, value, band])]
    · rw [eval pub (ne_zero_of_bit any), if_pos (by simp only [mode] at any; simp [value, any])]
    · rw [eval pub (ne_zero_of_bit band)]
      simp only [mode] at band any
      simp [qual, band, any]
    · refine ⟨_, State.trigger_of_late found pub late plain, Tbl.find?_put_self _ _ _, fun k b here first last => ?_, fun k b here out => ?_, ?_⟩
      · exact (State.subsAfter_find here).trans (congrArg some (if_pos ⟨first, last⟩))
      · exact (State.subsAfter_find here).trans (congrArg some (if_neg (by omega)))
      · simp [State.setObj]
    · change execPeriodTimer i s = _
      simp only [mode] at periodic
      simp [execPeriodTimer, found, periodic, now, late]
    · change execPeriodTimer i s = _
      simp only [mode] at idle
      have no : ¬(bit (s.get F.EPO_PRULE_CFG_MODE o.prule) 2 = true ∧ (!o.deferred) = true
          ∧ o.perAt + s.get F.EPO_PRULE_CFG_PERIOD o.prule * 1000000 ≤ s.up) := by
        rintro ⟨periodic, now, late⟩
        rcases idle with off | waits | early
        · simp [off] at periodic
        · simp [waits] at now
        · omega
      simp only [execPeriodTimer, found]
      rw [if_neg no]
    · change execDeferredEvaluation i s = _
      simp [execDeferredEvaluation, found, pub, waits, late]
    · change execDeferredEvaluation i s = _
      rcases idle with now | early
      · simp [execDeferredEvaluation, found, pub, now]
      · simp [execDeferredEvaluation, found, pub, Nat.not_le.mpr early]
  · refine ⟨s.onEpo fun e => { e with subs := Tbl.put e.subs k { b with timerDone := true } }, ?_, Tbl.find?_put_self s.epo.subs k _, by simp⟩
    change execBatchTimer k s = _
    have go : ¬(b.pending.isEmpty = true ∨ s.up < b.since + s.get F.EPO_PUBCFG_BATCH * 1000) := by
      rw [some]
      simpa using late
    simp only [execBatchTimer, found]
    rw [if_neg go]
  · change execBatchTimer k s = _
    simp only [execBatchTimer, found, idle, if_true]
  · simp [State.subReady, or_assoc]
  · intro ready next
    refine ⟨fun off => if_pos off, ?_⟩
    intro k b l active order left u entries
    have run := execPubFrameBuild_of_next active order
    exact ⟨fun credit => run.trans (by rw [if_pos credit]; rfl), fun short => run.trans (by rw [if_neg (ne_true_of_eq_false short)])⟩
  · exact if_pos (bad.imp id fun h => by rw [h]; rfl)
  · refine (if_neg (by simp [known, posted])).trans ?_
    rw [none]
    rfl
  · intro i o known posted one objs remote e here init
    have run := execPub_of_mirror known posted one objs remote here init
    refine ⟨fun old => run.trans (congrArg Host.Outcome.next (if_pos old)), fun new free value qual => ?_, ?_⟩
    · have value' : o.value = (o.mirrored e).value := by rw [Obj.mirrored_of_free free]; exact value
      have qual' : o.qual = (o.mirrored e).qual := by rw [Obj.mirrored_of_free free]; exact qual
      refine run.trans (congrArg Host.Outcome.next ((if_neg (not_le.mpr new)).trans ((if_pos ⟨value', qual'⟩).trans ?_)))
      rw [Obj.mirrored_of_free free, ← qual, ← value]
    · intro new free value n
      have n_eq : o.mirrored e = n := Obj.mirrored_of_free free
      have value' : o.value ≠ (o.mirrored e).value := by rw [n_eq]; exact value
      refine run.trans (congrArg Host.Outcome.next ((if_neg (not_le.mpr new)).trans ((if_neg fun h => value' h.1).trans ?_)))
      rw [← n_eq]

end Sys2Proof.Machine

/-! PROOFS. Commands of the endpoint block: subscriptions, snapshots, bulk copies and the schedule (R207 to R215, R391, R505). -/
namespace Sys2Proof.Machine

section
variable {s : State} {f : Frame} {x : RegRow}

@[simp] theorem State.onlyIn_unlock {ps : List Part} (s t : State) (k : LockId) (mem : .locks ∈ ps) : s.OnlyIn ps (t.unlock k) ↔ s.OnlyIn ps t :=
  (t.onlyIn_put_locks _).absorb_part mem s

/-- The command written to EPO.CMD by the lock's holder acts once the lock is released. -/
theorem State.WritesReg.epoCommand (wr : s.WritesReg f F.EPO_CMD_OP 0 x) {n : Nat} (op : wordOf f % 8 = n) {a : State.Res} {t : State}
    (run : epoCmd f s = (a, t)) : lockRow .epo n f s = .next (t.settle 5 f a) := by
  have aim : (atReg f LockId.epo.cmd.1 && decide (wordOf f % LockId.epo.cmd.2 = n)) = true := by
    rw [show atReg f LockId.epo.cmd.1 = true from wr.at_first (by decide), show wordOf f % LockId.epo.cmd.2 = n from op]
    simp
  refine wr.ends aim ((writeEffect_epo wr.name).trans ?_)
  simp [writeEpo, wr.name, run]

section
variable (mine : s.holds .epo f.src f.init = true)
include mine

theorem epoCmd_subAlloc (op : wordOf f % 8 = 1) : epoCmd f s = ({ st := (subAlloc (s.unlock .epo)).1 }, (subAlloc (s.unlock .epo)).2) := by
  rw [epoCmd, locked_of_holds mine]
  simp only [op]

theorem epoCmd_subFree (op : wordOf f % 8 = 2) : epoCmd f s = ({}, subFree (bits (wordOf f) 16 3) (s.unlock .epo)) := by
  rw [epoCmd, locked_of_holds mine]
  simp only [op]

theorem epoCmd_snapArm (op : wordOf f % 8 = 3) : epoCmd f s = snapArm (s.unlock .epo) := by
  rw [epoCmd, locked_of_holds mine]
  simp only [op]

theorem epoCmd_snapCancel (op : wordOf f % 8 = 4) : epoCmd f s = ({}, snapCancel (bits (wordOf f) 5 3) (s.unlock .epo)) := by
  rw [epoCmd, locked_of_holds mine]
  simp only [op]

end

/-- The result register shows what the command wrote. -/
theorem epoRes_get (s : State) {index result : Nat} (small : index < 16384) (code : result < 8) :
    (epoRes s index result).get F.EPO_CMD_RES_INDEX = index ∧ (epoRes s index result).get F.EPO_CMD_RES_RESULT = result := by
  constructor
  · exact (State.get_set_apart _ _ (by decide)).trans ((State.get_set_self _ _ _ (by decide) (by decide)).trans (Nat.mod_eq_of_lt small))
  · exact (State.get_set_self _ _ _ (by decide) (by decide)).trans (Nat.mod_eq_of_lt code)

/-- The subscription that SUB_ALLOC makes of its arguments. -/
def State.newSub (s : State) : Sub :=
  { first := s.get F.EPO_CMD_ARG0_FIRST, count := s.get F.EPO_CMD_ARG0_COUNT, tc := s.get F.EPO_CMD_ARG0_TC,
    toHost := s.flag F.EPO_CMD_ARG0_DSTKIND, dest := s.get F.EPO_CMD_ARG1_DEST, hostId := s.get F.EPO_CMD_ARG1_HOSTID }

/-- A subscription takes the lowest free number above those that the image defines. -/
theorem subAlloc_of_free {k : Nat} (low : 4 ≤ s.get F.EPO_CMD_ARG0_TC) (high : s.get F.EPO_CMD_ARG0_TC ≤ 7)
    (defined : definedRange s (s.get F.EPO_CMD_ARG0_FIRST) (s.get F.EPO_CMD_ARG0_COUNT) = true)
    (free : Tbl.firstFree s.epo.subs (s.get F.EPO_SUB_USED_DEF) (16384 - s.get F.EPO_SUB_USED_DEF) = some k) : subAlloc s =
      (.ok, epoRes (s.onEpo fun e => { e with subs := Tbl.put e.subs k s.newSub }) k 0) := by
  unfold subAlloc
  extract_lets old first count tc d
  rw [if_neg (by simp [first, count, tc, defined, low, high]), show Tbl.firstFree s.epo.subs d (16384 - d) = some k from free]
  rfl

theorem subAlloc_of_full (low : 4 ≤ s.get F.EPO_CMD_ARG0_TC) (high : s.get F.EPO_CMD_ARG0_TC ≤ 7)
    (defined : definedRange s (s.get F.EPO_CMD_ARG0_FIRST) (s.get F.EPO_CMD_ARG0_COUNT) = true)
    (full : Tbl.firstFree s.epo.subs (s.get F.EPO_SUB_USED_DEF) (16384 - s.get F.EPO_SUB_USED_DEF) = none) : subAlloc s =
      (.nores, (epoRes s (s.get F.EPO_CMD_RES_INDEX) 1).bump F.EPO_CNT_SUBEXH) := by
  unfold subAlloc
  extract_lets old first count tc d
  rw [if_neg (by simp [first, count, tc, defined, low, high]), show Tbl.firstFree s.epo.subs d (16384 - d) = none from full]

/-- A snapshot of a set that does not exist or of a class outside 4 to 7 is not armed. -/
theorem State.armSnap_of_bad {set : Option (List Nat)} {y : Snap} {noRef : Bool} (bad : set = none ∨ y.tc < 4 ∨ 7 < y.tc) :
    s.armSnap set y noRef = (2, 0, s) := by
  unfold State.armSnap
  cases set with
  | none => rfl
  | some objs => exact if_pos (bad.resolve_left (by simp))

/-- A snapshot of a good set takes the lowest free slot; one whose instant is reached is copied at once. -/
theorem State.armSnap_of_good {objs : List Nat} {y : Snap} (low : 4 ≤ y.tc) (high : y.tc ≤ 7) : s.armSnap (some objs) y false =
    match (List.range 8).find? s.snapFree with
    | none => (1, 0, s.bump F.EPO_CNT_SNAPEXH)
    | some k => if s.instantReached y.instant then (0, k, s.copySnap k { y with objs := ascending objs } true)
      else (0, k, s.onEpo fun e => { e with snaps := Tbl.put e.snaps k { y with objs := ascending objs } }) :=
  (if_neg (by omega)).trans (if_neg Bool.false_ne_true)

theorem State.instantReached_of_early {t : Nat} (early : s.ns < t) : s.instantReached (.time t) = false := by
  simpa [State.instantReached] using early

/-- The snapshot that SNAP_ARM arms at a time, without its set. -/
def State.timedSnap (s : State) : Snap :=
  { objs := [], tc := s.get F.EPO_CMD_ARG0_TC, toHost := s.flag F.EPO_CMD_ARG0_DSTKIND, dest := s.get F.EPO_CMD_ARG1_DEST,
    hostId := s.get F.EPO_CMD_ARG1_HOSTID, id := s.get F.EPO_CMD_ARG4_ARG4,
    instant := .time (State.timeOf (s.sec / 2 ^ 32 * 2 ^ 32 + s.get F.EPO_CMD_ARG3_ARG3) (s.get F.EPO_CMD_ARG2_ARG2)) }

/-- The set that SNAP_ARM names. -/
def State.namedSet (s : State) : Option (List Nat) :=
  s.snapSet (s.flag F.EPO_CMD_ARG0_LIST) (s.get F.EPO_CMD_ARG0_FIRST) (s.get F.EPO_CMD_ARG0_COUNT)

theorem snapArm_of_bad (bad : s.namedSet = none ∨ s.get F.EPO_CMD_ARG0_TC < 4 ∨ 7 < s.get F.EPO_CMD_ARG0_TC) :
    snapArm s = ({}, epoRes s (s.get F.EPO_CMD_RES_INDEX) 2) := by
  unfold snapArm
  extract_lets old k phase w y set
  rw [show s.armSnap set y (phase && !s.refOn k) = (2, 0, s) from State.armSnap_of_bad bad]
  rfl

theorem snapArm_of_time (timed : s.flag F.EPO_CMD_ARG1_WHEN = false) : snapArm s =
    ({ st := if (s.armSnap s.namedSet s.timedSnap false).1 = 1 then .nores else .ok }, epoRes (s.armSnap s.namedSet s.timedSnap false).2.2
      (if (s.armSnap s.namedSet s.timedSnap false).1 = 0 then (s.armSnap s.namedSet s.timedSnap false).2.1 else s.get F.EPO_CMD_RES_INDEX)
      (s.armSnap s.namedSet s.timedSnap false).1) := by
  unfold snapArm
  simp only [timed]
  rfl

end

/-- The cut of a bulk copy ends at a KiB boundary of its destination. -/
theorem copyCut_within {d left : Nat} (more : 0 < left) : d / 1024 = (d + min left (1024 - d % 1024) - 1) / 1024 := by omega

/-- Settles O33: each command by its conditions, each copy by its credit and its rest. -/
theorem endpointCommandsAnswer : Obligations.EndpointCommandsAnswer := by
  unfold Obligations.EndpointCommandsAnswer
  refine ⟨?_, fun s f bad => ?_, ?_, ?_⟩
  · intro s f x wr mine u old n m first count tc
    refine ⟨fun op => ⟨fun bad => ?_, fun low high defined => ⟨fun full => ?_, fun k free small => ?_⟩⟩, fun op => ⟨fun own has => ?_, fun other => ?_⟩, ?_, fun op =>
      ⟨fun free => ?_, fun y busy found copied => ?_, fun y busy found armed => ?_⟩⟩
    · have run : subAlloc u = (.ok, epoRes u old 2) := by
        refine if_pos ?_
        rcases bad with low | high | undefined
        · simp [show u.get F.EPO_CMD_ARG0_TC < 4 from low]
        · simp [show 7 < u.get F.EPO_CMD_ARG0_TC from high]
        · simp [show definedRange u (u.get F.EPO_CMD_ARG0_FIRST) (u.get F.EPO_CMD_ARG0_COUNT) = false from undefined]
      exact wr.epoCommand op ((epoCmd_subAlloc mine op).trans (by rw [show subAlloc (s.unlock .epo) = _ from run]))
    · exact wr.epoCommand op ((epoCmd_subAlloc mine op).trans (by rw [subAlloc_of_full low high defined full]))
    · have run := subAlloc_of_free low high defined free
      obtain ⟨index, result⟩ := epoRes_get (u.onEpo fun e => { e with subs := Tbl.put e.subs k u.newSub }) (index := k) (result := 0) small (by decide)
      refine ⟨_, wr.epoCommand op ((epoCmd_subAlloc mine op).trans (by rw [run])), index, result, ⟨_, Tbl.find?_put_self _ _ _, rfl, rfl, rfl⟩, ?_, ?_⟩
      · simp [epoRes, u]
      · have shown : F.EPO_CMD_RES_RESULT.key 0 ∈ [F.EPO_CMD_RES_INDEX.key 0] := by decide
        have start : s.WordsBut [F.EPO_CMD_RES_INDEX.key 0] u := State.WordsBut.refl _ s
        simp [epoRes, shown, start]
    · exact wr.epoCommand op ((epoCmd_subFree mine op).trans (Prod.ext rfl (if_pos ⟨own, has⟩)))
    · refine wr.epoCommand op ((epoCmd_subFree mine op).trans (Prod.ext rfl (if_neg ?_)))
      rintro ⟨own, has⟩
      exact other.elim (Nat.not_lt.mpr own) (by rw [has]; simp)
    · intro op at_
      refine ⟨fun bad => wr.epoCommand op ((epoCmd_snapArm mine op).trans (snapArm_of_bad bad)), fun objs set low high timed => ⟨fun full => ?_, fun k free early => ?_⟩⟩
      · have arm : (s.unlock .epo).armSnap (s.unlock .epo).namedSet (s.unlock .epo).timedSnap false = (1, 0, u.bump F.EPO_CNT_SNAPEXH) := by
          rw [show (s.unlock .epo).namedSet = _ from set, State.armSnap_of_good low high, full]
        exact wr.epoCommand op ((epoCmd_snapArm mine op).trans ((snapArm_of_time timed).trans (by rw [arm]; rfl)))
      · have arm : (s.unlock .epo).armSnap (s.unlock .epo).namedSet (s.unlock .epo).timedSnap false =
            (0, k, u.onEpo fun e => { e with snaps := Tbl.put e.snaps k { u.timedSnap with objs := ascending objs } }) := by
          rw [show (s.unlock .epo).namedSet = _ from set, State.armSnap_of_good low high, free]
          exact if_neg (ne_true_of_eq_false (State.instantReached_of_early early))
        exact ⟨_, wr.epoCommand op ((epoCmd_snapArm mine op).trans ((snapArm_of_time timed).trans (by rw [arm]; rfl))), rfl, rfl, rfl, rfl, rfl⟩
    · exact wr.epoCommand op ((epoCmd_snapCancel mine op).trans (Prod.ext rfl (if_pos free)))
    · refine wr.epoCommand op ((epoCmd_snapCancel mine op).trans (Prod.ext rfl ((if_neg (ne_true_of_eq_false busy)).trans (if_pos ?_))))
      rw [found]
      exact copied
    · refine wr.epoCommand op ((epoCmd_snapCancel mine op).trans (Prod.ext rfl ((if_neg (ne_true_of_eq_false busy)).trans (if_neg ?_))))
      rw [found]
      exact ne_true_of_eq_false armed
  · refine if_pos ?_
    rcases bad with refused | long | none
    · simp [refused]
    · simp [long]
    · simp [none]
  · intro s f b c p good long win low more short hub reach tcLow tcHigh flags rest prio cls
    have run : execBcopy f s = match s.refusal c 4 (beAt p 2 6) (beAt p 8 4) .r with
        | some r => .next (s.settle 5 f { st := .viol, reason := r })
        | none => if 4 ≤ s.epo.copies.length then .next ((s.bump F.EPO_CNT_BCEXH).settle 5 f { st := .nores })
          else .next ((s.take f).onEpo fun e => { e with copies := e.copies ++
            [{ req := f, src := beAt p 2 6, len := beAt p 8 4, dst := beAt p 12 6, tc := beAt p 18 1 / 16 }] }) := by
      unfold execBcopy
      extract_lets src len dst tc inBulk pos wrong
      have bulk : inBulk = true := by
        simp only [inBulk]
        rw [show s.winOf src len = .some (.bulk b) from win]
      have fine : wrong = false := by
        have long' : f.pay.length = 20 := long
        have reach' : s.reachable pos = true := reach
        simp only [wrong, bulk, good, reach', Bool.or_eq_false_iff, decide_eq_false_iff_not, Bool.not_true, not_not, not_le, not_lt]
        exact ⟨⟨⟨⟨⟨⟨⟨⟨⟨⟨⟨⟨trivial, long'⟩, trivial⟩, low⟩, Nat.one_le_iff_ne_zero.mp more⟩, short⟩, hub⟩, trivial⟩, tcLow⟩, tcHigh⟩, flags⟩, rest⟩, prio⟩
      rw [fine, cls]
      rfl
    refine ⟨fun r refused => ?_, fun allowed full => ?_, fun allowed room => ?_⟩
    · exact run.trans (by rw [refused])
    · exact run.trans (by rw [allowed]; exact if_pos full)
    · exact run.trans (by rw [allowed]; exact if_neg (Nat.not_le.mpr room))
  · intro s c rest first n u
    refine ⟨fun more => copyCut_within (by omega), fun short => ?_, fun credit last => ?_, fun credit more => ?_⟩
    · change execBcopyFrameSend s = _
      simp only [execBcopyFrameSend, first]
      exact if_pos (by rw [show s.lossyCredit 5 _ = false from short]; rfl)
    · change execBcopyFrameSend s = _
      simp only [execBcopyFrameSend, first]
      exact (if_neg (by rw [show s.lossyCredit 5 _ = true from credit]; decide)).trans (if_pos last)
    · change execBcopyFrameSend s = _
      simp only [execBcopyFrameSend, first]
      exact (if_neg (by rw [show s.lossyCredit 5 _ = true from credit]; decide)).trans (if_neg (Nat.not_le.mpr more))

end Sys2Proof.Machine

/-! PROOFS. Snapshots at their instant, ring-wide snapshots and the schedule (R209 to R213, R391, R505). -/
namespace Sys2Proof.Machine

/-! ### Ascending sets -/

theorem mem_insertUp {n m : Nat} {l : List Nat} : m ∈ insertUp n l ↔ m = n ∨ m ∈ l := by
  induction l with
  | nil => simp [insertUp]
  | cons k l ih =>
    unfold insertUp
    split
    · simp
    · split
      · next h => simp [h]
      · simp only [List.mem_cons, ih]
        tauto

theorem insertUp_rising {n : Nat} {l : List Nat} (h : l.Pairwise (· < ·)) : (insertUp n l).Pairwise (· < ·) := by
  induction l with
  | nil => simp [insertUp]
  | cons k l ih =>
    obtain ⟨first, rest⟩ := List.pairwise_cons.mp h
    unfold insertUp
    split
    · next below => exact List.pairwise_cons.mpr ⟨fun m hm => (List.mem_cons.mp hm).elim (fun e => e ▸ below) fun hm => below.trans (first m hm), h⟩
    · split
      · exact h
      · refine List.pairwise_cons.mpr ⟨fun m hm => ?_, ih rest⟩
        rcases mem_insertUp.mp hm with rfl | hm
        · omega
        · exact first m hm

theorem mem_ascending {l : List Nat} {i : Nat} : i ∈ ascending l ↔ i ∈ l := by
  induction l with
  | nil => rfl
  | cons k l ih =>
    rw [show ascending (k :: l) = insertUp k (ascending l) from rfl, mem_insertUp, ih, List.mem_cons]

theorem ascending_rising (l : List Nat) : (ascending l).Pairwise (· < ·) := by
  induction l with
  | nil => exact .nil
  | cons k l ih => exact insertUp_rising ih

/-! ### Frames of a unit -/

/-- A posted frame of a unit takes a tag and is offered, or is counted where its destination is not reached. -/
theorem State.sendPosted_frame (s : State) (port : Nat) (f : Frame) : s.OnlyIn [.regs, .hub, .swc] (s.sendPosted port f)
    ∧ s.WordsBut [F.HUB_CNT_NADROP.key 0] (s.sendPosted port f) := by
  unfold State.sendPosted
  split
  · simp
  · exact ⟨(State.onlyIn_offer s _ _ (by decide)).mpr (s.onlyIn_put_hub _ |>.mono (by decide)), fun k _ d => rfl⟩

section
variable {s : State} {f : Frame}

theorem State.takeSnap_of_standby {x : Snap} {late : Bool} (passive : s.standby = true) : s.takeSnap x late = s := by
  unfold State.takeSnap
  simp [passive]

/-- The snapshot of one object at a time leaves as one frame, marked as the last. -/
theorem State.takeSnap_of_one {x : Snap} {i t : Nat} {o : Obj} (active : s.standby = false) (one : x.objs = [i]) (found : s.obj? i = some o)
    (timed : x.instant = .time t) (group : x.toHost = false) : s.takeSnap x false =
      s.sendPub x.tc false x.dest (State.pubPayload 0 3 x.id 0 (t / 10 ^ 9) (t % 10 ^ 9) [(i, o)]) := by
  unfold State.takeSnap
  simp [one, found, timed, active, group, cdiv, b2n]

end

/-! ### Ring-wide snapshots -/

section
variable {s : State} {f : Frame} {p : List Byte}

/-- The snapshot that a SNAPREQ or SNAPARM asks for at a time, without its set. -/
def askedSnap (p : List Byte) : Snap :=
  { objs := [], tc := beAt p 7 1, toHost := false, dest := beAt p 18 2, hostId := 0, id := beAt p 2 2,
    instant := .time (State.timeOf (beAt p 8 6) (beAt p 14 4)) }

/-- The set that the first entry of a SNAPREQ or SNAPARM names. -/
def State.askedSet (s : State) (p : List Byte) : Option (List Nat) :=
  s.snapSet (bit (beAt (slice p 22 5) 1 1) 0) (beAt (slice p 22 5) 2 2) (beAt (slice p 22 5) 4 1 + 1)

theorem armEntries_of_away (one : beAt p 20 2 = 1) (away : beAt (slice p 22 5) 0 1 ≠ s.hubNum) : armEntries p s = ([], s) := by
  unfold armEntries
  rw [one]
  exact if_pos away

theorem armEntries_of_here {r k : Nat} {rs : List Nat} {t : State} (one : beAt p 20 2 = 1) (here : beAt (slice p 22 5) 0 1 = s.hubNum) (timed : beAt p 4 1 = 0)
    (arm : s.armSnap (s.askedSet p) (askedSnap p) false = (r, k, t)) (told : (if r = 1 ∨ r = 5 then [r] else []) = rs) : armEntries p s = (rs, t) := by
  have run : armEntries p s = (if (s.armSnap (s.askedSet p) (askedSnap p) false).1 = 1 ∨ (s.armSnap (s.askedSet p) (askedSnap p) false).1 = 5
      then [(s.armSnap (s.askedSet p) (askedSnap p) false).1] else [], (s.armSnap (s.askedSet p) (askedSnap p) false).2.2) := by
    unfold armEntries
    rw [one, timed]
    exact if_neg (not_not_intro here)
  rw [run, arm, ← told]

/-- The checks of a SNAPREQ. -/
def State.snapreqWrong (s : State) (f : Frame) : Prop :=
  mgtRefused s.hubNum f = true ∨ s.master = false ∨ f.pay.length ≠ 22 + 5 * beAt f.pay 20 2 ∨ beAt f.pay 20 2 = 0 ∨ 200 < beAt f.pay 20 2
    ∨ beAt f.pay 7 1 < 4 ∨ 7 < beAt f.pay 7 1 ∨ 4095 < beAt f.pay 18 2 ∨ 1 < beAt f.pay 4 1 ∨ 7 < beAt f.pay 6 1 ∨ beAt f.pay 1 1 ≠ 0

/-- The request that the master passes on to the ring. -/
def snaparmFrame (p : List Byte) : Frame :=
  { tt := .mgt, tc := 2, dst := 0xFE, init := 0, addr := fabAddr 0xFE 0xF (0xFFE * 2 ^ 24), len := p.length, pay := [0x11, 0] ++ p.drop 2 }

theorem execSnapreq_of_wrong (wrong : s.snapreqWrong f) : execSnapreq f s = .next (s.settle 7 f { st := .ur }) := by
  unfold State.snapreqWrong at wrong
  unfold execSnapreq
  extract_lets p n bad
  have refused : bad = true := by
    simp only [bad, n, p, Bool.or_eq_true, decide_eq_true_eq, Bool.not_eq_true', or_assoc]
    exact wrong
  rw [if_pos refused]

/-- The master notes the request with the answers of its own sets. -/
def openRingSnap (f : Frame) (a : List Nat × State) : State := a.2.onEpo fun e =>
  { e with ringSnap := some { req := f, id := beAt f.pay 2 2, since := a.2.up, answers := a.1.map fun r => (a.2.hubNum, r) } }

theorem execSnapreq_of_good (good : ¬s.snapreqWrong f) : execSnapreq f s =
    if s.epo.ringSnap.isSome then .next (s.settle 7 f { st := .busy })
    else .next (openRingSnap f (armEntries f.pay ((s.take f).sendPosted 7 (snaparmFrame f.pay)))) := by
  unfold State.snapreqWrong at good
  unfold execSnapreq
  extract_lets p n bad
  have fine : ¬bad = true := by
    simp only [bad, n, p, Bool.or_eq_true, decide_eq_true_eq, Bool.not_eq_true', or_assoc]
    exact good
  rw [if_neg fine]
  rfl

/-- A count of refused snapshots is none of the twin's role. -/
theorem State.passive_bump : (s.bump F.EPO_CNT_SNAPEXH).passive = s.passive := by
  unfold State.passive
  rw [State.get_bump_elsewhere s (by decide)]

/-- A hub's refusal of a ring-wide snapshot. -/
def snapnackFrame (f : Frame) (r : Nat) : Frame :=
  { tt := .mgt, tc := 2, dst := f.src, init := 0, addr := fabAddr f.src 0xF 0, len := 5, pay := [0x12, 0] ++ be 2 (beAt f.pay 2 2) ++ be 1 r }

theorem execSnaparm_of_good (good : mgtRefused s.hubNum f = false) : execSnaparm f s =
    .next (if (armEntries f.pay (s.take f)).2.passive then (armEntries f.pay (s.take f)).2
      else (armEntries f.pay (s.take f)).1.foldl (fun s r => s.sendPosted 7 (snapnackFrame f r)) (armEntries f.pay (s.take f)).2) :=
  if_neg (ne_true_of_eq_false good)

theorem execSnapnack_of_open {r : RingSnap} (good : mgtRefused s.hubNum f = false) (open' : s.epo.ringSnap = some r) : execSnapnack f s =
    if r.id = beAt f.pay 2 2 ∧ r.answers.length < 200 then
      .next ((s.take f).onEpo fun e => { e with ringSnap := some { r with answers := r.answers ++ [(f.src, beAt f.pay 4 1)] } })
    else .next (s.take f) := by
  refine (if_neg (ne_true_of_eq_false good)).trans ?_
  rw [State.take_epo, open']

/-- The start of a lull does not end the test that runs. -/
theorem State.runningTest_of_lull (n : Nat) :
    ((s.set F.MGT_STAT_LULL 0 1).onMgt fun m => { m with lullEnd := n }).runningTest = s.runningTest := by
  unfold State.runningTest State.standby
  simp (disch := decide) only [State.onMgt_get, State.get_set_elsewhere, State.onMgt_mgt, State.set_mgt]

/-- An entry of the schedule that is due acts by its kind. -/
theorem execScheduleDue_of_due {k : Nat} {e : SchedEntry} {v : State}
    (marked : (s.onImg fun g => { g with schedDone := Tbl.put g.schedDone k s.sec }) = v) (found : Tbl.find? s.img.sched k = some e) (timed : e.period ≠ 0)
    (due : (s.sec + e.period - e.offset % e.period) % e.period = 0) (fresh : Tbl.find? s.img.schedDone k ≠ some s.sec) : execScheduleDue k s =
      if e.kind = 1 then
        .next (if ((v.set F.MGT_STAT_LULL 0 1).onMgt fun m => { m with lullEnd := v.up + e.arg * 1000000000 }).runningTest.isSome then
          (v.set F.MGT_STAT_LULL 0 1).onMgt fun m => { m with lullEnd := v.up + e.arg * 1000000000 }
        else ((v.set F.MGT_STAT_LULL 0 1).onMgt fun m => { m with lullEnd := v.up + e.arg * 1000000000 }).startQueued)
      else if e.kind = 2 then .next (if v.activeTwin then v.requestVeer else v)
      else if e.kind = 3 then .next (if v.passive then v else v.record 2 { kind := 4, src := v.hubNum, aux := k, sec := v.sec, ns := 0 })
      else if e.kind = 4 then
        match v.snapSet true e.arg 0 with
        | none => .next v
        | some l =>
          match (List.range 8).find? v.snapFree with
          | none => .next (v.bump F.EPO_CNT_SNAPEXH)
          | some j => .next (v.copySnap j
            { objs := ascending l, tc := 4, toHost := false, dest := 0, hostId := 0, instant := .time (v.sec * 10 ^ 9), id := k } false)
      else .next v := by
  subst marked
  unfold execScheduleDue
  rw [found]
  exact if_neg (by simp [timed, due, fresh])

end

/-- Settles O34: a slot by its instant, a request by its checks, an entry of the schedule by its time and kind. -/
theorem snapshotsAndScheduleAct : Obligations.SnapshotsAndScheduleAct := by
  unfold Obligations.SnapshotsAndScheduleAct
  refine ⟨fun s k x found => ?_, fun s f => ?_, fun s k e found => ?_⟩
  · intro u
    have run : execSnapshotInstant k s = if x.copied || !s.instantReached x.instant then .next s else .next (u.takeSnap x false) := by
      unfold execSnapshotInstant
      rw [found]
      rfl
    refine ⟨fun idle => run.trans (if_pos ?_), fun armed reached => run.trans (if_neg ?_), fun passive => ?_, ascending_rising _, fun i => mem_ascending,
      fun o i t active one obj timed group => State.takeSnap_of_one active one obj timed group⟩
    · rcases idle with h | h <;> simp [h]
    · simp [armed, reached]
    · exact State.takeSnap_of_standby passive
  · intro p u e objs?
    refine ⟨fun bad => ?_, fun good lead long some few tcLow tcHigh group when ref flags => ?_,
      fun good one => ⟨fun away => ?_, fun here timed tcLow tcHigh objs set => ?_⟩,
      fun r open' good => ⟨fun other => ?_, fun mine room => ?_⟩, fun r open' => ⟨fun late => ?_, fun early => ?_⟩⟩
    · refine execSnapreq_of_wrong ?_
      unfold State.snapreqWrong
      simp only [p] at bad
      tauto
    · have fine : ¬s.snapreqWrong f := by
        unfold State.snapreqWrong
        simp only [p] at long some few tcLow tcHigh group when ref flags
        simp [good, lead, long, flags]
        omega
      refine ⟨fun busy => (execSnapreq_of_good fine).trans (if_pos (Option.isSome_iff_ne_none.mpr busy)), ?_⟩
      intro idle one away v
      have hub : v.hubNum = s.hubNum := (u.sendPosted_frame 7 (snaparmFrame f.pay)).2.get (by decide)
      have arm : armEntries f.pay v = ([], v) := armEntries_of_away one (by rw [hub]; exact away)
      refine (execSnapreq_of_good fine).trans ((if_neg (by simp [idle])).trans ?_)
      rw [show armEntries f.pay ((s.take f).sendPosted 7 (snaparmFrame f.pay)) = _ from arm]
      rfl
    · have arm : armEntries f.pay (s.take f) = ([], s.take f) := armEntries_of_away one away
      refine (execSnaparm_of_good good).trans ?_
      rw [arm]
      split <;> rfl
    · have set : (s.take f).askedSet f.pay = .some objs := set
      have good' := State.armSnap_of_good (s := s.take f) (objs := objs) (y := askedSnap f.pay) tcLow tcHigh
      rw [← set] at good'
      have exhausted (full : (List.range 8).find? u.snapFree = none) : armEntries f.pay (s.take f) = ([1], u.bump F.EPO_CNT_SNAPEXH) :=
        armEntries_of_here one here timed (good'.trans (by rw [full])) (rs := [1]) (if_pos (.inl rfl))
      refine ⟨fun k free early => ?_, fun full passive => ?_, fun full active => ?_⟩
      · have arm : (s.take f).armSnap ((s.take f).askedSet f.pay) (askedSnap f.pay) false =
            (0, k, u.onEpo fun e => { e with snaps := Tbl.put e.snaps k { askedSnap f.pay with objs := ascending objs } }) := by
          rw [good', free]
          exact if_neg (ne_true_of_eq_false (State.instantReached_of_early early))
        refine ⟨{ askedSnap f.pay with objs := ascending objs }, (execSnaparm_of_good good).trans ?_, rfl, rfl, rfl, rfl, rfl⟩
        rw [armEntries_of_here one here timed arm (rs := []) (by decide)]
        split <;> rfl
      · refine (execSnaparm_of_good good).trans ?_
        rw [exhausted full]
        exact congrArg Host.Outcome.next (if_pos (by rw [State.passive_bump]; exact passive))
      · refine (execSnaparm_of_good good).trans ?_
        rw [exhausted full]
        exact congrArg Host.Outcome.next (if_neg (by rw [State.passive_bump]; exact ne_true_of_eq_false active))
    · exact (execSnapnack_of_open good open').trans (if_neg fun h => other h.1)
    · exact (execSnapnack_of_open good open').trans (if_pos ⟨mine, room⟩)
    · change execSnapreqTimeout s = _
      unfold execSnapreqTimeout
      rw [open']
      exact if_neg (Nat.not_lt.mpr late)
    · change execSnapreqTimeout s = _
      unfold execSnapreqTimeout
      rw [open']
      exact if_pos early
  · intro v
    refine ⟨fun idle => ?_, fun timed due fresh => ?_⟩
    · change execScheduleDue k s = _
      unfold execScheduleDue
      rw [found]
      exact if_pos idle
    have run := execScheduleDue_of_due (v := v) rfl found timed due fresh
    refine ⟨fun x kind running => ?_, fun kind active => ?_, fun kind passive => ?_, fun kind active => ?_, fun l kind set =>
      ⟨fun full => ?_, fun j free passive => ?_, fun j free => ?_⟩⟩
    · refine run.trans ((if_pos kind).trans (congrArg Host.Outcome.next (if_pos ?_)))
      exact Option.isSome_iff_exists.mpr ⟨x, (v.runningTest_of_lull _).trans running⟩
    · refine run.trans ((if_neg (by omega)).trans ((if_pos kind).trans ?_))
      exact congrArg Host.Outcome.next (if_pos active)
    · refine run.trans ((if_neg (by omega)).trans ((if_pos kind).trans ?_))
      exact congrArg Host.Outcome.next (if_neg (ne_true_of_eq_false passive))
    · refine run.trans ((if_neg (by omega)).trans ((if_neg (by omega)).trans ((if_pos kind).trans ?_)))
      exact congrArg Host.Outcome.next (if_neg (ne_true_of_eq_false active))
    all_goals
      have lists : v.snapSet true e.arg 0 = some l := set
      have snap := run.trans ((if_neg (by omega)).trans ((if_neg (by omega)).trans ((if_neg (by omega)).trans (if_pos kind))))
      rw [lists] at snap
    · rw [show List.find? v.snapFree _ = _ from full] at snap
      exact snap
    · rw [show List.find? v.snapFree _ = _ from free] at snap
      exact ⟨_, snap.trans (congrArg Host.Outcome.next (State.takeSnap_of_standby passive)), rfl, rfl, rfl⟩
    · rw [show List.find? v.snapFree _ = _ from free] at snap
      exact snap

end Sys2Proof.Machine

/-! PROOFS. Far-side accesses of the bridge and the characters of a serial port (R308 to R333). -/
namespace Sys2Proof.Machine

section
variable {s : State} {b d : Nat} {data : List Byte} {a : BrgAcc}

@[simp] theorem State.winKind_setBus (s : State) (b : Nat) (q : BrgBus) (w : Nat) : (s.setBus b q).winKind w = s.winKind w := by
  simp [State.winKind, State.setBus]

@[simp] theorem State.winKind_touchLine (s : State) (b w : Nat) : (s.touchLine b).winKind w = s.winKind w := by
  simp [State.winKind, State.touchLine]

/-- The counter of an SPI controller lies below the windows. -/
theorem State.winKind_bump_xfers (s : State) {i : Nat} (spi : i < 8) (w : Nat) : (s.bump F.SQn_STAT_XFERS i).winKind w = s.winKind w :=
  s.get_set_ne _ (by simp only [Fld.key]; omega)

/-! ### What ends a transaction on the far side -/

/-- A transaction that shows a fault ends with its detail. -/
theorem execFarSideComplete_of_fault {detail : Nat} (cur : (s.bus b).cur = some a) (shown : s.farDetail b a d = some (detail, s)) (fault : detail ≠ 0) :
    exec (.farSideComplete b d data) s = .next ((rxClear b s).farFail b a detail) := by
  change execFarSideComplete b d data s = _
  unfold execFarSideComplete
  simp [cur, shown, fault]

/-- A transaction without a fault ends with the bytes that it brought. -/
theorem execFarSideComplete_of_good {got : List Byte} (cur : (s.bus b).cur = some a) (clean : s.farDetail b a d = some (0, s))
    (read : s.farData b a data = some (got, s)) : exec (.farSideComplete b d data) s = .next ((rxClear b s).farGood b a got) := by
  change execFarSideComplete b d data s = _
  unfold execFarSideComplete
  simp [cur, clean, read]

/-- Past the serial ports nothing of a receive FIFO is cleared. -/
theorem rxClear_of_high (high : 32 ≤ b) : rxClear b s = s := if_neg fun h => absurd h.1 (by omega)

/-- SPI transfers always end clean. -/
theorem State.farDetail_of_spi (kind : s.winKind a.win = 5) : s.farDetail b a d = some (0, s) := by
  unfold State.farDetail
  simp [kind]

/-- I²C transfers end with what the line shows, but the stretch of 0x93 that only the timer reports. -/
theorem State.farDetail_of_i2c (kind : s.winKind a.win = 6) (line : d ≠ 0x85) :
    s.farDetail b a d = some (if 0x90 ≤ d ∧ d ≤ 0x94 ∧ d ≠ 0x93 then d else 0, s) := by
  unfold State.farDetail
  simp [kind, line]

/-- A Modbus response is checked once a character or a false echo is there. -/
theorem State.farDetail_of_modbus (kind : s.winKind a.win ≤ 3) (chars : Tbl.getD s.brg.rx b [] ≠ []) (line : d ≠ 0x85) :
    s.farDetail b a d = some (s.rtuCheck b a d) := by
  unfold State.farDetail
  simp [kind, line, chars]

/-- An echo that differs ends the transaction on a half-duplex port that hears itself. -/
theorem State.farDetail_of_echo (kind : s.winKind a.win ≤ 3) (echo : s.flag F.SPnn_CFG_ECHO b = true) (half : s.flag F.SPnn_CFG_DUPLEX b = false) :
    s.farDetail b a 0x85 = some (0x85, s) := by
  unfold State.farDetail State.rtuCheck
  simp [kind, echo, half]

/-- A read over SPI or I²C brings the bytes of its transaction. -/
theorem State.farData_of_read (kind : s.winKind a.win = 5 ∨ s.winKind a.win = 6) (read : a.write = false) :
    s.farData b a data = some (slice data 0 a.chunk, s) := by
  unfold State.farData
  obtain kind | kind := kind <;> simp [kind, read]

/-- The access once a transaction has brought its bytes. -/
def BrgAcc.advance (a : BrgAcc) (got : List Byte) : BrgAcc := { a with done := a.done + a.chunk, got := a.got ++ got, tries := 0 }

/-- The state once a transfer of an SPI controller is counted; other buses count none. -/
def State.countXfer (s : State) (b : Nat) : State := if 32 ≤ b ∧ b < 40 then (s.bump F.SQn_STAT_XFERS (b - 32)).touchLine b else s

theorem State.winKind_countXfer (s : State) (b w : Nat) : (s.countXfer b).winKind w = s.winKind w := by
  unfold State.countXfer
  split
  · rw [State.winKind_touchLine, State.winKind_bump_xfers s (by omega)]
  · rfl

/-- An access that is not aborted goes on until its bytes are done. -/
theorem State.farGood_of_going {got : List Byte} (going : a.abort = none) : s.farGood b a got =
    if a.len ≤ a.done + a.chunk ∨ (decide ((s.countXfer b).winKind a.win = 4) && !a.write) = true then (s.countXfer b).accessGood b (a.advance got)
    else (s.countXfer b).startChunk b (a.advance got) := by
  unfold State.farGood BrgAcc.advance
  rw [going]
  rfl

/-- An access with bytes left starts its next transaction. -/
theorem State.farGood_of_more {got : List Byte} (kind : s.winKind a.win ≠ 4) (going : a.abort = none) (more : a.done + a.chunk < a.len) :
    s.farGood b a got = (s.countXfer b).startChunk b (a.advance got) := by
  rw [State.farGood_of_going going, if_neg]
  simp [State.winKind_countXfer, kind, more]

/-- An access that is being aborted ends with the bytes done so far. -/
theorem State.farGood_of_abort {got : List Byte} {q : Frame} (ends : a.abort = some q) :
    s.farGood b a got = ((s.countXfer b).farDone b (a.advance got) 0 []).abortDone q (a.done + a.chunk) := by
  unfold State.farGood
  rw [ends]
  rfl

/-- A fault that is not tried again fails the access. -/
theorem State.farFail_of_final (going : a.abort = none)
    (final : d < 0x80 ∨ 0x84 < d ∨ (s.farCount b d).get F.BRG_WIN_CFG_RETRY a.win ≤ a.tries) :
    s.farFail b a d = (s.farCount b d).accessBad b a d := by
  unfold State.farFail
  rw [going]
  refine if_neg ?_
  simp only [Bool.and_eq_true, decide_eq_true_eq]
  rintro ⟨⟨⟨low, high⟩, tries⟩, -⟩
  omega

/-- A response that is missing or damaged is tried again, a write only under RETRYW. -/
theorem State.farFail_of_again (low : 0x80 ≤ d) (high : d ≤ 0x84) (left : a.tries < (s.farCount b d).get F.BRG_WIN_CFG_RETRY a.win)
    (may : a.write = false ∨ (s.farCount b d).flag F.BRG_WIN_CFG_RETRYW a.win = true) :
    s.farFail b a d = ((s.farCount b d).bump F.BRG_CNT_RETRY).startChunk b { a with tries := a.tries + 1 } := by
  unfold State.farFail
  refine if_pos ?_
  simp only [Bool.and_eq_true, decide_eq_true_eq]
  exact ⟨⟨⟨low, high⟩, left⟩, by simpa using may⟩

/-! ### The checks of a Modbus response -/

section
variable {chars : List Nat} (rx : Tbl.getD s.brg.rx b [] = chars) (line : d ≠ 0x82) (echo : d ≠ 0x85)
  (clear : ∀ c, c ∈ chars → bit c 9 = false ∧ bit c 10 = false)
include rx line echo clear

theorem State.rtuCheck_of_clear : s.rtuCheck b a d =
    let r : List Byte := chars.map (BitVec.ofNat 8)
    if r.length < 4 ∨ crc16 r ≠ 0 then (0x81, s)
    else if beAt r 0 1 ≠ beAt (s.farRequest a) 0 1 ∨ beAt r 1 1 % 128 ≠ beAt (s.farRequest a) 1 1 then (0x83, s)
    else if 128 ≤ beAt r 1 1 then
      if 1 ≤ beAt r 2 1 ∧ beAt r 2 1 ≤ 0x7F then (beAt r 2 1, s) else (s.draw.1.toNat % 127 + 1, s.draw.2)
    else if r.length ≠ State.rtuLength (s.winKind a.win) a.chunk a.write ∨ (!a.write ∧ beAt r 2 1 + 5 ≠ r.length) then (0x84, s)
    else (0, s) := by
  subst rx
  have unmarked : (Tbl.getD s.brg.rx b []).any (fun c => bit c 9 || bit c 10) = false :=
    List.any_eq_false.mpr fun c mem => by simp [clear c mem]
  unfold State.rtuCheck
  simp only [echo, line, unmarked, false_or, Bool.false_eq_true, if_false]

/-- A response too short to hold a CRC, or with a wrong one, is damaged. -/
theorem State.rtuCheck_of_damaged (bad : (chars.map (BitVec.ofNat 8)).length < 4 ∨ crc16 (chars.map (BitVec.ofNat 8)) ≠ 0) :
    s.rtuCheck b a d = (0x81, s) :=
  (State.rtuCheck_of_clear rx line echo clear).trans (if_pos bad)

/-- A response that answers its request, of the right length, is good. -/
theorem State.rtuCheck_of_good {r : List Byte} (bytes : chars.map (BitVec.ofNat 8) = r) (long : 4 ≤ r.length) (crc : crc16 r = 0)
    (unit : beAt r 0 1 = beAt (s.farRequest a) 0 1) (fn : beAt r 1 1 = beAt (s.farRequest a) 1 1) (normal : beAt r 1 1 < 128)
    (length : r.length = State.rtuLength (s.winKind a.win) a.chunk a.write) (count : a.write = true ∨ beAt r 2 1 + 5 = r.length) :
    s.rtuCheck b a d = (0, s) := by
  refine (State.rtuCheck_of_clear rx line echo clear).trans ?_
  rw [bytes]
  refine (if_neg (by simp [crc]; omega)).trans ((if_neg ?_).trans ((if_neg (by omega)).trans (if_neg ?_)))
  · rw [Nat.mod_eq_of_lt normal]
    simp [unit, fn]
  · refine not_or.mpr ⟨not_not.mpr length, ?_⟩
    rintro ⟨read, differs⟩
    exact count.elim (fun write => by simp [write] at read) differs

end

/-! ### Timers, dispatch and pollers -/

/-- The time that the far side of an access has for its answer. -/
def State.farLimit (s : State) (b : Nat) (a : BrgAcc) : Nat :=
  if 40 ≤ b ∧ b < 48 then s.get F.ICn_CFG_STRTMO (b - 40) * 10000 else s.get F.BRG_WIN_TMO_RSPTMO a.win * 100000

theorem execFarSideTimeout_of_cur (cur : (s.bus b).cur = some a) : exec (.farSideTimeout b) s =
    if s.up < a.at_ + s.farLimit b a ∨ (32 ≤ b ∧ b < 40) ∨ (b < 32 ∧ !(Tbl.getD s.brg.rx b []).isEmpty) then .next s
    else .next (s.farFail b a (if b < 32 then 0x80 else if b < 48 then 0x93 else 0xA0)) := by
  change execFarSideTimeout b s = _
  simp only [execFarSideTimeout, cur]
  rfl

/-- A bus that is held, or has not been quiet for its time, takes nothing. -/
theorem execBusIdleDispatch_of_waits (waits : s.busHeld b = true ∨ s.quietFor b (s.quietTime b) = false) : exec (.busIdleDispatch b) s = .next s := by
  change execBusIdleDispatch b s = _
  unfold execBusIdleDispatch
  rw [if_pos (by simpa using waits)]

theorem execBusIdleDispatch_of_free (free : s.busHeld b = false) (quiet : s.quietFor b (s.quietTime b) = true) :
    exec (.busIdleDispatch b) s = .next (s.dispatch b) := by
  change execBusIdleDispatch b s = _
  simp [execBusIdleDispatch, free, quiet]

/-- With no poll due the oldest access of the queue goes. -/
theorem State.dispatch_of_queue {rest : List BrgAcc} (none_ : s.duePoll b = none) (queue : (s.bus b).queue = a :: rest) :
    s.dispatch b = (s.setBus b { s.bus b with queue := rest }).startAccess b a := by
  unfold State.dispatch State.starvedPoll
  simp only [none_, queue]

section
variable {e : Nat} (due : s.duePoll b = some e)
include due

/-- A starved poll goes before the queue. -/
theorem State.dispatch_of_starved (starved : (s.pollOf e).due + s.get F.BRG_BUS_CFG_PSTARVE b * 1000000 < s.up) :
    s.dispatch b = (s.bump F.BRG_CNT_POLLOVD).startPoll b e := by
  unfold State.dispatch State.starvedPoll
  simp only [due, starved, if_true]

/-- A due poll goes when the queue is empty. -/
theorem State.dispatch_of_poll (early : s.up ≤ (s.pollOf e).due + s.get F.BRG_BUS_CFG_PSTARVE b * 1000000) (queue : (s.bus b).queue = []) :
    s.dispatch b = s.startPoll b e := by
  unfold State.dispatch State.starvedPoll State.dispatchIdle
  simp only [due, queue, if_neg (not_lt.mpr early)]

end

/-- A write of a sink's value takes the end of the queue of its bus, where the sink waits no more. -/
theorem State.bus_enqueue (a : BrgAcc) (s : State) {b : Nat} (aim : s.winBus a.win = b) :
    (enqueue a s).bus b = { s.bus b with
      queue := (s.bus b).queue ++ [{ a with qseq := (s.bus b).nextSeq }]
      nextSeq := (s.bus b).nextSeq + 1 } := by
  unfold enqueue
  rw [aim]
  simp [State.bus, State.setBus]

/-- Without prefetch buffers an access drops none. -/
theorem State.pfDrop_of_none (empty : s.brg.pf = []) (w : Nat) (write : Bool) (off n : Nat) : s.pfDrop w write off n = s := by
  unfold State.pfDrop
  rw [empty]
  rfl

/-- A poll that comes due while its poller waits. -/
theorem State.pollDue_of_idle {e t : Nat} (on : s.flag F.BRG_PL_CFG_EN e = true) (idle : (s.pollOf e).busy = false)
    (fresh : s.flag F.BRG_PL_STAT_DUE e = false) : s.pollDue e t = (s.set F.BRG_PL_STAT_DUE e 1).setPoll e { s.pollOf e with due := t } := by
  unfold State.pollDue
  simp [on, idle, fresh]

end

/-! ### The characters of a serial port -/

section
variable {s : State} {p c : Nat} {fr pa br : Bool} (on : s.flag F.SPnn_CFG_EN p = true)
include on

/-- A character without the ninth bit enters the FIFO, with a framing mark where its stop bit failed. -/
theorem execUartCharRx_of_plain (eight : s.flag F.SPnn_CFG_MODE9 p = false) : exec (.uartCharRx p c fr false false) s =
    let v := if fr = true then (s.touchLine p).bump F.SPnn_CNT_FRAME p else s.touchLine p
    let l := Tbl.getD s.brg.rx p []
    if 256 ≤ l.length then .next ((v.bump F.SPnn_CNT_OVFL p).set F.SPnn_STAT_OVFL p 1)
    else .next ((v.onBrg fun g => { g with rx := Tbl.put g.rx p (l ++ [c % 512 + b2n fr * 2 ^ 9]) }).set F.SPnn_STAT_RXLVL p (l.length + 1)) := by
  change execUartCharRx p c fr false false s = _
  have rx : (if fr = true then (s.touchLine p).bump F.SPnn_CNT_FRAME p else s.touchLine p).brg.rx = s.brg.rx := by
    split <;> simp [State.touchLine]
  have nine : (s.touchLine p).flag F.SPnn_CFG_MODE9 p = false := by simpa [State.touchLine] using eight
  unfold execUartCharRx
  simp [on, nine, rx, b2n]

/-- A station that was not addressed takes no data. -/
theorem execUartCharRx_of_skipped (nine : s.flag F.SPnn_CFG_MODE9 p = true) (filter : s.flag F.SPnn_CFG_ADRFILT p = true) (data : bit c 8 = false)
    (skip : p ∈ s.brg.skip) : exec (.uartCharRx p c fr pa br) s = .next (s.touchLine p) := by
  change execUartCharRx p c fr pa br s = _
  unfold execUartCharRx
  simp [on, State.touchLine, nine, filter, data, skip]

end

/-! ### Writes of a bridge sink -/

/-- The write that a sink's value becomes. -/
def Handed.sinkWrite (h : Handed) (s : State) (f : Frame) : BrgAcc where
  src := .sink h.index h.obj f
  win := s.get F.BRG_SK_CFG_WIN h.index
  off := s.get F.BRG_SK_OFF_OFF h.index
  len := s.get F.BRG_SK_CFG_LEN h.index
  write := true
  data := be (s.get F.BRG_SK_CFG_LEN h.index) h.value

section
variable {s : State} {h : Handed} {l : List Handed} (head : s.epo.handed = h :: l) (sink : h.kind = 11)
include head sink

theorem State.find_handed_sink : (s.epo.handed.find? fun h => decide (h.kind = 11)) = some h := by simp [head, sink]

theorem State.take_handed_sink : (s.onEpo fun e => { e with handed := e.handed.eraseP fun h => decide (h.kind = 11) })
    = s.onEpo fun e => { e with handed := l } := by
  simp [State.onEpo, head, sink]

theorem execBridgeSinkWrite_of_off (off : s.flag F.BRG_SK_CFG_EN h.index = false) :
    execBridgeSinkWrite s = .next (s.onEpo fun e => { e with handed := l }) := by
  unfold execBridgeSinkWrite
  simp only [State.find_handed_sink head sink, State.take_handed_sink head sink]
  exact if_pos (by simp [off])

/-- On a bus without a queue, and with no prefetch to drop, the value is queued as a write. -/
theorem execBridgeSinkWrite_of_on (on : s.flag F.BRG_SK_CFG_EN h.index = true)
    (empty : (s.bus (s.winBus (s.get F.BRG_SK_CFG_WIN h.index))).queue = []) (pf : s.brg.pf = []) : ∃ f, execBridgeSinkWrite s =
      .next (enqueue (h.sinkWrite s f) ((s.onEpo fun e => { e with handed := l }).postedTag 2).2.draw.2) := by
  unfold execBridgeSinkWrite
  simp only [State.find_handed_sink head sink, State.take_handed_sink head sink]
  refine ⟨_, (if_neg ?_).trans ((if_neg ?_).trans (congrArg Host.Outcome.next (congrArg₂ enqueue rfl (State.pfDrop_of_none (by exact pf) _ _ _ _))))⟩
  · simp [on]
  · exact ne_true_of_eq_false (congrArg (List.any · _) empty)

end

/-- An I²C transfer that shows a fault is counted by its kind and fails its access. -/
theorem execFarSideComplete_of_nack {s : State} {b d : Nat} {data : List Byte} {a : BrgAcc} (cur : (s.bus b).cur = some a) (high : 32 ≤ b)
    (kind : s.winKind a.win = 6) (going : a.abort = none) (line : 0x90 ≤ d ∧ d ≤ 0x94 ∧ d ≠ 0x93) :
    exec (.farSideComplete b d data) s = .next ((s.farCount b d).accessBad b a d) := by
  have shown : s.farDetail b a d = some (d, s) := by rw [State.farDetail_of_i2c kind (by omega), if_pos line]
  have run := execFarSideComplete_of_fault (data := data) cur shown (by omega)
  rw [rxClear_of_high high, State.farFail_of_final going (.inr (.inl (by omega)))] at run
  exact run

/-- Settles O35, by how the far side ended: clean, with a fault, or not at all; and by what an idle bus finds waiting. -/
theorem farSideAccessesFollowTheBus : Obligations.FarSideAccessesFollowTheBus := by
  unfold Obligations.FarSideAccessesFollowTheBus
  refine ⟨fun s b d data a cur high => ⟨fun kind read => ?_, fun kind going => ⟨fun line => ?_, ?_, ?_⟩, fun y f src np => ?_⟩,
    fun s b d data a cur low rtu kind => ?_, fun s b a cur => ?_, fun s b => ⟨?_, fun free quiet => ⟨fun q rest none_ queue => ?_, fun e due => ⟨?_, ?_⟩⟩⟩,
    fun s h l head eleven off => ?_, fun s h l head eleven on => ?_, fun s e => ⟨fun on idle fresh due small => ?_, fun h => ?_⟩,
    fun s k p found => ⟨fun full old => ?_, fun h => ?_⟩, fun s f x wr clear => ⟨?_, fun u => rfl⟩, fun s p c fr pa br => ?_⟩
  · have clean : s.farDetail b a d = some (0, s) := by
      obtain kind | ⟨kind, line⟩ := kind
      · exact State.farDetail_of_spi kind
      · rw [State.farDetail_of_i2c kind (by omega), if_neg (by omega)]
    have run := execFarSideComplete_of_good (data := data) cur clean (State.farData_of_read (kind.imp_right And.left) read)
    have other : s.winKind a.win ≠ 4 := by omega
    rw [rxClear_of_high high] at run
    exact ⟨fun going last => run.trans (congrArg _ ((State.farGood_of_going going).trans (if_pos (.inl last)))),
      fun going more => run.trans (congrArg _ (State.farGood_of_more other going more)), fun q ends => run.trans (congrArg _ (State.farGood_of_abort ends))⟩
  · have run := execFarSideComplete_of_nack (data := data) cur high kind going (d := d) (by omega)
    rwa [show s.farCount b d = s.bump F.ICn_STAT_NACKS (b - 40) by obtain rfl | rfl := line <;> simp [State.farCount]] at run
  · rintro rfl
    exact execFarSideComplete_of_nack (data := data) cur high kind going (by omega)
  · rintro rfl
    exact execFarSideComplete_of_nack (data := data) cur high kind going (by omega)
  · unfold State.accessBad
    rw [src]
    exact if_neg (by simp [np])
  · intro chars r v filled going first echo clear
    have shown : s.farDetail b a d = some (s.rtuCheck b a d) := State.farDetail_of_modbus kind filled echo
    have cleared : rxClear b s = v := if_pos ⟨low, rtu⟩
    have kept : v.get F.BRG_WIN_CFG_RETRY a.win = s.get F.BRG_WIN_CFG_RETRY a.win := State.get_set_elsewhere _ 0 (by decide)
    have keptw : v.flag F.BRG_WIN_CFG_RETRYW a.win = s.flag F.BRG_WIN_CFG_RETRYW a.win := State.flag_set_elsewhere _ 0 (by decide)
    refine ⟨fun long crc unit fn normal length count => ?_, fun bad may => ?_, fun echoes half => ?_⟩
    · have good := State.rtuCheck_of_good rfl first echo clear rfl long crc unit fn normal length count
      have read : s.farData b a data = some (State.rtuData (s.winKind a.win) a.chunk a.write r, s) := if_pos kind
      rw [execFarSideComplete_of_good cur (shown.trans (congrArg some good)) read, cleared]
    · have damaged := State.rtuCheck_of_damaged (a := a) rfl first echo clear bad
      have run := execFarSideComplete_of_fault (data := data) cur (shown.trans (congrArg some damaged)) (by decide)
      rw [cleared] at run
      exact ⟨fun left => run.trans (congrArg _ (State.farFail_of_again (by decide) (by decide) (left.trans_eq kept.symm) (may.imp_right keptw.trans))),
        fun last => run.trans (congrArg _ (State.farFail_of_final going (.inr (.inr (kept.trans_le last)))))⟩
    · have run := execFarSideComplete_of_fault (data := data) cur (State.farDetail_of_echo kind echoes half) (by decide)
      rw [cleared, State.farFail_of_final going (.inr (.inl (by decide)))] at run
      exact run
  · intro limit
    refine ⟨fun early => (execFarSideTimeout_of_cur cur).trans (if_pos (.inl early)), fun late => ⟨fun low empty => ?_, fun low high => ?_, fun high => ?_⟩,
      execBusIdleDispatch_of_waits (.inl (by simp [State.busHeld, cur]))⟩
    all_goals refine (execFarSideTimeout_of_cur cur).trans ((if_neg ?_).trans ?_)
    · exact not_or.mpr ⟨not_lt.mpr late, by simp [empty]; omega⟩
    · rw [if_pos low]
    · exact not_or.mpr ⟨not_lt.mpr late, by omega⟩
    · rw [if_neg (by omega), if_pos high]
    · exact not_or.mpr ⟨not_lt.mpr late, by omega⟩
    · rw [if_neg (by omega), if_neg (by omega)]
  · rintro (h | h | h)
    · exact execBusIdleDispatch_of_waits (.inl (by simp [State.busHeld, h]))
    · exact execBusIdleDispatch_of_waits (.inl (by simp [State.busHeld, h]))
    · exact execBusIdleDispatch_of_waits (.inr h)
  · exact (execBusIdleDispatch_of_free free quiet).trans (congrArg _ (State.dispatch_of_queue none_ queue))
  · exact fun starved => (execBusIdleDispatch_of_free free quiet).trans (congrArg _ (State.dispatch_of_starved due starved))
  · exact fun early queue => (execBusIdleDispatch_of_free free quiet).trans (congrArg _ (State.dispatch_of_poll due early queue))
  · exact execBridgeSinkWrite_of_off head eleven off
  · intro w q bus empty pf
    subst bus
    obtain ⟨f, run⟩ := execBridgeSinkWrite_of_on head eleven on empty pf
    refine ⟨_, { h.sinkWrite s f with qseq := (s.bus (s.winBus w)).nextSeq }, run, ?_, rfl, rfl, rfl, rfl, rfl, rfl⟩
    refine (congrArg BrgBus.queue (State.bus_enqueue (h.sinkWrite s f) _ rfl)).trans ?_
    exact congrArg (· ++ [{ h.sinkWrite s f with qseq := (s.bus (s.winBus w)).nextSeq }]) empty
  · change ∃ t, execPollDue e s = _ ∧ _
    refine ⟨(s.set F.BRG_PL_STAT_DUE e 1).setPoll e (s.pollOf e), ?_, ?_, ?_, ?_, ?_⟩
    · unfold execPollDue
      rw [if_pos due, State.pollDue_of_idle on idle fresh]
    · show (s.set F.BRG_PL_STAT_DUE e 1).flag F.BRG_PL_STAT_DUE e = true
      exact State.flag_set_self _ _ _ (by decide) (by decide)
    · simp [State.pollOf, State.setPoll]
    · simp [State.setPoll]
    · simp [State.setPoll]
  · change execPollDue e s = _
    unfold execPollDue State.pollDue
    obtain off | busy | due | early := h
    · simp [off]
    · simp [show (s.pollOf e).busy = true from busy]
    · simp [due]
    · rw [if_neg (not_le.mpr early)]
  · change execPrefetchAge k s = _
    unfold execPrefetchAge
    simp only [found]
    rw [if_pos ⟨full, old⟩]
  · change execPrefetchAge k s = _
    unfold execPrefetchAge
    simp only [found]
    rw [if_neg]
    rintro ⟨full, old⟩
    obtain none_ | early := h
    · simp [none_] at full
    · exact absurd early (not_lt.mpr old)
  · have aim : (atReg f F.BRG_DLOG_STAT_CLEAR && bit (wordOf f) 8) = true := by rw [wr.at_first (by decide), clear]; rfl
    refine wr.ends aim ((writeEffect_brg wr.name).trans ?_)
    simp [writeBrg, wr.name, clear]
  · intro v l
    refine ⟨fun off => ?_, fun on eight fr pa br => ⟨fun room => ?_, fun full => ?_⟩, fun on eight fr pa br room => ?_, fun on nine filter data skip =>
      execUartCharRx_of_skipped on nine filter data skip⟩
    · change execUartCharRx p c fr pa br s = _
      unfold execUartCharRx
      simp [off]
    all_goals subst fr pa br; refine (execUartCharRx_of_plain on eight).trans ?_
    · exact if_neg (not_le.mpr room)
    · exact if_pos full
    · exact if_neg (not_le.mpr room)

end Sys2Proof.Machine

/-! PROOFS. The owners of field pins, their inputs, readback, pulses and bank supplies (R217 to R233). -/
namespace Sys2Proof.Machine

/-! ### The winner among the claimants of a pin -/

/-- The claimant at a place of the list: none is above it, and every earlier one is below it. -/
def Leads (l : List (Nat × Bool)) (i : Nat) (w : Nat × Bool) : Prop :=
  l[i]? = some w ∧ (∀ (j : Nat) (c : Nat × Bool), l[j]? = some c → c.1 ≤ w.1) ∧ ∀ (j : Nat) (c : Nat × Bool), j < i → l[j]? = some c → c.1 < w.1

/-- At most one claimant leads. -/
theorem Leads.unique {l : List (Nat × Bool)} {i j : Nat} {w v : Nat × Bool} (hw : Leads l i w) (hv : Leads l j v) : w = v := by
  obtain ⟨at_i, top_w, first_w⟩ := hw
  obtain ⟨at_j, top_v, first_v⟩ := hv
  obtain below | rfl | above := Nat.lt_trichotomy i j
  · exact absurd (first_v i w below at_i) (not_lt.mpr (top_w j v at_j))
  · exact Option.some.inj (at_i.symm.trans at_j)
  · exact absurd (first_w j v above at_j) (not_lt.mpr (top_v i w at_i))

/-- A claimant above the first one leads the longer list as well. -/
theorem Leads.cons {l : List (Nat × Bool)} {i : Nat} {w c : Nat × Bool} (h : Leads l i w) (below : c.1 < w.1) : Leads (c :: l) (i + 1) w := by
  obtain ⟨here, top, first⟩ := h
  refine ⟨here, fun j d at_j => ?_, fun j d early at_j => ?_⟩
  · cases j with
    | zero => cases at_j; exact below.le
    | succ j => exact top j d at_j
  · cases j with
    | zero => cases at_j; exact below
    | succ j => exact first j d (Nat.lt_of_succ_lt_succ early) at_j

/-- A first claimant that no other exceeds leads. -/
theorem leads_cons_self {l : List (Nat × Bool)} {c : Nat × Bool} (top : ∀ (j : Nat) (d : Nat × Bool), l[j]? = some d → d.1 ≤ c.1) : Leads (c :: l) 0 c := by
  refine ⟨rfl, fun j d at_j => ?_, fun j d early => absurd early (by omega)⟩
  cases j with
  | zero => cases at_j; exact le_rfl
  | succ j => exact top j d at_j

/-- Among claimants one leads, and it is the winner. -/
theorem State.winner_cons_leads (c : Nat × Bool) (l : List (Nat × Bool)) : ∃ w i, State.winner (c :: l) = some w ∧ Leads (c :: l) i w := by
  induction l generalizing c with
  | nil => exact ⟨c, 0, rfl, leads_cons_self (by simp)⟩
  | cons d l ih =>
    obtain ⟨w, i, wins, leads⟩ := ih d
    unfold State.winner
    rw [wins]
    by_cases below : c.1 < w.1
    · exact ⟨w, i + 1, if_pos below, leads.cons below⟩
    · exact ⟨c, 0, if_neg below, leads_cons_self fun j e at_j => (leads.2.1 j e at_j).trans (not_lt.mp below)⟩

/-- The winner is the claimant that leads. -/
theorem State.winner_eq_some {l : List (Nat × Bool)} {w : Nat × Bool} : State.winner l = some w ↔ ∃ i, Leads l i w := by
  cases l with
  | nil => simp [State.winner, Leads]
  | cons c l =>
    obtain ⟨v, j, wins, leads⟩ := State.winner_cons_leads c l
    rw [wins]
    constructor
    · rintro ⟨⟩
      exact ⟨j, leads⟩
    · rintro ⟨i, leads'⟩
      rw [leads.unique leads']

/-! ### A filtered edge -/

section
variable (s : State) (p : Nat) (pad : Bool)

/-- The level at a pad as the pin reads it. -/
def State.padLevel : Bool := pad != s.flag F.FPn_CFG_INV p

/-- The state once a pad's level is in RAW. -/
def State.rawEdge : State :=
  if s.pinBit F.FPN_RAW_PIN p = s.padLevel p pad then s
  else (s.setPinBit F.FPN_RAW_PIN p (s.padLevel p pad)).setPin p { s.pin p with rawAt := s.up, mism := false }

/-- The state once a level is accepted into IN. -/
def State.inEdge (lv : Bool) : State := (s.setPinBit F.FPN_IN_PIN p lv).setPin p { s.pin p with edgeNs := s.ns }

/-- The state once an edge is counted, if EDGE names it. -/
def State.countEdge (hit : Bool) : State := if hit then s.set F.FPn_EDGES_COUNT p (s.get F.FPn_EDGES_COUNT p + 1) else s

theorem State.pinEdge_eq : s.pinEdge p pad =
    let lv := s.padLevel p pad
    let raw := s.rawEdge p pad
    let u := raw.inEdge p lv
    let hit := bit (u.get F.FPn_CFG_EDGE p) (if lv then 0 else 1)
    if raw.pinBit F.FPN_IN_PIN p = lv ∨ raw.up < (raw.pin p).rawAt + raw.filterTime p then (false, raw)
    else (true, ((u.countEdge p hit).pinUpdates p lv hit).wireSource 1 p lv) := rfl

@[simp] theorem State.epo_rawEdge : (s.rawEdge p pad).epo = s.epo := by
  unfold State.rawEdge
  split
  · rfl
  · simp [State.setPin, State.setPinBit]

@[simp] theorem State.epo_inEdge (lv : Bool) : (s.inEdge p lv).epo = s.epo := by simp [State.inEdge, State.setPin, State.setPinBit]

@[simp] theorem State.epo_countEdge (hit : Bool) : (s.countEdge p hit).epo = s.epo := by
  unfold State.countEdge
  split <;> simp

/-- Without objects an edge updates none. -/
theorem State.pinUpdates_of_none {s : State} (none_ : s.epo.objs = []) (p : Nat) (level counted : Bool) : s.pinUpdates p level counted = s := by
  unfold State.pinUpdates
  rw [none_]
  rfl

end

/-- Settles O36: outputs, pulses and readback by their conditions, an input's edge by its filter, the winner as the claimant that leads. -/
theorem pinsFollowTheirOwners : Obligations.PinsFollowTheirOwners := by
  unfold Obligations.PinsFollowTheirOwners
  refine ⟨fun s p c => ?_, fun s p pad => ?_, fun s b => ?_, fun l w => State.winner_eq_some, fun s p => ⟨fun reset => ?_, fun up loose empty => ?_,
    fun v up force fn drain => ?_⟩⟩
  · intro q
    refine ⟨fun fn => ?_, fun h l o fn head kind index obj => ?_, fun fn empty => ?_, fun on due => ?_, fun h => ?_, fun h => ?_,
      fun v dly drive raw fresh held stable => ?_⟩
    · exact if_pos fn
    · change execPinOutputChange p c s = _
      unfold execPinOutputChange
      have taken : (s.onEpo fun e => { e with handed := e.handed.eraseP fun h => decide (h.kind = 8) && decide (h.index = p) })
          = s.onEpo fun e => { e with handed := l } := by
        simp [State.onEpo, head, kind, index]
      have found : (s.epo.handed.find? fun h => decide (h.kind = 8) && decide (h.index = p)) = some h := by simp [head, kind, index]
      have type : (s.onEpo fun e => { e with handed := l }).obj? h.obj = some o := obj
      simp only [fn, if_false, found, taken, type]
      rfl
    · change execPinOutputChange p c s = _
      simp [execPinOutputChange, fn, empty]
    · change execPulseEnd p s = _
      refine congrArg Host.Outcome.next (if_pos ?_)
      simpa using And.intro on due
    · change execPulseEnd p s = _
      refine congrArg Host.Outcome.next (if_neg ?_)
      simp only [Bool.and_eq_true, decide_eq_true_eq]
      rintro ⟨on, due⟩
      exact h.elim (fun off => by simp [q, on] at off) fun early => absurd due (not_le.mpr early)
    · change execReadbackMismatch p s = _
      refine congrArg Host.Outcome.next (if_pos ?_)
      obtain none_ | loose | known | early := h
      · simp [none_]
      · simp [loose]
      · simp [show (s.pin p).mism = true from known]
      · have early : s.up < max ((s.pin p).driveAt + s.get F.FPn_CFG_RBDLY p * 5) (s.pin p).rawAt + 5 :=
          lt_of_lt_of_le early (by exact (le_max_left _ _).trans (Nat.le_add_right _ _))
        simp [early]
    · change execReadbackMismatch p s = _
      refine congrArg Host.Outcome.next (if_neg ?_)
      have input : v ≠ (s.pinBit F.FPN_RAW_PIN p != s.flag F.FPn_CFG_INV p) := by rw [raw]; cases v <;> cases s.flag F.FPn_CFG_INV p <;> decide
      have held : (s.pin p).driveAt + s.get F.FPn_CFG_RBDLY p * 5 + 5 ≤ s.up := held
      have stable : (s.pin p).rawAt + 5 ≤ s.up := stable
      have late : ¬ s.up < max ((s.pin p).driveAt + s.get F.FPn_CFG_RBDLY p * 5) (s.pin p).rawAt + 5 := by omega
      simp [dly, drive, input, show (s.pin p).mism = false from fresh, late]
  · intro lv q raw at_
    have edge := s.pinEdge_eq p pad
    refine ⟨fun still => ?_, fun level old => ?_⟩
    · change execPinFilteredEdge p pad s = _
      unfold execPinFilteredEdge
      rw [edge.trans (if_pos still)]
      rfl
    · intro u hit n v
      refine ⟨?_, fun none_ => State.pinUpdates_of_none ?_ p lv hit⟩
      · change execPinFilteredEdge p pad s = _
        unfold execPinFilteredEdge
        rw [edge.trans (if_neg (not_or.mpr ⟨level, not_lt.mpr old⟩))]
        rfl
      · have objs : (((s.rawEdge p pad).inEdge p lv).countEdge p hit).epo.objs = [] := by simp [none_]
        exact objs
  · intro lo hi
    refine ⟨fun on => if_pos on, fun off => if_neg (ne_true_of_eq_false off), fun on admitted => if_pos ⟨on, admitted⟩, fun h => if_neg ?_⟩
    rintro ⟨on, admitted⟩
    obtain off | off := h
    · exact absurd on (ne_true_of_eq_false off)
    · exact absurd admitted (ne_true_of_eq_false off)
  · exact if_pos reset
  · unfold State.decidePin
    simp [up, loose, empty, State.winner]
  · unfold State.decidePin
    simp [up, force, fn, drain]

end Sys2Proof.Machine

/-! PROOFS. Virtual wires (R234 to R240). -/
namespace Sys2Proof.Machine

section
variable {s : State} {f : Frame} {b k : Nat}

theorem execVwRefresh_of_due (on : s.flag F.FPN_VWO_CFG_EN b = true) (quiet : Tbl.find? s.fpn.vwo b = none)
    (due : Tbl.getD s.fpn.vwoAt b s.fpn.onAt + s.get F.FPN_VWO_CFG_REFRESH b * 1000000 ≤ s.up) :
    exec (.vwRefresh b) s = .next (s.sendVw b s.nsec s.timeLocked true) :=
  if_pos ⟨on, by simp [Tbl.has, quiet], due⟩

theorem execVwRefresh_of_waits (waits : s.flag F.FPN_VWO_CFG_EN b = false ∨ (Tbl.find? s.fpn.vwo b).isSome = true
    ∨ s.up < Tbl.getD s.fpn.vwoAt b s.fpn.onAt + s.get F.FPN_VWO_CFG_REFRESH b * 1000000) : exec (.vwRefresh b) s = .next s := by
  refine if_neg ?_
  rintro ⟨on, quiet, due⟩
  obtain off | waiting | early := waits
  · exact absurd on (ne_true_of_eq_false off)
  · rw [Tbl.has, waiting] at quiet
    exact absurd quiet (by decide)
  · exact absurd due (not_le.mpr early)

/-- The enabled slots that a frame of wires matches. -/
def State.vwSlots (s : State) (f : Frame) : List Nat :=
  (List.range 64).filter fun k => s.flag F.FPN_VWI_CFG_EN k && decide (s.get F.FPN_VWI_CFG_SRC k = f.src)
    && decide (s.get F.FPN_VWI_CFG_BLOCK k = f.addr % 16)

theorem execVw_of_taken (known : classOf s.hubNum f.src f.init ≠ none) (posted : f.pst = true) : exec (.vw f) s =
    .next (if (s.vwSlots f).isEmpty then (s.take f).bump F.FPN_CNT_VWUNK else (s.vwSlots f).foldl (fun s k => s.slotFrame k f.pay) (s.take f)) :=
  if_neg (by simp [known, posted])

theorem execVw_of_one (known : classOf s.hubNum f.src f.init ≠ none) (posted : f.pst = true) (one : s.vwSlots f = [k]) :
    exec (.vw f) s = .next ((s.take f).slotFrame k f.pay) := by
  refine (execVw_of_taken known posted).trans (congrArg Host.Outcome.next ?_)
  rw [one, if_neg (by simp)]
  exact List.foldl_cons.trans List.foldl_nil

/-- The state once a slot has a frame: its timer starts anew. -/
def State.heardSlot (s : State) (k : Nat) : State :=
  (s.set F.FPN_VWI_STAT_TIMEDOUT k 0).onFpn fun f => { f with vwiAt := Tbl.put f.vwiAt k s.up }

/-- The instant at which a frame of wires is to be applied. -/
def State.vwInstant (s : State) (k : Nat) (pay : List Byte) : Nat :=
  (if beAt pay 4 4 % 2 ^ 30 ≤ s.nsec then s.sec else s.sec - 1) * 10 ^ 9 + beAt pay 4 4 % 2 ^ 30 + s.get F.FPN_VWI_CFG_LAT k * 100

theorem State.timeLocked_heardSlot (s : State) (k : Nat) : (s.heardSlot k).timeLocked = s.timeLocked :=
  s.flag_set_elsewhere (g := F.TIM_STAT_TLOCK) (j := 0) 0 (by decide)

/-- A frame that is late or unlocked is applied at once, after the older ones; another waits for its instant. -/
theorem State.slotFrame_eq (s : State) (k : Nat) (pay : List Byte) : s.slotFrame k pay =
    let u := s.heardSlot k
    if s.vwInstant k pay < s.ns ∨ bit (beAt pay 4 4) 30 = true ∨ !s.timeLocked then
      let old := (Tbl.getD s.fpn.vwi k []).foldl (fun s e => s.applyWires k e.2) u
      (((old.onFpn fun f => { f with vwi := Tbl.erase f.vwi k }).applyWires k (beAt pay 0 4)).bump F.FPN_CNT_VWLATE).set F.FPN_VWI_STAT_LATE k 1
    else u.onFpn fun f => { f with vwi := Tbl.put f.vwi k (Tbl.getD f.vwi k [] ++ [(s.vwInstant k pay, beAt pay 0 4)]) } := by
  rw [← s.timeLocked_heardSlot k]
  rfl

theorem execVwSlotTimeout_of_due (on : s.flag F.FPN_VWI_CFG_EN k = true) (fresh : s.flag F.FPN_VWI_STAT_TIMEDOUT k = false)
    (due : Tbl.getD s.fpn.vwiAt k s.fpn.onAt + s.slotTimeout k ≤ s.up) : exec (.vwSlotTimeout k) s =
      let u := (s.bump F.FPN_CNT_VWTMO).set F.FPN_VWI_STAT_TIMEDOUT k 1
      .next (if s.flag F.FPN_VWI_CFG_SAFEMODE k then u.applyWires k (s.get F.FPN_VWI_SAFE_WIRES k) else u) := by
  have mode : ((s.bump F.FPN_CNT_VWTMO).set F.FPN_VWI_STAT_TIMEDOUT k 1).flag F.FPN_VWI_CFG_SAFEMODE k = s.flag F.FPN_VWI_CFG_SAFEMODE k :=
    (State.flag_set_elsewhere _ 1 (by decide)).trans (State.flag_bump_elsewhere _ (by decide))
  have safe : ((s.bump F.FPN_CNT_VWTMO).set F.FPN_VWI_STAT_TIMEDOUT k 1).get F.FPN_VWI_SAFE_WIRES k = s.get F.FPN_VWI_SAFE_WIRES k :=
    (State.get_set_elsewhere _ 1 (by decide)).trans (State.get_bump_elsewhere _ (by decide))
  rw [← mode, ← safe]
  exact if_neg (by simp [on, fresh, due])

end

/-- Settles O37, by whether a block's frame waits, a slot's instant is reached and its timer has run out. -/
theorem virtualWiresFollowTheirSource : Obligations.VirtualWiresFollowTheirSource := by
  unfold Obligations.VirtualWiresFollowTheirSource
  refine ⟨fun s b => ⟨fun q waits => ⟨?_, execVwRefresh_of_waits (.inr (.inl (by rw [waits]; rfl)))⟩, fun none_ => ?_, ?_,
      fun off => execVwRefresh_of_waits (.inl off), fun stamp locked refresh hub => ?_⟩, fun s f => ?_, fun s k pay => ?_, fun s k => ⟨fun a w rest head => ⟨fun due => ?_,
      fun early => ?_⟩, fun empty => ?_, fun h => ?_, fun on fresh due => ?_, fun w same => ?_⟩⟩
  · change execVwFrameSend b s = _
    rw [execVwFrameSend, waits]
  · change execVwFrameSend b s = _
    rw [execVwFrameSend, none_]
  · rintro last rfl quiet on
    exact ⟨fun due => execVwRefresh_of_due on quiet due, fun early => execVwRefresh_of_waits (.inr (.inr early))⟩
  · unfold State.sendVw
    simp only [hub, Bool.false_eq_true, if_false]
  · intro slots
    refine ⟨fun bad => ?_, fun known posted => ⟨fun none_ => ?_, fun k one => ?_⟩⟩
    · exact if_pos (bad.imp_right fun np => by simp [np])
    · exact (execVw_of_taken known posted).trans (congrArg Host.Outcome.next (if_pos (by rw [show s.vwSlots f = [] from none_]; rfl)))
    · exact execVw_of_one known posted one
  · intro x a u
    refine ⟨?_, fun early dated locked => ?_⟩
    · rintro old rfl now
      exact (s.slotFrame_eq k pay).trans (if_pos (now.imp_right (Or.imp_right fun un => by simp [un])))
    · refine (s.slotFrame_eq k pay).trans (if_neg (not_or.mpr ⟨not_lt.mpr early, ?_⟩))
      simp [show bit (beAt pay 4 4) 30 = false from dated, locked]
  · change execVwApply k s = _
    rw [execVwApply, head]
    exact congrArg Host.Outcome.next (if_neg (not_lt.mpr due))
  · change execVwApply k s = _
    rw [execVwApply, head]
    exact congrArg Host.Outcome.next (if_pos early)
  · change execVwApply k s = _
    rw [execVwApply, empty]
  · exact if_pos (h.imp_left fun off => by simp [off])
  · intro u
    exact ⟨fun held => (execVwSlotTimeout_of_due on fresh due).trans (congrArg Host.Outcome.next (if_neg (ne_true_of_eq_false held))),
      fun safe small => (execVwSlotTimeout_of_due on fresh due).trans (congrArg Host.Outcome.next (if_pos safe))⟩
  · exact if_pos same

end Sys2Proof.Machine

/-! PROOFS. The instructions of the engines (R246 to R263, R270). -/
namespace Sys2Proof.Machine

section
variable {s : State} {e op w : Nat} {act : State → Nat → Nat → Nat → State}

/-! ### The engine of a state -/

@[simp] theorem State.eng_setEng_self (s : State) (e : Nat) (q : Engine) : (s.setEng e q).eng e = q := by simp [State.eng, State.setEng]

@[simp] theorem State.eng_set (s : State) (f : Fld) (i v e : Nat) : (s.set f i v).eng e = s.eng e := by simp [State.eng]

@[simp] theorem State.eng_setB (s : State) (f : Fld) (i : Nat) (b : Bool) (e : Nat) : (s.setB f i b).eng e = s.eng e := by simp [State.eng]

@[simp] theorem State.eng_bump (s : State) (f : Fld) (i e : Nat) : (s.bump f i).eng e = s.eng e := by simp [State.eng]

@[simp] theorem State.get_setEng (s : State) (e : Nat) (q : Engine) (f : Fld) (i : Nat) : (s.setEng e q).get f i = s.get f i := by simp [State.setEng]

@[simp] theorem State.flag_setEng (s : State) (e : Nat) (q : Engine) (f : Fld) (i : Nat) : (s.setEng e q).flag f i = s.flag f i := by simp [State.setEng]

@[simp] theorem State.onlyIn_setEng {ps : List Part} (s t : State) (e : Nat) (q : Engine) (mem : .pio ∈ ps) :
    s.OnlyIn ps (t.setEng e q) ↔ s.OnlyIn ps t := by simp [State.setEng, mem]

@[simp] theorem State.wordsBut_setEng {ks : List Nat} (s t : State) (e : Nat) (q : Engine) : s.WordsBut ks (t.setEng e q) ↔ s.WordsBut ks t := by
  simp [State.setEng]

/-! ### What an engine does with the word at its PC -/

/-- An engine that does not run does nothing. -/
theorem State.instr_of_halted (halted : (s.eng e).running = false ∨ s.blockBusy 6 = true) : s.instr e op act = s :=
  if_pos (by simpa using halted)

section
variable (on : (s.eng e).running = true) (ready : s.blockBusy 6 = false)
include on ready

theorem State.instr_of_ready : s.instr e op act = 
    let pc := s.get F.PEnn_PC_PC e
    let w := s.iword e pc
    let left := s.get F.PEnn_PC_PAUSELEFT e
    if left ≠ 0 then s.set F.PEnn_PC_PAUSELEFT e (left - 1)
    else if (s.eng e).stalled.isNone ∧ (s.eng e).seq.isNone ∧ s.get F.PEnn_IWIN_SIZE e ≤ pc then s.engineFault e 1
    else if w / 2 ^ 26 ≠ op then s
    else if !s.wordLegal e w then s.engineFault e 2
    else if (s.eng e).stalled.isNone && (s.eng e).seq.isNone && !s.cond e (bits w 25 22) then s.completeAt e (pc + 1) 0
    else act s w (bits w 21 18) (pc + 1) :=
  if_neg (by simp [on, ready])

end

/-- An engine whose turn it is looks at the word at its PC. -/
theorem State.instr_of_turn (turn : s.Turns e w) : s.instr e op act =
    let pc := s.get F.PEnn_PC_PC e
    if (s.eng e).stalled.isNone ∧ (s.eng e).seq.isNone ∧ s.get F.PEnn_IWIN_SIZE e ≤ pc then s.engineFault e 1
    else if w / 2 ^ 26 ≠ op then s
    else if !s.wordLegal e w then s.engineFault e 2
    else if (s.eng e).stalled.isNone && (s.eng e).seq.isNone && !s.cond e (bits w 25 22) then s.completeAt e (pc + 1) 0
    else act s w (bits w 21 18) (pc + 1) := by
  obtain ⟨on, ready, idle, word⟩ := turn
  subst word
  exact (State.instr_of_ready on ready).trans (if_neg (not_not.mpr idle))

/-- The instruction at the PC acts where its word is allowed and its condition holds. -/
theorem State.instr_of_runs (runs : s.Runs e op w) : s.instr e op act = act s w (bits w 21 18) (s.get F.PEnn_PC_PC e + 1) := by
  obtain ⟨turn, code, legal, goes⟩ := runs
  refine (State.instr_of_turn turn).trans ((if_neg ?_).trans ((if_neg (not_not.mpr code)).trans ((if_neg (by simp [legal])).trans (if_neg ?_))))
  · rintro ⟨unstalled, between, beyond⟩
    obtain h | h | ⟨h, -⟩ := goes
    · simp [Option.isNone_iff_eq_none.mp unstalled] at h
    · simp [Option.isNone_iff_eq_none.mp between] at h
    · omega
  · simp only [Bool.and_eq_true, Option.isNone_iff_eq_none, Bool.not_eq_true']
    rintro ⟨⟨unstalled, between⟩, fails⟩
    obtain h | h | ⟨-, h⟩ := goes
    · simp [unstalled] at h
    · simp [between] at h
    · exact absurd h (ne_true_of_eq_false fails)

/-- What the completion of an instruction leaves. -/
theorem State.completeAt_spec {pc pause : Nat} (on : (s.eng e).running = true) (short : pause < 16) :
    ∃ t, s.completeAt e pc pause = t ∧ t.get F.PEnn_PC_PC e = pc % 4096 ∧ t.get F.PEnn_PC_PAUSELEFT e = (if (s.eng e).single then 0 else pause)
      ∧ t.eng e = { s.eng e with running := !(s.eng e).single, single := false, stalled := none, seq := none }
      ∧ s.OnlyIn [.regs, .pio] t ∧ s.WordsBut [F.PEnn_PC_PC.key e] t := by
  refine ⟨_, rfl, ?_, ?_, ?_, ?_, ?_⟩ <;> unfold State.completeAt
  · rw [State.get_set_beside _ _ (by decide), State.get_set_self _ _ _ (by decide) (by decide)]
    exact Nat.mod_mod pc 4096
  · rw [State.get_set_self _ _ _ (by decide) (by decide)]
    refine Nat.mod_eq_of_lt ?_
    split
    · decide
    · exact short
  · simp [on]
  · simp
  · simp [show F.PEnn_PC_PAUSELEFT.key e = F.PEnn_PC_PC.key e from rfl]

/-- LOOP by the number that its scratch register has left. -/
theorem State.loopAct_eq {r pause next : Nat} (left : (s.get (State.scratch (bit w 17)) e + 2 ^ 32 - 1) % 2 ^ 32 = r) : State.loopAct e s w pause next =
    if r ≠ 0 ∧ s.get F.PEnn_IWIN_SIZE e ≤ bits w 11 0 then s.engineFault e 1
    else ((s.set (State.scratch (bit w 17)) e r).setZN e r).completeAt e (if r ≠ 0 then bits w 11 0 else next) pause := by
  subst left
  rfl

/-- A fetch of an engine whose turn it is. -/
theorem execReservedOpcodeFetch_of_turn {ecc : Bool} (turn : s.Turns e w) (fresh : (s.eng e).stalled = none) (between : (s.eng e).seq = none) :
    exec (.reservedOpcodeFetch e ecc) s = if s.get F.PEnn_IWIN_SIZE e ≤ s.get F.PEnn_PC_PC e then .next (s.engineFault e 1)
      else if ecc then .next (s.engineFault e 3) else if s.wordLegal e w then .next s else .next (s.engineFault e 2) := by
  obtain ⟨on, ready, idle, word⟩ := turn
  subst word
  change execReservedOpcodeFetch e ecc s = _
  exact if_neg (by simp [on, ready, idle, fresh, between])

end

/-- Settles O38, by what an engine finds at its PC and, for each instruction of control flow, by its target. -/
theorem enginesFollowControlFlow : Obligations.EnginesFollowControlFlow := by
  unfold Obligations.EnginesFollowControlFlow
  refine ⟨fun s e op act => ?_, fun s e pc pause on short small => State.completeAt_spec on short, fun s e w turn fresh between => ?_, fun s e op w runs => ?_⟩
  · intro pc w left
    refine ⟨State.instr_of_halted, fun on ready paused => (State.instr_of_ready on ready).trans (if_pos paused), fun turn fresh between => ?_, State.instr_of_runs⟩
    have run := State.instr_of_turn turn (op := op) (act := act)
    have within (inside : pc < s.get F.PEnn_IWIN_SIZE e) := run.trans (if_neg fun h => absurd h.2.2 (not_le.mpr inside))
    refine ⟨fun beyond => run.trans (if_pos (by simpa [fresh, between] using beyond)), fun inside other => (within inside).trans (if_pos other),
      fun inside code bad => (within inside).trans ((if_neg (not_not.mpr code)).trans (if_pos (by simp [bad]))),
      fun inside code legal fails => (within inside).trans ((if_neg (not_not.mpr code)).trans ((if_neg (by simp [legal])).trans (if_pos ?_)))⟩
    simp [fresh, between, fails]
  · have run (ecc : Bool) := execReservedOpcodeFetch_of_turn turn fresh between (ecc := ecc)
    refine ⟨fun beyond ecc => (run ecc).trans (if_pos beyond), fun inside => ⟨?_, fun bad => ?_, fun legal => ?_⟩⟩
    · exact (run true).trans (if_neg (not_le.mpr inside))
    · exact (run false).trans ((if_neg (not_le.mpr inside)).trans (if_neg (ne_true_of_eq_false bad)))
    · exact (run false).trans ((if_neg (not_le.mpr inside)).trans (if_pos legal))
  · intro pc n p r
    have left (pause next : Nat) := State.loopAct_eq (s := s) (e := e) (w := w) (r := r) (pause := pause) (next := next) rfl
    clear_value r
    intro u j v
    have acts (act : State → Nat → Nat → Nat → State) : s.instr e op act = act s w p (pc + 1) := State.instr_of_runs runs
    refine ⟨?_, ?_, ?_, ?_, ?_, ?_, ?_, ?_, ?_, ?_⟩ <;> rintro rfl
    · exact congrArg Host.Outcome.next (acts _)
    · exact congrArg Host.Outcome.next (acts _)
    · intro zero
      refine congrArg Host.Outcome.next ((acts _).trans ((left _ _).trans ((if_neg fun h => h.1 zero).trans ?_)))
      exact congrArg (fun k => u.completeAt e k p) (if_neg (not_not.mpr zero))
    · intro more inside
      refine congrArg Host.Outcome.next ((acts _).trans ((left _ _).trans ((if_neg fun h => absurd h.2 (not_le.mpr inside)).trans ?_)))
      exact congrArg (fun k => u.completeAt e k p) (if_pos more)
    · exact fun more beyond => congrArg Host.Outcome.next ((acts _).trans ((left _ _).trans (if_pos ⟨more, beyond⟩)))
    · exact fun inside => congrArg Host.Outcome.next ((acts _).trans (if_neg (not_le.mpr inside)))
    · exact fun beyond => congrArg Host.Outcome.next ((acts _).trans (if_pos beyond))
    · intro pin met
      refine congrArg Host.Outcome.next ((acts _).trans ?_)
      simp only [State.untilAct, pin, met, if_true]
    · intro pin unmet
      refine congrArg Host.Outcome.next ((acts _).trans ?_)
      simp only [State.untilAct, pin, unmet, if_false]
    · exact congrArg Host.Outcome.next (acts _)

end Sys2Proof.Machine

/-! PROOFS. The data instructions of the engines (R253 to R263). -/
namespace Sys2Proof.Machine

section
variable {s : State} {e op w : Nat} {end_ : Bool}

/-! ### POST -/

/-- POST appends CAP to a receive queue with room. -/
theorem State.post_of_room (room : (s.eng e).rx.length < 8) : s.post e end_ false =
    ((s.setEng e { s.eng e with rx := (s.eng e).rx ++ [(BitVec.ofNat 32 (s.get F.PEnn_CAP_DATA e), end_)] }).set F.PEnn_CAP_DATA e 0).set
      F.PEnn_CNTS_CAPN e 0 := by
  unfold State.post
  simp [Nat.not_le.mpr room]

/-- POST counts at a full receive queue, which it leaves. -/
theorem State.post_of_full (full : 8 ≤ (s.eng e).rx.length) : s.post e end_ false =
    (((s.set F.PEnn_QSTAT_OVFL e 1).bump F.PEnn_CNT_OVFL e).set F.PEnn_CAP_DATA e 0).set F.PEnn_CNTS_CAPN e 0 := by
  unfold State.post
  simp [full]

/-- A capture register once it has been posted. -/
theorem State.cap_cleared (t : State) (e : Nat) : ((t.set F.PEnn_CAP_DATA e 0).set F.PEnn_CNTS_CAPN e 0).get F.PEnn_CAP_DATA e = 0
    ∧ ((t.set F.PEnn_CAP_DATA e 0).set F.PEnn_CNTS_CAPN e 0).get F.PEnn_CNTS_CAPN e = 0 :=
  ⟨(State.get_set_elsewhere _ _ (by decide)).trans ((t.get_set_self _ _ (by decide) (by decide)).trans (Nat.zero_mod _)),
    (State.get_set_self _ _ _ (by decide) (by decide)).trans (Nat.zero_mod _)⟩

/-! ### The functions of CALC and COPY -/

section
variable {a b : Nat} (ha : a < 2 ^ 32)
include ha

theorem State.calcFn_sub_add (hb : b < 2 ^ 32) : State.calcFn 1 (State.calcFn 0 a b) b = a := by
  simp only [State.calcFn, Nat.one_ne_zero, if_true, if_false]
  omega

theorem State.xform_not_not : State.xform 1 (State.xform 1 a) = a := by
  show 2 ^ 32 - 1 - (2 ^ 32 - 1 - a) = a
  omega

theorem State.xform_swap_swap : State.xform 3 (State.xform 3 a) = a := by
  show (a / 2 ^ 16 + a % 2 ^ 16 * 2 ^ 16) / 2 ^ 16 + (a / 2 ^ 16 + a % 2 ^ 16 * 2 ^ 16) % 2 ^ 16 * 2 ^ 16 = a
  omega

end

theorem State.calcFn_xor_xor (a b : Nat) : State.calcFn 4 (State.calcFn 4 a b) b = a := Nat.xor_xor_cancel_right a b

end

/-- Settles O39, each instruction by the case of its word that it names. -/
theorem enginesMoveData : Obligations.EnginesMoveData := by
  unfold Obligations.EnginesMoveData
  refine ⟨fun s e op w runs => ?_, fun a b ha hb => ⟨State.calcFn_sub_add ha hb, State.calcFn_xor_xor a b, State.xform_not_not ha, State.xform_swap_swap ha⟩,
    fun s e end_ => ⟨fun room => ?_, fun full => ?_, fun small => ?_⟩⟩
  · intro pc p q f fn b r v n m
    have acts (act : State → Nat → Nat → Nat → State) : s.instr e op act = act s w p (pc + 1) := State.instr_of_runs runs
    have ends {act : State → Nat → Nat → Nat → State} {t : State} (h : act s w p (pc + 1) = t) : Host.Outcome.next (s.instr e op act) = (.next t : Out) :=
      congrArg Host.Outcome.next ((acts act).trans h)
    refine ⟨?_, ?_, ?_, ?_, ?_, ?_, ?_, ?_, ?_, ?_, ?_, ?_, ?_, ?_, ?_, fun x rest => ?_, ?_, ?_, ?_, ?_⟩ <;> rintro rfl
    · exact fun dest => ends (by simp [State.copyAct, dest, v])
    · exact fun dest => ends (by simp [State.copyAct, dest, v])
    · exact fun dest => ends (by simp [State.copyAct, dest, v])
    · exact fun dest => ends (by simp [State.copyAct, dest, v])
    · exact fun dest => ends (by simp [State.copyAct, dest, v])
    · exact fun dest => ends (if_pos dest)
    · exact fun low => ends (congrArg (State.completeAt · e (pc + 1) p) (congrArg (s.set _ e) (if_neg (ne_true_of_eq_false low))))
    · exact fun high => ends (congrArg (State.completeAt · e (pc + 1) p) (congrArg (s.set _ e) (if_pos high)))
    · exact ends rfl
    · exact fun code => ends (by simp only [State.flagAct, code])
    · exact fun code => ends (by simp only [State.flagAct, code])
    · exact fun code => ends (by simp only [State.flagAct, code])
    · exact ends rfl
    · exact fun code => ends (by simp only [State.driveAct, code, m])
    · exact ends rfl
    · exact fun head => ends (by rw [State.fetchAct, show (s.eng e).tx = x :: rest from head])
    · exact fun empty optional => ends (by rw [State.fetchAct, show (s.eng e).tx = [] from empty]; exact if_pos optional)
    · exact fun empty waits => ends (by rw [State.fetchAct, show (s.eng e).tx = [] from empty]; exact if_neg (ne_true_of_eq_false waits))
    · exact fun room => ends (if_neg (not_le.mpr room))
    · exact fun full => ends (if_pos full)
  · rw [State.post_of_room room]
    simp
  · rw [State.post_of_full full]
    simp
  · obtain room | full := Nat.lt_or_ge (s.eng e).rx.length 8
    · rw [State.post_of_room room]
      exact State.cap_cleared _ e
    · rw [State.post_of_full full]
      exact State.cap_cleared _ e

end Sys2Proof.Machine

/-! PROOFS. Cell instructions, stalls and timed actions of the engines (R249 to R266). -/
namespace Sys2Proof.Machine

section
variable {s : State} {e w n pause next : Nat}

/-! ### What driving pins leaves unchanged -/

/-- Steps that each change only some parts change only those together. -/
theorem State.onlyIn_foldl {α : Type} {ps : List Part} {g : State → α → State} (step : ∀ s x, State.OnlyIn ps s (g s x)) (l : List α) (s : State) :
    s.OnlyIn ps (l.foldl g s) := by
  induction l generalizing s with
  | nil => exact State.onlyIn_self s
  | cons x l ih => exact (step s x).andThen (ih (g s x))

theorem State.onlyIn_redrive (s : State) (p : Nat) : s.OnlyIn [.regs, .fpn] (s.redrive p) := by
  unfold State.redrive
  extract_lets d c q u
  have moved : s.OnlyIn [.regs, .fpn] u := by simp [u, State.setPin]
  split
  · simpa using moved
  · exact moved

theorem State.onlyIn_redriveRange (s : State) (base n : Nat) : s.OnlyIn [.regs, .fpn] (s.redriveRange base n) := by
  refine State.onlyIn_foldl (fun t k => ?_) (List.range n) s
  split
  · exact t.onlyIn_redrive _
  · exact State.onlyIn_self t

theorem State.onlyIn_setLatch (s : State) (e v : Nat) : s.OnlyIn [.regs, .fpn] (s.setLatch e v) := by
  unfold State.setLatch
  extract_lets
  split
  · exact State.onlyIn_self s
  · exact State.OnlyIn.andThen (by simp) (State.onlyIn_redriveRange _ _ _)

theorem State.onlyIn_setEnables (s : State) (e v : Nat) : s.OnlyIn [.regs, .fpn] (s.setEnables e v) := by
  unfold State.setEnables
  extract_lets
  split
  · exact State.onlyIn_self s
  · exact State.OnlyIn.andThen (by simp) (State.onlyIn_redriveRange _ _ _)

/-- What changes registers and pins alone leaves the engines. -/
theorem State.OnlyIn.eng {s t : State} (h : s.OnlyIn [.regs, .fpn] t) (e : Nat) : t.eng e = s.eng e := by
  have same : t.pio = s.pio := h.2 .pio (by decide)
  rw [State.eng, State.eng, same]

/-! ### Timed actions -/

/-- What an action does to its latch position or its enable. -/
def State.actPin (s : State) (e : Nat) (a : Action) : State :=
  if a.actn = 0 then s.setLatch e (setBit (s.get F.PEnn_PINLAT_POS e) a.pin false)
  else if a.actn = 1 then s.setLatch e (setBit (s.get F.PEnn_PINLAT_POS e) a.pin true)
  else if a.actn = 2 then s.setLatch e (setBit (s.get F.PEnn_PINLAT_POS e) a.pin (!bit (s.get F.PEnn_PINLAT_POS e) a.pin))
  else if a.actn = 3 then s.setEnables e (setBit (s.get F.PEnn_PINOE_POS e) a.pin true)
  else if a.actn = 4 then s.setEnables e (setBit (s.get F.PEnn_PINOE_POS e) a.pin false)
  else s

theorem State.onlyIn_actPin (s : State) (e : Nat) (a : Action) : s.OnlyIn [.regs, .fpn] (s.actPin e a) := by
  unfold State.actPin
  split_ifs
  · exact s.onlyIn_setLatch e _
  · exact s.onlyIn_setLatch e _
  · exact s.onlyIn_setLatch e _
  · exact s.onlyIn_setEnables e _
  · exact s.onlyIn_setEnables e _
  · exact State.onlyIn_self s

/-- An action acts on its pin, wakes its engine if it says so, and is counted if it is late. -/
theorem State.runAction_eq (s : State) (e : Nat) (a : Action) : s.runAction e a =
    let t := s.actPin e a
    let u := if a.wake then t.setEng e { t.eng e with wake := true } else t
    if a.late then (u.bump F.PEnn_CNT_LATE e).set F.PEnn_TAQSTAT_LATEF e 1 else u := by
  obtain ⟨stamp, tb, actn, wake, pin, late⟩ := a
  unfold State.runAction State.actPin
  rcases actn with _ | _ | _ | _ | _ | k
  · rfl
  · rfl
  · rfl
  · rfl
  · rfl
  · simp

theorem State.taq_runAction (s : State) (e : Nat) (a : Action) : ((s.runAction e a).eng e).taq = (s.eng e).taq := by
  have acted := (s.onlyIn_actPin e a).eng e
  rw [State.runAction_eq]
  cases a.wake <;> cases a.late <;> simp [acted]

/-- A cycle of an empty queue, of one whose head is not due, and of one whose head is. -/
theorem State.taqCycle_of_nil (n : Nat) (empty : (s.eng e).taq = []) : s.taqCycle n e = s := by
  cases n with
  | zero => rfl
  | succ n => rw [State.taqCycle, empty]

theorem State.taqCycle_of_waits {a : Action} {rest : List Action} (head : (s.eng e).taq = a :: rest) (early : s.due a = false) :
    s.taqCycle (n + 1) e = s.setEng e { s.eng e with taq := s.markLate false (a :: rest) } := by
  rw [State.taqCycle, head]
  exact if_neg (ne_true_of_eq_false early)

theorem State.taqCycle_of_due {a : Action} {rest : List Action} (head : (s.eng e).taq = a :: rest) (due : s.due a = true) :
    s.taqCycle (n + 1) e = ((s.setEng e { s.eng e with taq := rest }).runAction e a).taqCycle n e := by
  rw [State.taqCycle, head]
  exact if_pos due

theorem execTimedAction_of_ready (ready : s.blockBusy 6 = false) : exec (.timedAction e) s = .next (s.taqCycle (15 + 1) e) :=
  congrArg Host.Outcome.next (if_neg (ne_true_of_eq_false ready))

/-! ### Cell instructions -/

/-- A cell instruction takes a step and goes on as the step says. -/
theorem State.runCells_succ : s.runCells (n + 1) e w pause next =
    if (s.cellStep e w).1 = .stall then (s.cellStep e w).2
    else if (s.cellStep e w).1 = .done then (s.cellStep e w).2.completeAt e next pause
    else (s.cellStep e w).2.runCells n e w pause next := by
  rw [State.runCells]
  rcases s.cellStep e w with ⟨step, t⟩
  cases step <;> rfl

/-- A cell that needs bits and finds none stalls with an underrun. -/
theorem State.cellStep_of_starved (new : (s.eng e).seq = none) (empty : (s.eng e).tx = []) (emits : w / 2 ^ 26 = 5) (auto : bit w 17 = true)
    (short : s.get F.PEnn_CNTS_EMTN e ≤ s.get F.PEnn_CELLC_DW e) : s.cellStep e w =
      (.stall, (s.setEng e { s.eng e with seq := some { left := bits w 5 0, steps := s.phaseLen e 0 } }).stall e 1 true) := by
  unfold State.cellStep
  refine (if_pos ?_).trans ?_
  · have emits : w / 67108864 = 5 := emits
    simp [new, empty, emits, auto, Nat.lt_succ_of_le short]
  · rw [new]
    rfl

/-- Bits enough in EMT go out from the end that OORD names. -/
theorem State.takeOut_of_enough (enough : s.get F.PEnn_CELLC_DW e + 1 ≤ s.get F.PEnn_CNTS_EMTN e) : (s.takeOut e).1 =
    if s.flag F.PEnn_SHAPE_OORD e then
      s.get F.PEnn_EMT_DATA e / 2 ^ (s.get F.PEnn_CNTS_EMTN e - (s.get F.PEnn_CELLC_DW e + 1)) % 2 ^ (s.get F.PEnn_CELLC_DW e + 1)
    else s.get F.PEnn_EMT_DATA e % 2 ^ (s.get F.PEnn_CELLC_DW e + 1) := by
  have order (v : Nat) : (s.set F.PEnn_CNTS_EMTN e v).flag F.PEnn_SHAPE_OORD e = s.flag F.PEnn_SHAPE_OORD e := s.flag_set_elsewhere v (by decide)
  unfold State.takeOut
  simp only [order, enough, if_true, min_eq_left]
  split <;> rfl

end

/-- Settles O40: a cell instruction by what its step comes to, a timed action by whether it is due. -/
theorem enginesRunCellsAndActions : Obligations.EnginesRunCellsAndActions := by
  unfold Obligations.EnginesRunCellsAndActions
  refine ⟨fun s e op w n runs => ?_, fun s e w new empty emits auto short => State.cellStep_of_starved new empty emits auto short,
    fun s e enough => ?_, fun s e ready => ⟨fun empty => ?_, fun a rest head early => ?_, fun a one due => ?_⟩, fun s e a asleep => ?_⟩
  · intro pc t r
    have ends : Host.Outcome.next (s.runCells (n + 1) e w (bits w 21 18) (pc + 1)) = r := by
      refine congrArg Host.Outcome.next (State.runCells_succ.trans ?_)
      show _ = match (s.cellStep e w).1 with
        | .stall => t
        | .done => t.completeAt e (pc + 1) (bits w 21 18)
        | .run => t.runCells n e w (bits w 21 18) (pc + 1)
      cases (s.cellStep e w).1 <;> simp [t]
    have acts (act : State → Nat → Nat → Nat → State) : s.instr e op act = act s w (bits w 21 18) (pc + 1) := State.instr_of_runs runs
    refine ⟨?_, ?_, ?_, ?_, fun fresh => congrArg Host.Outcome.next (if_neg fun h => by simp [fresh] at h)⟩
    · rintro rfl
      exact (congrArg Host.Outcome.next (acts _)).trans ends
    · rintro rfl
      exact (congrArg Host.Outcome.next (acts _)).trans ends
    · rintro rfl
      exact (congrArg Host.Outcome.next (acts _)).trans ends
    · rintro stalled rfl
      obtain ⟨⟨on, ready, idle, word⟩, code, -⟩ := runs
      refine (congrArg Host.Outcome.next (if_pos ⟨on, stalled⟩)).trans ((congrArg Host.Outcome.next ?_).trans ends)
      unfold State.stepInstr
      simp only [word, code, acts]
      rfl
  · intro k m emt
    exact ⟨fun high => (State.takeOut_of_enough enough).trans (if_pos high),
      fun low => (State.takeOut_of_enough enough).trans (if_neg (ne_true_of_eq_false low))⟩
  · rw [execTimedAction_of_ready ready, State.taqCycle_of_nil _ empty]
  · rw [execTimedAction_of_ready ready, State.taqCycle_of_waits head early]
    simp [State.markLate, early]
  · rw [execTimedAction_of_ready ready, State.taqCycle_of_due one due, State.taqCycle_of_nil]
    rw [State.taq_runAction, State.eng_setEng_self]
  · intro lat
    refine ⟨fun timely => ⟨?_, ?_, ?_, ?_, ?_⟩, fun late => ?_⟩
    · exact fun code => by simp [State.runAction_eq, asleep, timely, State.actPin, code, lat]
    · exact fun code => by simp [State.runAction_eq, asleep, timely, State.actPin, code, lat]
    · exact fun code => by simp [State.runAction_eq, asleep, timely, State.actPin, code, lat]
    · exact fun code => by simp [State.runAction_eq, asleep, timely, State.actPin, code]
    · exact fun code => by simp [State.runAction_eq, asleep, timely, State.actPin, code]
    · simp [State.runAction_eq, asleep, late, State.actPin]

end Sys2Proof.Machine

/-! PROOFS. Starting and halting engines, and the shared flags (R255, R267 to R271). -/
namespace Sys2Proof.Machine

/-! ### The answer to a request leaves the engines -/

section
variable (s : State)

@[simp] theorem State.eng_noteDone (x : DoneItem) (e : Nat) : (s.noteDone x).eng e = s.eng e := by
  unfold State.noteDone State.eng
  split <;> rfl

@[simp] theorem State.eng_complete (port : Nat) (f : Frame) (e : Nat) : (s.complete port f).eng e = s.eng e := by
  unfold State.complete
  split
  · rfl
  · exact (by simp [State.eng] : ((s.noteDone (.cmp f.dst f.init f.tag)).offer port f).eng e = (s.noteDone (.cmp f.dst f.init f.tag)).eng e).trans (s.eng_noteDone _ e)

/-- A request that was performed leaves the engines as its effect left them. -/
@[simp] theorem State.eng_settle_ok (port : Nat) (f : Frame) (e : Nat) : (s.settle port f {}).eng e = s.eng e := by
  unfold State.settle State.answer
  split
  · rfl
  · exact (s.take f).eng_complete port _ e

end

section
variable {s t : State} {f : Frame} {x : RegRow} {e k w : Nat} {a : State.Res}

/-! ### Writes of PEnn_CTL -/

/-- Of the command bits of PEnn_CTL only one is set. -/
def OnlyCommand (w k : Nat) : Prop := ∀ j, j < 9 → j ≠ 2 → j ≠ 3 → bit w j = decide (j = k)

/-- A write of an engine's control register acts by its command bits. -/
theorem State.WritesReg.writePio_ctl (wr : s.WritesReg f F.PEnn_CTL_HALT e x) (done : peCtl e (wordOf f) s = (a, t)) :
    writeEffect f x (regOff f.offset) (wordOf f) (F.PEnn_CTL_HALT.mult * e) s = (some a, t) := by
  refine (writeEffect_pio wr.name).trans ?_
  unfold writePio
  rw [if_pos wr.name, show F.PEnn_CTL_HALT.mult * e / 0x400 = e from Nat.mul_div_cancel_left e (by decide), done]

theorem State.WritesReg.peRow (wr : s.WritesReg f F.PEnn_CTL_HALT e x) (small : e < 64) (on : bit (wordOf f) k = true)
    (done : peCtl e (wordOf f) s = (a, t)) : peRow k f s = .next (t.settle 5 f a) :=
  wr.ends (by rw [wr.at_reg (by decide) small, on]; rfl) (wr.writePio_ctl done)

/-- The engine that a write of PEnn_CTL names. -/
theorem State.WritesReg.peOf (wr : s.WritesReg f F.PEnn_CTL_HALT e x) (small : e < 64) : peOf f = e := by
  have aim : regOff f.offset = 0x60000 + 0x400 * e := wr.aim
  unfold regOff at aim
  unfold Machine.peOf
  split_ifs at aim <;> omega

section
variable (only : OnlyCommand w k)
include only

theorem OnlyCommand.bits : bit w 0 = decide (0 = k) ∧ bit w 1 = decide (1 = k) ∧ bit w 4 = decide (4 = k) ∧ bit w 5 = decide (5 = k)
    ∧ bit w 6 = decide (6 = k) ∧ bit w 7 = decide (7 = k) ∧ bit w 8 = decide (8 = k) :=
  ⟨only 0 (by decide) (by decide) (by decide), only 1 (by decide) (by decide) (by decide), only 4 (by decide) (by decide) (by decide),
    only 5 (by decide) (by decide) (by decide), only 6 (by decide) (by decide) (by decide), only 7 (by decide) (by decide) (by decide),
    only 8 (by decide) (by decide) (by decide)⟩

end

theorem peCtl_of_halt (only : OnlyCommand w 0) : peCtl e w s = ({}, s.haltEngine e) := by
  obtain ⟨b0, b1, b4, b5, b6, b7, b8⟩ := only.bits
  simp [peCtl, andThen, b0, b1, b4, b5, b6, b7, b8]

theorem peCtl_of_start (only : OnlyCommand w 1) : peCtl e w s = if (engineStart e (bits w 27 16) (bit w 2) (bit w 3) (bit w 9) s).1.st = .ok then
    engineStart e (bits w 27 16) (bit w 2) (bit w 3) (bit w 9) s else ((engineStart e (bits w 27 16) (bit w 2) (bit w 3) (bit w 9) s).1, s) := by
  obtain ⟨b0, b1, b4, b5, b6, b7, b8⟩ := only.bits
  simp [peCtl, andThen, b0, b1, b4, b5, b6, b7]

theorem peCtl_of_flushRx (only : OnlyCommand w 4) : peCtl e w s = flushRx e s := by
  obtain ⟨b0, b1, b4, b5, b6, b7, b8⟩ := only.bits
  cases running : (s.eng e).running <;> simp [peCtl, andThen, b0, b1, b4, b5, b6, b7, b8, flushRx, running]

theorem peCtl_of_flushTx (only : OnlyCommand w 5) : peCtl e w s = flushTx e s := by
  obtain ⟨b0, b1, b4, b5, b6, b7, b8⟩ := only.bits
  cases running : (s.eng e).running <;> simp [peCtl, andThen, b0, b1, b4, b5, b6, b7, b8, flushTx, running]

theorem peCtl_of_flushTaq (only : OnlyCommand w 6) : peCtl e w s = ({}, flushTaq e s) := by
  obtain ⟨b0, b1, b4, b5, b6, b7, b8⟩ := only.bits
  simp [peCtl, andThen, b0, b1, b4, b5, b6, b7, b8]

theorem peCtl_of_release (only : OnlyCommand w 7) : peCtl e w s = releaseEngine e s := by
  obtain ⟨b0, b1, b4, b5, b6, b7, b8⟩ := only.bits
  cases running : (s.eng e).running <;> simp [peCtl, andThen, b0, b1, b4, b5, b6, b7, b8, releaseEngine, running]

theorem peCtl_of_step (only : OnlyCommand w 8) : peCtl e w s = ({}, armStep e s) := by
  obtain ⟨b0, b1, b4, b5, b6, b7, b8⟩ := only.bits
  simp [peCtl, andThen, b0, b1, b4, b5, b6, b7, b8]

/-! ### Starting and halting -/

/-- The state of a started engine before its registers are cleared. -/
def State.started (s : State) (e addr : Nat) (seq : Option SeqPos) : State :=
  ((((s.setEng e { s.eng e with running := true, single := false, stalled := none, seq := seq }).set F.PEnn_SEQ_VALID e 0).set
    F.PEnn_STATUS_FAULT e 0).set F.PEnn_STATUS_SELF e 0).set F.PEnn_PC_PC e addr

/-- CLRSHIFT clears the shift registers and their counts. -/
def State.clearShift (s : State) (e : Nat) : State :=
  (((s.set F.PEnn_CAP_DATA e 0).set F.PEnn_EMT_DATA e 0).set F.PEnn_CNTS_CAPN e 0).set F.PEnn_CNTS_EMTN e 0

/-- CLRSCR clears the scratch registers and the flags. -/
def State.clearScratch (s : State) (e : Nat) : State :=
  ((((s.set F.PEnn_SA_DATA e 0).set F.PEnn_SB_DATA e 0).set F.PEnn_CNTS_Z e 0).set F.PEnn_CNTS_N e 0).set F.PEnn_CNTS_QE e 0

theorem engineStart_of_halted {addr : Nat} {shift scratch resume : Bool} (inside : addr < s.get F.PEnn_IWIN_SIZE e)
    (halted : (s.eng e).running = false) : ∃ seq, engineStart e addr shift scratch resume s =
      let u := if shift then (s.started e addr seq).clearShift e else s.started e addr seq
      ({}, if scratch then u.clearScratch e else u) :=
  ⟨_, (if_neg (not_le.mpr inside)).trans (if_neg (ne_true_of_eq_false halted))⟩

@[simp] theorem State.eng_clearShift (s : State) (e j : Nat) : (s.clearShift e).eng j = s.eng j := by simp [State.clearShift]
@[simp] theorem State.eng_clearScratch (s : State) (e j : Nat) : (s.clearScratch e).eng j = s.eng j := by simp [State.clearScratch]

/-- A field that a reset of shift registers and of scratch registers both leave. -/
def Fld.outlives (g : Fld) : Bool :=
  g.elsewhere F.PEnn_CAP_DATA && g.elsewhere F.PEnn_EMT_DATA && g.elsewhere F.PEnn_CNTS_CAPN && g.elsewhere F.PEnn_SA_DATA && g.elsewhere F.PEnn_SB_DATA

theorem State.get_clearShift (s : State) (e j : Nat) {g : Fld} (h : g.outlives = true) : (s.clearShift e).get g j = s.get g j := by
  simp only [Fld.outlives, Bool.and_eq_true] at h
  obtain ⟨⟨⟨⟨cap, emt⟩, cnts⟩, -⟩, -⟩ := h
  unfold State.clearShift
  rw [State.get_set_elsewhere (f := F.PEnn_CNTS_EMTN) _ _ cnts, State.get_set_elsewhere _ _ cnts, State.get_set_elsewhere _ _ emt, State.get_set_elsewhere _ _ cap]

theorem State.get_clearScratch (s : State) (e j : Nat) {g : Fld} (h : g.outlives = true) : (s.clearScratch e).get g j = s.get g j := by
  simp only [Fld.outlives, Bool.and_eq_true] at h
  obtain ⟨⟨⟨-, cnts⟩, sa⟩, sb⟩ := h
  unfold State.clearScratch
  rw [State.get_set_elsewhere (f := F.PEnn_CNTS_QE) _ _ cnts, State.get_set_elsewhere (f := F.PEnn_CNTS_N) _ _ cnts,
    State.get_set_elsewhere (f := F.PEnn_CNTS_Z) _ _ cnts, State.get_set_elsewhere _ _ sb, State.get_set_elsewhere _ _ sa]

/-- The state of a started engine once its registers are cleared as the write says. -/
def State.startedClear (s : State) (e addr : Nat) (seq : Option SeqPos) (shift scratch : Bool) : State :=
  let u := if shift then (s.started e addr seq).clearShift e else s.started e addr seq
  if scratch then u.clearScratch e else u

section
variable (addr : Nat) (seq : Option SeqPos) (shift scratch : Bool)

theorem State.eng_startedClear : (s.startedClear e addr seq shift scratch).eng e
    = { s.eng e with running := true, single := false, stalled := none, seq := seq } := by
  cases shift <;> cases scratch <;> simp [State.startedClear, State.started]

theorem State.get_startedClear {g : Fld} (h : g.outlives = true) (j : Nat) :
    (s.startedClear e addr seq shift scratch).get g j = (s.started e addr seq).get g j := by
  cases shift <;> cases scratch <;> simp [State.startedClear, State.get_clearShift _ _ _ h, State.get_clearScratch _ _ _ h]

theorem State.onlyIn_startedClear : s.OnlyIn [.regs, .pio] (s.startedClear e addr seq shift scratch) := by
  cases shift <;> cases scratch <;> simp [State.startedClear, State.started, State.clearShift, State.clearScratch]

/-- CLRSHIFT leaves EMT empty. -/
theorem State.emt_startedClear : (s.startedClear e addr seq true scratch).get F.PEnn_EMT_DATA e = 0
    ∧ (s.startedClear e addr seq true scratch).get F.PEnn_CNTS_EMTN e = 0 := by
  have cleared (t : State) : (t.clearShift e).get F.PEnn_EMT_DATA e = 0 ∧ (t.clearShift e).get F.PEnn_CNTS_EMTN e = 0 := by
    refine ⟨?_, (State.get_set_self _ _ _ (by decide) (by decide)).trans (Nat.zero_mod _)⟩
    unfold State.clearShift
    rw [State.get_set_elsewhere _ _ (by decide), State.get_set_elsewhere _ _ (by decide), State.get_set_self _ _ _ (by decide) (by decide), Nat.zero_mod]
  cases scratch
  · exact cleared _
  · have kept (t : State) : (t.clearScratch e).get F.PEnn_EMT_DATA e = t.get F.PEnn_EMT_DATA e
        ∧ (t.clearScratch e).get F.PEnn_CNTS_EMTN e = t.get F.PEnn_CNTS_EMTN e := by
      unfold State.clearScratch
      simp (disch := decide) only [State.get_set_beside, State.get_set_elsewhere, and_self]
    obtain ⟨data, count⟩ := cleared (s.started e addr seq)
    exact ⟨(kept _).1.trans data, (kept _).2.trans count⟩

/-- CLRSCR leaves the scratch registers zero. -/
theorem State.scratch_startedClear : (s.startedClear e addr seq shift true).get F.PEnn_SA_DATA e = 0
    ∧ (s.startedClear e addr seq shift true).get F.PEnn_SB_DATA e = 0 := by
  have cleared (t : State) : (t.clearScratch e).get F.PEnn_SA_DATA e = 0 ∧ (t.clearScratch e).get F.PEnn_SB_DATA e = 0 := by
    unfold State.clearScratch
    simp (disch := decide) only [State.get_set_elsewhere, State.get_set_self, Nat.zero_mod, and_self]
  exact cleared _

end

/-- A running engine that is halted. -/
theorem State.haltEngine_of_running (on : (s.eng e).running = true) :
    (s.haltEngine e).eng e = { s.eng e with running := false, stalled := none, single := false }
      ∧ (s.haltEngine e).get F.PEnn_PC_PAUSELEFT e = 0 ∧ s.OnlyIn [.regs, .pio] (s.haltEngine e) := by
  unfold State.haltEngine
  simp only [on]
  cases (s.eng e).seq with
  | none => exact ⟨by simp, (State.get_set_self _ _ _ (by decide) (by decide)).trans (Nat.zero_mod _), by simp⟩
  | some x =>
    refine ⟨by simp, ?_, by simp⟩
    simp (disch := decide) only [Bool.not_true, Bool.false_eq_true, if_false, State.get_set_elsewhere, State.get_set_self, Nat.zero_mod]

theorem State.haltEngine_of_halted (off : (s.eng e).running = false) : s.haltEngine e = s := if_pos (by simp [off])

/-- A step of a halted engine runs the instruction at its PC. -/
theorem State.WritesReg.engineStep (wr : s.WritesReg f F.PEnn_CTL_HALT e x) (small : e < 64) (only : OnlyCommand (wordOf f) 8)
    (single : (s.eng e).single = false) (n : Nat) : exec (.engineStep f n) s =
      .next (if ((armStep e s).eng e).single then ((armStep e s).settle 5 f {}).stepInstr e n else (armStep e s).settle 5 f {}) := by
  have on : bit (wordOf f) 8 = true := only.bits.2.2.2.2.2.2
  have run : execRegisterWrite f s = .next ((armStep e s).settle 5 f {}) := wr.ends (aim := true) rfl (wr.writePio_ctl (peCtl_of_step only))
  change execEngineStep f n s = _
  unfold execEngineStep
  rw [if_pos (by rw [wr.at_reg (by decide) small, on]; rfl), run]
  simp [wr.peOf small, single]

/-! ### Groups of engines and the shared flags -/

theorem gstart_of_one {k m : Nat} (one : named k m = [e]) : gstart k m s =
    if (s.eng e).running || decide (s.get F.PEnn_STATUS_FAULT e ≠ 0) || !s.flag F.PEnn_CFG_EN e then s
    else (s.setEng e { s.eng e with running := true, seq := none, stalled := none }).set F.PEnn_SEQ_VALID e 0 := by
  unfold gstart
  rw [one]
  rfl

theorem State.onlyIn_flagCycle (s : State) : s.OnlyIn [.pio] s.flagCycle := by
  unfold State.flagCycle
  split <;> simp

theorem State.regs_flagCycle (s : State) : s.flagCycle.regs = s.regs ∧ s.flagCycle.imgRegs = s.imgRegs := by
  unfold State.flagCycle
  split <;> simp

theorem State.get_flagCycle (s : State) (g : Fld) (i : Nat) : s.flagCycle.get g i = s.get g i := by
  obtain ⟨regs, image⟩ := s.regs_flagCycle
  simp [State.get, State.word, regs, image]

theorem State.get_setFlags (s : State) (src : Nat) {m : Nat} (fits : m < 2 ^ 32) :
    (State.setFlags src m s).get F.PIO_SFSET_FLAGS = s.get F.PIO_SFSET_FLAGS ||| m := by
  unfold State.setFlags
  rw [State.get_set_self _ _ _ (by decide) (by decide)]
  simp only [State.onPio_get, State.get_flagCycle]
  exact Nat.mod_eq_of_lt (Nat.or_lt_two_pow (bits_lt _ 31 0) fits)

/-- In a cycle in which no flag was set before, the mask is cleared. -/
theorem State.get_clearFlags (s : State) (src m : Nat) (fresh : s.pio.flagsAt ≠ s.up) :
    (State.clearFlags src m s).get F.PIO_SFSET_FLAGS = s.get F.PIO_SFSET_FLAGS - (s.get F.PIO_SFSET_FLAGS &&& m) := by
  unfold State.clearFlags
  rw [State.get_set_self _ _ _ (by decide) (by decide)]
  simp only [State.onPio_get, State.get_flagCycle]
  have none_ : flagsBy (s.flagCycle.onPio fun p => { p with flagsClr := p.flagsClr ++ [(src, m)] }).pio.flagsSet src = 0 := by
    simp [State.flagCycle, fresh, flagsBy]
  rw [none_, Nat.and_zero, Nat.sub_zero]
  exact Nat.mod_eq_of_lt ((Nat.sub_le _ _).trans_lt (bits_lt _ 31 0))

theorem State.setFlags_frame (s : State) (src m : Nat) : s.OnlyIn [.regs, .pio] (State.setFlags src m s)
    ∧ s.WordsBut [F.PIO_SFSET_FLAGS.key 0] (State.setFlags src m s) := by
  have kept : s.WordsBut [F.PIO_SFSET_FLAGS.key 0] s.flagCycle := State.wordsBut_of_regs s.regs_flagCycle.1 s.regs_flagCycle.2
  exact ⟨State.OnlyIn.andThen (s.onlyIn_flagCycle.mono (by decide)) (by simp [State.setFlags]), kept.trans (by simp [State.setFlags])⟩

theorem State.clearFlags_frame (s : State) (src m : Nat) : s.OnlyIn [.regs, .pio] (State.clearFlags src m s)
    ∧ s.WordsBut [F.PIO_SFSET_FLAGS.key 0] (State.clearFlags src m s) := by
  have kept : s.WordsBut [F.PIO_SFSET_FLAGS.key 0] s.flagCycle := State.wordsBut_of_regs s.regs_flagCycle.1 s.regs_flagCycle.2
  exact ⟨State.OnlyIn.andThen (s.onlyIn_flagCycle.mono (by decide)) (by simp [State.clearFlags]), kept.trans (by simp [State.clearFlags])⟩

end

/-- Settles O41, each command bit by what the engine does, the groups by their engines, the flags by their mask. -/
theorem enginesStartAndHalt : Obligations.EnginesStartAndHalt := by
  unfold Obligations.EnginesStartAndHalt
  refine ⟨fun s f e x wr small => ?_, fun s f x => ?_, fun s k m e one => ?_, fun s src m fits => ⟨⟨s.get_setFlags src fits, s.setFlags_frame src m⟩,
    s.get_clearFlags src m, s.clearFlags_frame src m⟩⟩
  · intro w q only
    have row (k : Nat) (sole : only k) (known : k < 9 ∧ k ≠ 2 ∧ k ≠ 3) {a : State.Res} {t : State} (done : peCtl e w s = (a, t)) :
        peRow k f s = .next (t.settle 5 f a) := by
      obtain ⟨low, n2, n3⟩ := known
      exact wr.peRow small ((sole k low n2 n3).trans (decide_eq_true rfl)) done
    refine ⟨fun sole => ⟨fun beyond => ?_, fun inside busy => ?_, fun inside halted => ?_⟩, fun sole => ⟨fun off => ?_, fun on => ?_⟩,
      fun sole => ⟨fun busy => ?_, fun off => ?_⟩, fun sole => ⟨fun busy => ?_, fun off => ?_⟩, fun sole => ?_,
      fun sole => ⟨fun busy => ?_, fun off => ?_⟩, fun sole n => ⟨fun busy single => ?_, fun off single => ?_⟩⟩
    · refine row 1 sole (by decide) ((peCtl_of_start sole).trans ?_)
      rw [show engineStart e (bits w 27 16) (bit w 2) (bit w 3) (bit w 9) s = ({ st := .ur }, s) from if_pos beyond]
      rfl
    · refine row 1 sole (by decide) ((peCtl_of_start sole).trans ?_)
      rw [show engineStart e (bits w 27 16) (bit w 2) (bit w 3) (bit w 9) s = ({ st := .busy }, s) from
        (if_neg (not_le.mpr inside)).trans (if_pos busy)]
      rfl
    · obtain ⟨seq, start⟩ := engineStart_of_halted (shift := bit w 2) (scratch := bit w 3) (resume := bit w 9) inside halted
      have small : bits w 27 16 < 4096 := State.bits_lt w 27 16
      refine ⟨s.startedClear e (bits w 27 16) seq (bit w 2) (bit w 3), row 1 sole (by decide) ((peCtl_of_start sole).trans ?_), ?_, ?_, ?_, ?_, ?_, ?_,
        fun shift => ?_, fun scratch => ?_, State.onlyIn_startedClear _ _ _ _⟩
      · rw [start]
        rfl
      · rw [State.eng_startedClear]
      · rw [State.eng_startedClear]
      · rw [State.eng_startedClear]
      · rw [State.get_startedClear _ _ _ _ (by decide), State.started, State.get_set_self _ _ _ (by decide) (by decide)]
        exact Nat.mod_eq_of_lt small
      · rw [State.get_startedClear _ _ _ _ (by decide), State.started]
        simp (disch := decide) only [State.get_set_elsewhere, State.get_set_beside, State.get_set_self, Nat.zero_mod]
      · rw [State.get_startedClear _ _ _ _ (by decide), State.started]
        simp (disch := decide) only [State.get_set_elsewhere, State.get_set_self, Nat.zero_mod]
      · rw [shift]
        exact State.emt_startedClear _ _ _
      · rw [scratch]
        exact State.scratch_startedClear _ _ _
    · exact row 0 sole (by decide) ((peCtl_of_halt sole).trans (by rw [State.haltEngine_of_halted off]))
    · exact ⟨_, row 0 sole (by decide) (peCtl_of_halt sole), State.haltEngine_of_running on⟩
    · exact row 4 sole (by decide) ((peCtl_of_flushRx sole).trans (if_pos busy))
    · exact row 4 sole (by decide) ((peCtl_of_flushRx sole).trans (if_neg (ne_true_of_eq_false off)))
    · exact row 5 sole (by decide) ((peCtl_of_flushTx sole).trans (if_pos busy))
    · exact row 5 sole (by decide) ((peCtl_of_flushTx sole).trans (if_neg (ne_true_of_eq_false off)))
    · exact row 6 sole (by decide) (peCtl_of_flushTaq sole)
    · exact row 7 sole (by decide) ((peCtl_of_release sole).trans (if_pos busy))
    · exact row 7 sole (by decide) ((peCtl_of_release sole).trans (if_neg (ne_true_of_eq_false off)))
    · rw [wr.engineStep small sole single, show armStep e s = s from if_pos busy, show (s.eng e).single = false from single]
      rfl
    · rw [wr.engineStep small sole single, show armStep e s = s.setEng e { q with running := true, single := true } from
        if_neg (ne_true_of_eq_false off), State.eng_setEng_self]
      rfl
  · intro w
    refine ⟨fun wr => ?_, fun wr => ?_, fun wr => ?_, fun wr => ?_, fun wr => ?_, fun wr => ?_⟩
    · refine wr.ends (show atEither f _ _ = true by simp [atEither, wr.aim]) ((writeEffect_pio wr.name).trans ?_)
      simp [writePio, wr.name, w]
    · refine wr.ends (show atEither f _ _ = true by simp [atEither, wr.aim]) ((writeEffect_pio wr.name).trans ?_)
      simp [writePio, wr.name, w]
    · refine wr.ends (show atEither f _ _ = true by simp [atEither, wr.aim]) ((writeEffect_pio wr.name).trans ?_)
      simp [writePio, wr.name, w, ghalt]
    · refine wr.ends (show atEither f _ _ = true by simp [atEither, wr.aim]) ((writeEffect_pio wr.name).trans ?_)
      simp [writePio, wr.name, w, ghalt]
    · refine wr.ends (wr.at_first (by decide)) ((writeEffect_pio wr.name).trans ?_)
      simp [writePio, wr.name, w]
    · refine wr.ends (wr.at_first (by decide)) ((writeEffect_pio wr.name).trans ?_)
      simp [writePio, wr.name, w]
  · refine ⟨fun h => (gstart_of_one one).trans (if_pos ?_), fun sound on off => (gstart_of_one one).trans (if_neg ?_), by decide, by decide⟩
    · obtain fault | off | on := h
      · simp [fault]
      · simp [off]
      · simp [on]
    · simp [sound, on, off]

end Sys2Proof.Machine

/-! PROOFS. The queues, instruction memory and mailboxes of the engines as initiators meet them (R247, R257 to R263). -/
namespace Sys2Proof.Machine

section
variable {s t : State} {f : Frame} {x : RegRow} {e k : Nat} {a : State.Res}

/-! ### Reads of the queue and of the instruction memory -/

/-- A read is aimed at the register whose place it names. -/
theorem State.ReadsReg.at_reg {r : Fld} {i n : Nat} (rd : s.ReadsReg f r i) (step : 0 < r.mult) (known : i < n) : atReg f r n = true := by
  have place : (r.off + r.mult * i - r.off) / r.mult = i := by rw [Nat.add_sub_cancel_left, Nat.mul_div_cancel_left _ step]
  simp only [atReg, rd.aim, place, known, decide_true, Bool.and_self]

theorem State.ReadsRow.index {o : Nat} {r : Fld} (rd : s.ReadsRow f r e x) (step : r.mult = 0x400) (off : r.off = o) :
    (regOff f.offset - o) / 0x400 = e := by
  rw [rd.reads.aim, off, Nat.add_sub_cancel_left, step]
  exact Nat.mul_div_cancel_left e (by decide)

/-- A read of a receive queue takes from its engine. -/
theorem State.ReadsRow.rxq (rd : s.ReadsRow f F.PEnn_RXQ_DATA e x) (small : e < 64) (read : rxqRead e s = (a, t)) :
    exec (.rxqRead f) s = .next (t.settle 5 f a) := by
  change execRxqRead f s = _
  unfold execRxqRead
  rw [rd.reads.row_eq (rd.reads.at_reg (by decide) small)]
  unfold regRead
  simp only [rd.reads.works, rd.open_, rd.row, rd.seen, rd.name, Bool.false_eq_true, if_false, if_true, rd.index rfl rfl, read]
  rfl

/-- A read of the instruction memory takes the word at IADDR. -/
theorem State.ReadsRow.idata (rd : s.ReadsRow f F.PEnn_IDATA_WORD e x) (small : e < 64) :
    exec (.idataRead f) s = .next ((nextIaddr s e).settle 5 f { data := wordBytes (s.iword e (s.get F.PEnn_IADDR_ADDR e)) }) := by
  change execIdataRead f s = _
  unfold execIdataRead
  rw [rd.reads.row_eq (rd.reads.at_reg (by decide) small)]
  unfold regRead
  simp only [rd.reads.works, rd.open_, rd.row, rd.seen, rd.name, Bool.false_eq_true, if_false, if_true,
    show ¬ F.PEnn_IDATA_WORD.off = F.PEnn_RXQ_DATA.off by decide, rd.index rfl rfl, idataRead]
  rfl

theorem rxqRead_of_word {w : Word} {b : Bool} {rest : List (Word × Bool)} (off : s.flag F.PKnn_CFG_EN e = false)
    (head : (s.eng e).rx = (w, b) :: rest) : rxqRead e s = ({ data := wordBytes w.toNat }, s.setEng e { s.eng e with rx := rest }) := by
  unfold rxqRead
  simp only [off, head, Bool.false_eq_true, if_false]

theorem rxqRead_of_empty (off : s.flag F.PKnn_CFG_EN e = false) (empty : (s.eng e).rx = []) :
    rxqRead e s = ({ data := wordBytes 0 }, s.set F.PEnn_QSTAT_RXEMPTYRD e 1) := by
  unfold rxqRead
  simp only [off, empty, Bool.false_eq_true, if_false]

/-! ### Writes of the queue, of the instruction memory and of timed actions -/

section
variable (small : e < 64)
include small

theorem State.WritesReg.txq (wr : s.WritesReg f F.PEnn_TXQ_DATA e x) (done : txqWrite e (wordOf f) s = (a, t)) :
    exec (.txqWrite f) s = .next (t.settle 5 f a) := by
  refine wr.ends (wr.at_reg (by decide) small) ((writeEffect_pio wr.name).trans ?_)
  have index : F.PEnn_TXQ_DATA.mult * e / 0x400 = e := Nat.mul_div_cancel_left e (by decide)
  simp [writePio, wr.name, index, done]

theorem State.WritesReg.idata (wr : s.WritesReg f F.PEnn_IDATA_WORD e x) (done : idataWrite e (wordOf f) s = (a, t)) :
    exec (.idataWrite f) s = .next (t.settle 5 f a) := by
  refine wr.ends (wr.at_reg (by decide) small) ((writeEffect_pio wr.name).trans ?_)
  have index : F.PEnn_IDATA_WORD.mult * e / 0x400 = e := Nat.mul_div_cancel_left e (by decide)
  simp [writePio, wr.name, index, done]

theorem State.WritesReg.taqAct (wr : s.WritesReg f F.PEnn_TAQ_ACT_TB e x) (done : taqActWrite e (wordOf f) s = (a, t)) :
    exec (.taqActWrite f) s = .next (t.settle 5 f a) := by
  refine wr.ends (wr.at_reg (by decide) small) ((writeEffect_pio wr.name).trans ?_)
  have index : F.PEnn_TAQ_ACT_TB.mult * e / 0x400 = e := Nat.mul_div_cancel_left e (by decide)
  simp [writePio, wr.name, index, done]

/-- A write of the instruction memory while an engine of its window runs is a violation. -/
theorem idataWrite_of_running {w : Nat} (on : s.flag F.PEnn_CFG_EN e = true) (running : (s.eng e).running = true) :
    idataWrite e w s = ({ st := .viol, reason := 4 }, s.bump F.PEnn_CNT_IMVIOL e) := by
  refine if_pos (List.any_eq_true.mpr ⟨e, List.mem_range.mpr small, ?_⟩)
  simp [on, running]

end

theorem idataWrite_of_halted {w : Nat} (halted : ∀ k, k < 64 → (s.eng k).running = false) : idataWrite e w s = ({}, nextIaddr (s.onPio fun p =>
    { p with imem := Tbl.put p.imem (s.get F.PEnn_IWIN_BASE e + s.get F.PEnn_IADDR_ADDR e) (BitVec.ofNat 32 w) }) e) := by
  refine if_neg (ne_true_of_eq_false (List.any_eq_false.mpr fun k known => ?_))
  simp [halted k (List.mem_range.mp known)]

/-! ### Mailboxes -/

/-- A write of a mailbox marks it fresh. -/
theorem State.WritesReg.mailbox (wr : s.WritesReg f F.PEnn_MB_DATA (e * 256 + k) x) (small : k < 16) :
    exec (.mailboxWrite e k (some f)) s = .next ((mailboxIn e k (wordOf f) s).settle 5 f {}) := by
  have aim : regOff f.offset = F.PEnn_MB_DATA.off + 0x400 * e + 4 * k := by
    rw [wr.aim]
    show 0x60080 + 4 * (e * 256 + k) = 0x60080 + 0x400 * e + 4 * k
    omega
  refine wr.ends (show (decide (regOff f.offset = _) && decide (k < 16)) = true by simp only [aim, small, decide_true, Bool.and_self])
    ((writeEffect_pio wr.name).trans ?_)
  have engine : 4 * (e * 256 + k) / 1024 = e := by omega
  have place : 4 * (e * 256 + k) % 1024 / 4 = k := by omega
  simp [writePio, wr.name, engine, place]

theorem mailboxIn_spec {v : Nat} (small : k < 16) (fits : v < 2 ^ 32) : (mailboxIn e k v s).get F.PEnn_MB_DATA (e * 256 + k) = v
    ∧ (mailboxIn e k v s).get F.PEnn_MBFRESH_FRESH e = setBit (s.get F.PEnn_MBFRESH_FRESH e) k true % 2 ^ 16
    ∧ s.OnlyIn [.regs] (mailboxIn e k v s)
    ∧ s.WordsBut [F.PEnn_MB_DATA.key (e * 256 + k), F.PEnn_MBFRESH_FRESH.key e] (mailboxIn e k v s) := by
  have key : F.PEnn_MB_DATA.key (e * 256 + k) ≠ F.PEnn_MBFRESH_FRESH.key e := by
    simp only [Fld.key]
    omega
  refine ⟨?_, State.get_set_self _ _ _ (by decide) (by decide), by simp [mailboxIn], by simp [mailboxIn]⟩
  exact (State.get_set_ne _ _ key).trans ((State.get_set_self _ _ _ (by decide) (by decide)).trans (Nat.mod_eq_of_lt fits))

theorem mailboxBound_of_handed {h : Handed} {l : List Handed} (head : s.epo.handed = h :: l) (kind : h.kind = 9) (index : h.index = e * 16 + k) :
    mailboxBound e k s = (mailboxIn e k (h.value % 2 ^ 32) (s.onEpo fun x => { x with handed := l })).sinkOk h.obj := by
  have taken : (s.onEpo fun x => { x with handed := x.handed.eraseP fun h => decide (h.kind = 9) && decide (h.index = e * 16 + k) })
      = s.onEpo fun x => { x with handed := l } := by
    simp [State.onEpo, head, kind, index]
  have found : (s.epo.handed.find? fun h => decide (h.kind = 9) && decide (h.index = e * 16 + k)) = some h := by simp [head, kind, index]
  unfold mailboxBound
  simp only [found, taken]

/-! ### Feed windows -/

section
variable {ws : List Word} {l : List (Nat × Frame × List Word)} (head : s.pio.feeds = (e, f, ws) :: l)
include head

theorem feedDrain_of_all (fits : ws.length ≤ 8 - (s.eng e).tx.length) : feedDrain e s =
    ((s.setEng e { s.eng e with tx := (s.eng e).tx ++ ws }).onPio fun p => { p with feeds := l }).settle 6 f {} := by
  have taken : (s.setEng e { s.eng e with tx := (s.eng e).tx ++ ws }).onPio (fun p => { p with feeds := p.feeds.eraseP fun x => decide (x.1 = e) })
      = (s.setEng e { s.eng e with tx := (s.eng e).tx ++ ws }).onPio fun p => { p with feeds := l } := by
    simp [State.onPio, State.setEng, head]
  have found : (s.pio.feeds.find? fun x => decide (x.1 = e)) = some (e, f, ws) := by simp [head]
  unfold feedDrain
  simp only [found, fits, if_true, List.take_of_length_le fits, taken]

theorem feedDrain_of_some (short : 8 - (s.eng e).tx.length < ws.length) : feedDrain e s =
    (s.setEng e { s.eng e with tx := (s.eng e).tx ++ ws.take (8 - (s.eng e).tx.length) }).onPio fun p =>
      { p with feeds := p.feeds.map (fun x => if x.1 = e ∧ x.2.1 = f ∧ x.2.2 = ws then (e, f, ws.drop (8 - (s.eng e).tx.length)) else x) } := by
  have found : (s.pio.feeds.find? fun x => decide (x.1 = e)) = some (e, f, ws) := by simp [head]
  unfold feedDrain
  simp only [found, if_neg (not_le.mpr short)]

end

end

/-- Settles O42, each access by the room or the words that its queue has. -/
theorem engineQueuesAreBounded : Obligations.EngineQueuesAreBounded := by
  unfold Obligations.EngineQueuesAreBounded
  refine ⟨fun s f e x small => ?_, fun s f e k x small box wr fits => ⟨_, wr.mailbox box, mailboxIn_spec box fits⟩, fun s e k none_ => ?_,
    fun s e k h l head kind index => congrArg Host.Outcome.next (mailboxBound_of_handed head kind index), fun s e f ws l ready head => ⟨fun fits => ?_, fun short => ?_⟩⟩
  · intro w q u
    refine ⟨fun wr => ⟨fun room => ?_, fun full => ?_⟩, fun rd => ⟨fun packing => ?_, fun off empty => rd.rxq small (rxqRead_of_empty off empty),
        fun x b rest off head => rd.rxq small (rxqRead_of_word off head)⟩,
      fun wr => ⟨fun on running => wr.idata small (idataWrite_of_running small on running), fun halted => wr.idata small (idataWrite_of_halted halted)⟩,
      fun rd => rd.idata small, fun more => ?_, fun last => ?_, fun wr => ⟨fun bad => wr.taqAct small (if_pos bad), fun base act pin => ⟨fun full => ?_, fun room => ?_⟩⟩⟩
    · exact wr.txq small (if_neg (not_le.mpr room))
    · exact wr.txq small (if_pos full)
    · exact rd.rxq small (if_pos packing)
    · exact congrArg (s.set F.PEnn_IADDR_ADDR e) (if_neg (not_le.mpr more))
    · exact congrArg (s.set F.PEnn_IADDR_ADDR e) (if_pos last.ge)
    · exact wr.taqAct small ((if_neg (not_or.mpr ⟨not_lt.mpr base, not_or.mpr ⟨not_lt.mpr act, not_le.mpr pin⟩⟩)).trans (if_pos full))
    · exact wr.taqAct small ((if_neg (not_or.mpr ⟨not_lt.mpr base, not_or.mpr ⟨not_lt.mpr act, not_le.mpr pin⟩⟩)).trans (if_neg (not_le.mpr room)))
  · change Host.Outcome.next (mailboxBound e k s) = _
    simp [mailboxBound, none_]
  · refine ⟨_, (congrArg Host.Outcome.next (if_neg (ne_true_of_eq_false ready))).trans (congrArg Host.Outcome.next (feedDrain_of_all head fits)), ?_, rfl, by simp⟩
    exact congrArg Engine.tx (s.eng_setEng_self e _)
  · refine ⟨_, (congrArg Host.Outcome.next (if_neg (ne_true_of_eq_false ready))).trans (congrArg Host.Outcome.next (feedDrain_of_some head short)), ?_, by simp⟩
    exact congrArg Engine.tx (s.eng_setEng_self e _)

end Sys2Proof.Machine

/-! PROOFS. Fabric time (R336, R343 to R349, R353). -/
namespace Sys2Proof.Machine

section
variable {s : State} {f : Frame} {st : Nat}

/-! ### Sending, missing and switching -/

theorem execTsyncSend_of_waits (waits : s.master = false ∨ s.blockBusy 10 = true ∨ ∃ t, s.tim.syncAt = some t ∧ s.up < t + s.syncTime) :
    exec .tsyncSend s = .next s := by
  change execTsyncSend s = _
  unfold execTsyncSend
  refine (if_neg ?_)
  obtain follower | busy | ⟨t, last, early⟩ := waits
  · simp [follower]
  · simp [busy]
  · have recent : s.tim.syncAt.any (fun t => decide (s.up < t + s.syncTime)) = true := (Option.any_eq_true _ _).mpr ⟨t, last, decide_eq_true early⟩
    simp [recent]

/-- A copy of a ring is missing for a number of intervals when its last one is that old. -/
theorem State.noCopy_iff {r n t : Nat} (copy : s.tim.copyAt.getD r none = some t) : s.noCopy r n = true ↔ t + n * s.syncTime ≤ s.up := by
  unfold State.noCopy
  rw [copy]
  exact decide_eq_true_iff

/-! ### The clock's readings -/

@[simp] theorem State.ns_set (s : State) (g : Fld) (i v : Nat) : (s.set g i v).ns = s.ns := by simp [State.ns]
@[simp] theorem State.sec_set (s : State) (g : Fld) (i v : Nat) : (s.set g i v).sec = s.sec := by simp [State.sec]
@[simp] theorem State.nsec_set (s : State) (g : Fld) (i v : Nat) : (s.set g i v).nsec = s.nsec := by simp [State.nsec]

/-- LATCH captures both views of the clock. -/
theorem latch_spec : (latch s).get F.TIM_CAP_NSLO_VAL = s.ns % 2 ^ 32 ∧ (latch s).get F.TIM_CAP_SECLO_VAL = s.sec % 2 ^ 32
    ∧ (latch s).get F.TIM_CAP_NS_VAL = s.nsec % 2 ^ 32 ∧ s.OnlyIn [.regs] (latch s) := by
  refine ⟨?_, ?_, ?_, by simp [latch]⟩
  · simp (disch := decide) only [latch, State.get_set_apart, State.get_set_self]
    exact Nat.mod_mod _ _
  · simp (disch := decide) only [latch, State.get_set_apart, State.get_set_self, State.sec_set]
    exact Nat.mod_mod _ _
  · simp (disch := decide) only [latch, State.get_set_self, State.nsec_set]

/-- The trim stays within its limit. -/
theorem State.servo_bounded (s : State) (o : Int) (lim : Nat) (slew : Bool) :
    (s.servo o lim slew).1 ≤ (lim * 1718 : Nat) ∧ (-(lim * 1718 : Nat) : Int) ≤ (s.servo o lim slew).1 := by
  cases slew with
  | false => simp only [State.servo, clampI]; split_ifs <;> omega
  | true => simp only [State.servo]; split_ifs <;> omega

/-! ### A TSYNC at a follower -/

/-- The state once a follower has noted a copy of TSYNC. -/
def State.syncHeard (s : State) (f : Frame) : State :=
  let r := b2n f.ring
  let s := s.take f
  let s := if r = s.get F.TIM_STAT_RING then (s.countMissed (s.copyAge r - 1)).onTim fun t => { t with missed := 0 } else s
  (s.bump F.TIM_CNT_SYNCRX).onTim fun t => { t with seen := setAt t.seen r (some (beAt f.pay 3 1)), copyAt := setAt t.copyAt r (some s.up) }

/-- Whether a copy of so many hops is the better one: the other ring shows none, or a longer way. -/
def State.syncBetter (s : State) (r hops : Nat) : Bool :=
  match s.tim.seen.getD (1 - r) none with
  | none => true
  | some h => decide (hops < h) || (decide (hops = h) && decide (r = 0))

/-- The state once a follower follows the better copy. -/
def State.followSync (s : State) (f : Frame) (st : Nat) : State :=
  let s := ((s.set F.TIM_STAT_RING 0 (b2n f.ring)).set F.TIM_STAT_HOPS 0 (beAt f.pay 3 1)).setB F.TIM_STAT_GM 0 (bit (beAt f.pay 1 1) 0)
  let s := (s.set F.TIM_UTCOFF_OFF 0 (beAt f.pay 30 2)).onTim fun t => { t with missed := 0 }
  let sent : Nat := (beAt f.pay 4 6 * 10 ^ 9 + beAt f.pay 10 4) * 65536
  let o := ((st : Int) - (sent + sgn 64 (beAt f.pay 14 8) + s.tim.df.getD (1 - b2n f.ring) 0)) / 65536
  (s.set F.TIM_OFFSET_NS 0 (sat32 o)).timeOffset o (beAt f.pay 22 4 * 2 ^ 32 + beAt f.pay 26 4 : Nat) (beAt f.pay 2 1)

theorem execTsync_of_follower (follower : s.master = false) : exec (.tsync f st) s =
    if !(s.syncHeard f).syncBetter (b2n f.ring) (beAt f.pay 3 1) then .next (s.syncHeard f) else .next ((s.syncHeard f).followSync f st) :=
  if_neg (ne_true_of_eq_false (show (s.take f).master = false by simpa [State.master] using follower))

/-! ### Writes of TIM.CTL -/

/-- SETTIME steps the clock to the value, in whole nanoseconds. -/
theorem State.ns_timeStep (s : State) (t : Nat) : (s.timeStep (((t * 2 ^ 32 : Nat) : Int) - s.tim.n)).ns = t % 2 ^ 64 := by
  have clock : (s.timeStep (((t * 2 ^ 32 : Nat) : Int) - s.tim.n)).tim.n = unsgn 96 ((s.tim.n : Int) + (((t * 2 ^ 32 : Nat) : Int) - s.tim.n)) := by
    simp [State.timeStep]
  rw [State.ns, clock, add_sub_cancel]
  show (((t * 2 ^ 32 : Nat) : Int) % 2 ^ 96).toNat / 2 ^ 32 = t % 2 ^ 64
  rw [show ((2 : Int) ^ 96) = ((2 ^ 96 : Nat) : Int) by norm_num, ← Int.natCast_emod, Int.toNat_natCast]
  omega

/-- A master without a grandmaster takes the value, and starts a new epoch. -/
theorem setTime_of_master (good : s.get F.TIM_SET_NS_VAL < 10 ^ 9) (master : s.master = true) (own : s.flag F.TIM_STAT_GM = false) :
    ∃ v, setTime s = (.ok, v)
      ∧ v.ns = ((s.get F.TIM_SET_SECHI_VAL % 2 ^ 16 * 2 ^ 32 + s.get F.TIM_SET_SECLO_VAL) * 10 ^ 9 + s.get F.TIM_SET_NS_VAL) % 2 ^ 64
      ∧ v.get F.TIM_STAT_TSE = (s.get F.TIM_STAT_TSE + 1) % 256 := by
  refine ⟨_, (if_neg (not_le.mpr good)).trans (if_neg (by simp [master, own])), ?_, ?_⟩
  · rw [State.ns_set]
    exact s.ns_timeStep _
  · exact (State.get_set_self _ _ _ (by decide) (by decide)).trans (Nat.mod_mod _ 256)

/-- Of the command bits of TIM.CTL only one is set. -/
def OnlyTimCommand (w k : Nat) : Prop := ∀ j, 1 ≤ j → j ≤ 3 → bit w j = decide (j = k)

section
variable {r : RegRow} {key w k : Nat} (here : r.off = F.TIM_CTL_TCFORCE.off)
include here

theorem writeTim_of_relock (only : OnlyTimCommand w 1) : writeTim r key w s = ({}, relock (s.storeReg r key w)) := by
  simp [writeTim, here, andThen, plain, only 1 (by decide) (by decide), only 2 (by decide) (by decide), only 3 (by decide) (by decide)]

theorem writeTim_of_latch (only : OnlyTimCommand w 2) : writeTim r key w s = ({}, latch (s.storeReg r key w)) := by
  simp [writeTim, here, andThen, plain, only 1 (by decide) (by decide), only 2 (by decide) (by decide), only 3 (by decide) (by decide)]

theorem writeTim_of_settime (only : OnlyTimCommand w 3) : writeTim r key w s =
    if (setTime s).1 = .ok then ({}, (setTime s).2.storeReg r key w) else ({ st := (setTime s).1 }, (setTime s).2) := by
  by_cases fine : (setTime s).1 = .ok <;>
    simp [writeTim, here, andThen, plain, only 1 (by decide) (by decide), only 2 (by decide) (by decide), only 3 (by decide) (by decide), fine]

end

theorem State.WritesReg.timRow {x : RegRow} {k : Nat} {a : State.Res} {t : State} (wr : s.WritesReg f F.TIM_CTL_TCFORCE 0 x)
    (on : bit (wordOf f) k = true) (done : writeTim x (regOff f.offset) (wordOf f) s = (a, t)) : timRow k f s = .next (t.settle 5 f a) :=
  wr.ends (by rw [wr.at_first (by decide), on]; rfl) ((writeEffect_tim wr.name).trans (by rw [done]))

end

/-- Settles O43: TSYNC by role, interval and ring, the commands of TIM.CTL by their bit and the value they name. -/
theorem fabricTimeFollowsTheMaster : Obligations.FabricTimeFollowsTheMaster := by
  unfold Obligations.FabricTimeFollowsTheMaster
  refine ⟨fun s => ⟨?_, fun t last early => execTsyncSend_of_waits (.inr (.inr ⟨t, last, early⟩)), fun master ready due => ?_, fun locked follower first second => ?_,
      fun h => ?_, ?_, fun r n t copy => State.noCopy_iff copy, fun master => if_pos master, fun follower => if_neg (ne_true_of_eq_false follower),
      latch_spec, fun o lim slew => s.servo_bounded o lim slew⟩,
    fun s f st follower => ?_, fun s f x wr => ?_⟩
  · rintro (follower | busy)
    · exact execTsyncSend_of_waits (.inl follower)
    · exact execTsyncSend_of_waits (.inr (.inl busy))
  · change execTsyncSend s = _
    unfold execTsyncSend
    refine if_pos ?_
    have ripe : s.tim.syncAt.any (fun t => decide (s.up < t + s.syncTime)) = false :=
      (Option.any_eq_false _ _).mpr fun t last => decide_eq_false (not_lt.mpr (due t last))
    simp [master, ready, ripe]
  · exact if_pos ⟨locked, by simp [follower], first, second⟩
  · refine if_neg ?_
    rintro ⟨locked, -, first, second⟩
    obtain h | h | h := h
    · exact h locked
    · exact absurd first (ne_true_of_eq_false h)
    · exact absurd second (ne_true_of_eq_false h)
  · intro r up turn
    refine ⟨fun lane fresh => ?_, fun lane fresh => ?_, fun late => ?_⟩
    all_goals change execTimeRingSwitch s = _; unfold execTimeRingSwitch
    · exact if_pos (by simpa [up, fresh, r] using lane)
    · refine (if_neg (by simpa [up, fresh, r] using lane)).trans ?_
      rw [fresh]
      rfl
    · refine (if_neg (by simp [late, r])).trans ?_
      rw [late]
      rfl
  · intro r h s0 s1 v u u' sent o
    have run := execTsync_of_follower (f := f) (st := st) follower
    have follows (better : (s.syncHeard f).syncBetter (b2n f.ring) (beAt f.pay 3 1) = true) := run.trans (if_neg (by simp [better]))
    refine ⟨fun none_ => follows ?_, fun n other nearer => follows ?_, fun n other further => run.trans (if_pos ?_)⟩
    all_goals unfold State.syncBetter
    · rw [show (s.syncHeard f).tim.seen.getD (1 - b2n f.ring) none = none from none_]
    · rw [show (s.syncHeard f).tim.seen.getD (1 - b2n f.ring) none = some n from other]
      simp [show beAt f.pay 3 1 < n from nearer]
    · rw [show (s.syncHeard f).tim.seen.getD (1 - b2n f.ring) none = some n from other]
      have further : n < beAt f.pay 3 1 := further
      simp
      omega
  · intro w u only
    refine ⟨fun sole => ?_, fun sole => ?_, fun sole => ⟨fun bad => ?_, fun good busy => ?_, fun good master own => ?_⟩⟩
    · exact wr.timRow (k := 1) (sole 1 (by decide) (by decide)) (writeTim_of_relock wr.name sole)
    · exact wr.timRow (k := 2) (sole 2 (by decide) (by decide)) (writeTim_of_latch wr.name sole)
    all_goals have on : bit w 3 = true := sole 3 (by decide) (by decide)
    · refine wr.timRow (k := 3) on ((writeTim_of_settime wr.name sole).trans ?_)
      rw [show setTime s = (.ur, s) from if_pos bad]
      rfl
    · refine wr.timRow (k := 3) on ((writeTim_of_settime wr.name sole).trans ?_)
      rw [show setTime s = (.busy, s) from (if_neg (not_le.mpr good)).trans (if_pos (by simpa using busy))]
      rfl
    · obtain ⟨v, done, clock, epoch⟩ := setTime_of_master good master own
      refine ⟨v, wr.timRow (k := 3) on ((writeTim_of_settime wr.name sole).trans ?_), clock, epoch⟩
      rw [done]
      rfl

end Sys2Proof.Machine

/-! PROOFS. Phase references (R358 to R364). -/
namespace Sys2Proof.Machine

section
variable {s : State} {k : Nat}

@[simp] theorem State.ref_setRef_self (s : State) (k : Nat) (r : PhRef) : (s.setRef k r).ref k = r := by simp [State.ref, State.setRef]
@[simp] theorem State.ref_set (s : State) (g : Fld) (i v j : Nat) : (s.set g i v).ref j = s.ref j := by simp [State.ref]
@[simp] theorem State.ref_bump (s : State) (g : Fld) (i j : Nat) : (s.bump g i).ref j = s.ref j := by simp [State.ref]
@[simp] theorem State.get_setRef (s : State) (k : Nat) (r : PhRef) (g : Fld) (i : Nat) : (s.setRef k r).get g i = s.get g i := rfl
@[simp] theorem State.flag_setRef (s : State) (k : Nat) (r : PhRef) (g : Fld) (i : Nat) : (s.setRef k r).flag g i = s.flag g i := rfl

@[simp] theorem State.wordsBut_setRef {ks : List Nat} (s t : State) (k : Nat) (r : PhRef) : s.WordsBut ks (t.setRef k r) ↔ s.WordsBut ks t := Iff.rfl

@[simp] theorem State.onlyIn_setRef {ps : List Part} (s t : State) (k : Nat) (r : PhRef) (mem : .phs ∈ ps) :
    s.OnlyIn ps (t.setRef k r) ↔ s.OnlyIn ps t :=
  (t.onlyIn_put_phs _).absorb_part mem s

/-! ### Local events -/

theorem execPhaseLocalEvent_of_on (on : s.refOn k = true) (ready : s.blockBusy 11 = false) : exec (.phaseLocalEvent k) s = .next
    (if s.get F.PHn_CFG_SRC k = 1 then s.zcEvent k (s.ref k) else if s.get F.PHn_CFG_SRC k = 2 then s.encEvent k (s.ref k)
      else if s.get F.PHn_CFG_SRC k = 3 then s.objEvent k (s.ref k) else s) :=
  if_neg (by simp [on, ready])

theorem execPhaseLocalEvent_of_off (off : s.refOn k = false ∨ s.blockBusy 11 = true) : exec (.phaseLocalEvent k) s = .next s :=
  if_pos (by simpa using off)

/-! ### Publishing an event -/

section
variable {e : PhEvent} (waits : (s.ref k).pend = some e)
include waits

theorem execPhevSend_of_standby (standby : s.standby = true) : exec (.phevSend k) s = .next (s.setRef k { s.ref k with pend := none }) := by
  change execPhevSend k s = _
  unfold execPhevSend
  simp only [waits, standby, if_true]

theorem execPhevSend_of_early (active : s.standby = false) {t : Nat} (last : (s.ref k).sentAt = some t)
    (early : s.up < t + s.get F.PHS_CFG_MININT * 1000) : exec (.phevSend k) s = .next s := by
  have recent : (s.ref k).sentAt.any (fun t => decide (s.up < t + s.get F.PHS_CFG_MININT * 1000)) = true :=
    (Option.any_eq_true _ _).mpr ⟨t, last, decide_eq_true early⟩
  change execPhevSend k s = _
  unfold execPhevSend
  simp only [waits, active, recent, Bool.false_eq_true, if_false, Bool.true_or, if_true]

/-- The state once an event of a reference has its number. -/
def State.numbered (s : State) (k : Nat) : State :=
  (s.setRef k { s.ref k with pend := none, seq := some (((s.ref k).seq.getD 255 + 1) % 256), sentAt := some s.up }).set F.PHn_STAT_SEQ k
    (((s.ref k).seq.getD 255 + 1) % 256)

/-- A waiting event leaves with the next number once MININT has passed. -/
theorem execPhevSend_of_due (active : s.standby = false) (ready : s.blockBusy 11 = false)
    (due : ∀ t, (s.ref k).sentAt = some t → t + s.get F.PHS_CFG_MININT * 1000 ≤ s.up) :
    ∃ f, exec (.phevSend k) s = .next ((s.numbered k).sendPosted 5 f) ∧ f.tt = .mgt ∧ f.tc = 0 ∧ f.len = 32 := by
  have ripe : (s.ref k).sentAt.any (fun t => decide (s.up < t + s.get F.PHS_CFG_MININT * 1000)) = false :=
    (Option.any_eq_false _ _).mpr fun t last => decide_eq_false (not_lt.mpr (due t last))
  have run : ∃ f, execPhevSend k s = .next ((s.numbered k).sendPosted 5 f) ∧ f.tt = .mgt ∧ f.tc = 0 ∧ f.len = 32 := by
    unfold execPhevSend
    simp only [waits, active, ripe, ready, Bool.false_eq_true, if_false, Bool.or_self]
    exact ⟨_, rfl, rfl, rfl, rfl⟩
  exact run

end

/-! ### A stall -/

/-- The value that a stalled reference holds: the owner's limit, another hub's present value. -/
def State.stallValue (s : State) (k : Nat) : Nat := if decide (s.get F.PHn_CFG_SRC k ≠ 4) then (s.ref k).lim else (s.ref k).value s.tim.n

/-- A stalled reference. -/
def State.stalledRef (s : State) (k : Nat) : PhRef :=
  { s.ref k with held := some (s.stallValue k), stalled := true, events := 0, last := none, seed := true
                 pend := if decide (s.get F.PHn_CFG_SRC k ≠ 4) && s.flag F.PHn_CFG_PUB k then
                   some { rev := false, stall := true, jump := false, phase := s.stallValue k, time := s.ns } else (s.ref k).pend }

/-- The events of a reference's source in one period. -/
def State.perPeriod (s : State) (k : Nat) : Nat := if decide (s.get F.PHn_CFG_SRC k ≠ 4) then s.refEvents k else (s.ref k).d

theorem execPhaseStall_of_quiet (quiet : s.refOn k = false ∨ (s.ref k).stalled = true ∨ (s.ref k).test = 0 ∨ s.blockBusy 11 = true
    ∨ s.ns * s.perPeriod k < (s.ref k).time * s.perPeriod k + s.get F.PHn_CFG_STALLN k * (s.ref k).test) : exec (.phaseStall k) s = .next s := by
  refine if_pos ?_
  simp only [Bool.or_eq_true, decide_eq_true_eq, Bool.not_eq_true']
  obtain h | h | h | h | h := quiet
  · exact .inl (.inl (.inl (.inl h)))
  · exact .inl (.inl (.inl (.inr h)))
  · exact .inl (.inl (.inr h))
  · exact .inl (.inr h)
  · exact .inr (by simpa [State.perPeriod] using h)

theorem execPhaseStall_of_due (on : s.refOn k = true) (going : (s.ref k).stalled = false) (known : (s.ref k).test ≠ 0) (ready : s.blockBusy 11 = false)
    (due : (s.ref k).time * s.perPeriod k + s.get F.PHn_CFG_STALLN k * (s.ref k).test ≤ s.ns * s.perPeriod k) : exec (.phaseStall k) s =
      .next ((((s.setRef k (s.stalledRef k)).set F.PHn_STAT_STALL k 1).set F.PHn_STAT_LOCK k 0).bump F.PHn_CNT_STALL k) := by
  refine if_neg ?_
  simp only [Bool.or_eq_true, decide_eq_true_eq, Bool.not_eq_true', not_or]
  exact ⟨⟨⟨⟨by simp [on], by simp [going]⟩, known⟩, by simp [ready]⟩, by simpa [State.perPeriod] using due⟩

/-! ### Remote events -/

/-- The registers that an event of a reference shows itself in. -/
def eventKeys (k : Nat) : List Nat :=
  [F.PHn_EVPH_VAL, F.PHn_EVNS_VAL, F.PHn_EVSEC_VAL, F.PHn_CNT_EV, F.PHn_STAT_SEQ, F.PHn_CNT_STALL, F.PHn_PERIOD_TEST, F.PHn_CNT_REV, F.PHn_CNT_JUMP].map
    fun g => g.key k

theorem State.wordsBut_remoteEvent (s : State) (k : Nat) (r : PhRef) (p : List Byte) : s.WordsBut (eventKeys k) (s.remoteEvent k r p) := by
  have stall : F.PHn_STAT_STALL.key k = F.PHn_STAT_SEQ.key k := rfl
  have lock : F.PHn_STAT_LOCK.key k = F.PHn_STAT_SEQ.key k := rfl
  have dir : F.PHn_STAT_DIR.key k = F.PHn_STAT_SEQ.key k := rfl
  have reverse : F.PHn_STAT_REVF.key k = F.PHn_STAT_SEQ.key k := rfl
  have jump : F.PHn_STAT_JUMPF.key k = F.PHn_STAT_SEQ.key k := rfl
  unfold State.remoteEvent
  simp [State.remoteStall, State.showEvent, State.showPeriod, eventKeys, stall, lock, dir, reverse, jump]

/-- A remote event leaves the source of every reference. -/
theorem State.source_remoteEvent (s : State) (k : Nat) (r : PhRef) (p : List Byte) (j : Nat) :
    (s.remoteEvent k r p).get F.PHn_CFG_SRC j = s.get F.PHn_CFG_SRC j ∧ (s.remoteEvent k r p).get F.PHn_SRC_A j = s.get F.PHn_SRC_A j := by
  have words := s.wordsBut_remoteEvent k r p
  constructor <;> refine words.get ?_ <;> simp only [eventKeys, List.map_cons, List.map_nil, List.mem_cons, List.not_mem_nil, or_false, Fld.key] <;> omega

/-- A pass over a list in which one element alone acts. -/
theorem foldl_of_only {α β : Type} {g : β → α → β} {l : List α} {x : α} {t : β} (before : ∀ y, y ≠ x → g t y = t)
    (after : ∀ y, y ≠ x → g (g t x) y = g t x) (once : l.Nodup) (mem : x ∈ l) : l.foldl g t = g t x := by
  induction l with
  | nil => simp at mem
  | cons y l ih =>
    obtain ⟨fresh, once⟩ := List.nodup_cons.mp once
    obtain rfl | mem := List.mem_cons.mp mem
    · have rest : ∀ m : List α, x ∉ m → m.foldl g (g t x) = g t x := by
        intro m fresh
        induction m with
        | nil => rfl
        | cons z m ihm =>
          obtain ⟨other, fresh⟩ := not_or.mp (List.mem_cons.not.mp fresh)
          rw [List.foldl_cons, after z (Ne.symm other), ihm fresh]
      exact rest l fresh
    · have other : y ≠ x := fun same => fresh (same ▸ mem)
      rw [List.foldl_cons, before y other, ih once mem]

/-- A pass over a list in which none acts. -/
theorem foldl_of_none {α β : Type} {g : β → α → β} {t : β} (idle : ∀ y, g t y = t) (l : List α) : l.foldl g t = t := by
  induction l with
  | nil => rfl
  | cons y l ih => rw [List.foldl_cons, idle y, ih]

/-- Whether a PHEV is newer than the last event of a reference. -/
def PhRef.newer (r : PhRef) (p : List Byte) : Bool :=
  match r.seq with
  | none => true
  | some q => decide (0 < sdiff 8 (beAt p 3 1) q)

/-- What a PHEV does at one reference. -/
def State.phevAt (f : Frame) (s : State) (k : Nat) : State :=
  if s.refOn k && decide (s.get F.PHn_CFG_SRC k = 4) && decide (s.get F.PHn_SRC_A k = f.src)
    && decide (s.get F.PHn_SRC_B k % 8 = beAt f.pay 1 1 % 8) && (s.ref k).newer f.pay then s.remoteEvent k (s.ref k) f.pay else s

theorem execPhev_of_active {f : Frame} (active : s.standby = false) : exec (.phev f) s = .next ((List.range 8).foldl (State.phevAt f) (s.take f)) := by
  change execPhev f s = _
  unfold execPhev
  simp only [active, Bool.false_and, Bool.false_eq_true, if_false]
  rfl

theorem State.phevAt_of_other {f : Frame} {t : State} {j : Nat} (other : ¬(t.get F.PHn_CFG_SRC j = 4 ∧ t.get F.PHn_SRC_A j = f.src)) :
    State.phevAt f t j = t := by
  refine if_neg ?_
  simp only [Bool.and_eq_true, decide_eq_true_eq]
  rintro ⟨⟨⟨⟨-, source⟩, hub⟩, -⟩, -⟩
  exact other ⟨source, hub⟩

/-- The value runs toward its limit and never beyond it. -/
theorem PhRef.value_within_limit (r : PhRef) (n : Nat) (going : r.stalled = false) (free : r.held = none) (ahead : r.back = false)
    (phase : r.phase < 2 ^ 32) (limit : r.lim < 2 ^ 32) : phaseDist false r.phase (r.value n) ≤ phaseDist false r.phase r.lim := by
  unfold PhRef.value
  simp only [going, free, ahead, Bool.false_eq_true, if_false]
  generalize (if r.test = 0 then 0 else (n - r.time * 2 ^ 32) * 65536 / (r.test * 2 ^ 32)) = travel
  simp only [phaseDist, phaseMove, Bool.false_eq_true, if_false]
  omega

end

/-- Settles O44, by whether a reference is enabled, an event waits, and the stall is due. -/
theorem phaseReferencesFollowEvents : Obligations.PhaseReferencesFollowEvents := by
  unfold Obligations.PhaseReferencesFollowEvents
  refine ⟨fun s k => ?_, fun s f active => ?_, PhRef.value_within_limit⟩
  · intro r
    refine ⟨fun off => ⟨execPhaseLocalEvent_of_off (.inl off), if_neg (ne_true_of_eq_false off), execPhaseStall_of_quiet (.inl off)⟩,
      fun busy => ⟨execPhaseLocalEvent_of_off (.inr busy), execPhaseStall_of_quiet (.inr (.inr (.inr (.inl busy))))⟩,
      fun on ready => ⟨fun zc => ?_, fun enc => ?_, fun obj => ?_, fun remote => ?_⟩, fun none_ => ?_, fun some_ standby => ?_, fun t some_ active last early => ?_,
      fun e waits active ready due => ?_, fun on idle => execPhaseStall_of_quiet (idle.elim (fun h => .inr (.inl h)) fun h => .inr (.inr (.inl h))),
      fun on ready going known small => ?_⟩
    · rw [execPhaseLocalEvent_of_on on ready, if_pos zc]
    · rw [execPhaseLocalEvent_of_on on ready, if_neg (by omega), if_pos enc]
    · rw [execPhaseLocalEvent_of_on on ready, if_neg (by omega), if_neg (by omega), if_pos obj]
    · rw [execPhaseLocalEvent_of_on on ready, if_neg (by omega), if_neg (by omega), if_neg (by omega)]
    · change execPhevSend k s = _
      unfold execPhevSend
      simp only [show (s.ref k).pend = none from none_]
    · obtain ⟨e, waits⟩ := Option.ne_none_iff_exists'.mp some_
      exact execPhevSend_of_standby waits standby
    · obtain ⟨e, waits⟩ := Option.ne_none_iff_exists'.mp some_
      exact execPhevSend_of_early waits active last early
    · obtain ⟨f, run, type, tc, length⟩ := execPhevSend_of_due waits active ready due
      exact ⟨s.numbered k, f, run, type, tc, length, by rw [State.numbered, State.ref_set, State.ref_setRef_self], by simp [State.numbered]⟩
    · intro per due
      have same : s.perPeriod k = per := by simp [State.perPeriod, per, r]
      refine ⟨fun early => execPhaseStall_of_quiet (.inr (.inr (.inr (.inr (by rw [same]; exact early))))), fun late => ⟨_,
        execPhaseStall_of_due on going known ready (by rw [same]; exact late), ?_, ?_, by simp, fun remote => ?_, fun local_ unpublished => ?_⟩⟩
      · rw [State.flag_bump_elsewhere _ (by decide), State.flag_set_beside _ _ (by decide), State.flag_set_self _ _ _ (by decide) (by decide)]
        rfl
      · rw [State.flag_bump_elsewhere _ (by decide), State.flag_set_self _ _ _ (by decide) (by decide)]
        rfl
      · simp [State.stalledRef, State.stallValue, remote, r]
      · simp [State.stalledRef, State.stallValue, local_, unpublished, r]
  · intro mine
    refine ⟨fun none_ => ?_, fun k small others own on number fresh => ?_⟩
    · rw [execPhev_of_active active, foldl_of_none (t := s.take f) fun j => State.phevAt_of_other (none_ j)]
    · have acts : State.phevAt f (s.take f) k = (s.take f).remoteEvent k (s.ref k) f.pay := by
        have newer : (s.ref k).newer f.pay = true := by
          unfold PhRef.newer
          split
          · rfl
          · next q last => exact decide_eq_true (fresh q last)
        obtain ⟨source, hub⟩ := own
        refine if_pos ?_
        simp only [Bool.and_eq_true, decide_eq_true_eq]
        exact ⟨⟨⟨⟨on, source⟩, hub⟩, number⟩, newer⟩
      rw [execPhev_of_active active, foldl_of_only (t := s.take f) (x := k) (fun j other => State.phevAt_of_other (others j other)) (fun j other => ?_) List.nodup_range
        (List.mem_range.mpr small), acts]
      rw [acts]
      refine State.phevAt_of_other ?_
      obtain ⟨source, hub⟩ := (s.take f).source_remoteEvent k (s.ref k) f.pay j
      rw [source, hub]
      exact others j other

end Sys2Proof.Machine

/-! PROOFS. The grandmaster and IEEE 1588 on the host ports (R350 to R354). -/
namespace Sys2Proof.Machine

-- One theorem at a time, as in the tests: a theorem that waits for the kernel holds a stack of its own.
set_option Elab.async false

/-! ### Bytes of a payload -/

theorem length_be (k n : Nat) : (be k n).length = k := by
  induction k with
  | zero => rfl
  | succ k ih => rw [be, List.length_cons, ih]

/-- The bytes between a head and the rest. -/
theorem slice_middle {l m rest : List Byte} {i k : Nat} (before : l.length = i) (length : m.length = k) : slice (l ++ (m ++ rest)) i k = m := by
  subst before length
  apply List.ext_getElem
  · simp [slice]
  · intro i _ small
    simp [slice, List.getD, List.getElem?_append_right, List.getElem?_append_left small, List.getElem?_eq_getElem small]

section
variable {s : State} {p : HPort} {m : Ptp} {t1 t2 t4 : Nat}

@[simp] theorem State.ns_setPtp (s : State) (p : HPort) (q : PtpPort) : (s.setPtp p q).ns = s.ns := by
  cases p <;> simp [State.setPtp, State.ns]

@[simp] theorem State.ns_emit (s : State) (x : Emit) : (s.emit x).ns = s.ns := by simp [State.ns]

/-! ### A slave port -/

section
variable (mine : s.ptpMine p m = true) (slave : s.ptpRole p = 1)
include mine slave

theorem execPtpSync_of_slave : exec (.ptpSync p m t2) s = if m.twoStep then .next (s.setPtp p { s.ptp p with wait := some (m.seq, t2, m.corr) })
    else .next (s.syncDone p (s.ptp p) ((t2 : Int) - m.ts - m.corr)) :=
  if_neg (by simp [mine, slave])

theorem execPtpFollowUp_of_wait {c : Int} (waits : (s.ptp p).wait = some (m.seq, t2, c)) :
    exec (.ptpFollowUp p m) s = .next (s.syncDone p (s.ptp p) ((t2 : Int) - m.ts - c - m.corr)) := by
  change execPtpFollowUp p m s = _
  unfold execPtpFollowUp
  refine (if_neg (by simp [mine, slave])).trans ?_
  rw [waits]
  exact if_pos rfl

theorem execPtpFollowUp_of_none (none_ : (s.ptp p).wait = none) : exec (.ptpFollowUp p m) s = .next s := by
  change execPtpFollowUp p m s = _
  unfold execPtpFollowUp
  refine (if_neg (by simp [mine, slave])).trans ?_
  rw [none_]

theorem execPtpDelayResp_of_fwd {w : Int} (fwd : (s.ptp p).fwd = some w) (e2e : s.ptpPeer p = false) : exec (.ptpDelayResp p m t1) s =
    .next (s.setPtp p { s.ptp p with delay := (w + ((m.ts : Int) - t1 - m.corr)) / 2 }) := by
  change execPtpDelayResp p m t1 s = _
  unfold execPtpDelayResp
  simp only [fwd]
  exact if_pos (by simp [mine, slave, e2e])

end

/-! ### Peer delay -/

section
variable (mine : s.ptpMine p m = true) (slave : s.ptpRole p = 1) (peer : s.ptpPeer p = true)
include mine slave peer

theorem execPtpPdelayResp_of_peer : exec (.ptpPdelayResp p m t1 t4) s =
    if m.twoStep then .next (s.setPtp p { s.ptp p with pwait := some (m.seq, (t4 : Int) - t1 - m.corr, m.ts) })
    else .next (s.setPtp p { s.ptp p with delay := ((t4 : Int) - t1 - m.corr) / 2 }) :=
  if_neg (by simp [mine, slave, peer])

theorem execPtpPdelayRespFollowUp_of_wait {rt : Int} (waits : (s.ptp p).pwait = some (m.seq, rt, t2)) : exec (.ptpPdelayRespFollowUp p m) s =
    .next (s.setPtp p { s.ptp p with pwait := none, delay := (rt - ((m.ts : Int) - t2) - m.corr) / 2 }) := by
  change execPtpPdelayRespFollowUp p m s = _
  unfold execPtpPdelayRespFollowUp
  refine (if_neg (by simp [mine, slave, peer])).trans ?_
  rw [waits]
  exact if_pos rfl

end

/-! ### A master port -/

/-- Whether a message that was last sent at a time, if ever, is due again. -/
def State.dueAgain (s : State) (last : Option Nat) (gap : Nat) : Bool := !last.any fun t => decide (s.up < t + gap)

theorem State.dueAgain_of_late {last : Option Nat} {gap : Nat} (late : ∀ t, last = some t → t + gap ≤ s.up) : s.dueAgain last gap = true := by
  unfold State.dueAgain
  rw [(Option.any_eq_false _ _).mpr fun t here => decide_eq_false (not_lt.mpr (late t here))]
  rfl

theorem State.dueAgain_of_early {last : Option Nat} {gap t : Nat} (here : last = some t) (early : s.up < t + gap) : s.dueAgain last gap = false := by
  unfold State.dueAgain
  rw [(Option.any_eq_true _ _).mpr ⟨t, here, decide_eq_true early⟩]
  rfl

/-- What an Announce of this hub says of its time: from its grandmaster, or its own. -/
def State.announceData (s : State) : Nat :=
  if s.flag F.TIM_STAT_GM then s.tim.gmIdent * 2 ^ 24 + s.get F.TIM_GMSTAT_CLASS * 2 ^ 16 + (s.get F.TIM_GMSTAT_STEPS + 1) * 2 ^ 8 + 0x40
  else 248 * 2 ^ 16 + 0xA0

theorem execPtpSyncSend_of_master (master : s.ptpRole p = 2) (locked : s.timeLocked = true) : exec (.ptpSyncSend p) s =
    let sync := s.dueAgain (s.ptp p).syncSent (s.ptpSyncTime p)
    let ann := s.dueAgain (s.ptp p).annSent (s.annTime p)
    let t := s.setPtp p { s.ptp p with
      syncSent := if sync then some s.up else (s.ptp p).syncSent
      annSent := if ann then some s.up else (s.ptp p).annSent }
    let u := if sync then t.emit (.ptp p.ix 0 0 t.ns) else t
    .next (if ann then u.emit (.ptp p.ix 11 s.announceData u.ns) else u) :=
  if_pos ⟨master, locked⟩

theorem execTgmrSend_of_waits (waits : (s.ptp p).ogm = none ∨ s.dueAgain (s.ptp p).tgmrSent s.syncTime = false) : exec (.tgmrSend p) s = .next s := by
  change execTgmrSend p s = _
  unfold execTgmrSend
  cases offset : (s.ptp p).ogm with
  | none => simp only [offset]
  | some o =>
    have early : (s.ptp p).tgmrSent.any (fun t => decide (s.up < t + s.syncTime)) = true := by
      simpa [State.dueAgain, offset] using waits
    simp only [offset, early, or_true, if_true]

/-- A measured offset goes to the master. -/
theorem execTgmrSend_of_due {o : Int} (offset : (s.ptp p).ogm = some o) (slave : s.ptpRole p = 1) (valid : (s.ptp p).annOk = true)
    (due : s.dueAgain (s.ptp p).tgmrSent s.syncTime = true) : ∃ f, exec (.tgmrSend p) s =
      .next ((s.setPtp p { s.ptp p with ogm := none, tgmrSent := some s.up }).sendPosted 5 f)
      ∧ f.tt = .mgt ∧ f.dst = s.get F.RNG_RSTAT_MASTER_HUB ∧ f.len = 24 ∧ slice f.pay 4 8 = be 8 (unsgn 64 o) := by
  have ripe : (s.ptp p).tgmrSent.any (fun t => decide (s.up < t + s.syncTime)) = false := by simpa [State.dueAgain] using due
  change ∃ f, execTgmrSend p s = _ ∧ _
  unfold execTgmrSend
  simp only [offset, slave, valid, ripe, ne_eq, not_true_eq_false, Bool.not_true, Bool.false_eq_true, or_self, if_false]
  refine ⟨_, rfl, rfl, rfl, rfl, ?_⟩
  have front (a b c d : Nat) : (be 1 a ++ be 1 b ++ be 1 c ++ be 1 d).length = 4 := by simp [length_be]
  rw [List.append_assoc, List.append_assoc, List.append_assoc]
  exact slice_middle (front _ _ _ _) (length_be 8 _)

/-! ### TGMR at the master -/

/-- The input that a TGMR names. -/
def tgmrInput (f : Frame) : Nat := beAt f.pay 1 1 % 2

/-- The hub of a time input. -/
def State.inputHub (s : State) (i : Nat) : Nat := s.get (if i = 0 then F.TIM_TIN_HUBA else F.TIM_TIN_HUBB)

/-- The state once a TGMR has shown that its input is alive. -/
def State.tgmrHeard (s : State) (i : Nat) : State :=
  (s.onTim fun t => { t with tgmrOk := setAt t.tgmrOk i true, tgmrAt := setAt t.tgmrAt i s.up }).showInputs

/-- The state once the grandmaster of a TGMR is shown. -/
def State.tgmrShown (s : State) (f : Frame) : State :=
  (((s.set F.TIM_GMSTAT_CLASS 0 (beAt f.pay 2 1)).set F.TIM_GMSTAT_STEPS 0 (beAt f.pay 3 1)).set F.TIM_UTCOFF_OFF 0 (beAt f.pay 12 2)).onTim
    fun t => { t with gmIdent := beAt f.pay 14 8 }

/-- Whether an offset is beyond the bound of unlocking. -/
def State.farOff (s : State) (o : Int) : Bool := decide (s.get F.TIM_LIMITS_UNLOCKTHR * 100 < o.natAbs)

theorem tgmr_listens {f : Frame} (master : s.master = true) (hub : (s.take f).inputHub (tgmrInput f) = f.src) :
    ¬((!(s.take f).master || decide ((s.take f).inputHub (tgmrInput f) ≠ f.src)) = true) := by
  simp only [Bool.or_eq_true, Bool.not_eq_true', decide_eq_true_eq, not_or]
  exact ⟨ne_false_of_eq_true master, not_not.mpr hub⟩

theorem tgmr_used {t : State} {i : Nat} (valid : t.flag F.TIM_GMSTAT_VALID = true) (used : t.get F.TIM_GMSTAT_INPUT = i) :
    ¬((!t.flag F.TIM_GMSTAT_VALID || decide (t.get F.TIM_GMSTAT_INPUT ≠ i)) = true) := by
  simp only [Bool.or_eq_true, Bool.not_eq_true', decide_eq_true_eq, not_or]
  exact ⟨ne_false_of_eq_true valid, not_not.mpr used⟩

section
variable {f : Frame} (fine : mgtRefused s.hubNum f = false)
include fine

theorem execTgmr_of_other (other : s.master = false ∨ (s.take f).inputHub (tgmrInput f) ≠ f.src) : exec (.tgmr f) s = .next (s.take f) := by
  refine (if_neg (ne_true_of_eq_false fine)).trans (if_pos ?_)
  simp only [Bool.or_eq_true, Bool.not_eq_true', decide_eq_true_eq]
  exact other

variable (master : s.master = true) (hub : (s.take f).inputHub (tgmrInput f) = f.src)
include master hub

theorem execTgmr_of_unused (unused : ((s.take f).tgmrHeard (tgmrInput f)).flag F.TIM_GMSTAT_VALID = false
    ∨ ((s.take f).tgmrHeard (tgmrInput f)).get F.TIM_GMSTAT_INPUT ≠ tgmrInput f) : exec (.tgmr f) s = .next ((s.take f).tgmrHeard (tgmrInput f)) := by
  refine (if_neg (ne_true_of_eq_false fine)).trans ((if_neg (tgmr_listens master hub)).trans (if_pos ?_))
  simp only [Bool.or_eq_true, Bool.not_eq_true', decide_eq_true_eq]
  exact unused

section
variable {g : State} (shown : g = ((s.take f).tgmrHeard (tgmrInput f)).tgmrShown f)
  (valid : ((s.take f).tgmrHeard (tgmrInput f)).flag F.TIM_GMSTAT_VALID = true)
  (used : ((s.take f).tgmrHeard (tgmrInput f)).get F.TIM_GMSTAT_INPUT = tgmrInput f)
include shown valid used

/-- A master that follows its grandmaster trims to the offset. -/
theorem execTgmr_of_following (gm : g.flag F.TIM_STAT_GM = true) :
    exec (.tgmr f) s = .next (g.gmTrim (sgn 64 (beAt f.pay 4 8) / 65536) (g.farOff (sgn 64 (beAt f.pay 4 8) / 65536))) := by
  have used := tgmr_used valid used
  subst shown
  exact (if_neg (ne_true_of_eq_false fine)).trans ((if_neg (tgmr_listens master hub)).trans ((if_neg used).trans (if_pos gm)))

/-- A master that must not step slews to a grandmaster far off, and follows one that is near. -/
theorem execTgmr_of_new (gm : g.flag F.TIM_STAT_GM = false) (held : g.tim.gmStepOk = false) : exec (.tgmr f) s =
    .next (if g.farOff (sgn 64 (beAt f.pay 4 8) / 65536) then g.gmTrim (sgn 64 (beAt f.pay 4 8) / 65536) true
      else (g.set F.TIM_STAT_GM 0 1).gmTrim (sgn 64 (beAt f.pay 4 8) / 65536) false) := by
  have used := tgmr_used valid used
  subst shown
  refine (if_neg (ne_true_of_eq_false fine)).trans ((if_neg (tgmr_listens master hub)).trans ((if_neg used).trans
    ((if_neg (ne_true_of_eq_false gm)).trans ((if_neg (ne_true_of_eq_false held)).trans ?_))))
  exact (apply_ite Host.Outcome.next _ _ _).symm

end

end

end

/-- Settles O45: a port's messages by its role and domain, what it sends by the intervals that have passed, TGMR by the input that it names. -/
theorem hostPortsKeepPtp : Obligations.HostPortsKeepPtp := by
  unfold Obligations.HostPortsKeepPtp
  refine ⟨fun s p m t1 t4 => ?_, fun s f x => ⟨fun late => congrArg Host.Outcome.next (if_neg (not_lt.mpr late)),
    fun early => congrArg Host.Outcome.next (if_pos early), fun bad => if_pos bad, fun fine => ?_⟩⟩
  · intro q
    refine ⟨fun other => ⟨?_, ?_, ?_, ?_, ?_, ?_, ?_⟩, fun mine slave => ⟨fun two => ?_, fun one => ?_, fun c waits => execPtpFollowUp_of_wait mine slave waits,
        fun none_ => execPtpFollowUp_of_none mine slave none_, fun w fwd e2e => execPtpDelayResp_of_fwd mine slave fwd e2e, if_pos ⟨slave, mine⟩,
        if_neg (by simp [slave])⟩,
      fun mine master e2e locked => if_pos ⟨master, by simp [e2e], mine, locked⟩,
      fun mine slave peer => ⟨if_pos ⟨.inl slave, peer, mine⟩, fun one => ?_, fun two => ?_, fun rt t2 waits => execPtpPdelayRespFollowUp_of_wait mine slave peer waits⟩,
      fun h => if_neg ?_, fun master locked own sync ann => ?_, fun a master locked sync last early => ?_, fun over_ => congrArg Host.Outcome.next (if_neg ?_),
      fun valid early => congrArg Host.Outcome.next (if_pos ?_), rfl, fun none_ => execTgmrSend_of_waits (.inl none_),
      fun t last early => execTgmrSend_of_waits (.inr (State.dueAgain_of_early last early)),
      fun o offset slave valid due => execTgmrSend_of_due offset slave valid (State.dueAgain_of_late due)⟩
    · exact if_pos (by simp [other])
    · exact if_pos (by simp [other])
    · exact if_neg (by simp [other])
    · exact if_neg (by simp [other])
    · exact if_pos (by simp [other])
    · exact if_pos (by simp [other])
    · exact if_neg (by simp [other])
    · exact (execPtpSync_of_slave mine slave).trans (if_pos two)
    · exact (execPtpSync_of_slave mine slave).trans (if_neg (ne_true_of_eq_false one))
    · exact (execPtpPdelayResp_of_peer mine slave peer).trans (if_neg (ne_true_of_eq_false one))
    · exact (execPtpPdelayResp_of_peer mine slave peer).trans (if_pos two)
    · rintro ⟨master, locked⟩
      exact h.elim (absurd master) fun un => absurd locked (ne_true_of_eq_false un)
    · refine (execPtpSyncSend_of_master master locked).trans ?_
      rw [State.dueAgain_of_late sync, State.dueAgain_of_late ann, State.announceData, own]
      simp only [if_true, Bool.false_eq_true, if_false, State.ns_setPtp, State.ns_emit]
      rfl
    · refine (execPtpSyncSend_of_master master locked).trans ?_
      rw [State.dueAgain_of_late sync, State.dueAgain_of_early last early]
      simp only [if_true, Bool.false_eq_true, if_false, State.ns_setPtp]
      rfl
    · simp only [Bool.and_eq_true, decide_eq_true_eq]
      rintro ⟨valid, early⟩
      exact over_.elim (fun off => absurd valid (ne_true_of_eq_false off)) fun late => absurd early (not_lt.mpr late)
    · simp only [Bool.and_eq_true, decide_eq_true_eq]
      exact ⟨valid, early⟩
  · intro v i hub
    refine ⟨execTgmr_of_other fine, fun master here => ?_⟩
    intro u
    refine ⟨execTgmr_of_unused fine master here, fun valid used g shown => ?_⟩
    intro o far
    exact ⟨execTgmr_of_following fine master here shown valid used, execTgmr_of_new fine master here shown valid used⟩

end Sys2Proof.Machine

/-! PROOFS. CAN objects: reception, locks, transmission and run-time objects (R285 to R301). -/
namespace Sys2Proof.Machine

-- One theorem at a time, as in the tests: a theorem that waits for the kernel holds a stack of its own.
set_option Elab.async false

/-! ### Channels and objects of the controllers -/

section
variable {s : State} {c k : Nat} {o : CanObj}

@[simp] theorem State.canCh_setCanCh_self (s : State) (c : Nat) (q : CanCh) : (s.setCanCh c q).canCh c = q := by simp [State.canCh, State.setCanCh]
@[simp] theorem State.canCh_set (s : State) (g : Fld) (i v c : Nat) : (s.set g i v).canCh c = s.canCh c := by simp [State.canCh]
@[simp] theorem State.canCh_setB (s : State) (g : Fld) (i : Nat) (b : Bool) (c : Nat) : (s.setB g i b).canCh c = s.canCh c := by simp [State.canCh]
@[simp] theorem State.canCh_bump (s : State) (g : Fld) (i c : Nat) : (s.bump g i).canCh c = s.canCh c := by simp [State.canCh]
@[simp] theorem State.canCh_emit (s : State) (x : Emit) (c : Nat) : (s.emit x).canCh c = s.canCh c := by simp [State.canCh]
@[simp] theorem State.canCh_setCanObj (s : State) (k : Nat) (o : CanObj) (c : Nat) : (s.setCanObj k o).canCh c = s.canCh c := by
  simp [State.canCh, State.setCanObj]
@[simp] theorem State.canObj_set (s : State) (g : Fld) (i v k : Nat) : (s.set g i v).canObj? k = s.canObj? k := by simp [State.canObj?]
@[simp] theorem State.canObj_setB (s : State) (g : Fld) (i : Nat) (b : Bool) (k : Nat) : (s.setB g i b).canObj? k = s.canObj? k := by simp [State.canObj?]
@[simp] theorem State.canObj_bump (s : State) (g : Fld) (i k : Nat) : (s.bump g i).canObj? k = s.canObj? k := by simp [State.canObj?]
@[simp] theorem State.canObj_setCanCh (s : State) (c : Nat) (q : CanCh) (k : Nat) : (s.setCanCh c q).canObj? k = s.canObj? k := by
  simp [State.canObj?, State.setCanCh]
@[simp] theorem State.canObj_setCanObj_self (s : State) (k : Nat) (o : CanObj) : (s.setCanObj k o).canObj? k = some o := by
  simp [State.canObj?, State.setCanObj, Tbl.find?_put_self]
@[simp] theorem State.get_setCanCh (s : State) (c : Nat) (q : CanCh) (g : Fld) (i : Nat) : (s.setCanCh c q).get g i = s.get g i := by simp [State.setCanCh]
@[simp] theorem State.get_setCanObj (s : State) (k : Nat) (o : CanObj) (g : Fld) (i : Nat) : (s.setCanObj k o).get g i = s.get g i := by
  simp [State.setCanObj]
@[simp] theorem State.onlyIn_setCanCh {ps : List Part} (s t : State) (c : Nat) (q : CanCh) (mem : .can ∈ ps) :
    s.OnlyIn ps (t.setCanCh c q) ↔ s.OnlyIn ps t := by simp [State.setCanCh, mem]
@[simp] theorem State.wordsBut_setCanCh {ks : List Nat} (s t : State) (c : Nat) (q : CanCh) : s.WordsBut ks (t.setCanCh c q) ↔ s.WordsBut ks t := by
  simp [State.setCanCh]
@[simp] theorem State.wordsBut_setCanObj {ks : List Nat} (s t : State) (k : Nat) (o : CanObj) : s.WordsBut ks (t.setCanObj k o) ↔ s.WordsBut ks t := by
  simp [State.setCanObj]

/-- The registers that show the errors of a channel. -/
theorem State.wordsBut_showErrors (s : State) (c : Nat) : s.WordsBut [F.CNnn_ERRCNT_TEC.key c, F.CNnn_STAT_ECS.key c] (s.showErrors c) := by
  have rec_ : F.CNnn_ERRCNT_REC.key c = F.CNnn_ERRCNT_TEC.key c := rfl
  have passive : F.CNnn_ERRCNT_RP.key c = F.CNnn_ERRCNT_TEC.key c := rfl
  have warn : F.CNnn_STAT_WARN.key c = F.CNnn_STAT_ECS.key c := rfl
  simp [State.showErrors, rec_, passive, warn]

@[simp] theorem State.can_showErrors (s : State) (c : Nat) : (s.showErrors c).can = s.can := by
  unfold State.showErrors
  extract_lets q t u
  have kept : u.can = s.can := by simp [u, t]
  split
  · exact kept
  · rw [State.setB_can, kept]

@[simp] theorem State.ckr_showErrors (s : State) (c : Nat) : (s.showErrors c).ckr = s.ckr := by
  unfold State.showErrors
  extract_lets q t u
  have kept : u.ckr = s.ckr := by simp [u, t]
  split
  · exact kept
  · rw [State.setB_ckr, kept]

/-- Showing the errors leaves the mode of the channel. -/
theorem State.mode_showErrors (s : State) (c : Nat) : (s.showErrors c).get F.CNnn_STAT_MODE_ACT c = s.get F.CNnn_STAT_MODE_ACT c := by
  unfold State.showErrors
  extract_lets q t u
  have kept : u.get F.CNnn_STAT_MODE_ACT c = s.get F.CNnn_STAT_MODE_ACT c := by
    simp (disch := decide) only [u, t, State.get_set_elsewhere, State.get_setB_elsewhere, State.get_setB_beside]
  split
  · exact kept
  · rw [State.get_setB_beside _ _ (by decide), kept]

/-! ### Reception -/

section
variable {f : CanFrame} {t : Nat}

theorem State.canReceive_of_none (none_ : s.canMatch c f = none) : s.canReceive c f t = s.bump F.CNnn_CNT_NOMATCH c := by
  unfold State.canReceive
  rw [none_]

theorem State.canReceive_of_free (found : s.canMatch c f = some (k, o)) (free : o.lock = none) : s.canReceive c f t = s.canStore k o f t false false := by
  unfold State.canReceive
  rw [found]
  exact if_pos (by simp [free])

section
variable {own : Nat × Nat} (found : s.canMatch c f = some (k, o)) (held : o.lock = some own)
include found held

theorem State.canReceive_of_first (empty : (s.canCh c).shadow = none) : s.canReceive c f t =
    (s.setCanObj k { o with fcnt := (o.fcnt + 1) % 65536 }).setCanCh c { s.canCh c with shadow := some { obj := k, fr := f, sof := t } } := by
  unfold State.canReceive
  rw [found]
  refine (if_neg (by simp [held])).trans ?_
  simp only [empty]

theorem State.canReceive_of_other {h : CanShadow} (full : (s.canCh c).shadow = some h) (other : h.obj ≠ k) : s.canReceive c f t =
    (s.setCanObj k { o with fcnt := (o.fcnt + 1) % 65536, lost := true }).bump F.CNnn_CNT_SHDROP c := by
  unfold State.canReceive
  rw [found]
  refine (if_neg (by simp [held])).trans ?_
  simp only [full]
  exact if_neg other

theorem State.canReceive_of_again {h : CanShadow} (full : (s.canCh c).shadow = some h) (same : h.obj = k) : s.canReceive c f t =
    ((s.setCanObj k { o with fcnt := (o.fcnt + 1) % 65536 }).setCanCh c
      { s.canCh c with shadow := some { obj := k, fr := f, sof := t, lost := true } }).bump F.CNnn_CNT_SHREPL c := by
  unfold State.canReceive
  rw [found]
  refine (if_neg (by simp [held])).trans ?_
  simp only [full]
  exact if_pos same

end

/-- An active channel that is not in detection acknowledges and counts a good frame. -/
theorem State.canGood_of_normal (mode : s.canMode c = 2) (few : (s.canCh c).recv ≤ 127) (settled : s.abdOn c = false) : s.canGood c f t =
    ((((s.emit (.canAck c)).bump F.CNnn_CNT_RXOK c).setCanCh c { s.canCh c with recv := (s.canCh c).recv - 1 }).showErrors c).canReceive c f t := by
  have off : ((((s.emit (.canAck c)).bump F.CNnn_CNT_RXOK c).setCanCh c { s.canCh c with recv := (s.canCh c).recv - 1 }).showErrors c).abdOn c = false := by
    have state : ((((s.emit (.canAck c)).bump F.CNnn_CNT_RXOK c).setCanCh c { s.canCh c with recv := (s.canCh c).recv - 1 }).showErrors c).get
        F.CNnn_ABD_STATE c = s.get F.CNnn_ABD_STATE c := by
      rw [(State.wordsBut_showErrors _ c).get (by simp [Fld.key])]
      simp (disch := decide) only [State.get_setCanCh, State.get_bump_elsewhere, State.emit_get]
    have shown : ((((s.emit (.canAck c)).bump F.CNnn_CNT_RXOK c).setCanCh c { s.canCh c with recv := (s.canCh c).recv - 1 }).showErrors c).get
        F.CNnn_STAT_MODE_ACT c = s.get F.CNnn_STAT_MODE_ACT c := by
      rw [State.mode_showErrors]
      simp (disch := decide) only [State.get_setCanCh, State.get_bump_elsewhere, State.emit_get]
    unfold State.abdOn
    rw [state, shown]
    exact settled
  unfold State.canGood
  simp only [mode, true_or, if_true, State.canCh_bump, State.canCh_emit, if_neg (not_lt.mpr few), off, Bool.false_eq_true, if_false]

end

/-! ### Locks -/

theorem execCanLockTimeout_of_obj (found : s.canObj? k = some o) : exec (.canLockTimeout k) s =
    .next (if o.lock.isSome && decide (o.lockAt + s.get F.CAN_LOCKTMO_TMO * 1000 ≤ s.up) then
      (s.canRelease k false).bump F.CNnn_CNT_LOCKTMO o.ch else s) := by
  change execCanLockTimeout k s = _
  unfold execCanLockTimeout
  rw [found]

/-- A lock that ends without a shadow frame leaves NEW and LOST. -/
theorem State.canRelease_of_alone (found : s.canObj? k = some o) (empty : (s.canCh o.ch).shadow = none) : s.canRelease k false =
    s.setCanObj k { o with lock := none, isNew := o.isNew && !false, lost := o.lost && !false } := by
  have still : ((s.setCanObj k { o with lock := none, isNew := o.isNew && !false, lost := o.lost && !false }).canCh o.ch).shadow = none := by
    rw [State.canCh_setCanObj, empty]
  unfold State.canRelease
  simp only [found, still]

/-! ### Writes of transmit objects -/

section
variable {f : Frame} (one : canRange f.offset f.pay.length = [k])
include one

/-- The command byte of the only object that a write names. -/
theorem canBit_of_one (first : f.offset ≤ 128 * k) (j : Nat) : canBit f j = bit (beAt f.pay (128 * k - f.offset) 1) j := by
  unfold canBit
  rw [one]
  simp [first]

/-- A write of an object that is absent or receives has no target. -/
theorem State.targetOf_of_no_tx (space : f.space = 3) (writes : f.tt = .wr ∨ f.tt = .wrn)
    (bad : s.canObj? k = none ∨ ∃ o, s.canObj? k = some o ∧ o.tx = false) : s.targetOf f = none := by
  have length : dataLen f = f.pay.length := by
    unfold dataLen State.logLen
    obtain h | h := writes <;> rw [h]
  have read : f.tt ≠ .rd := by
    obtain h | h := writes <;> rw [h] <;> decide
  have refused : (canRange f.offset (dataLen f)).all (fun k => (s.canObj? k).any fun o => decide (f.tt = .rd) || o.tx) = false := by
    rw [length, one]
    obtain absent | ⟨o, found, receives⟩ := bad
    · simp [absent]
    · simp [found, receives, read]
  unfold State.targetOf
  simp [space, refused]

/-- The bytes that a write gives the only object that it names. -/
def Frame.canPlace (f : Frame) (k j : Nat) : Option Byte := if f.offset ≤ 128 * k + j then f.pay[128 * k + j - f.offset]? else none

/-- A write of one transmit object of classical frames. -/
theorem canWriteFrame_of_one (found : s.canObj? k = some o) (sends : o.tx = true) (classic : (canFields o (f.canPlace k)).fr.fdf = false)
    (first : f.offset ≤ 128 * k) (inside : 128 * k - f.offset < f.pay.length) : canWriteFrame f s =
      let w := beAt f.pay (128 * k - f.offset) 1
      let n := canFields o (f.canPlace k)
      let n := if bit w 1 then canRequest s k n else n
      ({}, s.setCanObj k (if bit w 0 then canAbort s k n else n)) := by
  have head : ((f.canPlace k 0).getD 0).toNat = beAt f.pay (128 * k - f.offset) 1 := by
    unfold Frame.canPlace
    rw [if_pos (by omega), Nat.add_zero, List.getElem?_eq_getElem inside]
    simp [beAt, unbe, slice, List.getElem?_eq_getElem inside]
  rw [← head]
  unfold canWriteFrame canWrite
  rw [one]
  refine (if_neg ?_).trans ?_
  · have classic : (canFields o (fun j => if f.offset ≤ 128 * k + j then f.pay[128 * k + j - f.offset]? else none)).fr.fdf = false := classic
    simp [found, sends, classic]
  · simp only [List.foldl_cons, List.foldl_nil, found]
    rfl

end

theorem canRow_of_bit {f : Frame} {j : Nat} (writes : f.tt = .wr ∨ f.tt = .wrn) (asks : canBit f j = true) :
    canRow j f s = .next (atTarget f (fun t s => if t = .can then performWr t f s else s) s) :=
  congrArg Host.Outcome.next (if_pos ⟨writes, asks⟩)

theorem canRow_of_other {f : Frame} {j : Nat} (other : canBit f j = false) : canRow j f s = .next s :=
  congrArg Host.Outcome.next (if_neg fun h => absurd h.2 (ne_true_of_eq_false other))

/-! ### Transmission -/

@[simp] theorem State.canObj_showErrors (s : State) (c k : Nat) : (s.showErrors c).canObj? k = s.canObj? k := by simp [State.canObj?]

@[simp] theorem State.noteDone_get (s : State) (d : DoneItem) (g : Fld) (i : Nat) : (s.noteDone d).get g i = s.get g i := by
  unfold State.noteDone
  split <;> simp

@[simp] theorem State.noteDone_ckr (s : State) (d : DoneItem) : (s.noteDone d).ckr = s.ckr := by
  unfold State.noteDone
  split <;> rfl

/-- The mode of a channel follows from the registers of CKR, of TWN and of the channel. -/
theorem State.canMode_congr {t : State} (ckr : t.ckr = s.ckr) (reset : t.get F.CKR_BLKRST_BLK = s.get F.CKR_BLKRST_BLK)
    (gated : t.get F.CKR_GACK_BLK = s.get F.CKR_GACK_BLK) (role : t.get F.TWN_STAT_ROLE = s.get F.TWN_STAT_ROLE)
    (mode : t.get F.CNnn_STAT_MODE_ACT c = s.get F.CNnn_STAT_MODE_ACT c) : t.canMode c = s.canMode c := by
  unfold State.canMode State.blockBusy State.blockReset State.inPrelude State.passive
  rw [ckr, reset, gated, role, mode]

/-- The state in which a channel has ended its transmission. -/
def State.sendingEnded (s : State) (c : Nat) : State := (s.setCanCh c { s.canCh c with sending := none }).set F.CNnn_STAT_IDLE c 1

/-- The state in which a channel has counted a frame that it sent. -/
def State.sentCounted (s : State) (c : Nat) : State :=
  (((s.sendingEnded c).bump F.CNnn_CNT_TXOK c).setCanCh c { s.canCh c with sending := none, tec := (s.canCh c).tec - 1 }).showErrors c

/-- The end of a transmission leaves the mode of its channel. -/
theorem State.canMode_canEnd (s : State) (small : c < 16) (k : Nat) (o : CanObj) (st : Nat) (sof : Option Nat) :
    ((s.sentCounted c).canEnd k o st sof).canMode c = s.canMode c := by
  have kept (g : Fld) (i : Nat) : ((s.sentCounted c).canEnd k o st sof).get g i = (s.sentCounted c).get g i := by simp [State.canEnd]
  have words : s.WordsBut [F.CNnn_STAT_IDLE.key c, F.CNnn_CNT_TXOK.key c, F.CNnn_ERRCNT_TEC.key c] (s.sentCounted c) := by
    refine State.WordsBut.trans (t := ((s.sendingEnded c).bump F.CNnn_CNT_TXOK c).setCanCh c
      { s.canCh c with sending := none, tec := (s.canCh c).tec - 1 }) (by simp [State.sendingEnded]) ?_
    exact (State.wordsBut_showErrors _ c).mono (by simp [show F.CNnn_STAT_ECS.key c = F.CNnn_STAT_IDLE.key c from rfl])
  have far (g : Fld) (high : 0x80000 ≤ g.off) : ((s.sentCounted c).canEnd k o st sof).get g = s.get g := by
    rw [kept]
    refine words.get ?_
    simp only [List.mem_cons, List.not_mem_nil, or_false, Fld.key]
    omega
  refine State.canMode_congr ?_ (far _ (by decide)) (far _ (by decide)) (far _ (by decide)) ?_
  · simp [State.canEnd, State.setCanObj, State.sentCounted, State.sendingEnded, State.setCanCh]
  · rw [kept, State.sentCounted, State.mode_showErrors]
    simp (disch := decide) only [State.get_setCanCh, State.get_bump_elsewhere, State.sendingEnded, State.get_set_beside]

/-- The state once the outcome of a transmission is counted: 0 sent, 1 arbitration lost. -/
def State.txCounted (s : State) (c outcome : Nat) : State :=
  if outcome = 0 then
    (((s.sendingEnded c).bump F.CNnn_CNT_TXOK c).setCanCh c
      { (s.sendingEnded c).canCh c with tec := ((s.sendingEnded c).canCh c).tec - 1 }).showErrors c
  else if outcome = 1 then (s.sendingEnded c).bump F.CNnn_CNT_ARBLOST c else s.sendingEnded c

/-- What the end of a transmission leaves of its object. -/
def State.txObjEnds (s : State) (k sof outcome : Nat) : State :=
  match s.canObj? k with
  | none => s
  | some o =>
    let t := s.canEnd k o (if outcome = 0 then 2 else if o.abort then 6 else if outcome = 1 then 3 else 4) (some sof)
    if decide (outcome = 0) || o.oneshot || o.abort then
      if o.again then t.setCanObj k { (t.canObj? k).getD o with txreq := true } else t
    else s

section
variable {g : CanFrame} {sof : Nat} (sending : (s.canCh c).sending = some (k, g, sof))
include sending

theorem execCanTxComplete_of_sending (outcome : Nat) : exec (.canTxComplete c outcome) s =
    let t := (s.txCounted c outcome).txObjEnds k sof outcome
    .next (if outcome = 0 ∧ t.canMode c = 5 then t.canGood c g sof else t) := by
  change execCanTxComplete c outcome s = _
  unfold execCanTxComplete
  extract_lets q
  rw [show q.sending = some (k, g, sof) from sending]
  rfl

/-- A frame that lost arbitration and has no object leaves the bus. -/
theorem execCanTxComplete_of_orphan (absent : s.canObj? k = none) :
    exec (.canTxComplete c 1) s = .next ((s.sendingEnded c).bump F.CNnn_CNT_ARBLOST c) := by
  have gone : (s.txCounted c 1).canObj? k = none := by simpa [State.txCounted, State.sendingEnded] using absent
  rw [execCanTxComplete_of_sending sending]
  refine congrArg Host.Outcome.next ((if_neg (by simp)).trans ?_)
  rw [State.txObjEnds, gone]
  rfl

/-- A frame that lost arbitration is tried again, but for ONESHOT and an abort. -/
theorem execCanTxComplete_of_retry (found : s.canObj? k = some o) (repeats : o.oneshot = false) (wanted : o.abort = false) :
    exec (.canTxComplete c 1) s = .next ((s.sendingEnded c).bump F.CNnn_CNT_ARBLOST c) := by
  have here : (s.txCounted c 1).canObj? k = some o := by simpa [State.txCounted, State.sendingEnded] using found
  rw [execCanTxComplete_of_sending sending]
  refine congrArg Host.Outcome.next ((if_neg (by simp)).trans ?_)
  rw [State.txObjEnds, here]
  exact if_neg (by simp [repeats, wanted])

/-- A frame that was sent ends its attempt with TXST 2. -/
theorem execCanTxComplete_of_sent (found : s.canObj? k = some o) (once : o.again = false) (mode : s.canMode c ≠ 5) (small : c < 16) :
    exec (.canTxComplete c 0) s = .next ((s.sentCounted c).canEnd k o 2 (some sof)) := by
  have counted : s.txCounted c 0 = s.sentCounted c := by simp [State.txCounted, State.sentCounted, State.sendingEnded]
  have here : (s.sentCounted c).canObj? k = some o := by simpa [State.sentCounted, State.sendingEnded] using found
  have ends : (s.sentCounted c).txObjEnds k sof 0 = (s.sentCounted c).canEnd k o 2 (some sof) := by
    rw [State.txObjEnds, here]
    exact (if_pos rfl).trans (if_neg (ne_true_of_eq_false once))
  rw [execCanTxComplete_of_sending sending, counted, ends]
  refine congrArg Host.Outcome.next (if_neg ?_)
  rw [State.canMode_canEnd s small]
  exact fun h => mode h.2

end

/-! ### Arbitration -/

theorem execCanArbitration_of_waits (waits : (s.canCh c).sending ≠ none ∨ (s.canCh c).integrated = false ∨ s.canMode c ≤ 1) :
    exec (.canArbitration c) s = .next s := by
  refine if_pos ?_
  obtain busy | apart | off := waits
  · exact .inr (.inr (.inr (.inl (Option.isSome_iff_ne_none.mpr busy))))
  · exact .inr (.inr (.inl (by simp [apart])))
  · exact .inl (by omega)

/-- The frame that an object offers to the bus. -/
def State.busFrame (s : State) (c : Nat) (o : CanObj) : CanFrame :=
  { o.fr with brs := o.fr.brs && o.fr.fdf, esi := decide (s.get F.CNnn_STAT_ECS c = 1), data := o.fr.data.take o.fr.len }

theorem execCanArbitration_of_one (mode : s.canMode c = 2) (still : s.twn.veering = false) (integrated : (s.canCh c).integrated = true)
    (idle : (s.canCh c).sending = none) (on : s.get F.CNnn_STAT_ECS c ≠ 2)
    (one : (s.can.objs.filter fun p => p.2.tx && p.2.txreq && decide (p.2.ch = c)) = [(k, o)]) : exec (.canArbitration c) s =
      .next (((s.setCanCh c { s.canCh c with sending := some (k, s.busFrame c o, s.sofTime c 0) }).set F.CNnn_STAT_IDLE c 0).emit (.can c (s.busFrame c o))) := by
  have wins : ([(k, o)].find? fun p => [(k, o)].all fun x => decide (p.2.fr.rank ≤ x.2.fr.rank)) = some (k, o) := by simp
  change execCanArbitration c s = _
  unfold execCanArbitration
  refine (if_neg (by simp [mode, still, integrated, idle, on])).trans ?_
  rw [one]
  simp only [wins, mode, if_true]
  rfl

theorem execCantxRequest_of_handed {h : Handed} {l : List Handed} {v : Obj} (head : s.epo.handed = h :: l) (kind : h.kind = 10)
    (found : s.canObj? h.index = some o) (sends : o.tx = true) (obj : s.obj? h.obj = some v) : exec .cantxRequest s =
      let u := s.onEpo fun e => { e with handed := l }
      .next ((u.setCanObj h.index (canRequest u h.index { o with
        fr := { o.fr with data := patch (slice o.fr.data 0 64) 0 (be (typeBytes v.type) h.value) } })).sinkOk h.obj) := by
  have taken : (s.onEpo fun e => { e with handed := e.handed.eraseP fun h => decide (h.kind = 10) }) = s.onEpo fun e => { e with handed := l } := by
    simp [State.onEpo, head, kind]
  have next : (s.epo.handed.find? fun h => decide (h.kind = 10)) = some h := by simp [head, kind]
  have here : (s.onEpo fun e => { e with handed := l }).canObj? h.index = some o := found
  have obj : (s.onEpo fun e => { e with handed := l }).obj? h.obj = some v := obj
  change execCantxRequest s = _
  unfold execCantxRequest
  simp only [next, taken, here, obj, sends, Bool.not_true, Bool.false_eq_true, if_false, Option.map_some, Option.getD_some]

/-! ### Run-time objects -/

section
variable {f : Frame} {x : RegRow} (wr : s.WritesReg f F.CAN_CMD_OP 0 x) (mine : s.holds .can f.src f.init = true)
include wr mine

theorem State.WritesReg.canCommand {n : Nat} {a : State.Res} {t : State} (op : wordOf f % 4 = n)
    (run : (if wordOf f % 4 = 1 then canAlloc (s.unlock .can) else if wordOf f % 4 = 2 then ({}, canFree (bits (wordOf f) 14 2) (s.unlock .can))
      else ({}, s.unlock .can)) = (a, t)) : lockRow .can n f s = .next (t.settle 5 f a) := by
  have aim : (atReg f LockId.can.cmd.1 && decide (wordOf f % LockId.can.cmd.2 = n)) = true := by
    rw [show atReg f LockId.can.cmd.1 = true from wr.at_first (by decide), show wordOf f % LockId.can.cmd.2 = n from op]
    simp
  refine wr.ends aim ((writeEffect_can wr.name).trans ?_)
  simp only [writeCan, wr.name, locked_of_holds mine, run]
  rfl

end

theorem canFree_of_obj (found : s.canObj? k = some o) : canFree k s =
    if k < s.get F.CAN_OBJ_USED_DEF then canRes s (s.get F.CAN_CMD_RES_INDEX) 4
    else if o.lock.isSome || (match (s.canCh o.ch).sending with | some (j, _, _) => decide (j = k) | none => false) then
      canRes s (s.get F.CAN_CMD_RES_INDEX) 5
    else canRes (s.onCan fun c => { c with objs := Tbl.erase c.objs k }) (s.get F.CAN_CMD_RES_INDEX) 0 := by
  unfold canFree
  rw [found] <;> rfl

/-- The object that CAN_OBJ_ALLOC makes of its arguments. -/
def State.newCanObj (s : State) : CanObj :=
  { tx := s.flag F.CAN_CMD_ARG0_DIR, ch := s.get F.CAN_CMD_ARG0_CHAN, mask := if s.flag F.CAN_CMD_ARG0_DIR then 0 else s.get F.CAN_CMD_ARG2
    oneshot := s.flag F.CAN_CMD_ARG0_DIR && s.flag F.CAN_CMD_ARG0_ONESHOT
    fr := { ide := true, fdf := false, id := s.get F.CAN_CMD_ARG1, dlc := 0, data := zeros 64 } }

theorem canAlloc_of_extended (ide : s.flag F.CAN_CMD_ARG0_IDE = true) (classic : s.flag F.CAN_CMD_ARG0_FDF = false)
    (unused : canUsed s s.newCanObj = false) : canAlloc s =
      match Tbl.firstFree s.can.objs (s.get F.CAN_OBJ_USED_DEF) (8192 - s.get F.CAN_OBJ_USED_DEF) with
      | none => ({ st := .nores }, (canRes s (s.get F.CAN_CMD_RES_INDEX) 1).bump F.CAN_CNT_EXH)
      | some k => ({}, canRes (s.setCanObj k s.newCanObj) k 0) := by
  unfold canAlloc
  simp only [ide, classic, Bool.and_false]
  refine (if_neg (by simp)).trans ((if_neg (ne_true_of_eq_false unused)).trans ?_)
  rfl

end

/-- Settles O46: reception by the mode and the lock, writes by the object that they name, an attempt by its result, run-time objects by their number. -/
theorem canObjectsHoldFrames : Obligations.CanObjectsHoldFrames := by
  unfold Obligations.CanObjectsHoldFrames
  refine ⟨fun s c f t k o => ⟨State.canReceive_of_none, State.canReceive_of_free, fun own found held => ?_, fun mode good age => ?_, fun bad age => ?_,
      fun mode few settled _ => State.canGood_of_normal mode few settled, fun own found held => ⟨fun late => ?_, fun early => ?_⟩, fun found free => ?_,
      fun own found held empty => ?_⟩,
    fun s f k cls one writes first => ?_, fun s c k o => ?_, fun s f x wr mine => ?_⟩
  · intro n q
    exact ⟨State.canReceive_of_first found held, fun h => State.canReceive_of_other found held, fun h => State.canReceive_of_again found held⟩
  · refine (if_neg ?_).trans (if_pos mode)
    rintro ⟨fd, remote | off⟩
    · obtain classic | ⟨data, -⟩ := good <;> simp_all
    · obtain classic | ⟨-, on⟩ := good <;> simp_all
  · obtain off | ⟨fd, remote | off⟩ := bad
    · change (if _ then _ else _) = _
      split
      · rfl
      · exact if_neg (by omega)
    · exact if_pos ⟨fd, .inl remote⟩
    · exact if_pos ⟨fd, .inr (by simp [off])⟩
  · refine (execCanLockTimeout_of_obj found).trans (congrArg Host.Outcome.next (if_pos ?_))
    simp [held, late]
  · refine (execCanLockTimeout_of_obj found).trans (congrArg Host.Outcome.next (if_neg ?_))
    simp [early]
  · refine (execCanLockTimeout_of_obj found).trans (congrArg Host.Outcome.next (if_neg ?_))
    simp [free]
  · rw [State.canRelease_of_alone found empty]
    simp [State.canObj?, State.setCanObj, State.onCan, Tbl.find?_put_self]
  · intro w
    have bits (j : Nat) : canBit f j = bit w j := canBit_of_one one first j
    have runs (j : Nat) (asks : bit w j = true) := canRow_of_bit (s := s) writes ((bits j).trans asks)
    refine ⟨fun space cls bad => ?_, fun o passes ready found inside => ?_, fun off => canRow_of_other ((bits 1).trans off), fun off => canRow_of_other ((bits 0).trans off)⟩
    · have refused := atTarget_of_targetOf_none (fun t s => if t = .can then performWr t f s else s) (.inr (State.targetOf_of_no_tx one space writes bad))
      exact ⟨fun asks => (runs 1 asks).trans (congrArg Host.Outcome.next refused), fun asks => (runs 0 asks).trans (congrArg Host.Outcome.next refused)⟩
    · intro place n sends classic
      have performed : atTarget f (fun t s => if t = .can then performWr t f s else s) s = State.answered .can f (canWriteFrame f s) :=
        passes.run (by simp [Target.block, ready]) _
      have written := canWriteFrame_of_one one found sends classic first inside
      refine ⟨fun asks no => (runs 1 asks).trans (congrArg Host.Outcome.next ?_), fun no asks => (runs 0 asks).trans (congrArg Host.Outcome.next ?_)⟩
      · rw [performed, written]
        simp only [show bit (beAt f.pay (128 * k - f.offset) 1) 1 = true from asks, show bit (beAt f.pay (128 * k - f.offset) 1) 0 = false from no]
        rfl
      · rw [performed, written]
        simp only [show bit (beAt f.pay (128 * k - f.offset) 1) 1 = false from no, show bit (beAt f.pay (128 * k - f.offset) 1) 0 = true from asks]
        rfl
  · intro q
    refine ⟨execCanArbitration_of_waits, fun mode still integrated idle on one => execCanArbitration_of_one mode still integrated idle on one,
      fun n idle => ?_, fun x sending absent => ⟨_, execCanTxComplete_of_orphan sending absent, ?_, ?_, ?_⟩,
      fun x sending found repeats wanted => execCanTxComplete_of_retry sending found repeats wanted,
      fun x sending found once mode small => execCanTxComplete_of_sent sending found once mode small, fun none_ => ?_,
      fun h l v head kind index found sends obj => ?_⟩
    · change execCanTxComplete c n s = _
      unfold execCanTxComplete
      simp only [show (s.canCh c).sending = none from idle]
    · simp [State.sendingEnded]
    · rw [(State.bump_counts _ _ _ (by decide) (by decide)).1]
      simp (disch := decide) only [State.sendingEnded, State.get_set_elsewhere, State.get_setCanCh]
    · simp [State.sendingEnded]
    · change execCantxRequest s = _
      unfold execCantxRequest
      rw [none_]
      rfl
    · subst index
      exact execCantxRequest_of_handed head kind found sends obj
  · intro w u k old
    refine ⟨fun op => wr.canCommand mine op (if_pos op), fun op => ?_, ?_⟩
    · have run {t : State} (free : canFree k u = t) : exec (.canObjFree f) s = .next (t.settle 5 f {}) :=
        wr.canCommand mine op ((if_neg (by omega)).trans ((if_pos op).trans (Prod.ext rfl free)))
      refine ⟨fun none_ => run ?_, fun o found => ⟨fun image => run ?_, fun runtime held => run ?_, fun runtime free idle => run ?_⟩⟩
      · unfold canFree
        rw [none_]
      · exact (canFree_of_obj found).trans (if_pos image)
      · exact (canFree_of_obj found).trans ((if_neg (not_lt.mpr runtime)).trans (if_pos (by simp [Option.isSome_iff_ne_none.mpr held])))
      · exact (canFree_of_obj found).trans ((if_neg (not_lt.mpr runtime)).trans (if_neg (by simp [free, idle])))
    · intro tx n ide classic unused d
      have made : n = u.newCanObj := by simp only [n, State.newCanObj, tx]
      refine ⟨fun full => ?_, fun j free => ?_⟩
      · rw [canAlloc_of_extended ide classic (made ▸ unused), show Tbl.firstFree u.can.objs (u.get F.CAN_OBJ_USED_DEF) _ = none from full]
      · rw [canAlloc_of_extended ide classic (made ▸ unused), show Tbl.firstFree u.can.objs (u.get F.CAN_OBJ_USED_DEF) _ = some j from free, made]

end Sys2Proof.Machine

/-! PROOFS. CAN channels: modes, errors, bus-off, recovery and detection. -/

namespace Sys2Proof.Machine

-- One theorem at a time, as in the tests: a theorem that waits for the kernel holds a stack of its own.
set_option Elab.async false

section
variable {s : State} {c : Nat}

/-! ### Writes of the mode -/

section
variable {f : Frame} {x : RegRow} (wr : s.WritesReg f F.CNnn_CTL_MODE c x) (small : c < 16)
include wr small

theorem State.WritesReg.canCtl {aim : Bool} {a : State.Res} {t : State} (on : aim = true) (run : canCtl c (wordOf f) s = (a, t)) :
    regRow f (atReg f F.CNnn_CTL_MODE 16 && aim) s = .next (t.settle 5 f a) := by
  have here : atReg f F.CNnn_CTL_MODE 16 = true := wr.at_reg (by decide) small
  refine wr.ends (by rw [here, on]; rfl) ((writeEffect_can wr.name).trans ?_)
  have channel : F.CNnn_CTL_MODE.mult * c / 0x1000 = c := by exact (congrArg (· / 0x1000) (Nat.mul_comm _ _)).trans (Nat.mul_div_cancel c (by decide))
  unfold writeCan
  rw [if_pos wr.name, channel, run]

theorem execCanModeWrite_of_run {a : State.Res} {t : State} (run : Machine.canCtl c (wordOf f) s = (a, t)) :
    exec (.canModeWrite f) s = .next (t.settle 5 f a) := by
  have same : exec (.canModeWrite f) s = regRow f (atReg f F.CNnn_CTL_MODE 16 && true) s := by rw [Bool.and_true]; rfl
  exact same.trans (wr.canCtl small rfl run)

end

/-- The state in which a mode is requested of a channel. -/
def State.canAsked (s : State) (c m : Nat) : State := (s.set F.CNnn_CTL_MODE c m).setCanCh c { s.canCh c with request := some m }

theorem canCtl_of_mode {w : Nat} (mode : w % 8 ≤ 5) (active : w % 8 ≠ 4) (off : s.abdOn c = false) : canCtl c w s =
    ({}, if bit w 3 && decide (s.get F.CNnn_STAT_ECS c = 2) && !s.flag F.CNnn_STAT_RECOVERING c then (s.canAsked c (w % 8)).canRecover c
      else s.canAsked c (w % 8)) := by
  have ecs : (s.canAsked c (w % 8)).get F.CNnn_STAT_ECS c = s.get F.CNnn_STAT_ECS c := by
    simp (disch := decide) only [State.canAsked, State.get_setCanCh, State.get_set_elsewhere]
  have recovering : (s.canAsked c (w % 8)).flag F.CNnn_STAT_RECOVERING c = s.flag F.CNnn_STAT_RECOVERING c := by
    simp (disch := decide) only [State.canAsked, State.flag, State.get_setCanCh, State.get_set_elsewhere]
  rw [← ecs, ← recovering]
  unfold canCtl
  refine (if_neg (by omega)).trans ((if_neg fun h => active h.1).trans ?_)
  simp only [off, Bool.false_eq_true, if_false]
  rfl

/-! ### Errors and bus-off -/

/-- The state in which an error of a channel is shown. -/
def State.canErrorShown (s : State) (c lec : Nat) (data : Bool) : State := (s.set F.CNnn_STAT_LEC c lec).setB F.CNnn_STAT_DPE c data

theorem State.wordsBut_canErrorShown (s : State) (c lec : Nat) (data : Bool) : s.WordsBut [F.CNnn_STAT_LEC.key c] (s.canErrorShown c lec data) := by
  simp [State.canErrorShown, show F.CNnn_STAT_DPE.key c = F.CNnn_STAT_LEC.key c from rfl]

theorem State.get_canErrorShown {g : Fld} (lec_ : g.beside F.CNnn_STAT_LEC = true) (dpe : g.beside F.CNnn_STAT_DPE = true) (lec : Nat) (data : Bool) :
    (s.canErrorShown c lec data).get g c = s.get g c := by
  unfold State.canErrorShown
  rw [State.get_setB_beside _ _ dpe, State.get_set_beside _ _ lec_]

theorem State.abdOn_canErrorShown (s : State) (c lec : Nat) (data : Bool) : (s.canErrorShown c lec data).abdOn c = s.abdOn c := by
  unfold State.abdOn
  simp (disch := decide) only [State.canErrorShown, State.get_setB_elsewhere, State.get_setB_beside, State.get_set_elsewhere, State.get_set_beside]

theorem execCanBusError_of_settled (on : 2 ≤ s.canMode c) (off : s.abdOn c = false) (lec add : Nat) (data tx : Bool) :
    exec (.canBusError c lec add data tx false) s =
      if (s.canMode c = 2 ∨ s.canMode c = 5) ∧ s.get F.CNnn_STAT_ECS c ≠ 2 then
        .next (((s.canErrorShown c lec data).setCanCh c (if tx then { s.canCh c with tec := (s.canCh c).tec + add }
          else { s.canCh c with recv := min 255 ((s.canCh c).recv + add) })).showErrors c)
      else .next (s.canErrorShown c lec data) := by
  have ecs : (s.canErrorShown c lec data).get F.CNnn_STAT_ECS c = s.get F.CNnn_STAT_ECS c := State.get_canErrorShown (by decide) (by decide) _ _
  have still : (s.canErrorShown c lec data).abdOn c = false := (State.abdOn_canErrorShown s c lec data).trans off
  have channel : (s.canErrorShown c lec data).canCh c = s.canCh c := by simp [State.canErrorShown]
  rw [← ecs, ← channel]
  change execCanBusError c lec add data tx false s = _
  unfold execCanBusError
  refine (if_neg (not_lt.mpr on)).trans ?_
  simp only [Bool.false_eq_true, if_false]
  rw [show ((s.set F.CNnn_STAT_LEC c lec).setB F.CNnn_STAT_DPE c data).abdOn c = false from still]
  rfl

/-- The state in which a channel has gone bus-off. -/
def State.busOffShown (s : State) (c : Nat) : State :=
  ((s.set F.CNnn_STAT_ECS c 2).bump F.CNnn_CNT_BUSOFF c).setCanCh c { s.canCh c with sending := none }

/-- Bus-off of a channel without pending frames and without outputs. -/
theorem State.goBusOff_of_quiet (idle : ∀ p ∈ s.can.objs, p.2.ch = c → p.2.txreq = false) (unbound : ∀ e ∈ s.epo.objs, e.2.kind ≠ 3 ∧ e.2.kind ≠ 10) :
    s.goBusOff c = if s.flag F.CNnn_CFG_AUTORECOV c then (s.busOffShown c).canRecover c else s.busOffShown c := by
  have auto : (s.busOffShown c).flag F.CNnn_CFG_AUTORECOV c = s.flag F.CNnn_CFG_AUTORECOV c := by
    simp (disch := decide) only [State.busOffShown, State.flag, State.get_setCanCh, State.get_bump_elsewhere, State.get_set_elsewhere]
  have objects : (s.busOffShown c).can.objs = s.can.objs := by simp [State.busOffShown, State.setCanCh, State.onCan]
  have inputs : (s.busOffShown c).epo.objs = s.epo.objs := by simp [State.busOffShown, State.setCanCh]
  have frames : (s.busOffShown c).can.objs.filter (fun p => decide (p.2.ch = c) && p.2.txreq) = [] := by
    refine List.filter_eq_nil_iff.mpr fun p mem on => ?_
    simp only [Bool.and_eq_true, decide_eq_true_eq] at on
    exact absurd on.2 (ne_true_of_eq_false (idle p (objects ▸ mem) on.1))
  have outputs : (s.busOffShown c).epo.objs.filter (fun e => (decide (e.2.kind = 3) || decide (e.2.kind = 10))
      && decide ((((s.busOffShown c).canObj? e.2.index).map (fun o => o.ch)) = some c)) = [] := by
    refine List.filter_eq_nil_iff.mpr fun e mem => ?_
    obtain ⟨can, feed⟩ := unbound e (inputs ▸ mem)
    simp [can, feed]
  rw [← auto]
  unfold State.goBusOff
  extract_lets q t u v
  have first : u = t := (congrArg (fun l => List.foldl _ t l) frames).trans List.foldl_nil
  have second : v = t := by
    simp only [v, first]
    exact (congrArg (fun l => List.foldl _ t l) outputs).trans List.foldl_nil
  rw [second]
  rfl

end

/-- Settles O47: a request by its mode and the channel's, each later event by its condition. -/
theorem canChannelsChangeMode : Obligations.CanChannelsChangeMode := by
  unfold Obligations.CanChannelsChangeMode
  refine ⟨fun s f c x small wr => ?_, fun s c => ?_⟩
  · intro w act asked
    have bad (high : 6 ≤ w % 8) : canCtl c (wordOf f) s = ({ st := .ur }, s) := if_pos high
    have good (mode : w % 8 ≤ 5) (active : w % 8 ≠ 4) (off : s.abdOn c = false) := canCtl_of_mode (c := c) mode active off
    refine ⟨fun high => ⟨execCanModeWrite_of_run wr small (bad high), fun on => wr.canCtl small on (bad high)⟩, fun four active => ?_,
      fun mode active off no => ?_, fun mode active off on ecs idle => ?_, fun off => ?_⟩
    · exact execCanModeWrite_of_run wr small ((if_neg (by omega)).trans (if_pos ⟨four, active⟩))
    · refine execCanModeWrite_of_run wr small ((good mode active off).trans (Prod.ext rfl (if_neg ?_)))
      simp [no]
    · refine wr.canCtl small on ((good mode active off).trans (Prod.ext rfl (if_pos ?_)))
      simp [on, ecs, idle]
    · exact if_neg (by simp [show bit (wordOf f) 3 = false from off])
  · intro q
    refine ⟨⟨fun waits => ?_, fun m request idle ready => ?_⟩, fun off => ⟨if_pos off, fun lec add d tx fr => if_pos off⟩, fun on still small => ?_,
      fun waits => if_pos ?_, fun recovers ended => if_neg ?_, fun stays => congrArg Host.Outcome.next (if_pos stays),
      fun on high => congrArg Host.Outcome.next (if_neg ?_), fun idle unbound _ => State.goBusOff_of_quiet idle unbound, fun e off => if_neg ?_, fun e on late => if_pos ?_,
      fun lec mode other small few => ?_, fun lec add d mode off on small shown => ?_⟩
    · change execCanModeEffect c s = _
      unfold execCanModeEffect
      cases request : (s.canCh c).request with
      | none => rfl
      | some m =>
        refine congrArg Host.Outcome.next (if_pos ?_)
        obtain none_ | busy | reset := waits
        · exact absurd (request.symm.trans none_) (by simp)
        · simp [show (s.canCh c).sending.isSome = true from Option.isSome_iff_ne_none.mpr busy]
        · simp [reset]
    · change execCanModeEffect c s = _
      unfold execCanModeEffect
      rw [show (s.canCh c).request = some m from request]
      exact congrArg Host.Outcome.next (if_neg (by simp [show (s.canCh c).sending = none from idle, ready]))
    · have still' : ((s.setCanCh c { s.canCh c with integrated := true }).set F.CNnn_STAT_IDLE c 1).flag F.CNnn_STAT_RECOVERING c = false := by
        rw [State.flag_set_beside _ _ (by decide)]
        simpa [State.flag] using still
      exact ⟨(s.setCanCh c { s.canCh c with integrated := true }).set F.CNnn_STAT_IDLE c 1,
        (if_neg (not_lt.mpr on)).trans (congrArg Host.Outcome.next (if_neg (ne_true_of_eq_false still'))), by simp,
        State.flag_set_self _ c 1 (by decide) (by decide), by simp, by simp⟩
    · obtain still | few := waits
      · simp [still]
      · simp [few]
    · simp [recovers, ended]
    · rintro (off | few)
      · exact on off
      · exact absurd high (not_lt.mpr few)
    · obtain off | early := off
      · simp [off]
      · simp [show ¬ (s.canCh c).dwellAt + s.get F.CAN_ABD_CTL_DWELL * 1000000 ≤ s.up from not_le.mpr early]
    · exact (Bool.and_eq_true _ _).mpr ⟨on, decide_eq_true late⟩
    · have off : s.abdOn c = false := by simp [State.abdOn, other]
      have shown : (s.set F.CNnn_STAT_LEC c lec).get F.CNnn_STAT_LEC c = lec := by
        rw [State.get_set_self _ c lec (by decide) (by decide)]
        exact Nat.mod_eq_of_lt few
      exact ⟨s.canErrorShown c lec false, (execCanBusError_of_settled (by omega) off lec 0 false false).trans (if_neg fun h => by omega),
        (State.get_setB_beside _ _ (by decide)).trans shown, State.flag_setB_self _ c false (by decide) (by decide), by simp [State.canErrorShown],
        State.wordsBut_canErrorShown s c lec false⟩
    · have normal : (s.canMode c = 2 ∨ s.canMode c = 5) ∧ s.get F.CNnn_STAT_ECS c ≠ 2 := ⟨.inl mode, on⟩
      exact ⟨(execCanBusError_of_settled (by omega) off lec add d true).trans (if_pos normal),
        (execCanBusError_of_settled (by omega) off lec add d false).trans (if_pos normal)⟩

end Sys2Proof.Machine

/-! PROOFS. Reflex sweeps, latch clears, alarms and the evaluation of rules. -/

namespace Sys2Proof.Machine

-- One theorem at a time, as in the tests: a theorem that waits for the kernel holds a stack of its own.
set_option Elab.async false

section
variable {s : State}

/-! ### When a sweep runs -/

theorem execDeferredSweep_of_started {p : Nat} (on : s.sweeps = true) (started : s.rfx.startAt = some p) (soon : s.up ≤ p + 8000) :
    exec .deferredSweep s =
      if s.sweepDue then .next (s.startPeriod.realign.bump F.RFX_CNT_DEFER).sweep
      else if s.extraDue then .next (s.startExtra.bump F.RFX_CNT_DEFER).sweep
      else .next s := by
  refine if_neg ?_
  rw [on, show s.rfx.startAt.any (fun t => decide (s.up ≤ t + 8000)) = true from (Option.any_eq_true _ _).mpr ⟨p, started, decide_eq_true soon⟩]
  simp

theorem execDeferredSweep_of_past (past : ∀ p, s.rfx.startAt = some p → p + 8000 < s.up) : exec .deferredSweep s = .next s := by
  refine if_pos ?_
  rw [show s.rfx.startAt.any (fun t => decide (s.up ≤ t + 8000)) = false from
    (Option.any_eq_false _ _).mpr fun p started => by simpa using past p started]
  simp

theorem State.extraDue_of_off (off : s.flag F.RFX_XSWEEP_EN = false ∨ s.refOn (s.get F.RFX_XSWEEP_PH) = false ∨
    (s.ref (s.get F.RFX_XSWEEP_PH)).stalled = true) : s.extraDue = false := by
  unfold State.extraDue
  obtain off | off | off := off <;> simp [off]

theorem State.extraDue_of_first (on : s.flag F.RFX_XSWEEP_EN = true) (runs : s.refOn (s.get F.RFX_XSWEEP_PH) = true)
    (moves : (s.ref (s.get F.RFX_XSWEEP_PH)).stalled = false) (first : s.rfx.xDone = none) : s.extraDue = true := by
  simp only [State.extraDue, on, runs, moves, first, Bool.not_false, Bool.and_self]

theorem State.extraDue_of_done {y : Nat} (done : s.rfx.xDone = some y) (here : s.extraInstant (s.phaseNow (s.get F.RFX_XSWEEP_PH)) = y) :
    s.extraDue = false := by
  simp only [State.extraDue, done, here, sdiff_self, lt_irrefl, decide_false, Bool.and_false]

theorem State.sweepDue_of_first (first : s.rfx.periodAt = none) : s.sweepDue = true := by
  unfold State.sweepDue
  rw [first]

theorem State.sweepDue_iff {p n : Nat} (last : s.rfx.periodAt = some (p, n)) (free : s.flag F.RFX_SWCFG_ALIGN = false) :
    s.sweepDue = true ↔ p + s.get F.RFX_SWCFG_PERIOD * 1000 ≤ s.up := by
  unfold State.sweepDue
  rw [last]
  simp only [free, Bool.false_and, Bool.false_eq_true, if_false]
  exact decide_eq_true_iff

/-! ### The commands -/

section
variable {f : Frame} {x : RegRow}

theorem execLatchClear_of_write (wr : s.WritesReg f F.RFX_LCLR_RULE 0 x) :
    exec (.latchClear f) s = .next ((latchClear (wordOf f % 4096) (bit (wordOf f) 12) s).settle 5 f {}) := by
  refine wr.ends (wr.at_first (by decide)) ((writeEffect_rfx wr.name).trans ?_)
  unfold writeRfx
  rw [if_pos wr.name]

theorem execAlmPop_of_write (wr : s.WritesReg f F.RFX_ALM_POP_POP 0 x) (pop : bit (wordOf f) 0 = true) :
    exec (.almPop f) s = .next ((alarmPop s).settle 5 f {}) := by
  refine wr.ends (by rw [wr.at_first (by decide), pop]; rfl) ((writeEffect_rfx wr.name).trans ?_)
  unfold writeRfx
  rw [if_neg (by rw [wr.name]; decide), if_pos wr.name, if_pos pop]

end

/-! ### The evaluation of a rule -/

section
variable {m : Map RuleSt} {r : Rule}

theorem evalRule_of_off (off : s.groupOn r.group = false) : evalRule s m r =
    { state := r.latch && (s.ruleSt r.num).state && !(s.rfx.clearAll || s.rfx.clears.contains r.num) } := by
  unfold evalRule
  simp only [off, Bool.not_false, if_true]

/-- The terms of a rule that it enables. -/
def Rule.enabled (r : Rule) : List Nat := (List.range 4).filter (bit r.ten)

/-- The enabled terms of a rule that are true. -/
def State.trueTerms (s : State) (m : Map RuleSt) (r : Rule) : List Nat :=
  r.enabled.filter fun t => match r.terms[t]? with | some x => termValue s r.num m x | none => false

/-- The condition of a rule: all of its enabled terms, or as many as COMB says. -/
def State.condition (s : State) (m : Map RuleSt) (r : Rule) : Bool :=
  if r.comb = 0 then decide ((s.trueTerms m r).length = r.enabled.length) else decide (r.comb ≤ (s.trueTerms m r).length)

theorem evalRule_of_on (on : s.groupOn r.group = true) :
    (evalRule s m r).cond = s.condition m r
    ∧ (evalRule s m r).cnt = (if s.condition m r then min 256 ((s.ruleSt r.num).cnt + 1) else 0)
    ∧ (evalRule s m r).state = (decide (r.ondly < (evalRule s m r).cnt) || (r.latch && (s.ruleSt r.num).state
      && !(s.rfx.clearAll || s.rfx.clears.contains r.num))) := by
  have run : evalRule s m r = {
      state := decide (r.ondly < if s.condition m r then min 256 ((s.ruleSt r.num).cnt + 1) else 0) ||
        (r.latch && (s.ruleSt r.num).state && !(s.rfx.clearAll || s.rfx.clears.contains r.num))
      cnt := if s.condition m r then min 256 ((s.ruleSt r.num).cnt + 1) else 0
      cond := s.condition m r
      terms := ((s.trueTerms m r).map (fun t => 2 ^ t)).sum } := if_neg (by simp [on])
  rw [run]
  exact ⟨rfl, rfl, rfl⟩

/-- A rule of no enabled term whose terms must all be true is true. -/
theorem State.condition_of_no_terms (all : r.comb = 0) (none_ : r.ten % 16 = 0) : s.condition m r = true := by
  have empty : r.enabled = [] := by
    refine List.filter_eq_nil_iff.mpr fun t mem => ?_
    have few : t < 4 := List.mem_range.mp mem
    interval_cases t <;> simp only [bit, decide_eq_true_eq] <;> omega
  simp [State.condition, all, State.trueTerms, empty]

theorem evalRule_state_of_latched (latch : r.latch = true) (was : (s.ruleSt r.num).state = true) (all : s.rfx.clearAll = false)
    (one : r.num ∉ s.rfx.clears) : (evalRule s m r).state = true := by
  cases on : s.groupOn r.group with
  | false => simp [evalRule_of_off on, latch, was, all, one]
  | true => simp [(evalRule_of_on on).2.2, latch, was, all, one]

end

/-! ### Outputs -/

/-- An output that a rule has set is not set again by a later one. -/
theorem foldl_keeps_output {tg vl : Rule → Nat} {k : Nat} {v : Nat × Nat} (l : List Rule) (o : Map (Nat × Nat)) (set : Tbl.find? o k = some v) :
    Tbl.find? (l.foldl (fun m r => if Tbl.has m (tg r) then m else Tbl.put m (tg r) (vl r, r.num)) o) k = some v := by
  induction l generalizing o with
  | nil => exact set
  | cons r l ih =>
    refine ih _ ?_
    change Tbl.find? (if _ then _ else _) k = _
    split
    · exact set
    · next free =>
      have other : tg r ≠ k := by
        rintro rfl
        exact free (by simp [Tbl.has, set])
      rw [Tbl.find?_put_ne _ _ (Ne.symm other)]
      exact set

theorem outputs_of_first {a : Rule} {l : List Rule} {m : Map RuleSt} {k : Nat} {tg vl : Rule → Nat} (kind : a.outkind = k)
    (on : (Tbl.getD m a.num {}).state = true) : Tbl.find? (outputs (a :: l) m k tg vl) (tg a) = some (vl a, a.num) := by
  unfold outputs
  rw [List.filter_cons_of_pos (by simp [kind, on]), List.foldl_cons]
  exact foldl_keeps_output _ _ (Tbl.find?_put_self _ _ _)

end

/-- Settles O48: each sweep by its start, the latch clears and alarms by their writes, a rule by its group and its terms. -/
theorem reflexRulesCommit : Obligations.ReflexRulesCommit := by
  unfold Obligations.ReflexRulesCommit
  refine ⟨fun s => ⟨fun off => ?_, fun on => ?_, ?_, State.sweepDue_of_first, fun p n last free => State.sweepDue_iff last free⟩, fun s f x wr => ?_,
    fun s f x wr => ⟨execAlmPop_of_write wr, fun no => if_neg (by simp [no])⟩,
    fun s m r => ⟨fun off latch => ?_, evalRule_state_of_latched, fun on all none_ => ?_, fun on no => ?_⟩, fun a l m k tg vl kind on => outputs_of_first kind on⟩
  · exact ⟨congrArg Host.Outcome.next (if_neg (by simp [off])), if_pos (by simp [off]), congrArg Host.Outcome.next (if_neg (by simp [off]))⟩
  · refine ⟨fun due => congrArg Host.Outcome.next (if_pos (by simp [on, due])), fun no => congrArg Host.Outcome.next (if_neg (by simp [no])),
      fun p started soon => ⟨fun due => ?_, fun no extra => ?_⟩, execDeferredSweep_of_past,
      fun extra => congrArg Host.Outcome.next (if_pos (by simp [on, extra]))⟩
    · exact (execDeferredSweep_of_started on started soon).trans (if_pos due)
    · exact (execDeferredSweep_of_started on started soon).trans ((if_neg (ne_true_of_eq_false no)).trans (if_pos extra))
  · intro h
    have none_ (no : s.extraDue = false) : exec .extraSweep s = .next s := congrArg Host.Outcome.next (if_neg (by simp [no]))
    exact ⟨fun off => none_ (State.extraDue_of_off off), State.extraDue_of_first, fun y done here => none_ (State.extraDue_of_done done here)⟩
  · intro r
    have counts (g : RfxSt → RfxSt) : ((s.bump F.RFX_CNT_LCLR).onRfx g).get F.RFX_CNT_LCLR = min F.RFX_CNT_LCLR.max (s.get F.RFX_CNT_LCLR + 1) :=
      (State.bump_counts s F.RFX_CNT_LCLR 0 (by decide) (by decide)).1
    refine ⟨fun all => ⟨_, execLatchClear_of_write wr, ?_, ?_, counts _, ?_⟩, fun one => ⟨_, execLatchClear_of_write wr, ?_, counts _, ?_, ?_⟩⟩
    · simp [latchClear, all, State.onRfx]
    · simp [latchClear]
    · simp [latchClear]
    · simp [latchClear]
    · simp [latchClear]
    · simp [latchClear, one, State.onRfx, r]
  · simp [evalRule_of_off off, latch]
  · obtain ⟨cond, cnt, -⟩ := evalRule_of_on (m := m) on
    have holds : s.condition m r = true := State.condition_of_no_terms all none_
    exact ⟨cond.trans holds, cnt.trans (if_pos holds)⟩
  · obtain ⟨cond, cnt, -⟩ := evalRule_of_on (m := m) on
    exact cnt.trans (if_neg (ne_true_of_eq_false (cond.symm.trans no)))

end Sys2Proof.Machine

/-! PROOFS. The staging commands, the image load and the settings record. -/

namespace Sys2Proof.Machine

-- One theorem at a time, as in the tests: a theorem that waits for the kernel holds a stack of its own.
set_option Elab.async false

section
variable {s : State}

/-! ### The staging commands -/

section
variable {f : Frame} {x : RegRow} {n : Nat} {a : State.Res} {t : State} (wr : s.WritesReg f F.IMG_STG_CTL_OP 0 x)
include wr

theorem State.WritesReg.stgCommand (op : wordOf f % 8 = n) (run : stgCtl (wordOf f) s = (a, t)) : stgRow n f s = .next (t.settle 5 f a) := by
  refine wr.ends (by rw [wr.at_first (by decide), op]; simp) ((writeEffect_img wr.name).trans ?_)
  unfold writeImg
  rw [if_neg (by rw [wr.name]; decide), if_pos wr.name, run]

theorem State.WritesReg.stagingOpen (op : wordOf f % 8 = 1) (run : Machine.stagingOpen s = (a, t)) : stgRow 1 f s = .next (t.settle 5 f a) :=
  wr.stgCommand op (by unfold stgCtl; rw [op]; exact run)

theorem State.WritesReg.stagingClose (op : wordOf f % 8 = 2) (run : Machine.stagingClose s = (a, t)) : stgRow 2 f s = .next (t.settle 5 f a) :=
  wr.stgCommand op (by unfold stgCtl; rw [op]; exact run)

theorem State.WritesReg.stagingVerify (op : wordOf f % 8 = 3) (run : Machine.stagingVerify s = (a, t)) : stgRow 3 f s = .next (t.settle 5 f a) :=
  wr.stgCommand op (by unfold stgCtl; rw [op]; exact run)

theorem State.WritesReg.stagingActivate (op : wordOf f % 8 = 4) (run : Machine.stagingActivate s = (a, t)) : stgRow 4 f s = .next (t.settle 5 f a) :=
  wr.stgCommand op (by unfold stgCtl; rw [op]; exact run)

theorem State.WritesReg.stagingOvcopy (op : wordOf f % 8 = 5) (run : Machine.stagingOvcopy (bits (wordOf f) 6 3) s = (a, t)) :
    stgRow 5 f s = .next (t.settle 5 f a) :=
  wr.stgCommand op (by unfold stgCtl; rw [op]; exact run)

end

theorem stagingActivate_of_armed (armed : s.img.arm ≠ none) : stagingActivate s = ({ st := .busy }, s.stgResult 2 0) :=
  if_pos (by simp [Option.isSome_iff_ne_none.mpr armed])

section
variable (idle : s.staging = false)
include idle

theorem stagingActivate_of_unarmed (unarmed : s.img.arm = none) : stagingActivate s =
    if !s.img.verified then ({}, s.stgResult 3 0)
    else if s.activeTwin && s.healthy then ({}, (s.stgResult 0 0).requestVeer.onMgt fun m => { m with veer := some .activate })
    else ({}, (s.stgResult 0 0).activateNow) :=
  if_neg (by simp [idle, unarmed])

/-- The mode that a change is armed for uses an overlay. -/
def State.armedUses (s : State) (k : Nat) : Bool := s.img.arm.any fun a => (s.modeOf a.mode).any fun e => decide (e.ovl = k)

/-- The state in which the overlay of the inactive slot is copied to the active one. -/
def State.ovlCopied (s : State) (k : Nat) : State :=
  let data := Mem.readN s.nvm (ovlAt s.stagedSlot k) (imgHdr s.nvm (ovlAt s.stagedSlot k)).len
  { s with nvm := Mem.writeN s.nvm (ovlAt (s.get F.IMG_STAT_SLOT) k) data }

theorem stagingOvcopy_of_idle (k : Nat) : stagingOvcopy k s =
    if decide (s.get F.IMG_MODE_OVL = k) || s.armedUses k then ({}, s.stgResult 2 0)
    else if s.checkOvl s.baseLoader s.stagedSlot k ≠ 0 then ({}, s.stgResult 1 (s.checkOvl s.baseLoader s.stagedSlot k))
    else ({}, ((s.ovlCopied k).set F.IMG_OVSTAT_PRESENT 0 (setBit (s.get F.IMG_OVSTAT_PRESENT) k true)).stgResult 0 0) := by
  have uses (m : Nat) : (match s.modeOf m with | some e => decide (e.ovl = k) | none => false) = (s.modeOf m).any fun e => decide (e.ovl = k) := by
    cases s.modeOf m <;> rfl
  have armed : (match s.img.arm with | some a => (match s.modeOf a.mode with | some e => decide (e.ovl = k) | none => false) | none => false) =
      s.armedUses k := by
    unfold State.armedUses
    cases s.img.arm with
    | none => rfl
    | some a => exact uses a.mode
  rw [← armed]
  exact if_neg (ne_true_of_eq_false idle)

end

/-! ### The end of a staging command, the image load -/

theorem execStagingCommandDone_of_running {n d : Nat} (running : s.img.running = some (n, d)) : exec .stagingCommandDone s =
    let u := s.onImg fun g => { g with running := none }
    let r := (u.checkBase u.stagedSlot true).1
    if n = 3 then .next ((u.onImg fun g => { g with verified := decide (r = 0) && decide (d = 0) }).stgResult (if r = 0 then 0 else 1) r)
    else .next (u.stgResult 0 0) := by
  change execStagingCommandDone s = _
  unfold execStagingCommandDone
  rw [running]

/-- The load of the other slot, after the active slot's image was rejected. -/
def State.loadOther (s : State) (k : Nat) (vio : List Nat) : State :=
  match s.checkBase (1 - k) true with
  | (_, some d) => (((s.setBoot fun b => { b with imgSlot := 1 - k }).showUpdates).note 0x10 18 [1 - k]).loadImage (1 - k) d vio
  | (n, none) => (s.rejectImage (1 - k) n).enterDoldrums 2

section
variable (vio : List Nat) (other : s.mgt.veer ≠ some .activate)
include other

theorem execImageLoad_of_waits (waits : 3 ≤ s.get F.IMG_STAT_STATE ∨ s.get F.MGT_STAT_DSRC = 1 ∨ s.packerBusy = true) :
    exec (.imageLoad vio) s = .next s := by
  change execImageLoad vio s = _
  unfold execImageLoad
  simp only [other, false_and, if_false]
  exact if_pos waits

theorem execImageLoad_of_ready (early : s.get F.IMG_STAT_STATE < 3) (awake : s.get F.MGT_STAT_DSRC ≠ 1) (free : s.packerBusy = false) :
    exec (.imageLoad vio) s = .next (match s.checkBase s.boot.imgSlot true with
      | (_, some d) => s.loadImage s.boot.imgSlot d vio
      | (r, none) => if (s.rejectImage s.boot.imgSlot r).boot.imgPend = true then (s.rejectImage s.boot.imgSlot r).fallBack 2
        else (s.rejectImage s.boot.imgSlot r).loadOther s.boot.imgSlot vio) := by
  change execImageLoad vio s = _
  unfold execImageLoad
  simp only [other, false_and, if_false]
  refine (if_neg (by simp [early, awake, free])).trans ?_
  obtain ⟨r, _ | d⟩ := s.checkBase s.boot.imgSlot true
  · change (if _ then _ else _) = Host.Outcome.next (if _ then _ else _)
    split
    · rfl
    · unfold State.loadOther
      rcases (s.rejectImage s.boot.imgSlot r).checkBase (1 - s.boot.imgSlot) true with ⟨q, _ | e⟩ <;> rfl
  · rfl

end

/-! ### Settings -/

section
variable {f : Frame} {x : RegRow}  (wr : s.WritesReg f F.IMG_SET_CTL_STORE 0 x)
include wr

theorem State.WritesReg.setCtl {aim : Bool} (on : aim = true) : regRow f (atReg f F.IMG_SET_CTL_STORE && aim) s =
    .next ((Machine.setCtl (wordOf f) s).2.settle 5 f (Machine.setCtl (wordOf f) s).1) := by
  refine wr.ends (by rw [wr.at_first (by decide), on]; rfl) ((writeEffect_img wr.name).trans ?_)
  unfold writeImg
  rw [if_neg (by rw [wr.name]; decide), if_neg (by rw [wr.name]; decide), if_pos wr.name]

end

theorem settingsStore_of_busy (busy : s.img.storing ≠ none) : settingsStore s = ({ st := .busy }, s) :=
  if_pos (Option.isSome_iff_ne_none.mpr busy)

theorem setCtl_of_busy {w : Nat} (store : bit w 0 = true) (busy : s.img.storing ≠ none) : setCtl w s = ({ st := .busy }, s) := by
  unfold setCtl
  rw [if_pos store, settingsStore_of_busy busy]
  exact if_neg (by simp)

theorem setCtl_of_store {w : Nat} (store : bit w 0 = true) (keep : bit w 1 = false) : setCtl w s = settingsStore s := by
  unfold setCtl
  rw [if_pos store]
  exact if_neg (by simp [keep])

theorem setCtl_of_erase {w : Nat} (keep : bit w 0 = false) (erase : bit w 1 = true) : setCtl w s = settingsErase s :=
  (if_neg (ne_true_of_eq_false keep)).trans (if_pos erase)

end

/-- Settles O49: a staging command by its state, the load by the slots that hold a good image, the record by its area. -/
theorem imageStagesAndLoads : Obligations.ImageStagesAndLoads := by
  unfold Obligations.ImageStagesAndLoads
  refine ⟨fun s f x wr => ?_, fun s vio other => ?_, fun s f x k d data => ?_⟩
  · intro op k from_ used
    refine ⟨fun no => if_neg (by simp [show wordOf f % 8 ≠ 1 from no]), fun busy => ⟨fun op => wr.stagingOpen op (if_pos busy), fun op => wr.stagingClose op (if_pos busy),
        fun op => wr.stagingVerify op (if_pos busy), fun op => wr.stagingOvcopy op (if_pos busy), fun op => wr.stagingActivate op (if_pos (by simp [busy]))⟩,
      fun idle => ⟨fun op => wr.stagingOpen op (if_neg (ne_true_of_eq_false idle)), fun op => wr.stagingClose op (if_neg (ne_true_of_eq_false idle)),
        fun op => wr.stagingVerify op (if_neg (ne_true_of_eq_false idle)), fun op => ⟨fun armed => ?_, fun unarmed bad => ?_, fun unarmed good veers => ?_,
          fun unarmed good stays => ?_⟩, fun op => ⟨fun inUse => ?_, fun free unarmed => ?_⟩⟩⟩
    · exact wr.stagingActivate op (stagingActivate_of_armed armed)
    · exact wr.stagingActivate op ((stagingActivate_of_unarmed idle unarmed).trans (if_pos (by simp [bad])))
    · exact wr.stagingActivate op ((stagingActivate_of_unarmed idle unarmed).trans ((if_neg (by simp [good])).trans (if_pos veers)))
    · exact wr.stagingActivate op ((stagingActivate_of_unarmed idle unarmed).trans ((if_neg (by simp [good])).trans
        (if_neg (ne_true_of_eq_false stays))))
    · refine wr.stagingOvcopy op ((stagingOvcopy_of_idle idle _).trans (if_pos ?_))
      obtain here | ⟨m, armed, uses⟩ := inUse
      · simp [show s.get F.IMG_MODE_OVL = bits (wordOf f) 6 3 from here]
      · rw [show s.armedUses (bits (wordOf f) 6 3) = true by rw [State.armedUses, armed]; exact uses, Bool.or_true]
    · have unused : ¬ (decide (s.get F.IMG_MODE_OVL = bits (wordOf f) 6 3) || s.armedUses (bits (wordOf f) 6 3)) = true := by
        rw [decide_eq_false free, show s.armedUses (bits (wordOf f) 6 3) = false from (Option.any_eq_false _ _).mpr fun m armed =>
          unarmed m armed]
        simp
      have run := (stagingOvcopy_of_idle idle (bits (wordOf f) 6 3)).trans (if_neg unused)
      split
      · next good => exact wr.stagingOvcopy op (run.trans (if_neg (not_not.mpr good)))
      · next bad => exact wr.stagingOvcopy op (run.trans (if_pos bad))
  · exact ⟨execImageLoad_of_waits vio other, execImageLoad_of_ready vio other⟩
  · intro z es r u n
    refine ⟨fun none_ => ?_, fun running => (execStagingCommandDone_of_running running).trans (if_neg (by decide)),
      fun running => (execStagingCommandDone_of_running running).trans (if_pos rfl), fun none_ => ?_, fun storing => ?_, fun wr => ⟨fun store busy => ?_,
        fun store keep idle area => ?_, fun no => if_neg (by simp [no]), fun keep erase => ?_⟩⟩
    · change execStagingCommandDone s = _
      unfold execStagingCommandDone
      rw [none_]
    · change execStoreDone s = _
      unfold execStoreDone
      rw [none_]
    · change execStoreDone s = _
      unfold execStoreDone
      rw [storing]
    · refine (wr.setCtl store).trans ?_
      rw [setCtl_of_busy store busy]
    · refine (wr.setCtl store).trans ?_
      have run : settingsStore s = ({}, (({ s with nvm := Mem.writeN s.nvm (State.areaAt k) z } : State).set F.IMG_SET_STAT_BUSY 0 1).onImg
          fun g => { g with storing := some (k, State.SetRec.bytes r) }) := by
        rw [area]
        exact if_neg (by simp [idle])
      rw [setCtl_of_store store keep, run]
    · refine (wr.setCtl erase).trans ?_
      rw [setCtl_of_erase keep erase]
      rfl

end Sys2Proof.Machine

/-! PROOFS. Mode changes: request, arming, resolution and the instant of the overlay. -/

namespace Sys2Proof.Machine

-- One theorem at a time, as in the tests: a theorem that waits for the kernel holds a stack of its own.
set_option Elab.async false

section
variable {s : State}

/-! ### Requests of the mode protocol -/

section
variable {f : Frame}

section
variable (fine : mgtRefused s.hubNum f = false)
include fine

/-! ### The master -/

theorem execModereq_of_follower (follower : (s.take f).master = false) : exec (.modereq f) s = .next (s.take f) :=
  (if_neg (ne_true_of_eq_false fine)).trans (if_pos (by simp [follower]))

theorem execModeqry_of_follower (follower : (s.take f).master = false) : exec (.modeqry f) s = .next (s.take f) :=
  (if_neg (ne_true_of_eq_false fine)).trans (if_pos (by simp [follower]))

section
variable (master : (s.take f).master = true)
include master

theorem execModereq_of_open (open_ : (s.take f).img.change ≠ none) : exec (.modereq f) s = .next ((s.take f).sendMode 0x35 f.src [2, 0, 0]) :=
  (if_neg (ne_true_of_eq_false fine)).trans ((if_neg (by simp [master])).trans (if_pos (Option.isSome_iff_ne_none.mpr open_)))

theorem execModereq_of_unknown (idle : (s.take f).img.change = none) (unknown : (s.take f).modeOf (beAt f.pay 2 1) = none) :
    exec (.modereq f) s = .next ((s.take f).sendMode 0x35 f.src [4, 0, 0]) :=
  (if_neg (ne_true_of_eq_false fine)).trans ((if_neg (by simp [master])).trans ((if_neg (by rw [idle]; exact Bool.false_ne_true)).trans
    (if_pos (Option.isNone_iff_eq_none.mpr unknown))))

section
variable {e : ModeEntry} {n : Nat} (idle : (s.take f).img.change = none) (known : (s.take f).modeOf (beAt f.pay 2 1) = some e)
  (timed : State.whenAt f.pay 3 = .time n)
include idle known timed

theorem execModereq_of_late (late : n < (s.take f).ns + (s.take f).get F.IMG_MC_CFG_ARMMIN * 1000000) :
    exec (.modereq f) s = .next ((s.take f).sendMode 0x35 f.src [3, 0, 0]) := by
  refine (if_neg (ne_true_of_eq_false fine)).trans ?_
  rw [timed]
  exact (if_neg (by simp [master])).trans ((if_neg (by rw [idle]; exact Bool.false_ne_true)).trans ((if_neg (by rw [known]; exact Bool.false_ne_true)).trans (if_pos (decide_eq_true late))))

theorem execModereq_of_good (early : (s.take f).ns + (s.take f).get F.IMG_MC_CFG_ARMMIN * 1000000 ≤ n) : exec (.modereq f) s =
    let u := s.take f
    let d := min (n - u.get F.IMG_MC_CFG_GUARD * 1000000) (u.ns + u.get F.IMG_MC_CFG_ARMTMO * 1000000)
    let opid := u.hubNum * 256 + u.img.opCount % 256
    let m := beAt f.pay 2 1
    .next ((u.onImg fun g => { g with
      opCount := g.opCount + 1
      change := some { opid := opid, mode := m, at_ := .time n, reqHub := f.src, deadline := d } }).sendMode 0x31 0xFE
        (be 2 opid ++ be 1 m ++ State.whenBytes (.time n) ++ be 6 (d / 10 ^ 9) ++ be 4 (d % 10 ^ 9))) := by
  refine (if_neg (ne_true_of_eq_false fine)).trans ?_
  rw [timed]
  exact (if_neg (by simp [master])).trans ((if_neg (by rw [idle]; exact Bool.false_ne_true)).trans ((if_neg (by rw [known]; exact Bool.false_ne_true)).trans
    (if_neg (ne_true_of_eq_false (decide_eq_false (not_lt.mpr early))))))

end

theorem execModeqry_of_go (go : (s.take f).img.resolved = some (beAt f.pay 2 2, true)) :
    exec (.modeqry f) s = .next ((s.take f).sendMode 0x33 f.src (be 2 (beAt f.pay 2 2))) :=
  (if_neg (ne_true_of_eq_false fine)).trans ((if_neg (by simp [master])).trans (if_pos go))

theorem execModeqry_of_no_go (no : (s.take f).img.resolved ≠ some (beAt f.pay 2 2, true)) :
    exec (.modeqry f) s = .next ((s.take f).sendMode 0x34 f.src (be 2 (beAt f.pay 2 2) ++ [0, 0])) :=
  (if_neg (ne_true_of_eq_false fine)).trans ((if_neg (by simp [master])).trans (if_neg no))

end

theorem execModeack_of_change {c : ModeChange} (open_ : (s.take f).img.change = some c) : exec (.modeack f) s =
    let u := s.take f
    if !u.master ∨ c.opid ≠ beAt f.pay 2 2 then .next u
    else
      let n := { c with acks := c.acks ++ [(beAt f.pay 4 1, bit (beAt f.pay 5 1) 0, beAt f.pay 6 1)] }
      let v := u.onImg fun g => { g with change := some n }
      .next (if v.allArmed n then v.resolveMode n else v) := by
  refine (if_neg (ne_true_of_eq_false fine)).trans ?_
  rw [open_]

/-! ### A member -/

theorem execModearm_of_check {r k : Nat} (check : (s.take f).armCheck (beAt f.pay 4 1) (State.whenAt f.pay 5)
    (State.timeOf (beAt f.pay 18 6) (beAt f.pay 24 4)) = (r, k)) : exec (.modearm f) s =
    let ack (t : State) : State := t.sendMode 0x32 f.src (be 2 (beAt f.pay 2 2) ++ be 1 t.hubNum ++ be 1 (b2n t.standby) ++ be 1 r)
    if r = 0 then .next (ack ((s.take f).onImg fun g => { g with
      arm := some { opid := beAt f.pay 2 2, mode := beAt f.pay 4 1, at_ := State.whenAt f.pay 5, ph := k } }))
    else .next (ack ((s.take f).bump F.IMG_CNT_VETO)) := by
  change execModearm f s = _
  unfold execModearm mgtRequest
  rw [if_neg (ne_true_of_eq_false fine)]
  simp only [check]

theorem execModego_of_unarmed (unarmed : (s.take f).img.arm = none) : exec (.modego f) s = .next (s.take f) := by
  refine (if_neg (ne_true_of_eq_false fine)).trans ?_
  rw [unarmed]

theorem execModeabt_of_unarmed (unarmed : (s.take f).img.arm = none) : exec (.modeabt f) s = .next (s.take f) := by
  refine (if_neg (ne_true_of_eq_false fine)).trans ?_
  rw [unarmed]

section
variable {a : Arm} (armed : (s.take f).img.arm = some a)
include armed

theorem execModego_of_arm : exec (.modego f) s =
    if a.opid ≠ beAt f.pay 2 2 then .next (s.take f)
    else if a.asked.isSome then .next (((s.take f).switchMode a).bump F.IMG_CNT_LATEAPPLY)
    else .next ((s.take f).onImg fun g => { g with
      arm := some { a with
        go := true
        est := match a.at_ with
          | .time _ => none
          | .phase _ _ x => some ((s.take f).phaseEstimate a.ph x + ((s.take f).ref a.ph).test / 2) } }) := by
  refine (if_neg (ne_true_of_eq_false fine)).trans ?_
  rw [armed] <;> rfl

theorem execModeabt_of_arm : exec (.modeabt f) s =
    .next (if a.opid = beAt f.pay 2 2 then (s.take f).onImg fun g => { g with arm := none } else s.take f) := by
  refine (if_neg (ne_true_of_eq_false fine)).trans ?_
  rw [armed]

end

theorem execModeres_of_waiting (pending : (s.take f).flag F.IMG_MC_STAT_PEND = false) : exec (.moderes f) s = .next (s.take f) :=
  (if_neg (ne_true_of_eq_false fine)).trans (if_neg (ne_true_of_eq_false pending))

theorem execModestat_of_other (loaded : (s.take f).img.loaded = true)
    (other : beAt f.pay 2 1 % 32 ≠ (s.take f).mode ∨ beAt f.pay 4 2 ≠ (s.take f).epoch) : exec (.modestat f) s =
      .next ((((s.take f).applyMode (beAt f.pay 2 1 % 32)).set F.IMG_MODE_EPOCH 0 (beAt f.pay 4 2)).bump F.IMG_CNT_LATEAPPLY) := by
  refine (if_neg (ne_true_of_eq_false fine)).trans (if_neg ?_)
  rintro (off | ⟨mode, epoch⟩)
  · rw [loaded] at off
    exact Bool.false_ne_true off
  · exact other.elim (fun h => h mode) fun h => h epoch

theorem execModestat_of_same (mode : beAt f.pay 2 1 % 32 = (s.take f).mode) (epoch : beAt f.pay 4 2 = (s.take f).epoch) :
    exec (.modestat f) s = .next (s.take f) :=
  (if_neg (ne_true_of_eq_false fine)).trans (if_pos (.inr ⟨mode, epoch⟩))

end

end

/-! ### Instants -/

theorem execModeDeadline_of_change {c : ModeChange} (open_ : s.img.change = some c) :
    exec .modeDeadline s = .next (if s.master ∧ c.deadline ≤ s.ns then s.resolveMode c else s) := by
  change execModeDeadline s = _
  unfold execModeDeadline
  rw [open_]

theorem execModestatSend_of_due (master : s.master = true) (due : ∀ t, s.img.statAt = some t → t + 100000000 ≤ s.up) :
    exec .modestatSend s = .next s.sendModestat := by
  change execModestatSend s = _
  unfold execModestatSend
  cases last : s.img.statAt with
  | none => exact congrArg Host.Outcome.next (if_pos (by rw [master]; rfl))
  | some t => exact congrArg Host.Outcome.next (if_pos ((Bool.and_eq_true _ _).mpr ⟨master, decide_eq_true (due t last)⟩))

theorem execModestatSend_of_waits (waits : s.master = false ∨ ∃ t, s.img.statAt = some t ∧ s.up < t + 100000000) :
    exec .modestatSend s = .next s := by
  change execModestatSend s = _
  unfold execModestatSend
  obtain follower | ⟨t, last, early⟩ := waits
  · exact congrArg Host.Outcome.next (if_neg (by simp only [follower, Bool.false_and, Bool.false_eq_true, not_false_iff]))
  · rw [last]
    refine congrArg Host.Outcome.next (if_neg fun h => ?_)
    exact absurd (of_decide_eq_true ((Bool.and_eq_true _ _).mp h).2) (not_le.mpr early)

section
variable {a : Arm} (armed : s.img.arm = some a)
include armed

theorem execOverlayInstant_of_arm : exec .overlayInstant s = .next (if a.go && s.modeReached a then s.switchMode a else s) := by
  change execOverlayInstant s = _
  unfold execOverlayInstant
  rw [armed]

theorem execModeLateApply_of_est {t : Nat} (est : a.est = some t) :
    exec .modeLateApply s = .next (if a.go && decide (t ≤ s.ns) then (s.switchMode a).bump F.IMG_CNT_LATEAPPLY else s) := by
  change execModeLateApply s = _
  unfold execModeLateApply
  simp only [armed, est]

theorem execModeLateApply_of_no_est (none_ : a.est = none) : exec .modeLateApply s = .next s := by
  change execModeLateApply s = _
  unfold execModeLateApply
  simp only [armed, none_]

theorem execModeInstantNoGo_of_arm : exec .modeInstantNoGo s =
    let m := s.get F.RNG_RSTAT_MASTER_HUB
    if a.go || !s.modeReached a || decide (a.asked = some m) then .next s
    else if m = 0xFF then .next (s.onImg fun g => { g with arm := none })
    else .next ((s.onImg fun g => { g with arm := some { a with asked := some m } }).sendMode 0x36 m (be 2 a.opid)) := by
  change execModeInstantNoGo s = _
  unfold execModeInstantNoGo
  rw [armed]

end

theorem State.modeReached_time {a : Arm} {n : Nat} (timed : a.at_ = .time n) : s.modeReached a = decide (n ≤ s.ns) := by
  unfold State.modeReached
  rw [timed]

theorem State.modeReached_phase {a : Arm} {h r x : Nat} (phased : a.at_ = .phase h r x) :
    s.modeReached a = decide (0 ≤ sdiff 32 (s.phaseNow a.ph) x) := by
  unfold State.modeReached
  rw [phased]

/-! ### The request of a mode -/

section
variable {f : Frame} {x : RegRow} (wr : s.WritesReg f F.IMG_MC_CTL_REQ 0 x) (req : bit (wordOf f) 31 = true)
include wr req

theorem execModeRequest_of_run {a : State.Res} {t : State} (run : mcCtl (wordOf f) s = (a, t)) : exec (.modeRequest f) s = .next (t.settle 5 f a) := by
  refine wr.ends (by rw [wr.at_first (by decide), req]; rfl) ((writeEffect_img wr.name).trans ?_)
  unfold writeImg
  rw [if_pos wr.name, run]

end

end

/-- Settles O50: each message by the change that is open or armed, each instant by the time or phase it names. -/
theorem modesChangeTogether : Obligations.ModesChangeTogether := by
  unfold Obligations.ModesChangeTogether
  refine ⟨fun s f x wr => ?_, fun s f refused => ?_, fun s f fine => ?_, fun s f r k fine => ?_, fun s f c a fine => ?_, fun s a => ?_⟩
  · intro w u inst
    refine ⟨fun no => if_neg (by simp [show bit (wordOf f) 31 = false from no]), fun req busy => execModeRequest_of_run wr req (if_pos (by simp [show bit (wordOf f) 31 = true from req, busy])), fun req idle => ?_⟩
    have run : mcCtl (wordOf f) s = ({}, (((u.set F.IMG_MC_STAT_PEND 0 1).set F.IMG_MC_STAT_OUTCOME 0 0).set F.IMG_MC_STAT_REASON 0 0).sendMode 0x30
        (u.get F.RNG_RSTAT_MASTER_HUB) (be 1 (w % 32) ++ State.whenBytes inst)) :=
      (if_neg (by rw [idle]; simp)).trans (if_pos req)
    refine ⟨_, execModeRequest_of_run wr req run, ?_, ?_, ?_, ?_⟩
    · rw [State.flag_set_beside _ _ (by decide), State.flag_set_beside _ _ (by decide)]
      exact State.flag_set_self _ _ _ (by decide) (by decide)
    · rw [State.get_set_beside _ _ (by decide)]
      exact State.get_set_self _ _ _ (by decide) (by decide)
    · exact State.get_set_self _ _ _ (by decide) (by decide)
    · simp [u]
  · intro r
    exact ⟨if_pos refused, if_pos refused, if_pos refused, if_pos refused, if_pos refused, if_pos refused, if_pos refused, if_pos refused⟩
  · intro u m w
    refine ⟨fun follower => ⟨execModereq_of_follower fine follower, execModeqry_of_follower fine follower⟩, execModereq_of_open fine, execModereq_of_unknown fine,
      fun e n master idle known timed => ⟨execModereq_of_late fine master idle known timed, fun early => ?_⟩, fun r master go same => ?_,
      execModeqry_of_no_go fine⟩
    · rw [show w = .time n from timed]
      exact execModereq_of_good fine master idle known timed early
    · subst same
      exact execModeqry_of_go fine master go
  · intro u ack check
    exact ⟨fun good => (execModearm_of_check fine check).trans (if_pos good), fun bad => (execModearm_of_check fine check).trans (if_neg bad)⟩
  · intro u
    refine ⟨fun open_ master same => ?_, fun open_ other => ?_, fun unarmed => ⟨execModego_of_unarmed fine unarmed, execModeabt_of_unarmed fine unarmed⟩,
      fun armed other => ⟨(execModego_of_arm fine armed).trans (if_pos other), (execModeabt_of_arm fine armed).trans (congrArg Host.Outcome.next (if_neg other))⟩,
      fun armed same => (execModeabt_of_arm fine armed).trans (congrArg Host.Outcome.next (if_pos same)), fun armed same asked => ?_,
      fun n armed same unasked timed => ?_, execModeres_of_waiting fine, fun pending => (if_neg (ne_true_of_eq_false fine)).trans (if_pos pending),
      execModestat_of_other fine, execModestat_of_same fine⟩
    · exact (execModeack_of_change fine open_).trans (if_neg (by simp [show (s.take f).master = true from master, same]))
    · refine (execModeack_of_change fine open_).trans (if_pos ?_)
      obtain follower | other := other
      · exact .inl (by simp [show (s.take f).master = false from follower])
      · exact .inr other
    · exact (execModego_of_arm fine armed).trans ((if_neg (not_not.mpr same)).trans (if_pos (Option.isSome_iff_ne_none.mpr asked)))
    · refine (execModego_of_arm fine armed).trans ((if_neg (not_not.mpr same)).trans ((if_neg (by simp [unasked])).trans ?_))
      rw [timed]
  · intro m
    refine ⟨fun c open_ => ⟨fun master late => ?_, fun waits => ?_⟩, execModestatSend_of_due, execModestatSend_of_waits, fun n armed timed go late => ?_,
      fun n armed timed waits => ?_, fun h r x armed phased go past => ?_, fun t armed est go late => ?_, fun waits => ?_, fun armed waits => ?_,
      fun armed no reached found first => ?_, fun armed no reached lost first => ?_⟩
    · exact (execModeDeadline_of_change open_).trans (congrArg Host.Outcome.next (if_pos ⟨master, late⟩))
    · refine (execModeDeadline_of_change open_).trans (congrArg Host.Outcome.next (if_neg fun h => ?_))
      exact waits.elim (fun no => absurd h.1 (ne_true_of_eq_false no)) fun early => absurd h.2 (not_le.mpr early)
    · refine (execOverlayInstant_of_arm armed).trans (congrArg Host.Outcome.next (if_pos ?_))
      rw [go, State.modeReached_time timed, decide_eq_true late]
      rfl
    · refine (execOverlayInstant_of_arm armed).trans (congrArg Host.Outcome.next (if_neg ?_))
      rw [State.modeReached_time timed]
      obtain no | early := waits
      · simp [no]
      · simp [early]
    · refine (execOverlayInstant_of_arm armed).trans (congrArg Host.Outcome.next (if_pos ?_))
      rw [go, State.modeReached_phase phased, decide_eq_true past]
      rfl
    · exact (execModeLateApply_of_est armed est).trans (congrArg Host.Outcome.next (if_pos (by simp [go, late])))
    · obtain unarmed | ⟨b, armed, none_ | no | ⟨t, est, early⟩⟩ := waits
      · change execModeLateApply s = _
        unfold execModeLateApply
        rw [unarmed]
      · exact execModeLateApply_of_no_est armed none_
      · cases est : b.est with
        | none => exact execModeLateApply_of_no_est armed est
        | some t => exact (execModeLateApply_of_est armed est).trans (congrArg Host.Outcome.next (if_neg (by simp [no])))
      · exact (execModeLateApply_of_est armed est).trans (congrArg Host.Outcome.next (if_neg (by simp [early])))
    · refine (execModeInstantNoGo_of_arm armed).trans (if_pos ?_)
      obtain go | early | asked := waits
      · simp [go]
      · simp [early]
      · simp [asked, m]
    · exact (execModeInstantNoGo_of_arm armed).trans ((if_neg (by simp [no, reached, show a.asked ≠ some (s.get F.RNG_RSTAT_MASTER_HUB) from first])).trans (if_neg found))
    · exact (execModeInstantNoGo_of_arm armed).trans ((if_neg (by simp [no, reached, show a.asked ≠ some (s.get F.RNG_RSTAT_MASTER_HUB) from first])).trans (if_pos lost))

end Sys2Proof.Machine

/-! PROOFS. Key slots, look-aside jobs, chaining states and pages. -/

namespace Sys2Proof.Machine

-- One theorem at a time, as in the tests: a theorem that waits for the kernel holds a stack of its own.
set_option Elab.async false

section
variable {s : State} {f : Frame} {x : RegRow} {n k : Nat} {p : Page} {a : State.Res} {t : State}

/-! ### Writes of a page's registers -/

/-- The page that a write of a page register names. -/
theorem State.WritesReg.pageOf {r : Fld} (wr : s.WritesReg f r n x) (small : n < 64) (mult : r.mult = 0x100 := by decide)
    (low : 0xE1000 ≤ r.off := by decide) (high : r.off < 0xE1100 := by decide) : pageOf f = n := by
  have aim := wr.aim
  rw [mult] at aim
  unfold regOff at aim
  unfold Machine.pageOf
  split_ifs at aim <;> omega

theorem State.WritesReg.pageEffect {r : Fld} (wr : s.WritesReg f r n x) (block : r.off / 0x10000 = 14 := by decide)
    (page : 0xE1000 ≤ r.off := by decide) :
    writeEffect f x (regOff f.offset) (wordOf f) (r.mult * n) s = writePage f x (regOff f.offset) (wordOf f) (r.mult * n) s :=
  writeEffect_page wr.name block page

theorem onPage_of_none {g : Page → State → State.Res × State} (here : Machine.pageOf f = n) (absent : s.page? n = none) :
    onPage f s g = ({ st := .viol, reason := 5 }, s) := by
  unfold onPage
  rw [here, absent]

theorem onPage_of_other {g : Page → State → State.Res × State} (here : Machine.pageOf f = n) (found : s.page? n = some p) (other : State.notOwner p f = true) :
    onPage f s g = ({ st := .viol, reason := 5 }, s) := by
  unfold onPage
  rw [here, found]
  exact if_pos other

theorem onPage_of_owner {g : Page → State → State.Res × State} (here : Machine.pageOf f = n) (found : s.page? n = some p) (mine : State.notOwner p f = false) :
    onPage f s g = g p s := by
  unfold onPage
  rw [here, found]
  exact if_neg (ne_true_of_eq_false mine)

/-! ### Key slots -/

section
variable (small : n < 64) (wr : s.WritesReg f F.UPnn_KD_OP n x)
include small wr

theorem pageRow_kd_of_none {op : Nat} (aim : wordOf f % 4 = op) (absent : s.page? n = none) :
    pageRow F.UPnn_KD_OP op f s = .next (s.settle 5 f { st := .viol, reason := 5 }) := by
  refine wr.ends (by rw [wr.at_reg (by decide) small, aim]; simp) (wr.pageEffect.trans ?_)
  unfold writePage
  rw [if_neg (by rw [wr.name]; decide), Nat.mul_div_cancel_left n (by decide), absent]

theorem pageRow_kd_of_page {op : Nat} (aim : wordOf f % 4 = op) (found : s.page? n = some p) (run : kdWrite f s = (a, t)) :
    pageRow F.UPnn_KD_OP op f s = .next (t.settle 5 f a) := by
  refine wr.ends (by rw [wr.at_reg (by decide) small, aim]; simp) (wr.pageEffect.trans ?_)
  unfold writePage
  rw [if_neg (by rw [wr.name]; decide), Nat.mul_div_cancel_left n (by decide), found]
  exact (if_pos wr.name).trans (by rw [run])

end

section
variable (here : Machine.pageOf f = n)
include here

theorem kdWrite_of_bad (command : wordOf f % 4 = 1 ∨ wordOf f % 4 = 2)
    (bad : s.slotIn n (bits (wordOf f) 15 8) = false ∨ wordOf f % 4 = 1 ∧ bits (wordOf f) 7 3 = 0) : kdWrite f s = ({ st := .ur }, s) := by
  refine if_pos ⟨command, ?_⟩
  rw [here]
  exact bad.imp_left fun out => by rw [out]; rfl

section
variable (inside : s.slotIn n (bits (wordOf f) 15 8) = true) (length : wordOf f % 4 ≠ 1 ∨ bits (wordOf f) 7 3 ≠ 0)
include inside length

theorem kdWrite_of_good : kdWrite f s = onPage f s fun _ s =>
    if wordOf f % 4 ≠ 1 ∧ wordOf f % 4 ≠ 2 then ({}, s)
    else if (s.slot (bits (wordOf f) 15 8)).st = .deriving_ then ({ st := .busy }, s)
    else if wordOf f % 4 = 2 then ({}, s.eraseSlot (bits (wordOf f) 15 8))
    else ({}, s.derive (bits (wordOf f) 15 8) (bit (wordOf f) 2) lblUser
      (be 1 (s.get F.UPnn_CFG_DOMAIN n) ++ (s.pageBytes F.UPnn_KDCTX n 0 8).take (bits (wordOf f) 7 3))) := by
  subst here
  refine if_neg ?_
  rintro ⟨-, out | ⟨one, none_⟩⟩
  · rw [inside] at out
    exact Bool.false_ne_true out
  · exact length.elim (fun h => h one) fun h => h none_

variable (found : s.page? n = some p)
include found

theorem kdWrite_of_other (other : State.notOwner p f = true) : kdWrite f s = ({ st := .viol, reason := 5 }, s) :=
  (kdWrite_of_good here inside length).trans (onPage_of_other here found other)

variable (mine : State.notOwner p f = false)
include mine

theorem kdWrite_of_deriving (command : wordOf f % 4 = 1 ∨ wordOf f % 4 = 2) (busy : (s.slot (bits (wordOf f) 15 8)).st = .deriving_) :
    kdWrite f s = ({ st := .busy }, s) :=
  (kdWrite_of_good here inside length).trans ((onPage_of_owner here found mine).trans ((if_neg (by omega)).trans (if_pos busy)))

variable (idle : (s.slot (bits (wordOf f) 15 8)).st ≠ .deriving_)
include idle

theorem kdWrite_of_erase (op : wordOf f % 4 = 2) : kdWrite f s = ({}, s.eraseSlot (bits (wordOf f) 15 8)) :=
  (kdWrite_of_good here inside length).trans ((onPage_of_owner here found mine).trans ((if_neg (by omega)).trans ((if_neg idle).trans (if_pos op))))

theorem kdWrite_of_derive (op : wordOf f % 4 = 1) : kdWrite f s = ({}, s.derive (bits (wordOf f) 15 8) (bit (wordOf f) 2) lblUser
    (be 1 (s.get F.UPnn_CFG_DOMAIN n) ++ (s.pageBytes F.UPnn_KDCTX n 0 8).take (bits (wordOf f) 7 3))) :=
  (kdWrite_of_good here inside length).trans ((onPage_of_owner here found mine).trans ((if_neg (by omega)).trans ((if_neg idle).trans (if_neg (by omega)))))

end

end

theorem State.slot_derive {d : Bool} {l c : List Byte} (calm : s.cry.squall = false) : (s.derive k d l c).slot k =
    { s.slot k with st := .deriving_, key := kdf (s.rootOf d) l c, gen := ((s.slot k).gen + 1) % 2 ^ 16, dev := d } := by
  unfold State.derive
  rw [if_neg (ne_true_of_eq_false calm)]
  simp [State.rewriteSlot, State.onCry, State.slot]

/-! ### Look-aside jobs -/

section
variable (small : n < 64) (wr : s.WritesReg f F.UPnn_GO_GO n x) (go : bit (wordOf f) 0 = true)
include small wr go

theorem execLaGo_of_run (run : goWrite f s = (some a, t)) : exec (.laGo f) s = .next (t.settle 5 f a) := by
  refine wr.ends (by rw [wr.at_reg (by decide) small, go]; rfl) (wr.pageEffect.trans ?_)
  unfold writePage
  rw [if_pos wr.name, run]

theorem execLaGo_of_queued (run : goWrite f s = (none, t)) : exec (.laGo f) s = .next (t.take f) := by
  have effect : writeEffect f x (regOff f.offset) (wordOf f) (F.UPnn_GO_GO.mult * n) s = (none, t) := by
    refine wr.pageEffect.trans ?_
    unfold writePage
    rw [if_pos wr.name, run]
  refine (wr.row_eq (by rw [wr.at_reg (by decide) small, go]; rfl)).trans ?_
  rw [effect]

omit small wr in
theorem goWrite_of_none (here : Machine.pageOf f = n) (absent : s.page? n = none) : goWrite f s = (some { st := .viol, reason := 5 }, s) := by
  unfold goWrite
  rw [here]
  refine (if_neg (by simp [go])).trans ?_
  rw [absent]

end

section
variable (here : Machine.pageOf f = n) (go : bit (wordOf f) 0 = true) (found : s.page? n = some p)
include here go found

theorem goWrite_of_page : goWrite f s =
    if s.jobWrong p (s.jobOf n f) then (some { st := .ur }, s)
    else if State.notOwner p f then (some { st := .viol, reason := 5 }, s)
    else match s.jobRefused (s.jobOf n f) with
      | some r => (some { st := .viol, reason := r }, s)
      | none =>
        if 4 ≤ p.queue.length then (some { st := .nores }, s.bump F.CRY_CNT_QFULL)
        else (none, s.setPage n { p with queue := p.queue ++ [s.jobOf n f] }) := by
  unfold goWrite
  rw [here]
  refine (if_neg (by simp [go])).trans ?_
  rw [found] <;> rfl

variable (right : s.jobWrong p (s.jobOf n f) = false) (mine : State.notOwner p f = false)
include right mine

theorem goWrite_of_refused {r : Nat} (refused : s.jobRefused (s.jobOf n f) = some r) : goWrite f s = (some { st := .viol, reason := r }, s) := by
  rw [goWrite_of_page here go found, refused]
  exact (if_neg (ne_true_of_eq_false right)).trans (if_neg (ne_true_of_eq_false mine))

theorem goWrite_of_good (good : s.jobRefused (s.jobOf n f) = none) : goWrite f s =
    if 4 ≤ p.queue.length then (some { st := .nores }, s.bump F.CRY_CNT_QFULL)
    else (none, s.setPage n { p with queue := p.queue ++ [s.jobOf n f] }) := by
  rw [goWrite_of_page here go found, good]
  exact (if_neg (ne_true_of_eq_false right)).trans (if_neg (ne_true_of_eq_false mine))

end

theorem execLaJobStart_of_next {j : Job} {l : List Job} (idle : s.cry.running = none) (calm : s.cry.squall = false) (next : s.nextPage = some (n, p))
    (queue : p.queue = j :: l) : exec .laJobStart s =
      if (s.slot j.slot).gen ≠ j.gen then .next (((s.onCry fun c => { c with rotor := n }).bump F.CRY_CNT_STALE).jobDone j 3 0 .stale none)
      else if (s.slot j.slot).st = .ready then .next (s.onCry fun c => { c with rotor := n, running := some (j, (s.slot j.slot).key) })
      else .next s := by
  change execLaJobStart s = _
  unfold execLaJobStart
  rw [if_neg (by simp [idle, calm]), next]
  simp only [queue]

theorem State.jobEnd_of_fault {j : Job} {key : List Byte} {b : Nat} (runs : j.abort = none) (writes : j.writes = true) :
    s.jobEnd j key true b = (s.zeroRange j.dst j.len).jobDone j 6 (min j.len (16 * b)) .poison none := by
  unfold State.jobEnd
  rw [runs]
  simp only [writes, Option.isSome_none, Bool.false_eq_true, if_false, if_true]

/-- The last part of an opening: the text only if the tag is right. -/
theorem State.jobEnd_of_checks {j : Job} {key : List Byte} {b : Nat} (runs : j.abort = none) (checks : j.checks = true) (final : j.final = true)
    (writes : j.writes = true) (noTag : j.tags = false) :
    s.jobEnd j key false b =
      let x := s.compute key j ((s.page? j.page).bind fun p => p.chain)
      if s.bulkBytes j.taga j.tlen = x.2.1.take j.tlen
        then ({ s with bulk := Mem.writeN s.bulk j.dst x.1 } : State).jobDone j 1 j.len .ok none
        else ((s.zeroRange j.dst j.len).bump F.CRY_CNT_AUTHFAIL).jobDone j 2 j.len .poison none := by
  unfold State.jobEnd
  rw [runs]
  simp only [writes, checks, noTag, final, Option.isSome_none, Bool.false_eq_true, if_false, if_true, Bool.true_and, decide_eq_true_eq]
  exact ite_not _ _ _

/-! ### Chaining states -/

section
variable (small : n < 64) (wr : s.WritesReg f F.UPnn_CTXCTL_OP n x)
include small wr

theorem pageRow_ctx_of_refused {op : Nat} (aim : wordOf f % 4 = op) (refused : s.page? n = none ∨ (s.page? n = some p ∧ State.notOwner p f = true)) :
    pageRow F.UPnn_CTXCTL_OP op f s = .next (s.settle 5 f { st := .viol, reason := 5 }) := by
  refine wr.ends (by rw [wr.at_reg (by decide) small, aim]; simp) (wr.pageEffect.trans ?_)
  unfold writePage
  rw [if_neg (by rw [wr.name]; decide), Nat.mul_div_cancel_left n (by decide)]
  obtain absent | ⟨found, other⟩ := refused
  · rw [absent]
  · rw [found]
    exact (if_neg (by rw [wr.name]; decide)).trans (if_pos other)

theorem pageRow_ctx_of_owner {op : Nat} (aim : wordOf f % 4 = op) (found : s.page? n = some p) (mine : State.notOwner p f = false) (run : ctxWrite f s = (a, t)) :
    pageRow F.UPnn_CTXCTL_OP op f s = .next (t.settle 5 f a) := by
  refine wr.ends (by rw [wr.at_reg (by decide) small, aim]; simp) (wr.pageEffect.trans ?_)
  unfold writePage
  rw [if_neg (by rw [wr.name]; decide), Nat.mul_div_cancel_left n (by decide), found]
  exact (if_neg (by rw [wr.name]; decide)).trans ((if_neg (ne_true_of_eq_false mine)).trans ((if_pos wr.name).trans (by rw [run])))

end

section
variable (here : Machine.pageOf f = n) (found : s.page? n = some p) (mine : State.notOwner p f = false)
include here found mine

theorem ctxWrite_of_busy (command : wordOf f % 4 = 1 ∨ wordOf f % 4 = 2) (busy : p.queue ≠ []) :
    ctxWrite f s = ({ st := .busy }, s.set F.UPnn_CTXCTL_RESULT n 3) := by
  unfold ctxWrite
  simp only [onPage_of_owner here found mine, here]
  exact (if_neg (by omega)).trans (if_pos (by simp [busy]))

variable (idle : p.queue = []) (plain : bit (wordOf f) 2 = false)
include idle plain

theorem ctxWrite_of_save {h : Chain} (op : wordOf f % 4 = 1) (chain : p.chain = some h) :
    ctxWrite f s = ({}, (s.setPageBytes F.UPnn_CTX n h.bytes).set F.UPnn_CTXCTL_RESULT n 0) := by
  unfold ctxWrite
  simp only [onPage_of_owner here found mine, here]
  refine (if_neg (by omega)).trans ((if_neg (by simp [idle])).trans ((if_pos op).trans ?_))
  simp only [chain, plain, Bool.false_eq_true, if_false]

theorem ctxWrite_of_restore (op : wordOf f % 4 = 2) : ctxWrite f s =
    let c := chainOf ((s.pageBytes F.UPnn_CTX n 0 21).take 56)
    if c.gen = (s.slot c.slot).gen then ({}, (s.setPage n { p with chain := some c }).set F.UPnn_CTXCTL_RESULT n 0)
    else ({}, (s.setPage n { p with chain := none }).set F.UPnn_CTXCTL_RESULT n 2) := by
  unfold ctxWrite
  simp only [onPage_of_owner here found mine, here]
  refine (if_neg (by omega)).trans ((if_neg (by simp [idle])).trans ((if_neg (by omega)).trans ?_))
  simp only [plain, Bool.false_eq_true, if_false, Bool.not_true]

end

/-! ### Pages -/

section
variable {op : Nat} (wr : s.WritesReg f F.CRY_CMD_OP 0 x) (mine : s.holds .cry f.src f.init = true)
include wr mine

theorem State.WritesReg.cryCommand (aim : wordOf f % 4 = op)
    (run : (if wordOf f % 4 = 1 then pageAlloc f.src f.init (s.unlock .cry) else if wordOf f % 4 = 2 then pageFree (bits (wordOf f) 7 2) f (s.unlock .cry)
      else ({}, s.unlock .cry)) = (a, t)) : lockRow .cry op f s = .next (t.settle 5 f a) := by
  have here : (atReg f LockId.cry.cmd.1 && decide (wordOf f % LockId.cry.cmd.2 = op)) = true := by
    rw [show atReg f LockId.cry.cmd.1 = true from wr.at_first (by decide), show wordOf f % LockId.cry.cmd.2 = op from aim]
    simp
  refine wr.ends here ((writeEffect_cry wr.name).trans ?_)
  simp only [writeCry, wr.name, locked_of_holds mine, run]
  rfl

end

/-- The run-time page that is free. -/
def State.freePage (s : State) : Option Nat := Tbl.firstFree s.cry.pages s.img.pages.length (64 - s.img.pages.length)

theorem pageAlloc_of_full {hub init : Nat} (full : s.freePage = none) :
    pageAlloc hub init s = ({ st := .nores }, (s.cryRes (s.get F.CRY_CMD_RES_PAGE) 1).bump F.CRY_CNT_EXH) := by
  unfold State.freePage at full
  unfold pageAlloc
  simp only [full]

theorem pageAlloc_of_free {hub init : Nat} (free : s.freePage = some k) :
    pageAlloc hub init s = ({}, (s.openPage k hub init true).cryRes k 0) := by
  unfold State.freePage at free
  unfold pageAlloc
  simp only [free]

theorem pageFree_of_page (found : s.page? n = some p) : pageFree n f s =
    if !p.runtime then ({}, s.cryRes (s.get F.CRY_CMD_RES_PAGE) 4)
    else if State.notOwner p f ∧ classOf s.hubNum f.src f.init ≠ some .mirik then ({ st := .viol, reason := 5 }, s)
    else if !p.queue.isEmpty then ({}, s.cryRes (s.get F.CRY_CMD_RES_PAGE) 2)
    else ({}, ((s.erasePage n).onCry fun c => { c with pages := Tbl.erase c.pages n }).cryRes (s.get F.CRY_CMD_RES_PAGE) 0) := by
  unfold pageFree
  rw [found]

end

/-- Settles O51: a command on a page by its owner and its slot, a job by its key's generation, a chaining state by its key. -/
theorem keysAndJobsBelongToPages : Obligations.KeysAndJobsBelongToPages := by
  unfold Obligations.KeysAndJobsBelongToPages
  refine ⟨fun s f x n small wr => ?_, fun s k => ⟨fun d l c squall => if_pos squall, fun d l c calm => State.slot_derive calm, fun deriving_ => if_pos deriving_,
      fun other => if_neg other⟩, fun s f x n p small wr => ?_, fun s n p j l => ?_, fun s f x n p small wr => ?_, fun s f x wr mine => ?_⟩
  · intro w k ctx
    have here := wr.pageOf small
    refine ⟨fun no => if_neg (by simp [show wordOf f % 4 ≠ 1 from no]), fun no => if_neg (by simp [show wordOf f % 4 ≠ 2 from no]),
      fun op => ⟨pageRow_kd_of_none small wr op, fun p found => ⟨fun bad => ?_, fun inside length => ?_⟩⟩,
      fun op => ⟨pageRow_kd_of_none small wr op, fun p found => ⟨fun out => ?_, fun inside => ?_⟩⟩⟩
    · exact pageRow_kd_of_page small wr op found (kdWrite_of_bad here (.inl op) (bad.imp_right fun empty => ⟨op, empty⟩))
    · exact ⟨fun other => pageRow_kd_of_page small wr op found (kdWrite_of_other here inside (.inr length) found other),
        fun mine busy => pageRow_kd_of_page small wr op found (kdWrite_of_deriving here inside (.inr length) found mine (.inl op) busy),
        fun mine idle => pageRow_kd_of_page small wr op found (kdWrite_of_derive here inside (.inr length) found mine idle op)⟩
    · exact pageRow_kd_of_page small wr op found (kdWrite_of_bad here (.inr op) (.inl out))
    · have erase : wordOf f % 4 ≠ 1 ∨ bits (wordOf f) 7 3 ≠ 0 := .inl (by omega)
      exact ⟨fun other => pageRow_kd_of_page small wr op found (kdWrite_of_other here inside erase found other),
        fun mine busy => pageRow_kd_of_page small wr op found (kdWrite_of_deriving here inside erase found mine (.inr op) busy),
        fun mine idle => pageRow_kd_of_page small wr op found (kdWrite_of_erase here inside erase found mine idle op)⟩
  · intro j
    have here := wr.pageOf small
    refine ⟨fun no => if_neg (by simp [no]), fun go => ⟨fun absent => execLaGo_of_run small wr go (goWrite_of_none go here absent), fun found wrong => ?_,
      fun found right => ⟨fun other => ?_, fun r mine refused => ?_, fun mine good full => ?_, fun mine good room => ?_⟩⟩⟩
    · exact execLaGo_of_run small wr go ((goWrite_of_page here go found).trans (if_pos wrong))
    · exact execLaGo_of_run small wr go ((goWrite_of_page here go found).trans ((if_neg (ne_true_of_eq_false right)).trans (if_pos other)))
    · exact execLaGo_of_run small wr go (goWrite_of_refused here go found right mine refused)
    · exact execLaGo_of_run small wr go ((goWrite_of_good here go found right mine good).trans (if_pos full))
    · exact execLaGo_of_queued small wr go ((goWrite_of_good here go found right mine good).trans (if_neg (not_le.mpr room)))
  · refine ⟨fun waits => if_pos ?_, fun idle calm next queue => ⟨fun stale => ?_, fun same ready => ?_, fun same waits => ?_⟩, fun none_ x b => ?_, fun x b key running => ?_,
      fun b key runs writes => State.jobEnd_of_fault runs writes, fun b key runs checks final writes noTag => State.jobEnd_of_checks runs checks final writes noTag⟩
    · obtain busy | squall := waits
      · simp [Option.isSome_iff_ne_none.mpr busy]
      · simp [squall]
    · exact (execLaJobStart_of_next idle calm next queue).trans (if_pos stale)
    · exact (execLaJobStart_of_next idle calm next queue).trans ((if_neg (not_not.mpr same)).trans (if_pos ready))
    · exact (execLaJobStart_of_next idle calm next queue).trans ((if_neg (not_not.mpr same)).trans (if_neg (by rw [waits]; decide)))
    · change execLaJobEnd x b s = _
      unfold execLaJobEnd
      rw [none_]
    · change execLaJobEnd x b s = _
      unfold execLaJobEnd
      rw [running]
  · intro w b c
    have here := wr.pageOf small
    refine ⟨fun no => if_neg (by simp [show wordOf f % 4 ≠ 1 from no]), fun no => if_neg (by simp [show wordOf f % 4 ≠ 2 from no]),
      fun refused => ⟨fun op => pageRow_ctx_of_refused small wr op refused, fun op => pageRow_ctx_of_refused small wr op refused⟩,
      fun found mine => ⟨fun op busy => ?_, fun h op idle plain chain => ?_, fun op idle plain same => ?_, fun op idle plain other => ?_⟩⟩
    · exact pageRow_ctx_of_owner small wr op found mine (ctxWrite_of_busy here found mine (.inl op) busy)
    · exact pageRow_ctx_of_owner small wr op found mine (ctxWrite_of_save here found mine idle plain op chain)
    · exact pageRow_ctx_of_owner small wr op found mine ((ctxWrite_of_restore here found mine idle plain op).trans (if_pos same))
    · exact pageRow_ctx_of_owner small wr op found mine ((ctxWrite_of_restore here found mine idle plain op).trans (if_neg other))
  · intro u old d n
    refine ⟨fun op => ⟨fun full => wr.cryCommand mine op ((if_pos op).trans (pageAlloc_of_full full)),
      fun k free => wr.cryCommand mine op ((if_pos op).trans (pageAlloc_of_free free))⟩, fun op => ?_⟩
    · have run {a : State.Res} {t : State} (free : pageFree n f u = (a, t)) : exec (.pageFree f) s = .next (t.settle 5 f a) :=
        wr.cryCommand mine op ((if_neg (by omega)).trans ((if_pos op).trans free))
      refine ⟨fun absent => run ?_, fun p found => ⟨fun image => ?_, fun runtime other foreign => ?_, fun runtime owner busy => ?_, fun runtime owner idle => ?_⟩⟩
      · unfold pageFree
        rw [absent]
      · exact run ((pageFree_of_page found).trans (if_pos (by simp [image])))
      · exact run ((pageFree_of_page found).trans ((if_neg (by simp [runtime])).trans (if_pos ⟨other, foreign⟩)))
      · exact run ((pageFree_of_page found).trans ((if_neg (by simp [runtime])).trans ((if_neg (by simp [owner])).trans (if_pos (by simp [busy])))))
      · exact run ((pageFree_of_page found).trans ((if_neg (by simp [runtime])).trans ((if_neg (by simp [owner])).trans (if_neg (by simp [idle])))))

end Sys2Proof.Machine

/-! PROOFS. Epochs of the link keys, squalls, tamper inputs and fuses. -/

namespace Sys2Proof.Machine

-- One theorem at a time, as in the tests: a theorem that waits for the kernel holds a stack of its own.
set_option Elab.async false

section
variable {s : State} {l : Lane} {c : LinkCtx}

/-! ### Epochs -/

theorem State.moveDue_iff (unasked : s.cry.rotate.contains l.ix = false) (found : s.curCtx l true = some c) :
    s.moveDue l = true ↔ c.since + s.get F.CRY_LK_CFG_PERIOD * 3600000000000 ≤ s.up ∨ c.mark < c.hopiv / 2 ^ 40 := by
  unfold State.moveDue
  rw [unasked, found, Bool.false_or]
  exact (Bool.or_eq_true _ _).to_iff.trans (or_congr decide_eq_true_iff decide_eq_true_iff)

theorem State.moveEpoch_of_last (found : s.curCtx l true = some c) (last : 0xFFFF ≤ c.epoch) : s.moveEpoch l =
    (s.onCry fun k => { k with rotate := k.rotate.filter fun x => decide (x ≠ l.ix) }).set F.CRY_LK_STAT_EPMAX 0 1 := by
  unfold State.moveEpoch
  rw [found]
  exact if_pos last

/-! ### Squalls -/

/-- A squall that is enabled is noted under its source. -/
theorem execSquall_of_on {k : Nat} {t : State}
    (on : (if k < 4 then bit (s.get F.CRY_SQ_CFG_TMPEN) k else if k = 4 then s.flag F.CRY_SQ_CFG_VMON
      else if k = 5 then s.flag F.CRY_SQ_CFG_TMON else s.flag F.CRY_SQ_CFG_CMON) = true)
    (shown : (if k < 4 then s.set F.CRY_SQ_STAT_TMP 0 (setBit (s.get F.CRY_SQ_STAT_TMP) k true) else if k = 4 then s.set F.CRY_SQ_STAT_VMON 0 1
      else if k = 5 then s.set F.CRY_SQ_STAT_TMON 0 1 else s.set F.CRY_SQ_STAT_CMON 0 1) = t) :
    exec (.squall k) s = .next (t.squall.note 0x38 14 [k]) := by
  change execSquall k s = _
  unfold execSquall
  rw [on, shown]
  rfl

theorem execSquall_of_off {k : Nat}
    (off : (if k < 4 then bit (s.get F.CRY_SQ_CFG_TMPEN) k else if k = 4 then s.flag F.CRY_SQ_CFG_VMON
      else if k = 5 then s.flag F.CRY_SQ_CFG_TMON else s.flag F.CRY_SQ_CFG_CMON) = false) : exec (.squall k) s = .next s := by
  change execSquall k s = _
  unfold execSquall
  rw [off]
  rfl

theorem State.squall_latched (s : State) : s.squall.flag F.CRY_STAT_SQUALL = true :=
  State.flag_set_self _ 0 1 (by decide) (by decide)

/-- The erasure of the keys leaves no link key, no fleet root and no page's key, state or job. -/
theorem State.eraseKeys_pages (s : State) : ∀ p ∈ s.eraseKeys.cry.pages, p.2.key = [] ∧ p.2.chain = none ∧ p.2.queue = [] := by
  intro p mem
  obtain ⟨q, -, rfl⟩ := List.mem_map.mp mem
  exact ⟨rfl, rfl, rfl⟩

/-! ### Fuses -/

section
variable {f : Frame} {x : RegRow} {op : Nat} (wr : s.WritesReg f F.CRY_FUSE_CMD_OP 0 x) (aim : wordOf f % 8 = op)
include wr aim

theorem State.WritesReg.fuseRow {a : State.Res} {t : State} (run : fuseCmd (wordOf f) s = (a, t)) : fuseRow op f s = .next (t.settle 5 f a) := by
  refine wr.ends (by rw [wr.at_first (by decide), aim]; simp) ((writeEffect_cry wr.name).trans ?_)
  unfold writeCry
  rw [if_pos wr.name, run]

theorem fuseRow_of_busy (busy : s.flag F.CRY_FUSE_STAT_BUSY = true) : Machine.fuseRow op f s = .next (s.settle 5 f { st := .busy }) :=
  wr.fuseRow aim (if_pos busy)

theorem fuseRow_of_idle (idle : s.flag F.CRY_FUSE_STAT_BUSY = false) (low : 0 < op) (high : op < 6) : Machine.fuseRow op f s =
    .next (((s.onCry fun c => { c with fuseCmd := some (wordOf f % 8, bits (wordOf f) 4 3) }).set F.CRY_FUSE_STAT_BUSY 0 1).settle 5 f {}) :=
  wr.fuseRow aim ((if_neg (ne_true_of_eq_false idle)).trans (if_neg (by omega)))

end

/-- The state in which a fuse command has ended with a result and the data that it read. -/
def State.fuseEnded (s : State) (r : Nat) (d : List Byte) : State :=
  ((((s.onCry fun c => { c with fuseCmd := none }).set F.CRY_FUSE_STAT_BUSY 0 0).setFuseData d).set F.CRY_FUSE_STAT_RESULT 0 r).showFuses

section
variable {op k : Nat} (running : s.cry.fuseCmd = some (op, k))
include running

theorem execFuseDone_of_running (x : Nat) : exec (.fuseDone x) s =
    let b := if x = 2 ∨ x = 3 then (x, s) else s.burn op k
    .next (b.2.fuseEnded b.1 (if op = 5 ∧ b.1 = 0 then (b.2.cry.fuse.imgkey.getD k none).getD (zeros 48) else zeros 48)) := by
  change execFuseDone x s = _
  unfold execFuseDone
  rw [running]
  rfl

theorem execFuseDone_of_fault {x : Nat} (fault : x = 2 ∨ x = 3) : exec (.fuseDone x) s = .next (s.fuseEnded x (zeros 48)) := by
  rw [execFuseDone_of_running running, if_pos fault]
  exact congrArg (fun d => Host.Outcome.next (s.fuseEnded x d)) (if_neg (by omega))

/-- A fuse command that programs or revokes ends with the result of its fuses. -/
theorem execFuseDone_of_burn {r : Nat} {t : State} (other : op ≠ 5) (burn : s.burn op k = (r, t)) :
    exec (.fuseDone 0) s = .next (t.fuseEnded r (zeros 48)) := by
  rw [execFuseDone_of_running running, if_neg (by omega), burn]
  exact congrArg (fun d => Host.Outcome.next (t.fuseEnded r d)) (if_neg fun h => other h.1)

end

end

/-- Settles O52: an epoch by its period and its lane, a squall by its source, a fuse command by the one that runs and by its fuses. -/
theorem epochsSquallsAndFuses : Obligations.EpochsSquallsAndFuses := by
  unfold Obligations.EpochsSquallsAndFuses
  refine ⟨fun s f x wr => ?_, fun s l c => ⟨fun due may => congrArg Host.Outcome.next (if_pos (by simp [due, may])), fun no => ?_, State.moveDue_iff,
      fun may => ?_, fun may unasked => ?_, rfl, State.moveEpoch_of_last⟩,
    fun s k m => ⟨fun few off => execSquall_of_off ((if_pos few).trans off), fun few on => execSquall_of_on ((if_pos few).trans on) (if_pos few),
      fun on => execSquall_of_on on rfl, fun on => execSquall_of_on on rfl, fun on => execSquall_of_on on rfl, fun off => execSquall_of_off off, s.squall_latched,
      ⟨rfl, rfl, rfl, s.eraseKeys_pages⟩, fun waits => if_pos waits, fun off some_ => if_neg ?_⟩, fun s f x k => ?_⟩
  · refine wr.ends (wr.at_first (by decide)) ((writeEffect_cry wr.name).trans ?_)
    unfold writeCry
    rw [if_neg (by rw [wr.name]; decide), if_pos wr.name]
  · refine congrArg Host.Outcome.next (if_neg ?_)
    obtain no | no := no <;> simp [no]
  · exact if_pos may
  · refine (if_neg (ne_true_of_eq_false may)).trans ?_
    exact congrArg (fun r => s.onCry fun k => { k with rotate := r }) (if_neg (ne_true_of_eq_false unasked))
  · rintro (on | none_)
    · exact absurd on (ne_true_of_eq_false off)
    · exact some_ none_
  · intro op begun ended
    refine ⟨fun wr => ⟨fun no => if_neg (by simp [show wordOf f % 8 ≠ 1 from no]), fun busy => ?_, fun idle => ?_⟩, fun x none_ => ?_,
      fun o x running fault => execFuseDone_of_fault running fault, fun d running set => ?_, fun running free => ?_, fun d running set => ?_, fun running free => ?_,
      fun running free => ?_, fun d running set => ?_⟩
    · intro r
      exact ⟨fun op => fuseRow_of_busy wr op busy, fun op => fuseRow_of_busy wr op busy, fun op => fuseRow_of_busy wr op busy,
        fun op => fuseRow_of_busy wr op busy, fun op => fuseRow_of_busy wr op busy⟩
    · intro r
      exact ⟨fun op => fuseRow_of_idle wr op idle (by decide) (by decide), fun op => fuseRow_of_idle wr op idle (by decide) (by decide),
        fun op => fuseRow_of_idle wr op idle (by decide) (by decide), fun op => fuseRow_of_idle wr op idle (by decide) (by decide),
        fun op => fuseRow_of_idle wr op idle (by decide) (by decide)⟩
    · change execFuseDone x s = _
      unfold execFuseDone
      rw [none_]
    · exact execFuseDone_of_burn running (by decide) (if_pos (by rw [set]; rfl))
    · exact execFuseDone_of_burn running (by decide) (if_neg (by rw [free]; exact Bool.false_ne_true))
    · exact execFuseDone_of_burn running (by decide) (if_pos (by rw [set]; rfl))
    · exact execFuseDone_of_burn running (by decide) (if_neg (by rw [free]; exact Bool.false_ne_true))
    · exact execFuseDone_of_burn running (by decide) (if_neg (by rw [free]; exact Bool.false_ne_true))
    · rw [execFuseDone_of_running running]
      exact congrArg (fun r => Host.Outcome.next (s.fuseEnded 0 r)) (show (s.cry.fuse.imgkey.getD k none).getD (zeros 48) = d by rw [set]; rfl)

end Sys2Proof.Machine

/-! PROOFS. TWS and the notes between twins. -/

namespace Sys2Proof.Machine

-- One theorem at a time, as in the tests: a theorem that waits for the kernel holds a stack of its own.
set_option Elab.async false

section
variable {s : State} {f : Frame} {n : Nat}

/-! ### TWS -/

theorem State.noteSeq_of_next (next : n = s.twn.noteRx) : s.noteSeq n = s.onTwn fun t => { t with noteRx := (n + 1) % 65536 } := by
  unfold State.noteSeq
  rw [if_pos next]

theorem State.noteSeq_of_gap (gap : n ≠ s.twn.noteRx) : s.noteSeq n = s.loseSync.onTwn fun t => { t with noteRx := (n + 1) % 65536 } := by
  unfold State.noteSeq
  rw [if_neg gap]

/-- The partner's role that TWS shows: a reserved one counts as none. -/
def shownRole (n : Nat) : Nat := if bits n 19 16 < 4 then bits n 19 16 else 0

theorem shownRole_lt (n : Nat) : shownRole n < 4 := by
  unfold shownRole
  split
  · assumption
  · decide

theorem execTws_shows (n : Nat) : ∃ t, exec (.tws n) s = .next t ∧ t.twn = { s.twn with psync := bit n 15, pserial := n % 2 ^ 15 }
    ∧ s.OnlyIn [.regs, .twn] t ∧ t.get F.TWN_STAT_PROLE = shownRole n ∧ s.WordsBut [F.TWN_STAT_PROLE.key 0] t := by
  refine ⟨(s.set F.TWN_STAT_PROLE 0 (shownRole n)).onTwn fun t => { t with psync := bit n 15, pserial := n % 2 ^ 15 }, rfl, ?_, by simp, ?_, by simp⟩
  · simp [State.onTwn]
  · exact (State.get_set_self s 0 (shownRole n) (by decide) (by decide)).trans (Nat.mod_eq_of_lt (shownRole_lt n))

theorem execTwsSend_of_waits (waits : s.isTwin = false ∨ s.laneState .t = 0 ∨ ∃ a, s.twn.twsAt = some a ∧ s.up < a + 1000) :
    exec .twsSend s = .next s := by
  change execTwsSend s = _
  unfold execTwsSend
  obtain alone | off | ⟨a, last, early⟩ := waits
  · exact if_pos (by simp [alone])
  · exact if_pos (by simp [off])
  · refine if_pos ?_
    rw [last]
    simp [early]

/-- The state in which a twin has sent TWS. -/
def State.twsSent (s : State) : State :=
  let t := s.onTwn fun t => { t with twsAt := some s.up }
  let u := t.emit (.word .t 6 (t.get F.TWN_STAT_ROLE * 2 ^ 16 + t.get F.TWN_STAT_SYNC * 2 ^ 15 + t.serialLow))
  let since := if u.standby && u.healthy then some (u.twn.healthySince.getD u.up) else none
  u.onTwn fun t => { t with healthySince := since }

theorem State.onlyIn_twsSent (s : State) : s.OnlyIn [.twn, .out] s.twsSent := by
  unfold State.twsSent
  extract_lets t u since
  have first : s.OnlyIn [.twn, .out] u := by simp [u, t]
  exact first.andThen (by simp)

theorem State.activeTwin_twsSent (s : State) : s.twsSent.activeTwin = s.activeTwin := rfl

@[simp] theorem State.noteSeq_cry (s : State) (n : Nat) : (s.noteSeq n).cry = s.cry := by
  unfold State.noteSeq
  split <;> rfl

section
variable (twin : s.isTwin = true) (on : s.laneState .t ≠ 0) (due : ∀ a, s.twn.twsAt = some a → a + 1000 ≤ s.up)
include twin on due

theorem execTwsSend_of_due : exec .twsSend s =
    if s.twsSent.activeTwin then
      let t := s.twsSent.sendOrign s.twsSent.twn.orign.length
      let t := if t.twn.done.isEmpty then t else t.sendDone
      .next (if t.twn.lhistAt + 1000000 ≤ t.up ∨ State.histShape t.twn.lhistSent ≠ State.histShape t.cry.hist then t.sendLhist else t)
    else .next s.twsSent := by
  change execTwsSend s = _
  unfold execTwsSend
  cases last : s.twn.twsAt with
  | none => exact if_neg (by simp [twin, on])
  | some a => exact if_neg (by simp [twin, on, due a last])

/-- TWS alone is sent by a twin that is not active, and by one without a note that is due. -/
theorem execTwsSend_of_quiet (quiet : s.activeTwin = false ∨ s.twn.orign = [] ∧ s.twn.done = [] ∧ s.up < s.twn.lhistAt + 1000000
    ∧ State.histShape s.twn.lhistSent = State.histShape s.cry.hist) : exec .twsSend s = .next s.twsSent := by
  refine (execTwsSend_of_due twin on due).trans ?_
  rw [State.activeTwin_twsSent]
  obtain passive | ⟨orign, done, recent, same⟩ := quiet
  · exact if_neg (ne_true_of_eq_false passive)
  · split
    · extract_lets t u
      have none_ : t = s.twsSent := by simp only [t, show s.twsSent.twn.orign = [] from orign]; rfl
      have same_ : u = s.twsSent := by simp only [u, none_, show s.twsSent.twn.done = [] from done]; rfl
      rw [same_]
      refine congrArg Host.Outcome.next (if_neg ?_)
      rintro (late | other)
      · exact absurd late (not_le.mpr recent)
      · exact other same
    · rfl

end

/-! ### ORIGN, DONE, LHIST and HOSTF -/

/-- An ORIGN of one entry gives the standby the next number of its stream. -/
theorem execOrign_of_one (standby : ((s.take f).noteSeq (beAt f.pay 2 2)).standby = true) (one : f.pay.length = 12) :
    exec (.orign f) s =
      let v := (s.take f).noteSeq (beAt f.pay 2 2)
      let d := beAt f.pay 4 2
      let k := ((b2n (decide (0x8000 ≤ d)) * 256 + v.hubNum) * 4096 + d % 0x8000) * 16 + beAt f.pay 6 1
      .next (v.onRng fun r => { r with origin := Tbl.put r.origin k ((beAt f.pay 8 4 + 1) % 2 ^ 32) }) := by
  refine (if_pos standby).trans ?_
  rw [one]
  rfl

/-- The history of a link that a twin takes over, 2^32 frames further. -/
def resumedHist (now : Nat) (l : List LinkCtx) : List LinkCtx := l.map fun x => { x with hopiv := x.hopiv + 2 ^ 32, since := now, mark := x.hopiv / 2 ^ 40 }

section
variable {th mine : List (Nat × List LinkCtx)}

theorem execLhist_of_kept (kept : s.cry.hist ≠ []) : exec (.lhist n th mine) s = .next ((s.noteSeq n).onTwn fun t => { t with mirror := th }) := by
  have kept : ((s.noteSeq n).onTwn fun t => { t with mirror := th }).cry.hist ≠ [] := by simpa using kept
  exact if_neg (by simpa using kept)

theorem execLhist_of_restart (empty : s.cry.hist = []) : exec (.lhist n th mine) s =
    let u := (s.noteSeq n).onTwn fun t => { t with mirror := th }
    .next (u.onCry fun c => { c with hist := mine.foldl (fun m p => Tbl.put m p.1 (resumedHist u.up p.2)) [] }) := by
  have empty : ((s.noteSeq n).onTwn fun t => { t with mirror := th }).cry.hist = [] := by simpa using empty
  exact if_pos (by rw [empty]; rfl)

end

/-- The fragments of the host frame that a note belongs to. -/
def State.fragOf (s : State) (f : Frame) : Frag :=
  let g := Tbl.getD s.twn.frags (beAt f.pay 4 2) { count := beAt f.pay 7 1, port := beAt f.pay 8 1 }
  { g with parts := Tbl.put g.parts (beAt f.pay 6 1) (f.pay.drop 12) }

/-- The state in which a host frame is complete: its host's answers leave this twin's port from now on. -/
def State.fragsTaken (s : State) (f : Frame) : State :=
  let eth := (s.fragOf f).parts.flatMap fun p => p.2
  let init := (s.img.hosts.find? fun e => decide (e.port = (s.fragOf f).port) && decide (e.mac = beAt eth 6 6)).map fun e => e.init
  s.onTwn fun t => { t with
    frags := []
    hostAt := match init with
      | some i => if t.hostAt.contains i then t.hostAt else t.hostAt ++ [i]
      | none => t.hostAt }

theorem execHostf_of_last (last : (((s.take f).noteSeq (beAt f.pay 2 2)).fragOf f).count ≤ (((s.take f).noteSeq (beAt f.pay 2 2)).fragOf f).parts.length) :
    exec (.hostf f) s =
      let v := (s.take f).noteSeq (beAt f.pay 2 2)
      .next (if v.activeTwin then (v.fragsTaken f).hostFrame (v.fragOf f).port ((v.fragOf f).parts.flatMap fun p => p.2) else v.fragsTaken f) :=
  if_pos last

theorem State.onlyIn_fragsTaken (s : State) (f : Frame) : s.OnlyIn [.twn] (s.fragsTaken f) := by simp [State.fragsTaken]

end

/-- Settles O53: TWS by its interval and the notes that are due, each note by the role, the restart of SYNC by the gap and the empty buses. -/
theorem twinsExchangeNotes : Obligations.TwinsExchangeNotes := by
  unfold Obligations.TwinsExchangeNotes
  intro s f n v g
  refine ⟨State.noteSeq_of_next, State.noteSeq_of_gap, execTws_shows n, execTwsSend_of_waits, fun twin on due quiet => ?_, fun other => if_neg (ne_true_of_eq_false other),
    execOrign_of_one, fun other it em => if_neg (ne_true_of_eq_false other), fun standby it => if_pos standby, fun src init tag => rfl, fun th mine => ?_,
    fun w here last passive => ?_, fun w here last active => ?_, fun w here more => ?_, fun waits => if_neg ?_, fun standby late all => if_pos ?_⟩
  · exact ⟨s.twsSent, execTwsSend_of_quiet twin on due quiet, s.onlyIn_twsSent, rfl, rfl⟩
  · intro u
    exact ⟨execLhist_of_kept, execLhist_of_restart⟩
  · subst here
    exact ⟨_, (execHostf_of_last last).trans (congrArg Host.Outcome.next (if_neg (ne_true_of_eq_false passive))), rfl, v.onlyIn_fragsTaken f⟩
  · subst here
    exact ⟨_, (execHostf_of_last last).trans (congrArg Host.Outcome.next (if_pos active)), rfl, v.onlyIn_fragsTaken f⟩
  · subst here
    exact if_neg (not_le.mpr more)
  · rintro ⟨standby, late, -⟩
    obtain active | early := waits
    · exact absurd standby (ne_true_of_eq_false active)
    · exact absurd late (not_le.mpr early)
  · refine ⟨standby, late, ?_⟩
    simp only [List.all_eq_true, List.mem_filter, List.mem_range]
    exact fun w used => all w used.1 used.2

end Sys2Proof.Machine

/-! PROOFS. Failure, takeover, veer and return of twins. -/

namespace Sys2Proof.Machine

-- One theorem at a time, as in the tests: a theorem that waits for the kernel holds a stack of its own.
set_option Elab.async false

section
variable {s : State}

/-! ### Roles -/

theorem State.activeTwin_ne_standby (active : s.activeTwin = true) : s.standby = false := by
  unfold State.activeTwin at active
  unfold State.standby
  rw [of_decide_eq_true active]
  rfl

@[simp] theorem State.get_lastAt_role (s : State) (c : Nat) (u : Bool) (g : Nat) : (s.lastAt c u g).get F.TWN_STAT_ROLE = s.get F.TWN_STAT_ROLE := by
  simp (disch := decide) only [State.lastAt, State.get_set_elsewhere, State.get_setB_elsewhere]

theorem State.get_setRole_role {r : Nat} (small : r < 4) : (s.setRole r).get F.TWN_STAT_ROLE = r :=
  (State.get_set_self s 0 r (by decide) (by decide)).trans (Nat.mod_eq_of_lt small)

theorem State.declareFail_of_other (c : Nat) (other : s.activeTwin = false) : s.declareFail c = s := if_pos (by simp [other])

theorem State.declareFail_fails (c : Nat) (active : s.activeTwin = true) : (s.declareFail c).get F.TWN_STAT_ROLE = 3 := by
  unfold State.declareFail
  rw [if_neg (by simp [active])]
  exact State.get_setRole_role (by decide)

/-- A twin that becomes standby has role 2, no SYNC, and a gap from now on. -/
theorem State.becomeStandby_spec (s : State) : s.becomeStandby.get F.TWN_STAT_ROLE = 2 ∧ s.becomeStandby.get F.TWN_STAT_SYNC = 0
    ∧ s.becomeStandby.twn = { s.twn with gapAt := s.up, empties := [] } ∧ s.OnlyIn [.regs, .twn] s.becomeStandby := by
  have role : s.becomeStandby.get F.TWN_STAT_ROLE = 2 := by
    unfold State.becomeStandby
    rw [State.onTwn_get, State.get_set_beside _ _ (by decide), State.get_set_beside _ _ (by decide)]
    exact State.get_setRole_role (by decide)
  have sync : s.becomeStandby.get F.TWN_STAT_SYNC = 0 := by
    unfold State.becomeStandby
    rw [State.onTwn_get]
    exact State.get_set_self _ 0 0 (by decide) (by decide)
  refine ⟨role, sync, ?_, ?_⟩
  · simp only [State.becomeStandby, State.setRole, State.onTwn_twn, State.set_twn, State.set_up]
  · simp [State.becomeStandby, State.setRole]

section
variable {a b : Bool}

/-- The state in which both levels of the partner are shown. -/
def State.partnerShown (s : State) (a b : Bool) : State := (s.setB F.TWN_STAT_FAILI 0 a).noteActi b

theorem execRoleDecide_of_free (free : (s.partnerShown a b).isTwin = false ∨ (s.partnerShown a b).img.loaded = false ∨
    (s.partnerShown a b).admitted = false ∨ (s.partnerShown a b).get F.TWN_STAT_ROLE ≠ 0) :
    exec (.roleDecide a b) s = .next ((s.partnerShown a b).onTwn fun x => { x with waitAt := none }) := by
  have waits : (!(s.partnerShown a b).isTwin) = true ∨ (!(s.partnerShown a b).img.loaded) = true ∨ (!(s.partnerShown a b).admitted) = true ∨
      (s.partnerShown a b).get F.TWN_STAT_ROLE ≠ 0 := by
    obtain h | h | h | h := free <;> simp [h]
  exact if_pos waits

theorem execRoleDecide_of_ready (twin : (s.partnerShown a b).isTwin = true) (loaded : (s.partnerShown a b).img.loaded = true)
    (admitted : (s.partnerShown a b).admitted = true) (role : (s.partnerShown a b).get F.TWN_STAT_ROLE = 0) : exec (.roleDecide a b) s =
      let u := s.partnerShown a b
      if b then .next (u.becomeStandby.onTwn fun t => { t with waitAt := none })
      else
        let since := u.twn.waitAt.getD u.up
        if u.flag F.TWN_CFG_PREF ∨ !a ∨ since + 1000000000 ≤ u.up then .next ((u.setRole 1).set F.TWN_STAT_PAIRINC 0 (u.get F.RNG_INC))
        else .next (u.onTwn fun t => { t with waitAt := some since }) := by
  have ready : ¬ ((!(s.partnerShown a b).isTwin) = true ∨ (!(s.partnerShown a b).img.loaded) = true ∨ (!(s.partnerShown a b).admitted) = true ∨
      (s.partnerShown a b).get F.TWN_STAT_ROLE ≠ 0) := by
    rw [twin, loaded, admitted, role]
    decide
  exact if_neg ready

end

theorem execDoubleActive_of_waits (waits : s.activeTwin = false ∨ s.twn.actiAt = none ∨ ∃ t, s.twn.actiAt = some t ∧ s.up < t + 2000) :
    exec .doubleActive s = .next s := by
  change execDoubleActive s = _
  unfold execDoubleActive
  obtain other | none_ | ⟨t, since, early⟩ := waits
  · exact if_neg (by simp [other])
  · exact if_neg (by simp [none_])
  · exact if_neg (by simp [since, early])

theorem execDoubleActive_of_both {t : Nat} (active : s.activeTwin = true) (since : s.twn.actiAt = some t) (late : t + 2000 ≤ s.up) :
    exec .doubleActive s =
      .next (if (s.bump F.TWN_CNT_DIVERGE).flag F.TWN_CFG_PREF then s.bump F.TWN_CNT_DIVERGE else (s.bump F.TWN_CNT_DIVERGE).becomeStandby) := by
  change execDoubleActive s = _
  unfold execDoubleActive
  exact if_pos (by simp [active, since, late])

/-! ### The command register -/

section
variable {f : Frame} {y : RegRow} (wr : s.WritesReg f F.TWN_CTL_VEER 0 y)
include wr

theorem State.WritesReg.twnCtl {aim : Bool} {a : State.Res} {t : State} (on : aim = true) (run : twnCtl (wordOf f) s = (a, t)) :
    regRow f (atReg f F.TWN_CTL_VEER && aim) s = .next (t.settle 5 f a) := by
  refine wr.ends (by rw [wr.at_first (by decide), on]; rfl) ((writeEffect_veer wr.name).trans ?_)
  rw [run]

end

theorem twnCtl_of_busy {w : Nat} (veer : bit w 0 = true) (standby : s.standby = true) : twnCtl w s = ({ st := .busy }, s) :=
  if_pos (by simp [veer, standby])

theorem twnCtl_of_veer {w : Nat} (veer : bit w 0 = true) (noFail : bit w 1 = false) (active : s.standby = false) :
    twnCtl w s = ({}, if (s.setB F.TWN_CTL_NOREVERT 0 (bit w 2)).activeTwin then (s.setB F.TWN_CTL_NOREVERT 0 (bit w 2)).requestVeer
      else s.setB F.TWN_CTL_NOREVERT 0 (bit w 2)) := by
  unfold twnCtl
  rw [if_neg (by simp [active]), noFail, veer]
  rfl

theorem twnCtl_of_fail {w : Nat} (noVeer : bit w 0 = false) (fail : bit w 1 = true) :
    twnCtl w s = ({}, (s.setB F.TWN_CTL_NOREVERT 0 (bit w 2)).declareFail 7) := by
  unfold twnCtl
  rw [noVeer, fail]
  rfl

/-! ### Veers -/

theorem State.requestVeer_of_sick (sick : s.healthy = false) : s.requestVeer = (s.set F.TWN_VSTAT_PEND 0 0).set F.TWN_VSTAT_RESULT 0 3 :=
  if_pos (by simp [sick])

theorem State.requestVeer_of_healthy (well : s.healthy = true) :
    s.requestVeer = ((s.set F.TWN_VSTAT_PEND 0 1).set F.TWN_VSTAT_RESULT 0 0).sendVeer 0x40 (s.get F.RNG_RSTAT_MASTER_HUB) [] :=
  if_neg (by simp [well])

/-- What the end of a veer shows. -/
def State.veerEnded (s : State) : State :=
  let t := s.bump F.TWN_CNT_VEER
  if t.flag F.TWN_VSTAT_PEND then (t.set F.TWN_VSTAT_PEND 0 0).set F.TWN_VSTAT_RESULT 0 1 else t

/-- A bus of the twin that yields: its access waits again in front of the queue. -/
def BrgBus.yielded (b : BrgBus) : BrgBus :=
  { b with
    queue := (b.cur.toList.flatMap fun a => match a.src with
      | .poll _ => []
      | .prefetch _ => []
      | _ => [{ a with done := 0, got := [], chunk := 0, tries := 0 }]) ++ b.queue
    cur := none }

/-- The state in which the active twin has yielded to its partner. -/
def State.yielded (s : State) (gap : Nat) : State :=
  let t := s.onBrg fun g => { g with buses := g.buses.map fun (p : Nat × BrgBus) => (p.1, p.2.yielded) }
  (((t.setRole 2).lastAt 0 false (min gap 48)).set F.RNG_RSTAT_MASTER 0 0).onTwn fun t => { t with veering := false }

theorem State.yielded_spec (s : State) (gap : Nat) : (s.yielded gap).get F.TWN_STAT_ROLE = 2 ∧ (s.yielded gap).get F.RNG_RSTAT_MASTER = 0
    ∧ (s.yielded gap).twn = { s.twn with veering := false } ∧ (∀ p ∈ (s.yielded gap).brg.buses, p.2.cur = none)
    ∧ s.OnlyIn [.regs, .brg, .twn] (s.yielded gap) := by
  refine ⟨?_, State.get_set_self _ 0 0 (by decide) (by decide), rfl, fun p mem => ?_, ?_⟩
  · unfold State.yielded
    rw [State.onTwn_get, State.get_set_elsewhere _ _ (by decide), State.get_lastAt_role]
    exact State.get_setRole_role (by decide)
  · obtain ⟨q, -, rfl⟩ := List.mem_map.mp mem
    rfl
  · simp [State.yielded, State.lastAt, State.setRole]

section
variable (gap : Nat) (cut : List (Nat × Option Nat)) (can : List Nat)

theorem execVeerBusIdle_of_active (active : s.activeTwin = true) (veering : s.twn.veering = true) (ready : s.veerReady = true) :
    exec (.veerBusIdle gap cut can) s = .next ((s.yielded gap).veerEnded.sendVeer 0x43 (s.get F.RNG_RSTAT_MASTER_HUB) []) :=
  if_pos ⟨active, veering, ready⟩

theorem execVeerBusIdle_of_standby (standby : s.standby = true) : exec (.veerBusIdle gap cut can) s = .next (s.takeOver true gap cut can).veerEnded :=
  (if_neg fun h => absurd standby (ne_true_of_eq_false (State.activeTwin_ne_standby h.1))).trans (if_pos standby)

theorem execVeerBusIdle_of_waits (other : s.standby = false) (waits : s.activeTwin = false ∨ s.twn.veering = false ∨ s.veerReady = false) :
    exec (.veerBusIdle gap cut can) s = .next s := by
  refine (if_neg ?_).trans (if_neg (ne_true_of_eq_false other))
  rintro ⟨active, veering, ready⟩
  exact waits.elim (fun h => absurd active (ne_true_of_eq_false h)) fun h =>
    h.elim (fun h => absurd veering (ne_true_of_eq_false h)) fun h => absurd ready (ne_true_of_eq_false h)

end

/-! ### Return and repetition -/

theorem execRevertTimer_of_waits (waits : s.standby = false ∨ s.flag F.TWN_CFG_PREF = false ∨ s.flag F.TWN_CTL_NOREVERT = true ∨ s.twn.healthySince = none) :
    exec .revertTimer s = .next s := by
  refine congrArg Host.Outcome.next (if_neg ?_)
  obtain h | h | h | h := waits
  · simp only [h, Bool.false_and, Bool.false_eq_true, not_false_iff]
  · simp only [h, Bool.and_false, Bool.false_and, Bool.false_eq_true, not_false_iff]
  · simp only [h, Bool.not_true, Bool.and_false, Bool.false_and, Bool.false_eq_true, not_false_iff]
  · simp only [h, Bool.and_false, Bool.false_and, Bool.false_eq_true, not_false_iff]

theorem execRevertTimer_of_due {t : Nat} (standby : s.standby = true) (pref : s.flag F.TWN_CFG_PREF = true) (returns : s.flag F.TWN_CTL_NOREVERT = false)
    (idle : s.flag F.TWN_VSTAT_PEND = false) (since : s.twn.healthySince = some t) (late : t + s.get F.TWN_CFG_HOLDOFF * 10 ^ 9 ≤ s.up) :
    exec .revertTimer s = .next s.requestVeer := by
  refine congrArg Host.Outcome.next (if_pos ?_)
  simp only [standby, pref, returns, idle, since, decide_eq_true late, Bool.not_false, Bool.and_self]

section
variable {b : Nat}

/-- The cut transaction of a bus that has recovered. -/
def State.cutOf (s : State) (b : Nat) : Option (Nat × Option Nat) :=
  if s.quietFor b (s.recoverTime b) then s.twn.cut.find? fun x => decide (x.1 = b) else none

/-- The state in which a cut transaction is taken to be repeated. -/
def State.cutTaken (s : State) (b : Nat) : State :=
  (s.onTwn fun t => { t with cut := t.cut.filter fun x => decide (x.1 ≠ b) }).bump F.TWN_CNT_REDO

theorem execCutTransactionRedo_of_none (none_ : s.cutOf b = none) : exec (.cutTransactionRedo b) s = .next s := by
  unfold State.cutOf at none_
  change execCutTransactionRedo b s = _
  unfold execCutTransactionRedo
  rw [none_]

theorem execCutTransactionRedo_of_poll {k e : Nat} (cut : s.cutOf b = some (k, some e)) :
    exec (.cutTransactionRedo b) s = .next ((s.cutTaken b).startPoll b e) := by
  unfold State.cutOf at cut
  change execCutTransactionRedo b s = _
  unfold execCutTransactionRedo
  rw [cut]
  rfl

theorem execCutTransactionRedo_of_queue {k : Nat} {a : BrgAcc} {l : List BrgAcc} (cut : s.cutOf b = some (k, none))
    (queue : ((s.cutTaken b).bus b).queue = a :: l) : exec (.cutTransactionRedo b) s =
      .next (((s.cutTaken b).setBus b { (s.cutTaken b).bus b with queue := l }).startAccess b a) := by
  unfold State.cutOf at cut
  unfold State.cutTaken at queue
  change execCutTransactionRedo b s = _
  unfold execCutTransactionRedo
  rw [cut]
  simp only [queue]
  rfl

end

end

/-- Settles O54: a failure and a takeover by the role, a veer by the partner's health and the master's grant, a repetition by the cut. -/
theorem twinsSwapRoles : Obligations.TwinsSwapRoles := by
  unfold Obligations.TwinsSwapRoles
  refine ⟨fun s gap cut can c => ?_, fun s f y wr => ?_, fun s f gap cut can b => ?_⟩
  · refine ⟨State.declareFail_of_other c, State.declareFail_fails c, fun alone => if_neg (ne_true_of_eq_false alone), fun twin => if_pos twin,
      fun standby => congrArg Host.Outcome.next (if_pos standby), fun other => congrArg Host.Outcome.next (if_neg (ne_true_of_eq_false other)), ?_, fun a b => ?_,
      fun waits => execDoubleActive_of_waits (waits.imp_right .inl), fun t since => ⟨fun early => execDoubleActive_of_waits (.inr (.inr ⟨t, since, early⟩)),
        fun active late pref => ?_, fun active late other => ?_⟩⟩
    · intro u
      have role : (s.noteActi true).get F.TWN_STAT_ROLE = s.get F.TWN_STAT_ROLE := by
        unfold State.noteActi
        rw [State.onTwn_get, State.get_setB_beside _ _ (by decide)]
      exact ⟨fun failed => congrArg Host.Outcome.next (if_pos (role.trans failed)), fun other => congrArg Host.Outcome.next (if_neg fun h => other (role.symm.trans h))⟩
    · intro u free since
      refine ⟨execRoleDecide_of_free, fun twin loaded admitted role => ?_⟩
      have run := execRoleDecide_of_ready twin loaded admitted role
      refine ⟨fun low now => ?_, fun low other high early => ?_, fun high => ?_⟩
      · refine run.trans ((if_neg (ne_true_of_eq_false low)).trans (if_pos ?_))
        exact now.imp_right (Or.imp_left fun h => by rw [h]; rfl)
      · refine run.trans ((if_neg (ne_true_of_eq_false low)).trans (if_neg ?_))
        rintro (pref | fail | late)
        · exact absurd pref (ne_true_of_eq_false other)
        · rw [high] at fail
          exact Bool.false_ne_true fail
        · exact absurd late (not_le.mpr early)
      · obtain ⟨standby, sync, twn, only⟩ := u.becomeStandby_spec
        refine ⟨u.becomeStandby.onTwn fun t => { t with waitAt := none }, run.trans (if_pos high), ?_, ?_, ?_, only.andThen (by simp)⟩
        · rw [State.onTwn_get, standby]
        · rw [State.onTwn_get, sync]
        · simp [State.onTwn, twn]
    · refine (execDoubleActive_of_both active since late).trans (congrArg Host.Outcome.next (if_pos ?_))
      rw [State.flag_bump_elsewhere _ (by decide), pref]
    · obtain ⟨standby, sync, -, only⟩ := (s.bump F.TWN_CNT_DIVERGE).becomeStandby_spec
      refine ⟨_, (execDoubleActive_of_both active since late).trans (congrArg Host.Outcome.next (if_neg ?_)), standby, sync, ?_⟩
      · rw [State.flag_bump_elsewhere _ (by decide), other]
        exact Bool.false_ne_true
      · exact (show s.OnlyIn [.regs, .twn] (s.bump F.TWN_CNT_DIVERGE) by simp).andThen only
  · intro w x
    refine ⟨fun no => if_neg (by simp [show bit (wordOf f) 0 = false from no]), fun no => if_neg (by simp [show bit (wordOf f) 1 = false from no]),
      fun veer standby => wr.twnCtl veer (twnCtl_of_busy veer standby), fun veer noFail other active => ?_, fun veer noFail other idle => ?_,
      fun noVeer fail => wr.twnCtl fail (twnCtl_of_fail noVeer fail)⟩
    · exact wr.twnCtl veer ((twnCtl_of_veer veer noFail other).trans (Prod.ext rfl (if_pos active)))
    · exact wr.twnCtl veer ((twnCtl_of_veer veer noFail other).trans (Prod.ext rfl (if_neg (ne_true_of_eq_false idle))))
  · intro u ended
    refine ⟨fun refused => ?_, State.requestVeer_of_sick, State.requestVeer_of_healthy, fun fine => ?_,
      fun active veering ready => ⟨s.yielded gap, execVeerBusIdle_of_active gap cut can active veering ready, s.yielded_spec gap⟩,
      execVeerBusIdle_of_standby gap cut can, execVeerBusIdle_of_waits gap cut can, execRevertTimer_of_waits,
      fun t standby pref returns idle since late => execRevertTimer_of_due standby pref returns idle since late,
      fun waits => execCutTransactionRedo_of_none ?_, ?_⟩
    · intro r
      exact ⟨if_pos refused, if_pos refused, if_pos refused, if_pos refused⟩
    · have pass := ne_true_of_eq_false fine
      refine ⟨fun follower => ?_, fun master open_ => ?_, fun master free idle => ?_, fun active => (if_neg pass).trans (congrArg Host.Outcome.next (if_pos active)),
        fun other => (if_neg pass).trans (congrArg Host.Outcome.next (if_neg (ne_true_of_eq_false other))),
        fun pending => (if_neg pass).trans (congrArg Host.Outcome.next (if_pos pending)),
        fun idle => (if_neg pass).trans (congrArg Host.Outcome.next (if_neg (ne_true_of_eq_false idle))), fun mine => ?_, fun other => ?_⟩
      · exact (if_neg pass).trans (if_pos (by rw [show (s.take f).master = false from follower]; rfl))
      · refine (if_neg pass).trans ((if_neg (by rw [show (s.take f).master = true from master]; decide)).trans (if_pos ?_))
        exact open_.imp Option.isSome_iff_ne_none.mpr Option.isSome_iff_ne_none.mpr
      · refine (if_neg pass).trans ((if_neg (by rw [show (s.take f).master = true from master]; decide)).trans (if_neg ?_))
        rw [show (s.take f).twn.granted = none from free, show (s.take f).img.change = none from idle]
        simp
      · refine (if_neg pass).trans (congrArg (fun g => Host.Outcome.next (u.onTwn fun t => { t with granted := g })) (if_pos mine))
      · refine (if_neg pass).trans (congrArg (fun g => Host.Outcome.next (u.onTwn fun t => { t with granted := g })) (if_neg other))
    · unfold State.cutOf
      obtain busy | none_ := waits
      · rw [busy]
        rfl
      · rw [none_]
        exact ite_self _
    · intro redo quiet
      have here (cut : Option (Nat × Option Nat)) (found : s.twn.cut.find? (fun x => decide (x.1 = b)) = cut) : s.cutOf b = cut := (if_pos quiet).trans found
      exact ⟨fun e cut => execCutTransactionRedo_of_poll (here _ cut), fun a l cut queue => execCutTransactionRedo_of_queue (here _ cut) queue⟩

end Sys2Proof.Machine

/-! PROOFS. References, PLLs, domains, monitors and clock gates. -/

namespace Sys2Proof.Machine

-- One theorem at a time, as in the tests: a theorem that waits for the kernel holds a stack of its own.
set_option Elab.async false

section
variable {s : State}

/-! ### The reference -/

theorem State.chooseRef_of_master {m : Nat} (master : s.master = true) : s.chooseRef m = if bit m 3 then some 3 else none := if_pos master

theorem State.chooseRef_of_force {m c : Nat} (follower : s.master = false) (force : s.get F.CKR_REF_CTL_FORCE = c + 1) (small : c < 4)
    (qualified : bit m c = true) : s.chooseRef m = some c := by
  unfold State.chooseRef
  simp only [follower, force, Bool.false_eq_true, if_false, Nat.add_sub_cancel]
  exact if_pos ⟨by omega, by omega, qualified⟩

section
variable {q c : Nat}

theorem execRefChange_of_none (none_ : (s.showRef (s.qualMask q)).chooseRef (s.qualMask q) = none) :
    exec (.refChange q) s = .next ((s.showRef (s.qualMask q)).onCkr fun k => { k with measuring := none }) := by
  change execRefChange q s = _
  unfold execRefChange
  simp only [none_]

theorem execRefChange_of_some (chosen : (s.showRef (s.qualMask q)).chooseRef (s.qualMask q) = some c) : exec (.refChange q) s =
    .next ((s.showRef (s.qualMask q)).onCkr fun k =>
      { k with measuring := if c = (s.showRef (s.qualMask q)).get F.CKR_REF_STAT_SEL then none else some c }) := by
  change execRefChange q s = _
  unfold execRefChange
  simp only [chosen]

theorem execRefMeasureDone_of_idle (idle : s.ckr.measuring = none) (b : Bool) : exec (.refMeasureDone b) s = .next s := by
  change execRefMeasureDone b s = _
  unfold execRefMeasureDone
  rw [idle]

theorem execRefMeasureDone_of_measuring (measuring : s.ckr.measuring = some c) (b : Bool) : exec (.refMeasureDone b) s =
    let u := s.onCkr fun k => { k with measuring := none }
    if b then .next (u.takeRef c 0)
    else .next (((u.takeRef c 1).setLock (1 - u.get F.CKR_PLL_STAT_INUSE) false).onCkr fun k => { k with relock := true }) := by
  change execRefMeasureDone b s = _
  unfold execRefMeasureDone
  rw [measuring]

end

/-! ### PLLs and domains -/

@[simp] theorem State.setLock_ckr (s : State) (p : Nat) (v : Bool) : (s.setLock p v).ckr = s.ckr := by
  unfold State.setLock
  split <;> simp

section
variable {p : Nat} (small : p < 2)
include small

theorem execSparePllLock_of_waits (waits : s.pllLock p = true ∨ s.running (4 + p) = false) : exec (.sparePllLock p) s = .next s := by
  change execSparePllLock p s = _
  unfold execSparePllLock
  rw [Nat.mod_eq_of_lt small]
  exact if_pos (waits.imp_right fun h => by rw [h]; rfl)

/-- After both PLLs had stopped the domains ramp back from RCO. -/
theorem execSparePllLock_of_rco (open_ : s.pllLock p = false) (runs : s.running (4 + p) = true)
    (rco : State.moveOrder.any (fun k => decide ((s.setLock p true).domSrc k = 2)) = true) (idle : s.ckr.moves = []) :
    exec (.sparePllLock p) s = .next ((s.setLock p true).startMoves p) := by
  change execSparePllLock p s = _
  unfold execSparePllLock
  rw [Nat.mod_eq_of_lt small]
  exact (if_neg (by simp [open_, runs])).trans (if_pos ⟨rco, by simp [idle]⟩)

end

theorem execDomainMove_of_waits {b : Bool} (waits : s.ckr.moves = [] ∨ s.running (4 + s.ckr.target) = false) : exec (.domainMove b) s = .next s := by
  change execDomainMove b s = _
  unfold execDomainMove
  cases moves : s.ckr.moves with
  | nil => rfl
  | cons k rest =>
    have stopped : s.running (4 + s.ckr.target) = false := waits.resolve_left (by simp [moves])
    exact if_pos (by rw [stopped]; rfl)

theorem execDomainMove_of_more {b : Bool} {k : Nat} {rest : List Nat} (moves : s.ckr.moves = k :: rest) (more : rest ≠ [])
    (runs : s.running (4 + s.ckr.target) = true) : exec (.domainMove b) s =
      let u := (s.setDomSrc k s.ckr.target).bump F.CKR_CNT_RAMP
      .next (((if b then u.forcedSwitch k else u).onCkr fun c => { c with moves := rest }).showMove) := by
  change execDomainMove b s = _
  unfold execDomainMove
  rw [moves]
  exact (if_neg (by rw [runs]; decide)).trans (if_pos (by simp [more]))

theorem execDomainMove_of_alone {k : Nat} {rest : List Nat} (moves : s.ckr.moves = k :: rest) (more : rest ≠ [])
    (runs : s.running (4 + s.ckr.target) = true) : exec (.domainMove false) s =
      .next ((((s.setDomSrc k s.ckr.target).bump F.CKR_CNT_RAMP).onCkr fun c => { c with moves := rest }).showMove) := by
  rw [execDomainMove_of_more moves more runs]
  dsimp only
  rw [if_neg Bool.false_ne_true]

theorem execDomainMove_of_forced {k : Nat} {rest : List Nat} (moves : s.ckr.moves = k :: rest) (more : rest ≠ [])
    (runs : s.running (4 + s.ckr.target) = true) : exec (.domainMove true) s =
      .next (((((s.setDomSrc k s.ckr.target).bump F.CKR_CNT_RAMP).forcedSwitch k).onCkr fun c => { c with moves := rest }).showMove) := by
  rw [execDomainMove_of_more moves more runs]
  dsimp only
  rw [if_pos rfl]

/-! ### Monitors -/

/-- The state in which a source that was running is marked as stopped. -/
def State.sourceStopped (s : State) (x : Nat) : State :=
  (s.onCkr fun c => { c with stopped := c.stopped ++ [x], stopAt := Tbl.put c.stopAt x s.up }).bump F.CKR_CNT_MISSING

/-- The state in which the stop of a source is shown. -/
def State.stopShown (s : State) (x : Nat) : State :=
  if x < 7 then (s.sourceStopped x).set F.CKR_MON_STAT_SRC 0 (setBit ((s.sourceStopped x).get F.CKR_MON_STAT_SRC) x true)
  else (s.sourceStopped x).set F.CKR_MON_STAT_DOM 0 (setBit ((s.sourceStopped x).get F.CKR_MON_STAT_DOM) (x - 8) true)

section
variable {x : Nat} {b : Bool}

theorem execMissingEdge_of_first (known : ¬ (7 ≤ x ∧ (x < 8 ∨ 15 ≤ x))) (first : s.ckr.stopped.contains x = false) : exec (.missingEdge x b) s =
    if x ≤ 3 then .next ((s.stopShown x).refStop (State.candOf x))
    else if x ≤ 5 then .next ((s.stopShown x).pllStop (x - 4))
    else
      let t := if x = 8 ∨ x = 10 then (s.stopShown x).declareFail 6 else s.stopShown x
      let u := if x = 6 ∨ x = 12 then t.cmon else t
      .next (if 8 ≤ x ∧ b ∧ Tbl.getD u.ckr.stopAt x 0 + 100000 ≤ u.up then u.requestReset 2 7 else u) := by
  change execMissingEdge x b s = _
  unfold execMissingEdge
  refine (if_neg known).trans ?_
  simp only [first, Bool.false_eq_true, if_false, Bool.not_false, true_and]
  rfl

theorem execMissingEdge_of_again (known : ¬ (7 ≤ x ∧ (x < 8 ∨ 15 ≤ x))) (again : s.ckr.stopped.contains x = true) : exec (.missingEdge x b) s =
    .next (if 8 ≤ x ∧ b = true ∧ Tbl.getD s.ckr.stopAt x 0 + 100000 ≤ s.up then s.requestReset 2 7 else s) := by
  change execMissingEdge x b s = _
  unfold execMissingEdge
  refine (if_neg known).trans ?_
  simp only [again, if_true, Bool.not_true, Bool.false_eq_true, false_and, if_false]
  by_cases ref : x ≤ 3
  · exact (if_pos ref).trans (congrArg Host.Outcome.next (if_neg (by omega)).symm)
  · refine (if_neg ref).trans ?_
    by_cases pll : x ≤ 5
    · exact (if_pos pll).trans (congrArg Host.Outcome.next (if_neg (by omega)).symm)
    · exact if_neg pll

/-- The stop of a delivered clock or of CK_REF, not found still stopped: what follows from the clock. -/
theorem execMissingEdge_of_clock (high : 6 ≤ x) (known : ¬ (7 ≤ x ∧ (x < 8 ∨ 15 ≤ x))) (first : s.ckr.stopped.contains x = false) (low : x < 8 ∨ b = false) :
    exec (.missingEdge x b) s =
      let t := if x = 8 ∨ x = 10 then (s.stopShown x).declareFail 6 else s.stopShown x
      .next (if x = 6 ∨ x = 12 then t.cmon else t) := by
  refine (execMissingEdge_of_first known first).trans ((if_neg (by omega)).trans ((if_neg (by omega)).trans (congrArg Host.Outcome.next (if_neg ?_))))
  rintro ⟨delivered, still, -⟩
  exact low.elim (fun h => absurd delivered (by omega)) fun h => absurd still (ne_true_of_eq_false h)

theorem State.running_onCkr_filter (s : State) (x y : Nat) :
    (s.onCkr fun c => { c with stopped := c.stopped.filter fun z => decide (z ≠ x) }).running y = (decide (y = x) || s.running y) := by
  unfold State.running State.onCkr
  by_cases here : y = x <;> simp [here]

end

/-! ### Clock gates -/

@[simp] theorem State.onCkr_get (s : State) (g : CkrSt → CkrSt) (h : Fld) (i : Nat) : (s.onCkr g).get h i = s.get h i := rfl

section
variable {f : Frame} {x : RegRow} (wr : s.WritesReg f F.CKR_GATE_BLK 0 x)
include wr

theorem State.WritesReg.gateWrite {aim : Bool} (on : aim = true) : regRow f (atReg f F.CKR_GATE_BLK && aim) s =
    .next ((gateWrite (wordOf f) s).2.settle 5 f {}) := by
  refine wr.ends (by rw [wr.at_first (by decide), on]; rfl) ((writeEffect_ckr wr.name).trans ?_)
  unfold writeCkr
  rw [if_pos wr.name]
  rfl

end

/-- What a write of GATE does to the clock of a block. -/
def gateBlock (new old : Nat) (s : State) (b : Nat) : State :=
  if bit new b && !bit old b then
    if bit (s.get F.CKR_BLKRST_BLK) b then s.set F.CKR_GACK_BLK 0 (setBit (s.get F.CKR_GACK_BLK) b true)
    else s.onCkr fun c => { c with gateReq := c.gateReq ++ [b], gateAt := Tbl.put c.gateAt b s.up }
  else if !bit new b && bit old b then
    (s.set F.CKR_GACK_BLK 0 (setBit (s.get F.CKR_GACK_BLK) b false)).onCkr fun c => { c with gateReq := c.gateReq.filter (fun x => decide (x ≠ b)) }
  else s

theorem gateBlock_gate (new old : Nat) (s : State) (b : Nat) : (gateBlock new old s b).get F.CKR_GATE_BLK = s.get F.CKR_GATE_BLK := by
  unfold gateBlock
  split
  · split
    · exact State.get_set_elsewhere _ _ (by decide)
    · exact State.onCkr_get _ _ _ _
  · split
    · rw [State.onCkr_get]
      exact State.get_set_elsewhere _ _ (by decide)
    · rfl

theorem gateWrite_eq (w : Nat) (s : State) : gateWrite w s =
    ({}, (List.range 21).foldl (gateBlock (w &&& gateable) (s.get F.CKR_GATE_BLK)) (s.set F.CKR_GATE_BLK 0 (w &&& gateable))) := rfl

/-- GATE holds the bits that can be gated. -/
theorem gateWrite_gate (w : Nat) (s : State) : (gateWrite w s).2.get F.CKR_GATE_BLK = w &&& gateable := by
  have kept (l : List Nat) (t : State) (new old : Nat) : (l.foldl (gateBlock new old) t).get F.CKR_GATE_BLK = t.get F.CKR_GATE_BLK := by
    induction l generalizing t with
    | nil => rfl
    | cons b l ih => exact (ih _).trans (gateBlock_gate new old t b)
  rw [gateWrite_eq, kept, State.get_set_self _ 0 _ (by decide) (by decide)]
  exact Nat.mod_eq_of_lt (lt_of_le_of_lt Nat.and_le_right (by decide))

end

/-- Settles O55: a reference by its candidates, a PLL and a domain by the sources that run, a monitor by its source, a gate by its request. -/
theorem clocksFollowTheirSources : Obligations.ClocksFollowTheirSources := by
  unfold Obligations.ClocksFollowTheirSources
  refine ⟨fun s m q c => ⟨State.chooseRef_of_master, State.chooseRef_of_force, ?_, ?_⟩, fun s p k rest small => ?_, fun s x b => ?_, fun s f x wr => ?_, fun s b => ?_⟩
  · intro u
    exact ⟨execRefChange_of_none, execRefChange_of_some⟩
  · intro u
    exact ⟨execRefMeasureDone_of_idle, fun measuring => execRefMeasureDone_of_measuring measuring true,
      fun measuring => execRefMeasureDone_of_measuring measuring false⟩
  · exact ⟨execSparePllLock_of_waits small, execSparePllLock_of_rco small, fun b => execDomainMove_of_waits, execDomainMove_of_alone, execDomainMove_of_forced⟩
  · intro u v w
    have source (low : x < 7) : s.stopShown x = v := if_pos low
    have domain (high : 8 ≤ x) : s.stopShown x = w := if_neg (by omega)
    refine ⟨fun unknown => if_pos (by omega), fun low again => ?_, fun low first => ?_, fun high low first => ?_, fun ref first => ?_, fun first => ⟨?_, ?_, ?_⟩,
      fun high low again => ⟨fun late => ?_, fun early => ?_, ?_⟩, ?_⟩
    · exact (execMissingEdge_of_again (by omega) again).trans (congrArg Host.Outcome.next (if_neg (by omega)))
    · exact (execMissingEdge_of_first (by omega) first).trans ((if_pos low).trans (by rw [source (by omega)]))
    · exact (execMissingEdge_of_first (by omega) first).trans ((if_neg (by omega)).trans ((if_pos low).trans (by rw [source (by omega)])))
    · subst ref
      refine (execMissingEdge_of_clock (by decide) (by decide) first (.inl (by decide))).trans ?_
      rw [source (by decide)]
      exact congrArg Host.Outcome.next ((if_pos (.inl rfl)).trans (congrArg State.cmon (if_neg (by decide))))
    · intro clock
      refine (execMissingEdge_of_clock (by omega) (by omega) first (.inr rfl)).trans ?_
      rw [domain (by omega)]
      exact congrArg Host.Outcome.next ((if_neg (by omega)).trans (if_neg (by omega)))
    · intro clock
      refine (execMissingEdge_of_clock (by omega) (by omega) first (.inr rfl)).trans ?_
      rw [domain (by omega)]
      exact congrArg Host.Outcome.next ((if_neg (by omega)).trans (if_pos clock))
    · intro clock
      refine (execMissingEdge_of_clock (by omega) (by omega) first (.inr rfl)).trans ?_
      rw [domain (by omega)]
      refine congrArg Host.Outcome.next ((if_pos (.inr clock)).trans (congrArg State.cmon (if_neg (by omega))))
    · exact (execMissingEdge_of_again (by omega) again).trans (congrArg Host.Outcome.next (if_pos ⟨high, rfl, late⟩))
    · exact (execMissingEdge_of_again (by omega) again).trans (congrArg Host.Outcome.next (if_neg fun h => absurd h.2.2 (not_le.mpr early)))
    · exact (execMissingEdge_of_again (by omega) again).trans (congrArg Host.Outcome.next (if_neg fun h => Bool.false_ne_true h.2.1))
    · exact ⟨_, rfl, (s.running_onCkr_filter x x).trans (by simp), fun y other => (s.running_onCkr_filter x y).trans (by simp [other]), s.onlyIn_put_ckr _⟩
  · intro w old
    refine ⟨fun ⟨b, small, new, off⟩ => wr.gateWrite (List.any_eq_true.mpr ⟨b, List.mem_range.mpr small, ?_⟩),
      fun ⟨b, small, gone, on⟩ => wr.gateWrite (List.any_eq_true.mpr ⟨b, List.mem_range.mpr small, ?_⟩), fun none_ => if_neg ?_, fun none_ => if_neg ?_, gateWrite_gate w s⟩
    · rw [show bit (wordOf f) b = true from new, show bit (s.get F.CKR_GATE_BLK) b = false from off]
      rfl
    · rw [show bit (wordOf f) b = false from gone, show bit (s.get F.CKR_GATE_BLK) b = true from on]
      rfl
    · refine fun on => ?_
      obtain ⟨b, small, new⟩ := List.any_eq_true.mp ((Bool.and_eq_true _ _).mp on).2
      simp only [Bool.and_eq_true, Bool.not_eq_true'] at new
      exact absurd (none_ b (List.mem_range.mp small) new.1) (ne_true_of_eq_false new.2)
    · refine fun on => ?_
      obtain ⟨b, small, gone⟩ := List.any_eq_true.mp ((Bool.and_eq_true _ _).mp on).2
      simp only [Bool.and_eq_true, Bool.not_eq_true'] at gone
      exact absurd (none_ b (List.mem_range.mp small) gone.2) (ne_true_of_eq_false gone.1)
  · intro u due
    refine ⟨fun none_ => ⟨if_pos (by rw [none_]; rfl), if_pos (.inl (by rw [none_]; rfl))⟩, fun asked => if_neg (by rw [asked]; decide), fun asked late => if_neg ?_,
      fun early => if_pos (.inr early)⟩
    rintro (no | early)
    · rw [asked] at no
      exact Bool.false_ne_true no
    · exact absurd early (not_lt.mpr late)

end Sys2Proof.Machine

/-! PROOFS. Resets of each level, the prelude, hub-die power-good and block resets. -/

namespace Sys2Proof.Machine

-- One theorem at a time, as in the tests: a theorem that waits for the kernel holds a stack of its own.
set_option Elab.async false

section
variable {s : State}

/-! ### Requests of a reset -/

theorem State.requestReset_of_deeper {level cause l k : Nat} (open_ : s.ckr.prelude = some (l, k)) (deeper : l ≤ level) :
    s.requestReset level cause = s := by
  unfold State.requestReset
  rw [open_]
  exact if_neg (by simpa using deeper)

theorem State.requestReset_of_idle {level cause : Nat} (idle : s.ckr.prelude = none) : s.requestReset level cause =
    (({ s with ckr := { s.ckr with prelude := some (level, cause), preludeAt := s.up } } : State).hstWarn).declareFail 4 := by
  unfold State.requestReset
  rw [idle]
  rfl

/-! ### The reset itself -/

/-- The registers of CKR that show a reset. -/
def State.resetShown (t : State) (level cause warms : Nat) : State :=
  ((t.set F.CKR_RSTCAUSE_LEVEL 0 level).set F.CKR_RSTCAUSE_CAUSE 0 cause).set F.CKR_RSTCAUSE_WARMS 0 warms

theorem State.resetShown_level (t : State) {level cause : Nat} (low : level < 4) (warms : Nat) :
    (t.resetShown level cause warms).get F.CKR_RSTCAUSE_LEVEL = level := by
  unfold State.resetShown
  rw [State.get_set_beside _ _ (by decide), State.get_set_beside _ _ (by decide), State.get_set_self _ 0 _ (by decide) (by decide)]
  exact Nat.mod_eq_of_lt low

theorem State.resetShown_cause (t : State) {level cause : Nat} (low : cause < 16) (warms : Nat) :
    (t.resetShown level cause warms).get F.CKR_RSTCAUSE_CAUSE = cause := by
  unfold State.resetShown
  rw [State.get_set_beside _ _ (by decide), State.get_set_self _ 0 _ (by decide) (by decide)]
  exact Nat.mod_eq_of_lt low

/-- A reset shows its level and its cause. -/
theorem State.enterReset_shown {level cause : Nat} (lowLevel : level < 4) (lowCause : cause < 16) :
    (s.enterReset level cause).get F.CKR_RSTCAUSE_LEVEL = level ∧ (s.enterReset level cause).get F.CKR_RSTCAUSE_CAUSE = cause :=
  ⟨(State.get_setB_elsewhere _ _ (by decide)).trans (State.resetShown_level _ lowLevel _),
    (State.get_setB_elsewhere _ _ (by decide)).trans (State.resetShown_cause _ lowCause _)⟩

/-- A reset leaves no image loaded. -/
theorem State.enterReset_unloaded (s : State) (level cause : Nat) : (s.enterReset level cause).img.loaded = false := by
  change (if decide (level ≤ 1) = true then ({} : ImgSt) else { hash := s.img.hash }).loaded = false
  split <;> rfl

theorem execResetPreludeEnd_of_waits {a : Bool} (waits : s.ckr.prelude = none ∨ s.up < s.ckr.preludeAt + 2000) : exec (.resetPreludeEnd a) s = .next s := by
  change execResetPreludeEnd a s = _
  unfold execResetPreludeEnd
  cases open_ : s.ckr.prelude with
  | none => rfl
  | some p => exact if_pos (waits.resolve_left (by simp [open_]))

theorem execResetPreludeEnd_of_level {a : Bool} {level cause : Nat} (open_ : s.ckr.prelude = some (level, cause)) (late : s.ckr.preludeAt + 2000 ≤ s.up)
    (hub : level ≠ 3) : exec (.resetPreludeEnd a) s =
      .next (if level = 1 then (fuseReload a (s.enterReset level cause)).leaveReset else (s.enterReset level cause).leaveReset) := by
  change execResetPreludeEnd a s = _
  unfold execResetPreludeEnd
  rw [open_]
  exact (if_neg (not_lt.mpr late)).trans (if_neg hub)

theorem execHubDiePowerGood_of_held {a q : Bool} (held : s.ckr.held = some q) : exec (.hubDiePowerGood a) s =
    if !s.flag F.PWR_STAT_HDPG then .next s
    else
      let u := ({ s with ckr := { s.ckr with held := none } } : State).onCry fun c => { c with fleet := c.fuse.fleet, squall := c.squall || (q && a) }
      .next ((u.setB F.CRY_STAT_SQUALL 0 u.cry.squall).leaveReset) := by
  change execHubDiePowerGood a s = _
  unfold execHubDiePowerGood
  rw [held]

/-! ### Resets of blocks -/

theorem bit_eq_testBit (n i : Nat) : bit n i = n.testBit i := Nat.testBit_eq_decide_div_mod_eq.symm

theorem bit_two_pow (b i : Nat) : bit (2 ^ b) i = decide (b = i) := (bit_eq_testBit _ _).trans Nat.testBit_two_pow

section
variable {f : Frame} {x : RegRow} (wr : s.WritesReg f F.CKR_BLKRST_BLK 0 x)
include wr

theorem execBlockReset_of_run {t : State} (run : blkRst (wordOf f) s = ({}, t)) : exec (.blockReset f) s = .next (t.settle 5 f {}) := by
  refine wr.ends (wr.at_first (by decide)) ((writeEffect_ckr wr.name).trans ?_)
  unfold writeCkr
  rw [if_neg (by rw [wr.name]; decide), if_neg (by rw [wr.name]; decide), if_pos wr.name, run]

end

theorem blkRst_of_deeper {w l k : Nat} (open_ : s.ckr.prelude = some (l, k)) (deeper : l < 3) : blkRst w s = ({}, s) := by
  unfold blkRst
  extract_lets m n old new busy
  rw [if_pos (.inl (by simp [busy, open_, deeper]))]

theorem blkRst_of_none {w : Nat} (none_ : w &&& resettable = 0) : blkRst w s = ({}, s) := by
  unfold blkRst
  extract_lets m n old new busy
  have empty : n = 0 := by simp [n, m, none_, bit_zero]
  rw [if_pos (.inr empty)]

/-- The blocks that can be reset and take no other block with them and no prelude. -/
def plainBlocks : List Nat := [2, 3, 4, 6, 7, 8, 9, 10, 11, 12, 19, 20]

theorem plainBlocks_spec : ∀ b ∈ plainBlocks, 2 ^ b &&& resettable = 2 ^ b ∧ b ≠ 1 ∧ b ≠ 5 ∧ b < 21 := by decide

/-- The reset of one block that was in none. -/
theorem blkRst_of_one {b : Nat} (idle : s.ckr.prelude = none) (plain : b ∈ plainBlocks) (runs : bit (s.get F.CKR_BLKRST_BLK) b = false) :
    blkRst (2 ^ b) s =
      let u := s.set F.CKR_BLKRST_BLK 0 (s.get F.CKR_BLKRST_BLK ||| 2 ^ b)
      ({}, ({ u with ckr := { s.ckr with rstAt := Tbl.put s.ckr.rstAt b s.up } } : State).resetBlock b) := by
  obtain ⟨inside, ring, pins, small⟩ := plainBlocks_spec b plain
  have fresh : 2 ^ b &&& (s.get F.CKR_BLKRST_BLK ^^^ (2 ^ 21 - 1)) = 2 ^ b := by
    rw [Nat.two_pow_and, Nat.testBit_xor, ← bit_eq_testBit, runs, Nat.testBit_two_pow_sub_one]
    simp [small]
  have alone {β : Type} (g : β → Nat → β) (t : β) : (List.range 21).foldl (fun s j => if bit (2 ^ b) j then g s j else s) t = g t b := by
    have off (j : Nat) (other : j ≠ b) : bit (2 ^ b) j = false := (bit_two_pow b j).trans (decide_eq_false fun h => other h.symm)
    have on : bit (2 ^ b) b = true := (bit_two_pow b b).trans (decide_eq_true rfl)
    refine (foldl_of_only (x := b) (fun j other => ?_) (fun j other => ?_) List.nodup_range (List.mem_range.mpr small)).trans (if_pos on)
    · exact if_neg (ne_true_of_eq_false (off j other))
    · exact if_neg (ne_true_of_eq_false (off j other))
  unfold blkRst
  extract_lets m n old new busy u src v
  have named : n = 2 ^ b := by
    simp only [n, m, inside]
    exact if_neg (by rw [bit_two_pow]; simpa using ring)
  have started : new = 2 ^ b := (congrArg (· &&& (old ^^^ (2 ^ 21 - 1))) named).trans fresh
  have begun : u = s.set F.CKR_BLKRST_BLK 0 (s.get F.CKR_BLKRST_BLK ||| 2 ^ b) := by simp only [u, named, old]
  have free : busy = false := by simp only [busy, idle]
  refine (if_neg ?_).trans ?_
  · rw [free, named]
    rintro (h | h)
    · exact Bool.false_ne_true h
    · exact absurd h (Nat.two_pow_pos b).ne'
  · have stamped : v = { u with ckr := { s.ckr with rstAt := Tbl.put s.ckr.rstAt b s.up } } := by
      simp only [v, named, alone]
      rfl
    rw [if_neg (by rw [started, bit_two_pow]; simpa using pins), started, alone, stamped, begun]

theorem execBlockResetDone_of_waits {b : Nat} (waits : bit (s.get F.CKR_BLKRST_BLK) b = false ∨ b = 14 ∨ s.inPrelude b = true ∨
    s.up < Tbl.getD s.ckr.rstAt b 0 + blockTime b 64) : exec (.blockResetDone b) s = .next s :=
  if_pos (waits.imp_left fun h => by rw [h]; rfl)

theorem execBlockResetDone_of_due {b : Nat} (inReset : bit (s.get F.CKR_BLKRST_BLK) b = true) (cipher : b ≠ 14) (ring : b ≠ 1) (over_ : s.inPrelude b = false)
    (late : Tbl.getD s.ckr.rstAt b 0 + blockTime b 64 ≤ s.up) (unloaded : s.img.loaded = false) : exec (.blockResetDone b) s =
      .next ((s.set F.CKR_BLKRST_BLK 0 (setBit (s.get F.CKR_BLKRST_BLK) b false)).startBlock b) := by
  have ready : ¬ ((!bit (s.get F.CKR_BLKRST_BLK) b) = true ∨ b = 14 ∨ s.inPrelude b = true ∨ s.up < Tbl.getD s.ckr.rstAt b 0 + blockTime b 64) := by
    rw [inReset, over_]
    rintro (h | h | h | h)
    · exact absurd h (by decide)
    · exact cipher h
    · exact absurd h (by decide)
    · exact absurd h (not_lt.mpr late)
  refine (if_neg ready).trans ?_
  have unloaded' (v : Nat) : (s.set F.CKR_BLKRST_BLK 0 v).img.loaded = false := unloaded
  simp only [if_neg ring, unloaded']

end

/-- Settles O56: a reset by the one in progress and its level, a block's by the prelude, its bit and its time. -/
theorem resetsRunInLevels : Obligations.ResetsRunInLevels := by
  unfold Obligations.ResetsRunInLevels
  refine ⟨fun s level cause => ⟨fun l k => State.requestReset_of_deeper, State.requestReset_of_idle, rfl, fun veer standby => if_pos ⟨veer, standby⟩,
      fun other low high => (if_neg fun h => other h.1).trans (congrArg Host.Outcome.next (if_pos ⟨low, high⟩)), rfl,
      fun good => congrArg Host.Outcome.next ((if_neg (by decide)).trans (if_pos ⟨rfl, good⟩)),
      fun bad => congrArg Host.Outcome.next ((if_neg (by decide)).trans (if_neg fun h => absurd h.2 (ne_true_of_eq_false bad)))⟩,
    fun s level cause lowLevel lowCause => ?_, fun s f x b wr => ?_, fun s a q b cause => ?_⟩
  · intro t
    obtain ⟨showsLevel, showsCause⟩ := s.enterReset_shown lowLevel lowCause
    exact ⟨showsLevel, showsCause, rfl, rfl, rfl, rfl, rfl, rfl, rfl, s.enterReset_unloaded level cause, rfl, rfl, rfl⟩
  · intro old
    refine ⟨fun l k open_ deeper => execBlockReset_of_run wr (blkRst_of_deeper open_ deeper), fun none_ => execBlockReset_of_run wr (blkRst_of_none none_),
      fun idle plain word runs => execBlockReset_of_run wr ?_⟩
    rw [word]
    exact blkRst_of_one idle plain runs
  · refine ⟨execResetPreludeEnd_of_waits, fun late => ⟨fun open_ => ?_, fun open_ => ?_⟩, fun none_ => ?_, fun held bad => ?_, fun held good => ?_,
      execBlockResetDone_of_waits, execBlockResetDone_of_due⟩
    · exact (execResetPreludeEnd_of_level open_ late (by decide)).trans (congrArg Host.Outcome.next (if_pos rfl))
    · exact (execResetPreludeEnd_of_level open_ late (by decide)).trans (congrArg Host.Outcome.next (if_neg (by decide)))
    · change execHubDiePowerGood a s = _
      unfold execHubDiePowerGood
      rw [none_]
    · exact (execHubDiePowerGood_of_held held).trans (if_pos (by rw [bad]; rfl))
    · exact (execHubDiePowerGood_of_held held).trans (if_neg (by rw [good]; decide))

end Sys2Proof.Machine

/-! PROOFS. The power-entry controller. -/

namespace Sys2Proof.Machine

-- One theorem at a time, as in the tests: a theorem that waits for the kernel holds a stack of its own.
set_option Elab.async false

section
variable {s : State}

/-! ### What leaves the power die as it is -/

theorem State.pwr_foldl {α : Type} {g : State → α → State} (kept : ∀ t x, (g t x).pwr = t.pwr) (l : List α) (t : State) : (l.foldl g t).pwr = t.pwr := by
  induction l generalizing t with
  | nil => rfl
  | cons x l ih => exact (ih _).trans (kept t x)

theorem State.assertHold_pwr (s : State) : s.assertHold.pwr = s.pwr := by
  unfold State.assertHold
  split
  · rfl
  · rw [State.bump_pwr, State.set_pwr]
    exact State.pwr_foldl (g := fun t p => t.setPin p { t.pin p with latch := s.padDrive p }) (fun _ _ => rfl) (List.range 256) s

theorem State.haltEngine_pwr (s : State) (e : Nat) : (s.haltEngine e).pwr = s.pwr := by
  unfold State.haltEngine
  extract_lets q t
  split
  · rfl
  · split <;> rfl

theorem State.declareFail_pwr (s : State) (c : Nat) : (s.declareFail c).pwr = s.pwr := by
  unfold State.declareFail
  split
  · rfl
  · have halted (t : State) (e : Nat) : (if (Tbl.getD t.pio.eng e {}).running then t.haltEngine e else t).pwr = t.pwr := by
      split
      · exact t.haltEngine_pwr e
      · rfl
    unfold State.setRole State.lastAt
    simp only [State.set_pwr, State.setB_pwr, State.onCan_pwr, State.onBrg_pwr]
    exact (State.pwr_foldl halted _ _).trans s.assertHold_pwr

theorem State.hstWarn_pwr (s : State) : s.hstWarn.pwr = s.pwr := by
  unfold State.hstWarn
  extract_lets t
  split <;> rfl

theorem State.powerOff_pwr (s : State) (level cause : Nat) : (s.powerOff level cause).pwr = s.pwr := s.declareFail_pwr 3

theorem State.dropPg_pwr (s : State) : s.dropPg.pwr = s.pwr := by
  unfold State.dropPg
  extract_lets t
  split
  · exact (State.powerOff_pwr _ 1 1).trans (State.hstWarn_pwr _)
  · rfl

/-- The state before the gate turns off: from QUAL and ON the power-good signals go first. -/
def State.pgDropped (s : State) : State := if 4 ≤ s.pwrState ∧ s.pwrState ≤ 5 then s.dropPg else s

theorem State.pgDropped_pwr (s : State) : s.pgDropped.pwr = s.pwr := by
  unfold State.pgDropped
  split
  · exact s.dropPg_pwr
  · rfl

theorem State.turnOff_eq (s : State) : s.turnOff = ((s.pgDropped.set F.PWR_STAT_LIMITING 0 0).set F.PWR_STAT_FTACT 0 0).onPwr fun p =>
    { p with gateOn := false, qualAt := none } := rfl

/-- Turning the gate off keeps the class and the count of the retries. -/
theorem State.turnOff_retries (s : State) : s.turnOff.pwr.cls = s.pwr.cls ∧ s.turnOff.pwr.rcnt = s.pwr.rcnt := by
  have cls : s.pgDropped.pwr.cls = s.pwr.cls := by rw [s.pgDropped_pwr]
  have rcnt : s.pgDropped.pwr.rcnt = s.pwr.rcnt := by rw [s.pgDropped_pwr]
  exact ⟨cls, rcnt⟩

/-! ### Conditions -/

section
variable {t : Nat}

theorem execPgQualified_of_none (none_ : s.pwr.qualAt = none) : exec .pgQualified s = .next s := by
  change execPgQualified s = _
  unfold execPgQualified
  rw [none_]

theorem execPgQualified_of_due (since : s.pwr.qualAt = some t) (due : s.pwr.vaux = true ∧ s.pwrState = 4 ∧ s.pwr.gateOn = true ∧
    (!s.flag F.PWR_STAT_FTACT) = true ∧ t + 1000000 ≤ s.up) :
    exec .pgQualified s = .next (((s.toPwr 5).set F.PWR_STAT_PG 0 1).onPwr fun p => { p with pgSince := s.up, qualAt := none }) := by
  change execPgQualified s = _
  unfold execPgQualified
  rw [since]
  exact if_pos due

theorem execRetryTimerExpiry_of_none (none_ : s.pwr.retryAt = none) : exec .retryTimerExpiry s = .next s := by
  change execRetryTimerExpiry s = _
  unfold execRetryTimerExpiry
  rw [none_]

theorem execRetryTimerExpiry_of_due (at_ : s.pwr.retryAt = some t)
    (due : s.pwr.vaux = true ∧ s.pwrState = 6 ∧ t ≤ s.up ∧ s.pwr.vinIn = true ∧ s.pwr.vinSince + 10000000 ≤ s.up) :
    exec .retryTimerExpiry s = .next ((s.toPwr 2).onPwr fun p => { p with cls := 0, retryAt := none }) := by
  change execRetryTimerExpiry s = _
  unfold execRetryTimerExpiry
  rw [at_]
  exact if_pos due

end

/-- VIN leaves the window, below it. -/
theorem execVinLeaveWindow_of_vaux (vaux : s.pwr.vaux = true) : exec (.vinLeaveWindow false) s =
    let t := s.onPwr fun p => { p with vinIn := false }
    let u := if 4 ≤ s.pwrState ∧ s.pwrState ≤ 5 then t.set F.PWR_FLAGS_UV 0 1 else t
    .next (if s.pwrState ≤ 5 then u.turnOff.toPwr 0 else u) :=
  if_neg (by simp [State.onPwr, vaux])

/-! ### Loss and return of VAUX -/

/-- The reset that a loss of VAUX brings the hub die, if it is not held in one already. -/
def State.vauxReset (s : State) : State :=
  if s.ckr.held.isNone then s.powerOff 0 0 else { s.enterReset 0 0 with ckr := { s.ckr with prelude := none } }

theorem State.vauxReset_pwr (s : State) : s.vauxReset.pwr = s.pwr := by
  unfold State.vauxReset
  split
  · exact s.powerOff_pwr 0 0
  · rfl

/-- The power die without VAUX, behind a state of the hub die. -/
def State.vauxGone (u : State) : State :=
  let t := ((u.toPwr 0).set F.PWR_STAT_PG 0 0).set F.PWR_STAT_HDPG 0 0
  (t.setRcnt t.pwr.rcnt).onPwr fun p => { p with vaux := false, collapsed := false }

theorem State.vauxGone_spec (u : State) : u.vauxGone.pwr.vaux = false ∧ u.vauxGone.pwr.collapsed = false ∧ u.vauxGone.pwr.cls = u.pwr.cls
    ∧ u.vauxGone.pwr.rcnt = u.pwr.rcnt := ⟨rfl, rfl, rfl, rfl⟩

/-- The state after a loss of VAUX. -/
def State.vauxLost (s : State) : State := s.turnOff.vauxReset.vauxGone

theorem State.vauxLost_spec (s : State) : s.vauxLost.pwr.vaux = false ∧ s.vauxLost.pwr.collapsed = false ∧ s.vauxLost.pwr.cls = s.pwr.cls
    ∧ s.vauxLost.pwr.rcnt = s.pwr.rcnt := by
  obtain ⟨cls, rcnt⟩ := s.turnOff_retries
  obtain ⟨vaux, collapsed, keptCls, keptRcnt⟩ := s.turnOff.vauxReset.vauxGone_spec
  rw [State.vauxReset_pwr] at keptCls keptRcnt
  exact ⟨vaux, collapsed, keptCls.trans cls, keptRcnt.trans rcnt⟩

theorem execVauxLoss_of_vaux (vaux : s.pwr.vaux = true) : exec .vauxLoss s = .next s.vauxLost := if_neg (by simp [vaux])

/-- A return of VAUX while HOLD has not collapsed: the controller resumes by its class. -/
theorem execVauxReturn_of_held (lost : s.pwr.vaux = false) (held : s.pwr.collapsed = false) : exec .vauxReturn s =
    let u := ((s.set F.PWR_FLAGS_RESUMED 0 1).onPwr fun p => { p with vaux := true, collapsed := false }).setRcnt s.pwr.rcnt
    .next (if s.pwr.cls = 1 then u.toPwr 6 else if s.pwr.cls = 2 then u.toPwr 7
      else if s.pwr.vinIn then (u.toPwr 1).onPwr fun p => { p with vinSince := u.up } else u.toPwr 0) := by
  change execVauxReturn s = _
  unfold execVauxReturn
  rw [if_neg (ne_true_of_eq_false lost), if_neg (ne_true_of_eq_false held)]
  rfl

end

/-- Settles O57: each state is left by its one condition, a trip retries by the count, the hold-up domain keeps class and count. -/
theorem powerEntersInOrder : Obligations.PowerEntersInOrder := by
  unfold Obligations.PowerEntersInOrder
  refine ⟨fun s vaux => ?_, fun s c => ?_, fun s => ?_⟩
  · intro u
    refine ⟨fun off => congrArg Host.Outcome.next (if_pos ⟨vaux, off⟩), fun other => congrArg Host.Outcome.next (if_neg fun h => other h.2),
      fun delay inside late => congrArg Host.Outcome.next (if_pos ⟨vaux, delay, inside, late⟩), fun waits => congrArg Host.Outcome.next (if_neg ?_),
      fun pre => congrArg Host.Outcome.next (if_pos ⟨vaux, pre⟩), fun pre late => congrArg Host.Outcome.next (if_pos ⟨vaux, pre, late⟩),
      fun early => congrArg Host.Outcome.next (if_neg fun h => absurd h.2.2 (not_le.mpr early)),
      fun other => ⟨congrArg Host.Outcome.next (if_neg fun h => other h.2), congrArg Host.Outcome.next (if_neg fun h => other h.2.1)⟩,
      fun ramp => ?_, fun t since qual gate idle late => execPgQualified_of_due since ⟨vaux, qual, gate, by rw [idle]; rfl, late⟩,
      execPgQualified_of_none, fun low high => if_pos ⟨vaux, low, high⟩, fun off => if_neg ?_, ?_, fun waits b => if_pos ?_, fun active late => ?_,
      fun high => (execVinLeaveWindow_of_vaux vaux).trans (congrArg Host.Outcome.next ?_),
      fun low => (execVinLeaveWindow_of_vaux vaux).trans (congrArg Host.Outcome.next ?_)⟩
    · rintro ⟨-, delay, -, late⟩
      exact waits.elim (fun h => h delay) fun early => absurd late (not_le.mpr early)
    · refine (if_pos ⟨vaux, ramp⟩).trans ?_
      cases s.flag F.PWR_STAT_FTACT <;> rfl
    · rintro ⟨-, low, high⟩
      exact off.elim (fun h => absurd low (not_le.mpr h)) fun h => absurd high (not_le.mpr h)
    · intro due
      refine ⟨fun active late => congrArg Host.Outcome.next (if_pos ⟨vaux, active, late⟩), fun waits => congrArg Host.Outcome.next (if_neg ?_)⟩
      rintro ⟨-, active, late⟩
      exact waits.elim (fun h => absurd active (ne_true_of_eq_false h)) fun early => absurd late (not_le.mpr early)
    · exact waits.imp_left fun h => by rw [h]; rfl
    · intro v
      have due : ¬ ((!s.flag F.PWR_STAT_FTACT) = true ∨ s.up < s.pwr.overAt + 100000) := by
        rintro (h | early)
        · rw [active] at h
          exact Bool.false_ne_true h
        · exact absurd early (not_lt.mpr late)
      refine ⟨(if_neg due).trans (if_neg fun h => Bool.false_ne_true h.1), fun qual => (if_neg due).trans ?_⟩
      have state : v.pwrState = 4 := by
        simp only [v, State.pwrState]
        rw [State.get_set_beside _ _ (by decide), State.get_set_beside _ _ (by decide)]
        exact qual
      refine (if_pos ⟨rfl, .inl state⟩).trans ?_
      exact congrArg (fun q => Host.Outcome.next (v.onPwr fun p => { p with gateOn := true, qualAt := q })) (if_pos state)
    · exact (if_neg (by omega)).trans (if_neg (by omega))
    · refine (if_pos (by omega)).trans ?_
      rw [if_neg (by omega)]
  · intro u n v
    exact ⟨fun few => if_pos few, fun many => if_neg (not_lt.mpr many)⟩
  · refine ⟨execRetryTimerExpiry_of_none, fun t at_ vaux retry late inside long => execRetryTimerExpiry_of_due at_ ⟨vaux, retry, late, inside, long⟩,
      fun pg late => congrArg Host.Outcome.next (if_pos ⟨pg, late⟩), fun waits => congrArg Host.Outcome.next (if_neg ?_),
      fun vaux => ⟨if_pos vaux, congrArg Host.Outcome.next (if_pos vaux)⟩,
      fun lost => ⟨if_pos (by rw [lost]; rfl), congrArg Host.Outcome.next (if_neg (ne_true_of_eq_false lost))⟩,
      fun vaux => ⟨s.vauxLost, execVauxLoss_of_vaux vaux, s.vauxLost_spec⟩, ?_, ?_,
      fun vaux pg late => congrArg Host.Outcome.next (if_pos ⟨vaux, pg, late⟩), fun waits => congrArg Host.Outcome.next (if_neg ?_)⟩
    · rintro ⟨pg, late⟩
      exact waits.elim (fun h => absurd pg (ne_true_of_eq_false h)) fun early => absurd late (not_le.mpr early)
    · intro u lost held
      exact ⟨fun retry => (execVauxReturn_of_held lost held).trans (congrArg Host.Outcome.next (if_pos retry)),
        fun latched => (execVauxReturn_of_held lost held).trans (congrArg Host.Outcome.next ((if_neg (by rw [latched]; decide)).trans (if_pos latched)))⟩
    · intro v
      exact ⟨fun good => congrArg Host.Outcome.next (if_pos good), fun bad => congrArg Host.Outcome.next (if_neg (ne_true_of_eq_false bad))⟩
    · rintro ⟨vaux, pg, late⟩
      exact waits.elim (fun h => absurd vaux (ne_true_of_eq_false h)) fun h =>
        h.elim (fun h => absurd pg (ne_true_of_eq_false h)) fun early => absurd late (not_le.mpr early)

end Sys2Proof.Machine

/-! PROOFS. The historian. -/

namespace Sys2Proof.Machine

-- One theorem at a time, as in the tests: a theorem that waits for the kernel holds a stack of its own.
set_option Elab.async false

section
variable {s : State}

/-! ### Records -/

theorem execHistRecord_of_none (none_ : s.recs = []) : exec .histRecord s = .next s := by
  change execHistRecord s = _
  unfold execHistRecord
  rw [none_]
  cases s.blockBusy 19 <;> rfl

theorem execHistRecord_of_busy (busy : s.blockBusy 19 = true) : exec .histRecord s = .next s := by
  change execHistRecord s = _
  unfold execHistRecord
  rw [if_pos busy]

/-- The first producer in order that has a record waiting is served. -/
theorem firstWaiting_eq {recs : List (Nat × HistRec)} {p : Nat} {e : Nat × HistRec} (known : p < 5) (first : ∀ q, q < p → ∀ e ∈ recs, e.1 ≠ q)
    (found : recs.find? (fun e => decide (e.1 = p)) = some e) :
    ((List.range 5).filterMap fun p => recs.find? (fun e => decide (e.1 = p))).head? = some e := by
  have before : ∀ q ∈ List.range p, recs.find? (fun e => decide (e.1 = q)) = none := fun q member =>
    List.find?_eq_none.mpr fun e waits => by simpa using first q (List.mem_range.mp member) e waits
  have split : List.range 5 = List.range p ++ p :: (List.range (4 - p)).map (p + 1 + ·) := by
    have five : 5 = p + 1 + (4 - p) := by omega
    rw [five, List.range_add, List.range_succ, List.append_assoc]
    simp
  rw [List.head?_filterMap, List.findSome?_eq_some_iff]
  exact ⟨_, _, _, split, found, before⟩

theorem execHistRecord_of_first {p : Nat} {e : Nat × HistRec} (free : s.blockBusy 19 = false) (known : p < 5) (first : ∀ q, q < p → ∀ e ∈ s.recs, e.1 ≠ q)
    (found : s.recs.find? (fun e => decide (e.1 = p)) = some e) :
    exec .histRecord s = .next ({ s with recs := s.recs.erase e }.acceptRec e.1 e.2) := by
  change execHistRecord s = _
  unfold execHistRecord
  rw [if_neg (ne_true_of_eq_false free), firstWaiting_eq known first found]

section
variable {p : Nat} {r : HistRec}

theorem State.acceptRec_of_disabled (off : s.flag F.HST_CFG_EN = false) : s.acceptRec p r = s := if_pos (by rw [off]; rfl)

theorem State.acceptRec_of_full (on : s.flag F.HST_CFG_EN = true) (full : s.hasStage = false) : s.acceptRec p r = s.dropRec :=
  (if_neg (by rw [on]; decide)).trans (if_pos (by rw [full]; rfl))

theorem State.recordDrops_of_none (none_ : s.hst.drops = none) : s.recordDrops = s := by
  unfold State.recordDrops
  rw [none_]

theorem State.recordDrops_of_some {d : HDrops} (drops : s.hst.drops = some d) :
    s.recordDrops = (s.onHst fun h => { h with drops := none }).stageRec true (s.lossRec 1 d.count d.sec d.ns) := by
  unfold State.recordDrops
  rw [drops]

section
variable (on : s.flag F.HST_CFG_EN = true) (room : s.hasStage = true) (none_ : s.hst.drops = none)
include on room none_

theorem State.acceptRec_of_own (own : p ≠ 4) (plain : r.kind ≠ 4) : s.acceptRec p r = (s.stageRec true r).pump 8 := by
  unfold State.acceptRec
  rw [if_neg (by rw [on]; decide), if_neg (by rw [room]; decide), State.recordDrops_of_none none_]
  dsimp only
  rw [if_neg (by rw [room]; decide), if_neg own, if_neg plain]

theorem State.acceptRec_of_replica (first : Tbl.find? s.hst.lastRseq r.src = none) : s.acceptRec 4 r =
    ((s.onHst fun h => { h with lastRseq := Tbl.put h.lastRseq r.src r.rseq }).stageRec false { r with flags := r.flags ||| 1 }).pump 8 := by
  unfold State.acceptRec
  rw [if_neg (by rw [on]; decide), if_neg (by rw [room]; decide), State.recordDrops_of_none none_]
  dsimp only
  rw [if_neg (by rw [room]; decide), if_pos rfl, first]

end

theorem State.stageRec_own : ∃ b, (s.stageRec true r).hst.stage = s.hst.stage ++ [b] ∧ (s.stageRec true r).hst.next = (s.hst.next + 1) % 2 ^ 64
    ∧ (s.stageRec true r).hst.rseq = (s.hst.rseq + 1) % 2 ^ 32 ∧ b = HistRec.bytes { r with rseq := s.hst.rseq } := by
  unfold State.stageRec
  exact ⟨_, by rw [State.set_hst]; rfl, by rw [State.set_hst]; rfl, by rw [State.set_hst]; rfl, rfl⟩

end

/-! ### Flushes and pages -/

theorem State.hstRuns_free (runs : s.hstRuns = true) : s.blockBusy 19 = false := by
  unfold State.hstRuns at runs
  simpa using (Bool.and_eq_true_iff.mp runs).2

theorem State.flushDue_eq {t : Nat} {ts : List Nat} (since : s.hst.stageAt = t :: ts) :
    s.flushDue = (decide (s.hst.stage.length < s.pageRecs) && decide (t + s.get F.HST_CFG_FLUSH * 1000000 ≤ s.up)) := by
  unfold State.flushDue
  rw [since]

theorem execPageFlushTimeout_of_due (runs : s.hstRuns = true) (due : s.flushDue = true) : exec .pageFlushTimeout s = .next (s.closePage true) :=
  congrArg Host.Outcome.next (if_pos (Bool.and_eq_true_iff.mpr ⟨runs, due⟩))

theorem execPageFlushTimeout_of_stopped (stopped : s.hstRuns = false) : exec .pageFlushTimeout s = .next s :=
  congrArg Host.Outcome.next (if_neg (by rw [stopped, Bool.false_and]; decide))

theorem execPageFlushTimeout_of_early (early : s.flushDue = false) : exec .pageFlushTimeout s = .next s :=
  congrArg Host.Outcome.next (if_neg (by rw [early, Bool.and_false]; decide))

theorem State.closePage_of_empty (b : Bool) (none_ : s.hst.stage = []) : s.closePage b = s := by
  unfold State.closePage
  dsimp only
  rw [none_]
  exact if_pos (by rw [List.take_nil]; rfl)

/-- A page has room for records whatever its size is. -/
theorem State.pageRecs_pos (s : State) : 0 < s.pageRecs := by
  unfold State.pageRecs State.pageSize
  have size : 0 < 2 ^ s.get F.HST_GEOM_PGSZ := Nat.two_pow_pos _
  generalize 2 ^ s.get F.HST_GEOM_PGSZ = n at size
  omega

theorem State.closePage_of_unsigned (b : Bool) (some_ : s.hst.stage ≠ []) (off : s.flag F.HST_SIGN_EN = false) :
    s.closePage b = s.onHst fun h => { h with
      stage := h.stage.drop s.pageRecs
      stageAt := h.stageAt.drop s.pageRecs
      prog := h.prog ++ [{ num := h.nextPage, mount := h.mount, first := h.next - h.stage.length, recs := h.stage.take s.pageRecs, flushed := b,
                           prev := slice h.lastTag 0 16, tag := zeros 16, unsigned := true }]
      nextPage := h.nextPage + 1
      lastTag := zeros 16 } := by
  have taken : (s.hst.stage.take s.pageRecs).isEmpty = false := by
    have := s.pageRecs_pos
    simp only [List.isEmpty_eq_false_iff, ne_eq, List.take_eq_nil_iff, some_, or_false]
    omega
  unfold State.closePage
  dsimp only
  rw [if_neg (ne_true_of_eq_false taken), off]
  rfl

/-! ### The medium -/

section
variable {p : HPage} {rest : List HPage} {x : Bool}

theorem execPageProgramDone_of_none (none_ : s.hst.prog = []) : exec (.pageProgramDone x) s = .next s := by
  change execPageProgramDone x s = _
  unfold execPageProgramDone
  rw [none_]

theorem execPageProgramDone_of_closed (closed : s.headOpen = false ∨ s.blockBusy 19 = true) : exec (.pageProgramDone x) s = .next s := by
  have rests : (!s.headOpen || s.blockBusy 19) = true := by
    rcases closed with shut | busy
    · rw [shut]; rfl
    · rw [busy, Bool.or_true]
  change execPageProgramDone x s = _
  unfold execPageProgramDone
  split
  · rfl
  · exact if_pos rests

/-- The state with a page of the queue programmed at the write head. -/
def State.programmed (s : State) (p : HPage) (rest : List HPage) : State :=
  let k := s.hblock s.hst.head
  ((s.onHst fun h => { h with
      prog := rest
      pages := Tbl.put h.pages p.num p
      blocks := h.blocks.map fun x => (x.1, { x.2 with pages := x.2.pages.filter fun n => decide (n ≠ p.num) }) }).setHblock s.hst.head
    { k with pages := (k.pages.filter fun n => decide (n ≠ p.num)) ++ [p.num], reads := 0, erased := false, patrolAt := s.up, scrubbed := false }).bumpBy
      F.HST_CNT_REC 0 p.recs.length

section
variable (prog : s.hst.prog = p :: rest) (head : s.headOpen = true) (free : s.blockBusy 19 = false)
include prog head free

theorem execPageProgramDone_of_open : exec (.pageProgramDone x) s = if x then
      .next ((((s.bump F.HST_CNT_PGMFAIL).setHblock s.hst.head { s.hblock s.hst.head with bad := 2, erased := false }).checkWorn).advance
        (s.flag F.HST_CFG_STOPFULL))
    else .next ((if (s.programmed p rest).get F.HST_GEOM_PPB ≤ ((s.programmed p rest).hblock s.hst.head).pages.length then
      (s.programmed p rest).advance (s.flag F.HST_CFG_STOPFULL) else s.programmed p rest).pump 8) := by
  change execPageProgramDone x s = _
  unfold execPageProgramDone
  rw [prog]
  exact if_neg (by rw [head, free]; decide)

end

theorem State.programmed_get_ppb : (s.programmed p rest).get F.HST_GEOM_PPB = s.get F.HST_GEOM_PPB :=
  State.get_set_elsewhere _ _ (by decide)

end

theorem execBlockEraseDone_of_none {x : Bool} (none_ : s.hst.erasing = none) : exec (.blockEraseDone x) s = .next s := by
  change execBlockEraseDone x s = _
  unfold execBlockEraseDone
  rw [none_, ite_self]

theorem execBlockEraseDone_of_erasing {b : Nat} {x : Bool} (erasing : s.hst.erasing = some b) (free : s.blockBusy 19 = false) :
    let u := s.onHst fun h => { h with
      erasing := none
      pages := h.pages.filter fun p => !(s.hblock b).pages.contains p.1
      head := b }
    exec (.blockEraseDone x) s = if x then
      .next ((((u.bump F.HST_CNT_ERSFAIL).setHblock b { pages := [], erases := (s.hblock b).erases, bad := 2, erased := false }).checkWorn).advance
        (u.flag F.HST_CFG_STOPFULL))
    else .next ((u.setHblock b { erases := (s.hblock b).erases + 1 }).checkWorn) := by
  intro u
  change execBlockEraseDone x s = _
  unfold execBlockEraseDone
  rw [if_neg (ne_true_of_eq_false free), erasing]

/-! ### Mount -/

section
variable {dev same torn partly : Bool} {l : List Nat}

theorem execHstMount_of_other (other : s.hstState ≠ 1) : exec (.hstMount dev same torn partly l) s = .next s := if_pos (.inl other)

section
variable (mounting : s.hstState = 1) (free : s.blockBusy 19 = false)
include mounting free

theorem mountRuns : ¬(s.hstState ≠ 1 ∨ s.blockBusy 19 = true) := by
  rw [mounting, free]
  decide

theorem execHstMount_of_no_device : exec (.hstMount false same torn partly l) s = .next (s.set F.HST_STAT_STATE 0 4) :=
  (if_neg (mountRuns mounting free)).trans (if_pos rfl)

theorem execHstMount_of_other_device : exec (.hstMount true false torn partly l) s = .next (s.set F.HST_STAT_STATE 0 5) :=
  (if_neg (mountRuns mounting free)).trans ((if_neg (by decide)).trans (if_pos rfl))

end

/-- The state with the mount counted and the historian READY. -/
def State.mounted (s : State) : State :=
  let u := s.setInc fun r => { r with mount := (r.mount + 1) % 2 ^ 32 }
  (u.onHst fun h => { h with
    mount := u.incRec.mount
    warned := false }).set F.HST_STAT_STATE 0 2

/-- The numbering goes on behind the newest page. -/
def State.pagesNumbered (v : State) : State := v.onHst fun h => { h with
  nextPage := (v.newestPage.map fun p => p.num + 1).getD 0
  lastTag := (v.newestPage.map fun p => p.tag).getD [] }

section
variable (mounting : s.hstState = 1) (free : s.blockBusy 19 = false)
include mounting free

theorem execHstMount_of_device : exec (.hstMount true true torn partly l) s =
    if s.mounted.hst.pages.isEmpty ∧ s.mounted.hst.formats = 0 then .next ((s.mounted.format l).pump 8)
    else
      let t := if torn then s.mounted.dropTorn else s.mounted
      let u := if partly then t.pagesNumbered.onHst fun h => { h with erasing := some h.head } else t.pagesNumbered
      .next ((u.recoverLoss s.mounted.newestEnd).pump 8) :=
  (if_neg (mountRuns mounting free)).trans ((if_neg (by decide)).trans (if_neg (by decide)))

theorem execHstMount_of_new (pages : s.mounted.hst.pages = []) (never : s.mounted.hst.formats = 0) :
    exec (.hstMount true true torn partly l) s = .next ((s.mounted.format l).pump 8) :=
  (execHstMount_of_device mounting free).trans (if_pos ⟨by rw [pages]; rfl, never⟩)

theorem execHstMount_of_history (pages : s.mounted.hst.pages ≠ []) :
    exec (.hstMount true true false false l) s = .next ((s.mounted.pagesNumbered.recoverLoss s.mounted.newestEnd).pump 8) :=
  (execHstMount_of_device mounting free).trans (if_neg fun blank => pages (List.isEmpty_iff.mp blank.1))

end

end

/-! ### Scrubbing -/

section
variable {b corr uncorr : Nat} {needs : Bool} {l : List Nat}

theorem execBlockScrub_of_due (due : s.scrubDue b = true) : exec (.blockScrub b needs corr uncorr l) s = .next (s.scrubBlock b needs corr uncorr l) := if_pos due

theorem execBlockScrub_of_not_due (early : s.scrubDue b = false) : exec (.blockScrub b needs corr uncorr l) s = .next s := if_neg (ne_true_of_eq_false early)

theorem execPatrolScrub_of_due (due : s.patrolDue b = true) : exec (.patrolScrub b needs corr uncorr l) s = .next (s.scrubBlock b needs corr uncorr l) :=
  if_pos due

theorem execPatrolScrub_of_not_due (early : s.patrolDue b = false) : exec (.patrolScrub b needs corr uncorr l) s = .next s :=
  if_neg (ne_true_of_eq_false early)

theorem State.scrubDue_of_limit (runs : s.hstRuns = true) (limit : s.get F.HST_SCRUB_RDLIM * 1000 ≤ (s.hblock b).reads)
    (once : (s.hblock b).scrubbed = false) : s.scrubDue b = true := by
  unfold State.scrubDue
  rw [runs, decide_eq_true limit, once]
  rfl

theorem State.scrubDue_eq_false (rests : s.hstRuns = false ∨ (s.hblock b).reads < s.get F.HST_SCRUB_RDLIM * 1000 ∨ (s.hblock b).scrubbed = true) :
    s.scrubDue b = false := by
  unfold State.scrubDue
  rcases rests with stopped | below | done
  · rw [stopped]; rfl
  · rw [decide_eq_false (Nat.not_le_of_lt below), Bool.and_false]; rfl
  · rw [done]; exact Bool.and_false _

theorem State.patrolDue_of_days (runs : s.hstRuns = true) (pages : (s.hblock b).pages ≠ [])
    (days : (s.hblock b).patrolAt + s.get F.HST_SCRUB_PATROL * 86400000000000 ≤ s.up) : s.patrolDue b = true := by
  unfold State.patrolDue
  rw [runs, decide_eq_true days, List.isEmpty_eq_false_iff.mpr pages]
  rfl

theorem State.patrolDue_eq_false
    (rests : (s.hblock b).pages = [] ∨ s.up < (s.hblock b).patrolAt + s.get F.HST_SCRUB_PATROL * 86400000000000) : s.patrolDue b = false := by
  unfold State.patrolDue
  rcases rests with blank | early
  · rw [blank]
    exact (congrArg (· && _) (Bool.and_false _)).trans (Bool.false_and _)
  · rw [decide_eq_false (Nat.not_le_of_lt early)]
    exact Bool.and_false _

end

/-! ### The command register -/

section
variable {f : Frame} {x : RegRow} {k : Nat} {a : State.Res} {t : State}

/-- A write of HST.CTL with the bit of its command. -/
theorem State.WritesReg.hstCommand (wr : s.WritesReg f F.HST_CTL_FLUSH 0 x) (asked : bit (wordOf f) k = true) (does : hstCtl (wordOf f) s = (a, t)) :
    hstRow k f s = .next (t.settle 5 f a) :=
  wr.ends (by rw [wr.at_first (by decide), asked]; rfl) ((writeEffect_hstCtl wr.name).trans (by rw [does]))

theorem hstCtl_of_refused {w : Nat} (format : bit w 2 = true) (locked : s.flag F.HST_CFG_FMTOK = false) : hstCtl w s = ({ st := .viol }, s) :=
  if_pos (by rw [format, locked]; rfl)

theorem hstCtl_format (allowed : s.flag F.HST_CFG_FMTOK = true) (mounted : s.hstState = 2 ∨ s.hstState = 3) :
    hstCtl 4 s = ({}, s.format ((s.hst.blocks.filter fun p => decide (p.2.bad = 1)).map fun p => p.1)) := by
  unfold hstCtl
  rw [if_neg (by rw [allowed]; decide), decide_eq_true mounted]
  rfl

theorem hstCtl_flush (ready : s.hstState = 2) : hstCtl 1 s = ({}, s.flushStage) := by
  have reads : (bit 1 0 && decide (s.hstState = 2)) = true := by rw [ready]; rfl
  exact congrArg (Prod.mk ({} : State.Res)) (if_pos reads)

theorem hstCtl_mark : hstCtl 2 s = ({}, s.record 2 { kind := 4, src := s.hubNum, aux := 0xFF, sec := s.sec, ns := s.nsec }) := rfl

theorem hstCtl_resume (stopped : s.hstState = 3) : hstCtl 8 s = ({}, (s.set F.HST_STAT_STATE 0 2).advance false) := by
  have reads : (bit 8 3 && decide (s.hstState = 3)) = true := by rw [stopped]; rfl
  exact congrArg (Prod.mk ({} : State.Res)) (if_pos reads)

theorem hstCtl_resume_of_other (other : s.hstState ≠ 3) : hstCtl 8 s = ({}, s) := by
  have reads : (bit 8 3 && decide (s.hstState = 3)) = false := by rw [decide_eq_false other]; rfl
  exact congrArg (Prod.mk ({} : State.Res)) (if_neg (ne_true_of_eq_false reads))

end

/-! ### Replication and reading -/

section
variable {l : List (List Byte)} {since : List Nat}

theorem State.replDue_of_due (free : s.blockBusy 19 = false)
    (due : 32 ≤ l.length ∨ ∃ t ts, since = t :: ts ∧ t + s.get F.HST_REPL_BATCH * 1000000 ≤ s.up) : s.replDue l since = true := by
  unfold State.replDue
  rcases due with many | ⟨t, ts, rfl, passed⟩
  · rw [free, decide_eq_true many]; rfl
  · rw [free, Bool.not_false, Bool.true_and, Bool.or_eq_true]
    exact .inr (decide_eq_true passed)

theorem State.replDue_of_early {t : Nat} {ts : List Nat} (few : l.length < 32) (first : since = t :: ts)
    (early : s.up < t + s.get F.HST_REPL_BATCH * 1000000) : s.replDue l since = false := by
  unfold State.replDue
  subst first
  refine Bool.and_eq_false_iff.mpr (.inr ?_)
  exact Bool.or_eq_false_iff.mpr ⟨decide_eq_false (Nat.not_le_of_lt few), decide_eq_false (Nat.not_le_of_lt early)⟩

end

section
variable {second : Bool} {l : List (List Byte)} {since : List Nat}

theorem execReplSend_of_rest (records : (if second then s.hst.repl1 else s.hst.repl0) = l) (times : (if second then s.hst.repl1At else s.hst.repl0At) = since)
    (rests : (l.isEmpty || !s.replDue l since) = true) : exec (.replSend second) s = .next s := by
  subst records times
  exact if_pos rests

/-- The state without the records of a frame, which is counted. -/
def State.replTaken (s : State) (second : Bool) : State :=
  (if second then s.onHst fun h => { h with
    repl1 := h.repl1.drop 32
    repl1At := h.repl1At.drop 32 }
  else s.onHst fun h => { h with
    repl0 := h.repl0.drop 32
    repl0At := h.repl0At.drop 32 }).bump F.HST_CNT_REPLTX

theorem execReplSend_of_due (records : (if second then s.hst.repl1 else s.hst.repl0) = l) (times : (if second then s.hst.repl1At else s.hst.repl0At) = since)
    (some_ : l ≠ []) (due : s.replDue l since = true) :
    let dst := if second then s.get F.HST_REPL_TGT1 else s.get F.HST_REPL_TGT0
    let pay := (l.take 32).flatten
    let u := s.replTaken second
    exec (.replSend second) s = .next (u.sendWrite 8 { tt := .wr, tc := 12, dst := dst, init := 6, addr := fabAddr dst 4 (u.get F.HST_INBOX_BASE * 4096),
                                                       len := pay.length, pay := pay }) := by
  subst records times
  have sends : ¬((if second then s.hst.repl1 else s.hst.repl0).isEmpty
      || !s.replDue (if second then s.hst.repl1 else s.hst.repl0) (if second then s.hst.repl1At else s.hst.repl0At)) = true := by
    rw [due, List.isEmpty_eq_false_iff.mpr some_]
    decide
  cases second
  · exact if_neg sends
  · exact if_neg sends

end

theorem execNandPageReadDone_of_none {x : Bool} {n : Nat} (none_ : s.hst.reads = []) : exec (.nandPageReadDone x n) s = .next s := by
  change execNandPageReadDone x n s = _
  unfold execNandPageReadDone
  rw [none_, ite_self]

/-- The state with a page read counted: its corrected codewords, and the read in the block of the page. -/
def State.pageRead (s : State) (g : Frame) (n : Nat) : State :=
  (s.bumpBy F.HST_CNT_CORR 0 n).onHst fun h => { h with
    blocks := h.blocks.map fun x => (x.1, if x.2.pages.any (fun m => decide
      (((s.histByte g.offset).bind fun y => y.1) = some m)) then { x.2 with reads := x.2.reads + 1 } else x.2) }

section
variable {g : Frame} {rest : List HRead} {n : Nat} (reads : s.hst.reads = { req := g } :: rest) (free : s.blockBusy 19 = false)
include reads free

theorem execNandPageReadDone_of_read {x : Bool} :
    let v := s.pageRead g n
    exec (.nandPageReadDone x n) s = if x then .next (((v.bump F.HST_CNT_UNCORR).onHst fun h => { h with reads := rest }).answer 8 g { st := .poison })
      else if g.len ≤ (v.sameRun g.offset g.len).length then .next ((v.onHst fun h => { h with reads := rest }).answer 8 g { st := .ok, data := v.sameRun g.offset g.len })
      else .next (v.onHst fun h => { h with reads := { req := g, data := v.sameRun g.offset g.len } :: rest }) := by
  intro v
  change execNandPageReadDone x n s = _
  unfold execNandPageReadDone
  rw [if_neg (ne_true_of_eq_false free), reads]
  rfl

theorem execNandPageReadDone_of_whole (whole : g.len ≤ ((s.pageRead g n).sameRun g.offset g.len).length) : exec (.nandPageReadDone false n) s =
    .next (((s.pageRead g n).onHst fun h => { h with reads := rest }).answer 8 g { st := .ok, data := (s.pageRead g n).sameRun g.offset g.len }) :=
  (execNandPageReadDone_of_read reads free).trans ((if_neg (by decide)).trans (if_pos whole))

theorem execNandPageReadDone_of_part (part : ((s.pageRead g n).sameRun g.offset g.len).length < g.len) : exec (.nandPageReadDone false n) s =
    .next ((s.pageRead g n).onHst fun h => { h with reads := { req := g, data := (s.pageRead g n).sameRun g.offset g.len } :: rest }) :=
  (execNandPageReadDone_of_read reads free).trans ((if_neg (by decide)).trans (if_neg (Nat.not_le_of_lt part)))

end

end

/-- Settles O58: the commands of the historian, group by group; each clause is the branch of its command that its conditions choose. -/
theorem historyIsStagedPagedAndRead : Obligations.HistoryIsStagedPagedAndRead := by
  unfold Obligations.HistoryIsStagedPagedAndRead
  refine ⟨fun s p r => ?records, fun s t ts => ?flush, fun s p rest b => ?program, fun s b l => ?mount, fun s f x wr => ?control, fun s second => ?transfers⟩
  case records =>
    exact ⟨execHistRecord_of_none, execHistRecord_of_busy, execHistRecord_of_first, State.acceptRec_of_disabled, State.acceptRec_of_full,
      State.acceptRec_of_own, State.acceptRec_of_replica, fun _ => State.recordDrops_of_some, State.stageRec_own⟩
  case flush =>
    refine ⟨fun runs since part passed => ?_, execPageFlushTimeout_of_stopped, fun since early => ?_, State.closePage_of_empty, State.closePage_of_unsigned⟩
    · refine execPageFlushTimeout_of_due runs ((State.flushDue_eq since).trans ?_)
      exact Bool.and_eq_true_iff.mpr ⟨decide_eq_true part, decide_eq_true passed⟩
    · refine execPageFlushTimeout_of_early ((State.flushDue_eq since).trans ?_)
      exact Bool.and_eq_false_iff.mpr (.inr (decide_eq_false (Nat.not_le_of_lt early)))
  case program =>
    refine ⟨?_, fun prog head free => execPageProgramDone_of_open prog head free, fun prog head free => ?_, fun _ => execBlockEraseDone_of_none,
      fun erasing free => ⟨execBlockEraseDone_of_erasing erasing free, execBlockEraseDone_of_erasing erasing free⟩⟩
    · rintro (none_ | closed) x
      · exact execPageProgramDone_of_none none_
      · exact execPageProgramDone_of_closed closed
    · have programs := execPageProgramDone_of_open (x := false) prog head free
      rw [if_neg (by decide), State.programmed_get_ppb] at programs
      refine ⟨fun full => programs.trans ?_, fun room => programs.trans ?_⟩
      · exact congrArg (fun u => Host.Outcome.next (State.pump 8 u)) (if_pos full)
      · exact congrArg (fun u => Host.Outcome.next (State.pump 8 u)) (if_neg (Nat.not_le_of_lt room))
  case mount =>
    refine ⟨fun _ _ _ _ => execHstMount_of_other, fun mounting free => ?_, fun _ _ _ rests => execBlockScrub_of_not_due (State.scrubDue_eq_false rests),
      fun _ _ _ runs limit once => execBlockScrub_of_due (State.scrubDue_of_limit runs limit once),
      fun _ _ _ runs pages days => execPatrolScrub_of_due (State.patrolDue_of_days runs pages days),
      fun _ _ _ rests => execPatrolScrub_of_not_due (State.patrolDue_eq_false rests)⟩
    exact ⟨fun _ _ _ => execHstMount_of_no_device mounting free, fun _ _ => execHstMount_of_other_device mounting free,
      fun _ _ => ⟨execHstMount_of_new mounting free, execHstMount_of_history mounting free⟩⟩
  case control =>
    intro w
    refine ⟨fun format locked => wr.hstCommand format (hstCtl_of_refused format locked), fun four allowed mounted => ?_, fun one ready => ?_, fun two => ?_,
      fun eight stopped => ?_, fun eight other => ?_⟩
    · exact wr.hstCommand (k := 2) (congrArg (bit · 2) four) ((congrArg (hstCtl · s) four).trans (hstCtl_format allowed mounted))
    · exact wr.hstCommand (k := 0) (congrArg (bit · 0) one) ((congrArg (hstCtl · s) one).trans (hstCtl_flush ready))
    · exact wr.hstCommand (k := 1) (congrArg (bit · 1) two) ((congrArg (hstCtl · s) two).trans hstCtl_mark)
    · exact wr.hstCommand (k := 3) (congrArg (bit · 3) eight) ((congrArg (hstCtl · s) eight).trans (hstCtl_resume stopped))
    · exact wr.hstCommand (k := 3) (congrArg (bit · 3) eight) ((congrArg (hstCtl · s) eight).trans (hstCtl_resume_of_other other))
  case transfers =>
    intro l since dst pay u
    refine ⟨fun none_ => execReplSend_of_rest (l := l) (since := since) rfl rfl (by rw [none_]; rfl), fun t ts few first early => ?_, fun free some_ due => ?_,
      fun _ _ => execNandPageReadDone_of_none, fun g rest n reads free => ?_⟩
    · exact execReplSend_of_rest (l := l) (since := since) rfl rfl (Bool.or_eq_true_iff.mpr (.inr (by rw [State.replDue_of_early few first early]; rfl)))
    · exact execReplSend_of_due (l := l) (since := since) rfl rfl some_ (State.replDue_of_due free due)
    · exact ⟨execNandPageReadDone_of_read reads free, execNandPageReadDone_of_whole reads free, execNandPageReadDone_of_part reads free⟩

end Sys2Proof.Machine

/-! PROOFS. Mirik's mailbox, updates and doldrums sessions. -/

namespace Sys2Proof.Machine

-- One theorem at a time, as in the tests: a theorem that waits for the kernel holds a stack of its own.
set_option Elab.async false

section
variable {s : State}

/-! ### A command arrives (R501, R502) -/

section
variable {f : Frame} (mine : mgtRefused s.hubNum f = false) (kind : beAt f.pay 1 1 = 0) (whole : 16 + beAt f.pay 4 2 ≤ f.pay.length)

/-- The command that a frame carries. -/
def mbxOf (f : Frame) : MbxCmd := { code := beAt f.pay 2 1, args := slice f.pay 16 (beAt f.pay 4 2), hub := f.src, init := f.init, req := some f }

theorem execMbox_of_bad (bad : mgtRefused s.hubNum f = true ∨ beAt f.pay 1 1 ≠ 0 ∨ f.pay.length < 16 + beAt f.pay 4 2) :
    exec (.mbox f) s = .next (s.settle 7 f { st := .ur }) := if_pos bad

include mine kind whole

theorem mbox_good : ¬(mgtRefused s.hubNum f = true ∨ beAt f.pay 1 1 ≠ 0 ∨ f.pay.length < 16 + beAt f.pay 4 2) := by
  rw [mine]
  rintro (refused | other | short)
  · exact Bool.false_ne_true refused
  · exact other kind
  · exact Nat.not_le_of_lt short whole

theorem execMbox_of_refused {st : Status} {r : Nat} (refused : s.mbxRefused f.src f.init (beAt f.pay 2 1) = some (st, r)) :
    exec (.mbox f) s = .next (s.settle 7 f { st := st, reason := r }) := by
  change execMbox f s = _
  unfold execMbox
  dsimp only
  rw [if_neg (mbox_good mine kind whole), refused]

theorem execMbox_of_allowed (allowed : s.mbxRefused f.src f.init (beAt f.pay 2 1) = none) :
    exec (.mbox f) s = if 8 ≤ (s.mgt.mbox.tail.filter fun c => c.req.isSome).length then .next ((s.bump F.MGT_CNT_MBXBUSY).settle 7 f { st := .busy })
      else if State.mbxCodes.contains (beAt f.pay 2 1) then .next ((s.take f).onMgt fun m => { m with mbox := m.mbox ++ [mbxOf f] })
      else .next ((s.take f).mbxAnswer (mbxOf f) 5 0 []) := by
  change execMbox f s = _
  unfold execMbox
  dsimp only
  rw [if_neg (mbox_good mine kind whole), allowed]
  rfl

end

/-! ### The command at the head of the queue -/

section
variable {code : Nat} {g : MbxCmd → State → Nat × Nat × List Byte × State} {c : MbxCmd}

theorem State.mbxRun_of_none (none_ : s.mbxHead code = none) : s.mbxRun code g = s := by
  unfold State.mbxRun
  rw [none_]

/-- The command at the head ends with what it does. -/
theorem State.mbxRun_of_head {r why : Nat} {data : List Byte} {t : State} (head : s.mbxHead code = some c) (does : g c s.mbxPop = (r, why, data, t)) :
    s.mbxRun code g = t.mbxAnswer c r why data := by
  unfold State.mbxRun
  rw [head]
  dsimp only
  rw [does]

end

section
variable {c : MbxCmd}

theorem execSnsRead_of_bad (head : s.mbxHead 0x01 = some c) (bad : c.args.length ≠ 2) : exec .snsRead s = .next (s.mbxPop.mbxAnswer c 1 0 []) :=
  congrArg Host.Outcome.next (State.mbxRun_of_head head (if_pos bad))

theorem execSnsRead_of_good (head : s.mbxHead 0x01 = some c) (two : c.args.length = 2) : exec .snsRead s =
    .next (s.mbxPop.mbxAnswer c 0 0 (be 4 (if unbe c.args < 256 then (s.mbxPop.word (0x120064 + 2 ^ 24 * unbe c.args) 0).toNat else 0))) :=
  congrArg Host.Outcome.next (State.mbxRun_of_head head (if_neg fun other => other two))

theorem execFwWrite_of_closed (head : s.mbxHead 0x11 = some c) (closed : s.mbxPop.mgt.fwOpen = false) :
    exec .fwWrite s = .next (s.mbxPop.mbxAnswer c 4 0 []) :=
  congrArg Host.Outcome.next (State.mbxRun_of_head head (if_pos (by rw [closed]; rfl)))

theorem execFwWrite_of_open (head : s.mbxHead 0x11 = some c) (opened : s.mbxPop.mgt.fwOpen = true) (enough : 5 ≤ c.args.length)
    (fits : beAt c.args 0 4 + (c.args.drop 4).length ≤ 0x100000) :
    let u := s.mbxPop
    exec .fwWrite s = .next ((({ u with nvm := Mem.writeN u.nvm (fwAt (1 - u.boot.fwSlot) + beAt c.args 0 4) (c.args.drop 4) } : State).onMgt
      fun m => { m with fwVerified := false }).mbxAnswer c 0 0 []) := by
  have good : ¬(c.args.length < 5 ∨ 0x100000 < beAt c.args 0 4 + (c.args.drop 4).length) := by
    rintro (short | beyond)
    · exact Nat.not_le_of_lt short enough
    · exact Nat.not_le_of_lt beyond fits
  exact congrArg Host.Outcome.next (State.mbxRun_of_head head ((if_neg (by rw [opened]; decide)).trans (if_neg good)))

theorem execFwActivate_of_none (none_ : s.mbxHead 0x13 = none) : exec .fwActivate s = .next s := by
  change execFwActivate s = _
  unfold execFwActivate
  rw [none_]

theorem execFwActivate_of_head (head : s.mbxHead 0x13 = some c) : exec .fwActivate s =
    if !s.mbxPop.mgt.fwVerified then .next (s.mbxPop.mbxAnswer c 4 0 [])
    else if (s.mbxPop.mbxAnswer c 0 0 []).activeTwin && (s.mbxPop.mbxAnswer c 0 0 []).healthy then
      .next ((s.mbxPop.mbxAnswer c 0 0 []).requestVeer.onMgt fun m => { m with veer := some .fwActivate })
    else .next (s.mbxPop.mbxAnswer c 0 0 []).fwActivateNow := by
  change execFwActivate s = _
  unfold execFwActivate
  rw [head]

theorem execFwActivate_of_verified (head : s.mbxHead 0x13 = some c) (verified : s.mbxPop.mgt.fwVerified = true) : exec .fwActivate s =
    if (s.mbxPop.mbxAnswer c 0 0 []).activeTwin && (s.mbxPop.mbxAnswer c 0 0 []).healthy then
      .next ((s.mbxPop.mbxAnswer c 0 0 []).requestVeer.onMgt fun m => { m with veer := some .fwActivate })
    else .next (s.mbxPop.mbxAnswer c 0 0 []).fwActivateNow :=
  (execFwActivate_of_head head).trans (if_neg (by rw [verified]; decide))

theorem execConfirm_of_pending (head : s.mbxHead 0x14 = some c) (pending : s.mbxPop.updPending = true) :
    exec .confirm s = .next (s.mbxPop.confirmUpdate.mbxAnswer c 0 0 []) :=
  congrArg Host.Outcome.next (State.mbxRun_of_head head (if_pos pending))

theorem execConfirm_of_idle (head : s.mbxHead 0x14 = some c) (idle : s.mbxPop.updPending = false) :
    exec .confirm s = .next (s.mbxPop.mbxAnswer c 4 0 []) :=
  congrArg Host.Outcome.next (State.mbxRun_of_head head (if_neg (ne_true_of_eq_false idle)))

/-! ### A fuse command of the mailbox (R436) -/

section
variable {x : Nat} (head : s.mbxHead 0x20 = some c)
include head

theorem execMbxFuse_of_bad (bad : c.args.length < 4) : exec (.mbxFuse x) s = .next (s.mbxPop.mbxAnswer c 1 0 []) :=
  congrArg Host.Outcome.next (State.mbxRun_of_head head (if_pos (.inl bad)))

section
variable (enough : 4 ≤ c.args.length) (few : c.args.length ≤ 52) (low : 1 ≤ beAt c.args 0 4 % 8)
include enough few low

theorem execMbxFuse_of_busy (high : beAt c.args 0 4 % 8 ≤ 5) (busy : s.mbxPop.flag F.CRY_FUSE_STAT_BUSY = true) :
    exec (.mbxFuse x) s = .next (s.mbxPop.mbxAnswer c 2 0 []) := by
  have good : ¬(c.args.length < 4 ∨ 52 < c.args.length ∨ beAt c.args 0 4 % 8 = 0 ∨ 6 ≤ beAt c.args 0 4 % 8) := by omega
  exact congrArg Host.Outcome.next (State.mbxRun_of_head head ((if_neg good).trans (if_pos busy)))

end
end
end

/-- The fuse registers after a command of the mailbox with its result: no data is left in them. -/
def State.mbxFuseEnded (t : State) (r : Nat) : State := ((t.setFuseData (zeros 48)).set F.CRY_FUSE_STAT_RESULT 0 r).showFuses

section
variable {c : MbxCmd} {x : Nat} (head : s.mbxHead 0x20 = some c) (enough : 4 ≤ c.args.length) (few : c.args.length ≤ 52)
  (free : s.mbxPop.flag F.CRY_FUSE_STAT_BUSY = false) (low : 1 ≤ beAt c.args 0 4 % 8) (high : beAt c.args 0 4 % 8 ≤ 4)
include head enough few free low high

/-- A fuse command other than READ: the result of the burn, or the fault that came first. -/
theorem execMbxFuse_of_good {r : Nat} {t : State} (does : (if x = 2 ∨ x = 3 then (x, s.mbxPop.setFuseData (slice c.args 4 48))
      else (s.mbxPop.setFuseData (slice c.args 4 48)).burn (beAt c.args 0 4 % 8) (bits (beAt c.args 0 4) 4 3)) = (r, t)) :
    exec (.mbxFuse x) s = .next ((t.mbxFuseEnded r).mbxAnswer c 0 0 (be 4 ((t.mbxFuseEnded r).word 0xE0010 0).toNat)) := by
  have good : ¬(c.args.length < 4 ∨ 52 < c.args.length ∨ beAt c.args 0 4 % 8 = 0 ∨ 6 ≤ beAt c.args 0 4 % 8) := by omega
  have burns : ¬(beAt c.args 0 4 % 8 = 5 ∧ r = 0) := fun read => by omega
  refine congrArg Host.Outcome.next (State.mbxRun_of_head head ((if_neg good).trans ((if_neg (ne_true_of_eq_false free)).trans ?_)))
  dsimp only
  rw [does]
  dsimp only
  rw [if_neg burns, List.append_nil]
  rfl

theorem execMbxFuse_of_fault (fault : x = 2 ∨ x = 3) :
    let v := (s.mbxPop.setFuseData (slice c.args 4 48)).mbxFuseEnded x
    exec (.mbxFuse x) s = .next (v.mbxAnswer c 0 0 (be 4 (v.word 0xE0010 0).toNat)) :=
  execMbxFuse_of_good head enough few free low high (if_pos fault)

theorem execMbxFuse_of_burn (fine : x < 2) :
    let b := (s.mbxPop.setFuseData (slice c.args 4 48)).burn (beAt c.args 0 4 % 8) (bits (beAt c.args 0 4) 4 3)
    let v := b.2.mbxFuseEnded b.1
    exec (.mbxFuse x) s = .next (v.mbxAnswer c 0 0 (be 4 (v.word 0xE0010 0).toNat)) :=
  execMbxFuse_of_good head enough few free low high (if_neg (by omega))

end

/-! ### Relayed messages and updates -/

theorem relay_good {c : MbxCmd} (enough : 2 ≤ c.args.length) (lane : beAt c.args 0 1 ≤ 1) : ¬(c.args.length < 2 ∨ 1 < beAt c.args 0 1) := by omega

section
variable {c : MbxCmd} (head : s.mbxHead 0x30 = some c)
include head

theorem execDldRelay_of_bad (bad : c.args.length < 2 ∨ 1 < beAt c.args 0 1) : exec .dldRelay s = .next (s.mbxPop.mbxAnswer c 1 0 []) := by
  change execDldRelay s = _
  unfold execDldRelay
  rw [head]
  exact if_pos bad

section
variable (enough : 2 ≤ c.args.length) (lane : beAt c.args 0 1 ≤ 1)
include enough lane

theorem execDldRelay_of_free (free : s.mbxPop.mgt.relay = none) :
    let l : Lane := if beAt c.args 0 1 = 0 then .e else .w
    exec .dldRelay s = .next ((s.mbxPop.onMgt fun m => { m with relay := some (c, l) }).dldLane l (c.args.drop 1)) := by
  intro l
  change execDldRelay s = _
  unfold execDldRelay
  rw [head]
  dsimp only
  rw [if_neg (relay_good enough lane), free]

theorem execDldRelay_of_waiting {old : MbxCmd} {k : Lane} (waits : s.mbxPop.mgt.relay = some (old, k)) :
    let l : Lane := if beAt c.args 0 1 = 0 then .e else .w
    exec .dldRelay s = .next (((s.mbxPop.mbxAnswer old 2 0 []).onMgt fun m => { m with relay := some (c, l) }).dldLane l (c.args.drop 1)) := by
  intro l
  change execDldRelay s = _
  unfold execDldRelay
  rw [head]
  dsimp only
  rw [if_neg (relay_good enough lane), waits]

end
end

theorem execAutoconf_of_settled (on : s.flag F.MGT_UPD_CFG_AUTOCONF = true) (pending : s.updPending = true) (settled : s.settled = true) :
    exec .autoconf s = .next s.confirmUpdate :=
  congrArg Host.Outcome.next (if_pos (by rw [on, pending, settled]; rfl))

theorem State.settled_eq_false (young : s.img.loaded = false ∨ s.admitted = false ∨ s.up < s.rng.admAt + 600000000000) : s.settled = false := by
  unfold State.settled
  rcases young with absent | out | early
  · rw [absent, Bool.false_and, Bool.false_and, Bool.false_and]
  · rw [out, Bool.and_false, Bool.false_and, Bool.false_and]
  · have before := Nat.lt_of_lt_of_le early (Nat.add_le_add_right (Nat.le_max_right s.img.loadedAt s.rng.admAt) _)
    rw [decide_eq_false (Nat.not_le_of_lt before), Bool.and_false, Bool.false_and]

theorem execAutoconf_of_other (other : s.flag F.MGT_UPD_CFG_AUTOCONF = false ∨ s.updPending = false ∨ s.settled = false) :
    exec .autoconf s = .next s := by
  refine congrArg Host.Outcome.next (if_neg ?_)
  rcases other with off | idle | young
  · rw [off, Bool.false_and, Bool.false_and]
    decide
  · rw [idle, Bool.and_false, Bool.false_and]
    decide
  · rw [young, Bool.and_false]
    decide

theorem execConfTimeout_of_idle (idle : s.mgt.updAt = none ∨ s.updPending = false) : exec .confTimeout s = .next s := by
  change execConfTimeout s = _
  unfold execConfTimeout
  split
  · rfl
  · rename_i t found
    refine congrArg Host.Outcome.next (if_neg fun due => ?_)
    rcases idle with none_ | idle
    · exact absurd (none_.symm.trans found) (Option.some_ne_none t).symm
    · exact ne_true_of_eq_false idle due.1

theorem execConfTimeout_of_due {t : Nat} (since : s.mgt.updAt = some t) (pending : s.updPending = true)
    (due : t + s.get F.MGT_UPD_CFG_CONFTMO * 1000000000 ≤ s.up) : exec .confTimeout s = .next (s.fallBack 1) := by
  change execConfTimeout s = _
  unfold execConfTimeout
  rw [since]
  exact congrArg Host.Outcome.next (if_pos ⟨pending, due⟩)

/-! ### Doldrums (R519 to R521) -/

section
variable {src : DldSrc} {p : List Byte} {x : DldSess}

theorem execHelloSend_of_loaded (off : s.doldrums = false) : exec .helloSend s = .next s := if_pos (by rw [off]; rfl)

theorem execHelloSend_of_early {t : Nat} (last : s.mgt.helloAt = some t) (early : s.up < t + 1000000000) : exec .helloSend s = .next s := by
  change execHelloSend s = _
  unfold execHelloSend
  rw [last]
  exact if_pos (Bool.or_eq_true_iff.mpr (.inr (decide_eq_true early)))

theorem execHelloSend_of_due (on : s.doldrums = true) (due : ∀ t, s.mgt.helloAt = some t → t + 1000000000 ≤ s.up) :
    let u := s.onMgt fun m => { m with helloAt := some s.up }
    exec .helloSend s = .next (((((u.dldHost .h0 u.hello).dldHost .h1 u.hello).dldLane .e u.hello).dldLane .w u.hello)) := by
  intro u
  change execHelloSend s = _
  unfold execHelloSend
  refine if_neg ?_
  rw [on]
  split
  · decide
  · rename_i t last
    rw [decide_eq_false (Nat.not_lt_of_le (due t last))]
    decide

/-- Another source than that of the open session asks. -/
theorem State.sessOf_of_none (none_ : s.mgt.sess = none) : s.sessOf src = (4, none) := by
  unfold State.sessOf
  rw [none_]

theorem State.sessOf_of_other (found : s.mgt.sess = some x) (other : x.src ≠ src) : s.sessOf src = (2, none) := by
  unfold State.sessOf
  rw [found]
  exact if_neg other

theorem State.sessOf_of_owner (found : s.mgt.sess = some x) (own : x.src = src) : s.sessOf src = (0, some x) := by
  unfold State.sessOf
  rw [found]
  exact if_pos own

theorem execDldData_of_refused {r : Nat} (on : s.doldrums = true) (refused : s.sessOf src = (r, none)) : exec (.dldData src p) s = .next (s.dldStatus src r 0) := by
  refine congrArg Host.Outcome.next ((if_pos on).trans ?_)
  unfold State.dldData
  rw [refused]

theorem execDldEnd_of_refused {r : Nat} (on : s.doldrums = true) (refused : s.sessOf src = (r, none)) : exec (.dldEnd src) s = .next (s.dldStatus src r 0) := by
  refine congrArg Host.Outcome.next ((if_pos on).trans ?_)
  unfold State.dldEnd
  rw [refused]

theorem execDldOpen_of_other (on : s.doldrums = true) (found : s.mgt.sess = some x) (other : x.src ≠ src) :
    exec (.dldOpen src p) s = .next (s.dldStatus src 2 0) := by
  refine congrArg Host.Outcome.next ((if_pos on).trans ?_)
  unfold State.dldOpen
  rw [found]
  exact if_pos (decide_eq_true other)

theorem execDldOpen_of_free (on : s.doldrums = true) (free : s.mgt.sess = none ∨ s.mgt.sess = some x ∧ x.src = src) :
    let size := if beAt p 2 1 = 0 then 0x100000 else 0x280000
    exec (.dldOpen src p) s = .next (if 1 < beAt p 2 1 ∨ 1 < beAt p 3 1 ∨ beAt p 4 4 = 0 ∨ size < beAt p 4 4 then s.dldStatus src 1 0
      else (({ s with nvm := Mem.clear s.nvm (if beAt p 2 1 = 0 then fwAt (beAt p 3 1) else slotAt (beAt p 3 1)) size } : State).setSess
        (some { src := src, kind := beAt p 2 1, slot := beAt p 3 1, total := beAt p 4 4, last := s.up })).dldStatus src 0 0) := by
  intro size
  refine congrArg Host.Outcome.next ((if_pos on).trans ?_)
  unfold State.dldOpen
  rcases free with none_ | ⟨found, own⟩
  · rw [none_]
    exact if_neg Bool.false_ne_true
  · rw [found]
    exact if_neg (show ¬decide (x.src ≠ src) = true from fun other => of_decide_eq_true other own)

section
variable (on : s.doldrums = true) (found : s.mgt.sess = some x) (own : x.src = src)
include on found own

theorem execDldData_of_owner :
    let u := s.sessTouch x
    exec (.dldData src p) s = .next (if (p.drop 8).isEmpty ∨ 1016 < (p.drop 8).length ∨ x.total < beAt p 4 4 + (p.drop 8).length then u.dldStatus src 1 0
      else ({ u with nvm := Mem.writeN u.nvm ((if x.kind = 0 then fwAt x.slot else slotAt x.slot) + beAt p 4 4) (p.drop 8) } : State).dldStatus src 0 0) := by
  intro u
  refine congrArg Host.Outcome.next ((if_pos on).trans ?_)
  unfold State.dldData
  rw [State.sessOf_of_owner found own]

theorem execDldEnd_of_owner :
    let u := s.sessTouch x
    let r := if x.kind = 0 then u.fwCheck x.slot else (u.checkBase x.slot false).1
    let v := (u.dldStatus src 0 0).setSess none
    let w := if x.kind = 0 then v.setBoot fun b => { b with fwSlot := x.slot, fwPend := true, att := 0 }
      else v.setBoot fun b => { b with imgSlot := x.slot, imgPend := true, att := 0 }
    exec (.dldEnd src) s = .next (if r ≠ 0 then u.dldStatus src 3 r else ((w.onMgt fun m => { m with updAt := some w.up }).showUpdates).requestReset 2 4) := by
  intro u r v w
  refine congrArg Host.Outcome.next ((if_pos on).trans ?_)
  unfold State.dldEnd
  rw [State.sessOf_of_owner found own]

end

theorem execDldStatus_of_none (none_ : s.mgt.relay = none) : exec (.dldStatus src p) s = .next s := by
  refine congrArg Host.Outcome.next ?_
  unfold State.dldReply
  rw [none_]

theorem execDldStatus_of_relay {c : MbxCmd} {l : Lane} (relay : s.mgt.relay = some (c, l)) (status : beAt p 0 1 = 0x54) :
    exec (.dldStatus (.lane l) p) s = .next ((s.onMgt fun m => { m with relay := none }).mbxAnswer c 0 0 p) := by
  refine congrArg Host.Outcome.next ?_
  unfold State.dldReply
  rw [relay]
  exact if_pos ⟨rfl, status⟩

theorem execDldSessionTimeout_of_due (found : s.mgt.sess = some x) (due : x.last + 10000000000 ≤ s.up) : exec .dldSessionTimeout s = .next (s.setSess none) := by
  change execDldSessionTimeout s = _
  unfold execDldSessionTimeout
  rw [found]
  exact congrArg Host.Outcome.next (if_pos due)

theorem execDldSessionTimeout_of_rest (rests : s.mgt.sess = none ∨ s.mgt.sess = some x ∧ s.up < x.last + 10000000000) :
    exec .dldSessionTimeout s = .next s := by
  change execDldSessionTimeout s = _
  unfold execDldSessionTimeout
  rcases rests with none_ | ⟨found, early⟩
  · rw [none_]
  · rw [found]
    exact congrArg Host.Outcome.next (if_neg (Nat.not_le_of_lt early))

end

end

/-- Settles O59: a command by the checks at its arrival and by its own conditions at the head of the queue, an update by its time, and a
doldrums message by the session that is open. -/
theorem mailboxUpdatesAndDoldrums : Obligations.MailboxUpdatesAndDoldrums := by
  unfold Obligations.MailboxUpdatesAndDoldrums
  refine ⟨fun s f => ?arrival, fun s c => ?commands, fun s src p x l f => ?doldrums⟩
  case arrival =>
    refine ⟨execMbox_of_bad, fun mine kind whole => ⟨fun st r refused => execMbox_of_refused mine kind whole refused,
      fun allowed full => (execMbox_of_allowed mine kind whole allowed).trans (if_pos full), fun allowed room => ?_⟩⟩
    have queued := (execMbox_of_allowed mine kind whole allowed).trans (if_neg (Nat.not_le_of_lt room))
    exact ⟨fun known => queued.trans (if_pos known), fun unknown => queued.trans (if_neg (ne_true_of_eq_false unknown))⟩
  case commands =>
    refine ⟨fun none_ => congrArg Host.Outcome.next (State.mbxRun_of_none none_), fun none_ => congrArg Host.Outcome.next (State.mbxRun_of_none none_),
      execFwActivate_of_none, fun none_ _ => congrArg Host.Outcome.next (State.mbxRun_of_none none_), execSnsRead_of_bad, fun i head two at_ known => ?_,
      fun head two beyond => ?_, fun head => congrArg Host.Outcome.next (State.mbxRun_of_head head rfl), execFwWrite_of_closed, execFwWrite_of_open,
      fun head => congrArg Host.Outcome.next (State.mbxRun_of_head head rfl), fun head raw => (execFwActivate_of_head head).trans (if_pos (by rw [raw]; rfl)),
      fun head verified alone => (execFwActivate_of_verified head verified).trans (if_neg (ne_true_of_eq_false alone)),
      fun head verified paired => (execFwActivate_of_verified head verified).trans (if_pos paired), execConfirm_of_pending, execConfirm_of_idle,
      fun _ => execMbxFuse_of_bad, execDldRelay_of_bad, fun _ head enough few busy low high => execMbxFuse_of_busy head enough few low high busy,
      fun _ head enough few free low high => ⟨execMbxFuse_of_fault head enough few free low high, execMbxFuse_of_burn head enough few free low high⟩,
      fun head enough lane => ⟨execDldRelay_of_free head enough lane, fun _ _ => execDldRelay_of_waiting head enough lane⟩,
      execAutoconf_of_settled, ?_, execConfTimeout_of_idle, fun _ => execConfTimeout_of_due⟩
    · refine (execSnsRead_of_good head two).trans ?_
      rw [at_, if_pos known]
    · refine (execSnsRead_of_good head two).trans ?_
      rw [if_neg (Nat.not_lt_of_le beyond)]
    · rintro (off | idle | young)
      · exact execAutoconf_of_other (.inl off)
      · exact execAutoconf_of_other (.inr (.inl idle))
      · exact execAutoconf_of_other (.inr (.inr (State.settled_eq_false young)))
  case doldrums =>
    intro size at_ off data
    refine ⟨fun loaded => ?_, fun _ => execHelloSend_of_early, execHelloSend_of_due, fun found on other => ?_, fun none_ on => ?_, fun on free => ?_,
      fun found on own => ?_, execDldStatus_of_none, fun _ => execDldStatus_of_relay, execDldSessionTimeout_of_due, execDldSessionTimeout_of_rest, rfl, rfl⟩
    · have closed := ne_true_of_eq_false loaded
      exact ⟨congrArg Host.Outcome.next (if_neg closed), congrArg Host.Outcome.next (if_neg closed), congrArg Host.Outcome.next (if_neg closed),
        execHelloSend_of_loaded loaded⟩
    · have refused := State.sessOf_of_other found other
      exact ⟨execDldOpen_of_other on found other, execDldData_of_refused on refused, execDldEnd_of_refused on refused⟩
    · have refused := State.sessOf_of_none (src := src) none_
      exact ⟨execDldData_of_refused on refused, execDldEnd_of_refused on refused⟩
    · have opens := execDldOpen_of_free (p := p) on free
      refine ⟨fun bad => opens.trans (congrArg Host.Outcome.next (if_pos bad)), fun kind slot some_ fits => opens.trans (congrArg Host.Outcome.next (if_neg ?_))⟩
      rintro (otherKind | otherSlot | none_ | large)
      · exact Nat.not_le_of_lt otherKind kind
      · exact Nat.not_le_of_lt otherSlot slot
      · exact some_ none_
      · exact Nat.not_le_of_lt large fits
    · have writes := execDldData_of_owner (p := p) on found own
      refine ⟨fun bad => writes.trans (congrArg Host.Outcome.next (if_pos ?_)), fun some_ short fits => writes.trans (congrArg Host.Outcome.next (if_neg ?_)),
        execDldEnd_of_owner on found own⟩
      · exact bad.imp_left List.isEmpty_iff.mpr
      · rintro (none_ | long | beyond)
        · exact some_ (List.isEmpty_iff.mp none_)
        · exact Nat.not_le_of_lt long short
        · exact Nat.not_le_of_lt beyond fits

end Sys2Proof.Machine

/-! PROOFS. Notices, sensors, event log and self-tests. -/

namespace Sys2Proof.Machine

-- One theorem at a time, as in the tests: a theorem that waits for the kernel holds a stack of its own.
set_option Elab.async false

section
variable {s : State}

/-! ### Notices and alarms (R504) -/

section
variable {f : Frame} (mine : mgtRefused s.hubNum f = false)
include mine

theorem execAlmn_of_good : exec (.almn f) s = .next ((s.take f).toSink (beAt f.pay 2 1) f) := if_neg (ne_true_of_eq_false mine)

theorem execEvtn_of_good : exec (.evtn f) s = .next ((s.take f).toSink (beAt f.pay 2 1) f) := if_neg (ne_true_of_eq_false mine)

end

/-- The state with the alarm FIFO in the event log. -/
def State.alarmsLogged (s : State) : State :=
  s.rfx.alarms.foldl (fun (s : State) a => s.note 0x31 12 (a.map fun w => w.toNat)) (s.onRfx fun x => { x with alarms := [] })

theorem execAlarmDrain_of_sink {hub k : Nat} (sink : s.sinkOf 1 = (hub, k)) : exec .alarmDrain s =
    if hub = s.alarmsLogged.hubNum ∧ k = 0 then .next s.alarmsLogged
    else .next ((List.range (cdiv s.rfx.alarms.length 32)).foldl (fun (t : State) i =>
      t.notice hub ([3, 0] ++ be 1 k ++ be 1 ((s.rfx.alarms.drop (32 * i)).take 32).length
        ++ ((s.rfx.alarms.drop (32 * i)).take 32).flatMap fun a => a.flatMap fun w => be 4 w.toNat)) s.alarmsLogged) := by
  change execAlarmDrain s = _
  unfold execAlarmDrain
  rw [sink]
  rfl

/-- Up to 32 alarms leave in one notice. -/
theorem execAlarmDrain_of_few {hub k : Nat} (sink : s.sinkOf 1 = (hub, k)) (away : hub ≠ s.alarmsLogged.hubNum ∨ k ≠ 0) (some_ : s.rfx.alarms ≠ [])
    (few : s.rfx.alarms.length ≤ 32) : exec .alarmDrain s = .next (s.alarmsLogged.notice hub ([3, 0] ++ be 1 k ++ be 1 s.rfx.alarms.length
      ++ s.rfx.alarms.flatMap fun a => a.flatMap fun w => be 4 w.toNat)) := by
  have one : cdiv s.rfx.alarms.length 32 = 1 := by
    have := List.length_pos_iff.mpr some_
    unfold cdiv
    omega
  have other : ¬(hub = s.alarmsLogged.hubNum ∧ k = 0) := fun here => away.elim (· here.1) (· here.2)
  rw [execAlarmDrain_of_sink sink, if_neg other, one, List.range_one, List.foldl_cons, List.foldl_nil, Nat.mul_zero, List.drop_zero, List.take_of_length_le few]

/-! ### The registers of the logs -/

section
variable {f : Frame} {x : RegRow} {key w : Nat}

theorem writeMgt_evl (name : x.off = F.MGT_EVL_STAT_CLEAR.off) : writeMgt f x key w s = evlWrite w s := by
  unfold writeMgt
  rw [name]
  rfl

theorem vlogWrite_of_clear (clear : bit w 8 = true) : vlogWrite w s =
    ({}, (if bit w 7 then s.set F.MGT_VLOG_STAT_OVF 0 0 else s).onHub fun h => { h with vlog := [], vseq := 0 }) :=
  congrArg (Prod.mk ({} : State.Res)) (if_pos clear)

theorem writeMgt_vlog (name : x.off = F.MGT_VLOG_STAT_CLEAR.off) : writeMgt f x key w s = vlogWrite w s := by
  unfold writeMgt
  rw [name]
  rfl

theorem plogWrite_of_clear (clear : bit w 8 = true) : plogWrite w s =
    ({}, (if bit w 7 then s.set F.MGT_PLOG_STAT_OVF 0 0 else s).onHub fun h => { h with plog := [], pseq := 0 }) :=
  congrArg (Prod.mk ({} : State.Res)) (if_pos clear)

theorem writeMgt_plog (name : x.off = F.MGT_PLOG_STAT_CLEAR.off) : writeMgt f x key w s = plogWrite w s := by
  unfold writeMgt
  rw [name]
  rfl

theorem writeMgt_test (name : x.off = F.MGT_ST_CTL_GO.off) : writeMgt f x key w s = stWrite w s := by
  unfold writeMgt
  rw [name]
  rfl

theorem execEvlClear_of_clear (wr : s.WritesReg f F.MGT_EVL_STAT_CLEAR 0 x) (clear : bit (wordOf f) 13 = true) :
    exec (.evlClear f) s = .next ((s.onMgt fun m => { m with evlCount := 0 }).settle 5 f {}) := by
  refine wr.ends (by rw [wr.at_first (by decide), clear]; rfl) ((writeEffect_mgt wr.name).trans ?_)
  rw [writeMgt_evl wr.name]
  unfold evlWrite
  rw [if_pos clear]

theorem execVlogClear_of_clear (wr : s.WritesReg f F.MGT_VLOG_STAT_CLEAR 0 x) (clear : bit (wordOf f) 8 = true) : exec (.vlogClear f) s =
    .next (((if bit (wordOf f) 7 then s.set F.MGT_VLOG_STAT_OVF 0 0 else s).onHub fun h => { h with vlog := [], vseq := 0 }).settle 5 f {}) := by
  refine wr.ends (by rw [wr.at_first (by decide), clear]; rfl) ((writeEffect_mgt wr.name).trans ?_)
  rw [writeMgt_vlog wr.name, vlogWrite_of_clear clear]

theorem execPlogClear_of_clear (wr : s.WritesReg f F.MGT_PLOG_STAT_CLEAR 0 x) (clear : bit (wordOf f) 8 = true) : exec (.plogClear f) s =
    .next (((if bit (wordOf f) 7 then s.set F.MGT_PLOG_STAT_OVF 0 0 else s).onHub fun h => { h with plog := [], pseq := 0 }).settle 5 f {}) := by
  refine wr.ends (by rw [wr.at_first (by decide), clear]; rfl) ((writeEffect_mgt wr.name).trans ?_)
  rw [writeMgt_plog wr.name, plogWrite_of_clear clear]

end

/-! ### Sensors (R506 to R508) -/

/-- The level that a sensor's value has between the thresholds in force. -/
def State.newLevel (s : State) (i v : Nat) : Nat :=
  sensorLevel (s.get F.MGT_SNS_VAL_LEVEL i) (sgn 16 v) (sgn 16 (s.get F.MGT_SNS_THRLO_T0 i)) (sgn 16 (s.get F.MGT_SNS_THRLO_T1 i))
    (sgn 16 (s.get F.MGT_SNS_THRHI_T0 i)) (sgn 16 (s.get F.MGT_SNS_THRHI_T1 i))

/-- The state that shows a sensor's value and its level. -/
def State.measured (s : State) (i v : Nat) : State :=
  ((s.set F.MGT_SNS_VAL_VALUE i v).set F.MGT_SNS_VAL_VALID i 1).set F.MGT_SNS_VAL_LEVEL i (s.newLevel i v)

section
variable {i v raw : Nat} (small : i < 22)
include small

/-- A sensor that no register of the power-entry controller shows as well. -/
theorem execSensorUpdate_of_small (valid : Bool) : exec (.sensorUpdate i v raw valid) s =
    if !valid then .next ((s.set F.MGT_SNS_VAL_VALID i 0).set F.MGT_SNS_VAL_LEVEL i 0)
    else if s.newLevel i v = s.get F.MGT_SNS_VAL_LEVEL i then .next (s.measured i v)
    else if 3 ≤ s.newLevel i v then .next ((s.measured i v).event 0x20 18 3 [i, s.newLevel i v, v % 65536])
    else if 1 ≤ s.newLevel i v then .next ((s.measured i v).event 0x20 18 2 [i, s.newLevel i v, v % 65536])
    else .next ((s.measured i v).note 0x20 18 [i, s.newLevel i v, v % 65536]) := by
  have index : i % 256 = i := Nat.mod_eq_of_lt (by omega)
  have alone : i ≠ 22 ∧ i ≠ 23 ∧ i ≠ 24 ∧ i ≠ 25 := by omega
  obtain ⟨vin, vout, vsns, vhold⟩ := alone
  change execSensorUpdate i v raw valid s = _
  unfold execSensorUpdate
  dsimp only
  rw [index, if_neg vin, if_neg vout, if_neg vsns, if_neg vhold]
  rfl

theorem execSensorUpdate_of_invalid : exec (.sensorUpdate i v raw false) s = .next ((s.set F.MGT_SNS_VAL_VALID i 0).set F.MGT_SNS_VAL_LEVEL i 0) :=
  (execSensorUpdate_of_small small false).trans (if_pos rfl)

theorem execSensorUpdate_of_same (same : s.newLevel i v = s.get F.MGT_SNS_VAL_LEVEL i) : exec (.sensorUpdate i v raw true) s = .next (s.measured i v) :=
  (execSensorUpdate_of_small small true).trans ((if_neg (by decide)).trans (if_pos same))

theorem execSensorUpdate_of_changed (changed : s.newLevel i v ≠ s.get F.MGT_SNS_VAL_LEVEL i) : exec (.sensorUpdate i v raw true) s =
    if 3 ≤ s.newLevel i v then .next ((s.measured i v).event 0x20 18 3 [i, s.newLevel i v, v % 65536])
    else if 1 ≤ s.newLevel i v then .next ((s.measured i v).event 0x20 18 2 [i, s.newLevel i v, v % 65536])
    else .next ((s.measured i v).note 0x20 18 [i, s.newLevel i v, v % 65536]) :=
  (execSensorUpdate_of_small small true).trans ((if_neg (by decide)).trans (if_neg changed))

end

section
variable {cur : Nat} {v al wl wh ah : Int}

theorem sensorLevel_le : sensorLevel cur v al wl wh ah ≤ 4 := by
  unfold sensorLevel
  split_ifs <;> decide

theorem sensorLevel_alarm_high (above : ah < v) : sensorLevel cur v al wl wh ah = 4 := if_pos (.inl above)

variable (low : al ≤ wl) (high : wh ≤ ah)
include low high

theorem sensorLevel_alarm_low (mid : wl < wh) (below : v < al) (was : cur ≠ 4) : sensorLevel cur v al wl wh ah = 3 :=
  (if_neg (by omega)).trans (if_pos (.inl below))

/-- A value 16 units within the warning thresholds ends every level. -/
theorem sensorLevel_within (above : wl + 16 ≤ v) (below : v ≤ wh - 16) : sensorLevel cur v al wl wh ah = 0 :=
  (if_neg (by omega)).trans ((if_neg (by omega)).trans ((if_neg (by omega)).trans (if_neg (by omega))))

theorem sensorLevel_normal (was : cur = 0) (above : wl ≤ v) (below : v ≤ wh) : sensorLevel cur v al wl wh ah = 0 :=
  (if_neg (by omega)).trans ((if_neg (by omega)).trans ((if_neg (by omega)).trans (if_neg (by omega))))

end

/-! ### The event log (R509) -/

/-- The state with the oldest staged entry in the NVM area, which wraps and counts that. -/
def State.entryStored (s : State) (e : LogEntry) (rest : List LogEntry) : State :=
  let u : State := { s with nvm := Mem.writeN s.nvm (0x740000 + 32 * s.mgt.evlNext) (logBytes e) }
  if s.mgt.evlCount < 4096 then u.onMgt fun m => { m with stage := rest, evlNext := (m.evlNext + 1) % 4096, evlCount := s.mgt.evlCount + 1 }
  else (u.onMgt fun m => { m with stage := rest, evlNext := (m.evlNext + 1) % 4096, evlCount := 4096 }).bump F.MGT_EVL_STAT_WRAPS

/-- The severity of an entry. -/
def severityOf (e : LogEntry) : Nat := bits (e.getD 3 0).toNat 27 24

/-- The state with the record of an entry for the historian, which a passive twin leaves to its partner. -/
def State.entryRecorded (v : State) (e : LogEntry) : State :=
  let g (k : Nat) : Nat := (e.getD k 0).toNat
  if v.passive then v else v.record 3
    { kind := 5, src := v.hubNum, aux := severityOf e, sec := g 1 + g 2 % 65536 * 2 ^ 32, ns := g 0, index := g 3 % 65536, data := g 4 * 2 ^ 32 + g 5 }

section
variable {e : LogEntry} {rest : List LogEntry}

theorem execEventLogWrite_of_none (none_ : s.mgt.stage = []) : exec .eventLogWrite s = .next s := by
  change execEventLogWrite s = _
  unfold execEventLogWrite
  rw [none_]

theorem State.entryStored_eq (s : State) (e : LogEntry) (rest : List LogEntry) :
    let u : State := { s with nvm := Mem.writeN s.nvm (0x740000 + 32 * s.mgt.evlNext) (logBytes e) }
    let full := decide (4096 ≤ s.mgt.evlCount)
    let v := u.onMgt fun m => { m with stage := rest, evlNext := (m.evlNext + 1) % 4096, evlCount := if full then 4096 else m.evlCount + 1 }
    (if full then v.bump F.MGT_EVL_STAT_WRAPS else v) = s.entryStored e rest := by
  intro u full v
  unfold State.entryStored
  by_cases room : s.mgt.evlCount < 4096
  · have some_ : full = false := decide_eq_false (Nat.not_le_of_lt room)
    dsimp only [v]
    rw [some_, if_pos room]
    rfl
  · have none_ : full = true := decide_eq_true (Nat.le_of_not_lt room)
    dsimp only [v]
    rw [none_, if_neg room]
    rfl

theorem execEventLogWrite_of_entry (staged : s.mgt.stage = e :: rest) : exec .eventLogWrite s =
    if severityOf e < 2 then .next (s.entryStored e rest)
    else
      let w := (s.entryStored e rest).entryRecorded e
      let (hub, k) := w.sinkOf 0
      if hub = w.hubNum ∧ k = 0 then .next w else .next (w.notice hub ([4, 0] ++ be 1 k ++ [0] ++ logBytes e)) := by
  change execEventLogWrite s = _
  unfold execEventLogWrite
  rw [staged, ← s.entryStored_eq e rest]
  rfl

theorem execEventLogWrite_of_minor (staged : s.mgt.stage = e :: rest) (minor : severityOf e < 2) : exec .eventLogWrite s = .next (s.entryStored e rest) :=
  (execEventLogWrite_of_entry staged).trans (if_pos minor)

theorem execEventLogWrite_of_sink {hub k : Nat} (staged : s.mgt.stage = e :: rest) (major : 2 ≤ severityOf e)
    (sink : ((s.entryStored e rest).entryRecorded e).sinkOf 0 = (hub, k)) :
    let w := (s.entryStored e rest).entryRecorded e
    exec .eventLogWrite s = if hub = w.hubNum ∧ k = 0 then .next w else .next (w.notice hub ([4, 0] ++ be 1 k ++ [0] ++ logBytes e)) := by
  intro w
  refine (execEventLogWrite_of_entry staged).trans ((if_neg (Nat.not_lt_of_le major)).trans ?_)
  dsimp only
  rw [sink]

end

/-! ### Self-tests (R510 to R512) -/

/-- The state with the command of a test in its register. -/
def State.testAsked (s : State) (w : Nat) : State := s.setWord 0x120140 (BitVec.ofNat 32 (w % 2 ^ 14))

/-- An intrusive test may run: at a standby, in maintenance or in a lull. -/
def State.mayIntrude (u : State) : Bool := u.standby || u.flag F.MGT_STAT_MAINT || u.flag F.MGT_STAT_LULL

section
variable {w : Nat} (go : bit w 14 = true)
include go

theorem stWrite_of_busy (runs : s.runningTest ≠ none) : stWrite w s = ({ st := .busy }, s) :=
  if_pos (by rw [go, Option.isSome_iff_ne_none.mpr runs]; rfl)

variable (idle : s.runningTest = none)
include idle

theorem stWrite_of_idle : stWrite w s =
    let u := s.testAsked w
    let test := w % 16
    let arg := bits w 11 4
    if 1 ≤ test ∧ test ≤ 4 then ({}, u.startTest test arg)
    else if test ≠ 8 ∧ test ≠ 9 then ({}, u)
    else if test = 9 ∧ 4 ≤ arg then ({}, u.testResult test 3 0)
    else if u.mayIntrude then ({}, u.startTest test arg)
    else if bit w 13 then
      if 4 ≤ u.mgt.lullTests.length then ({}, u.testResult test 3 0)
      else ({}, (u.testResult test 5 0).onMgt fun m => { m with lullTests := m.lullTests ++ [(test, arg)] })
    else if bit w 12 && u.activeTwin && u.healthy then
      ({}, ((u.testResult test 0 0).requestVeer).onMgt fun m => { m with veer := some (.test test arg) })
    else ({}, u.testResult test 3 0) :=
  (if_neg (by rw [idle, go]; decide)).trans (if_neg (by rw [go]; decide))

theorem stWrite_of_mild (mild : 1 ≤ w % 16 ∧ w % 16 ≤ 4) : stWrite w s = ({}, (s.testAsked w).startTest (w % 16) (bits w 11 4)) :=
  (stWrite_of_idle go idle).trans (if_pos mild)

variable (kind : w % 16 = 8 ∨ w % 16 = 9 ∧ bits w 11 4 < 4)
include kind

theorem stWrite_of_intrusive : stWrite w s =
    let u := s.testAsked w
    if u.mayIntrude then ({}, u.startTest (w % 16) (bits w 11 4))
    else if bit w 13 then
      if 4 ≤ u.mgt.lullTests.length then ({}, u.testResult (w % 16) 3 0)
      else ({}, (u.testResult (w % 16) 5 0).onMgt fun m => { m with lullTests := m.lullTests ++ [(w % 16, bits w 11 4)] })
    else if bit w 12 && u.activeTwin && u.healthy then
      ({}, ((u.testResult (w % 16) 0 0).requestVeer).onMgt fun m => { m with veer := some (.test (w % 16) (bits w 11 4)) })
    else ({}, u.testResult (w % 16) 3 0) :=
  (stWrite_of_idle go idle).trans ((if_neg (by omega)).trans ((if_neg (by omega)).trans (if_neg (by omega))))

theorem stWrite_of_allowed (allowed : (s.testAsked w).mayIntrude = true) : stWrite w s = ({}, (s.testAsked w).startTest (w % 16) (bits w 11 4)) :=
  (stWrite_of_intrusive go idle kind).trans (if_pos allowed)

variable (forbidden : (s.testAsked w).mayIntrude = false)
include forbidden

theorem stWrite_of_waiting (waits : bit w 13 = true) (room : (s.testAsked w).mgt.lullTests.length < 4) : stWrite w s =
    ({}, ((s.testAsked w).testResult (w % 16) 5 0).onMgt fun m => { m with lullTests := m.lullTests ++ [(w % 16, bits w 11 4)] }) :=
  (stWrite_of_intrusive go idle kind).trans ((if_neg (ne_true_of_eq_false forbidden)).trans ((if_pos waits).trans (if_neg (Nat.not_le_of_lt room))))

theorem stWrite_of_forbidden (waits : bit w 13 = false) (veers : bit w 12 = false) : stWrite w s = ({}, (s.testAsked w).testResult (w % 16) 3 0) :=
  (stWrite_of_intrusive go idle kind).trans ((if_neg (ne_true_of_eq_false forbidden)).trans ((if_neg (ne_true_of_eq_false waits)).trans
    (if_neg (by rw [veers, Bool.false_and, Bool.false_and]; decide))))

end

/-- A write of MGT.ST_CTL that starts the test of its command. -/
theorem State.WritesReg.testCommand {f : Frame} {x : RegRow} {k : Nat} {a : State.Res} {t : State} (wr : s.WritesReg f F.MGT_ST_CTL_GO 0 x)
    (go : bit (wordOf f) 14 = true) (test : wordOf f % 16 = k) (does : stWrite (wordOf f) s = (a, t)) : testRow k f s = .next (t.settle 5 f a) :=
  wr.ends (by rw [wr.at_first (by decide), go, decide_eq_true test]; rfl)
    ((writeEffect_mgt wr.name).trans (by rw [writeMgt_test wr.name, does]))

section
variable {n a d : Nat}

theorem execTestComplete_of_none {pass : Bool} (none_ : s.runningTest = none) : exec (.testComplete pass d) s = .next s := by
  change execTestComplete pass d s = _
  unfold execTestComplete
  rw [none_]

theorem execTestComplete_of_running {pass : Bool} (runs : s.runningTest = some (n, a)) : exec (.testComplete pass d) s =
    let t := s.testResult n (if pass then 1 else 2) d
    let u := if pass then t.note 0x37 18 [n, a, 1, d] else t.event 0x37 18 3 [n, a, 2, d]
    .next (if n = 9 then u.testReset (State.testBlock n a) else u).nextTest := by
  change execTestComplete pass d s = _
  unfold execTestComplete
  rw [runs]

theorem execTestComplete_of_other {pass : Bool} (runs : s.runningTest = some (n, a)) (other : n ≠ 9) : exec (.testComplete pass d) s =
    let t := s.testResult n (if pass then 1 else 2) d
    .next (if pass then t.note 0x37 18 [n, a, 1, d] else t.event 0x37 18 3 [n, a, 2, d]).nextTest :=
  (execTestComplete_of_running runs).trans (congrArg (fun u => Host.Outcome.next (State.nextTest u)) (if_neg other))

theorem execLullEnd_of_rest (rests : s.flag F.MGT_STAT_LULL = false ∨ s.up < s.mgt.lullEnd) : exec .lullEnd s = .next s :=
  if_pos (rests.imp_left fun off => by rw [off]; rfl)

theorem execLullEnd_of_due (lull : s.flag F.MGT_STAT_LULL = true) (due : s.mgt.lullEnd ≤ s.up) : exec .lullEnd s =
    let t := s.set F.MGT_STAT_LULL 0 0
    match t.mgt.test with
    | some (n, a) =>
      if 8 ≤ n then .next ((((t.testResult n 4 0).note 0x37 18 [n, a, 4, 0]).testReset (State.testBlock n a)).onMgt fun m => { m with test := none })
      else .next t
    | none => .next t := by
  have ends : ¬((!s.flag F.MGT_STAT_LULL) = true ∨ s.up < s.mgt.lullEnd) := by
    rw [lull]
    rintro (off | early)
    · exact Bool.false_ne_true off
    · exact Nat.not_lt_of_le due early
  exact if_neg ends

theorem execLullEnd_of_harmless (lull : s.flag F.MGT_STAT_LULL = true) (due : s.mgt.lullEnd ≤ s.up)
    (harmless : s.mgt.test = none ∨ s.mgt.test = some (n, a) ∧ n < 8) : exec .lullEnd s = .next (s.set F.MGT_STAT_LULL 0 0) := by
  refine (execLullEnd_of_due lull due).trans ?_
  dsimp only
  rw [State.set_mgt]
  rcases harmless with none_ | ⟨runs, mild⟩
  · rw [none_]
  · rw [runs]
    exact if_neg (Nat.not_le_of_lt mild)

theorem execLullEnd_of_intrusive (lull : s.flag F.MGT_STAT_LULL = true) (due : s.mgt.lullEnd ≤ s.up) (runs : s.mgt.test = some (n, a)) (intrusive : 8 ≤ n) :
    let t := s.set F.MGT_STAT_LULL 0 0
    exec .lullEnd s = .next ((((t.testResult n 4 0).note 0x37 18 [n, a, 4, 0]).testReset (State.testBlock n a)).onMgt fun m => { m with test := none }) := by
  refine (execLullEnd_of_due lull due).trans ?_
  dsimp only
  rw [State.set_mgt, runs]
  exact if_pos intrusive

end

end

/-- Settles O60: a notice by its sink, a sensor by its level, an entry of the event log by its severity, and a test by what runs and what
it may disturb. -/
theorem sensorsLogsAndTests : Obligations.SensorsLogsAndTests := by
  unfold Obligations.SensorsLogsAndTests
  refine ⟨fun s f => ?notices, fun s i v => ?sensors, fun cur v al wl wh ah low mid high => ?levels, fun s e rest => ?log, fun s f x test arg wr => ?tests,
    fun s test arg => ?ends⟩
  case notices =>
    intro sink
    refine ⟨fun mine => ⟨fun here => ?_, fun away => ?_⟩, rfl, rfl, ⟨fun here => ?_, fun hub k => execAlarmDrain_of_few⟩, fun _ => execEvlClear_of_clear,
      fun _ => execVlogClear_of_clear, fun _ => execPlogClear_of_clear⟩
    · have stays : (s.take f).toSink sink f = s.take f := if_pos here
      exact ⟨(execAlmn_of_good mine).trans (congrArg _ stays), (execEvtn_of_good mine).trans (congrArg _ stays)⟩
    · have leaves : (s.take f).toSink sink f = (s.take f).toHost sink f.tag f := if_neg away
      exact ⟨(execAlmn_of_good mine).trans (congrArg _ leaves), (execEvtn_of_good mine).trans (congrArg _ leaves)⟩
    · exact (execAlarmDrain_of_sink here).trans (if_pos ⟨rfl, rfl⟩)
  case sensors =>
    intro g new u
    refine ⟨fun small raw => ⟨execSensorUpdate_of_invalid small, execSensorUpdate_of_same small, fun changed alarm => ?_, fun changed warn below => ?_,
      fun changed normal => ?_⟩, fun raw => ⟨rfl, rfl, rfl, rfl⟩⟩
    · exact (execSensorUpdate_of_changed small changed).trans (if_pos alarm)
    · exact (execSensorUpdate_of_changed small changed).trans ((if_neg (Nat.not_le_of_lt below)).trans (if_pos warn))
    · have zero : s.newLevel i v = 0 := normal
      exact (execSensorUpdate_of_changed small changed).trans ((if_neg (by omega)).trans (if_neg (by omega)))
  case levels =>
    exact ⟨sensorLevel_alarm_high, sensorLevel_alarm_low low high mid, sensorLevel_within low high, sensorLevel_normal low high, sensorLevel_le⟩
  case log =>
    intro u n v g sev w
    refine ⟨execEventLogWrite_of_none, execEventLogWrite_of_minor, fun staged major => ⟨fun here => ?_, fun hub k sink away => ?_⟩⟩
    · exact (execEventLogWrite_of_sink staged major here).trans (if_pos ⟨rfl, rfl⟩)
    · exact (execEventLogWrite_of_sink staged major sink).trans (if_neg fun here => away.elim (· here.1) (· here.2))
  case tests =>
    intro w u go asked kind which
    subst kind which
    refine ⟨fun runs => ?_, fun idle => ⟨?_, ?_, ?_, ?_, fun allowed => ?_, fun forbidden waits room => ?_, fun forbidden waits veers => ?_⟩⟩
    · have busy := stWrite_of_busy asked runs
      exact ⟨fun test => wr.testCommand asked test busy, fun test => wr.testCommand asked test busy, fun test => wr.testCommand asked test busy,
        fun test => wr.testCommand asked test busy, fun test => wr.testCommand asked test busy, fun test => wr.testCommand asked test busy⟩
    · exact fun test => wr.testCommand asked test (stWrite_of_mild asked idle (by omega))
    · exact fun test => wr.testCommand asked test (stWrite_of_mild asked idle (by omega))
    · exact fun test => wr.testCommand asked test (stWrite_of_mild asked idle (by omega))
    · exact fun test => wr.testCommand asked test (stWrite_of_mild asked idle (by omega))
    · exact ⟨fun test => wr.testCommand asked test (stWrite_of_allowed asked idle (.inl test) allowed),
        fun test known => wr.testCommand asked test (stWrite_of_allowed asked idle (.inr ⟨test, known⟩) allowed)⟩
    · exact ⟨fun test => wr.testCommand asked test (stWrite_of_waiting asked idle (.inl test) forbidden waits room),
        fun test known => wr.testCommand asked test (stWrite_of_waiting asked idle (.inr ⟨test, known⟩) forbidden waits room)⟩
    · exact ⟨fun test => wr.testCommand asked test (stWrite_of_forbidden asked idle (.inl test) forbidden waits veers),
        fun test known => wr.testCommand asked test (stWrite_of_forbidden asked idle (.inr ⟨test, known⟩) forbidden waits veers)⟩
  case ends =>
    exact ⟨fun none_ _ _ => execTestComplete_of_none none_, fun _ => execTestComplete_of_other, fun _ => execTestComplete_of_other,
      fun _ runs => execTestComplete_of_running runs, execLullEnd_of_rest, execLullEnd_of_harmless, execLullEnd_of_intrusive⟩

end Sys2Proof.Machine
